-- ==== Sys2Proof/Word.lean ====
section
/-! DEFINITION. The word types of the ZD60 model (spec/02 Table 2-2: every scalar object is one 64-bit slot). -/

namespace Sys2Proof

/-- A byte. -/
abbrev Byte := BitVec 8

/-- A 16-bit word. -/
abbrev Word16 := BitVec 16

/-- A 32-bit word. -/
abbrev Word32 := BitVec 32

/-- A 64-bit slot, register or address. -/
abbrev Word64 := BitVec 64

/-- An op word (spec/05, "The op word"). -/
abbrev OpWord := BitVec 128

end Sys2Proof
end

