-- ==== Sys2Proof/Syntax.lean ====
section
/-! DEFINITION. The commands of the ZD60 (spec/opcode_table.json), one constructor each, and the operands they carry. What another agent decides or finds outside (a packet, a verdict, a placement, a temperature) is an operand. -/

namespace Sys2Proof

/-- Privilege mode of a host-core access (R37). -/
inductive Mode where
  | m | s | hs | vs | vu | u
deriving DecidableEq, Repr

/-- Where an object access comes from: a host core in a mode (with the guest's VMID in VS or VU), a firmware processor, or a CXOP session by its session_id (R37, R43). -/
inductive Src where
  | host (core : Fin 12) (mode : Mode) (vmid : Nat)
  | fw (f : Fin 7)
  | cxop (sid : Nat)
deriving DecidableEq, Repr

/-- A context of R31: a window role context or one CXOP session. -/
inductive Ctx where
  | secureFw
  | manager
  | inst (m : Fin 16)
  | session (sid : Nat)
deriving DecidableEq, Repr

/-- The link a CXOP PDU uses: an Ethernet port or a CAN XL controller (R40). -/
inductive Link where
  | eth (q : Fin 12)
  | can (c : Fin 8)
deriving DecidableEq, Repr

/-- A CXOP request as it arrives: header fields of Table 2-4, payload, the frame's VLAN or SDU type, and whether MACsec or the tag verified (R40). -/
structure CxReq where
  link : Link
  vlan : Nat
  authentic : Bool
  version : Nat
  kind : Nat
  flags : Word16
  session : Nat
  seq : Nat
  payloadLen : Nat
  payload : List Byte
deriving DecidableEq, Repr

/-- A queue of a core controller (Table 5-1); `ctl` is the controller itself. -/
inductive Queue where
  | ctl | slab | readout | mica | dma | pebble
deriving DecidableEq, Repr

/-- One stream segment that a placement puts on a core: op words at a device address (R194, R246). -/
structure Seg where
  core : Fin 16
  start : Nat
  len : Nat
deriving DecidableEq, Repr

/-- One lode map record (Table 8-8). -/
structure LodeRec where
  engine : Nat
  kSplit : Nat
  coresA : Word16
  coresB : Word16
  groupSize : Nat
  firstGroup : Nat
  residence : Nat
  stack : Nat
  prefetch : Nat
  flags : Nat
  outAddr : Nat
deriving DecidableEq, Repr

/-- Where the Placer stages one plan output: binding, staged address, bytes, tag, and the op that produces it (R219, R222). -/
structure StageOut where
  binding : Nat
  addr : Nat
  len : Nat
  tag : Nat
  core : Fin 16
  opAddr : Nat
deriving DecidableEq, Repr

/-- What the Placer decides for one plan (R194): the segments, the lode map records, where the map lies, the groups and the resources taken, and the stream bytes it writes. -/
structure Placement where
  segs : List Seg
  recs : List LodeRec
  lodeAddr : Nat
  groups : Nat
  groupSize : Nat
  stackBytes : Nat
  cmemBytes : Nat
  estNs : Nat
  outs : List StageOut
  writes : List (Nat × List Byte)
deriving DecidableEq, Repr

/-- The addresses that are carved for an instance (R237, R220, R168). -/
structure Carve where
  stackBase : Nat
  saveBase : Nat
  specBase : Nat
  ptBase : Nat
  lodeDir : Nat
deriving DecidableEq, Repr

/-- What a read of a memory unit found (R267, R268). -/
inductive UnitErr where
  | clean
  | corrected
  | uncorrectable
deriving DecidableEq, Repr

/-- One request to stacked memory (R273-R280): its master, label class, device address, direction, bytes, world, what the code found, whether it was served after its deadline, and whether a burst window passed without its share. -/
structure StackReq where
  master : Fin 32
  cls : Fin 8
  deadline : Word16
  addr : Nat
  write : Bool
  len : Nat
  data : List Byte
  secure : Bool
  err : UnitErr
  late : Bool
  starved : Bool
deriving DecidableEq, Repr

/-- A CSI-2 long packet at the decoder (R287, R290). -/
structure CsiPacket where
  vc : Nat
  dt : Nat
  bytes : List Byte
  hdrCorrected : Bool
  hdrBad : Bool
  crcBad : Bool
deriving DecidableEq, Repr

/-- How a render pass ends (R298, R299): its status, bin-buffer use, and the tiles it resolved. -/
structure PassResult where
  status : Word16
  binUsed : Nat
  tiles : List (Nat × List Byte)
deriving DecidableEq, Repr

/-- An Ethernet frame at a port: addresses, VLAN tag, type, payload, length with FCS, and the verdicts of FCS, MACsec and Qci (R322-R326). -/
structure EthFrame where
  dst : BitVec 48
  src : BitVec 48
  tci : Option Word16
  etype : Word16
  payload : List Byte
  len : Nat
  fcsOk : Bool
  secured : Bool
  secOk : Bool
  qciPass : Bool
deriving DecidableEq, Repr

/-- A CAN frame at a controller (R338, R339). -/
structure CanFrame where
  xl : Bool
  fd : Bool
  ext : Bool
  id : BitVec 29
  sdu : Byte
  vcid : Byte
  af : Word32
  data : List Byte
deriving DecidableEq, Repr

/-- A wake source (R343, R434). -/
inductive WakeSrc where
  | eth (q : Fin 8)
  | t1s (i : Fin 2)
  | can (c : Fin 8)
  | pin
deriving DecidableEq, Repr

/-- What takes the device out of Idle (R427). -/
inductive IdleWake where
  | irq (h : Fin 12)
  | inbound
  | cadence (e : Fin 1024)
deriving DecidableEq, Repr

/-- What the far end of a Twimi link says at training step 3 (Table 14-3). -/
inductive FarEnd where
  | silent
  | answer (dev link product letter : Nat)
deriving DecidableEq, Repr

/-- Why a firmware processor restarts, or that its restart ends (R388, R389). -/
inductive RestartPhase where
  | kernelFault
  | watchdog
  | threeFaults
  | ends
deriving DecidableEq, Repr

/-- A self-test chunk with its verdict (R406): diagnostic 6 or 7, the core it needs, its test time in ns, pass or fail. -/
structure Chunk where
  diag : Nat
  core : Fin 16
  testNs : Nat
  pass : Bool
deriving DecidableEq, Repr

/-- What a start-up or an exit to On meets (R420, R429, R431): pins, the PUF's verdict, the identity public key, the self-test and repair results, the comparator test, canary slack, stack verification, and the raw counter at steps 3, 9, 10, 12 and 14 of Table 17-1. -/
structure StartEnv where
  svcBoot : Bool
  devid : BitVec 2
  identityOk : Bool
  identityPub : List Byte
  withheld : Word16
  repair : List Byte
  cmpFail : Option (Nat × Nat × Fin 2)
  slack : List Nat
  stamps : List Word64
deriving DecidableEq, Repr

/-- Junction readings of the four clusters in °C, FP32 (R437, R438). -/
structure Temps where
  cl : List Word32
deriving DecidableEq, Repr

/-- One line at a display pipe: its number, the first pixel of each memory layer whose data was not there when due, the fallback layer's pixels, and its edge crossings and items on the line (R312, R314, R316). -/
structure ScanLine where
  y : Nat
  missing : List (Option Nat)
  fb : List Word32
  edges : Nat
  items : Nat
deriving DecidableEq, Repr

/-- The commands, in the order of spec/opcode_table.json. An op-word command carries the core that dispatches it and bits [119:0] of the op word; its opcode byte is the command's own (Table 5-3). -/
inductive Instr where
  /-- WINDOW_WRITE (R463). A write of an object with no behaviour of its own, through the object window or a CXOP WRITE item; the object is checked in order and then written, staged or refused. -/
  | windowWrite (src : Src) (addr size : Nat) (v : Word64)
  /-- COMMIT_WRITE (R32). A write to 0x1018.01 commits the context's staging set, at once or at a stated network time. -/
  | commitWrite (src : Src) (v : Word64)
  /-- COMMIT_APPLY (R32). A timed commit reaches its stated time, and its staging set is validated and applied whole or failed with 0x0009. -/
  | commitApply (ctx : Ctx)
  /-- XFER_COPY (R465). xfer_command 0x01 starts a copy of the named DOMAIN into the context's buffer. -/
  | xferCopy (src : Src)
  /-- XFER_LOAD (R465). xfer_command 0x02 starts a load of the named DOMAIN from the context's buffer. -/
  | xferLoad (src : Src)
  /-- XFER_END (R465). A running transfer ends; xfer_status shows done or failed, and a loaded DOMAIN is staged, applied or acted on. -/
  | xferEnd (ctx : Ctx)
  /-- STORE (R51). Writing 0x6576_6173 to 0x1010.01 snapshots the persistent objects and starts a configuration-store write. -/
  | store (src : Src) (v : Word64)
  /-- STORE_WRITE_END (R51). A store write ends, done or failed; store_status and device_events bit 0 are updated. -/
  | storeWriteEnd (flashOk : Bool)
  /-- CONFIG_IMAGE_LOAD (R51). An off-device image written to config_image is verified, applied as one commit and stored. -/
  | configImageLoad (src : Src) (image : List Byte)
  /-- READ (R467). A CXOP READ request is answered with the values of its references, as one snapshot. -/
  | read (r : CxReq)
  /-- WRITE (R41). A CXOP WRITE request applies or stages its items one after another. -/
  | write (r : CxReq)
  /-- READ_BLOCK (R29). A CXOP READ_BLOCK request returns part of a DOMAIN's contents. -/
  | readBlock (r : CxReq)
  /-- WRITE_BLOCK (R29). A CXOP WRITE_BLOCK segment adds to a DOMAIN transfer; the DOMAIN takes its value at the last segment. -/
  | writeBlock (r : CxReq)
  /-- COMMIT (R41). A CXOP COMMIT applies or schedules the session's staging set. -/
  | commit (r : CxReq)
  /-- SUBSCRIBE (R45). A CXOP SUBSCRIBE binds or cancels a subscription to a publish cadence entry. -/
  | subscribe (r : CxReq)
  /-- OPEN (R43). A CXOP OPEN allocates a session and answers with the device's nonce, key and signature. -/
  | open_ (r : CxReq)
  /-- PROVE (R43). A CXOP PROVE is verified against the role key; the session opens or is freed. -/
  | prove (r : CxReq)
  /-- CLOSE (R44). A CXOP CLOSE ends the session and discards its staging set, timed commit and subscriptions. -/
  | close (r : CxReq)
  /-- OPEN_PROVE_TIMEOUT (R43). An OPEN not proved within 1 s frees its session_id and counts an authentication failure. -/
  | openProveTimeout (sid : Nat)
  /-- SESSION_IDLE_TIMEOUT (R44). A session idle for longer than session_idle_timeout closes. -/
  | sessionIdleTimeout (sid : Nat)
  /-- SERVO_UPDATE (R57). The gPTP servo hands the timebase a phase error and a frequency estimate, which are applied as slew, step or unlock. -/
  | servoUpdate (d : Fin 2) (delta rate : Int)
  /-- DOMAIN_SLEW_END (R57). A domain's slew completes once the phase error has been applied in full. -/
  | domainSlewEnd (d : Fin 2)
  /-- GRANDMASTER_LOST (R58). A locked domain loses its grandmaster and enters holdover. -/
  | grandmasterLost (d : Fin 2)
  /-- GRANDMASTER_RESELECTED (R58). Best master selection in holdover chooses a grandmaster; the domain returns to locked or becomes acquiring. -/
  | grandmasterReselected (d : Fin 2) (gm : Word64)
  /-- HOLDOVER_EXPIRY (R58). A domain in holdover past its holdover limit becomes acquiring. -/
  | holdoverExpiry (d : Fin 2)
  /-- DOMAIN_LOCK (R468). A domain enters locked from acquiring; the epoch increments, the selected timeline may slew or step, and entries arm at first lock. -/
  | domainLock (d : Fin 2) (gm : Word64) (offset rate : Int)
  /-- DOMAIN_SWITCH (R59). A write of selected_domain switches the selected timeline, by slew or step. -/
  | domainSwitch (src : Src) (v : Word64)
  /-- SELECTED_SLEW_END (R59). The selected timeline's slew reaches a remaining difference of zero and follows the domain exactly. -/
  | selectedSlewEnd
  /-- CADENCE_NONE (R64). A cadence entry with action none fires at a grid point or sensor line event and counts the firing. -/
  | cadenceNone (e : Fin 1024)
  /-- START_JOB (R246). A cadence entry fires action 0x1 and starts a cadence job of an instance. -/
  | startJob (e : Fin 1024)
  /-- ASSAY_CAPTURE (R229). A cadence entry fires action 0x2 and samples a capture set into its ring. -/
  | assayCapture (e : Fin 1024)
  /-- LAUNCH_FRAME (R328). A cadence entry fires action 0x3 and releases the head frame of a mode-2 queue with the due instant as its launch time. -/
  | launchFrame (e : Fin 1024)
  /-- LODESTONE_SAMPLE (R73). A cadence entry fires action 0x4; the slot latches its inputs and starts an evaluation. -/
  | lodestoneSample (e : Fin 1024)
  /-- TRIGGER (R70). A cadence entry fires action 0x5 and arms a pulse on a trigger output. -/
  | trigger (e : Fin 1024)
  /-- PUBLISH (R45). A cadence entry fires action 0x6 and publishes every subscription bound to it. -/
  | publish (e : Fin 1024)
  /-- SERVICE_SLOT (R406). A cadence entry fires action 0x7 and opens a service slot in which self-test chunks run. -/
  | serviceSlot (e : Fin 1024) (chunks : List Chunk)
  /-- TRIGGER_WIDTH_END (R70). A trigger output's width count expires and the pulse ends. -/
  | triggerWidthEnd (o : Fin 16)
  /-- SETPOINT_WRITE (R71). A write of a Lodestone set-point stores the value with a stamp, used at the slot's next sample. -/
  | setpointWrite (src : Src) (s : Fin 8) (v : Word64)
  /-- LODESTONE_RESULT (R74). An evaluation's result is ready 96 cycles after its sample; the runs are compared and the following error is supervised. -/
  | lodestoneResult (s : Fin 8) (disagree : Bool)
  /-- LODESTONE_OUTPUT (R73). At due instant + output_phase the slot writes its output into its frame template. -/
  | lodestoneOutput (s : Fin 8)
  /-- NOP (R117). The NOP op occupies one dispatch cycle. -/
  | nop (n : Fin 16) (w : BitVec 120)
  /-- HALT (R122). The HALT op stops dispatch and completes when every queue of the core has drained. -/
  | halt (n : Fin 16) (w : BitVec 120)
  /-- BR (R121). The BR op branches on its predicate. -/
  | br (n : Fin 16) (w : BitVec 120)
  /-- LOOP (R121). The LOOP op decrements a loop register and branches while it is nonzero. -/
  | loop (n : Fin 16) (w : BitVec 120)
  /-- FENCE (R122). The FENCE op holds dispatch until the queues of its scope have drained. -/
  | fence (n : Fin 16) (w : BitVec 120)
  /-- SMOVI (R119). The SMOVI op loads a scalar register with an immediate. -/
  | smovi (n : Fin 16) (w : BitVec 120)
  /-- SALU (R119). The SALU op performs scalar arithmetic or logic. -/
  | salu (n : Fin 16) (w : BitVec 120)
  /-- SCMP (R119). The SCMP op compares scalars into a predicate register. -/
  | scmp (n : Fin 16) (w : BitVec 120)
  /-- PSET (R119). The PSET op sets a predicate register from a scalar plus an immediate. -/
  | pset (n : Fin 16) (w : BitVec 120)
  /-- SLD (R121). The SLD op loads a scalar register from local store, stalling dispatch until its data returns. -/
  | sld (n : Fin 16) (w : BitVec 120)
  /-- SST (R119). The SST op stores a scalar register to local store. -/
  | sst (n : Fin 16) (w : BitVec 120)
  /-- DESC (R119). The DESC op loads a tensor descriptor from local store. -/
  | desc (n : Fin 16) (w : BitVec 120)
  /-- DADD (R119). The DADD op advances a descriptor's base. -/
  | dadd (n : Fin 16) (w : BitVec 120)
  /-- SEED (R95). The SEED op loads the core's stochastic generator. -/
  | seed (n : Fin 16) (w : BitVec 120)
  /-- MATMUL (R123). The MATMUL op adds a matrix tile product into an accumulator bank. -/
  | matmul (n : Fin 16) (w : BitVec 120)
  /-- CONV (R146). The CONV op accumulates one convolution output tile as an implicit matrix product. -/
  | conv (n : Fin 16) (w : BitVec 120)
  /-- ACCIN (R125). The ACCIN op adds a source tensor into an accumulator bank. -/
  | accin (n : Fin 16) (w : BitVec 120)
  /-- READOUT (R90). The READOUT op converts bank rows into an output tensor with scale, bias, rounding and clamp. -/
  | readout (n : Fin 16) (w : BitVec 120)
  /-- PCONV (R126). The PCONV op forwards a convolution tile to the cluster's Pebble. -/
  | pconv (n : Fin 16) (w : BitVec 120)
  /-- PREAD (R126). The PREAD op forwards a Pebble bank readout to the cluster's Pebble. -/
  | pread (n : Fin 16) (w : BitVec 120)
  /-- PEBBLE_OP (R104). Pebble takes the next forwarded op in arrival order, clearing its banks first when the instance or world changes. -/
  | pebbleOp (c : Fin 4)
  /-- VLD (R211). The VLD op loads vector registers from local store. -/
  | vld (n : Fin 16) (w : BitVec 120)
  /-- VST (R211). The VST op stores vector registers to local store. -/
  | vst (n : Fin 16) (w : BitVec 120)
  /-- VOP (R100). The VOP op performs vector register arithmetic. -/
  | vop (n : Fin 16) (w : BitVec 120)
  /-- TEW (R128). The TEW op applies an elementwise function over tensors. -/
  | tew (n : Fin 16) (w : BitVec 120)
  /-- TRED (R128). The TRED op reduces a tensor along an axis. -/
  | tred (n : Fin 16) (w : BitVec 120)
  /-- TSMX (R128). The TSMX op runs one phase of a softmax. -/
  | tsmx (n : Fin 16) (w : BitVec 120)
  /-- TNORM (R128). The TNORM op normalises a tensor along an axis. -/
  | tnorm (n : Fin 16) (w : BitVec 120)
  /-- GATHER (R128). The GATHER op gathers tensor elements by index. -/
  | gather (n : Fin 16) (w : BitVec 120)
  /-- SCATTER (R128). The SCATTER op scatters tensor elements by index. -/
  | scatter (n : Fin 16) (w : BitVec 120)
  /-- TPOOL (R159). The TPOOL op computes max or average pooling. -/
  | tpool (n : Fin 16) (w : BitVec 120)
  /-- SHADE (R306). The SHADE op runs a Garnet shading program over one batch and notifies Garnet. -/
  | shade (n : Fin 16) (w : BitVec 120)
  /-- DMOV (R129). The DMOV op copies a tensor, optionally transposed. -/
  | dmov (n : Fin 16) (w : BitVec 120)
  /-- DFILL (R129). The DFILL op fills a tensor with a pattern. -/
  | dfill (n : Fin 16) (w : BitVec 120)
  /-- COLL (R183). The COLL op runs an all-gather, reduce-scatter or all-reduce through the collective unit. -/
  | coll (n : Fin 16) (w : BitVec 120)
  /-- KVSCATTER (R174). The KVSCATTER op appends tokens to a KV cache, binding frames and updating page-table entries. -/
  | kvscatter (n : Fin 16) (w : BitVec 120)
  /-- KVFETCH (R177). The KVFETCH op copies K or V rows of a cache head. -/
  | kvfetch (n : Fin 16) (w : BitVec 120)
  /-- ATTN (R162). The ATTN op computes attention of one KV head over KV pages. -/
  | attn (n : Fin 16) (w : BitVec 120)
  /-- SIGNAL (R132). The SIGNAL op adds to or sets an event counter of a core of the instance. -/
  | signal (n : Fin 16) (w : BitVec 120)
  /-- WAIT (R131). The WAIT op holds dispatch until an event counter reaches n. -/
  | wait (n : Fin 16) (w : BitVec 120)
  /-- AOPEN (R214). The AOPEN op opens an assay slot, allocating a run-A ledger entry or finding the run-B entry. -/
  | aopen (n : Fin 16) (w : BitVec 120)
  /-- ACLOSE (R214). The ACLOSE op closes an assay slot, storing run A's signature or comparing run B's. -/
  | aclose (n : Fin 16) (w : BitVec 120)
  /-- AFOLD (R213). The AFOLD op folds a tensor into the slot's signature. -/
  | afold (n : Fin 16) (w : BitVec 120)
  /-- WAIT_GRANTED (R131). An op waiting on an event counter is granted once the counter allows it, and the count is taken. -/
  | waitGranted (n : Fin 16) (q : Queue)
  /-- DRAIN_SIGNAL_APPLY (R132). A pending SIGNAL with a drain scope is applied once its scope has drained. -/
  | drainSignalApply (n : Fin 16) (i : Nat)
  /-- SLAB_OP_START (R114). A Slab-queue op starts once it is at the head, its wait is granted, its predecessor has completed and the bank interlock is clear. -/
  | slabOpStart (n : Fin 16)
  /-- OP_COMPLETE (R113). An engine op completes when its reads are done and its writes are visible; its signal is applied. -/
  | opComplete (n : Fin 16) (q : Queue) (i : Nat)
  /-- WATCHDOG_EXPIRY (R138). No op has retired for watchdog_limit while the core held work; watchdog exception. -/
  | watchdogExpiry (n : Fin 16)
  /-- INSTANCE_FAULT (R248). The scheduler stops the instance's cores, withdraws its groups, completes its invocations, sends FAULT and sets it faulted. -/
  | instanceFault (m : Fin 16)
  /-- DEBUG_HALT (R231). A debug halt of a core breaks every group with a slot open on it. -/
  | debugHalt (n : Fin 16)
  /-- DEBUG_STEP (R231). A debug single step acts at dispatch and breaks open groups. -/
  | debugStep (n : Fin 16)
  /-- DEBUG_RELEASE (R241). A core halted by debug is released, and a pre-emption waiting on it takes effect. -/
  | debugRelease (n : Fin 16)
  /-- KV_CREATE (R166). kv_command create checks a cache record and reserves its page-table entries. -/
  | kvCreate (src : Src) (m : Fin 16) (arg : BitVec 56)
  /-- KV_RELEASE (R178). kv_command release frees and zeroes every frame and entry of a cache. -/
  | kvRelease (src : Src) (m : Fin 16) (arg : BitVec 56)
  /-- KV_TRUNCATE (R178). kv_command truncate unbinds and zeroes frames of a linear cache at or above a position. -/
  | kvTruncate (src : Src) (m : Fin 16) (arg : BitVec 56)
  /-- KV_PREBIND (R178). kv_command prebind binds frames of a cache up to a position. -/
  | kvPrebind (src : Src) (m : Fin 16) (arg : BitVec 56)
  /-- LOAD (R191). A LOAD message checks, places and installs a plan, then writes the load report and LOADED. -/
  | load (m : Fin 16) (pl : Placement)
  /-- UNLOAD (R253). An UNLOAD message waits for running invocations, discards queued ones and frees the plan. -/
  | unload (m : Fin 16)
  /-- RUN (R253). A RUN message queues an invocation of a loaded plan or is refused. -/
  | run (m : Fin 16)
  /-- DIRECT (R141). A DIRECT message submits a direct stream set, which starts on its named cores or is refused. -/
  | direct (m : Fin 16)
  /-- CANCEL (R253). A CANCEL message withdraws a queued RUN or DIRECT. -/
  | cancel (m : Fin 16)
  /-- HEARTBEAT (R263). A HEARTBEAT message is consumed and restarts the instance's heartbeat timeout. -/
  | heartbeat (m : Fin 16)
  /-- ATTACH (R264). An ATTACH message returns an orphaned instance to ready or running. -/
  | attach (m : Fin 16)
  /-- MBOX_FROM_CLEAR (R252). The host driver clears the from-device full flag, and the next outbound message can be written. -/
  | mboxFromClear (m : Fin 16)
  /-- REPLACE (R202). A write of replace requests re-placement of the named plan handles. -/
  | replace (src : Src) (m : Fin 16) (v : Word64)
  /-- REPLACEMENT_JOB (R202). The Placer re-places a non-pinned plan on a trigger and rewrites its lode map. -/
  | replacementJob (m : Fin 16) (h : Fin 16) (cause : Fin 5) (pl : Placement)
  /-- SHRINK_GRACE_EXPIRY (R203). shrink_grace expires during a core removal and the affected invocation is cancelled and rerun. -/
  | shrinkGraceExpiry (m : Fin 16) (inv : Nat)
  /-- INVOCATION_START (R246). A queued invocation starts once its capture, cache settlement and invocation limit allow. -/
  | invocationStart (m : Fin 16)
  /-- ASSAY_TIMEOUT (R218). An entry's run-B close has not reached the comparator by its deadline; the invocation is squashed. -/
  | assayTimeout (e : Fin 4096)
  /-- LEDGER_DEADLOCK (R217). A run-A AOPEN stalled for 1 ms with no group change withdraws the instance's running invocations. -/
  | ledgerDeadlock (m : Fin 16)
  /-- OUTPUT_RELEASE (R222). A staged output whose tag has settled is copied to its binding; the completion message follows the last release. -/
  | outputRelease (m : Fin 16) (inv binding : Nat)
  /-- PREEMPT (R236). The scheduler pre-empts a core, stops its queues at their stop points and saves it. -/
  | preempt (n : Fin 16)
  /-- SAVE_COMPLETE (R239). A save of pre-empted cores completes and the partition is granted to the next holder, which is restored or scrubbed. -/
  | saveComplete (p : Fin 16)
  /-- SLICE_END (R242). A slice's length runs out; the partition passes to another member with work or a new slice starts. -/
  | sliceEnd (p : Fin 16)
  /-- SLOT_PREEMPT (R244). At the predicted due instant minus the lead time the slice holder is pre-empted for a safety slot. -/
  | slotPreempt (p : Fin 16) (e : Fin 1024)
  /-- INVOCATION_COMPLETE (R245). An invocation completes; a safety slot ends and the interrupted slice holder may be restored. -/
  | invocationComplete (m : Fin 16) (inv : Nat) (energy : Nat)
  /-- INST_CREATE (R256). inst_command create makes a free instance ready from its pool objects. -/
  | instCreate (src : Src) (m : Fin 16) (arg : BitVec 56) (c : Carve)
  /-- INST_DESTROY (R257). inst_command destroy stops the instance, unloads its plans and zeroes its memory. -/
  | instDestroy (src : Src) (m : Fin 16) (arg : BitVec 56)
  /-- ZEROING_END (R257). The zeroing of a destroyed instance ends; it becomes free and its guarantee is released. -/
  | zeroingEnd (m : Fin 16)
  /-- INST_FREEZE (R259). inst_command freeze saves every core of the instance and withdraws invocations holding groups. -/
  | instFreeze (src : Src) (m : Fin 16) (arg : BitVec 56)
  /-- INST_THAW (R259). inst_command thaw resumes a frozen instance's cores and queue. -/
  | instThaw (src : Src) (m : Fin 16) (arg : BitVec 56)
  /-- INST_SAVE_IMAGE (R260). inst_command save image writes a signed migration image of a frozen instance. -/
  | instSaveImage (src : Src) (m : Fin 16) (arg : BitVec 56)
  /-- INST_RESTORE_IMAGE (R262). inst_command restore image rebuilds a free instance from a migration image. -/
  | instRestoreImage (src : Src) (m : Fin 16) (arg : BitVec 56) (c : Carve)
  /-- INST_RECOVER (R249). inst_command recover returns a faulted instance to ready. -/
  | instRecover (src : Src) (m : Fin 16) (arg : BitVec 56)
  /-- INST_ORPHAN (R263). inst_command orphan makes an instance orphaned. -/
  | instOrphan (src : Src) (m : Fin 16) (arg : BitVec 56)
  /-- HEARTBEAT_TIMEOUT (R263). No message toward the device is consumed for heartbeat_timeout and the instance becomes orphaned. -/
  | heartbeatTimeout (m : Fin 16)
  /-- ACCT_RESET (R255). Writing 1 to acct_reset zeroes the instance's accounting counters. -/
  | acctReset (src : Src) (m : Fin 16) (v : Word64)
  /-- STACK_REQUEST (R277). A request to stacked memory is tested against bucket and pool, ranked and served by the stack controller. -/
  | stackRequest (r : StackReq)
  /-- BUCKET_REFILL (R277). Every 1 µs each master's bucket and each class pool refills. -/
  | bucketRefill
  /-- GUARANTEE_WRITE (R281). A guarantee write is admitted or refused, and shares and f_s are recomputed. -/
  | guaranteeWrite (src : Src) (i : Fin 32) (v : Word64)
  /-- SAFETY_CLASSES_WRITE (R281). A write of safety_classes is admitted or refused, and f_s is recomputed. -/
  | safetyClassesWrite (src : Src) (v : Word64)
  /-- PATROL_SCRUB (R269). Patrol scrub reads stack units, correcting or poisoning them. -/
  | patrolScrub (s : Fin 4) (offset : Nat) (err : UnitErr)
  /-- STACK_TEMP_READ (R272). Every 1 ms a stack controller reads its temperature and applies refresh mode and stack limit. -/
  | stackTempRead (s : Fin 4) (temp : Word32)
  /-- STREAM_ENABLE (R289). A write of stream_config enabling a stream carves its ring and resets its sensor position. -/
  | streamEnable (src : Src) (s : Fin 32) (v : Word64) (ring : Nat)
  /-- FRAME_START (R293). A CSI-2 frame-start packet begins a frame in the next free buffer and advances the frame count. -/
  | frameStart (s : Fin 32) (csiFrame : Word16)
  /-- LINE_START (R62). A CSI-2 line-start packet advances the stream's line position. -/
  | lineStart (s : Fin 32)
  /-- LONG_PACKET (R290). A CSI-2 long packet is written to the embedded or pixel area of the frame, or checked as the camera test line. -/
  | longPacket (p : Fin 16) (pk : CsiPacket)
  /-- FRAME_END (R290). A CSI-2 frame-end packet ends the frame and injects the blanking pattern. -/
  | frameEnd (s : Fin 32)
  /-- BLANK_VERDICT (R295). The blanking-pattern verdict on a frame is made; the frame becomes complete, valid or path-faulted. -/
  | blankVerdict (s : Fin 32) (crc : Option Word32)
  /-- RING_TAIL_WRITE (R298). A write of ring_tail submits render passes to Garnet. -/
  | ringTailWrite (src : Src) (v : Word64)
  /-- PASS_COMPLETE (R298). A Garnet render pass completes or fails and writes its fence. -/
  | passComplete (pr : PassResult)
  /-- PIPE_LATCH (R313). At a pipe's latch instant committed layers, presents and fallback scenes take effect. -/
  | pipeLatch (p : Fin 4)
  /-- REGION_CHECK (R318). At a safety region's last line its CRC is compared with the expected CRC. -/
  | regionCheck (p : Fin 4) (k : Fin 16) (pixels : List (Word16 × Word16 × Word16))
  /-- RESUME (R319). A write of resume requests a fallen-back pipe's return to normal. -/
  | resume (src : Src) (p : Fin 4) (v : Word64)
  /-- DISPLAY_PREEMPT (R320). The scheduler pre-empts a slice holder so that a present pass meets its display deadline. -/
  | displayPreempt (p : Fin 16)
  /-- FRAME_RECEIVE (R323). An Ethernet frame is received, checked and forwarded, captured or routed. -/
  | frameReceive (q : Fin 12) (f : EthFrame)
  /-- FRAME_TRANSMIT (R329). A ready frame becomes eligible and leaves, late or dropped, with its timestamp entry. -/
  | frameTransmit (q : Fin 12) (c : Fin 8)
  /-- TX_TAIL_WRITE (R327). A write of tx_tail hands transmit descriptors to a ring. -/
  | txTailWrite (src : Src) (q : Fin 2) (c : Fin 8) (v : Word64)
  /-- RX_TAIL_WRITE (R327). A write of rx_tail posts receive buffers. -/
  | rxTailWrite (src : Src) (c : Fin 8) (v : Word64)
  /-- TS_READ_WRITE (R332). A write of ts_read consumes timestamp entries. -/
  | tsReadWrite (src : Src) (q : Fin 12) (v : Word64)
  /-- LINK_CHANGE (R328). An Ethernet link goes up or down; queued frames are discarded and sessions close on link down. -/
  | linkChange (q : Fin 12) (up : Bool)
  /-- T1S_FRAME_RECEIVE (R336). A 10BASE-T1S frame is received and feeds capture handles and routing. -/
  | t1sFrameReceive (i : Fin 2) (f : EthFrame)
  /-- BEACON_LOSS (R336). A follower misses PLCA beacons for the invalid-beacon time and falls back to CSMA/CD. -/
  | beaconLoss (i : Fin 2)
  /-- CAN_FRAME_RECEIVE (R339). A CAN frame is filtered and fed to capture handles and routing. -/
  | canFrameReceive (c : Fin 8) (f : CanFrame)
  /-- CAN_TRANSMIT (R340). A CAN controller transmits the lowest-ID frame of its queue. -/
  | canTransmit (c : Fin 8) (tecAfter : Nat) (sent : Bool)
  /-- BUS_OFF_RECOVERY (R340). After recovery_delay a bus-off controller recovers. -/
  | busOffRecovery (c : Fin 8)
  /-- RESTART (R340). Writing 1 to restart takes a CAN controller out of the stopped state. -/
  | restart (src : Src) (c : Fin 8) (v : Word64)
  /-- WAKE (R434). A wake source fires; last_wake is set and the exit to On starts. -/
  | wake (w : WakeSrc)
  /-- OUTBOUND_READ (R353). A crossing read is answered with held data or RETRY, starting a fetch if a slot is free. -/
  | outboundRead (requester addr len : Nat)
  /-- OUTBOUND_WRITE (R348). A write to an outbound window is accepted posted or sent non-posted. -/
  | outboundWrite (requester addr : Nat) (data : List Byte) (farOk : Bool)
  /-- FETCH_COMPLETE (R353). A Feldspar fetch completes and its data or error is held for the repeat. -/
  | fetchComplete (slot : Fin 64) (data : Option (List Byte))
  /-- FETCH_HOLD_EXPIRY (R354). Held fetch data not collected within 4 µs is discarded. -/
  | fetchHoldExpiry (slot : Fin 64)
  /-- READ_TIMEOUT (R353). A crossing read not served within read_timeout completes with an error. -/
  | readTimeout (requester addr len : Nat) (since : Word64)
  /-- DEADLOCK_YIELD (R356). Neither direction has moved for 2 µs and the outbound side yields to inbound. -/
  | deadlockYield
  /-- INBOUND_REQUEST (R351). An inbound PCI Express request is matched to an inbound window or refused. -/
  | inboundRequest (wr : Bool) (addr len : Nat) (data : List Byte) (bar : Fin 8)
  /-- POSTED_WRITE_FAULT (R357). An accepted posted write is faulted, logged and dropped. -/
  | postedWriteFault (cause : Fin 5)
  /-- PWE_CLEAR (R357). Writing 1 to pwe_clear empties the posted-write error log. -/
  | pweClear (src : Src) (v : Word64)
  /-- LINK_TRAIN (R358). A Twimi link trains through lock, equalisation, identity check and flit lock. -/
  | linkTrain (l : Fin 3) (far : FarEnd)
  /-- TRAIN_RETRY (R358). A link whose far end did not answer retries training every 100 ms. -/
  | trainRetry (l : Fin 3)
  /-- FLIT_REPLAY (R359). A flit failing its CRC after FEC is discarded and a replay is requested. -/
  | flitReplay (l : Fin 3) (sameFlit : Bool)
  /-- TWIMI_LINK_LOSS (R361). A Twimi link is lost; its requests fail and joined instances are faulted. -/
  | twimiLinkLoss (l : Fin 3)
  /-- MRET (R372). An MRET sets a host core's current world from its next world, scrubbing registers when it goes to normal. -/
  | mret (h : Fin 12)
  /-- XWORLD_WRITE (R371). A machine-mode write of xworld sets the next world. -/
  | xworldWrite (h : Fin 12) (mode : Mode) (v : Word64)
  /-- HOST_RELEASE (R382). A write of host_release starts host cores. -/
  | hostRelease (src : Src) (v : Word64)
  /-- FW_UPDATE (R391). A block of images loaded into fw_update is verified and written with a new directory copy. -/
  | fwUpdate (src : Src) (block : List Byte) (flashOk : Bool)
  /-- ROLLBACK_COMMIT (R385). A write of rollback_commit raises rollback counters and starts a store write. -/
  | rollbackCommit (src : Src) (v : Word64)
  /-- ATTESTATION_READ (R386). A read of attestation forms and signs a new report. -/
  | attestationRead (src : Src)
  /-- FW_RESTART (R390). Writing 1 to fw_restart restarts a firmware processor, announced to the island. -/
  | fwRestart (src : Src) (f : Fin 7) (v : Word64)
  /-- COMPONENT_FAULT (R388). A firmware component violates its regions and is restarted alone. -/
  | componentFault (f : Fin 7) (comp cause : Word16)
  /-- PROCESSOR_RESTART (R389). A firmware processor restarts on kernel fault, watchdog expiry or repeated component faults. -/
  | processorRestart (f : Fin 7) (phase : RestartPhase)
  /-- SAFE_REQUEST (R397). Writing 1 to safe_request raises trigger 0x0C. -/
  | safeRequest (src : Src) (v : Word64)
  /-- SAFE_EXIT (R399). Writing 1 to safe_exit clears the latch when its conditions hold. -/
  | safeExit (src : Src) (v : Word64)
  /-- NOTICE_REPEAT (R401). The safe-state notice is repeated every notice_repeat. -/
  | noticeRepeat
  /-- GRANITE_HEARTBEAT (R402). The scheduler core's heartbeat reaches the safety island and restarts its watchdog. -/
  | graniteHeartbeat
  /-- ISLAND_WATCHDOG_EXPIRY (R402). No heartbeat for island_wd_timeout raises trigger 0x07. -/
  | islandWatchdogExpiry
  /-- ISLAND_HW_WATCHDOG_EXPIRY (R403). The island's own 10 ms hardware watchdog expires and raises trigger 0x09. -/
  | islandHwWatchdogExpiry
  /-- TIMEBASE_CROSS_CHECK (R405). Every 1 ms the replica is checked against the master counter. -/
  | timebaseCrossCheck (diffNs : Nat)
  /-- CLOCK_MONITOR_FAULT (R405). A clock monitor sees a deviation above 1,000 ppm or a loss and raises trigger 0x0A. -/
  | clockMonitorFault (clk : Fin 3) (ppm : Option Nat)
  /-- SELFTEST_REQUEST (R407). A write of selftest_request queues a self-test or calibration to the next service slot. -/
  | selftestRequest (src : Src) (v : Word64)
  /-- DTI_EXPIRY (R408). The diagnostic test interval passes before the pass completes; overdue warning. -/
  | dtiExpiry
  /-- GOLDEN_LATE (R410). A golden invocation not started by its next grid point counts late. -/
  | goldenLate (j : Fin 8)
  /-- STRATA_TRIGGER (R414). Writing 1 to strata_trigger takes a Strata snapshot under trigger 12. -/
  | strataTrigger (src : Src) (v : Word64)
  /-- STRATA_RECORD_WRITE (R412). The Strata writer writes a queued record into its circulating and permanent slots. -/
  | strataRecordWrite
  /-- STRATA_CLEAR (R416). Writing 0x7374_636C to strata_clear empties the permanent area and takes trigger 13. -/
  | strataClear (src : Src) (v : Word64)
  /-- COPYOUT (R417). A copy-out writes the Strata region into a flash slot. -/
  | copyout (src : Src) (v : Word64)
  /-- COPYOUT_END (R417). A copy-out ends; a held copy-out may start. -/
  | copyoutEnd (ok : Bool)
  /-- POWER_GOOD_RISE (R420). PWR_GOOD rises and the device starts up in the order of Table 17-1 or in service boot. -/
  | powerGoodRise (env : StartEnv)
  /-- SVC_IMAGE_WRITE (R425). A host writes the service image length at BAR0 and the boot ROM verifies and runs the image. -/
  | svcImageWrite (len : Nat)
  /-- POWER_GOOD_FALL (R432). PWR_GOOD falls and the device stops at once. -/
  | powerGoodFall
  /-- POWER_REQUEST_ON (R375). power_request 0 withdraws a held Drowse or Sentry request. -/
  | powerRequestOn (src : Src)
  /-- POWER_REQUEST_DROWSE (R428). power_request 2 enters Drowse, or is held or refused. -/
  | powerRequestDrowse (src : Src)
  /-- POWER_REQUEST_SENTRY (R430). power_request 3 enters Sentry, or is held or refused. -/
  | powerRequestSentry (src : Src)
  /-- POWER_REQUEST_OFF (R432). power_request 4 runs Sentry entry and drives PWROFF_N low. -/
  | powerRequestOff (src : Src)
  /-- HELD_REQUEST_RELEASE (R375). The last secure_power_hold bit clears and a held power-state request proceeds. -/
  | heldRequestRelease
  /-- IDLE_ENTRY (R427). With auto_idle set and all conditions met the device enters Idle. -/
  | idleEntry
  /-- IDLE_EXIT (R427). An interrupt, inbound request or upcoming job start takes the device out of Idle. -/
  | idleExit (why : IdleWake)
  /-- DROWSE_EXIT (R429). Drowse exit powers Granite, restarts firmware and thaws instances. -/
  | drowseExit (env : StartEnv)
  /-- SENTRY_EXIT (R431). Sentry exit repeats the start-up steps with identity and PSRAM kept. -/
  | sentryExit (env : StartEnv)
  /-- PAD_RELEASE (R433). A write of pad_release releases a domain's held pads. -/
  | padRelease (src : Src) (v : Word64)
  /-- DVFS_REQUEST (R436). A write of cl_freq_req changes a cluster's operating point. -/
  | dvfsRequest (src : Src) (c : Fin 4) (v : Word64)
  /-- THROTTLE_STEP (R438). Every 1 ms a throttled cluster's frequency drops or returns by 25 MHz. -/
  | throttleStep (r : Temps)
  /-- THERMAL_TRIP (R438). A junction reaches 125 °C and Granite and the stacks are turned off. -/
  | thermalTrip
  /-- AGEING_MEASURE (R440). Every 10 minutes canary slack is measured and margin offsets raised. -/
  | ageingMeasure (slack : List Nat)
  /-- RAIL_ENABLE_TIMEOUT (R451). A RAIL_PG that does not rise within 5 ms of enable stops start-up and powers down. -/
  | railEnableTimeout (k : Fin 15)
  /-- RAIL_FAULT (R452). A RAIL_PG falls while its rail should be powered; rails are turned off. -/
  | railFault (k : Fin 15) (sinceAvs : Nat)
  /-- PCIE_LINK_CHANGE (R346). The PCI Express link goes up or down, updating link_status and setting pcie_events bit 0, which drives line 212. -/
  | pcieLinkChange (gen width : Nat)
  /-- HOT_PLUG_DETECT (R423). A display sink asserts hot-plug detect or a DSI-2 panel becomes ready, and its pipe's link comes up with telltales shown within 400 ms. -/
  | hotPlugDetect (p : Fin 4)
  /-- CSI2_PORT_STATE_CHANGE (R288). A CSI-2 port gains or loses the incoming signal, moving port_state between no signal and receiving. -/
  | csi2PortStateChange (p : Fin 16) (signal : Bool)
  /-- PLCA_BEACON_RETURN (R336). A 10BASE-T1S follower sees PLCA beacons again, and plca_status returns from searching to active. -/
  | plcaBeaconReturn (i : Fin 2)
  /-- T1S_TRANSMIT (R337). A routed frame is sent on a 10BASE-T1S segment in its transmit opportunity, with collision, back-off and retry up to 16 attempts. -/
  | t1sTransmit (i : Fin 2) (collided : Bool)
  /-- LINE_SCAN_OUT (R316). A display pipe scans out one line, compositing its layers and the fallback layer, and counts underflow or fallback overflow for that line. -/
  | lineScanOut (p : Fin 4) (ln : ScanLine)
  /-- RESERVED_OPCODE (R118). An op word whose opcode is absent from Table 5-3 is dispatched and raises illegal_op detail 0x01. -/
  | reservedOpcode (n : Fin 16) (w : OpWord)
deriving DecidableEq, Repr

end Sys2Proof
end

