-- ==== Sys2Proof/Decode.lean ====
section
/-! DEFINITION. The command that a word of spec/opcode_table.json spells: the table gives no row any bits, so no word spells one. -/

namespace Sys2Proof

/-- The command of an `nbits`-bit word `w`; the table has no row with bits. -/
def decodeTableWord (_nbits _w : Nat) : Option Instr := none

end Sys2Proof
end

