-- ==== Sys2Proof/Machine/Bits.lean ====
section
/-! DEFINITION. Bit fields, byte order, sign extension, and the two check codes of the manual (CRC-32C of R49, the CRC-64 fold of R213). -/

namespace Sys2Proof.Machine

/-- Bits [hi:lo] of `w` as a number; both ends included (spec/00, Notation). -/
def fld {n : Nat} (w : BitVec n) (hi lo : Nat) : Nat :=
  w.toNat / 2 ^ lo % 2 ^ (hi + 1 - lo)

/-- Bit `i` of `w`. -/
def bit {n : Nat} (w : BitVec n) (i : Nat) : Bool := w.getLsbD i

/-- Bits [hi:lo] of a number. -/
def nfld (x hi lo : Nat) : Nat := x / 2 ^ lo % 2 ^ (hi + 1 - lo)

/-- Bit `i` of a number. -/
def nbit (x i : Nat) : Bool := x / 2 ^ i % 2 == 1

/-- `w` with bits [hi:lo] replaced by the number `v`. -/
def setFld {n : Nat} (w : BitVec n) (hi lo v : Nat) : BitVec n :=
  let m := (2 ^ (hi + 1 - lo) - 1) * 2 ^ lo
  (w &&& ~~~(BitVec.ofNat n m)) ||| BitVec.ofNat n (v % 2 ^ (hi + 1 - lo) * 2 ^ lo)

/-- `w` with bit `i` set or cleared. -/
def setBit {n : Nat} (w : BitVec n) (i : Nat) (b : Bool) : BitVec n :=
  if b then w ||| BitVec.ofNat n (2 ^ i) else w &&& ~~~(BitVec.ofNat n (2 ^ i))

/-- The mask with bits [hi:lo] set. -/
def maskOf (hi lo : Nat) : Nat := (2 ^ (hi + 1 - lo) - 1) * 2 ^ lo

/-- The number `x` of `n` bits read as two's complement. -/
def sext (n x : Nat) : Int :=
  if n = 0 then 0 else if x % 2 ^ n < 2 ^ (n - 1) then (x % 2 ^ n : Nat) else ((x % 2 ^ n : Nat) : Int) - (2 ^ n : Nat)

/-- The low `n` bits of an integer, two's complement. -/
def wrapInt (n : Nat) (z : Int) : Nat := (z % (2 ^ n : Nat)).toNat

/-- Little-endian bytes of a number. -/
def leBytes : Nat → Nat → List Byte
  | 0, _ => []
  | n + 1, x => BitVec.ofNat 8 x :: leBytes n (x / 256)

/-- The number that little-endian bytes spell. -/
def leNat : List Byte → Nat
  | [] => 0
  | b :: bs => b.toNat + 256 * leNat bs

/-- The `n` bytes at offset `o` of a block, short blocks read as zero beyond their end. -/
def slice (bs : List Byte) (o n : Nat) : List Byte :=
  let x := (bs.drop o).take n
  x ++ List.replicate (n - x.length) 0#8

/-- The little-endian number of `n` bytes at offset `o` of a block. -/
def leAt (bs : List Byte) (o n : Nat) : Nat := leNat (slice bs o n)

/-- A block with the bytes `v` put at offset `o` (the block grows with zeros when it is too short). -/
def patch (bs : List Byte) (o : Nat) (v : List Byte) : List Byte :=
  slice bs 0 o ++ v ++ bs.drop (o + v.length)

/-- Split a block into records of `n` bytes; a last short record is dropped. -/
def records (n : Nat) (bs : List Byte) : List (List Byte) :=
  if n = 0 then [] else (List.range (bs.length / n)).map fun i => slice bs (i * n) n

/-- Round `x` up to a multiple of `n`. -/
def roundUp (x n : Nat) : Nat := if n = 0 then x else (x + n - 1) / n * n

/-- One byte of the bit-reflected CRC-32C (R49). -/
def crc32cByte (crc : Word32) (b : Byte) : Word32 :=
  let step (c : Word32) : Word32 := if bit c 0 then (c >>> 1) ^^^ 0x82f63b78#32 else c >>> 1
  let c := crc ^^^ (b.setWidth 32)
  step (step (step (step (step (step (step (step c)))))))

/-- CRC-32C over bytes (R49). -/
def crc32c (bs : List Byte) : Word32 := bs.foldl crc32cByte 0xffffffff#32 ^^^ 0xffffffff#32

/-- The fold of one byte into a signature (R213). -/
def crc64Byte (x : Word64) (b : Byte) : Word64 :=
  let step (c : Word64) : Word64 := if bit c 63 then (c <<< 1) ^^^ 0x42f0e1eba9ea3693#64 else c <<< 1
  let c := x ^^^ ((b.setWidth 64) <<< 56)
  step (step (step (step (step (step (step (step c)))))))

/-- The fold of bytes into a signature in order (R213). -/
def crc64Fold (x : Word64) (bs : List Byte) : Word64 := bs.foldl crc64Byte x

/-- Whether a number is a power of two. -/
def isPow2 (x : Nat) : Bool := x != 0 && x == 2 ^ Nat.log2 x

/-- Increment that wraps at `n` bits (counts that the manual calls wrapping). -/
def incWrap (n : Nat) (w : Word64) (by_ : Nat := 1) : Word64 :=
  BitVec.ofNat 64 ((w.toNat + by_) % 2 ^ n)

/-- Increment that saturates at the largest value of `n` bits. -/
def incSat (n : Nat) (w : Word64) (by_ : Nat := 1) : Word64 :=
  BitVec.ofNat 64 (min (w.toNat + by_) (2 ^ n - 1))

/-- Signed difference of two numbers modulo 2^n. -/
def sdiff (n a b : Nat) : Int := sext n (wrapInt n ((a : Int) - (b : Int)))

end Sys2Proof.Machine
end

