-- ==== Sys2Proof/Machine/Num.lean ====
section
/-! DEFINITION. The number formats of the manual (Tables 4-2, 4-3, 5-5), exact values as rationals, and rounding (R90-R95, R100). -/

namespace Sys2Proof.Machine

/-- The value of a floating-point code: NaN, a signed infinity, or a signed magnitude (zero keeps its sign). -/
inductive FVal where
  | nan
  | inf (neg : Bool)
  | fin (neg : Bool) (mag : Rat)
deriving DecidableEq, Repr

/-- Which codes of a format are special: IEEE (infinities and NaNs), E4M3 (NaN only), or none. -/
inductive FKind where
  | ieee
  | nanOnly
  | finite
deriving DecidableEq, Repr

/-- A binary floating-point format. -/
structure FFmt where
  ebits : Nat
  mbits : Nat
  bias : Nat
  kind : FKind
deriving DecidableEq, Repr

def fmtE4M3 : FFmt := ⟨4, 3, 7, .nanOnly⟩
def fmtE5M2 : FFmt := ⟨5, 2, 15, .ieee⟩
def fmtE3M2 : FFmt := ⟨3, 2, 3, .finite⟩
def fmtE2M3 : FFmt := ⟨2, 3, 1, .finite⟩
def fmtE2M1 : FFmt := ⟨2, 1, 1, .finite⟩
def fmtFP16 : FFmt := ⟨5, 10, 15, .ieee⟩
def fmtBF16 : FFmt := ⟨8, 7, 127, .ieee⟩
def fmtFP32 : FFmt := ⟨8, 23, 127, .ieee⟩

/-- Width of a code of the format. -/
def FFmt.width (f : FFmt) : Nat := 1 + f.ebits + f.mbits

/-- 2^e as a rational. -/
def pow2 : Int → Rat
  | .ofNat n => ((2 ^ n : Nat) : Rat)
  | .negSucc n => mkRat 1 (2 ^ (n + 1))

/-- The largest finite magnitude of a format. -/
def FFmt.maxFin (f : FFmt) : Rat :=
  match f.kind with
  | .ieee => ((2 ^ (f.mbits + 1) - 1 : Nat) : Rat) * pow2 ((2 ^ f.ebits - 2 : Nat) - (f.bias : Int) - f.mbits)
  | .nanOnly => ((2 ^ (f.mbits + 1) - 2 : Nat) : Rat) * pow2 ((2 ^ f.ebits - 1 : Nat) - (f.bias : Int) - f.mbits)
  | .finite => ((2 ^ (f.mbits + 1) - 1 : Nat) : Rat) * pow2 ((2 ^ f.ebits - 1 : Nat) - (f.bias : Int) - f.mbits)

/-- The value of a code. -/
def FFmt.decode (f : FFmt) (code : Nat) : FVal :=
  let m := code % 2 ^ f.mbits
  let e := code / 2 ^ f.mbits % 2 ^ f.ebits
  let neg := code / 2 ^ (f.mbits + f.ebits) % 2 == 1
  let top := 2 ^ f.ebits - 1
  let mag : Rat :=
    if e = 0 then (m : Rat) * pow2 (1 - (f.bias : Int) - f.mbits)
    else ((2 ^ f.mbits + m : Nat) : Rat) * pow2 ((e : Int) - f.bias - f.mbits)
  match f.kind with
  | .ieee => if e = top then (if m = 0 then .inf neg else .nan) else .fin neg mag
  | .nanOnly => if e = top ∧ m = 2 ^ f.mbits - 1 then .nan else .fin neg mag
  | .finite => .fin neg mag

/-- floor(log2 q) of a positive rational. -/
def ilog2 (q : Rat) : Int :=
  let e0 : Int := (Nat.log2 q.num.natAbs : Int) - Nat.log2 q.den
  if pow2 e0 ≤ q then e0 else e0 - 1

/-- Round to the nearest integer, ties to even. -/
def rne (q : Rat) : Int :=
  let f := q.floor
  let r := q - (f : Rat)
  if r < mkRat 1 2 then f
  else if mkRat 1 2 < r then f + 1
  else if f % 2 = 0 then f else f + 1

/-- A rounding mode: nearest even, or stochastic with a 24-bit draw (R94). -/
inductive RMode where
  | rne
  | stoch (u : Nat)
deriving DecidableEq, Repr

/-- Round a rational to an integer grid by the mode. -/
def roundInt (mode : RMode) (q : Rat) : Int :=
  match mode with
  | .rne => rne q
  | .stoch u => if q.den = 1 then q.num else (q - (q.floor : Rat) + mkRat u (2 ^ 24)).floor + q.floor

/-- Whether the range of an output format, largest magnitude or bound `top` on one side, changes a value: the rounded value lies beyond it, or, under stochastic rounding, the value itself does, which has no neighbour beyond to round from (R91, R94). -/
def RMode.exceeds (mode : RMode) (top value rounded : Rat) : Bool :=
  match mode with
  | .rne => decide (top < rounded)
  | .stoch _ => decide (top < value) || decide (top < rounded)

/-- The exponent of the grid on which `q` is rounded in a format: its last place. -/
def FFmt.quantum (f : FFmt) (q : Rat) : Int :=
  if q = 0 then 1 - (f.bias : Int) - f.mbits
  else max (ilog2 (if q < 0 then -q else q)) (1 - (f.bias : Int)) - f.mbits

/-- Round a rational once to the grid of a format, exponents unbounded above. -/
def FFmt.roundQ (f : FFmt) (mode : RMode) (q : Rat) : Rat :=
  let e := f.quantum q
  (roundInt mode (q * pow2 (-e)) : Rat) * pow2 e

/-- The code of a sign and a magnitude that lies on the format's grid and within its range. -/
def FFmt.encodeFin (f : FFmt) (neg : Bool) (mag : Rat) : Nat :=
  let s := if neg then 2 ^ (f.mbits + f.ebits) else 0
  if mag = 0 then s
  else
    let e := max (ilog2 mag) (1 - (f.bias : Int))
    let k := (mag * pow2 ((f.mbits : Int) - e)).floor.toNat
    if k < 2 ^ f.mbits then s + k
    else s + (e + f.bias).toNat * 2 ^ f.mbits + (k - 2 ^ f.mbits)

/-- The positive canonical NaN of a format (R88, R91, R100). -/
def FFmt.nanCode (f : FFmt) : Nat :=
  match f.kind with
  | .ieee => (2 ^ f.ebits - 1) * 2 ^ f.mbits + 2 ^ (f.mbits - 1)
  | .nanOnly => 2 ^ (f.ebits + f.mbits) - 1
  | .finite => 0

/-- The code of an infinity (IEEE formats). -/
def FFmt.infCode (f : FFmt) (neg : Bool) : Nat :=
  (if neg then 2 ^ (f.mbits + f.ebits) else 0) + (2 ^ f.ebits - 1) * 2 ^ f.mbits

/-- What a conversion to a format gave: the code, and whether the format's range changed the value or a NaN was written (R91). -/
structure Conv where
  code : Nat
  sat : Bool
  nan : Bool
deriving DecidableEq, Repr

/-- Convert a value to a floating-point format: one rounding, then Table 4-3 (R90, R91). -/
def FFmt.conv (f : FFmt) (mode : RMode) (satFp : Bool) (v : FVal) : Conv :=
  let ovf (neg : Bool) (wasInf : Bool) : Conv :=
    match f.kind with
    | .ieee =>
      if satFp then ⟨f.encodeFin neg f.maxFin, true, false⟩
      else ⟨f.infCode neg, !wasInf, false⟩
    | _ => ⟨f.encodeFin neg f.maxFin, true, false⟩
  match v with
  | .nan => ⟨f.nanCode, false, true⟩
  | .inf neg => ovf neg true
  | .fin neg mag =>
    let r := f.roundQ mode (if neg then -mag else mag)
    let a := if r < 0 then -r else r
    if mode.exceeds f.maxFin mag a then ovf neg false else ⟨f.encodeFin neg a, false, false⟩

/-- The value as a signed rational; specials read as 0 (callers test them first). -/
def FVal.toRat : FVal → Rat
  | .fin neg mag => if neg then -mag else mag
  | _ => 0

/-- Whether the value is finite. -/
def FVal.isFin : FVal → Bool
  | .fin _ _ => true
  | _ => false

/-- A rational as a value; zero takes the sign given. -/
def FVal.ofRat (zneg : Bool) (q : Rat) : FVal :=
  if q = 0 then .fin zneg 0 else .fin (decide (q < 0)) (if q < 0 then -q else q)

/-- Negation of R90 step 2 and R209: a zero becomes +0, a NaN stays, the infinities exchange. -/
def FVal.negBack : FVal → FVal
  | .nan => .nan
  | .inf neg => .inf (!neg)
  | .fin neg mag => if mag = 0 then .fin false 0 else .fin (!neg) mag

/-- Sign inversion (the function neg of Table 5-11). -/
def FVal.neg : FVal → FVal
  | .nan => .nan
  | .inf neg => .inf (!neg)
  | .fin neg mag => .fin (!neg) mag

/-- IEEE addition of values before rounding. -/
def FVal.add : FVal → FVal → FVal
  | .nan, _ => .nan
  | _, .nan => .nan
  | .inf a, .inf b => if a = b then .inf a else .nan
  | .inf a, .fin _ _ => .inf a
  | .fin _ _, .inf b => .inf b
  | .fin a x, .fin b y =>
    FVal.ofRat (a && b) ((FVal.fin a x).toRat + (FVal.fin b y).toRat)

/-- IEEE multiplication of values before rounding. -/
def FVal.mul : FVal → FVal → FVal
  | .nan, _ => .nan
  | _, .nan => .nan
  | .inf a, .inf b => .inf (a != b)
  | .inf a, .fin b y => if y = 0 then .nan else .inf (a != b)
  | .fin a x, .inf b => if x = 0 then .nan else .inf (a != b)
  | .fin a x, .fin b y => .fin (a != b) (x * y)

/-- IEEE division of values before rounding. -/
def FVal.div : FVal → FVal → FVal
  | .nan, _ => .nan
  | _, .nan => .nan
  | .inf _, .inf _ => .nan
  | .inf a, .fin b _ => .inf (a != b)
  | .fin a _, .inf b => .fin (a != b) 0
  | .fin a x, .fin b y =>
    if y = 0 then (if x = 0 then .nan else .inf (a != b)) else .fin (a != b) (x / y)

/-- IEEE comparison a < b; false with a NaN. -/
def FVal.lt : FVal → FVal → Bool
  | .nan, _ => false
  | _, .nan => false
  | .inf a, .inf b => a && !b
  | .inf a, .fin _ _ => a
  | .fin _ _, .inf b => !b
  | .fin a x, .fin b y => decide ((FVal.fin a x).toRat < (FVal.fin b y).toRat)

/-- IEEE equality; false with a NaN, +0 equals -0. -/
def FVal.eq : FVal → FVal → Bool
  | .nan, _ => false
  | _, .nan => false
  | .inf a, .inf b => a == b
  | .inf _, .fin _ _ => false
  | .fin _ _, .inf _ => false
  | .fin a x, .fin b y => decide ((FVal.fin a x).toRat = (FVal.fin b y).toRat)

/-- The value of a binary32 code. -/
def f32 (w : Word32) : FVal := fmtFP32.decode w.toNat

/-- The canonical binary32 NaN. -/
def f32nan : Word32 := 0x7fc00000#32

/-- Round a value once to binary32, nearest even (R88, R100). -/
def toF32 (v : FVal) : Word32 := BitVec.ofNat 32 (fmtFP32.conv .rne false v).code

def f32add (a b : Word32) : Word32 := toF32 ((f32 a).add (f32 b))
def f32sub (a b : Word32) : Word32 := toF32 ((f32 a).add (f32 b).neg)
def f32mul (a b : Word32) : Word32 := toF32 ((f32 a).mul (f32 b))
def f32div (a b : Word32) : Word32 := toF32 ((f32 a).div (f32 b))
/-- a × b + c with one rounding. -/
def f32fma (a b c : Word32) : Word32 := toF32 (((f32 a).mul (f32 b)).add (f32 c))
def f32neg (a : Word32) : Word32 := if (f32 a) = .nan then f32nan else a ^^^ 0x80000000#32
def f32lt (a b : Word32) : Bool := (f32 a).lt (f32 b)
def f32le (a b : Word32) : Bool := (f32 a).lt (f32 b) || (f32 a).eq (f32 b)
def f32eq (a b : Word32) : Bool := (f32 a).eq (f32 b)
/-- Whether the code is a NaN or an infinity. -/
def f32special (a : Word32) : Bool := !(f32 a).isFin
/-- An integer rounded once to binary32. -/
def f32ofInt (z : Int) : Word32 := toF32 (FVal.ofRat false (z : Rat))
/-- A rational rounded once to binary32. -/
def f32ofRat (q : Rat) : Word32 := toF32 (FVal.ofRat false q)
/-- Clamp to [lo, hi]; a NaN stays. -/
def f32clamp (x lo hi : Word32) : Word32 := if f32lt x lo then lo else if f32lt hi x then hi else x

/-! ### Format codes of Table 5-5 -/

def codeINT4 : Nat := 0x01
def codeINT8 : Nat := 0x02
def codeINT16 : Nat := 0x03
def codeINT32 : Nat := 0x04
def codeE4M3 : Nat := 0x08
def codeE5M2 : Nat := 0x09
def codeFP16 : Nat := 0x0A
def codeBF16 : Nat := 0x0B
def codeFP32 : Nat := 0x0C

/-- Width in bits of one element of a format code; 0 for a reserved code. RAW10 and RAW12 are packed by groups (Table 4-5). -/
def elemBits (c : Nat) : Nat :=
  match c with
  | 0x01 => 4 | 0x02 => 8 | 0x03 => 16 | 0x04 => 32
  | 0x08 => 8 | 0x09 => 8 | 0x0A => 16 | 0x0B => 16 | 0x0C => 32
  | 0x10 => 8 | 0x11 => 8 | 0x12 => 6 | 0x13 => 6 | 0x14 => 4 | 0x15 => 8
  | 0x20 => 8 | 0x21 => 10 | 0x22 => 12 | 0x23 => 16
  | _ => 0

/-- Whether a format code is one of Table 5-5. -/
def fmtKnown (c : Nat) : Bool := elemBits c != 0

/-- Whether a format code is an MX format. -/
def isMx (c : Nat) : Bool := decide (0x10 ≤ c) && decide (c ≤ 0x15)

/-- Whether a format code is a RAW format (Pebble input only). -/
def isRaw (c : Nat) : Bool := decide (0x20 ≤ c) && decide (c ≤ 0x23)

/-- Whether a format code is an integer format. -/
def isInt (c : Nat) : Bool := decide (0x01 ≤ c) && decide (c ≤ 0x04)

/-- The floating-point element format of a code, if it has one. -/
def fpFmt (c : Nat) : Option FFmt :=
  match c with
  | 0x08 => some fmtE4M3 | 0x09 => some fmtE5M2
  | 0x0A => some fmtFP16 | 0x0B => some fmtBF16 | 0x0C => some fmtFP32
  | 0x10 => some fmtE4M3 | 0x11 => some fmtE5M2
  | 0x12 => some fmtE3M2 | 0x13 => some fmtE2M3 | 0x14 => some fmtE2M1
  | _ => none

/-- The value of one element code (an MX element without its block scale; MXINT8 carries its 2^-6). -/
def elemVal (c code : Nat) : FVal :=
  match fpFmt c with
  | some f => f.decode code
  | none =>
    if c = 0x15 then FVal.ofRat false ((sext 8 code : Rat) * pow2 (-6))
    else if isInt c then FVal.ofRat false (sext (elemBits c) code : Rat)
    else FVal.ofRat false (code : Rat)

/-- e_lo and e_hi of Table 4-2; 0 for a format outside the table. -/
def elemLimits (c : Nat) : Int × Int :=
  match c with
  | 0x08 => (-9, 8) | 0x10 => (-9, 8)
  | 0x09 => (-16, 15) | 0x11 => (-16, 15)
  | 0x12 => (-4, 4) | 0x13 => (-3, 2) | 0x14 => (-1, 2) | 0x15 => (-6, 1)
  | _ => (0, 0)

/-- Convert a value to an integer format: round to the integers, saturate; a NaN writes 0 (Table 4-3). -/
def convInt (n : Nat) (mode : RMode) (v : FVal) : Conv :=
  let lo : Int := -((2 ^ (n - 1) : Nat) : Int)
  let hi : Int := (2 ^ (n - 1) : Nat) - 1
  match v with
  | .nan => ⟨0, false, true⟩
  | .inf neg => ⟨wrapInt n (if neg then lo else hi), true, false⟩
  | .fin neg mag =>
    let q := if neg then -mag else mag
    let k := roundInt mode q
    if mode.exceeds (-(lo : Rat)) (-q) (-(k : Rat)) then ⟨wrapInt n lo, true, false⟩
    else if mode.exceeds (hi : Rat) q (k : Rat) then ⟨wrapInt n hi, true, false⟩
    else ⟨wrapInt n k, false, false⟩

/-- Convert a value to a format that is neither MX nor RAW. -/
def convTo (c : Nat) (mode : RMode) (satFp : Bool) (v : FVal) : Conv :=
  match fpFmt c with
  | some f => f.conv mode satFp v
  | none => convInt (elemBits c) mode v

/-- Convert one element of an MX block, already divided by the block scale: it saturates, keeping its sign (Table 4-3). -/
def convMxElem (c : Nat) (mode : RMode) (v : FVal) : Conv :=
  match fpFmt c with
  | some f =>
    match v with
    | .nan => ⟨0, false, true⟩
    | .inf neg => ⟨f.encodeFin neg f.maxFin, true, false⟩
    | .fin neg mag =>
      let r := f.roundQ mode (if neg then -mag else mag)
      let a := if r < 0 then -r else r
      if mode.exceeds f.maxFin mag a then ⟨f.encodeFin neg f.maxFin, true, false⟩ else ⟨f.encodeFin neg a, false, false⟩
  | none =>
    match v with
    | .nan => ⟨0, false, true⟩
    | .inf neg => ⟨wrapInt 8 (if neg then -127 else 127), true, false⟩
    | .fin neg mag =>
      let q := (if neg then -mag else mag) * 64
      let k := roundInt mode q
      if mode.exceeds 127 (-q) (-(k : Rat)) then ⟨wrapInt 8 (-127), true, false⟩
      else if mode.exceeds 127 q (k : Rat) then ⟨127, true, false⟩
      else ⟨wrapInt 8 k, false, false⟩

/-- The block exponent X of an MX output block (R92): floor(log2(largest |y|)) - e_hi, limited to ±127; an all-zero block takes -127. -/
def mxBlockExp (c : Nat) (largest : Rat) : Int :=
  if largest = 0 then -127
  else
    let eh : Int := if c = 0x15 then 0 else (elemLimits c).2
    max (-127) (min 127 (ilog2 largest - eh))

/-- One step of the stochastic generator: the next state and the 24-bit draw (R95). -/
def srStep (x : Word64) : Word64 × Nat :=
  let x := x ^^^ (x <<< 13)
  let x := x ^^^ (x >>> 7)
  let x := x ^^^ (x <<< 17)
  (x, fld x 63 40)

/-- A generator state as loaded: 0 is replaced (R95). -/
def srLoad (x : Word64) : Word64 := if x = 0#64 then 0x5a3c96e10f87d24b#64 else x

/-- The private generator's start for an op seed (R95). -/
def srPrivate (seed m0 n0 : Nat) : Word64 :=
  BitVec.ofNat 64 (seed % 2 ^ 32 * 2 ^ 32) ^^^ BitVec.ofNat 64 (m0 % 2 ^ 16 * 2 ^ 16) ^^^ BitVec.ofNat 64 (n0 % 2 ^ 16)

end Sys2Proof.Machine
end

