-- ==== Sys2Proof/Config.lean ====
section
/-! DEFINITION. What an implementation fixes and the manual leaves open: the free values (no body, so nothing can be proved of them), and the cryptographic functions that the manual names but does not define. -/

namespace Sys2Proof.Config

/-- The k-th free value that a run takes (log entry 3). The state counts how many have been taken. -/
opaque freeValue : Nat → Word64

/-- How far, in units in the last place, a special function lies from the correctly rounded result, per function code and operand (R100, log entry 8). Callers limit it to the manual's bound. -/
opaque ulpOffset : Nat → Word32 → Nat

/-- What max and min give when one operand is a NaN, and other elementwise corners without a stated result (log entry 9): function code and the two operands. -/
opaque openResult : Nat → Word32 → Word32 → Word32

/-- TNORM's result at one position: kind, the values along the axis, gamma and beta there, epsilon, position; the manual states no formula and no order of operations (R128, log entry 24). -/
opaque openNorm : Nat → List Word32 → Word32 → Word32 → Word32 → Nat → Word32

/-- The greatest sum of block exponents when every block pair holds a scale code 0xFF, by the formats and kt (R87 states none, log entry 22). Callers limit it to the sums that two block exponents can have. -/
opaque openScaleSum : Nat → Nat → Nat → Nat

/-- SHA-512 of a message, 64 bytes (R43, R213 of the manual name it; FIPS 180-4 defines it; log entry 10). -/
opaque sha512 : List Byte → List Byte

/-- Verification of an ECDSA P-521 signature over SHA-512: public key, message, signature (log entry 10). -/
opaque ecdsaVerify : List Byte → List Byte → List Byte → Bool

/-- A signature of a message with the device's identity key, 132 bytes; the number is the count of free values taken, since a signature draws a fresh nonce (log entry 10). -/
opaque identitySign : Nat → List Byte → List Byte

/-- AES-256-GCM sealing: key, nonce, additional data, plaintext; the ciphertext followed by the 16-byte tag (log entry 10). -/
opaque gcmSeal : List Byte → List Byte → List Byte → List Byte → List Byte

/-- AES-256-GCM opening: key, nonce, additional data, ciphertext with its tag; nothing when the tag fails (log entry 10). -/
opaque gcmOpen : List Byte → List Byte → List Byte → List Byte → Option (List Byte)

/-- The public half of the k-th ephemeral P-521 key that the device makes, 133 bytes (log entry 10). -/
opaque ephemeralPub : Nat → List Byte

/-- The ECDH shared x-coordinate of the k-th ephemeral key with a peer's public key, 66 bytes (log entry 10). -/
opaque ecdhShared : Nat → List Byte → List Byte

/-- The device's seal key (R377 derives it from the PUF; log entry 10). -/
opaque sealKey : List Byte

/-- The two firmware public keys of Avinamen that the boot ROM holds, 0 and 1 (R381; log entry 10). -/
opaque avinamenKey : Nat → List Byte

/-- What a read of a peer device returns over Twimi, by peer, address and count of free values taken (R17; log entry 11). -/
opaque remoteByte : Nat → Nat → Nat → Byte

/-- The row of a stack that an offset lies in, with its bank in the low part: the manual gives no size of a row and no place of it (R270, R271; log entry 37). -/
opaque stackRow : Nat → Nat → Nat

/-- The bank (of a pseudo-channel) that a row of a stack lies in, 0-127 (R271; log entry 37). -/
opaque stackBank : Nat → Nat → Nat

/-- The four 16-bit channels R, G, B, A (low to high) of a layer's pixel from its format code and raw bits; for NV12 luma with the chroma pair above it (R314, Table 12-8; log entry 39). -/
opaque layerPixel : Nat → Nat → Word64

/-- One step of premultiplied source-over in 16-bit fixed point: destination, source, the layer's global alpha (R314; log entry 39). -/
opaque blend16 : Word64 → Word64 → Nat → Word64

/-- An output code from a gamma table entry and the output depth in bits (R314; log entry 39). -/
opaque outCode : Nat → Nat → Nat

/-- The device's own MAC address on an Ethernet port, which the manual does not give (log entry 42). -/
opaque portMac : Nat → BitVec 48

/-- The payload of an IEEE 1722 NTSCF frame with one ACF CAN message: stream_id, a count of free values taken for what the standard numbers, the packed frame (ID with bit 31 for 29-bit, FD flag, data) (R342, Table 13-7; log entry 42). -/
opaque ntscf : Nat → Nat → Nat × Bool × List Byte → List Byte

/-- The ACF CAN messages of an NTSCF payload: ID with bit 31 for 29-bit, FD flag, data (Table 13-7; log entry 42). -/
opaque ntscfMessages : List Byte → List (Nat × Bool × List Byte)

/-- Whether a 4 KiB page of the host-complex private region holds an IMSIC interrupt file; the manual gives no map of the region (R352; log entry 43). -/
opaque imsicPage : Nat → Bool

end Sys2Proof.Config
end

