-- ==== Sys2Proof/Machine/Map.lean ====
section
/-! DEFINITION. Finite maps by number, in one canonical form: keys strictly rising and no entry equal to what an unlisted key reads as. Memory, objects and register files are all of this shape. -/

namespace Sys2Proof.Machine

/-- A map from numbers to values, held as its listed entries. -/
abbrev TMap (α : Type) := List (Nat × α)

/-- The value at key `k`; an unlisted key reads as `d k`. -/
def TMap.get {α : Type} (d : Nat → α) : TMap α → Nat → α
  | [], k => d k
  | e :: m, k => if e.1 = k then e.2 else TMap.get d m k

/-- The listed entry at key `k`, if there is one. -/
def TMap.find {α : Type} : TMap α → Nat → Option α
  | [], _ => none
  | e :: m, k => if e.1 = k then some e.2 else TMap.find m k

/-- List the entry (k, v), in key order, in place of any listed at `k`. -/
def TMap.put {α : Type} : TMap α → Nat → α → TMap α
  | [], k, v => [(k, v)]
  | e :: m, k, v =>
    if k < e.1 then (k, v) :: e :: m
    else if e.1 = k then (k, v) :: m
    else e :: TMap.put m k v

/-- Drop what is listed at key `k`. -/
def TMap.del {α : Type} (m : TMap α) (k : Nat) : TMap α :=
  m.filter fun e => e.1 != k

/-- Write `v` at key `k`; writing what an unlisted key reads as drops the entry. -/
def TMap.set {α : Type} [DecidableEq α] (d : Nat → α) (m : TMap α) (k : Nat) (v : α) : TMap α :=
  if v = d k then TMap.del m k else TMap.put m k v

/-- Write a run of consecutive keys from `k`. -/
def TMap.setRun {α : Type} [DecidableEq α] (d : Nat → α) (m : TMap α) (k : Nat) : List α → TMap α
  | [] => m
  | v :: vs => TMap.setRun d (TMap.set d m k v) (k + 1) vs

/-- Read a run of `n` consecutive keys from `k`. -/
def TMap.getRun {α : Type} (d : Nat → α) (m : TMap α) (k n : Nat) : List α :=
  (List.range n).map fun i => TMap.get d m (k + i)

/-- Drop every entry whose key lies in [lo, lo + n). -/
def TMap.clearRange {α : Type} (m : TMap α) (lo n : Nat) : TMap α :=
  m.filter fun e => !(decide (lo ≤ e.1) && decide (e.1 < lo + n))

/-- Replace what is listed in [lo, lo + vs.length) by a run of values. -/
def TMap.putRange {α : Type} [DecidableEq α] (d : Nat → α) (m : TMap α) (lo : Nat) (vs : List α) : TMap α :=
  m.filter (fun e => decide (e.1 < lo))
    ++ ((List.range vs.length).zip vs).filterMap (fun x => if x.2 = d (lo + x.1) then none else some (lo + x.1, x.2))
    ++ m.filter (fun e => decide (lo + vs.length ≤ e.1))

/-- The canonical form: keys strictly rising, and no entry equal to the unlisted value. -/
def TMap.wf {α : Type} [DecidableEq α] (d : Nat → α) : TMap α → Bool
  | [] => true
  | [e] => e.2 != d e.1
  | e :: e' :: m => (e.2 != d e.1) && decide (e.1 < e'.1) && TMap.wf d (e' :: m)

end Sys2Proof.Machine
end

