-- ==== Sys2Proof/Machine/Objects.lean ====
section
/-! DEFINITION. The object dictionary as data: one row per listed object family of the manual's object tables (type, access, default, persistence, reserved bits, range), and what is looked up in it (R26-R30, R463, R464). -/

namespace Sys2Proof.Machine

/-- Types of Table 2-2. -/
inductive ObjTy where
  | bool | u8 | u16 | u32 | u64 | i32 | i64 | bits32 | bits64 | time64 | fp32 | domain
deriving DecidableEq, Repr

/-- Access codes of R30. -/
inductive Acc where
  | ro | wo | rw | rwl | rwc
deriving DecidableEq, Repr

/-- The range that an object's listing states for its values (R463 step 6). -/
inductive Rng where
  | any
  | rng (lo hi : Nat)
  | step (lo hi by_ : Nat)
  | one
  | align (n : Nat)
  | pow2 (lo hi : Nat)
  | signed (negLo hi : Nat)
  | zeroOr (lo hi : Nat)
  | fp (lo hi : Nat)
  | dom (cap : Nat)
  | domExact (n : Nat)
  | domRec (size count : Nat)
  | lookup | capConfig | capSource | distribution | portConfig | frameGeometry | gfxInst | pipeConfig | layerSrc
  | queueMode | listener | canWake | canConfig | canRecovery | linkConfig | winConfig | winSize
deriving DecidableEq, Repr

/-- How a write combines with the old value: plain, bits that only a 0 clears (event objects), or cleared as a whole by 0 (R464). -/
inductive WKind where
  | plain
  | evt (mask : Nat)
  | clear0
deriving DecidableEq, Repr

/-- One row of the object tables: indices base + stride*a + b (a < count, b < count2), subindices sub + step*j (j < reps). `mask` has the bits that are not reserved. -/
structure ObjRow where
  base : Nat
  stride : Nat
  count : Nat
  count2 : Nat
  sub : Nat
  step : Nat
  reps : Nat
  ty : ObjTy
  acc : Acc
  dflt : Nat
  persistent : Bool
  mask : Nat
  rng : Rng
  wk : WKind
deriving DecidableEq, Repr

/-- Rows of the object tables, part 0. -/
def objRows0 : List ObjRow := [
  ⟨0x1000, 0x1, 1, 1, 0x1, 1, 1, .u32, .ro, 0x41564e, false, 0xffffffff, .any, .plain⟩, -- vendor_id
  ⟨0x1000, 0x1, 1, 1, 0x2, 1, 1, .u32, .ro, 0xd060, false, 0xffffffff, .any, .plain⟩, -- product_code
  ⟨0x1000, 0x1, 1, 1, 0x3, 1, 1, .u16, .ro, 0xa01, false, 0xffff, .any, .plain⟩, -- stepping
  ⟨0x1000, 0x1, 1, 1, 0x4, 1, 1, .u8, .ro, 0x0, false, 0xff, .any, .plain⟩, -- device_number
  ⟨0x1001, 0x1, 1, 1, 0x1, 1, 1, .bits32, .ro, 0x0, false, 0xffffffff, .any, .plain⟩, -- error_register
  ⟨0x1002, 0x1, 1, 1, 0x1, 1, 1, .bits32, .rw, 0x0, false, 0x3f, .any, (.evt 0x3f)⟩, -- device_events
  ⟨0x1003, 0x1, 1, 1, 0x1, 1, 1, .bool, .ro, 0x0, false, 0x1, .any, .plain⟩, -- defaults_in_use
  ⟨0x1003, 0x1, 1, 1, 0x2, 1, 1, .u8, .ro, 0x0, false, 0xff, .any, .plain⟩, -- active_copy
  ⟨0x1003, 0x1, 1, 1, 0x3, 1, 1, .u32, .ro, 0x0, false, 0xffffffff, .any, .plain⟩, -- active_version
  ⟨0x1003, 0x1, 1, 1, 0x4, 1, 2, .u16, .ro, 0x0, false, 0xffff, .any, .plain⟩, -- records_skipped, records_defaulted
  ⟨0x1004, 0x1, 1, 1, 0x1, 1, 1, .u64, .rw, 0x0, false, 0xffffffffffffffff, .any, .clear0⟩, -- window_status
  ⟨0x1005, 0x1, 1, 1, 0x1, 1, 1, .u32, .rw, 0x0, false, 0xffffff00, .any, .plain⟩, -- xfer_target
  ⟨0x1005, 0x1, 1, 1, 0x2, 1, 1, .u64, .rw, 0x0, false, 0xffffffffffffffff, .any, .plain⟩, -- xfer_buffer
  ⟨0x1005, 0x1, 1, 1, 0x3, 1, 1, .u8, .wo, 0x0, false, 0xff, .any, .plain⟩, -- xfer_command
  ⟨0x1005, 0x1, 1, 1, 0x4, 1, 1, .u32, .ro, 0x0, false, 0xffff00ff, .any, .plain⟩, -- xfer_status
  ⟨0x1010, 0x1, 1, 1, 0x1, 1, 1, .u32, .wo, 0x0, false, 0xffffffff, .any, .plain⟩, -- store
  ⟨0x1010, 0x1, 1, 1, 0x2, 1, 1, .u8, .ro, 0x0, false, 0xff, .any, .plain⟩, -- store_status
  ⟨0x1011, 0x1, 1, 1, 0x1, 1, 1, .bool, .rwl, 0x0, true, 0x1, .any, .plain⟩, -- signature_required
  ⟨0x1011, 0x1, 1, 1, 0x2, 1, 1, .bool, .rwl, 0x0, false, 0x1, .one, .plain⟩, -- lock_store_policy
  ⟨0x1012, 0x1, 1, 1, 0x1, 1, 1, .domain, .rw, 0x0, false, 0xffffffffffffffff, .dom 0x1000000, .plain⟩, -- config_image
  ⟨0x1018, 0x1, 1, 1, 0x1, 1, 1, .time64, .wo, 0x0, false, 0xffffffffffffffff, .any, .plain⟩, -- commit
  ⟨0x1018, 0x1, 1, 1, 0x2, 1, 1, .time64, .ro, 0x0, false, 0xffffffffffffffff, .any, .plain⟩, -- commit_applied
  ⟨0x1020, 0x1, 1, 1, 0x1, 1, 1, .u16, .rwl, 0x2, true, 0xffff, .any, .plain⟩, -- control_vlan
  ⟨0x1020, 0x1, 1, 1, 0x2, 1, 1, .u16, .ro, 0x88b5, false, 0xffff, .any, .plain⟩, -- ethertype
  ⟨0x1020, 0x1, 1, 1, 0x4, 1, 1, .u32, .rw, 0x2710, true, 0xffffffff, .rng 100 600000, .plain⟩, -- session_idle_timeout
  ⟨0x1020, 0x1, 1, 1, 0x5, 1, 1, .bool, .rwl, 0x0, false, 0x1, .one, .plain⟩, -- lock_cxop_transport
  ⟨0x1021, 0x1, 1, 1, 0x1, 1, 1, .bits32, .rwl, 0x0, true, 0xff, .any, .plain⟩, -- canxl_enable
  ⟨0x1021, 0x1, 1, 1, 0x2, 1, 1, .u8, .rwl, 0x7e, true, 0xff, .any, .plain⟩, -- sdu_type
  ⟨0x1022, 0x1, 1, 1, 0x1, 1, 1, .u8, .ro, 0x0, false, 0xff, .any, .plain⟩, -- open_sessions
  ⟨0x1022, 0x1, 1, 1, 0x2, 1, 3, .u32, .ro, 0x0, false, 0xffffffff, .any, .plain⟩, -- auth_failures, replays_dropped, malformed
  ⟨0x1023, 0x1, 1, 1, 0x1, 1, 1, .u8, .ro, 0x0, false, 0xff, .any, .plain⟩, -- subscriptions_in_use
  ⟨0x1024, 0x1, 1, 1, 0x1, 1, 1, .bits32, .rw, 0x0, false, 0xffffffff, .any, .plain⟩, -- notice_mask
  ⟨0x1024, 0x1, 1, 1, 0x2, 1, 1, .bits32, .rw, 0xffffffff, true, 0xffffffff, .any, .plain⟩, -- notice_mask_default
  ⟨0x2000, 0x1, 1, 1, 0x1, 1, 1, .u64, .ro, 0x0, false, 0xffffffffffffffff, .any, .plain⟩, -- counter
  ⟨0x2000, 0x1, 1, 1, 0x2, 1, 1, .u8, .rw, 0x0, true, 0xff, .rng 0 1, .plain⟩, -- selected_domain
  ⟨0x2000, 0x1, 1, 1, 0x3, 1, 1, .time64, .ro, 0x0, false, 0xffffffffffffffff, .any, .plain⟩, -- network_time
  ⟨0x2000, 0x1, 1, 1, 0x4, 1, 1, .bool, .rw, 0x0, true, 0x1, .any, .plain⟩, -- auto_failover
  ⟨0x2000, 0x1, 1, 1, 0x5, 1, 1, .bits32, .rw, 0x4, false, 0xffff0007, .any, (.evt 0x2)⟩, -- switch_status
  ⟨0x2000, 0x1, 1, 1, 0x6, 1, 1, .i64, .ro, 0x0, false, 0xffffffffffffffff, .any, .plain⟩, -- slew_remaining
  ⟨0x2001, 0x1, 2, 1, 0x1, 1, 1, .u8, .ro, 0x0, false, 0xff, .any, .plain⟩] -- state

/-- Rows of the object tables, part 1. -/
def objRows1 : List ObjRow := [
  ⟨0x2001, 0x1, 2, 1, 0x2, 1, 1, .i64, .ro, 0x0, false, 0xffffffffffffffff, .any, .plain⟩, -- offset
  ⟨0x2001, 0x1, 2, 1, 0x3, 1, 1, .i32, .ro, 0x0, false, 0xffffffffffffffff, .any, .plain⟩, -- rate
  ⟨0x2001, 0x1, 2, 1, 0x4, 1, 1, .u32, .ro, 0x0, false, 0xffffffff, .any, .plain⟩, -- epoch
  ⟨0x2001, 0x1, 2, 1, 0x5, 1, 1, .u64, .ro, 0x0, false, 0xffffffffffffffff, .any, .plain⟩, -- grandmaster_id
  ⟨0x2001, 0x1, 2, 1, 0x6, 1, 1, .u8, .rw, 0x0, true, 0xff, .rng 0 127, .plain⟩, -- domain_number
  ⟨0x2001, 0x1, 2, 1, 0x7, 1, 1, .u32, .rw, 0x3e8, true, 0xffffffff, .rng 10 60000, .plain⟩, -- holdover_limit
  ⟨0x2001, 0x1, 2, 1, 0x8, 1, 2, .u64, .ro, 0x0, false, 0xffffffffffffffff, .any, .plain⟩, -- anchor, prev_anchor
  ⟨0x2001, 0x1, 2, 1, 0xa, 1, 1, .i64, .ro, 0x0, false, 0xffffffffffffffff, .any, .plain⟩, -- prev_offset
  ⟨0x2001, 0x1, 2, 1, 0xb, 1, 1, .i32, .ro, 0x0, false, 0xffffffffffffffff, .any, .plain⟩, -- prev_rate
  ⟨0x2010, 0x1, 16, 1, 0x1, 1, 1, .bits32, .rw, 0x0, true, 0x3, .any, .plain⟩, -- trig_config
  ⟨0x2010, 0x1, 16, 1, 0x2, 1, 2, .u32, .ro, 0x0, false, 0xffffffff, .any, .plain⟩, -- pulses, overlaps
  ⟨0x2020, 0x1, 1, 1, 0x1, 1, 1, .bits32, .rw, 0x0, false, 0x3, .any, (.evt 0x3)⟩, -- cadence_events
  ⟨0x2100, 0x1, 32, 1, 0x1, 6, 32, .bits64, .rwc, 0x0, true, 0xef00000000000000, .any, .plain⟩, -- cadence slot 0
  ⟨0x2100, 0x1, 32, 1, 0x2, 6, 32, .bits64, .rwc, 0x0, true, 0xffffffffffffffff, .any, .plain⟩, -- cadence slot 1
  ⟨0x2100, 0x1, 32, 1, 0x3, 6, 32, .bits64, .rwc, 0x0, true, 0xffffffffffffffff, .any, .plain⟩, -- cadence slot 2
  ⟨0x2100, 0x1, 32, 1, 0x4, 6, 32, .bits64, .rwc, 0x0, true, 0xffffffffffffffff, .any, .plain⟩, -- cadence slot 3
  ⟨0x2100, 0x1, 32, 1, 0x5, 6, 32, .bits64, .ro, 0x0, false, 0xffffffffffffffff, .any, .plain⟩, -- cadence slot 4
  ⟨0x2100, 0x1, 32, 1, 0x6, 6, 32, .bits64, .ro, 0x0, false, 0xffffffffffffffff, .any, .plain⟩, -- cadence slot 5
  ⟨0x2400, 0x8, 8, 1, 0x1, 1, 1, .bits64, .rwc, 0x200000000000068, true, 0xfffffff8ffffffff, .any, .plain⟩, -- slot_config
  ⟨0x2400, 0x8, 8, 1, 0x2, 1, 4, .bits64, .rwc, 0x0, true, 0xffffffffffffffff, .any, .plain⟩, -- input_0–input_3, input_0–input_3, input_0–input_3, input_0–input_3
  ⟨0x2400, 0x8, 8, 1, 0x6, 1, 1, .fp32, .rwc, 0x0, true, 0xffffffff, .any, .plain⟩, -- fe_limit
  ⟨0x2400, 0x8, 8, 1, 0x7, 1, 1, .u32, .rwc, 0x0, true, 0xffffffff, .any, .plain⟩, -- fe_time
  ⟨0x2400, 0x8, 8, 1, 0x8, 1, 1, .fp32, .rwc, 0xf149f2ca, true, 0xffffffff, .any, .plain⟩, -- out_min
  ⟨0x2400, 0x8, 8, 1, 0x9, 1, 1, .fp32, .rwc, 0x7149f2ca, true, 0xffffffff, .any, .plain⟩, -- out_max
  ⟨0x2400, 0x8, 8, 1, 0xa, 1, 2, .fp32, .rwc, 0x0, true, 0xffffffff, .any, .plain⟩, -- rate_limit, safe_value
  ⟨0x2400, 0x8, 8, 1, 0xc, 1, 1, .fp32, .rw, 0x0, false, 0xffffffff, .any, .plain⟩, -- setpoint
  ⟨0x2400, 0x8, 8, 1, 0xd, 1, 1, .bits64, .rwc, 0x0, true, 0xffff0000ffff, .any, .plain⟩, -- output_frame
  ⟨0x2400, 0x8, 8, 1, 0xe, 1, 4, .fp32, .rwc, 0x3f800000, true, 0xffffffff, .any, .plain⟩, -- in_scale_0–in_scale_3, in_scale_0–in_scale_3, in_scale_0–in_scale_3
  ⟨0x2401, 0x8, 8, 1, 0x1, 1, 40, .fp32, .rwc, 0x0, true, 0xffffffff, .any, .plain⟩, -- coefficients, coefficients, coefficients, coefficients, coefficients
  ⟨0x2402, 0x8, 8, 1, 0x1, 1, 1, .domain, .rwc, 0x0, true, 0xffffffffffffffff, .lookup, .plain⟩, -- table
  ⟨0x2403, 0x8, 8, 1, 0x1, 1, 2, .fp32, .ro, 0x0, false, 0xffffffff, .any, .plain⟩, -- last_output, last_error
  ⟨0x2403, 0x8, 8, 1, 0x3, 1, 2, .u32, .ro, 0x0, false, 0xffffffff, .any, .plain⟩, -- fe_timer, stale_count
  ⟨0x2440, 0x1, 1, 1, 0x1, 1, 1, .bits32, .rw, 0x0, false, 0xffff, .any, (.evt 0xffff)⟩, -- lodestone_events
  ⟨0x3000, 0x100, 16, 1, 0x1, 1, 1, .u8, .ro, 0x5, false, 0xff, .any, .plain⟩, -- core_state
  ⟨0x3000, 0x100, 16, 1, 0x2, 1, 1, .u8, .ro, 0xff, false, 0xff, .any, .plain⟩, -- holder
  ⟨0x3000, 0x100, 16, 1, 0x3, 1, 1, .u8, .ro, 0x0, false, 0xff, .any, .plain⟩, -- core_world
  ⟨0x3001, 0x100, 16, 1, 0x1, 1, 1, .bits32, .rw, 0x0, false, 0x3f, .any, (.evt 0x3f)⟩, -- arith_flags
  ⟨0x3001, 0x100, 16, 1, 0x2, 1, 1, .u64, .wo, 0x0, false, 0xffffffffffffffff, .any, .plain⟩, -- sr_seed
  ⟨0x3001, 0x100, 16, 1, 0x3, 1, 1, .u64, .ro, 0x0, false, 0xffffffffffffffff, .any, .plain⟩, -- sr_state
  ⟨0x3002, 0x100, 16, 1, 0x1, 1, 4, .u64, .ro, 0x0, false, 0xffffffffffffffff, .any, .plain⟩] -- slab_busy, mica_busy, macs, dma_bytes

/-- Rows of the object tables, part 2. -/
def objRows2 : List ObjRow := [
  ⟨0x3003, 0x100, 16, 1, 0x1, 1, 4, .u32, .ro, 0x0, false, 0xffffffff, .any, .plain⟩, -- ls_corrected, ls_uncorrected, acc_corrected, acc_uncorrected
  ⟨0x3003, 0x100, 16, 1, 0x5, 1, 1, .u64, .ro, 0x0, false, 0xffffffffffffffff, .any, .plain⟩, -- last_ecc_addr
  ⟨0x3004, 0x100, 16, 1, 0x1, 1, 1, .u64, .ro, 0x0, false, 0xffffffffffffffff, .any, .plain⟩, -- ctl_pc
  ⟨0x3004, 0x100, 16, 1, 0x2, 1, 1, .bits32, .ro, 0x0, false, 0xfff0ffff, .any, .plain⟩, -- exc_cause
  ⟨0x3004, 0x100, 16, 1, 0x3, 1, 2, .u64, .ro, 0x0, false, 0xffffffffffffffff, .any, .plain⟩, -- exc_op_addr, exc_info
  ⟨0x3004, 0x100, 16, 1, 0x5, 1, 1, .u32, .ro, 0x0, false, 0xffffffff, .any, .plain⟩, -- exc_count
  ⟨0x3004, 0x100, 16, 1, 0x6, 1, 1, .u32, .rw, 0x186a0, true, 0xffffffff, .rng 1000 1000000, .plain⟩, -- watchdog_limit
  ⟨0x3004, 0x100, 16, 1, 0x7, 1, 1, .u64, .ro, 0x0, false, 0xffffffffffffffff, .any, .plain⟩, -- ops_retired
  ⟨0x3004, 0x100, 16, 1, 0x8, 1, 1, .bits32, .ro, 0x0, false, 0xffffffff, .any, .plain⟩, -- queue_levels
  ⟨0x3004, 0x100, 16, 1, 0x9, 1, 1, .u64, .ro, 0x0, false, 0xffffffffffffffff, .any, .plain⟩, -- direct_stream
  ⟨0x3005, 0x100, 16, 1, 0x1, 1, 32, .u32, .ro, 0x0, false, 0xffffffff, .any, .plain⟩, -- event_ctr_0–event_ctr_31, event_ctr_0–event_ctr_31, event_ctr_0–event_ctr_31
  ⟨0x4200, 0x10, 16, 1, 0x1, 1, 1, .u8, .ro, 0x0, false, 0xff, .any, .plain⟩, -- placer_status
  ⟨0x4200, 0x10, 16, 1, 0x2, 1, 1, .bits32, .ro, 0x0, false, 0xffff, .any, .plain⟩, -- plans_loaded
  ⟨0x4200, 0x10, 16, 1, 0x3, 1, 1, .u64, .ro, 0x0, false, 0xffffffffffffffff, .any, .plain⟩, -- lode_dir
  ⟨0x4200, 0x10, 16, 1, 0x4, 1, 1, .bits32, .ro, 0x0, false, 0xffff, .any, .plain⟩, -- unrunnable
  ⟨0x4200, 0x10, 16, 1, 0x5, 1, 1, .u8, .rw, 0x0, false, 0xff, .rng 0 1, .plain⟩, -- replace_policy
  ⟨0x4200, 0x10, 16, 1, 0x6, 1, 1, .u32, .rw, 0x2710, false, 0xffffffff, .rng 0 1000000, .plain⟩, -- shrink_grace
  ⟨0x4200, 0x10, 16, 1, 0x7, 1, 2, .u32, .ro, 0x0, false, 0xffffffff, .any, .plain⟩, -- replacements, cancelled_runs
  ⟨0x4200, 0x10, 16, 1, 0x9, 1, 1, .u8, .ro, 0x0, false, 0xff, .any, .plain⟩, -- last_cause
  ⟨0x4200, 0x10, 16, 1, 0xa, 1, 1, .u16, .wo, 0x0, false, 0xffff, .any, .plain⟩, -- replace
  ⟨0x4200, 0x10, 16, 1, 0xb, 1, 1, .bool, .rwl, 0x0, false, 0x1, .any, .plain⟩, -- signed_plans_only
  ⟨0x4200, 0x10, 16, 1, 0xc, 1, 1, .bool, .rwl, 0x0, false, 0x1, .one, .plain⟩, -- lock_plan_policy
  ⟨0x4400, 0x1, 1, 1, 0x1, 1, 1, .u16, .ro, 0x1000, false, 0xffff, .any, .plain⟩, -- ledger_entries
  ⟨0x4400, 0x1, 1, 1, 0x2, 1, 2, .u16, .ro, 0x0, false, 0xffff, .any, .plain⟩, -- ledger_used, quota_allocated
  ⟨0x4400, 0x1, 1, 1, 0x4, 1, 1, .u64, .ro, 0x0, false, 0xffffffffffffffff, .any, .plain⟩, -- compares
  ⟨0x4400, 0x1, 1, 1, 0x5, 1, 1, .bits32, .ro, 0x0, false, 0xffff0007, .any, .plain⟩, -- comparator_test
  ⟨0x4401, 0x1, 1, 1, 0x1, 1, 1, .domain, .ro, 0x0, false, 0xffffffffffffffff, .dom 65536, .plain⟩, -- ledger_image
  ⟨0x4410, 0x1, 16, 1, 0x1, 1, 2, .u16, .ro, 0x0, false, 0xffff, .any, .plain⟩, -- ledger_quota, ledger_in_use
  ⟨0x4410, 0x1, 16, 1, 0x3, 1, 1, .u16, .rw, 0x0, false, 0xffff, .any, .clear0⟩, -- ledger_peak
  ⟨0x4410, 0x1, 16, 1, 0x4, 1, 1, .u32, .rw, 0x4e20, false, 0xffffffff, .rng 1000 100000, .plain⟩, -- assay_window
  ⟨0x4410, 0x1, 16, 1, 0x5, 1, 1, .u64, .ro, 0x0, false, 0xffffffffffffffff, .any, .plain⟩, -- stall_time
  ⟨0x4410, 0x1, 16, 1, 0x6, 1, 6, .u32, .ro, 0x0, false, 0xffffffff, .any, .plain⟩, -- stalls, mismatches, timeouts, broken, weak_groups, last_assayed
  ⟨0x4410, 0x1, 16, 1, 0xc, 1, 2, .u64, .ro, 0x0, false, 0xffffffffffffffff, .any, .plain⟩, -- spec_base, spec_size
  ⟨0x4410, 0x1, 16, 1, 0xe, 1, 1, .bits64, .ro, 0x0, false, 0xffff0000ffffffff, .any, .plain⟩, -- last_event
  ⟨0x4410, 0x1, 16, 1, 0xf, 1, 2, .u32, .ro, 0x0, false, 0xffffffff, .any, .plain⟩, -- deadlocks, squashed_runs
  ⟨0x4410, 0x1, 16, 1, 0x11, 1, 4, .bits64, .ro, 0x0, false, 0xffffffffffffffff, .any, .plain⟩, -- kv_poisoned_0–3, kv_poisoned_0–3, kv_poisoned_0–3, kv_poisoned_0–3
  ⟨0x4500, 0x1, 256, 1, 0x1, 1, 1, .bits64, .rw, 0x0, true, 0x8ff0000000000000, .capConfig, .plain⟩, -- cap_config
  ⟨0x4500, 0x1, 256, 1, 0x2, 1, 16, .bits64, .rw, 0x0, true, 0xc000ffffffffffff, .capSource, .plain⟩, -- source_0–source_15, source_0–source_15, source_0–source_15, source_0–source_15
  ⟨0x4500, 0x1, 256, 1, 0x12, 1, 1, .u64, .rw, 0x0, false, 0xffffffffffffffff, .align 64, .plain⟩, -- cap_base
  ⟨0x4500, 0x1, 256, 1, 0x13, 1, 1, .u32, .ro, 0x0, false, 0xffffffff, .any, .plain⟩] -- slot_size

/-- Rows of the object tables, part 3. -/
def objRows3 : List ObjRow := [
  ⟨0x4500, 0x1, 256, 1, 0x14, 1, 1, .u8, .ro, 0xff, false, 0xff, .any, .plain⟩, -- latest_slot
  ⟨0x4500, 0x1, 256, 1, 0x15, 1, 1, .u32, .ro, 0x0, false, 0xffffffff, .any, .plain⟩, -- overruns
  ⟨0x4800, 0x40, 16, 1, 0x1, 1, 1, .u8, .ro, 0x0, false, 0xff, .any, .plain⟩, -- inst_state
  ⟨0x4800, 0x40, 16, 1, 0x2, 1, 1, .u64, .wo, 0x0, false, 0xff00000000000000, .any, .plain⟩, -- inst_command
  ⟨0x4800, 0x40, 16, 1, 0x3, 1, 1, .u64, .ro, 0x0, false, 0xff0000000000ffff, .any, .plain⟩, -- inst_status
  ⟨0x4800, 0x40, 16, 1, 0x4, 1, 1, .u8, .ro, 0x0, false, 0xff, .any, .plain⟩, -- inst_world
  ⟨0x4800, 0x40, 16, 1, 0x5, 1, 1, .bits32, .rw, 0x0, false, 0x8000ffff, .any, .plain⟩, -- guest_binding
  ⟨0x4800, 0x40, 16, 1, 0x6, 1, 1, .u32, .rw, 0x0, false, 0xffffffff, .zeroOr 10 60000, .plain⟩, -- heartbeat_timeout
  ⟨0x4801, 0x40, 16, 1, 0x1, 1, 1, .u8, .rw, 0x0, false, 0xff, .rng 0 15, .plain⟩, -- partition
  ⟨0x4801, 0x40, 16, 1, 0x2, 1, 1, .u32, .rw, 0x2710, false, 0xffffffff, .rng 100 100000, .plain⟩, -- slice_length
  ⟨0x4801, 0x40, 16, 1, 0x3, 1, 2, .u64, .rw, 0x0, false, 0xffffffffffffffff, .any, .plain⟩, -- cmem_quota, stack_quota
  ⟨0x4801, 0x40, 16, 1, 0x5, 1, 1, .u32, .rw, 0x0, false, 0xffffffff, .any, .plain⟩, -- bw_guarantee
  ⟨0x4801, 0x40, 16, 1, 0x6, 1, 1, .u16, .rw, 0x0, false, 0xffff, .any, .plain⟩, -- ledger_quota_req
  ⟨0x4801, 0x40, 16, 1, 0x7, 1, 2, .u64, .rw, 0x0, false, 0xffffffffffffffff, .any, .plain⟩, -- kv_quota, spec_size
  ⟨0x4801, 0x40, 16, 1, 0x9, 1, 1, .bits32, .rw, 0x0, false, 0x7, .any, .plain⟩, -- inst_flags
  ⟨0x4802, 0x40, 16, 1, 0x1, 1, 1, .bits32, .rw, 0x0, false, 0xf, .any, (.evt 0xe)⟩, -- mbox_events
  ⟨0x4802, 0x40, 16, 1, 0x2, 1, 5, .u32, .ro, 0x0, false, 0xffffffff, .any, .plain⟩, -- msgs_in, msgs_out, refused, provisional_dropped, discarded_out
  ⟨0x4803, 0x40, 16, 1, 0x1, 1, 8, .u64, .ro, 0x0, false, 0xffffffffffffffff, .any, .plain⟩, -- slab_us, mica_us, pebble_us, dma_us, bytes_stack, bytes_cmem
  ⟨0x4803, 0x40, 16, 1, 0x9, 1, 1, .u64, .rw, 0x0, false, 0xffffffffffffffff, .any, .plain⟩, -- acct_threshold
  ⟨0x4803, 0x40, 16, 1, 0xa, 1, 1, .bool, .wo, 0x0, false, 0x1, .one, .plain⟩, -- acct_reset
  ⟨0x4804, 0x40, 16, 1, 0x1, 1, 1, .bits32, .ro, 0x0, false, 0xffffffff, .any, .plain⟩, -- fault_cause
  ⟨0x4804, 0x40, 16, 1, 0x2, 1, 1, .u8, .ro, 0x0, false, 0xff, .any, .plain⟩, -- fault_core
  ⟨0x4804, 0x40, 16, 1, 0x3, 1, 3, .u64, .ro, 0x0, false, 0xffffffffffffffff, .any, .plain⟩, -- fault_op_addr, fault_info, fault_time
  ⟨0x4804, 0x40, 16, 1, 0x6, 1, 1, .u32, .ro, 0x0, false, 0xffffffff, .any, .plain⟩, -- faults
  ⟨0x4805, 0x40, 16, 1, 0x1, 1, 3, .bits32, .rw, 0x0, false, 0x8000000f, .any, .plain⟩, -- peer_1–peer_3, peer_1–peer_3, peer_1–peer_3
  ⟨0x4806, 0x40, 16, 1, 0x1, 1, 2, .u64, .rw, 0x0, false, 0xffffffffffffffff, .any, .plain⟩, -- mig_buffer, mig_buffer_size
  ⟨0x4806, 0x40, 16, 1, 0x3, 1, 1, .u64, .ro, 0x0, false, 0xffffffffffffffff, .any, .plain⟩, -- mig_length
  ⟨0x4806, 0x40, 16, 1, 0x4, 1, 1, .domain, .rw, 0x0, false, 0xffffffffffffffff, .domExact 133, .plain⟩, -- mig_peer_key
  ⟨0x4807, 0x40, 16, 1, 0x1, 1, 2, .u64, .ro, 0x0, false, 0xffffffffffffffff, .any, .plain⟩, -- save_base, save_size
  ⟨0x4810, 0x40, 16, 16, 0x1, 1, 1, .u16, .ro, 0xffff, false, 0xffff, .any, .plain⟩, -- job_number
  ⟨0x4810, 0x40, 16, 16, 0x2, 1, 1, .u32, .rw, 0x186a0, false, 0xffffffff, .rng 100 100000, .plain⟩, -- slot_length
  ⟨0x4810, 0x40, 16, 16, 0x3, 1, 8, .u64, .rw, 0x0, false, 0xffffffffffffffff, .any, .plain⟩, -- job_arg_0–job_arg_7, job_arg_0–job_arg_7, job_arg_0–job_arg_7
  ⟨0x4810, 0x40, 16, 16, 0xb, 1, 1, .bits32, .rw, 0x0, false, 0x1, .any, .plain⟩, -- job_flags
  ⟨0x4810, 0x40, 16, 16, 0xc, 1, 3, .u32, .ro, 0x0, false, 0xffffffff, .any, .plain⟩, -- starts, starts_dropped, overruns
  ⟨0x4830, 0x40, 16, 1, 0x1, 1, 1, .u64, .rw, 0x0, false, 0xffffffffffffffff, .align 64, .plain⟩, -- kv_directory
  ⟨0x4830, 0x40, 16, 1, 0x2, 1, 1, .u64, .wo, 0x0, false, 0xffffffffffffffff, .any, .plain⟩, -- kv_command
  ⟨0x4830, 0x40, 16, 1, 0x3, 1, 1, .u64, .ro, 0x0, false, 0xffff00000000ffff, .any, .plain⟩, -- kv_status
  ⟨0x4830, 0x40, 16, 1, 0x4, 1, 3, .u64, .ro, 0x0, false, 0xffffffffffffffff, .any, .plain⟩, -- kv_bytes_bound, kv_quota_bytes, pt_base
  ⟨0x4830, 0x40, 16, 1, 0x7, 1, 1, .u32, .ro, 0x0, false, 0xffffffff, .any, .plain⟩, -- pt_entries_used
  ⟨0x4830, 0x40, 16, 1, 0x8, 1, 1, .u64, .rw, 0x0, false, 0xffffffffffffffff, .align 64, .plain⟩] -- coll_table

/-- Rows of the object tables, part 4. -/
def objRows4 : List ObjRow := [
  ⟨0x4c00, 0x1, 1, 1, 0x1, 1, 1, .u8, .ro, 0x0, false, 0xff, .any, .plain⟩, -- sched_state
  ⟨0x4c00, 0x1, 1, 1, 0x2, 1, 1, .u32, .rw, 0x4e2, true, 0xffffffff, .rng 256 3840, .plain⟩, -- preempt_guarantee
  ⟨0x4c00, 0x1, 1, 1, 0x3, 1, 3, .u64, .ro, 0x0, false, 0xffffffffffffffff, .any, .plain⟩, -- saves, restores, save_bytes
  ⟨0x4c00, 0x1, 1, 1, 0x6, 1, 2, .u32, .ro, 0x0, false, 0xffffffff, .any, .plain⟩, -- slot_overruns, late_slots
  ⟨0x4c10, 0x1, 16, 1, 0x1, 1, 1, .bits32, .rwc, 0x0, true, 0xffff, .any, .plain⟩, -- part_cores
  ⟨0x4c10, 0x1, 16, 1, 0x2, 1, 1, .u8, .rwc, 0x0, true, 0xff, .rng 0 2, .plain⟩, -- part_mode
  ⟨0x4c10, 0x1, 16, 1, 0x3, 1, 1, .bits32, .rwc, 0x0, true, 0x1, .any, .plain⟩, -- part_flags
  ⟨0x4c10, 0x1, 16, 1, 0x4, 1, 1, .u8, .ro, 0xff, false, 0xff, .any, .plain⟩, -- part_holder
  ⟨0x4c10, 0x1, 16, 1, 0x5, 1, 1, .bits32, .ro, 0x0, false, 0xffff, .any, .plain⟩, -- part_members
  ⟨0x4c10, 0x1, 16, 1, 0x6, 1, 1, .u32, .ro, 0x0, false, 0xffffffff, .any, .plain⟩, -- lead_time
  ⟨0x4c10, 0x1, 16, 1, 0x7, 1, 1, .u64, .ro, 0x0, false, 0xffffffffffffffff, .any, .plain⟩, -- slice_switches
  ⟨0x5000, 0x1, 1, 1, 0x1, 1, 1, .u8, .rwl, 0x0, true, 0xff, .rng 0 2, .plain⟩, -- interleave
  ⟨0x5000, 0x1, 1, 1, 0x2, 1, 1, .bool, .rwl, 0x0, false, 0x1, .one, .plain⟩, -- lock_interleave
  ⟨0x5000, 0x1, 1, 1, 0x3, 1, 1, .u32, .ro, 0x0, false, 0xffffffff, .any, .plain⟩, -- admitted
  ⟨0x5000, 0x1, 1, 1, 0x4, 1, 1, .bits32, .rw, 0xc0, true, 0xff, .any, .plain⟩, -- safety_classes
  ⟨0x5000, 0x1, 1, 1, 0x5, 1, 1, .u64, .rw, 0x808040402020101, true, 0xffffffffffffffff, .any, .plain⟩, -- class_weights
  ⟨0x5000, 0x1, 1, 1, 0x6, 1, 1, .u32, .rw, 0x18, true, 0xffffffff, .rng 1 168, .plain⟩, -- scrub_period
  ⟨0x5000, 0x1, 1, 1, 0x7, 1, 1, .u32, .rw, 0x2710, true, 0xffffffff, .rng 1000 100000, .plain⟩, -- burst_window
  ⟨0x5000, 0x1, 1, 1, 0x8, 1, 1, .bits32, .rw, 0x0, false, 0xffffffff, .any, (.evt 0xffffffff)⟩, -- missed_mask
  ⟨0x5000, 0x1, 1, 1, 0x9, 1, 1, .bits32, .rw, 0x0, false, 0x1, .any, (.evt 0x1)⟩, -- regulator_events
  ⟨0x5010, 0x1, 4, 1, 0x1, 1, 1, .fp32, .ro, 0x0, false, 0xffffffff, .any, .plain⟩, -- stack_temp
  ⟨0x5010, 0x1, 4, 1, 0x2, 1, 1, .u32, .ro, 0xea600, false, 0xffffffff, .any, .plain⟩, -- stack_limit
  ⟨0x5010, 0x1, 4, 1, 0x3, 1, 1, .fp32, .ro, 0x3f800000, false, 0xffffffff, .any, .plain⟩, -- shrink_factor
  ⟨0x5010, 0x1, 4, 1, 0x4, 1, 1, .u64, .ro, 0x0, false, 0xffffffffffffffff, .any, .plain⟩, -- ecc_corrected
  ⟨0x5010, 0x1, 4, 1, 0x5, 1, 1, .u32, .ro, 0x0, false, 0xffffffff, .any, .plain⟩, -- ecc_uncorrected
  ⟨0x5010, 0x1, 4, 1, 0x6, 1, 1, .u64, .ro, 0x0, false, 0xffffffffffffffff, .any, .plain⟩, -- last_poison_addr
  ⟨0x5010, 0x1, 4, 1, 0x7, 1, 1, .u16, .ro, 0x0, false, 0xffff, .any, .plain⟩, -- rows_retired
  ⟨0x5010, 0x1, 4, 1, 0x8, 1, 1, .u16, .ro, 0x1000, false, 0xffff, .any, .plain⟩, -- spares_left
  ⟨0x5010, 0x1, 4, 1, 0x9, 1, 1, .bits32, .rw, 0x0, false, 0xf, .any, (.evt 0xf)⟩, -- stack_events
  ⟨0x5010, 0x1, 4, 1, 0xa, 1, 1, .u8, .ro, 0x0, false, 0xff, .any, .plain⟩, -- refresh_mode
  ⟨0x5010, 0x1, 4, 1, 0xb, 1, 1, .u8, .rw, 0x2, true, 0xff, .rng 1 32, .plain⟩, -- retire_threshold
  ⟨0x5100, 0x1, 32, 1, 0x1, 1, 1, .u32, .rw, 0x0, true, 0xffffffff, .any, .plain⟩, -- guarantee
  ⟨0x5100, 0x1, 32, 1, 0x2, 1, 1, .bits32, .rw, 0x10, true, 0x1f, .distribution, .plain⟩, -- distribution
  ⟨0x5100, 0x1, 32, 1, 0x3, 1, 1, .u8, .rw, 0x0, true, 0xff, .rng 0 7, .plain⟩, -- class
  ⟨0x5100, 0x1, 32, 1, 0x4, 1, 1, .u16, .rw, 0x64, true, 0xffff, .any, .plain⟩, -- rt_deadline
  ⟨0x5100, 0x1, 32, 1, 0x5, 1, 1, .u64, .ro, 0x0, false, 0xffffffffffffffff, .any, .plain⟩, -- served_bytes
  ⟨0x5100, 0x1, 32, 1, 0x6, 1, 1, .u32, .ro, 0x0, false, 0xffffffff, .any, .plain⟩, -- missed
  ⟨0x5100, 0x1, 32, 1, 0x7, 1, 1, .u64, .ro, 0x0, false, 0xffffffffffffffff, .any, .plain⟩, -- overdraft_bytes
  ⟨0x5100, 0x1, 32, 1, 0x8, 1, 1, .u8, .rw, 0x7, true, 0xff, .rng 0 7, .plain⟩, -- job_class
  ⟨0x5400, 0x1, 16, 1, 0x1, 1, 1, .bits32, .rw, 0x0, true, 0x1f, .portConfig, .plain⟩] -- port_config

/-- Rows of the object tables, part 5. -/
def objRows5 : List ObjRow := [
  ⟨0x5400, 0x1, 16, 1, 0x2, 1, 1, .u32, .rw, 0x5dc, true, 0xffffffff, .any, .plain⟩, -- lane_rate
  ⟨0x5400, 0x1, 16, 1, 0x3, 1, 1, .u8, .ro, 0x0, false, 0xff, .any, .plain⟩, -- port_state
  ⟨0x5400, 0x1, 16, 1, 0x4, 1, 4, .u32, .ro, 0x0, false, 0xffffffff, .any, .plain⟩, -- ecc_corrected, ecc_uncorrectable, crc_errors, unmatched_packets
  ⟨0x5420, 0x1, 32, 1, 0x1, 1, 1, .bits64, .rw, 0x3000ac0dcc000000, true, 0xf8ffffffffc00000, .any, .plain⟩, -- stream_config
  ⟨0x5420, 0x1, 32, 1, 0x2, 1, 1, .bits64, .rw, 0x0, true, 0xffffffffffffff00, .frameGeometry, .plain⟩, -- frame_geometry
  ⟨0x5420, 0x1, 32, 1, 0x3, 1, 1, .u64, .ro, 0x0, false, 0xffffffffffffffff, .any, .plain⟩, -- ring_base
  ⟨0x5420, 0x1, 32, 1, 0x4, 1, 1, .u32, .ro, 0x0, false, 0xffffffff, .any, .plain⟩, -- buffer_size
  ⟨0x5420, 0x1, 32, 1, 0x5, 1, 1, .u16, .rw, 0x400, true, 0xffff, .step 64 4096 64, .plain⟩, -- blank_len
  ⟨0x5420, 0x1, 32, 1, 0x6, 1, 1, .u32, .rw, 0x0, true, 0xffffffff, .any, .plain⟩, -- camera_test_crc
  ⟨0x5420, 0x1, 32, 1, 0x7, 1, 1, .bits64, .ro, 0x0, false, 0xffffffffffff0000, .any, .plain⟩, -- position
  ⟨0x5420, 0x1, 32, 1, 0x8, 1, 1, .u64, .ro, 0x0, false, 0xffffffffffffffff, .any, .plain⟩, -- last_fs
  ⟨0x5420, 0x1, 32, 1, 0x9, 1, 2, .u32, .ro, 0x0, false, 0xffffffff, .any, .plain⟩, -- frame_interval, line_time
  ⟨0x5420, 0x1, 32, 1, 0xb, 1, 1, .u8, .ro, 0xff, false, 0xff, .any, .plain⟩, -- latest_buffer
  ⟨0x5420, 0x1, 32, 1, 0xc, 1, 4, .u32, .ro, 0x0, false, 0xffffffff, .any, .plain⟩, -- frames, frames_invalid, frames_dropped, path_faults
  ⟨0x5420, 0x1, 32, 1, 0x10, 1, 1, .bits32, .rw, 0x0, false, 0xf, .any, (.evt 0xf)⟩, -- stream_events
  ⟨0x5800, 0x1, 1, 1, 0x1, 1, 1, .bits32, .rw, 0x1, true, 0x1, .any, .plain⟩, -- garnet_config
  ⟨0x5800, 0x1, 1, 1, 0x2, 1, 1, .u8, .rw, 0xff, true, 0xff, .gfxInst, .plain⟩, -- gfx_instance
  ⟨0x5800, 0x1, 1, 1, 0x3, 1, 1, .u64, .rw, 0x0, false, 0xffffffffffffffff, .align 128, .plain⟩, -- ring_base
  ⟨0x5800, 0x1, 1, 1, 0x4, 1, 1, .u16, .rw, 0x40, false, 0xffff, .pow2 8 4096, .plain⟩, -- ring_entries
  ⟨0x5800, 0x1, 1, 1, 0x5, 1, 1, .u16, .ro, 0x0, false, 0xffff, .any, .plain⟩, -- ring_head
  ⟨0x5800, 0x1, 1, 1, 0x6, 1, 1, .u16, .rw, 0x0, false, 0xffff, .any, .plain⟩, -- ring_tail
  ⟨0x5800, 0x1, 1, 1, 0x7, 1, 1, .u8, .ro, 0x0, false, 0xff, .any, .plain⟩, -- garnet_state
  ⟨0x5800, 0x1, 1, 1, 0x8, 1, 1, .bits32, .rw, 0x0, false, 0x7, .any, (.evt 0x7)⟩, -- garnet_events
  ⟨0x5800, 0x1, 1, 1, 0x9, 1, 1, .u64, .ro, 0x0, false, 0xffffffffffffffff, .any, .plain⟩, -- bin_peak
  ⟨0x5800, 0x1, 1, 1, 0xa, 1, 2, .u32, .ro, 0x0, false, 0xffffffff, .any, .plain⟩, -- passes, passes_failed
  ⟨0x5840, 0x1, 4, 1, 0x1, 1, 1, .bits32, .rwc, 0x0, true, 0xfd, .pipeConfig, .plain⟩, -- pipe_config
  ⟨0x5840, 0x1, 4, 1, 0x2, 1, 2, .bits64, .rwc, 0x0, true, 0xffffffffffffffff, .any, .plain⟩, -- timing_h, timing_v
  ⟨0x5840, 0x1, 4, 1, 0x4, 1, 1, .u32, .rwc, 0x24414, true, 0xffffffff, .rng 25000 600000, .plain⟩, -- pixel_clock
  ⟨0x5840, 0x1, 4, 1, 0x5, 1, 1, .u32, .rwc, 0x0, true, 0xffffffff, .any, .plain⟩, -- background
  ⟨0x5840, 0x1, 4, 1, 0x6, 1, 1, .domain, .rwc, 0x0, true, 0xffffffffffffffff, .domExact 2048, .plain⟩, -- gamma
  ⟨0x5840, 0x1, 4, 1, 0x7, 3, 3, .bits64, .rwc, 0x0, false, 0xc0ffff00ffffffff, .layerSrc, .plain⟩, -- layer_src_l
  ⟨0x5840, 0x1, 4, 1, 0x8, 3, 3, .bits64, .rwc, 0x0, false, 0xffffffffffffffff, .any, .plain⟩, -- layer_pos_l
  ⟨0x5840, 0x1, 4, 1, 0x9, 3, 3, .u64, .rwc, 0x0, false, 0xffffffffffffffff, .align 64, .plain⟩, -- layer_addr_l
  ⟨0x5840, 0x1, 4, 1, 0x10, 1, 1, .bool, .rwc, 0x1, true, 0x1, .any, .plain⟩, -- fallback_enable
  ⟨0x5840, 0x1, 4, 1, 0x11, 1, 1, .bits32, .rwc, 0x0, true, 0xd, .any, .plain⟩, -- safety_config
  ⟨0x5840, 0x1, 4, 1, 0x12, 1, 1, .bool, .wo, 0x0, false, 0x1, .one, .plain⟩, -- resume
  ⟨0x5840, 0x1, 4, 1, 0x13, 1, 1, .u8, .ro, 0x0, false, 0xff, .any, .plain⟩, -- pipe_state
  ⟨0x5840, 0x1, 4, 1, 0x14, 1, 1, .bits32, .rw, 0x0, false, 0x1f, .any, (.evt 0x1f)⟩, -- pipe_events
  ⟨0x5840, 0x1, 4, 1, 0x15, 1, 5, .u32, .ro, 0x0, false, 0xffffffff, .any, .plain⟩, -- frames, repeated, underflows, crc_mismatches, fallback_overflows
  ⟨0x5840, 0x1, 4, 1, 0x1a, 1, 1, .u64, .ro, 0x0, false, 0xffffffffffffffff, .any, .plain⟩] -- last_latch

/-- Rows of the object tables, part 6. -/
def objRows6 : List ObjRow := [
  ⟨0x5840, 0x1, 4, 1, 0x1b, 1, 1, .u32, .ro, 0x0, false, 0xffffffff, .any, .plain⟩, -- frame_period
  ⟨0x5860, 0x1, 4, 1, 0x1, 3, 16, .bits64, .rwc, 0x0, true, 0xffffffffffffffff, .any, .plain⟩, -- region_rect
  ⟨0x5860, 0x1, 4, 1, 0x2, 3, 16, .u64, .rwc, 0x0, true, 0xffffffffffffffff, .any, .plain⟩, -- region_crc
  ⟨0x5860, 0x1, 4, 1, 0x3, 3, 16, .bits64, .rwc, 0x0, true, 0xffffffffffffffff, .any, .plain⟩, -- region_state
  ⟨0x5880, 0x1, 4, 1, 0x1, 1, 1, .domain, .rwc, 0x0, true, 0xffffffffffffffff, .dom 49152, .plain⟩, -- fallback_scene
  ⟨0x5884, 0x1, 1, 1, 0x1, 1, 1, .domain, .rwc, 0x0, true, 0xffffffffffffffff, .dom 98304, .plain⟩, -- fallback_atlas
  ⟨0x6000, 0x1, 12, 1, 0x1, 1, 1, .bits32, .rw, 0x540, true, 0xfff, .any, .plain⟩, -- port_config
  ⟨0x6000, 0x1, 12, 1, 0x2, 1, 1, .u8, .ro, 0x0, false, 0xff, .any, .plain⟩, -- link_state
  ⟨0x6000, 0x1, 12, 1, 0x3, 1, 1, .u16, .rw, 0x1, true, 0xffff, .rng 1 4094, .plain⟩, -- default_vlan
  ⟨0x6000, 0x1, 12, 1, 0x4, 1, 1, .bits32, .rw, 0x0, true, 0xffff, .queueMode, .plain⟩, -- queue_mode
  ⟨0x6000, 0x1, 12, 1, 0x5, 1, 1, .bits32, .rw, 0x0, true, 0xff, .any, .plain⟩, -- late_policy
  ⟨0x6000, 0x1, 12, 1, 0x6, 1, 1, .u32, .rw, 0x3e8, true, 0xffffffff, .rng 0 1000000, .plain⟩, -- late_tolerance
  ⟨0x6000, 0x1, 12, 1, 0x7, 1, 1, .bits32, .rw, 0x0, true, 0xff, .any, .plain⟩, -- preemptable
  ⟨0x6000, 0x1, 12, 1, 0x8, 1, 2, .i32, .rw, 0x0, true, 0xffffffffffffffff, .signed 10000 10000, .plain⟩, -- ingress_latency, egress_latency
  ⟨0x6000, 0x1, 12, 1, 0xa, 1, 1, .domain, .rwc, 0x0, true, 0xffffffffffffffff, .domRec 8 64, .plain⟩, -- locked_sources
  ⟨0x6000, 0x1, 12, 1, 0xb, 1, 1, .domain, .ro, 0x0, false, 0xffffffffffffffff, .domRec 8 64, .plain⟩, -- learned_sources
  ⟨0x6000, 0x1, 12, 1, 0xc, 1, 1, .bits32, .rw, 0x0, false, 0x3f, .any, (.evt 0x3f)⟩, -- port_events
  ⟨0x6000, 0x1, 12, 1, 0xd, 1, 7, .u32, .ro, 0x0, false, 0xffffffff, .any, .plain⟩, -- rx_frames, tx_frames, fcs_errors, strangers, policed, late_frames
  ⟨0x6020, 0x1, 1, 1, 0x1, 1, 1, .u16, .rwl, 0x3, true, 0xffff, .any, .plain⟩, -- safety_vlan
  ⟨0x6020, 0x1, 1, 1, 0x2, 1, 1, .bool, .rwl, 0x0, false, 0x1, .one, .plain⟩, -- lock_safety_vlan
  ⟨0x6020, 0x1, 1, 1, 0x3, 1, 1, .domain, .rwc, 0x0, true, 0xffffffffffffffff, .domExact 16384, .plain⟩, -- vlan_table
  ⟨0x6020, 0x1, 1, 1, 0x4, 1, 1, .domain, .rwc, 0x0, true, 0xffffffffffffffff, .domRec 16 1024, .plain⟩, -- static_fdb
  ⟨0x6020, 0x1, 1, 1, 0x5, 1, 1, .u32, .rw, 0x12c, true, 0xffffffff, .rng 10 1000000, .plain⟩, -- ageing_time
  ⟨0x6020, 0x1, 1, 1, 0x6, 1, 1, .bits64, .rw, 0x0, true, 0xffffffffffff, .any, .plain⟩, -- gptp_roles
  ⟨0x6020, 0x1, 1, 1, 0x7, 1, 1, .i32, .rw, 0xfffffffffffffffd, true, 0xffffffffffffffff, .signed 7 0, .plain⟩, -- sync_interval
  ⟨0x6020, 0x1, 1, 1, 0x8, 1, 1, .bits32, .rw, 0x0, true, 0x3ffff, .any, .plain⟩, -- wake_enable
  ⟨0x6020, 0x1, 1, 1, 0x9, 1, 1, .u8, .rw, 0xff, true, 0xff, .listener, .plain⟩, -- sentry_listener
  ⟨0x6020, 0x1, 1, 1, 0xa, 1, 1, .bits32, .rw, 0x3e803e8, true, 0xffffffff, .canWake, .plain⟩, -- can_wake_timing
  ⟨0x6020, 0x1, 1, 1, 0xb, 1, 1, .u16, .ro, 0xff, false, 0xffff, .any, .plain⟩, -- last_wake
  ⟨0x6020, 0x1, 1, 1, 0xc, 1, 1, .u32, .ro, 0x0, false, 0xffffffff, .any, .plain⟩, -- tc10_timeouts
  ⟨0x6022, 0x1, 1, 1, 0x1, 1, 2, .domain, .rwc, 0x0, true, 0xffffffffffffffff, .domRec 16 256, .plain⟩, -- Table records, Table records
  ⟨0x6022, 0x1, 1, 1, 0x3, 1, 1, .domain, .rwc, 0x0, true, 0xffffffffffffffff, .domRec 544 64, .plain⟩, -- Table records
  ⟨0x6022, 0x1, 1, 1, 0x4, 1, 1, .domain, .rwc, 0x0, true, 0xffffffffffffffff, .domRec 32 128, .plain⟩, -- Table records
  ⟨0x6022, 0x1, 1, 1, 0x5, 1, 1, .domain, .rwc, 0x0, true, 0xffffffffffffffff, .domRec 16 128, .plain⟩, -- Table records
  ⟨0x6030, 0x1, 16, 1, 0x1, 1, 1, .u64, .rw, 0x0, false, 0xffffffffffffffff, .any, .plain⟩, -- tx_base
  ⟨0x6030, 0x1, 16, 1, 0x2, 1, 1, .u16, .rw, 0x100, false, 0xffff, .pow2 16 4096, .plain⟩, -- tx_entries
  ⟨0x6030, 0x1, 16, 1, 0x3, 1, 1, .u16, .rw, 0x0, false, 0xffff, .any, .plain⟩, -- tx_tail
  ⟨0x6030, 0x1, 16, 1, 0x4, 1, 1, .u16, .ro, 0x0, false, 0xffff, .any, .plain⟩, -- tx_head
  ⟨0x6030, 0x1, 16, 1, 0x5, 1, 1, .u64, .rw, 0x0, false, 0xffffffffffffffff, .any, .plain⟩, -- rx_base
  ⟨0x6030, 0x1, 16, 1, 0x6, 1, 1, .u16, .rw, 0x100, false, 0xffff, .pow2 16 4096, .plain⟩, -- rx_entries
  ⟨0x6030, 0x1, 16, 1, 0x7, 1, 1, .u16, .rw, 0x0, false, 0xffff, .any, .plain⟩] -- rx_tail

/-- Rows of the object tables, part 7. -/
def objRows7 : List ObjRow := [
  ⟨0x6030, 0x1, 16, 1, 0x8, 1, 1, .u16, .ro, 0x0, false, 0xffff, .any, .plain⟩, -- rx_head
  ⟨0x6040, 0x1, 12, 1, 0x1, 2, 32, .bits64, .ro, 0x0, false, 0xffffffffffffffff, .any, .plain⟩, -- ts entry id
  ⟨0x6040, 0x1, 12, 1, 0x2, 2, 32, .u64, .ro, 0x0, false, 0xffffffffffffffff, .any, .plain⟩, -- ts entry stamp
  ⟨0x6040, 0x1, 12, 1, 0x41, 1, 1, .u32, .ro, 0x0, false, 0xffffffff, .any, .plain⟩, -- ts_written
  ⟨0x6040, 0x1, 12, 1, 0x42, 1, 1, .u32, .rw, 0x0, false, 0xffffffff, .any, .plain⟩, -- ts_read
  ⟨0x6040, 0x1, 12, 1, 0x43, 1, 1, .u32, .ro, 0x0, false, 0xffffffff, .any, .plain⟩, -- ts_overflows
  ⟨0x6060, 0x1, 12, 1, 0x1, 1, 1, .domain, .rwc, 0x0, true, 0xffffffffffffffff, .domRec 8 256, .plain⟩, -- gcl
  ⟨0x6060, 0x1, 12, 1, 0x2, 1, 1, .time64, .rwc, 0x0, true, 0xffffffffffffffff, .any, .plain⟩, -- base_time
  ⟨0x6060, 0x1, 12, 1, 0x3, 1, 1, .u32, .rwc, 0xf4240, true, 0xffffffff, .rng 1000 1000000000, .plain⟩, -- cycle_time
  ⟨0x6060, 0x1, 12, 1, 0x4, 1, 1, .bool, .rwc, 0x0, true, 0x1, .any, .plain⟩, -- gate_enable
  ⟨0x6070, 0x1, 12, 1, 0x1, 1, 1, .bits32, .rw, 0x0, true, 0xf, .any, .plain⟩, -- secy_config
  ⟨0x6070, 0x1, 12, 1, 0x2, 1, 1, .domain, .wo, 0x0, false, 0xffffffffffffffff, .domExact 60, .plain⟩, -- sa_install
  ⟨0x6100, 0x1, 1, 1, 0x1, 1, 1, .domain, .rwc, 0x0, true, 0xffffffffffffffff, .domRec 16 1024, .plain⟩, -- Table records
  ⟨0x6101, 0x1, 1, 1, 0x1, 1, 1, .domain, .rwc, 0x0, true, 0xffffffffffffffff, .domRec 256 256, .plain⟩, -- Table records
  ⟨0x6200, 0x1, 2, 1, 0x1, 1, 1, .bits32, .rw, 0xff0000, true, 0xffffff03, .any, .plain⟩, -- t1s_config
  ⟨0x6200, 0x1, 2, 1, 0x2, 1, 1, .u8, .rw, 0x20, true, 0xff, .rng 1 255, .plain⟩, -- to_timer
  ⟨0x6200, 0x1, 2, 1, 0x3, 1, 1, .u8, .rw, 0x80, true, 0xff, .rng 1 255, .plain⟩, -- burst_timer
  ⟨0x6200, 0x1, 2, 1, 0x4, 1, 1, .u8, .ro, 0x0, false, 0xff, .any, .plain⟩, -- plca_status
  ⟨0x6200, 0x1, 2, 1, 0x5, 1, 3, .u32, .ro, 0x0, false, 0xffffffff, .any, .plain⟩, -- plca_collisions, beacon_losses, dropped
  ⟨0x6200, 0x1, 2, 1, 0x8, 1, 1, .domain, .rwc, 0x0, true, 0xffffffffffffffff, .domRec 8 64, .plain⟩, -- locked_sources
  ⟨0x6200, 0x1, 2, 1, 0x9, 1, 1, .bits32, .rw, 0x0, false, 0x3, .any, (.evt 0x3)⟩, -- t1s_events
  ⟨0x6210, 0x1, 8, 1, 0x1, 1, 1, .bits32, .rw, 0x0, true, 0xffff000f, .canConfig, .plain⟩, -- can_config
  ⟨0x6210, 0x1, 8, 1, 0x2, 1, 1, .u32, .rw, 0x1f4, true, 0xffffffff, .rng 125 1000, .plain⟩, -- nominal_rate
  ⟨0x6210, 0x1, 8, 1, 0x3, 1, 1, .u32, .rw, 0x7d0, true, 0xffffffff, .rng 500 20000, .plain⟩, -- data_rate
  ⟨0x6210, 0x1, 8, 1, 0x4, 1, 1, .domain, .rwc, 0x0, true, 0xffffffffffffffff, .domRec 16 64, .plain⟩, -- filters
  ⟨0x6210, 0x1, 8, 1, 0x5, 1, 1, .bits32, .rw, 0x30000, true, 0xffffffff, .canRecovery, .plain⟩, -- recovery
  ⟨0x6210, 0x1, 8, 1, 0x6, 1, 2, .u16, .ro, 0x0, false, 0xffff, .any, .plain⟩, -- tec, rec
  ⟨0x6210, 0x1, 8, 1, 0x8, 1, 1, .u8, .ro, 0x0, false, 0xff, .any, .plain⟩, -- bus_state
  ⟨0x6210, 0x1, 8, 1, 0x9, 1, 1, .bool, .wo, 0x0, false, 0x1, .one, .plain⟩, -- restart
  ⟨0x6210, 0x1, 8, 1, 0xa, 1, 1, .bits32, .rw, 0x0, false, 0x1, .any, (.evt 0x1)⟩, -- can_events
  ⟨0x6210, 0x1, 8, 1, 0xb, 1, 4, .u32, .ro, 0x0, false, 0xffffffff, .any, .plain⟩, -- filtered, spoofed, dropped, bus_offs
  ⟨0x6300, 0x1, 1, 1, 0x1, 1, 1, .domain, .rwc, 0x0, true, 0xffffffffffffffff, .domRec 48 4096, .plain⟩, -- route_table
  ⟨0x6300, 0x1, 1, 1, 0x2, 1, 4, .u32, .ro, 0x0, false, 0xffffffff, .any, .plain⟩, -- routed, unmatched, route_dropped, fanout_exceeded
  ⟨0x6300, 0x1, 1, 1, 0x6, 1, 1, .bits32, .rw, 0x0, false, 0x1, .any, (.evt 0x1)⟩, -- route_events
  ⟨0x6400, 0x1, 1, 1, 0x1, 1, 1, .u8, .rwl, 0x0, true, 0xff, .rng 0 2, .plain⟩, -- pcie_mode
  ⟨0x6400, 0x1, 1, 1, 0x2, 1, 1, .bool, .rwl, 0x0, false, 0x1, .one, .plain⟩, -- lock_pcie
  ⟨0x6400, 0x1, 1, 1, 0x3, 1, 1, .u32, .rwl, 0x0, true, 0xffffffff, .any, .plain⟩, -- ep_ids
  ⟨0x6400, 0x1, 1, 1, 0x4, 1, 1, .bits32, .ro, 0x0, false, 0xff, .any, .plain⟩, -- link_status
  ⟨0x6400, 0x1, 1, 1, 0x5, 1, 1, .u32, .rw, 0xc350, true, 0xffffffff, .rng 1000 1000000, .plain⟩, -- read_timeout
  ⟨0x6400, 0x1, 1, 1, 0x6, 1, 1, .bits32, .rw, 0x0, false, 0xf, .any, (.evt 0xf)⟩] -- pcie_events

/-- Rows of the object tables, part 8. -/
def objRows8 : List ObjRow := [
  ⟨0x6400, 0x1, 1, 1, 0x7, 1, 5, .u32, .ro, 0x0, false, 0xffffffff, .any, .plain⟩, -- retry_expired, inbound_refused, deadlock_yields, pwe_count, pwe_lost
  ⟨0x6401, 0x1, 1, 1, 0x1, 1, 1, .domain, .ro, 0x0, false, 0xffffffffffffffff, .domRec 32 16, .plain⟩, -- pwe_log
  ⟨0x6401, 0x1, 1, 1, 0x2, 1, 1, .bool, .wo, 0x0, false, 0x1, .one, .plain⟩, -- pwe_clear
  ⟨0x6402, 0x1, 1, 1, 0x1, 1, 32, .u16, .rw, 0x0, true, 0xffff, .rng 0 1023, .plain⟩, -- msix_line_0–msix_line_31, msix_line_0–msix_line_31, msix_line_0–msix_line_31
  ⟨0x6410, 0x1, 16, 1, 0x1, 1, 1, .bits32, .rwc, 0x2, true, 0xff, .winConfig, .plain⟩, -- ob_config
  ⟨0x6410, 0x1, 16, 1, 0x2, 1, 1, .u64, .rwc, 0x0, true, 0xffffffffffffffff, .any, .plain⟩, -- ob_target
  ⟨0x6410, 0x1, 16, 1, 0x3, 1, 1, .u64, .rwc, 0x0, true, 0xffffffffffffffff, .winSize, .plain⟩, -- ob_size
  ⟨0x6430, 0x1, 8, 1, 0x1, 1, 1, .bits32, .rwc, 0x0, true, 0xfd, .winConfig, .plain⟩, -- ib_config
  ⟨0x6430, 0x1, 8, 1, 0x2, 1, 1, .u64, .rwc, 0x0, true, 0xffffffffffffffff, .any, .plain⟩, -- ib_base
  ⟨0x6430, 0x1, 8, 1, 0x3, 1, 1, .u64, .rwc, 0x0, true, 0xffffffffffffffff, .winSize, .plain⟩, -- ib_size
  ⟨0x6430, 0x1, 8, 1, 0x4, 1, 1, .u64, .rwc, 0x0, true, 0xffffffffffffffff, .any, .plain⟩, -- ib_target
  ⟨0x6480, 0x1, 3, 1, 0x1, 1, 1, .bits32, .rw, 0x4003, true, 0xff03, .linkConfig, .plain⟩, -- link_config
  ⟨0x6480, 0x1, 3, 1, 0x2, 1, 1, .u8, .ro, 0x0, false, 0xff, .any, .plain⟩, -- link_state
  ⟨0x6480, 0x1, 3, 1, 0x3, 1, 1, .u8, .ro, 0xff, false, 0xff, .any, .plain⟩, -- peer_device
  ⟨0x6480, 0x1, 3, 1, 0x4, 1, 3, .u32, .ro, 0x0, false, 0xffffffff, .any, .plain⟩, -- crc_errors, replays, losses
  ⟨0x6480, 0x1, 3, 1, 0x7, 1, 1, .bits32, .rw, 0x0, false, 0x7, .any, (.evt 0x7)⟩, -- link_events
  ⟨0x7000, 0x1, 1, 1, 0x1, 1, 1, .bool, .ro, 0x1, false, 0x1, .any, .plain⟩, -- safe_state
  ⟨0x7000, 0x1, 1, 1, 0x2, 1, 1, .bits64, .ro, 0x0, false, 0xffff0000ffffffff, .any, .plain⟩, -- safe_cause
  ⟨0x7000, 0x1, 1, 1, 0x3, 1, 1, .u64, .ro, 0x0, false, 0xffffffffffffffff, .any, .plain⟩, -- safe_entered
  ⟨0x7000, 0x1, 1, 1, 0x4, 1, 2, .bool, .wo, 0x0, false, 0x1, .one, .plain⟩, -- safe_exit, safe_request
  ⟨0x7000, 0x1, 1, 1, 0x6, 1, 2, .u32, .ro, 0x0, false, 0xffffffff, .any, .plain⟩, -- safe_entries, safe_triggers
  ⟨0x7000, 0x1, 1, 1, 0x8, 1, 1, .u32, .rw, 0xa, true, 0xffffffff, .rng 1 1000, .plain⟩, -- notice_repeat
  ⟨0x7000, 0x1, 1, 1, 0x9, 1, 1, .u64, .rw, 0xffffffffffff, true, 0xffffffffffff, .any, .plain⟩, -- notice_dest
  ⟨0x7000, 0x1, 1, 1, 0xa, 1, 1, .bits32, .rw, 0x80, true, 0xff, .any, .plain⟩, -- safety_egress_classes
  ⟨0x7000, 0x1, 1, 1, 0xb, 1, 1, .u32, .rw, 0x3e8, true, 0xffffffff, .rng 200 1800, .plain⟩, -- island_wd_timeout
  ⟨0x7000, 0x1, 1, 1, 0xc, 1, 1, .bits32, .rw, 0x0, false, 0x1f, .any, (.evt 0x1f)⟩, -- safety_events
  ⟨0x7000, 0x1, 1, 1, 0xd, 1, 1, .u8, .ro, 0x0, false, 0xff, .any, .plain⟩, -- island_state
  ⟨0x7010, 0x1, 1, 1, 0x1, 1, 1, .u32, .rw, 0x2710, true, 0xffffffff, .rng 100 3600000, .plain⟩, -- dti
  ⟨0x7010, 0x1, 1, 1, 0x2, 1, 2, .u32, .ro, 0x0, false, 0xffffffff, .any, .plain⟩, -- chunks_total, chunks_done
  ⟨0x7010, 0x1, 1, 1, 0x4, 1, 1, .u64, .ro, 0x0, false, 0xffffffffffffffff, .any, .plain⟩, -- interval_start
  ⟨0x7010, 0x1, 1, 1, 0x5, 1, 1, .u32, .ro, 0x0, false, 0xffffffff, .any, .plain⟩, -- overdue_count
  ⟨0x7010, 0x1, 1, 1, 0x6, 1, 1, .u64, .wo, 0x0, false, 0xff0000000000ffff, .any, .plain⟩, -- selftest_request
  ⟨0x7010, 0x1, 1, 1, 0x7, 1, 1, .u64, .ro, 0x0, false, 0xffff00000000ffff, .any, .plain⟩, -- selftest_status
  ⟨0x7010, 0x1, 1, 1, 0x8, 1, 2, .u32, .ro, 0x0, false, 0xffffffff, .any, .plain⟩, -- service_slots, chunks_deferred
  ⟨0x7020, 0x1, 8, 1, 0x1, 1, 1, .bits64, .rw, 0x0, true, 0xfffff00000000000, .any, .plain⟩, -- golden_config
  ⟨0x7020, 0x1, 8, 1, 0x2, 1, 1, .u64, .rw, 0x0, true, 0xffffffffffffffff, .any, .plain⟩, -- golden_expected
  ⟨0x7020, 0x1, 8, 1, 0x3, 1, 1, .u64, .ro, 0x0, false, 0xffffffffffffffff, .any, .plain⟩, -- golden_last
  ⟨0x7020, 0x1, 8, 1, 0x4, 1, 3, .u32, .ro, 0x0, false, 0xffffffff, .any, .plain⟩, -- runs, late, mismatches
  ⟨0x7040, 0x1, 1, 1, 0x2, 1, 1, .u8, .ro, 0x0, false, 0xff, .any, .plain⟩, -- perm_used
  ⟨0x7040, 0x1, 1, 1, 0x3, 1, 1, .u64, .ro, 0x0, false, 0xffffffffffffffff, .any, .plain⟩] -- next_seq

/-- Rows of the object tables, part 9. -/
def objRows9 : List ObjRow := [
  ⟨0x7040, 0x1, 1, 1, 0x4, 1, 1, .u32, .ro, 0x0, false, 0xffffffff, .any, .plain⟩, -- lost
  ⟨0x7040, 0x1, 1, 1, 0x5, 1, 1, .u32, .wo, 0x0, false, 0xffffffff, .any, .plain⟩, -- strata_clear
  ⟨0x7040, 0x1, 1, 1, 0x6, 1, 1, .bool, .wo, 0x0, false, 0x1, .one, .plain⟩, -- copyout
  ⟨0x7040, 0x1, 1, 1, 0x7, 1, 1, .u8, .ro, 0x0, false, 0xff, .any, .plain⟩, -- copyout_status
  ⟨0x7040, 0x1, 1, 1, 0x8, 1, 1, .domain, .ro, 0x0, false, 0xffffffffffffffff, .dom 1048576, .plain⟩, -- strata_region
  ⟨0x7040, 0x1, 1, 1, 0x9, 1, 1, .bits32, .rw, 0x0, false, 0x1, .any, (.evt 0x1)⟩, -- strata_events
  ⟨0x7040, 0x1, 1, 1, 0xa, 1, 1, .bool, .wo, 0x0, false, 0x1, .one, .plain⟩, -- strata_trigger
  ⟨0x7050, 0x1, 32, 1, 0x1, 1, 1, .bool, .rw, 0x0, true, 0x1, .any, .plain⟩, -- trig_enable
  ⟨0x7050, 0x1, 32, 1, 0x2, 1, 64, .bits32, .rw, 0x0, true, 0xffffff00, .any, .plain⟩, -- slot_0–slot_63, slot_0–slot_63, slot_0–slot_63, slot_0–slot_63
  ⟨0x7400, 0x1, 1, 1, 0x1, 1, 1, .bool, .rwl, 0x0, false, 0x1, .one, .plain⟩, -- world_lock
  ⟨0x7401, 0x1, 1, 1, 0x1, 1, 1, .bits32, .rwl, 0x0, true, 0xffff, .any, .plain⟩, -- core_worlds
  ⟨0x7401, 0x1, 1, 1, 0x2, 1, 1, .bits32, .rwl, 0x0, true, 0xf, .any, .plain⟩, -- cluster_worlds
  ⟨0x7401, 0x1, 1, 1, 0x3, 1, 1, .bits32, .rwl, 0x0, true, 0xffff, .any, .plain⟩, -- instance_worlds
  ⟨0x7401, 0x1, 1, 1, 0x4, 1, 1, .bits32, .rwl, 0x0, true, 0xffffffff, .any, .plain⟩, -- stream_worlds
  ⟨0x7401, 0x1, 1, 1, 0x5, 1, 1, .bits32, .rwl, 0x0, true, 0x3fffff, .any, .plain⟩, -- net_worlds
  ⟨0x7401, 0x1, 1, 1, 0x6, 1, 1, .bits32, .rwl, 0x0, true, 0x1ff, .any, .plain⟩, -- io_worlds
  ⟨0x7401, 0x1, 1, 1, 0x7, 1, 1, .domain, .rwl, 0x0, true, 0xffffffffffffffff, .domExact 128, .plain⟩, -- line_worlds
  ⟨0x7401, 0x1, 1, 1, 0x8, 1, 1, .domain, .rwl, 0x0, true, 0xffffffffffffffff, .domExact 3584, .plain⟩, -- object_worlds
  ⟨0x7402, 0x1, 1, 1, 0x1, 1, 1, .u64, .rwl, 0x40000000, true, 0xffffffffffffffff, .step 268435456 103079215104 2097152, .plain⟩, -- watermarks
  ⟨0x7402, 0x1, 1, 1, 0x2, 1, 4, .u32, .rwl, 0x0, true, 0xffffffff, .step 0 25165824 65536, .plain⟩, -- watermarks, watermarks, watermarks, watermarks
  ⟨0x7402, 0x1, 1, 1, 0x6, 1, 1, .u32, .rwl, 0x2000000, true, 0xffffffff, .step 16777216 58720256 65536, .plain⟩, -- watermarks
  ⟨0x7402, 0x1, 1, 1, 0x7, 1, 1, .u8, .rwl, 0x0, true, 0xff, .rng 0 16, .plain⟩, -- watermarks
  ⟨0x7403, 0x1, 1, 1, 0x1, 1, 1, .bits32, .ro, 0x0, false, 0xfff, .any, .plain⟩, -- host_worlds
  ⟨0x7403, 0x1, 1, 1, 0x2, 1, 1, .bits32, .rw, 0x1, false, 0xfff, .any, .plain⟩, -- host_release
  ⟨0x7420, 0x1, 1, 1, 0x1, 1, 1, .domain, .ro, 0x0, false, 0xffffffffffffffff, .dom 133, .plain⟩, -- identity_pubkey
  ⟨0x7420, 0x1, 1, 1, 0x2, 1, 1, .u8, .ro, 0x0, false, 0xff, .any, .plain⟩, -- identity_state
  ⟨0x7430, 0x1, 1, 1, 0x1, 1, 16, .domain, .rw, 0x0, true, 0xffffffffffffffff, .domExact 144, .plain⟩, -- role_key_0–15, role_key_0–15, role_key_0–15, role_key_0–15, role_key_0–15
  ⟨0x7431, 0x1, 1, 1, 0x1, 1, 1, .domain, .wo, 0x0, true, 0xffffffffffffffff, .domExact 32, .plain⟩, -- notice_key
  ⟨0x7440, 0x1, 1, 1, 0x1, 1, 6, .u32, .ro, 0x0, true, 0xffffffff, .any, .plain⟩, -- rollback_0–5, rollback_0–5, rollback_0–5, rollback_0–5, rollback_0–5
  ⟨0x7440, 0x1, 1, 1, 0x7, 1, 1, .u8, .wo, 0x0, false, 0xff, .any, .plain⟩, -- rollback_commit
  ⟨0x7450, 0x1, 1, 1, 0x1, 1, 1, .bits32, .rw, 0x0, false, 0x3ff, .any, .plain⟩, -- secure_power_hold
  ⟨0x7450, 0x1, 1, 1, 0x2, 1, 1, .u32, .ro, 0x0, false, 0xffffffff, .any, .plain⟩, -- power_refusals
  ⟨0x7450, 0x1, 1, 1, 0x3, 1, 1, .u8, .ro, 0x0, false, 0xff, .any, .plain⟩, -- pending_request
  ⟨0x7460, 0x1, 1, 1, 0x1, 1, 1, .bits32, .rw, 0x0, false, 0x7, .any, (.evt 0x7)⟩, -- security_events
  ⟨0x7800, 0x1, 7, 1, 0x1, 1, 1, .u8, .ro, 0x0, false, 0xff, .any, .plain⟩, -- fw_state
  ⟨0x7800, 0x1, 7, 1, 0x2, 1, 1, .u16, .ro, 0x0, false, 0xffff, .any, .plain⟩, -- fw_component
  ⟨0x7800, 0x1, 7, 1, 0x3, 1, 1, .u32, .ro, 0x0, false, 0xffffffff, .any, .plain⟩, -- fw_version
  ⟨0x7800, 0x1, 7, 1, 0x4, 1, 1, .u8, .ro, 0x0, false, 0xff, .any, .plain⟩, -- fw_copy
  ⟨0x7800, 0x1, 7, 1, 0x5, 1, 1, .bool, .wo, 0x0, false, 0x1, .one, .plain⟩, -- fw_restart
  ⟨0x7800, 0x1, 7, 1, 0x6, 1, 2, .u32, .ro, 0x0, false, 0xffffffff, .any, .plain⟩] -- restarts, fw_faults

/-- Rows of the object tables, part 10. -/
def objRows10 : List ObjRow := [
  ⟨0x7800, 0x1, 7, 1, 0x8, 1, 1, .bits32, .ro, 0x0, false, 0xffffffff, .any, .plain⟩, -- last_fault
  ⟨0x7800, 0x1, 7, 1, 0x9, 1, 1, .u64, .ro, 0x0, false, 0xffffffffffffffff, .any, .plain⟩, -- log_base
  ⟨0x7800, 0x1, 7, 1, 0xa, 1, 1, .u8, .rw, 0x2, true, 0xff, .rng 0 3, .plain⟩, -- log_threshold
  ⟨0x7800, 0x1, 7, 1, 0xb, 1, 1, .bits32, .rw, 0x0, false, 0x1, .any, (.evt 0x1)⟩, -- log_events
  ⟨0x7808, 0x1, 1, 1, 0x1, 1, 1, .domain, .rw, 0x0, false, 0xffffffffffffffff, .dom 0x1000000, .plain⟩, -- fw_update
  ⟨0x7810, 0x1, 7, 1, 0x1, 1, 16, .bits64, .rw, 0x0, false, 0xffffffffffffffff, .any, .plain⟩, -- trace_mask, trace_mask, trace_mask, trace_mask, trace_mask, trace_mask
  ⟨0x7880, 0x1, 1, 1, 0x1, 1, 1, .domain, .ro, 0x0, false, 0xffffffffffffffff, .domExact 1084, .plain⟩, -- attestation
  ⟨0x7c00, 0x1, 1, 1, 0x1, 1, 1, .u8, .ro, 0x0, false, 0xff, .any, .plain⟩, -- power_state
  ⟨0x7c00, 0x1, 1, 1, 0x2, 1, 1, .u8, .wo, 0x0, false, 0xff, .any, .plain⟩, -- power_request
  ⟨0x7c00, 0x1, 1, 1, 0x3, 1, 1, .bool, .rw, 0x1, true, 0x1, .any, .plain⟩, -- auto_idle
  ⟨0x7c00, 0x1, 1, 1, 0x4, 1, 1, .bits64, .ro, 0x0, false, 0xffff0000ffffffff, .any, .plain⟩, -- last_transition
  ⟨0x7c00, 0x1, 1, 1, 0x5, 1, 1, .bits32, .rw, 0x1, true, 0x3, .any, .plain⟩, -- wake_pin
  ⟨0x7c00, 0x1, 1, 1, 0x6, 1, 1, .bits32, .ro, 0x0, false, 0x7, .any, .plain⟩, -- pad_hold
  ⟨0x7c00, 0x1, 1, 1, 0x7, 1, 1, .bits32, .wo, 0x0, false, 0x7, .any, .plain⟩, -- pad_release
  ⟨0x7c00, 0x1, 1, 1, 0x8, 1, 1, .bits32, .rw, 0x0, false, 0x1f, .any, (.evt 0x1f)⟩, -- power_events
  ⟨0x7c00, 0x1, 1, 1, 0x9, 1, 1, .fp32, .rw, 0x42dc0000, true, 0xffffffff, .fp 0x42b40000 0x42f00000, .plain⟩, -- throttle_temp
  ⟨0x7c01, 0x1, 1, 1, 0x1, 1, 5, .u64, .ro, 0x0, false, 0xffffffffffffffff, .any, .plain⟩, -- ms_store, ms_cxop, ms_telltale, ms_stacks, ms_compute
  ⟨0x7c05, 0x1, 1, 1, 0x1, 1, 1, .domain, .ro, 0x0, true, 0xffffffffffffffff, .dom 0x1000000, .plain⟩, -- repair_cache
  ⟨0x7c05, 0x1, 1, 1, 0x2, 1, 1, .bits32, .ro, 0x0, false, 0xffff, .any, .plain⟩, -- cores_withheld
  ⟨0x7c05, 0x1, 1, 1, 0x3, 1, 1, .bool, .ro, 0x0, false, 0x1, .any, .plain⟩, -- repair_changed
  ⟨0x7c10, 0x1, 4, 1, 0x1, 1, 1, .u32, .rw, 0x3e8, true, 0xffffffff, .step 200 1000 25, .plain⟩, -- cl_freq_req
  ⟨0x7c10, 0x1, 4, 1, 0x2, 1, 2, .u32, .ro, 0x0, false, 0xffffffff, .any, .plain⟩, -- cl_freq, cl_voltage
  ⟨0x7c10, 0x1, 4, 1, 0x4, 1, 1, .fp32, .ro, 0x0, false, 0xffffffff, .any, .plain⟩, -- cl_temp
  ⟨0x7c10, 0x1, 4, 1, 0x5, 1, 1, .bits32, .ro, 0x0, false, 0x7, .any, .plain⟩, -- cl_throttle
  ⟨0x7c20, 0x1, 1, 1, 0x1, 1, 1, .domain, .ro, 0x0, true, 0xffffffffffffffff, .domExact 56, .plain⟩, -- margin_plan
  ⟨0x7c20, 0x1, 1, 1, 0x2, 1, 1, .u8, .rw, 0xc, true, 0xff, .rng 1 20, .plain⟩, -- ageing_budget
  ⟨0x7c20, 0x1, 1, 1, 0x3, 1, 1, .bits32, .ro, 0x0, false, 0x7f, .any, .plain⟩, -- ageing_advisory
  ⟨0x7c30, 0x1, 1, 1, 0x1, 1, 14, .u8, .rw, 0x0, true, 0xff, .rng 0 6, .plain⟩, -- ssc_config
  ⟨0x7c40, 0x1, 1, 1, 0x1, 1, 7, .u8, .rw, 0x1, true, 0xff, .rng 0 3, .plain⟩, -- slew
  ⟨0x7c50, 0x1, 1, 1, 0x1, 1, 21, .u16, .rw, 0x64, true, 0xffff, .step 0 1000 10, .plain⟩, -- glitch_filter
  ⟨0x7c70, 0x1, 1, 1, 0x1, 1, 1, .bits32, .ro, 0x0, false, 0x7fff, .any, .plain⟩, -- rail_status
  ⟨0x7c70, 0x1, 1, 1, 0x2, 1, 1, .u32, .ro, 0x0, false, 0xffffffff, .any, .plain⟩, -- rail_faults
  ⟨0x7c70, 0x1, 1, 1, 0x3, 1, 1, .u8, .ro, 0xff, false, 0xff, .any, .plain⟩, -- last_rail_fault
  ⟨0x7c70, 0x1, 1, 1, 0x4, 1, 1, .u64, .ro, 0x0, false, 0xffffffffffffffff, .any, .plain⟩, -- last_rail_fault_time
  ⟨0x7c70, 0x1, 1, 1, 0x5, 1, 1, .bits32, .rw, 0xf0, true, 0xff, .any, .plain⟩] -- phyref_config

/-- All rows of the object tables. -/
def objRows : List ObjRow :=
  objRows0 ++ objRows1 ++ objRows2 ++ objRows3 ++ objRows4 ++ objRows5 ++ objRows6 ++ objRows7 ++ objRows8 ++ objRows9 ++ objRows10


/-- Whether a row lists objects of the index. -/
def ObjRow.hasIndex (r : ObjRow) (idx : Nat) : Bool :=
  decide (r.base ≤ idx) && decide ((idx - r.base) % r.stride < r.count2) && decide ((idx - r.base) / r.stride < r.count)

/-- Whether a row lists the object. -/
def ObjRow.hits (r : ObjRow) (idx sub : Nat) : Bool :=
  r.hasIndex idx && decide (r.sub ≤ sub) && decide ((sub - r.sub) % r.step = 0) && decide ((sub - r.sub) / r.step < r.reps)

/-- The parts of the tables with the first and the last index that each lists. -/
def objParts : List (Nat × Nat × List ObjRow) :=
  [(0x1000, 0x2002, objRows0), (0x2001, 0x3f02, objRows1), (0x3003, 0x45ff, objRows2), (0x4500, 0x4bf0, objRows3), (0x4c00, 0x540f, objRows4), (0x5400, 0x5843, objRows5),
   (0x5840, 0x603f, objRows6), (0x6030, 0x6400, objRows7), (0x6400, 0x7040, objRows8), (0x7040, 0x7806, objRows9), (0x7800, 0x7c70, objRows10)]

/-- The rows of the parts that reach an index: every row that lists the index is among them. -/
def objRowsAt (idx : Nat) : List ObjRow :=
  objParts.flatMap fun p => if Nat.ble p.1 idx && Nat.ble idx p.2.1 then p.2.2 else []

/-- The row of an object, if a table lists it. -/
def objRow? (idx sub : Nat) : Option ObjRow := (objRowsAt idx).find? fun r => r.hits idx sub

/-- Subindex 0x00 of an index: its highest populated subindex; 0 for an index that is not populated (R26). -/
def maxSub (idx : Nat) : Nat :=
  (objRowsAt idx).foldl (fun m r => if r.hasIndex idx then max m (r.sub + r.step * (r.reps - 1)) else m) 0

/-- The key of an object in the model's maps. -/
def okey (idx sub : Nat) : Nat := idx * 256 + sub

/-- Row of a key. -/
def rowOf (key : Nat) : Option ObjRow := objRow? (key / 256) (key % 256)

/-- Defaults that differ from unit to unit, or that a rule gives outside the tables: Table 3-1 domain_number, Table 11-3, Table 16-8, R392, R345, Table 11-7 rt_deadline. -/
def unitDefault (idx sub dflt : Nat) : Nat :=
  if sub = 6 ∧ (idx = 0x2001 ∨ idx = 0x2002) then idx - 0x2001
  else if 0x5100 ≤ idx ∧ idx < 0x5120 ∧ sub = 3 then
    let i := idx - 0x5100
    if i < 16 then 2
    else if i < 24 then 6
    else if i = 24 then 5
    else if i = 25 then 6
    else if i < 28 then 7
    else if i = 29 then 2
    else if i = 30 then 4
    else 3
  else if 0x5100 ≤ idx ∧ idx < 0x5120 ∧ sub = 4 then
    if 20 ≤ idx - 0x5100 ∧ idx - 0x5100 ≤ 26 then dflt else 0xffff
  else if 0x7050 ≤ idx ∧ idx ≤ 0x705d ∧ sub = 1 then 1
  else if 0x7800 ≤ idx ∧ idx ≤ 0x7806 ∧ sub = 9 then 0xfc03800000 + (idx - 0x7800) * 0x20000
  else dflt

/-- The factory default of a scalar object (R27), and its value after reset; 0 where the manual gives none (log entry 1). -/
def objDefault (key : Nat) : Word64 :=
  match rowOf key with
  | some r => BitVec.ofNat 64 (unitDefault (key / 256) (key % 256) r.dflt)
  | none => 0#64

/-- The identity gamma table: entry k holds k (Table 12-12). -/
def gammaIdentity : List Byte := (List.range 1024).flatMap fun k => leBytes 2 k

/-- The factory default of a DOMAIN's contents; empty where the manual gives none (log entry 1). -/
def domDefault (key : Nat) : List Byte :=
  if key = okey 0x7401 7 then List.replicate 128 0#8
  else if key = okey 0x7401 8 then List.replicate 3584 0#8
  else if key = okey 0x5840 6 ∨ key = okey 0x5841 6 ∨ key = okey 0x5842 6 ∨ key = okey 0x5843 6 then gammaIdentity
  else []

/-- The lock object of an RWL object (R30); a lock object locks itself. -/
def lockOf (idx sub : Nat) : Option Nat :=
  if idx = 0x1011 then some (okey 0x1011 2)
  else if idx = 0x1020 ∨ idx = 0x1021 then some (okey 0x1020 5)
  else if 0x4200 ≤ idx ∧ idx < 0x4300 ∧ (sub = 0xb ∨ sub = 0xc) then some (okey idx 0xc)
  else if idx = 0x5000 then some (okey 0x5000 2)
  else if idx = 0x6020 then some (okey 0x6020 2)
  else if idx = 0x6400 then some (okey 0x6400 2)
  else if idx = 0x7400 ∨ idx = 0x7401 ∨ idx = 0x7402 then some (okey 0x7400 1)
  else none

/-- The type code of Table 2-2. -/
def ObjTy.code : ObjTy → Nat
  | .bool => 1 | .u8 => 2 | .u16 => 3 | .u32 => 4 | .u64 => 5 | .i32 => 6 | .i64 => 7
  | .bits32 => 8 | .bits64 => 9 | .time64 => 10 | .fp32 => 11 | .domain => 13

/-- Whether a slot value is a legal encoding of the type, reserved bits included (R28, R7, R463 step 5). -/
def ObjRow.encOk (r : ObjRow) (v : Word64) : Bool :=
  let n := v.toNat
  let w :=
    match r.ty with
    | .bool => decide (n < 2)
    | .u8 => decide (n < 2 ^ 8)
    | .u16 => decide (n < 2 ^ 16)
    | .u32 | .bits32 | .fp32 => decide (n < 2 ^ 32)
    | .i32 => wrapInt 64 (sext 32 n) == n
    | _ => true
  let m := match r.ty with
    | .i32 | .i64 | .bool => true
    | _ => v &&& ~~~(BitVec.ofNat 64 r.mask) == 0#64
  w && m

/-- A binary32 code as an ordering key; NaN has none. -/
def fpOrd (n : Nat) : Option Int :=
  if 0x7f800000 < n % 2 ^ 31 then none
  else if 2 ^ 31 ≤ n then some (-((n - 2 ^ 31 : Nat) : Int)) else some n

/-- Whether a scalar value lies in the range its listing states (R463 step 6). -/
def Rng.ok (r : Rng) (v : Word64) : Bool :=
  let n := v.toNat
  match r with
  | .any => true
  | .rng lo hi => decide (lo ≤ n) && decide (n ≤ hi)
  | .step lo hi b => decide (lo ≤ n) && decide (n ≤ hi) && decide (n % b = 0)
  | .one => decide (n = 1)
  | .align a => decide (n % a = 0)
  | .pow2 lo hi => decide (lo ≤ n) && decide (n ≤ hi) && isPow2 n
  | .signed lo hi => decide (-(lo : Int) ≤ sext 64 n) && decide (sext 64 n ≤ hi)
  | .zeroOr lo hi => decide (n = 0) || (decide (lo ≤ n) && decide (n ≤ hi))
  | .fp lo hi =>
    match fpOrd n, fpOrd lo, fpOrd hi with
    | some x, some a, some b => decide (a ≤ x) && decide (x ≤ b)
    | _, _, _ => false
  | .capConfig => decide (1 ≤ nfld n 55 52)
  | .capSource => decide (nfld n 63 62 = 0) || (decide (1 ≤ nfld n 15 0) && decide (nfld n 15 0 ≤ 1024)
      && (match nfld n 63 62 with
          | 1 => decide (nfld n 47 32 < 32)
          | 2 => decide (nfld n 47 32 < 1024)
          | _ => decide (nfld n 47 32 < 8)))
  | .distribution => nbit n 4 || decide (nfld n 3 0 ≠ 0)
  | .portConfig =>
    let l := nfld n 4 2
    (decide (l = 0) && !nbit n 0) || (if nbit n 1 then decide (1 ≤ l) && decide (l ≤ 3) else decide (l = 1) || decide (l = 2) || decide (l = 4))
  | .frameGeometry => decide (1 ≤ nfld n 63 48) && decide (1 ≤ nfld n 47 32) && decide (nfld n 47 32 ≤ 65533) && decide (nfld n 15 8 ≤ 16)
  | .gfxInst => decide (n < 16) || decide (n = 0xff)
  | .pipeConfig => decide (nfld n 7 6 ≤ 2)
  | .layerSrc => decide (nfld n 31 0 % 64 = 0)
  | .queueMode => (List.range 8).all fun c => decide (nfld n (2 * c + 1) (2 * c) ≤ 2)
  | .listener => decide (n ≤ 7) || decide (n = 0x10) || decide (n = 0x11) || (decide (0x20 ≤ n) && decide (n ≤ 0x27)) || decide (n = 0xff)
  | .canWake => decide (500 ≤ nfld n 31 16) && decide (nfld n 31 16 ≤ 5000) && decide (500 ≤ nfld n 15 0) && decide (nfld n 15 0 ≤ 1800)
  | .canConfig => decide (nfld n 3 2 ≤ 2)
  | .canRecovery => decide (1 ≤ nfld n 31 16) && decide (nfld n 31 16 ≤ 255)
  | .linkConfig => decide (1 ≤ nfld n 15 8)
  | .winConfig => true
  | .winSize => decide (n = 0) || (isPow2 n && decide (2 ^ 12 ≤ n) && decide (n ≤ 2 ^ 39))
  | .dom _ | .domExact _ | .domRec _ _ | .lookup => true

/-- Whether a DOMAIN may have the length (R465, R29). -/
def Rng.lenOk (r : Rng) (n : Nat) : Bool :=
  match r with
  | .dom cap => decide (n ≤ cap)
  | .domExact k => decide (n = k)
  | .domRec size count => decide (n % size = 0) && decide (n ≤ size * count)
  | .lookup => decide (n = 0) || decide (n = 512) || decide (n = 1152)
  | _ => false

/-- The capacity of a DOMAIN in bytes (R29). -/
def Rng.cap (r : Rng) : Nat :=
  match r with
  | .dom cap => cap
  | .domExact k => k
  | .domRec size count => size * count
  | .lookup => 1152
  | _ => 0

end Sys2Proof.Machine
end

