-- ==== Sys2Proof/Machine/Units.lean ====
section
/-! DEFINITION. The records of which the state is made: what each unit of the ZD60 holds beside its objects and its memory. Plain data. -/

namespace Sys2Proof.Machine

/-! ### Contexts, sessions, subscriptions, the store (spec/02) -/

/-- One entry of a staging set: the object, its slot value, or the bytes of a DOMAIN (R31). -/
structure Staged where
  key : Nat
  v : Word64
  bytes : List Byte
deriving DecidableEq, Repr

/-- A transfer of R465 that runs: direction, the DOMAIN, the buffer, the bytes that move, and the error that it will end with (0 for none). -/
structure Xfer where
  load : Bool
  key : Nat
  buf : Nat
  bytes : List Byte
  err : Nat
deriving DecidableEq, Repr

/-- A pending timed commit: its stated time, the set it took, and for a session the sequence of the COMMIT that it will answer (R32, R41). -/
structure Timed where
  at_ : Word64
  set : List Staged
  seq : Word32
deriving DecidableEq, Repr

/-- What a context of R31 holds: its staging set, its timed commit, window_status, the transfer objects and commit_applied. -/
structure CtxSt where
  staging : List Staged
  timed : Option Timed
  windowStatus : Word64
  xferTarget : Word64
  xferBuffer : Word64
  xferStatus : Word64
  xfer : Option Xfer
  applied : Word64
deriving DecidableEq, Repr

/-- A context after reset. -/
def CtxSt.empty : CtxSt := ⟨[], none, 0#64, 0#64, 0#64, 0#64, none, 0#64⟩

/-- A DOMAIN being written with WRITE_BLOCK (R41). -/
structure BlockXfer where
  key : Nat
  total : Nat
  got : List Byte
deriving DecidableEq, Repr

/-- A CXOP session, from its OPEN on (R43, R44). -/
structure Session where
  sid : Nat
  service : Bool
  secure : Bool
  keyId : Nat
  nr : List Byte
  nd : List Byte
  er : List Byte
  ephemeral : Nat
  key : List Byte
  proved : Bool
  highSeq : Nat
  devSeq : Nat
  mask : Word32
  link : Link
  openedAt : Word64
  lastUsed : Word64
  block : Option BlockXfer
  ctx : CtxSt
deriving DecidableEq, Repr

/-- A reference of a READ or SUBSCRIBE: index, subindex, count (Table 2-5). -/
structure Ref where
  index : Nat
  sub : Nat
  count : Nat
deriving DecidableEq, Repr

/-- A subscription (R45). -/
structure Subscription where
  sid : Nat
  subId : Nat
  entry : Nat
  refs : List Ref
deriving DecidableEq, Repr

/-- A store write in progress: copy (0 A, 1 B), version, and the image that is being written (R51). -/
structure StoreJob where
  copy : Nat
  version : Nat
  image : List Byte
deriving DecidableEq, Repr

/-! ### Time, cadence, triggers, Lodestone (spec/03) -/

/-- A phase slew of a domain: the error handed over, the correction in 2^-40 units, the estimate that follows it, and its anchor (R57). -/
structure PhaseSlew where
  delta : Int
  extra : Int
  estimate : Int
  anchor : Word64
deriving DecidableEq, Repr

/-- What a gPTP domain holds beside its objects: a slew in progress, the counter value at which holdover began, and the grandmaster it lost (R57, R58). -/
structure GDom where
  slew : Option PhaseSlew
  holdSince : Word64
  lostGm : Word64
deriving DecidableEq, Repr

def GDom.init : GDom := ⟨none, 0#64, 0#64⟩

/-- A slew of the selected timeline: d at its start and the counter value at its start (R59). -/
structure SelSlew where
  d : Int
  start : Word64
deriving DecidableEq, Repr

/-- A cadence firing that has come due and not yet issued its action: entry, due instant (raw counter), and whether it is a late firing (R64, R469). -/
structure Due where
  entry : Nat
  at_ : Word64
  late : Bool
deriving DecidableEq, Repr

/-- A trigger output: the raw counter values of its leading edge and of its end, while busy (R70). -/
structure Pulse where
  due : Word64
  stop : Word64
deriving DecidableEq, Repr

/-- One latched Lodestone input: its value and whether it is valid (R72). -/
structure LodeIn where
  v : Word32
  ok : Bool
deriving DecidableEq, Repr

/-- An evaluation between sample and result: the due instant, the sample, the four inputs, whether the firing is pending, the slot's configuration as it stood at the sample, and the sample period in ns (R71-R75). -/
structure LodeEval where
  due : Word64
  sample : Word64
  ins : List LodeIn
  used : List Bool
  pending : Bool
  cfg : Word64
  params : List Word32
  feTime : Nat
  coefs : List Word32
  table : List Byte
  period : Nat
deriving DecidableEq, Repr

/-- A result that waits for its output phase: due instant, value, whether it is valid, and the configuration and frame template it goes to (R73). -/
structure LodeOut where
  due : Word64
  v : Word32
  valid : Bool
  cfg : Word64
  frame : Word64
deriving DecidableEq, Repr

/-- What a Lodestone slot holds beside its objects: the state of its law, the stamp of its set-point, its held outer result, the four inputs of its last sample, a reset that is due, the evaluation in progress and the output that waits (R71-R77, R229). -/
structure LodeSt where
  integ : Word32
  deriv : Word32
  yPrev : Word32
  uPrev : Word32
  x : List Word32
  spStamp : Option Word64
  held : Option Word32
  ins : List Word32
  resetDue : Bool
  eval : Option LodeEval
  out : Option LodeOut
deriving DecidableEq, Repr

def LodeSt.init : LodeSt := ⟨0#32, 0#32, 0#32, 0#32, [0#32, 0#32, 0#32, 0#32], none, none, [0#32, 0#32, 0#32, 0#32], false, none, none⟩

/-- The window of the latest frame that matched a capture handle, and its arrival stamp (R333). -/
structure CapWin where
  bytes : List Byte
  stamp : Word64
deriving DecidableEq, Repr

/-! ### Cores (spec/04, spec/05, spec/09) -/

/-- The transforms that an op carries (R134, Table 9-1). -/
structure Trf where
  t1 : Bool
  t2 : Bool
  t3 : Bool
  rotK : Nat
  laneRot : Nat
deriving DecidableEq, Repr

def Trf.none : Trf := ⟨false, false, false, 0, 0⟩

/-- An op in an engine queue, with the registers, transforms and effective tag read at its dispatch (R112, R219). `waits` and `signals` are its header's we and se; `ran` says that its effect has been performed. -/
structure QOp where
  op : OpWord
  addr : Word64
  seq : Nat
  sregs : TMap Word64
  tregs : TMap (BitVec 512)
  trf : Trf
  tag : Nat
  inGroup : Bool
  granted : Bool
  started : Bool
  ran : Bool
  cycles : Nat
deriving DecidableEq, Repr

/-- An assay slot g0-g3 (R206, R213): open, which run, its transforms, group number and running signature. -/
structure ASlot where
  isOpen : Bool
  runB : Bool
  trf : Trf
  group : Word32
  sig : Word64
  weak : Bool
deriving DecidableEq, Repr

def ASlot.closed : ASlot := ⟨false, false, Trf.none, 0#32, 0#64, false⟩

/-- A SIGNAL with a drain scope that has not yet been applied (R132): its op word and address, and its place in dispatch order. -/
structure PendSig where
  op : OpWord
  addr : Nat
  seq : Nat
deriving DecidableEq, Repr

/-- Why a core's dispatch is held; a held op is given with its address. -/
inductive Hold where
  /-- Not held. -/
  | none
  /-- A WAIT (R131). -/
  | wait (op : OpWord) (addr : Nat)
  /-- A FENCE (R122). -/
  | fence (op : OpWord) (addr : Nat)
  /-- A HALT that drains (R122). -/
  | halt (op : OpWord) (addr : Nat)
  /-- An ACLOSE that drains (R135). -/
  | aclose (op : OpWord) (addr : Nat)
  /-- A run-A AOPEN that stalls on the ledger quota (R216). -/
  | aopenA (op : OpWord) (addr : Nat)
  /-- A run-B AOPEN that waits for run A to close (R214). -/
  | aopenB (op : OpWord) (addr : Nat)
  /-- Stopped by an exception (R137). -/
  | stopped
deriving DecidableEq, Repr

/-- Per accumulator bank: class (0 integer, 1 fixed-point, 2 FP32), its width in columns, exponent and sticky flags (R82, R84, R127). -/
structure BankInfo where
  cls : Option Nat
  width : Nat
  eacc : Int
  sat : Bool
  below : Bool
  special : Bool
deriving DecidableEq, Repr

def BankInfo.empty : BankInfo := ⟨none, 256, 0, false, false, false⟩

/-- A stream segment that waits on a core or runs: its invocation, its op words, and for a direct stream the initial s1-s6 (R140, R246). -/
structure SegRun where
  inv : Nat
  start : Nat
  len : Nat
  init : Option (List Word64)
deriving DecidableEq, Repr

/-- What a core holds beside its objects and memories. `acc`, `tags` and `banks` are its accumulator banks, `seg` the segment that runs and `segs` those that wait; `elapsed` is the watchdog's count before a stop. -/
structure CoreSt where
  sregs : TMap Word64
  tregs : TMap (BitVec 512)
  pregs : TMap Word32
  slots : TMap ASlot
  slab : List QOp
  readout : List QOp
  mica : List QOp
  dma : List QOp
  pebble : List QOp
  nextSeq : Nat
  pend : List PendSig
  hold : Hold
  seg : Option SegRun
  segs : List SegRun
  stepping : Bool
  lastRetire : Word64
  elapsed : Nat
  weak : List Nat
  banks : TMap BankInfo
  acc : TMap Word64
  tags : TMap Nat
  vregs : TMap Word32
  preempt : Bool
  stopped : Bool
  lastWorld : Option Bool
deriving DecidableEq, Repr

def CoreSt.init : CoreSt :=
  ⟨[], [], [], [], [], [], [], [], [], 0, [], .none, none, [], false, 0#64, 0, [], [], [], [], [], false, false, none⟩

/-- An op that a core has forwarded to a Pebble: the core and the op's order there (R104). -/
structure PebOp where
  core : Nat
  seq : Nat
deriving DecidableEq, Repr

/-- A cluster's Pebble: forwarded ops in order of arrival, the instance and world of the op before, its two banks of 64 x 64, and its line buffer: none when cleared, else the count from which its bytes, which no rule gives and no op reads, are free values (R103, R104, log entry 65). -/
structure PebSt where
  queue : List PebOp
  lastInst : Option Nat
  lastSecure : Bool
  acc : TMap Word32
  line : Option Nat
deriving DecidableEq, Repr

def PebSt.init : PebSt := ⟨[], none, false, [], none⟩

/-- A Flint ledger entry (Table 9-2): state 0 free, 1 run A open, 2 run A closed, 3 run B open. -/
structure LedgerEntry where
  state : Nat
  inst : Nat
  group : Word32
  sig : Word64
  coreA : Nat
  coreB : Nat
  deadline : Nat
  safety : Bool
  broken : Bool
  inv : Nat
deriving DecidableEq, Repr

def LedgerEntry.free : LedgerEntry := ⟨0, 0, 0#32, 0#64, 0, 0, 0, false, false, 0⟩

/-! ### Instances, plans, invocations, the scheduler (spec/07, spec/08, spec/10) -/

/-- A loaded plan: its image, header facts, bindings, the capture sets and KV caches that it names, and its placement. `unload` holds the cookie of an UNLOAD that waits (R253). -/
structure PlanSt where
  image : Nat
  bytes : Nat
  pinned : Bool
  safety : Bool
  job : Option Nat
  minCores : Nat
  nodes : Nat
  binds : List (Nat × Bool × Nat)
  streams : List Nat
  caches : List Nat
  views : List Nat
  place : Placement
  unload : Option Nat
deriving DecidableEq, Repr

/-- Work that waits or runs: a RUN (0), a DIRECT (1) or a cadence start (2), with what its message carried (Tables 10-6, 5-18). `caps` are the capture slots that a rerun keeps (R227). -/
structure RunReq where
  kind : Nat
  cookie : Nat
  handle : Nat
  view : Bool
  args : List Word64
  binds : List (Nat × Nat)
  header : Nat
  caps : List (Nat × Nat)
  restarted : Bool
deriving DecidableEq, Repr

/-- A staged output of an invocation (R222). -/
structure OutSt where
  place : StageOut
  dest : Nat
  written : Bool
  released : Bool
  invalid : Bool
deriving DecidableEq, Repr

/-- An invocation in progress: number, its request, group base and count, the groups that compared equal and those that are broken, the slots it holds, its outputs, and the highest tag under which it wrote each cache with the first position (R206, R222, R225, R230, R246). -/
structure InvSt where
  num : Nat
  req : RunReq
  base : Word32
  groups : Nat
  started : Word64
  safety : Bool
  equal : List Nat
  broken : List Nat
  caps : List (Nat × Nat)
  outs : List OutSt
  wrote : List (Nat × Nat × Nat)
  slot : Bool
deriving DecidableEq, Repr

/-- A message from the device that waits to be written (R252). -/
structure OutMsg where
  kind : Nat
  cookie : Nat
  body : List Byte
deriving DecidableEq, Repr

/-- A KV cache's writes that an invocation still has unsettled, and for a poisoned cache the first position a squashed invocation wrote (R225). -/
structure KvMark where
  unsettled : List (Nat × Nat)
  firstBad : Nat
deriving DecidableEq, Repr

/-- What an instance holds beside its objects. `claims` are ranges of its stack quota that restored captures take, `frames` its bound KV frames, `stalls` the run-A AOPENs that wait for quota in order, `saved` its saved cores, `base` the next group base, `left` notes of arrival order. -/
structure InstSt where
  stackBase : Nat
  ptEnd : Nat
  plans : TMap PlanSt
  runq : List RunReq
  held : TMap RunReq
  outq : List OutMsg
  invs : List InvSt
  nextInv : Nat
  base : Word32
  lastMsg : Word64
  lastGroup : Word64
  stalls : List (Nat × Word32 × Word64)
  claims : List (Nat × Nat)
  frames : List (Nat × Nat)
  kv : TMap KvMark
  saved : TMap CoreSt
  reruns : List RunReq
  zeroing : Bool
  busy : Nat
  replaceq : List (Nat × Nat)
  shrink : List (Nat × Word64)
  ns : TMap Nat
deriving DecidableEq, Repr

def InstSt.init : InstSt :=
  ⟨0, 0, [], [], [], [], [], 1, 0#32, 0#64, 0#64, [], [], [], [], [], [], false, 0, [], [], []⟩

/-- What a partition holds beside its objects: nanoseconds left of the slice and the raw counter at which its cores last began to run, whether a save is in progress and the member it hands the cores to, the interrupted slice holder with its remainder, the slot in progress (member, plan handle, when it began), slots that wait (member, handle, due instant), and the last slice holder (R242-R245). -/
structure PartSt where
  left : Nat
  since : Option Word64
  saving : Bool
  next : Option Nat
  interrupted : Option (Nat × Nat)
  slot : Option (Nat × Nat × Word64)
  waitSlots : List (Nat × Nat × Word64)
  lastHolder : Nat
deriving DecidableEq, Repr

def PartSt.init : PartSt := ⟨0, none, false, none, none, none, [], 15⟩

/-- A capture in progress: its ring slot, counter value and network time at the capture, its mask so far, and the camera sources that wait for a frame to complete (R229, R293). -/
structure CapWait where
  slot : Nat
  at_ : Word64
  net : Word64
  seq : Nat
  mask : Nat
  waits : List Nat
deriving DecidableEq, Repr

/-- A capture set's run state: the next sequence number, per slot how many invocations hold it, and the captures in progress (R229, R230). -/
structure CapRun where
  seq : Nat
  holds : TMap Nat
  busy : List CapWait
deriving DecidableEq, Repr

def CapRun.init : CapRun := ⟨0, [], []⟩

/-- A member's part in a collective that waits for the others: instance, group, the number of its COLL on that group, core, op order, kind, reduction, format, element count, and the contribution (R183-R185). -/
structure CollPart where
  inst : Nat
  group : Nat
  k : Nat
  core : Nat
  seq : Nat
  kind : Nat
  red : Nat
  fmt : Nat
  count : Nat
  data : List Nat
deriving DecidableEq, Repr

/-! ### Camera streams (spec/12) -/

/-- A frame of a stream from its frame start to its verdict: number, buffer (none when discarded), stamps, status bits gathered so far, lines written, CRC failures (R290-R293). -/
structure FrameSt where
  frame : Word32
  buf : Option Nat
  fsStamp : Word64
  feStamp : Word64
  fsTime : Word64
  csiFrame : Word16
  pixelLines : Nat
  embLines : Nat
  long : Bool
  pktErr : Bool
  testMissing : Bool
  pathFault : Bool
  crcErrs : Nat
deriving DecidableEq, Repr

/-- What a stream holds beside its objects (R290-R297): the frame in progress and the one that waits for its verdict, line starts and their stamps, the buffer last used, ring depth, buffers written and frames since enable, the camera test line seen, frame buffers pinned by capture slots (256 * set + slot, address), rings carved (owner, base, size), the latest complete buffer with its frame number and validity, and the time from frame start to frame end over the last frame. -/
structure StreamSt where
  cur : Option FrameSt
  verdict : Option FrameSt
  lineStarts : Nat
  line0 : Word64
  lastLine : Word64
  lastBuf : Nat
  ringDepth : Nat
  written : Nat
  frames : Nat
  testSeen : Option Bool
  pinned : List (Nat × Nat)
  rings : List (Nat × Nat × Nat)
  latest : Option (Nat × Word32 × Bool)
  feNs : Nat
deriving DecidableEq, Repr

def StreamSt.init : StreamSt := ⟨none, none, 0, 0#64, 0#64, 0, 0, 0, 0, none, [], [], none, 0⟩

/-! ### Strata and service slots (spec/16) -/

/-- A Strata record that waits for the writer: sequence, permanent slot if it has one, and its 1,024 bytes but for the valid word (R412). -/
structure StrataRec where
  seq : Nat
  perm : Option Nat
  body : List Byte
deriving DecidableEq, Repr

/-- A copy-out that runs: flash slot, copy version, and the listed bytes of the region as they stood at its start, by region offset (R417). -/
structure CopyJob where
  slot : Nat
  version : Nat
  image : List (Nat × Byte)
deriving DecidableEq, Repr

/-! ### Network (spec/13) -/

/-- A frame in a transmit queue: its bytes without FCS, the port it came from, its VLAN and receive stamp, launch time, whether a cadence action has released it, the timestamp request with frame_id, the ring descriptor (device address) and template it came from (R327-R335). -/
structure TxFrame where
  bytes : List Byte
  src : Nat
  vlan : Nat
  stamp : Word64
  launch : Option Word64
  released : Bool
  stampReq : Bool
  frameId : Nat
  desc : Option Nat
  template : Option Nat
deriving DecidableEq, Repr

/-- A learned address of the dynamic forwarding table (R323). -/
structure FdbEntry where
  vlan : Nat
  mac : BitVec 48
  port : Nat
  seen : Word64
deriving DecidableEq, Repr

/-- A frame in a CAN controller's queue, with the template it came from and its launch time (R334, R340). -/
structure CanTx where
  frame : CanFrame
  launch : Option Word64
  template : Option Nat
  cxop : Bool
deriving DecidableEq, Repr

/-- A 10BASE-T1S frame that waits, with the attempts made (R337). -/
structure T1sTx where
  bytes : List Byte
  attempts : Nat
deriving DecidableEq, Repr

/-! ### Feldspar and Twimi (spec/14) -/

/-- A posted write that Feldspar has accepted: device address, bytes, when (R348). -/
structure Posted where
  addr : Nat
  data : List Byte
  at_ : Word64
deriving DecidableEq, Repr

/-- A fetch slot: the read it serves, and once it has ended its data, or nothing for an error, with the stamp (R353, R354). -/
structure Fetch where
  requester : Nat
  addr : Nat
  len : Nat
  done : Bool
  data : Option (List Byte)
  since : Word64
deriving DecidableEq, Repr

/-- A Twimi link: the replays of the present millisecond and its start, and consecutive replays of one flit (R359, R360). -/
structure LinkSt where
  msStart : Word64
  msCount : Nat
  same : Nat
deriving DecidableEq, Repr

def LinkSt.init : LinkSt := ⟨0#64, 0, 0⟩

/-! ### Garnet and display pipes (spec/12) -/

/-- The raster unit: whether the pass at ring_head has started, and the earliest waiting present per pipe (R298, R313, R320): pipe, layer, surface address, pitch, format. -/
structure GarnetSt where
  started : Bool
  presents : List (Nat × Nat × Nat × Nat × Nat)
  headSince : Word64
deriving DecidableEq, Repr

def GarnetSt.init : GarnetSt := ⟨false, [], 0#64⟩

/-- A display pipe: the nine layer objects in force since the last latch (source, position, address per layer), the scene and atlas in force, region states latched for the frame, whether a region mismatched in it and how many regions were checked, consecutive mismatching frames, resume written, one whole fallen-back frame matched, whether the frame began fallen back, and whether its sink is ready (R313-R319, R423). -/
structure PipeSt where
  layers : List Word64
  scene : List Byte
  atlas : List Byte
  states : Nat
  bad : Bool
  checked : Nat
  run : Nat
  resume : Bool
  matched : Bool
  whole : Bool
  sink : Bool
deriving DecidableEq, Repr

def PipeSt.init : PipeSt := ⟨[], [], [], 0, false, 0, 0, false, false, false, false⟩

/-! ### Host cores, firmware processors, power (spec/15, spec/17) -/

/-- A host core as far as the manual's rules reach: integer, floating-point and vector registers, the fields of R372, the next world, where it started, and whether it runs. -/
structure HostSt where
  x : TMap Word64
  f : TMap Word64
  fcsr : Word32
  v : TMap Word64
  vstart : Word64
  vxsat : Bool
  vxrm : Nat
  vl : Word64
  vtype : Word64
  fs : Nat
  vs : Nat
  next : Bool
  pc : Word64
  running : Bool
deriving DecidableEq, Repr

def HostSt.init : HostSt := ⟨[], [], 0#32, [], 0#64, false, 0, 0#64, 0#64, 0, 0, false, 0#64, false⟩

/-- The program that a processor runs, of the seven firmware processors 0-6, the safety island 7 and the host complex 8: component faults with their times, whether its restart was announced, and the image it started from with hash, version and directory copy (R382, R386, R388-R390). -/
structure FwSt where
  faults : List (Nat × Word64)
  announced : Bool
  started : Bool
  hash : List Byte
  version : Nat
  copy : Nat
deriving DecidableEq, Repr

def FwSt.init : FwSt := ⟨[], false, false, [], 0, 0⟩

/-- Where the power core stands: steady in a state, in the entry of Drowse (2), Sentry (3) or Off (4), or in a start-up from power-good (0), Drowse (2) or Sentry (3) (R420, R426, R435). -/
inductive PowerPhase where
  | steady
  | entering (into : Nat)
  | starting (from_ : Nat)
deriving DecidableEq, Repr

/-- The power core's work: its phase, a request that begins when the phase or the power core's restart is over (state, from the secure world), a wake that came during the entry, the state before the entry or exit, the instances that a Drowse entry froze with their states, whether the stacks are in self-refresh, since when a stack is above 105 °C, and per cluster when its frequency last moved (R389, R426-R438). -/
structure PowerSt where
  phase : PowerPhase
  next : Option (Nat × Bool)
  wake : Bool
  prev : Nat
  frozen : List (Nat × Nat)
  refresh : Bool
  hotSince : Option Word64
  lastReturn : TMap Word64
deriving DecidableEq, Repr

def PowerSt.init : PowerSt := ⟨.steady, none, false, 0, [], false, none, []⟩

/-! ### What leaves the device -/

/-- One thing that left the device or was answered to a requester (log entry 4). -/
inductive Out where
  /-- A CXOP PDU: session, kind byte, flags, sequence, status, tag segment, payload (R39, R40). -/
  | cxop (sid kind flags seq status seg : Nat) (payload : List Byte)
  /-- The broadcast safe-state notice on the safety VLAN and on the CAN XL controllers that carry CXOP: sequence, code, time, arguments (R401). -/
  | broadcast (seq code : Nat) (time : Word64) (args : List Word64) (canControllers : Nat)
  /-- An access that completed with an error response under R16. -/
  | errorResponse (src : Src) (addr : Nat)
  /-- Bytes written into a remote device window: peer offset k, address in the peer, bytes (R17). -/
  | remoteWrite (k addr : Nat) (bytes : List Byte)
  /-- A collective's contribution to members on joined devices: instance, group, the number of the COLL, core, element codes (R183). -/
  | collSend (inst group k core : Nat) (codes : List Nat)
  /-- A request to a joined peer's device to withdraw its part of an invocation or of an instance (R226, R227). -/
  | peerWithdraw (inst inv : Nat)
  /-- A core tells Garnet that a batch is shaded: core, pass_id, sequence (R306). -/
  | garnetNotify (core pass seq : Nat)
  /-- A trigger edge leaves its ball at a raw counter value (R70). -/
  | edge (o : Nat) (at_ : Word64) (active : Bool)
  /-- A frame leaves an Ethernet port: port, class, bytes without FCS, whether it is late (R329). -/
  | eth (q c : Nat) (bytes : List Byte) (late : Bool)
  /-- A frame leaves a CAN controller (R340). -/
  | can (c : Nat) (f : CanFrame)
  /-- A frame leaves a 10BASE-T1S PHY (R337). -/
  | t1s (i : Nat) (bytes : List Byte)
  /-- A frame reaches the safety island through port 10 (Table 13-1). -/
  | island (bytes : List Byte)
  /-- A request leaves the PCI Express port: window, 0 memory write, 1 memory read, 2 configuration write, 3 configuration read, 4 zero-length read; far address; bytes; length (R347-R349). -/
  | pcie (w kind addr : Nat) (bytes : List Byte) (len : Nat)
  /-- Feldspar's answer to a requester: 0 RETRY, 1 data, 2 error, 3 write complete (R348, R353). -/
  | feldspar (requester kind addr : Nat) (bytes : List Byte)
  /-- The answer to an inbound request: read data, or nothing for Unsupported Request (R351). -/
  | inbound (addr : Nat) (data : Option (List Byte))
  /-- Answer to a request to stacked memory: master, address, data, or nothing for an error response (R268, R368). -/
  | stack (master addr : Nat) (data : Option (List Byte))
  /-- A pipe sends one line of output codes R, G, B (R314). -/
  | scan (p y : Nat) (pixels : List (Nat × Nat × Nat))
  /-- The blanking pattern enters the packet decoder (R294). -/
  | blank (st frame : Nat) (bytes : List Byte)
  /-- A TC10 sleep request on a port (R344). -/
  | tc10 (q : Nat)
  /-- An attestation report handed to its reader (R386). -/
  | report (src : Src) (bytes : List Byte)
  /-- An access of a DOMAIN's contents, or of an object outside the window, answered with an error code (R465, R386). -/
  | refused (src : Src) (idx sub err : Nat)
  /-- An illegal-instruction exception on a host core (R371). -/
  | illegalInstr (h : Nat)
  /-- The PWROFF_N ball goes low (R432). -/
  | pwroff
deriving DecidableEq, Repr

end Sys2Proof.Machine
end

