-- ==== Sys2Proof/Machine/State.lean ====
section
/-! DEFINITION. The state of the ZD60: everything the manual gives the device, as plain data, with the queue of waiting commands, and the state after reset. -/

namespace Sys2Proof.Machine

/-- Why the machine stops. -/
inductive Fault where
  /-- Raised by a command whose operands no command of the device can carry (a window address outside the object window, a core op whose RESERVED_OPCODE names an assigned opcode). Safe: nothing is concluded of such a run. -/
  | illFormed
deriving DecidableEq, Repr

/-- Why a command is refused. -/
inductive Refusal where
  /-- Answered by an arm of exec whose command has no meaning yet. Safe. -/
  | notModelled (mnemonic : String)
deriving DecidableEq, Repr

/-- The state. -/
structure State where
  /-- Commands that wait, first in first out. -/
  pending : List Instr
  /-- The raw timebase counter (R55). -/
  now : Word64
  /-- Whether the timebase counts (R22). -/
  tbRun : Bool
  /-- How many free values have been taken (log entry 3). -/
  free : Nat
  /-- What has left the device, latest first (log entry 4). -/
  out : List Out
  /-- The interleave setting in force since the last start-up (R265). -/
  ileave : Nat
  /-- Memory by device address; aliases are held at the interleaved address; an unlisted byte reads 0 (R14, log entry 5). -/
  mem : List Host.Cell
  /-- Active values of the scalar objects by `okey` (R26-R30). -/
  objs : TMap Word64
  /-- Contents of the DOMAIN objects by `okey` (R29). -/
  doms : TMap (List Byte)
  /-- Window role contexts: 0 secure firmware, 1 manager, 2 + m instance m (R31). -/
  ctxs : TMap CtxSt
  /-- CXOP sessions (R43, R44). -/
  sessions : List Session
  /-- Subscriptions (R45). -/
  subs : List Subscription
  /-- A store write in progress (R51). -/
  storeJob : Option StoreJob
  /-- gPTP domains (R56-R58). -/
  gdom : TMap GDom
  /-- A slew of the selected timeline (R59). -/
  sel : Option SelSlew
  /-- A domain has been locked since the counter last started (R67). -/
  everLocked : Bool
  /-- Cadence firings that are due and have not issued (R64, R469). -/
  cadDue : List Due
  /-- Firing index since arming, per cadence entry (R75). -/
  cadK : TMap Nat
  /-- Busy trigger outputs (R70). -/
  trig : TMap (Option Pulse)
  /-- Lodestone slots (R71). -/
  lode : TMap LodeSt
  /-- Capture windows by handle (R333). -/
  capWin : TMap (Option CapWin)
  /-- Cores (R111-R143). -/
  cores : TMap CoreSt
  /-- Pebbles, one per cluster (R103, R104). -/
  peb : TMap PebSt
  /-- Collectives that wait for members (R185). -/
  coll : List CollPart
  /-- How many COLLs each member has issued on each group (R185): instance, group, core, count. -/
  collCount : List (Nat × Nat × Nat × Nat)
  /-- The Flint ledger, entries 0-4095 (Table 9-2). -/
  ledger : TMap LedgerEntry
  /-- Flint accepts AOPENs: the comparator test of the present power-up has passed (R232). -/
  flintOpen : Bool
  /-- Instances (R246-R264). -/
  insts : TMap InstSt
  /-- Partitions (R234-R245). -/
  parts : TMap PartSt
  /-- Capture sets (R229, R230). -/
  caps : TMap CapRun
  /-- Poisoned memory: 32-byte units of the stacks, 8-byte words elsewhere, by device address (R108, R268). -/
  poison : List Nat
  /-- Camera streams (R290). -/
  streams : TMap StreamSt
  /-- Count of broadcast notices (R401). -/
  noticeSeq : Nat
  /-- Repetitions of notice 0x0002 still due (Table 16-5). -/
  leftRepeats : Nat
  /-- Arguments of the notice that repeats (Table 16-5). -/
  noticeArgs : List Word64
  /-- Raw counter of the last Granite heartbeat; none while the island watchdog is suspended (R402). -/
  lastBeat : Option Word64
  /-- Until when the watchdog is suspended after an announced restart (R402, R390). -/
  wdHold : Word64
  /-- Timeline at the detection that the notice tells of (R401). -/
  noticeTime : Word64
  /-- A self-test request that is queued or runs: kind and the mask of what it has still to test (R407). -/
  selfReq : Option (Nat × Nat)
  /-- The overdue warning of the present diagnostic test interval has been raised (R408). -/
  overdue : Bool
  /-- Strata records that wait for the writer (R412). -/
  strataQ : List StrataRec
  /-- A copy-out that runs (R417). -/
  copyJob : Option CopyJob
  /-- A copy-out is held behind the running one (R417). -/
  copyHeld : Bool
  /-- Records have been written since the last copy-out (R417). -/
  strataDirty : Bool
  /-- Power domains that are off, bits as secure_power_hold (Table 1-4). -/
  domsOff : Nat
  /-- Bucket tokens in bytes by 32 * stack + master (R277). -/
  bucket : TMap Rat
  /-- Pool tokens in bytes by 8 * stack + class (R278). -/
  pool : TMap Rat
  /-- Stack and offset of the units corrected in the present scrub period (R270). -/
  eccUnits : List (Nat × Nat)
  /-- Stack and row of the rows that have taken a spare (R270, R271). -/
  retired : List (Nat × Nat)
  /-- The raster unit (R298-R307). -/
  garnet : GarnetSt
  /-- Display pipes (R313-R319). -/
  pipes : TMap PipeSt
  /-- Transmit queues by 8 * port + class (R322, R328). -/
  txq : TMap (List TxFrame)
  /-- Next descriptor to fetch by 8 * (port - 8) + class (R327). -/
  txNext : TMap Nat
  /-- Sequence counters of the frame templates (R334). -/
  tmplSeq : TMap Nat
  /-- Dynamic forwarding table (R323). -/
  fdb : List FdbEntry
  /-- Installed MACsec secure associations by port (Table 13-4). -/
  sas : List (Nat × List Byte)
  /-- CAN transmit queues (R340). -/
  canq : TMap (List CanTx)
  /-- Times of a controller's bus-offs, latest first (R340). -/
  canOff : TMap (List Word64)
  /-- 10BASE-T1S transmit queues (R337). -/
  t1sq : TMap (List T1sTx)
  /-- Feldspar's outbound write buffer, oldest first (R348). -/
  wbuf : List Posted
  /-- Feldspar's fetch slots (R353). -/
  fetches : TMap (Option Fetch)
  /-- The outbound side has yielded to inbound traffic (R356). -/
  yielding : Bool
  /-- Role of the PCI Express port as read at the last start-up: 0 off, 1 root port, 2 endpoint (R346). -/
  pcieRole : Nat
  /-- Twimi links (R359). -/
  links : TMap LinkSt
  /-- Host cores (R371, R372, R424, R427). -/
  hosts : TMap HostSt
  /-- Firmware processors (R388). -/
  fws : TMap FwSt
  /-- Attestation reports since start-up (R386). -/
  reports : Nat
  /-- Per golden job, how many of its cadence starts have not begun (R410). -/
  golden : TMap Nat
  /-- The power core (R426-R438). -/
  power : PowerSt
  /-- PWR_GOOD is high (R420). -/
  powered : Bool
  /-- The device is in service boot (R425). -/
  svcBoot : Bool
  /-- Only a start-up from power-good brings the device back (R438, R451, R452). -/
  dead : Bool
deriving DecidableEq, Repr

/-- The device before PWR_GOOD rises: objects at their factory defaults, every queue empty (R399, R420; log entry 1 for what the manual leaves unstated). -/
def State.reset : State where
  pending := []
  now := 0#64
  tbRun := false
  free := 0
  out := []
  ileave := 0
  mem := []
  objs := []
  doms := []
  ctxs := []
  sessions := []
  subs := []
  storeJob := none
  gdom := []
  sel := none
  everLocked := false
  cadDue := []
  cadK := []
  trig := []
  lode := []
  capWin := []
  cores := []
  peb := []
  coll := []
  collCount := []
  ledger := []
  flintOpen := false
  insts := []
  parts := []
  caps := []
  poison := []
  streams := []
  noticeSeq := 0
  leftRepeats := 0
  noticeArgs := []
  lastBeat := none
  wdHold := 0#64
  noticeTime := 0#64
  selfReq := none
  overdue := false
  strataQ := []
  copyJob := none
  copyHeld := false
  strataDirty := false
  domsOff := 0x3ff
  bucket := []
  pool := []
  eccUnits := []
  retired := []
  garnet := GarnetSt.init
  pipes := []
  txq := []
  txNext := []
  tmplSeq := []
  fdb := []
  sas := []
  canq := []
  canOff := []
  t1sq := []
  wbuf := []
  fetches := []
  yielding := false
  pcieRole := 0
  links := []
  hosts := []
  fws := []
  reports := 0
  golden := []
  power := PowerSt.init
  powered := false
  svcBoot := false
  dead := false

end Sys2Proof.Machine
end

