-- ==== Sys2Proof/Machine/Ops.lean ====
section
/-! DEFINITION. The named operations over the state: objects, DOMAIN contents, memory with its aliases and units (R14-R17, R265, R266), free values, and the record of what leaves the device. -/

namespace Sys2Proof.Machine

/-- The outcome type of every command. -/
abbrev Result := Host.Outcome State Fault Refusal

/-! ### Objects -/

/-- Active value of a scalar object. -/
def State.obj (s : State) (key : Nat) : Word64 := TMap.get objDefault s.objs key

/-- The same as a number. -/
def State.objN (s : State) (key : Nat) : Nat := (s.obj key).toNat

/-- Store an active value. -/
def State.setObj (s : State) (key : Nat) (v : Word64) : State :=
  { s with objs := TMap.set objDefault s.objs key v }

/-- Store a number as an active value. -/
def State.setN (s : State) (key n : Nat) : State := s.setObj key (BitVec.ofNat 64 n)

/-- Set the bits of a mask in an object (event objects, sticky flags). -/
def State.orObj (s : State) (key mask : Nat) : State := s.setObj key (s.obj key ||| BitVec.ofNat 64 mask)

/-- Clear the bits of a mask in an object. -/
def State.clrObj (s : State) (key mask : Nat) : State := s.setObj key (s.obj key &&& ~~~(BitVec.ofNat 64 mask))

/-- Count in a wrapping counter of `n` bits. -/
def State.count (s : State) (key n : Nat) (by_ : Nat := 1) : State := s.setObj key (incWrap n (s.obj key) by_)

/-- Count in a saturating counter of `n` bits. -/
def State.countSat (s : State) (key n : Nat) (by_ : Nat := 1) : State := s.setObj key (incSat n (s.obj key) by_)

/-- Bit `i` of an object. -/
def State.oBit (s : State) (key i : Nat) : Bool := bit (s.obj key) i

/-- Contents of a DOMAIN. -/
def State.dom (s : State) (key : Nat) : List Byte := TMap.get domDefault s.doms key

/-- Store the contents of a DOMAIN. -/
def State.setDom (s : State) (key : Nat) (v : List Byte) : State :=
  { s with doms := TMap.set domDefault s.doms key v }

/-! ### Memory -/

/-- What an unlisted byte of memory reads as (log entry 5). -/
def memDefault : Nat → Byte := fun _ => 0#8

/-- Bytes of stacked memory. -/
def stackedSize : Nat := 0x1800000000

/-- The granule of the interleave (Table 11-1). -/
def granule (ileave : Nat) : Nat :=
  match ileave with
  | 1 => 0x10000
  | 2 => 0x200000
  | _ => 0x1000

/-- The units of Table 1-2. -/
inductive AUnit where
  | stack
  | alias_ (s : Nat)
  | cmem (c : Nat)
  | lstore (n : Nat)
  | mailbox (m : Nat)
  | window
  | psram
  | flash
  | hostPrivate
  | remote (k : Nat)
  | pcie (w : Nat)
deriving DecidableEq, Repr

/-- The unit of Table 1-2 that an address lies in; none for a reserved address or an unpopulated part. -/
def unitOf (a : Nat) : Option AUnit :=
  if a < 0x1800000000 then some .stack
  else if 0x2000000000 ≤ a ∧ a < 0x4000000000 then
    if (a - 0x2000000000) % 0x800000000 < 0x600000000 then some (.alias_ ((a - 0x2000000000) / 0x800000000)) else none
  else if 0xf000000000 ≤ a ∧ a < 0xf008000000 then
    if (a - 0xf000000000) % 0x2000000 < 0x1800000 then some (.cmem ((a - 0xf000000000) / 0x2000000)) else none
  else if 0xf010000000 ≤ a ∧ a < 0xf018000000 then some (.lstore ((a - 0xf010000000) / 0x800000))
  else if 0xf020000000 ≤ a ∧ a < 0xf020020000 then some (.mailbox ((a - 0xf020000000) / 0x2000))
  else if 0xf800000000 ≤ a ∧ a < 0xf808000000 then some .window
  else if 0xfc00000000 ≤ a ∧ a < 0xfc04000000 then some .psram
  else if 0xfc10000000 ≤ a ∧ a < 0xfc20000000 then some .flash
  else if 0xfe00000000 ≤ a ∧ a < 0xfe01000000 then some .hostPrivate
  else if 0x10000000000 ≤ a ∧ a < 0x40000000000 then some (.remote (a / 0x10000000000))
  else if 0x80000000000 ≤ a ∧ a < 0x100000000000 then some (.pcie ((a - 0x80000000000) / 0x8000000000))
  else none

/-- The unit that holds all bytes of a request (R16). -/
def unitOfRange (a n : Nat) : Option AUnit :=
  match unitOf a with
  | none => none
  | some u => if n = 0 then some u else if unitOf (a + n - 1) = some u then some u else none

/-- The address at which a byte is held: a stack-local alias is the interleaved address of the same byte (R266). -/
def canonAddr (ileave a : Nat) : Nat :=
  match unitOf a with
  | some (.alias_ st) =>
    let g := granule ileave
    let o := (a - 0x2000000000) % 0x800000000
    o / g * (4 * g) + st * g + o % g
  | _ => a

/-- Stack of an interleaved address (R265). -/
def stackOf (ileave a : Nat) : Nat := a / granule ileave % 4

/-- Offset of an interleaved address within its stack (R265). -/
def stackOffset (ileave a : Nat) : Nat :=
  let g := granule ileave
  a / (4 * g) * g + a % g

/-- The byte at a device address; a remote device's byte is what the peer returns (R17, log entry 11). -/
def State.byte (s : State) (a : Nat) : Byte :=
  if 0x10000000000 ≤ a ∧ a < 0x40000000000 then Config.remoteByte (a / 0x10000000000) (a % 0x10000000000) s.free
  else TMap.get memDefault s.mem (canonAddr s.ileave a)

/-- `n` bytes from a device address. -/
def State.rd (s : State) (a n : Nat) : List Byte := (List.range n).map fun i => s.byte (a + i)

/-- A little-endian number of `n` bytes at a device address. -/
def State.rdN (s : State) (a n : Nat) : Nat := leNat (s.rd a n)

/-- Store one byte at a device address; a byte for a remote device is not held here. -/
def State.putByte (s : State) (a : Nat) (b : Byte) : State :=
  if 0x10000000000 ≤ a ∧ a < 0x40000000000 then s
  else { s with mem := TMap.set memDefault s.mem (canonAddr s.ileave a) b }

/-- Put bytes from a device address. -/
def State.putBytes (s : State) : Nat → List Byte → State
  | _, [] => s
  | a, b :: bs => State.putBytes (s.putByte a b) (a + 1) bs

/-- Whether [a, a + len) covers all of the poisoned unit at p (R268, R108). -/
def State.coversUnit (s : State) (a len p : Nat) : Bool :=
  let u := if p < stackedSize then 32 else 8
  if 0x2000000000 ≤ a ∧ a < 0x4000000000 then (List.range len).any fun i => decide (canonAddr s.ileave (a + i) = p) && decide (i + u ≤ len)
  else decide (a ≤ p) && decide (p + u ≤ a + len)

/-- Store bytes from a device address; a poisoned unit that is written whole loses its poison (R268, R108). -/
def State.wr (s : State) (a : Nat) (bs : List Byte) : State :=
  let t := s.putBytes a bs
  if t.poison.isEmpty then t else { t with poison := t.poison.filter fun p => !s.coversUnit a bs.length p }

/-- Store a little-endian number of `n` bytes. -/
def State.wrN (s : State) (a n v : Nat) : State := s.wr a (leBytes n v)

/-- Zero a range that holds no alias: what is listed there is dropped. -/
def State.zeroRange (s : State) (a n : Nat) : State :=
  { s with mem := TMap.clearRange s.mem a n, poison := if s.poison.isEmpty then s.poison else s.poison.filter fun p => !s.coversUnit a n p }

/-- PSRAM, flash, local store, cluster memory and mailbox addresses (Table 1-2). -/
def psramBase : Nat := 0xfc00000000
def flashBase : Nat := 0xfc10000000
def lstoreBase (n : Nat) : Nat := 0xf010000000 + n * 0x800000
def cmemBase (c : Nat) : Nat := 0xf000000000 + c * 0x2000000
def mboxTo (m : Nat) : Nat := 0xf020000000 + m * 0x2000
def mboxFrom (m : Nat) : Nat := 0xf020000000 + m * 0x2000 + 0x1000
def lstoreSize : Nat := 0x800000
def cmemSize : Nat := 0x1800000

/-! ### Free values and what leaves the device -/

/-- The next free value (log entry 3). -/
def State.freeNow (s : State) : Word64 := Config.freeValue s.free

/-- `n` bytes, each a free value (log entry 3). -/
def State.freeBytes (s : State) (n : Nat) : List Byte := (List.range n).map fun k => (Config.freeValue (s.free + k)).setWidth 8

/-- Advance past `k` free values. -/
def State.tookFree (s : State) (k : Nat := 1) : State := { s with free := s.free + k }

/-- Record that something left the device (log entry 4). -/
def State.emit (s : State) (o : Out) : State := { s with out := o :: s.out }

/-- Apply an update to each element in order. -/
def State.forEach {α : Type} (s : State) (xs : List α) (f : State → α → State) : State := xs.foldl f s

/-- Copy `n` bytes between ranges that hold no alias and do not overlap: the destination takes what is listed in the source. -/
def State.copyRange (s : State) (src dst n : Nat) : State :=
  let cells := s.mem.filter fun c => decide (src ≤ c.1) && decide (c.1 < src + n)
  (s.zeroRange dst n).forEach cells fun s c => s.putByte (dst + (c.1 - src)) c.2

/-- Raw counter as a number. -/
def State.nowN (s : State) : Nat := s.now.toNat

end Sys2Proof.Machine
end

