-- ==== Sys2Proof/Machine/Operands.lean ====
section
/-! DEFINITION. Operand forms of the core ops: op word fields, tensor descriptors (Table 5-4), the window and raw records (Table 5-8, R126), and reading and writing tensors in memory (R83, R119, R120). -/

namespace Sys2Proof.Machine

/-! ### Op words -/

/-- An op word of an opcode and bits [119:0] (Table 5-2). -/
def mkOp (opcode : Nat) (w : BitVec 120) : OpWord := (BitVec.ofNat 8 opcode ++ w : BitVec 128)

/-- Opcode of an op word. -/
def opOf (op : OpWord) : Nat := fld op 127 120

/-- Whether every bit of the op word outside the header fields and the listed body fields is 0 (R7, R118). `fields` lists (hi, lo). -/
def opReservedOk (op : OpWord) (fields : List (Nat × Nat)) : Bool :=
  let used := ((127, 103) :: fields).foldl (fun m f => m ||| maskOf f.1 f.2) 0
  op.toNat &&& (2 ^ 128 - 1 - used) == 0

/-- A signed field. -/
def sfld (op : OpWord) (hi lo : Nat) : Int := sext (hi + 1 - lo) (fld op hi lo)

/-! ### Descriptors -/

/-- A tensor descriptor (Table 5-4). -/
structure Desc where
  space : Nat
  base : Nat
  shape : List Nat
  stride : List Nat
  fmt : Nat
  tag : Nat
  scaleSpace : Nat
  scaleBase : Nat
  reserved : Bool
deriving DecidableEq, Repr

/-- The descriptor that an image spells; `reserved` says that a reserved field of it is nonzero (R120). -/
def descOf (t : BitVec 512) : Desc :=
  let word (o n : Nat) : Nat := t.toNat / 2 ^ (8 * o) % 2 ^ (8 * n)
  let st (k : Nat) : Nat := word (0x18 + 8 * k) 8
  let fmt := word 0x30 1
  let sb := word 0x38 8
  { space := nfld (word 0 8) 49 48
    base := nfld (word 0 8) 47 0
    shape := (List.range 4).map fun k => word (0x08 + 4 * k) 4
    stride := (List.range 3).map fun k => nfld (st k) 47 0
    fmt := fmt
    tag := word 0x32 2
    scaleSpace := nfld sb 49 48
    scaleBase := nfld sb 47 0
    reserved := decide (nfld (word 0 8) 63 50 ≠ 0) || (List.range 3).any (fun k => decide (nfld (st k) 63 48 ≠ 0))
      || decide (word 0x31 1 ≠ 0) || decide (word 0x34 4 ≠ 0)
      || (if isMx fmt then decide (nfld sb 63 50 ≠ 0) else decide (sb ≠ 0)) }

/-- Size of dimension k. -/
def Desc.dim (d : Desc) (k : Nat) : Nat := d.shape.getD k 1

/-- Byte stride of dimension k ≥ 1. -/
def Desc.str (d : Desc) (k : Nat) : Nat := d.stride.getD (k - 1) 0

/-- Number of elements. -/
def Desc.count (d : Desc) : Nat := d.dim 0 * d.dim 1 * d.dim 2 * d.dim 3

/-- Bytes of one run along dimension 0. -/
def Desc.rowBytes (d : Desc) : Nat := d.dim 0 * elemBits d.fmt / 8

/-- Why an engine turns a descriptor away at its start (R120): a reserved field, a reserved space or format, a zero shape, a dimension 0 that does not fill whole bytes, or a space that the engine cannot read. -/
def Desc.bad (d : Desc) (spaces : List Nat) : Option Nat :=
  if d.reserved then some 0x02
  else if d.space = 3 ∨ !fmtKnown d.fmt ∨ d.shape.any (· == 0) ∨ (!isRaw d.fmt ∧ d.dim 0 * elemBits d.fmt % 8 ≠ 0)
      ∨ !spaces.contains d.space ∨ (isMx d.fmt ∧ !spaces.contains d.scaleSpace) then some 0x04
  else none

/-- Device address of an offset in a space, for core n (Table 5-4); none beyond the space's end. -/
def spaceAddr (n space off len : Nat) : Option Nat :=
  match space with
  | 0 => if off + len ≤ lstoreSize then some (lstoreBase n + off) else none
  | 1 => if off + len ≤ cmemSize then some (cmemBase (n / 4) + off) else none
  | _ => if off + len ≤ 2 ^ 48 then some off else none

/-- What an exception carries: code, detail, faulting address (Table 5-16). -/
structure Exc where
  code : Nat
  detail : Nat
  info : Nat
deriving DecidableEq, Repr

def illegal (detail : Nat) : Exc := ⟨0x01, detail, 0⟩
def addressFault (a : Nat) : Exc := ⟨0x02, 0, a⟩

/-- Offset of row (i1, i2, i3) from the base of its space. -/
def Desc.rowOff (d : Desc) (i1 i2 i3 : Nat) : Nat := d.base + i1 * d.str 1 + i2 * d.str 2 + i3 * d.str 3

/-- The rows of a tensor, dimension 1 fastest. -/
def Desc.rows (d : Desc) : List (Nat × Nat × Nat) :=
  (List.range (d.dim 3)).flatMap fun i3 => (List.range (d.dim 2)).flatMap fun i2 => (List.range (d.dim 1)).map fun i1 => (i1, i2, i3)

/-- Entries of a dense MX scale array: one byte per 32 elements of dimension 0, row after row (R83, for A and for outputs). -/
def Desc.scaleRow (d : Desc) (i1 i2 i3 : Nat) : Nat := ((i3 * d.dim 2 + i2) * d.dim 1 + i1) * (d.dim 0 / 32)

/-- The spans that an op touches through a descriptor: offset in its space and length. -/
def Desc.spans (d : Desc) (bytesOfRow : Nat) : List (Nat × Nat) := d.rows.map fun r => (d.rowOff r.1 r.2.1 r.2.2, bytesOfRow)

/-- The first span of a descriptor that leaves its space, as an address fault. -/
def Desc.spanFault (d : Desc) (n : Nat) : Option Exc :=
  let bad (sp off len : Nat) : Bool := (spaceAddr n sp off len).isNone
  match (d.spans d.rowBytes).find? fun x => bad d.space x.1 x.2 with
  | some x => some (addressFault ((spaceAddr n d.space x.1 0).getD x.1))
  | none =>
    if isMx d.fmt ∧ bad d.scaleSpace d.scaleBase (d.count / 32) then some (addressFault d.scaleBase) else none

/-- Device address of a byte of a space; addresses beyond the end are never formed once `spanFault` has passed. -/
def devAddr (n space off : Nat) : Nat := (spaceAddr n space off 1).getD off

/-- One element code: `bits` bits at bit position `pos` from offset `off` of a space (R83: packed from the low bit up). -/
def State.codeAt (s : State) (n space off pos bits : Nat) : Nat :=
  let b0 := off + pos / 8
  let w := leNat ((List.range ((pos % 8 + bits + 7) / 8)).map fun i => s.byte (devAddr n space (b0 + i)))
  w / 2 ^ (pos % 8) % 2 ^ bits

/-- Element code (i0, i1, i2, i3) of a tensor. -/
def State.elemCode (s : State) (n : Nat) (d : Desc) (i0 i1 i2 i3 : Nat) : Nat :=
  s.codeAt n d.space (d.rowOff i1 i2 i3) (i0 * elemBits d.fmt) (elemBits d.fmt)

/-- Byte k of a tensor's scale array. -/
def State.scaleCode (s : State) (n : Nat) (d : Desc) (k : Nat) : Nat := (s.byte (devAddr n d.scaleSpace (d.scaleBase + k))).toNat

/-- An element's value with its block scale: a block of scale code 0xFF is NaN (R86, R89). -/
def scaled (fmt code scale : Nat) : FVal :=
  if !isMx fmt then elemVal fmt code
  else if scale = 0xff then .nan
  else (elemVal fmt code).mul (.fin false (pow2 ((scale : Int) - 127)))

/-- Value of element (i0, i1, i2, i3), its MX scales lying along dimension 0. -/
def State.elem (s : State) (n : Nat) (d : Desc) (i0 i1 i2 i3 : Nat) : FVal :=
  scaled d.fmt (s.elemCode n d i0 i1 i2 i3)
    (if isMx d.fmt then s.scaleCode n d (d.scaleRow i1 i2 i3 + i0 / 32) else 127)

/-- Bytes of a run of codes of one width, packed from the low bit up. -/
def packCodes (bits : Nat) (codes : List Nat) : List Byte :=
  leBytes (codes.length * bits / 8) (codes.foldr (fun c acc => c % 2 ^ bits + acc * 2 ^ bits) 0)

/-- Store a run of bytes at an offset of a space. -/
def State.wrSpace (s : State) (n space off : Nat) (bs : List Byte) : State :=
  s.wr (devAddr n space off) bs

/-- Store a tensor row by row from its codes. -/
def State.wrTensor (s : State) (n : Nat) (d : Desc) (f : Nat → Nat → Nat → Nat → Nat) : State :=
  s.forEach d.rows fun s r =>
    s.wrSpace n d.space (d.rowOff r.1 r.2.1 r.2.2) (packCodes (elemBits d.fmt) ((List.range (d.dim 0)).map fun i0 => f i0 r.1 r.2.1 r.2.2))

/-- Position of element (i0, i1, i2, i3) in logical order. -/
def Desc.pos (d : Desc) (i0 i1 i2 i3 : Nat) : Nat := ((i3 * d.dim 2 + i2) * d.dim 1 + i1) * d.dim 0 + i0

/-- The draws of a stochastic generator and its state after them (R95). -/
def srDraws : Nat → Word64 → List Nat × Word64
  | 0, x => ([], x)
  | k + 1, x =>
    let (x', u) := srStep x
    let (us, y) := srDraws k x'
    (u :: us, y)

/-- Greatest finite magnitude of a block, and whether it holds an infinity or a NaN. -/
def blockScan (vs : List FVal) : Rat × Bool × Bool :=
  vs.foldl (fun (m, i, x) v => match v with
    | .nan => (m, i, true)
    | .inf _ => (m, true, x)
    | .fin _ a => (max m a, i, x)) (0, false, false)

/-- An MX block of an output: element conversions and the scale byte (R91, R92). In a block with a NaN the scale byte is 0xFF and the element codes are free values (log entry 18). -/
def mxBlock (fmt : Nat) (modes : List RMode) (vs : List FVal) (freeBase : Nat) : List Conv × Nat :=
  let (m, inf, nan) := blockScan vs
  if nan then
    ((List.range vs.length).map fun i => ⟨fld (Config.freeValue (freeBase + i)) (elemBits fmt - 1) 0, false, vs.getD i .nan == .nan⟩, 0xff)
  else
    let x : Int := if inf then 127 else mxBlockExp fmt m
    let sc : FVal := .fin false (pow2 (-x))
    ((vs.zip modes).map fun p => convMxElem fmt p.2 (p.1.mul sc), (x + 127).toNat)

/-- Results of writing values to a tensor: the state, and whether a value saturated in an integer format, in a floating-point or MX format, or was a NaN. -/
structure Written where
  s : State
  satInt : Bool
  satFp : Bool
  nan : Bool

/-- Convert values to the format of `d` and store them, clamped as `clampF` says: plain formats element by element, MX formats by blocks of 32 along dimension 0 with their scale bytes (R90-R92, R94, R95, R100). `vals` and `modes` are in logical order. -/
def State.wrVals (s : State) (n : Nat) (d : Desc) (satFp : Bool) (vals : List FVal) (modes : List RMode) (clampF : Nat → Nat) : Written :=
  if isMx d.fmt then
    let nb := d.count / 32
    let blocks := (List.range nb).map fun b => mxBlock d.fmt ((modes.drop (32 * b)).take 32) ((vals.drop (32 * b)).take 32) (s.free + 32 * b)
    let convs := blocks.flatMap (·.1)
    let anyNan := blocks.any fun b => b.2 == 0xff
    let s' := s.wrTensor n d fun i0 i1 i2 i3 => clampF ((convs.getD (d.pos i0 i1 i2 i3) ⟨0, false, false⟩).code)
    let s' := s'.wrSpace n d.scaleSpace d.scaleBase (blocks.map fun b => BitVec.ofNat 8 b.2)
    ⟨if anyNan then s'.tookFree (32 * nb) else s', false, convs.any (·.sat), convs.any (·.nan)⟩
  else
    let convs := (vals.zip modes).map fun p => convTo d.fmt p.2 satFp p.1
    let s' := s.wrTensor n d fun i0 i1 i2 i3 => clampF ((convs.getD (d.pos i0 i1 i2 i3) ⟨0, false, false⟩).code)
    ⟨s', isInt d.fmt && convs.any (·.sat), !isInt d.fmt && convs.any (·.sat), convs.any (·.nan)⟩

/-- Every coordinate of a tensor in logical order. -/
def Desc.coords (d : Desc) : List (Nat × Nat × Nat × Nat) :=
  d.rows.flatMap fun r => (List.range (d.dim 0)).map fun i0 => (i0, r.1, r.2.1, r.2.2)

/-! ### Window and raw records -/

/-- A window record (Table 5-8). -/
structure Window where
  kh : Nat
  kw : Nat
  padMode : Nat
  strideH : Nat
  strideW : Nat
  dilH : Nat
  dilW : Nat
  padT : Nat
  padB : Nat
  padL : Nat
  padR : Nat
  ky0 : Nat
  kx0 : Nat
  oy0 : Nat
  ox0 : Nat
  th : Nat
  tw : Nat
  padValue : Nat
  reserved : Bool
deriving DecidableEq, Repr

/-- The window record in 64 bytes. -/
def windowOf (bs : List Byte) : Window :=
  { kh := leAt bs 0 1, kw := leAt bs 1 1, padMode := leAt bs 2 1
    strideH := leAt bs 4 2, strideW := leAt bs 6 2, dilH := leAt bs 8 2, dilW := leAt bs 10 2
    padT := leAt bs 0x0c 2, padB := leAt bs 0x0e 2, padL := leAt bs 0x10 2, padR := leAt bs 0x12 2
    ky0 := leAt bs 0x14 2, kx0 := leAt bs 0x16 2, oy0 := leAt bs 0x18 2, ox0 := leAt bs 0x1a 2
    th := leAt bs 0x1c 1, tw := leAt bs 0x1d 1, padValue := leAt bs 0x20 4
    reserved := decide (leAt bs 3 1 ≠ 0) || decide (leAt bs 0x1e 2 ≠ 0) || decide (leAt bs 0x24 28 ≠ 0) }

/-- Read the window record that a register names: it must be 64-byte aligned and lie in local store (R124). -/
def State.window (s : State) (n : Nat) (reg : Word64) : Except Exc Window :=
  let o := reg.toNat
  if o % 64 ≠ 0 then .error (illegal 0x09)
  else if lstoreSize < o + 64 then .error (addressFault (lstoreBase n + o))
  else
    let w := windowOf (s.rd (lstoreBase n + o) 64)
    if w.reserved then .error (illegal 0x02)
    else if w.kh < 1 ∨ 7 < w.kh ∨ w.kw < 1 ∨ 7 < w.kw ∨ 1 < w.padMode ∨ w.strideH = 0 ∨ w.strideW = 0 ∨ w.dilH = 0 ∨ w.dilW = 0
        ∨ w.th * w.tw = 0 ∨ 256 < w.th * w.tw then .error (illegal 0x04)
    else .ok w

/-- Output extent of one dimension (R148). -/
def outExtent (inp padLo padHi dil k stride : Nat) : Int :=
  ((inp : Int) + padLo + padHi - dil * ((k : Int) - 1) - 1) / stride + 1

/-- The checks of R149 against an input of width w and height h. -/
def Window.extentFault (r : Window) (w h : Nat) (sub : Bool) : Option Exc :=
  let eh := outExtent h r.padT r.padB r.dilH ((if sub then r.ky0 else 0) + r.kh) r.strideH
  let ew := outExtent w r.padL r.padR r.dilW ((if sub then r.kx0 else 0) + r.kw) r.strideW
  if eh < 1 ∨ ew < 1 then some (illegal 0x05)
  else if eh < (r.oy0 + r.th : Nat) ∨ ew < (r.ox0 + r.tw : Nat) then some (illegal 0x04)
  else none

/-- The input coordinate of a tap of tile pixel i; none when it lies in padding under pad_mode 0 (R146, R150). -/
def Window.tap (r : Window) (sub : Bool) (w h i ky kx : Nat) : Option (Nat × Nat) :=
  let iy : Int := ((r.oy0 + i / r.tw) * r.strideH : Nat) - (r.padT : Int) + (((if sub then r.ky0 else 0) + ky) * r.dilH : Nat)
  let ix : Int := ((r.ox0 + i % r.tw) * r.strideW : Nat) - (r.padL : Int) + (((if sub then r.kx0 else 0) + kx) * r.dilW : Nat)
  let lim (z : Int) (m : Nat) : Int := if r.padMode = 1 then max 0 (min z ((m : Int) - 1)) else z
  let iy := lim iy h
  let ix := lim ix w
  if 0 ≤ iy ∧ iy < h ∧ 0 ≤ ix ∧ ix < w then some (ix.toNat, iy.toNat) else none

/-- The taps of a window in the k order of R146: ky outermost. -/
def Window.taps (r : Window) : List (Nat × Nat) :=
  (List.range r.kh).flatMap fun ky => (List.range r.kw).map fun kx => (ky, kx)

/-- A raw record (R126): black levels, gains, colour-filter order, mode. -/
structure RawRec where
  black : List Nat
  gain : List Nat
  order : Nat
  planar : Bool
deriving DecidableEq, Repr

/-- Read the raw record that a register names: 32-byte aligned, in local store (R126). -/
def State.rawRec (s : State) (n : Nat) (reg : Word64) : Except Exc RawRec :=
  let o := reg.toNat
  if o % 32 ≠ 0 then .error (illegal 0x09)
  else if lstoreSize < o + 32 then .error (addressFault (lstoreBase n + o))
  else
    let bs := s.rd (lstoreBase n + o) 32
    let gain := (List.range 4).map fun c => leAt bs (8 + 4 * c) 4
    if gain.any (fun g => decide (2 ^ 24 ≤ g)) ∨ leAt bs 26 6 ≠ 0 then .error (illegal 0x02)
    else if 3 < leAt bs 24 1 ∨ 1 < leAt bs 25 1 then .error (illegal 0x04)
    else .ok ⟨(List.range 4).map fun c => leAt bs (2 * c) 2, gain, leAt bs 24 1, decide (leAt bs 25 1 = 1)⟩

/-- Colour-filter channel (0 R, 1 Gr, 2 Gb, 3 B) of pixel (x, y) under an order (R126). -/
def cfaChannel (order x y : Nat) : Nat :=
  let rg : Nat := match order with
    | 0 => 0
    | 1 => 1
    | 2 => 2
    | _ => 3
  (rg ^^^ (x % 2 + 2 * (y % 2)))

/-- Raw pixel x of a row that starts at an offset of a space (Table 4-5). -/
def State.rawPixel (s : State) (n : Nat) (d : Desc) (x y : Nat) : Nat :=
  let row := d.base + y * d.str 2
  let at_ (i : Nat) : Nat := (s.byte (devAddr n d.space (row + i))).toNat
  match d.fmt with
  | 0x20 => at_ x
  | 0x21 => at_ (x / 4 * 5 + x % 4) * 4 + at_ (x / 4 * 5 + 4) / 4 ^ (x % 4) % 4
  | 0x22 => at_ (x / 2 * 3 + x % 2) * 16 + at_ (x / 2 * 3 + 2) / 16 ^ (x % 2) % 16
  | _ => at_ (2 * x) + 256 * at_ (2 * x + 1)

/-- The unpack of R105. -/
def rawUnpack (r : RawRec) (p c : Nat) : Int :=
  max (-128) (min 127 (rne ((((p : Int) - r.black.getD c 0) * (r.gain.getD c 0 : Int) : Int) * mkRat 1 65536)))

end Sys2Proof.Machine
end

