-- ==== Sys2Proof/Machine/Timeline.lean ====
section
/-! DEFINITION. The timebase: domains, the selected timeline, and the cadence table's arming and firing (R55-R69, R468, R469). -/

namespace Sys2Proof.Machine

/-! ### Objects of the timebase -/

def kSelected : Nat := okey 0x2000 2
def kSwitch : Nat := okey 0x2000 5
def kDomState (d : Nat) : Nat := okey (0x2001 + d) 1
def kDomOffset (d : Nat) : Nat := okey (0x2001 + d) 2
def kDomRate (d : Nat) : Nat := okey (0x2001 + d) 3
def kDomEpoch (d : Nat) : Nat := okey (0x2001 + d) 4
def kDomGm (d : Nat) : Nat := okey (0x2001 + d) 5
def kDomHold (d : Nat) : Nat := okey (0x2001 + d) 7
def kDomAnchor (d : Nat) : Nat := okey (0x2001 + d) 8
def kDomPrev (d i : Nat) : Nat := okey (0x2001 + d) (9 + i)
def kCadEvents : Nat := okey 0x2020 1

/-- Slot k of cadence entry e (spec/03, "The cadence table"). -/
def kCad (e k : Nat) : Nat := okey (0x2100 + e / 32) (1 + e % 32 * 6 + k)

/-- The time of domain d at counter value c, by the domain read formula (R56). -/
def domTimeOf (offset rate : Int) (c : Nat) : Int :=
  offset + (c : Int) * (2 ^ 40 + rate) / 2 ^ 40

/-- The state of domain d. -/
def State.domState (s : State) (d : Nat) : Nat := s.objN (kDomState d)

/-- Offset and rate of domain d. -/
def State.domOffset (s : State) (d : Nat) : Int := (s.obj (kDomOffset d)).toInt
def State.domRate (s : State) (d : Nat) : Int := (s.obj (kDomRate d)).toInt

/-- The time of domain d at counter value c (R56). -/
def State.domTime (s : State) (d c : Nat) : Int := domTimeOf (s.domOffset d) (s.domRate d) c

/-- The domain that the selected timeline follows. -/
def State.selDom (s : State) : Nat := s.objN kSelected % 2

/-- The remaining difference of a slew of the selected timeline: 100 ns less for every 1,000,000 ns of counter time (R59). -/
def State.slewRemaining (s : State) (c : Nat) : Int :=
  match s.sel with
  | none => 0
  | some w =>
    let left := w.d.natAbs - (c - w.start.toNat) / 10000
    if w.d < 0 then -(left : Int) else left

/-- The selected timeline at counter value c (R59). -/
def State.netTimeAt (s : State) (c : Nat) : Int := s.domTime s.selDom c - s.slewRemaining c

/-- Network time now, as an integer and as a TIME64. -/
def State.netTime (s : State) : Int := s.netTimeAt s.nowN
def State.netTime64 (s : State) : Word64 := BitVec.ofNat 64 (wrapInt 64 s.netTime)

/-- Network time for a record: 0 before the first lock (R401, Table 12-5, Table 16-7). -/
def State.stampTime (s : State) : Word64 := if s.everLocked then s.netTime64 else 0#64

/-- Whether no domain is locked (R61). -/
def State.noneLocked (s : State) : Bool := s.domState 0 != 2 && s.domState 1 != 2

/-- switch_status as it reads: step count and flag as stored, the live bits computed (Table 3-1). -/
def State.switchStatus (s : State) : Word64 :=
  setBit (setBit (s.obj kSwitch) 2 s.noneLocked) 0 (s.sel.isSome && s.slewRemaining s.nowN != 0)

/-! ### The cadence table -/

def State.cad (s : State) (e k : Nat) : Word64 := s.obj (kCad e k)
def State.cadEnabled (s : State) (e : Nat) : Bool := bit (s.cad e 0) 63
def State.cadSensor (s : State) (e : Nat) : Bool := bit (s.cad e 0) 62
def State.cadSkip (s : State) (e : Nat) : Bool := bit (s.cad e 0) 61
def State.cadAction (s : State) (e : Nat) : Nat := fld (s.cad e 0) 59 56
def State.cadStart (s : State) (e : Nat) : Nat := (s.cad e 1).toNat
def State.cadPeriod (s : State) (e : Nat) : Nat := (s.cad e 2).toNat
def State.cadArg (s : State) (e : Nat) : Word64 := s.cad e 3
def State.cadNext (s : State) (e : Nat) : Nat := (s.cad e 4).toNat

/-- Count one firing whose action issued (Table 3-2, slot 5). -/
def State.cadFired (s : State) (e : Nat) : State :=
  s.setObj (kCad e 5) (setFld (s.cad e 5) 63 32 (fld (s.cad e 5) 63 32 + 1))

/-- Count one late firing and set its event bit (R69). -/
def State.cadLate (s : State) (e : Nat) : State :=
  (s.setObj (kCad e 5) (setFld (s.cad e 5) 31 16 (min 0xffff (fld (s.cad e 5) 31 16 + 1)))).orObj kCadEvents 1

/-- Count one missed firing and set its event bit (R69). -/
def State.cadMissed (s : State) (e : Nat) : State :=
  (s.setObj (kCad e 5) (setFld (s.cad e 5) 15 0 (min 0xffff (fld (s.cad e 5) 15 0 + 1)))).orObj kCadEvents 2

/-- A one-shot entry clears its own enable after it fires or is missed (R64). -/
def State.cadOff (s : State) (e : Nat) : State :=
  (s.setObj (kCad e 0) (setBit (s.cad e 0) 63 false)).setObj (kCad e 4) 0#64

/-- The due instant of a late firing: the first CLK_CTL cycle boundary at least 1 µs after its cause (R469). -/
def lateDue (c : Nat) : Nat := roundUp (c + 1000) 4

/-- Make a late firing due (R469). -/
def State.cadDueLate (s : State) (e : Nat) : State :=
  { s with cadDue := s.cadDue ++ [⟨e, BitVec.ofNat 64 (lateDue s.nowN), true⟩] }

/-- The first grid point of a network-time entry later than t, if it has one (R64, R65). -/
def gridAfter (start period : Nat) (t : Int) : Option Nat :=
  if t < (start : Int) then some start
  else if period = 0 then none
  else some (start + ((t - start) / period + 1).toNat * period)

/-- A Lodestone entry that arms starts its slot's firing index again (R75). -/
def State.cadRestart (s : State) (e : Nat) : State :=
  let s := { s with cadK := TMap.set (fun _ => 0) s.cadK e 0 }
  if s.cadAction e = 4 then
    let n := fld (s.cadArg e) 2 0
    { s with lode := TMap.set (fun _ => LodeSt.init) s.lode n { TMap.get (fun _ => LodeSt.init) s.lode n with held := none } }
  else s

/-- Arm a network-time entry at the present instant (R65, R67). `first` says that the first lock arms it: then nothing counts as late or missed. -/
def State.armNetwork (s : State) (e : Nat) (first : Bool) : State :=
  let s := s.cadRestart e
  match gridAfter (s.cadStart e) (s.cadPeriod e) s.netTime with
  | some t => s.setN (kCad e 4) t
  | none =>
    if s.cadSkip e then
      (if first then s else s.cadMissed e).cadOff e
    else
      ((if first then s else s.cadLate e).cadDueLate e).cadOff e

/-- The key line of a sensor entry as an order within its frame: frame start before line 0, frame end after every line. -/
def lineOrder (line : Nat) : Nat := if line = 0xffff then 0 else if line = 0xfffe then 0x20000 else line + 1

/-- Where stream st stands within its frame, in the same order; after the frame's end it stands past everything. -/
def State.streamOrder (s : State) (st : Nat) : Nat :=
  match (TMap.get (fun _ => StreamSt.init) s.streams st).cur with
  | none => 0x20001
  | some _ => (TMap.get (fun _ => StreamSt.init) s.streams st).lineStarts

/-- Frame number of a stream's position (R62). -/
def kStreamPos (st : Nat) : Nat := okey (0x5420 + st) 7
def State.streamFrame (s : State) (st : Nat) : Nat := fld (s.obj (kStreamPos st)) 63 32

/-- The first frame at or after f that a sensor entry keys (R64). -/
def sensorFrame (phase period f : Nat) : Option Nat :=
  if f ≤ phase then some phase
  else if period = 0 then none
  else some (phase + (f - phase + period - 1) / period * period)

/-- Arm a sensor entry: the first keyed line event later than the stream's present position (R65). -/
def State.armSensor (s : State) (e : Nat) : State :=
  let s := s.cadRestart e
  let st := fld (s.cad e 1) 52 48
  let f := s.streamFrame st
  let f := if s.streamOrder st < lineOrder (fld (s.cad e 1) 47 32) then f else f + 1
  match sensorFrame (fld (s.cad e 1) 31 0) (fld (s.cad e 2) 31 0) f with
  | some f => s.setN (kCad e 4) (f % 2 ^ 32)
  | none => s.cadOff e

/-- Arm an entry that a commit applied (R65, R67). -/
def State.armEntry (s : State) (e : Nat) : State :=
  if !s.cadEnabled e then s.setN (kCad e 4) 0
  else if s.cadSensor e then s.armSensor e
  else if s.everLocked then s.armNetwork e false
  else (s.cadRestart e).setN (kCad e 4) 0

/-- After a step of the selected timeline, a network-time entry handles the grid points that the step skipped (R66). -/
def State.cadAfterStep (s : State) (e : Nat) : State :=
  if s.cadEnabled e && !s.cadSensor e && s.cadNext e != 0 then
    if (s.cadNext e : Int) ≤ s.netTime then
      let s := if s.cadSkip e then s.cadMissed e else (s.cadLate e).cadDueLate e
      match gridAfter (s.cadStart e) (s.cadPeriod e) s.netTime with
      | some t => s.setN (kCad e 4) t
      | none => s.cadOff e
    else s
  else s

/-- A step of the selected timeline: count, flag (the cause of line 226), and the entries whose points it skipped (R59, R60, R66). `arms` is false for the step at the first lock (R468). -/
def State.selStep (s : State) (arms : Bool) : State :=
  let v := s.obj kSwitch
  let s := s.setObj kSwitch (setBit (setFld v 31 16 (fld v 31 16 + 1)) 1 true)
  let s := { s with sel := none }
  if arms then s.forEach (List.range 1024) fun s e => s.cadAfterStep e else s

/-- The selected timeline measures d against its value before a change and slews or steps (R59, R468). -/
def State.selMeasure (s : State) (before : Int) (arms : Bool) : State :=
  let d := s.domTime s.selDom s.nowN - before
  if d.natAbs ≤ 1000 then { s with sel := if d = 0 then none else some ⟨d, s.now⟩ }
  else s.selStep arms

/-- Change the selected domain to b (R59, R61). -/
def State.selectDomain (s : State) (b : Nat) : State :=
  if b = s.selDom then s
  else
    let before := s.netTime
    (s.setN kSelected b).selMeasure before s.everLocked

/-- A new pair of domain d takes effect now; the pair before it is kept (R57, R58). -/
def State.setPair (s : State) (d : Nat) (offset rate : Int) : State :=
  let s := (s.setObj (kDomPrev d 0) (s.obj (kDomAnchor d))).setObj (kDomPrev d 1) (s.obj (kDomOffset d))
  let s := s.setObj (kDomPrev d 2) (s.obj (kDomRate d))
  let s := s.setObj (kDomAnchor d) s.now
  let s := s.setN (kDomOffset d) (wrapInt 64 offset)
  s.setN (kDomRate d) (wrapInt 64 rate)

/-- A new pair that continues domain d's time, moved by `step` ns. -/
def State.setPairFrom (s : State) (d : Nat) (rate step : Int) : State :=
  let t := s.domTime d s.nowN + step
  s.setPair d (t - (s.nowN : Int) * (2 ^ 40 + rate) / 2 ^ 40) rate

/-- What domain d holds beside its objects. -/
def State.gd (s : State) (d : Nat) : GDom := TMap.get (fun _ => GDom.init) s.gdom d
def State.setGd (s : State) (d : Nat) (g : GDom) : State := { s with gdom := TMap.set (fun _ => GDom.init) s.gdom d g }

/-- A domain leaves locked for another state; with auto_failover set the selected timeline follows the other domain when that one is locked (R58, R61). -/
def State.leaveLocked (s : State) (d st : Nat) : State :=
  let was := s.domState d
  let s := s.setN (kDomState d) st
  if was = 2 ∧ d = s.selDom ∧ s.oBit (okey 0x2000 4) 0 ∧ s.domState (1 - d) = 2 then s.selectDomain (1 - d) else s

/-- 100 ppm in units of 2^-40, rounded to the nearest unit (R57; log entry 12). -/
def ppm100 : Nat := 109951163

/-- The correction of a small phase slew: any rate up to 100 ppm, a free value (R57; log entry 13). -/
def smallSlew (f : Word64) : Nat := f.toNat % ppm100 + 1

end Sys2Proof.Machine
end

