-- ==== Sys2Proof/Machine/Flags.lean ====
section
/-! DEFINITION. Status that is computed when it is read: error_register (R53), the interrupt lines (R25, Table 1-5), and the objects whose value follows other state. -/

namespace Sys2Proof.Machine

/-- Whether any of `n` objects, one per unit, has a bit of the mask set. -/
def State.anyBits (s : State) (base n sub mask : Nat) : Bool :=
  (List.range n).any fun i => s.objN (okey (base + i) sub) &&& mask != 0

/-- error_register: each bit follows its cause objects; the assay bit has no cause object that software clears and is held in the stored object, and so is, in bits 16 to 18, which link has been lost since its event was clear (R53, Table 2-9; log entry 14). -/
def State.errorRegister (s : State) : Word64 :=
  let b9 := s.objN (okey 0x1003 1) != 0 || s.objN (okey 0x1010 2) == 3
  let b8 := s.objN (okey 0x7460 1) != 0
  let b7 := s.objN (okey 0x7c00 8) &&& 0x1c != 0 || s.objN (okey 0x7c70 2) != 0
  let b6 := (List.range 7).any (fun f => s.objN (okey (0x7800 + f) 1) == 3 || s.objN (okey (0x7800 + f) 1) == 4)
    || s.objN (okey 0x7000 13) == 3 || s.objN (okey 0x7000 13) == 4
  let b5 := (List.range 3).any (fun l => s.oBit (okey (0x6480 + l) 7) 0 && s.oBit (okey 0x1001 1) (16 + l)) || (List.range 8).any fun c => s.objN (okey (0x6210 + c) 8) == 2 || s.objN (okey (0x6210 + c) 8) == 3
  let b4 := s.anyBits 0x5010 4 9 0x9 || s.objN (okey 0x7c05 2) != 0
    || (List.range 16).any fun n => s.objN (okey (0x3003 + 0x100 * n) 2) != 0 || s.objN (okey (0x3003 + 0x100 * n) 4) != 0
  let b3 := s.anyBits 0x5420 32 16 0x4 || s.anyBits 0x5840 4 20 0x12
  let b2 := s.oBit (okey 0x1001 1) 2
  let b1 := s.objN (okey 0x7000 1) != 0
  let b0 := b1 || b2 || b3 || b4 || b5 || b6 || b7 || b8 || b9
  BitVec.ofNat 64 ([b0, b1, b2, b3, b4, b5, b6, b7, b8, b9].foldr (fun b n => n * 2 + b.toNat) 0)

/-- Whether interrupt line i is asserted: a level that follows its cause objects (R25, Table 1-5). Lines absent from the table are never raised. -/
def State.irqLine (s : State) (i : Nat) : Bool :=
  if i = 1 then s.errorRegister != 0#64
  else if i = 2 then s.objN (okey 0x1002 1) &&& 0x3 != 0
  else if i = 3 then s.objN (okey 0x1002 1) &&& 0x3c != 0
  else if 16 ≤ i ∧ i < 80 then s.oBit (okey (0x4802 + 0x40 * ((i - 16) / 4)) 1) ((i - 16) % 4)
  else if 80 ≤ i ∧ i < 112 then s.oBit (okey 0x5000 8) (i - 80)
  else if i = 112 then s.oBit (okey 0x5000 9) 0
  else if 113 ≤ i ∧ i < 117 then s.obj (okey (0x5010 + (i - 113)) 9) != 0#64
  else if 128 ≤ i ∧ i < 160 then s.obj (okey (0x5420 + (i - 128)) 16) != 0#64
  else if 160 ≤ i ∧ i < 164 then s.objN (okey (0x5840 + (i - 160)) 20) &&& 0x13 != 0
  else if i = 164 then s.obj (okey 0x5800 8) != 0#64
  else if i = 165 then s.anyBits 0x5840 4 20 0x8
  else if 176 ≤ i ∧ i < 188 then s.obj (okey (0x6000 + (i - 176)) 12) != 0#64
  else if 188 ≤ i ∧ i < 190 then s.obj (okey (0x6200 + (i - 188)) 9) != 0#64
  else if 190 ≤ i ∧ i < 198 then s.obj (okey (0x6210 + (i - 190)) 10) != 0#64
  else if i = 198 then s.obj (okey 0x6300 6) != 0#64
  else if i = 208 then s.oBit (okey 0x6400 6) 1
  else if 209 ≤ i ∧ i < 212 then s.objN (okey (0x6480 + (i - 209)) 7) &&& 0x3 != 0
  else if i = 212 then s.objN (okey 0x6400 6) &&& 0xd != 0
  else if i = 224 then s.obj kCadEvents != 0#64
  else if i = 225 then s.obj (okey 0x2440 1) != 0#64
  else if i = 226 then s.oBit kSwitch 1
  else if i = 240 then s.oBit (okey 0x7000 12) 0
  else if i = 241 then s.obj (okey 0x7040 9) != 0#64
  else if 256 ≤ i ∧ i < 263 then s.obj (okey (0x7800 + (i - 256)) 11) != 0#64
  else false

/-- The guarantee of master i in MB/s; that of the save path is preempt_guarantee, in GB/s (R281, R286, Table 10-1). -/
def State.guarantee (s : State) (i : Nat) : Nat :=
  if i = 27 then 1000 * s.objN (okey 0x4c00 2) else s.objN (okey (0x5100 + i) 1)

/-- The value of an object as a read finds it: computed objects, WO objects as 0, a DOMAIN's length, subindex 0x00 (R26, R29, R30). Objects of the reading context are resolved before this. -/
def State.objValue (s : State) (idx sub : Nat) : Word64 :=
  if sub = 0 then BitVec.ofNat 64 (maxSub idx)
  else if idx = 0x1001 ∧ sub = 1 then s.errorRegister
  else if idx = 0x2000 ∧ sub = 1 then s.now
  else if idx = 0x5000 ∧ sub = 3 then BitVec.ofNat 64 (((List.range 32).map s.guarantee).sum % 2 ^ 32)
  else if idx = 0x511b ∧ sub = 1 then BitVec.ofNat 64 (s.guarantee 27)
  else if idx = 0x2000 ∧ sub = 3 then s.netTime64
  else if idx = 0x2000 ∧ sub = 5 then s.switchStatus
  else if idx = 0x2000 ∧ sub = 6 then BitVec.ofNat 64 (wrapInt 64 (s.slewRemaining s.nowN))
  else
    match objRow? idx sub with
    | none => 0#64
    | some r =>
      if r.acc = .wo then 0#64
      else if r.ty = .domain then
        (if idx = 0x4401 then BitVec.ofNat 64 65536
         else if idx = 0x7040 then BitVec.ofNat 64 0x100000
         else BitVec.ofNat 64 (s.dom (okey idx sub)).length)
      else s.obj (okey idx sub)

/-- Firmware processor f runs (Table 15-10). -/
def State.fwRuns (s : State) (f : Nat) : Bool := decide (s.objN (okey (0x7800 + f) 1) = 2)

/-- The device is in the safe state (R397). -/
def State.safe (s : State) : Bool := s.objN (okey 0x7000 1) != 0

end Sys2Proof.Machine
end

