-- ==== Sys2Proof/Machine/Safe.lean ====
section
/-! DEFINITION. Notices, the Strata snapshot, and entry into the safe state as one shared operation (R47, R397-R401, R412, R417). -/

namespace Sys2Proof.Machine

/-- CXOP header flags of every PDU that the device sends: bit 0 while the device is in the safe state (Table 16-2). -/
def State.pduFlags (s : State) : Nat := if s.safe then 1 else 0

/-- Payload of a NOTICE: code, reserved, time, four arguments (Table 2-5). -/
def noticePayload (code : Nat) (time : Word64) (args : List Word64) : List Byte :=
  leBytes 2 code ++ leBytes 6 0 ++ leBytes 8 time.toNat ++ (args.flatMap fun a => leBytes 8 a.toNat)

/-- A NOTICE of code c goes to every proved session whose mask has bit c, under the session's own count (R47). -/
def State.notice (s : State) (code : Nat) (time : Word64) (args : List Word64) : State :=
  let hit (x : Session) : Bool := x.proved && x.mask.getLsbD code
  let fl := s.pduFlags
  let pdus := (s.sessions.filter hit).map fun x => Out.cxop x.sid 0x08 fl ((x.devSeq + 1) % 2 ^ 32) 0 0 (noticePayload code time args)
  { s with
    sessions := s.sessions.map fun x => if hit x then { x with devSeq := (x.devSeq + 1) % 2 ^ 32 } else x
    out := pdus.reverse ++ s.out }

/-- A safety notice of a detection time: the broadcast with its own count, and the notice to sessions (R401, Table 16-5). -/
def State.safetyNotice (s : State) (code : Nat) (time : Word64) (args : List Word64) : State :=
  let s := { s with noticeSeq := s.noticeSeq + 1 }
  (s.emit (.broadcast s.noticeSeq code time args (s.objN (okey 0x1021 1)))).notice code time args

/-! ### Strata (R411-R414) -/

def strataBase : Nat := psramBase + 0xf00000
def kPermUsed : Nat := okey 0x7040 2
def kNextSeq : Nat := okey 0x7040 3
def kStrataLost : Nat := okey 0x7040 4

/-- The object slots of a trigger: those before the first that holds 0 (R414). -/
def State.strataSlots (s : State) (t : Nat) : List Nat :=
  ((List.range 64).map fun k => s.objN (okey (0x7050 + t) (2 + k))).takeWhile (· != 0)

/-- Whether a slot names an object with a value: one that exists and is no DOMAIN (Table 16-7, slot_status). -/
def strataRecordable (ref : Nat) : Bool :=
  let idx := ref / 2 ^ 16
  let sub := ref / 2 ^ 8 % 2 ^ 8
  if sub = 0 then maxSub idx != 0
  else match objRow? idx sub with
    | some r => r.ty != .domain
    | none => false

/-- The 1,024 bytes of a Strata record, but for its valid word (Table 16-7). -/
def State.strataBody (s : State) (seq t detail : Nat) (cause : Word64) (perm : Bool) : List Byte :=
  let refs := s.strataSlots t
  let sentry := s.objN (okey 0x7c00 1) == 3
  let status := (List.range refs.length).foldl (fun n k => if strataRecordable (refs.getD k 0) then n else n + 2 ^ k) 0
  let values := refs.map fun r => if strataRecordable r then (s.objValue (r / 2 ^ 16) (r / 2 ^ 8 % 2 ^ 8)).toNat else 0
  let flags := (if sentry then 1 else 0) + (if perm then 2 else 0)
  let head := leBytes 8 seq ++ leBytes 8 (if sentry then 0 else s.nowN) ++ leBytes 8 (if sentry then 0 else s.stampTime.toNat)
    ++ leBytes 1 t ++ leBytes 1 refs.length ++ leBytes 2 flags ++ leBytes 4 detail ++ leBytes 8 status
    ++ leBytes 8 cause.toNat ++ leBytes 8 0
  let tail := slice (refs.flatMap (leBytes 4)) 0 256 ++ slice (values.flatMap (leBytes 8)) 0 512
  head ++ leBytes 4 0 ++ leBytes 4 (crc32c (head ++ tail)).toNat ++ tail ++ List.replicate 192 0#8

/-- The sequence that a snapshot of trigger t would take, if it is taken (R412, R414). -/
def State.strataTakes (s : State) (t : Nat) : Bool :=
  s.oBit (okey (0x7050 + t) 1) 0 && decide (s.strataQ.length < 16)

/-- A Strata trigger: one snapshot with its sequence and slots, or a lost record (R412). -/
def State.strata (s : State) (t detail : Nat) (cause : Word64 := 0#64) : State :=
  if !s.oBit (okey (0x7050 + t) 1) 0 then s
  else if 16 ≤ s.strataQ.length then s.count kStrataLost 32
  else
    let seq := s.objN kNextSeq
    let used := s.objN kPermUsed
    let perm := decide (used < 64)
    let body := s.strataBody seq t detail cause perm
    let s := s.count kNextSeq 64
    let s := if perm then s.setN kPermUsed (used + 1) else s
    { s with strataQ := s.strataQ ++ [⟨seq, if perm then some used else none, body⟩] }

/-- A Strata trigger whose detail the manual does not give: it is a free value (Table 16-7; log entry 44). -/
def State.strataEvent (s : State) (t : Nat) : State := (s.strata t (fld s.freeNow 31 0)).tookFree

/-! ### Copy-out (R417, R418) -/

def copySlot (i : Nat) : Nat := flashBase + 0x500000 + i * 0x100000

/-- Whether a flash slot holds a valid copy, and its version (R418). -/
def State.copyValid (s : State) (i : Nat) : Option Nat :=
  let a := copySlot i
  if s.rd a 4 = leBytes 4 0x41525453 ∧ (crc32c (s.rd a 0x51004)).toNat = s.rdN (a + 0x51004) 4
  then some (s.rdN (a + 0x51000) 4) else none

/-- Of two copies with versions a and b, whether the second is the newer (R50). -/
def secondNewer (a b : Nat) : Bool := decide (2 ^ 31 ≤ (a + 2 ^ 32 - b) % 2 ^ 32)

/-- The newer valid slot and its version. -/
def State.copyNewest (s : State) : Option (Nat × Nat) :=
  match s.copyValid 0, s.copyValid 1 with
  | none, none => none
  | some a, none => some (0, a)
  | none, some b => some (1, b)
  | some a, some b => if secondNewer a b then some (1, b) else some (0, a)

/-- A copy-out starts: it takes the region as it stands (R417). -/
def State.startCopy (s : State) : State :=
  let (slot, version) := match s.copyNewest with
    | none => (0, 1)
    | some (i, v) => (1 - i, (v + 1) % 2 ^ 32)
  let image := (s.mem.filter fun c => decide (strataBase ≤ c.1) && decide (c.1 < strataBase + 0x51000)).map
    fun c => (c.1 - strataBase, c.2)
  { s.setN (okey 0x7040 7) 1 with copyJob := some ⟨slot, version, image⟩, copyHeld := false, strataDirty := false }

/-- A copy-out falls due: it starts when nothing runs and no record waits for the writer, else it is held (R417; log entry 15). -/
def State.copyDue (s : State) : State :=
  if s.copyJob.isSome || !s.strataQ.isEmpty then { s with copyHeld := true } else s.startCopy

/-! ### The safe state (R397-R400) -/

/-- A pipe falls back: its memory layers are disabled (R319). -/
def State.pipeFallback (s : State) (p : Nat) : State :=
  if s.objN (okey (0x5840 + p) 19) = 1 then (s.setN (okey (0x5840 + p) 19) 2).orObj (okey (0x5840 + p) 20) 2 else s

/-- The cause word of a trigger (Table 16-9, safe_cause). -/
def safeCause (code unit_ detail : Nat) : Word64 :=
  BitVec.ofNat 64 (code % 2 ^ 8 * 2 ^ 56 + unit_ % 2 ^ 8 * 2 ^ 48 + detail % 2 ^ 32)

/-- A safe-state trigger: it enters the safe state, or, while the latch is set, counts and is recorded (R397-R401, R417). -/
def State.safeTrigger (s : State) (code unit_ detail : Nat) : State :=
  let cause := safeCause code unit_ detail
  if s.safe then (s.count (okey 0x7000 7) 32).strata 0 (detail % 2 ^ 32) cause
  else
    let s := (s.setN (okey 0x7000 1) 1).setObj (okey 0x7000 2) cause
    let s := (s.setObj (okey 0x7000 3) s.now).count (okey 0x7000 6) 32
    let s := s.orObj (okey 0x7000 12) 1
    let s := s.forEach [0, 1, 2, 3] fun s p => if s.oBit (okey (0x5840 + p) 17) 0 then s.pipeFallback p else s
    let seq := if s.strataTakes 0 then s.obj kNextSeq else 0xffffffffffffffff#64
    let s := s.strata 0 (detail % 2 ^ 32) cause
    let args := [cause, s.obj (okey 0x7000 3), s.obj (okey 0x7000 6), seq]
    (State.safetyNotice { s with leftRepeats := 0, noticeArgs := args, noticeTime := s.stampTime } 1 s.stampTime args).copyDue

/-! ### Golden runs (R409, R410) -/

def kGolden (j sub : Nat) : Nat := okey (0x7020 + j) sub

/-- Golden jobs that are enabled and name handle h of instance m (Table 16-9, golden_config). -/
def State.goldenOf (s : State) (m h : Nat) : List Nat :=
  (List.range 8).filter fun j =>
    let c := s.obj (kGolden j 1)
    bit c 63 && decide (fld c 61 58 = m) && decide (fld c 57 54 = h)

/-- A golden run of job j is late (1) or mismatched (2): its count, event, notice and snapshot (R409, R410). -/
def State.goldenEvent (s : State) (j kind : Nat) : State :=
  let s := (s.count (kGolden j (4 + kind)) 32).orObj (okey 0x7000 12) (if kind = 1 then 8 else 16)
  (s.safetyNotice 4 s.stampTime [BitVec.ofNat 64 j, BitVec.ofNat 64 kind, 0#64, 0#64]).strataEvent 6

def State.goldenWaits (s : State) (j : Nat) : Nat := TMap.get (fun _ => 0) s.golden j
def State.setGolden (s : State) (j n : Nat) : State := { s with golden := TMap.set (fun _ => 0) s.golden j n }

/-- Cadence entry e has fired a start of handle h of instance m: golden jobs that it starts wait for it to begin (R410). -/
def State.goldenFired (s : State) (m h e : Nat) : State :=
  s.forEach ((s.goldenOf m h).filter fun j => fld (s.obj (kGolden j 1)) 53 44 = e) fun s j => s.setGolden j (s.goldenWaits j + 1)

/-- A cadence start of handle h has begun (R410). -/
def State.goldenBegun (s : State) (m h : Nat) : State := s.forEach (s.goldenOf m h) fun s j => s.setGolden j (s.goldenWaits j - 1)

/-- A cadence start of handle h has been dropped under R247: it counts as late (R410). -/
def State.goldenDropped (s : State) (m h : Nat) : State :=
  s.forEach ((s.goldenOf m h).filter fun j => s.goldenWaits j != 0) fun s j => (s.setGolden j (s.goldenWaits j - 1)).goldenEvent j 1

/-- A plan of instance m has completed with these output bytes, in binding order: its golden jobs compare the signature (R213, R409). -/
def State.goldenCheck (s : State) (m h : Nat) (outputs : List Byte) : State :=
  let sig := crc64Fold 0xffffffffffffffff#64 outputs ^^^ 0xffffffffffffffff#64
  s.forEach (s.goldenOf m h) fun s j =>
    let s := (s.setObj (kGolden j 3) sig).count (kGolden j 4) 32
    if sig = s.obj (kGolden j 2) then s
    else
      let s := s.goldenEvent j 2
      if bit (s.obj (kGolden j 1)) 62 then s.safeTrigger 0x0A 0 5 else s

end Sys2Proof.Machine
end

