-- ==== Sys2Proof/Machine/Cores.lean ====
section
/-! DEFINITION. The core controller: registers, event counters, queues, exceptions, what an instance's engines may reach, and the dispatch of an op word as one shared operation (R19, R111-R122, R131-R138, R219, R220). -/

namespace Sys2Proof.Machine

/-! ### Objects and registers of a core -/

/-- Object +j .sub of core n (Tables 4-7, 5-17). -/
def kCore (n j sub : Nat) : Nat := okey (0x3000 + 0x100 * n + j) sub
def kPc (n : Nat) : Nat := kCore n 4 1
def kCause (n : Nat) : Nat := kCore n 4 2
def kRetired (n : Nat) : Nat := kCore n 4 7
def kCtr (n i : Nat) : Nat := kCore n 5 (1 + i)
def kArith (n : Nat) : Nat := kCore n 1 1
def kSr (n : Nat) : Nat := kCore n 1 3

def State.core (s : State) (n : Nat) : CoreSt := TMap.get (fun _ => CoreSt.init) s.cores n
def State.setCore (s : State) (n : Nat) (c : CoreSt) : State := { s with cores := TMap.set (fun _ => CoreSt.init) s.cores n c }
def State.upCore (s : State) (n : Nat) (f : CoreSt → CoreSt) : State := s.setCore n (f (s.core n))

def State.coreState (s : State) (n : Nat) : Nat := s.objN (kCore n 0 1)
def State.holder (s : State) (n : Nat) : Nat := s.objN (kCore n 0 2)
def State.pc (s : State) (n : Nat) : Nat := s.objN (kPc n)

/-- Scalar register i; s0 reads 0 (R119). -/
def CoreSt.s (c : CoreSt) (i : Nat) : Word64 := if i = 0 then 0#64 else TMap.get (fun _ => 0#64) c.sregs i
/-- Write scalar register i; a write of s0 is discarded (R119). -/
def CoreSt.setS (c : CoreSt) (i : Nat) (v : Word64) : CoreSt :=
  if i = 0 then c else { c with sregs := TMap.set (fun _ => 0#64) c.sregs i v }
def CoreSt.t (c : CoreSt) (i : Nat) : BitVec 512 := TMap.get (fun _ => 0#512) c.tregs i
def CoreSt.setT (c : CoreSt) (i : Nat) (v : BitVec 512) : CoreSt := { c with tregs := TMap.set (fun _ => 0#512) c.tregs i v }
def CoreSt.p (c : CoreSt) (i : Nat) : Word32 := TMap.get (fun _ => 0#32) c.pregs i
def CoreSt.setP (c : CoreSt) (i : Nat) (v : Word32) : CoreSt := { c with pregs := TMap.set (fun _ => 0#32) c.pregs i v }
def CoreSt.slot (c : CoreSt) (g : Nat) : ASlot := TMap.get (fun _ => ASlot.closed) c.slots g
def CoreSt.setSlot (c : CoreSt) (g : Nat) (x : ASlot) : CoreSt := { c with slots := TMap.set (fun _ => ASlot.closed) c.slots g x }

/-- The open slots of a core. -/
def CoreSt.openSlots (c : CoreSt) : List ASlot := ([0, 1, 2, 3].map c.slot).filter (·.isOpen)

/-- Event counter i of core n. -/
def State.ctr (s : State) (n i : Nat) : Nat := s.objN (kCtr n i)

/-! ### Instances -/

/-- Object +j .sub of instance m (Table 10-8). -/
def kInst (m j sub : Nat) : Nat := okey (0x4800 + 0x40 * m + j) sub
def kAssay (m sub : Nat) : Nat := okey (0x4410 + m) sub
def kKv (m sub : Nat) : Nat := okey (0x4830 + 0x40 * m) sub
def kPlacer (m sub : Nat) : Nat := okey (0x4200 + 0x10 * m) sub
def kPart (p sub : Nat) : Nat := okey (0x4c10 + p) sub

def State.inst (s : State) (m : Nat) : InstSt := TMap.get (fun _ => InstSt.init) s.insts m
def State.setInst (s : State) (m : Nat) (x : InstSt) : State := { s with insts := TMap.set (fun _ => InstSt.init) s.insts m x }
def State.upInst (s : State) (m : Nat) (f : InstSt → InstSt) : State := s.setInst m (f (s.inst m))
def State.instState (s : State) (m : Nat) : Nat := s.objN (kInst m 0 1)

/-- The cores that instance m holds. -/
def State.coresOf (s : State) (m : Nat) : List Nat := (List.range 16).filter fun n => s.holder n = m

/-- The invocation in progress of instance m with the number. -/
def State.inv? (s : State) (m num : Nat) : Option InvSt := (s.inst m).invs.find? fun i => i.num = num

/-- Update an invocation in progress. -/
def State.upInv (s : State) (m num : Nat) (f : InvSt → InvSt) : State :=
  s.upInst m fun x => { x with invs := x.invs.map fun i => if i.num = num then f i else i }

/-- Group base of the invocation that core n runs (R206). -/
def State.groupBase (s : State) (n : Nat) : Word32 :=
  match (s.core n).seg with
  | none => 0#32
  | some g => ((s.inv? (s.holder n) g.inv).map (·.base)).getD 0#32

/-- Whether the bytes [a, a + len) of stacked memory, as interleaved addresses, all lie in [lo, lo + size) (R220, R237, R266). -/
def State.stackWithin (s : State) (a len lo size : Nat) : Bool :=
  if a < stackedSize then decide (lo ≤ a) && decide (a + len ≤ lo + size)
  else (List.range len).all fun i => decide (lo ≤ canonAddr s.ileave (a + i)) && decide (canonAddr s.ileave (a + i) < lo + size)

/-- Whether any of the bytes meets [lo, lo + size). -/
def State.stackMeets (s : State) (a len lo size : Nat) : Bool :=
  if a < stackedSize then decide (a < lo + size) && decide (lo < a + len)
  else (List.range len).any fun i => decide (lo ≤ canonAddr s.ileave (a + i)) && decide (canonAddr s.ileave (a + i) < lo + size)

/-- Size of the save area (R237). -/
def saveSlot : Nat := 0xa80000
def saveArea : Nat := 16 * saveSlot

/-- The capture sets of instance m whose ring meets the bytes (R229). -/
def State.meetsRing (s : State) (m a len : Nat) : Bool :=
  (List.range 256).any fun k =>
    let c := s.obj (okey (0x4500 + k) 1)
    bit c 63 && decide (fld c 59 56 = m)
      && s.stackMeets a len (s.objN (okey (0x4500 + k) 0x12)) (s.objN (okey (0x4500 + k) 0x13) * (fld c 55 52 + 1))

/-- Whether an engine of instance m may reach [a, a + len) (R16, R19, R229, R237, R258, R368). -/
def State.engineMay (s : State) (m a len : Nat) (write : Bool) : Bool :=
  match unitOfRange a len with
  | some .stack | some (.alias_ _) =>
    let x := s.inst m
    s.stackWithin a len x.stackBase (s.objN (kInst m 1 4)) && !s.stackMeets a len (s.objN (kInst m 7 1)) saveArea
      && !(write && (s.meetsRing m a len || s.stackMeets a len (s.objN (kKv m 6)) (16 * 2 ^ 20)))
  | some (.lstore k) => decide (s.holder k = m)
  | some (.cmem c) => ((List.range 4).any fun j => decide (s.holder (4 * c + j) = m))
      && (decide (s.objN (kInst m 0 4) = 1) || decide (s.objN (okey 0x7402 (2 + c)) ≤ a - (0xf000000000 + c * 0x2000000)))
  | some (.mailbox j) => decide (j = m)
  | some (.remote k) =>
    s.oBit (kInst m 5 k) 31 &&
      (match unitOfRange (a % 0x10000000000) len with
       | some .stack | some (.alias_ _) | some (.cmem _) | some (.lstore _) => true
       | _ => false)
  | _ => false

/-- Whether a poisoned unit meets the bytes (R108, R268). -/
def State.poisonedAt (s : State) (a len : Nat) : Option Nat :=
  s.poison.find? fun p =>
    let u := if p < stackedSize then 32 else 8
    if a < 0x1800000000 ∨ 0x4000000000 ≤ a then decide (p < a + len) && decide (a < p + u)
    else (List.range len).any fun i => decide (p ≤ canonAddr s.ileave (a + i)) && decide (canonAddr s.ileave (a + i) < p + u)

/-- The first fault of an engine of core n that reaches the rows of a descriptor: beyond the space, outside the instance's reach, or a poisoned word read (R16, R19, R108). -/
def State.reachFault (s : State) (n : Nat) (d : Desc) (write : Bool) : Option Exc :=
  let m := s.holder n
  let one (sp off len : Nat) : Option Exc :=
    match spaceAddr n sp off len with
    | none => some (addressFault ((spaceAddr n sp off 0).getD off))
    | some a =>
      if d.space = 2 ∧ !s.engineMay m a len write then some (addressFault a)
      else if write then none
      else (s.poisonedAt a len).map fun p => ⟨0x03, 0, p⟩
  let rows := (d.spans d.rowBytes).findSome? fun x => one d.space x.1 x.2
  match rows with
  | some e => some e
  | none => if isMx d.fmt then one d.scaleSpace d.scaleBase (d.count / 32) else none

/-! ### Accounting (R255) -/

/-- Clock period of core n's cluster in picoseconds; 0 while the cluster does not run. -/
def State.period (s : State) (n : Nat) : Nat := 1000000 / s.objN (okey (0x7c10 + n / 4) 2)

/-- Add picoseconds to an engine-time counter of instance m; the counter shows whole core-microseconds (R255). -/
def State.accountPs (s : State) (m sub ps : Nat) : State :=
  if 16 ≤ m then s
  else
    let t := TMap.get (fun _ => 0) (s.inst m).ns sub + ps
    (s.count (kInst m 3 sub) 64 (t / 1000000)).upInst m fun x => { x with ns := TMap.set (fun _ => 0) x.ns sub (t % 1000000) }

/-- Core n was busy for a number of cycles: 1 Slab, 2 Mica, 3 Pebble (Table 10-8). -/
def State.account (s : State) (n sub cycles : Nat) : State := s.accountPs (s.holder n) sub (cycles * s.period n)

/-- Bytes moved for instance m by address: stacks, cluster memory, data sent on a Twimi link (R255). -/
def State.countBytes (s : State) (m a len : Nat) (write : Bool) : State :=
  if 16 ≤ m then s
  else match unitOf a with
    | some .stack | some (.alias_ _) => s.count (kInst m 3 5) 64 len
    | some (.cmem _) => s.count (kInst m 3 6) 64 len
    | some (.remote _) => if write then s.count (kInst m 3 7) 64 len else s
    | _ => s

/-- The bytes of a descriptor's rows are moved for core n. -/
def State.countDesc (s : State) (n : Nat) (d : Desc) (write : Bool) : State :=
  s.forEach (d.spans d.rowBytes) fun s x => s.countBytes (s.holder n) (devAddr n d.space x.1) x.2 write

/-! ### Exceptions -/

/-- Queue code of exc_cause (Table 5-17). -/
def Queue.code : Queue → Nat
  | .ctl => 0 | .slab => 1 | .readout => 2 | .mica => 3 | .dma => 4 | .pebble => 5

def CoreSt.q (c : CoreSt) : Queue → List QOp
  | .ctl => [] | .slab => c.slab | .readout => c.readout | .mica => c.mica | .dma => c.dma | .pebble => c.pebble
def CoreSt.setQ (c : CoreSt) (q : Queue) (l : List QOp) : CoreSt :=
  match q with
  | .ctl => c
  | .slab => { c with slab := l }
  | .readout => { c with readout := l }
  | .mica => { c with mica := l }
  | .dma => { c with dma := l }
  | .pebble => { c with pebble := l }

/-- Depth of a queue (Table 5-1). -/
def Queue.depth : Queue → Nat
  | .ctl => 1 | .slab => 4 | .readout => 4 | .mica => 16 | .dma => 16 | .pebble => 4

/-- Ops that still occupy the queue: an op leaves it when it starts (R114). -/
def CoreSt.level (c : CoreSt) (q : Queue) : Nat := ((c.q q).filter fun o => !o.started).length

/-- Every op in a queue of the core. -/
def CoreSt.allOps (c : CoreSt) : List QOp := c.slab ++ c.readout ++ c.mica ++ c.dma ++ c.pebble

/-- queue_levels follows the queues (Table 5-17). -/
def State.syncLevels (s : State) (n : Nat) : State :=
  let c := s.core n
  s.setN (kCore n 4 8) (c.level .slab * 2 ^ 24 + c.level .readout * 2 ^ 16 + c.level .mica * 2 ^ 8 + c.level .dma)

/-- What core n has forwarded leaves its Pebble's queue. -/
def State.dropPebble (s : State) (n : Nat) : State :=
  let p := TMap.get (fun _ => PebSt.init) s.peb (n / 4)
  { s with peb := TMap.set (fun _ => PebSt.init) s.peb (n / 4) { p with queue := p.queue.filter fun o => o.core != n } }

/-- Abort every op in flight of core n; its dispatch stops for the reason `h` (R137, R226). -/
def State.abortCore (s : State) (n : Nat) (h : Hold) : State :=
  let s := s.upCore n fun c => { c with slab := [], readout := [], mica := [], dma := [], pebble := [], pend := [], hold := h }
  let s := { s with coll := s.coll.filter fun p => p.core != n }
  let s := s.upInst (s.holder n) fun x => { x with stalls := x.stalls.filter fun w => w.1 != n }
  (s.dropPebble n).syncLevels n

/-- An exception of core n: the first is recorded, every one counts, dispatch stops and everything in flight is aborted (R137). -/
def State.except (s : State) (n queue addr : Nat) (e : Exc) : State :=
  let s := s.countSat (kCore n 4 5) 32
  let s := if s.obj (kCause n) = 0#64 then
      ((s.setN (kCause n) (e.code * 2 ^ 24 + queue * 2 ^ 20 + e.detail % 2 ^ 16)).setN (kCore n 4 3) addr).setN (kCore n 4 4) e.info
    else s
  s.abortCore n .stopped

/-! ### Counters, retirement, signals -/

/-- An op completed or was skipped (Table 5-17, R138). -/
def State.retire (s : State) (n : Nat) : State :=
  (s.count (kRetired n) 64).upCore n fun c => { c with lastRetire := s.now, elapsed := 0 }

/-- Add to counter i of core t for an op of core n; a carry past 0xFFFF_FFFF raises sync_fault on core n (R133). -/
def State.addCtr (s : State) (n t i v queue addr : Nat) : State :=
  if 2 ^ 32 ≤ s.ctr t i + v then s.except n queue addr ⟨0x07, 0, 0⟩
  else s.setN (kCtr t i) (s.ctr t i + v)

/-- Header fields of an op word (Table 5-2). -/
def opSe (op : OpWord) : Bool := bit op 114
def opSig (op : OpWord) : Nat := fld op 113 109
def opWe (op : OpWord) : Bool := bit op 108
def opWait (op : OpWord) : Nat := fld op 107 103

/-- The signal of a completed op's header (R113, R132). -/
def State.signalSe (s : State) (n queue addr : Nat) (op : OpWord) : State :=
  if opSe op then s.addCtr n n (opSig op) 1 queue addr else s

/-! ### Dispatch -/

/-- Relative index r of group number g under a base, modulo 2^32 (R206). -/
def relGroup (g base : Word32) : Nat := (g - base).toNat

/-- The transforms that an op of core n carries: those of its open run-B slots (R134). -/
def CoreSt.trf (c : CoreSt) : Trf :=
  match c.openSlots.find? (·.runB) with
  | some x => x.trf
  | none => Trf.none

/-- Effective tag of an op of core n that reads the descriptors (R219). -/
def State.effTag (s : State) (n : Nat) (reads : List Nat) : Nat :=
  let c := s.core n
  let t := (reads.map fun i => (descOf (c.t i)).tag).foldl max 0
  (c.openSlots.map fun g => relGroup g.group (s.groupBase n) + 1).foldl max t

/-- Whether a tagged op may write through the descriptor (R220). -/
def State.tagPlaceOk (s : State) (n : Nat) (d : Desc) : Bool :=
  let m := s.holder n
  if d.space ≠ 2 then true
  else (d.spans d.rowBytes).all fun x =>
    match unitOfRange x.1 x.2 with
    | some (.lstore k) => decide (s.holder k = m)
    | some (.cmem c) => (List.range 4).any fun j => decide (s.holder (4 * c + j) = m)
    | some .stack | some (.alias_ _) => s.stackWithin x.1 x.2 (s.objN (kAssay m 0xc)) (s.objN (kAssay m 0xd))
    | _ => false

/-- What the controller must know of an engine op at its dispatch: its queue and the descriptors that it reads and writes. -/
structure OpUse where
  queue : Queue
  reads : List Nat
  writes : List Nat
deriving DecidableEq, Repr

/-- Whether core n can dispatch an op word now: it runs, or a debug step lets one through, and nothing holds it. -/
def State.canDispatch (s : State) (n : Nat) : Bool :=
  let c := s.core n
  (decide (s.coreState n = 1) || (decide (s.coreState n = 4) && c.stepping)) && decide (c.hold = .none) && !c.preempt

/-- Whether the next op word lies in the running segment (R121, R143). -/
def State.inStream (s : State) (n : Nat) : Bool :=
  match (s.core n).seg with
  | none => false
  | some g => decide (g.start ≤ s.pc n) && decide (s.pc n < g.start + 16 * g.len)

/-- Whether the op executes under its predicate (R117). -/
def State.predOk (s : State) (n : Nat) (op : OpWord) : Bool :=
  !bit op 119 || ((s.core n).p (fld op 117 115) != 0#32) != bit op 118

/-- Dispatch an op word on core n (R111, R117, R118, R143): nothing happens while the core cannot dispatch or the op must stall; an op beyond the stream or with a nonzero reserved bit raises illegal_op; a predicated-off op is skipped; otherwise the body acts on the state in which the pc has passed the op. -/
def State.dispatch (s : State) (n : Nat) (op : OpWord) (fields : List (Nat × Nat)) (room : Bool) (body : Nat → State → State) : Result :=
  if !s.canDispatch n then .next s
  else
    let pc := s.pc n
    if !s.inStream n then .next (s.except n 0 pc (illegal 0x0a))
    else if !opReservedOk op fields then .next (s.except n 0 pc (illegal 0x02))
    else
      let s1 := (s.setN (kPc n) (pc + 16)).upCore n fun c => { c with stepping := false }
      if !s.predOk n op then .next (s1.retire n)
      else if !room then .next s
      else .next (body pc s1)

/-- A controller op completes: it retires and signals (R113). -/
def State.ctlDone (s : State) (n : Nat) (op : OpWord) (addr : Nat) : State := (s.retire n).signalSe n 0 addr op

/-- A controller op: it waits by its header and acts. `act` gives the exception, or the state and whether the op has completed; an op that has not is held (R111, R131). -/
def State.ctlOp (s : State) (n : Nat) (op : OpWord) (fields : List (Nat × Nat)) (act : Nat → State → Except Exc (State × Bool)) : Result :=
  s.dispatch n op fields (!opWe op || decide (0 < s.ctr n (opWait op))) fun pc s1 =>
    let s2 := if opWe op then s1.setN (kCtr n (opWait op)) (s1.ctr n (opWait op) - 1) else s1
    match act pc s2 with
    | .error e => (s1.setN (kPc n) pc).except n 0 pc e
    | .ok (s3, done) => if done then s3.ctlDone n op pc else s3

/-- Hold the dispatch of core n. -/
def State.holdOn (s : State) (n : Nat) (h : Hold) : State := s.upCore n fun c => { c with hold := h }

end Sys2Proof.Machine
end

