-- ==== Sys2Proof/Machine/Access.lean ====
section
/-! DEFINITION. Who reaches which object: roles, worlds, rights, contexts, and the checks of an access in the order of R463 (R26-R38, R363, R364, R463, R464, R467). -/

namespace Sys2Proof.Machine

/-- Roles of Table 2-3. -/
inductive Role where
  | vehicle
  | manager
  | inst (m : Nat)
  | secureFw
  | service
deriving DecidableEq, Repr

/-- A requester: its role, whether it acts in the secure world, and its context (R31, R37). -/
structure Requester where
  role : Role
  secure : Bool
  ctx : Ctx
deriving DecidableEq, Repr

/-! ### Sessions and contexts -/

/-- A CXOP session by its number, proved or not. -/
def State.session? (s : State) (sid : Nat) : Option Session := s.sessions.find? fun x => x.sid = sid

/-- Update a session. -/
def State.upSession (s : State) (sid : Nat) (f : Session → Session) : State :=
  { s with sessions := s.sessions.map fun x => if x.sid = sid then f x else x }

/-- Key of a window role context (R31). -/
def ctxKey : Ctx → Nat
  | .secureFw => 0
  | .manager => 1
  | .inst m => 2 + m.val
  | .session _ => 18

/-- A context; one of a session that does not exist is empty. -/
def State.ctx (s : State) (c : Ctx) : CtxSt :=
  match c with
  | .session sid => ((s.session? sid).map (·.ctx)).getD CtxSt.empty
  | c => TMap.get (fun _ => CtxSt.empty) s.ctxs (ctxKey c)

/-- Replace a context. -/
def State.setCtx (s : State) (c : Ctx) (x : CtxSt) : State :=
  match c with
  | .session sid => s.upSession sid fun y => { y with ctx := x }
  | c => { s with ctxs := TMap.set (fun _ => CtxSt.empty) s.ctxs (ctxKey c) x }

/-! ### Requesters (R37, R43) -/

/-- Current world of a host core: secure or not (R371). -/
def State.hostSecure (s : State) (h : Nat) : Bool := s.oBit (okey 0x7403 1) h

/-- The instance that a guest's VMID is bound to; the lowest when several are (R37). -/
def State.boundInst (s : State) (vmid : Nat) : Option (Fin 16) :=
  (List.finRange 16).find? fun m => s.oBit (kInst m 0 5) 31 && decide (fld (s.obj (kInst m 0 5)) 15 0 = vmid)

/-- The requester behind a source; none has no role (R37, R43). -/
def State.requester (s : State) (src : Src) : Option Requester :=
  match src with
  | .fw _ => some ⟨.secureFw, true, .secureFw⟩
  | .host h mode vmid =>
    let sec := s.hostSecure h
    match mode with
    | .m | .s | .hs => if sec then some ⟨.secureFw, true, .secureFw⟩ else some ⟨.manager, false, .manager⟩
    | .vs | .vu => (s.boundInst vmid).map fun (m : Fin 16) => ⟨Role.inst m.val, sec, Ctx.inst m⟩
    | .u => none
  | .cxop sid =>
    match s.session? sid with
    | none => none
    | some x => if !x.proved then none else if x.service then some ⟨.service, x.secure, .session sid⟩ else some ⟨.vehicle, false, .session sid⟩

/-! ### Worlds and rights -/

/-- Whether an index belongs to the secure world: always 0x7400-0x77FF, never 0x1000-0x1FFF nor an index outside 0x1000-0x7FFF, otherwise by object_worlds, into which the lock writes the derived worlds (R34, R363, R364, R463). -/
def State.secureIndex (s : State) (idx : Nat) : Bool :=
  if 0x7400 ≤ idx ∧ idx < 0x7800 then true
  else if idx < 0x2000 ∨ 0x8000 ≤ idx then false
  else nbit ((s.dom (okey 0x7401 8)).getD ((idx - 0x1000) / 8) 0#8).toNat ((idx - 0x1000) % 8)

/-- Whether an index holds objects of the cores, lode map, quotas or instance block of instance m (R35). -/
def State.ownIndex (s : State) (m idx : Nat) : Bool :=
  (decide (0x3000 ≤ idx) && decide (idx < 0x4000) && decide (s.holder ((idx - 0x3000) / 0x100) = m))
    || (decide (0x4200 + 0x10 * m ≤ idx) && decide (idx < 0x4210 + 0x10 * m)) || decide (idx = 0x4410 + m)
    || (decide (0x4800 + 0x40 * m ≤ idx) && decide (idx < 0x4840 + 0x40 * m))

/-- Rights of Table 2-3: 0 none, 1 read, 2 read and write. -/
def State.rights (s : State) (r : Role) (idx sub : Nat) : Nat :=
  let row (v m i f sv : Nat) : Nat :=
    match r with
    | .vehicle => v
    | .manager => m
    | .inst _ => i
    | .secureFw => f
    | .service => sv
  let own (n : Nat) : Nat := match r with
    | .inst m => if s.ownIndex m idx then n else 0
    | _ => n
  if idx = 0x1024 ∧ sub = 1 then row 2 0 0 0 2
  else if idx = 0x1002 ∨ idx = 0x1010 ∨ idx = 0x1024 then row 2 2 0 2 2
  else if idx = 0x1004 ∨ idx = 0x1018 then row 2 2 2 2 2
  else if idx = 0x1005 then row 0 2 2 2 0
  else if idx < 0x2000 then row 1 1 (if idx = 0x1000 then 1 else 0) 2 2
  else if idx < 0x2800 then row 2 1 0 2 1
  else if 0x3000 ≤ idx ∧ idx < 0x4800 then row 1 2 (own 1) 2 1
  else if 0x4800 ≤ idx ∧ idx < 0x5000 then row 1 2 (own 2) 2 1
  else if (0x5400 ≤ idx ∧ idx < 0x5800) ∨ (0x6000 ≤ idx ∧ idx < 0x6400) then row 2 2 0 2 1
  else if (0x5000 ≤ idx ∧ idx < 0x5c00) ∨ (0x6400 ≤ idx ∧ idx < 0x6600) ∨ (0x7c00 ≤ idx ∧ idx < 0x8000) then row 1 2 0 2 1
  else if idx = 0x7000 then row 2 1 0 2 2
  else if idx = 0x7431 ∨ idx = 0x7440 then row 0 0 0 2 2
  else if 0x7400 ≤ idx ∧ idx < 0x7800 then row 0 0 0 2 1
  else if 0x7001 ≤ idx ∧ idx < 0x7c00 then row 1 1 0 2 2
  else 0

/-- Offset j and unit m of an index in the instance blocks, when it lies there. -/
def instOff (idx : Nat) : Option (Nat × Nat) :=
  if 0x4800 ≤ idx ∧ idx < 0x4c00 then some ((idx - 0x4800) % 0x40, (idx - 0x4800) / 0x40) else none

/-- Whether a listing reserves the writing of an object to the manager and to secure firmware, which takes the manager's part (R364, Tables 5-17, 8-11, 9-7, 10-1, 10-8; R255, R256, R307). -/
def managerWrites (idx sub : Nat) : Bool :=
  (decide (0x3000 ≤ idx) && decide (idx < 0x4000) && decide (idx % 0x100 = 4) && decide (sub = 6))
    || (decide (0x4200 ≤ idx) && decide (idx < 0x4300) && ([5, 6, 0xb, 0xc].contains sub))
    || (decide (0x4410 ≤ idx) && decide (idx < 0x4420) && decide (sub = 4))
    || decide (idx = 0x4c00) || (decide (0x4c10 ≤ idx) && decide (idx < 0x4c20))
    || match instOff idx with
       | some (0, _) => [2, 5, 6].contains sub
       | some (1, _) => true
       | some (3, _) => decide (sub = 0xa)
       | some (5, _) => true
       | _ => false

/-- What an object's listing narrows (R35). -/
def narrowed (r : Role) (idx sub : Nat) (write : Bool) : Bool :=
  let fwOnly := !(decide (r = .secureFw))
  let fwService := !(decide (r = .secureFw)) && !(decide (r = .service))
  if write && managerWrites idx sub then !(decide (r = .manager)) && fwOnly
  else if idx = 0x7000 ∧ write then (match r with
    | .vehicle => !([4, 5, 0xc].contains sub)
    | .service => decide (sub = 4)
    | _ => false)
  else if idx = 0x7403 ∧ sub = 2 ∧ write then fwOnly
  else if idx = 0x1012 ∨ idx = 0x7808 then fwService
  else if 0x7800 ≤ idx ∧ idx < 0x7807 ∧ sub = 5 ∧ write then fwService
  else false

/-! ### Power domains -/

/-- The power domain of an object's unit, as the bit of secure_power_hold; none for PD_AON (Tables 1-4, 15-4). -/
def domainOf (idx : Nat) : Option Nat :=
  if 0x3000 ≤ idx ∧ idx < 0x4000 then some (2 + (idx - 0x3000) / 0x400)
  else if 0x4000 ≤ idx ∧ idx < 0x5400 then some 0
  else if 0x5400 ≤ idx ∧ idx < 0x5800 then some 7
  else if 0x5800 ≤ idx ∧ idx < 0x5c00 then some 8
  else if 0x6000 ≤ idx ∧ idx < 0x6400 then some 9
  else if 0x6400 ≤ idx ∧ idx < 0x6600 then some 7
  else none

/-- Whether a power domain is off (Table 1-4). -/
def State.domOff (s : State) (d : Nat) : Bool := nbit s.domsOff d

/-- The interfaces of a domain (9 PD_GW, 8 PD_COCK, 7 PD_IO) work: it is powered and its pads are not held (R433). -/
def State.padsUp (s : State) (d : Nat) : Bool := !s.domOff d && !s.oBit (okey 0x7c00 6) (9 - d)

/-- Whether an object's unit is powered off. -/
def State.unitOff (s : State) (idx : Nat) : Bool :=
  match domainOf idx with
  | none => false
  | some d => s.domOff d

/-! ### The checks of R463 -/

/-- Steps 1-3 of R463, 0 for passed: world, existence, rights; then a unit that is powered off (Table 2-6). -/
def State.access (s : State) (r : Requester) (idx sub : Nat) (write : Bool) : Nat :=
  if !r.secure && s.secureIndex idx then 0x0004
  else if maxSub idx = 0 then 0x0001
  else if maxSub idx < sub then 0x0002
  else if s.rights r.role idx sub < (if write then 2 else 1) || narrowed r.role idx sub write then 0x0003
  else if s.unitOff idx then 0x000B
  else 0

/-- Values that R464 and the listings refuse, beside the ranges of the object tables. -/
def valueOk (idx sub : Nat) (v : Word64) : Bool :=
  let n := v.toNat
  if idx = 0x1010 ∧ sub = 1 then decide (n = 0x65766173)
  else if idx = 0x7040 ∧ sub = 5 then decide (n = 0x7374636C)
  else if idx = 0x1005 ∧ sub = 3 then decide (n = 1) || decide (n = 2)
  else if idx = 0x7c00 ∧ sub = 2 then decide (n = 0) || decide (n = 2) || decide (n = 3) || decide (n = 4)
  else if idx = 0x705d ∧ sub = 1 then decide (n ≠ 0)
  else match instOff idx with
    | some (0, _) => sub != 2 || (decide (1 ≤ n / 2 ^ 56) && decide (n / 2 ^ 56 ≤ 8))
    | some (0x30, _) => sub != 2 || (decide (1 ≤ n / 2 ^ 56) && decide (n / 2 ^ 56 ≤ 4))
    | _ => true

/-- Step 6 of R463 as far as the object's own listing gives it. -/
def ObjRow.valueOk (r : ObjRow) (idx sub : Nat) (v : Word64) : Bool :=
  r.rng.ok v && Sys2Proof.Machine.valueOk idx sub v && (decide (r.wk ≠ .clear0) || v == 0#64)

/-- Whether the lock of an RWL object is set (R30). -/
def State.locked (s : State) (r : ObjRow) (idx sub : Nat) : Bool :=
  decide (r.acc = .rwl) && (match lockOf idx sub with
    | none => false
    | some k => s.obj k != 0#64)

/-- The guarantees of instances and of the save path show read-only at 0x5100 + i (R286). -/
def shownGuarantee (idx sub : Nat) : Bool :=
  decide (sub = 1) && ((decide (0x5100 ≤ idx) && decide (idx < 0x5110)) || decide (idx = 0x511b))

/-- Steps 4-6 of R463 for a scalar write, 0 for passed; step 6 of an RWC object waits for its commit (R32). -/
def State.writeCheck (s : State) (idx sub : Nat) (v : Word64) : Nat :=
  match objRow? idx sub with
  | none => if sub = 0 then 0x0015 else if v = 0#64 then 0 else 0x0006
  | some r =>
    if sub = 0 ∨ r.acc = .ro ∨ r.ty = .domain ∨ shownGuarantee idx sub then 0x0015
    else if s.locked r idx sub then 0x0005
    else if !r.encOk v then 0x0006
    else if r.acc = .rwc then 0
    else if r.valueOk idx sub v then 0 else 0x0007

/-- What a write does to an object that has no behaviour of its own (R30, R464). -/
def State.plainWrite (s : State) (idx sub : Nat) (v : Word64) : State :=
  let k := okey idx sub
  match objRow? idx sub with
  | none => s
  | some r =>
    match r.wk with
    | .plain => s.setObj k v
    | .evt mask => s.setObj k (s.obj k &&& (v ||| ~~~(BitVec.ofNat 64 mask)))
    | .clear0 => s.setObj k 0#64

/-- A window write that is refused, or a window commit that fails: latched and counted in the context's window_status (R38). A session has its answer instead. -/
def State.latch (s : State) (c : Ctx) (err idx sub : Nat) : State :=
  match c with
  | .session _ => s
  | c =>
    let x := s.ctx c
    s.setCtx c { x with windowStatus := BitVec.ofNat 64 (err * 2 ^ 32 + idx * 2 ^ 16 + sub * 2 ^ 8 + min 255 (fld x.windowStatus 7 0 + 1)) }

/-- Address of an object in the window (R36). -/
def windowAddr (idx sub : Nat) : Nat := 0xf800000000 + idx * 0x800 + sub * 8

/-- An access that completes under R16; a session has its answer instead. -/
def State.refuseAccess (s : State) (src : Src) (addr : Nat) : State :=
  match src with
  | .cxop _ => s
  | _ => s.emit (.errorResponse src addr)

/-- A write of an object that acts as a command: the checks of R463 in order, then `act`, which gives the state or the error that the listing names. -/
def State.command (s : State) (src : Src) (idx sub : Nat) (v : Word64) (act : Requester → State → Except Nat State) : Result :=
  match s.requester src with
  | none => .next (s.refuseAccess src (windowAddr idx sub))
  | some r =>
    if s.access r idx sub true = 0x000B then .next (s.latch r.ctx 0x000B idx sub)
    else if s.access r idx sub true ≠ 0 then .next (s.refuseAccess src (windowAddr idx sub))
    else if s.writeCheck idx sub v ≠ 0 then .next (s.latch r.ctx (s.writeCheck idx sub v) idx sub)
    else match act r s with
      | .ok s' => .next s'
      | .error e => .next (s.latch r.ctx e idx sub)

/-! ### Reads -/

/-- The value that a requester reads at an object that exists: objects of its own context, else the object (R30, R31, R38, R47, R465). -/
def State.ctxValue (s : State) (r : Requester) (idx sub : Nat) : Word64 :=
  let x := s.ctx r.ctx
  if idx = 0x1004 ∧ sub = 1 then x.windowStatus
  else if idx = 0x1005 ∧ sub = 1 then x.xferTarget
  else if idx = 0x1005 ∧ sub = 2 then x.xferBuffer
  else if idx = 0x1005 ∧ sub = 4 then x.xferStatus
  else if idx = 0x1018 ∧ sub = 2 then x.applied
  else if idx = 0x1024 ∧ sub = 1 then
    match r.ctx with
    | .session sid => (((s.session? sid).map (·.mask)).getD 0#32).setWidth 64
    | _ => 0#64
  else s.objValue idx sub

/-- A read of one subindex: its status and value (R463, R467). -/
def State.readObj (s : State) (r : Requester) (idx sub : Nat) : Nat × Word64 :=
  let e := s.access r idx sub false
  if e ≠ 0 then (e, 0#64) else (0, s.ctxValue r idx sub)

/-! ### DOMAIN contents (R29, R463, R465) -/

/-- The check of a write of a DOMAIN's contents, 0 for passed. -/
def State.domWriteCheck (s : State) (r : Requester) (idx sub len : Nat) : Nat :=
  let e := s.access r idx sub true
  if e ≠ 0 then e
  else match objRow? idx sub with
    | none => 0x0015
    | some row =>
      if row.acc = .ro then 0x0015
      else if s.locked row idx sub then 0x0005
      else if row.ty ≠ .domain then 0x0006
      else if row.rng.lenOk len then 0 else 0x0007

/-- The check of a read of a DOMAIN's contents, 0 for passed. -/
def State.domReadCheck (s : State) (r : Requester) (idx sub : Nat) : Nat :=
  let e := s.access r idx sub false
  if e ≠ 0 then e
  else match objRow? idx sub with
    | none => 0x0006
    | some row => if row.ty ≠ .domain then 0x0006 else 0

end Sys2Proof.Machine
end

