-- ==== Sys2Proof/Machine/Flint.lean ====
section
/-! DEFINITION. The Flint ledger as shared operations: allocation under the quota, freeing with the grant to the earliest stalled AOPEN, settling, and events of a group (R206, R214-R218, R222, R231). -/

namespace Sys2Proof.Machine

def kUsed : Nat := okey 0x4400 2
def kCompares : Nat := okey 0x4400 4

def State.entry (s : State) (i : Nat) : LedgerEntry := TMap.get (fun _ => LedgerEntry.free) s.ledger i
def State.setEntry (s : State) (i : Nat) (e : LedgerEntry) : State := { s with ledger := TMap.set (fun _ => LedgerEntry.free) s.ledger i e }

/-- The entry of instance m with the group number (R214). -/
def State.findEntry (s : State) (m : Nat) (group : Word32) : Option Nat :=
  (s.ledger.find? fun x => x.2.state != 0 && decide (x.2.inst = m) && x.2.group == group).map (·.1)

/-- A group of instance m changes state (R217). -/
def State.groupMoved (s : State) (m : Nat) : State := s.upInst m fun x => { x with lastGroup := s.now }

/-- A free entry; which one is a free value (R214; log entry 19). -/
def State.pickEntry (s : State) : Option Nat :=
  let f := s.freeNow.toNat % 4096
  ((List.range 4096).map fun i => (f + i) % 4096).find? fun i => (s.entry i).state = 0

/-- Whether instance m has quota for one more entry (R214, R216). -/
def State.quotaLeft (s : State) (m : Nat) : Bool := decide (s.objN (kAssay m 2) < s.objN (kAssay m 1))

/-- Allocate an entry in state 1 for run A of a group on core n (R214 step 1). -/
def State.allocEntry (s : State) (m n : Nat) (group : Word32) : State :=
  match s.pickEntry with
  | none => s
  | some i =>
    let inv := ((s.core n).seg.map (·.inv)).getD 0
    let safety := ((s.inv? m inv).map (·.safety)).getD false
    let s := s.tookFree.setEntry i { LedgerEntry.free with state := 1, inst := m, group := group, coreA := n, safety := safety, inv := inv }
    let s := (s.count kUsed 16).count (kAssay m 2) 16
    let s := if s.objN (kAssay m 3) < s.objN (kAssay m 2) then s.setObj (kAssay m 3) (s.obj (kAssay m 2)) else s
    s.groupMoved m

/-- Slot field of an AOPEN, AFOLD or ACLOSE (Table 5-14). -/
def opSlot (op : OpWord) : Nat := fld op 95 94

/-- The transforms that an AOPEN sets (Table 5-14). -/
def aopenTrf (op : OpWord) : Trf := ⟨bit op 87, bit op 86, bit op 85, fld op 84 77, fld op 76 69⟩

/-- Open assay slot g of core n for the AOPEN: its signature starts as all ones (R213). -/
def State.openSlot (s : State) (n : Nat) (op : OpWord) (group : Word32) : State :=
  s.upCore n fun c => (c.setSlot (opSlot op) ⟨true, bit op 93, aopenTrf op, group, 0xffffffffffffffff#64, false⟩)

/-- The earliest stalled run-A AOPEN of instance m takes the quota that has come free (R216). A group that has come to be held meanwhile raises ledger_misuse. -/
def State.grantStall (s : State) (m : Nat) : State :=
  match (s.inst m).stalls with
  | [] => s
  | (n, group, since) :: rest =>
    if !s.quotaLeft m then s
    else
      let s := s.upInst m fun x => { x with stalls := rest }
      let s := s.count (kAssay m 5) 64 (s.nowN - since.toNat)
      match (s.core n).hold with
      | .aopenA op addr =>
        if (s.findEntry m group).isSome then s.except n 0 addr ⟨0x06, 0x06, 0⟩
        else
          let s := ((s.allocEntry m n group).openSlot n op group).upCore n fun c => { c with hold := .none }
          s.ctlDone n op addr
      | _ => s

/-- An entry is freed; quota that comes free goes to the earliest stalled AOPEN (R214, R216). -/
def State.freeEntry (s : State) (i : Nat) : State :=
  let m := (s.entry i).inst
  let s := (s.setEntry i LedgerEntry.free).setN kUsed (s.objN kUsed - 1)
  let s := s.setN (kAssay m 2) (s.objN (kAssay m 2) - 1)
  (s.groupMoved m).grantStall m

/-- Withdraw every entry that the test picks, with no verdict (R226 step 2, R227). -/
def State.withdraw (s : State) (p : LedgerEntry → Bool) : State :=
  s.forEach ((s.ledger.filter fun x => x.2.state != 0 && p x.2).map (·.1)) fun s i => s.freeEntry i

/-- Whether every group below tag t of the invocation has compared equal (R222). -/
def InvSt.assayed (x : InvSt) (t : Nat) : Bool := (List.range t).all fun r => x.equal.contains r
/-- Whether every group below tag t of the invocation has settled (R222). -/
def InvSt.settled (x : InvSt) (t : Nat) : Bool := (List.range t).all fun r => x.equal.contains r || x.broken.contains r

/-- last_event of instance m (Table 9-7). -/
def State.assayEvent (s : State) (m kind coreA coreB : Nat) (group : Word32) : State :=
  s.setN (kAssay m 0xe) (kind * 2 ^ 56 + coreA * 2 ^ 52 + coreB * 2 ^ 48 + group.toNat)

/-- A tag of the caches that invocation num wrote has settled: their marks go (R225). -/
def State.settleKv (s : State) (m num : Nat) : State :=
  match s.inv? m num with
  | none => s
  | some v =>
    s.upInst m fun x => { x with kv := x.kv.map fun k => (k.1, { k.2 with unsettled := k.2.unsettled.filter fun u => !(decide (u.1 = num) && v.settled u.2) }) }

/-! ### Streams whose buffers a capture slot pins (R229, R230, R291) -/

def kStream (st sub : Nat) : Nat := okey (0x5420 + st) sub
def State.stream (s : State) (st : Nat) : StreamSt := TMap.get (fun _ => StreamSt.init) s.streams st
def State.setStream (s : State) (st : Nat) (x : StreamSt) : State := { s with streams := TMap.set (fun _ => StreamSt.init) s.streams st x }
def State.upStream (s : State) (st : Nat) (f : StreamSt → StreamSt) : State := s.setStream st (f (s.stream st))

/-- Enable bit of stream_config (Table 12-3). -/
def scEnable (w : Word64) : Bool := bit w 63
def State.streamCfg (s : State) (st : Nat) : Word64 := s.obj (kStream st 1)

/-- Free the rings of a stream that neither capture nor pins hold (R291). -/
def State.freeRings (s : State) (st : Nat) : State :=
  let x := s.stream st
  let active := s.objN (kStream st 3)
  let held (r : Nat × Nat × Nat) : Bool :=
    (scEnable (s.streamCfg st) && decide (r.2.1 = active)) || x.pinned.any fun p => decide (r.2.1 ≤ p.2) && decide (p.2 < r.2.1 + r.2.2)
  let gone := x.rings.filter fun r => !held r
  (s.setStream st { x with rings := x.rings.filter held }).forEach gone fun s r => s.upInst r.1 fun y => { y with claims := y.claims.erase r.2 }

/-- Drop one hold of a capture slot; the frames that it pins go free with the last (R229, R230). -/
def State.dropHold (s : State) (set slot : Nat) : State :=
  let c := TMap.get (fun _ => CapRun.init) s.caps set
  let h := TMap.get (fun _ => 0) c.holds slot
  let s := { s with caps := TMap.set (fun _ => CapRun.init) s.caps set { c with holds := TMap.set (fun _ => 0) c.holds slot (h - 1) } }
  if h ≤ 1 then
    s.forEach ((s.streams.filter fun x => x.2.pinned.any fun p => p.1 = 256 * set + slot).map (·.1)) fun s st =>
      (s.upStream st fun y => { y with pinned := y.pinned.filter fun p => p.1 != 256 * set + slot }).freeRings st
  else s

/-- When every group of an invocation has settled its capture slots are released (R230). -/
def State.settleCaps (s : State) (m num : Nat) : State :=
  match s.inv? m num with
  | none => s
  | some v =>
    if v.groups ≠ 0 ∧ v.settled v.groups then
      (s.forEach v.caps fun s c => s.dropHold c.1 c.2).upInv m num fun v => { v with caps := [] }
    else s

/-- Group r of an invocation has settled: equal, or broken. -/
def State.settleGroup (s : State) (m num r : Nat) (equal : Bool) : State :=
  let s := s.upInv m num fun v => if equal then { v with equal := r :: v.equal.filter (· != r) } else { v with broken := r :: v.broken.filter (· != r) }
  (s.settleKv m num).settleCaps m num

end Sys2Proof.Machine
end

