-- ==== Sys2Proof/Machine/KvMem.lean ====
section
/-! DEFINITION. KV cache records, the page table, frames and the cache commands (R166-R172, R178). -/

namespace Sys2Proof.Machine

/-! ### Records and entries -/

/-- A cache record (Table 7-2). -/
structure Cache where
  addr : Nat
  state : Nat
  kind : Nat
  fmt : Nat
  ring : Bool
  mode : Nat
  d : Nat
  heads : Nat
  headLo : Nat
  headCount : Nat
  window : Nat
  maxTokens : Nat
  pages : Nat
  ptFirst : Nat
  flags : Nat
  t8 : Bool
  reserved : Bool
deriving DecidableEq, Repr

/-- The record of a cache of instance m. -/
def State.cache (s : State) (m c : Nat) : Cache :=
  let a := s.objN (kKv m 1) + 64 * c
  let b := s.rd a 64
  { addr := a, state := leAt b 0 1, kind := leAt b 1 1, fmt := leAt b 2 1, ring := decide (leAt b 3 1 = 1), mode := leAt b 3 1
    d := leAt b 4 2, heads := leAt b 6 2, headLo := leAt b 8 2, headCount := leAt b 0xa 2
    window := leAt b 0xc 4, maxTokens := leAt b 0x10 4, pages := leAt b 0x14 4, ptFirst := leAt b 0x18 4
    flags := leAt b 0x1c 2, t8 := decide (leAt b 0x1c 1 % 2 = 1), reserved := decide (leAt b 0x1e 34 ≠ 0) }

/-- Tokens of a page (Table 7-2). -/
def Cache.P (c : Cache) : Nat := if c.kind = 0 then 16 else 256
/-- Bytes of an element. -/
def Cache.e (c : Cache) : Nat := elemBits c.fmt / 8
/-- Bytes of a token row. -/
def Cache.row (c : Cache) : Nat := c.d * c.e
/-- Bytes of a frame (R167). -/
def Cache.frame (c : Cache) : Nat := 2 * c.P * c.row
/-- Alignment of a frame (R167). -/
def Cache.align (c : Cache) : Nat := min c.frame 4096
/-- pages_per_head as creation computes it (R166, R170). -/
def Cache.newPages (c : Cache) : Nat := if c.ring then (c.window + c.P - 1) / c.P + 1 else (c.maxTokens + c.P - 1) / c.P
/-- Slot of a page number (R169, R170). -/
def Cache.slot (c : Cache) (page : Nat) : Nat := if c.ring then page % c.pages else page

/-- Address of the entry of local head h and a slot (R169). -/
def State.ptAddr (s : State) (m : Nat) (c : Cache) (h slot : Nat) : Nat :=
  s.objN (kKv m 6) + 16 * (c.ptFirst + h * c.pages + slot)

/-- A page-table entry (Table 7-4). -/
structure PtEntry where
  valid : Bool
  frame : Nat
  ptag : Nat
  fill : Nat
deriving DecidableEq, Repr

def State.ptEntry (s : State) (a : Nat) : PtEntry :=
  let w0 := s.rdN a 8
  let w1 := s.rdN (a + 8) 8
  ⟨nbit w0 63, nfld w0 47 0, nfld w1 63 32, nfld w1 8 0⟩

/-- Write an entry whole (R168). -/
def State.setPtEntry (s : State) (a : Nat) (p : PtEntry) : State :=
  (s.wrN a 8 ((if p.valid then 2 ^ 63 else 0) + p.frame)).wrN (a + 8) 8 (p.ptag * 2 ^ 32 + p.fill)

def PtEntry.invalid : PtEntry := ⟨false, 0, 0, 0⟩

/-- Address of a token row in a frame: K region, then V region (R167). -/
def Cache.rowAddr (c : Cache) (frame : Nat) (v : Bool) (pos : Nat) : Nat :=
  frame + (if v then c.P * c.row else 0) + pos % c.P * c.row

/-! ### Frames (R172) -/

/-- Ranges that a loaded plan takes: what the Placer wrote, its lode map, its staged outputs (R191). -/
def PlanSt.ranges (p : PlanSt) : List (Nat × Nat) :=
  (p.place.lodeAddr, 32 + 32 * p.place.recs.length) :: (p.place.writes.map fun w => (w.1, w.2.length)) ++ p.place.outs.map fun o => (o.addr, o.len)

/-- What a frame of instance m must not meet: claimed ranges, plans, bound frames, the save area, the speculative region, the page table and the capture rings. -/
def State.takenRanges (s : State) (m : Nat) : List (Nat × Nat) :=
  let x := s.inst m
  x.claims ++ (x.plans.flatMap fun p => p.2.ranges) ++ x.frames ++ [(s.objN (kInst m 7 1), saveArea), (s.objN (kAssay m 0xc), s.objN (kAssay m 0xd)), (s.objN (kKv m 6), 16 * 2 ^ 20)]
    ++ (List.range 256).filterMap fun k =>
      let c := s.obj (okey (0x4500 + k) 1)
      if bit c 63 ∧ fld c 59 56 = m then some (s.objN (okey (0x4500 + k) 0x12), s.objN (okey (0x4500 + k) 0x13) * (fld c 55 52 + 1)) else none

/-- The first aligned place from `a` on that meets nothing taken. -/
def nextFree (taken : List (Nat × Nat)) (hi size align : Nat) : Nat → Nat → Option Nat
  | 0, _ => none
  | k + 1, a =>
    let a := roundUp a align
    if hi < a + size then none
    else match taken.find? fun r => decide (a < r.1 + r.2) && decide (r.1 < a + size) with
      | none => some a
      | some r => nextFree taken hi size align k (r.1 + r.2)

/-- A place for a frame in the instance's stack range: the Placer's choice, a free value (log entry 30). -/
def State.placeFrame (s : State) (m size align : Nat) : Option Nat :=
  let lo := (s.inst m).stackBase
  let quota := s.objN (kInst m 1 4)
  let taken := s.takenRanges m
  let fuel := 2 * taken.length + 2
  match nextFree taken (lo + quota) size align fuel (lo + s.freeNow.toNat % (quota + 1)) with
  | some a => some a
  | none => nextFree taken (lo + quota) size align fuel lo

/-- Bind a frame to an entry: it reads as zeros and is charged; none when the quota or the range cannot cover it (R172). -/
def State.bindFrame (s : State) (m : Nat) (c : Cache) (a ptag : Nat) : Option State :=
  if s.objN (kKv m 5) < s.objN (kKv m 4) + c.frame then none
  else match s.placeFrame m c.frame c.align with
    | none => none
    | some f =>
      let s := (s.tookFree.zeroRange f c.frame).setPtEntry a ⟨true, f, ptag, 0⟩
      let s := s.count (kKv m 4) 64 c.frame
      some (s.upInst m fun x => { x with frames := (f, c.frame) :: x.frames })

/-- Unbind an entry's frame: zeroed and no longer charged (R178). -/
def State.unbindFrame (s : State) (m : Nat) (c : Cache) (a : Nat) : State :=
  let p := s.ptEntry a
  if !p.valid then s
  else
    let s := (s.zeroRange p.frame c.frame).setPtEntry a PtEntry.invalid
    let s := s.setN (kKv m 4) (s.objN (kKv m 4) - c.frame)
    s.upInst m fun x => { x with frames := x.frames.filter fun f => f.1 != p.frame }

/-! ### Cache commands (R166, R178) -/

/-- Whether a record's fields are in range (Table 7-2). -/
def Cache.ok (c : Cache) : Bool :=
  decide (c.kind ≤ 1) && [0x08, 0x09, 0x0A, 0x0B].contains c.fmt && decide (c.mode ≤ 1) && [64, 128, 192, 256].contains c.d
    && decide (1 ≤ c.heads) && decide (c.heads ≤ 256) && decide (1 ≤ c.headCount) && decide (c.headLo + c.headCount ≤ c.heads)
    && (if c.ring then decide (1 ≤ c.window) && decide (c.window ≤ 2 ^ 24) && decide (c.maxTokens = 0) else decide (1 ≤ c.maxTokens))
    && decide (c.flags ≤ 1) && !c.reserved && (!c.t8 || (decide (c.headLo = 0) && decide (c.headCount = c.heads)))

/-- Entries that live caches hold, as ranges of the page table. -/
def State.ptHeld (s : State) (m : Nat) : List (Nat × Nat) :=
  (List.range 256).filterMap fun k =>
    let c := s.cache m k
    if c.state = 1 then some (c.ptFirst, c.headCount * c.pages) else none

/-- kv_status after a command. -/
def State.kvStatus (s : State) (m cmd cache err : Nat) : State := s.setN (kKv m 3) (cmd * 2 ^ 56 + cache * 2 ^ 48 + err)

/-- Every entry address of a cache. -/
def State.ptAll (s : State) (m : Nat) (c : Cache) : List Nat :=
  (List.range c.headCount).flatMap fun h => (List.range c.pages).map fun k => s.ptAddr m c h k

/-- Create a cache (R166). -/
def State.kvCreate (s : State) (m k : Nat) : State × Nat :=
  let c := s.cache m k
  if c.state = 1 ∨ !c.ok then (s, 0x0007)
  else
    let need := c.headCount * c.newPages
    if 2 ^ 20 < s.objN (kKv m 7) + need then (s, 0x000A)
    else match nextFree (s.ptHeld m) (2 ^ 20) need 1 258 0 with
      | none => (s, 0x000A)
      | some first =>
        let s := ((s.wrN (c.addr + 0x14) 4 c.newPages).wrN (c.addr + 0x18) 4 first).wrN c.addr 1 1
        let s := s.zeroRange (s.objN (kKv m 6) + 16 * first) (16 * need)
        (s.setN (kKv m 7) (s.objN (kKv m 7) + need), 0)

/-- Drop the poisoned mark of a cache (R225). -/
def State.cleanCache (s : State) (m k : Nat) : State := s.clrObj (kAssay m (0x11 + k / 64)) (2 ^ (k % 64))

/-- Release a cache: frames zeroed and unbound, entries free, state 0 (R178). -/
def State.kvRelease (s : State) (m k : Nat) : State :=
  let c := s.cache m k
  let s := s.forEach (s.ptAll m c) fun s a => s.unbindFrame m c a
  let s := (s.wrN c.addr 1 0).setN (kKv m 7) (s.objN (kKv m 7) - c.headCount * c.pages)
  (s.cleanCache m k).upInst m fun x => { x with kv := TMap.del x.kv k }

/-- Truncate a linear cache to position a (R178, R225). -/
def State.kvTruncate (s : State) (m k a : Nat) : State :=
  let c := s.cache m k
  let s := s.forEach (List.range c.headCount) fun s h =>
    s.forEach (List.range c.pages) fun s j =>
      let e := s.ptAddr m c h j
      let p := s.ptEntry e
      if a ≤ j * c.P then s.unbindFrame m c e
      else if p.valid ∧ a < (j + 1) * c.P then s.setPtEntry e { p with fill := a % c.P }
      else s
  let mark := TMap.get (fun _ => (⟨[], 0⟩ : KvMark)) (s.inst m).kv k
  if a < mark.firstBad then s.cleanCache m k else s

/-- Bind a list of entries, or nothing when one cannot be bound. -/
def State.bindAll (s : State) (m : Nat) (c : Cache) : List (Nat × Nat) → Option State
  | [] => some s
  | (a, ptag) :: rest =>
    if (s.ptEntry a).valid then s.bindAll m c rest
    else match s.bindFrame m c a ptag with
      | none => none
      | some s' => s'.bindAll m c rest

/-- Prebind a cache up to position a; a ring whole (R178). -/
def State.kvPrebind (s : State) (m k a : Nat) : State × Nat :=
  let c := s.cache m k
  let count := if c.ring then c.pages else min c.pages (a / c.P + 1)
  let list := (List.range c.headCount).flatMap fun h => (List.range count).map fun j => (s.ptAddr m c h j, j)
  match s.bindAll m c list with
  | some s' => (s', 0)
  | none => (s, 0x000A)

/-- A kv_command by number, with its status (R178). -/
def State.kvCommand (s : State) (m v : Nat) : State :=
  let cmd := nfld v 63 56
  let k := nfld v 55 48
  let a := nfld v 31 0
  let c := s.cache m k
  let running := (s.coresOf m).any fun n => s.coreState n = 1
  let done (r : State × Nat) : State := r.1.kvStatus m cmd k r.2
  if cmd = 1 then done (s.kvCreate m k)
  else if c.state ≠ 1 then done (s, 0x0007)
  else match cmd with
    | 2 => if running then done (s, 0x000B) else done (s.kvRelease m k, 0)
    | 3 => if c.ring then done (s, 0x0007) else if running then done (s, 0x000B) else done (s.kvTruncate m k a, 0)
    | 4 => done (s.kvPrebind m k a)
    | _ => done (s, 0x0007)

end Sys2Proof.Machine
end

