-- ==== Sys2Proof/Machine/Grant.lean ====
section
/-! DEFINITION. Who holds the cores of a partition: save, restore, scrub, grants, slices and safety slots (R119, R235-R245, R373). -/

namespace Sys2Proof.Machine

def kSched (sub : Nat) : Nat := okey 0x4c00 sub

/-- The scheduler core runs: while it restarts, slice changes, pre-emptions, mailbox consumption, starts, re-placements and teardown completion wait (R389, Table 15-8). -/
def State.schedUp (s : State) : Bool := decide (s.objN (kSched 1) = 1)

/-! ### Saved-state images (R237, R238) -/

/-- Bytes of a saved-state image (R238). -/
def imageBytes : Nat := 10862592

/-- Slot of core n in the save area of instance m (R237). -/
def State.saveAddr (s : State) (m n : Nat) : Nat := s.objN (kInst m 7 1) + n * saveSlot

/-- Descriptor fields of an op word, in field order (Tables 5-7 to 5-14). -/
def descFields (op : OpWord) : List Nat :=
  let o := opOf op
  if o = 0x20 ∨ o = 0x21 ∨ o = 0x28 then [fld op 95 92, fld op 91 88]
  else if o = 0x22 then [fld op 95 92]
  else if o = 0x23 ∨ o = 0x29 then
    [fld op 77 74] ++ (if fld op 61 60 = 2 then [fld op 59 55 % 16] else []) ++ (if fld op 54 53 = 2 then [fld op 52 48 % 16] else [])
  else if 0x43 ≤ o ∧ o ≤ 0x49 then [fld op 95 92, fld op 91 88, fld op 87 84, fld op 83 80]
  else if o = 0x60 ∨ o = 0x61 ∨ o = 0x64 then [fld op 95 92, fld op 91 88]
  else if 0x70 ≤ o ∧ o ≤ 0x72 then [fld op 87 84, fld op 83 80]
  else if o = 0x91 then [fld op 93 90]
  else []

/-- Scalar register fields of an op word, in field order. -/
def scalarFields (op : OpWord) : List Nat :=
  let o := opOf op
  if o = 0x20 ∨ o = 0x22 then [fld op 65 61]
  else if o = 0x21 then [fld op 65 61, fld op 60 56]
  else if o = 0x28 then [fld op 65 61, fld op 60 56, fld op 55 51]
  else if o = 0x23 ∨ o = 0x29 then [fld op 59 55, fld op 52 48, fld op 46 42, fld op 41 37, fld op 36 32]
  else if o = 0x40 ∨ o = 0x41 then [fld op 79 75]
  else if o = 0x42 then [fld op 43 39]
  else if 0x43 ≤ o ∧ o ≤ 0x49 then [fld op 69 65]
  else if o = 0x4f then [fld op 95 91, fld op 90 86]
  else if o = 0x61 then [fld op 85 81]
  else if o = 0x70 then [fld op 79 75]
  else if o = 0x71 then [fld op 79 75, fld op 74 70, fld op 69 65, fld op 60 56]
  else if o = 0x72 then [fld op 79 75, fld op 74 70, fld op 69 65]
  else []

/-- A queue record of Table 10-4: op word, state, progress (free values, log entry 35), the descriptors and scalars read at dispatch. -/
def queueRecord (fresh : Nat) (o : QOp) : List Byte :=
  let ds := (descFields o.op).flatMap fun i => leBytes 64 (TMap.get (fun _ => 0#512) o.tregs i).toNat
  let ss := (scalarFields o.op).flatMap fun i => leBytes 8 (if i = 0 then 0 else (TMap.get (fun _ => 0#64) o.sregs i).toNat)
  let progress := if o.started then leBytes 8 (Config.freeValue fresh).toNat ++ leBytes 8 (Config.freeValue (fresh + 1)).toNat else leBytes 16 0
  leBytes 16 o.op.toNat ++ leBytes 1 (if o.started then 2 else 1) ++ leBytes 7 0 ++ progress ++ slice ds 0 256 ++ slice ss 0 64 ++ leBytes 24 0

/-- The records of a queue of a depth, empty ones zero. -/
def queueRecords (fresh depth : Nat) (l : List QOp) : List Byte := slice ((l.take depth).flatMap (queueRecord fresh)) 0 (384 * depth)

/-- The controller-state section of core n's image (Table 10-4). -/
def State.ctlSection (s : State) (m n : Nat) : List Byte :=
  let c := s.core n
  let inv := (c.seg.map (·.inv)).getD 0
  let direct := (c.seg.map (·.init.isSome)).getD false
  let stopped := if c.slab.any (·.started) then fld s.freeNow 0 0 else 0
  let head := leBytes 4 0x5641535a ++ leBytes 2 1 ++ leBytes 1 n ++ leBytes 1 m ++ leBytes 4 imageBytes
    ++ leBytes 4 (stopped + (if direct then 4 else 0)) ++ leBytes 8 s.nowN ++ leBytes 8 (s.pc n) ++ leBytes 8 (s.objN (kSr n))
    ++ leBytes 4 (s.objN (kArith n)) ++ leBytes 4 ((c.elapsed + (s.nowN - c.lastRetire.toNat)) / 1000) ++ leBytes 8 inv ++ leBytes 8 0
  let regs := ((List.range 32).flatMap fun i => leBytes 8 (c.s i).toNat) ++ ((List.range 16).flatMap fun i => leBytes 64 (c.t i).toNat)
    ++ ((List.range 8).flatMap fun i => leBytes 4 (c.p i).toNat) ++ ((List.range 32).flatMap fun i => leBytes 4 (s.ctr n i))
  let bank (b : Nat) : List Byte :=
    let i := TMap.get (fun _ => BankInfo.empty) c.banks b
    let cls := match i.cls with
      | none => 0
      | some k => k + 1
    leBytes 8 (cls + (if i.sat then 4 else 0) + (if i.below then 8 else 0) + (if i.special then 16 else 0) + wrapInt 16 i.eacc * 2 ^ 16)
  let slot (g : Nat) : List Byte :=
    let x := c.slot g
    leBytes 1 x.isOpen.toNat ++ leBytes 1 x.runB.toNat ++ leBytes 1 (x.trf.t1.toNat * 4 + x.trf.t2.toNat * 2 + x.trf.t3.toNat)
      ++ leBytes 1 x.trf.rotK ++ leBytes 1 x.trf.laneRot ++ leBytes 3 0 ++ leBytes 4 x.group.toNat ++ leBytes 4 0 ++ leBytes 8 x.sig.toNat ++ leBytes 8 0
  let sigs := slice (c.pend.flatMap fun p => leBytes 16 p.op.toNat) 0 128
  let queues := queueRecords s.free 4 c.slab ++ queueRecords s.free 4 c.readout ++ queueRecords s.free 16 c.mica
    ++ queueRecords s.free 16 c.dma ++ queueRecords s.free 4 c.pebble
  head ++ regs ++ ((List.range 4).flatMap bank) ++ ((List.range 4).flatMap slot) ++ sigs ++ queues

/-- Logical lane order of the Mica registers of a core with its open transforms (R211). -/
def CoreSt.logicalLanes (c : CoreSt) : List (Nat × Word32) :=
  let rot := if c.trf.t3 then c.trf.laneRot else 0
  c.vregs.map fun x => (x.1 / 256 * 256 + (x.1 % 256 + 256 - rot) % 256, x.2)

/-- Write the image of core n into its slot (Table 10-3): listed values only, over zeros. -/
def State.writeImage (s : State) (m n : Nat) : State :=
  let a := s.saveAddr m n
  let c := s.core n
  let s1 := (s.zeroRange a imageBytes).wr a (s.ctlSection m n)
  let s2 := s1.forEach c.tags fun s x =>
    let b := a + 0xc000 + x.1 / 4
    s.wrN b 1 (s.rdN b 1 + x.2 % 4 * 4 ^ (x.1 % 4))
  let s3 := s2.forEach c.logicalLanes fun s x => s.wrN (a + 0x1c000 + 4 * x.1) 4 x.2.toNat
  let s4 := s3.forEach c.acc fun s x => s.wrN (a + 0x5c000 + 8 * x.1) 8 x.2.toNat
  (s4.copyRange (lstoreBase n) (a + 0x25c000) lstoreSize).tookFree 2

/-- Ops of core n that its Pebble has not started return to the core (Table 10-2). -/
def State.returnPebble (s : State) (n : Nat) : State :=
  (s.upCore n fun c => { c with pebble := c.pebble.map fun o => if o.ran then o else { o with started := false } }).dropPebble n

/-- Save core n for its holder (R236-R239): a core that an exception has stopped is not saved (R241). -/
def State.saveCore (s : State) (n : Nat) : State :=
  let m := s.holder n
  if (s.core n).hold = .stopped then s
  else
    let s := (s.returnPebble n).writeImage m n
    let c := s.core n
    let kept : CoreSt := { c with elapsed := c.elapsed + (s.nowN - c.lastRetire.toNat), preempt := false, stepping := false }
    let s := s.upInst m fun x => { x with saved := TMap.put x.saved n kept }
    let s := (s.count (kSched 3) 64).count (kSched 5) 64 imageBytes
    (s.setCore n { CoreSt.init with lastWorld := c.lastWorld }).setN (kCore n 0 1) 2

/-! ### Grants (R119, R240, R242, R373) -/

/-- The scrub of a core: registers, banks, Mica registers, counters, generator and local store read zero (R119, R242, R373; log entry 36). -/
def State.scrubCore (s : State) (n : Nat) : State :=
  let s := (s.setCore n { CoreSt.init with lastWorld := (s.core n).lastWorld }).zeroRange (lstoreBase n) lstoreSize
  let s := s.forEach (List.range 32) fun s i => s.setN (kCtr n i) 0
  (((s.setN (kSr n) 0).setN (kPc n) 0).setN (kCore n 4 9) 0).syncLevels n

/-- Give core n to instance m: holder, world, exception objects cleared (R139). -/
def State.holdCore (s : State) (n m : Nat) : State :=
  let w := s.objN (kInst m 0 4)
  let s := (((s.setN (kCore n 0 2) m).setN (kCore n 0 3) w).upCore n fun c => { c with lastWorld := some (w == 1) })
  let s := s.forEach [2, 3, 4, 5] fun s k => s.setN (kCore n 4 k) 0
  (s.setN (kCore n 4 8) 0).syncLevels n

/-- Restore core n for instance m from its saved state and image (R240). -/
def State.restoreCore (s : State) (n m : Nat) (c : CoreSt) : State :=
  let a := s.saveAddr m n
  let s := s.upInst m fun x => { x with saved := TMap.del x.saved n }
  let s := ((s.setCore n { c with lastRetire := s.now }).copyRange (a + 0x25c000) (lstoreBase n) lstoreSize).holdCore n m
  let s := s.forEach (List.range 32) fun s i => s.setN (kCtr n i) (s.rdN (a + 0x560 + 4 * i) 4)
  let s := ((s.setN (kPc n) (s.rdN (a + 0x18) 8)).setN (kSr n) (s.rdN (a + 0x20) 8)).setN (kArith n) (s.rdN (a + 0x28) 4)
  let direct := match c.seg with
    | none => 0
    | some g => match s.inv? m g.inv with
      | some v => if v.req.kind = 1 then v.req.header else 0
      | none => 0
  let s := ((s.setN (kCore n 4 9) direct).count (kSched 4) 64).count (kSched 5) 64 imageBytes
  s.setN (kCore n 0 1) (if c.seg.isSome then 1 else 0)

/-- Grant core n to instance m: restored when it has saved state there, else scrubbed (R242). -/
def State.grantCore (s : State) (n m : Nat) : State :=
  match TMap.find (s.inst m).saved n with
  | some c => s.restoreCore n m c
  | none => ((s.scrubCore n).holdCore n m).setN (kCore n 0 1) 0

/-- Take core n from its holder: it idles, held by none. -/
def State.freeCore (s : State) (n : Nat) : State :=
  ((s.scrubCore n).setN (kCore n 0 2) 0xff).setN (kCore n 0 1) 0

/-! ### Partitions -/

def State.part (s : State) (p : Nat) : PartSt := TMap.get (fun _ => PartSt.init) s.parts p
def State.setPart (s : State) (p : Nat) (x : PartSt) : State := { s with parts := TMap.set (fun _ => PartSt.init) s.parts p x }
def State.upPart (s : State) (p : Nat) (f : PartSt → PartSt) : State := s.setPart p (f (s.part p))

/-- Cores and members of a partition (Table 10-1). -/
def State.partCores (s : State) (p : Nat) : List Nat := (List.range 16).filter fun n => s.oBit (kPart p 1) n
def State.partMembers (s : State) (p : Nat) : List Nat := (List.range 16).filter fun m => s.oBit (kPart p 5) m
def State.partMode (s : State) (p : Nat) : Nat := s.objN (kPart p 2)
def State.partHolder (s : State) (p : Nat) : Nat := s.objN (kPart p 4)

/-- A slot member: in a sliced partition, with a loaded plan that names a cadence job (R243). -/
def State.slotMember (s : State) (m : Nat) : Bool :=
  decide (s.partMode (s.objN (kInst m 1 1)) = 2) && (s.inst m).plans.any fun p => p.2.job.isSome

/-- Whether a member has work that a slice serves (R242). -/
def State.hasWork (s : State) (m : Nat) : Bool :=
  let x := s.inst m
  (decide (s.instState m = 1) || decide (s.instState m = 2) || decide (s.instState m = 5))
    && (!x.runq.isEmpty || !x.invs.isEmpty || !x.saved.isEmpty)

/-- The member that a partition passes to: the next one with work after the last holder, slot members apart (R242, R243). -/
def State.nextMember (s : State) (p : Nat) : Option Nat :=
  let last := (s.part p).lastHolder
  ((List.range 16).map fun i => (last + 1 + i) % 16).find? fun m => (s.partMembers p).contains m && !s.slotMember m && s.hasWork m

/-- Bound of a save or a restore of n cores, in ns (R239): 90,000 cycles of the slowest cluster, or 10 µs and the bytes at the guarantee. -/
def State.saveBound (s : State) (p n : Nat) : Nat :=
  let per := (s.partCores p).foldl (fun x c => max x (s.period c)) 0
  max (90 * per) (10000 + n * imageBytes / s.objN (kSched 2))

/-- Lead time of a partition (R244). -/
def State.leadNs (s : State) (p : Nat) : Nat :=
  let cs := s.partCores p
  let per := cs.foldl (fun x c => max x (s.period c)) 0
  s.saveBound p cs.length + 12 * per + 2000

/-- Show the lead time (R244). -/
def State.refreshLead (s : State) : State :=
  s.forEach (List.range 16) fun s p => s.setN (kPart p 6) (s.leadNs p)

/-- Grant a partition's cores to a member, with what is left of its slice; a grant from another member counts (R242). -/
def State.grantPart (s : State) (p m left : Nat) : State :=
  let prev := (s.part p).lastHolder
  let s := s.forEach (s.partCores p) fun s n => s.grantCore n m
  let s := if prev ≠ m ∧ prev ≠ 16 then s.count (kPart p 7) 64 else s
  let s := s.setN (kPart p 4) m
  s.upPart p fun x => { x with left := left, since := some s.now, saving := false, next := none, lastHolder := if s.slotMember m then x.lastHolder else m }

/-- Length of a member's slice in ns. -/
def State.sliceNs (s : State) (m : Nat) : Nat := s.objN (kInst m 1 2) * 1000

/-- Nobody holds a partition's cores. -/
def State.releasePart (s : State) (p : Nat) : State :=
  ((s.forEach (s.partCores p) fun s n => s.freeCore n).setN (kPart p 4) 0xff).upPart p fun x => { x with since := none, next := none, saving := false }

/-- A sliced partition that nobody holds, with no slot at hand, goes to the next member with work (R242). -/
def State.schedule (s : State) (p : Nat) : State :=
  let x := s.part p
  if s.partMode p ≠ 2 ∨ s.partHolder p ≠ 0xff ∨ x.slot.isSome ∨ x.interrupted.isSome ∨ x.saving then s
  else match s.nextMember p with
    | none => s
    | some m => s.grantPart p m (s.sliceNs m)

/-! ### Safety slots (R243-R245) -/

/-- The instance and job that an entry's action 0x1 names (Table 3-3). -/
def State.cadJob (s : State) (e : Nat) : Nat × Nat := (fld (s.cadArg e) 35 32, fld (s.cadArg e) 15 0)

/-- The plan handle of instance m that a job number starts. -/
def State.jobHandle (s : State) (m job : Nat) : Option Nat := ((s.inst m).plans.find? fun p => p.2.job = some job).map (·.1)

/-- The predicted due instant of an armed entry, as a raw counter value (R244). -/
def State.predictDue (s : State) (e : Nat) : Option Nat :=
  if !s.cadEnabled e then none
  else if s.cadSensor e then
    let a := s.cad e 1
    let line := fld a 47 32
    let st := TMap.get (fun _ => StreamSt.init) s.streams (fld a 52 48)
    let into := if line = 0xffff then 0 else if line = 0xfffe then st.feNs else line * s.objN (okey (0x5420 + fld a 52 48) 0xa) / 1000
    some (s.objN (okey (0x5420 + fld a 52 48) 8) + fld (s.cad e 2) 31 0 * s.objN (okey (0x5420 + fld a 52 48) 9) + into)
  else if s.cadNext e = 0 then none
  else some (s.nowN + ((s.cadNext e : Int) - s.netTime).toNat)

/-- Pre-emption instants of the coming slots of a partition. -/
def State.slotInstants (s : State) (p : Nat) : List Nat :=
  (List.range 1024).filterMap fun e =>
    let j := s.cadJob e
    if s.cadAction e = 1 ∧ s.cadEnabled e ∧ s.slotMember j.1 ∧ s.objN (kInst j.1 1 1) = p ∧ (s.jobHandle j.1 j.2).isSome then
      (s.predictDue e).map fun d => d - s.leadNs p
    else none

/-- Whether the interrupted holder can be restored before the next slot (R245). -/
def State.slotFits (s : State) (p : Nat) : Bool :=
  let t := s.nowN + s.saveBound p (s.partCores p).length + s.leadNs p
  (s.slotInstants p).all fun x => decide (t ≤ x)

/-- A slice holder without work yields at once; an interrupted slice resumes when it fits (R242, R245, R320). -/
def State.yieldSlice (s : State) (p : Nat) : State :=
  let h := s.partHolder p
  if s.partMode p ≠ 2 ∨ h = 0xff ∨ (s.part p).slot.isSome ∨ (s.part p).saving ∨ s.hasWork h ∨ s.slotMember h then s
  else match (s.part p).interrupted with
    | some (holder, left) =>
      if s.slotFits p then (s.upPart p fun x => { x with interrupted := none }).grantPart p holder left else s.releasePart p
    | none => match s.nextMember p with
      | none => s
      | some m => s.grantPart p m (s.sliceNs m)

/-- A slot begins: its member is granted the cores; late when its due instant has passed (R243). -/
def State.beginSlot (s : State) (p m h : Nat) (due : Word64) : State :=
  let s := if due.toNat < s.nowN then s.count (kSched 7) 32 else s
  let s := if s.partHolder p = m then s else s.grantPart p m 0
  s.upPart p fun x => { x with slot := some (m, h, s.now) }

/-- A slot of a member ends: overruns count, the next waiting slot begins, or the interrupted holder is restored when it fits, or the cores go to the next member with work (R243, R245). -/
def State.endSlot (s : State) (m h : Nat) : State :=
  let p := s.objN (kInst m 1 1)
  match (s.part p).slot with
  | none => s
  | some (m', h', began) =>
    if m' ≠ m ∨ h' ≠ h then s
    else
      let over_ := decide (s.objN (kInst m (0x10 + h) 2) * 1000 < s.nowN - began.toNat)
      let s := if over_ then (s.count (kSched 6) 32).count (kInst m (0x10 + h) 0xe) 32 else s
      let s := s.upPart p fun x => { x with slot := none }
      match (s.part p).waitSlots with
      | (m2, h2, due) :: rest => (s.upPart p fun x => { x with waitSlots := rest }).beginSlot p m2 h2 due
      | [] =>
        match (s.part p).interrupted with
        | some (holder, left) =>
          if s.slotFits p then (s.upPart p fun x => { x with interrupted := none }).grantPart p holder left
          else s.releasePart p
        | none => (s.releasePart p).schedule p

end Sys2Proof.Machine
end

