-- ==== Sys2Proof/Machine/Garnet.lean ====
section
/-! DEFINITION. Garnet's main path: pass descriptors and their checks, submission, start and completion of passes (R298-R308). What the raster stages resolve is an operand (log entry 40). -/

namespace Sys2Proof.Machine

def kGarnet (sub : Nat) : Nat := okey 0x5800 sub

def State.gfxInst (s : State) : Nat := s.objN (kGarnet 2)
def State.ringHead (s : State) : Nat := s.objN (kGarnet 5)
def State.ringTail (s : State) : Nat := s.objN (kGarnet 6)
def State.ringEntries (s : State) : Nat := s.objN (kGarnet 4)

/-- The partition with the graphics flag (R234). -/
def State.gfxPartition (s : State) : Option Nat := (List.range 16).find? fun p => s.oBit (kPart p 3) 0

/-! ### Descriptors (Tables 12-6, 12-7, 12-8) -/

/-- The 128 bytes of the pass at ring_head. -/
def State.passDesc (s : State) : List Byte := s.rd (s.objN (kGarnet 3) + 128 * s.ringHead) 128

/-- Bytes per pixel of a colour surface format; 0 for a code that is none. -/
def surfaceBytes (fmt : Nat) : Nat :=
  match fmt with
  | 1 | 2 | 4 => 4
  | 3 => 2
  | 5 => 8
  | _ => 0

/-- Whether a format code may be a texture (Table 12-8). -/
def textureFormat (f : Nat) : Bool :=
  [1, 4, 5, 7].contains f || (decide (0x10 ≤ f) && decide (f ≤ 0x14)) || (decide (0x20 ≤ f) && decide (f ≤ 0x27))

/-- Fields of a pass descriptor. -/
def pdWidth (d : List Byte) : Nat := leAt d 4 2
def pdHeight (d : List Byte) : Nat := leAt d 6 2
def pdFormat (d : List Byte) : Nat := leAt d 8 1
def pdFlags (d : List Byte) : Nat := leAt d 0xa 1
def pdPresentTo (d : List Byte) : Nat := leAt d 0xb 1
def pdPitch (d : List Byte) : Nat := leAt d 0xc 4
def pdColour (d : List Byte) : Nat := leAt d 0x10 8
def pdDraws (d : List Byte) : Nat := leAt d 0x28 8
def pdCount (d : List Byte) : Nat := leAt d 0x30 4
def pdCores (d : List Byte) : Nat := leAt d 0x34 2
def pdBin (d : List Byte) : Nat := leAt d 0x38 8
def pdBinSize (d : List Byte) : Nat := leAt d 0x40 8
def pdProgram (d : List Byte) : Nat := leAt d 0x48 8
def pdOps (d : List Byte) : Nat := leAt d 0x50 4
def pdEstimate (d : List Byte) : Nat := leAt d 0x54 4
def pdFence (d : List Byte) : Nat := leAt d 0x58 8

/-- Whether a pass descriptor is well formed (Table 12-6). -/
def passOk (d : List Byte) : Bool :=
  let size (n : Nat) : Bool := decide (1 ≤ n) && decide (n ≤ 8192)
  let z := leAt d 0x20 4
  size (pdWidth d) && size (pdHeight d) && decide (surfaceBytes (pdFormat d) ≠ 0) && (decide (leAt d 9 1 = 1) || decide (leAt d 9 1 = 4))
    && decide (pdFlags d < 16) && decide (nfld (pdPresentTo d) 7 6 = 0) && decide (nfld (pdPresentTo d) 3 2 = 0) && decide (pdPresentTo d % 4 < 3)
    && decide (pdPitch d % 64 = 0) && decide (pdWidth d * surfaceBytes (pdFormat d) ≤ pdPitch d) && decide (pdColour d % 64 = 0)
    && decide (z ≤ 0x3f800000) && decide (leAt d 0x25 3 = 0) && decide (1 ≤ pdCount d) && decide (pdCount d ≤ 65535) && decide (leAt d 0x36 2 = 0)
    && decide (1 ≤ pdOps d) && decide (pdOps d ≤ 2048) && decide (pdFence d % 16 = 0) && decide (leAt d 0x60 32 = 0)

/-- Whether a draw record is well formed (Table 12-7). -/
def drawOk (r : List Byte) : Bool :=
  let st := leAt r 0x24 4
  let ops := [nfld st 11 8, nfld st 7 4, nfld st 3 0, nfld st 15 12]
  decide (leAt r 0 1 ≤ 3) && decide (leAt r 1 1 ≤ 2) && decide (1 ≤ leAt r 2 1) && decide (leAt r 2 1 ≤ 7) && decide (leAt r 3 1 < 32)
    && decide (1 ≤ leAt r 4 4) && decide (leAt r 4 4 ≤ 2 ^ 24) && decide (leAt r 0x22 1 ≤ 7) && decide (leAt r 0x23 1 ≤ 3) && ops.all (fun x => decide (x ≤ 7))
    && decide (leAt r 0x38 1 ≤ 3) && decide (1 ≤ leAt r 0x39 1) && decide (leAt r 0x39 1 ≤ 64) && decide (leAt r 0x3a 6 = 0)

/-- Whether a texture descriptor is well formed. -/
def textureOk (t : List Byte) : Bool :=
  let size (n : Nat) : Bool := decide (1 ≤ n) && decide (n ≤ 8192)
  size (leAt t 8 2) && size (leAt t 0xa 2) && decide (1 ≤ leAt t 0xc 1) && decide (leAt t 0xc 1 ≤ 14) && textureFormat (leAt t 0xd 1)
    && decide (leAt t 0xe 1 ≤ 2) && decide (1 ≤ leAt t 0xf 1) && decide (leAt t 0xf 1 ≤ 16) && decide (leAt t 0x10 1 < 16)
    && decide (leAt t 0x10 1 % 4 ≤ 2) && decide (leAt t 0x10 1 / 4 ≤ 2) && (decide (leAt t 0x11 1 = 0) || decide (leAt t 0x11 1 = 2)) && decide (leAt t 0x12 14 = 0)

/-- Why the pass at ring_head fails before it is drawn: malformed (0x000D) or out of the graphics instance's reach (0x0003); 0 for neither (R299). -/
def State.passFault (s : State) : Nat :=
  let d := s.passDesc
  let m := s.gfxInst
  let cores := (List.range 16).filter fun n => nbit (pdCores d) n
  let mine := match s.gfxPartition with
    | none => false
    | some p => cores.all fun n => s.oBit (kPart p 1) n
  let reach (a n : Nat) (w : Bool) : Bool := s.engineMay m a n w
  if !s.engineMay m (s.objN (kGarnet 3) + 128 * s.ringHead) 128 false then 0x0003
  else if !passOk d ∨ !mine ∨ cores.isEmpty then 0x000D
  else if !(reach (pdColour d) (pdPitch d * pdHeight d) true && reach (pdDraws d) (64 * pdCount d) false && reach (pdBin d) (pdBinSize d) true
      && reach (pdProgram d) (16 * pdOps d) false && reach (pdFence d) 16 true) then 0x0003
  else
    let recs := (List.range (pdCount d)).map fun i => s.rd (pdDraws d + 64 * i) 64
    let one (r : List Byte) : Nat :=
      if !drawOk r then 0x000D
      else if leAt r 0x38 1 = 0 then 0
      else if !reach (leAt r 0x30 8) (32 * leAt r 0x38 1) false then 0x0003
      else if (List.range (leAt r 0x38 1)).all fun j => textureOk (s.rd (leAt r 0x30 8 + 32 * j) 32) then 0 else 0x000D
    (recs.map one).find? (· != 0) |>.getD 0

/-! ### Starting passes (R298, R307, R308) -/

/-- Offset of the program area and of batch slot k in a local store (R307). -/
def programArea : Nat := 0x780000
def batchSlot (k : Nat) : Nat := 0x7c0000 + 0x4000 * (k % 16)

/-- Whether core n runs a direct stream of the graphics instance. -/
def State.shadesOn (s : State) (n : Nat) : Bool :=
  decide (s.holder n = s.gfxInst) && decide (s.coreState n = 1) && (s.core n).seg.any fun g => g.init.isSome

/-- Cores that the pass at ring_head names. -/
def State.shadeCores (s : State) : List Nat := (List.range 16).filter fun n => nbit (pdCores s.passDesc) n

/-- Garnet looks at its ring: it starts the pass at the head when the main path is on and its cores are ready, copying the program to them; else it waits or idles (R298, R307, R308). -/
def State.garnetRun (s : State) : State :=
  if s.garnet.started then s
  else if !s.oBit (kGarnet 1) 0 ∨ s.domOff 8 ∨ 2 ≤ s.objN (okey 0x7c00 1) then s.setN (kGarnet 7) 4
  else if s.ringHead = s.ringTail then s.setN (kGarnet 7) 0
  else if s.passFault ≠ 0 then s.setN (kGarnet 7) 1
  else if s.shadeCores.all s.shadesOn then
    let d := s.passDesc
    let prog := s.rd (pdProgram d) (16 * pdOps d)
    let s := s.forEach s.shadeCores fun s n => s.wr (lstoreBase n + programArea) prog
    { s.setN (kGarnet 7) 1 with garnet := { s.garnet with started := true } }
  else if s.objN (kGarnet 7) = 3 then s
  else (s.setN (kGarnet 7) 3).orObj (kGarnet 8) 2

/-- A write of ring_tail (R298, R308). -/
def State.writeRingTail (s : State) (v : Word64) : Except Nat State :=
  let n := max s.ringEntries 1
  let pending := (s.ringTail + n - s.ringHead) % n
  if n ≤ v.toNat ∨ (v.toNat + n - s.ringHead) % n < pending then .error 0x0007
  else
    let t := if s.ringHead = s.ringTail then { s with garnet := { s.garnet with headSince := s.now } } else s
    .ok (t.setObj (kGarnet 6) v).garnetRun

/-- A write of gfx_instance (R308, R366). -/
def State.writeGfxInst (s : State) (v : Word64) : Except Nat State :=
  let m := v.toNat
  let member := match s.gfxPartition with
    | none => false
    | some p => decide (m < 16) && (s.partMembers p).contains m
  if m ≠ 0xff ∧ !member then .error 0x0007
  else if m ≠ 0xff ∧ s.secureIndex 0x5800 != decide (s.objN (kInst m 0 4) = 1) then .error 0x0004
  else if s.garnet.started then .error 0x000B
  else .ok (s.setObj (kGarnet 2) v).garnetRun

/-- A write of garnet_config, ring_base or ring_entries (R308). -/
def State.writeGarnet (s : State) (sub : Nat) (v : Word64) : Except Nat State :=
  if sub = 1 then .ok (s.setObj (kGarnet 1) v).garnetRun
  else if s.ringHead ≠ s.ringTail ∨ s.objN (kGarnet 7) ≠ 0 then .error 0x000B
  else .ok (s.setObj (kGarnet sub) v)

/-! ### The end of a pass (R298, R299, R301, R303) -/

/-- One resolved tile is written to the colour surface, clipped to it (R303). -/
def State.writeTile (s : State) (d : List Byte) (t : Nat × List Byte) : State :=
  let bpp := surfaceBytes (pdFormat d)
  let across := (pdWidth d + 31) / 32
  let x0 := t.1 % across * 32
  let y0 := t.1 / across * 32
  let w := min 32 (pdWidth d - x0)
  let h := min 32 (pdHeight d - y0)
  s.forEach (List.range h) fun s r => s.wr (pdColour d + (y0 + r) * pdPitch d + x0 * bpp) (slice t.2 (r * w * bpp) (w * bpp))

/-- The pass at ring_head ends with a status: fence, counts, events, the next pass (R298, R299). -/
def State.endPass (s : State) (status : Nat) : State :=
  let d := s.passDesc
  let fence := leBytes 4 (leAt d 0 4) ++ leBytes 2 status ++ leBytes 2 0 ++ leBytes 8 s.nowN
  let s := if s.engineMay s.gfxInst (pdFence d) 16 true then s.wr (pdFence d) fence else s
  let s := s.count (kGarnet 0xa) 32
  let s := if status = 0 then s.orObj (kGarnet 8) 1 else (s.count (kGarnet 0xb) 32).orObj (kGarnet 8) 4
  let s := s.setN (kGarnet 5) ((s.ringHead + 1) % max s.ringEntries 1)
  { s with garnet := { s.garnet with started := false, headSince := s.now } }.garnetRun

/-- The pass in progress fails because its instance faults or is destroyed, or Drowse is entered (R299). -/
def State.failPass (s : State) : State := if s.garnet.started then s.endPass 0x000B else s

/-- PASS_COMPLETE (R298, R299, R301, R303): the pass at ring_head ends; a pass that fails on its descriptor draws nothing. -/
def execPassComplete (pr : PassResult) (s : State) : Result :=
  if s.ringHead = s.ringTail ∨ !s.oBit (kGarnet 1) 0 && !s.garnet.started then .next s
  else
    let d := s.passDesc
    let fault := s.passFault
    if fault ≠ 0 then .next (s.endPass fault)
    else if !s.garnet.started then .next s
    else
      let peak := max (s.objN (kGarnet 9)) (min pr.binUsed (pdBinSize d))
      let s := s.setN (kGarnet 9) peak
      if pdBinSize d < pr.binUsed then .next (s.endPass 0x000A)
      else
        let s := s.forEach pr.tiles fun s t => if t.1 < (pdWidth d + 31) / 32 * ((pdHeight d + 31) / 32) then s.writeTile d t else s
        let s := s.forEach s.shadeCores fun s n =>
          let a := lstoreBase n + batchSlot 0
          if s.shadesOn n then (s.wr a (leBytes 64 0)).addCtr n n 31 1 0 (s.pc n) else s
        let s := if pr.status = 0#16 ∧ nbit (pdFlags d) 3 then
            let t := pdPresentTo d
            { s with garnet := { s.garnet with presents := s.garnet.presents ++ [(nfld t 5 4, t % 4, pdColour d, pdPitch d, pdFormat d)] } }
          else s
        .next (s.endPass pr.status.toNat)

end Sys2Proof.Machine
end

