-- ==== Sys2Proof/Machine/Regulator.lean ====
section
/-! DEFINITION. The stack controllers and the traffic regulator: shares, admission, buckets and pools, integrity, retirement, temperature (R267-R283, R368). -/

namespace Sys2Proof.Machine

def kMaster (i sub : Nat) : Nat := okey (0x5100 + i) sub
def kStack (st sub : Nat) : Nat := okey (0x5010 + st) sub

/-! ### Shares and f_s (R275, R277, R281, R282) -/

/-- Whether the requests of master i carry a deadline class of its own distribution: masters 16-26; all others are interleaved (R277). -/
def ownDistribution (i : Nat) : Bool := decide (16 ≤ i) && decide (i ≤ 26)

/-- The share of master i on a stack in MB/s (R277). -/
def State.share (s : State) (i st : Nat) : Rat :=
  let d := s.objN (kMaster i 2)
  let mask := if ownDistribution i && !nbit d 4 then d % 16 else 15
  let n := ((List.range 4).filter (nbit mask ·)).length
  if nbit mask st && decide (0 < n) then mkRat (s.guarantee i) n else 0

/-- Whether class c is a safety class (R274). -/
def State.safetyClass (s : State) (c : Nat) : Bool := s.oBit (okey 0x5000 4) c

/-- Whether an instance has a loaded plan that names a cadence job. -/
def State.hasJobPlan (s : State) (m : Nat) : Bool := (s.inst m).plans.any fun p => p.2.job.isSome

/-- Whether the share of master i is a safety share (R275). -/
def State.safetyShare (s : State) (i : Nat) : Bool :=
  s.safetyClass (s.objN (kMaster i 3)) || (decide (i < 16) && s.hasJobPlan i && s.safetyClass (s.objN (kMaster i 8)))

/-- Sum of shares on a stack over the masters that the test picks. -/
def State.sumShares (s : State) (st : Nat) (p : Nat → Bool) : Rat :=
  ((List.range 32).filter p).foldl (fun q i => q + s.share i st) 0

/-- The second condition of R281 on every stack. -/
def State.safetyFits (s : State) : Bool :=
  (List.range 4).all fun st => decide (s.sumShares st s.safetyShare ≤ 600000)

/-- Both conditions of R281 on every stack. -/
def State.admits (s : State) : Bool :=
  (List.range 4).all (fun st => decide (s.sumShares st (fun _ => true) ≤ 960000)) && s.safetyFits

/-- f_s (R282). -/
def State.shrink (s : State) (st : Nat) : Rat :=
  let n := s.sumShares st fun i => !s.safetyShare i
  if n = 0 then 1 else min 1 (((s.objN (kStack st 2) : Nat) - s.sumShares st s.safetyShare) / n)

/-- The regulator recomputes f_s after a change of `old` into `s` (R282, R283). -/
def State.reshare (s old : State) : State :=
  s.forEach (List.range 4) fun s st =>
    let f := s.shrink st
    if f = old.shrink st then s
    else (s.setN (kStack st 3) (f32ofRat f).toNat).orObj (okey 0x5000 9) 1

/-- Effective share of master i on a stack (R282). -/
def State.effShare (s : State) (i st : Nat) : Rat := if s.safetyShare i then s.share i st else s.share i st * s.shrink st

/-- Refill of the pool of class c on a stack in bytes per µs (R278). -/
def State.poolRate (s : State) (c st : Nat) : Rat :=
  let weight (k : Nat) : Nat := fld (s.obj (okey 0x5000 5)) (8 * k + 7) (8 * k)
  let w := ((List.range 8).map weight).sum
  let e := (List.range 32).foldl (fun q i => q + s.effShare i st) 0
  if w = 0 then 0 else ((s.objN (kStack st 2) : Nat) - e) * (weight c : Nat) / (w : Nat)

/-- Depth of a bucket or pool with the rate: burst_window of it (R277, R278). -/
def State.depth (s : State) (rate : Rat) : Rat := rate * mkRat (s.objN (okey 0x5000 7)) 1000

/-- BUCKET_REFILL (R277, R278): every 1 µs; tokens beyond the depth are discarded and none falls below zero. -/
def execBucketRefill (s : State) : Result :=
  let cap (r old : Rat) : Rat := max 0 (min (s.depth r) (old + r))
  let bucket := (List.range 128).foldl (fun b k => TMap.set (fun _ => 0) b k (cap (s.effShare (k % 32) (k / 32)) (TMap.get (fun _ => 0) s.bucket k))) s.bucket
  let pool := (List.range 32).foldl (fun b k => TMap.set (fun _ => 0) b k (cap (s.poolRate (k % 8) (k / 8)) (TMap.get (fun _ => 0) s.pool k))) s.pool
  .next { s with bucket := bucket, pool := pool }

/-! ### Admission of guarantees (R281) -/

/-- Take a changed state if what changed is admitted. -/
def State.admitted (s trial : State) (raises : Bool) : Except Nat State :=
  if raises && !trial.admits then .error 0x000A else .ok (trial.reshare s)

/-- A write of a guarantee (R281). -/
def State.writeGuarantee (s : State) (i : Nat) (v : Word64) : Except Nat State :=
  s.admitted (s.setObj (kMaster i 1) v) (decide (s.guarantee i < v.toNat))

/-- A write of preempt_guarantee, which is master 27's guarantee (R281, Table 10-1). -/
def State.writePreempt (s : State) (v : Word64) : Except Nat State :=
  s.admitted (s.setObj (kSched 2) v) (decide (s.objN (kSched 2) < v.toNat))

/-- GUARANTEE_WRITE (R281, R286). -/
def execGuaranteeWrite (src : Src) (i : Fin 32) (v : Word64) (s : State) : Result :=
  s.command src (0x5100 + i) 1 v fun _ s => s.writeGuarantee i v

/-- A write of safety_classes (R281). -/
def State.writeSafetyClasses (s : State) (v : Word64) : Except Nat State :=
  let t := s.setObj (okey 0x5000 4) v
  if t.safetyFits then .ok (t.reshare s) else .error 0x000A

/-- SAFETY_CLASSES_WRITE (R281). -/
def execSafetyClassesWrite (src : Src) (v : Word64) (s : State) : Result :=
  s.command src 0x5000 4 v fun _ s => s.writeSafetyClasses v

/-! ### Integrity (R267-R271) -/

/-- Spare rows of a bank (R271). -/
def sparesPerBank : Nat := 32

/-- Retire a row of a stack (R270, R271). -/
def State.retireRow (s : State) (st row : Nat) : State :=
  let bank := Config.stackBank st row
  let used := (s.retired.filter fun r => decide (r.1 = st) && decide (Config.stackBank st r.2 = bank)).length
  if used < sparesPerBank then
    let s := { s with retired := (st, row) :: s.retired, eccUnits := s.eccUnits.filter fun u => !(decide (u.1 = st) && decide (Config.stackRow st u.2 = row)) }
    ((s.count (kStack st 7) 16).setN (kStack st 8) (s.objN (kStack st 8) - 1)).orObj (kStack st 9) 2
  else s.orObj (kStack st 9) 8

/-- Interleaved address of an offset of a stack (R266). -/
def State.stackAddr (s : State) (st offset : Nat) : Nat :=
  let g := granule s.ileave
  offset / g * (4 * g) + st * g + offset % g

/-- A unit of a stack is corrected and written back (R267, R270). -/
def State.correctUnit (s : State) (st offset : Nat) : State :=
  let s := s.count (kStack st 4) 64
  if s.eccUnits.contains (st, offset) then s
  else
    let s : State := { s with eccUnits := (st, offset) :: s.eccUnits }
    let row := Config.stackRow st offset
    let n : Nat := (s.eccUnits.filter fun (u : Nat × Nat) => decide (u.1 = st) && decide (Config.stackRow st u.2 = row)).length
    if s.objN (kStack st 0xb) ≤ n then s.retireRow st row else s

/-- A unit of a stack is found uncorrectable: it is poisoned (R268, R270). -/
def State.poisonUnit (s : State) (st offset : Nat) : State :=
  let a := s.stackAddr st offset
  if s.poison.contains a then s
  else
    let s := { s with poison := a :: s.poison }
    let s := (((s.countSat (kStack st 5) 32).setN (kStack st 6) a).orObj (kStack st 9) 1).strataEvent 3
    s.retireRow st (Config.stackRow st offset)

/-- What a read of the unit at an offset finds. -/
def State.unitFound (s : State) (st offset : Nat) (err : UnitErr) : State :=
  match err with
  | .clean => s
  | .corrected => s.correctUnit st offset
  | .uncorrectable => s.poisonUnit st offset

/-- PATROL_SCRUB (R269): the scrub reads a unit; its return to offset 0 begins a scrub period. -/
def execPatrolScrub (st : Fin 4) (offset : Nat) (err : UnitErr) (s : State) : Result :=
  if 0x600000000 ≤ offset then .next s
  else
    let s := if offset / 32 = 0 then { s with eccUnits := s.eccUnits.filter fun u => decide (u.1 ≠ st.val) } else s
    .next (s.unitFound st (offset / 32 * 32) err)

/-! ### Temperature (R272) -/

/-- Lower boundary of a row of Table 11-2 above the first, in °C. -/
def tempBound (r : Nat) : Nat := 75 + 10 * r

/-- Stack limit of a row of Table 11-2. -/
def tempLimit (r : Nat) : Nat := if r = 0 then 960000 else if r = 1 then 900000 else if r = 2 then 800000 else 600000

/-- The row in force on a stack. -/
def State.tempRow (s : State) (st : Nat) : Nat :=
  let l := s.objN (kStack st 2)
  if l = 600000 then 3 else if l = 800000 then 2 else if l = 900000 then 1 else 0

/-- The row that a reading leads to: up above a boundary, down at 3 °C below it. -/
def tempNext (row : Nat) (t : Rat) : Nat :=
  let up := (List.range 4).foldl (fun n r => if 1 ≤ r ∧ (tempBound r : Rat) < t then max n r else n) 0
  let hold := (List.range 4).foldl (fun n r => if 1 ≤ r ∧ r ≤ row ∧ (tempBound r : Rat) - 3 < t then max n r else n) 0
  max up hold

/-- STACK_TEMP_READ (R272): the reading, and the refresh mode and stack limit of its row. -/
def execStackTempRead (st : Fin 4) (temp : Word32) (s : State) : Result :=
  let old := s
  let s := s.setN (kStack st 1) temp.toNat
  match f32 temp with
  | .nan | .inf _ => .next s
  | v =>
    let row := tempNext (s.tempRow st) v.toRat
    let s := if row = 3 then (if s.power.hotSince.isSome then s else { s with power := { s.power with hotSince := some s.now } })
      else if (List.range 4).any fun k => decide (k ≠ st.val) && decide (s.tempRow k = 3) then s
      else { s with power := { s.power with hotSince := none } }
    if row = s.tempRow st then .next s
    else
      let s := (s.setN (kStack st 2) (tempLimit row)).setN (kStack st 0xa) (if row = 0 then 0 else 1)
      .next ((s.orObj (kStack st 9) 4).reshare old)

/-! ### Requests (R273-R280, R368) -/

/-- Whether the fabric refuses a request to stacked memory: the watermark (R368, R369), the save area (R237), the speculative region (R220). Masters 0-15 are the instances' engines, 27 the save path, 28 the host complex, 31 the Placer. -/
def State.stackRefuses (s : State) (r : StackReq) : Bool :=
  let mark := s.objN (okey 0x7402 1)
  let a := canonAddr s.ileave r.addr
  (!r.secure && decide (a < mark))
    || (List.range 16).any fun m =>
      (decide (r.master.val ≠ 27) && s.stackMeets r.addr r.len (s.objN (kInst m 7 1)) (s.objN (kInst m 7 2)))
        || (!r.write && s.stackMeets r.addr r.len (s.objN (kAssay m 0xc)) (s.objN (kAssay m 0xd))
            && !(decide (r.master.val = m) || decide (r.master.val = 31) || (decide (r.master.val = 28) && (s.inst m).invs.any (·.req.view))))

/-- Budget state of a request: 0 in budget, 1 in pool, 2 overdraft; with the tokens taken (R277-R279). -/
def State.budget (s : State) (r : StackReq) (st : Nat) : State × Nat :=
  let bytes : Rat := (roundUp r.len 32 : Nat)
  let kb := 32 * st + r.master.val
  let kp := 8 * st + r.cls.val
  let b := TMap.get (fun _ => 0) s.bucket kb
  let p := TMap.get (fun _ => 0) s.pool kp
  if bytes ≤ b then ({ s with bucket := TMap.set (fun _ => 0) s.bucket kb (b - bytes) }, 0)
  else if bytes ≤ p then ({ s with pool := TMap.set (fun _ => 0) s.pool kp (p - bytes) }, 1)
  else (s, 2)

/-- The 32-byte units that a request touches, as stack and offset. -/
def State.unitsOf (s : State) (a len : Nat) : List (Nat × Nat) :=
  let c := canonAddr s.ileave a
  (List.range ((c % 32 + len + 31) / 32)).map fun i =>
    let u := canonAddr s.ileave (a - a % 32 + 32 * i)
    (stackOf s.ileave u, stackOffset s.ileave u)

/-- A guarantee missed (R280). -/
def State.missed (s : State) (i : Nat) : State := (s.count (kMaster i 6) 32).orObj (okey 0x5000 8) (2 ^ i)

/-- STACK_REQUEST (R23, R267, R268, R277-R280, R368): the request is tested, served and answered; while the stacks are in self-refresh it waits, or fails at its deadline. -/
def execStackRequest (r : StackReq) (s : State) : Result :=
  match unitOfRange r.addr r.len with
  | some .stack | some (.alias_ _) =>
    if s.power.refresh then .next (if r.late then s.emit (.stack r.master r.addr none) else s)
    else if s.domOff 6 || s.stackRefuses r then .next (s.emit (.stack r.master r.addr none))
    else
      let st := stackOf s.ileave (canonAddr s.ileave r.addr)
      let (s, state) := s.budget r st
      let s := s.count (kMaster r.master 5) 64 r.len
      let s := if state = 2 then s.count (kMaster r.master 7) 64 r.len else s
      let s := if r.late && decide (r.deadline ≠ 0xffff#16) && decide (state ≠ 2) then s.missed r.master else s
      let s := if r.starved then s.missed r.master else s
      if r.write then .next ((s.wr r.addr (slice r.data 0 r.len)).emit (.stack r.master r.addr (some [])))
      else
        let s := s.forEach (s.unitsOf r.addr r.len) fun s u => s.unitFound u.1 u.2 r.err
        .next (s.emit (.stack r.master r.addr (if (s.poisonedAt r.addr r.len).isSome then none else some (s.rd r.addr r.len))))
  | _ => .next (s.emit (.stack r.master r.addr none))

end Sys2Proof.Machine
end

