-- ==== Sys2Proof/Machine/Msgs.lean ====
section
/-! DEFINITION. Messages from the device, and how an invocation ends: its completion, its squash, its withdrawal (R222-R228, R242, R246, R252-R254, R264). -/

namespace Sys2Proof.Machine

def kMbox (m : Nat) : Nat := kInst m 2 1

/-- Write the message at the head of the outbound queue into the area from the device when that is empty: body and header first, the full flag last (R252). -/
def State.pump (s : State) (m : Nat) : State :=
  match (s.inst m).outq with
  | [] => s
  | msg :: rest =>
    if s.rdN (mboxFrom m) 8 = 1 then s
    else
      let s := s.upInst m fun x => { x with outq := rest }
      let s := s.wr (mboxFrom m + 16) msg.body
      let s := ((s.wrN (mboxFrom m + 8) 2 msg.kind).wrN (mboxFrom m + 10) 2 msg.body.length).wrN (mboxFrom m + 12) 4 msg.cookie
      let s := s.wrN (mboxFrom m) 8 1
      (s.orObj (kMbox m) 1).count (kInst m 2 3) 32

/-- A message from the device is generated: discarded while the instance is orphaned, dropped when it is a PROVISIONAL behind 48 others, else queued and written as soon as the area is empty (R252, R264). -/
def State.post (s : State) (m kind cookie : Nat) (body : List Byte) : State :=
  if s.instState m = 5 then s.count (kInst m 2 6) 32
  else if kind = 0x84 ∧ 48 ≤ (s.inst m).outq.length then s.count (kInst m 2 5) 32
  else (s.upInst m fun x => { x with outq := x.outq ++ [⟨kind, cookie, body⟩] }).pump m

/-- A REFUSED message (Table 10-7). -/
def State.refuse (s : State) (m kind cookie status : Nat) : State :=
  (s.count (kInst m 2 4) 32).post m 0x87 cookie (leBytes 2 kind ++ leBytes 2 status ++ leBytes 4 0)

/-- The status that an outcome carries: 0 for a completion, 0x000A for a ledger deadlock, otherwise an error code that the manual does not name (R254; log entry 20). -/
def State.outcomeStatus (s : State) (outcome : Nat) (status : Option Nat) : Nat :=
  match status with
  | some x => x
  | none => if outcome = 0 then 0 else fld s.freeNow 15 0

/-- Body of COMPLETE (Table 10-7). -/
def completeBody (inv handle outcome status flags : Nat) (started ended : Word64) (base : Word32) (groups energy : Nat) : List Byte :=
  leBytes 8 inv ++ leBytes 1 handle ++ leBytes 1 outcome ++ leBytes 2 status ++ leBytes 4 flags
    ++ leBytes 8 started.toNat ++ leBytes 8 ended.toNat ++ leBytes 4 base.toNat ++ leBytes 4 groups ++ leBytes 8 energy

/-- Body of DIRECT_DONE (Table 10-7). -/
def directDoneBody (header outcome status : Nat) : List Byte :=
  leBytes 8 header ++ leBytes 1 outcome ++ leBytes 1 0 ++ leBytes 2 status ++ leBytes 4 0

/-- The message that reports a request which never started (R248, R253, R254). -/
def State.reportQueued (s : State) (m : Nat) (r : RunReq) (outcome : Nat) : State :=
  let st := s.outcomeStatus outcome none
  let s := s.tookFree
  if r.kind = 1 then s.post m 0x85 r.cookie (directDoneBody r.header outcome st)
  else s.post m 0x83 r.cookie (completeBody 0 r.handle outcome st (if r.restarted then 1 else 0) 0#64 s.now 0#32 0 0)

/-- An instance that no longer runs anything shows ready (Table 10-8). -/
def State.settleInst (s : State) (m : Nat) : State :=
  if s.instState m = 2 ∧ (s.inst m).invs.isEmpty then s.setN (kInst m 0 1) 1 else s

/-- Free everything that the load of handle h took: its caches, its handle, its job, its lode map entry (R253). -/
def State.freePlan (s : State) (m h : Nat) : State :=
  match TMap.find (s.inst m).plans h with
  | none => s
  | some p =>
    let s := s.forEach p.caches fun s k => if (s.cache m k).state = 1 then s.kvRelease m k else s
    let s := s.upInst m fun x => { x with plans := TMap.del x.plans h, held := TMap.del x.held h, replaceq := x.replaceq.filter fun r => r.1 != h }
    let s := ((s.clrObj (kPlacer m 2) (2 ^ h)).clrObj (kPlacer m 4) (2 ^ h)).setN (kInst m (0x10 + h) 1) 0xffff
    s.wrN (s.objN (kPlacer m 3) + 8 * h) 8 0

/-- An UNLOAD that waits ends once no invocation of its plan is in progress (R253, Table 10-7). `reshare` is the regulator's recomputation. -/
def State.finishUnload (s : State) (m h : Nat) : State :=
  match TMap.find (s.inst m).plans h with
  | none => s
  | some p =>
    match p.unload with
    | none => s
    | some cookie =>
      if (s.inst m).invs.any fun i => decide (i.req.kind ≠ 1) && decide (i.req.handle = h) then s
      else ((((s.freePlan m h).reshare s).setN (kPlacer m 1) 0).post m 0x82 cookie (leBytes 1 h ++ leBytes 1 0 ++ leBytes 2 0 ++ leBytes 4 0))

/-- Cores that a commit took from their holder's partition go over when no segment runs or waits on them, and held by none are granted to the exclusive member or the slice holder of theirs (R203, R235). -/
def State.dealCores (s : State) : State :=
  s.forEach (List.range 16) fun s n =>
    let h := s.holder n
    let c := s.core n
    let mine := (List.range 16).find? fun p => s.oBit (kPart p 1) n
    let s :=
      if h < 16 ∧ mine ≠ some (s.objN (kInst h 1 1)) ∧ c.seg.isNone ∧ c.segs.isEmpty ∧ c.hold ≠ .stopped then s.freeCore n else s
    if s.holder n < 16 then s
    else match mine with
      | none => s
      | some p =>
        if s.partMode p = 1 then
          match s.partMembers p with
          | [m] => if s.instState m = 1 ∨ s.instState m = 2 ∨ s.instState m = 5 then s.grantCore n m else s
          | _ => s
        else if s.partMode p = 2 ∧ s.partHolder p < 16 then s.grantCore n (s.partHolder p)
        else s

/-- The record of an invocation goes, with what waits on it (R203, R225). -/
def State.removeInv (s : State) (m num : Nat) : State :=
  s.upInst m fun x =>
    { x with
      invs := x.invs.filter fun i => i.num != num
      shrink := x.shrink.filter fun w => w.1 != num
      kv := x.kv.map fun k => (k.1, { k.2 with unsettled := k.2.unsettled.filter fun u => u.1 != num }) }

/-- An invocation ends: its record goes, its capture slots are released, and the message that reports it is generated (R142, R230, R253, R254). What waited for it goes on: an UNLOAD, a removal of cores, the end of a safety slot, a slice without work. -/
def State.endInv (s : State) (m num outcome : Nat) (status : Option Nat) (energy : Nat) : State :=
  match s.inv? m num with
  | none => s
  | some v =>
    let st := s.outcomeStatus outcome status
    let s := if status.isNone && outcome != 0 then s.tookFree else s
    let s := s.forEach v.caps fun s c => s.dropHold c.1 c.2
    let flags := (if v.req.restarted then 1 else 0) + (if v.outs.any (·.invalid) then 2 else 0)
      + (if v.req.view ∧ 1 ≤ outcome ∧ outcome ≤ 4 then 4 else 0)
    let s := s.removeInv m num
    let s := if v.req.kind = 1 then s.post m 0x85 v.req.cookie (directDoneBody v.req.header outcome st)
      else s.post m 0x83 v.req.cookie (completeBody num v.req.handle outcome st flags v.started s.now v.base v.groups energy)
    let s := (s.settleInst m).finishUnload m v.req.handle
    let s := if v.slot then s.endSlot m v.req.handle else s
    (s.dealCores).yieldSlice (s.objN (kInst m 1 1))

/-! ### Segments on cores -/

/-- Core n starts a segment (R119, R140, R246). -/
def State.startSeg (s : State) (n : Nat) (g : SegRun) : State :=
  let s := s.upCore n fun c => { c with seg := some g, hold := .none, lastRetire := s.now, elapsed := 0 }
  let s := match g.init with
    | none => s
    | some init =>
      let s := s.upCore n fun c =>
        (init.zip (List.range 6)).foldl (fun (c : CoreSt) (x : Word64 × Nat) => c.setS (1 + x.2) x.1) { c with sregs := [], tregs := [], pregs := [], slots := [] }
      s.forEach (List.range 32) fun s i => s.setN (kCtr n i) 0
  (s.setN (kPc n) g.start).setN (kCore n 0 1) 1

/-- Core n has no segment that runs: the next one that waits starts, else the core is idle (R246). -/
def State.nextSeg (s : State) (n : Nat) : State :=
  match (s.core n).segs with
  | [] => (((s.upCore n fun c => { c with seg := none, hold := .none }).setN (kCore n 0 1) 0).setN (kCore n 4 9) 0)
  | g :: rest => (s.upCore n fun c => { c with segs := rest }).startSeg n g

/-- Whether a core of instance m still has a segment of the invocation, running or waiting, saved cores included. -/
def State.hasSegs (s : State) (m num : Nat) : Bool :=
  let has (c : CoreSt) : Bool := (c.seg.toList ++ c.segs).any fun g => g.inv = num
  (s.coresOf m).any (fun n => has (s.core n)) || (s.inst m).saved.any fun x => has x.2

/-- The segment that core n runs has ended; a direct set ends with its last one (R142, R246). -/
def State.segDone (s : State) (n : Nat) : State :=
  let m := s.holder n
  match (s.core n).seg with
  | none => s
  | some g =>
    let s := s.nextSeg n
    match s.inv? m g.inv with
    | none => s
    | some v => if v.req.kind = 1 ∧ !s.hasSegs m g.inv then s.endInv m g.inv 0 none 0 else s

/-- Take an invocation's segments off a core: what runs is aborted without an exception, its slots close, and the next segment starts (R203, R226 step 1, R227). -/
def State.dropSegs (s : State) (n num : Nat) : State :=
  let s := s.upCore n fun c => { c with segs := c.segs.filter fun g => g.inv != num }
  match (s.core n).seg with
  | none => s
  | some g =>
    if g.inv ≠ num then s
    else ((s.abortCore n .none).upCore n fun c => { c with slots := [] }).nextSeg n

/-- What a saved core holds of an invocation is discarded (R228). -/
def CoreSt.dropInv (c : CoreSt) (num : Nat) : CoreSt :=
  let c := { c with segs := c.segs.filter fun g => g.inv != num }
  match c.seg with
  | none => c
  | some g =>
    if g.inv ≠ num then c
    else { c with seg := none, slab := [], readout := [], mica := [], dma := [], pebble := [], pend := [], slots := [], hold := .none }

/-- Stop an invocation on every core of the instance, saved ones included. -/
def State.stopInv (s : State) (m num : Nat) : State :=
  let s := s.forEach (s.coresOf m) fun s n => s.dropSegs n num
  s.upInst m fun x => { x with saved := x.saved.map fun c => (c.1, c.2.dropInv num) }

/-! ### Squash and withdrawal -/

/-- Mark every cache that an invocation wrote as poisoned (R225, R248 step 4). -/
def State.poisonCaches (s : State) (m num : Nat) : State :=
  match s.inv? m num with
  | none => s
  | some v =>
    s.forEach v.wrote fun s w =>
      let cache := w.1
      let s := s.orObj (kAssay m (0x11 + cache / 64)) (2 ^ (cache % 64))
      s.upInst m fun x =>
        let k := TMap.get (fun _ => (⟨[], 0⟩ : KvMark)) x.kv cache
        { x with kv := TMap.set (fun _ => (⟨[], 0⟩ : KvMark)) x.kv cache ⟨k.unsettled.filter fun u => u.1 != num, w.2.2⟩ }

/-- Whether an instance has a join enabled, so that peers take part in its invocations (R258). -/
def State.joined (s : State) (m : Nat) : Bool := [1, 2, 3].any fun k => s.oBit (kInst m 5 k) 31

/-- Tell the joined peers to withdraw their part of an invocation (R226 step 5). -/
def State.tellPeers (s : State) (m num : Nat) : State := if s.joined m then s.emit (.peerWithdraw m num) else s

/-- An assay mismatch (kind 1) or timeout (kind 2) of the entry: the invocation is squashed and the fault reaction starts (R226, R228). -/
def State.squash (s : State) (i kind coreB : Nat) : State :=
  let e := s.entry i
  let m := e.inst
  let s := s.stopInv m e.inv
  let s := s.withdraw fun x => decide (x.inst = m) && decide (x.inv = e.inv)
  let s := (s.poisonCaches m e.inv).safeTrigger kind 0 e.group.toNat
  let s := (s.tellPeers m e.inv).orObj (okey 0x1001 1) 4
  let s := (s.count (kAssay m (6 + kind)) 32).assayEvent m kind e.coreA coreB e.group
  (s.count (kAssay m 0x10) 32).endInv m e.inv kind none 0

/-- Withdraw an invocation: it stops, its entries go, its peers are told; nothing of it is released (R227). -/
def State.withdrawInv (s : State) (m num : Nat) : State :=
  let s := s.stopInv m num
  let s := s.withdraw fun x => decide (x.inst = m) && decide (x.inv = num)
  s.tellPeers m num

end Sys2Proof.Machine
end

