-- ==== Sys2Proof/WellFormed.lean ====
section
/-! DEFINITION. What operands a command of the ZD60 can carry: widths of the fields that a link, a pin or a requester hands over as numbers. -/

namespace Sys2Proof

/-- The opcode byte of an op word, bits [127:120] (R109). -/
def opcodeOf (w : OpWord) : Nat := w.toNat / 2 ^ 120

/-- The opcodes that Table 5-3 assigns. -/
def assignedOpcodes : List Nat :=
  [0x00, 0x01, 0x02, 0x03, 0x04, 0x08, 0x09, 0x0A, 0x0B, 0x0C, 0x0D, 0x0E, 0x0F, 0x10,
   0x20, 0x21, 0x22, 0x23, 0x28, 0x29, 0x40, 0x41, 0x42, 0x43, 0x44, 0x45, 0x46, 0x47, 0x48, 0x49, 0x4F,
   0x60, 0x61, 0x64, 0x70, 0x71, 0x72, 0x80, 0x81, 0x90, 0x91, 0x92]

/-- Whether an address of a window access is a naturally aligned access of 1, 2, 4 or 8 bytes inside the object window (R15, R37). -/
def windowAccess (addr size : Nat) : Bool :=
  decide (0xf800000000 ≤ addr) && decide (addr + size ≤ 0xf808000000) && (size == 1 || size == 2 || size == 4 || size == 8)

def Src.wf : Src → Bool
  | .host _ _ vmid => decide (vmid < 2 ^ 14)
  | .fw _ => true
  | .cxop sid => decide (sid < 2 ^ 32)

def CxReq.wf (r : CxReq) : Bool :=
  decide (r.vlan < 4096) && decide (r.version < 256) && decide (r.kind < 256) && decide (r.session < 2 ^ 32)
    && decide (r.seq < 2 ^ 32) && decide (r.payloadLen < 2 ^ 16)

def Seg.wf (g : Seg) : Bool := decide (g.start < 2 ^ 48) && decide (g.len < 2 ^ 32)

def LodeRec.wf (r : LodeRec) : Bool :=
  decide (r.engine < 4) && decide (r.kSplit < 256) && decide (r.groupSize < 2 ^ 16) && decide (r.firstGroup < 2 ^ 32)
    && decide (r.residence < 256) && decide (r.stack < 256) && decide (r.prefetch < 2 ^ 16) && decide (r.flags < 256)
    && decide (r.outAddr < 2 ^ 48)

def Placement.wf (p : Placement) : Bool :=
  p.segs.all Seg.wf && p.recs.all LodeRec.wf && decide (p.lodeAddr < 2 ^ 48) && decide (p.groups < 2 ^ 32)
    && decide (p.groupSize < 2 ^ 16) && (p.outs.all fun o => decide (o.addr + o.len ≤ 2 ^ 48) && decide (o.tag < 2 ^ 16)) && p.writes.all fun w => decide (w.1 + w.2.length ≤ 2 ^ 48)

def Carve.wf (c : Carve) : Bool :=
  decide (c.stackBase < 2 ^ 48) && decide (c.saveBase < 2 ^ 48) && decide (c.specBase < 2 ^ 48)
    && decide (c.ptBase < 2 ^ 48) && decide (c.lodeDir < 2 ^ 48)

def StackReq.wf (r : StackReq) : Bool :=
  decide (r.addr + r.len ≤ 2 ^ 48) && (if r.write then decide (r.data.length = r.len) else decide (r.data = []))

def CsiPacket.wf (p : CsiPacket) : Bool :=
  decide (p.vc < 32) && decide (p.dt < 64) && decide (p.bytes.length < 2 ^ 16)

def EthFrame.wf (f : EthFrame) : Bool := decide (f.payload.length ≤ f.len) && decide (f.len < 2 ^ 14)

def CanFrame.wf (f : CanFrame) : Bool :=
  decide (f.data.length ≤ if f.xl then 2048 else if f.fd then 64 else 8) && (f.ext || decide (f.id.toNat < 2 ^ 11))

def FarEnd.wf : FarEnd → Bool
  | .silent => true
  | .answer dev link product letter => decide (dev < 4) && decide (link < 3) && decide (product < 2 ^ 32) && decide (letter < 256)

def StartEnv.wf (e : StartEnv) : Bool := decide (e.stamps.length = 5) && decide (e.slack.length = 7)

def Ctx.wf : Ctx → Bool
  | .session sid => decide (sid < 2 ^ 32)
  | _ => true

/-- Whether the command carries operands that a command of the device can carry. -/
def Instr.wf : Instr → Bool
  | .windowWrite src addr size _ => src.wf && windowAccess addr size
  | .reservedOpcode _ w => !(assignedOpcodes.contains (opcodeOf w))
  | .commitApply ctx => ctx.wf
  | .xferEnd ctx => ctx.wf
  | .commitWrite src _ => src.wf
  | .xferCopy src => src.wf
  | .xferLoad src => src.wf
  | .store src _ => src.wf
  | .storeWriteEnd .. => true
  | .configImageLoad src _ => src.wf
  | .read r => r.wf
  | .write r => r.wf
  | .readBlock r => r.wf
  | .writeBlock r => r.wf
  | .commit r => r.wf
  | .subscribe r => r.wf
  | .open_ r => r.wf
  | .prove r => r.wf
  | .close r => r.wf
  | .openProveTimeout sid => decide (sid < 2 ^ 32)
  | .sessionIdleTimeout sid => decide (sid < 2 ^ 32)
  | .servoUpdate .. => true
  | .domainSlewEnd .. => true
  | .grandmasterLost .. => true
  | .grandmasterReselected .. => true
  | .holdoverExpiry .. => true
  | .domainLock .. => true
  | .domainSwitch src _ => src.wf
  | .selectedSlewEnd => true
  | .cadenceNone .. => true
  | .startJob .. => true
  | .assayCapture .. => true
  | .launchFrame .. => true
  | .lodestoneSample .. => true
  | .trigger .. => true
  | .publish .. => true
  | .serviceSlot .. => true
  | .triggerWidthEnd .. => true
  | .setpointWrite src _ _ => src.wf
  | .lodestoneResult .. => true
  | .lodestoneOutput .. => true
  | .nop .. => true
  | .halt .. => true
  | .br .. => true
  | .loop .. => true
  | .fence .. => true
  | .smovi .. => true
  | .salu .. => true
  | .scmp .. => true
  | .pset .. => true
  | .sld .. => true
  | .sst .. => true
  | .desc .. => true
  | .dadd .. => true
  | .seed .. => true
  | .matmul .. => true
  | .conv .. => true
  | .accin .. => true
  | .readout .. => true
  | .pconv .. => true
  | .pread .. => true
  | .pebbleOp .. => true
  | .vld .. => true
  | .vst .. => true
  | .vop .. => true
  | .tew .. => true
  | .tred .. => true
  | .tsmx .. => true
  | .tnorm .. => true
  | .gather .. => true
  | .scatter .. => true
  | .tpool .. => true
  | .shade .. => true
  | .dmov .. => true
  | .dfill .. => true
  | .coll .. => true
  | .kvscatter .. => true
  | .kvfetch .. => true
  | .attn .. => true
  | .signal .. => true
  | .wait .. => true
  | .aopen .. => true
  | .aclose .. => true
  | .afold .. => true
  | .waitGranted .. => true
  | .drainSignalApply .. => true
  | .slabOpStart .. => true
  | .opComplete .. => true
  | .watchdogExpiry .. => true
  | .instanceFault .. => true
  | .debugHalt .. => true
  | .debugStep .. => true
  | .debugRelease .. => true
  | .kvCreate src _ _ => src.wf
  | .kvRelease src _ _ => src.wf
  | .kvTruncate src _ _ => src.wf
  | .kvPrebind src _ _ => src.wf
  | .load _ pl => pl.wf
  | .unload .. => true
  | .run .. => true
  | .direct .. => true
  | .cancel .. => true
  | .heartbeat .. => true
  | .attach .. => true
  | .mboxFromClear .. => true
  | .replace src _ _ => src.wf
  | .replacementJob _ _ _ pl => pl.wf
  | .shrinkGraceExpiry .. => true
  | .invocationStart .. => true
  | .assayTimeout .. => true
  | .ledgerDeadlock .. => true
  | .outputRelease .. => true
  | .preempt .. => true
  | .saveComplete .. => true
  | .sliceEnd .. => true
  | .slotPreempt .. => true
  | .invocationComplete .. => true
  | .instCreate src _ _ c => src.wf && c.wf
  | .instDestroy src _ _ => src.wf
  | .zeroingEnd .. => true
  | .instFreeze src _ _ => src.wf
  | .instThaw src _ _ => src.wf
  | .instSaveImage src _ _ => src.wf
  | .instRestoreImage src _ _ c => src.wf && c.wf
  | .instRecover src _ _ => src.wf
  | .instOrphan src _ _ => src.wf
  | .heartbeatTimeout .. => true
  | .acctReset src _ _ => src.wf
  | .stackRequest r => r.wf
  | .bucketRefill => true
  | .guaranteeWrite src _ _ => src.wf
  | .safetyClassesWrite src _ => src.wf
  | .patrolScrub .. => true
  | .stackTempRead .. => true
  | .streamEnable src _ _ _ => src.wf
  | .frameStart .. => true
  | .lineStart .. => true
  | .longPacket _ pk => pk.wf
  | .frameEnd .. => true
  | .blankVerdict .. => true
  | .ringTailWrite src _ => src.wf
  | .passComplete .. => true
  | .pipeLatch .. => true
  | .regionCheck .. => true
  | .resume src _ _ => src.wf
  | .displayPreempt .. => true
  | .frameReceive _ f => f.wf
  | .frameTransmit .. => true
  | .txTailWrite src _ _ _ => src.wf
  | .rxTailWrite src _ _ => src.wf
  | .tsReadWrite src _ _ => src.wf
  | .linkChange .. => true
  | .t1sFrameReceive _ f => f.wf
  | .beaconLoss .. => true
  | .canFrameReceive _ f => f.wf
  | .canTransmit .. => true
  | .busOffRecovery .. => true
  | .restart src _ _ => src.wf
  | .wake .. => true
  | .outboundRead _ addr _ => decide (addr < 2 ^ 48)
  | .outboundWrite _ addr _ _ => decide (addr < 2 ^ 48)
  | .fetchComplete .. => true
  | .fetchHoldExpiry .. => true
  | .readTimeout _ addr _ _ => decide (addr < 2 ^ 48)
  | .deadlockYield => true
  | .inboundRequest _ addr _ _ _ => decide (addr < 2 ^ 64)
  | .postedWriteFault .. => true
  | .pweClear src _ => src.wf
  | .linkTrain _ far => far.wf
  | .trainRetry .. => true
  | .flitReplay .. => true
  | .twimiLinkLoss .. => true
  | .mret .. => true
  | .xworldWrite .. => true
  | .hostRelease src _ => src.wf
  | .fwUpdate src _ _ => src.wf
  | .rollbackCommit src _ => src.wf
  | .attestationRead src => src.wf
  | .fwRestart src _ _ => src.wf
  | .componentFault .. => true
  | .processorRestart .. => true
  | .safeRequest src _ => src.wf
  | .safeExit src _ => src.wf
  | .noticeRepeat => true
  | .graniteHeartbeat => true
  | .islandWatchdogExpiry => true
  | .islandHwWatchdogExpiry => true
  | .timebaseCrossCheck .. => true
  | .clockMonitorFault .. => true
  | .selftestRequest src _ => src.wf
  | .dtiExpiry => true
  | .goldenLate .. => true
  | .strataTrigger src _ => src.wf
  | .strataRecordWrite => true
  | .strataClear src _ => src.wf
  | .copyout src _ => src.wf
  | .copyoutEnd .. => true
  | .powerGoodRise env => env.wf
  | .svcImageWrite .. => true
  | .powerGoodFall => true
  | .powerRequestOn src => src.wf
  | .powerRequestDrowse src => src.wf
  | .powerRequestSentry src => src.wf
  | .powerRequestOff src => src.wf
  | .heldRequestRelease => true
  | .idleEntry => true
  | .idleExit .. => true
  | .drowseExit env => env.wf
  | .sentryExit env => env.wf
  | .padRelease src _ => src.wf
  | .dvfsRequest src _ _ => src.wf
  | .throttleStep r => decide (r.cl.length = 4)
  | .thermalTrip => true
  | .ageingMeasure slack => decide (slack.length = 7)
  | .railEnableTimeout .. => true
  | .railFault .. => true
  | .pcieLinkChange .. => true
  | .hotPlugDetect .. => true
  | .csi2PortStateChange .. => true
  | .plcaBeaconReturn .. => true
  | .t1sTransmit .. => true
  | .lineScanOut .. => true

end Sys2Proof
end

