-- ==== Sys2Proof/Machine/Control.lean ====
section
/-! DEFINITION. Meanings of the control, scalar and synchronisation ops (Table 5-6, R117-R122, R131-R133). -/

namespace Sys2Proof.Machine

/-- NOP (R117, Table 5-3). -/
def execNop (n : Fin 16) (w : BitVec 120) (s : State) : Result :=
  s.ctlOp n (mkOp 0x00 w) [] fun _ s => .ok (s, true)

/-! ### Drain scopes -/

/-- Scope bits of FENCE, in its field order (Table 5-6). -/
def fenceScope (op : OpWord) : Nat := fld op 95 89
/-- Scope bits of a SIGNAL's drain; the last is ignored (Table 5-6). -/
def drainScope (op : OpWord) : Nat := fld op 69 64 * 2

/-- Whether every op dispatched before `seq` in the queues of a scope has completed (R122). -/
def CoreSt.drained (c : CoreSt) (scope seq : Nat) : Bool :=
  let clear (l : List QOp) : Bool := l.all fun o => decide (seq ≤ o.seq)
  (!nbit scope 6 || clear c.slab) && (!nbit scope 5 || clear c.readout) && (!nbit scope 4 || clear c.mica)
    && (!nbit scope 3 || clear c.dma) && (!nbit scope 2 || clear c.pebble)
    && (!nbit scope 1 || clear (c.dma.filter fun o => opOf o.op = 0x70))

/-- Whether everything of the core has completed: every queue empty and no signal pending (R122). -/
def CoreSt.allDone (c : CoreSt) : Bool := c.allOps.isEmpty && c.pend.isEmpty

/-- HALT completes: it retires and the segment ends (R122, R142). -/
def State.haltDone (s : State) (n : Nat) (op : OpWord) (addr : Nat) : State :=
  ((s.holdOn n .none).ctlDone n op addr).segDone n

/-- HALT (R122): with an assay slot open it raises ledger_misuse; else it completes when the core has drained. -/
def execHalt (n : Fin 16) (w : BitVec 120) (s : State) : Result :=
  let op := mkOp 0x01 w
  s.dispatch n op [] (!opWe op || decide (0 < s.ctr n (opWait op))) fun pc s1 =>
    let s2 := if opWe op then s1.setN (kCtr n (opWait op)) (s1.ctr n (opWait op) - 1) else s1
    if !(s1.core n).openSlots.isEmpty then (s1.setN (kPc n) pc).except n 0 pc ⟨0x06, 0x01, 0⟩
    else if (s2.core n).allDone then s2.haltDone n op pc
    else s2.holdOn n (.halt op pc)

/-- Address of a branch target: an offset in op words from the branch (Table 5-6). -/
def branchTo (addr : Nat) (off : Int) : Nat := wrapInt 64 ((addr : Int) + 16 * off)

/-- BR (R121): taken when it executes. -/
def execBr (n : Fin 16) (w : BitVec 120) (s : State) : Result :=
  let op := mkOp 0x02 w
  s.ctlOp n op [(95, 64)] fun pc s => .ok (s.setN (kPc n) (branchTo pc (sfld op 95 64)), true)

/-- LOOP (R121): a nonzero loop register counts down, and the branch is taken while the result is nonzero. -/
def execLoop (n : Fin 16) (w : BitVec 120) (s : State) : Result :=
  let op := mkOp 0x03 w
  s.ctlOp n op [(95, 93), (92, 61)] fun pc s =>
    let p := (s.core n).p (fld op 95 93)
    if p = 0#32 then .ok (s, true)
    else
      let s := s.upCore n fun c => c.setP (fld op 95 93) (p - 1#32)
      .ok (if p = 1#32 then s else s.setN (kPc n) (branchTo pc (sfld op 92 61)), true)

/-- FENCE (R122): dispatch stops until the queues of its scope have drained. -/
def execFence (n : Fin 16) (w : BitVec 120) (s : State) : Result :=
  let op := mkOp 0x04 w
  s.ctlOp n op [(95, 89)] fun pc s =>
    if (s.core n).drained (fenceScope op) (s.core n).nextSeq then .ok (s, true)
    else .ok (s.holdOn n (.fence op pc), false)

/-! ### Scalar ops -/

/-- SMOVI (Table 5-6). -/
def execSmovi (n : Fin 16) (w : BitVec 120) (s : State) : Result :=
  let op := mkOp 0x08 w
  s.ctlOp n op [(95, 91), (63, 0)] fun _ s => .ok (s.upCore n fun c => c.setS (fld op 95 91) (BitVec.ofNat 64 (fld op 63 0)), true)

/-- A 32-bit immediate, sign-extended. -/
def imm32 (op : OpWord) : Word64 := BitVec.ofInt 64 (sfld op 31 0)

/-- Functions of SALU; a shift of 64 or more has no stated result and gives the free value (Table 5-6; log entry 21). -/
def saluFn (func : Nat) (a b free : Word64) : Option Word64 :=
  let sh (x : Word64) : Word64 := if b.toNat < 64 then x else free
  match func with
  | 0 => some (a + b)
  | 1 => some (a - b)
  | 2 => some (a * b)
  | 3 => some (a &&& b)
  | 4 => some (a ||| b)
  | 5 => some (a ^^^ b)
  | 6 => some (sh (a <<< b.toNat))
  | 7 => some (sh (a >>> b.toNat))
  | 8 => some (sh (a.sshiftRight b.toNat))
  | 9 => some (if a.slt b then a else b)
  | 10 => some (if a.slt b then b else a)
  | _ => none

/-- SALU (Table 5-6). -/
def execSalu (n : Fin 16) (w : BitVec 120) (s : State) : Result :=
  let op := mkOp 0x09 w
  s.ctlOp n op [(95, 91), (90, 86), (85, 81), (80, 77), (76, 76), (31, 0)] fun _ s =>
    let c := s.core n
    let b := if bit op 76 then imm32 op else c.s (fld op 85 81)
    match saluFn (fld op 80 77) (c.s (fld op 90 86)) b s.freeNow with
    | none => .error (illegal 0x02)
    | some v =>
      let open_ := decide (6 ≤ fld op 80 77) && decide (fld op 80 77 ≤ 8) && decide (64 ≤ b.toNat)
      let s := s.upCore n fun c => c.setS (fld op 95 91) v
      .ok (if open_ then s.tookFree else s, true)

/-- Conditions of SCMP (Table 5-6). -/
def scmpFn (cond : Nat) (a b : Word64) : Option Bool :=
  match cond with
  | 0 => some (a == b)
  | 1 => some (a != b)
  | 2 => some (a.slt b)
  | 3 => some (!a.slt b)
  | 4 => some (a.ult b)
  | 5 => some (!a.ult b)
  | _ => none

/-- SCMP (Table 5-6). -/
def execScmp (n : Fin 16) (w : BitVec 120) (s : State) : Result :=
  let op := mkOp 0x0a w
  s.ctlOp n op [(95, 93), (92, 88), (87, 83), (82, 80), (79, 79), (31, 0)] fun _ s =>
    let c := s.core n
    let b := if bit op 79 then imm32 op else c.s (fld op 87 83)
    match scmpFn (fld op 82 80) (c.s (fld op 92 88)) b with
    | none => .error (illegal 0x02)
    | some v => .ok (s.upCore n fun c => c.setP (fld op 95 93) (if v then 1#32 else 0#32), true)

/-- PSET (Table 5-6). -/
def execPset (n : Fin 16) (w : BitVec 120) (s : State) : Result :=
  let op := mkOp 0x0b w
  s.ctlOp n op [(95, 93), (92, 88), (31, 0)] fun _ s =>
    let v := ((s.core n).s (fld op 92 88)).setWidth 32 + BitVec.ofNat 32 (fld op 31 0)
    .ok (s.upCore n fun c => c.setP (fld op 95 93) v, true)

/-- Local store offset of SLD, SST and DESC: register plus immediate, aligned, inside the local store (Table 5-6, R119). -/
def State.lsOff (s : State) (n reg : Nat) (op : OpWord) (size : Nat) : Except Exc Nat :=
  let o := ((s.core n).s reg + imm32 op).toNat
  if o % size ≠ 0 then .error (illegal 0x09)
  else if lstoreSize < o + size then .error (addressFault (lstoreBase n + o))
  else .ok o

/-- The same for a read: a poisoned word raises data_fault (R108). -/
def State.lsRead (s : State) (n reg : Nat) (op : OpWord) (size : Nat) : Except Exc Nat :=
  match s.lsOff n reg op size with
  | .error e => .error e
  | .ok o =>
    match s.poisonedAt (lstoreBase n + o) size with
    | some p => .error ⟨0x03, 0, p⟩
    | none => .ok o

/-- SLD (R121, Table 5-6). -/
def execSld (n : Fin 16) (w : BitVec 120) (s : State) : Result :=
  let op := mkOp 0x0c w
  s.ctlOp n op [(95, 91), (90, 86), (31, 0)] fun _ s =>
    match s.lsRead n (fld op 90 86) op 8 with
    | .error e => .error e
    | .ok o => .ok (s.upCore n fun c => c.setS (fld op 95 91) (BitVec.ofNat 64 (s.rdN (lstoreBase n + o) 8)), true)

/-- SST (Table 5-6). -/
def execSst (n : Fin 16) (w : BitVec 120) (s : State) : Result :=
  let op := mkOp 0x0d w
  s.ctlOp n op [(95, 91), (90, 86), (31, 0)] fun _ s =>
    match s.lsOff n (fld op 90 86) op 8 with
    | .error e => .error e
    | .ok o => .ok (s.wrN (lstoreBase n + o) 8 ((s.core n).s (fld op 95 91)).toNat, true)

/-- DESC (Table 5-6). -/
def execDesc (n : Fin 16) (w : BitVec 120) (s : State) : Result :=
  let op := mkOp 0x0e w
  s.ctlOp n op [(95, 92), (91, 87), (31, 0)] fun _ s =>
    match s.lsRead n (fld op 91 87) op 64 with
    | .error e => .error e
    | .ok o => .ok (s.upCore n fun c => c.setT (fld op 95 92) (BitVec.ofNat 512 (s.rdN (lstoreBase n + o) 64)), true)

/-- DADD (Table 5-6): only base[47:0] changes. -/
def execDadd (n : Fin 16) (w : BitVec 120) (s : State) : Result :=
  let op := mkOp 0x0f w
  s.ctlOp n op [(95, 92), (91, 87), (31, 0)] fun _ s =>
    let c := s.core n
    let t := c.t (fld op 95 92)
    let b := fld t 47 0 + (c.s (fld op 91 87) + imm32 op).toNat
    .ok (s.upCore n fun c => c.setT (fld op 95 92) (setFld t 47 0 b), true)

/-- SEED (R95, Table 5-6). -/
def execSeed (n : Fin 16) (w : BitVec 120) (s : State) : Result :=
  let op := mkOp 0x10 w
  s.ctlOp n op [(95, 91)] fun _ s => .ok (s.setObj (kSr n) (srLoad ((s.core n).s (fld op 95 91))), true)

/-! ### Synchronisation -/

/-- Apply a SIGNAL of core n (R132, R133). -/
def State.applySignal (s : State) (n : Nat) (op : OpWord) (addr : Nat) : State :=
  let t := fld op 90 87
  let i := fld op 95 91
  if s.holder t ≠ s.holder n then s.except n 0 addr ⟨0x07, 0, 0⟩
  else
    let s1 := if bit op 86 then s.setN (kCtr t i) (fld op 85 70) else s.addCtr n t i (fld op 85 70) 0 addr
    if (s1.core n).hold = .stopped then s1 else s1.ctlDone n op addr

/-- SIGNAL (R132, R133): at once, or held until its drain scope has drained; a ninth that must be held stalls. -/
def execSignal (n : Fin 16) (w : BitVec 120) (s : State) : Result :=
  let op := mkOp 0x80 w
  let room := (!opWe op || decide (0 < s.ctr n (opWait op))) && (drainScope op == 0 || decide ((s.core n).pend.length < 8))
  s.dispatch n op [(95, 91), (90, 87), (86, 86), (85, 70), (69, 63)] room fun pc s1 =>
    let s2 := if opWe op then s1.setN (kCtr n (opWait op)) (s1.ctr n (opWait op) - 1) else s1
    if drainScope op = 0 then s2.applySignal n op pc
    else s2.upCore n fun c => { c with pend := c.pend ++ [⟨op, pc, c.nextSeq⟩] }

/-- Counter and count of a WAIT (Table 5-6). -/
def waitCtr (op : OpWord) : Nat := fld op 95 91
def waitCount (op : OpWord) : Nat := fld op 90 75

/-- WAIT (R131): dispatch is held until the counter reaches n, which is then taken. -/
def execWait (n : Fin 16) (w : BitVec 120) (s : State) : Result :=
  let op := mkOp 0x81 w
  s.ctlOp n op [(95, 91), (90, 75)] fun pc s =>
    if waitCount op = 0 then .error (illegal 0x02)
    else if waitCount op ≤ s.ctr n (waitCtr op) then .ok (s.setN (kCtr n (waitCtr op)) (s.ctr n (waitCtr op) - waitCount op), true)
    else .ok (s.holdOn n (.wait op pc), false)

/-- RESERVED_OPCODE (R118): illegal_op detail 0x01; an opcode that Table 5-3 assigns is no such command. -/
def execReservedOpcode (n : Fin 16) (w : OpWord) (s : State) : Result :=
  if assignedOpcodes.contains (opcodeOf w) then .fault .illFormed
  else if !s.canDispatch n then .next s
  else if !s.inStream n then .next (s.except n 0 (s.pc n) (illegal 0x0a))
  else .next (s.except n 0 (s.pc n) (illegal 0x01))

end Sys2Proof.Machine
end

