-- ==== Sys2Proof/Machine/Slab.lean ====
section
/-! DEFINITION. What the Slab and its readout compute: operand pairs, the accumulator banks, MATMUL, CONV, ACCIN and READOUT (R80-R96, R123-R127, R146-R155). Each `perform` is an op's effect once it starts. -/

namespace Sys2Proof.Machine

/-! ### Operand pairs (Table 4-1) -/

/-- A row of Table 4-1: class (0 integer, 1 fixed-point, 2 FP32), K and N per pass. -/
structure Pair where
  cls : Nat
  kPass : Nat
  nPass : Nat
deriving DecidableEq, Repr

def isFp8 (c : Nat) : Bool := c == 0x08 || c == 0x09

/-- The row of Table 4-1 for formats A × B; none for a pair that is not listed (R80). -/
def pairOf (a b : Nat) : Option Pair :=
  if a = codeINT4 ∧ b = codeINT4 then some ⟨0, 512, 256⟩
  else if a = codeINT8 ∧ (b = codeINT8 ∨ b = codeINT4) then some ⟨0, 256, 256⟩
  else if a = codeINT16 ∧ (b = codeINT16 ∨ b = codeINT8) then some ⟨0, 128, 128⟩
  else if a = 0x14 ∧ b = 0x14 then some ⟨1, 512, 256⟩
  else if (isFp8 a ∨ isMx a) ∧ (isFp8 b ∨ isMx b) then some ⟨1, 256, 256⟩
  else if (a = codeBF16 ∧ b = codeBF16) ∨ (a = codeFP16 ∧ b = codeFP16) then some ⟨2, 128, 128⟩
  else none

/-! ### Accumulators -/

def accKey (bank row col : Nat) : Nat := bank * 65536 + row * 256 + col

/-- One accumulator while products enter it: value, special tag, and the flags that the products raise (R84-R89). -/
structure Cell where
  v : Word64
  tag : Nat
  sat : Bool
  below : Bool
  special : Bool
deriving DecidableEq, Repr

/-- The largest magnitude of a 64-bit accumulator (R85). -/
def accMax : Int := 2 ^ 63 - 1

/-- Add an integer exactly, holding the bound on overflow (R85). -/
def Cell.addInt (c : Cell) (p : Int) : Cell :=
  let z := c.v.toInt + p
  if accMax < z then { c with v := BitVec.ofInt 64 accMax, sat := true }
  else if z < -accMax then { c with v := BitVec.ofInt 64 (-accMax), sat := true }
  else { c with v := BitVec.ofInt 64 z }

/-- The tag after a special product: 1 +Inf, 2 -Inf, 3 NaN (R89). -/
def tagMeet (t u : Nat) : Nat := if t = 0 then u else if t = u then t else 3

/-- Add a product in the fixed-point class (R86, R89). -/
def Cell.addFx (eacc : Int) (c : Cell) (p : FVal) : Cell :=
  match p with
  | .nan => { c with tag := 3, special := true }
  | .inf neg => { c with tag := tagMeet c.tag (if neg then 2 else 1), special := true }
  | .fin neg mag =>
    if c.tag ≠ 0 then c
    else
      let q := (if neg then -mag else mag) * pow2 (-eacc)
      let k := rne q
      ({ c with below := c.below || (k : Rat) != q }).addInt k

/-- Add a product in the FP32 class (R88). -/
def Cell.addF32 (c : Cell) (p : FVal) : Cell :=
  let v := toF32 ((f32 (c.v.setWidth 32)).add p)
  { c with v := v.setWidth 64, special := c.special || f32special v }

/-- Add a product in a class. -/
def Cell.add (cls : Nat) (eacc : Int) (c : Cell) (p : FVal) : Cell :=
  match cls with
  | 0 => c.addInt p.toRat.num
  | 1 => c.addFx eacc p
  | _ => c.addF32 p

/-- Class, exponent and width with which an op names its bank. -/
structure BankUse where
  bank : Nat
  clear : Bool
  cls : Nat
  eacc : Int
  width : Nat
deriving DecidableEq, Repr

def State.bankInfo (s : State) (n b : Nat) : BankInfo := TMap.get (fun _ => BankInfo.empty) (s.core n).banks b

/-- Empty a bank: values 0, tags finite, flags clear (R84). -/
def CoreSt.clearBank (c : CoreSt) (b : Nat) : CoreSt :=
  { c with acc := TMap.clearRange c.acc (b * 65536) 65536, tags := TMap.clearRange c.tags (b * 65536) 65536 }

/-- Name a bank by an op: clear it, take class and exponent, or find them equal (R84). -/
def State.nameBank (s : State) (n : Nat) (u : BankUse) : Except Exc State :=
  let i := s.bankInfo n u.bank
  if u.clear ∨ i.cls.isNone then
    .ok (s.upCore n fun c => { c.clearBank u.bank with
      banks := TMap.set (fun _ => BankInfo.empty) c.banks u.bank ⟨some u.cls, u.width, if u.cls = 1 then u.eacc else 0, false, false, false⟩ })
  else if i.cls ≠ some u.cls ∨ (u.cls = 1 ∧ i.eacc ≠ u.eacc) then .error ⟨0x04, 0, 0⟩
  else .ok s

/-- Let a list of products into each accumulator of a tile: `prods r c` are those of bank row r, column c, in order (R85, R86, R88). -/
def State.accumulate (s : State) (n : Nat) (u : BankUse) (rows cols : List Nat) (prods : Nat → Nat → List FVal) : State :=
  let c0 := s.core n
  let cells := rows.flatMap fun r => cols.map fun k =>
    let key := accKey u.bank r k
    let cell : Cell := ⟨TMap.get (fun _ => 0#64) c0.acc key, TMap.get (fun _ => 0) c0.tags key, false, false, false⟩
    (key, (prods r k).foldl (Cell.add u.cls u.eacc) cell)
  let i := s.bankInfo n u.bank
  s.upCore n fun c => { c with
    acc := cells.foldl (fun m x => TMap.set (fun _ => 0#64) m x.1 x.2.v) c.acc
    tags := cells.foldl (fun m x => TMap.set (fun _ => 0) m x.1 x.2.tag) c.tags
    banks := TMap.set (fun _ => BankInfo.empty) c.banks u.bank { i with
      sat := i.sat || cells.any (·.2.sat), below := i.below || cells.any (·.2.below), special := i.special || cells.any (·.2.special) } }

/-! ### The E_acc of an op (R87) -/

/-- Greatest exponent of a list of E8M0 codes, those of 0xFF left out. -/
def maxScale (codes : List Nat) : Option Int :=
  (codes.filter (· != 0xff)).foldl (fun m c => some (match m with
    | none => (c : Int) - 127
    | some x => max x ((c : Int) - 127))) none

/-- ceil(log2 k) for k ≥ 1. -/
def clog2 (k : Nat) : Nat := if k ≤ 1 then 0 else Nat.log2 (k - 1) + 1

/-- The automatic E_acc: `pairs` holds the block codes of A and of B for every block of K (R87; with no block pair left the greatest sum is a free value, log entry 22). -/
def autoEacc (fa fb kt : Nat) (pairs : List (List Nat × List Nat)) : Int :=
  let sums := pairs.filterMap fun p =>
    match maxScale p.1, maxScale p.2 with
    | some x, some y => some (x + y)
    | _, _ => none
  let top := match sums with
    | [] => ((Config.openScaleSum fa fb kt % 509 : Nat) : Int) - 254
    | x :: xs => xs.foldl max x
  top + ((elemLimits fa).2 + (elemLimits fb).2 + 1) + clog2 kt - 62

/-- E_acc of a Slab op: explicit, within -320 to 320, or automatic (R87). -/
def opEacc (op : OpWord) (cls fa fb kt : Nat) (pairs : List (List Nat × List Nat)) : Except Exc Int :=
  if cls ≠ 1 then .ok 0
  else if bit op 84 then .ok (autoEacc fa fb kt pairs)
  else
    let e := sfld op 83 74
    if e < -320 ∨ 320 < e then .error ⟨0x04, 0, 0⟩ else .ok e

/-- The declared kt: the register's value, or the op's K when it is 0; one below K raises acc_mismatch (R87, Table 5-7). -/
def declaredKt (reg : Word64) (k : Nat) : Except Exc Nat :=
  if reg = 0#64 then .ok k else if reg.toNat < k then .error ⟨0x04, 0, 0⟩ else .ok reg.toNat

/-! ### Captured operands -/

/-- A register that an op read at its dispatch (R112). -/
def QOp.s (o : QOp) (i : Nat) : Word64 := if i = 0 then 0#64 else TMap.get (fun _ => 0#64) o.sregs i
/-- A descriptor that an op read at its dispatch. -/
def QOp.d (o : QOp) (i : Nat) : Desc := descOf (TMap.get (fun _ => 0#512) o.tregs i)

/-- First failure of a list of checks. -/
def firstErr (l : List (Option Exc)) : Except Exc Unit :=
  match l.findSome? id with
  | some e => .error e
  | none => .ok ()

/-- Check a descriptor's form for an engine that reads the spaces (R120). -/
def Desc.form (d : Desc) (spaces : List Nat) : Option Exc := (d.bad spaces).map illegal

/-- An op is refused for its shapes (R123-R127). -/
def shapeIf (b : Bool) : Option Exc := if b then some (illegal 0x04) else none

/-! ### MATMUL -/

/-- Value of B element (col, k): its scales are indexed [k / 32][n] (R83). -/
def State.bElem (s : State) (n : Nat) (d : Desc) (cols col k i1 i2 i3 : Nat) : FVal :=
  scaled d.fmt (s.elemCode n d col i1 i2 i3) (if isMx d.fmt then s.scaleCode n d (k / 32 * cols + col) else 127)

/-- Negation of an operand under T1 (R134). -/
def t1 (o : QOp) (v : FVal) : FVal := if o.trf.t1 then v.neg else v

/-- Block codes of A and B per block of K, for the automatic E_acc: the code of plain FP8 is 127 (R80, R87). -/
def State.blockPairs (s : State) (n : Nat) (a b : Desc) (m cols kBlocks : Nat) : List (List Nat × List Nat) :=
  (List.range kBlocks).map fun kb =>
    (if isMx a.fmt then (List.range m).map fun r => s.scaleCode n a (r * (a.dim 0 / 32) + kb) else [127],
     if isMx b.fmt then (List.range cols).map fun c => s.scaleCode n b (kb * cols + c) else [127])

/-- Count the work of a Slab op: busy cycles, products (R81, Table 4-7), and the group's weak rotation (R210). -/
def State.slabCount (s : State) (n : Nat) (busy macs : Nat) : State :=
  ((s.count (kCore n 2 1) 64 busy).count (kCore n 2 3) 64 macs).account n 1 busy

/-- Passes of an op: ceil(K / K per pass), each of greatest(rows, tile load) cycles but the last of `rows` (R81); doubled when a tensor does not run at full rate (R83). The first tile's load counts when `first`. -/
def slabCycles (p : Pair) (bBits rows k : Nat) (half first : Bool) : Nat :=
  let passes := (k + p.kPass - 1) / p.kPass
  let l := p.kPass * p.nPass * bBits / 8 / 256
  let cyc := (passes - 1) * max rows l + rows + (if first then l else 0)
  if half then 2 * cyc else cyc

/-- Whether a tensor falls short of full rate: an innermost run below 64 bytes, or an outer stride that is no multiple of 64 (R83). -/
def Desc.halfRate (d : Desc) (run : Nat) : Bool :=
  decide (run < 64) || [1, 2, 3].any fun k => decide (1 < d.dim k) && decide (d.str k % 64 ≠ 0)

/-- A slot whose rotation is 0 for this op counts its group as weak once (R210). -/
def State.weakRot (s : State) (n : Nat) (o : QOp) (cls width : Nat) : State :=
  if o.trf.t2 && decide (cls ≤ 1) && decide (o.trf.rotK % width = 0) then
    let gs := [0, 1, 2, 3].filter fun g => ((s.core n).slot g).isOpen && ((s.core n).slot g).runB && !((s.core n).slot g).weak
    (s.count (kAssay (s.holder n) 0xa) 32 gs.length).upCore n fun c => gs.foldl (fun c g => c.setSlot g { c.slot g with weak := true }) c
  else s

/-- MATMUL's effect (R80-R89, R123). -/
def performMatmul (s : State) (n : Nat) (o : QOp) : Except Exc State := do
  let op := o.op
  let a := o.d (fld op 95 92)
  let b := o.d (fld op 91 88)
  let row := fld op 73 66
  firstErr [a.form [0], b.form [0]]
  match pairOf a.fmt b.fmt with
  | none => .error (illegal 0x03)
  | some p =>
    let k := a.dim 0
    let m := a.dim 1
    let nc := b.dim 0
    firstErr [shapeIf (decide (256 - row < m) || decide (p.nPass < nc) || b.dim 1 != k || a.dim 2 != 1 || a.dim 3 != 1 || b.dim 2 != 1 || b.dim 3 != 1
        || ((isMx a.fmt || isMx b.fmt) && decide (k % 32 ≠ 0))),
      s.reachFault n a false, s.reachFault n b false]
    let kt ← declaredKt (o.s (fld op 65 61)) k
    let pairs := s.blockPairs n a b m nc (if isMx a.fmt || isMx b.fmt then k / 32 else 1)
    let e ← opEacc op p.cls a.fmt b.fmt kt pairs
    let u : BankUse := ⟨fld op 87 86, bit op 85, p.cls, e, p.nPass⟩
    let s1 ← s.nameBank n u
    let prods (r c : Nat) : List FVal := (List.range k).map fun i =>
      (s.elem n a i (r - row) 0 0).mul (t1 o (s.bElem n b nc c i i 0 0))
    let s2 := s1.accumulate n u ((List.range m).map (row + ·)) (List.range nc) prods
    let half := a.halfRate (a.rowBytes) || b.halfRate b.rowBytes
    .ok ((s2.slabCount n (slabCycles p (elemBits b.fmt) m k half (fld s.freeNow 0 0 = 1)) (m * nc * k)).tookFree.weakRot n o p.cls p.nPass)

/-! ### CONV -/

/-- The taps that read the input for every pixel and those that some pixel reads, per dimension, and whether the op runs reduced to one tap (R155). -/
def Window.single (r : Window) (w h : Nat) : Option (Nat × Nat) :=
  let pix := List.range (r.th * r.tw)
  let iy (i ky : Nat) : Int := ((r.oy0 + i / r.tw) * r.strideH : Nat) - (r.padT : Int) + ((r.ky0 + ky) * r.dilH : Nat)
  let ix (i kx : Nat) : Int := ((r.ox0 + i % r.tw) * r.strideW : Nat) - (r.padL : Int) + ((r.kx0 + kx) * r.dilW : Nat)
  let inY (i ky : Nat) : Bool := decide (0 ≤ iy i ky) && decide (iy i ky < h)
  let inX (i kx : Nat) : Bool := decide (0 ≤ ix i kx) && decide (ix i kx < w)
  let ys := (List.range r.kh).filter fun ky => pix.any fun i => inY i ky
  let xs := (List.range r.kw).filter fun kx => pix.any fun i => inX i kx
  match ys, xs with
  | [ky], [kx] => if pix.all fun i => inY i ky && inX i kx then some (ky, kx) else none
  | _, _ => none

/-- The value of a tap: the input element, or pad_value, whose scale exponent is 0 (R146, R150, R151). -/
def State.tapVal (s : State) (n : Nat) (d : Desc) (r : Window) (i ky kx c : Nat) : FVal :=
  match r.tap true (d.dim 1) (d.dim 2) i ky kx with
  | some (ix, iy) => s.elem n d c ix iy 0
  | none => scaled d.fmt (r.padValue % 2 ^ elemBits d.fmt) 127

/-- CONV's effect (R124, R146-R155). -/
def performConv (s : State) (n : Nat) (o : QOp) : Except Exc State := do
  let op := o.op
  let a := o.d (fld op 95 92)
  let b := o.d (fld op 91 88)
  let row := fld op 73 66
  firstErr [a.form [0], b.form [0]]
  match pairOf a.fmt b.fmt with
  | none => .error (illegal 0x03)
  | some p =>
    let w ← s.window n (o.s (fld op 60 56))
    let ci := a.dim 0
    let co := b.dim 0
    let px := w.th * w.tw
    let k := w.kh * w.kw * ci
    firstErr [shapeIf (a.dim 3 != 1 || b.dim 1 != ci || b.dim 2 != w.kw || b.dim 3 != w.kh || decide (p.nPass < co) || decide (256 - row < px)
        || (isMx a.fmt && decide (ci % 32 ≠ 0)) || (isMx b.fmt && decide (k % 32 ≠ 0))),
      w.extentFault (a.dim 1) (a.dim 2) true, s.reachFault n a false, s.reachFault n b false]
    let kt ← declaredKt (o.s (fld op 65 61)) k
    let aCodes := if isMx a.fmt then
        w.taps.flatMap fun t => (List.range px).flatMap fun i =>
          match w.tap true (a.dim 1) (a.dim 2) i t.1 t.2 with
          | some (ix, iy) => (List.range (ci / 32)).map fun cb => (t, cb, s.scaleCode n a (a.scaleRow ix iy 0 + cb))
          | none => (List.range (ci / 32)).map fun cb => (t, cb, 127)
      else []
    let pairs := if isMx a.fmt || isMx b.fmt then
        w.taps.flatMap fun t => (List.range ((ci + 31) / 32)).map fun cb =>
          (if isMx a.fmt then (aCodes.filter fun x => x.1 == t && x.2.1 == cb).map (·.2.2) else [127],
           if isMx b.fmt then (List.range co).map fun c => s.scaleCode n b (((t.1 * w.kw + t.2) * ci + 32 * cb) / 32 * co + c) else [127])
      else [([127], [127])]
    let e ← opEacc op p.cls a.fmt b.fmt kt pairs
    let u : BankUse := ⟨fld op 87 86, bit op 85, p.cls, e, p.nPass⟩
    let s1 ← s.nameBank n u
    let wt (c ky kx ch : Nat) : FVal := t1 o (s.bElem n b co c ((ky * w.kw + kx) * ci + ch) ch kx ky)
    let prods (r c : Nat) : List FVal := w.taps.flatMap fun t => (List.range ci).map fun ch =>
      (s.tapVal n a w (r - row) t.1 t.2 ch).mul (wt c t.1 t.2 ch)
    let s2 := s1.accumulate n u ((List.range px).map (row + ·)) (List.range co) prods
    let half := a.halfRate a.rowBytes || b.halfRate b.rowBytes
    let reduced := w.padMode == 0 && (w.single (a.dim 1) (a.dim 2)).isSome
      && (decide (p.cls ≤ 1) || (elemVal a.fmt (w.padValue % 2 ^ elemBits a.fmt) == .fin false 0
          && w.taps.all fun t => some t == w.single (a.dim 1) (a.dim 2) || (List.range co).all fun c => (List.range ci).all fun ch => (wt c t.1 t.2 ch).isFin))
    let first := fld s.freeNow 0 0 = 1
    let cyc := if reduced then slabCycles p (elemBits b.fmt) px ci half first
          + (if p.cls ≤ 1 then slabCycles p (elemBits b.fmt) 1 (k - ci) half false else 0)
        else slabCycles p (elemBits b.fmt) px k half first
    let macs := if reduced then px * ci * co + (if p.cls ≤ 1 then (k - ci) * co else 0) else px * k * co
    .ok ((s2.slabCount n cyc macs).tookFree.weakRot n o p.cls p.nPass)

/-! ### ACCIN -/

/-- ACCIN's effect (R125). -/
def performAccin (s : State) (n : Nat) (o : QOp) : Except Exc State := do
  let op := o.op
  let a := o.d (fld op 95 92)
  let row := fld op 73 66
  let i := s.bankInfo n (fld op 87 86)
  firstErr [a.form [0]]
  let fresh := bit op 85 || i.cls.isNone
  let cls := if fresh then fld op 50 49 else i.cls.getD 0
  let e := sfld op 83 74
  let width := if fresh then (if cls = 2 then 128 else 256) else i.width
  firstErr [
    if a.fmt ≠ (if cls = 0 then codeINT32 else codeFP32) ∨ (fresh ∧ (cls = 3 ∨ bit op 84 ∨ (cls = 1 ∧ (e < -320 ∨ 320 < e)))) then some ⟨0x04, 0, 0⟩ else none,
    shapeIf (decide (256 - row < a.dim 1) || decide (width < a.dim 0) || a.dim 2 != 1 || a.dim 3 != 1),
    s.reachFault n a false]
  let u : BankUse := ⟨fld op 87 86, bit op 85, cls, if fresh then e else i.eacc, width⟩
  let s1 ← s.nameBank n u
  let s2 := s1.accumulate n u ((List.range (a.dim 1)).map (row + ·)) (List.range (a.dim 0)) fun r c => [t1 o (s.elem n a c (r - row) 0 0)]
  .ok (s2.slabCount n (16 + (a.count + 255) / 256) 0)

/-! ### READOUT -/

/-- The value that a readout takes from an accumulator (R90 step 1, R127). -/
def State.accVal (s : State) (n b row col : Nat) : FVal :=
  let c := s.core n
  let v := TMap.get (fun _ => 0#64) c.acc (accKey b row col)
  let i := s.bankInfo n b
  match i.cls with
  | none => .fin false 0
  | some 0 => FVal.ofRat false (v.toInt : Rat)
  | some 1 =>
    match TMap.get (fun _ => 0) c.tags (accKey b row col) with
    | 0 => FVal.ofRat false ((v.toInt : Rat) * pow2 i.eacc)
    | 1 => .inf false
    | 2 => .inf true
    | _ => .nan
  | some _ => f32 (v.setWidth 32)

/-- Scale or bias of column j: none, a scalar register, or a vector in local store (Table 5-9). -/
def State.colParam (s : State) (n : Nat) (o : QOp) (kind src : Nat) (dflt : FVal) (j : Nat) : FVal :=
  match kind with
  | 0 => dflt
  | 1 => f32 ((o.s src).setWidth 32)
  | _ => s.elem n (o.d src) j 0 0 0

/-- The checks of a scale or bias operand over a number of columns. -/
def State.colParamFault (s : State) (n : Nat) (o : QOp) (kind src cols : Nat) : Option Exc :=
  match kind with
  | 0 | 1 => none
  | 2 =>
    if 16 ≤ src then some (illegal 0x04)
    else
      let d := o.d src
      match d.form [0] with
      | some e => some e
      | none =>
        if d.fmt ≠ codeFP32 ∨ d.dim 0 < cols then some (illegal 0x04)
        else s.reachFault n { d with shape := [cols, 1, 1, 1] } false
  | _ => some (illegal 0x02)

/-- Clamp a code of the output format to [lo, hi]; a NaN stays (R90 step 5). -/
def clampCode (fmt lo hi code : Nat) : Nat :=
  let v := elemVal fmt code
  if v.lt (elemVal fmt lo) then lo else if (elemVal fmt hi).lt v then hi else code

/-- Rounding modes of a run of elements: nearest even, or draws from a generator, with the generator's state afterwards (R94, R95). -/
def drawModes (stoch : Bool) (count : Nat) (gen : Word64) : List RMode × Word64 :=
  if stoch then let (us, g) := srDraws count gen; (us.map .stoch, g) else (List.replicate count .rne, gen)

/-- Convert the tile of a bank and store it: shared by READOUT and by PREAD; `vals` are the taken values in logical order, and a bank without a class writes zeros (R90-R92, R127). -/
def State.readoutTile (s : State) (n : Nat) (o : QOp) (td : Desc) (empty : Bool) (vals : List FVal) (modes : List RMode) : Except Exc Written :=
  let op := o.op
  let cols := td.dim 0
  let neg := bit op 63 != o.trf.t1
  let ys := (vals.zip (List.range vals.length)).map fun x =>
    let v := if neg then x.1.negBack else x.1
    (v.mul (s.colParam n o (fld op 61 60) (fld op 59 55) (.fin false 1) (x.2 % cols))).add
      (s.colParam n o (fld op 54 53) (fld op 52 48) (.fin false 0) (x.2 % cols))
  let lo := (o.s (fld op 46 42)).toNat % 2 ^ elemBits td.fmt
  let hi := (o.s (fld op 41 37)).toNat % 2 ^ elemBits td.fmt
  if bit op 47 ∧ (elemVal td.fmt hi).lt (elemVal td.fmt lo) then .error (illegal 0x06)
  else if empty then .ok (s.wrVals n td false vals modes id)
  else .ok (s.wrVals n td (bit op 62) ys modes (if bit op 47 then clampCode td.fmt lo hi else id))

/-- READOUT's effect (R82, R90-R96, R127). -/
def performReadout (s : State) (n : Nat) (o : QOp) : Except Exc State := do
  let op := o.op
  let td := o.d (fld op 77 74)
  let bank := fld op 95 94
  let r0 := fld op 93 86
  let r1 := fld op 85 78
  let col := fld op 73 66
  let stoch := fld op 65 64 == 1
  let cols := td.dim 0
  let i := s.bankInfo n bank
  let seed := (o.s (fld op 36 32)).toNat % 2 ^ 32
  firstErr [td.form [0], if 2 ≤ fld op 65 64 then some (illegal 0x02) else none,
    shapeIf (isRaw td.fmt || r1 + 1 != r0 + td.dim 1 || td.dim 2 != 1 || td.dim 3 != 1
      || decide ((if i.cls.isSome then i.width else 256) < col + cols) || (isMx td.fmt && (decide (col % 32 ≠ 0) || decide (cols % 32 ≠ 0)))),
    if stoch ∧ o.inGroup ∧ (fld op 36 32 = 0 ∨ seed = 0) then some (illegal 0x07) else none,
    s.colParamFault n o (fld op 61 60) (fld op 59 55) cols, s.colParamFault n o (fld op 54 53) (fld op 52 48) cols,
    s.reachFault n td true]
  let vals := td.coords.map fun x => s.accVal n bank (r0 + x.2.1) (col + x.1)
  let private_ := decide (fld op 36 32 ≠ 0) && decide (seed ≠ 0)
  let (modes, gen) := drawModes stoch td.count (if private_ then srPrivate seed r0 col else s.obj (kSr n))
  let w ← s.readoutTile n o td i.cls.isNone vals modes
  let s1 := if stoch ∧ !private_ then w.s.setObj (kSr n) gen else w.s
  let fl := (if i.sat then 1 else 0) + (if i.below then 2 else 0) + (if i.special then 4 else 0)
    + (if w.satInt then 8 else 0) + (if w.satFp then 16 else 0) + (if w.nan then 32 else 0)
  .ok (s1.orObj (kArith n) fl)

end Sys2Proof.Machine
end

