-- ==== Sys2Proof/Machine/Pebble.lean ====
section
/-! DEFINITION. What Pebble computes: PCONV and PREAD over its two banks of 64 x 64 (R103-R105, R126, R158). -/

namespace Sys2Proof.Machine

def State.pebble (s : State) (c : Nat) : PebSt := TMap.get (fun _ => PebSt.init) s.peb c
def State.setPebble (s : State) (c : Nat) (p : PebSt) : State := { s with peb := TMap.set (fun _ => PebSt.init) s.peb c p }

def pebKey (bank row col : Nat) : Nat := bank * 4096 + row * 64 + col

/-- What a PCONV reads: channels, width and height of the unpacked input, and its values. -/
structure PebIn where
  ci : Nat
  w : Nat
  h : Nat
  val : Nat → Nat → Nat → Int

/-- The input of a PCONV: an INT8 tensor, or raw pixels unpacked in mosaic or planar mode (R105, R158). -/
def State.pebIn (s : State) (n : Nat) (d : Desc) (r : RawRec) : PebIn :=
  if !isRaw d.fmt then ⟨d.dim 0, d.dim 1, d.dim 2, fun c x y => sext 8 (s.elemCode n d c x y 0)⟩
  else if !r.planar then ⟨1, d.dim 1, d.dim 2, fun _ x y => rawUnpack r (s.rawPixel n d x y) (cfaChannel r.order x y)⟩
  else ⟨4, d.dim 1 / 2, d.dim 2 / 2, fun c x y =>
    let q := ([(0, 0), (1, 0), (0, 1), (1, 1)].find? fun p => cfaChannel r.order p.1 p.2 = c).getD (0, 0)
    rawUnpack r (s.rawPixel n d (2 * x + q.1) (2 * y + q.2)) c⟩

/-- The bytes of a raw row (Table 4-5). -/
def rawRowBytes (fmt w : Nat) : Nat :=
  match fmt with
  | 0x20 => w
  | 0x21 => (w + 3) / 4 * 5
  | 0x22 => (w + 1) / 2 * 3
  | _ => 2 * w

/-- First fault of the rows of a raw image (R16, R19, R108). -/
def State.rawFault (s : State) (n : Nat) (d : Desc) : Option Exc :=
  (List.range (d.dim 2)).findSome? fun y =>
    let len := rawRowBytes d.fmt (d.dim 1)
    let off := d.base + y * d.str 2
    match spaceAddr n d.space off len with
    | none => some (addressFault ((spaceAddr n d.space off 0).getD off))
    | some a =>
      if d.space = 2 ∧ !s.engineMay (s.holder n) a len false then some (addressFault a)
      else (s.poisonedAt a len).map fun p => ⟨0x03, 0, p⟩

/-- Wrap to 32-bit two's complement (R103). -/
def wrap32 (z : Int) : Word32 := BitVec.ofInt 32 z

/-- PCONV's effect on its Pebble (R103, R105, R126, R146, R158). -/
def performPconv (s : State) (n : Nat) (o : QOp) : Except Exc State := do
  let op := o.op
  let a := o.d (fld op 95 92)
  let b := o.d (fld op 91 88)
  let row := fld op 73 66
  firstErr [a.form [1, 2], b.form [1]]
  firstErr [if (a.fmt ≠ codeINT8 ∧ !isRaw a.fmt) ∨ b.fmt ≠ codeINT8 then some (illegal 0x03) else none,
    if isRaw a.fmt ∧ fld op 55 51 = 0 then some (illegal 0x04) else none]
  let raw ← if isRaw a.fmt then s.rawRec n (o.s (fld op 55 51)) else .ok ⟨[], [], 0, false⟩
  let w ← s.window n (o.s (fld op 60 56))
  let x := s.pebIn n a raw
  let px := w.th * w.tw
  let co := b.dim 0
  let k := w.kh * w.kw * x.ci
  let kt ← declaredKt (o.s (fld op 65 61)) k
  firstErr [shapeIf (a.dim 3 != 1 || b.dim 1 != x.ci || b.dim 2 != w.kw || b.dim 3 != w.kh || decide (64 < co) || decide (64 < row + px)
      || decide (65536 < kt) || (isRaw a.fmt && (a.dim 0 != 1 || (w.padMode == 1 && !raw.planar) || (raw.planar && (decide (a.dim 1 % 2 ≠ 0) || decide (a.dim 2 % 2 ≠ 0)))))),
    w.extentFault x.w x.h true,
    if isRaw a.fmt then s.rawFault n a else s.reachFault n a false, s.reachFault n b false]
  let c := n / 4
  let p := s.pebble c
  let bank := if bit op 48 then 1 else 0
  let acc := if bit op 85 then TMap.clearRange p.acc (bank * 4096) 4096 else p.acc
  let sgn : Int := if o.trf.t1 then -1 else 1
  let val (i ky kx ch : Nat) : Int :=
    match w.tap true x.w x.h i ky kx with
    | some (ix, iy) => x.val ch ix iy
    | none => sext 8 (w.padValue % 256)
  let sum (i cc : Nat) : Int := (w.taps.map fun t => ((List.range x.ci).map fun ch =>
    val i t.1 t.2 ch * (sgn * sext 8 (s.elemCode n b cc ch t.2 t.1))).sum).sum
  let cells := (List.range px).flatMap fun i => (List.range co).map fun cc => (pebKey bank (row + i) cc, sum i cc)
  let acc := cells.foldl (fun m z => TMap.set (fun _ => 0#32) m z.1 (TMap.get (fun _ => 0#32) m z.1 + wrap32 z.2)) acc
  let busy := slabCycles ⟨0, 64, 64⟩ 8 px k false (fld s.freeNow 0 0 = 1)
  .ok (((s.setPebble c { p with acc := acc, line := some s.free }).account n 3 busy).tookFree.weakRot n o 0 64)

/-- PREAD's effect (R90, R103, R126). -/
def performPread (s : State) (n : Nat) (o : QOp) : Except Exc State := do
  let op := o.op
  let td := o.d (fld op 77 74)
  let r0 := fld op 93 86
  let r1 := fld op 85 78
  let col := fld op 73 66
  let cols := td.dim 0
  firstErr [td.form [0, 1], if bit op 95 ∨ fld op 65 64 ≠ 0 then some (illegal 0x02) else none,
    shapeIf (!([codeINT8, codeINT16, codeFP16, codeBF16].contains td.fmt) || r1 + 1 != r0 + td.dim 1 || decide (63 < r1) || td.dim 2 != 1 || td.dim 3 != 1
      || decide (64 < col + cols)),
    s.colParamFault n o (fld op 61 60) (fld op 59 55) cols, s.colParamFault n o (fld op 54 53) (fld op 52 48) cols,
    s.reachFault n td true]
  let p := s.pebble (n / 4)
  let bank := if bit op 94 then 1 else 0
  let vals := td.coords.map fun x => FVal.ofRat false ((TMap.get (fun _ => 0#32) p.acc (pebKey bank (r0 + x.2.1) (col + x.1))).toInt : Rat)
  let w ← s.readoutTile n o td false vals (List.replicate td.count .rne)
  let fl := (if w.satInt then 8 else 0) + (if w.satFp then 16 else 0) + (if w.nan then 32 else 0)
  .ok ((w.s.orObj (kArith n) fl).account n 3 ((td.count + 63) / 64))

end Sys2Proof.Machine
end

