-- ==== Sys2Proof/Machine/Special.lean ====
section
/-! DEFINITION. Mica's lane functions (Table 5-11, R100, R101): binary32 and integer functions, the four special functions within 2 ulp of their value, and the reduction tree. -/

namespace Sys2Proof.Machine

/-- ln 2 and its reciprocal, to 128 fractional bits. -/
def ln2 : Rat := mkRat 235865763225513294137944142764154484399 (2 ^ 128)
def invLn2 : Rat := mkRat 490923683258796565746369346286093237521 (2 ^ 128)

/-- 2^f for 0 ≤ f < 1 by the exponential series, to well below half a binary32 ulp. -/
def exp2Frac (f : Rat) : Rat :=
  let x := f * ln2
  ((List.range 40).foldr (fun k acc => 1 + x * acc / ((k : Rat) + 1)) 1)

/-- log2 m for 1 ≤ m < 2 by the series of the inverse hyperbolic tangent. -/
def log2Frac (m : Rat) : Rat :=
  let z := (m - 1) / (m + 1)
  2 * invLn2 * ((List.range 40).foldl (fun (acc, p) k => (acc + p / ((2 * k + 1 : Nat) : Rat), p * z * z)) (0, z)).1

/-- 1 / sqrt q for a positive rational. -/
def rsqrtApprox (q : Rat) : Rat :=
  mkRat (Nat.sqrt (q.den * 2 ^ 400 / q.num.natAbs)) (2 ^ 200)

/-- A binary32 result within 2 ulp of a reference of known sign: the offset is open (R100; log entry 8). It stays between zero and infinity. -/
def within2 (func : Nat) (x ref : Word32) : Word32 :=
  let off : Int := (Config.ulpOffset func x % 5 : Nat) - 2
  let sign := ref &&& 0x80000000#32
  let mag : Int := (ref &&& 0x7fffffff#32).toNat
  sign ||| BitVec.ofNat 32 (max 0 (min 0x7f800000 (mag + off))).toNat

/-- exp2 (R100): below -149 it gives +0. -/
def micaExp2 (x : Word32) : Word32 :=
  match f32 x with
  | .nan => f32nan
  | .inf true => 0#32
  | .inf false => 0x7f800000#32
  | .fin neg mag =>
    let q := if neg then -mag else mag
    if q < -149 then 0#32
    else if 128 ≤ q then 0x7f800000#32
    else within2 0x10 x (f32ofRat (pow2 q.floor * exp2Frac (q - (q.floor : Rat))))

/-- log2 (R100); of zero and of a negative value the manual states no result (log entry 9). -/
def micaLog2 (x : Word32) : Word32 :=
  match f32 x with
  | .nan => f32nan
  | .inf false => 0x7f800000#32
  | .inf true => Config.openResult 0x11 x 0#32
  | .fin neg mag =>
    if neg || mag == 0 then Config.openResult 0x11 x 0#32
    else
      let e := ilog2 mag
      within2 0x11 x (f32ofRat ((e : Rat) + log2Frac (mag * pow2 (-e))))

/-- Reciprocal (R100); of zero the manual states no result (log entry 9). -/
def micaRecip (x : Word32) : Word32 :=
  match f32 x with
  | .nan => f32nan
  | .inf neg => if neg then 0x80000000#32 else 0#32
  | .fin neg mag =>
    if mag = 0 then Config.openResult 0x12 x 0#32
    else within2 0x12 x (toF32 (.fin neg (1 / mag)))

/-- Reciprocal square root (R100); of zero and of a negative value the manual states no result (log entry 9). -/
def micaRsqrt (x : Word32) : Word32 :=
  match f32 x with
  | .nan => f32nan
  | .inf false => 0#32
  | .inf true => Config.openResult 0x13 x 0#32
  | .fin neg mag =>
    if neg || mag == 0 then Config.openResult 0x13 x 0#32
    else within2 0x13 x (f32ofRat (rsqrtApprox mag))

/-- Minimum or maximum: with a NaN operand, or between zeros of unlike sign, either outcome that IEEE 754 knows is open (log entry 9). -/
def micaMinMax (isMax : Bool) (a b : Word32) : Word32 :=
  let code := if isMax then 0x05 else 0x04
  let pick (x y : Word32) : Word32 := if bit (Config.openResult code a b) 0 then x else y
  if f32 a = .nan ∧ f32 b = .nan then f32nan
  else if f32 a = .nan then pick f32nan b
  else if f32 b = .nan then pick f32nan a
  else if f32eq a b then (if a = b then a else pick a b)
  else if f32lt a b = isMax then b else a

/-- Every NaN result is the canonical one (R100). -/
def canonNan (a : Word32) : Word32 := if f32 a = .nan then f32nan else a

/-- Number of operands that a function reads (Table 5-11). -/
def micaArity (func : Nat) : Nat :=
  match func with
  | 0x03 | 0x1a => 3
  | 0x00 | 0x01 | 0x02 | 0x04 | 0x05 | 0x06 | 0x07 | 0x08 | 0x09 | 0x0a | 0x0b | 0x0c => 2
  | _ => 1

/-- Whether a function code exists for floating-point or for integer lanes (Table 5-11). -/
def micaKnown (isInt_ : Bool) (func : Nat) : Bool :=
  if isInt_ then [0x00, 0x01, 0x02, 0x03, 0x04, 0x05, 0x06, 0x07, 0x08, 0x09, 0x0a, 0x0b, 0x0c, 0x14, 0x15, 0x18, 0x19, 0x1a].contains func
  else [0x00, 0x01, 0x02, 0x03, 0x04, 0x05, 0x06, 0x07, 0x10, 0x11, 0x12, 0x13, 0x14, 0x15, 0x18, 0x19, 0x1a].contains func

/-- A binary32 lane function (Table 5-11, R100). -/
def micaF (func : Nat) (a b c : Word32) : Word32 :=
  match func with
  | 0x00 => f32add a b
  | 0x01 => f32sub a b
  | 0x02 => f32mul a b
  | 0x03 => f32fma a b c
  | 0x04 => micaMinMax false a b
  | 0x05 => micaMinMax true a b
  | 0x06 => if f32lt a b then 0x3f800000#32 else 0#32
  | 0x07 => if f32eq a b then 0x3f800000#32 else 0#32
  | 0x10 => micaExp2 a
  | 0x11 => micaLog2 a
  | 0x12 => micaRecip a
  | 0x13 => micaRsqrt a
  | 0x14 => canonNan (a &&& 0x7fffffff#32)
  | 0x15 => f32neg a
  | 0x1a => if f32eq c 0#32 then canonNan b else canonNan a
  | _ => canonNan a

/-- An integer lane function on `w`-bit values; results beyond the lane, and shifts by its width or more, have no stated result (log entry 9). -/
def micaI (w func : Nat) (a b c : Int) : Int :=
  let open_ : Int := sext w (Config.openResult (func + 0x100 * w) (BitVec.ofInt 32 a) (BitVec.ofInt 32 b)).toNat
  let fit (z : Int) : Int := if sext w (wrapInt w z) = z then z else open_
  let bits (f : Nat → Nat → Nat) : Int := sext w (f (wrapInt w a) (wrapInt w b))
  match func with
  | 0x00 => fit (a + b)
  | 0x01 => fit (a - b)
  | 0x02 => fit (a * b)
  | 0x03 => fit (a * b + c)
  | 0x04 => min a b
  | 0x05 => max a b
  | 0x06 => if a < b then 1 else 0
  | 0x07 => if a = b then 1 else 0
  | 0x08 => bits (· &&& ·)
  | 0x09 => bits (· ||| ·)
  | 0x0a => bits (· ^^^ ·)
  | 0x0b => if 0 ≤ b ∧ b < w then sext w (wrapInt w a * 2 ^ b.toNat) else open_
  | 0x0c => if 0 ≤ b ∧ b < w then a / 2 ^ b.toNat else open_
  | 0x14 => fit a.natAbs
  | 0x15 => fit (-a)
  | 0x1a => if c = 0 then b else a
  | _ => a

/-- One level of the tree of R101: neighbours combine, an odd last one passes. -/
def treeLevel {α : Type} (f : α → α → α) : List α → List α
  | a :: b :: r => f a b :: treeLevel f r
  | l => l

/-- The fixed tree over up to 256 lanes: eight levels (R101). -/
def treeReduce {α : Type} (f : α → α → α) (l : List α) : Option α :=
  ((List.range 8).foldl (fun m _ => treeLevel f m) l).head?

/-- Elements of an axis, 256 to a register: each register by the tree, the registers' results in ascending order (R128). -/
def regReduce {α : Type} (f : α → α → α) (l : List α) : Option α :=
  let regs := (List.range ((l.length + 255) / 256)).filterMap fun r => treeReduce f ((l.drop (256 * r)).take 256)
  match regs with
  | [] => none
  | x :: xs => some (xs.foldl f x)

end Sys2Proof.Machine
end

