-- ==== Sys2Proof/Machine/Mica.lean ====
section
/-! DEFINITION. What Mica computes: vector register ops, tensor forms, pooling, shading batches and the signature fold (R99-R102, R128, R159, R211-R213, R306). -/

namespace Sys2Proof.Machine

/-! ### Vector registers -/

/-- Key of logical lane e of register r under a lane rotation (R211). -/
def laneKey (r e rot : Nat) : Nat := r % 256 * 256 + (e + rot) % 256

/-- Lane rotation of an op (T3, R211). -/
def Trf.rot (t : Trf) : Nat := if t.t3 then t.laneRot else 0

def State.lane (s : State) (n r e rot : Nat) : Word32 := TMap.get (fun _ => 0#32) (s.core n).vregs (laneKey r e rot)

/-- Write every logical lane of a register. -/
def State.setLanes (s : State) (n r rot : Nat) (f : Nat → Word32) : State :=
  s.upCore n fun c => { c with vregs := (List.range 256).foldl (fun m e => TMap.set (fun _ => 0#32) m (laneKey r e rot) (f e)) c.vregs }

/-- Local store offset of VLD and VST: register plus I32, 64-byte aligned, `len` bytes inside the local store (Table 5-10). -/
def vecOff (n : Nat) (o : QOp) (len lo : Nat) : Except Exc Nat :=
  let a := (o.s (fld o.op 79 75) + BitVec.ofInt 64 (sfld o.op 74 43)).toNat
  if a % 64 ≠ 0 then .error (illegal 0x09)
  else if lstoreSize < a + len ∨ a < lo then .error (addressFault (lstoreBase n + a))
  else .ok a

/-- Cycles in which Mica issued the op: exact for register ops, open up to the bound for tensor forms (Table 5-15, Table 4-7; log entry 23). -/
def State.micaCount (s : State) (n cycles : Nat) : State := (s.count (kCore n 2 2) 64 cycles).account n 2 cycles
def State.micaCountOpen (s : State) (n bound : Nat) : State :=
  (s.micaCount n (s.freeNow.toNat % bound + 1)).tookFree

/-- VLD from offset lo on (R102, R211, Table 5-10). -/
def State.vecLoad (s : State) (n : Nat) (o : QOp) (lo : Nat) : Except Exc State := do
  let cnt := fld o.op 87 80 + 1
  let a ← vecOff n o (1024 * cnt) lo
  match s.poisonedAt (lstoreBase n + a) (1024 * cnt) with
  | some p => .error ⟨0x03, 0, p⟩
  | none =>
    let s' := s.forEach (List.range cnt) fun s j =>
      s.setLanes n (fld o.op 95 88 + j) o.trf.rot fun e => BitVec.ofNat 32 (s.rdN (lstoreBase n + a + 1024 * j + 4 * e) 4)
    .ok (s'.micaCount n ((cnt + 1) / 2))

/-- VST from offset lo on (R102, R211, Table 5-10). -/
def State.vecStore (s : State) (n : Nat) (o : QOp) (lo : Nat) : Except Exc State := do
  let cnt := fld o.op 87 80 + 1
  let a ← vecOff n o (1024 * cnt) lo
  let s' := s.forEach (List.range cnt) fun s j =>
    s.wr (lstoreBase n + a + 1024 * j) ((List.range 256).flatMap fun e => leBytes 4 (s.lane n (fld o.op 95 88 + j) e o.trf.rot).toNat)
  .ok (s'.micaCount n cnt)

def performVld (s : State) (n : Nat) (o : QOp) : Except Exc State := s.vecLoad n o 0
def performVst (s : State) (n : Nat) (o : QOp) : Except Exc State := s.vecStore n o 0

/-! ### VOP -/

/-- Format and number of values of a lane type (Table 5-10). -/
def laneFmt (lanes : Nat) : Nat × Nat :=
  match lanes with
  | 0 => (codeFP32, 1)
  | 1 => (codeBF16, 2)
  | 2 => (codeFP16, 2)
  | 3 => (codeINT32, 1)
  | 4 => (codeINT16, 2)
  | _ => (codeINT8, 4)

/-- Value i of a lane: its code. -/
def subLane (bits i : Nat) (w : Word32) : Nat := w.toNat / 2 ^ (bits * i) % 2 ^ bits

/-- A lane function on one value: binary32 for floating-point lanes, rounded once to a packed format; integers in their own width (R100). -/
def laneFn (fmt func : Nat) (a b c : Nat) : Nat :=
  if isInt fmt then wrapInt (elemBits fmt) (micaI (elemBits fmt) func (sext (elemBits fmt) a) (sext (elemBits fmt) b) (sext (elemBits fmt) c))
  else
    let up (x : Nat) : Word32 := toF32 (elemVal fmt x)
    (convTo fmt .rne false (f32 (micaF func (up a) (up b) (up c)))).code

/-- Build a lane from its values. -/
def packLane (bits : Nat) (vs : List Nat) : Word32 := BitVec.ofNat 32 (vs.foldr (fun v acc => v % 2 ^ bits + acc * 2 ^ bits) 0)

/-- Operand b of a VOP lane: a register lane, or the scalar in every value (Table 5-11). -/
def scalarB (fmt : Nat) (v : Word64) : Nat :=
  if isInt fmt then v.toNat % 2 ^ elemBits fmt else (convTo fmt .rne false (f32 (v.setWidth 32))).code

/-- Convert one value by VOP: which side is the source is open (Table 5-10; log entry 25). -/
def vopConvert (toFmt : Bool) (lfmt cfmt : Nat) (mode : RMode) (a : Nat) : Nat :=
  let dst := if toFmt then cfmt else lfmt
  let src := if toFmt then lfmt else cfmt
  let v := elemVal src (a % 2 ^ elemBits src)
  if isMx dst then (convMxElem dst mode v).code else (convTo dst mode false v).code

/-- VOP's effect (R99-R101, R211, Table 5-11). -/
def performVop (s : State) (n : Nat) (o : QOp) : Except Exc State := do
  let op := o.op
  let code := fld op 95 88
  let func := code % 128
  let lanes := fld op 55 53
  let vd := fld op 87 80
  let va := fld op 79 72
  let vb := fld op 71 64
  let vc := fld op 63 56
  let cf := fld op 51 44
  let rot := o.trf.rot
  let (fmt, k) := laneFmt lanes
  let bits := elemBits fmt
  let isRed := func == 0x20 || func == 0x21 || func == 0x22
  if 5 < lanes ∨ !(isRed || micaKnown (isInt fmt) func) ∨ (func = 0x18 ∧ (!fmtKnown cf ∨ isRaw cf)) then .error (illegal 0x02)
  else
    let a (e : Nat) : Word32 := s.lane n va e rot
    let b (e i : Nat) : Nat := if 128 ≤ code then scalarB fmt (o.s (fld op 43 39)) else subLane bits i (s.lane n vb e rot)
    let c (e i : Nat) : Nat := subLane bits i (s.lane n vc e rot)
    if isRed then
      let f := if func = 0x20 then 0x00 else if func = 0x21 then 0x05 else 0x04
      let res := packLane bits ((List.range k).map fun i =>
        (treeReduce (fun x y => laneFn fmt f x y 0) ((List.range 256).map fun e => subLane bits i (a e))).getD 0)
      .ok (((s.setLanes n vd rot fun e => if e = 0 then res else (Config.freeValue (s.free + e)).setWidth 32).tookFree 256).micaCount n 1)
    else if func = 0x18 then
      let toFmt := fld s.freeNow 0 0 == 1
      let (modes, gen) := drawModes (bit op 52) (256 * k) (s.obj (kSr n))
      let s' := s.setLanes n vd rot fun e => packLane bits ((List.range k).map fun i =>
        vopConvert toFmt fmt cf (modes.getD (e * k + i) .rne) (subLane bits i (a e)))
      let s' := if bit op 52 then s'.setObj (kSr n) gen else s'
      .ok (s'.tookFree.micaCount n 1)
    else
      .ok ((s.setLanes n vd rot fun e => packLane bits ((List.range k).map fun i => laneFn fmt func (subLane bits i (a e)) (b e i) (c e i))).micaCount n 1)

/-! ### Tensor forms -/

/-- Fields of the tensor forms (Table 5-10). -/
def tfTd (op : OpWord) : Nat := fld op 95 92
def tfTa (op : OpWord) : Nat := fld op 91 88
def tfTb (op : OpWord) : Nat := fld op 87 84
def tfTc (op : OpWord) : Nat := fld op 83 80
def tfFunc (op : OpWord) : Nat := fld op 79 72
def tfAxis (op : OpWord) : Nat := fld op 71 70
def tfSa (op : OpWord) : Nat := fld op 69 65
def tfSr (op : OpWord) : Bool := bit op 64

/-- An element as binary32 (R100, R128). -/
def State.micaElem (s : State) (n : Nat) (d : Desc) (x : Nat × Nat × Nat × Nat) : Word32 :=
  toF32 (s.elem n d x.1 x.2.1 x.2.2.1 x.2.2.2)

/-- An element of an integer tensor. -/
def State.intElem (s : State) (n : Nat) (d : Desc) (x : Nat × Nat × Nat × Nat) : Int :=
  sext (elemBits d.fmt) (s.elemCode n d x.1 x.2.1 x.2.2.1 x.2.2.2)

/-- Coordinate k of a position. -/
def coord (x : Nat × Nat × Nat × Nat) (k : Nat) : Nat :=
  match k with
  | 0 => x.1 | 1 => x.2.1 | 2 => x.2.2.1 | _ => x.2.2.2
/-- A position with coordinate k replaced. -/
def setCoord (x : Nat × Nat × Nat × Nat) (k v : Nat) : Nat × Nat × Nat × Nat :=
  match k with
  | 0 => (v, x.2.1, x.2.2.1, x.2.2.2) | 1 => (x.1, v, x.2.2.1, x.2.2.2) | 2 => (x.1, x.2.1, v, x.2.2.2) | _ => (x.1, x.2.1, x.2.2.1, v)

/-- The position that a broadcast operand is read at (R128). -/
def bcast (d : Desc) (x : Nat × Nat × Nat × Nat) : Nat × Nat × Nat × Nat :=
  (if d.dim 0 = 1 then 0 else x.1, if d.dim 1 = 1 then 0 else x.2.1, if d.dim 2 = 1 then 0 else x.2.2.1, if d.dim 3 = 1 then 0 else x.2.2.2)

/-- Whether an operand's sizes match another's, size 1 broadcasting (R128). -/
def bcastOk (d td : Desc) : Bool := [0, 1, 2, 3].all fun k => d.dim k == 1 || d.dim k == td.dim k

/-- Whether two tensors have equal sizes but on one axis. -/
def sameBut (a b : Desc) (axis : Nat) : Bool := [0, 1, 2, 3].all fun k => k == axis || a.dim k == b.dim k

/-- Checks of an output or input of a tensor form: its form, no RAW format, its span. -/
def State.tfDesc (s : State) (n : Nat) (d : Desc) (write : Bool) : Option Exc :=
  match d.form [0] with
  | some e => some e
  | none => if isRaw d.fmt ∨ (isMx d.fmt ∧ d.dim 0 % 32 ≠ 0) then some (illegal 0x04) else s.reachFault n d write

/-- Store a tensor form's results, converted by nearest even or stochastically from the core generator (R100). -/
def State.tfStore (s : State) (n : Nat) (d : Desc) (sr : Bool) (vals : List FVal) : State :=
  let (modes, gen) := drawModes sr d.count (s.obj (kSr n))
  let s' := (s.wrVals n d false vals modes id).s
  if sr then s'.setObj (kSr n) gen else s'

/-- TEW's effect (R128). -/
def performTew (s : State) (n : Nat) (o : QOp) : Except Exc State := do
  let op := o.op
  let td := o.d (tfTd op)
  let ta := o.d (tfTa op)
  let tb := o.d (tfTb op)
  let tc := o.d (tfTc op)
  let func := tfFunc op % 128
  let scalar := decide (128 ≤ tfFunc op)
  let useB := decide (2 ≤ micaArity func) && !scalar
  let useC := decide (3 ≤ micaArity func)
  firstErr ([s.tfDesc n td true, s.tfDesc n ta false] ++ (if useB then [s.tfDesc n tb false] else []) ++ (if useC then [s.tfDesc n tc false] else []))
  let ints := isInt td.fmt && isInt ta.fmt && (!useB || isInt tb.fmt) && (!useC || isInt tc.fmt)
  firstErr [if !micaKnown ints func then some (illegal 0x02) else none,
    shapeIf (!bcastOk ta td || (useB && !bcastOk tb td) || (useC && !bcastOk tc td))]
  let vals := td.coords.map fun x =>
    if ints then
      let g (d : Desc) : Int := s.intElem n d (bcast d x)
      FVal.ofRat false (micaI 32 func (g ta) (if scalar then sext 32 (o.s (tfSa op)).toNat else if useB then g tb else 0) (if useC then g tc else 0) : Rat)
    else
      let g (d : Desc) : Word32 := s.micaElem n d (bcast d x)
      f32 (micaF func (g ta) (if scalar then (o.s (tfSa op)).setWidth 32 else if useB then g tb else 0#32) (if useC then g tc else 0#32))
  .ok ((s.tfStore n td (tfSr op) vals).micaCountOpen n (16 + (td.count + 63) / 64))

/-- Values along an axis at a position. -/
def State.axisVals (s : State) (n : Nat) (d : Desc) (axis : Nat) (x : Nat × Nat × Nat × Nat) : List Word32 :=
  (List.range (d.dim axis)).map fun i => s.micaElem n d (setCoord x axis i)

/-- TRED's effect (R101, R128). -/
def performTred (s : State) (n : Nat) (o : QOp) : Except Exc State := do
  let op := o.op
  let td := o.d (tfTd op)
  let ta := o.d (tfTa op)
  let axis := tfAxis op
  firstErr [s.tfDesc n td true, s.tfDesc n ta false, if 2 < tfFunc op then some (illegal 0x02) else none,
    shapeIf (!sameBut td ta axis || td.dim axis != 1)]
  let f := if tfFunc op = 0 then 0x00 else if tfFunc op = 1 then 0x05 else 0x04
  let ints := isInt td.fmt && isInt ta.fmt
  let vals := td.coords.map fun x =>
    if ints then
      FVal.ofRat false ((regReduce (fun p q => micaI 32 f p q 0) ((List.range (ta.dim axis)).map fun i => s.intElem n ta (setCoord x axis i))).getD 0 : Rat)
    else f32 ((regReduce (fun p q => micaF f p q 0#32) (s.axisVals n ta axis x)).getD 0#32)
  .ok ((s.tfStore n td (tfSr op) vals).micaCountOpen n (16 + (ta.count + 255) / 256))

/-- Product of the exponent of a softmax element: exp2((x - m) × scale) (R128). -/
def smxExp (x m scale : Word32) : Word32 := micaExp2 (f32mul (f32sub x m) scale)

/-- TSMX's effect: phase 0 the maximum; phase 1 the exponentials of ta over the maximum in tb, with the row sum in tc; phase 2 the product with the reciprocal of the sum in tc (R128; log entry 26). -/
def performTsmx (s : State) (n : Nat) (o : QOp) : Except Exc State := do
  let op := o.op
  let td := o.d (tfTd op)
  let ta := o.d (tfTa op)
  let tb := o.d (tfTb op)
  let tc := o.d (tfTc op)
  let axis := tfAxis op
  let scale : Word32 := (o.s (tfSa op)).setWidth 32
  firstErr [s.tfDesc n td true, s.tfDesc n ta false, if 2 < tfFunc op then some (illegal 0x02) else none]
  let bound := 16 + (ta.count + 63) / 64
  match tfFunc op with
  | 0 =>
    firstErr [shapeIf (!sameBut td ta axis || td.dim axis != 1)]
    let vals := td.coords.map fun x => f32 ((regReduce (micaMinMax true) (s.axisVals n ta axis x)).getD 0#32)
    .ok ((s.tfStore n td (tfSr op) vals).micaCountOpen n bound)
  | 1 =>
    firstErr [s.tfDesc n tb false, s.tfDesc n tc true,
      shapeIf (!sameBut td ta 4 || !sameBut tb ta axis || tb.dim axis != 1 || !sameBut tc ta axis || tc.dim axis != 1)]
    let e (x : Nat × Nat × Nat × Nat) : Word32 := smxExp (s.micaElem n ta x) (s.micaElem n tb (setCoord x axis 0)) scale
    let vals := td.coords.map fun x => f32 (e x)
    let sums := tc.coords.map fun x => f32 ((regReduce f32add ((List.range (ta.dim axis)).map fun i => e (setCoord x axis i))).getD 0#32)
    .ok (((s.tfStore n td (tfSr op) vals).tfStore n tc (tfSr op) sums).micaCountOpen n bound)
  | _ =>
    firstErr [s.tfDesc n tc false, shapeIf (!sameBut td ta 4 || !sameBut tc ta axis || tc.dim axis != 1)]
    let vals := td.coords.map fun x => f32 (f32mul (s.micaElem n ta x) (micaRecip (s.micaElem n tc (setCoord x axis 0))))
    .ok ((s.tfStore n td (tfSr op) vals).micaCountOpen n bound)

/-- TNORM's effect: each element takes the value that Config leaves open for its row, gamma, beta and epsilon (R128; log entry 24). -/
def performTnorm (s : State) (n : Nat) (o : QOp) : Except Exc State := do
  let op := o.op
  let td := o.d (tfTd op)
  let ta := o.d (tfTa op)
  let tb := o.d (tfTb op)
  let tc := o.d (tfTc op)
  let axis := tfAxis op
  firstErr [s.tfDesc n td true, s.tfDesc n ta false, s.tfDesc n tb false, s.tfDesc n tc false,
    if 1 < tfFunc op then some (illegal 0x02) else none,
    shapeIf (!sameBut td ta 4 || !bcastOk tb ta || !bcastOk tc ta)]
  let vals := td.coords.map fun x =>
    f32 (Config.openNorm (tfFunc op) (s.axisVals n ta axis x) (s.micaElem n tb (bcast tb x)) (s.micaElem n tc (bcast tc x))
      ((o.s (tfSa op)).setWidth 32) (coord x axis))
  .ok ((s.tfStore n td (tfSr op) vals).micaCountOpen n (16 + (ta.count + 63) / 64))

/-- Device address of the element that an index names, for exc_info. -/
def Desc.indexAddr (d : Desc) (n axis : Nat) (i : Int) : Nat :=
  let step : Nat := if axis = 0 then elemBits d.fmt / 8 else d.str axis
  wrapInt 48 ((((spaceAddr n d.space 0 0).getD 0 + d.base : Nat) : Int) + i * step)

/-- GATHER's effect: td[.., j, ..] := ta[.., index, ..], the index read from tb, broadcast to td (R128; log entry 27). -/
def performGather (s : State) (n : Nat) (o : QOp) : Except Exc State := do
  let op := o.op
  let td := o.d (tfTd op)
  let ta := o.d (tfTa op)
  let tb := o.d (tfTb op)
  let axis := tfAxis op
  firstErr [s.tfDesc n td true, s.tfDesc n ta false, s.tfDesc n tb false, if tfFunc op ≠ 0 then some (illegal 0x02) else none,
    shapeIf (tb.fmt != codeINT32 || !sameBut td ta axis || !bcastOk tb td)]
  let idx (x : Nat × Nat × Nat × Nat) : Int := s.intElem n tb (bcast tb x)
  match td.coords.find? fun x => decide (idx x < 0) || decide ((ta.dim axis : Int) ≤ idx x) with
  | some x => .error (addressFault (ta.indexAddr n axis (idx x)))
  | none =>
    let src (x : Nat × Nat × Nat × Nat) := setCoord x axis (idx x).toNat
    let s' := if ta.fmt = td.fmt ∧ !isMx td.fmt then
        s.wrTensor n td fun i0 i1 i2 i3 => let y := src (i0, i1, i2, i3); s.elemCode n ta y.1 y.2.1 y.2.2.1 y.2.2.2
      else s.tfStore n td (tfSr op) (td.coords.map fun x => let y := src x; s.elem n ta y.1 y.2.1 y.2.2.1 y.2.2.2)
    .ok (s'.micaCountOpen n (16 + (td.count + 63) / 64))

/-- SCATTER's effect: td[.., index, ..] := ta[.., j, ..]; of several elements that name one target the last in index position is written; what no element names stays (R102, R128; log entry 27). -/
def performScatter (s : State) (n : Nat) (o : QOp) : Except Exc State := do
  let op := o.op
  let td := o.d (tfTd op)
  let ta := o.d (tfTa op)
  let tb := o.d (tfTb op)
  let axis := tfAxis op
  firstErr [s.tfDesc n td true, s.tfDesc n ta false, s.tfDesc n tb false, if tfFunc op ≠ 0 then some (illegal 0x02) else none,
    shapeIf (tb.fmt != codeINT32 || !sameBut td ta axis || !bcastOk tb ta || isMx td.fmt)]
  let idx (x : Nat × Nat × Nat × Nat) : Int := s.intElem n tb (bcast tb x)
  let (modes, gen) := drawModes (tfSr op) ta.count (s.obj (kSr n))
  let code (x : Nat × Nat × Nat × Nat) (mode : RMode) : Nat :=
    if ta.fmt = td.fmt then s.elemCode n ta x.1 x.2.1 x.2.2.1 x.2.2.2 else (convTo td.fmt mode false (s.elem n ta x.1 x.2.1 x.2.2.1 x.2.2.2)).code
  let moves := (ta.coords.zip modes).map fun z => (idx z.1, setCoord z.1 axis (idx z.1).toNat, code z.1 z.2)
  let put (s : State) (ms : List (Int × (Nat × Nat × Nat × Nat) × Nat)) : State :=
    s.wrTensor n td fun i0 i1 i2 i3 =>
      match ms.reverse.find? fun z => z.2.1 == (i0, i1, i2, i3) with
      | some z => z.2.2
      | none => s.elemCode n td i0 i1 i2 i3
  match moves.find? fun z => decide (z.1 < 0) || decide ((td.dim axis : Int) ≤ z.1) with
  | some z => .error (addressFault (td.indexAddr n axis z.1))
  | none =>
    let s' := put s moves
    let s' := if tfSr op && decide (ta.fmt ≠ td.fmt) then s'.setObj (kSr n) gen else s'
    .ok (s'.micaCountOpen n (16 + (ta.count + 63) / 64))

/-- TPOOL's effect (R148-R152, R159). -/
def performTpool (s : State) (n : Nat) (o : QOp) : Except Exc State := do
  let op := o.op
  let td := o.d (tfTd op)
  let ta := o.d (tfTa op)
  firstErr [s.tfDesc n td true, s.tfDesc n ta false, if 1 < tfFunc op then some (illegal 0x02) else none]
  let w ← s.window n (o.s (tfSa op))
  firstErr [shapeIf (ta.dim 3 != 1 || td.dim 0 != ta.dim 0 || td.dim 1 != w.tw || td.dim 2 != w.th || td.dim 3 != 1),
    w.extentFault (ta.dim 1) (ta.dim 2) false]
  let val (i c : Nat) (t : Nat × Nat) : Word32 :=
    match w.tap false (ta.dim 1) (ta.dim 2) i t.1 t.2 with
    | some (ix, iy) => s.micaElem n ta (c, ix, iy, 0)
    | none => toF32 (scaled ta.fmt (w.padValue % 2 ^ elemBits ta.fmt) 127)
  let one (i c : Nat) : Word32 :=
    let vs := w.taps.map (val i c)
    let r := match vs with
      | [] => 0#32
      | x :: xs => xs.foldl (if tfFunc op = 0 then micaMinMax true else f32add) x
    if tfFunc op = 0 then r else f32div r (f32ofInt (w.kh * w.kw : Nat))
  let vals := td.coords.map fun x => f32 (one (x.2.2.1 * w.tw + x.2.1) x.1)
  .ok ((s.tfStore n td (tfSr op) vals).micaCountOpen n (16 + (td.count * w.kh * w.kw + 63) / 64))

/-! ### SHADE and AFOLD -/

/-- The graphics partition, if one has the flag (R234). -/
def State.gfxPart (s : State) : Option Nat := (List.range 16).find? fun p => s.oBit (kPart p 3) 0

/-- Partition of an instance. -/
def State.partOf (s : State) (m : Nat) : Nat := s.objN (kInst m 1 1)

/-- One op word of a shading program: VLD, VST or VOP with a zero header (R306). -/
def State.shadeOp (s : State) (n : Nat) (o : QOp) (w : OpWord) : Except Exc State :=
  let o' := { o with op := w }
  if fld w 119 103 ≠ 0 then .error (illegal 0x02)
  else
    match opOf w with
    | 0x40 => s.vecLoad n o' 0x780000
    | 0x41 => s.vecStore n o' 0x780000
    | 0x42 => performVop s n o'
    | _ => .error (illegal 0x08)

/-- Run the op words of a program in order. -/
def State.shadeRun (s : State) (n : Nat) (o : QOp) : List OpWord → Except Exc State
  | [] => .ok s
  | w :: ws =>
    match s.shadeOp n o w with
    | .error e => .error e
    | .ok s' => s'.shadeRun n o ws

/-- SHADE's effect on one batch (R306). -/
def performShade (s : State) (n : Nat) (o : QOp) : Except Exc State := do
  let op := o.op
  let b := (o.s (fld op 90 86)).toNat
  let base := (o.s (fld op 95 91)).toNat
  let gfx := match s.gfxPart with
    | some p => decide (s.partOf (s.holder n) = p)
    | none => false
  if !gfx ∨ o.inGroup then .error (illegal 0x08)
  else if lstoreSize < b + 0x4000 ∨ lstoreSize < base then .error (addressFault (lstoreBase n + b))
  else
    let l := lstoreBase n
    let h := s.rd (l + b) 64
    let count := leAt h 4 2
    if leAt h 0 1 = 0 then .ok (s.micaCount n 1)
    else if leAt h 3 1 ≠ 0 ∨ leAt h 0x14 44 ≠ 0 then .error (illegal 0x02)
    else if 2 < leAt h 0 1 ∨ leAt h 1 1 < 1 ∨ 7 < leAt h 1 1 ∨ count < 1 ∨ 256 < count ∨ leAt h 8 2 < 1 ∨ 16384 < leAt h 6 2 + leAt h 8 2 ∨ 8 < leAt h 2 1 then .error (illegal 0x04)
    else if lstoreSize < base + 16 * (leAt h 6 2 + leAt h 8 2) then .error (addressFault (l + base))
    else
      let s1 := s.forEach (List.range (leAt h 1 1)) fun s j => s.setLanes n j o.trf.rot fun e =>
        if e < count then BitVec.ofNat 32 (s.rdN (l + b + 0x40 + 0x400 * j + 4 * e) 4) else s.lane n j e o.trf.rot
      let prog := (List.range (leAt h 8 2)).map fun i => BitVec.ofNat 128 (s.rdN (l + base + 16 * (leAt h 6 2 + i)) 16)
      let s2 ← s1.shadeRun n o prog
      let s3 := s2.forEach (List.range (leAt h 2 1)) fun s j =>
        (s.wr (l + b + 0x1c40 + 0x400 * j) ((List.range 256).flatMap fun e =>
          leBytes 4 (if e < count then (s.lane n j e o.trf.rot).toNat else (Config.freeValue (s.free + e)).toNat))).tookFree 256
      .ok ((s3.micaCount n ((leAt h 1 1 + 1) / 2 + leAt h 2 1)).emit (.garnetNotify n (leAt h 0xc 4) (leAt h 0x10 4)))

/-- The bytes that AFOLD folds: a header, the elements in logical order, and for an MX format the scales (R213). -/
def State.foldBytes (s : State) (n : Nat) (d : Desc) : List Byte :=
  leBytes 1 d.fmt ++ leBytes 7 0 ++ d.shape.flatMap (leBytes 4)
    ++ d.rows.flatMap (fun r => packCodes (elemBits d.fmt) ((List.range (d.dim 0)).map fun i => s.elemCode n d i r.1 r.2.1 r.2.2))
    ++ (if isMx d.fmt then (List.range (d.count / 32)).map fun k => BitVec.ofNat 8 (s.scaleCode n d k) else [])

/-- AFOLD's effect (R213). -/
def performAfold (s : State) (n : Nat) (o : QOp) : Except Exc State := do
  let g := fld o.op 95 94
  let d := o.d (fld o.op 93 90)
  firstErr [s.tfDesc n d false]
  let bytes := s.foldBytes n d
  .ok ((s.upCore n fun c => c.setSlot g { c.slot g with sig := crc64Fold (c.slot g).sig bytes }).micaCountOpen n (16 + (bytes.length + 255) / 256))

end Sys2Proof.Machine
end

