-- ==== Sys2Proof/Machine/Dma.lean ====
section
/-! DEFINITION. What the core DMA does: DMOV, DFILL and the collectives of COLL (R17, R108, R116, R129, R182-R185, R224). -/

namespace Sys2Proof.Machine

/-- Checks of a descriptor of a DMA op: every space of Table 5-4, no RAW format, whole MX blocks (R120). -/
def Desc.dmaForm (d : Desc) : Option Exc :=
  match d.form [0, 1, 2] with
  | some e => some e
  | none => if isRaw d.fmt ∨ (isMx d.fmt ∧ d.dim 0 % 32 ≠ 0) then some (illegal 0x04) else none

/-- Write bytes at an offset of a space for core n: into a remote device window they leave over its link (R17). -/
def State.dmaPut (s : State) (n space off : Nat) (bs : List Byte) : State :=
  let a := devAddr n space off
  match unitOf a with
  | some (.remote k) => s.emit (.remoteWrite k (a % 0x10000000000) bs)
  | _ => s.wr a bs

/-- Write a tensor's rows from element codes, and count its bytes (Table 4-7, R255). -/
def State.dmaTensor (s : State) (n : Nat) (d : Desc) (f : Nat → Nat → Nat → Nat → Nat) : State :=
  let s := s.forEach d.rows fun s r =>
    s.dmaPut n d.space (d.rowOff r.1 r.2.1 r.2.2) (packCodes (elemBits d.fmt) ((List.range (d.dim 0)).map fun i0 => f i0 r.1 r.2.1 r.2.2))
  (s.count (kCore n 2 4) 64 (d.count * elemBits d.fmt / 8)).countDesc n d true

/-- The scale bytes of an MX tensor take values that the manual does not state (a transposed DMOV, a DFILL; log entry 28). -/
def State.openScales (s : State) (n : Nat) (d : Desc) : State :=
  if isMx d.fmt then
    (s.dmaPut n d.scaleSpace d.scaleBase ((List.range (d.count / 32)).map fun i => (Config.freeValue (s.free + i)).setWidth 8)).tookFree (d.count / 32)
  else s

/-- DMOV's effect (R129). -/
def performDmov (s : State) (n : Nat) (o : QOp) : Except Exc State := do
  let op := o.op
  let td := o.d (fld op 95 92)
  let ta := o.d (fld op 91 88)
  let tr := bit op 86
  let shape := if tr then [ta.dim 1, ta.dim 0, ta.dim 2, ta.dim 3] else ta.shape
  firstErr [td.dmaForm, ta.dmaForm, shapeIf (td.fmt != ta.fmt || td.shape != shape || (tr && decide (elemBits ta.fmt < 8))),
    s.reachFault n ta false, s.reachFault n td true]
  let s1 := s.dmaTensor n td fun i0 i1 i2 i3 => if tr then s.elemCode n ta i1 i0 i2 i3 else s.elemCode n ta i0 i1 i2 i3
  let s2 := s1.countDesc n ta false
  .ok (if tr then s2.openScales n td
    else if isMx td.fmt then s2.dmaPut n td.scaleSpace td.scaleBase ((List.range (td.count / 32)).map fun k => BitVec.ofNat 8 (s.scaleCode n ta k))
    else s2)

/-- DFILL's effect: every element takes the low bits of the pattern (Table 5-12). -/
def performDfill (s : State) (n : Nat) (o : QOp) : Except Exc State := do
  let op := o.op
  let td := o.d (fld op 95 92)
  let pat := (o.s (fld op 85 81)).toNat
  firstErr [td.dmaForm, s.reachFault n td true]
  .ok ((s.dmaTensor n td fun _ _ _ _ => pat % 2 ^ elemBits td.fmt).openScales n td)

/-! ### Collectives -/

/-- Fields of COLL (Table 5-12). -/
def collGroup (op : OpWord) : Nat := fld op 80 73
def collKind (op : OpWord) : Nat := fld op 72 71
def collRed (op : OpWord) : Nat := fld op 70 69

/-- The members of a group record by rank: device and core (R182). -/
def State.collMembers (s : State) (m γ : Nat) : Option (List (Nat × Nat)) :=
  let r := s.rd (s.objN (kKv m 8) + 128 * γ) 128
  let count := leAt r 0 1
  let ms := (List.range count).map fun i => (leAt r (0x40 + i) 1 / 64, leAt r (0x40 + i) 1 % 16)
  if count < 2 ∨ 64 < count then none
  else if (List.range count).any fun i => (ms.take i).contains (ms.getD i (0, 0)) then none
  else some ms

/-- Whether a group has a member on another device (R224). -/
def State.collRemote (s : State) (m γ : Nat) : Bool :=
  match s.collMembers m γ with
  | none => false
  | some ms => ms.any fun x => x.1 != s.objN (okey 0x1000 4)

/-- A COLL dispatched while an assay slot is open must stay on this device (R224). -/
def State.collCross (s : State) (n : Nat) (op : OpWord) : Bool := s.collRemote (s.holder n) (collGroup op)

/-- Element codes of a tensor in flattened order, and its scale codes behind them. -/
def State.flatCodes (s : State) (n : Nat) (d : Desc) : List Nat :=
  (d.coords.map fun x => s.elemCode n d x.1 x.2.1 x.2.2.1 x.2.2.2)
    ++ (if isMx d.fmt then (List.range (d.count / 32)).map (s.scaleCode n d) else [])

/-- One element's reduction in ascending rank, its code in the format, and whether an integer saturated (R184). -/
def collReduce (fmt red : Nat) (xs : List Nat) : Nat × Bool :=
  if fmt = codeINT32 then
    let vs := xs.map (sext 32)
    let v : Int := match red with
      | 0 => vs.sum
      | 1 => vs.foldl max (vs.headD 0)
      | _ => vs.foldl min (vs.headD 0)
    let c := convInt 32 .rne (FVal.ofRat false (v : Rat))
    (c.code, c.sat)
  else
    let f := match red with
      | 0 => f32add
      | 1 => micaMinMax true
      | _ => micaMinMax false
    match xs.map fun c => toF32 (elemVal fmt c) with
    | [] => (0, false)
    | y :: ys => ((convTo fmt .rne false (f32 (ys.foldl f y))).code, false)

/-- Checks of a COLL's own operands over n members (R183). -/
def State.collFault (s : State) (n : Nat) (op : OpWord) (td ta : Desc) (count : Nat) : Option Exc :=
  let k := collKind op
  match firstErr [td.dmaForm, ta.dmaForm, if k = 3 ∨ (k ≠ 0 ∧ collRed op = 3) then some (illegal 0x02) else none,
    shapeIf (td.fmt != ta.fmt || (k != 0 && !([codeFP32, codeBF16, codeFP16, codeINT32].contains ta.fmt))
      || (match k with
          | 0 => td.count != count * ta.count
          | 1 => ta.count != count * td.count
          | _ => td.count != ta.count)),
    s.reachFault n ta false, s.reachFault n td true] with
  | .error e => some e
  | .ok _ => none

/-- A core's op in its DMA queue with the dispatch number. -/
def State.dmaOp? (s : State) (n seq : Nat) : Option QOp := (s.core n).dma.find? fun o => o.seq = seq

/-- An op of core n has had its effect: it waits to complete. -/
def State.markRan (s : State) (n : Nat) (q : Queue) (seq : Nat) : State :=
  s.upCore n fun c => c.setQ q ((c.q q).map fun o => if o.seq = seq then { o with ran := true } else o)

/-- sync_fault on a core that has issued a COLL (R182, R185). -/
def State.collExc (s : State) (n seq : Nat) : State :=
  s.except n (Queue.code .dma) (((s.dmaOp? n seq).map (·.addr.toNat)).getD 0) ⟨0x07, 0, 0⟩

/-- What a member receives: element codes in flattened order, and whether an integer saturated (R183, R184). -/
def collResult (kind red fmt count rank members : Nat) (xs : List (List Nat)) : List Nat × Bool :=
  match kind with
  | 0 => ((xs.flatMap fun x => x.take count) ++ (xs.flatMap fun x => x.drop count), false)
  | _ =>
    let block := if kind = 1 then count / members else count
    let lo := if kind = 1 then rank * block else 0
    let rs := (List.range block).map fun i => collReduce fmt red (xs.map fun x => x.getD (lo + i) 0)
    (rs.map (·.1), rs.any (·.2))

/-- Write a member's result and let its op complete. -/
def State.collDeliver (s : State) (n seq : Nat) (codes : List Nat) (sat : Bool) : State :=
  match s.dmaOp? n seq with
  | none => s
  | some o =>
    let td := o.d (fld o.op 95 92)
    let s := s.dmaTensor n td fun i0 i1 i2 i3 => codes.getD (td.pos i0 i1 i2 i3) 0
    let s := if isMx td.fmt then s.dmaPut n td.scaleSpace td.scaleBase ((codes.drop td.count).map (BitVec.ofNat 8)) else s
    (if sat then s.orObj (kArith n) 8 else s).markRan n .dma seq

/-- All members of this device have issued their COLL: the members elsewhere give free values (log entry 29), and every member here receives its result (R183-R185). -/
def State.collFinish (s : State) (m γ k : Nat) (ms : List (Nat × Nat)) : State :=
  let dev := s.objN (okey 0x1000 4)
  let parts := s.coll.filter fun p => decide (p.inst = m) && decide (p.group = γ) && decide (p.k = k)
  match parts with
  | [] => s
  | p0 :: _ =>
    let len := p0.data.length
    let data (r : Nat) : List Nat :=
      match parts.find? fun p => ms.getD r (0, 0) == (dev, p.core) with
      | some p => p.data
      | none => (List.range len).map fun i => (Config.freeValue (s.free + r * len + i)).toNat % 2 ^ elemBits p0.fmt
    let xs := (List.range ms.length).map data
    let s := { s with coll := s.coll.filter fun p => !(decide (p.inst = m) && decide (p.group = γ) && decide (p.k = k)) }
    (s.forEach parts fun s p =>
      let r := collResult p.kind p.red p.fmt p.count (ms.idxOf (dev, p.core)) ms.length xs
      s.collDeliver p.core p.seq r.1 r.2).tookFree (if ms.any (fun x => x.1 != dev) then ms.length * len else 0)

/-- A COLL of core n takes part: its contribution waits for the other members, or the last one completes it; a faulty group or a difference between members is sync_fault at every member that has issued its COLL (R182, R183, R185, R224). -/
def State.collJoin (s : State) (n : Nat) (o : QOp) : State :=
  let m := s.holder n
  let op := o.op
  let γ := collGroup op
  let dev := s.objN (okey 0x1000 4)
  let td := o.d (fld op 95 92)
  let ta := o.d (fld op 91 88)
  match s.collMembers m γ with
  | none => s.collExc n o.seq
  | some ms =>
    if !ms.contains (dev, n) then
      let others := s.coll.filter fun p => decide (p.inst = m) && decide (p.group = γ)
      (s.forEach others fun s p => s.collExc p.core p.seq).collExc n o.seq
    else
      match s.collFault n op td ta ms.length with
      | some e => s.except n (Queue.code .dma) o.addr.toNat e
      | none =>
        let remote := ms.any fun x => x.1 != dev
        let inv := ((s.core n).seg.map (·.inv)).getD 0
        let clear := match s.inv? m inv with
          | some v => v.assayed o.tag
          | none => decide (o.tag = 0)
        if remote && !clear then s
        else
          let k := ((s.collCount.find? fun x => x.1 == m && x.2.1 == γ && x.2.2.1 == n).map (·.2.2.2)).getD 0
          let part : CollPart := ⟨m, γ, k, n, o.seq, collKind op, collRed op, ta.fmt, ta.count, s.flatCodes n ta⟩
          let others := s.coll.filter fun p => decide (p.inst = m) && decide (p.group = γ) && decide (p.k = k)
          let s := { s with collCount := (m, γ, n, k + 1) :: s.collCount.filter fun x => !(x.1 == m && x.2.1 == γ && x.2.2.1 == n) }
          if others.any fun p => p.kind != part.kind || p.red != part.red || p.fmt != part.fmt || p.count != part.count then
            (s.forEach others fun s p => s.collExc p.core p.seq).collExc n o.seq
          else
            let s := { s with coll := s.coll ++ [part] }
            let s := (if remote then s.emit (.collSend m γ k n part.data) else s).countDesc n ta false
            let here := (ms.filter fun x => x.1 == dev).map (·.2)
            if here.all fun c => c == n || others.any fun p => p.core == c then s.collFinish m γ k ms else s

/-- Every started COLL of core n that has not yet taken part takes part if it can. -/
def State.collKick (s : State) (n : Nat) : State :=
  s.forEach ((s.core n).dma.filter fun o => o.started && !o.ran && decide (opOf o.op = 0x64)) fun s o =>
    if (s.dmaOp? n o.seq).isNone ∨ s.coll.any (fun p => p.core == n && p.seq == o.seq) then s else s.collJoin n o

end Sys2Proof.Machine
end

