-- ==== Sys2Proof/Machine/Kv.lean ====
section
/-! DEFINITION. KVSCATTER and KVFETCH, and what the ops on a cache check (R171-R177, R225). -/

namespace Sys2Proof.Machine

/-! ### What the three ops check (R171, R175, R181, R225) -/

/-- Whether a cache is marked poisoned (R225). -/
def State.cachePoisoned (s : State) (m c : Nat) : Bool := s.oBit (kAssay m (0x11 + c / 64)) (c % 64)

/-- A cache that an op names must be live and not poisoned; the faulting address is its record (log entry 31). -/
def State.cacheFault (s : State) (m c : Nat) : Option Exc :=
  let r := s.cache m c
  if s.cachePoisoned m c ∨ r.state ≠ 1 then some (addressFault r.addr) else none

/-- Entry address and entry for a read of a position of local head h: beyond the capacity, invalid, or out of the ring is an address fault with the entry's address (R169, R171, R175). -/
def State.pageOf (s : State) (m : Nat) (c : Cache) (h pos : Nat) : Except Exc PtEntry :=
  let page := pos / c.P
  let a := s.ptAddr m c h (c.slot page)
  let p := s.ptEntry a
  if !c.ring ∧ c.maxTokens ≤ pos then .error (addressFault a)
  else if !p.valid ∨ (c.ring ∧ page < p.ptag) then .error (addressFault a)
  else .ok p

/-- The entries of the pages of a range, in order. -/
def State.pagesOf (s : State) (m : Nat) (c : Cache) (h pos end_ : Nat) : Except Exc (List (Nat × PtEntry)) :=
  (List.range (end_ / c.P + 1 - pos / c.P)).mapM fun i =>
    let page := pos / c.P + i
    match s.pageOf m c h (max pos (page * c.P)) with
    | .error e => .error e
    | .ok p => .ok (page, p)

/-- Address of a token row among read entries. -/
def rowIn (c : Cache) (pages : List (Nat × PtEntry)) (v : Bool) (pos : Nat) : Nat :=
  match pages.find? fun x => x.1 = pos / c.P with
  | some x => c.rowAddr x.2.frame v pos
  | none => 0

/-- A poisoned row among those read is a data fault (R108, R268). -/
def State.rowsFault (s : State) (c : Cache) (pages : List (Nat × PtEntry)) (v : Bool) (pos end_ : Nat) : Option Exc :=
  (List.range (end_ + 1 - pos)).findSome? fun i => (s.poisonedAt (rowIn c pages v (pos + i)) c.row).map fun p => ⟨0x03, 0, p⟩

/-! ### KVSCATTER -/

/-- Fields of Table 5-13. -/
def kvCache (op : OpWord) : Nat := fld op 95 88
def QOp.pos (o : QOp) : Nat := (o.s (fld o.op 79 75)).toNat
def QOp.endPos (o : QOp) : Nat := (o.s (fld o.op 74 70)).toNat
def QOp.head (o : QOp) : Nat := (o.s (fld o.op 69 65)).toNat

/-- One page of one head: bind, turn the ring over, write the rows, raise fill (R174). -/
def State.scatterPage (s0 s : State) (n : Nat) (c : Cache) (dk dv : Desc) (pos cnt h page : Nat) : Except (Exc × State) State :=
  let m := s.holder n
  let a := s.ptAddr m c h (c.slot page)
  let p := s.ptEntry a
  if c.ring ∧ p.valid ∧ page < p.ptag then .error (addressFault a, s)
  else
    match (if p.valid then some s else s.bindFrame m c a page) with
    | none => .error (addressFault a, s)
    | some s =>
      let p := s.ptEntry a
      let s := if c.ring ∧ p.ptag < page then s.setPtEntry a { p with ptag := page, fill := 0 } else s
      let p := s.ptEntry a
      let is_ := (List.range cnt).filter fun i => (pos + i) / c.P = page
      let codes (d : Desc) (i : Nat) : List Byte := packCodes (8 * c.e) ((List.range c.d).map fun x => s0.elemCode n d x h i 0)
      let s := s.forEach is_ fun s i =>
        (s.wr (c.rowAddr p.frame false (pos + i)) (codes dk i)).wr (c.rowAddr p.frame true (pos + i)) (codes dv i)
      let s := s.countBytes m p.frame (2 * c.row * is_.length) true
      let top := (is_.map fun i => (pos + i) % c.P + 1).foldl max 0
      .ok (s.setPtEntry a { p with fill := max p.fill top })

/-- Pages in order until one faults; what the earlier ones did stays (R137; log entry 32 for the order). -/
def State.scatterPages (s0 : State) (n : Nat) (c : Cache) (dk dv : Desc) (pos cnt : Nat) : State → List (Nat × Nat) → State × Option Exc
  | s, [] => (s, none)
  | s, (h, page) :: rest =>
    match s0.scatterPage s n c dk dv pos cnt h page with
    | .error (e, s') => (s', some e)
    | .ok s' => s0.scatterPages n c dk dv pos cnt s' rest

/-- The invocation of core n has written a cache from a position on under a tag (R225). -/
def State.noteWrite (s : State) (n cache tag pos : Nat) : State :=
  let m := s.holder n
  match (s.core n).seg with
  | none => s
  | some g =>
    let s := s.upInv m g.inv fun v =>
      match v.wrote.find? fun w => w.1 = cache with
      | some w => { v with wrote := (cache, max w.2.1 tag, min w.2.2 pos) :: v.wrote.filter fun w => w.1 != cache }
      | none => { v with wrote := (cache, tag, pos) :: v.wrote }
    if tag = 0 then s
    else
      (s.upInst m fun x =>
        let k := TMap.get (fun _ => (⟨[], 0⟩ : KvMark)) x.kv cache
        { x with kv := TMap.set (fun _ => (⟨[], 0⟩ : KvMark)) x.kv cache { k with unsettled := (g.inv, tag) :: k.unsettled.filter (· != (g.inv, tag)) } }).settleKv m g.inv

/-- KVSCATTER's effect, with the exception that it raises if any (R172-R174). -/
def performKvscatter (s : State) (n : Nat) (o : QOp) : State × Option Exc :=
  let m := s.holder n
  let num := kvCache o.op
  let c := s.cache m num
  let dk := o.d (fld o.op 87 84)
  let dv := o.d (fld o.op 83 80)
  let cnt := dk.dim 2
  let pos := o.pos
  let last := pos + cnt - 1
  let span := last / c.P + 1 - pos / c.P
  match firstErr [s.cacheFault m num, dk.dmaForm, dv.dmaForm,
    shapeIf (dk.shape != [c.d, c.headCount, cnt, 1] || dv.shape != dk.shape || dk.fmt != c.fmt || dv.fmt != c.fmt || (c.ring && decide (c.pages < span))),
    if (!c.ring ∧ c.maxTokens ≤ last) ∨ 2 ^ 32 ≤ last then some (addressFault (s.ptAddr m c 0 (c.slot (last / c.P)))) else none,
    s.reachFault n dk false, s.reachFault n dv false] with
  | .error e => (s, some e)
  | .ok _ =>
    let pages := (List.range c.headCount).flatMap fun h => (List.range span).map fun i => (h, pos / c.P + i)
    let r := s.scatterPages n c dk dv pos cnt s pages
    let s1 := r.1.noteWrite n num o.tag pos
    let s1 := if r.2.isNone then ((s1.count (kCore n 2 4) 64 (2 * c.row * cnt * c.headCount)).countDesc n dk false).countDesc n dv false else s1
    (s1, r.2)

/-! ### KVFETCH -/

/-- KVFETCH's effect (R175-R177). -/
def performKvfetch (s : State) (n : Nat) (o : QOp) : Except Exc State := do
  let m := s.holder n
  let c := s.cache m (kvCache o.op)
  let td := o.d (fld o.op 87 84)
  let v := bit o.op 53
  firstErr [s.cacheFault m (kvCache o.op), td.dmaForm,
    shapeIf (decide (o.endPos < o.pos) || td.shape != [c.d, o.endPos - o.pos + 1, 1, 1] || td.fmt != c.fmt),
    if o.head < c.headLo ∨ c.headLo + c.headCount ≤ o.head then some (addressFault c.addr) else none]
  let pages ← s.pagesOf m c (o.head - c.headLo) o.pos o.endPos
  firstErr [s.rowsFault c pages v o.pos o.endPos, s.reachFault n td true]
  let s1 := s.dmaTensor n td fun i0 i1 _ _ => s.rdN (rowIn c pages v (o.pos + i1) + i0 * c.e) c.e
  .ok (s1.countBytes m (rowIn c pages v o.pos) (c.row * (o.endPos - o.pos + 1)) false)

end Sys2Proof.Machine
end

