-- ==== Sys2Proof/Machine/Attn.lean ====
section
/-! DEFINITION. What ATTN computes: attention of one KV head over the pages of a cache, native and in T8 head mode (R161-R165, R171, R175, R180, R186). -/

namespace Sys2Proof.Machine

/-! ### The internal products -/

/-- An empty accumulator. -/
def Cell.zero : Cell := ⟨0#64, 0, false, false, false⟩

/-- A Slab product of two rows, read out as FP32 by nearest even, with the arithmetic flags that it raises (R86, R88, R90, R162). -/
def slabDot (cls : Nat) (eacc : Int) (a b : List FVal) : Word32 × Nat :=
  let c := (a.zip b).foldl (fun c p => Cell.add cls eacc c (p.1.mul p.2)) Cell.zero
  let v : FVal := match cls with
    | 1 => (match c.tag with
        | 0 => FVal.ofRat false ((c.v.toInt : Rat) * pow2 eacc)
        | 1 => .inf false
        | 2 => .inf true
        | _ => .nan)
    | _ => f32 (c.v.setWidth 32)
  let r := convTo codeFP32 .rne false v
  (BitVec.ofNat 32 r.code, (if c.sat then 1 else 0) + (if c.below then 2 else 0) + (if c.special then 4 else 0)
    + (if r.sat then 16 else 0) + (if r.nan then 32 else 0))

/-- The running state of one query row (R162). -/
structure AttnRow where
  m : Word32
  l : Word32
  o : List Word32
deriving DecidableEq, Repr

/-- What one ATTN works with: its formats, scale and mask. -/
structure AttnPar where
  cls : Nat
  eS : Int
  ePv : Int
  pFmt : Nat
  tile : Nat
  scale : Word32
  masked : Nat → Nat → Bool

/-- A row before the first tile. -/
def AttnRow.init (d : Nat) : AttnRow := ⟨0xff800000#32, 0#32, List.replicate d 0#32⟩

/-- One tile for one row: `js` the key positions, `q` the query row, `ks` and `vs` the key and value rows (R162). -/
def AttnRow.tile (p : AttnPar) (r : Nat) (q : List FVal) (js : List Nat) (ks vs : List (List FVal)) (w : AttnRow × Nat) : AttnRow × Nat :=
  let row := w.1
  let sc := (js.zip ks).map fun x => (slabDot p.cls p.eS q x.2, p.masked r x.1)
  let s := sc.map fun x => if x.2 then 0xff800000#32 else x.1.1
  let fl := sc.foldl (fun f x => f ||| x.1.2) w.2
  let mt := s.foldl (micaMinMax true) row.m
  if !f32lt 0xff800000#32 mt then (row, fl)
  else
    let a := if row.m = 0xff800000#32 then 0#32 else micaExp2 (f32mul (f32sub row.m mt) p.scale)
    let pr := s.map fun x => micaExp2 (f32mul (f32sub x mt) p.scale)
    let l := f32add (f32mul row.l a) ((treeReduce f32add pr).getD 0#32)
    let cp := pr.map fun x => elemVal p.pFmt (convTo p.pFmt .rne false (f32 x)).code
    let pv := (List.range row.o.length).map fun x => slabDot p.cls p.ePv cp (vs.map fun v => v.getD x (.fin false 0))
    let o := (row.o.zip pv).map fun x => f32fma x.1 a x.2.1
    (⟨mt, l, o⟩, pv.foldl (fun f x => f ||| x.2) fl)

/-- The output of a row: +0 when l is 0 (R162, R163). -/
def AttnRow.out (w : AttnRow) : List Word32 :=
  if f32eq w.l 0#32 then w.o.map fun _ => 0#32 else w.o.map fun x => f32mul x (micaRecip w.l)

/-- The value row of a token among read pages. -/
def State.kvRow (s : State) (c : Cache) (pages : List (Nat × PtEntry)) (v : Bool) (pos : Nat) : List FVal :=
  let a := rowIn c pages v pos
  (List.range c.d).map fun x => elemVal c.fmt (s.rdN (a + x * c.e) c.e)

/-- The tiles of pos to end: lists of positions (R162). -/
def attnTiles (tile pos end_ : Nat) : List (List Nat) :=
  (List.range ((end_ - pos) / tile + 1)).map fun i =>
    (List.range (min tile (end_ + 1 - pos - i * tile))).map fun j => pos + i * tile + j

/-- The rows of one KV head over its range: the outputs, the flags, and how many keys were fetched (R162, R163). -/
def State.attnHead (s : State) (m : Nat) (c : Cache) (h pos end_ : Nat) (p : AttnPar) (qs : List (List FVal)) : Except Exc (List (List Word32) × Nat × Nat) :=
  let rows := List.range qs.length
  let go (acc : Except Exc (List AttnRow × Nat × Nat)) (js : List Nat) : Except Exc (List AttnRow × Nat × Nat) := do
    let (ws, fl, keys) ← acc
    if rows.all fun r => js.all fun j => p.masked r j then .ok (ws, fl, keys)
    else
      let lo := js.headD pos
      let hi := js.getLastD pos
      let pages ← s.pagesOf m c h lo hi
      firstErr [s.rowsFault c pages false lo hi, s.rowsFault c pages true lo hi]
      let ks := js.map (s.kvRow c pages false)
      let vs := js.map (s.kvRow c pages true)
      let res := (rows.zip (qs.zip ws)).map fun x => AttnRow.tile p x.1 x.2.1 js ks vs (x.2.2, 0)
      .ok (res.map (·.1), res.foldl (fun f x => f ||| x.2) fl, keys + js.length)
  match (attnTiles p.tile pos end_).foldl go (.ok (qs.map fun _ => AttnRow.init c.d, 0, 0)) with
  | .error e => .error e
  | .ok (ws, fl, keys) => .ok (ws.map AttnRow.out, fl, keys)

/-- Table 7-1: whether the query format pairs with the cache format, and class, P format and tile. -/
def attnPair (cache query : Nat) : Option (Nat × Nat × Nat) :=
  if (cache = 0x08 ∨ cache = 0x09) ∧ (query = 0x08 ∨ query = 0x09) then some (1, codeE4M3, 256)
  else if cache = codeBF16 ∧ query = codeBF16 then some (2, codeBF16, 128)
  else if cache = codeFP16 ∧ query = codeFP16 then some (2, codeFP16, 128)
  else none

/-- A bank after ATTN: FP32 class, every accumulator a free value (R130; log entry 33). -/
def State.openBank (s : State) (n b : Nat) : State :=
  let vs := (List.range 65536).map fun i => if i % 256 < 128 then (Config.freeValue (s.free + i)).setWidth 32 |>.setWidth 64 else 0#64
  (s.upCore n fun c => { c with
    acc := TMap.putRange (fun _ => 0#64) c.acc (b * 65536) vs
    tags := TMap.clearRange c.tags (b * 65536) 65536
    banks := TMap.set (fun _ => BankInfo.empty) c.banks b ⟨some 2, 128, 0, false, false, false⟩ }).tookFree 65536

/-- Results of several heads, one after another. -/
def attnHeads (f : Nat → Except Exc (List (List Word32) × Nat × Nat)) : List Nat → Except Exc (List (List (List Word32)) × Nat × Nat)
  | [] => .ok ([], 0, 0)
  | h :: hs => do
    let (o, fl, keys) ← f h
    let (os, fl', keys') ← attnHeads f hs
    .ok (o :: os, fl ||| fl', keys + keys')

/-- ATTN's effect (R130, R161-R165, R180, R186). -/
def performAttn (s : State) (n : Nat) (o : QOp) : Except Exc State := do
  let op := o.op
  let m := s.holder n
  let num := kvCache op
  let c := s.cache m num
  let tk := o.d (fld op 87 84)
  let tv := o.d (fld op 83 80)
  let g := fld op 64 61 + 1
  let mask := fld op 55 54
  let t8 := bit op 48
  let scale : Word32 := (o.s (fld op 60 56)).setWidth 32
  firstErr [s.cacheFault m num]
  firstErr [tk.form [0], tv.form [0, 1, 2], if mask = 3 then some (illegal 0x02) else none,
    shapeIf (t8 != c.t8 || (t8 && (decide (4 < g) || mask == 2)) || fld op 52 51 == fld op 50 49
      || tk.dim 0 != c.d || tv.shape != tk.shape
      || (if t8 then tk.dim 2 != g else tk.dim 1 != g) || tk.dim 3 != 1
      || decide (256 < (if t8 then tk.dim 1 else g * tk.dim 2)) || decide (o.endPos < o.pos)
      || !(f32 scale).isFin || !f32lt 0#32 scale || (mask == 2 && c.window == 0)
      || (mask == 2 && c.ring && decide (c.pages < o.endPos / c.P - o.pos / c.P + 1)))]
  match attnPair c.fmt tk.fmt with
  | none => .error (illegal 0x03)
  | some (cls, pFmt, tile) =>
    firstErr [if !([codeFP32, codeBF16, codeFP16, codeE4M3].contains tv.fmt) ∨ tv.space ≠ 0 then some (illegal 0x03) else none,
      if o.head < c.headLo ∨ c.headLo + c.headCount < o.head + (if t8 then g else 1) then some (addressFault c.addr) else none,
      s.reachFault n tk false, s.reachFault n tv true]
    let scale := if t8 then f32mul scale 0x3fb8aa3b#32 else scale
    let q := if t8 then tk.dim 1 else tk.dim 2
    let qpos (t : Nat) : Int := (o.endPos : Int) - q + 1 + t
    let par (rowsPer : Nat) : AttnPar :=
      { cls := cls, eS := autoEacc tk.fmt c.fmt c.d [([127], [127])], ePv := autoEacc pFmt c.fmt tile [([127], [127])]
        pFmt := pFmt, tile := tile, scale := scale
        masked := fun r j =>
          let qp := qpos (r / rowsPer)
          match mask with
          | 0 => false
          | 1 => decide (qp < j)
          | _ => decide (qp < j) || decide ((j : Int) ≤ qp - c.window) }
    let qRow (i1 i2 : Nat) : List FVal := (List.range c.d).map fun x => s.elem n tk x i1 i2 0
    let run (h : Nat) : Except Exc (List (List Word32) × Nat × Nat) :=
      if t8 then s.attnHead m c (o.head + h - c.headLo) o.pos o.endPos (par 1) ((List.range q).map fun t => qRow t h)
      else s.attnHead m c (o.head - c.headLo) o.pos o.endPos (par g)
        ((List.range q).flatMap fun t => (List.range g).map fun gi => qRow gi t)
    let (outs, fl, keys) ← attnHeads run (List.range (if t8 then g else 1))
    let vals := (outs.flatMap fun h => h.flatMap fun r => r).map f32
    let w := s.wrVals n tv false vals (List.replicate tv.count .rne) id
    let rows := if t8 then q else g * q
    let s1 := (w.s.orObj (kArith n) fl).countBytes m 0 (2 * keys * c.row) false
    let s1 := (s1.count (kCore n 2 4) 64 (2 * keys * c.row)).count (kCore n 2 3) 64 (2 * rows * keys * c.d)
    let s1 := ((s1.slabCount n s1.freeNow.toNat 0).tookFree).micaCountOpen n (2 ^ 64)
    .ok (((s1.openBank n (fld op 52 51)).openBank n (fld op 50 49)).weakRot n o cls 256)

end Sys2Proof.Machine
end

