-- ==== Sys2Proof/Machine/Assay.lean ====
section
/-! DEFINITION. Meanings of the assay ops of the controller, of the ledger's timeouts and deadlocks, and of debug halts (R135, R206, R213-R218, R226-R231). -/

namespace Sys2Proof.Machine

/-- The group number that an AOPEN names (Table 5-14). -/
def State.aopenGroup (s : State) (n : Nat) (op : OpWord) : Word32 := ((s.core n).s (fld op 92 88)).setWidth 32

/-- What an AOPEN checks of the core's slots and of its own fields (R135, Table 9-3). -/
def State.aopenFault (s : State) (n : Nat) (op : OpWord) : Option Exc :=
  let c := s.core n
  let trf := aopenTrf op
  if (c.slot (opSlot op)).isOpen then some ⟨0x06, 0x02, 0⟩
  else if c.openSlots.any fun x => x.runB != bit op 93 || x.trf != trf then some ⟨0x06, 0x04, 0⟩
  else if (trf.t2 ∧ trf.rotK = 0) ∨ (trf.t3 ∧ trf.laneRot = 0) then some ⟨0x06, 0x05, 0⟩
  else none

/-- AOPEN of run B against the ledger: not held, run A's core, still open, or found and set to state 3 (R214 step 3). The second component says whether it has opened. -/
def State.aopenRunB (s : State) (n : Nat) (op : OpWord) : Except Exc (State × Bool) :=
  let m := s.holder n
  let group := s.aopenGroup n op
  match s.findEntry m group with
  | none => .error ⟨0x06, 0x07, 0⟩
  | some i =>
    let e := s.entry i
    if e.coreA = n then .error ⟨0x06, 0x08, 0⟩
    else if e.state = 1 then .ok (s, false)
    else .ok (((s.setEntry i { e with state := 3, coreB := n }).groupMoved m).openSlot n op group, true)

/-- AOPEN (R135, R214, R216, R232). -/
def execAopen (n : Fin 16) (w : BitVec 120) (s : State) : Result :=
  let op := mkOp 0x90 w
  s.ctlOp n op [(95, 94), (93, 93), (92, 88), (87, 85), (84, 77), (76, 69)] fun pc s =>
    let m := s.holder n
    let group := s.aopenGroup n op
    match s.aopenFault n op with
    | some e => .error e
    | none =>
      if bit op 93 then
        match s.aopenRunB n op with
        | .error e => .error e
        | .ok (s', true) => .ok (s', true)
        | .ok (s', false) => .ok (s'.holdOn n (.aopenB op pc), false)
      else if (s.findEntry m group).isSome then .error ⟨0x06, 0x06, 0⟩
      else if s.flintOpen && s.quotaLeft m then .ok ((s.allocEntry m n group).openSlot n op group, true)
      else
        let s := s.count (kAssay m 6) 32
        let s := s.upInst m fun x => { x with stalls := x.stalls ++ [(n.val, group, s.now)] }
        .ok (s.holdOn n (.aopenA op pc), false)

/-- A run-B AOPEN that waits on core n is tried again (R214 step 3). -/
def State.retryRunB (s : State) (n : Nat) : State :=
  match (s.core n).hold with
  | .aopenB op addr =>
    match s.aopenRunB n op with
    | .error e => s.except n 0 addr e
    | .ok (s', true) => (s'.holdOn n .none).ctlDone n op addr
    | .ok (_, false) => s
  | _ => s

/-- Whether the raw counter has passed the deadline microsecond of an entry (R218). -/
def State.pastDeadline (s : State) (e : LedgerEntry) : Bool := decide (0 < sdiff 20 (s.nowN / 1000) e.deadline)

/-- Run A closes: signature, state 2, deadline; run Bs that wait for it go on (R214 step 2). -/
def State.closeRunA (s : State) (m i : Nat) (sig : Word64) : State :=
  let e := s.entry i
  let s := s.setEntry i { e with state := 2, sig := sig, deadline := (s.nowN / 1000 + s.objN (kAssay m 4)) % 2 ^ 20 }
  (s.groupMoved m).forEach (s.coresOf m) fun s k => s.retryRunB k

/-- Run B closes: a broken group settles; in time and equal it is assayed; otherwise the invocation is squashed (R214 step 4, R215, R218, R231). The second component says whether the invocation goes on. -/
def State.closeRunB (s : State) (n m i : Nat) (sig : Word64) : State × Bool :=
  let e := s.entry i
  let r := relGroup e.group (((s.inv? m e.inv).map (·.base)).getD 0#32)
  if e.broken then (((s.freeEntry i).settleGroup m e.inv r false), true)
  else
    let s := s.count kCompares 64
    if e.sig ≠ sig then (s.squash i 1 n, false)
    else if s.pastDeadline e then (s.squash i 2 n, false)
    else
      let s := s.setN (kAssay m 0xb) e.group.toNat
      (((s.freeEntry i).settleGroup m e.inv r true), true)

/-- An ACLOSE whose core has drained closes its slot and its run (R135, R214). -/
def State.acloseDone (s : State) (n : Nat) (op : OpWord) (addr : Nat) : State :=
  let m := s.holder n
  let x := (s.core n).slot (opSlot op)
  let sig := x.sig ^^^ 0xffffffffffffffff#64
  let s := s.upCore n fun c => { c.setSlot (opSlot op) ASlot.closed with hold := .none }
  match s.findEntry m x.group with
  | none => s.ctlDone n op addr
  | some i =>
    if x.runB then
      let r := s.closeRunB n m i sig
      if r.2 then (r.1.ctlDone n op addr).forEach (r.1.coresOf m) fun s k => s.collKick k else r.1
    else (s.closeRunA m i sig).ctlDone n op addr

/-- ACLOSE (R135, R214): holds dispatch until the core has drained. -/
def execAclose (n : Fin 16) (w : BitVec 120) (s : State) : Result :=
  let op := mkOp 0x92 w
  s.dispatch n op [(95, 94)] (!opWe op || decide (0 < s.ctr n (opWait op))) fun pc s1 =>
    let s2 := if opWe op then s1.setN (kCtr n (opWait op)) (s1.ctr n (opWait op) - 1) else s1
    if !((s1.core n).slot (opSlot op)).isOpen then (s1.setN (kPc n) pc).except n 0 pc ⟨0x06, 0x03, 0⟩
    else if (s2.core n).allOps.isEmpty then s2.acloseDone n op pc
    else s2.holdOn n (.aclose op pc)

/-! ### Timeouts and deadlocks -/

/-- ASSAY_TIMEOUT (R218, R226): an entry in state 2 or 3 whose deadline microsecond has passed. -/
def execAssayTimeout (e : Fin 4096) (s : State) : Result :=
  let x := s.entry e
  if (x.state = 2 ∨ x.state = 3) ∧ s.pastDeadline x then .next (s.squash e 2 x.coreB) else .next s

/-- LEDGER_DEADLOCK (R217): a run-A AOPEN stalled for 1 ms with no group of the instance changing state. -/
def execLedgerDeadlock (m : Fin 16) (s : State) : Result :=
  match (s.inst m).stalls with
  | [] => .next s
  | (n, group, since) :: _ =>
    if s.nowN < max since.toNat (s.inst m).lastGroup.toNat + 1000000 then .next s
    else
      let nums := (s.inst m).invs.map (·.num)
      let s := (s.count (kAssay m 0xf) 32).assayEvent m 4 n 0 group
      .next (s.forEach nums fun s num => (s.withdrawInv m num).endInv m num 3 (some 0x000A) 0)

/-! ### Debug (R231) -/

/-- A debug event on core n breaks one of its open groups (R231). -/
def State.breakGroup (s : State) (n : Nat) (x : ASlot) : State :=
  let m := s.holder n
  match s.findEntry m x.group with
  | none => s
  | some i =>
    let e := s.entry i
    if e.broken then s
    else
      let s := s.setEntry i { e with broken := true }
      let s := ((s.count (kAssay m 9) 32).assayEvent m 3 e.coreA e.coreB e.group).orObj (okey 0x1001 1) 4
      let s := s.strataEvent 7
      let s := if x.runB then s.settleGroup m e.inv (relGroup e.group (((s.inv? m e.inv).map (·.base)).getD 0#32)) false else s
      if e.safety then s.safeTrigger 3 0 e.group.toNat else s

/-- Every group with a slot open on core n breaks (R231). -/
def State.breakGroups (s : State) (n : Nat) : State := s.forEach (s.core n).openSlots fun s x => s.breakGroup n x

/-- Stop the watchdog of core n, keeping what it has counted (R138). -/
def State.stopWatch (s : State) (n : Nat) : State :=
  s.upCore n fun c => { c with elapsed := c.elapsed + (s.nowN - c.lastRetire.toNat), lastRetire := s.now }

/-- Start it again. -/
def State.startWatch (s : State) (n : Nat) : State := s.upCore n fun c => { c with lastRetire := s.now }

/-- DEBUG_HALT (R138, R231): a core that is idle or runs is halted at its dispatch. -/
def execDebugHalt (n : Fin 16) (s : State) : Result :=
  if s.coreState n = 0 ∨ s.coreState n = 1 then .next (((s.stopWatch n).setN (kCore n 0 1) 4).breakGroups n)
  else .next s

/-- DEBUG_STEP (R138, R231): a halted core may dispatch one op. -/
def execDebugStep (n : Fin 16) (s : State) : Result :=
  if s.coreState n = 4 then .next ((s.upCore n fun c => { c with stepping := true }).breakGroups n) else .next s

end Sys2Proof.Machine
end

