-- ==== Sys2Proof/Machine/Time.lean ====
section
/-! DEFINITION. Meanings of the timebase commands, of the cadence firing that counts only, and of the trigger outputs (R57-R61, R64, R68-R70, R468). -/

namespace Sys2Proof.Machine

/-- SERVO_UPDATE (R57, R60, R61): a locked domain takes a new pair by slew or step, or is declared unlocked. -/
def execServoUpdate (d : Fin 2) (delta rate : Int) (s : State) : Result :=
  if s.domState d ≠ 2 then .next s
  else if 2 ^ 29 < rate.natAbs ∨ delta < -1000000 then .next (s.leaveLocked d 1)
  else if 1000 < delta then
    let s := (s.setPairFrom d rate delta).setGd d { s.gd d with slew := none }
    .next (if (d : Nat) = s.selDom then s.selStep true else s)
  else if delta = 0 then .next ((s.setPairFrom d rate 0).setGd d { s.gd d with slew := none })
  else
    let small := decide (delta.natAbs ≤ 1000)
    let mag : Int := if small then smallSlew s.freeNow else ppm100
    let extra := if delta < 0 then -mag else mag
    let s := if small then s.tookFree else s
    .next ((s.setPairFrom d (rate + extra) 0).setGd d { s.gd d with slew := some ⟨delta, extra, rate, s.now⟩ })

/-- Counter ticks that a phase slew lasts. -/
def PhaseSlew.ticks (w : PhaseSlew) : Nat := (w.delta.natAbs * 2 ^ 40 + w.extra.natAbs - 1) / w.extra.natAbs

/-- DOMAIN_SLEW_END (R57): the phase error has been applied in full; the domain runs on its estimate alone. -/
def execDomainSlewEnd (d : Fin 2) (s : State) : Result :=
  match (s.gd d).slew with
  | none => .next s
  | some w =>
    if s.nowN < w.anchor.toNat + w.ticks then .next s
    else .next ((s.setPairFrom d w.estimate 0).setGd d { s.gd d with slew := none })

/-- GRANDMASTER_LOST (R58, R61): a locked domain enters holdover on its last pair. -/
def execGrandmasterLost (d : Fin 2) (s : State) : Result :=
  if s.domState d ≠ 2 then .next s
  else .next ((s.setGd d { s.gd d with holdSince := s.now, lostGm := s.obj (kDomGm d) }).leaveLocked d 3)

/-- GRANDMASTER_RESELECTED (R58): the grandmaster that was lost returns the domain to locked; another makes it acquiring. -/
def execGrandmasterReselected (d : Fin 2) (gm : Word64) (s : State) : Result :=
  if s.domState d ≠ 3 then .next s
  else .next (s.setN (kDomState d) (if gm = (s.gd d).lostGm then 2 else 1))

/-- The selected domain is not locked and the other one is: with auto_failover set the timeline switches (R61). -/
def State.failover (s : State) : State :=
  let d := s.selDom
  if s.oBit (okey 0x2000 4) 0 ∧ s.domState d ≠ 2 ∧ s.domState (1 - d) = 2 then s.selectDomain (1 - d) else s

/-- HOLDOVER_EXPIRY (R58, R61): holdover longer than its limit becomes acquiring. -/
def execHoldoverExpiry (d : Fin 2) (s : State) : Result :=
  if s.domState d ≠ 3 ∨ s.nowN ≤ (s.gd d).holdSince.toNat + s.objN (kDomHold d) * 1000000 then .next s
  else .next (s.setN (kDomState d) 1).failover

/-- Every enabled network-time entry arms at the first lock (R67). -/
def State.armFirstLock (s : State) : State :=
  s.forEach (List.range 1024) fun s e => if s.cadEnabled e && !s.cadSensor e then s.armNetwork e true else s

/-- DOMAIN_LOCK (R58, R67, R468): a domain enters locked on the pair that the servo hands over. -/
def execDomainLock (d : Fin 2) (gm : Word64) (offset rate : Int) (s : State) : Result :=
  if 2 ≤ s.domState d then .next s
  else if 2 ^ 29 < rate.natAbs then .next (s.setN (kDomState d) 1)
  else
    let before := s.netTime
    let first := !s.everLocked
    let s := (s.setPair d offset rate).setGd d { s.gd d with slew := none }
    let s := ((s.setObj (kDomGm d) gm).setN (kDomState d) 2).count (kDomEpoch d) 32
    let s := if (d : Nat) = s.selDom then s.selMeasure before (!first) else s
    .next (if first then ({ s with everLocked := true }).armFirstLock else s)

/-- SELECTED_SLEW_END (R59): the remaining difference has reached zero. -/
def execSelectedSlewEnd (s : State) : Result :=
  if s.slewRemaining s.nowN = 0 then .next { s with sel := none } else .next s

/-- A firing of a cadence entry: its due instant (raw counter) and its mark (network time). -/
structure Firing where
  due : Nat
  mark : Word64
  k : Nat
deriving DecidableEq, Repr

/-- Take a firing of entry e for the action, if one is due: count it and arm the next grid point (R64, R68, R69). A late or sensor firing has its own due instant; a grid point's due instant is when the timeline reached it. -/
def State.fire (s : State) (e action : Nat) : Option (State × Firing) :=
  if s.cadAction e ≠ action then none
  else
    let k := TMap.get (fun _ => 0) s.cadK e
    let counted (s : State) : State := { s.cadFired e with cadK := TMap.set (fun _ => 0) s.cadK e (k + 1) }
    match s.cadDue.find? fun d => decide (d.entry = e) && decide (d.at_.toNat ≤ s.nowN) with
    | some d =>
      some (counted { s with cadDue := s.cadDue.erase d }, ⟨d.at_.toNat, BitVec.ofNat 64 (wrapInt 64 (s.netTimeAt d.at_.toNat)), k⟩)
    | none =>
      let t := s.cadNext e
      if s.cadEnabled e && !s.cadSensor e && t != 0 && decide ((t : Int) ≤ s.netTime) then
        let f : Firing := ⟨s.nowN - (s.netTime - t).toNat, BitVec.ofNat 64 t, k⟩
        let s := counted s
        some (if s.cadPeriod e = 0 then s.cadOff e else s.setN (kCad e 4) (t + s.cadPeriod e), f)
      else none

/-- CADENCE_NONE (R64, Table 3-3): action 0x0 counts the firing only. -/
def execCadenceNone (e : Fin 1024) (s : State) : Result :=
  match s.fire e 0 with
  | none => .next s
  | some (s, _) => .next s

/-- The trigger output o. -/
def State.pulse (s : State) (o : Nat) : Option Pulse := TMap.get (fun _ => none) s.trig o
def State.setPulse (s : State) (o : Nat) (p : Option Pulse) : State := { s with trig := TMap.set (fun _ => none) s.trig o p }

/-- Whether output o is driven (trig_config bit 0). -/
def State.driven (s : State) (o : Nat) : Bool := s.oBit (okey (0x2010 + o) 1) 0

/-- The trailing edge of output o's pulse leaves the ball. -/
def State.pulseEnd (s : State) (o : Nat) : State :=
  match s.pulse o with
  | none => s
  | some p => (if s.driven o then s.emit (.edge o p.stop false) else s).setPulse o none

/-- A pulse of `width` CLK_CTL cycles due at a raw counter value (R70). -/
def State.pulseAt (s : State) (o due width : Nat) : State :=
  let s := s.count (okey (0x2010 + o) 2) 32
  let stop := BitVec.ofNat 64 (due + 8 + 4 * width)
  match s.pulse o with
  | some p =>
    if due < p.stop.toNat then (s.count (okey (0x2010 + o) 3) 32).setPulse o (some { p with stop := stop })
    else
      let s := s.pulseEnd o
      (if s.driven o then s.emit (.edge o (BitVec.ofNat 64 (due + 8)) true) else s).setPulse o (some ⟨BitVec.ofNat 64 due, stop⟩)
  | none =>
    (if s.driven o then s.emit (.edge o (BitVec.ofNat 64 (due + 8)) true) else s).setPulse o (some ⟨BitVec.ofNat 64 due, stop⟩)

/-- TRIGGER (R70): action 0x5 pulses a trigger output. -/
def execTrigger (e : Fin 1024) (s : State) : Result :=
  match s.fire e 5 with
  | none => .next s
  | some (s, f) => .next (s.pulseAt (fld (s.cadArg e) 3 0) f.due (fld (s.cadArg e) 31 16))

/-- TRIGGER_WIDTH_END (R70): the width count expires. -/
def execTriggerWidthEnd (o : Fin 16) (s : State) : Result :=
  match s.pulse o with
  | none => .next s
  | some p => if s.nowN < p.stop.toNat then .next s else .next (s.pulseEnd o)

/-! ### What a commit of cadence entries checks (R63, R74) -/

/-- Whether the entry that holds slot values c passes the checks of R63. -/
def cadEntryOk (s : State) (e : Nat) : Bool :=
  let a := s.cadAction e
  let arg := (s.cadArg e).toNat
  let periodOk :=
    if s.cadSensor e then decide (s.cadPeriod e < 2 ^ 32)
    else decide (s.cadPeriod e = 0) || (decide (10000 ≤ s.cadPeriod e) && decide (s.cadPeriod e ≤ 10000000000))
  let startOk := !s.cadSensor e || decide (nfld (s.cadStart e) 63 53 = 0)
  let argOk :=
    match a with
    | 0 | 6 => decide (arg = 0)
    | 1 => decide (nfld arg 63 36 = 0) && decide (nfld arg 31 16 = 0)
    | 2 => decide (arg < 256)
    | 3 => decide (arg < 128) && decide (nfld arg 3 0 < 12)
    | 4 => decide (arg < 8)
    | 5 => decide (nfld arg 63 32 = 0) && decide (1 ≤ nfld arg 31 16) && decide (nfld arg 15 4 = 0)
    | 7 => decide (arg < 2 ^ 32)
    | _ => false
  let lodeOk := a != 4 || !s.cadEnabled e || (!s.cadSensor e && decide (50000 ≤ s.cadPeriod e) && decide (s.cadPeriod e ≤ 100000000))
  periodOk && startOk && argOk && lodeOk

end Sys2Proof.Machine
end

