-- ==== Sys2Proof/Machine/Lodestone.lean ====
section
/-! DEFINITION. The Lodestone: sampling, the control laws in binary32, supervision, and the checks of its commits (R71-R77). -/

namespace Sys2Proof.Machine

/-- Objects of slot n: configuration, coefficients, table, status. -/
def kLode (n sub : Nat) : Nat := okey (0x2400 + 8 * n) sub
def kLodeCoef (n i : Nat) : Nat := okey (0x2401 + 8 * n) (1 + i)
def kLodeTable (n : Nat) : Nat := okey (0x2402 + 8 * n) 1
def kLodeStat (n sub : Nat) : Nat := okey (0x2403 + 8 * n) sub
def kLodeEvents : Nat := okey 0x2440 1

/-- Fields of slot_config (Table 3-4). -/
def lcEnable (w : Word64) : Bool := bit w 63
def lcLaw (w : Word64) : Nat := fld w 62 60
def lcOrder (w : Word64) : Nat := fld w 59 57
def lcOuter (w : Word64) : Bool := bit w 56
def lcInner (w : Word64) : Nat := fld w 55 53
def lcRatio (w : Word64) : Nat := fld w 52 47
def lcOuterPhase (w : Word64) : Nat := fld w 46 41
def lcKind (w : Word64) : Nat := fld w 40 39
def lcUnit (w : Word64) : Nat := fld w 38 35
def lcPhase (w : Word64) : Nat := fld w 31 0

def State.lodeCfg (s : State) (n : Nat) : Word64 := s.obj (kLode n 1)
def State.lodeF (s : State) (n sub : Nat) : Word32 := (s.obj (kLode n sub)).setWidth 32
def State.lo (s : State) (n : Nat) : LodeSt := TMap.get (fun _ => LodeSt.init) s.lode n
def State.setLo (s : State) (n : Nat) (x : LodeSt) : State := { s with lode := TMap.set (fun _ => LodeSt.init) s.lode n x }

/-- A field of a capture window in its input format, integer formats scaled (Table 3-5). -/
def lodeField (fmt : Nat) (scale : Word32) (bytes : List Byte) : Word32 :=
  match fmt with
  | 0 => BitVec.ofNat 32 (leNat bytes)
  | 1 => f32mul (f32ofInt (sext 16 (leNat bytes))) scale
  | 2 => f32mul (f32ofInt (sext 32 (leNat bytes))) scale
  | _ => f32mul (f32ofInt (leNat bytes : Nat)) scale

/-- Latch input j of slot n at raw counter t (R72). An unused input reads 0. -/
def State.lodeInput (s : State) (n j t : Nat) : LodeIn :=
  let w := s.obj (kLode n (2 + j))
  let fresh (stamp : Word64) : Bool := decide (t - stamp.toNat ≤ fld w 31 0 * 1000)
  let mk (v : Word32) (ok : Bool) : LodeIn := ⟨v, ok && !f32special v⟩
  match fld w 63 62 with
  | 0 => ⟨0#32, true⟩
  | 1 =>
    match TMap.get (fun _ => none) s.capWin (fld w 57 48) with
    | none => ⟨0#32, false⟩
    | some c =>
      let fmt := fld w 61 58
      let len := if fmt = 1 ∨ fmt = 3 then 2 else 4
      let off := fld w 47 32 - leAt (s.dom (okey 0x6100 1)) (16 * fld w 57 48 + 2) 2
      if fld w 47 32 < leAt (s.dom (okey 0x6100 1)) (16 * fld w 57 48 + 2) 2 ∨ c.bytes.length < off + len then ⟨0#32, false⟩
      else mk (lodeField fmt (s.lodeF n (14 + j)) (slice c.bytes off len)) (fresh c.stamp)
  | 2 =>
    match (s.lo n).spStamp with
    | none => ⟨0#32, false⟩
    | some st => mk (s.lodeF n 12) (fresh st)
  | _ =>
    match (s.lo n).held with
    | none => ⟨0#32, false⟩
    | some v => mk v true

/-- Whether an outer slot names slot n. -/
def State.lodeHasOuter (s : State) (n : Nat) : Bool :=
  (List.range 8).any fun o => lcEnable (s.lodeCfg o) && lcOuter (s.lodeCfg o) && decide (lcInner (s.lodeCfg o) = n)

/-- Slot n samples at raw counter t for the due instant `due`; its sample period is `period` ns (R71-R75). -/
def State.lodeSample (s : State) (n due t period : Nat) : State :=
  let x := s.lo n
  let x := if x.resetDue then { x with integ := 0#32, deriv := 0#32, yPrev := 0#32, uPrev := 0#32, x := [0#32, 0#32, 0#32, 0#32], resetDue := false } else x
  let pend := s.lodeHasOuter n && x.held.isNone
  let ev : LodeEval :=
    { due := BitVec.ofNat 64 due
      sample := BitVec.ofNat 64 t
      ins := (List.range 4).map fun j => s.lodeInput n j t
      used := (List.range 4).map fun j => decide (fld (s.obj (kLode n (2 + j))) 63 62 ≠ 0)
      pending := pend
      cfg := s.lodeCfg n
      params := [s.lodeF n 6, s.lodeF n 8, s.lodeF n 9, s.lodeF n 10, s.lodeF n 11]
      feTime := s.objN (kLode n 7)
      coefs := (List.range 40).map fun i => (s.obj (kLodeCoef n i)).setWidth 32
      table := s.dom (kLodeTable n)
      period := period }
  s.setLo n { x with eval := some ev, ins := ev.ins.map (·.v) }

/-- LODESTONE_SAMPLE (R73, R75, Table 3-3): action 0x4 samples the slot and the outer slots that run at this firing, in ascending slot order. -/
def execLodestoneSample (e : Fin 1024) (s : State) : Result :=
  match s.fire e 4 with
  | none => .next s
  | some (s, f) =>
    let n := fld (s.cadArg e) 2 0
    if !lcEnable (s.lodeCfg n) || lcOuter (s.lodeCfg n) then .next (s.cadMissed e)
    else
      let p := s.cadPeriod e
      let runs (o : Nat) : Bool :=
        decide (o = n) || (lcEnable (s.lodeCfg o) && lcOuter (s.lodeCfg o) && decide (lcInner (s.lodeCfg o) = n)
          && decide (f.k % (lcRatio (s.lodeCfg o) + 1) = lcOuterPhase (s.lodeCfg o)))
      let due := (List.range 8).filter runs
      .next (s.forEach (due.zip (List.range 8)) fun s x =>
        s.lodeSample x.1 f.due (f.due + 4 * x.2) (if x.1 = n then p else p * (lcRatio (s.lodeCfg x.1) + 1)))

/-- Sign of a value: -1, 0 or 1. -/
def f32sign (a : Word32) : Int :=
  if f32lt a 0#32 then -1 else if f32lt 0#32 a then 1 else 0

def getF (l : List Word32) (i : Nat) : Word32 := l.getD i 0#32

/-- Dot product in index order, one rounding per operation. -/
def f32dot (a b : List Word32) : Word32 :=
  match List.zipWith f32mul a b with
  | [] => 0#32
  | p :: ps => ps.foldl f32add p

/-- FP32 entries of a lookup table. -/
def tabF (t : List Byte) (i : Nat) : Word32 := BitVec.ofNat 32 (leAt t (4 * i) 4)

/-- The segment of ascending breakpoints that x lies in, and its fraction; beyond the ends the end value (Table 3-6). -/
def lookupSeg (t : List Byte) (first n : Nat) (x : Word32) : Nat × Word32 :=
  if f32le x (tabF t first) then (0, 0#32)
  else if f32le (tabF t (first + n - 1)) x then (n - 2, 0x3f800000#32)
  else
    let i := ((List.range (n - 1)).filter fun i => f32le (tabF t (first + i)) x).length - 1
    (i, f32div (f32sub x (tabF t (first + i))) (f32sub (tabF t (first + i + 1)) (tabF t (first + i))))

/-- Linear interpolation between two values. -/
def f32lerp (a b frac : Word32) : Word32 :=
  if frac = 0#32 then a else if frac = 0x3f800000#32 then b else f32add a (f32mul frac (f32sub b a))

/-- The 1-D and 2-D lookup laws (Table 3-6). -/
def lookup1 (t : List Byte) (x : Word32) : Word32 :=
  let g := lookupSeg t 0 64 x
  f32lerp (tabF t (64 + g.1)) (tabF t (64 + g.1 + 1)) g.2
def lookup2 (t : List Byte) (x y : Word32) : Word32 :=
  let gy := lookupSeg t 0 16 x
  let gr := lookupSeg t 16 16 y
  let v (i j : Nat) : Word32 := tabF t (32 + 16 * i + j)
  f32lerp (f32lerp (v gy.1 gr.1) (v gy.1 (gr.1 + 1)) gr.2) (f32lerp (v (gy.1 + 1) gr.1) (v (gy.1 + 1) (gr.1 + 1)) gr.2) gy.2

/-- The law's output before clamp and rate limit, and the slot state with what the law itself updates; the integrator is settled after the clamp (R74, Table 3-6). -/
def lodeLaw (ev : LodeEval) (x : LodeSt) : Word32 × LodeSt × Word32 :=
  let i (j : Nat) : Word32 := (ev.ins.getD j ⟨0#32, true⟩).v
  let y := i 0
  let r := i 1
  let c := getF ev.coefs
  match lcLaw ev.cfg with
  | 0 =>
    let ts := f32ofRat (mkRat ev.period 1000000000)
    let f := if ev.used.getD 2 false then i 2 else r
    let e := f32sub r y
    let iNew := f32clamp (f32add x.integ (f32mul (f32mul (c 1) e) ts)) (c 5) (c 6)
    let d := f32add (f32mul (c 4) x.deriv) (f32div (f32mul (f32sub 0x3f800000#32 (c 4)) (f32sub x.yPrev y)) ts)
    let u := f32add (f32add (f32add (f32mul (c 0) e) iNew) (f32mul (c 2) d)) (f32mul (c 3) f)
    (u, { x with deriv := d }, iNew)
  | 1 =>
    let n := lcOrder ev.cfg
    let v := [y, r, i 2, i 3]
    let st := x.x.take n
    let row (base k len : Nat) : List Word32 := (List.range len).map fun j => c (base + 4 * k + j)
    let u := f32add (f32dot (row 32 0 n) st) (f32dot (row 36 0 4) v)
    let nx := (List.range 4).map fun k => if k < n then f32add (f32dot (row 0 k n) st) (f32dot (row 16 k 4) v) else 0#32
    (u, { x with x := nx }, x.integ)
  | 2 => (lookup1 ev.table y, x, x.integ)
  | _ => (lookup2 ev.table y r, x, x.integ)

/-- One evaluation: the output and the slot's state after it (R74). -/
def lodeEvaluate (ev : LodeEval) (x : LodeSt) : Word32 × LodeSt :=
  let p := getF ev.params
  let (u, x1, iNew) := lodeLaw ev x
  let y := (ev.ins.getD 0 ⟨0#32, true⟩).v
  let e := f32sub (ev.ins.getD 1 ⟨0#32, true⟩).v y
  let uc := f32clamp u (p 1) (p 2)
  let x2 := if lcLaw ev.cfg = 0 ∧ (f32eq uc u ∨ f32sign e ≠ f32sign (f32sub u uc)) then { x1 with integ := iNew } else x1
  let uc := if f32lt 0#32 (p 3) then f32clamp uc (f32sub x.uPrev (p 3)) (f32add x.uPrev (p 3)) else uc
  (uc, { x2 with yPrev := y, uPrev := uc })

/-- LODESTONE_RESULT (R72, R74-R77): the result of an evaluation, 96 cycles after its sample, with the comparison of its two runs and the supervision of the following error. -/
def execLodestoneResult (n : Fin 8) (disagree : Bool) (s : State) : Result :=
  match (s.lo n).eval with
  | none => .next s
  | some ev =>
    if s.nowN < ev.sample.toNat + 384 then .next s
    else
      let x := { s.lo n with eval := none }
      let p := getF ev.params
      let mkOut (v : Word32) (valid : Bool) : LodeOut := ⟨ev.due, v, valid, ev.cfg, s.obj (kLode n 13)⟩
      if ev.pending then .next (s.setLo n { x with out := some (mkOut (p 4) false) })
      else
        let bad := (ev.ins.zip ev.used).any fun z => z.2 && !z.1.ok
        let (v, x1) := if bad then (p 4, x) else lodeEvaluate ev x
        let s1 := s.setLo n { x1 with out := some (mkOut v true) }
        let s1 := if bad then (s1.count (kLodeStat n 4) 32).orObj kLodeEvents (2 ^ (n : Nat)) else s1
        let s1 := if lcOuter ev.cfg then s1.setLo (lcInner ev.cfg) { s1.lo (lcInner ev.cfg) with held := some v } else s1
        let ef := f32sub (ev.ins.getD 1 ⟨0#32, true⟩).v (ev.ins.getD 0 ⟨0#32, true⟩).v
        let supervised := !f32eq (p 0) 0#32
        let beyond := bad || f32lt (p 0) (ef &&& 0x7fffffff#32)
        let old := s.objN (kLodeStat n 3)
        let timer := if beyond then min (old + ev.period / 1000) (2 ^ 32 - 1) else 0
        let s1 := if supervised then
            let s1 := if bad then s1 else s1.setN (kLodeStat n 2) ef.toNat
            let s1 := s1.setN (kLodeStat n 3) timer
            if beyond ∧ ev.feTime ≤ timer ∧ (old < ev.feTime ∨ ev.feTime = 0)
            then (s1.orObj kLodeEvents (2 ^ (8 + (n : Nat)))).safeTrigger 5 n 0 else s1
          else s1
        .next (if disagree then s1.safeTrigger 6 n 0 else s1)

/-- The cadence entry that drives slot n: the lowest enabled network-time entry with action 0x4 that names it. -/
def State.lodePeriod (s : State) (n : Nat) : Option Nat :=
  let e? := (List.range 1024).find? fun e => s.cadEnabled e && decide (s.cadAction e = 4) && decide ((s.cadArg e).toNat = n) && !s.cadSensor e
  e?.map s.cadPeriod

/-- Whether breakpoints i to i + n - 1 of a table ascend strictly. -/
def tabAscends (t : List Byte) (first n : Nat) : Bool :=
  (List.range (n - 1)).all fun i => f32lt (tabF t (first + i)) (tabF t (first + i + 1))

/-- The checks that a commit makes of slot n as it would stand (R73-R75, Table 3-6). -/
def lodeSlotOk (s : State) (n : Nat) : Bool :=
  let c := s.lodeCfg n
  let per := if lcOuter c then (s.lodePeriod (lcInner c)).map (· * (lcRatio c + 1)) else s.lodePeriod n
  let phaseOk := decide (104 ≤ lcPhase c) && (match per with | none => true | some p => decide (lcPhase c * 4 < p))
  let lawOk := decide (lcLaw c ≤ 3) && decide (1 ≤ lcOrder c) && decide (lcOrder c ≤ 4) && decide (lcKind c ≤ 2) && decide (lcUnit c ≤ 7)
  let f (i : Nat) : Word32 := (s.obj (kLodeCoef n i)).setWidth 32
  let alphaOk := lcLaw c != 0 || (f32le 0#32 (f 4) && f32lt (f 4) 0x3f800000#32)
  let zeroOk := lcLaw c != 1 || (List.range 4).all fun k => (List.range 4).all fun j =>
      (decide (k < lcOrder c) && decide (j < lcOrder c) || f32eq (f (4 * k + j)) 0#32)
      && (decide (k < lcOrder c) || f32eq (f (16 + 4 * k + j)) 0#32)
      && (decide (j < lcOrder c) || f32eq (f (32 + j)) 0#32)
  let t := s.dom (kLodeTable n)
  let tabOk := match lcLaw c with
    | 2 => decide (t.length = 512) && tabAscends t 0 64
    | 3 => decide (t.length = 1152) && tabAscends t 0 16 && tabAscends t 16 16
    | _ => true
  let nestOk := !s.lodeHasOuter n || decide (fld (s.obj (kLode n 3)) 63 62 = 3)
  !lcEnable c || (phaseOk && lawOk && alphaOk && zeroOk && tabOk && nestOk)

/-- A commit applied to slot n: enabling it or changing its law resets its state at the next sample (R71). -/
def State.lodeCommitted (s0 s : State) (n : Nat) : State :=
  let a := s0.lodeCfg n
  let b := s.lodeCfg n
  if lcEnable b && (!lcEnable a || lcLaw a != lcLaw b) then s.setLo n { s.lo n with resetDue := true } else s

/-- A set-point write: the value with its stamp (R71). -/
def State.setpoint (s : State) (n : Nat) (v : Word64) : State :=
  (s.setObj (kLode n 12) v).setLo n { s.lo n with spStamp := some s.now }

end Sys2Proof.Machine
end

