-- ==== Sys2Proof/Machine/Keys.lean ====
section
/-! DEFINITION. Role keys, and the check word and signature that end a signed image (R43, R49, R187, R261, R381, Table 15-4). -/

namespace Sys2Proof.Machine

/-- The contents of the sixteen role key objects (Table 15-4). -/
def State.roleKeys (s : State) : List (List Byte) := (List.range 16).map fun i => s.dom (okey 0x7430 (1 + i))

/-- Public keys of a role: 4 service, 8 integrator configuration, 9 integrator plan, 10 integrator firmware, 0 vehicle controller (Table 15-4). -/
def State.keysOf (s : State) (role : Nat) : List (List Byte) :=
  (s.roleKeys.filter fun k => decide (k.length = 144) && decide (leAt k 4 1 / 16 = role)).map fun k => slice k 8 133

/-- The key of a key_id for a role, with the world bit of a service key (R43). -/
def State.keyById (s : State) (role keyId : Nat) : Option (List Byte × Bool) :=
  (s.roleKeys.find? fun k => decide (k.length = 144) && decide (leAt k 0 4 = keyId) && decide (leAt k 4 1 / 16 = role)).map
    fun k => (slice k 8 133, decide (leAt k 4 1 % 2 = 1))

/-- Whether a signature verifies against some key. -/
def anyVerifies (keys : List (List Byte)) (msg sig : List Byte) : Bool := keys.any fun k => Config.ecdsaVerify k msg sig

/-- Whether the check word at L of an image is right (R49). -/
def crcAt (bs : List Byte) (l : Nat) : Bool := decide (leAt bs l 4 = (crc32c (slice bs 0 l)).toNat)

/-- Whether the signature at L + 8, over bytes 0 to L + 3, verifies against some key (Table 2-7). -/
def sigAt (keys : List (List Byte)) (bs : List Byte) (l : Nat) : Bool := anyVerifies keys (slice bs 0 (l + 4)) (slice bs (l + 8) 132)

end Sys2Proof.Machine
end

