-- ==== Sys2Proof/Machine/Plans.lean ====
section
/-! DEFINITION. The plan image: its header, tensors, nodes, hints, pins, caches and bindings, and what loading checks of them (R144, R149, R160, R161, R187-R191, R197). -/

namespace Sys2Proof.Machine

/-! ### The header (Table 8-1) -/

/-- What the header of a plan says; `off` and `size` are its eight sections. -/
structure PlanHdr where
  flags : Nat
  length : Nat
  nodes : Nat
  tensors : Nat
  off : List Nat
  size : List Nat
  job : Nat
  minCores : Nat
  fill : Nat
deriving DecidableEq, Repr

/-- The header of a plan image. -/
def planHdr (bs : List Byte) : PlanHdr :=
  { flags := leAt bs 6 2, length := leAt bs 8 4, nodes := leAt bs 0x10 4, tensors := leAt bs 0x14 4
    off := (List.range 8).map fun i => leAt bs (0x18 + 8 * i) 4
    size := (List.range 8).map fun i => leAt bs (0x1c + 8 * i) 4
    job := leAt bs 0x58 2, minCores := leAt bs 0x5a 1, fill := leAt bs 0x5b 1 }

def PlanHdr.sec (h : PlanHdr) (i : Nat) : Nat := h.off.getD i 0
def PlanHdr.len (h : PlanHdr) (i : Nat) : Nat := h.size.getD i 0
def PlanHdr.pinned (h : PlanHdr) : Bool := nbit h.flags 0
def PlanHdr.safety (h : PlanHdr) : Bool := nbit h.flags 1

/-- Step 1 of R191: header, section bounds and check word. -/
def planHdrOk (bs : List Byte) : Bool :=
  let h := planHdr bs
  decide (slice bs 0 4 = [0x5a#8, 0x50#8, 0x4c#8, 0x4e#8]) && decide (leAt bs 4 2 = 1) && decide (h.flags < 8)
    && decide (h.length % 64 = 0) && decide (0x80 ≤ h.length) && decide (h.length + 4 ≤ bs.length)
    && decide (1 ≤ h.nodes) && decide (h.nodes ≤ 2 ^ 20) && decide (1 ≤ h.tensors) && decide (h.tensors ≤ 2 ^ 22)
    && (List.range 8).all (fun i => decide (h.len i = 0)
      || (decide (h.sec i % (if i = 2 then 4096 else 64) = 0) && decide (h.sec i + h.len i ≤ h.length)))
    && decide (h.len 0 = 48 * h.tensors) && decide (h.len 1 = 96 * h.nodes) && decide (h.len 3 % 16 = 0)
    && decide (h.len 4 % 32 = 0) && decide (h.len 5 % 64 = 0) && decide (h.len 5 ≤ 64 * 256) && decide (h.len 6 % 16 = 0)
    && decide (1 ≤ h.minCores) && decide (h.minCores ≤ 16) && (decide (h.fill = 0) || (decide (10 ≤ h.fill) && decide (h.fill ≤ 100)))
    && (slice bs 0x5c 36).all (· == 0#8) && crcAt bs h.length

/-! ### Tensors and nodes (Tables 8-2 to 8-4) -/

/-- A tensor entry. -/
structure PTensor where
  fmt : Nat
  kind : Nat
  padMode : Nat
  reserved : Nat
  shape : List Nat
  data : Nat
  scale : Nat
  bytes : Nat
deriving DecidableEq, Repr

def planTensor (bs : List Byte) (h : PlanHdr) (i : Nat) : PTensor :=
  let a := h.sec 0 + 48 * i
  { fmt := leAt bs a 1, kind := leAt bs (a + 1) 1, padMode := leAt bs (a + 2) 1, reserved := leAt bs (a + 3) 1
    shape := (List.range 4).map fun k => leAt bs (a + 8 + 4 * k) 4
    data := leAt bs (a + 0x18) 8, scale := leAt bs (a + 0x20) 8, bytes := leAt bs (a + 0x28) 8 }

def PTensor.dim (t : PTensor) (k : Nat) : Nat := t.shape.getD k 1
def PTensor.count (t : PTensor) : Nat := t.dim 0 * t.dim 1 * t.dim 2 * t.dim 3

/-- A node entry; `p` holds its 48 parameter bytes. -/
structure PNode where
  op : Nat
  flags : Nat
  reserved : Bool
  ins : List Nat
  out : Nat
  lo : Nat
  hi : Nat
  seed : Nat
  p : List Byte
deriving DecidableEq, Repr

/-- A tensor number that is not used. -/
def noTensor : Nat := 0xffffffff

def planNode (bs : List Byte) (h : PlanHdr) (i : Nat) : PNode :=
  let a := h.sec 1 + 96 * i
  { op := leAt bs a 1, flags := leAt bs (a + 1) 1, reserved := decide (leAt bs (a + 2) 2 ≠ 0) || decide (leAt bs (a + 0x2e) 2 ≠ 0)
    ins := (List.range 4).map fun k => leAt bs (a + 4 + 4 * k) 4
    out := leAt bs (a + 0x14) 4, lo := leAt bs (a + 0x20) 4, hi := leAt bs (a + 0x24) 4, seed := leAt bs (a + 0x28) 4
    p := slice bs (a + 0x30) 48 }

/-- A failure of validation: exception code and detail, and the node or tensor (Table 8-5). -/
structure PlanFail where
  code : Nat
  detail : Nat
  node : Nat
  tensor : Nat
deriving DecidableEq, Repr

/-- What is wrong with tensor i (R188), as a detail of illegal_op. -/
def tensorFault (h : PlanHdr) (t : PTensor) : Option Nat :=
  if 1 < t.padMode ∨ t.reserved ≠ 0 ∨ 5 < t.kind then some 0x02
  else if !fmtKnown t.fmt then some 0x04
  else if t.shape.any (· == 0) then some 0x04
  else if t.dim 0 * elemBits t.fmt % 8 ≠ 0 then some 0x04
  else if t.bytes ≠ t.count * elemBits t.fmt / 8 then some 0x04
  else if t.kind = 0 ∧ t.data ≠ 0 then some 0x02
  else if t.kind = 1 ∧ h.len 2 < t.data + t.bytes then some 0x04
  else if t.kind = 4 ∧ 32 ≤ t.data then some 0x04
  else if t.kind = 5 ∧ h.len 5 / 64 ≤ t.data then some 0x04
  else if !(decide (t.kind = 1) && isMx t.fmt) ∧ t.scale ≠ 0 then some 0x02
  else if t.kind = 1 ∧ isMx t.fmt ∧ h.len 2 < t.scale + t.count / 32 then some 0x04
  else none

/-- The window parameters of an operator: kh, kw, strides, dilations, pads (Table 8-4). -/
def PNode.win (n : PNode) (k : Nat) : Nat := leAt n.p (2 * k) 2

/-- Bytes of the parameters that an operator uses; the others are 0. -/
def paramBytes (op : Nat) : List Nat :=
  match op with
  | 0x01 | 0x06 => [0]
  | 0x02 | 0x03 | 0x04 | 0x05 => List.range 20
  | 0x07 => [0, 4, 5, 6, 7]
  | 0x08 => [0, 1]
  | 0x09 => [1, 4, 5, 6, 7]
  | 0x0a => [0, 1, 4, 5, 6, 7]
  | 0x0b | 0x0c => [1]
  | 0x0d => [0, 1, 2, 3, 4, 5, 6, 7, 8, 9]
  | 0x0e => [0, 8]
  | 0x0f => [0, 8, 9, 10, 11, 12, 13, 14, 15]
  | _ => []

/-- Faults of a windowed operator over an input of shape (C, W, H) (R149, R160). -/
def windowFault (n : PNode) (t : PTensor) : Option Nat :=
  let kh := n.win 0
  let kw := n.win 1
  if kh = 0 ∨ kw = 0 ∨ 255 < kh ∨ 255 < kw ∨ n.win 2 = 0 ∨ n.win 3 = 0 ∨ n.win 4 = 0 ∨ n.win 5 = 0 then some 0x04
  else if outExtent (t.dim 2) (n.win 6) (n.win 7) (n.win 4) kh (n.win 2) < 1
      ∨ outExtent (t.dim 1) (n.win 8) (n.win 9) (n.win 5) kw (n.win 3) < 1 then some 0x05
  else if n.op = 0x05 ∧ (7 < kh ∨ 7 < kw)
      ∧ !(decide (kh = n.win 2) && decide (kw = n.win 3) && decide (n.win 4 = 1) && decide (n.win 5 = 1)
        && [6, 7, 8, 9].all fun k => decide (n.win k = 0)) then some 0x04
  else none

/-- Faults of an operator by its operands (Table 4-1, R80, R120, R149, R160, R161). `ts` looks a tensor up. -/
def operatorFault (bs : List Byte) (h : PlanHdr) (ts : Nat → PTensor) (n : PNode) : Option Nat :=
  let a := ts (n.ins.getD 0 0)
  let b := ts (n.ins.getD 1 0)
  let two := n.ins.getD 0 noTensor ≠ noTensor ∧ n.ins.getD 1 noTensor ≠ noTensor
  match n.op with
  | 0x01 =>
    if !two then some 0x04
    else if (pairOf a.fmt b.fmt).isNone then some 0x03
    else if 1 < leAt n.p 0 1 then some 0x02
    else if a.dim 0 ≠ (if leAt n.p 0 1 = 1 then b.dim 0 else b.dim 1) then some 0x04
    else if (isMx a.fmt ∨ isMx b.fmt) ∧ a.dim 0 % 32 ≠ 0 then some 0x04
    else none
  | 0x02 =>
    if !two then some 0x04
    else if (pairOf a.fmt b.fmt).isNone ∧ !(isRaw a.fmt ∧ b.fmt = codeINT8) then some 0x03
    else if b.dim 2 ≠ n.win 1 ∨ b.dim 3 ≠ n.win 0 ∨ (!isRaw a.fmt ∧ a.dim 0 ≠ b.dim 1) then some 0x04
    else if isMx a.fmt ∧ a.dim 0 % 32 ≠ 0 then some 0x04
    else windowFault n a
  | 0x03 => if !two then some 0x04 else windowFault n a
  | 0x04 | 0x05 => windowFault n a
  | 0x06 => if 2 < leAt n.p 0 1 then some 0x02 else none
  | 0x07 =>
    let f := leAt n.p 0 1 % 128
    if f ≤ 0x0c ∨ (0x10 ≤ f ∧ f ≤ 0x15) ∨ (0x18 ≤ f ∧ f ≤ 0x1a) then none else some 0x02
  | 0x08 => if 2 < leAt n.p 0 1 then some 0x02 else if 3 < leAt n.p 1 1 then some 0x04 else none
  | 0x09 | 0x0b | 0x0c => if 3 < leAt n.p 1 1 then some 0x04 else none
  | 0x0a => if 1 < leAt n.p 0 1 then some 0x02 else if 3 < leAt n.p 1 1 then some 0x04 else none
  | 0x0d =>
    let rec_ := slice bs (h.sec 5 + 64 * leAt n.p 0 1) 64
    let g := leAt n.p 2 1
    let scale : Word32 := BitVec.ofNat 32 (leAt n.p 4 4)
    if h.len 5 / 64 ≤ leAt n.p 0 1 then some 0x04
    else if g = 0 ∨ 16 < g ∨ 3 < leAt n.p 1 1 ∨ 1 < leAt n.p 3 1 ∨ 7 < leAt n.p 8 1 ∨ 7 < leAt n.p 9 1 then some 0x04
    else if a.dim 0 ≠ leAt rec_ 4 2 ∨ !f32lt 0#32 scale ∨ f32special scale then some 0x04
    else if (attnPair (leAt rec_ 2 1) a.fmt).isNone then some 0x03
    else none
  | 0x0e => if h.len 5 / 64 ≤ leAt n.p 0 1 ∨ 7 < leAt n.p 8 1 then some 0x04 else none
  | 0x0f => if 2 < leAt n.p 0 1 then some 0x02 else none
  | _ => some 0x01

/-- What is wrong with a node, given the tensors that earlier nodes have produced (R96, R126, R189). -/
def nodeFault (bs : List Byte) (h : PlanHdr) (ts : Nat → PTensor) (done : List Nat) (n : PNode) : Option Nat :=
  let t := ts n.out
  if n.op = 0 ∨ 0x0f < n.op then some 0x01
  else if 16 ≤ n.flags ∨ n.reserved then some 0x02
  else if (List.range 48).any fun k => !(paramBytes n.op).contains k && decide (leAt n.p k 1 ≠ 0) then some 0x02
  else if n.ins.any fun i => decide (i ≠ noTensor) && (decide (h.tensors ≤ i)
      || ((decide ((ts i).kind = 0) || decide ((ts i).kind = 3)) && !done.contains i)) then some 0x04
  else if n.out = noTensor then (if n.op = 0x0e then none else some 0x04)
  else if h.tensors ≤ n.out then some 0x04
  else if t.kind = 1 ∨ t.kind = 2 ∨ t.kind = 4 ∨ (t.kind ≠ 5 ∧ done.contains n.out) then some 0x04
  else if nbit n.flags 0 && nbit n.flags 1 && decide (n.seed = 0) then some 0x07
  else if nbit n.flags 3 && (elemVal t.fmt n.hi).lt (elemVal t.fmt n.lo) then some 0x06
  else operatorFault bs h ts n

/-- The first faulty node, in order. -/
def nodesFault (bs : List Byte) (h : PlanHdr) (ts : Nat → PTensor) : List Nat → List Nat → Option PlanFail
  | [], done =>
    ((List.range h.tensors).find? fun i => decide ((ts i).kind = 0) && !done.contains i).map fun i => ⟨0x01, 0x04, noTensor, i⟩
  | i :: rest, done =>
    let n := planNode bs h i
    match nodeFault bs h ts done n with
    | some d => some ⟨0x01, d, i, noTensor⟩
    | none => nodesFault bs h ts rest (n.out :: done)

/-- Step 3 of R191, with the hint kinds of R197. -/
def planFault (bs : List Byte) : Option PlanFail :=
  let h := planHdr bs
  let ts := planTensor bs h
  match (List.range h.tensors).findSome? fun i => (tensorFault h (ts i)).map fun d => (⟨0x01, d, noTensor, i⟩ : PlanFail) with
  | some f => some f
  | none =>
    match nodesFault bs h ts (List.range h.nodes) [] with
    | some f => some f
    | none =>
      ((List.range (h.len 3 / 16)).find? fun i => let k := leAt bs (h.sec 3 + 16 * i + 4) 1; decide (k = 0) || decide (8 < k)).map
        fun i => ⟨0, 0, leAt bs (h.sec 3 + 16 * i) 4, noTensor⟩

/-! ### What a plan names -/

/-- Bindings of section 6: number, whether it is an output, address (R190). -/
def planBinds (bs : List Byte) (h : PlanHdr) : List (Nat × Bool × Nat) :=
  (List.range (h.len 6 / 16)).map fun i =>
    let a := h.sec 6 + 16 * i
    (leAt bs a 4, decide (leAt bs (a + 4) 1 = 1), leAt bs (a + 8) 8)

/-- Data fields of the tensors of a kind. -/
def planData (bs : List Byte) (h : PlanHdr) (kind : Nat) : List Nat :=
  ((List.range h.tensors).map (planTensor bs h)).filterMap fun t => if t.kind = kind then some t.data else none

/-- Caches that attention and append nodes or views name (R225). -/
def planViews (bs : List Byte) (h : PlanHdr) : List Nat :=
  (planData bs h 5 ++ ((List.range h.nodes).map (planNode bs h)).filterMap fun n => if n.op = 0x0d ∨ n.op = 0x0e then some (leAt n.p 0 1) else none).eraseDups

/-- Whether a plan has a safety node (R195, R196). -/
def planSafetyNodes (bs : List Byte) (h : PlanHdr) : Bool :=
  (List.range h.nodes).any fun i => nbit (planNode bs h i).flags 0

/-! ### Placement (R194-R198, R275) -/

/-- Cores that a placement uses, one bit each (Table 8-5). -/
def placedCores (p : Placement) : List Nat := (p.segs.map fun g => g.core.val).eraseDups

/-- Whether the pins of a pinned plan are what was placed (R198). -/
def pinsMet (bs : List Byte) (h : PlanHdr) (p : Placement) : Bool :=
  (List.range h.nodes).all fun i =>
    match (List.range (h.len 4 / 32)).find? fun k => decide (leAt bs (h.sec 4 + 32 * k) 4 = i), p.recs[i]? with
    | some k, some r =>
      let a := h.sec 4 + 32 * k
      decide (r.engine = leAt bs (a + 4) 1) && decide (r.kSplit = leAt bs (a + 5) 1) && decide (r.coresA.toNat = leAt bs (a + 8) 2)
        && decide (r.coresB.toNat = leAt bs (a + 10) 2) && decide (r.groupSize = leAt bs (a + 12) 2)
        && decide (r.residence = leAt bs (a + 16) 1) && decide (r.stack = leAt bs (a + 17) 1) && decide (r.prefetch = leAt bs (a + 18) 1)
    | _, _ => false

/-- Stacked memory and cluster memory that the plans of an instance other than h take. -/
def State.plansTake (s : State) (m h : Nat) : Nat × Nat :=
  (s.inst m).plans.foldl (fun t p => if p.1 = h then t else (t.1 + p.2.place.stackBytes, t.2 + p.2.place.cmemBytes)) (0, 0)

/-- Whether a placement lies within the instance's cores and quotas and keeps R196: the Placer's own limits (R194-R196, R198). -/
def State.placeOk (s : State) (m h : Nat) (minCores : Nat) (safety : Bool) (nodes : Nat) (p : Placement) : Bool :=
  let cs := s.partCores (s.objN (kInst m 1 1))
  let (st, cm) := s.plansTake m h
  (placedCores p).all cs.contains && decide (minCores ≤ (placedCores p).length) && (!safety || decide (2 ≤ (placedCores p).length))
    && decide (p.recs.length = nodes)
    && p.segs.all (fun g => decide (g.start % 16 = 0) && decide (1 ≤ g.len) && decide (g.len ≤ 2 ^ 24))
    && p.recs.all (fun r => (!safety || r.coresB == 0#16 || r.coresA != r.coresB)
      && (List.range 16).all fun n => (!bit r.coresA n && !bit r.coresB n) || cs.contains n)
    && decide (st + ((s.inst m).claims.map (·.2)).sum + p.stackBytes + saveArea + s.objN (kAssay m 0xd) + s.objN (kKv m 5) ≤ s.objN (kInst m 1 4))
    && decide (cm + p.cmemBytes ≤ s.objN (kInst m 1 3))
    && p.writes.all (fun w => s.engineMay m w.1 w.2.length true)
    && s.engineMay m p.lodeAddr (32 + 32 * nodes) false
    && p.outs.all fun o => s.stackWithin o.addr o.len (s.objN (kAssay m 0xc)) (s.objN (kAssay m 0xd))

/-- Cores as bits. -/
def coreBits (l : List Nat) : Nat := l.foldl (fun n c => n ||| 2 ^ c) 0

/-! ### The lode map (R200, Table 8-8) -/

/-- A node record. -/
def lodeRecord (i : Nat) (r : LodeRec) : List Byte :=
  leBytes 4 i ++ leBytes 1 r.engine ++ leBytes 1 r.kSplit ++ leBytes 2 r.coresA.toNat ++ leBytes 2 r.coresB.toNat ++ leBytes 2 r.groupSize
    ++ leBytes 4 r.firstGroup ++ leBytes 1 r.residence ++ leBytes 1 r.stack ++ leBytes 1 r.prefetch ++ leBytes 1 (r.flags % 8)
    ++ leBytes 4 0 ++ leBytes 8 r.outAddr

/-- Write a lode map whose last placement had the generation. -/
def State.writeLode (s : State) (p : Placement) (generation cause : Nat) : State :=
  let head := leBytes 4 (generation + 2) ++ leBytes 4 p.recs.length ++ leBytes 8 s.stampTime.toNat ++ leBytes 1 cause ++ leBytes 15 0
  s.wr p.lodeAddr (head ++ ((List.range p.recs.length).zip p.recs).flatMap fun x => lodeRecord x.1 x.2)

/-- Put a placement into effect: stream bytes, lode map and its directory entry (R191 step 5, R200). -/
def State.writePlace (s : State) (m h : Nat) (p : Placement) (generation cause : Nat) : State :=
  let s := s.forEach p.writes fun s w => s.wr w.1 w.2
  (s.writeLode p generation cause).wrN (s.objN (kPlacer m 3) + 8 * h) 8 p.lodeAddr

/-! ### Loading (R191-R193) -/

/-- Copy the cache records of section 5 and create the caches (R190, R191 step 5). The status, 0 for success. -/
def State.createCaches (s : State) (m : Nat) (bs : List Byte) (h : PlanHdr) : List Nat → State × Nat
  | [] => (s, 0)
  | k :: rest =>
    if (s.cache m k).state = 1 then (s, 0x0007)
    else
      let s := s.wr (s.objN (kKv m 1) + 64 * k) (slice bs (h.sec 5 + 64 * k) 64)
      match s.kvCreate m k with
      | (s, 0) => s.createCaches m bs h rest
      | (s, e) => (s, e)

/-- Everything that a load does, with its status and what failed; on a failure the state is unchanged (R191). -/
def State.loadPlan (s : State) (m h image : Nat) (pl : Placement) : State × Nat × PlanFail :=
  let ok : PlanFail := ⟨0, 0, noTensor, noTensor⟩
  if !s.engineMay m image 0x80 false then (s, 0x000D, ok)
  else
    let len := s.rdN (image + 8) 4 + 8 + 132
    let len := if s.engineMay m image len false then len else s.rdN (image + 8) 4 + 4
    if !s.engineMay m image len false then (s, 0x000D, ok)
    else
      let bs := s.rd image len
      let hd := planHdr bs
      if !planHdrOk bs then (s, 0x000D, ok)
      else if (nbit hd.flags 2 || s.oBit (kPlacer m 0xb) 0) && !sigAt (s.keysOf 9) bs hd.length then (s, 0x0013, ok)
      else match planFault bs with
        | some f => (s, 0x0009, f)
        | none =>
          let job := if hd.job = 0xffff then none else some hd.job
          let plan : PlanSt :=
            { image := image, bytes := hd.length, pinned := hd.pinned, safety := hd.safety, job := job, minCores := hd.minCores, nodes := hd.nodes
              binds := planBinds bs hd, streams := planData bs hd 4, caches := List.range (hd.len 5 / 64), views := planViews bs hd
              place := pl, unload := none }
          let t := s.upInst m fun x => { x with plans := TMap.put x.plans h plan }
          if !s.placeOk m h hd.minCores (hd.safety || planSafetyNodes bs hd) hd.nodes pl || (hd.pinned && !pinsMet bs hd pl) then (s, 0x000A, ok)
          else if t.safetyShare m && !s.safetyShare m && !t.safetyFits then (s, 0x000A, ok)
          else if job.isSome && (s.inst m).plans.any (fun p => decide (p.2.job = job)) then (s, 0x0007, ok)
          else match t.createCaches m bs hd plan.caches with
            | (_, e + 1) => (s, e + 1, ok)
            | (t, 0) =>
              let t := (t.writePlace m h pl 0 0).orObj (kPlacer m 2) (2 ^ h)
              let t := if hd.job = 0xffff then t else t.setN (kInst m (0x10 + h) 1) hd.job
              (t.reshare s, 0, ok)

/-- The load report (Table 8-5). -/
def loadReport (status h : Nat) (f : PlanFail) (pl : Placement) : List Byte :=
  let ok := decide (status = 0)
  let n (x : Nat) : Nat := if ok then x else 0
  leBytes 2 status ++ leBytes 1 (if status = 9 then f.code else 0) ++ leBytes 1 0 ++ leBytes 2 (if status = 9 then f.detail else 0) ++ leBytes 2 h
    ++ leBytes 4 f.node ++ leBytes 4 f.tensor ++ leBytes 2 (n (coreBits (placedCores pl))) ++ leBytes 2 (n pl.groupSize) ++ leBytes 4 (n pl.groups)
    ++ leBytes 8 (n pl.stackBytes) ++ leBytes 8 (n pl.cmemBytes) ++ leBytes 8 (n pl.estNs) ++ leBytes 16 0

end Sys2Proof.Machine
end

