-- ==== Sys2Proof/Machine/Camera.lean ====
section
/-! DEFINITION. Camera receivers, streams, capture buffers, the blanking test, and capture sets (R62, R64, R229, R230, R287-R297). -/

namespace Sys2Proof.Machine

/-! ### Objects -/

def kPort5 (p sub : Nat) : Nat := okey (0x5400 + p) sub
def kCap (k sub : Nat) : Nat := okey (0x4500 + k) sub

def State.cap (s : State) (k : Nat) : CapRun := TMap.get (fun _ => CapRun.init) s.caps k
def State.setCap (s : State) (k : Nat) (x : CapRun) : State := { s with caps := TMap.set (fun _ => CapRun.init) s.caps k x }

/-- Fields of stream_config (Table 12-3). -/
def scSafety (w : Word64) : Bool := bit w 62
def scLinePackets (w : Word64) : Bool := bit w 61
def scBlankTest (w : Word64) : Bool := bit w 60
def scCameraTest (w : Word64) : Bool := bit w 59
def scPort (w : Word64) : Nat := fld w 55 52
def scVc (w : Word64) : Nat := fld w 51 48
def scType (w : Word64) : Nat := fld w 47 42
def scEmbedded (w : Word64) : Nat := fld w 41 36
def scTest (w : Word64) : Nat := fld w 35 30
def scDepthM1 (w : Word64) : Nat := fld w 29 26
def scOwner (w : Word64) : Nat := fld w 25 22

def State.streamGeo (s : State) (st : Nat) : Word64 := s.obj (kStream st 2)

/-- Line stride in bytes, height, embedded lines (frame_geometry). -/
def State.streamStride (s : State) (st : Nat) : Nat := fld (s.streamGeo st) 63 48 * 64
def State.streamHeight (s : State) (st : Nat) : Nat := fld (s.streamGeo st) 47 32
def State.streamEmb (s : State) (st : Nat) : Nat := fld (s.streamGeo st) 15 8

/-- Data types of Table 12-1: image, embedded, camera test. -/
def imageType (t : Nat) : Bool := [0x2a, 0x2b, 0x2c, 0x2d, 0x2e, 0x1e, 0x24].contains t
def userType (t : Nat) : Bool := decide (0x30 ≤ t) && decide (t ≤ 0x37)

/-- Whether a value of stream_config lies in the ranges of Table 12-3. -/
def streamCfgOk (v : Word64) : Bool :=
  imageType (scType v) && (decide (scEmbedded v = 0) || decide (scEmbedded v = 0x12) || userType (scEmbedded v))
    && userType (scTest v) && decide (1 ≤ scDepthM1 v)

/-! ### Enabling (R62, R289, R291, R366) -/

/-- Bytes per buffer (R291). -/
def State.bufferSize (s : State) (st : Nat) : Nat := roundUp (64 + (s.streamEmb st + s.streamHeight st) * s.streamStride st) 4096

/-- Whether the address carves `size` bytes from the stack quota of instance m (R291). -/
def State.carves (s : State) (m a size : Nat) : Bool :=
  let x := s.inst m
  let quota := s.objN (kInst m 1 4)
  let used := (s.plansTake m 16).1 + (x.claims.map (·.2)).sum + saveArea + s.objN (kAssay m 0xd) + s.objN (kKv m 5)
  decide (a % 4096 = 0) && decide (x.stackBase ≤ a) && decide (a + size ≤ x.stackBase + quota) && decide (used + size ≤ quota)
    && (s.takenRanges m).all fun r => decide (r.1 + r.2 ≤ a) || decide (a + size ≤ r.1)

/-- Show the next frame of the sensor entries that key a stream, from its position. -/
def State.rearmStream (s : State) (st : Nat) : State :=
  s.forEach (List.range 1024) fun s e =>
    if s.cadEnabled e && s.cadSensor e && decide (fld (s.cad e 1) 52 48 = st) then
      match sensorFrame (fld (s.cad e 1) 31 0) (fld (s.cad e 2) 31 0) (s.streamFrame st + 1) with
      | some f => s.setN (kCad e 4) (f % 2 ^ 32)
      | none => s
    else s

/-- A write of stream_config (R289, R291, R366); `ring` is the carved address. -/
def State.writeStreamConfig (s : State) (st : Nat) (v : Word64) (ring : Nat) : Except Nat State :=
  let old := s.streamCfg st
  if !streamCfgOk v then .error 0x0007
  else if s.secureIndex (0x5420 + st) != decide (s.objN (kInst (scOwner v) 0 4) = 1) then .error 0x0004
  else if scEnable old && setBit v 63 false != setBit old 63 false then .error 0x000B
  else if scEnable old && scEnable v then .ok s
  else if scEnable old then
    let s := (s.setObj (kStream st 1) v).setN (kStream st 0xb) 0xff
    .ok ((s.upStream st fun x => { x with cur := none, verdict := none, latest := none, lineStarts := 0, testSeen := none }).freeRings st)
  else if !scEnable v then .ok (s.setObj (kStream st 1) v)
  else
    let same (o : Nat) : Bool :=
      let w := s.streamCfg o
      o != st && scEnable w && decide (scPort w = scPort v) && decide (scVc w = scVc v) && decide (scType w = scType v)
    if (List.range 32).any same then .error 0x0009
    else
      let depth := scDepthM1 v + 1
      let size := s.bufferSize st
      let m := scOwner v
      if !s.carves m ring (depth * size) then .error 0x000A
      else
        let s := ((s.setObj (kStream st 1) v).setN (kStream st 3) ring).setN (kStream st 4) size
        let s := (s.setN (kStreamPos st) 0).setN (kStream st 0xb) 0xff
        let s := s.upInst m fun y => { y with claims := (ring, depth * size) :: y.claims }
        let s := s.upStream st fun x => { StreamSt.init with lastBuf := depth - 1, ringDepth := depth, pinned := x.pinned, rings := (m, ring, depth * size) :: x.rings }
        .ok (s.rearmStream st)

/-- STREAM_ENABLE (R289, R291). -/
def execStreamEnable (src : Src) (st : Fin 32) (v : Word64) (ring : Nat) (s : State) : Result :=
  s.command src (0x5420 + st) 1 v fun _ s => s.writeStreamConfig st v ring

/-! ### Ports (R287, R288) -/

/-- Whether a stream of the port is enabled. -/
def State.portBusy (s : State) (p : Nat) : Bool :=
  (List.range 32).any fun st => scEnable (s.streamCfg st) && decide (scPort (s.streamCfg st) = p)

/-- Whether packets of port p reach the decoder: the port is enabled and its domain is on. -/
def State.portOn (s : State) (p : Nat) : Bool := s.padsUp 7 && s.oBit (kPort5 p 1) 0

/-- CSI2_PORT_STATE_CHANGE (Table 12-2): an enabled port gains or loses its signal. -/
def execCsi2PortStateChange (p : Fin 16) (signal : Bool) (s : State) : Result :=
  if s.portOn p then .next (s.setN (kPort5 p 3) (if signal then 2 else 1)) else .next s

/-! ### Line events of the cadence table (R64) -/

/-- Whether a sensor entry of stream st is keyed in frame f. -/
def State.keyedIn (s : State) (e st f : Nat) : Bool :=
  let phase := fld (s.cad e 1) 31 0
  let period := fld (s.cad e 2) 31 0
  s.cadEnabled e && s.cadSensor e && decide (fld (s.cad e 1) 52 48 = st)
    && (decide (f = phase) || (decide (period ≠ 0) && decide (phase ≤ f) && decide ((f - phase) % (max period 1) = 0)))

/-- A sensor entry passes on to its next frame after f; a one-shot clears its enable. -/
def State.sensorNext (s : State) (e f : Nat) : State :=
  match sensorFrame (fld (s.cad e 1) 31 0) (fld (s.cad e 2) 31 0) (f + 1) with
  | some g => s.setN (kCad e 4) (g % 2 ^ 32)
  | none => s.cadOff e

/-- A line event of stream st: the entries keyed to it fall due (R64, R68). -/
def State.lineEvent (s : State) (st line : Nat) : State :=
  let f := s.streamFrame st
  s.forEach ((List.range 1024).filter fun e => s.keyedIn e st f && decide (fld (s.cad e 1) 47 32 = line)) fun s e =>
    State.sensorNext { s with cadDue := s.cadDue ++ [⟨e, s.now, false⟩] } e f

/-- A frame ends: entries keyed to a line that it did not reach miss it (R64). -/
def State.lineMisses (s : State) (st : Nat) : State :=
  let f := s.streamFrame st
  let seen := (s.stream st).lineStarts
  s.forEach ((List.range 1024).filter fun e =>
      s.keyedIn e st f && decide (fld (s.cad e 1) 47 32 < 0xfffe) && decide (seen < lineOrder (fld (s.cad e 1) 47 32))) fun s e =>
    (s.cadMissed e).sensorNext e f

/-! ### Capture sets (R229, R230, R293) -/

def State.capSource (s : State) (k i : Nat) : Word64 := s.obj (kCap k (2 + i))
def State.capOwner (s : State) (k : Nat) : Nat := fld (s.obj (kCap k 1)) 59 56
def State.capDepth (s : State) (k : Nat) : Nat := fld (s.obj (kCap k 1)) 55 52 + 1

/-- Bytes of a source's record in a slot, padded to 64 (R229). -/
def capRecLen (w : Word64) : Nat :=
  match fld w 63 62 with
  | 0 => 0
  | 2 => roundUp (fld w 15 0) 64
  | _ => 64

/-- Offset of source i's record in a slot, and bytes per slot with i = 16. -/
def State.capOffset (s : State) (k i : Nat) : Nat := 64 + ((List.range i).map fun j => capRecLen (s.capSource k j)).sum

/-- Show slot_size (Table 9-5). -/
def State.refreshCapSize (s : State) (k : Nat) : State := s.setN (kCap k 0x13) (s.capOffset k 16)

/-- A write of the device within an instance's stack range; outside it the access completes under R16. -/
def State.wrOwn (s : State) (m a : Nat) (bs : List Byte) : State :=
  if s.stackWithin a bs.length (s.inst m).stackBase (s.objN (kInst m 1 4)) then s.wr a bs else s

/-- Address of slot x of set k. -/
def State.capSlotAddr (s : State) (k x : Nat) : Nat := s.objN (kCap k 0x12) + x * s.capOffset k 16

/-- What a source gives at a capture. -/
inductive CapData where
  | none
  | wait
  | bytes (l : List Byte)
  | frame (addr : Nat) (num : Word32)
deriving DecidableEq, Repr

/-- The field of a capture window at a frame offset (R333). -/
def State.capField (s : State) (h off len : Nat) : Option (List Byte) :=
  match TMap.get (fun _ => none) s.capWin h with
  | none => none
  | some c =>
    let first := leAt (s.dom (okey 0x6100 1)) (16 * h + 2) 2
    if off < first ∨ c.bytes.length < off - first + len then none else some (slice c.bytes (off - first) len)

/-- Sample a source of set k (R229, R291, R293); `again` says that a frame it waited for is complete. -/
def State.capSample (s : State) (k i : Nat) (again : Bool) : CapData :=
  let w := s.capSource k i
  let u := fld w 47 32
  match fld w 63 62 with
  | 1 =>
    if 32 ≤ u ∨ scOwner (s.streamCfg u) ≠ s.capOwner k then .none
    else if (s.stream u).verdict.isSome && !again then .wait
    else match (s.stream u).latest with
      | some (buf, f, true) => .frame (s.objN (kStream u 3) + buf * s.objN (kStream u 4)) f
      | _ => .none
  | 2 =>
    match s.capField u (fld w 31 16) (fld w 15 0) with
    | none => .none
    | some l => .bytes l
  | 3 => if 8 ≤ u then .none else .bytes (((s.lo u).ins ++ [(s.obj (kLodeStat u 1)).setWidth 32]).flatMap fun x => leBytes 4 x.toNat)
  | _ => .none
/-- Put a source's record into slot x of set k; whether it had data. -/
def State.capRecord (s : State) (k x i : Nat) (again : Bool) : State × CapData :=
  let w := s.capSource k i
  let a := s.capSlotAddr k x + s.capOffset k i
  let m := s.capOwner k
  let d := s.capSample k i again
  match d with
  | .bytes l => (s.wrOwn m a (slice l 0 (capRecLen w)), d)
  | .frame b f =>
    ((s.wrOwn m a (slice (leBytes 8 b ++ leBytes 4 f.toNat) 0 64)).upStream (fld w 47 32) fun y => { y with pinned := (256 * k + x, b) :: y.pinned }, d)
  | _ => (s.wrOwn m a (List.replicate (capRecLen w) 0#8), d)

/-- A capture is complete: its header is written and its slot is the latest (R229). -/
def State.capFinish (s : State) (k : Nat) (c : CapWait) : State :=
  let head := leBytes 8 c.seq ++ leBytes 8 c.at_.toNat ++ leBytes 8 c.net.toNat ++ leBytes 2 c.mask ++ leBytes 38 0
  (s.wrOwn (s.capOwner k) (s.capSlotAddr k c.slot) head).setN (kCap k 0x14) c.slot

/-- Whether a slot is held by an invocation or still being written. -/
def State.capHeld (s : State) (k x : Nat) : Bool :=
  decide (TMap.get (fun _ => 0) (s.cap k).holds x ≠ 0) || (s.cap k).busy.any fun c => c.slot = x

/-- Capture set k samples its sources into the next slot of its ring (R229). -/
def State.capture (s : State) (k : Nat) : State :=
  let c := s.cap k
  let x := c.seq % s.capDepth k
  let s := s.forEach (List.range 32) fun s st =>
    if (s.stream st).pinned.any fun p => p.1 = 256 * k + x
    then (s.upStream st fun y => { y with pinned := y.pinned.filter fun p => p.1 != 256 * k + x }).freeRings st else s
  let srcs := (List.range 16).filter fun i => fld (s.capSource k i) 63 62 ≠ 0
  let w0 : CapWait := ⟨x, s.now, s.stampTime, c.seq, 0, []⟩
  let (s, w) := srcs.foldl (fun (r : State × CapWait) i =>
    let (s, d) := r.1.capRecord k x i false
    match d with
    | .none => (s, r.2)
    | .wait => (s, { r.2 with waits := r.2.waits ++ [i] })
    | _ => (s, { r.2 with mask := r.2.mask + 2 ^ i })) (s, w0)
  let s := s.setCap k { s.cap k with seq := c.seq + 1 }
  if w.waits.isEmpty then s.capFinish k w else s.setCap k { s.cap k with busy := (s.cap k).busy ++ [w] }

/-- ASSAY_CAPTURE (R229, R230, Table 3-3): action 0x2; a capture whose slot is held is skipped and missed. -/
def execAssayCapture (e : Fin 1024) (s : State) : Result :=
  match s.fire e 2 with
  | none => .next s
  | some (s, _) =>
    let k := fld (s.cadArg e) 7 0
    if !s.oBit (kCap k 1) 63 then .next s
    else if s.capHeld k ((s.cap k).seq % s.capDepth k) then .next ((s.count (kCap k 0x15) 32).cadMissed e)
    else .next (s.capture k)

/-- A frame of stream st is complete: the captures that waited for it take it (R293). -/
def State.capResume (s : State) (st : Nat) : State :=
  s.forEach ((List.range 256).filter fun k => !(s.cap k).busy.isEmpty) fun s k =>
    let go (r : State × List CapWait) (w : CapWait) : State × List CapWait :=
      let mine := w.waits.filter fun i => fld (s.capSource k i) 47 32 = st
      let (t, w) := mine.foldl (fun (q : State × CapWait) i =>
        let (t, d) := q.1.capRecord k w.slot i true
        (t, { q.2 with waits := q.2.waits.erase i, mask := if d = .none then q.2.mask else q.2.mask + 2 ^ i })) (r.1, w)
      if w.waits.isEmpty then (t.capFinish k w, r.2) else (t, r.2 ++ [w])
    let (s, left) := (s.cap k).busy.foldl go (s, [])
    s.setCap k { s.cap k with busy := left }

/-! ### Frames (R290-R297) -/

/-- Address of buffer b of stream st. -/
def State.bufAddr (s : State) (st b : Nat) : Nat := s.objN (kStream st 3) + b * s.objN (kStream st 4)

/-- The status bits of a frame's header (Table 12-5). -/
def State.frameStatus (s : State) (st : Nat) (f : FrameSt) : Nat :=
  let bad := [decide (f.pixelLines < s.streamHeight st), f.long, f.pktErr, f.pathFault, f.testMissing]
  let bits : Nat := (bad.zip (List.range 5)).foldl (fun n x => if x.1 then n + 2 ^ (2 + x.2) else n) 0
  1 + (if bits = 0 then 2 else 0) + bits

/-- The header of a capture buffer (Table 12-5). -/
def State.frameHeader (s : State) (st : Nat) (f : FrameSt) : List Byte :=
  leBytes 4 f.frame.toNat ++ leBytes 2 (s.frameStatus st f) ++ leBytes 2 f.pixelLines ++ leBytes 8 f.fsStamp.toNat ++ leBytes 8 f.feStamp.toNat
    ++ leBytes 8 f.fsTime.toNat ++ leBytes 2 f.csiFrame.toNat ++ leBytes 2 0 ++ leBytes 4 f.crcErrs ++ leBytes 8 ((s.stream st).written + 1) ++ leBytes 16 0

/-- A frame is complete: its header last, then the latest buffer, its counts and events, and a path fault's reaction (R292, R293, R297). -/
def State.completeFrame (s : State) (st : Nat) (f : FrameSt) : State :=
  let status := s.frameStatus st f
  let valid := nbit status 1
  let s := match f.buf with
    | none => s
    | some b =>
      let s := s.wrOwn (scOwner (s.streamCfg st)) (s.bufAddr st b) (s.frameHeader st f)
      let s := (s.setN (kStream st 0xb) b).upStream st fun x => { x with latest := some (b, f.frame, valid), written := x.written + 1 }
      let s := (s.count (kStream st 0xc) 32).orObj (kStream st 0x10) 1
      if valid then s else (s.count (kStream st 0xd) 32).orObj (kStream st 0x10) 2
  let s := if f.pathFault then
      let s := ((s.count (kStream st 0xf) 32).orObj (kStream st 0x10) 4).strataEvent 10
      if scSafety (s.streamCfg st) then s.safeTrigger 4 st f.frame.toNat else s
    else s
  s.capResume st

/-- The pattern bytes of stream st after frame f (R294). -/
def blankPattern : Nat → Nat → List Byte
  | 0, _ => []
  | n + 1, x =>
    let x := (x ^^^ (x * 2 ^ 13)) % 2 ^ 32
    let x := x ^^^ (x / 2 ^ 17)
    let x := (x ^^^ (x * 2 ^ 5)) % 2 ^ 32
    BitVec.ofNat 8 x :: blankPattern n x

/-- The whole pattern of a frame. -/
def State.pattern (s : State) (st : Nat) (f : Word32) : List Byte :=
  let x := ((st + 1) * 2 ^ 24) ^^^ f.toNat
  blankPattern (s.objN (kStream st 5)) (if x = 0 then 1 else x)

/-- A verdict that is still due is made now; without a pattern at the checker it is a path fault (R295). -/
def State.verdictDue (s : State) (st : Nat) (good : Bool) : State :=
  match (s.stream st).verdict with
  | none => s
  | some f => (s.upStream st fun x => { x with verdict := none }).completeFrame st (if good then f else { f with pathFault := true })

/-- The frame in progress ends: line events, misses, line_time (R64, R289, R290). -/
def State.closeFrame (s : State) (st : Nat) (f : FrameSt) : State :=
  let s := (s.lineMisses st).lineEvent st 0xfffe
  let x := s.stream st
  let time :=
    if scLinePackets (s.streamCfg st) then
      (if 2 ≤ x.lineStarts then some ((x.lastLine.toNat - x.line0.toNat) * 1000 / (x.lineStarts - 1)) else none)
    else if s.streamHeight st = 0 then none
    else some (s.objN (kStream st 9) * 1000 / s.streamHeight st)
  let s := match time with
    | none => s
    | some t => s.setN (kStream st 0xa) (t % 2 ^ 32)
  s.upStream st fun x => { x with cur := none, feNs := s.nowN - f.fsStamp.toNat }

/-- The next buffer in ring order that no capture slot pins (R293). -/
def State.nextBuf (s : State) (st : Nat) : Option Nat :=
  let x := s.stream st
  ((List.range x.ringDepth).map fun i => (x.lastBuf + 1 + i) % x.ringDepth).find? fun b => !x.pinned.any fun p => p.2 = s.bufAddr st b

/-- A stream that receives: enabled, on a port that is on. -/
def State.streamOn (s : State) (st : Nat) : Bool := scEnable (s.streamCfg st) && s.portOn (scPort (s.streamCfg st))

/-- FRAME_START (R62, R290, R293, R296): a frame that has not ended ends with a packet error; the new one takes a buffer, or is discarded. -/
def execFrameStart (st : Fin 32) (csiFrame : Word16) (s : State) : Result :=
  if !s.streamOn st then .next s
  else
    let s := match (s.stream st).cur with
      | none => s
      | some f =>
        let f := { f with feStamp := s.now, pktErr := true }
        ((s.closeFrame st f).verdictDue st false).completeFrame st f
    let x := s.stream st
    let cfg := s.streamCfg st
    let n := BitVec.ofNat 32 (s.streamFrame st + 1)
    let b := s.nextBuf st
    let testing := scCameraTest cfg && decide (x.frames ≠ 0)
    let f : FrameSt :=
      { frame := n, buf := b, fsStamp := s.now, feStamp := 0#64, fsTime := s.stampTime, csiFrame := csiFrame, pixelLines := 0, embLines := 0,
        long := false, pktErr := false, testMissing := testing && x.testSeen.isNone, pathFault := testing && decide (x.testSeen = some false), crcErrs := 0 }
    let s := if x.frames ≠ 0 then s.setN (kStream st 9) ((s.nowN - s.objN (kStream st 8)) % 2 ^ 32) else s
    let s := (s.setObj (kStream st 8) s.now).setN (kStreamPos st) (n.toNat * 2 ^ 32)
    let s := s.upStream st fun x => { x with cur := some f, lineStarts := 0, frames := x.frames + 1, testSeen := none, lastBuf := b.getD x.lastBuf }
    let s := if b.isNone then (s.count (kStream st 0xe) 32).orObj (kStream st 0x10) 8 else s
    .next (s.lineEvent st 0xffff)

/-- A line of the frame in progress begins (R62). -/
def State.lineBegins (s : State) (st : Nat) : State :=
  let line := (s.stream st).lineStarts
  let s := s.upStream st fun x => { x with lineStarts := line + 1, line0 := if line = 0 then s.now else x.line0, lastLine := s.now }
  let s := s.setObj (kStreamPos st) (setFld (s.obj (kStreamPos st)) 31 16 line)
  if line < 0xfffe then s.lineEvent st line else s

/-- LINE_START (R62): line-start packets count lines on a stream configured with them. -/
def execLineStart (st : Fin 32) (s : State) : Result :=
  if !s.streamOn st ∨ (s.stream st).cur.isNone ∨ !scLinePackets (s.streamCfg st) then .next s
  else .next (s.lineBegins st)

/-- A long packet of stream st's image or embedded data type within a frame (R62, R290). -/
def State.takeLine (s : State) (st : Nat) (pk : CsiPacket) (embedded : Bool) : State :=
  match (s.stream st).cur with
  | none => s
  | some _ =>
    let cfg := s.streamCfg st
    let s := if !embedded && !scLinePackets cfg then s.lineBegins st else s
    match (s.stream st).cur with
    | none => s
    | some f =>
      let stride := s.streamStride st
      let limit := if embedded then s.streamEmb st else s.streamHeight st
      let at_ := if embedded then f.embLines else f.pixelLines
      let fits := decide (at_ < limit)
      let f := { f with pktErr := f.pktErr || pk.hdrBad || pk.crcBad, crcErrs := f.crcErrs + (if pk.crcBad then 1 else 0) }
      let f := { f with long := f.long || decide (stride < pk.bytes.length) || (!embedded && !fits) }
      let s := match f.buf with
        | some b =>
          if fits then s.wrOwn (scOwner cfg) (s.bufAddr st b + 64 + ((if embedded then 0 else s.streamEmb st) + at_) * stride) (pk.bytes.take stride) else s
        | none => s
      let f := if fits then (if embedded then { f with embLines := at_ + 1 } else { f with pixelLines := at_ + 1 }) else f
      s.upStream st fun x => { x with cur := some f }

/-- A camera test line between two frames: its payload's CRC against camera_test_crc (R296). -/
def State.takeTest (s : State) (st : Nat) (pk : CsiPacket) : State :=
  let ok := decide ((crc32c pk.bytes).toNat = s.objN (kStream st 6))
  s.upStream st fun x => { x with testSeen := some (ok && x.testSeen.getD true) }

/-- LONG_PACKET (R287, R290, R296): the packet goes to the streams of its port, channel and type; one that no stream takes is counted. -/
def execLongPacket (p : Fin 16) (pk : CsiPacket) (s : State) : Result :=
  if !s.portOn p then .next s
  else
    let s := if pk.hdrCorrected then s.count (kPort5 p 4) 32 else s
    let s := if pk.hdrBad then s.count (kPort5 p 5) 32 else s
    let s := if pk.crcBad then s.count (kPort5 p 6) 32 else s
    let mine := (List.range 32).filter fun st =>
      let c := s.streamCfg st
      scEnable c && decide (scPort c = p) && decide (scVc c = pk.vc)
        && (decide (scType c = pk.dt) || (decide (scEmbedded c ≠ 0) && decide (scEmbedded c = pk.dt)) || (scCameraTest c && decide (scTest c = pk.dt)))
    if mine.isEmpty then .next (s.count (kPort5 p 7) 32)
    else .next (s.forEach mine fun s st =>
      let c := s.streamCfg st
      if scType c = pk.dt then s.takeLine st pk false
      else if (s.stream st).cur.isSome then (if scEmbedded c = pk.dt then s.takeLine st pk true else s)
      else if scCameraTest c ∧ scTest c = pk.dt then s.takeTest st pk
      else s)

/-- FRAME_END (R64, R290, R292, R294): the frame ends; the blanking pattern is injected, or the frame is complete. -/
def execFrameEnd (st : Fin 32) (s : State) : Result :=
  if !s.streamOn st then .next s
  else match (s.stream st).cur with
    | none => .next s
    | some f =>
      let f := { f with feStamp := s.now }
      let s := (s.closeFrame st f).verdictDue st false
      if scBlankTest (s.streamCfg st) then
        .next ((s.upStream st fun x => { x with verdict := some f }).emit (.blank st f.frame.toNat (s.pattern st f.frame)))
      else .next (s.completeFrame st f)

/-- BLANK_VERDICT (R294, R295): the CRC that the checker found, or none when the pattern has not reached it. -/
def execBlankVerdict (st : Fin 32) (crc : Option Word32) (s : State) : Result :=
  match (s.stream st).verdict with
  | none => .next s
  | some f => .next (s.verdictDue st (decide (crc = some (crc32c (s.pattern st f.frame)))))

end Sys2Proof.Machine
end

