-- ==== Sys2Proof/Machine/Sessions.lean ====
section
/-! DEFINITION. How a CXOP session ends (R43, R44, R54). -/

namespace Sys2Proof.Machine

/-- Show open_sessions and subscriptions_in_use (R44, R45). -/
def State.refreshSessions (s : State) : State :=
  (s.setN (okey 0x1022 1) (s.sessions.filter (·.proved)).length).setN (okey 0x1023 1) s.subs.length

/-- A session_id is freed with its staging set, its timed commit and its subscriptions (R43, R44). -/
def State.freeSession (s : State) (sid : Nat) : State :=
  State.refreshSessions { s with sessions := s.sessions.filter fun x => x.sid != sid, subs := s.subs.filter fun x => x.sid != sid }

/-- A session closes (R44, R54). -/
def State.closeSession (s : State) (sid : Nat) : State :=
  let t := s.freeSession sid
  if s.sessions.any fun x => decide (x.sid = sid) && x.proved then t.orObj (okey 0x1002 1) 8 else t

/-- The sessions of a link close when it goes down (R44). -/
def State.closeLink (s : State) (l : Link) : State :=
  s.forEach ((s.sessions.filter fun x => x.link = l).map (·.sid)) fun s sid => s.closeSession sid

end Sys2Proof.Machine
end

