-- ==== Sys2Proof/Machine/Network.lean ====
section
/-! DEFINITION. The TSN switch: forwarding, queues, rings, launch times, gates, timestamps, capture handles, frame templates, and the routing of PDUs among Ethernet, CAN XL and 10BASE-T1S (R322-R335, R342, R344). -/

namespace Sys2Proof.Machine

/-! ### Objects and records -/

def kNet (q sub : Nat) : Nat := okey (0x6000 + q) sub
def kRing (r c sub : Nat) : Nat := okey (0x6030 + 8 * r + c) sub
def kTs (q sub : Nat) : Nat := okey (0x6040 + q) sub
def kGate (q sub : Nat) : Nat := okey (0x6060 + q) sub
def kT1s (i sub : Nat) : Nat := okey (0x6200 + i) sub
def kCan (c sub : Nat) : Nat := okey (0x6210 + c) sub
def kRoute (sub : Nat) : Nat := okey 0x6300 sub

/-- Record k of a table. -/
def State.recAt (s : State) (key size k : Nat) : List Byte := slice (s.dom key) (k * size) size

/-- A MAC address as the bytes of the wire, first byte first. -/
def macBytes (m : BitVec 48) : List Byte := (leBytes 6 m.toNat).reverse

/-- A 16-bit field as the wire carries it. -/
def beBytes2 (n : Nat) : List Byte := (leBytes 2 n).reverse

/-- The MAC address that six bytes spell. -/
def macOf (bs : List Byte) : BitVec 48 := BitVec.ofNat 48 (leNat (slice bs 0 6).reverse)

/-- Whether a MAC address stands in a table of 8-byte slots. -/
def macListed (bs : List Byte) (m : BitVec 48) : Bool := (records 8 bs).any fun r => slice r 0 6 = macBytes m

/-- Ports 0-7 need enable and link; the internal ports are always up (Table 13-1, Table 13-8). -/
def State.portUp (s : State) (q : Nat) : Bool := !s.domOff 9 && (decide (8 ≤ q) || (s.padsUp 9 && s.oBit (kNet q 1) 0 && decide (s.objN (kNet q 2) = 1)))

/-! ### Transmit queues (R322, R328, R331) -/

def State.queueOf (s : State) (q c : Nat) : List TxFrame := TMap.get (fun _ => []) s.txq (8 * q + c)
def State.setQueue (s : State) (q c : Nat) (l : List TxFrame) : State := { s with txq := TMap.set (fun _ => []) s.txq (8 * q + c) l }
def State.queueMode (s : State) (q c : Nat) : Nat := fld (s.obj (kNet q 4)) (2 * c + 1) (2 * c)

/-- A timestamp entry of port q: kept in order, discarded when the queue is full (R331, R332). -/
def State.stampEntry (s : State) (q frameId status : Nat) (stamp : Word64) : State :=
  let w := s.objN (kTs q 0x41)
  if (w + 2 ^ 32 - s.objN (kTs q 0x42)) % 2 ^ 32 = 32 then (s.count (kTs q 0x43) 32).orObj (kNet q 0xc) 4
  else
    let k := w % 32
    let s := (s.setN (kTs q (1 + 2 * k)) (frameId % 2 ^ 16 * 2 ^ 48 + status * 2 ^ 40)).setObj (kTs q (2 + 2 * k)) stamp
    (s.count (kTs q 0x41) 32).orObj (kNet q 0xc) 2

/-! ### Transmit rings (R327, R330) -/

/-- Address of descriptor i of ring (r, c), r = 0 for port 8 and 1 for port 9. -/
def State.descAddr (s : State) (r c i : Nat) : Nat := s.objN (kRing r c 1) + 32 * i
def State.ringSize (s : State) (r c : Nat) : Nat := max (s.objN (kRing r c 2)) 1
def State.fetchPoint (s : State) (r c : Nat) : Nat := TMap.get (fun _ => 0) s.txNext (8 * r + c)

/-- tx_head passes the descriptors that are done, in ring order. -/
def State.advanceHead (s : State) (r c : Nat) : Nat → State
  | 0 => s
  | k + 1 =>
    let h := s.objN (kRing r c 4)
    if h = s.fetchPoint r c ∨ !nbit (s.rdN (s.descAddr r c h + 0xc) 2) 3 then s
    else State.advanceHead (s.setN (kRing r c 4) ((h + 1) % s.ringSize r c)) r c k

/-- A descriptor is done with a status (Table 13-3). -/
def State.descDone (s : State) (a status : Nat) : State :=
  let s := s.wrN (a + 0xf) 1 status
  let s := s.wrN (a + 0xc) 2 (s.rdN (a + 0xc) 2 % 8 + 8)
  s.forEach (List.range 16) fun s rc => s.advanceHead (rc / 8) (rc % 8) (s.ringSize (rc / 8) (rc % 8))

/-- What ends a queued frame: its descriptor's status and its timestamp entry (R328, R331). -/
def State.frameGone (s : State) (q : Nat) (f : TxFrame) (status entry : Nat) (stamp : Word64) : State :=
  let s := match f.desc with
    | none => s
    | some a => s.descDone a status
  if f.stampReq then s.stampEntry q f.frameId entry stamp else s

/-! ### Delivery to the internal ports (R327, Table 13-1) -/

/-- A frame reaches the host complex: it fills the next posted buffer of its class, or is dropped (R327). -/
def State.toHost (s : State) (c : Nat) (f : TxFrame) : State :=
  let h := s.objN (kRing 0 c 8)
  if h = s.objN (kRing 0 c 7) then s.count (kNet 8 0x13) 32
  else
    let a := s.objN (kRing 0 c 5) + 32 * h
    let n := min f.bytes.length (s.rdN (a + 8) 2)
    let s := s.wr (s.rdN a 8) (f.bytes.take n)
    let s := s.wr (a + 0xa) (leBytes 2 n ++ leBytes 2 1 ++ leBytes 1 f.src ++ leBytes 1 c ++ leBytes 2 f.vlan ++ leBytes 6 0 ++ leBytes 8 f.stamp.toNat)
    (s.setN (kRing 0 c 8) ((h + 1) % max (s.objN (kRing 0 c 6)) 1)).count (kNet 8 0xe) 32

/-- Queue a frame at an egress port; the internal ports take it at once in mode 0. -/
def State.egress (s : State) (q c : Nat) (f : TxFrame) : State :=
  if q = 8 ∧ s.queueMode 8 c = 0 ∧ (s.queueOf 8 c).isEmpty then (s.toHost c f).frameGone 8 f 0 0 s.now
  else if q = 10 ∧ s.queueMode 10 c = 0 ∧ (s.queueOf 10 c).isEmpty then ((s.emit (.island f.bytes)).count (kNet 10 0xe) 32).frameGone 10 f 0 0 s.now
  else s.setQueue q c (s.queueOf q c ++ [f])

/-! ### Forwarding (R322, R323) -/

/-- Member ports of a VLAN and ports at which it leaves untagged. -/
def State.vlanMembers (s : State) (v : Nat) : Nat := leAt (s.dom (okey 0x6020 3)) (4 * v) 4 % 2 ^ 12
def State.vlanUntagged (s : State) (v : Nat) : Nat := leAt (s.dom (okey 0x6020 3)) (4 * v) 4 / 2 ^ 12 % 2 ^ 12

/-- Forwarding entries that have not aged out. -/
def State.fdbLive (s : State) : List FdbEntry :=
  s.fdb.filter fun e => decide (s.nowN - e.seen.toNat ≤ s.objN (okey 0x6020 5) * 1000000000)

/-- Ports that a frame goes to: static table, dynamic table, else a flood of the VLAN; never its ingress port, port 9 or port 11 (R323). -/
def State.forwardMask (s : State) (v : Nat) (dst : BitVec 48) (inPort : Nat) : Nat :=
  let members := s.vlanMembers v
  let stat := (records 16 (s.dom (okey 0x6020 4))).find? fun r => decide (slice r 0 6 = macBytes dst) && decide (leAt r 6 2 = v)
  let mask := match stat with
    | some r => if nbit (leAt r 10 2) 0 then 0 else leAt r 8 2 &&& members
    | none => match s.fdbLive.find? fun e => decide (e.vlan = v) && decide (e.mac = dst) with
      | some e => 2 ^ e.port &&& members
      | none => members
  mask &&& (0xfff - 2 ^ inPort - (if inPort = 9 then 0 else 2 ^ 9) - (if inPort = 11 then 0 else 2 ^ 11))

/-- The bytes of a frame at an egress port: tagged unless the VLAN leaves untagged there (R323). -/
def State.egressBytes (s : State) (q v c : Nat) (dst src : BitVec 48) (etype : Nat) (payload : List Byte) : List Byte :=
  let tag := if nbit (s.vlanUntagged v) q then [] else beBytes2 0x8100 ++ beBytes2 (c * 2 ^ 13 + v)
  macBytes dst ++ macBytes src ++ tag ++ beBytes2 etype ++ payload

/-- Learn a source address (R323). -/
def State.learn (s : State) (v : Nat) (mac : BitVec 48) (q : Nat) : State :=
  let live := s.fdbLive.filter fun e => !(decide (e.vlan = v) && decide (e.mac = mac))
  if 8192 ≤ live.length then { s with fdb := live } else { s with fdb := live ++ [⟨v, mac, q, s.now⟩] }

/-- A frame inside the switch goes to its ports (R323). -/
def State.forward (s : State) (inPort v c : Nat) (dst src : BitVec 48) (etype : Nat) (payload : List Byte) (desc : Option Nat) : State :=
  let mask := s.forwardMask v dst inPort
  s.forEach ((List.range 12).filter fun q => nbit mask q && s.portUp q) fun s q =>
    s.egress q c ⟨s.egressBytes q v c dst src etype payload, inPort, v, s.now, none, false, false, 0, desc, none⟩

/-- Split the bytes of a frame without FCS: destination, source, tag, type, payload. -/
def splitFrame (bs : List Byte) : BitVec 48 × BitVec 48 × Option Nat × Nat × List Byte :=
  let be (o : Nat) : Nat := leNat (slice bs o 2).reverse
  if be 12 = 0x8100 then (macOf bs, macOf (bs.drop 6), some (be 14), be 16, bs.drop 18)
  else (macOf bs, macOf (bs.drop 6), none, be 12, bs.drop 14)

/-- Whether port 9 may read a frame buffer: stacked memory outside every instance's speculative region (R330). -/
def State.releaseReadable (s : State) (a len : Nat) : Bool :=
  (match unitOfRange a len with
   | some .stack | some (.alias_ _) => true
   | _ => false)
    && (List.range 16).all fun m => !s.stackMeets a len (s.objN (kAssay m 0xc)) (s.objN (kAssay m 0xd))

/-- Fetch one descriptor of ring (r, c) and queue its frame, or refuse it with status 4 (R327, R328, R330). -/
def State.fetchDesc (s : State) (r c : Nat) : State :=
  let i := s.fetchPoint r c
  let a := s.descAddr r c i
  let q := 8 + r
  let s := { s with txNext := TMap.set (fun _ => 0) s.txNext (8 * r + c) ((i + 1) % s.ringSize r c) }
  let buf := s.rdN a 8
  let len := s.rdN (a + 8) 2
  let flags := s.rdN (a + 0xc) 2
  let directed := nbit flags 2
  let out := s.rdN (a + 0xe) 1
  if (nbit flags 1 && !directed) ∨ len < 1 ∨ 9018 < len ∨ (directed && (decide (11 ≤ out) || decide (out = 9))) ∨ (r = 1 && !s.releaseReadable buf len) then s.descDone a 4
  else
    let bytes := s.rd buf len
    let bytes := bytes ++ List.replicate (60 - bytes.length) 0#8
    let (dst, src, tag, etype, payload) := splitFrame bytes
    let v := (tag.map (· % 4096)).getD (s.objN (kNet q 3))
    if directed then
      if out < 8 ∧ !s.portUp out then s.descDone a 3
      else s.egress out c ⟨bytes, q, v, s.now, if nbit flags 1 then some (BitVec.ofNat 64 (s.rdN (a + 0x10) 8)) else none, false, nbit flags 0, s.rdN (a + 0xa) 2, some a, none⟩
    else (s.forward q v c dst src etype payload none).descDone a 0

/-- Fetch the descriptors up to the tail. -/
def State.fetchRing (s : State) (r c : Nat) : Nat → State
  | 0 => s
  | k + 1 => if s.fetchPoint r c = s.objN (kRing r c 3) then s else State.fetchRing (s.fetchDesc r c) r c k

/-- A write of tx_tail (R327). -/
def State.writeTxTail (s : State) (r c : Nat) (v : Word64) : State :=
  let n := s.ringSize r c
  (s.setN (kRing r c 3) (v.toNat % n)).fetchRing r c n

/-- TX_TAIL_WRITE (R327, R330). -/
def execTxTailWrite (src : Src) (q : Fin 2) (c : Fin 8) (v : Word64) (s : State) : Result :=
  s.command src (0x6030 + 8 * q + c) 3 v fun _ s => .ok (s.writeTxTail q c v)

/-- RX_TAIL_WRITE (R327): software posts receive buffers of port 8. -/
def execRxTailWrite (src : Src) (c : Fin 8) (v : Word64) (s : State) : Result :=
  s.command src (0x6030 + c) 7 v fun _ s => .ok (s.setN (kRing 0 c 7) (v.toNat % max (s.objN (kRing 0 c 6)) 1))

/-- A write of ts_read (R332). -/
def State.writeTsRead (s : State) (q : Nat) (v : Word64) : Except Nat State :=
  let r := s.objN (kTs q 0x42)
  let d (x : Nat) : Nat := (x + 2 ^ 32 - r) % 2 ^ 32
  if d (s.objN (kTs q 0x41)) < d v.toNat then .error 0x0007 else .ok (s.setObj (kTs q 0x42) v)

/-- TS_READ_WRITE (R332). -/
def execTsReadWrite (src : Src) (q : Fin 12) (v : Word64) (s : State) : Result :=
  s.command src (0x6040 + q) 0x42 v fun _ s => s.writeTsRead q v

/-! ### Transmission (R328, R329, R334, R335) -/

/-- Rate of a port in Mbit/s. -/
def State.portRate (s : State) (q : Nat) : Nat :=
  if 8 ≤ q then 25000 else ([10, 100, 1000, 2500, 5000, 10000].getD (fld (s.obj (kNet q 1)) 11 8) 10000)

/-- Time of n bytes at a port, in ns, rounded up. -/
def State.byteTime (s : State) (q n : Nat) : Nat := (n * 8000 + s.portRate q - 1) / s.portRate q

/-- The gate list of a port over two cycles: where each entry starts and stops, and whether the class is open in it. The last entry lasts to the end of the cycle. -/
def State.gateSpans (s : State) (q c : Nat) : List (Nat × Nat × Bool) :=
  let cycle := s.objN (kGate q 3)
  let es := (records 8 (s.dom (kGate q 1))).map fun r => (leAt r 0 4, nbit (leAt r 7 1) c)
  let one := ((List.range es.length).map fun i =>
    let a := ((es.take i).map (·.1)).sum
    let b := if i + 1 = es.length then cycle else a + (es.getD i (0, true)).1
    (min a cycle, min b cycle, (es.getD i (0, true)).2))
  one ++ one.map fun x => (x.1 + cycle, x.2.1 + cycle, x.2.2)

/-- Whether the gate of class c lets a transmission of n bytes pass whose timestamp point is now (R329). -/
def State.gatePasses (s : State) (q c n : Nat) : Bool :=
  if 8 ≤ q ∨ !s.oBit (kGate q 4) 0 then true
  else
    let cycle := max (s.objN (kGate q 3)) 1
    let t := s.netTime - s.byteTime q 8
    let base : Int := s.objN (kGate q 2)
    if t < base then true
    else
      let a := ((t - base) % (cycle : Int)).toNat
      let b := a + s.byteTime q 8 + s.byteTime q n
      (s.gateSpans q c).all fun x => x.2.2 || decide (b ≤ x.1) || decide (x.2.1 ≤ a)

/-- Whether a head frame is ready (R328). -/
def State.frameReady (s : State) (q c : Nat) (f : TxFrame) : Bool :=
  let due := match f.launch with
    | none => true
    | some l => decide ((l.toNat : Int) ≤ s.netTime)
  match s.queueMode q c with
  | 0 => true
  | 1 => due
  | _ => f.released && due

/-- Frames of port 9 in the classes of safety_egress_classes are held in the safe state (Table 16-2). -/
def State.egressHeld (s : State) (c : Nat) (f : TxFrame) : Bool := s.safe && decide (f.src = 9) && s.oBit (okey 0x7000 10) c

/-- Whether class c of port q has a frame that may leave now (R329). -/
def State.eligibleHead (s : State) (q c : Nat) : Option TxFrame :=
  match s.queueOf q c with
  | [] => none
  | f :: _ => if s.frameReady q c f && !s.egressHeld c f && s.gatePasses q c (max 60 f.bytes.length + 4) then some f else none

/-- A template record (Table 13-5). -/
def State.templateRec (s : State) (t : Nat) : List Byte := s.recAt (okey 0x6101 1) 256 t

/-- A frame's bytes as it starts: sequence counter, and the valid bit cleared in the safe state (R334, R335). -/
def State.templateBytes (s : State) (t : Nat) (bs : List Byte) : List Byte :=
  let r := s.templateRec t
  let flags := leAt r 3 1
  let bs := if nbit flags 2 then patch bs (leAt r 12 2) (leBytes 2 (TMap.get (fun _ => 0) s.tmplSeq t)) else bs
  if nbit flags 1 && s.safe then
    let o := leAt r 8 2
    patch bs o [bs.getD o 0#8 &&& ~~~(BitVec.ofNat 8 (2 ^ leAt r 10 1))]
  else bs

/-- Count a frame sent from a template (R334). -/
def State.templateSent (s : State) (t : Option Nat) : State :=
  match t with
  | none => s
  | some t => { s with tmplSeq := TMap.set (fun _ => 0) s.tmplSeq t ((TMap.get (fun _ => 0) s.tmplSeq t + 1) % 2 ^ 16) }

/-- FRAME_TRANSMIT (R328, R329, R331, R334, R335): the head of a class leaves its port, or is dropped late. -/
def execFrameTransmit (q : Fin 12) (c : Fin 8) (s : State) : Result :=
  if !s.portUp q ∨ (List.range 8).any (fun c' => decide ((c : Nat) < c') && (s.eligibleHead q c').isSome) then .next s
  else match s.eligibleHead q c with
    | none => .next s
    | some f =>
      let s := s.setQueue q c ((s.queueOf q c).drop 1)
      let late := decide (s.queueMode q c ≠ 0) && (f.launch.any fun l => decide ((s.objN (kNet q 6) : Int) < s.netTime - l.toNat))
      let s := if late then (s.count (kNet q 0x12) 32).orObj (kNet q 0xc) 8 else s
      if late ∧ s.oBit (kNet q 5) c then .next ((s.count (kNet q 0x13) 32).frameGone q f 2 2 0#64)
      else
        let bytes := match f.template with
          | none => f.bytes
          | some t => s.templateBytes t f.bytes
        let s := s.templateSent f.template
        let status := if late then 1 else 0
        if (q : Nat) = 8 then .next ((s.toHost c { f with bytes := bytes }).frameGone q f status status s.now)
        else
          let s := s.count (kNet q 0xe) 32
          let s := if (q : Nat) = 10 then s.emit (.island bytes) else s.emit (.eth q c bytes late)
          .next (s.frameGone q f status status s.now)

/-- LAUNCH_FRAME (R328, Table 3-3): action 0x3 releases the head of a mode-2 queue with the due instant as its launch time. -/
def execLaunchFrame (e : Fin 1024) (s : State) : Result :=
  match s.fire e 3 with
  | none => .next s
  | some (s, f) =>
    let q := fld (s.cadArg e) 3 0
    let c := fld (s.cadArg e) 6 4
    match s.queueOf q c with
    | [] => .next (s.cadMissed e)
    | h :: rest =>
      if s.queueMode q c ≠ 2 then .next (s.cadMissed e)
      else .next (s.setQueue q c ({ h with released := true, launch := some f.mark } :: rest))

/-- The link of port q goes down: its queues are discarded and its sessions close (R44, R328). -/
def State.linkDown (s : State) (q : Fin 12) : State :=
  let s := (s.setN (kNet q 2) 0).orObj (kNet q 0xc) 1
  let gone := (List.range 8).flatMap fun c => s.queueOf q c
  let s := s.forEach (List.range 8) fun s c => s.setQueue q c []
  let s := s.forEach gone fun s f => s.frameGone q f 3 2 0#64
  s.closeLink (.eth q)

/-- LINK_CHANGE (R44, R328). -/
def execLinkChange (q : Fin 12) (up : Bool) (s : State) : Result :=
  if 8 ≤ (q : Nat) ∨ s.objN (kNet q 2) = up.toNat ∨ (up ∧ !s.padsUp 9) then .next s
  else if up then .next ((s.setN (kNet q 2) 1).orObj (kNet q 0xc) 1)
  else .next (s.linkDown q)

/-! ### Capture handles (R333) -/

/-- What a received frame offers to handles and routes: kind and unit of its link, the 8 key bytes, VLAN, and the bytes that offsets count in. -/
structure Pdu where
  kind : Nat
  unit_ : Nat
  key : List Byte
  vlan : Nat
  bytes : List Byte
deriving DecidableEq, Repr

/-- An Ethernet frame as a PDU: offsets count from the destination address with the tags removed. -/
def ethPdu (kind q v : Nat) (f : EthFrame) : Pdu :=
  ⟨kind, q, macBytes f.dst ++ leBytes 2 f.etype.toNat, v, macBytes f.dst ++ macBytes f.src ++ beBytes2 f.etype.toNat ++ f.payload⟩

/-- A CAN frame as a PDU; SDU type and VCID are 0 for CAN FD and classical frames. -/
def canPdu (c : Nat) (f : CanFrame) : Pdu :=
  ⟨2, c, leBytes 4 (f.id.toNat + if f.ext then 2 ^ 31 else 0) ++ (if f.xl then [f.sdu, f.vcid] else [0#8, 0#8]) ++ leBytes 2 0, 0, f.data⟩

/-- Whether handle h takes the PDU. -/
def State.handleTakes (s : State) (h : Nat) (p : Pdu) : Bool :=
  let r := s.recAt (okey 0x6100 1) 16 h
  decide (leAt r 0 1 ≠ 0) && decide (leAt r 0 1 = p.kind) && decide (leAt r 1 1 = p.unit_)
    && (decide (p.kind = 2) || decide (leAt r 6 2 = 0xffff) || decide (leAt r 6 2 = p.vlan)) && decide (slice r 8 8 = slice p.key 0 8)

/-- Each matching handle replaces its window whole (R333). -/
def State.capturePdu (s : State) (p : Pdu) : State :=
  s.forEach ((List.range 1024).filter fun h => s.handleTakes h p) fun s h =>
    let r := s.recAt (okey 0x6100 1) 16 h
    { s with capWin := TMap.set (fun _ => none) s.capWin h (some ⟨(p.bytes.drop (leAt r 2 2)).take (leAt r 4 2), s.now⟩) }

/-! ### CAN queues (R334, R340) -/

def State.canQueue (s : State) (c : Nat) : List CanTx := TMap.get (fun _ => []) s.canq c
def State.setCanQueue (s : State) (c : Nat) (l : List CanTx) : State := { s with canq := TMap.set (fun _ => []) s.canq c l }

/-- Whether a controller can take frames: enabled, not bus-off, not stopped. -/
def State.canUp (s : State) (c : Nat) : Bool := s.padsUp 9 && s.oBit (kCan c 1) 0 && decide (s.objN (kCan c 8) < 2)

/-- Queue a CAN frame; one that finds the queue full is dropped (R340). The flag says whether it was taken. -/
def State.canEnqueue (s : State) (c : Nat) (f : CanTx) : State × Bool :=
  if 32 ≤ (s.canQueue c).length then (s.count (kCan c 0xd) 32, false) else (s.setCanQueue c (s.canQueue c ++ [f]), true)

/-! ### Routing (R342, Tables 13-6, 13-7) -/

/-- A route entry. -/
def State.routeRec (s : State) (k : Nat) : List Byte := s.recAt (kRoute 1) 48 k

/-- Whether entry k matches the PDU. -/
def State.routeHits (s : State) (k : Nat) (p : Pdu) : Bool :=
  let r := s.routeRec k
  let key := leNat (slice p.key 0 8)
  nbit (leAt r 0 1) 0 && decide (leAt r 1 1 = p.kind) && decide (leAt r 2 1 = p.unit_)
    && decide ((key ^^^ leAt r 8 8) &&& leAt r 0x10 8 = 0)

/-- The matches that act, in order, and whether a ninth was ignored: the search goes on past an entry with continue set. -/
def routeActs (hits : List (Nat × Bool)) : List Nat × Bool :=
  let upTo := hits.take ((hits.takeWhile (·.2)).length + 1)
  ((upTo.take 8).map (·.1), decide (8 < upTo.length))

/-- The Ethernet frame that an entry's output makes: destination and VLAN from the rewrite field, the port's own address as source. -/
def State.routedEth (s : State) (r : List Byte) (etype : Nat) (payload : List Byte) : State × Bool :=
  let q := leAt r 4 1
  let c := leAt r 6 1 % 8
  let v := leAt r 0x1e 2
  if !s.portUp q then (s, false)
  else (s.egress q c ⟨s.egressBytes q v c (macOf (slice r 0x18 6)) (Config.portMac q) etype payload, 11, v, s.now, none, false, false, 0, none, none⟩, true)

/-- Ethernet bytes out at a port or a 10BASE-T1S PHY, with the rewrite of destination and VLAN when the entry asks for it. -/
def State.routedFrame (s : State) (r : List Byte) (v : Nat) (bytes : List Byte) : State × Bool :=
  let rewrite := nbit (leAt r 0 1) 2
  let dst := if rewrite then macOf (slice r 0x18 6) else macOf bytes
  let v := if rewrite then leAt r 0x1e 2 else v
  let c := leAt r 6 1 % 8
  let u := leAt r 4 1
  let etype := leNat (slice bytes 12 2).reverse
  if leAt r 3 1 = 3 then
    if s.oBit (kT1s u 1) 0 then
      ({ s with t1sq := TMap.set (fun _ => []) s.t1sq u (TMap.get (fun _ => []) s.t1sq u ++ [⟨macBytes dst ++ bytes.drop 6, 0⟩]) }, true)
    else (s, false)
  else if !s.portUp u then (s, false)
  else (s.egress u c ⟨s.egressBytes u v c dst (macOf (bytes.drop 6)) etype (bytes.drop 14), 11, v, s.now, none, false, false, 0, none, none⟩, true)

/-- A CAN frame out at a controller, with the rewrite of its identifiers when the entry asks for it. -/
def State.routedCan (s : State) (r : List Byte) (f : CanFrame) : State × Bool :=
  let u := leAt r 4 1 % 8
  let f := if nbit (leAt r 0 1) 2 then
      { f with id := BitVec.ofNat 29 (leAt r 0x18 4), ext := nbit (leAt r 0x18 4) 31, sdu := BitVec.ofNat 8 (leAt r 0x1c 1), vcid := BitVec.ofNat 8 (leAt r 0x1d 1) }
    else f
  if s.canUp u then s.canEnqueue u ⟨f, none, none, false⟩ else (s, false)

/-- A ZD60 container of a CAN XL frame (Table 13-7); its flags byte has no stated meaning and is a free value (log entry 42). -/
def container (flags : Nat) (f : CanFrame) : List Byte :=
  leBytes 1 1 ++ leBytes 1 flags ++ leBytes 2 (f.id.toNat % 2048) ++ [f.sdu, f.vcid] ++ leBytes 4 f.af.toNat ++ leBytes 2 f.data.length ++ f.data

/-- The CAN XL frame of a container. -/
def uncontain (b : List Byte) : CanFrame :=
  ⟨true, false, false, BitVec.ofNat 29 (leAt b 2 2 % 2048), BitVec.ofNat 8 (leAt b 4 1), BitVec.ofNat 8 (leAt b 5 1), BitVec.ofNat 32 (leAt b 6 4), slice b 12 (leAt b 10 2)⟩

/-- A classical or FD frame of an ACF CAN message. -/
def acfFrame (m : Nat × Bool × List Byte) : CanFrame := ⟨false, m.2.1, nbit m.1 31, BitVec.ofNat 29 m.1, 0#8, 0#8, 0#32, m.2.2⟩

/-- One action of entry k on a PDU that came from an Ethernet-like link. -/
def State.routeFromEth (s : State) (r : List Byte) (v : Nat) (bytes : List Byte) : State × Bool :=
  match leAt r 5 1 with
  | 0 => s.routedFrame r v bytes
  | 2 => (Config.ntscfMessages (bytes.drop 14)).foldl (fun (a : State × Bool) m =>
      let (t, ok) := a.1.routedCan r (acfFrame m)
      (t, a.2 && ok)) (s, true)
  | 4 => s.routedCan r (uncontain (bytes.drop 14))
  | 5 => if 2048 < bytes.length then (s, false) else s.routedCan r ⟨true, false, false, 0#29, 0#8, 0#8, 0#32, bytes⟩
  | _ => (s, false)

/-- One action of entry k on a PDU that came from a CAN controller. -/
def State.routeFromCan (s : State) (r : List Byte) (f : CanFrame) : State × Bool :=
  match leAt r 5 1 with
  | 0 => s.routedCan r f
  | 1 => (s.tookFree).routedEth r 0x22f0 (Config.ntscf (leAt r 0x20 8) s.free (f.id.toNat + (if f.ext then 2 ^ 31 else 0), f.fd, f.data))
  | 3 => (s.tookFree).routedEth r 0x88b6 (container (fld s.freeNow 7 0) f)
  | 6 => s.routedFrame r (leAt r 0x1e 2) f.data
  | _ => (s, false)

/-- A received PDU goes through the route table (R342). -/
def State.route (s : State) (p : Pdu) (act : State → List Byte → State × Bool) : State :=
  let hits := ((List.range 4096).filter fun k => s.routeHits k p).map fun k => (k, nbit (leAt (s.routeRec k) 0 1) 1)
  let (acts, ninth) := routeActs hits
  if hits.isEmpty then s.count (kRoute 3) 32
  else
    let s := s.forEach acts fun s k =>
      let (t, ok) := act s (s.routeRec k)
      if ok then t.count (kRoute 2) 32 else (t.count (kRoute 4) 32).orObj (kRoute 6) 1
    if ninth then s.count (kRoute 5) 32 else s

/-! ### Reception (R322, R323, R325, R326, R333, R342) -/

/-- FRAME_RECEIVE: the checks of length, FCS, MACsec, source lock and Qci, then learning, capture, routing and forwarding. -/
def execFrameReceive (q : Fin 12) (f : EthFrame) (s : State) : Result :=
  if !s.portUp q then .next s
  else if f.len < 64 ∨ 9022 < f.len ∨ !f.fcsOk then .next (s.count (kNet q 0xf) 32)
  else
    let s := s.count (kNet q 0xd) 32
    let exempt := decide (f.etype = 0x888e#16) || decide (f.etype = 0x88f7#16)
    let lock := s.oBit (kNet q 1) 4 && decide ((q : Nat) < 8)
    if s.oBit (kNet q 1) 2 ∧ (q : Nat) < 8 ∧ !exempt ∧ !(f.secured && f.secOk) then .next (s.count (kNet q 0x10) 32)
    else if lock ∧ !macListed (s.dom (kNet q 0xa)) f.src then .next ((s.count (kNet q 0x10) 32).orObj (kNet q 0xc) 0x20)
    else if !f.qciPass then .next ((s.count (kNet q 0x11) 32).orObj (kNet q 0xc) 0x10)
    else
      let v := match f.tci with
        | some t => t.toNat % 4096
        | none => s.objN (kNet q 3)
      let c := match f.tci with
        | some t => t.toNat / 2 ^ 13
        | none => 0
      let seen := s.dom (kNet q 0xb)
      let s := if seen.length < 512 ∧ !macListed seen f.src then s.setDom (kNet q 0xb) (seen ++ macBytes f.src ++ leBytes 2 0) else s
      let s := if lock then s else s.learn v f.src q
      let p := ethPdu 1 q v f
      let s := if !f.secured || f.secOk then s.capturePdu p else s
      let s := s.route p fun s r => s.routeFromEth r v p.bytes
      .next (s.forward q v c f.dst f.src f.etype.toNat f.payload none)

/-! ### Frame templates (R334) -/

/-- A template frame with `patchAt` bytes put into its image; `valid` is false when its validity is cleared (R75, R77, R335). -/
def templateImage (r : List Byte) (off : Nat) (v : List Byte) (valid : Bool) : List Byte :=
  let img := patch (slice r 32 (leAt r 4 2)) off v
  let o := leAt r 8 2
  if valid then img else patch img o [img.getD o 0#8 &&& ~~~(BitVec.ofNat 8 (2 ^ leAt r 10 1))]

/-- The CAN XL frame of an image: priority ID, SDU type, VCID, acceptance field, data (Table 13-5). -/
def imageCan (b : List Byte) : CanFrame :=
  ⟨true, false, false, BitVec.ofNat 29 (leAt b 0 2 % 2048), BitVec.ofNat 8 (leAt b 2 1), BitVec.ofNat 8 (leAt b 3 1), BitVec.ofNat 32 (leAt b 4 4), b.drop 8⟩

/-- A frame is built from template t and queued at its unit with a launch time. -/
def State.sendTemplate (s : State) (t off : Nat) (v : List Byte) (valid : Bool) (launch : Word64) : State :=
  let r := s.templateRec t
  let flags := leAt r 3 1
  let u := leAt r 1 1 % 8
  let img := templateImage r off v valid
  if !nbit flags 0 then s
  else if leAt r 0 1 = 0 then
    if !s.portUp u then s
    else s.egress u (leAt r 2 1 % 8) ⟨img, 11, 0, s.now, some launch, false, nbit flags 3, leAt r 6 2, none, some t⟩
  else (s.canEnqueue u ⟨imageCan img, some launch, some t, false⟩).1

/-- LODESTONE_OUTPUT (R73, R75, R77, R334): at due instant + output_phase a slot writes its output, or safe_value with validity cleared, and its frame is queued with that launch time. -/
def execLodestoneOutput (k : Fin 8) (s : State) : Result :=
  match (s.lo k).out with
  | none => .next s
  | some o =>
    let at_ := o.due.toNat + 4 * lcPhase o.cfg
    if s.nowN < at_ then .next s
    else
      let v := if s.safe then s.lodeF k 11 else o.v
      let s := (s.setLo k { s.lo k with out := none }).setN (kLodeStat k 1) v.toNat
      if lcKind o.cfg = 0 then .next s
      else .next (s.sendTemplate (fld o.frame 15 0 % 256) (fld o.frame 47 32) (leBytes 4 v.toNat) (o.valid && !s.safe) (BitVec.ofNat 64 (wrapInt 64 (s.netTimeAt at_))))

end Sys2Proof.Machine
end

