-- ==== Sys2Proof/Machine/Buses.lean ====
section
/-! DEFINITION. 10BASE-T1S segments and CAN XL controllers (R336-R342). -/

namespace Sys2Proof.Machine

/-! ### 10BASE-T1S (R336, R337) -/

def State.t1sQueue (s : State) (i : Nat) : List T1sTx := TMap.get (fun _ => []) s.t1sq i
def State.setT1sQueue (s : State) (i : Nat) (l : List T1sTx) : State := { s with t1sq := TMap.set (fun _ => []) s.t1sq i l }
def State.t1sOn (s : State) (i : Nat) : Bool := s.padsUp 9 && s.oBit (kT1s i 1) 0
def State.t1sNode (s : State) (i : Nat) : Nat := fld (s.obj (kT1s i 1)) 23 16
def State.plca (s : State) (i : Nat) : Nat := s.objN (kT1s i 4)

/-- A change of plca_status sets its event bit (Table 13-4). -/
def State.setPlca (s : State) (i v : Nat) : State := if s.plca i = v then s else (s.setN (kT1s i 4) v).orObj (kT1s i 9) 1

/-- A write of t1s_config: off, coordinator, follower that searches, or no PLCA (R336). -/
def State.writeT1s (s : State) (i : Nat) (v : Word64) : State :=
  let old := s.obj (kT1s i 1)
  let s := s.setObj (kT1s i 1) v
  if old = v then s
  else if !bit v 0 ∨ fld v 23 16 = 255 then s.setPlca i 0
  else if fld v 23 16 = 0 then s.setPlca i 2
  else s.setPlca i 1

/-- T1S_FRAME_RECEIVE (R326, R333, R336, R337, R342): a frame feeds capture handles and the routing table; it is not switched. -/
def execT1sFrameReceive (i : Fin 2) (f : EthFrame) (s : State) : Result :=
  if !s.t1sOn i ∨ !f.fcsOk ∨ f.len < 64 ∨ 9022 < f.len then .next s
  else if s.oBit (kT1s i 1) 1 ∧ !macListed (s.dom (kT1s i 8)) f.src then .next s
  else
    let v := (f.tci.map fun t => t.toNat % 4096).getD 0
    let p := ethPdu 3 i v f
    let s := if !f.secured || f.secOk then s.capturePdu p else s
    .next (s.route p fun s r => s.routeFromEth r v p.bytes)

/-- BEACON_LOSS (R336): a follower that misses beacons falls to searching. -/
def execBeaconLoss (i : Fin 2) (s : State) : Result :=
  if !s.t1sOn i ∨ s.t1sNode i = 0 ∨ s.t1sNode i = 255 ∨ s.plca i ≠ 2 then .next s
  else .next ((s.setPlca i 1).count (kT1s i 6) 32)

/-- PLCA_BEACON_RETURN (R336): beacons return to a follower. -/
def execPlcaBeaconReturn (i : Fin 2) (s : State) : Result :=
  if !s.t1sOn i ∨ s.t1sNode i = 0 ∨ s.t1sNode i = 255 ∨ s.plca i ≠ 1 then .next s
  else .next (s.setPlca i 2)

/-- T1S_TRANSMIT (R337): the head frame leaves, or collides and is retried up to 16 attempts. -/
def execT1sTransmit (i : Fin 2) (collided : Bool) (s : State) : Result :=
  match s.t1sQueue i with
  | [] => .next s
  | f :: rest =>
    if !s.t1sOn i then .next s
    else if !collided then .next ((s.setT1sQueue i rest).emit (.t1s i f.bytes))
    else
      let s := if s.plca i = 2 then (s.count (kT1s i 5) 32).orObj (kT1s i 9) 2 else s
      if f.attempts + 1 = 16 then .next ((s.setT1sQueue i rest).count (kT1s i 7) 32)
      else .next (s.setT1sQueue i ({ f with attempts := f.attempts + 1 } :: rest))

/-! ### CAN XL (R338-R341) -/

/-- Mode of a controller: 0 classical and FD, 1 and 2 with XL (R338). -/
def State.canMode (s : State) (c : Nat) : Nat := fld (s.obj (kCan c 1)) 3 2

/-- A state change sets can_events bit 0 (R340). -/
def State.setCanState (s : State) (c v : Nat) : State := if s.objN (kCan c 8) = v then s else (s.setN (kCan c 8) v).orObj (kCan c 0xa) 1

/-- Whether a filter record matches a frame (R339). -/
def filterHits (r : List Byte) (f : CanFrame) : Bool :=
  let id := f.id.toNat + if f.ext then 2 ^ 31 else 0
  let flags := leAt r 0 1
  nbit flags 0 && decide ((id ^^^ leAt r 2 4) &&& leAt r 6 4 = 0) && (if f.xl then nbit flags 1 else nbit flags 2)
    && (!f.xl || (decide (leAt r 10 1 = f.sdu.toNat) && decide (leAt r 11 1 = f.vcid.toNat)))

/-- Whether a frame is CXOP on CAN XL (R40, R341). -/
def State.canCxop (s : State) (c : Nat) (f : CanFrame) : Bool := f.xl && s.oBit (okey 0x1021 1) c && decide (f.sdu.toNat = s.objN (okey 0x1021 2))

/-- CAN_FRAME_RECEIVE (R333, R338, R339, R341, R342). -/
def execCanFrameReceive (c : Fin 8) (f : CanFrame) (s : State) : Result :=
  if !s.canUp c ∨ (f.xl ∧ s.canMode c = 0) ∨ s.canCxop c f then .next s
  else
    let hits := (records 16 (s.dom (kCan c 4))).filter fun r => filterHits r f
    if hits.any fun r => nbit (leAt r 0 1) 3 then .next (s.count (kCan c 0xc) 32)
    else if hits.isEmpty then .next (s.count (kCan c 0xb) 32)
    else
      let p := canPdu c f
      .next ((s.capturePdu p).route p fun s r => s.routeFromCan r f)

/-- Priority order: the lowest ID first, equal IDs in arrival order (R340). -/
def canNext (l : List CanTx) : Option CanTx :=
  l.foldl (fun b x => match b with
    | none => some x
    | some y => if x.frame.id.toNat < y.frame.id.toNat then some x else some y) none

/-- A template frame as its transmission starts (R334, R335). -/
def State.canBytes (s : State) (x : CanTx) : CanFrame :=
  match x.template with
  | none => x.frame
  | some t =>
    let f := x.frame
    imageCan (s.templateBytes t (leBytes 2 f.id.toNat ++ [f.sdu, f.vcid] ++ leBytes 4 f.af.toNat ++ f.data))

/-- TEC has passed 255: the controller goes bus-off, and stops when it does so too often within 10 s (R340). -/
def State.busOff (s : State) (c : Nat) : State :=
  let times := s.now :: (TMap.get (fun _ => []) s.canOff c).filter fun t => decide (s.nowN - t.toNat ≤ 10000000000)
  let s := { s with canOff := TMap.set (fun _ => []) s.canOff c times }
  let s := s.count (kCan c 0xe) 32
  s.setCanState c (if fld (s.obj (kCan c 5)) 31 16 ≤ times.length then 3 else 2)

/-- CAN_TRANSMIT (R334, R335, R340): the first frame of the queue leaves, or fails; the error counter follows ISO 11898-1. -/
def execCanTransmit (c : Fin 8) (tecAfter : Nat) (sent : Bool) (s : State) : Result :=
  if !s.canUp c ∨ s.oBit (kCan c 1) 1 then .next s
  else
    let due (x : CanTx) : Bool := match x.launch with
      | none => true
      | some l => decide ((l.toNat : Int) ≤ s.netTime)
    match canNext ((s.canQueue c).filter due) with
    | none => .next s
    | some x =>
      let s := if sent then ((s.setCanQueue c ((s.canQueue c).erase x)).emit (.can c (s.canBytes x))).templateSent x.template else s
      let s := s.setN (kCan c 6) (min tecAfter 0xffff)
      if 255 < tecAfter then .next (s.busOff c)
      else .next (s.setCanState c (if 128 ≤ tecAfter ∨ 128 ≤ s.objN (kCan c 7) then 1 else 0))

/-- A controller is error-active again, its counters zero (R340). -/
def State.canRecover (s : State) (c : Nat) : State := ((s.setN (kCan c 6) 0).setN (kCan c 7) 0).setCanState c 0

/-- BUS_OFF_RECOVERY (R340): after recovery_delay; a delay of 0xFFFF waits for a restart. -/
def execBusOffRecovery (c : Fin 8) (s : State) : Result :=
  let delay := fld (s.obj (kCan c 5)) 15 0
  let at_ := ((TMap.get (fun _ => []) s.canOff c).headD 0#64).toNat
  if s.objN (kCan c 8) ≠ 2 ∨ delay = 0xffff ∨ s.nowN < at_ + delay * 1000000 then .next s
  else .next (s.canRecover c)

/-- A write of restart leaves bus-off and stopped (R340). -/
def State.writeRestart (s : State) (c : Nat) : State := if 2 ≤ s.objN (kCan c 8) then s.canRecover c else s

/-- RESTART (R340). -/
def execRestart (src : Src) (c : Fin 8) (v : Word64) (s : State) : Result :=
  s.command src (0x6210 + c) 9 v fun _ s => .ok (s.writeRestart c)

end Sys2Proof.Machine
end

