-- ==== Sys2Proof/Machine/Engine.lean ====
section
/-! DEFINITION. The engine queues: what an op word reads and writes, dispatch into a queue, starting, completing, waits and drain signals; and the meanings of every engine op (R79, R104, R111-R116, R131-R133, R137, R138, R212, R219-R224). -/

namespace Sys2Proof.Machine

/-! ### What an engine op names -/

/-- Descriptors of a scale or bias operand (Table 5-9). -/
def paramReads (op : OpWord) : List Nat :=
  (if fld op 61 60 = 2 then [fld op 59 55 % 16] else []) ++ (if fld op 54 53 = 2 then [fld op 52 48 % 16] else [])

/-- Queue and descriptors of an engine op (Tables 5-3, 5-7 to 5-14); none for a controller op. -/
def useOf (op : OpWord) : Option OpUse :=
  let a := fld op 95 92
  let b := fld op 91 88
  let td := tfTd op
  let ta := tfTa op
  let tb := tfTb op
  let tc := tfTc op
  match opOf op with
  | 0x20 => some ⟨.slab, [a, b], []⟩
  | 0x21 => some ⟨.slab, [a, b], []⟩
  | 0x22 => some ⟨.slab, [a], []⟩
  | 0x23 => some ⟨.readout, paramReads op, [fld op 77 74]⟩
  | 0x28 => some ⟨.pebble, [a, b], []⟩
  | 0x29 => some ⟨.pebble, paramReads op, [fld op 77 74]⟩
  | 0x40 => some ⟨.mica, [], []⟩
  | 0x41 => some ⟨.mica, [], []⟩
  | 0x42 => some ⟨.mica, [], []⟩
  | 0x43 =>
    let n := micaArity (tfFunc op % 128)
    some ⟨.mica, [ta] ++ (if 2 ≤ n ∧ tfFunc op < 128 then [tb] else []) ++ (if 3 ≤ n then [tc] else []), [td]⟩
  | 0x44 => some ⟨.mica, [ta], [td]⟩
  | 0x45 =>
    some (match tfFunc op with
      | 0 => ⟨.mica, [ta], [td]⟩
      | 1 => ⟨.mica, [ta, tb], [td, tc]⟩
      | _ => ⟨.mica, [ta, tc], [td]⟩)
  | 0x46 => some ⟨.mica, [ta, tb, tc], [td]⟩
  | 0x47 => some ⟨.mica, [ta, tb], [td]⟩
  | 0x48 => some ⟨.mica, [ta, tb], [td]⟩
  | 0x49 => some ⟨.mica, [ta], [td]⟩
  | 0x4f => some ⟨.mica, [], []⟩
  | 0x60 => some ⟨.dma, [b], [a]⟩
  | 0x61 => some ⟨.dma, [], [a]⟩
  | 0x64 => some ⟨.dma, [b], [a]⟩
  | 0x70 => some ⟨.dma, [fld op 87 84, fld op 83 80], []⟩
  | 0x71 => some ⟨.slab, [fld op 87 84], [fld op 83 80]⟩
  | 0x72 => some ⟨.dma, [], [fld op 87 84]⟩
  | 0x91 => some ⟨.mica, [fld op 93 90], []⟩
  | _ => none

/-- Whether a Mica op asks for stochastic rounding (R212). -/
def micaSr (op : OpWord) : Bool :=
  (opOf op == 0x42 && bit op 52) || (decide (0x43 ≤ opOf op) && decide (opOf op ≤ 0x49) && tfSr op)

/-- Banks that a Slab-queue op or a readout names (R115). -/
def banksOf (op : OpWord) : List Nat :=
  match opOf op with
  | 0x23 => [fld op 95 94]
  | 0x71 => [fld op 52 51, fld op 50 49]
  | _ => [fld op 87 86]

/-- Whether two ops name a common bank. -/
def sharesBank (x y : OpWord) : Bool := (banksOf x).any fun b => (banksOf y).contains b

/-! ### Effects -/

/-- After a fault found while an op ran, each byte that it would have written may or may not have been: those bytes are free values (R137; log entry 34). -/
def State.smear (s : State) (n : Nat) (o : QOp) : State :=
  match useOf o.op with
  | none => s
  | some u =>
    s.forEach u.writes fun s i =>
      let d := o.d i
      s.forEach (d.spans d.rowBytes) fun s x =>
        match spaceAddr n d.space x.1 x.2 with
        | none => s
        | some a =>
          if d.space = 2 ∧ !s.engineMay (s.holder n) a x.2 true then s
          else (s.wr a ((List.range x.2).map fun k => (Config.freeValue (s.free + k)).setWidth 8)).tookFree x.2

/-- An effect that either happens whole or leaves an exception. -/
def wholly (f : State → Nat → QOp → Except Exc State) (s : State) (n : Nat) (o : QOp) : State × Option Exc :=
  match f s n o with
  | .ok s' => (s', none)
  | .error e => (if e.code = 0x02 ∨ e.code = 0x03 then s.smear n o else s, some e)

/-- The effect of an engine op once it starts (COLL takes part in its collective separately). -/
def performOp (s : State) (n : Nat) (o : QOp) : State × Option Exc :=
  match opOf o.op with
  | 0x20 => wholly performMatmul s n o
  | 0x21 => wholly performConv s n o
  | 0x22 => wholly performAccin s n o
  | 0x23 => wholly performReadout s n o
  | 0x28 => wholly performPconv s n o
  | 0x29 => wholly performPread s n o
  | 0x40 => wholly performVld s n o
  | 0x41 => wholly performVst s n o
  | 0x42 => wholly performVop s n o
  | 0x43 => wholly performTew s n o
  | 0x44 => wholly performTred s n o
  | 0x45 => wholly performTsmx s n o
  | 0x46 => wholly performTnorm s n o
  | 0x47 => wholly performGather s n o
  | 0x48 => wholly performScatter s n o
  | 0x49 => wholly performTpool s n o
  | 0x4f => wholly performShade s n o
  | 0x60 => wholly performDmov s n o
  | 0x61 => wholly performDfill s n o
  | 0x70 => performKvscatter s n o
  | 0x71 => wholly performAttn s n o
  | 0x72 => wholly performKvfetch s n o
  | 0x91 => wholly performAfold s n o
  | _ => (s, none)

/-! ### Starting -/

/-- The next op of a queue that has not started. -/
def CoreSt.headOf (c : CoreSt) (q : Queue) : Option QOp := (c.q q).find? fun o => !o.started

/-- Whether the op may start now, its wait apart (R104, R114-R116, R130). -/
def CoreSt.clear (c : CoreSt) (q : Queue) (o : QOp) : Bool :=
  !c.preempt && match q with
  | .ctl => false
  | .slab => !c.slab.any (·.started) && !c.readout.any (fun r => decide (r.seq < o.seq) && sharesBank o.op r.op)
      && (opOf o.op != 0x71 || !c.mica.any fun x => decide (x.seq < o.seq))
  | .readout => !c.readout.any (·.started) && !c.slab.any fun x => decide (x.seq < o.seq) && sharesBank o.op x.op
  | .mica => !c.slab.any fun x => decide (x.seq < o.seq) && opOf x.op == 0x71
  | .dma => decide ((c.dma.filter (·.started)).length < 8)
      && (!(decide (opOf o.op ≤ 0x64) && bit o.op 87) || !c.dma.any fun x => decide (x.seq < o.seq))
  | .pebble => true

/-- Update an op of a queue by its dispatch number. -/
def State.upOp (s : State) (n : Nat) (q : Queue) (seq : Nat) (f : QOp → QOp) : State :=
  s.upCore n fun c => c.setQ q ((c.q q).map fun o => if o.seq = seq then f o else o)

/-- Start an op: its effect, its exception, or for Pebble its forwarding and for COLL its share (R104, R114, R137). -/
def State.startOp (s : State) (n : Nat) (q : Queue) (o : QOp) : State :=
  let s := (s.upOp n q o.seq fun o => { o with started := true, cycles := s.nowN }).syncLevels n
  if q = .pebble then
    let p := s.pebble (n / 4)
    s.setPebble (n / 4) { p with queue := p.queue ++ [⟨n, o.seq⟩] }
  else if opOf o.op = 0x64 then s.collKick n
  else
    match performOp s n o with
    | (s', none) => s'.markRan n q o.seq
    | (s', some e) => s'.except n (Queue.code q) o.addr.toNat e

/-- Start what can start in a queue, in order (R111). -/
def State.kickQ (n : Nat) (q : Queue) : Nat → State → State
  | 0, s => s
  | k + 1, s =>
    match (s.core n).headOf q with
    | none => s
    | some o => if o.granted ∧ (s.core n).clear q o then State.kickQ n q k (s.startOp n q o) else s

/-- Start what can start in every queue but the Slab's, whose blocked ops have their own command (R114). -/
def State.kick (s : State) (n : Nat) : State :=
  State.kickQ n .pebble 4 (State.kickQ n .dma 16 (State.kickQ n .mica 16 (State.kickQ n .readout 4 s)))

/-! ### Dispatch -/

/-- What the controller checks of an engine op at its dispatch, with its effective tag (R135, R212, R219, R220, R224, R367). -/
def State.dispatchFault (s : State) (n : Nat) (op : OpWord) (u : OpUse) (tag : Nat) : Option Exc :=
  let c := s.core n
  let opened := !c.openSlots.isEmpty
  if (opOf op = 0x28 ∨ opOf op = 0x29 ∨ opOf op = 0x64) ∧ s.oBit (okey 0x7401 2) (n / 4) ∧ s.objN (kCore n 0 3) ≠ 1 then some (illegal 0x08)
  else if opOf op = 0x91 ∧ !(c.slot (fld op 95 94)).isOpen then some ⟨0x06, 0x03, 0⟩
  else if u.queue = .mica ∧ opened ∧ micaSr op then some (illegal 0x07)
  else if u.writes.any fun i => decide ((descOf (c.t i)).tag < tag) then some ⟨0x06, 0x09, 0⟩
  else if tag ≠ 0 ∧ !(u.writes.all fun i => s.tagPlaceOk n (descOf (c.t i))) then some ⟨0x06, 0x0a, 0⟩
  else if opOf op = 0x64 ∧ opened ∧ s.collCross n op then some ⟨0x06, 0x0b, 0⟩
  else none

/-- A we wait of the op at the head of its queue, granted when the counter allows it (R131). -/
def State.grantHead (s : State) (n : Nat) (q : Queue) (o : QOp) : State :=
  if o.granted ∨ s.ctr n (opWait o.op) = 0 then s
  else (s.setN (kCtr n (opWait o.op)) (s.ctr n (opWait o.op) - 1)).upOp n q o.seq fun o => { o with granted := true }

/-- Dispatch an engine op into its queue with the registers as they stand, and start it if it can start (R111, R112, R219). -/
def State.engineOp (s : State) (n : Nat) (op : OpWord) (fields : List (Nat × Nat)) : Result :=
  match useOf op with
  | none => .next s
  | some u =>
    s.dispatch n op fields (decide ((s.core n).level u.queue < Queue.depth u.queue)) fun pc s1 =>
      let tag := s1.effTag n u.reads
      match s1.dispatchFault n op u tag with
      | some e => (s1.setN (kPc n) pc).except n 0 pc e
      | none =>
        let c := s1.core n
        let o : QOp := ⟨op, BitVec.ofNat 64 pc, c.nextSeq, c.sregs, c.tregs, c.trf, tag, !c.openSlots.isEmpty, !opWe op, false, false, 0⟩
        let s2 := s1.upCore n fun c => { (c.setQ u.queue (c.q u.queue ++ [o])) with nextSeq := c.nextSeq + 1 }
        let s3 := if (s2.core n).headOf u.queue = some o then s2.grantHead n u.queue o else s2
        State.kickQ n u.queue 1 (s3.syncLevels n)

/-! ### The engine ops -/

def execMatmul (n : Fin 16) (w : BitVec 120) (s : State) : Result := s.engineOp n (mkOp 0x20 w) [(95, 48)]
def execConv (n : Fin 16) (w : BitVec 120) (s : State) : Result := s.engineOp n (mkOp 0x21 w) [(95, 48)]
def execAccin (n : Fin 16) (w : BitVec 120) (s : State) : Result := s.engineOp n (mkOp 0x22 w) [(95, 48)]
def execReadout (n : Fin 16) (w : BitVec 120) (s : State) : Result := s.engineOp n (mkOp 0x23 w) [(95, 32)]
def execPconv (n : Fin 16) (w : BitVec 120) (s : State) : Result := s.engineOp n (mkOp 0x28 w) [(95, 48)]
def execPread (n : Fin 16) (w : BitVec 120) (s : State) : Result := s.engineOp n (mkOp 0x29 w) [(95, 32)]
def execVld (n : Fin 16) (w : BitVec 120) (s : State) : Result := s.engineOp n (mkOp 0x40 w) [(95, 43)]
def execVst (n : Fin 16) (w : BitVec 120) (s : State) : Result := s.engineOp n (mkOp 0x41 w) [(95, 43)]
def execVop (n : Fin 16) (w : BitVec 120) (s : State) : Result := s.engineOp n (mkOp 0x42 w) [(95, 39)]
def execTew (n : Fin 16) (w : BitVec 120) (s : State) : Result := s.engineOp n (mkOp 0x43 w) [(95, 64)]
def execTred (n : Fin 16) (w : BitVec 120) (s : State) : Result := s.engineOp n (mkOp 0x44 w) [(95, 64)]
def execTsmx (n : Fin 16) (w : BitVec 120) (s : State) : Result := s.engineOp n (mkOp 0x45 w) [(95, 64)]
def execTnorm (n : Fin 16) (w : BitVec 120) (s : State) : Result := s.engineOp n (mkOp 0x46 w) [(95, 64)]
def execGather (n : Fin 16) (w : BitVec 120) (s : State) : Result := s.engineOp n (mkOp 0x47 w) [(95, 64)]
def execScatter (n : Fin 16) (w : BitVec 120) (s : State) : Result := s.engineOp n (mkOp 0x48 w) [(95, 64)]
def execTpool (n : Fin 16) (w : BitVec 120) (s : State) : Result := s.engineOp n (mkOp 0x49 w) [(95, 64)]
def execShade (n : Fin 16) (w : BitVec 120) (s : State) : Result := s.engineOp n (mkOp 0x4f w) [(95, 86)]
def execDmov (n : Fin 16) (w : BitVec 120) (s : State) : Result := s.engineOp n (mkOp 0x60 w) [(95, 69)]
def execDfill (n : Fin 16) (w : BitVec 120) (s : State) : Result := s.engineOp n (mkOp 0x61 w) [(95, 69)]
def execColl (n : Fin 16) (w : BitVec 120) (s : State) : Result := s.engineOp n (mkOp 0x64 w) [(95, 69)]
def execKvscatter (n : Fin 16) (w : BitVec 120) (s : State) : Result := s.engineOp n (mkOp 0x70 w) [(95, 48)]
def execAttn (n : Fin 16) (w : BitVec 120) (s : State) : Result := s.engineOp n (mkOp 0x71 w) [(95, 48)]
def execKvfetch (n : Fin 16) (w : BitVec 120) (s : State) : Result := s.engineOp n (mkOp 0x72 w) [(95, 48)]
def execAfold (n : Fin 16) (w : BitVec 120) (s : State) : Result := s.engineOp n (mkOp 0x91 w) [(95, 90)]

/-- SLAB_OP_START (R114, R115): the head of the Slab queue starts once its wait is granted, its predecessor has completed and the interlock is clear. -/
def execSlabOpStart (n : Fin 16) (s : State) : Result := .next (State.kickQ n .slab 1 s)

/-- PEBBLE_OP (R104): the next forwarded op in order of arrival; an op from another instance or world than the one before finds the banks and the line buffer cleared. -/
def execPebbleOp (c : Fin 4) (s : State) : Result :=
  let p := s.pebble c
  match p.queue with
  | [] => .next s
  | x :: rest =>
    match (s.core x.core).pebble.find? fun o => o.seq = x.seq with
    | none => .next (s.setPebble c { p with queue := rest })
    | some o =>
      let secure := s.objN (kCore x.core 0 3) == 1
      let same := p.lastInst == some (s.holder x.core) && p.lastSecure == secure
      let s1 := s.setPebble c ⟨rest, some (s.holder x.core), secure, if same then p.acc else [], if same then p.line else none⟩
      match performOp s1 x.core o with
      | (s2, none) => .next (s2.markRan x.core .pebble x.seq)
      | (s2, some e) => .next (s2.except x.core (Queue.code .pebble) o.addr.toNat e)

/-! ### Completion -/

/-- A held FENCE, HALT or ACLOSE goes on once its core has drained (R122, R135). -/
def State.releaseHold (s : State) (n : Nat) : State :=
  let c := s.core n
  match c.hold with
  | .fence op addr => if c.drained (fenceScope op) c.nextSeq then (s.holdOn n .none).ctlDone n op addr else s
  | .halt op addr => if c.allDone then s.haltDone n op addr else s
  | .aclose op addr => if c.allOps.isEmpty then s.acloseDone n op addr else s
  | _ => s

/-- A staged output that the op at this address produces is written; a requested view names it (R222, R223). -/
def State.markStaged (s : State) (n addr : Nat) : State :=
  match (s.core n).seg with
  | none => s
  | some g =>
    let m := s.holder n
    match s.inv? m g.inv with
    | none => s
    | some v =>
      let hits := v.outs.filter fun o => !o.written && decide (o.place.core.val = n) && decide (o.place.opAddr = addr)
      let s := s.upInv m g.inv fun v => { v with outs := v.outs.map fun o => if decide (o.place.core.val = n) && decide (o.place.opAddr = addr) then { o with written := true } else o }
      if v.req.view then
        s.forEach hits fun s o =>
          s.post m 0x84 v.req.cookie (leBytes 8 v.num ++ leBytes 4 o.place.binding ++ leBytes 2 o.place.tag ++ leBytes 2 0 ++ leBytes 8 o.place.addr)
      else s

/-- Time in which the core's DMA was busy, up to now (R255). -/
def State.accountDma (s : State) (n : Nat) : State :=
  let fl := (s.core n).dma.filter (·.started)
  match fl with
  | [] => s
  | _ =>
    let since := fl.foldl (fun t o => min t o.cycles) s.nowN
    (s.accountPs (s.holder n) 4 (1000 * (s.nowN - since))).upCore n fun c =>
      { c with dma := c.dma.map fun o => if o.started then { o with cycles := s.nowN } else o }

/-- OP_COMPLETE (R113, R132, R133, R222, R223): the i-th op of the queue, its effect done, completes, retires and signals; what waited on it goes on. -/
def execOpComplete (n : Fin 16) (q : Queue) (i : Nat) (s : State) : Result :=
  match ((s.core n).q q)[i]? with
  | none => .next s
  | some o =>
    if !(o.started && o.ran) then .next s
    else
      let s1 := (if q = .dma then s.accountDma n else s).upCore n fun c => c.setQ q ((c.q q).filter fun x => x.seq != o.seq)
      let s2 := ((s1.retire n).signalSe n (Queue.code q) o.addr.toNat o.op).markStaged n o.addr.toNat
      if (s2.core n).hold = .stopped then .next s2
      else .next ((s2.kick n).releaseHold n)

/-- Whether an earlier-dispatched op waits at the head of a queue on the same counter (R131). -/
def CoreSt.earlierWaits (c : CoreSt) (ctr seq : Nat) : Bool :=
  [Queue.slab, .readout, .mica, .dma, .pebble].any fun q =>
    match c.headOf q with
    | some o => !o.granted && opWait o.op == ctr && decide (o.seq < seq)
    | none => false

/-- WAIT_GRANTED (R131): the head op of a queue takes its count, or a held WAIT takes its n; waits on one counter are granted in dispatch order. -/
def execWaitGranted (n : Fin 16) (q : Queue) (s : State) : Result :=
  let c := s.core n
  match q with
  | .ctl =>
    match c.hold with
    | .wait op addr =>
      if waitCount op ≤ s.ctr n (waitCtr op) ∧ !c.earlierWaits (waitCtr op) c.nextSeq then
        .next (((s.setN (kCtr n (waitCtr op)) (s.ctr n (waitCtr op) - waitCount op)).holdOn n .none).ctlDone n op addr)
      else .next s
    | _ => .next s
  | q =>
    match c.headOf q with
    | none => .next s
    | some o =>
      if o.granted ∨ s.ctr n (opWait o.op) = 0 ∨ c.earlierWaits (opWait o.op) o.seq then .next s
      else .next ((s.grantHead n q o).kick n)

/-- DRAIN_SIGNAL_APPLY (R122, R132, R133): the i-th pending SIGNAL is applied once its scope has drained. -/
def execDrainSignalApply (n : Fin 16) (i : Nat) (s : State) : Result :=
  let c := s.core n
  match c.pend[i]? with
  | none => .next s
  | some p =>
    if !c.drained (drainScope p.op) p.seq then .next s
    else
      let s1 := s.upCore n fun c => { c with pend := c.pend.take i ++ c.pend.drop (i + 1) }
      .next ((s1.applySignal n p.op p.addr).releaseHold n)

/-- The address that an exception of the held or next op names (Table 5-17). -/
def State.heldAddr (s : State) (n : Nat) : Nat :=
  match (s.core n).hold with
  | .wait _ a | .fence _ a | .halt _ a | .aclose _ a | .aopenA _ a | .aopenB _ a => a
  | _ => s.pc n

/-- WATCHDOG_EXPIRY (R138): no op has retired for watchdog_limit while the core ran and held work. -/
def execWatchdogExpiry (n : Fin 16) (s : State) : Result :=
  let c := s.core n
  let work := c.seg.isSome || !c.allOps.isEmpty
  if s.coreState n = 1 ∧ c.hold ≠ .stopped ∧ !c.preempt ∧ work
      ∧ s.objN (kCore n 4 6) * 1000 ≤ c.elapsed + (s.nowN - c.lastRetire.toNat) then
    .next (s.except n 0 (s.heldAddr n) ⟨0x05, 0, 0⟩)
  else .next s

end Sys2Proof.Machine
end

