-- ==== Sys2Proof/Machine/Mailbox.lean ====
section
/-! DEFINITION. Messages toward the device, starts and ends of invocations, direct sets, and re-placement (R140-R142, R191-R193, R199, R202, R203, R222, R225, R230, R246, R247, R250-R254, R263, R264, R307). -/

namespace Sys2Proof.Machine

/-! ### Consumption (R251) -/

/-- Body of the message toward the device that waits. -/
def State.mboxBody (s : State) (m off n : Nat) : Nat := s.rdN (mboxTo m + 16 + off) n
def State.mboxCookie (s : State) (m : Nat) : Nat := s.rdN (mboxTo m + 12) 4

/-- Whether the device can consume a message of the kind now: it waits, the scheduler runs, the instance exists, and both queues have room (R251). -/
def State.mboxReady (s : State) (m kind : Nat) : Bool :=
  s.schedUp && decide (s.instState m ≠ 0) && decide (s.rdN (mboxTo m) 8 = 1) && decide (s.rdN (mboxTo m + 8) 2 = kind)
    && decide (((s.inst m).runq.filter fun r => decide (r.kind < 2)).length < 64) && decide ((s.inst m).outq.length < 64)

/-- Clear full, report and count the consumption (R251, R263). -/
def State.consumed (s : State) (m : Nat) : State :=
  (((s.wrN (mboxTo m) 8 0).orObj (kMbox m) 2).count (kInst m 2 2) 32).upInst m fun x => { x with lastMsg := s.now }

/-- Consume a message of a kind and act on it; an orphaned instance refuses all but ATTACH (R264). -/
def State.message (s : State) (m kind : Nat) (act : Nat → State → State) : Result :=
  if !s.mboxReady m kind then .next s
  else
    let cookie := s.mboxCookie m
    let s := s.consumed m
    if s.instState m = 5 ∧ kind ≠ 7 then .next (s.refuse m kind cookie 0x000C)
    else .next (act cookie s)

/-! ### Loading and unloading -/

/-- LOAD (R191-R193, R253). -/
def execLoad (m : Fin 16) (pl : Placement) (s : State) : Result :=
  s.message m 1 fun cookie s =>
    let image := s.mboxBody m 0 8
    let report := s.mboxBody m 8 8
    let h := s.mboxBody m 16 1
    if 16 ≤ h then s.refuse m 1 cookie 0x0007
    else if ((s.inst m).plans.any fun p => p.1 = h) then s.refuse m 1 cookie 0x000B
    else
      let (t, status, f) := s.loadPlan m h image pl
      let t := if t.engineMay m report 64 true then t.wr report (loadReport status h f pl) else t
      t.post m 0x81 cookie (leBytes 1 h ++ leBytes 1 0 ++ leBytes 2 status ++ leBytes 4 0 ++ leBytes 8 report)

/-- Discard the queued requests that the test picks, with outcome 5 (R253, R264). -/
def State.discardQueued (s : State) (m : Nat) (p : RunReq → Bool) : State :=
  let gone := (s.inst m).runq.filter p
  (s.upInst m fun x => { x with runq := x.runq.filter fun r => !p r }).forEach gone fun s r => s.reportQueued m r 5

/-- UNLOAD (R253). -/
def execUnload (m : Fin 16) (s : State) : Result :=
  s.message m 2 fun cookie s =>
    let h := s.mboxBody m 0 1
    match TMap.find (s.inst m).plans h with
    | none => s.post m 0x82 cookie (leBytes 1 h ++ leBytes 1 0 ++ leBytes 2 0x0007 ++ leBytes 4 0)
    | some p =>
      if p.unload.isSome then s.refuse m 2 cookie 0x000B
      else
        let s := s.discardQueued m fun r => decide (r.kind ≠ 1) && decide (r.handle = h)
        let s := s.upInst m fun x => { x with plans := TMap.put x.plans h { p with unload := some cookie }, held := TMap.del x.held h, reruns := x.reruns.filter fun r => decide (r.kind = 1) || decide (r.handle ≠ h) }
        ((s.setN (kPlacer m 1) 3).finishUnload m h)

/-! ### RUN, DIRECT, CANCEL (R140, R141, R253) -/

/-- The request that a RUN message makes (Table 10-6). -/
def State.runReq (s : State) (m cookie : Nat) : RunReq :=
  { kind := 0, cookie := cookie, handle := s.mboxBody m 0 1, view := nbit (s.mboxBody m 1 1) 0
    args := (List.range 8).map fun i => BitVec.ofNat 64 (s.mboxBody m (8 + 8 * i) 8)
    binds := (List.range (min 250 (s.mboxBody m 2 2))).map fun i => (s.mboxBody m (72 + 16 * i) 4, s.mboxBody m (80 + 16 * i) 8)
    header := 0, caps := [], restarted := false }

/-- Why a RUN is refused; 0 when it is accepted (R202, R243, R253). -/
def State.runError (s : State) (m : Nat) (r : RunReq) : Nat :=
  match TMap.find (s.inst m).plans r.handle with
  | none => 0x0007
  | some p =>
    if p.unload.isSome then 0x0007
    else if (r.binds.map (·.1)).eraseDups.length ≠ r.binds.length then 0x0007
    else if p.binds.any fun b => decide (b.2.2 = 0) && !(r.binds.any fun x => x.1 = b.1) then 0x0007
    else if s.oBit (kPlacer m 4) r.handle then 0x000A
    else if r.view && !s.oBit (kInst m 1 9) 1 then 0x000E
    else if s.slotMember m then 0x000E
    else 0

/-- Queue work of instance m; a sliced partition that is free takes it up (R242, R246). -/
def State.enqueue (s : State) (m : Nat) (r : RunReq) : State :=
  (s.upInst m fun x => { x with runq := x.runq ++ [r] }).schedule (s.objN (kInst m 1 1))

/-- RUN (R253). -/
def execRun (m : Fin 16) (s : State) : Result :=
  s.message m 3 fun cookie s =>
    let r := s.runReq m cookie
    match s.runError m r with
    | 0 => s.enqueue m r
    | e => s.refuse m 3 cookie e

/-- Core entries of a direct stream-set header: core, start, length, initial s1-s6 (Table 5-18). -/
def State.directEntries (s : State) (header : Nat) : List (Nat × SegRun) :=
  (List.range (s.rdN (header + 6) 2)).map fun i =>
    let a := header + 0x10 + 64 * i
    (s.rdN (a + 12) 2, ⟨0, s.rdN a 8, s.rdN (a + 8) 4, some ((List.range 6).map fun k => BitVec.ofNat 64 (s.rdN (a + 16 + 8 * k) 8))⟩)

/-- Whether a direct set may start (R19, R141). -/
def State.directOk (s : State) (m header : Nat) : Bool :=
  s.engineMay m header 16 false && s.engineMay m header (16 + 64 * s.rdN (header + 6) 2) false
    && decide (s.rd header 4 = [0x4f#8, 0x50#8, 0x53#8, 0x54#8]) && decide (s.rdN (header + 4) 2 = 1)
    && decide (1 ≤ s.rdN (header + 6) 2) && decide (s.rdN (header + 6) 2 ≤ 16)
    && (let cs := (s.directEntries header).map (·.1)
        decide (cs.eraseDups.length = cs.length) && cs.all fun n => decide (n < 16) && decide (s.holder n = m) && (s.core n).seg.isNone && decide (s.coreState n ≠ 1))

/-- The next invocation number of instance m is taken (R246). -/
def State.newInv (s : State) (m : Nat) (v : InvSt) : State :=
  let s := s.upInst m fun x => { x with invs := x.invs ++ [v], nextInv := v.num + 1 }
  if s.instState m = 1 then s.setN (kInst m 0 1) 2 else s

/-- Start a direct set, or refuse it whole with a status that the manual does not name (R140, R141; log entry 20). -/
def State.startDirect (s : State) (m : Nat) (r : RunReq) : State :=
  if !s.directOk m r.header then (s.refuse m 4 r.cookie (fld s.freeNow 15 0)).tookFree
  else
    let num := (s.inst m).nextInv
    let entries := s.directEntries r.header
    let s := s.newInv m ⟨num, r, (s.inst m).base, 0, s.now, false, [], [], [], [], [], false⟩
    (s.forEach entries fun s e => (s.startSeg e.1 { e.2 with inv := num }).setN (kCore e.1 4 9) r.header).garnetRun

/-- Whether instance m holds its cores and may start work: ready or running, orphaned for what the cadence starts, nothing being re-placed, fewer than four in progress (R202, R246, R264). -/
def State.mayStart (s : State) (m : Nat) : Bool :=
  (decide (s.instState m = 1) || decide (s.instState m = 2) || decide (s.instState m = 5))
    && decide ((s.inst m).invs.length < 4) && s.schedUp && (s.inst m).replaceq.isEmpty && !(s.coresOf m).isEmpty

/-- DIRECT (R140, R141, R243): refused without direct mode; otherwise it starts, or waits in the run queue behind earlier work. -/
def execDirect (m : Fin 16) (s : State) : Result :=
  s.message m 4 fun cookie s =>
    let r : RunReq := ⟨1, cookie, 0, false, [], [], s.mboxBody m 0 8, [], false⟩
    if !s.oBit (kInst m 1 9) 0 ∨ s.slotMember m then s.refuse m 4 cookie 0x000E
    else if s.mayStart m ∧ (s.inst m).runq.isEmpty then s.startDirect m r
    else s.enqueue m r

/-- CANCEL (R253): the earliest queued RUN or DIRECT with the cookie; one that has started is refused. -/
def execCancel (m : Fin 16) (s : State) : Result :=
  s.message m 5 fun cookie s =>
    let target := s.mboxBody m 0 4
    match (s.inst m).runq.find? fun r => decide (r.cookie = target) && decide (r.kind < 2) with
    | some r =>
      ((s.upInst m fun x => { x with runq := x.runq.erase r }).reportQueued m r 5).yieldSlice (s.objN (kInst m 1 1))
    | none =>
      if (s.inst m).invs.any fun v => decide (v.req.cookie = target) && decide (v.req.kind < 2) then s.refuse m 5 cookie 0x000B
      else (s.refuse m 5 cookie (fld s.freeNow 15 0)).tookFree

/-- HEARTBEAT (R263): its consumption is its effect. -/
def execHeartbeat (m : Fin 16) (s : State) : Result := s.message m 6 fun _ s => s

/-- ATTACH (R264): an orphaned instance is ready, or running with work in progress. -/
def execAttach (m : Fin 16) (s : State) : Result :=
  s.message m 7 fun _ s =>
    if s.instState m = 5 then s.setN (kInst m 0 1) (if (s.inst m).invs.isEmpty then 1 else 2) else s

/-- MBOX_FROM_CLEAR (R252): the driver has read the message; the next one is written. -/
def execMboxFromClear (m : Fin 16) (s : State) : Result :=
  .next (((s.wrN (mboxFrom m) 8 0).clrObj (kMbox m) 1).pump m)

/-! ### Invocations (R222, R225, R230, R246) -/

/-- The address of a binding: a RUN's own, else the plan's (R253). -/
def bindAddr (p : PlanSt) (r : RunReq) (b : Nat) : Nat :=
  match r.binds.find? fun x => x.1 = b with
  | some x => x.2
  | none => ((p.binds.find? fun x => x.1 = b).map (·.2.2)).getD 0

/-- Capture sets that an invocation reads: those of its owner that hold a stream of its capture tensors, and those that bound inputs name (R230). -/
def State.capSets (s : State) (m : Nat) (p : PlanSt) (r : RunReq) : List Nat :=
  let byStream := (List.range 256).filter fun k =>
    let c := s.obj (okey (0x4500 + k) 1)
    bit c 63 && decide (fld c 59 56 = m) && (List.range 16).any fun i =>
      let x := s.obj (okey (0x4500 + k) (2 + i))
      decide (fld x 63 62 = 1) && p.streams.contains (fld x 47 32)
  let byBind := p.binds.filterMap fun b => if !b.2.1 ∧ nbit (bindAddr p r b.1) 63 then some (bindAddr p r b.1 % 256) else none
  (byStream ++ byBind).eraseDups

/-- The latest complete slot of a capture set (R229, R230). -/
def State.latestSlot (s : State) (k : Nat) : Option Nat :=
  let v := s.objN (okey (0x4500 + k) 0x14)
  if v = 0xff then none else some v

/-- Hold a capture slot. -/
def State.holdSlot (s : State) (set slot : Nat) : State :=
  let c := TMap.get (fun _ => CapRun.init) s.caps set
  let h := TMap.get (fun _ => 0) c.holds slot
  { s with caps := TMap.set (fun _ => CapRun.init) s.caps set { c with holds := TMap.set (fun _ => 0) c.holds slot (h + 1) } }

/-- Whether every cache that a plan reads has its earlier writes settled (R225). -/
def State.kvSettled (s : State) (m : Nat) (p : PlanSt) : Bool :=
  p.views.all fun k => (TMap.get (fun _ => (⟨[], 0⟩ : KvMark)) (s.inst m).kv k).unsettled.isEmpty

/-- Whether a capture of a set that the invocation reads is in progress (R230). -/
def State.capturing (s : State) (m : Nat) (p : PlanSt) (r : RunReq) : Bool :=
  r.caps.isEmpty && (s.capSets m p r).any fun k => !(TMap.get (fun _ => CapRun.init) s.caps k).busy.isEmpty

/-- Start an invocation of plan p for the request (R246): its number, its groups, its held capture slots, its outputs, its segments in start order. -/
def State.startRun (s : State) (m : Nat) (p : PlanSt) (r : RunReq) (slot : Bool) : State :=
  let num := (s.inst m).nextInv
  let base := (s.inst m).base
  let caps := if r.caps.isEmpty then (s.capSets m p r).filterMap (fun k => (s.latestSlot k).map fun x => (k, x)) else r.caps
  let outs := p.place.outs.map fun o => (⟨o, bindAddr p r o.binding, false, false, false⟩ : OutSt)
  let s := if r.caps.isEmpty then s.forEach caps fun s c => s.holdSlot c.1 c.2 else s
  let s := s.newInv m ⟨num, r, base, p.place.groups, s.now, p.safety, [], [], caps, outs, [], slot⟩
  let s := s.upInst m fun x => { x with base := base + BitVec.ofNat 32 p.place.groups }
  let s := if r.kind = 2 then (s.count (kInst m (0x10 + r.handle) 0xc) 32).goldenBegun m r.handle else s
  s.forEach p.place.segs fun s g =>
    let seg : SegRun := ⟨num, g.start, g.len, none⟩
    let c := s.core g.core
    if s.holder g.core ≠ m then s
    else if c.seg.isNone then s.startSeg g.core seg
    else s.upCore g.core fun c => { c with segs := c.segs ++ [seg] }

/-- Start a request, or refuse it, or leave it where it waits: none (R202, R225, R246, R253). -/
def State.tryStart (s : State) (m : Nat) (r : RunReq) : Option State :=
  if r.kind = 1 then some (s.startDirect m r)
  else match TMap.find (s.inst m).plans r.handle with
    | none => some s
    | some p =>
      if s.oBit (kPlacer m 4) r.handle then some (s.refuse m 3 r.cookie 0x000A)
      else if !s.kvSettled m p ∨ s.capturing m p r then none
      else some (s.startRun m p r (s.slotMember m))

/-- Whether a queued request may begin: a slot member's job only in its slot, an orphaned instance's own messages not at all (R243, R264). -/
def State.eligible (s : State) (m : Nat) (r : RunReq) : Bool :=
  if s.slotMember m then
    (match (s.part (s.objN (kInst m 1 1))).slot with
     | some (m', h', _) => decide (r.kind = 2) && decide (m' = m) && decide (h' = r.handle)
     | none => false)
  else decide (s.instState m ≠ 5) || decide (r.kind = 2)

/-- A cadence start that was held issues once the start before it has begun (R247). -/
def State.issueHeld (s : State) (m h : Nat) : State :=
  match TMap.find (s.inst m).held h with
  | none => s
  | some r =>
    let s := s.upInst m fun x => { x with held := TMap.del x.held h, runq := x.runq.filter (fun q => decide (q.kind = 2)) ++ [r] ++ x.runq.filter fun q => decide (q.kind ≠ 2) }
    if s.slotMember m then s.upPart (s.objN (kInst m 1 1)) fun x => { x with waitSlots := x.waitSlots ++ [(m, h, BitVec.ofNat 64 r.header)] } else s

/-- INVOCATION_START (R246): the first request in order of arrival that may begin, cadence starts ahead of mailbox work; one whose caches or limits do not allow it waits. -/
def execInvocationStart (m : Fin 16) (s : State) : Result :=
  if !s.mayStart m then .next s
  else match (s.inst m).runq.find? (s.eligible m) with
    | none => .next s
    | some r =>
      match (s.upInst m fun x => { x with runq := x.runq.erase r }).tryStart m r with
      | none => .next s
      | some s' => .next (if r.kind = 2 then s'.issueHeld m r.handle else s')

/-- Whether every output of an invocation has been released. -/
def InvSt.released (v : InvSt) : Bool := v.outs.all (·.released)

/-- A written output whose tag has settled is copied to its binding; a tag that covers a broken group, or the safe state, marks it invalid. -/
def State.releaseOutput (s : State) (m inv binding : Nat) : State :=
  match s.inv? m inv with
  | none => s
  | some v =>
    match v.outs.find? fun o => decide (o.place.binding = binding) && !o.released with
    | none => s
    | some o =>
      if !o.written ∨ !v.settled o.place.tag then s
      else
        let invalid := s.safe || (List.range o.place.tag).any v.broken.contains
        let data := s.rd o.place.addr o.place.len
        let s := if s.engineMay m o.dest o.place.len true then (s.wr o.dest data).countBytes m o.dest o.place.len true else s
        s.upInv m inv fun v => { v with outs := v.outs.map fun x => if x.place.binding = binding then { x with released := true, invalid := invalid } else x }

/-- OUTPUT_RELEASE (R222). -/
def execOutputRelease (m : Fin 16) (inv binding : Nat) (s : State) : Result := .next (s.releaseOutput m inv binding)

/-- The output bytes of an invocation in binding order (R409). -/
def State.outputBytes (s : State) (v : InvSt) : List Byte :=
  let byBinding := v.outs.foldl (fun (m : TMap (List Byte)) o =>
    TMap.put m o.place.binding (((TMap.find m o.place.binding).getD []) ++ s.rd o.dest o.place.len)) []
  byBinding.flatMap (·.2)

/-- Charge energy; passing the threshold sets the event (R255). -/
def State.chargeEnergy (s : State) (m energy : Nat) : State :=
  let before := s.objN (kInst m 3 8)
  let s := s.count (kInst m 3 8) 64 energy
  let limit := s.objN (kInst m 3 9)
  if limit ≠ 0 ∧ before ≤ limit ∧ limit < s.objN (kInst m 3 8) then s.orObj (kMbox m) 8 else s

/-- INVOCATION_COMPLETE (R142, R222, R245, R246): every segment has reached its HALT and every output has been released. -/
def execInvocationComplete (m : Fin 16) (inv : Nat) (energy : Nat) (s : State) : Result :=
  match s.inv? m inv with
  | none => .next s
  | some v =>
    if s.hasSegs m inv ∨ !v.released then .next s
    else
      let s := if v.req.kind = 1 ∨ (s.goldenOf m v.req.handle).isEmpty then s else s.goldenCheck m v.req.handle (s.outputBytes v)
      .next ((s.chargeEnergy m energy).endInv m inv 0 none energy)

/-! ### Re-placement (R199, R202, R203) -/

/-- A write of replace: pinned plans are refused, every other loaded plan named is queued for cause 4 (R199, R202). -/
def State.writeReplace (s : State) (m : Nat) (v : Word64) : Except Nat State :=
  let named := (s.inst m).plans.filter fun p => bit v p.1
  if named.any fun p => p.2.pinned then .error 0x000B
  else .ok (s.upInst m fun x => { x with replaceq := x.replaceq ++ named.map fun p => (p.1, 4) })

/-- REPLACE (R202, Table 8-11). -/
def execReplace (src : Src) (m : Fin 16) (v : Word64) (s : State) : Result :=
  s.command src (0x4200 + 0x10 * m) 0xa v fun _ s => s.writeReplace m v

/-- REPLACEMENT_JOB (R200, R202): the next re-placement in order of arrival; one that cannot meet the resources leaves the plan unrunnable. -/
def execReplacementJob (m : Fin 16) (h : Fin 16) (cause : Fin 5) (pl : Placement) (s : State) : Result :=
  match (s.inst m).replaceq with
  | [] => .next s
  | (h', c) :: rest =>
    if h' ≠ h.val ∨ c ≠ cause.val ∨ !s.schedUp then .next s
    else
      let s := s.upInst m fun x => { x with replaceq := rest }
      match TMap.find (s.inst m).plans h with
      | none => .next s
      | some p =>
        if p.pinned then .next s
        else
          let s := (s.count (kPlacer m 7) 32).setN (kPlacer m 9) cause
          if !s.placeOk m h p.minCores p.safety p.nodes pl then .next (s.orObj (kPlacer m 4) (2 ^ h.val))
          else
            let generation := if p.place.lodeAddr = 0 then 0 else s.rdN p.place.lodeAddr 4
            let s := s.upInst m fun x => { x with plans := TMap.put x.plans h { p with place := pl } }
            .next ((s.writePlace m h pl generation cause).clrObj (kPlacer m 4) (2 ^ h.val))

/-- Cancel an invocation and put it back at the head of the queue, to run again from its start (R203). -/
def State.restartInv (s : State) (m num : Nat) : State :=
  match s.inv? m num with
  | none => s
  | some v =>
    let s := s.withdrawInv m num
    let r := { v.req with restarted := true, caps := v.caps }
    let s := (s.removeInv m num).upInst m fun x => { x with runq := r :: x.runq }
    ((s.count (kPlacer m 8) 32).settleInst m).dealCores

/-- SHRINK_GRACE_EXPIRY (R203): under policy 1 an invocation that has outlasted the grace of a removal is cancelled. -/
def execShrinkGraceExpiry (m : Fin 16) (inv : Nat) (s : State) : Result :=
  match (s.inst m).shrink.find? fun w => w.1 = inv with
  | none => .next s
  | some (_, at_) =>
    if s.objN (kPlacer m 5) ≠ 1 ∨ s.nowN < at_.toNat then .next s else .next (s.restartInv m inv)

end Sys2Proof.Machine
end

