-- ==== Sys2Proof/Machine/Sched.lean ====
section
/-! DEFINITION. Pre-emption, slices and safety slots, cadence starts, and fault containment (R236, R239-R249). -/

namespace Sys2Proof.Machine

/-! ### Pre-emption (R236, R239, R241) -/

/-- Ask core n to stop: its dispatch stops at the next op boundary; one that is saved or powered off, or whose instance is being torn down, is left (R236, R241). -/
def State.preemptCore (s : State) (n : Nat) : State :=
  let st := s.coreState n
  let m := s.holder n
  if 16 ≤ m ∨ (s.core n).hold = .stopped ∨ s.instState m = 4 ∨ (st ≠ 0 ∧ st ≠ 1 ∧ st ≠ 4) ∨ (s.core n).preempt then s
  else ((if st = 4 then s else s.stopWatch n).upCore n fun c => { c with preempt := true }).returnPebble n

/-- PREEMPT (R236, R241). -/
def execPreempt (n : Fin 16) (s : State) : Result := .next (if s.schedUp then s.preemptCore n else s)

/-- What a slice holder has left of its slice (R242). -/
def State.sliceLeft (s : State) (p : Nat) : Nat :=
  match (s.part p).since with
  | none => (s.part p).left
  | some t => (s.part p).left - (s.nowN - t.toNat)

/-- Pre-empt every core of a partition in favour of a member; `keep` records what the holder had left (R242, R244, R320). -/
def State.preemptPart (s : State) (p m : Nat) (keep : Bool) : State :=
  let h := s.partHolder p
  let left := s.sliceLeft p
  let s := s.forEach (s.partCores p) fun s n => s.preemptCore n
  s.upPart p fun x => { x with saving := true, next := some m, left := left, since := none, interrupted := if keep then some (h, left) else x.interrupted }

/-- SAVE_COMPLETE (R239-R242): the pre-empted cores of a partition are saved and go to the next holder; cores pre-empted alone return to their own. A core that an exception or debug holds keeps the save waiting. -/
def execSaveComplete (p : Fin 16) (s : State) : Result :=
  let cores := (s.partCores p).filter fun n => (s.core n).preempt
  if !s.schedUp ∨ (cores.isEmpty ∧ !(s.part p).saving) ∨ cores.any (fun n => decide (s.coreState n = 4) || decide ((s.core n).hold = .stopped)) then .next s
  else
    let s := s.forEach cores fun s n => s.saveCore n
    if !(s.part p).saving then .next (s.forEach cores fun s n => if s.instState (s.holder n) = 3 then s else s.grantCore n (s.holder n))
    else
      let s := s.upPart p fun x => { x with saving := false }
      match (s.part p).waitSlots, (s.part p).next with
      | (m, h, due) :: rest, _ => .next ((s.upPart p fun x => { x with waitSlots := rest }).beginSlot p m h due)
      | [], some m => .next (s.grantPart p m (if s.slotMember m then 0 else s.sliceNs m))
      | [], none => .next ((s.releasePart p).schedule p)

/-- DEBUG_RELEASE (R138, R241): the core goes on from where it was halted; a pre-emption that waited takes effect. -/
def execDebugRelease (n : Fin 16) (s : State) : Result :=
  if s.coreState n ≠ 4 then .next s
  else
    let s := (s.startWatch n).upCore n fun c => { c with stepping := false }
    .next (s.setN (kCore n 0 1) (if (s.core n).seg.isSome then 1 else 0))

/-! ### Slices and slots (R242-R245) -/

/-- SLICE_END (R242): the slice has run out; another member with work takes the partition, else the holder starts a new slice. -/
def execSliceEnd (p : Fin 16) (s : State) : Result :=
  let h := s.partHolder p
  let x := s.part p
  if !s.schedUp ∨ s.partMode p ≠ 2 ∨ h = 0xff ∨ x.slot.isSome ∨ x.saving ∨ x.since.isNone ∨ 0 < s.sliceLeft p ∨ s.slotMember h then .next s
  else
    let again := s.upPart p fun x => { x with left := s.sliceNs h, since := some s.now }
    match s.nextMember p with
    | none => .next again
    | some m => .next (if m = h then again else s.preemptPart p m false)

/-- SLOT_PREEMPT (R244): at the predicted due instant of an armed entry minus the lead time, the slice holder is pre-empted for the slot. -/
def execSlotPreempt (p : Fin 16) (e : Fin 1024) (s : State) : Result :=
  let (m, job) := s.cadJob e
  let x := s.part p
  let h := s.partHolder p
  if !s.schedUp ∨ s.cadAction e ≠ 1 ∨ !s.slotMember m ∨ s.objN (kInst m 1 1) ≠ p.val ∨ (s.jobHandle m job).isNone ∨ x.slot.isSome ∨ h = m then .next s
  else match s.predictDue e with
    | none => .next s
    | some due =>
      if s.nowN + s.leadNs p < due then .next s
      else if x.saving then .next (s.upPart p fun x => { x with next := some m })
      else if h = 0xff then .next (s.grantPart p m 0)
      else .next (s.preemptPart p m true)

/-- A job start of instance m's handle h issues in its safety slot: at once when the cores are free, else when they become free (R243). -/
def State.openSlotFor (s : State) (m h : Nat) (due : Word64) : State :=
  let p := s.objN (kInst m 1 1)
  let x := s.part p
  if x.slot.isSome ∨ x.saving ∨ (s.partHolder p ≠ 0xff ∧ s.partHolder p ≠ m) then
    s.upPart p fun x => { x with waitSlots := x.waitSlots ++ [(m, h, due)] }
  else s.beginSlot p m h due

/-- A cadence start of handle h (R246, R247): issued, or held behind one that has not begun or while the instance is frozen. -/
def State.cadenceStart (s : State) (m h : Nat) (due : Nat) : State :=
  let r : RunReq :=
    ⟨2, 0, h, s.oBit (kInst m (0x10 + h) 0xb) 0, (List.range 8).map fun i => s.obj (kInst m (0x10 + h) (3 + i)), [], due, [], false⟩
  if s.instState m = 3 ∨ !s.schedUp ∨ (s.inst m).runq.any fun q => decide (q.kind = 2) && decide (q.handle = h) then
    let s := if (TMap.find (s.inst m).held h).isSome then (s.count (kInst m (0x10 + h) 0xd) 32).goldenDropped m h else s
    s.upInst m fun x => { x with held := TMap.put x.held h r }
  else
    let s := s.upInst m fun x => { x with runq := x.runq.filter (fun q => decide (q.kind = 2)) ++ [r] ++ x.runq.filter fun q => decide (q.kind ≠ 2) }
    if s.slotMember m then s.openSlotFor m h (BitVec.ofNat 64 due) else s

/-- START_JOB (R246, R247, Table 3-3): action 0x1 starts a cadence job; missed while the instance is free or faulted. -/
def execStartJob (e : Fin 1024) (s : State) : Result :=
  match s.fire e 1 with
  | none => .next s
  | some (s, f) =>
    let (m, job) := s.cadJob e
    let s := match s.jobHandle m job with
      | none => s
      | some h => s.goldenFired m h e
    if s.instState m = 0 ∨ s.instState m = 4 then .next (s.cadMissed e)
    else match s.jobHandle m job with
      | none => .next s
      | some h => .next (s.cadenceStart m h f.due)

/-! ### Fault containment (R248, R361) -/

/-- Stop a core without saving: what runs is aborted and nothing waits on it (R248 step 1). -/
def State.stopCore (s : State) (n : Nat) : State :=
  (s.abortCore n .none).upCore n fun c => { c with seg := none, segs := [], slots := [], preempt := false, stepping := false }

/-- Stop instance m whole (R248 steps 1-5, R257, R299): its cores, groups and images; running invocations end with `outcome`, queued ones with outcome 5. -/
def State.stopInst (s : State) (m outcome : Nat) (status : Option Nat) : State :=
  let s := if s.gfxInst = m then s.failPass else s
  let s := s.forEach (s.coresOf m) fun s n => s.stopCore n
  let s := s.withdraw fun x => decide (x.inst = m)
  let s := s.upInst m fun x => { x with saved := [], stalls := [] }
  let nums := (s.inst m).invs.map (·.num)
  let s := s.forEach nums fun s num => s.poisonCaches m num
  let queued := (s.inst m).reruns ++ (s.inst m).runq
  let s := s.upInst m fun x => { x with runq := [], reruns := [], held := [] }
  let s := s.upPart (s.objN (kInst m 1 1)) fun x => { x with waitSlots := x.waitSlots.filter fun w => w.1 != m, interrupted := x.interrupted.filter fun w => w.1 != m }
  let s := s.forEach nums fun s num => s.endInv m num outcome status 0
  let s := s.forEach queued fun s r => s.reportQueued m r 5
  s.forEach (s.coresOf m) fun s n => ((s.scrubCore n).setN (kCore n 0 1) 0)

/-- Fault instance m: stopped whole, its fault objects written, a FAULT message, state faulted (R248, R361). -/
def State.faultInst (s : State) (m outcome : Nat) (status : Option Nat) (cause core addr info : Nat) : State :=
  let s := s.stopInst m outcome status
  let s := (((s.setN (kInst m 4 1) cause).setN (kInst m 4 2) core).setN (kInst m 4 3) addr).setN (kInst m 4 4) info
  let s := (s.setObj (kInst m 4 5) s.now).count (kInst m 4 6) 32
  let s := s.post m 0x86 0 (leBytes 4 cause ++ leBytes 1 core ++ leBytes 3 0 ++ leBytes 8 addr ++ leBytes 8 info ++ leBytes 8 s.nowN)
  let s := (s.setN (kInst m 0 1) 4).orObj (kMbox m) 4
  let p := s.objN (kInst m 1 1)
  if s.partMode p = 2 ∧ s.partHolder p = m then (s.releasePart p).schedule p else s

/-- INSTANCE_FAULT (R248): an exception has hit a core of the instance; the lowest core that stopped is reported. -/
def execInstanceFault (m : Fin 16) (s : State) : Result :=
  match (s.coresOf m).find? fun n => decide ((s.core n).hold = .stopped) with
  | none => .next s
  | some n => .next (s.faultInst m 4 none (s.objN (kCore n 4 2)) n (s.objN (kCore n 4 3)) (s.objN (kCore n 4 4)))

end Sys2Proof.Machine
end

