-- ==== Sys2Proof/Machine/Display.lean ====
section
/-! DEFINITION. Display pipes: latches, composition, the safety layer, fallback and return, and the display deadline (R309-R321, R423). The fallback layer's pixels are an operand (log entry 41). -/

namespace Sys2Proof.Machine

def kPipe (p sub : Nat) : Nat := okey (0x5840 + p) sub
def kRegion (p k j : Nat) : Nat := okey (0x5860 + p) (1 + 3 * k + j)

def State.pipe (s : State) (p : Nat) : PipeSt := TMap.get (fun _ => PipeSt.init) s.pipes p
def State.setPipe (s : State) (p : Nat) (x : PipeSt) : State := { s with pipes := TMap.set (fun _ => PipeSt.init) s.pipes p x }
def State.pipeState (s : State) (p : Nat) : Nat := s.objN (kPipe p 0x13)

/-- Whether the pipe is enabled. -/
def State.pipeOn (s : State) (p : Nat) : Bool := s.padsUp 8 && s.oBit (kPipe p 1) 0

/-- frame_period in ns from the timings and the pixel clock (Table 12-12). -/
def State.framePeriod (s : State) (p : Nat) : Nat :=
  let total (w : Word64) : Nat := fld w 63 48 + fld w 47 32 + fld w 31 16 + fld w 15 0
  let khz := s.objN (kPipe p 4)
  if khz = 0 then 0 else total (s.obj (kPipe p 2)) * total (s.obj (kPipe p 3)) * 1000000 / khz

/-! ### Inputs of items and regions (R311, R318) -/

/-- Whether an input (Table 12-11, offset 0x28) has a window that is not stale. -/
def State.inputFresh (s : State) (w : Word64) : Bool :=
  match TMap.get (fun _ => none) s.capWin (fld w 61 52) with
  | none => false
  | some c => decide (s.nowN - c.stamp.toNat ≤ fld w 31 0 * 1000)

/-- State of region k of pipe p: source none and a stale input mean 1 (R318). -/
def State.regionState (s : State) (p k : Nat) : Bool :=
  let w := s.obj (kRegion p k 2)
  if fld w 63 62 ≠ 1 ∨ !s.inputFresh w then true
  else match s.capField (fld w 61 52) (fld w 51 36) 1 with
    | some [b] => b.getLsbD (fld w 35 33)
    | _ => true

/-- Enabled regions of a pipe. -/
def State.regions (s : State) (p : Nat) : List Nat := (List.range 16).filter fun k => fld (s.obj (kRegion p k 0)) 31 16 ≠ 0

/-- Whether the pipe's checks are enabled. -/
def State.checksOn (s : State) (p : Nat) : Bool := s.oBit (kPipe p 0x11) 0

/-! ### Latches (R309, R313, R315, R319) -/

/-- The objects of layer l: source, position, address. -/
def State.layerObjs (s : State) (p l : Nat) : List Word64 := [s.obj (kPipe p (7 + 3 * l)), s.obj (kPipe p (8 + 3 * l)), s.obj (kPipe p (9 + 3 * l))]

/-- Format, global alpha, pitch of a layer source (Table 12-12). -/
def lsFormat (w : Word64) : Nat := fld w 55 48
def lsAlpha (w : Word64) : Nat := fld w 47 40
def lsPitch (w : Word64) : Nat := fld w 31 0

/-- Layer l as it stands from this latch on, and whether it repeats (R313, R315). -/
def State.latchLayer (s : State) (p l : Nat) : List Word64 × Bool :=
  let new := s.layerObjs p l
  let src := new.getD 0 0#64
  let old := ((s.pipe p).layers.drop (3 * l)).take 3
  let put (fmt pitch addr : Nat) : List Word64 := [setFld (setFld src 55 48 fmt) 31 0 pitch, new.getD 1 0#64, BitVec.ofNat 64 addr]
  match (s.garnet.presents.filter fun x => decide (x.1 = p) && decide (x.2.1 = l)).getLast? with
  | some (_, _, addr, pitch, fmt) => (put fmt pitch addr, false)
  | none =>
    if !bit src 63 ∨ !bit src 62 then (new, false)
    else if bit (old.getD 0 0#64) 63 ∧ bit (old.getD 0 0#64) 62 then
      (put (lsFormat (old.getD 0 0#64)) (lsPitch (old.getD 0 0#64)) (old.getD 2 0#64).toNat, true)
    else (new, true)

/-- What the frame that ends at a latch said: mismatching frames in a row, and for a fallen-back pipe a whole frame that matched (R319). -/
def State.frameVerdict (s : State) (p : Nat) : State :=
  let x := s.pipe p
  let good := !x.bad && decide ((s.regions p).length ≤ x.checked)
  s.setPipe p
    { x with
      run := if x.bad then x.run + 1 else 0
      matched := x.matched || (x.whole && decide (s.pipeState p = 2) && (good || !s.checksOn p))
      bad := false
      checked := 0 }

/-- PIPE_LATCH (R309, R313, R315, R319): committed layers, presents, scene and atlas take effect; a fallen-back pipe returns when all three conditions hold. -/
def execPipeLatch (p : Fin 4) (s : State) : Result :=
  if !s.pipeOn p then .next s
  else
    let s := s.frameVerdict p
    let x := s.pipe p
    let s := if s.pipeState p = 2 ∧ x.resume ∧ !s.safe ∧ x.matched then (s.setN (kPipe p 0x13) 1).setPipe p { x with resume := false, matched := false } else s
    let ls := [0, 1, 2].map fun l => s.latchLayer p l
    let s := if ls.any (·.2) then (s.count (kPipe p 0x16) 32).orObj (kPipe p 0x14) 1 else s
    let s := s.setPipe p { s.pipe p with layers := ls.flatMap (·.1), scene := s.dom (okey (0x5880 + p) 1), atlas := s.dom (okey 0x5884 1), whole := decide (s.pipeState p = 2) }
    let s := { s with garnet := { s.garnet with presents := s.garnet.presents.filter fun y => y.1 != p } }
    .next ((s.count (kPipe p 0x15) 32).setObj (kPipe p 0x1a) s.now)

/-- REGION_CHECK (R318, R319): a region's CRC over its output pixels against the CRC expected in the latched state. -/
def execRegionCheck (p : Fin 4) (k : Fin 16) (pixels : List (Word16 × Word16 × Word16)) (s : State) : Result :=
  if !s.pipeOn p ∨ !s.checksOn p ∨ !(s.regions p).contains k then .next s
  else
    let x := s.pipe p
    let crc := (crc32c (pixels.flatMap fun q => leBytes 2 q.1.toNat ++ leBytes 2 q.2.1.toNat ++ leBytes 2 q.2.2.toNat)).toNat
    let want := s.obj (kRegion p k 1)
    let expected := if nbit x.states k then fld want 63 32 else fld want 31 0
    if crc = expected then .next (s.setPipe p { x with checked := x.checked + 1 })
    else
      let s := (s.setPipe p { x with checked := x.checked + 1, bad := true }).count (kPipe p 0x18) 32
      if s.pipeState p = 2 then .next (s.orObj (kPipe p 0x14) 0x10)
      else if fld (s.obj (kPipe p 0x11)) 3 2 + 1 ≤ x.run + 1 then .next (s.pipeFallback p)
      else .next s

/-- A write of resume (R319). -/
def State.writeResume (s : State) (p : Nat) : State :=
  if s.pipeState p = 2 then s.setPipe p { s.pipe p with resume := true } else s

/-- RESUME (R319). -/
def execResume (src : Src) (p : Fin 4) (v : Word64) (s : State) : Result :=
  s.command src (0x5840 + p) 0x12 v fun _ s => .ok (s.writeResume p)

/-! ### Scan-out (R312, R314, R316) -/

/-- Raw bits of a surface pixel in a display format (Table 12-8); NV12 takes luma and its chroma pair. -/
def State.surfacePixel (s : State) (fmt addr pitch height x y : Nat) : Nat :=
  match fmt with
  | 3 => s.rdN (addr + y * pitch + 2 * x) 2
  | 5 => s.rdN (addr + y * pitch + 8 * x) 8
  | 6 => s.rdN (addr + y * pitch + x) 1 + 256 * s.rdN (addr + height * pitch + y / 2 * pitch + x / 2 * 2) 2
  | _ => s.rdN (addr + y * pitch + 4 * x) 4

/-- A memory layer's pixel at (x, y) of the pipe, if it covers it: its channels and the layer's alpha (R314, R316). -/
def State.layerAt (s : State) (p l x y : Nat) (missing : Option Nat) : Option (Word64 × Nat) :=
  let ls := (s.pipe p).layers
  let src := ls.getD (3 * l) 0#64
  let pos := ls.getD (3 * l + 1) 0#64
  let addr := (ls.getD (3 * l + 2) 0#64).toNat
  let x0 := fld pos 63 48
  let y0 := fld pos 47 32
  let w := fld pos 31 16
  let h := fld pos 15 0
  if !bit src 63 ∨ x < x0 ∨ x0 + w ≤ x ∨ y < y0 ∨ y0 + h ≤ y then none
  else if (missing.any fun k => decide (k ≤ x)) then none
  else some (Config.layerPixel (lsFormat src) (s.surfacePixel (lsFormat src) addr (lsPitch src) h (x - x0) (y - y0)), lsAlpha src)

/-- Whether a layer that covers line y lacks data for part of it (R316). -/
def State.layerShort (s : State) (p l y : Nat) (missing : Option Nat) : Bool :=
  let src := (s.pipe p).layers.getD (3 * l) 0#64
  let pos := (s.pipe p).layers.getD (3 * l + 1) 0#64
  bit src 63 && decide (fld pos 47 32 ≤ y) && decide (y < fld pos 47 32 + fld pos 15 0) && missing.any fun x => decide (x < fld pos 63 48 + fld pos 31 16)

/-- Bits per colour of a pipe. -/
def State.pipeDepth (s : State) (p : Nat) : Nat := 6 + 2 * fld (s.obj (kPipe p 1)) 7 6

/-- An output code: the gamma entry of a channel's top 10 bits, rounded to the depth (R314). -/
def State.channelOut (s : State) (p : Nat) (c : Nat) : Nat := Config.outCode (leAt (s.dom (kPipe p 6)) (2 * (c / 64 % 1024)) 2) (s.pipeDepth p)

/-- One output pixel: background, memory layers 0-2 when the pipe is normal, the fallback layer, gamma (R314, R319). -/
def State.scanPixel (s : State) (p : Nat) (ln : ScanLine) (x : Nat) : Nat × Nat × Nat :=
  let back := Config.layerPixel 1 (s.objN (kPipe p 5))
  let mem := if s.pipeState p = 1 then [0, 1, 2].filterMap fun l => s.layerAt p l x ln.y (ln.missing.getD l none) else []
  let fb := if s.oBit (kPipe p 0x10) 0 then [(Config.layerPixel 1 (ln.fb.getD x 0#32).toNat, 255)] else []
  let w := (mem ++ fb).foldl (fun acc q => Config.blend16 acc q.1 q.2) back
  (s.channelOut p (fld w 15 0), s.channelOut p (fld w 31 16), s.channelOut p (fld w 47 32))

/-- LINE_SCAN_OUT (R311, R312, R314, R316, R318): one line leaves the pipe; underflowing layers and a fallback overflow are counted; the first active line latches the region states. -/
def execLineScanOut (p : Fin 4) (ln : ScanLine) (s : State) : Result :=
  let width := fld (s.obj (kPipe p 2)) 63 48
  if !s.pipeOn p ∨ fld (s.obj (kPipe p 3)) 63 48 ≤ ln.y then .next s
  else
    let s := if ln.y = 0 then
        s.setPipe p { s.pipe p with states := (List.range 16).foldl (fun n k => if s.regionState p k then n + 2 ^ k else n) 0 }
      else s
    let under := if s.pipeState p = 1 then [0, 1, 2].filter fun l => s.layerShort p l ln.y (ln.missing.getD l none) else []
    let s := s.forEach under fun s _ => (s.count (kPipe p 0x17) 32).orObj (kPipe p 0x14) 4
    let s := if 512 < ln.edges ∨ 64 < ln.items then (s.count (kPipe p 0x19) 32).orObj (kPipe p 0x14) 8 else s
    if (s.pipe p).sink then .next (s.emit (.scan p ln.y ((List.range width).map fun x => s.scanPixel p ln x))) else .next s

/-- HOT_PLUG_DETECT (R313, R423): a pipe's sink is ready, and the pipe's lines reach it from now on. -/
def execHotPlugDetect (p : Fin 4) (s : State) : Result := .next (s.setPipe p { s.pipe p with sink := true })

/-! ### The display deadline (R320) -/

/-- The first latch of a pipe at or after an instant. -/
def State.nextLatch (s : State) (p t : Nat) : Nat :=
  let last := s.objN (kPipe p 0x1a)
  let per := max (s.framePeriod p) 1
  if t ≤ last then last else last + (t - last + per - 1) / per * per

/-- The deadline of the pass at ring_head, when it has one (R320). -/
def State.passDeadline (s : State) (save : Nat) : Option Nat :=
  let d := s.passDesc
  if s.ringHead = s.ringTail ∨ !nbit (pdFlags d) 3 ∨ pdEstimate d = 0 then none
  else some (s.nextLatch (nfld (pdPresentTo d) 5 4) (s.garnet.headSince.toNat + pdEstimate d + save))

/-- DISPLAY_PREEMPT (R320): the holder of the sliced graphics partition is pre-empted for the graphics instance; a safety slot goes first. -/
def execDisplayPreempt (p : Fin 16) (s : State) : Result :=
  let save := s.saveBound p (s.partCores p).length
  let x := s.part p
  let h := s.partHolder p
  if !s.schedUp ∨ s.gfxPartition ≠ some p.val ∨ s.partMode p ≠ 2 ∨ h = 0xff ∨ h = s.gfxInst ∨ s.slotMember h ∨ x.slot.isSome ∨ x.saving ∨ !(s.partMembers p).contains s.gfxInst then .next s
  else match s.passDeadline save with
    | none => .next s
    | some d => if s.nowN + pdEstimate s.passDesc + save < d then .next s else .next (s.preemptPart p s.gfxInst true)

/-- RING_TAIL_WRITE (R298, R308). -/
def execRingTailWrite (src : Src) (v : Word64) (s : State) : Result :=
  s.command src 0x5800 6 v fun _ s => s.writeRingTail v

end Sys2Proof.Machine
end

