-- ==== Sys2Proof/Machine/Feldspar.lean ====
section
/-! DEFINITION. The Feldspar bridge (outbound and inbound windows, swaps, the write buffer, retry while fetching, posted-write errors) and the Twimi links (R346-R362). -/

namespace Sys2Proof.Machine

/-! ### Objects -/

def kPcie (sub : Nat) : Nat := okey 0x6400 sub
def kOb (w sub : Nat) : Nat := okey (0x6410 + w) sub
def kIb (i sub : Nat) : Nat := okey (0x6430 + i) sub
def kLink (l sub : Nat) : Nat := okey (0x6480 + l) sub
def kPweLog : Nat := okey 0x6401 1

/-- Fields of ob_config and ib_config (Table 14-4). -/
def wcEnable (w : Word64) : Bool := bit w 0
def wcPosted (w : Word64) : Bool := bit w 1
def wcGranule (w : Word64) : Nat := 2 * 2 ^ fld w 3 2
def wcSwap (w : Word64) : Nat := fld w 5 4
def wcType (w : Word64) : Nat := fld w 7 6

/-- Role of the port as read at the last start-up: 0 off, 1 root port, 2 endpoint (R346). -/
def State.pcieUp (s : State) : Bool := decide (fld (s.obj (kPcie 4)) 3 0 ≠ 0)

/-! ### Swaps (R350) -/

/-- Far address of near byte a for an access of `len` bytes at `base`. -/
def swapAddr (setting g base len a : Nat) : Nat :=
  match setting with
  | 0 => a
  | 1 =>
    let u := max (min len 8) 1
    base + (a - base) / u * u + (u - 1 - (a - base) % u)
  | _ => a / g * g + (g - 1 - a % g)

/-- Whether the setting admits the access: setting 1 takes naturally aligned ones only. -/
def swapOk (setting a len : Nat) : Bool := setting != 1 || (isPow2 len && decide (a % len = 0))

/-- Bytes as the far side sees them, as pairs of far address and byte, in ascending far address. -/
def swapOut (setting g a : Nat) (data : List Byte) : List (Nat × Byte) :=
  ((List.range data.length).zip data).foldl (fun m x => TMap.put m (swapAddr setting g a data.length (a + x.1)) x.2) []

/-- Near bytes of an access from the bytes at its far addresses in ascending order. -/
def swapIn (setting g a len : Nat) (data : List Byte) : List Byte :=
  let far := (swapOut setting g a (List.replicate len 0#8)).map (·.1)
  (List.range len).map fun i => ((far.zip data).find? fun x => x.1 = swapAddr setting g a len (a + i)).elim 0#8 (·.2)

/-- Consecutive far bytes as runs. -/
def runsOf : List (Nat × Byte) → List (Nat × List Byte)
  | [] => []
  | x :: xs =>
    match runsOf xs with
    | [] => [(x.1, [x.2])]
    | r :: rs => if x.1 + 1 = r.1 then (x.1, x.2 :: r.2) :: rs else (x.1, [x.2]) :: r :: rs

/-! ### Outbound windows (R347-R349) -/

/-- What an access to a window meets. -/
inductive ObHit where
  | bad
  | window (w : Nat) (cfg : Word64) (far : Nat)
deriving DecidableEq, Repr

/-- Resolve an access to an outbound window: enabled, within ob_size, aligned as its swap asks; configuration windows only as a root port (R347, R350). -/
def State.obHit (s : State) (a len : Nat) : ObHit :=
  match unitOfRange a len with
  | some (.pcie w) =>
    let cfg := s.obj (kOb w 1)
    let o := (a - 0x80000000000) % 0x8000000000
    if !wcEnable cfg ∨ s.objN (kOb w 3) < o + len ∨ !swapOk (wcSwap cfg) a len ∨ (wcType cfg = 1 ∧ s.pcieRole ≠ 1) then .bad
    else .window w cfg (if wcType cfg = 1 then o else s.objN (kOb w 2) + o)
  | _ => .bad

/-- Request kind of an access (Out.pcie): memory or configuration, write or read. -/
def obKind (cfg : Word64) (wr : Bool) : Nat := (if wcType cfg = 1 then 2 else 0) + (if wr then 0 else 1)

/-- A write leaves the PCI Express port. -/
def State.sendWrite (s : State) (w : Nat) (cfg : Word64) (far : Nat) (data : List Byte) : State :=
  s.forEach (runsOf (swapOut (wcSwap cfg) (wcGranule cfg) far data)) fun s r => s.emit (.pcie w (obKind cfg true) r.1 r.2 r.2.length)

/-- A posted write is faulted: logged, or counted as lost (R357). -/
def State.postedFault (s : State) (p : Posted) (cause : Nat) : State :=
  let log := s.dom kPweLog
  let e := leBytes 8 p.addr ++ leBytes 1 ((p.addr - 0x80000000000) / 0x8000000000) ++ leBytes 1 cause ++ leBytes 6 0 ++ leBytes 8 s.nowN ++ leBytes 4 p.data.length ++ leBytes 4 0
  let s := if log.length < 512 then s.setDom kPweLog (log ++ e) else s.count (kPcie 0xb) 32
  (s.count (kPcie 0xa) 32).orObj (kPcie 6) 2

/-- The oldest posted write leaves, or is faulted at the head of the buffer (R349, R357). -/
def State.sendPosted (s : State) (p : Posted) : State :=
  if !s.pcieUp then s.postedFault p 1
  else match s.obHit p.addr p.data.length with
    | .bad => s.postedFault p 2
    | .window w cfg far => s.sendWrite w cfg far p.data

/-- Every accepted posted write leaves, in order (R349). -/
def State.flushPosted (s : State) : State :=
  let l := s.wbuf
  ({ s with wbuf := [] } : State).forEach l fun s p => s.sendPosted p

/-! ### Reads that cross (R353-R355) -/

def State.fetch (s : State) (k : Nat) : Option Fetch := TMap.get (fun _ => none) s.fetches k
def State.setFetch (s : State) (k : Nat) (f : Option Fetch) : State := { s with fetches := TMap.set (fun _ => none) s.fetches k f }

/-- Whether a read crosses Feldspar: an outbound window, or the PSRAM or flash aperture. -/
def crosses (a len : Nat) : Bool :=
  match unitOfRange a len with
  | some (.pcie _) | some .psram | some .flash => true
  | _ => false

/-- The fetch slot of a read. -/
def State.slotOf (s : State) (requester a len : Nat) : Option Nat :=
  (List.range 64).find? fun k => (s.fetch k).any fun f => decide (f.requester = requester) && decide (f.addr = a) && decide (f.len = len)

/-- Discard what is held for the bytes (R355). -/
def State.dropFetches (s : State) (a len : Nat) : State :=
  s.forEach ((List.range 64).filter fun k => (s.fetch k).any fun f => decide (f.addr < a + len) && decide (a < f.addr + f.len)) fun s k => s.setFetch k none

/-- OUTBOUND_READ (R347, R349, R353): data that is held, an error, or RETRY with a fetch started when a slot is free. -/
def execOutboundRead (requester addr len : Nat) (s : State) : Result :=
  let fail := s.emit (.feldspar requester 2 addr [])
  let retry (s : State) : Result := .next (s.emit (.feldspar requester 0 addr []))
  if !crosses addr len ∨ s.domOff 7 then .next fail
  else
    let window := addr < 0x100000000000 ∧ 0x80000000000 ≤ addr
    if window ∧ s.obHit addr len = .bad then .next fail
    else match s.slotOf requester addr len with
      | some k =>
        (match s.fetch k with
         | some f =>
           if !f.done then retry s
           else match f.data with
             | some d => .next ((s.setFetch k none).emit (.feldspar requester 1 addr d))
             | none => .next ((s.setFetch k none).emit (.feldspar requester 2 addr []))
         | none => retry s)
      | none =>
        if s.yielding then retry s
        else match (List.range 64).find? fun k => (s.fetch k).isNone with
          | none => retry s
          | some k =>
            let s := s.setFetch k (some ⟨requester, addr, len, false, none, s.now⟩)
            (match s.obHit addr len with
             | .bad => retry s
             | .window w cfg far =>
               let s := s.flushPosted
               let runs := runsOf (swapOut (wcSwap cfg) (wcGranule cfg) far (List.replicate len 0#8))
               retry (s.forEach runs fun s r => s.emit (.pcie w (obKind cfg false) r.1 [] r.2.length)))

/-- FETCH_COMPLETE (R350, R353, R354): a fetch ends with the far bytes in ascending far address, or with an error. The apertures answer from the device's own PSRAM and flash. -/
def execFetchComplete (slot : Fin 64) (data : Option (List Byte)) (s : State) : Result :=
  match s.fetch slot with
  | none => .next s
  | some f =>
    if f.done then .next s
    else
      let near := match s.obHit f.addr f.len with
        | .window _ cfg far => data.map fun d => swapIn (wcSwap cfg) (wcGranule cfg) far f.len d
        | .bad => if f.addr < 0x100000000000 ∧ 0x80000000000 ≤ f.addr then none else data.map fun _ => s.rd f.addr f.len
      .next (s.setFetch slot (some { f with done := true, data := near, since := s.now }))

/-- FETCH_HOLD_EXPIRY (R354): data held for 4 µs without its repeat is discarded. -/
def execFetchHoldExpiry (slot : Fin 64) (s : State) : Result :=
  match s.fetch slot with
  | none => .next s
  | some f => if !f.done ∨ s.nowN < f.since.toNat + 4000 then .next s else .next ((s.setFetch slot none).count (kPcie 7) 32)

/-- READ_TIMEOUT (R353): a read not served within read_timeout completes with an error response. -/
def execReadTimeout (requester addr len : Nat) (since : Word64) (s : State) : Result :=
  if s.nowN < since.toNat + s.objN (kPcie 5) * 1000 ∨ !crosses addr len then .next s
  else .next (s.emit (.feldspar requester 2 addr []))

/-- Bytes in the outbound write buffer. -/
def State.wbufBytes (s : State) : Nat := (s.wbuf.map fun p => p.data.length).sum

/-- OUTBOUND_WRITE (R347-R350, R355): posted writes complete at acceptance, others when their zero-length read returns. While the outbound side yields, a write waits. -/
def execOutboundWrite (requester addr : Nat) (data : List Byte) (farOk : Bool) (s : State) : Result :=
  match s.obHit addr data.length with
  | .bad => .next (s.emit (.feldspar requester 2 addr []))
  | .window w cfg far =>
    if s.domOff 7 then .next (s.emit (.feldspar requester 2 addr []))
    else if s.yielding then .next s
    else
      let s := s.dropFetches addr data.length
      if wcPosted cfg ∧ wcType cfg ≠ 1 then
        let s := if 65536 < s.wbufBytes + data.length then s.flushPosted else s
        .next (({ s with wbuf := s.wbuf ++ [⟨addr, data, s.now⟩] } : State).emit (.feldspar requester 3 addr []))
      else
        let s := s.flushPosted
        if !s.pcieUp then .next (s.emit (.feldspar requester 2 addr []))
        else
          let s := (s.sendWrite w cfg far data).emit (.pcie w 4 far [] 0)
          .next (s.emit (.feldspar requester (if farOk then 3 else 2) addr []))

/-- DEADLOCK_YIELD (R356): the outbound side yields until one inbound request completes. -/
def execDeadlockYield (s : State) : Result :=
  if s.yielding then .next s
  else .next (({ s with yielding := true } : State).count (kPcie 9) 32 |>.orObj (kPcie 6) 4)

/-- POSTED_WRITE_FAULT (R357): the write at the head of the buffer is logged with its cause and dropped. -/
def execPostedWriteFault (cause : Fin 5) (s : State) : Result :=
  match s.wbuf with
  | [] => .next s
  | p :: rest => if (cause : Nat) = 0 then .next s else .next (({ s with wbuf := rest } : State).postedFault p cause)

/-- PWE_CLEAR (R357): writing 1 empties the log. -/
def State.writePweClear (s : State) (v : Word64) : State := if v = 1#64 then s.setDom kPweLog [] else s

def execPweClear (src : Src) (v : Word64) (s : State) : Result :=
  s.command src 0x6401 2 v fun _ s => .ok (s.writePweClear v)

/-! ### Inbound windows (R351, R352, R368) -/

/-- Where an inbound request lands: the window and the device address. -/
def State.ibHit (s : State) (addr len bar : Nat) : Option (Word64 × Nat) :=
  if s.pcieRole = 2 then
    let i := bar / 2
    if bar % 2 = 0 ∧ i < 3 ∧ wcEnable (s.obj (kIb i 1)) ∧ addr + len ≤ s.objN (kIb i 3) then some (s.obj (kIb i 1), s.objN (kIb i 4) + addr) else none
  else if s.pcieRole = 1 then
    ((List.range 8).find? fun i => wcEnable (s.obj (kIb i 1)) && decide (s.objN (kIb i 2) ≤ addr) && decide (addr + len ≤ s.objN (kIb i 2) + s.objN (kIb i 3))).map
      fun i => (s.obj (kIb i 1), s.objN (kIb i 4) + (addr - s.objN (kIb i 2)))
  else none

/-- Whether master 29 in a world may reach the bytes; a core's local store has its world (R351, R352, R364, R368). -/
def State.inboundMay (s : State) (a len : Nat) (secure wr : Bool) : Bool :=
  match unitOfRange a len with
  | some .stack | some (.alias_ _) => !s.domOff 6 && !s.stackRefuses ⟨29, 0, 0#16, a, wr, len, [], secure, .clean, false, false⟩
  | some (.cmem c) => !s.domOff (2 + c) && (secure || decide (s.objN (okey 0x7402 (2 + c)) ≤ a - cmemBase c))
  | some (.lstore n) => !s.domOff (2 + n / 4) && (secure || !s.oBit (okey 0x7401 1) n)
  | some .psram => secure || decide (s.objN (okey 0x7402 6) ≤ a - psramBase)
  | some .flash => !wr
  | some .hostPrivate => wr && Config.imsicPage ((a - 0xfe00000000) / 4096)
  | _ => false

/-- Where the MSI-X table is kept: 4 KiB that no object names; a byte never written reads 0 (section on the PCI Express port of chapter 14, log entry 102). -/
def kMsix : Nat := okey 0x6402 0xff

/-- In the endpoint role, whether a request in BAR0 touches the table in the last 4 KiB, and its offset there: none for another request, `some none` for one that crosses into the table. -/
def State.msixHit (s : State) (addr len bar : Nat) : Option (Option Nat) :=
  let base := s.objN (kIb 0 3) - 4096
  if s.pcieRole = 2 ∧ bar = 0 ∧ base < addr + len then some (if base ≤ addr ∧ addr + len ≤ base + 4096 then some (addr - base) else none) else none

/-- Bytes of the MSI-X table are written. -/
def State.msixPut (s : State) (off : Nat) (data : List Byte) : State :=
  s.setDom kMsix (slice (s.dom kMsix) 0 off ++ data ++ (s.dom kMsix).drop (off + data.length))

/-- An inbound request completes: outbound traffic goes on (R356). -/
def State.inboundDone (s : State) : State := { s with yielding := false }

/-- INBOUND_REQUEST (R350-R352, R425): in service boot BAR0 reaches the PSRAM. -/
def execInboundRequest (wr : Bool) (addr len : Nat) (data : List Byte) (bar : Fin 8) (s : State) : Result :=
  if !s.padsUp 7 then .next s
  else if s.svcBoot then
    if (bar : Nat) = 0 ∧ addr + len ≤ 0x4000000 then
      if wr then .next (s.wr (psramBase + addr) (slice data 0 len)) else .next (s.emit (.inbound addr (some (s.rd (psramBase + addr) len))))
    else if wr then .next s else .next (s.emit (.inbound addr none))
  else
    let refused := (s.count (kPcie 8) 32).orObj (kPcie 6) 8
    match s.ibHit addr len bar with
    | none => .next (if wr then refused else refused.emit (.inbound addr none))
    | some (cfg, a) =>
      if (s.msixHit addr len bar).isSome then
        match (s.msixHit addr len bar).bind id with
        | none => .next (if wr then refused else refused.emit (.inbound addr none))
        | some off =>
          if wr then .next (s.msixPut off (slice data 0 len)).inboundDone
          else .next (s.inboundDone.emit (.inbound addr (some (slice (s.dom kMsix) off len))))
      else if !swapOk (wcSwap cfg) a len ∨ !s.inboundMay a len (wcType cfg = 1) wr then .next (if wr then refused else refused.emit (.inbound addr none))
      else
        let near := swapOut (wcSwap cfg) (wcGranule cfg) a (slice data 0 len)
        if wr then .next (State.inboundDone (s.forEach (runsOf near) fun s r => s.wr r.1 r.2))
        else
          let d := if (s.poisonedAt a len).isSome then none else some (swapIn (wcSwap cfg) (wcGranule cfg) a len ((runsOf near).flatMap fun r => s.rd r.1 r.2.length))
          .next (s.inboundDone.emit (.inbound addr d))

/-- PCIE_LINK_CHANGE (R346, Table 14-5): the link of a port that is not off trains at a generation and width, or goes down. -/
def execPcieLinkChange (gen width : Nat) (s : State) : Result :=
  let v := if gen = 0 ∨ 5 < gen then 0 else width % 16 * 16 + gen
  if s.pcieRole = 0 ∨ s.objN (kPcie 4) = v ∨ (v ≠ 0 ∧ !s.padsUp 7) then .next s
  else .next ((s.setN (kPcie 4) v).orObj (kPcie 6) 1)

/-! ### Twimi links (R18, R358-R361) -/

def State.lk (s : State) (l : Nat) : LinkSt := TMap.get (fun _ => LinkSt.init) s.links l
def State.setLk (s : State) (l : Nat) (x : LinkSt) : State := { s with links := TMap.set (fun _ => LinkSt.init) s.links l x }

/-- Link l comes up; the error bit of an earlier loss goes once its event has been cleared (R361, log entry 14). -/
def State.linkUp (s : State) (l : Nat) : State :=
  let s := if s.oBit (kLink l 7) 0 then s else s.clrObj (okey 0x1001 1) (2 ^ (16 + l))
  ((s.setN (kLink l 2) 2).orObj (kLink l 7) 1).setLk l LinkSt.init

/-- LINK_TRAIN (R18, R358, Table 14-3): the far end's device, link and product are checked at step 3. -/
def execLinkTrain (l : Fin 3) (far : FarEnd) (s : State) : Result :=
  if !s.oBit (kLink l 1) 0 ∨ 2 ≤ s.objN (kLink l 2) ∨ !s.padsUp 7 ∨ !s.fwRuns 1 then .next s
  else match far with
    | .silent => .next (s.setN (kLink l 2) 1)
    | .answer dev link product _ =>
      let s := s.setN (kLink l 3) (dev % 256)
      let d := s.objN (okey 0x1000 4)
      if dev = (d + l + 1) % 4 ∧ link = 2 - (l : Nat) ∧ product = s.objN (okey 0x1000 2) then .next (s.linkUp l)
      else .next ((s.setN (kLink l 2) 3).orObj (kLink l 7) 4)

/-- TRAIN_RETRY (R358): 100 ms after training without an answer, an enabled link trains again. -/
def execTrainRetry (l : Fin 3) (s : State) : Result :=
  if s.oBit (kLink l 1) 0 ∧ s.objN (kLink l 2) ≤ 1 ∧ s.padsUp 7 ∧ s.fwRuns 1 then .next (s.setN (kLink l 2) 1) else .next s

/-- A loss of link l (R361). -/
def State.linkLoss (s : State) (l : Nat) : State :=
  let hit := (List.range 16).filter fun m => s.oBit (kInst m 5 (l + 1)) 31
  let s := s.forEach hit fun s m => if s.instState m = 0 then s else s.faultInst m 3 (some 0x000B) 0 0xff 0 0
  let s := s.forEach hit fun s m => s.setObj (kInst m 5 (l + 1)) (setBit (s.obj (kInst m 5 (l + 1))) 31 false)
  let s := (s.count (kLink l 6) 32).orObj (kLink l 7) 1
  let s := ((s.orObj (okey 0x1001 1) (2 ^ (16 + l))).setLk l LinkSt.init).strataEvent 11
  s.setN (kLink l 2) (if s.oBit (kLink l 1) 1 ∧ s.oBit (kLink l 1) 0 then 1 else 0)

/-- TWIMI_LINK_LOSS (R360, R361). -/
def execTwimiLinkLoss (l : Fin 3) (s : State) : Result := if s.objN (kLink l 2) = 2 then .next (s.linkLoss l) else .next s

/-- FLIT_REPLAY (R359, R360): a replay is counted; too many in a millisecond set the event, 16 of one flit lose the link. -/
def execFlitReplay (l : Fin 3) (sameFlit : Bool) (s : State) : Result :=
  if s.objN (kLink l 2) ≠ 2 then .next s
  else
    let x := s.lk l
    let fresh := decide (1000000 ≤ s.nowN - x.msStart.toNat) || decide (x.msCount = 0)
    let x : LinkSt := ⟨if fresh then s.now else x.msStart, if fresh then 1 else x.msCount + 1, if sameFlit then x.same + 1 else 1⟩
    let s := ((s.count (kLink l 4) 32).count (kLink l 5) 32).setLk l x
    let s := if fld (s.obj (kLink l 1)) 15 8 < x.msCount then s.orObj (kLink l 7) 2 else s
    if 16 ≤ x.same then .next (s.linkLoss l) else .next s

/-- A write of link_config: enabling starts training, disabling takes the link down, which is no loss (R358, R360). -/
def State.writeLinkConfig (s : State) (l : Nat) (v : Word64) : State :=
  let old := s.obj (kLink l 1)
  let s := s.setObj (kLink l 1) v
  if bit v 0 && !bit old 0 then s.setN (kLink l 2) 1
  else if !bit v 0 && bit old 0 then
    let s := if s.objN (kLink l 2) = 2 then s.orObj (kLink l 7) 1 else s
    s.setN (kLink l 2) 0
  else s

end Sys2Proof.Machine
end

