-- ==== Sys2Proof/Machine/Records.lean ====
section
/-! DEFINITION. Records of objects in the format of R48, as the configuration store, the sealed record and a migration image carry them. -/

namespace Sys2Proof.Machine

/-- Bytes of a scalar type's value (Table 2-2). -/
def tyLen : ObjTy → Nat
  | .bool | .u8 => 1
  | .u16 => 2
  | .u32 | .i32 | .bits32 | .fp32 => 4
  | .u64 | .i64 | .bits64 | .time64 => 8
  | .domain => 0

/-- One record: header, value, zeros to a multiple of 8 (R48). -/
def recordBytes (idx sub ty : Nat) (v : List Byte) : List Byte :=
  leBytes 2 idx ++ leBytes 1 sub ++ leBytes 1 ty ++ leBytes 4 v.length ++ slice v 0 (roundUp v.length 8)

/-- The record of an object with its active value, under the index `shown`. -/
def State.objRecord (s : State) (idx sub shown : Nat) : List Byte :=
  match objRow? idx sub with
  | none => []
  | some r =>
    let v := if r.ty = .domain then s.dom (okey idx sub) else leBytes (tyLen r.ty) (s.objN (okey idx sub))
    recordBytes shown sub r.ty.code v

/-- A record as parsed: index, subindex, type code, value. -/
structure Rec where
  idx : Nat
  sub : Nat
  ty : Nat
  v : List Byte
deriving DecidableEq, Repr

/-- Parse records to the end of the block; none when one is cut short. `fuel` bounds their number. -/
def parseRecords : Nat → List Byte → Option (List Rec)
  | _, [] => some []
  | 0, _ => none
  | fuel + 1, bs =>
    let n := leAt bs 4 4
    if bs.length < 8 + roundUp n 8 then none
    else (parseRecords fuel (bs.drop (8 + roundUp n 8))).map fun l => ⟨leAt bs 0 2, leAt bs 2 1, leAt bs 3 1, slice bs 8 n⟩ :: l

/-- Whether records ascend strictly by index, then subindex (Table 2-7). -/
def recsAscend : List Rec → Bool
  | a :: b :: l => decide (okey a.idx a.sub < okey b.idx b.sub) && recsAscend (b :: l)
  | _ => true

/-- The slot value of a record of a scalar type, sign-extended for the signed types (R28). -/
def recValue (ty : ObjTy) (v : List Byte) : Word64 :=
  match ty with
  | .i32 => BitVec.ofNat 64 (wrapInt 64 (sext 32 (leNat v)))
  | _ => BitVec.ofNat 64 (leNat v)

/-- Whether a record's type and value suit its object: type code, length, encoding, range (R50, R463). -/
def recFits (r : ObjRow) (x : Rec) : Bool :=
  decide (x.ty = r.ty.code) && (if r.ty = .domain then r.rng.lenOk x.v.length
    else decide (x.v.length = tyLen r.ty) && r.encOk (recValue r.ty x.v) && r.valueOk x.idx x.sub (recValue r.ty x.v))

/-- Give an object the value of a record. -/
def State.putRecord (s : State) (r : ObjRow) (idx sub : Nat) (v : List Byte) : State :=
  if r.ty = .domain then s.setDom (okey idx sub) v else s.setObj (okey idx sub) (recValue r.ty v)

end Sys2Proof.Machine
end

