-- ==== Sys2Proof/Machine/Instances.lean ====
section
/-! DEFINITION. The life of an instance: creation, destruction, freeze and thaw, recovery, orphans, accounting; and the KV cache commands (R178, R249, R255-R259, R263, R264, R369). -/

namespace Sys2Proof.Machine

/-- inst_status after a command (Table 10-8). -/
def State.instStatus (s : State) (m cmd err : Nat) : State := s.setN (kInst m 0 3) (cmd * 2 ^ 56 + err)

/-- A written inst_command: the checks of R463, then the command, whose error shows in inst_status. -/
def State.instCommand (s : State) (src : Src) (m cmd : Nat) (arg : BitVec 56) (f : State → State × Nat) : Result :=
  s.command src (0x4800 + 0x40 * m) 2 (BitVec.ofNat 64 (cmd * 2 ^ 56 + arg.toNat)) fun _ s =>
    let r := f s
    .ok (r.1.instStatus m cmd r.2)

/-! ### Creation (R256, R368, R369) -/

/-- Whether instance m belongs to the secure world (R364). -/
def State.instSecure (s : State) (m : Nat) : Bool := s.oBit (okey 0x7401 3) m

/-- Stacked memory that quotas of a world can take: below the watermark but for the firmware area, or above it (R368, R369). -/
def State.worldRange (s : State) (secure : Bool) : Nat × Nat :=
  let mark := s.objN (okey 0x7402 1)
  if secure then (0x4000000, mark) else (mark, stackedSize)

/-- Instances that exist, but for m. -/
def State.others (s : State) (m : Nat) : List Nat := (List.range 16).filter fun k => decide (k ≠ m) && decide (s.instState k ≠ 0)

/-- Whether what was carved lies where it must: the range on its world's side and clear of every other instance, its parts inside it and apart (R168, R200, R220, R237, R369). -/
def State.carveOk (s : State) (m : Nat) (c : Carve) : Bool :=
  let quota := s.objN (kInst m 1 4)
  let (lo, hi) := s.worldRange (s.instSecure m)
  let within (a n : Nat) : Bool := decide (c.stackBase ≤ a) && decide (a + n ≤ c.stackBase + quota)
  let parts := [(c.saveBase, saveArea), (c.specBase, s.objN (kInst m 1 8)), (c.ptBase, 16 * 2 ^ 20), (c.lodeDir, 128)]
  decide (lo ≤ c.stackBase) && decide (c.stackBase + quota ≤ hi)
    && (s.others m).all (fun k => let x := s.inst k
        decide (c.stackBase + quota ≤ x.stackBase) || decide (x.stackBase + s.objN (kInst k 1 4) ≤ c.stackBase))
    && parts.all (fun p => within p.1 p.2)
    && (List.range 4).all fun i => (List.range 4).all fun j =>
      let p := parts.getD i (0, 0)
      let q := parts.getD j (0, 0)
      decide (i = j) || decide (p.1 + p.2 ≤ q.1) || decide (q.1 + q.2 ≤ p.1)

/-- Why a creation is refused, 0 when it is not (R256, R369). -/
def State.createError (s : State) (m : Nat) (c : Carve) : Nat :=
  let p := s.objN (kInst m 1 1)
  let quota := s.objN (kInst m 1 4)
  let sum (sub : Nat) (l : List Nat) : Nat := (l.map fun k => s.objN (kInst k 1 sub)).sum
  let (lo, hi) := s.worldRange (s.instSecure m)
  let same := (s.others m).filter fun k => decide (s.instSecure k = s.instSecure m)
  if s.instState m ≠ 0 then 0x000B
  else if s.partMode p = 0 ∨ (s.partMode p = 1 ∧ !(s.partMembers p).isEmpty) ∨ (s.partMode p = 2 ∧ s.joined m) then 0x0007
  else if quota < saveArea + s.objN (kInst m 1 8) + s.objN (kInst m 1 7) ∨ quota % 0x200000 ≠ 0 then 0x000A
  else if 4 * cmemSize < sum 3 (m :: s.others m) ∨ hi - lo < sum 4 (m :: same) then 0x000A
  else if !(s.setObj (kMaster m 1) (s.obj (kInst m 1 5))).admits then 0x000A
  else if 4096 < sum 6 (m :: s.others m) then 0x000A
  else if !s.carveOk m c then 0x000A
  else 0

/-- Zero the accounting counters of an instance (R255). -/
def State.zeroAccounts (s : State) (m : Nat) : State :=
  (s.forEach (List.range 8) fun s k => s.setN (kInst m 3 (1 + k)) 0).upInst m fun x => { x with ns := [] }

/-- Make a free instance of its pools (R256). -/
def State.makeInst (s : State) (m : Nat) (c : Carve) : State :=
  let old := s
  let s := s.setInst m { InstSt.init with stackBase := c.stackBase, lastMsg := s.now, lastGroup := s.now }
  let s := (((s.setObj (kAssay m 1) (s.obj (kInst m 1 6))).setN (kAssay m 2) 0).setN (kAssay m 0xc) c.specBase).setObj (kAssay m 0xd) (s.obj (kInst m 1 8))
  let s := (s.setN (okey 0x4400 3) (((List.range 16).map fun k => s.objN (kAssay k 1)).sum))
  let s := (((s.setObj (kKv m 5) (s.obj (kInst m 1 7))).setN (kKv m 6) c.ptBase).setN (kKv m 4) 0).setN (kKv m 7) 0
  let s := (s.setN (kInst m 7 1) c.saveBase).setN (kInst m 7 2) saveArea
  let s := (s.setN (kPlacer m 3) c.lodeDir).zeroRange c.lodeDir 128
  let s := (s.setN (kInst m 0 4) (s.instSecure m).toNat).setObj (kMaster m 1) (s.obj (kInst m 1 5))
  let s := (s.zeroAccounts m).orObj (kPart (s.objN (kInst m 1 1)) 5) (2 ^ m)
  ((s.setN (kInst m 0 1) 1).reshare old).dealCores

/-- INST_CREATE (R256). -/
def execInstCreate (src : Src) (m : Fin 16) (arg : BitVec 56) (c : Carve) (s : State) : Result :=
  s.instCommand src m 1 arg fun s =>
    match s.createError m c with
    | 0 => (s.makeInst m c, 0)
    | e => (s, e)

/-! ### Destruction (R257) -/

/-- Live KV caches of an instance. -/
def State.liveCaches (s : State) (m : Nat) : List Nat :=
  if s.objN (kKv m 1) = 0 then [] else (List.range 256).filter fun k => (s.cache m k).state = 1

/-- INST_DESTROY (R257): stopped as by a fault without its message, plans unloaded, caches released; the zeroing begins. -/
def execInstDestroy (src : Src) (m : Fin 16) (arg : BitVec 56) (s : State) : Result :=
  s.instCommand src m 2 arg fun s =>
    if s.instState m = 0 ∨ (s.inst m).zeroing then (s, 0x000B)
    else
      let old := s
      let s := s.stopInst m 4 none
      let s := s.forEach ((s.inst m).plans.map (·.1)) fun s h => s.freePlan m h
      let s := s.forEach (s.liveCaches m) fun s k => s.kvRelease m k
      let s := (s.upInst m fun x => { x with zeroing := true }).setN (kInst m 0 1) 4
      let p := s.objN (kInst m 1 1)
      let s := if s.partMode p = 2 ∧ s.partHolder p = m.val then (s.releasePart p).schedule p else s
      (s.reshare old, 0)

/-- The clusters whose cores no other instance holds, among those where instance m holds one. -/
def State.ownClusters (s : State) (m : Nat) : List Nat :=
  (List.range 4).filter fun c =>
    (List.range 4).any (fun j => decide (s.holder (4 * c + j) = m))
      && (List.range 4).all fun j => decide (s.holder (4 * c + j) = m) || decide (16 ≤ s.holder (4 * c + j))

/-- Zero an instance's memory: its stack range with the speculative region and the save area, and its cluster memory (R257). -/
def State.zeroInst (s : State) (m : Nat) : State :=
  let s := s.zeroRange (s.inst m).stackBase (s.objN (kInst m 1 4))
  s.forEach (s.ownClusters m) fun s c => s.zeroRange (cmemBase c) cmemSize

/-- ZEROING_END (R257, R283): the instance is free and its quotas and guarantee are released. -/
def execZeroingEnd (m : Fin 16) (s : State) : Result :=
  if !s.schedUp ∨ !(s.inst m).zeroing then .next s
  else
    let old := s
    let s := s.zeroInst m
    let s := s.forEach (s.coresOf m) fun s n => s.freeCore n
    let s := s.forEach [kAssay m 1, kAssay m 2, kAssay m 0xc, kAssay m 0xd, kKv m 4, kKv m 5, kKv m 6, kKv m 7, kInst m 7 1, kInst m 7 2,
      kPlacer m 3, kMaster m 1] fun s k => s.setN k 0
    let s := s.setN (okey 0x4400 3) (((List.range 16).map fun k => s.objN (kAssay k 1)).sum)
    let s := (s.clrObj (kPart (s.objN (kInst m 1 1)) 5) (2 ^ m.val)).setInst m InstSt.init
    .next ((((s.setN (kInst m 0 1) 0).instStatus m 2 0).reshare old).dealCores)

/-! ### Freeze and thaw (R227, R259) -/

/-- Freeze a ready or running instance (R259): its invocations that hold groups are withdrawn to run again with their capture slots, every core is saved, its partition goes on without it. A core halted by debug is saved after its release (R241). -/
def State.freezeInst (s : State) (m : Nat) : State :=
  let holding := (s.inst m).invs.filter fun v => s.ledger.any fun e => e.2.state != 0 && decide (e.2.inst = m) && decide (e.2.inv = v.num)
  let s := s.forEach holding fun s v => (s.withdrawInv m v.num).removeInv m v.num
  let s := s.upInst m fun x => { x with reruns := x.reruns ++ holding.map fun v => { v.req with caps := v.caps } }
  let s := s.setN (kInst m 0 1) 3
  let s := s.forEach (s.coresOf m) fun s n => if s.coreState n = 4 then s.preemptCore n else s.saveCore n
  let p := s.objN (kInst m 1 1)
  if s.partMode p = 2 ∧ s.partHolder p = m then (s.releasePart p).schedule p else s

/-- INST_FREEZE (R259). -/
def execInstFreeze (src : Src) (m : Fin 16) (arg : BitVec 56) (s : State) : Result :=
  s.instCommand src m 3 arg fun s => if s.instState m ≠ 1 ∧ s.instState m ≠ 2 then (s, 0x000B) else (s.freezeInst m, 0)

/-- Resume a frozen instance: what was withdrawn runs again first, held cadence starts issue, saved cores are restored or the slices take it up (R240, R246, R247, R259). -/
def State.thawInst (s : State) (m : Nat) : State :=
  let p := s.objN (kInst m 1 1)
  let s := s.upInst m fun x => { x with runq := x.reruns ++ x.runq, reruns := [] }
  let s := s.setN (kInst m 0 1) (if (s.inst m).invs.isEmpty then 1 else 2)
  let s := s.forEach ((s.inst m).held.map (·.1)) fun s h => s.issueHeld m h
  if s.partMode p = 1 then
    (s.forEach ((s.inst m).saved.map (·.1)) fun s n => if s.holder n = m then s.grantCore n m else s).dealCores
  else s.schedule p

/-- INST_THAW (R259). -/
def execInstThaw (src : Src) (m : Fin 16) (arg : BitVec 56) (s : State) : Result :=
  s.instCommand src m 4 arg fun s => if s.instState m ≠ 3 then (s, 0x000B) else (s.thawInst m, 0)

/-! ### Recovery, orphans, accounting -/

/-- INST_RECOVER (R249): a faulted instance is ready again, its plans loaded. -/
def execInstRecover (src : Src) (m : Fin 16) (arg : BitVec 56) (s : State) : Result :=
  s.instCommand src m 7 arg fun s =>
    if s.instState m ≠ 4 ∨ (s.inst m).zeroing then (s, 0x000B) else ((s.setN (kInst m 0 1) 1).dealCores, 0)

/-- Instance m becomes orphaned (R263, R264): its queued messages complete with outcome 5, and what waits to leave is discarded. -/
def State.orphan (s : State) (m : Nat) : State :=
  let s := s.setN (kInst m 0 1) 5
  let s := s.discardQueued m fun r => decide (r.kind < 2)
  let n := (s.inst m).outq.length
  ((s.count (kInst m 2 6) 32 n).upInst m fun x => { x with outq := [] }).yieldSlice (s.objN (kInst m 1 1))

/-- INST_ORPHAN (R263). -/
def execInstOrphan (src : Src) (m : Fin 16) (arg : BitVec 56) (s : State) : Result :=
  s.instCommand src m 8 arg fun s => if s.instState m ≠ 1 ∧ s.instState m ≠ 2 then (s, 0x000B) else (s.orphan m, 0)

/-- HEARTBEAT_TIMEOUT (R263): no message consumed for heartbeat_timeout. -/
def execHeartbeatTimeout (m : Fin 16) (s : State) : Result :=
  let t := s.objN (kInst m 0 6)
  if t = 0 ∨ (s.instState m ≠ 1 ∧ s.instState m ≠ 2) ∨ s.nowN < (s.inst m).lastMsg.toNat + t * 1000000 then .next s
  else .next (s.orphan m)

/-- ACCT_RESET (R255, Table 10-8). -/
def execAcctReset (src : Src) (m : Fin 16) (v : Word64) (s : State) : Result :=
  s.command src (0x4803 + 0x40 * m) 0xa v fun _ s => .ok (s.zeroAccounts m)

/-! ### KV cache commands (R166, R178) -/

/-- A written kv_command, executed at once (R178). -/
def State.kvWrite (s : State) (src : Src) (m cmd : Nat) (arg : BitVec 56) : Result :=
  let v := cmd * 2 ^ 56 + arg.toNat
  s.command src (0x4830 + 0x40 * m) 2 (BitVec.ofNat 64 v) fun _ s => .ok (s.kvCommand m v)

/-- KV_CREATE (R166). -/
def execKvCreate (src : Src) (m : Fin 16) (arg : BitVec 56) (s : State) : Result := s.kvWrite src m 1 arg
/-- KV_RELEASE (R178). -/
def execKvRelease (src : Src) (m : Fin 16) (arg : BitVec 56) (s : State) : Result := s.kvWrite src m 2 arg
/-- KV_TRUNCATE (R178). -/
def execKvTruncate (src : Src) (m : Fin 16) (arg : BitVec 56) (s : State) : Result := s.kvWrite src m 3 arg
/-- KV_PREBIND (R178). -/
def execKvPrebind (src : Src) (m : Fin 16) (arg : BitVec 56) (s : State) : Result := s.kvWrite src m 4 arg

/-! ### Writes of the pool and binding objects (Table 10-8) -/

/-- Whether an object of an instance's block can be written only while the instance is free (R256, Table 10-8). -/
def freeOnly (idx sub : Nat) : Bool :=
  match instOff idx with
  | some (1, _) => true
  | some (0, _) => decide (sub = 6)
  | some (5, _) => true
  | _ => false

end Sys2Proof.Machine
end

