-- ==== Sys2Proof/Machine/Firmware.lean ====
section
/-! DEFINITION. Boot images and directories in flash, the firmware processors with their restarts and log rings, and the update of images (R379-R382, R387-R392). -/

namespace Sys2Proof.Machine

/-! ### Objects -/

def kFw (f sub : Nat) : Nat := okey (0x7800 + f) sub
def kIsland : Nat := okey 0x7000 0xd
def State.fw (s : State) (f : Nat) : FwSt := TMap.get (fun _ => FwSt.init) s.fws f
def State.setFw (s : State) (f : Nat) (x : FwSt) : State := { s with fws := TMap.set (fun _ => FwSt.init) s.fws f x }

/-- A security event: its bit, and a snapshot of trigger 2 (Tables 15-4, 16-8). -/
def State.securityEvent (s : State) (b : Nat) : State := (s.orObj (okey 0x7460 1) (2 ^ b)).strataEvent 2

/-! ### Directories and images in flash (R379-R382) -/

/-- Components in the order of their rollback counters (R385). -/
def components : List Nat := [1, 2, 3, 4, 5, 0x10]

/-- Position of a component in that order. -/
def compIndex (comp : Nat) : Nat := (components.findIdx? (· == comp)).getD 7

/-- Component that a firmware processor runs (Tables 15-5, 15-7). -/
def fwComp (f : Nat) : Nat := if f < 3 then f + 1 else 4

def dirBase (i : Nat) : Nat := flashBase + 0x1000 * i

/-- Entries of a directory copy (R380). -/
def State.dirCount (s : State) (i : Nat) : Nat := s.rdN (dirBase i + 8) 4

/-- The version of a directory copy, if it is valid (R380). -/
def State.dirVersion (s : State) (i : Nat) : Option Nat :=
  let n := s.dirCount i
  let l := 64 + 16 * n
  if s.rd (dirBase i) 4 = [0x5a#8, 0x44#8, 0x49#8, 0x52#8] ∧ 1 ≤ n ∧ n ≤ 16 ∧ s.rdN (dirBase i + l) 4 = (crc32c (s.rd (dirBase i) l)).toNat
  then some (s.rdN (dirBase i + 4) 4) else none

/-- The directory copy in use: of two valid copies the newer, under the version rule of R50 (R380). -/
def State.dirInUse (s : State) : Option Nat :=
  match s.dirVersion 0, s.dirVersion 1 with
  | none, none => none
  | some _, none => some 0
  | none, some _ => some 1
  | some a, some b => some (if secondNewer a b then 1 else 0)

/-- Component, flash offset and length of the entries of a directory copy. -/
def State.dirEntries (s : State) (i : Nat) : List (Nat × Nat × Nat) :=
  (List.range (s.dirCount i)).map fun k =>
    let a := dirBase i + 64 + 16 * k
    (s.rdN a 2, s.rdN (a + 4) 4, s.rdN (a + 8) 4)

/-- Size of the flash aperture. -/
def flashSize : Nat := 0x10000000

/-- Whether flash offsets [o, o + n) may hold an image (R379). -/
def imagePlace (o n : Nat) : Bool :=
  (decide (0x10000 ≤ o) && decide (o + n ≤ 0x500000)) || (decide (0xb00000 ≤ o) && decide (o + n ≤ flashSize))

/-- The image of a component that a directory copy names. -/
def State.dirImage (s : State) (i comp : Nat) : Option (List Byte) :=
  match (s.dirEntries i).find? fun e => e.1 = comp with
  | none => none
  | some (_, o, n) => if imagePlace o n then some (s.rd (flashBase + o) n) else none

/-- Length of an image's payload. -/
def payloadLen (bs : List Byte) : Nat := leAt bs 0x10 4

/-- Whether the signature of an image verifies against a key of its key class (R381). -/
def State.imageSigned (s : State) (comp : Nat) (bs : List Byte) : Bool :=
  let keys := match leAt bs 0xc 1 with
    | 0 => [Config.avinamenKey 0, Config.avinamenKey 1]
    | 1 => if comp = 0x10 then s.keysOf 10 else []
    | _ => []
  anyVerifies keys (slice bs 0 0x80) (slice bs 0x80 132)

/-- Whether an image is accepted for a component (R381, Table 15-5). -/
def State.imageOk (s : State) (comp : Nat) (bs : List Byte) : Bool :=
  let n := payloadLen bs
  decide (512 ≤ bs.length) && decide (slice bs 0 4 = [0x5a#8, 0x49#8, 0x4d#8, 0x47#8]) && decide (leAt bs 4 2 = 1) && decide (leAt bs 6 2 = comp)
    && decide (1 ≤ n) && decide (n ≤ 2 ^ 26) && decide (512 + n ≤ bs.length)
    && decide (slice bs 0x40 64 = slice (Config.sha512 (slice bs 512 n)) 0 64) && s.imageSigned comp bs
    && decide (leAt bs 0xd 1 ≤ fld (s.obj (okey 0x1000 3)) 15 8) && decide (s.objN (okey 0x7440 (1 + compIndex comp)) ≤ leAt bs 8 4)
    && (decide (comp ≠ 0x10) || (decide (0x4000000 ≤ leAt bs 0x18 8) && decide (leAt bs 0x18 8 + n ≤ s.objN (okey 0x7402 1))))

/-- The image that a component starts from, with its directory copy: that of the copy in use, else that of the other valid copy (R382). -/
def State.pickImage (s : State) (comp : Nat) : Option (Nat × List Byte) :=
  let tryCopy (i : Nat) : Option (Nat × List Byte) :=
    if (s.dirVersion i).isNone then none
    else match s.dirImage i comp with
      | none => none
      | some bs => if s.imageOk comp bs then some (i, bs) else none
  match s.dirInUse with
  | none => none
  | some i =>
    match tryCopy i with
    | some r => some r
    | none => tryCopy (1 - i)

/-- Whether the image that the directory in use names for a component is not accepted (Table 15-4, security_events bit 1). -/
def State.imageRefused (s : State) (comp : Nat) : Bool :=
  match s.dirInUse with
  | none => true
  | some i =>
    match s.dirImage i comp with
    | none => true
    | some bs => !s.imageOk comp bs

/-- A component does not start: the device stays in the safe state under trigger 0x0B with its code (R382, Table 16-1). -/
def State.notStarted (s : State) (comp : Nat) : State := s.safeTrigger 0x0B 0 comp

/-- Take the image of a component for program k: 0-6 the firmware processors, 7 the safety island, 8 the host complex. The answer says whether one was accepted. -/
def State.takeImage (s : State) (k comp : Nat) : State × Option (List Byte) :=
  let s := if s.imageRefused comp then s.securityEvent 1 else s
  match s.pickImage comp with
  | some (i, bs) =>
    (s.setFw k { s.fw k with announced := false, started := true, hash := slice bs 0x40 64, version := leAt bs 8 4, copy := i }, some bs)
  | none => (s.setFw k { s.fw k with announced := false, started := false, hash := [], version := 0, copy := 0 }, none)

/-- Processor f takes its image and runs, or stays stopped (R382). -/
def State.startFw (s : State) (f : Nat) : State :=
  let comp := fwComp f
  match s.takeImage f comp with
  | (s, some bs) => (((s.setN (kFw f 1) 2).setN (kFw f 2) comp).setN (kFw f 3) (leAt bs 8 4)).setN (kFw f 4) (s.fw f).copy
  | (s, none) => (s.setN (kFw f 1) 4).notStarted comp

/-! ### Log rings (R392) -/

/-- Device address of processor f's ring. -/
def logRing (f : Nat) : Nat := 0xfc03800000 + f * 0x20000

/-- Processor f writes a log entry: code and arguments that the manual does not give are free values (R392; log entry 45). -/
def State.logEvent (s : State) (f comp severity : Nat) : State :=
  let w := s.rdN (logRing f) 4
  let a := logRing f + 64 + w % 2048 * 32
  let code := severity * 2 ^ 14 + fld s.freeNow 13 0
  let s := (s.tookFree).wr a (leBytes 8 s.nowN ++ leBytes 2 (f * 2 ^ 12 + comp % 2 ^ 12) ++ leBytes 2 code)
  let s := (s.wr (a + 16) (s.freeBytes 16)).tookFree 16
  let s := (s.wrN (a + 12) 4 w).wrN (logRing f) 4 ((w + 1) % 2 ^ 32)
  if s.objN (kFw f 0xa) ≤ severity then s.orObj (kFw f 0xb) 1 else s

/-! ### Faults and restarts (R388-R390) -/

/-- Faults of a component within the last second. -/
def State.recentFaults (s : State) (f comp : Nat) : Nat :=
  ((s.fw f).faults.filter fun x => decide (x.1 = comp) && decide (s.nowN < x.2.toNat + 1000000000)).length

/-- COMPONENT_FAULT (R388): the component restarts alone. -/
def execComponentFault (f : Fin 7) (comp cause : Word16) (s : State) : Result :=
  if !s.fwRuns f then .next s
  else
    let s := (s.count (kFw f 7) 32).setN (kFw f 8) (comp.toNat * 2 ^ 16 + cause.toNat)
    let s := s.setFw f { s.fw f with faults := (comp.toNat, s.now) :: (s.fw f).faults.take 2 }
    .next ((s.logEvent f comp.toNat 2).strataEvent 4)

/-- Bound of a restart in ns (Table 15-8). -/
def restartBound (f : Nat) : Nat :=
  match f with
  | 0 => 100000000
  | 1 => 50000000
  | _ => 20000000

/-- A restart of processor f begins (R389). -/
def State.beginRestart (s : State) (f : Nat) (announced : Bool) : State :=
  let s := (s.setN (kFw f 1) 3).count (kFw f 6) 32
  let s := if f = 2 then s.setN (kSched 1) 2 else s
  let s := s.setFw f { s.fw f with announced := announced, faults := [] }
  let s := if announced then { s with wdHold := BitVec.ofNat 64 (max s.wdHold.toNat (s.nowN + restartBound f)) } else s
  s.strataEvent 4

/-- The scheduler runs again: cadence starts that it held issue (R247, R389). -/
def State.schedStarted (s : State) : State :=
  let s := s.setN (kSched 1) 1
  s.forEach (List.range 16) fun s m =>
    if s.instState m = 3 then s else s.forEach ((s.inst m).held.map (·.1)) fun s h => s.issueHeld m h

/-- The restart of processor f ends: its image is taken afresh (R389). -/
def State.endRestart (s : State) (f : Nat) : State :=
  let s := s.startFw f
  if f = 2 ∧ s.fwRuns 2 then s.schedStarted else s

/-- PROCESSOR_RESTART (R388, R389): it begins on a kernel fault, the watchdog, or three faults of one component within a second, and ends; the end of another processor's restart waits for the security core. -/
def execProcessorRestart (f : Fin 7) (phase : RestartPhase) (s : State) : Result :=
  match phase with
  | .ends =>
    if s.objN (kFw f 1) ≠ 3 ∨ ((f : Nat) ≠ 0 ∧ !s.fwRuns 0) then .next s else .next (s.endRestart f)
  | .threeFaults =>
    if s.fwRuns f ∧ (s.fw f).faults.any (fun x => decide (3 ≤ s.recentFaults f x.1)) then .next (s.beginRestart f false) else .next s
  | _ => if s.fwRuns f then .next (s.beginRestart f false) else .next s

/-- A write of fw_restart (R390): the restart is announced to the island; a processor that restarts already goes on. -/
def State.writeFwRestart (s : State) (f : Nat) : State := if s.fwRuns f then s.beginRestart f true else s

/-- FW_RESTART (R389, R390). -/
def execFwRestart (src : Src) (f : Fin 7) (v : Word64) (s : State) : Result :=
  s.command src (0x7800 + f) 5 v fun _ s => .ok (s.writeFwRestart f)

/-! ### Update (R391) -/

/-- Split a block into images by their payload lengths; none when one is cut short. -/
def splitImages : Nat → List Byte → Option (List (List Byte))
  | 0, bs => if bs.isEmpty then some [] else none
  | k + 1, bs =>
    if bs.isEmpty then some []
    else
      let n := 512 + payloadLen bs
      if bs.length < 512 ∨ bs.length < n then none else (splitImages k (bs.drop n)).map fun l => bs.take n :: l

/-- Whether flash [o, o + n) is clear of the ranges. -/
def clearOf (used : List (Nat × Nat)) (o n : Nat) : Bool := used.all fun r => decide (o + n ≤ r.1) || decide (r.1 + r.2 ≤ o)

/-- A place for n bytes clear of the ranges: the free value f when it is one, else the lowest that starts at an end of a range or of an area (R391; log entry 46). -/
def placeImage (used : List (Nat × Nat)) (f n : Nat) : Option Nat :=
  let fits (o : Nat) : Bool := imagePlace o n && clearOf used o n
  let f := f % flashSize
  if fits f then some f
  else (([0x10000, 0xb00000] ++ used.map fun (r : Nat × Nat) => r.1 + r.2).filter fits).foldl (fun (m : Option Nat) o => match m with
    | none => some o
    | some x => some (min x o)) none

/-- Place the images one after another: component, offset and bytes of each. -/
def placeImages : List (Nat × Nat) → Nat → List (List Byte) → Option (List (Nat × Nat × List Byte))
  | _, _, [] => some []
  | used, f, bs :: l =>
    match placeImage used ((Config.freeValue f).toNat) bs.length with
    | none => none
    | some o => (placeImages ((o, bs.length) :: used) (f + 1) l).map fun r => (leAt bs 6 2, o, bs) :: r

/-- The bytes of a directory copy (R380). -/
def dirBytes (version : Nat) (es : List (Nat × Nat × Nat)) : List Byte :=
  let b := [0x5a#8, 0x44#8, 0x49#8, 0x52#8] ++ leBytes 4 version ++ leBytes 4 es.length ++ leBytes 52 0
    ++ es.flatMap fun e => leBytes 2 e.1 ++ leBytes 2 0 ++ leBytes 4 e.2.1 ++ leBytes 4 e.2.2 ++ leBytes 4 0
  b ++ leBytes 4 (crc32c b).toNat

/-- A block of images loaded into fw_update (R391). A flash write that fails may have written any part outside the copy in use (log entry 46). -/
def State.fwUpdate (s : State) (block : List Byte) (flashOk : Bool) : State × Nat :=
  match splitImages 16 block with
  | none => (s.securityEvent 1, 0x0013)
  | some ims =>
    if !(ims.all fun bs => s.imageOk (leAt bs 6 2) bs) then (s.securityEvent 1, 0x0013)
    else
      let cur := s.dirInUse
      let old := (cur.map s.dirEntries).getD []
      match placeImages (old.map fun e => e.2) s.free ims with
      | none => (s, 0x0012)
      | some placed =>
        let s := s.tookFree placed.length
        let target := (cur.map (1 - ·)).getD 0
        let version := ((cur.bind s.dirVersion).map fun v => (v + 1) % 2 ^ 32).getD 1
        let fresh := placed.map fun p => (p.1, p.2.1, p.2.2.length)
        let es := (old.filter fun e => !fresh.any fun x => x.1 = e.1) ++ fresh
        if flashOk then
          let s := s.forEach placed fun s p => s.wr (flashBase + p.2.1) p.2.2
          (s.wr (dirBase target) (dirBytes version es), 0)
        else
          let s := s.forEach placed fun s p => (s.wr (flashBase + p.2.1) (s.freeBytes p.2.2.length)).tookFree p.2.2.length
          ((s.wr (dirBase target) (s.freeBytes 0x1000)).tookFree 0x1000, 0x0012)

end Sys2Proof.Machine
end

