-- ==== Sys2Proof/Machine/Store.lean ====
section
/-! DEFINITION. The configuration store: the image that a snapshot makes, the writing of a copy, and what is loaded from a copy at start-up (R48-R51, R383, R384). -/

namespace Sys2Proof.Machine

/-! ### What is kept (R48) -/

/-- Keys of the persistent objects, ascending by index, then subindex. -/
def persistKeys : List Nat :=
  ((objRows.filter (·.persistent)).foldl (fun m r =>
    ((List.range r.count).flatMap fun a => (List.range r.count2).flatMap fun b => (List.range r.reps).map fun j =>
      okey (r.base + r.stride * a + b) (r.sub + r.step * j)).foldl (fun m k => TMap.put m k ()) m) ([] : TMap Unit)).map (·.1)

/-- Whether an index lies in the range that the sealed record carries (R383). -/
def sealedRange (idx : Nat) : Bool := decide (0x7400 ≤ idx) && decide (idx < 0x7800)

/-- Records of the persistent objects inside or outside the sealed range. -/
def State.persistRecords (s : State) (sealed_ : Bool) : List Byte :=
  (persistKeys.filter fun k => sealedRange (k / 256) == sealed_).flatMap fun k => s.objRecord (k / 256) (k % 256) (k / 256)

def copyBase (i : Nat) : Nat := flashBase + 0x700000 + 0x200000 * i
def maxImage : Nat := 0x1fff00
def storeMagic : List Byte := [0x43#8, 0x58#8, 0x43#8, 0x53#8]

/-- Identity is valid: the seal key and the identity key are available (R378). -/
def State.identityValid (s : State) : Bool := decide (s.objN (okey 0x7420 2) = 1)

/-- The copy that a snapshot makes, with the given version, signed and sealed; it takes twelve free values for the nonce and one for the signature (R48, R51, R383, Table 2-7). -/
def State.storeImage (s : State) (version : Nat) : List Byte :=
  let plain := s.persistRecords false
  let secret := s.persistRecords true
  let sealLen := 16 + secret.length + 16
  let l := 32 + plain.length + 8 + roundUp sealLen 8
  let head := storeMagic ++ leBytes 4 version ++ leBytes 4 l ++ leBytes 4 1 ++ leBytes 8 s.netTime64.toNat ++ leBytes 8 0
  let shdr := leBytes 2 0xffff ++ leBytes 1 0 ++ leBytes 1 0x0d ++ leBytes 4 sealLen
  let nonce := s.freeBytes 12
  let body := nonce ++ leBytes 4 0 ++ slice (Config.gcmSeal Config.sealKey nonce (head ++ shdr) secret) 0 (secret.length + 16)
  let img := head ++ plain ++ shdr ++ slice body 0 (roundUp sealLen 8)
  let img := img ++ leBytes 4 (crc32c img).toNat
  img ++ leBytes 4 0 ++ slice (Config.identitySign (s.free + 12) img) 0 132

/-! ### Writing (R51) -/

/-- A store write starts: it takes its snapshot into the copy that is not in use; no image when the device cannot form one (R51). -/
def State.storeStart (s : State) : Except Nat State :=
  if s.storeJob.isSome then .error 0x000B
  else
    let cur := s.objN (okey 0x1003 2)
    let copy := if cur ≤ 1 then 1 - cur else 0
    let version := if cur ≤ 1 then (s.objN (okey 0x1003 3) + 1) % 2 ^ 32 else 1
    let img := s.storeImage version
    let img := if s.identityValid && decide (img.length ≤ maxImage + 140) then img else []
    .ok ({ s.tookFree 13 with storeJob := some ⟨copy, version, img⟩ }.setN (okey 0x1010 2) 1)

/-- STORE (R51). -/
def execStore (src : Src) (v : Word64) (s : State) : Result :=
  s.command src 0x1010 1 v fun _ s => s.storeStart

/-- STORE_WRITE_END (R51, R54): a new copy is the copy in use; a failure leaves that one untouched. While the security core restarts a write does not end. -/
def execStoreWriteEnd (flashOk : Bool) (s : State) : Result :=
  match s.storeJob with
  | none => .next s
  | some j =>
    if !s.fwRuns 0 then .next s
    else
      let s := ({ s with storeJob := none } : State).orObj (okey 0x1002 1) 1
      if j.image.isEmpty then .next (s.setN (okey 0x1010 2) 3)
      else if flashOk then
        let s := (s.wr (copyBase j.copy) j.image).setN (okey 0x1003 2) j.copy
        .next (((s.setN (okey 0x1003 3) j.version).setN (okey 0x1003 1) 0).setN (okey 0x1010 2) 2 |>.setN (okey 0x7c05 3) 0)
      else
        let n := j.image.length
        .next (((s.wr (copyBase j.copy) (s.freeBytes n)).tookFree n).setN (okey 0x1010 2) 3)

/-! ### Reading (R50, R383) -/

/-- The records inside a sealed record, if it authenticates. -/
def openSealed (head : List Byte) (v : List Byte) : Option (List Rec) :=
  let shdr := leBytes 2 0xffff ++ leBytes 1 0 ++ leBytes 1 0x0d ++ leBytes 4 v.length
  if v.length < 32 then none
  else match Config.gcmOpen Config.sealKey (slice v 0 12) (head ++ shdr) (v.drop 16) with
    | none => none
    | some p => parseRecords p.length p

/-- The version and the records of a store copy, if it is valid (R50). -/
def State.readCopy (s : State) (i : Nat) : Option (Nat × List Rec) :=
  let a := copyBase i
  let l := s.rdN (a + 8) 4
  if s.rd a 4 ≠ storeMagic ∨ l < 32 ∨ l % 8 ≠ 0 ∨ maxImage < l then none
  else
    let bs := s.rd a (l + 140)
    match parseRecords l (slice bs 32 (l - 32)) with
    | none => none
    | some rs =>
      let required := rs.any fun r => decide (r.idx = 0x1011) && decide (r.sub = 1) && decide (leNat r.v = 1)
      let signedOk := !(bit (BitVec.ofNat 32 (leAt bs 12 4)) 0 || required) || sigAt [s.dom (okey 0x7420 1)] bs l
      if !recsAscend rs ∨ !crcAt bs l ∨ !signedOk ∨ !s.identityValid then none
      else match rs.getLast? with
        | none => none
        | some z =>
          if z.idx ≠ 0xffff ∨ z.sub ≠ 0 then none
          else (openSealed (slice bs 0 32) z.v).map fun inner => (leAt bs 4 4, rs.dropLast ++ inner)

/-- Take a record of the chosen copy, or count it as skipped or defaulted (R50). -/
def State.loadRecord (s : State) (r : Rec) : State :=
  match objRow? r.idx r.sub with
  | none => s.countSat (okey 0x1003 4) 16
  | some row =>
    if !row.persistent then s.countSat (okey 0x1003 4) 16
    else if recFits row r then s.putRecord row r.idx r.sub r.v
    else s.countSat (okey 0x1003 5) 16

/-- Cadence entries that fail the checks of R63 take their defaults, each slot counted. -/
def State.loadCadence (s : State) : State :=
  s.forEach (List.range 1024) fun s e =>
    if cadEntryOk s e then s
    else s.forEach (List.range 4) fun s k => (s.setObj (kCad e k) 0#64).countSat (okey 0x1003 5) 16

/-- The valid copy that is used: the newer, copy A when the versions are equal (R50). -/
def State.chosenCopy (s : State) : Option (Nat × Nat × List Rec) :=
  match s.readCopy 0, s.readCopy 1 with
  | none, none => none
  | some a, none => some (0, a)
  | none, some b => some (1, b)
  | some a, some b => if secondNewer a.1 b.1 then some (1, b) else some (0, a)

/-- CONFIG_STORE_OPEN (R50, R54): the persistent objects take the values of the chosen copy, or their defaults. -/
def State.openStore (s : State) : State :=
  match s.chosenCopy with
  | none => ((s.setN (okey 0x1003 1) 1).setN (okey 0x1003 2) 0xff).orObj (okey 0x1002 1) 2
  | some (i, version, rs) =>
    let s := s.forEach rs fun s r => s.loadRecord r
    ((s.setN (okey 0x1003 2) i).setN (okey 0x1003 3) version).loadCadence

end Sys2Proof.Machine
end

