-- ==== Sys2Proof/Machine/Worlds.lean ====
section
/-! DEFINITION. The world map and its derived worlds, the change of worlds on a host core, anti-rollback and attestation (R363-R365, R371, R372, R382, R385, R386, R391). -/

namespace Sys2Proof.Machine

/-! ### Derived worlds (R364, Table 15-1) -/

/-- The unit bit that decides the world of an object index, as subindex of 0x7401 and bit. -/
def unitOfIndex (idx : Nat) : Option (Nat × Nat) :=
  if 0x3000 ≤ idx ∧ idx < 0x4000 then some (1, (idx - 0x3000) / 0x100)
  else if 0x4800 ≤ idx ∧ idx < 0x4c00 then some (3, (idx - 0x4800) / 0x40)
  else if 0x4200 ≤ idx ∧ idx < 0x4300 then some (3, (idx - 0x4200) / 0x10)
  else if 0x4410 ≤ idx ∧ idx < 0x4420 then some (3, idx - 0x4410)
  else if 0x5100 ≤ idx ∧ idx < 0x5110 then some (3, idx - 0x5100)
  else if 0x5420 ≤ idx ∧ idx < 0x5440 then some (4, idx - 0x5420)
  else if 0x6000 ≤ idx ∧ idx < 0x600c then some (5, idx - 0x6000)
  else if 0x6030 ≤ idx ∧ idx < 0x6040 then some (5, 8 + (idx - 0x6030) / 8)
  else if 0x6040 ≤ idx ∧ idx < 0x604c then some (5, idx - 0x6040)
  else if 0x6060 ≤ idx ∧ idx < 0x606c then some (5, idx - 0x6060)
  else if 0x6070 ≤ idx ∧ idx < 0x607c then some (5, idx - 0x6070)
  else if 0x6200 ≤ idx ∧ idx < 0x6202 then some (5, 12 + (idx - 0x6200))
  else if 0x6210 ≤ idx ∧ idx < 0x6218 then some (5, 14 + (idx - 0x6210))
  else if 0x5840 ≤ idx ∧ idx < 0x5844 then some (6, idx - 0x5840)
  else if 0x5860 ≤ idx ∧ idx < 0x5864 then some (6, idx - 0x5860)
  else if 0x5880 ≤ idx ∧ idx < 0x5884 then some (6, idx - 0x5880)
  else if idx = 0x5800 then some (6, 4)
  else if 0x6480 ≤ idx ∧ idx < 0x6483 then some (6, 5 + (idx - 0x6480))
  else if (0x6400 ≤ idx ∧ idx < 0x6403) ∨ (0x6410 ≤ idx ∧ idx < 0x6420) ∨ (0x6430 ≤ idx ∧ idx < 0x6438) then some (6, 8)
  else none

/-- The unit bit that decides the world of an interrupt line. -/
def unitOfLine (i : Nat) : Option (Nat × Nat) :=
  if 16 ≤ i ∧ i < 80 then some (3, (i - 16) / 4)
  else if 128 ≤ i ∧ i < 160 then some (4, i - 128)
  else if 160 ≤ i ∧ i < 164 then some (6, i - 160)
  else if i = 164 then some (6, 4)
  else if 176 ≤ i ∧ i < 188 then some (5, i - 176)
  else if 188 ≤ i ∧ i < 190 then some (5, 12 + (i - 188))
  else if 190 ≤ i ∧ i < 198 then some (5, 14 + (i - 190))
  else if 209 ≤ i ∧ i < 212 then some (6, 5 + (i - 209))
  else if i = 208 ∨ i = 212 then some (6, 8)
  else none

/-- Bit i of a bit string in bytes. -/
def bytesBit (bs : List Byte) (i : Nat) : Bool := bit (bs.getD (i / 8) 0#8) (i % 8)

/-- A bit string of n bytes from its bits. -/
def bitsBytes (n : Nat) (f : Nat → Bool) : List Byte :=
  (List.range n).map fun k => (List.range 8).foldl (fun b j => setBit b j (f (8 * k + j))) (0#8 : Byte)

/-- The lock fills in the derived worlds and the worlds that the units show (R364, R365). -/
def State.deriveWorlds (s : State) : State :=
  let world (u : Option (Nat × Nat)) (old : Bool) : Bool :=
    match u with
    | some (sub, b) => s.oBit (okey 0x7401 sub) b
    | none => old
  let lines := s.dom (okey 0x7401 7)
  let objs := s.dom (okey 0x7401 8)
  let s1 := s.setDom (okey 0x7401 7) (bitsBytes 128 fun i => world (unitOfLine i) (bytesBit lines i))
  let s1 := s1.setDom (okey 0x7401 8) (bitsBytes 3584 fun i => world (unitOfIndex (0x1000 + i)) (bytesBit objs i))
  let s1 := s1.forEach (List.range 16) fun t n => t.setN (kCore n 0 3) (s.oBit (okey 0x7401 1) n).toNat
  s1.setN (okey 0x7400 1) 1

/-! ### Host cores (R371, R372, R382, R424) -/

def State.host (s : State) (h : Nat) : HostSt := TMap.get (fun _ => HostSt.init) s.hosts h
def State.setHost (s : State) (h : Nat) (x : HostSt) : State := { s with hosts := TMap.set (fun _ => HostSt.init) s.hosts h x }

/-- The general registers keep a0 and a1 (x10, x11) and lose the others (R372). -/
def HostSt.scrub (x : HostSt) : HostSt :=
  { x with
    x := x.x.filter fun r => decide (r.1 = 10) || decide (r.1 = 11)
    f := [], fcsr := 0#32, v := [], vstart := 0#64, vxsat := false, vxrm := 0, vl := 0#64
    vtype := 0x8000000000000000#64, fs := 1, vs := 1 }

/-- MRET (R371, R372): the current world becomes the next world; from secure to normal the registers are scrubbed. -/
def execMret (h : Fin 12) (s : State) : Result :=
  let x := s.host h
  if !x.running then .next s
  else
    let s := if s.hostSecure h && !x.next then s.setHost h x.scrub else s
    .next (s.setObj (okey 0x7403 1) (setBit (s.obj (okey 0x7403 1)) h x.next))

/-- XWORLD_WRITE (R371): machine mode sets the next world; any other mode takes an illegal-instruction exception. -/
def execXworldWrite (h : Fin 12) (mode : Mode) (v : Word64) (s : State) : Result :=
  match mode with
  | .m => .next (s.setHost h { s.host h with next := bit v 1 })
  | _ => .next (s.emit (.illegalInstr h))

/-- Value of the xworld CSR of host core h (R371). -/
def State.xworld (s : State) (h : Nat) : Word64 :=
  setBit (setBit 0#64 0 (s.hostSecure h)) 1 (s.host h).next

/-- Host core h starts at an address in machine mode, in a world, with a0 and a1 (R382, R424). -/
def State.startHost (s : State) (h : Nat) (pc : Word64) (secure : Bool) (a0 a1 : Nat) : State :=
  let x : TMap Word64 := TMap.set (fun _ => 0#64) (TMap.set (fun _ => 0#64) [] 10 (BitVec.ofNat 64 a0)) 11 (BitVec.ofNat 64 a1)
  (s.setHost h { HostSt.init with x := x, pc := pc, next := secure, running := true }).setObj (okey 0x7403 1)
    (setBit (s.obj (okey 0x7403 1)) h secure)

/-- A write of host_release (R382, Table 15-4): bits are only set, and a named core that is stopped starts; where it starts and in which world the manual does not say (log entry 47). -/
def State.writeHostRelease (s : State) (v : Word64) : State :=
  let s := s.setObj (okey 0x7403 2) (s.obj (okey 0x7403 2) ||| v)
  s.forEach (List.range 12) fun s h =>
    if bit v h && !(s.host h).running then
      (s.startHost h s.freeNow (bit (Config.freeValue (s.free + 1)) 0) 0 0).tookFree 2
    else s

/-- HOST_RELEASE (R382, R395). -/
def execHostRelease (src : Src) (v : Word64) (s : State) : Result :=
  s.command src 0x7403 2 v fun _ s => .ok (s.writeHostRelease v)

/-! ### Anti-rollback (R385) -/

/-- The program that runs a component, by its place in the order of R385. -/
def compProgram (k : Nat) : Nat := if k < 4 then k else 3 + k

/-- The version of a component that now runs; of the cluster control cores the lowest (log entry 48). -/
def State.runningVersion (s : State) (k : Nat) : Nat :=
  if k = 3 then min (min (s.fw 3).version (s.fw 4).version) (min (s.fw 5).version (s.fw 6).version)
  else (s.fw (compProgram k)).version

/-- A write of rollback_commit (R385). -/
def State.writeRollback (s : State) (v : Word64) : Except Nat State :=
  let t := s.forEach (List.range 6) fun s k =>
    if bit v k then s.setN (okey 0x7440 (1 + k)) (max (s.objN (okey 0x7440 (1 + k))) (s.runningVersion k)) else s
  t.storeStart

/-- ROLLBACK_COMMIT (R385). -/
def execRollbackCommit (src : Src) (v : Word64) (s : State) : Result :=
  s.command src 0x7440 7 v fun _ s => s.writeRollback v

/-! ### Attestation (R386) -/

/-- One component record of the report. -/
def State.attestComponent (s : State) (k : Nat) : List Byte :=
  let x := s.fw (compProgram k)
  leBytes 2 (components.getD k 0) ++ leBytes 1 x.copy ++ leBytes 1 x.started.toNat ++ leBytes 4 x.version
    ++ leBytes 4 (s.objN (okey 0x7440 (1 + k))) ++ leBytes 4 0 ++ slice x.hash 0 64

/-- world_digest (Table 15-6). -/
def State.worldDigest (s : State) : List Byte :=
  let slots := (List.range 6).map (fun j => s.objN (okey 0x7401 (1 + j))) ++ (List.range 7).map fun j => s.objN (okey 0x7402 (1 + j))
  slice (Config.sha512 (slots.flatMap (leBytes 8) ++ s.dom (okey 0x7401 7) ++ s.dom (okey 0x7401 8))) 0 64

/-- The nonce of a report: from the reader's session, or zeros (R386). -/
def State.attestNonce (s : State) (c : Ctx) : List Byte :=
  match c with
  | .session sid =>
    match s.session? sid with
    | some x => slice (Config.sha512 (x.nr ++ x.nd ++ leBytes 4 sid)) 0 64
    | none => List.replicate 64 0#8
  | _ => List.replicate 64 0#8

/-- The report but for its signature (Table 15-6). -/
def State.attestBody (s : State) (c : Ctx) : List Byte :=
  let flags := (s.oBit (okey 0x1003 1) 0).toNat + 2 * (s.oBit (okey 0x7400 1) 0).toNat + 4 * s.safe.toNat
  [0x5a#8, 0x41#8, 0x54#8, 0x54#8] ++ leBytes 2 1 ++ leBytes 2 flags ++ leBytes 4 0xd060
    ++ leBytes 2 (s.objN (okey 0x1000 3)) ++ leBytes 1 (s.objN (okey 0x1000 4)) ++ leBytes 1 0
    ++ leBytes 8 s.reports ++ leBytes 8 s.nowN ++ leBytes 8 s.stampTime.toNat
    ++ leBytes 4 (s.objN (okey 0x1003 3)) ++ leBytes 1 (s.objN (okey 0x1003 2)) ++ leBytes 3 0
    ++ s.attestNonce c ++ ((List.range 6).flatMap s.attestComponent ++ List.replicate 160 0#8)
    ++ s.worldDigest ++ slice (s.dom (okey 0x7420 1)) 0 133 ++ leBytes 3 0

/-- A read of attestation: a new report, held as the object's contents, or the error that refuses it (R386). -/
def State.attest (s : State) (c : Ctx) : Except Nat State :=
  if !s.identityValid then .error 0x0013
  else if !s.fwRuns 0 then .error 0x000B
  else
    let s := { s with reports := s.reports + 1 }
    let body := s.attestBody c
    .ok ((s.setDom (okey 0x7880 1) (body ++ slice (Config.identitySign s.free body) 0 132)).tookFree)

/-- ATTESTATION_READ (R386). -/
def execAttestationRead (src : Src) (s : State) : Result :=
  match s.requester src with
  | none => .next (s.emit (.refused src 0x7880 1 0x0003))
  | some r =>
    if s.domReadCheck r 0x7880 1 ≠ 0 then .next (s.emit (.refused src 0x7880 1 (s.domReadCheck r 0x7880 1)))
    else match s.attest r.ctx with
      | .ok s' => .next (s'.emit (.report src (s'.dom (okey 0x7880 1))))
      | .error e => .next (s.emit (.refused src 0x7880 1 e))

/-! ### Image update (R391) -/

/-- FW_UPDATE (R391). -/
def execFwUpdate (src : Src) (block : List Byte) (flashOk : Bool) (s : State) : Result :=
  match s.requester src with
  | none => .next (s.emit (.refused src 0x7808 1 0x0003))
  | some r =>
    if s.domWriteCheck r 0x7808 1 block.length ≠ 0 then .next (s.emit (.refused src 0x7808 1 (s.domWriteCheck r 0x7808 1 block.length)))
    else match s.fwUpdate block flashOk with
      | (s', 0) => .next s'
      | (s', e) => .next (s'.emit (.refused src 0x7808 1 e))

end Sys2Proof.Machine
end

