-- ==== Sys2Proof/Machine/Island.lean ====
section
/-! DEFINITION. The safety island and the Strata recorder: requests and exits of the safe state, the notice's repetition, watchdogs and monitors, self-test in service slots, the diagnostic interval, golden runs that are late, records and copy-outs (R397-R418). -/

namespace Sys2Proof.Machine

def kSafe (sub : Nat) : Nat := okey 0x7000 sub
def kDiag (sub : Nat) : Nat := okey 0x7010 sub

/-- The safety island runs (R399, Table 16-9). -/
def State.islandRuns (s : State) : Bool := decide (s.objN kIsland = 2)

/-! ### Requests, exits, repetition (R397, R399-R401) -/

/-- A write of safe_request raises trigger 0x0C (Table 16-1). -/
def State.writeSafeRequest (s : State) : State := s.safeTrigger 0x0C 0 0

/-- SAFE_REQUEST (R397). -/
def execSafeRequest (src : Src) (v : Word64) (s : State) : Result :=
  s.command src 0x7000 5 v fun _ s => .ok s.writeSafeRequest

/-- Whether the conditions of an exit hold (R399). -/
def State.exitAllowed (s : State) : Bool :=
  s.identityValid && ((List.range 7).all s.fwRuns) && s.islandRuns && s.flintOpen

/-- A write of safe_exit: the latch clears, the notice goes out twice more, trigger 1 is taken (R399, R400, Table 16-5). -/
def State.writeSafeExit (s : State) : Except Nat State :=
  if !s.safe then .ok s
  else if !s.exitAllowed then .error 0x000B
  else
    let s := (s.setN (kSafe 1) 0).orObj (kSafe 12) 2
    let args := [s.now, s.obj (kSafe 6), 0#64, 0#64]
    let s := State.safetyNotice { s with leftRepeats := 2, noticeArgs := args, noticeTime := s.stampTime } 2 s.stampTime args
    .ok (s.strataEvent 1)

/-- SAFE_EXIT (R399). -/
def execSafeExit (src : Src) (v : Word64) (s : State) : Result :=
  s.command src 0x7000 4 v fun _ s => s.writeSafeExit

/-- NOTICE_REPEAT (R401, Table 16-5): notice 0x0001 while the latch that it announced is set, 0x0002 twice after an exit; the entry at start-up sends none. -/
def execNoticeRepeat (s : State) : Result :=
  if s.safe then
    if s.noticeArgs.isEmpty then .next s else .next (s.safetyNotice 1 s.noticeTime s.noticeArgs)
  else if s.leftRepeats = 0 then .next s
  else .next (State.safetyNotice { s with leftRepeats := s.leftRepeats - 1 } 2 s.noticeTime s.noticeArgs)

/-! ### Watchdogs and monitors (R402, R403, R405) -/

/-- GRANITE_HEARTBEAT (R402): it comes while the scheduler core runs and PD_FAB is powered. -/
def execGraniteHeartbeat (s : State) : Result :=
  .next (if s.fwRuns 2 && !s.domOff 0 then { s with lastBeat := some s.now } else s)

/-- Whether the island watchdog counts: a first heartbeat has come, PD_FAB is not off, and no power-state transition moves it (R402). -/
def State.watched (s : State) : Bool := s.islandRuns && decide (s.objN (okey 0x7c00 1) ≤ 1)

/-- ISLAND_WATCHDOG_EXPIRY (R402): no heartbeat for island_wd_timeout, nor for that long after an announced restart's bound. PD_FAB that a rail fault has turned off is no suspension. -/
def execIslandWatchdogExpiry (s : State) : Result :=
  match s.lastBeat with
  | none => .next s
  | some b =>
    if !s.watched ∨ s.nowN < max b.toNat s.wdHold.toNat + 1000 * s.objN (kSafe 0xb) then .next s
    else .next (State.safeTrigger { s with lastBeat := none } 7 0 (fld b 31 0))

/-- ISLAND_HW_WATCHDOG_EXPIRY (R403): trigger 0x09; its routine number is a free value, since an expiry names none (log entry 49). -/
def execIslandHwWatchdogExpiry (s : State) : Result :=
  .next (if s.islandRuns then (s.safeTrigger 9 0 (fld s.freeNow 31 0)).tookFree else s)

/-- TIMEBASE_CROSS_CHECK (diagnostic 11 of Table 16-3): trigger 0x0A when the counters differ by more than 2 ns; there is no replica while PD_FAB is off. -/
def execTimebaseCrossCheck (diffNs : Nat) (s : State) : Result :=
  .next (if s.domOff 0 || decide (diffNs ≤ 2) then s else s.safeTrigger 0x0A 0 11)

/-- CLOCK_MONITOR_FAULT (diagnostic 12 of Table 16-3): trigger 0x0A on a deviation above 1,000 ppm or a loss; CLK_TB and CLK_CTL (0, 1) stop with the timebase in Sentry. -/
def execClockMonitorFault (clk : Fin 3) (ppm : Option Nat) (s : State) : Result :=
  let bad := match ppm with
    | none => true
    | some p => decide (1000 < p)
  .next (if !s.powered || !bad || (!s.tbRun && decide ((clk : Nat) < 2)) then s else s.safeTrigger 0x0A 0 12)

/-! ### Self-tests (R406-R408) -/

/-- selftest_status with a kind, a state and failing units (Table 16-9). -/
def testStatus (kind st failing : Nat) : Nat := kind * 2 ^ 56 + st * 2 ^ 48 + failing

/-- A write of selftest_request: queued, or busy (R407). -/
def State.writeSelftest (s : State) (v : Word64) : Except Nat State :=
  let kind := fld v 63 56
  if kind = 0 ∨ 4 < kind ∨ (kind = 4 ∧ 16 ≤ fld v 15 0) then .error 0x0007
  else if s.selfReq.isSome then .error 0x000B
  else .ok (State.setN { s with selfReq := some (kind, fld v 15 0) } (kDiag 7) (testStatus kind 1 0))

/-- SELFTEST_REQUEST (R407). -/
def execSelftestRequest (src : Src) (v : Word64) (s : State) : Result :=
  s.command src 0x7010 6 v fun _ s => s.writeSelftest v

/-- A queued or running request ends with its result; failing units were gathered in the status (R407). -/
def State.endSelftest (s : State) (failing : Nat) : State :=
  match s.selfReq with
  | none => s
  | some (kind, _) => State.setN { s with selfReq := none } (kDiag 7) (testStatus kind (if failing = 0 then 3 else 4) failing)

/-- Partition of core n. -/
def State.corePart (s : State) (n : Nat) : Option Nat := (List.range 16).find? fun p => s.oBit (kPart p 1) n

/-- Bound of a chunk in ns: its test, the scrub, and a save and a restore when an instance holds the core (R406). -/
def State.chunkBound (s : State) (c : Chunk) : Nat :=
  c.testNs + 12000 + (if s.holder c.core < 16 then 2 * s.saveBound ((s.corePart c.core).getD 0) 1 else 0)

/-- Whether a chunk that starts at t may run in a slot that ends at stop: its core can be taken, its cluster control core runs, and its bound ends in time (R406). -/
def State.chunkFits (s : State) (c : Chunk) (t stop : Nat) : Bool :=
  let n : Nat := c.core
  let last := t + s.chunkBound c
  let slots := ((s.corePart n).map s.slotInstants).getD []
  (c.diag == 6 || c.diag == 7) && decide (c.testNs ≤ 200000) && s.fwRuns (3 + n / 4) && !s.domOff (2 + n / 4) && s.schedUp
    && (decide (s.coreState n = 0) || decide (s.coreState n = 1) || decide (s.coreState n = 2)) && decide ((s.core n).hold ≠ .stopped) && !(s.core n).preempt
    && decide (last ≤ stop) && slots.all fun x => decide (last ≤ x)

/-- The core of a chunk is saved for its holder, tested, scrubbed and returned (R406). -/
def State.testCore (s : State) (n : Nat) : State :=
  let m := s.holder n
  let st := s.coreState n
  if 16 ≤ m then (s.scrubCore n).setN (kCore n 0 1) st
  else if st = 2 then (s.scrubCore n).setN (kCore n 0 1) 2
  else ((s.saveCore n).scrubCore n).grantCore n m

/-- What runs a chunk reports: a failed chunk raises trigger 0x0A at once; a request's chunk counts for the request, another for the pass, whose end starts the next interval (R407, R408). -/
def State.chunkResult (s : State) (c : Chunk) (requested : Bool) : State :=
  let s := if c.pass then s else s.safeTrigger 0x0A 0 c.diag
  if requested then
    match s.selfReq with
    | none => s
    | some (kind, mask) =>
      let left := mask - 2 ^ (c.core : Nat)
      let failing := fld (s.obj (kDiag 7)) 15 0 + (if c.pass then 0 else 2 ^ (c.core : Nat))
      let s := State.setN { s with selfReq := some (kind, left) } (kDiag 7) (testStatus kind 2 failing)
      if left = 0 then s.endSelftest failing else s
  else
    let done := s.objN (kDiag 3) + 1
    if done < s.objN (kDiag 2) then s.setN (kDiag 3) done
    else State.setObj { s.setN (kDiag 3) 0 with overdue := false } (kDiag 4) s.now

/-- Whether a chunk is one that the request waits for: core logic for kind 1, SRAM for kind 2 (R407, Table 16-3). -/
def State.chunkRequested (s : State) (c : Chunk) : Bool :=
  match s.selfReq with
  | none => false
  | some (kind, mask) => (kind == 1 || kind == 2) && decide (c.diag = 5 + kind) && nbit mask c.core

/-- Run the chunks of a slot one after another from t, deferring those that do not fit (R406). -/
def State.runChunks (s : State) (stop : Nat) : Nat → List Chunk → State
  | _, [] => s
  | t, c :: cs =>
    if s.chunkFits c t stop then
      let next := t + s.chunkBound c
      State.runChunks ((s.testCore c.core).chunkResult c (s.chunkRequested c)) stop next cs
    else State.runChunks (s.count (kDiag 9) 32) stop t cs

/-- Requests that need no chunk: a test of no core and a calibration end in the slot; an ageing measurement runs until it has been made (R407, R440; log entry 50). -/
def State.plainRequests (s : State) : State :=
  match s.selfReq with
  | none => s
  | some (kind, mask) =>
    if kind = 3 ∨ (kind ≤ 2 ∧ mask = 0) then s.endSelftest 0
    else if kind = 4 then s.setN (kDiag 7) (testStatus 4 2 0)
    else s

/-- SERVICE_SLOT (R406): action 0x7 opens a slot of its length; the request's chunks run first, then those of the pass in rotation. -/
def execServiceSlot (e : Fin 1024) (chunks : List Chunk) (s : State) : Result :=
  match s.fire e 7 with
  | none => .next s
  | some (s, f) =>
    let s := s.count (kDiag 8) 32
    let stop := f.due + fld (s.cadArg e) 31 0
    let s := s.plainRequests
    let first := chunks.filter s.chunkRequested
    let rest := chunks.filter fun c => !s.chunkRequested c
    .next (s.runChunks stop s.nowN (first ++ rest))

/-- DTI_EXPIRY (R408): the interval has passed before the pass is complete; once per interval. Which diagnostic of the pass the notice names is a free value (log entry 51). -/
def execDtiExpiry (s : State) : Result :=
  if s.overdue ∨ !s.islandRuns ∨ s.nowN < s.objN (kDiag 4) + 1000000 * s.objN (kDiag 1) then .next s
  else
    let number := 6 + fld s.freeNow 0 0
    let s := (State.orObj { s.tookFree with overdue := true } (kSafe 12) 4).count (kDiag 5) 32
    .next ((s.safetyNotice 3 s.stampTime [BitVec.ofNat 64 number, s.obj (kDiag 4), 0#64, 0#64]).strataEvent 5)

/-- GOLDEN_LATE (R410): a start of golden job j has not begun by the next grid point of its entry. -/
def execGoldenLate (j : Fin 8) (s : State) : Result :=
  let e := fld (s.obj (kGolden j 1)) 53 44
  let n := s.goldenWaits j
  let next := s.cadEnabled e && s.cadNext e != 0 && !s.cadSensor e && decide ((s.cadNext e : Int) ≤ s.netTime)
  if bit (s.obj (kGolden j 1)) 63 && (decide (2 ≤ n) || (decide (n = 1) && next)) then .next ((s.setGolden j (n - 1)).goldenEvent j 1) else .next s

/-! ### Strata (R411-R418) -/

/-- STRATA_TRIGGER (R414). -/
def execStrataTrigger (src : Src) (v : Word64) (s : State) : Result :=
  s.command src 0x7040 0xa v fun _ s => .ok (s.strataEvent 12)

/-- The region header follows the objects that it repeats (Table 16-6). -/
def State.strataHeader (s : State) : State :=
  let s := s.wr strataBase ([0x53#8, 0x54#8, 0x52#8, 0x41#8] ++ leBytes 2 1 ++ leBytes 2 0 ++ leBytes 4 (s.objN kPermUsed))
  s.wrN (strataBase + 16) 8 (s.objN kNextSeq)

/-- A record slot is written: valid 0, sequence, body, check, valid (R412). -/
def State.putRecordSlot (s : State) (a : Nat) (body : List Byte) : State :=
  s.wr a (slice body 0 0x38 ++ leBytes 4 0x53545256 ++ slice body 0x3c 964)

/-- The oldest waiting record goes into its circulating slot, and its permanent one. -/
def State.writeRecord (s : State) : State :=
  match s.strataQ with
  | [] => s
  | r :: rest =>
    let s := State.putRecordSlot { s with strataQ := rest, strataDirty := true } (strataBase + 0x11000 + r.seq % 256 * 1024) r.body
    let s := match r.perm with
      | none => s
      | some k => s.putRecordSlot (strataBase + 0x1000 + k % 64 * 1024) r.body
    s.strataHeader.orObj (okey 0x7040 9) 1

/-- A copy-out that is held starts when none runs, no record waits and the security core runs (R417; log entry 15). -/
def State.copyHeldGo (s : State) : State :=
  if s.copyHeld && s.copyJob.isNone && s.strataQ.isEmpty && s.fwRuns 0 then s.startCopy else s

/-- STRATA_RECORD_WRITE (R412, R413): records of Sentry wait for its exit. -/
def execStrataRecordWrite (s : State) : Result :=
  if s.strataQ.isEmpty ∨ !s.powered ∨ s.objN (okey 0x7c00 1) = 3 then .next s else .next s.writeRecord.copyHeldGo

/-- A write of strata_clear (R416). -/
def State.writeStrataClear (s : State) : State :=
  let s := s.setN kPermUsed 0
  let s := s.wrN (strataBase + 12) 4 ((s.rdN (strataBase + 12) 4 + 1) % 2 ^ 32)
  (s.wrN (strataBase + 24) 8 s.nowN).strataHeader.strataEvent 13

/-- STRATA_CLEAR (R416). -/
def execStrataClear (src : Src) (v : Word64) (s : State) : Result :=
  s.command src 0x7040 5 v fun _ s => .ok s.writeStrataClear

/-- A write of copyout: refused while one runs, held while the security core restarts (R417, Table 15-8). -/
def State.writeCopyout (s : State) : Except Nat State :=
  if s.copyJob.isSome then .error 0x000B
  else if !s.fwRuns 0 then .ok { s with copyHeld := true }
  else .ok s.startCopy

/-- COPYOUT (R417). -/
def execCopyout (src : Src) (v : Word64) (s : State) : Result :=
  s.command src 0x7040 6 v fun _ s => s.writeCopyout

/-- The bytes of a slot after a copy-out: the region as it stood, the copy version, the check (R417). -/
def State.writeCopySlot (s : State) (j : CopyJob) : State :=
  let a := copySlot j.slot
  let s := (s.zeroRange a 0x51008).forEach j.image fun s c => s.putByte (a + c.1) c.2
  let s := s.wrN (a + 0x51000) 4 j.version
  s.wrN (a + 0x51004) 4 (crc32c (s.rd a 0x51004)).toNat

/-- The copy-out that runs ends: done, or failed with whatever the flash then holds in that slot (R417). -/
def State.endCopy (s : State) (j : CopyJob) (ok : Bool) : State :=
  let s : State := { s with copyJob := none }
  if ok then (s.writeCopySlot j).setN (okey 0x7040 7) 2
  else ((s.wr (copySlot j.slot) (s.freeBytes 0x51008)).tookFree 0x51008).setN (okey 0x7040 7) 3

/-- COPYOUT_END (R417): a held copy-out then starts. -/
def execCopyoutEnd (ok : Bool) (s : State) : Result :=
  match s.copyJob with
  | none => .next s
  | some j => if !s.fwRuns 0 then .next s else .next (s.endCopy j ok).copyHeldGo

/-- The region at start-up from power-good: from the newer valid slot, else empty with next_seq 0 (R418). -/
def State.strataRestore (s : State) : State :=
  match s.copyNewest with
  | none =>
    let s := ((s.zeroRange strataBase 0x100000).setN kNextSeq 0).setN kPermUsed 0
    s.strataHeader
  | some (i, _) =>
    let s := (s.zeroRange strataBase 0x100000).copyRange (copySlot i) strataBase 0x51000
    (s.setN kNextSeq (s.rdN (strataBase + 16) 8)).setN kPermUsed (s.rdN (strataBase + 8) 1)

end Sys2Proof.Machine
end

