-- ==== Sys2Proof/Machine/Commit.lean ====
section
/-! DEFINITION. Commits: staging sets, what a commit checks of every entry at application, what follows an applied set, and timed commits (R31-R33, R41, R63-R65, R71-R75, R199, R202, R203, R234, R235, R310, R333, R334, R342, R355, R362, R366). -/

namespace Sys2Proof.Machine

/-! ### Staging (R31) -/

/-- Stage an entry: it replaces an earlier one of its object; a 257th is refused (R31). -/
def State.stage (s : State) (c : Ctx) (x : Staged) : Except Nat State :=
  let y := s.ctx c
  if y.staging.any fun z => z.key = x.key then
    .ok (s.setCtx c { y with staging := y.staging.map fun z => if z.key = x.key then x else z })
  else if 256 ≤ y.staging.length then .error 0x0008
  else .ok (s.setCtx c { y with staging := y.staging ++ [x] })

/-- The world field of an inbound window is staged only by secure firmware (R362). -/
def State.worldField (s : State) (r : Requester) (idx sub : Nat) (v : Word64) : Bool :=
  decide (0x6430 ≤ idx) && decide (idx < 0x6438) && decide (sub = 1) && decide (r.role ≠ .secureFw)
    && decide (fld v 7 6 ≠ fld (s.obj (okey idx sub)) 7 6)

/-- Give the object of an entry its value. -/
def State.putStaged (s : State) (x : Staged) : State :=
  match rowOf x.key with
  | none => s
  | some r => if r.ty = .domain then s.setDom x.key x.bytes else s.setObj x.key x.v

/-! ### Checks of the table records (R310, R333, R334, R342) -/

/-- Operands of a path command (R310). -/
def pathOperands (c : Nat) : Option Nat :=
  match c with
  | 0 | 6 => some 0
  | 1 | 2 => some 2
  | 3 => some 4
  | 4 => some 6
  | 5 => some 5
  | _ => none

/-- Whether path bytes are whole commands; an end command ends the path (R310). `fuel` bounds their number. -/
def pathOk : Nat → List Byte → Bool
  | 0, bs => bs.isEmpty
  | k + 1, bs =>
    if bs.isEmpty then true
    else match pathOperands (leAt bs 0 1) with
      | none => false
      | some n =>
        decide (leAt bs 1 3 = 0) && decide (4 + 4 * n ≤ bs.length) && (decide (leAt bs 0 1 = 0) || pathOk k (bs.drop (4 + 4 * n)))

/-- Whether an item record of a scene keeps the layout of Table 12-11. -/
def itemOk (scene item : List Byte) : Bool :=
  let a := leAt item 0 4
  let n := leAt item 4 2
  decide (a + n ≤ scene.length) && decide (leAt item 6 1 ≤ 2) && decide (leAt item 7 1 < 8) && decide (leAt item 0x3c 4 = 0)
    && decide (nfld (leAt item 0x28 8) 63 62 ≤ 1) && pathOk n (slice scene a n)

/-- Whether a scene keeps the layout of R310; an empty DOMAIN is no scene. -/
def sceneOk (b : List Byte) : Bool :=
  let n := leAt b 0 2
  b.isEmpty || (decide (16 ≤ b.length) && decide (n ≤ 512) && (slice b 2 14).all (· == 0#8) && decide (16 + 64 * n ≤ b.length)
    && (List.range n).all fun k => itemOk b (slice b (16 + 64 * k) 64))

/-- Whether a link number exists: 1 Ethernet ports 0-11, 2 CAN controllers 0-7, 3 10BASE-T1S PHYs 0-1 (Table 13-6). -/
def linkExists (kind u : Nat) : Bool :=
  (decide (kind = 1) && decide (u < 12)) || (decide (kind = 2) && decide (u < 8)) || (decide (kind = 3) && decide (u < 2))

/-- Why a capture_table fails, 0 when it does not (R333, Table 13-5). -/
def captureTableError (b : List Byte) : Nat :=
  let used := (records 16 b).filter fun r => leAt r 0 1 != 0
  if !used.all fun r => linkExists (leAt r 0 1) (leAt r 1 1) && decide (1 ≤ leAt r 4 2) && decide (leAt r 4 2 ≤ 1024) then 0x0009
  else if 0x80000 < (used.map fun r => roundUp (leAt r 4 2) 64 + 64).sum then 0x000A
  else 0

/-- Whether an enabled frame template keeps Table 13-5, and an Ethernet one names a queue of mode 1 (R334). -/
def State.templateOk (s : State) (r : List Byte) : Bool :=
  let kind := leAt r 0 1
  let u := leAt r 1 1
  let len := leAt r 4 2
  !nbit (leAt r 3 1) 0
    || (decide (u < 8) && decide (len ≤ 224)
      && (if kind = 0 then decide (60 ≤ len) && decide (leAt r 2 1 < 8) && decide (s.queueMode u (leAt r 2 1) = 1) else decide (kind = 1) && decide (9 ≤ len)))

/-- An enabled Lodestone slot with a frame output has a template of its own kind and unit (R334). -/
def State.lodeFrameOk (s : State) (n : Nat) : Bool :=
  let c := s.lodeCfg n
  let r := s.templateRec (fld (s.obj (kLode n 13)) 15 0 % 256)
  !lcEnable c || decide (lcKind c = 0) || (decide (leAt r 0 1 + 1 = lcKind c) && decide (leAt r 1 1 = lcUnit c))

/-- Whether a route entry is a pair that Table 13-7 lists (R342). A controller in mode 0 is a classical or FD one, in the other modes an XL one. -/
def State.routePairOk (s : State) (r : List Byte) : Bool :=
  let mode (u : Nat) : Nat := fld (s.obj (kCan u 1)) 3 2
  let sk := leAt r 1 1
  let su := leAt r 2 1
  let dk := leAt r 3 1
  let du := leAt r 4 1
  let eth (k : Nat) : Bool := decide (k = 1) || decide (k = 3)
  let places := linkExists sk su && linkExists dk du && (decide (dk ≠ 1) || decide (du ≤ 8))
  let pair : Bool := match leAt r 5 1 with
    | 0 => (eth sk && eth dk) || (decide (sk = 2) && decide (dk = 2) && (decide (mode su = 0) || decide (mode du ≠ 0)))
    | 1 => decide (sk = 2) && eth dk && decide (mode su = 0)
    | 2 => eth sk && decide (dk = 2)
    | 3 | 6 => decide (sk = 2) && eth dk && decide (mode su ≠ 0)
    | 4 | 5 => eth sk && decide (dk = 2) && decide (mode du ≠ 0)
    | _ => false
  !nbit (leAt r 0 1) 0 || (places && pair)

/-! ### Checks of units (R63, R74, R199, R234, R366, Table 14-4) -/

/-- The cadence entry that an index and subindex of the table belong to. -/
def cadOf (idx sub : Nat) : Nat := (idx - 0x2100) * 32 + (sub - 1) / 6

/-- Whether slot n passes the checks of its commit, with the slots nested in or around it. -/
def lodeLinkedOk (t : State) (n : Nat) : Bool :=
  let linked (k : Nat) : Bool :=
    decide (k = n) || (lcOuter (t.lodeCfg k) && decide (lcInner (t.lodeCfg k) = n)) || (lcOuter (t.lodeCfg n) && decide (lcInner (t.lodeCfg n) = k))
  (List.range 8).all fun k => !linked k || lodeSlotOk t k

/-- Why cadence entry e fails in a trial state, 0 when it does not (R63, R74, R366). -/
def State.cadError (t : State) (r : Requester) (e : Nat) : Nat :=
  if !cadEntryOk t e then 0x0009
  else if t.cadAction e = 1 ∧ !r.secure ∧ t.instSecure (t.cadJob e).1 then 0x0004
  else if t.cadAction e = 4 ∧ !lodeLinkedOk t (fld (t.cadArg e) 2 0) then 0x0009
  else 0

/-- Cores that a commit takes from partition p. -/
def State.coresTaken (s t : State) (p : Nat) : List Nat := (s.partCores p).filter fun n => !(t.partCores p).contains n

/-- Why partition p fails in a trial state: shared cores, a second graphics flag, a withheld core, more members than its mode admits, a mix of worlds, a core named in a pin (R199, R234, R366, R421). -/
def State.partError (s t : State) (p : Nat) : Nat :=
  let cs := t.partCores p
  let rest := (List.range 16).filter (· != p)
  let secure (n : Nat) : Bool := t.oBit (okey 0x7401 1) n
  let worlds := cs.map secure ++ (t.partMembers p).map t.instSecure
  let pinned := (t.partMembers p).any fun m => (s.inst m).plans.any fun x => x.2.pinned && (placedCores x.2.place).any (s.coresTaken t p).contains
  if rest.any (fun q => cs.any (t.partCores q).contains) then 0x0009
  else if t.oBit (kPart p 3) 0 && rest.any (fun q => t.oBit (kPart q 3) 0) then 0x0009
  else if cs.any (fun n => t.oBit (okey 0x7c05 2) n) then 0x0009
  else if t.partMode p = 1 ∧ 1 < (t.partMembers p).length then 0x0009
  else if worlds.any (· != worlds.headD false) then 0x0004
  else if pinned then 0x000B
  else 0

/-- Whether a window configuration uses assigned codes; a configuration window needs the root-port role (Table 14-4). -/
def State.winOk (t : State) (out : Bool) (v : Word64) : Bool :=
  decide (fld v 7 6 ≤ 1) && decide (fld v 5 4 ≤ 2) && decide (fld v 3 2 ≤ 2) && (!out || decide (fld v 7 6 = 0) || decide (t.pcieRole = 1))

/-- Whether an outbound target is aligned to its window's size (Table 14-5). -/
def State.obAligned (t : State) (w : Nat) : Bool := decide (t.objN (kOb w 3) = 0) || decide (t.objN (kOb w 2) % t.objN (kOb w 3) = 0)

/-- Why an entry fails beyond its own value, in the trial state that the whole set makes; 0 when it does not. -/
def State.linkedError (s t : State) (r : Requester) (idx sub : Nat) : Nat :=
  let no (ok : Bool) : Nat := if ok then 0 else 0x0009
  if 0x2100 ≤ idx ∧ idx < 0x2120 then t.cadError r (cadOf idx sub)
  else if 0x2400 ≤ idx ∧ idx < 0x2440 then no (lodeLinkedOk t ((idx - 0x2400) / 8) && t.lodeFrameOk ((idx - 0x2400) / 8))
  else if 0x4c10 ≤ idx ∧ idx < 0x4c20 then s.partError t (idx - 0x4c10)
  else if 0x5880 ≤ idx ∧ idx < 0x5884 then no (sceneOk (t.dom (okey idx sub)))
  else if idx = 0x6100 then captureTableError (t.dom (okey idx sub))
  else if idx = 0x6101 then no ((records 256 (t.dom (okey idx sub))).all t.templateOk && (List.range 8).all t.lodeFrameOk)
  else if idx = 0x6300 ∧ sub = 1 then no ((records 48 (t.dom (okey idx sub))).all t.routePairOk)
  else if 0x6410 ≤ idx ∧ idx < 0x6420 then no (t.winOk true (t.obj (kOb (idx - 0x6410) 1)) && t.obAligned (idx - 0x6410))
  else if 0x6430 ≤ idx ∧ idx < 0x6438 then no (t.winOk false (t.obj (kIb (idx - 0x6430) 1)))
  else 0

/-- Why an entry of a set fails at application, 0 when it does not (R32). -/
def State.entryError (s t : State) (r : Requester) (x : Staged) : Nat :=
  match rowOf x.key with
  | none => 0x0002
  | some row =>
    let own := if row.ty = .domain then row.rng.lenOk x.bytes.length else row.valueOk (x.key / 256) (x.key % 256) x.v
    if own then s.linkedError t r (x.key / 256) (x.key % 256) else 0x0009

/-! ### What follows an applied set -/

/-- A plan's invocations that run on a core that is taken have the grace of R203. -/
def State.shrinkPlans (s t : State) (p m : Nat) : State :=
  let taken := s.coresTaken t p
  let grace := BitVec.ofNat 64 (t.nowN + 1000 * t.objN (kPlacer m 6))
  let hit (v : InvSt) : Bool := match TMap.find (t.inst m).plans v.req.handle with
    | some x => !x.pinned && (placedCores x.place).any taken.contains
    | none => false
  if t.objN (kPlacer m 5) ≠ 1 ∨ taken.isEmpty then t
  else t.upInst m fun y => { y with shrink := y.shrink ++ ((y.invs.filter hit).map fun v => (v.num, grace)) }

/-- A commit has changed partition p: its members' plans are re-placed, a change of mode frees its cores, and the cores are dealt anew (R202, R203, R235, R244). -/
def State.partCommitted (s t : State) (p : Nat) : State :=
  let added := (t.partCores p).any fun n => !(s.partCores p).contains n
  let removed := !(s.coresTaken t p).isEmpty
  let t := t.forEach (t.partMembers p) fun u m =>
    let named := (((u.inst m).plans.filter fun x => !x.2.pinned).map (·.1))
    let u := u.upInst m fun y =>
      { y with replaceq := y.replaceq ++ (if added then named.map fun h => (h, 1) else []) ++ if removed then named.map fun h => (h, 2) else [] }
    s.shrinkPlans u p m
  let t := if s.partMode p ≠ t.partMode p ∧ t.partHolder p ≠ 0xff then t.releasePart p else t
  (t.dealCores.schedule p).refreshLead

/-- A pipe begins to drive its sink: normal, or fallen back when the device is in the safe state and its checks are enabled (R319, Table 16-2). -/
def State.startPipe (s : State) (p : Nat) : State :=
  let s := (s.setPipe p { PipeSt.init with sink := (s.pipe p).sink }).setN (kPipe p 0x13) 1
  if s.safe && s.checksOn p then s.pipeFallback p else s

/-- A committed pipe_config turns a pipe on or off; its frame period follows the timings and the pixel clock (Table 12-12). -/
def State.pipeCommitted (s t : State) (p : Nat) : State :=
  let on := t.oBit (kPipe p 1) 0
  let t := t.setN (kPipe p 0x1b) (t.framePeriod p % 2 ^ 32)
  if on && !s.oBit (kPipe p 1) 0 then t.startPipe p
  else if !on && s.oBit (kPipe p 1) 0 then t.setN (kPipe p 0x13) 0
  else t

/-- A committed capture_table: a handle whose record has changed has not yet received a frame (R333). -/
def State.captureCommitted (s t : State) : State :=
  let key := okey 0x6100 1
  t.forEach (List.range 1024) fun t h =>
    if s.recAt key 16 h = t.recAt key 16 h then t else { t with capWin := TMap.set (fun _ => none) t.capWin h none }

/-- What follows the applied entries, each unit once. -/
def State.committed (s t : State) (set : List Staged) : State :=
  let at_ (lo hi : Nat) : List Nat := ((set.filter fun x => decide (lo ≤ x.key / 256) && decide (x.key / 256 < hi)).map (·.key))
  let cads := ((at_ 0x2100 0x2120).map fun k => cadOf (k / 256) (k % 256)).eraseDups
  let lodes := ((at_ 0x2400 0x2440).map fun k => (k / 256 - 0x2400) / 8).eraseDups
  let parts := ((at_ 0x4c10 0x4c20).map fun k => k / 256 - 0x4c10).eraseDups
  let pipes := ((at_ 0x5840 0x5844).map fun k => k / 256 - 0x5840).eraseDups
  let wins := ((at_ 0x6410 0x6420).map fun k => k / 256 - 0x6410).eraseDups
  let t := t.forEach cads fun t e => State.armEntry { t with cadDue := t.cadDue.filter fun d => d.entry != e } e
  let t := t.forEach lodes fun t n => s.lodeCommitted t n
  let t := t.forEach parts fun t p => s.partCommitted t p
  let t := t.forEach pipes fun t p => s.pipeCommitted t p
  let t := if (at_ 0x6100 0x6101).isEmpty then t else s.captureCommitted t
  t.forEach wins fun t w => t.dropFetches (0x80000000000 + w * 0x8000000000) 0x8000000000

/-! ### Commits (R32) -/

/-- Apply a set whole, or name the failing entry of the lowest index and subindex with its error. -/
def State.applySet (s : State) (r : Requester) (set : List Staged) : Except (Nat × Nat) State :=
  let t := s.forEach set State.putStaged
  let bad := set.filter fun x => s.entryError t r x != 0
  let first := bad.foldl (fun (m : Option Staged) x => match m with
    | none => some x
    | some y => if x.key < y.key then some x else some y) none
  match first with
  | some x => .error (s.entryError t r x, x.key)
  | none => .ok (s.committed t set)

/-- The requester that a context stands for. -/
def State.ctxRequester (s : State) (c : Ctx) : Requester :=
  match c with
  | .secureFw => ⟨.secureFw, true, c⟩
  | .manager => ⟨.manager, false, c⟩
  | .inst m => ⟨.inst m, decide (s.objN (kInst m 0 4) = 1), c⟩
  | .session sid => match s.session? sid with
    | some x => ⟨if x.service then .service else .vehicle, x.secure, c⟩
    | none => ⟨.vehicle, false, c⟩

/-- Apply a set for a context: commit_applied, or the latched failure; with the error and the failing object (R32, R38). -/
def State.commitSet (s : State) (c : Ctx) (set : List Staged) : State × Nat × Nat :=
  match s.applySet (s.ctxRequester c) set with
  | .ok t => (t.setCtx c { t.ctx c with applied := t.netTime64 }, 0, 0)
  | .error (e, key) => (s.latch c e (key / 256) (key % 256), e, key)

/-- A commit is received: at once, scheduled, or refused while one is pending (R32). The answer is none for one that is scheduled, else the error and the failing object. -/
def State.receiveCommit (s : State) (c : Ctx) (v : Word64) (seq : Word32) : Except Nat (State × Option (Nat × Nat)) :=
  let x := s.ctx c
  if v = 0#64 ∨ (v.toNat : Int) ≤ s.netTime then
    let (t, e, key) := (s.setCtx c { x with staging := [] }).commitSet c x.staging
    .ok (t, some (e, key))
  else if x.timed.isSome then .error 0x000B
  else .ok (s.setCtx c { x with staging := [], timed := some ⟨v, x.staging, seq⟩ }, none)

/-- COMMIT_WRITE (R32, R38). -/
def execCommitWrite (src : Src) (v : Word64) (s : State) : Result :=
  s.command src 0x1018 1 v fun r s => match s.receiveCommit r.ctx v 0#32 with
    | .error e => .error e
    | .ok (t, _) => .ok t

/-- The answer to a COMMIT (Table 2-5). -/
def State.commitAnswer (s : State) (sid : Nat) (seq : Nat) (e key : Nat) (at_ : Word64) : State :=
  s.emit (.cxop sid 0x85 s.pduFlags seq e 0 (leBytes 8 (if e = 0 then at_.toNat else 0) ++ leBytes 2 (key / 256) ++ leBytes 1 (key % 256) ++ leBytes 5 0))

/-- COMMIT_APPLY (R32, R41): a timed commit reaches its time. -/
def execCommitApply (ctx : Ctx) (s : State) : Result :=
  match (s.ctx ctx).timed with
  | none => .next s
  | some w =>
    if s.netTime < w.at_.toNat then .next s
    else
      let (t, e, key) := (s.setCtx ctx { s.ctx ctx with timed := none }).commitSet ctx w.set
      match ctx with
      | .session sid => .next (t.commitAnswer sid w.seq.toNat e key t.netTime64)
      | _ => .next t

end Sys2Proof.Machine
end

