-- ==== Sys2Proof/Machine/Migrate.lean ====
section
/-! DEFINITION. Migration images: what save image writes and what restore image rebuilds (R260-R262, Tables 10-9 and 10-10). -/

namespace Sys2Proof.Machine

/-! ### Saving (R260, R261) -/

/-- A piece of a section: bytes, or a range of memory. -/
inductive Piece where
  | lit (b : List Byte)
  | mem (a n : Nat)
deriving DecidableEq, Repr

def Piece.len : Piece → Nat
  | .lit b => b.length
  | .mem _ n => n

/-- A section: its type and pieces. -/
structure Section_ where
  ty : Nat
  ps : List Piece
deriving DecidableEq, Repr

def Section_.size (x : Section_) : Nat := (x.ps.map Piece.len).sum

/-- What [a, hi) leaves outside the excluded ranges. -/
def gaps (excl : List (Nat × Nat)) (hi : Nat) : Nat → Nat → List (Nat × Nat)
  | 0, _ => []
  | k + 1, a =>
    if hi ≤ a then []
    else match excl.find? fun r => decide (r.1 ≤ a) && decide (a < r.1 + r.2) with
      | some r => gaps excl hi k (r.1 + r.2)
      | none =>
        let b := (excl.filter fun r => decide (a < r.1) && decide (r.2 ≠ 0)).foldl (fun n r => min n r.1) hi
        (a, b - a) :: gaps excl hi k b

/-- The memory that section type 4 carries: the stack range but for the save area, the speculative region, KV frames and plan copies, and the cluster memory (Table 10-10). -/
def State.migRanges (s : State) (m : Nat) : List (Nat × Nat) :=
  let x := s.inst m
  let excl := [(s.objN (kInst m 7 1), saveArea), (s.objN (kAssay m 0xc), s.objN (kAssay m 0xd)),
      (s.objN (kInst m 6 1), s.objN (kInst m 6 2))] ++ x.frames
    ++ x.plans.flatMap fun p => (p.2.image, p.2.bytes) :: p.2.place.writes.map fun w => (w.1, w.2.length)
  gaps excl (x.stackBase + s.objN (kInst m 1 4)) (2 * excl.length + 2) x.stackBase ++ (s.ownClusters m).map fun c => (cmemBase c, cmemSize)

/-- A message as its mailbox bytes from offset 0x008 (Table 10-5). -/
def mboxBytes (kind cookie : Nat) (body : List Byte) : List Byte := leBytes 2 kind ++ leBytes 2 body.length ++ leBytes 4 cookie ++ body

/-- A queued RUN or DIRECT as its message (Table 10-6). -/
def reqBytes (r : RunReq) : List Byte :=
  if r.kind = 1 then mboxBytes 4 r.cookie (leBytes 8 r.header)
  else mboxBytes 3 r.cookie (leBytes 1 r.handle ++ leBytes 1 r.view.toNat ++ leBytes 2 r.binds.length ++ leBytes 4 0
    ++ (r.args.flatMap fun a => leBytes 8 a.toNat) ++ r.binds.flatMap fun b => leBytes 4 b.1 ++ leBytes 4 0 ++ leBytes 8 b.2)

/-- The RW objects of an instance's blocks as records with instance 0's indices (Table 10-10 type 1). -/
def State.instRecords (s : State) (m : Nat) : List Byte :=
  let block (lo n shown : Nat) : List Byte :=
    (List.range n).flatMap fun j => (List.range 255).flatMap fun k =>
      match objRow? (lo + j) (1 + k) with
      | some r => if r.acc = .rw then s.objRecord (lo + j) (1 + k) (shown + j) else []
      | none => []
  block (0x4200 + 0x10 * m) 0x10 0x4200 ++ block (0x4410 + m) 1 0x4410 ++ block (0x4800 + 0x40 * m) 0x40 0x4800

/-- Handles as bits: how type 7 gives the held cadence starts, in 8 bytes (log entry 38). -/
def handleBits (l : List Nat) : List Byte := leBytes 8 (coreBits l)

/-- The sections of instance m's image. -/
def State.migSections (s : State) (m : Nat) : List Section_ :=
  let x := s.inst m
  let cache (k : Nat) : Section_ :=
    let c := s.cache m k
    let es := s.ptAll m c
    let entry (a : Nat) : Piece := let p := s.ptEntry a; .lit (leBytes 8 (if p.valid then 2 ^ 63 else 0) ++ leBytes 8 (p.ptag * 2 ^ 32 + p.fill))
    let frames := es.filterMap fun a => let p := s.ptEntry a; if p.valid then some (Piece.mem p.frame c.frame) else none
    ⟨3, .mem c.addr 64 :: es.map entry ++ frames⟩
  let caps := ((x.reruns.flatMap (·.caps)) ++ x.invs.flatMap (·.caps)).eraseDups
  let capture (c : Nat × Nat) : Section_ :=
    let size := s.objN (okey (0x4500 + c.1) 0x13)
    let frames := s.streams.flatMap fun st => (st.2.pinned.filter fun p => p.1 = 256 * c.1 + c.2).map fun p =>
      Piece.mem p.2 (s.objN (kStream st.1 4))
    ⟨6, .lit (leBytes 1 c.1 ++ leBytes 7 0) :: .mem (s.objN (okey (0x4500 + c.1) 0x12) + c.2 * size) size :: frames⟩
  [⟨1, [.lit (s.instRecords m)]⟩]
    ++ x.plans.map (fun p => ⟨2, [.lit (leBytes 1 p.1 ++ leBytes 7 0), .mem p.2.image p.2.bytes]⟩)
    ++ (s.liveCaches m).map cache
    ++ (s.migRanges m).map (fun r => ⟨4, [.lit (leBytes 8 r.1 ++ leBytes 8 r.2), .mem r.1 r.2]⟩)
    ++ x.saved.map (fun c => ⟨5, [.lit (leBytes 1 c.1 ++ leBytes 7 0), .mem (s.saveAddr m c.1) imageBytes]⟩)
    ++ caps.map capture
    ++ [⟨7, [.lit (handleBits (x.held.map (·.1)) ++ ((x.reruns ++ x.runq).filter fun r => decide (r.kind ≠ 2)).flatMap reqBytes
        ++ x.outq.flatMap fun o => mboxBytes o.kind o.cookie o.body)]⟩,
      ⟨8, [.lit ((List.range 8).flatMap fun k => leBytes 8 (s.objN (kInst m 3 (1 + k))))]⟩]

/-- Offsets of the sections, each at a multiple of 64, and the end. -/
def secOffsets : Nat → List Section_ → List Nat
  | a, [] => [roundUp a 64]
  | a, x :: l => roundUp a 64 :: secOffsets (roundUp a 64 + x.size) l

/-- Write pieces one after another; memory is copied as it stands in `src`. -/
def State.writePieces (s : State) : Nat → List Piece → State
  | _, [] => s
  | a, .lit b :: l => State.writePieces (s.wr a b) (a + b.length) l
  | a, .mem x n :: l => State.writePieces (s.copyRange x a n) (a + n) l

/-- The migration image of an instance written at its buffer, with its length; or the bytes it needs (R260, R261). -/
def State.writeMig (s : State) (m : Nat) : Option State × Nat :=
  let secs := s.migSections m
  let n := secs.length
  let offs := secOffsets (0x80 + 32 * n) secs
  let l := offs.getLastD 0x80
  if s.objN (kInst m 6 2) < l + 140 then (none, l + 140)
  else
    let buf := s.objN (kInst m 6 1)
    let flags := 1 + (if (s.inst m).saved.isEmpty then 0 else 2)
    let head := leBytes 4 0x47494d5a ++ leBytes 2 1 ++ leBytes 2 flags ++ leBytes 8 l ++ leBytes 4 0xd060 ++ leBytes 2 (s.objN (okey 0x1000 3))
      ++ leBytes 1 (s.objN (okey 0x1000 4)) ++ leBytes 1 m ++ leBytes 8 s.netTime64.toNat ++ leBytes 4 n ++ leBytes 92 0
    let table := ((offs.zip secs).flatMap fun x => leBytes 4 x.2.ty ++ leBytes 4 0 ++ leBytes 8 x.1 ++ leBytes 8 x.2.size ++ leBytes 8 0)
    let t := (s.zeroRange buf (l + 140)).wr buf (head ++ table)
    let t := t.forEach (offs.zip secs) fun t x => t.writePieces (buf + x.1) x.2.ps
    let t := t.wrN (buf + l) 4 (crc32c (t.rd buf l)).toNat
    let t := (t.wr (buf + l + 8) (slice (Config.identitySign t.free (t.rd buf (l + 4))) 0 132)).tookFree
    (some t, l + 140)

/-- INST_SAVE_IMAGE (R260, R261). -/
def execInstSaveImage (src : Src) (m : Fin 16) (arg : BitVec 56) (s : State) : Result :=
  s.instCommand src m 5 arg fun s =>
    if s.instState m ≠ 3 then (s, 0x000B)
    else if s.objN (kInst m 0 4) = 1 then (s, 0x0004)
    else if !s.oBit (kInst m 1 9) 2 then (s, 0x000E)
    else match s.writeMig m with
      | (none, need) => (s.setN (kInst m 6 3) need, 0x000A)
      | (some t, len) => (t.setN (kInst m 6 3) len, 0)

/-! ### Restoring (R262) -/

/-- Sections of an image in a buffer: type, address, size; none when the header, the check word or a section is bad (R262). -/
def State.readMig (s : State) (buf size : Nat) : Option (List (Nat × Nat × Nat)) :=
  let l := s.rdN (buf + 8) 8
  let n := s.rdN (buf + 0x20) 4
  let secs := (List.range n).map fun i => let a := buf + 0x80 + 32 * i; (s.rdN a 4, s.rdN (a + 8) 8, s.rdN (a + 16) 8)
  if s.rdN buf 4 ≠ 0x47494d5a ∨ s.rdN (buf + 4) 2 ≠ 1 ∨ s.rdN (buf + 6) 2 % 2 ≠ 1 ∨ 3 < s.rdN (buf + 6) 2 ∨ l % 64 ≠ 0 ∨ size < l + 140 ∨ l < 0x80 + 32 * n
      ∨ !((s.rd (buf + 0x24) 92).all (· == 0#8)) ∨ s.rdN (buf + l) 4 ≠ (crc32c (s.rd buf l)).toNat then none
  else if secs.all fun x => decide (1 ≤ x.1) && decide (x.1 ≤ 8) && decide (x.2.1 % 64 = 0) && decide (0x80 + 32 * n ≤ x.2.1) && decide (x.2.1 + x.2.2 ≤ l) then
    some (secs.map fun x => (x.1, buf + x.2.1, x.2.2))
  else none

/-- Ops of a queue as its records give them (Table 10-4). -/
def State.opsFrom (s : State) (a depth seq0 : Nat) : List QOp :=
  (List.range depth).filterMap fun i =>
    let b := a + 384 * i
    let st := s.rdN (b + 16) 1
    if st = 0 then none
    else
      let op : OpWord := BitVec.ofNat 128 (s.rdN b 16)
      let ts := (descFields op).zip (List.range 4)
      let ss := (scalarFields op).zip (List.range 8)
      let tregs := ts.foldl (fun t x => TMap.set (fun _ => 0#512) t x.1 (BitVec.ofNat 512 (s.rdN (b + 40 + 64 * x.2) 64))) ([] : TMap (BitVec 512))
      let sregs := ss.foldl (fun t x => TMap.set (fun _ => 0#64) t x.1 (BitVec.ofNat 64 (s.rdN (b + 296 + 8 * x.2) 8))) ([] : TMap Word64)
      some ⟨op, 0#64, seq0 + i, sregs, tregs, Trf.none, (ts.map fun x => (descOf (TMap.get (fun _ => 0#512) tregs x.1)).tag).foldl max 0, false, true, decide (st = 2), false, 0⟩

/-- A core as its saved image gives it (Tables 10-3, 10-4). The image names no bounds of the segment that ran (log entry 38). -/
def State.coreFrom (s : State) (a : Nat) : CoreSt :=
  let run (n w : Nat) (o : Nat) : List Nat := (List.range n).map fun i => s.rdN (a + o + w * i) w
  let slots := (List.range 4).map fun g =>
    let b := a + 0x600 + 32 * g
    let t := s.rdN (b + 2) 1
    (⟨decide (s.rdN b 1 = 1), decide (s.rdN (b + 1) 1 = 1), ⟨nbit t 2, nbit t 1, nbit t 0, s.rdN (b + 3) 1, s.rdN (b + 4) 1⟩,
      BitVec.ofNat 32 (s.rdN (b + 8) 4), BitVec.ofNat 64 (s.rdN (b + 16) 8), false⟩ : ASlot)
  let bank (i : Nat) : BankInfo :=
    let w := s.rdN (a + 0x5e0 + 8 * i) 8
    let cls := if w % 4 = 0 then none else some (w % 4 - 1)
    ⟨cls, if cls = some 2 then 128 else 256, sext 16 (nfld w 31 16), nbit w 2, nbit w 3, nbit w 4⟩
  let pend := (List.range 8).filterMap fun i =>
    let op : OpWord := BitVec.ofNat 128 (s.rdN (a + 0x680 + 16 * i) 16)
    if op = 0#128 then none else some (⟨op, 0, 64 + i⟩ : PendSig)
  let inv := s.rdN (a + 0x30) 8
  let seg : Option SegRun := if inv = 0 then none else some ⟨inv, 0, 2 ^ 44, if nbit (s.rdN (a + 0xc) 4) 2 then some [] else none⟩
  { CoreSt.init with
    sregs := TMap.setRun (fun _ => 0#64) [] 0 ((run 32 8 0x40).map (BitVec.ofNat 64))
    tregs := TMap.setRun (fun _ => 0#512) [] 0 ((run 16 64 0x140).map (BitVec.ofNat 512))
    pregs := TMap.setRun (fun _ => 0#32) [] 0 ((run 8 4 0x540).map (BitVec.ofNat 32))
    slots := TMap.setRun (fun _ => ASlot.closed) [] 0 slots
    slab := s.opsFrom (a + 0x700) 4 0, readout := s.opsFrom (a + 0x700 + 384 * 4) 4 4, mica := s.opsFrom (a + 0x700 + 384 * 8) 16 8
    dma := s.opsFrom (a + 0x700 + 384 * 24) 16 24, pebble := s.opsFrom (a + 0x700 + 384 * 40) 4 40
    nextSeq := 128, pend := pend, seg := seg, elapsed := 1000 * s.rdN (a + 0x2c) 4
    banks := TMap.setRun (fun _ => BankInfo.empty) [] 0 ((List.range 4).map bank)
    acc := TMap.setRun (fun _ => 0#64) [] 0 ((run 262144 8 0x5c000).map (BitVec.ofNat 64))
    tags := TMap.setRun (fun _ => 0) [] 0 ((List.range 262144).map fun i => s.rdN (a + 0xc000 + i / 4) 1 / 4 ^ (i % 4) % 4)
    vregs := TMap.setRun (fun _ => 0#32) [] 0 ((run 65536 4 0x1c000).map (BitVec.ofNat 32)) }

/-- Messages of a type 7 section, as kind, cookie, body address and length. -/
def State.migMsgs (s : State) : Nat → Nat → Nat → List (Nat × Nat × Nat × Nat)
  | 0, _, _ => []
  | k + 1, a, stop =>
    if stop < a + 8 then []
    else
      let n := s.rdN (a + 2) 2
      (s.rdN a 2, s.rdN (a + 4) 4, a + 8, n) :: s.migMsgs k (a + 8 + n) stop

/-- A request from the body of a RUN or DIRECT message. -/
def State.reqFrom (s : State) (kind cookie a : Nat) : RunReq :=
  if kind = 4 then ⟨1, cookie, 0, false, [], [], s.rdN a 8, [], false⟩
  else ⟨0, cookie, s.rdN a 1, nbit (s.rdN (a + 1) 1) 0, (List.range 8).map (fun i => BitVec.ofNat 64 (s.rdN (a + 8 + 8 * i) 8)),
    (List.range (s.rdN (a + 2) 2)).map (fun i => (s.rdN (a + 72 + 16 * i) 4, s.rdN (a + 80 + 16 * i) 8)), 0, [], false⟩

/-- A claimed place of the stack quota, holding a copy of a range (R262 step 3). -/
def State.claimCopy (s : State) (m a n align : Nat) : Option (State × Nat) :=
  match s.placeFrame m n align with
  | none => none
  | some f => some ((((s.tookFree).copyRange a f n).upInst m fun x => { x with claims := (f, n) :: x.claims }), f)

/-- Rebuild a cache from its section: its record takes new entries and its frames new addresses (R262 step 1). -/
def State.cacheFrom (s : State) (m k a : Nat) : State :=
  let t := s.wr (s.objN (kKv m 1) + 64 * k) (leBytes 1 0 ++ (s.rd a 64).drop 1)
  match t.kvCreate m k with
  | (t, 0) =>
    let c := t.cache m k
    let es := t.ptAll m c
    let data := a + 64 + 16 * es.length
    ((List.range es.length).foldl (fun (x : State × Nat) i =>
      let w := t.rdN (a + 64 + 16 * i) 8
      let w1 := t.rdN (a + 72 + 16 * i) 8
      if !nbit w 63 then x
      else match x.1.bindFrame m c (es.getD i 0) (nfld w1 63 32) with
        | none => x
        | some u =>
          let p := u.ptEntry (es.getD i 0)
          ((u.copyRange (data + x.2 * c.frame) p.frame c.frame).setPtEntry (es.getD i 0) { p with fill := nfld w1 8 0 }, x.2 + 1))
      (t, 0)).1
  | (_, _) => s

/-- Rebuild a plan from its section: loaded, awaiting re-placement under cause 3 (R262 step 2). -/
def State.planFrom (s : State) (m a n : Nat) : State :=
  let h := s.rdN a 1
  match s.claimCopy m (a + 8) (n - 8) 4096 with
  | none => s
  | some (s, image) =>
    let bs := s.rd image (n - 8)
    let hd := planHdr bs
    let plan : PlanSt :=
      { image := image, bytes := n - 8, pinned := hd.pinned, safety := hd.safety, job := if hd.job = 0xffff then none else some hd.job
        minCores := hd.minCores, nodes := hd.nodes, binds := planBinds bs hd, streams := planData bs hd 4
        caches := List.range (hd.len 5 / 64), views := planViews bs hd, place := ⟨[], [], 0, 0, 0, 0, 0, 0, [], []⟩, unload := none }
    let s := s.upInst m fun x => { x with plans := TMap.put x.plans h plan, replaceq := x.replaceq ++ [(h, 3)] }
    ((s.orObj (kPlacer m 2) (2 ^ h)).setN (kInst m (0x10 + h) 1) hd.job)

/-- A core-state section: kept when the same core lies in the instance's partition; a direct set that loses its core ends with outcome 6 (R262). -/
def State.savedFrom (s : State) (m a : Nat) : State :=
  let n := s.rdN a 1
  let c := s.coreFrom (a + 8)
  let inv := s.rdN (a + 8 + 0x30) 8
  let direct := nbit (s.rdN (a + 8 + 0xc) 4) 2
  let known := (s.inv? m inv).isSome
  let r : RunReq := ⟨if direct then 1 else 0, fld s.freeNow 31 0, fld s.freeNow 35 32, false, [], [], (Config.freeValue (s.free + 1)).toNat, [], false⟩
  if (s.partCores (s.objN (kInst m 1 1))).contains n then
    let s := (s.copyRange (a + 8) (s.saveAddr m n) imageBytes).upInst m fun x => { x with saved := TMap.put x.saved n c }
    if inv = 0 ∨ known then s
    else (s.tookFree 2).upInst m fun x => { x with invs := x.invs ++ [⟨inv, r, 0#32, 0, s.now, false, [], [], [], [], [], false⟩], nextInv := max x.nextInv (inv + 1) }
  else if direct then
    ((s.tookFree 2).upInst m fun x => { x with invs := x.invs.filter fun v => v.num != inv, saved := x.saved.map fun c => (c.1, c.2.dropInv inv) }).post m 0x85 r.cookie
      (directDoneBody r.header 6 (fld s.freeNow 63 48))
  else s

/-- One object record of type 1, under this instance's indices; pool objects stay as the manager set them. -/
def State.objFrom (s : State) (m : Nat) (x : Rec) : State :=
  let idx := if 0x4800 ≤ x.idx then x.idx + 0x40 * m else if 0x4410 ≤ x.idx then x.idx + m else x.idx + 0x10 * m
  match objRow? idx x.sub with
  | none => s
  | some r => if r.acc = .rw ∧ !freeOnly idx x.sub ∧ x.idx ≠ 0x4806 ∧ recFits r { x with idx := idx } then s.putRecord r idx x.sub x.v else s

/-- Rebuild instance m from the sections (R262). -/
def State.rebuild (s : State) (m : Nat) (c : Carve) (secs : List (Nat × Nat × Nat)) : State :=
  let pick (ty : Nat) : List (Nat × Nat) := (secs.filter fun x => x.1 = ty).map (·.2)
  let s := (s.makeInst m c).setN (kInst m 0 1) 3
  let s := s.forEach (pick 1) fun s x => s.forEach ((parseRecords x.2 (s.rd x.1 x.2)).getD []) fun s r => s.objFrom m r
  let s := s.forEach (pick 4) fun s x => s.copyRange (x.1 + 16) (s.rdN x.1 8) (s.rdN (x.1 + 8) 8)
  let s := s.forEach (pick 2) fun s x => s.planFrom m x.1 x.2
  let live := s.liveCaches m
  let s := s.forEach live fun s k => s.wrN (s.objN (kKv m 1) + 64 * k) 1 0
  let s := s.forEach (live.zip (pick 3)) fun s x => s.cacheFrom m x.1 x.2.1
  let s := s.forEach (pick 6) fun s x => ((s.claimCopy m (x.1 + 8) (x.2 - 8) 64).map (·.1)).getD s
  let s := s.forEach (pick 5) fun s x => s.savedFrom m x.1
  let s := s.forEach (pick 7) fun s x =>
    let held := s.rdN x.1 8
    let msgs := s.migMsgs x.2 (x.1 + 8) (x.1 + x.2)
    let s := s.forEach ((List.range 16).filter fun h => nbit held h) fun s h => s.cadenceStart m h s.nowN
    s.forEach msgs fun s g =>
      if g.1 = 3 ∨ g.1 = 4 then s.upInst m fun y => { y with runq := y.runq ++ [s.reqFrom g.1 g.2.1 g.2.2.1] }
      else (s.upInst m fun y => { y with outq := y.outq ++ [⟨g.1, g.2.1, s.rd g.2.2.1 g.2.2.2⟩] }).pump m
  let s := s.forEach (pick 8) fun s x => s.forEach (List.range 8) fun s k => s.setN (kInst m 3 (1 + k)) (s.rdN (x.1 + 8 * k) 8)
  s.forEach [1, 2, 3] fun s k => s.setN (kInst m 5 k) 0

/-- INST_RESTORE_IMAGE (R262). -/
def execInstRestoreImage (src : Src) (m : Fin 16) (arg : BitVec 56) (c : Carve) (s : State) : Result :=
  s.instCommand src m 6 arg fun s =>
    let buf := s.objN (kInst m 6 1)
    let size := s.objN (kInst m 6 2)
    let l := s.rdN (buf + 8) 8
    let (lo, hi) := (c.stackBase, c.stackBase + s.objN (kInst m 1 4))
    if s.instState m ≠ 0 then (s, 0x000B)
    else match s.readMig buf size with
      | none => (s, 0x000D)
      | some secs =>
        let fits := secs.all fun x => decide (x.1 ≠ 4) || (let a := s.rdN x.2.1 8; let n := s.rdN (x.2.1 + 8) 8
          (decide (lo ≤ a) && decide (a + n ≤ hi)) || (match unitOfRange a n with
            | some (.cmem _) => true
            | _ => false))
        if !Config.ecdsaVerify (s.dom (kInst m 6 4)) (s.rd buf (l + 4)) (s.rd (buf + l + 8) 132) then (s, 0x0013)
        else if s.rdN (buf + 0x10) 4 ≠ 0xd060 ∨ s.rdN (buf + 0x15) 1 ≠ s.objN (okey 0x1000 3) / 256 then (s, 0x0007)
        else if s.createError m c ≠ 0 ∨ !fits then (s, 0x000A)
        else (s.rebuild m c secs, 0)

end Sys2Proof.Machine
end

