-- ==== Sys2Proof/Machine/Power.lean ====
section
/-! DEFINITION. Power states: what a domain loses when it is switched off, requests with their refusals and holds, the entry of a state, wakes, Idle, and the release of held pads (R21, R22, R374-R376, R426-R435). -/

namespace Sys2Proof.Machine

def kPower (sub : Nat) : Nat := okey 0x7c00 sub
def kHold : Nat := okey 0x7450 1
def kPending : Nat := okey 0x7450 3
def kRail (sub : Nat) : Nat := okey 0x7c70 sub

/-- power_state (Table 17-3). -/
def State.powerState (s : State) : Nat := s.objN (kPower 1)

/-! ### Domains that lose power (Table 1-4) -/

/-- A core loses what it holds; it shows that it is withheld or off, held by none. -/
def State.coreDown (s : State) (n : Nat) : State :=
  (((s.scrubCore n).setCore n CoreSt.init).setN (kCore n 0 1) 5).setN (kCore n 0 2) 0xff

/-- A cluster is switched off: cores, local stores, cluster memory and Pebble lose their contents, its control core stops. -/
def State.clusterDown (s : State) (c : Nat) : State :=
  let s := s.forEach (List.range 4) fun s j => s.coreDown (4 * c + j)
  let s : State := { s.zeroRange (cmemBase c) cmemSize with peb := TMap.set (fun _ => PebSt.init) s.peb c PebSt.init }
  s.setN (kFw (3 + c) 1) 0

/-- PD_FAB is switched off: ledger, collectives, buckets and slices in progress are lost, the scheduler stops. -/
def State.fabricDown (s : State) : State :=
  let s := s.forEach (List.range 16) fun s m => (s.setN (kAssay m 2) 0).setN (kPart m 4) 0xff
  let s := ((s.setN kUsed 0).setN (kFw 2 1) 0).setN (kSched 1) 0
  { s with ledger := [], flintOpen := false, parts := [], coll := [], collCount := [], bucket := [], pool := [] }

/-- PD_HOST is switched off: no host core runs; where core 0 starts is kept with its image. -/
def State.hostDown (s : State) : State :=
  { s.zeroRange 0xfe00000000 0x1000000 with hosts := s.hosts.map fun x => (x.1, { HostSt.init with pc := x.2.pc }) }

/-- PD_STK loses its contents. -/
def State.stacksDown (s : State) : State :=
  let t := s.zeroRange 0 stackedSize
  { t with poison := t.poison.filter (fun p => !decide (p < stackedSize)), eccUnits := [] }

/-- PD_IO is switched off: frames in progress, Feldspar's queues and the links of PCI Express and Twimi are gone; a link that was up shows its change, and is not lost under R361. -/
def State.ioDown (s : State) : State :=
  let s := s.forEach (List.range 32) fun s st => s.upStream st fun x => { x with cur := none, verdict := none, lineStarts := 0 }
  let s := s.forEach (List.range 16) fun s p => s.setN (kPort5 p 3) (s.oBit (kPort5 p 1) 0).toNat
  let s := if s.pcieUp then (s.setN (kPcie 4) 0).orObj (kPcie 6) 1 else s
  let s := s.forEach (List.range 3) fun s l =>
    let s := if s.objN (kLink l 2) = 2 then s.orObj (kLink l 7) 1 else s
    s.setN (kLink l 2) 0
  { s with wbuf := [], fetches := [], yielding := false, links := [] }

/-- PD_COCK is switched off: the pipes stop, the pass in progress is gone. -/
def State.cockpitDown (s : State) : State :=
  let s := s.forEach (List.range 4) fun s p => s.setN (kPipe p 0x13) 0
  { s.setN (kGarnet 7) 4 with pipes := [], garnet := GarnetSt.init }

/-- PD_GW is switched off: links go down, sessions close, queues and learned addresses are gone (R44). -/
def State.gatewayDown (s : State) : State :=
  let s := s.forEach (List.finRange 12) fun s q => if (q : Nat) < 8 ∧ s.objN (kNet q 2) = 1 then s.linkDown q else s
  let s := s.forEach (List.finRange 8) fun s c => s.closeLink (.can c)
  { s with txq := [], txNext := [], canq := [], t1sq := [], fdb := [], sas := [], capWin := [] }

/-- Switch off the domains of a mask, numbered as the bits of secure_power_hold; the pads of PD_GW, PD_COCK and PD_IO are held (R433). -/
def State.domainsDown (s : State) (mask : Nat) : State :=
  let going (d : Nat) : Bool := nbit mask d && !s.domOff d
  let s1 := if going 9 then s.gatewayDown.orObj (kPower 6) 1 else s
  let s1 := if going 8 then s1.cockpitDown.orObj (kPower 6) 2 else s1
  let s1 := if going 7 then s1.ioDown.orObj (kPower 6) 4 else s1
  let s1 := s1.forEach [0, 1, 2, 3] fun t c => if going (2 + c) then t.clusterDown c else t
  let s1 := if going 0 then s1.fabricDown else s1
  let s1 := if going 1 then s1.hostDown else s1
  let s1 := if going 6 || (nbit mask 6 && s.power.refresh) then s1.stacksDown else s1
  { s1 with domsOff := s1.domsOff ||| mask }

/-! ### The entry of a state (R428, R430) -/

/-- Domains that state `into` turns off (Table 1-4). -/
def offMask (into : Nat) : Nat := if into = 2 then 0xbf else 0x3ff

/-- Rails that stay powered in state `into` (Table 18-1). -/
def railMask (into : Nat) : Nat := if into = 2 then 0x703f else 0

/-- Freeze every instance that is not frozen, and remember it (R428). -/
def State.freezeAll (s : State) : State :=
  let ms := (List.range 16).filter fun m => decide (s.instState m = 1) || decide (s.instState m = 2) || decide (s.instState m = 5)
  let frozen := ms.map fun m => (m, s.instState m)
  let t := s.forEach ms fun s m => s.freezeInst m
  { t with power := { t.power with frozen := frozen } }

/-- Memory layers are disabled, presents that wait are dropped, pipes without layers show their fallback path (R317). -/
def State.layersOff (s : State) : State :=
  let s := s.forEach [0, 1, 2, 3] fun s p =>
    let s := s.forEach [0, 1, 2] fun s l => s.setObj (kPipe p (7 + 3 * l)) (setBit (s.obj (kPipe p (7 + 3 * l))) 63 false)
    if s.pipeState p = 1 then s.setN (kPipe p 0x13) 3 else s
  { s with garnet := { s.garnet with presents := [] } }

/-- TC10 sleep requests on the wake-enabled ports whose link is up; whether a handshake completes within 4 ms is a free value (R344). -/
def State.tc10 (s : State) : State :=
  s.forEach (List.range 8) fun s q =>
    if s.oBit (okey 0x6020 8) q ∧ s.objN (kNet q 2) = 1 then
      let s' := (s.emit (.tc10 q)).tookFree
      if bit s.freeNow 0 then s'.count (okey 0x6020 0xc) 32 else s'
    else s

/-- Before the PSRAM enters self-refresh the waiting records are written, and a copy-out that runs or is due ends, with a free outcome (R430). -/
def State.recorderRest (s : State) : State :=
  let s := s.forEach s.strataQ fun s _ => s.writeRecord
  let ends (s : State) : State := match s.copyJob with
    | some j => if s.fwRuns 0 then (s.tookFree).endCopy j (bit s.freeNow 0) else s
    | none => s
  let s := ends s
  if s.strataDirty && s.fwRuns 0 then ends s.startCopy else s

/-- The entry of Drowse (2), Sentry (3) or Off (4): its steps in order; the next tick of the clock completes it (R426, R428, R430, R432). -/
def State.enterState (s : State) (into : Nat) (secure : Bool) : State :=
  let s := if secure then s.setN kHold 0 else s
  let s := { s.setN kPending 0 with power := { s.power with phase := .entering into, wake := false, prev := s.powerState } }
  let s := (s.setN (kPower 1) 4).strataEvent 8
  let s := if s.domOff 0 then s else s.freezeAll
  let s := (s.failPass.layersOff).tc10
  let s := if 3 ≤ into then s.recorderRest else s
  let s := s.domainsDown (offMask into)
  let s : State := { s with power := { s.power with refresh := decide (into = 2) && !s.domOff 6 } }
  s.setN (kRail 1) (s.objN (kRail 1) &&& railMask into)

/-- Why a state cannot be entered now, 0 when it can (R428, R430). Whether released host cores have stopped since is a free value. -/
def State.entryRefusal (s : State) (into : Nat) : Nat :=
  if s.dead ∨ !s.powered then 0x000B
  else if into = 2 then
    if s.powerState = 3 ∨ ((List.range 12).any fun h => decide (1 ≤ h) && (s.host h).running && bit s.freeNow h) then 0x000B else 0
  else if (List.range 16).any fun m => s.instState m != 0 then 0x000B
  else if s.powerState = 3 ∧ into = 3 then 0x000B
  else 0

/-! ### Requests (R374-R376, R426) -/

/-- Whether the power core cannot take a request now: it restarts, or a state is being entered or left (R389, R426). -/
def State.powerBusy (s : State) : Bool := !s.fwRuns 1 || s.power.phase != .steady || decide (4 ≤ s.powerState)

/-- Whether the world map assigns any unit to the secure world (R374). -/
def State.secureUnits (s : State) : Bool := (List.range 6).any fun j => s.obj (okey 0x7401 (1 + j)) != 0#64

/-- A normal-world write that R374 refuses: it counts and is a security event. -/
def State.powerRefused (s : State) : State := (s.count (okey 0x7450 2) 32).securityEvent 0

/-- Take up a request that is not refused: held, put off, already met, or its entry begins (R375, R389, R426). -/
def State.takeRequest (s : State) (into : Nat) (secure : Bool) : State :=
  if !secure ∧ into ≤ 3 ∧ s.objN kHold &&& offMask into ≠ 0 then s.setN kPending (into - 1)
  else if s.powerBusy then { s.setN kPending 0 with power := { s.power with next := some (into, secure) } }
  else if into = 2 ∧ s.powerState = 2 then s.setN kPending 0
  else s.enterState into secure

/-- A write of power_request: 0 withdraws what waits; 2, 3 and 4 are refused, held, put off or begun (R374, R375, R426, R432). -/
def State.powerRequest (s : State) (secure : Bool) (code : Nat) : State × Nat :=
  if code = 0 then ({ s.setN kPending 0 with power := { s.power with next := none } }, 0)
  else if code = 4 ∧ !secure ∧ (s.objN kHold ≠ 0 ∨ s.secureUnits) then (s.powerRefused, 0x0004)
  else
    let e := s.entryRefusal code
    let t := if code = 2 then s.tookFree else s
    if e ≠ 0 then (t, e) else (t.takeRequest code secure, 0)

/-- The command that writes power_request: its error is latched in the state that it leaves. -/
def State.powerCommand (s : State) (src : Src) (code : Nat) : Result :=
  s.command src 0x7c00 2 (BitVec.ofNat 64 code) fun r s =>
    let x := s.powerRequest r.secure code
    .ok (if x.2 = 0 then x.1 else x.1.latch r.ctx x.2 0x7c00 2)

/-- POWER_REQUEST_ON (R375). -/
def execPowerRequestOn (src : Src) (s : State) : Result := s.powerCommand src 0
/-- POWER_REQUEST_DROWSE (R375, R428). -/
def execPowerRequestDrowse (src : Src) (s : State) : Result := s.powerCommand src 2
/-- POWER_REQUEST_SENTRY (R375, R430). -/
def execPowerRequestSentry (src : Src) (s : State) : Result := s.powerCommand src 3
/-- POWER_REQUEST_OFF (R374, R432). -/
def execPowerRequestOff (src : Src) (s : State) : Result := s.powerCommand src 4

/-- A request that waits begins, if nothing refuses it now; one that is refused is dropped. -/
def State.beginRequest (s : State) (into : Nat) (secure : Bool) : State :=
  let e := s.entryRefusal into
  let s := if into = 2 then s.tookFree else s
  if e = 0 then s.takeRequest into secure else s.setN kPending 0

/-- HELD_REQUEST_RELEASE (R375). -/
def execHeldRequestRelease (s : State) : Result :=
  let into := s.objN kPending + 1
  if s.objN kPending = 0 ∨ s.objN kHold &&& offMask into ≠ 0 then .next s else .next (s.beginRequest into false)

/-- A write of secure_power_hold: no bit is set between the start of an entry and On (R376). -/
def State.writeHold (s : State) (v : Word64) : Except Nat State :=
  if 2 ≤ s.powerState ∧ v &&& ~~~(s.obj kHold) ≠ 0#64 then .error 0x000B else .ok (s.setObj kHold v)

/-! ### Completion (R426, R432, R435) -/

/-- A transition is complete: its record, with a duration within its bound that is a free value (R426, Table 17-2). -/
def State.transitionDone (s : State) (from_ into bound : Nat) : State :=
  let d := s.freeNow.toNat % (bound + 1)
  ((s.setN (kPower 4) (from_ * 2 ^ 56 + into * 2 ^ 48 + d)).orObj (kPower 8) 1).tookFree

/-- The timebase stops with cadence and Lodestone, the power core rests (R22, R430). -/
def State.sentryRest (s : State) : State :=
  ({ s with tbRun := false, everLocked := false, cadDue := [], trig := [], lode := [], sel := none } : State).setN (kFw 1 1) 0

/-- The entry completes: a wake that came during it starts the exit at once, else a request that came begins (R426, R435); at Off the supply is asked to go (R432). -/
def State.entryDone (s : State) (into : Nat) : State :=
  let s := (s.transitionDone s.power.prev into (if into = 2 then 15000 else 40000)).setN (kPower 1) (if into = 4 then 4 else into)
  let s := if 3 ≤ into then s.sentryRest else s
  let s : State := { s with power := { s.power with phase := .steady, prev := into } }
  if into = 4 then { s.emit .pwroff with dead := true }
  else if s.power.wake then ({ s with power := { s.power with wake := false } } : State).setN (kPower 1) 5
  else s

/-- The start-up or exit completes: the device is On, and the island watchdog counts again (R402, R426). -/
def State.startDone (s : State) (from_ : Nat) : State :=
  let s := if from_ = 0 then s else (s.transitionDone from_ 0 (if from_ = 2 then 120000 else 180000)).setN (kPower 1) 0
  let s : State := { s with power := { s.power with phase := .steady, prev := 0 }, lastBeat := s.lastBeat.map fun _ => s.now }
  s.garnetRun

/-- The work of the power core that falls due at a tick: a phase completes, or a request that waits begins. -/
def State.powerTick (s : State) : State :=
  match s.power.phase with
  | .entering into => s.entryDone into
  | .starting from_ => s.startDone from_
  | .steady =>
    match s.power.next with
    | none => s
    | some (into, secure) =>
      if s.powerBusy then s else State.beginRequest { s with power := { s.power with next := none } } into secure

/-- One CLK_TB tick: the raw counter counts 1 while it runs (R55; log entry 7). -/
def State.clock (s : State) : State :=
  let s := s.powerTick
  if s.tbRun then { s with now := s.now + 1#64 } else s

/-! ### Wakes (R343, R434, R435) -/

/-- Code of a wake source as in sentry_listener, and its bit in wake_enable; the pin has neither. -/
def wakeCode : WakeSrc → Option (Nat × Nat)
  | .eth q => some (q, q)
  | .t1s i => some (0x10 + i, 8 + i)
  | .can c => some (0x20 + c, 10 + c)
  | .pin => none

/-- Whether a source wakes the device from Drowse (2) or Sentry (3). -/
def State.wakes (s : State) (w : WakeSrc) (from_ : Nat) : Bool :=
  match wakeCode w with
  | none => s.oBit (kPower 5) 0
  | some (code, b) => if from_ = 2 then s.oBit (okey 0x6020 8) b else decide (s.objN (okey 0x6020 9) = code)

/-- last_wake takes the source's code; that of the pin is a free value. -/
def State.wakeSeen (s : State) (w : WakeSrc) : State :=
  match wakeCode w with
  | some (code, _) => s.setN (okey 0x6020 0xb) code
  | none => (s.setN (okey 0x6020 0xb) (fld s.freeNow 15 0)).tookFree

/-- WAKE (R434, R435): in Drowse or Sentry the exit starts; during an entry the wake is noted and the entry goes on, and after PWROFF_N is to fall it has no effect. -/
def execWake (w : WakeSrc) (s : State) : Result :=
  if s.dead then .next s
  else match s.power.phase with
    | .entering into =>
      if !s.wakes w (if into = 2 then 2 else 3) then .next s
      else .next (({ s.wakeSeen w with power := { s.power with wake := decide (into ≠ 4) } } : State).orObj (kPower 8) 2)
    | _ =>
      if (s.powerState = 2 ∨ s.powerState = 3) ∧ s.wakes w s.powerState then
        .next (({ s.wakeSeen w with power := { s.power with prev := s.powerState } } : State).setN (kPower 1) 5)
      else .next s

/-! ### Idle (R427) -/

/-- IDLE_ENTRY (R427): with auto_idle, while no instance has work and no pass is in progress. -/
def execIdleEntry (s : State) : Result :=
  let works (m : Nat) : Bool := let x := s.inst m; !(x.runq.isEmpty && x.invs.isEmpty && x.saved.isEmpty && x.reruns.isEmpty)
  if s.powerState ≠ 0 ∨ s.power.phase ≠ .steady ∨ !s.powered ∨ s.dead ∨ !s.oBit (kPower 3) 0 ∨ s.domOff 0 ∨ s.garnet.started ∨ (List.range 16).any works
  then .next s else .next (s.setN (kPower 1) 1)

/-- IDLE_EXIT (R427): an interrupt, an inbound request, or an armed job entry within 4 µs of its due instant. -/
def execIdleExit (why : IdleWake) (s : State) : Result :=
  let due : Bool := match why with
    | .cadence e => s.cadEnabled e && decide (s.cadAction e = 1) && s.cadNext e != 0 && decide ((s.cadNext e : Int) ≤ s.netTime + 4000)
    | _ => true
  if s.powerState = 1 ∧ due then .next (s.setN (kPower 1) 0) else .next s

/-! ### Pads (R433) -/

/-- A write of pad_release: held pads of powered domains are released; enabled Twimi links of a released PD_IO train (R433). -/
def State.writePadRelease (s : State) (v : Word64) : Except Nat State :=
  if [0, 1, 2].any fun i => bit v i && s.domOff (9 - i) then .error 0x000B
  else
    let io := bit v 2 && s.oBit (kPower 6) 2
    let s := s.setObj (kPower 6) (s.obj (kPower 6) &&& ~~~v)
    .ok (if io then s.forEach [0, 1, 2] fun s l => if s.oBit (kLink l 1) 0 then s.setN (kLink l 2) 1 else s else s)

/-- PAD_RELEASE (R389, R433): refused while the power core restarts. -/
def execPadRelease (src : Src) (v : Word64) (s : State) : Result :=
  s.command src 0x7c00 7 v fun _ s => if s.fwRuns 1 then s.writePadRelease v else .error 0x000B

end Sys2Proof.Machine
end

