-- ==== Sys2Proof/Machine/Dvfs.lean ====
section
/-! DEFINITION. Operating points, throttling, the thermal trip, ageing and margin plans, and rail faults (R436-R440, R446, R451, R452). -/

namespace Sys2Proof.Machine

/-! ### Operating points (R436, R437, R446) -/

def kCl (c sub : Nat) : Nat := okey (0x7c10 + c) sub
def kMargin : Nat := okey 0x7c20 1
def State.clFreq (s : State) (c : Nat) : Nat := s.objN (kCl c 2)

/-- Base voltage of a cluster rail in mV: linear between the points of R446, rounded up to a multiple of 5 mV. -/
def baseVoltage (f : Nat) : Nat :=
  roundUp (if f ≤ 600 then 600 + (f - 200 + 4) / 5 else 680 + (f - 600 + 3) / 4) 5

/-- Offset of a domain of the margin plan in steps, in its order: clusters 0-3, PD_FAB, PD_HOST, Basalt (R440). -/
def State.marginSteps (s : State) (d : Nat) : Nat := leAt (s.dom kMargin) (8 * d) 1

/-- The point that the margin plan asks for cluster c in mV. -/
def State.ownVoltage (s : State) (c : Nat) : Nat := baseVoltage (s.clFreq c) + 5 * s.marginSteps c

/-- Set point of cluster c's rail: at most 150 mV below a neighbouring rail, whose own point may be raised in the same way (R437). -/
def State.clVoltage (s : State) (c : Nat) : Nat :=
  (List.range 4).foldl (fun v k => max v (s.ownVoltage k - 150 * (max c k - min c k))) (780 + 5 * s.marginSteps 4 - 150)

/-- Show the set points of all clusters. -/
def State.refreshVolts (s : State) : State := s.forEach (List.range 4) fun s c => s.setN (kCl c 3) (s.clVoltage c)

/-- Cluster c runs at a frequency: its rail, its neighbours' and the lead times follow (R244, R436, R437). -/
def State.setFreq (s : State) (c f : Nat) : State :=
  if s.clFreq c = f then s
  else
    let s : State := { s.setN (kCl c 2) f with power := { s.power with lastReturn := TMap.set (fun _ => 0#64) s.power.lastReturn c s.now } }
    s.refreshVolts.refreshLead

/-- A write of cl_freq_req: refused while the power core or the cluster's control core restarts and for a cluster with a pinned plan's core; a cluster that is throttled stays at most where it is (R436, Table 15-8). -/
def State.writeFreq (s : State) (c : Nat) (v : Word64) : Except Nat State :=
  let held := (List.range 16).any fun m => (s.inst m).plans.any fun p => p.2.pinned && (placedCores p.2.place).any fun n => decide (n / 4 = c)
  if !s.fwRuns 1 ∨ s.objN (kFw (3 + c) 1) = 3 ∨ held then .error 0x000B
  else
    let old := s.objN (kCl c 1)
    let s := s.setObj (kCl c 1) v
    if s.domOff (2 + c) then .ok s
    else .ok (s.setFreq c (if s.clFreq c < old then min (s.clFreq c) v.toNat else v.toNat))

/-- DVFS_REQUEST (R436). -/
def execDvfsRequest (src : Src) (c : Fin 4) (v : Word64) (s : State) : Result :=
  s.command src (0x7c10 + c) 1 v fun _ s => s.writeFreq c v

/-! ### Temperature (R437, R438) -/

/-- The hardware thermal trip: Granite and the stacks lose power; only a start-up from power-good brings them back (R438). -/
def State.thermalTrip (s : State) : State :=
  let s := (s.domainsDown 0x7f).orObj (kPower 8) 0x14
  { s.setN (kRail 1) (s.objN (kRail 1) &&& 0x3f) with dead := true, power := { s.power with hotSince := none } }

/-- THERMAL_TRIP (R438). -/
def execThermalTrip (s : State) : Result := .next (if s.powered then s.thermalTrip else s)

/-- Which throttles act on cluster c: gradient, junction, stack; each of the first two holds until its lower threshold is met (R437, R438). -/
def State.throttles (s : State) (t : List Rat) (c : Nat) : Bool × Bool × Bool :=
  let old := s.objN (kCl c 5)
  let mine := t.getD c 0
  let gap (k : Rat) : Bool := (List.range 4).any fun d => !s.domOff (2 + d) && decide (t.getD d 0 + k < mine)
  let limit := (f32 ((s.obj (kPower 9)).setWidth 32)).toRat
  (gap 25 || (nbit old 0 && gap 22), decide (limit < mine) || (nbit old 1 && decide (limit - 3 < mine)), s.power.hotSince.isSome)

/-- One throttle step of cluster c: 25 MHz down, 200 MHz at once for a stack, or 25 MHz back each 10 ms (R437, R438). -/
def State.throttleCluster (s : State) (t : List Rat) (c : Nat) : State :=
  let (g, j, k) := s.throttles t c
  let bits := g.toNat + 2 * j.toNat + 4 * k.toNat
  let s := s.setN (kCl c 5) bits
  let s := if bits = 0 then s else s.orObj (kPower 8) 4
  let f := s.clFreq c
  if k then s.setFreq c 200
  else if g || j then s.setFreq c (max 200 (f - 25))
  else if f < s.objN (kCl c 1) ∧ (TMap.get (fun _ => 0#64) s.power.lastReturn c).toNat + 10000000 ≤ s.nowN then s.setFreq c (min (s.objN (kCl c 1)) (f + 25))
  else s

/-- THROTTLE_STEP (R437, R438): the readings of the powered clusters, the trip, and each cluster's step; the power core steps while it runs, the trip is hardware. -/
def execThrottleStep (r : Temps) (s : State) : Result :=
  let up := (List.range 4).filter fun c => !s.domOff (2 + c)
  let s := s.forEach up fun s c => s.setN (kCl c 4) (r.cl.getD c 0#32).toNat
  let vals := (List.range 4).map fun c => f32 (r.cl.getD c 0#32)
  let t := vals.map FVal.toRat
  let hotLong : Bool := match s.power.hotSince with
    | some b => decide (b.toNat + 100000000 < s.nowN)
    | none => false
  if up.isEmpty ∨ up.any (fun c => !(vals.getD c .nan).isFin) then .next s
  else if hotLong ∨ up.any (fun c => decide ((125 : Rat) ≤ t.getD c 0)) then .next s.thermalTrip
  else if !s.fwRuns 1 then .next s
  else .next (s.forEach up fun s c => s.throttleCluster t c)

/-! ### Ageing (R439, R440) -/

/-- Power domain of each entry of the margin plan, as the bit of secure_power_hold; Basalt's rail is that of PD_GW. -/
def marginDomain (d : Nat) : Nat := if d < 4 then 2 + d else if d = 4 then 0 else if d = 5 then 1 else 9

/-- A measurement of one domain: its slack, and a step below 3 %; at the budget the advisory is raised (R440). -/
def State.measureDomain (s : State) (slack : List Nat) (d : Nat) : State :=
  if s.domOff (marginDomain d) then s
  else
    let x := slack.getD d 300
    let n := if x < 300 then min 20 (s.marginSteps d + 1) else s.marginSteps d
    let plan := slice (s.dom kMargin) 0 56
    let s := s.setDom kMargin (patch plan (8 * d) (leBytes 1 n ++ leBytes 2 x))
    if s.objN (okey 0x7c20 2) ≤ n ∧ !s.oBit (okey 0x7c20 3) d then (s.orObj (okey 0x7c20 3) (2 ^ d)).orObj (kPower 8) 8 else s

/-- Measure every powered domain and set the points anew (R439, R440). -/
def State.measure (s : State) (slack : List Nat) : State := (s.forEach (List.range 7) fun s d => s.measureDomain slack d).refreshVolts

/-- AGEING_MEASURE (R439, R440, Table 15-8): skipped while the power core restarts; it ends a requested measurement that has had its service slot. -/
def execAgeingMeasure (slack : List Nat) (s : State) : Result :=
  if !s.powered ∨ !s.fwRuns 1 then .next s
  else
    let s := s.measure slack
    match s.selfReq with
    | some (4, _) => .next (if fld (s.obj (kDiag 7)) 55 48 = 2 then s.endSelftest 0 else s)
    | _ => .next s

/-! ### Rails (R451, R452) -/

/-- A rail fault is counted and recorded; only a start-up from power-good brings the device back. -/
def State.railLost (s : State) (k : Nat) : State :=
  { (((s.count (kRail 2) 32).setN (kRail 3) k).setObj (kRail 4) s.now) with dead := true }

/-- RAIL_FAULT (R452): a rail of Granite or the stacks takes rails 6-14 with it, one of Basalt all of them, with held pads and trigger 0x0C. A fall within 100 µs of an AVSBus write to an AVS rail is ignored, and so is that of a rail that is not powered. -/
def execRailFault (k : Fin 15) (sinceAvs : Nat) (s : State) : Result :=
  let avs := (k : Nat) = 0 ∨ (6 ≤ (k : Nat) ∧ (k : Nat) ≤ 11)
  if !s.oBit (kRail 1) k ∨ (avs ∧ sinceAvs < 100000) then .next s
  else if 6 ≤ (k : Nat) then .next (((s.domainsDown 0x7f).setN (kRail 1) (s.objN (kRail 1) &&& 0x3f)).railLost k)
  else .next ((((s.domainsDown 0x3ff).setN (kRail 1) 0).railLost k).safeTrigger 0x0C 0 0)

/-- RAIL_ENABLE_TIMEOUT (R451): a start-up stops at the rail; every rail goes down, and processors that have not started show 4. -/
def execRailEnableTimeout (k : Fin 15) (s : State) : Result :=
  let rails := match s.power.phase with
    | .starting 2 => 0x0fc0
    | .starting _ => if s.identityValid then 0x7fff else 0x3f
    | _ => 0
  if !nbit rails k then .next s
  else
    let s := ((s.domainsDown 0x3ff).setN (kRail 1) 0).railLost k
    let s := s.forEach [2, 3, 4, 5, 6] fun s f => s.setN (kFw f 1) 4
    .next { s with power := { s.power with phase := .steady }, hosts := [] }

end Sys2Proof.Machine
end

