-- ==== Sys2Proof/Machine/Startup.lean ====
section
/-! DEFINITION. Start-up from power-good, service boot, the exits of Drowse and Sentry, and the fall of PWR_GOOD (R420-R425, R429, R431, R432). -/

namespace Sys2Proof.Machine

/-! ### Parts of a start-up -/

/-- The comparator test of a power-up of PD_FAB: Flint accepts AOPENs, or the first failing pair is recorded and trigger 0x08 raised (R232). -/
def State.comparatorTest (s : State) (fail : Option (Nat × Nat × Fin 2)) : State :=
  match fail with
  | none => { s.setN (okey 0x4400 5) 7 with flintOpen := true }
  | some (step, pair, c) =>
    let v := step % 256 * 2 ^ 24 + pair % 256 * 2 ^ 16 + 4 + (if c = 0 then 2 else 1)
    ({ s.setN (okey 0x4400 5) v with flintOpen := false } : State).safeTrigger 8 0 (v / 2 ^ 16)

/-- The scheduler and the cluster control cores start from their images (R381, R382). -/
def State.startGranite (s : State) : State :=
  let s := s.forEach [2, 3, 4, 5, 6] fun s f => s.startFw f
  if s.fwRuns 2 then s.schedStarted else s

/-- Cores of powered clusters idle, but for those that are withheld (R421). -/
def State.coresUp (s : State) : State :=
  s.forEach (List.range 16) fun s n =>
    if s.holder n < 16 then s else (s.setN (kCore n 0 1) (if s.oBit (okey 0x7c05 2) n then 5 else 0)).setN (kCore n 0 2) 0xff

/-- Switch on the domains of a mask. -/
def State.domainsUp (s : State) (mask : Nat) : State := { s with domsOff := s.domsOff &&& (0x3ff - mask) }

/-- PD_GW, PD_COCK and PD_IO are powered: PHYs, pipes, camera ports and links take their configuration (step 5 of Table 17-1). -/
def State.basaltUp (s : State) : State :=
  let s := (s.domainsUp 0x380).orObj (kRail 1) 0x3f
  let s := s.forEach [0, 1] fun s i => let v := s.obj (kT1s i 1)
    s.setN (kT1s i 4) (if !bit v 0 ∨ fld v 23 16 = 255 then 0 else if fld v 23 16 = 0 then 2 else 1)
  let s := s.forEach [0, 1, 2, 3] fun s p =>
    let s := s.setN (kPipe p 0x1b) (s.framePeriod p % 2 ^ 32)
    if s.oBit (kPipe p 1) 0 then s.startPipe p else s
  let s := s.forEach (List.range 16) fun s p => s.setN (kPort5 p 3) (s.oBit (kPort5 p 1) 0).toNat
  let s := s.forEach (List.range 16) fun s k => s.refreshCapSize k
  let s := s.forEach [0, 1, 2] fun s l => s.setN (kLink l 2) (s.oBit (kLink l 1) 0 && !s.oBit (kPower 6) 2).toNat
  { s with pcieRole := s.objN (kPcie 1) }

/-- Host core 0 starts at the entry of component 0x10, its payload at its load address, or does not (R382, R424). -/
def State.startHostImage (s : State) (a0 a1 : Nat) : State :=
  match s.takeImage 8 0x10 with
  | (s, none) => s.notStarted 0x10
  | (s, some bs) =>
    let s := s.wr (leAt bs 0x18 8) (slice bs 512 (payloadLen bs))
    s.startHost 0 (BitVec.ofNat 64 (leAt bs 0x20 8)) true a0 a1

/-- Granite and the stacks are powered: operating points, comparator test, firmware, cores, shares, ageing, the stacks and the host complex (steps 6-14 of Table 17-1). -/
def State.graniteUp (s : State) (env : StartEnv) (a0 a1 : Nat) : State :=
  let s := (s.domainsUp 0x7f).orObj (kRail 1) 0x7fc0
  let s := { s with ileave := s.objN (okey 0x5000 1), power := { s.power with refresh := false, hotSince := none, lastReturn := [] } }
  let s := s.forEach (List.range 4) fun s c => (s.setN (kCl c 2) (s.objN (kCl c 1))).setN (kCl c 5) 0
  let s := (s.measure env.slack).comparatorTest env.cmpFail
  let s := (s.coresUp.startGranite).refreshLead
  let s := s.forEach (List.range 4) fun s st => s.setN (kStack st 3) (f32ofRat (s.shrink st)).toNat
  (s.startHostImage a0 a1).garnetRun

/-- Steps 5-14 of Table 17-1; Granite stays off when the identity failed (R378). The stamps are when steps 9, 10, 12 and 14 were reached. -/
def State.bringUp (s : State) (env : StartEnv) (a0 a1 : Nat) : State :=
  let s := s.basaltUp
  let s := if s.identityValid then s.graniteUp env a0 a1 else s.measure env.slack
  s.forEach [1, 2, 3, 4] fun s k => s.setObj (okey 0x7c01 (1 + k)) (env.stamps.getD k 0#64)

/-- What survives a loss of power: flash. What waits to be commanded, what has left the device and the place in the free values belong to the model. -/
def State.unpowered (s : State) : State :=
  { State.reset with
    pending := s.pending, free := s.free, out := s.out
    mem := s.mem.filter fun c => decide (flashBase ≤ c.1) && decide (c.1 < flashBase + flashSize) }

/-- Step 2 of Table 17-1: the identity, or its failure with trigger 0x0B, whose code no component gives (R377, R378). -/
def State.deriveIdentity (s : State) (env : StartEnv) : State :=
  if env.identityOk then (s.setN (okey 0x7420 2) 1).setDom (okey 0x7420 1) (slice env.identityPub 0 133)
  else
    let s := (s.setN (okey 0x7420 2) 2).securityEvent 2
    (s.safeTrigger 0x0B 0 (fld s.freeNow 31 0)).tookFree

/-- The repair set and the cores withheld; persistent partitions are loaded without those cores (R421). -/
def State.repairs (s : State) (env : StartEnv) : State :=
  let key := okey 0x7c05 1
  let s := if s.dom key = env.repair then s else (s.setDom key env.repair).setN (okey 0x7c05 3) 1
  let s := s.setN (okey 0x7c05 2) env.withheld.toNat
  s.forEach (List.range 16) fun s p => s.clrObj (kPart p 1) env.withheld.toNat

/-- The safety island takes its image (R382). -/
def State.startIsland (s : State) : State :=
  match s.takeImage 7 5 with
  | (s, some _) => s.setN kIsland 2
  | (s, none) => (s.setN kIsland 4).notStarted 5

/-- PWR_GOOD has risen: pins sampled, timebase from zero, the safe state with cause 0x00, the Strata region restored (R399, R418, R420). -/
def State.powerOn (s : State) (env : StartEnv) : State :=
  let s : State := { s.unpowered with powered := true, tbRun := true, svcBoot := env.svcBoot }
  ((s.setN (okey 0x1000 4) env.devid.toNat).setN (kSafe 1) 1).strataRestore

/-- Service boot: no image from flash, Granite off, PCI Express an endpoint over the PSRAM (R425). -/
def State.serviceBoot (s : State) : State :=
  let s := (s.domainsUp 0x80).orObj (kRail 1) 0x3f
  { s with pcieRole := 2 }

/-- Start-up from power-good in the order of Table 17-1 (R420). The security core's image must start; the rest of the device goes on without a component that does not. The chunks of a diagnostic pass are not stated and are a free value. -/
def State.coldStart (s : State) (env : StartEnv) : State :=
  let s := (s.setObj (okey 0x7c01 1) (env.stamps.getD 0 0#64)).repairs env
  let s := s.deriveWorlds.startFw 0
  if !s.fwRuns 0 then { s with dead := true }
  else
    let s := (s.startFw 1).startIsland
    let s := (s.setN (kDiag 2) (fld s.freeNow 31 0)).setObj (kDiag 4) s.now
    let s := s.tookFree
    let a1 := s.freeNow.toNat
    let s := (s.tookFree).bringUp env 0 a1
    { s with power := { s.power with phase := .starting 0 } }

/-- POWER_GOOD_RISE (R420, R425). -/
def execPowerGoodRise (env : StartEnv) (s : State) : Result :=
  if s.powered then .next s
  else
    let s := ((s.powerOn env).deriveIdentity env).openStore
    .next (if env.svcBoot then s.serviceBoot else s.coldStart env)

/-- SVC_IMAGE_WRITE (R425): the length at BAR0; an image of component 0x01 and key class 0 that verifies runs as the security core's. -/
def execSvcImageWrite (len : Nat) (s : State) : Result :=
  if !s.powered ∨ !s.svcBoot ∨ s.fwRuns 0 ∨ 0x4000000 < len then .next s
  else
    let bs := s.rd psramBase len
    if leAt bs 0xc 1 = 0 ∧ s.imageOk 1 bs then
      let s := s.setFw 0 { s.fw 0 with announced := false, started := true, hash := slice bs 0x40 64, version := leAt bs 8 4, copy := 0 }
      .next (((s.setN (kFw 0 1) 2).setN (kFw 0 2) 1).setN (kFw 0 3) (leAt bs 8 4))
    else .next (s.securityEvent 1)

/-- POWER_GOOD_FALL (R432): the device stops at once; a flash write that ran leaves its target in any state. -/
def execPowerGoodFall (s : State) : Result :=
  if !s.powered then .next s
  else
    let s := match s.storeJob with
      | some j => (s.wr (copyBase j.copy) (s.freeBytes j.image.length)).tookFree j.image.length
      | none => s
    let s := match s.copyJob with
      | some j => (s.wr (copySlot j.slot) (s.freeBytes 0x51008)).tookFree 0x51008
      | none => s
    .next s.unpowered

/-! ### Exits (R424, R429, R431) -/

/-- Instances that the Drowse entry froze are thawed; an orphaned one is orphaned again (R429). -/
def State.thawAll (s : State) : State :=
  let t := s.forEach s.power.frozen fun s x =>
    if s.instState x.1 ≠ 3 then s
    else
      let s := s.thawInst x.1
      if x.2 = 5 then s.setN (kInst x.1 0 1) 5 else s
  { t with power := { t.power with frozen := [] } }

/-- The pass of diagnostics 6 and 7 restarts with a new interval (R429). -/
def State.restartPass (s : State) : State := State.setObj { s.setN (kDiag 3) 0 with overdue := false } (kDiag 4) s.now

/-- DROWSE_EXIT (R424, R429): Granite and PD_IO are powered, the stacks leave self-refresh with their contents. -/
def execDrowseExit (env : StartEnv) (s : State) : Result :=
  if s.powerState ≠ 5 ∨ s.power.prev ≠ 2 ∨ s.power.phase ≠ .steady ∨ s.dead then .next s
  else
    let s := (s.domainsUp 0x80).strataEvent 9
    let s := s.forEach [0, 1, 2] fun s l => s.setN (kLink l 2) (s.oBit (kLink l 1) 0 && !s.oBit (kPower 6) 2).toNat
    let s := { s with power := { s.power with phase := .starting 2, refresh := false } }
    if !s.identityValid then .next s
    else
      let s := ((s.domainsUp 0x3f).orObj (kRail 1) 0x0fc0).comparatorTest env.cmpFail
      let s := s.coresUp.startGranite
      let s := if s.schedUp then s.thawAll else s
      let s := (s.startHost 0 (s.host 0).pc true 1 2).restartPass
      .next s

/-- Objects of the units that were off take their values from the store copy in use, or their defaults (R431). -/
def State.reloadUnits (s : State) : State :=
  let t : State := { s with
    objs := s.objs.filter (fun x => (domainOf (x.1 / 256)).isNone)
    doms := s.doms.filter fun x => (domainOf (x.1 / 256)).isNone }
  let rs := match t.readCopy (s.objN (okey 0x1003 2)) with
    | some (_, rs) => rs
    | none => []
  let t := t.forEach rs fun t r =>
    match objRow? r.idx r.sub with
    | some row => if (domainOf r.idx).isSome && row.persistent && recFits row r then t.putRecord row r.idx r.sub r.v else t
    | none => t
  t.forEach (List.range 16) fun t p => t.clrObj (kPart p 1) (s.objN (okey 0x7c05 2))

/-- SENTRY_EXIT (R22, R413, R424, R431): the timebase from zero, both gPTP domains reacquired, the records of Sentry written, then steps 4-14 of Table 17-1. -/
def execSentryExit (env : StartEnv) (s : State) : Result :=
  if s.powerState ≠ 5 ∨ s.power.prev ≠ 3 ∨ s.power.phase ≠ .steady ∨ s.dead then .next s
  else
    let s : State := { s with now := 0#64, tbRun := true, wdHold := 0#64, gdom := [], everLocked := false, cadDue := [], insts := [] }
    let s := s.forEach [0, 1] fun s d => if s.domState d = 0 then s else s.setN (kDomState d) 1
    let s := s.forEach (List.range 1024) fun s e => if s.cad e 4 = 0#64 then s else s.setObj (kCad e 4) 0#64
    let s := s.reloadUnits.deriveWorlds.startFw 1
    let s := s.forEach s.strataQ fun s _ => s.writeRecord
    let s := (s.strataEvent 9).restartPass
    let s := s.bringUp env 2 3
    .next { s with power := { s.power with phase := .starting 3 } }

end Sys2Proof.Machine
end

