-- ==== Sys2Proof/Machine/ObjWrite.lean ====
section
/-! DEFINITION. What a write of each object does once the checks of R463 have passed, for the object window and for CXOP alike; window writes, set-point writes and the switch of the selected domain; the contents of DOMAINs and the start of a transfer (R29-R38, R59, R71, R463-R465). -/

namespace Sys2Proof.Machine

/-! ### Contents of a DOMAIN (R29, R386) -/

/-- A ledger entry as its 16 bytes (Table 9-2). -/
def LedgerEntry.bytes (e : LedgerEntry) : List Byte :=
  leBytes 4 (e.deadline % 2 ^ 20 + e.safety.toNat * 2 ^ 20 + e.broken.toNat * 2 ^ 21 + e.state % 4 * 2 ^ 22 + e.coreA % 16 * 2 ^ 24 + e.inst % 16 * 2 ^ 28)
    ++ leBytes 4 e.group.toNat ++ leBytes 8 e.sig.toNat

/-- Contents of a DOMAIN as a reader finds them: a WO DOMAIN is empty, the ledger and the Strata region show what they hold, a read of attestation forms a report (R29, R386). -/
def State.domContents (s : State) (c : Ctx) (idx sub : Nat) : Except Nat (State × List Byte) :=
  if idx = 0x7880 then (s.attest c).map fun t => (t, t.dom (okey idx sub))
  else if idx = 0x4401 then .ok (s, (List.range 4096).flatMap fun i => (s.entry i).bytes)
  else if idx = 0x7040 then .ok (s, s.rd strataBase 0x100000)
  else match objRow? idx sub with
    | some r => .ok (s, if r.acc = .wo then [] else s.dom (okey idx sub))
    | none => .ok (s, [])

/-! ### Transfers (R465) -/

/-- Memory that a window context reaches: an instance's engines' reach, what a normal-world HS-mode core can access, or every address; flash is only read, and registers and far devices are no memory. -/
def State.contextMay (s : State) (r : Requester) (a len : Nat) (wr : Bool) : Bool :=
  match r.role with
  | .inst m => s.engineMay m a len wr
  | role =>
    let all := decide (role = .secureFw)
    match unitOfRange a len with
    | some .stack | some (.alias_ _) => !s.domOff 6 && (all || !s.stackRefuses ⟨28, 0, 0#16, a, wr, len, [], false, .clean, false, false⟩)
    | some (.cmem _) | some (.lstore _) | some .psram | some .flash => s.inboundMay a len all wr
    | some (.mailbox m) => all || !s.instSecure m
    | some (.remote k) => decide (s.objN (kLink (k - 1) 2) = 2)
    | _ => false

/-- The index and subindex that xfer_target names. -/
def CtxSt.target (x : CtxSt) : Nat × Nat := (fld x.xferTarget 31 16, fld x.xferTarget 15 8)

/-- A transfer of a context runs. -/
def State.xferRuns (s : State) (c : Ctx) (x : Xfer) : State :=
  s.setCtx c { s.ctx c with xfer := some x, xferStatus := 1#64 }

/-- A command to copy the named DOMAIN: refused while a transfer runs or by the check of a read; the contents are taken now and move when the transfer ends (R465). -/
def State.startCopyOut (s : State) (r : Requester) : Except Nat State :=
  let x := s.ctx r.ctx
  let (idx, sub) := x.target
  let e := s.domReadCheck r idx sub
  if x.xfer.isSome then .error 0x000B
  else if e ≠ 0 then .error e
  else
    let buf := x.xferBuffer.toNat
    match s.domContents r.ctx idx sub with
    | .error e => .ok (s.xferRuns r.ctx ⟨false, okey idx sub, buf, [], e⟩)
    | .ok (t, bs) =>
      let bad := !t.contextMay r buf (8 + bs.length) true
      .ok (t.xferRuns r.ctx ⟨false, okey idx sub, buf, bs, if bad then 0x0003 else 0⟩)

/-- A command to load the named DOMAIN: checked as a write, the length at the header; the bytes are taken now and the DOMAIN takes them when the transfer ends (R465). -/
def State.startLoad (s : State) (r : Requester) : Except Nat State :=
  let x := s.ctx r.ctx
  let (idx, sub) := x.target
  let buf := x.xferBuffer.toNat
  let n := s.rdN buf 4
  let e := s.domWriteCheck r idx sub n
  if x.xfer.isSome then .error 0x000B
  else if e ≠ 0 ∧ e ≠ 0x0007 then .error e
  else
    let err := if !s.contextMay r buf 8 false then 0x0003 else if e ≠ 0 then e else if !s.contextMay r buf (8 + n) false then 0x0003 else 0
    .ok (s.xferRuns r.ctx ⟨true, okey idx sub, buf, if err = 0 then s.rd (buf + 8) n else [], err⟩)

/-- A write of xfer_command. -/
def State.xferCommand (s : State) (r : Requester) (v : Word64) : Except Nat State :=
  if v = 1#64 then s.startCopyOut r else s.startLoad r

/-- XFER_COPY (R465). -/
def execXferCopy (src : Src) (s : State) : Result := s.command src 0x1005 3 1#64 fun r s => s.startCopyOut r

/-- XFER_LOAD (R465). -/
def execXferLoad (src : Src) (s : State) : Result := s.command src 0x1005 3 2#64 fun r s => s.startLoad r

/-! ### Writes, unit by unit -/

/-- What a write leaves: the state and 0, or the error with a state that may show it. -/
abbrev Wrote := State × Nat

/-- A write that the unit may refuse. -/
def State.tried (s : State) (x : Except Nat State) : Wrote :=
  match x with
  | .ok t => (t, 0)
  | .error e => (s, e)

/-- The state that a command of its own leaves. -/
def State.stepped (s : State) (x : Result) : State :=
  match x with
  | .next t => t
  | _ => s

/-- Objects of the device-level range (R31, R32, R38, R47, R51, R465). -/
def State.writeDevice (s : State) (r : Requester) (idx sub : Nat) (v : Word64) : Wrote :=
  let x := s.ctx r.ctx
  if idx = 0x1004 then (s.setCtx r.ctx { x with windowStatus := 0#64 }, 0)
  else if idx = 0x1005 ∧ sub = 1 then (s.setCtx r.ctx { x with xferTarget := v }, 0)
  else if idx = 0x1005 ∧ sub = 2 then (s.setCtx r.ctx { x with xferBuffer := v }, 0)
  else if idx = 0x1005 then s.tried (s.xferCommand r v)
  else if idx = 0x1010 then s.tried s.storeStart
  else if idx = 0x1018 then s.tried ((s.receiveCommit r.ctx v 0#32).map (·.1))
  else if idx = 0x1024 ∧ sub = 1 then
    match r.ctx with
    | .session sid => (s.upSession sid fun y => { y with mask := v.setWidth 32 }, 0)
    | _ => (s, 0)
  else (s.plainWrite idx sub v, 0)

/-- Objects of the timebase, cadence and Lodestone (R59, R71). -/
def State.writeTime (s : State) (idx sub : Nat) (v : Word64) : Wrote :=
  if idx = 0x2000 ∧ sub = 2 then (s.selectDomain v.toNat, 0)
  else if 0x2400 ≤ idx ∧ idx < 0x2440 ∧ (idx - 0x2400) % 8 = 0 ∧ sub = 0xc then (s.setpoint ((idx - 0x2400) / 8) v, 0)
  else (s.plainWrite idx sub v, 0)

/-- Whether a capture set's camera sources have the world of its owner (R366). -/
def State.capWorlds (s : State) (k : Nat) : Bool :=
  (List.range 16).all fun i =>
    let w := s.capSource k i
    fld w 63 62 != 1 || s.secureIndex (0x5420 + fld w 47 32) == s.instSecure (s.capOwner k)

/-- Objects of a capture set: worlds under R366, the ring's start in the owner's range, and slot_size after each change (Table 9-5). -/
def State.writeCapture (s : State) (k sub : Nat) (v : Word64) : Wrote :=
  let t := (s.setObj (kCap k sub) v).refreshCapSize k
  if sub = 0x12 then
    let m := s.capOwner k
    let base := (s.inst m).stackBase
    if s.instState m = 0 ∨ v.toNat < base ∨ base + s.objN (kInst m 1 4) ≤ v.toNat then (s, 0x0007) else (t, 0)
  else if t.capWorlds k then (t, 0) else (s, 0x0004)

/-- A written inst_command runs the command that it names; what was carved for a creation or a restore is not stated and is free. -/
def State.writeInstCommand (s : State) (src : Src) (m : Fin 16) (v : Word64) : State :=
  let arg := v.setWidth 56
  let f (k : Nat) : Nat := (Config.freeValue (s.free + k)).toNat
  let carve : Carve := ⟨f 0, f 1, f 2, f 3, f 4⟩
  match v.toNat / 2 ^ 56 with
  | 1 => (s.tookFree 5).stepped (execInstCreate src m arg carve (s.tookFree 5))
  | 2 => s.stepped (execInstDestroy src m arg s)
  | 3 => s.stepped (execInstFreeze src m arg s)
  | 4 => s.stepped (execInstThaw src m arg s)
  | 5 => s.stepped (execInstSaveImage src m arg s)
  | 6 => (s.tookFree 5).stepped (execInstRestoreImage src m arg carve (s.tookFree 5))
  | 7 => s.stepped (execInstRecover src m arg s)
  | _ => s.stepped (execInstOrphan src m arg s)

/-- Objects of an instance's block (R178, R255, R256, Tables 7-9, 10-8). -/
def State.writeInstance (s : State) (src : Src) (m : Fin 16) (idx sub : Nat) (v : Word64) : Wrote :=
  if freeOnly idx sub ∧ s.instState m ≠ 0 then (s, 0x000B)
  else match instOff idx with
    | some (0, _) => if sub = 2 then (s.writeInstCommand src m v, 0) else (s.plainWrite idx sub v, 0)
    | some (3, _) => if sub = 0xa then (s.zeroAccounts m, 0) else (s.plainWrite idx sub v, 0)
    | some (0x30, _) =>
      if sub = 2 then (s.kvCommand m v.toNat, 0)
      else if !(s.liveCaches m).isEmpty then (s, 0x000B)
      else (s.plainWrite idx sub v, 0)
    | _ => (s.plainWrite idx sub v, 0)

/-- Objects of cores, clusters, Placer, ledger, scheduler (R95, R202, R281). -/
def State.writeGranite (s : State) (src : Src) (idx sub : Nat) (v : Word64) : Wrote :=
  if 0x3000 ≤ idx ∧ idx < 0x4000 ∧ idx % 0x100 = 1 ∧ sub = 2 then (s.setObj (kSr ((idx - 0x3000) / 0x100)) (srLoad v), 0)
  else if 0x4200 ≤ idx ∧ idx < 0x4300 ∧ sub = 0xa then s.tried (s.writeReplace ((idx - 0x4200) / 0x10) v)
  else if 0x4500 ≤ idx ∧ idx < 0x4600 then s.writeCapture (idx - 0x4500) sub v
  else match instOff idx with
    | some (_, m) => s.writeInstance src (Fin.ofNat 16 m) idx sub v
    | none => if idx = 0x4c00 then s.tried (s.writePreempt v) else (s.plainWrite idx sub v, 0)

/-- Objects of the stacks and the regulator (R281, R283). -/
def State.writeStacks (s : State) (idx sub : Nat) (v : Word64) : Wrote :=
  if idx = 0x5000 ∧ sub = 4 then s.tried (s.writeSafetyClasses v)
  else if 0x5100 ≤ idx ∧ sub = 1 then s.tried (s.writeGuarantee (idx - 0x5100) v)
  else ((s.plainWrite idx sub v).reshare s, 0)

/-- Objects of the camera ports and streams (R288, R289; Tables 12-2, 12-3). A ring that a stream's enabling carves lies where the device places it, a free value here. -/
def State.writeSensor (s : State) (idx sub : Nat) (v : Word64) : Wrote :=
  if idx < 0x5420 then
    let p := idx - 0x5400
    if s.portBusy p then (s, 0x000B)
    else
      let t := s.setObj (kPort5 p sub) v
      if sub = 1 ∧ bit v 0 != s.oBit (kPort5 p 1) 0 then (t.setN (kPort5 p 3) (bit v 0).toNat, 0) else (t, 0)
  else
    let st := idx - 0x5420
    if sub = 1 then s.tookFree.tried (s.tookFree.writeStreamConfig st v s.freeNow.toNat)
    else if sub = 2 ∧ scEnable (s.streamCfg st) then (s, 0x000B)
    else (s.plainWrite idx sub v, 0)

/-- Objects of Garnet and the pipes that are not committed (R298, R308, R319). -/
def State.writeGraphics (s : State) (idx sub : Nat) (v : Word64) : Wrote :=
  if idx = 0x5800 then
    if sub = 2 then s.tried (s.writeGfxInst v)
    else if sub = 6 then s.tried (s.writeRingTail v)
    else if sub = 8 then (s.plainWrite idx sub v, 0)
    else s.tried (s.writeGarnet sub v)
  else if 0x5840 ≤ idx ∧ idx < 0x5844 ∧ sub = 0x12 then (s.writeResume (idx - 0x5840), 0)
  else (s.plainWrite idx sub v, 0)

/-- A write of port_config: a port that is disabled takes its link down (R328). -/
def State.writePort (s : State) (q : Fin 12) (v : Word64) : State :=
  let down := (q : Nat) < 8 ∧ !bit v 0 ∧ s.objN (kNet q 2) = 1
  let s := s.setObj (kNet q 1) v
  if down then s.linkDown q else s

/-- A write of can_config: a controller that is enabled begins error-active, one that is disabled drops its queue and closes its sessions (R44, R340). -/
def State.writeCan (s : State) (c : Fin 8) (v : Word64) : State :=
  let was := s.oBit (kCan c 1) 0
  let s := s.setObj (kCan c 1) v
  if bit v 0 && !was then State.canRecover { s with canOff := TMap.set (fun _ => []) s.canOff c [] } c
  else if !bit v 0 && was then (s.setCanQueue c []).closeLink (.can c)
  else s

/-- Objects of the network gateway (R327, R332, R336, R340). -/
def State.writeNetwork (s : State) (idx sub : Nat) (v : Word64) : Wrote :=
  if idx < 0x600c ∧ sub = 1 then (s.writePort (Fin.ofNat 12 (idx - 0x6000)) v, 0)
  else if 0x6030 ≤ idx ∧ idx < 0x6040 ∧ sub = 3 then (s.writeTxTail ((idx - 0x6030) / 8) ((idx - 0x6030) % 8) v, 0)
  else if 0x6030 ≤ idx ∧ idx < 0x6040 ∧ sub = 7 then
    let k (j : Nat) : Nat := kRing ((idx - 0x6030) / 8) ((idx - 0x6030) % 8) j
    (s.setN (k 7) (v.toNat % max (s.objN (k 6)) 1), 0)
  else if 0x6040 ≤ idx ∧ idx < 0x604c ∧ sub = 0x42 then s.tried (s.writeTsRead (idx - 0x6040) v)
  else if 0x6200 ≤ idx ∧ idx < 0x6202 ∧ sub = 1 then (s.writeT1s (idx - 0x6200) v, 0)
  else if 0x6210 ≤ idx ∧ idx < 0x6218 ∧ sub = 1 then (s.writeCan (Fin.ofNat 8 (idx - 0x6210)) v, 0)
  else if 0x6210 ≤ idx ∧ idx < 0x6218 ∧ sub = 9 then (s.writeRestart (idx - 0x6210), 0)
  else (s.plainWrite idx sub v, 0)

/-- Objects of Feldspar and Twimi (R357, R358). -/
def State.writeLinks (s : State) (idx sub : Nat) (v : Word64) : Wrote :=
  if idx = 0x6401 then (s.writePweClear v, 0)
  else if 0x6480 ≤ idx ∧ sub = 1 then (s.writeLinkConfig (idx - 0x6480) v, 0)
  else (s.plainWrite idx sub v, 0)

/-- Objects of safety and Strata (R397, R399, R407, R414-R417). -/
def State.writeSafety (s : State) (idx sub : Nat) (v : Word64) : Wrote :=
  if idx = 0x7000 ∧ sub = 4 then s.tried s.writeSafeExit
  else if idx = 0x7000 ∧ sub = 5 then (s.writeSafeRequest, 0)
  else if idx = 0x7010 ∧ sub = 6 then s.tried (s.writeSelftest v)
  else if idx = 0x7040 ∧ sub = 5 then (s.writeStrataClear, 0)
  else if idx = 0x7040 ∧ sub = 6 then s.tried s.writeCopyout
  else if idx = 0x7040 ∧ sub = 0xa then (s.strataEvent 12, 0)
  else if 0x7020 ≤ idx ∧ idx < 0x7028 ∧ sub = 1 then ((s.plainWrite idx sub v).setGolden (idx - 0x7020) 0, 0)
  else (s.plainWrite idx sub v, 0)

/-- Objects of worlds, security and the firmware processors (R376, R382, R385, R390). -/
def State.writeSecurity (s : State) (idx sub : Nat) (v : Word64) : Wrote :=
  if idx = 0x7403 then (s.writeHostRelease v, 0)
  else if idx = 0x7440 then s.tried (s.writeRollback v)
  else if idx = 0x7450 then s.tried (s.writeHold v)
  else if 0x7800 ≤ idx ∧ idx < 0x7807 ∧ sub = 5 then (s.writeFwRestart (idx - 0x7800), 0)
  else (s.plainWrite idx sub v, 0)

/-- Objects of power, ageing, EMC and rails: refused while the power core restarts but for requests, which wait; banks 1 and 2 have no slew setting 0 (R389, R426, R433, R436, R455). -/
def State.writePower (s : State) (r : Requester) (idx sub : Nat) (v : Word64) : Wrote :=
  if idx = 0x7c00 ∧ sub = 2 then s.powerRequest r.secure v.toNat
  else if !s.fwRuns 1 then (s, 0x000B)
  else if idx = 0x7c00 ∧ sub = 7 then s.tried (s.writePadRelease v)
  else if 0x7c10 ≤ idx ∧ idx < 0x7c14 then s.tried (s.writeFreq (idx - 0x7c10) v)
  else if idx = 0x7c40 ∧ (sub = 2 ∨ sub = 3) ∧ v = 0#64 then (s, 0x0007)
  else (s.plainWrite idx sub v, 0)

/-- A write that has passed the checks of R463, of an object that is not committed. -/
def State.applyWrite (s : State) (src : Src) (r : Requester) (idx sub : Nat) (v : Word64) : Wrote :=
  if (objRow? idx sub).isNone then (s, 0)
  else if idx < 0x2000 then s.writeDevice r idx sub v
  else if idx < 0x3000 then s.writeTime idx sub v
  else if idx < 0x5000 then s.writeGranite src idx sub v
  else if idx < 0x5400 then s.writeStacks idx sub v
  else if idx < 0x5800 then s.writeSensor idx sub v
  else if idx < 0x6000 then s.writeGraphics idx sub v
  else if idx < 0x6400 then s.writeNetwork idx sub v
  else if idx < 0x7000 then s.writeLinks idx sub v
  else if idx < 0x7400 then s.writeSafety idx sub v
  else if idx < 0x7c00 then s.writeSecurity idx sub v
  else s.writePower r idx sub v

/-- A write of one object after steps 1-5 of R463: staged when it is committed, else done at once (R31, R32, R362). -/
def State.writeObj (s : State) (src : Src) (r : Requester) (idx sub : Nat) (v : Word64) : Wrote :=
  match objRow? idx sub with
  | some row =>
    if row.acc = .rwc then
      if s.worldField r idx sub v then (s, 0x0003) else s.tried (s.stage r.ctx ⟨okey idx sub, v, []⟩)
    else s.applyWrite src r idx sub v
  | none => (s, 0)

/-! ### Commands -/

/-- WINDOW_WRITE (R30-R32, R36-R38, R463, R464): one aligned 8-byte write; any other access completes under R16. -/
def execWindowWrite (src : Src) (addr size : Nat) (v : Word64) (s : State) : Result :=
  if addr < 0xf800000000 ∨ 0xf808000000 ≤ addr then .fault .illFormed
  else if size ≠ 8 ∨ addr % 8 ≠ 0 then .next (s.refuseAccess src addr)
  else
    let idx := (addr - 0xf800000000) / 0x800
    let sub := (addr - 0xf800000000) % 0x800 / 8
    s.command src idx sub v fun r s =>
      let x := s.writeObj src r idx sub v
      .ok (if x.2 = 0 then x.1 else x.1.latch r.ctx x.2 idx sub)

/-- DOMAIN_SWITCH (R59). -/
def execDomainSwitch (src : Src) (v : Word64) (s : State) : Result :=
  s.command src 0x2000 2 v fun _ s => .ok (s.selectDomain v.toNat)

/-- SETPOINT_WRITE (R71). -/
def execSetpointWrite (src : Src) (n : Fin 8) (v : Word64) (s : State) : Result :=
  s.command src (0x2400 + 8 * n) 0xc v fun _ s => .ok (s.setpoint n v)

end Sys2Proof.Machine
end

