-- ==== Sys2Proof/Machine/Transfer.lean ====
section
/-! DEFINITION. What a DOMAIN's whole value does when it has arrived, the load of a configuration image, and the end of a transfer (R29, R51, R465). -/

namespace Sys2Proof.Machine

/-! ### A configuration image (R51) -/

/-- The records of an image in the layout of Table 2-7, if it is whole and signed with an integrator configuration key (R51). -/
def State.imageRecords (s : State) (bs : List Byte) : Option (List Rec) :=
  let l := leAt bs 8 4
  if slice bs 0 4 ≠ storeMagic ∨ l < 32 ∨ l % 8 ≠ 0 ∨ maxImage < l ∨ bs.length < l + 140 then none
  else match parseRecords l (slice bs 32 (l - 32)) with
    | none => none
    | some rs => if recsAscend rs && crcAt bs l && sigAt (s.keysOf 8) bs l then some (rs.filter fun r => r.idx != 0xffff) else none

/-- Whether a record can be an entry of the image's commit: a persistent object outside the sealed range that is not locked, and a value that fits it. -/
def State.imageRecordOk (s : State) (r : Rec) : Bool :=
  match objRow? r.idx r.sub with
  | none => false
  | some row => row.persistent && !sealedRange r.idx && recFits row r && !s.locked row r.idx r.sub

/-- The staged entry that a record makes. -/
def Rec.staged (r : Rec) (row : ObjRow) : Staged :=
  if row.ty = .domain then ⟨okey r.idx r.sub, 0#64, r.v⟩ else ⟨okey r.idx r.sub, recValue row.ty r.v, []⟩

/-- Apply one record of an object that is not committed. -/
def State.imageRecord (s : State) (rq : Requester) (x : Wrote) (r : Rec) : Wrote :=
  if x.2 ≠ 0 then x
  else match objRow? r.idx r.sub with
    | none => (s, 0x0009)
    | some row =>
      if row.ty = .domain then (x.1.setDom (okey r.idx r.sub) r.v, 0)
      else x.1.applyWrite (.fw 0) rq r.idx r.sub (recValue row.ty r.v)

/-- CONFIG_IMAGE_LOAD (R51): verified, applied as one commit, then stored; a record that fails leaves everything as it was. -/
def State.configLoad (s : State) (c : Ctx) (bs : List Byte) : Wrote :=
  if s.storeJob.isSome || !s.fwRuns 0 then (s, 0x000B)
  else match s.imageRecords bs with
    | none => (s, 0x0013)
    | some rs =>
      if !rs.all s.imageRecordOk then (s, 0x0009)
      else
        let rwc (r : Rec) : Option ObjRow := (objRow? r.idx r.sub).filter fun row => row.acc = .rwc
        let rq : Requester := ⟨.secureFw, true, c⟩
        let t := (rs.filter fun r => (rwc r).isNone).foldl (fun x r => s.imageRecord rq x r) (s, 0)
        if t.2 ≠ 0 then (s, 0x0009)
        else match t.1.applySet rq (rs.filterMap fun r => (rwc r).map r.staged) with
          | .error _ => (s, 0x0009)
          | .ok u => match u.storeStart with
            | .error e => (s, e)
            | .ok v => (v, 0)

/-- CONFIG_IMAGE_LOAD (R51). -/
def execConfigImageLoad (src : Src) (image : List Byte) (s : State) : Result :=
  match s.requester src with
  | none => .next (s.emit (.refused src 0x1012 1 0x0003))
  | some r =>
    let e := s.domWriteCheck r 0x1012 1 image.length
    if e ≠ 0 then .next (s.emit (.refused src 0x1012 1 e))
    else
      let x := s.configLoad r.ctx image
      .next (if x.2 = 0 then x.1 else x.1.emit (.refused src 0x1012 1 x.2))

/-! ### A DOMAIN's value (R29) -/

/-- Install a MACsec secure association on port q: it takes the place of an earlier one of its secure channel, number and direction (Table 13-4). -/
def State.saInstall (s : State) (q : Nat) (bs : List Byte) : Wrote :=
  if 16 ≤ leAt bs 0 1 ∨ 4 ≤ leAt bs 1 1 ∨ 2 ≤ leAt bs 2 1 then (s, 0x0007)
  else ({ s with sas := (s.sas.filter fun x => x.1 != q || slice x.2 0 3 != slice bs 0 3) ++ [(q, bs)] }, 0)

/-- A DOMAIN takes its whole value, after the checks of R463: staged, a command of its own, or stored (R29, R31, R465). -/
def State.putDomain (s : State) (r : Requester) (idx sub : Nat) (bs : List Byte) : Wrote :=
  match objRow? idx sub with
  | none => (s, 0x0002)
  | some row =>
    if row.acc = .rwc then s.tried (s.stage r.ctx ⟨okey idx sub, 0#64, bs⟩)
    else if idx = 0x1012 then s.configLoad r.ctx bs
    else if idx = 0x7808 then s.tookFree.fwUpdate bs (bit s.freeNow 0)
    else if 0x6070 ≤ idx ∧ idx < 0x607c then s.saInstall (idx - 0x6070) bs
    else match instOff idx with
      | some (_, m) => if freeOnly idx sub ∧ s.instState m ≠ 0 then (s, 0x000B) else (s.setDom (okey idx sub) bs, 0)
      | none => (s.setDom (okey idx sub) bs, 0)

/-! ### The end of a transfer (R465) -/

/-- A transfer's bytes reach its buffer; those for a joined device leave over their link (R17). -/
def State.deliver (s : State) (a : Nat) (bs : List Byte) : State :=
  match unitOf a with
  | some (.remote k) => s.emit (.remoteWrite k (a % 0x10000000000) bs)
  | _ => s.wr a bs

/-- What a transfer has done when it ends: a copy writes its header and bytes, a load gives the DOMAIN its value. -/
def State.xferEffect (s : State) (c : Ctx) (x : Xfer) : Wrote :=
  if x.err ≠ 0 then (s, x.err)
  else if x.load then s.putDomain (s.ctxRequester c) (x.key / 256) (x.key % 256) x.bytes
  else (s.deliver x.buf (leBytes 4 x.bytes.length ++ leBytes 4 0 ++ x.bytes), 0)

/-- XFER_END (R465). -/
def execXferEnd (ctx : Ctx) (s : State) : Result :=
  match (s.ctx ctx).xfer with
  | none => .next s
  | some x =>
    let y := s.xferEffect ctx x
    .next (y.1.setCtx ctx { y.1.ctx ctx with xfer := none, xferStatus := if y.2 = 0 then 2#64 else BitVec.ofNat 64 (y.2 * 2 ^ 16 + 3) })

end Sys2Proof.Machine
end

