-- ==== Sys2Proof/Machine/Cxop.lean ====
section
/-! DEFINITION. The Chetex Object Protocol: what is dropped, sessions and their authentication, reads, writes, blocks, commits, subscriptions and publications (R39-R47, R54, R463, R466, R467). -/

namespace Sys2Proof.Machine

/-! ### Arrival (R40, R466) -/

/-- Whether the request comes over a link that works: a port that is up, a CAN controller that carries CXOP (R40, R341). -/
def State.cxArrives (s : State) (r : CxReq) : Bool :=
  match r.link with
  | .eth q => s.portUp q
  | .can c => s.canUp c && s.oBit (okey 0x1021 1) c && decide (r.vlan = s.objN (okey 0x1021 2))

/-- Whether a PDU is answered: it is protected, on the control VLAN, and its header can be relied on (R40, R466). -/
def State.cxReliable (s : State) (r : CxReq) : Bool :=
  r.authentic && decide (r.version = 1) && decide (r.kind < 0x80) && decide (r.flags.toNat < 4)
    && decide (r.payloadLen ≤ 1484) && decide (r.payloadLen = r.payload.length)
    && match r.link with
       | .eth _ => decide (r.vlan = s.objN (okey 0x1020 1))
       | .can _ => true

/-- The request kinds of Table 2-5 that have a command of their own. -/
def requestKinds : List Nat := [1, 2, 3, 4, 5, 6, 9, 10, 11]

/-- An answer to a request: kind with bit 7, the request's sequence (R39, R41). -/
def State.answer (s : State) (r : CxReq) (sid status : Nat) (payload : List Byte) : State :=
  s.emit (.cxop sid (0x80 + r.kind) s.pduFlags r.seq status 0 payload)

/-- A request that passes the header tests: what `body` makes of it, or the answer to a kind that no request has. A PDU of another command's kind is not this command (R40, R466). -/
def State.cxReceive (s : State) (r : CxReq) (kind : Nat) (body : State → State) : Result :=
  if !s.cxArrives r ∨ (r.kind ≠ kind ∧ requestKinds.contains r.kind) then .next s
  else if !s.cxReliable r then .next (s.count (okey 0x1022 4) 32)
  else .next (body s)

/-- The request's sequence is accepted: the session has been used (R44). -/
def Session.accept (seq : Nat) (now : Word64) (x : Session) : Session := { x with highSeq := seq, lastUsed := now }

/-- A request of a session: 0x000C without one that is proved, dropped when it replays, else handled once; PUBLISH, NOTICE and unassigned kinds have their error (R41, R44, R466). -/
def State.cxSession (s : State) (r : CxReq) (kind : Nat) (unproved : Bool) (body : Session → State → State) : State :=
  match s.session? r.session with
  | none => s.answer r r.session 0x000C []
  | some x =>
    if !x.proved && !unproved then s.answer r r.session 0x000C []
    else if r.seq ≤ x.highSeq then (s.count (okey 0x1022 3) 32).orObj (okey 0x1002 1) 0x20
    else
      let s := s.upSession r.session (Session.accept r.seq s.now)
      if r.kind = kind then body x s
      else s.answer r r.session (if r.kind = 7 ∨ r.kind = 8 then 0x000E else 0x000D) []

/-- A request of a proved session, with its requester. -/
def State.cxRequest (s : State) (r : CxReq) (kind : Nat) (body : Requester → State → State) : Result :=
  s.cxReceive r kind fun s => s.cxSession r kind false fun _ s => body (s.ctxRequester (.session r.session)) s

/-- A request whose payload does not fit its kind (R466). -/
def State.malformed (s : State) (r : CxReq) : State := s.answer r r.session 0x000D []

/-! ### Reading (R42, R467) -/

/-- References of a payload, if it is whole and every count lies in 1-32. -/
def parseRefs (limit : Nat) (bs : List Byte) : Option (List Ref) :=
  let rs := (records 4 bs).map fun b => Ref.mk (leAt b 0 2) (leAt b 2 1) (leAt b 3 1)
  if bs.length % 4 = 0 ∧ rs.length ≤ limit ∧ (rs.all fun f => decide (1 ≤ f.count) && decide (f.count ≤ 32)) then some rs else none

/-- One reference as read: its header with the status of the lowest subindex that fails, then its values (R467). -/
def State.refBytes (s : State) (r : Requester) (f : Ref) : List Byte :=
  let vs := (List.range f.count).map fun k => s.readObj r f.index (f.sub + k)
  let status := ((vs.find? fun v => v.1 != 0).map (·.1)).getD 0
  leBytes 2 f.index ++ leBytes 1 f.sub ++ leBytes 1 f.count ++ leBytes 2 status ++ leBytes 2 0 ++ vs.flatMap fun v => leBytes 8 v.2.toNat

/-- Distribute whole items over segments of at most 1,484 bytes, each beginning with `head` (R42). -/
def segments (head : List Byte) : List Byte → List (List Byte) → List (List Byte)
  | cur, [] => [cur]
  | cur, it :: l =>
    if 1484 < cur.length + it.length ∧ head.length < cur.length then cur :: segments head (head ++ it) l else segments head (cur ++ it) l

/-- Send the segments of one message in order, with flag bit 1 on all but the last (R42). -/
def State.sendSegs (s : State) (sid kind seq : Nat) (segs : List (List Byte)) : State :=
  s.forEach segs.zipIdx fun s x => s.emit (.cxop sid kind (s.pduFlags + if x.2 + 1 < segs.length then 2 else 0) seq 0 x.2 x.1)

/-- READ (R41, R42, R467). -/
def execRead (r : CxReq) (s : State) : Result :=
  s.cxRequest r 1 fun rq s =>
    match parseRefs 64 r.payload with
    | none => s.malformed r
    | some fs => s.sendSegs r.session 0x81 r.seq (segments [] [] (fs.map (s.refBytes rq)))

/-! ### Writing (R41, R463) -/

/-- One item of a WRITE: the checks of R463 with the type code at step 5, then the write. -/
def State.writeItem (s : State) (rq : Requester) (sid idx sub ty : Nat) (v : Word64) : Wrote :=
  let e := s.access rq idx sub true
  if e ≠ 0 then (s, e)
  else
    let e := s.writeCheck idx sub v
    if e = 0x0015 ∨ e = 0x0005 then (s, e)
    else if (objRow? idx sub).any fun row => row.ty.code != ty then (s, 0x0006)
    else if e ≠ 0 then (s, e)
    else s.writeObj (.cxop sid) rq idx sub v

/-- WRITE (R41, Table 2-5): items one after another, each with its own status. -/
def execWrite (r : CxReq) (s : State) : Result :=
  s.cxRequest r 2 fun rq s =>
    let items := records 16 r.payload
    if r.payload.length % 16 ≠ 0 ∨ 64 < items.length ∨ items.any fun b => decide (leAt b 4 4 ≠ 0) then s.malformed r
    else
      let x := items.foldl (fun (x : State × List Byte) b =>
        let w := x.1.writeItem rq r.session (leAt b 0 2) (leAt b 2 1) (leAt b 3 1) (BitVec.ofNat 64 (leAt b 8 8))
        (w.1, x.2 ++ slice b 0 3 ++ leBytes 1 0 ++ leBytes 2 w.2 ++ leBytes 2 0)) (s, [])
      x.1.answer r r.session 0 x.2

/-! ### Blocks (R29, R41) -/

/-- Contents of a DOMAIN from an offset on: a report of attestation is formed at offset 0 and stays for the offsets that follow (R386). -/
def State.blockContents (s : State) (rq : Requester) (idx sub off : Nat) : Except Nat (State × List Byte) :=
  let e := s.domReadCheck rq idx sub
  if e ≠ 0 then .error e
  else match s.domContents rq.ctx idx sub with
    | .error e => .error e
    | .ok (t, bs) =>
      let x : State × List Byte := if idx = 0x7880 ∧ off ≠ 0 then (s, s.dom (okey idx sub)) else (t, bs)
      if x.2.length < off then .error 0x0007 else .ok x

/-- READ_BLOCK (R29, Table 2-5). -/
def execReadBlock (r : CxReq) (s : State) : Result :=
  s.cxRequest r 3 fun rq s =>
    let p := r.payload
    let off := leAt p 4 4
    let len := leAt p 8 4
    if p.length ≠ 12 ∨ leAt p 3 1 ≠ 0 ∨ len = 0 ∨ 1024 < len then s.malformed r
    else match s.blockContents rq (leAt p 0 2) (leAt p 2 1) off with
      | .error e => s.answer r r.session e []
      | .ok (t, bs) => t.answer r r.session 0 (leBytes 4 bs.length ++ leBytes 4 off ++ (bs.drop off).take len)

/-- What a session has received of a DOMAIN. -/
def State.setBlock (s : State) (sid : Nat) (b : Option BlockXfer) : State := s.upSession sid fun x => { x with block := b }

/-- A segment of a DOMAIN: it follows the previous one or aborts the transfer; the last one gives the DOMAIN its value after the checks of a write (Table 2-5). -/
def State.blockSegment (s : State) (rq : Requester) (sid : Nat) (p : List Byte) (more : Bool) : Wrote :=
  let idx := leAt p 0 2
  let sub := leAt p 2 1
  let off := leAt p 4 4
  let total := leAt p 8 4
  let data := p.drop 12
  let cur := (s.session? sid).bind (·.block)
  let got := (cur.map (·.got)).getD []
  let same := match cur with
    | none => true
    | some b => decide (b.key = okey idx sub) && decide (b.total = total)
  let t := s.setBlock sid none
  if !same ∨ off ≠ got.length ∨ total < got.length + data.length ∨ (!more ∧ got.length + data.length ≠ total) then (t, 0x000F)
  else if more then (s.setBlock sid (some ⟨okey idx sub, total, got ++ data⟩), 0)
  else
    let e := t.domWriteCheck rq idx sub total
    if e ≠ 0 then (t, e) else t.putDomain rq idx sub (got ++ data)

/-- WRITE_BLOCK (R29, Table 2-5). -/
def execWriteBlock (r : CxReq) (s : State) : Result :=
  s.cxRequest r 4 fun rq s =>
    let p := r.payload
    if p.length < 12 ∨ 1036 < p.length ∨ leAt p 3 1 ≠ 0 then s.malformed r
    else
      let x := s.blockSegment rq r.session p (bit r.flags 1)
      x.1.answer r r.session x.2 []

/-! ### Commits and subscriptions (R32, R41, R45) -/

/-- COMMIT (R32, R41): one for a later time is answered when it is applied. -/
def execCommit (r : CxReq) (s : State) : Result :=
  s.cxRequest r 5 fun rq s =>
    if r.payload.length ≠ 8 then s.malformed r
    else match s.receiveCommit rq.ctx (BitVec.ofNat 64 (leAt r.payload 0 8)) (BitVec.ofNat 32 r.seq) with
      | .error e => s.answer r r.session e (leBytes 16 0)
      | .ok (t, none) => t
      | .ok (t, some (e, key)) => t.commitAnswer r.session r.seq e key t.netTime64

/-- SUBSCRIBE's effect: bind or free a sub_id of the session (R45). -/
def State.bindSub (s : State) (sid subId entry : Nat) (cancel : Bool) (refs : List Ref) : Wrote :=
  let others := s.subs.filter fun x => x.sid != sid || x.subId != subId
  if cancel then (State.refreshSessions { s with subs := others }, 0)
  else if 1024 ≤ entry ∨ s.cadAction entry ≠ 6 then (s, 0x0011)
  else if 64 ≤ others.length then (s, 0x0010)
  else (State.refreshSessions { s with subs := others ++ [⟨sid, subId, entry, refs⟩] }, 0)

/-- SUBSCRIBE (R45). -/
def execSubscribe (r : CxReq) (s : State) : Result :=
  s.cxRequest r 6 fun _ s =>
    let p := r.payload
    let cancel := leAt p 1 1 % 2 = 1
    let refs := parseRefs 32 (p.drop 4)
    if p.length < 4 ∨ 64 ≤ leAt p 0 1 ∨ 2 ≤ leAt p 1 1 ∨ (refs.isNone ∧ ¬cancel) then s.malformed r
    else
      let x := s.bindSub r.session (leAt p 0 1) (leAt p 2 2) (decide cancel) (refs.getD [])
      x.1.answer r r.session x.2 []

/-- One PUBLISH of a subscription under the session's own count (R42, R45, R46). -/
def State.publishOne (s : State) (mark : Word64) (x : Subscription) : State :=
  match s.session? x.sid with
  | none => s
  | some y =>
    let head := leBytes 1 x.subId ++ leBytes 1 0 ++ leBytes 2 x.entry ++ leBytes 4 0 ++ leBytes 8 mark.toNat
    let items := x.refs.map (s.refBytes (s.ctxRequester (.session x.sid)))
    let seq := (y.devSeq + 1) % 2 ^ 32
    (s.upSession x.sid fun y => { y with devSeq := seq }).sendSegs x.sid 7 seq (segments head head items)

/-- PUBLISH (R45, R46, R64): the entry fires and every subscription that names it is published. -/
def execPublish (e : Fin 1024) (s : State) : Result :=
  match s.fire e 6 with
  | none => .next s
  | some (t, f) => .next (t.forEach (t.subs.filter fun x => x.entry = e.val) fun u x => u.publishOne f.mark x)

/-! ### Sessions (R43, R44) -/

/-- A session_id that is free: the first from a free value on that is neither 0 nor in use. -/
def State.newSid (s : State) : Nat :=
  (((List.range 10).map fun k => (s.freeNow.toNat + k) % 2 ^ 32).find? fun n => n != 0 && (s.session? n).isNone).getD 1

/-- OPEN allocates a session and answers with the device's nonce, ephemeral key and signature (R43). It takes a free value for the session_id and 32 for the nonce; the ephemeral key and the signature are numbered by the count. -/
def State.openSession (s : State) (r : CxReq) : State :=
  let p := r.payload
  let sid := s.newSid
  let nr := slice p 8 32
  let er := slice p 40 133
  let nd := (s.tookFree 1).freeBytes 32
  let eph := s.free + 33
  let ed := slice (Config.ephemeralPub eph) 0 133
  let sig := slice (Config.identitySign (s.free + 34) (nr ++ nd ++ er ++ ed ++ leBytes 4 sid)) 0 132
  let key := slice (Config.sha512 (slice (Config.ecdhShared eph er) 0 66 ++ nr ++ nd)) 0 32
  let x : Session := ⟨sid, decide (leAt p 0 1 = 4), false, leAt p 4 4, nr, nd, er, eph, key, false, 0, 0, 0#32, r.link, s.now, s.now, none, CtxSt.empty⟩
  let s := s.tookFree 35
  State.answer { s with sessions := s.sessions ++ [x] } r sid 0 (leBytes 4 sid ++ nd ++ ed ++ sig)

/-- OPEN (R43, R44, R378, Table 15-8). -/
def execOpen (r : CxReq) (s : State) : Result :=
  s.cxReceive r 9 fun s =>
    if r.kind ≠ 9 then s.cxSession r 9 false fun _ s => s
    else
      let p := r.payload
      if r.session ≠ 0 ∨ p.length ≠ 173 ∨ (leAt p 0 1 ≠ 0 ∧ leAt p 0 1 ≠ 4) ∨ leAt p 1 3 ≠ 0 then s.malformed r
      else if s.objN (okey 0x7420 2) = 2 then s.answer r 0 0x0013 []
      else if !s.fwRuns 0 ∨ 8 ≤ s.sessions.length then s.answer r 0 0x000B []
      else s.openSession r

/-- A proof has failed or has not come: the session_id is freed and the failure counted (R43, R54). -/
def State.authFailed (s : State) (sid : Nat) : State := ((s.freeSession sid).count (okey 0x1022 2) 32).orObj (okey 0x1002 1) 0x10

/-- What the requester's proof signs (R43). -/
def Session.proofBytes (x : Session) : List Byte := x.nd ++ x.nr ++ slice (Config.ephemeralPub x.ephemeral) 0 133 ++ x.er ++ leBytes 4 x.sid

/-- The session is open: its world, its notice_mask, its event (R43, R47, R54). -/
def State.openProved (s : State) (x : Session) (secure : Bool) : State :=
  let mask := (s.obj (okey 0x1024 2)).setWidth 32
  ((s.upSession x.sid fun y => { y with proved := true, secure := x.service && secure, mask := mask }).refreshSessions).orObj (okey 0x1002 1) 4

/-- PROVE (R43). -/
def execProve (r : CxReq) (s : State) : Result :=
  s.cxReceive r 10 fun s => s.cxSession r 10 true fun x s =>
    if r.payload.length ≠ 132 then s.malformed r
    else if x.proved then s.answer r r.session 0x000E []
    else if !s.fwRuns 0 then s.answer r r.session 0x000B []
    else match s.keyById (if x.service then 4 else 0) x.keyId with
      | none => (s.authFailed x.sid).answer r r.session 0x0013 []
      | some (key, secure) =>
        if Config.ecdsaVerify key x.proofBytes r.payload then (s.openProved x secure).answer r r.session 0 []
        else (s.authFailed x.sid).answer r r.session 0x0013 []

/-- CLOSE (R44). -/
def execClose (r : CxReq) (s : State) : Result :=
  s.cxRequest r 11 fun _ s =>
    if r.payload.length ≠ 0 then s.malformed r else (s.answer r r.session 0 []).closeSession r.session

/-- OPEN_PROVE_TIMEOUT (R43): 1 s after the OPEN. -/
def execOpenProveTimeout (sid : Nat) (s : State) : Result :=
  match s.session? sid with
  | none => .next s
  | some x => if x.proved ∨ (s.now - x.openedAt).toNat < 10 ^ 9 then .next s else .next (s.authFailed sid)

/-- SESSION_IDLE_TIMEOUT (R44): idle for longer than session_idle_timeout. -/
def execSessionIdleTimeout (sid : Nat) (s : State) : Result :=
  match s.session? sid with
  | none => .next s
  | some x =>
    if !x.proved ∨ (s.now - x.lastUsed).toNat ≤ s.objN (okey 0x1020 4) * 10 ^ 6 then .next s else .next (s.closeSession sid)

end Sys2Proof.Machine
end

