-- ==== Sys2Proof/Machine/Dispatch.lean ====
section
/-! DEFINITION. The dispatch: one arm per command. -/

namespace Sys2Proof.Machine

def exec (i : Instr) (s : State) : Host.Outcome State Fault Refusal :=
  match i with
  | .windowWrite src addr size v => Sys2Proof.Machine.execWindowWrite src addr size v s
  | .commitWrite src v => Sys2Proof.Machine.execCommitWrite src v s
  | .commitApply ctx => Sys2Proof.Machine.execCommitApply ctx s
  | .xferCopy src => Sys2Proof.Machine.execXferCopy src s
  | .xferLoad src => Sys2Proof.Machine.execXferLoad src s
  | .xferEnd ctx => Sys2Proof.Machine.execXferEnd ctx s
  | .store src v => Sys2Proof.Machine.execStore src v s
  | .storeWriteEnd flashOk => Sys2Proof.Machine.execStoreWriteEnd flashOk s
  | .configImageLoad src image => Sys2Proof.Machine.execConfigImageLoad src image s
  | .read r => Sys2Proof.Machine.execRead r s
  | .write r => Sys2Proof.Machine.execWrite r s
  | .readBlock r => Sys2Proof.Machine.execReadBlock r s
  | .writeBlock r => Sys2Proof.Machine.execWriteBlock r s
  | .commit r => Sys2Proof.Machine.execCommit r s
  | .subscribe r => Sys2Proof.Machine.execSubscribe r s
  | .open_ r => Sys2Proof.Machine.execOpen r s
  | .prove r => Sys2Proof.Machine.execProve r s
  | .close r => Sys2Proof.Machine.execClose r s
  | .openProveTimeout sid => Sys2Proof.Machine.execOpenProveTimeout sid s
  | .sessionIdleTimeout sid => Sys2Proof.Machine.execSessionIdleTimeout sid s
  | .servoUpdate d delta rate => Sys2Proof.Machine.execServoUpdate d delta rate s
  | .domainSlewEnd d => Sys2Proof.Machine.execDomainSlewEnd d s
  | .grandmasterLost d => Sys2Proof.Machine.execGrandmasterLost d s
  | .grandmasterReselected d gm => Sys2Proof.Machine.execGrandmasterReselected d gm s
  | .holdoverExpiry d => Sys2Proof.Machine.execHoldoverExpiry d s
  | .domainLock d gm offset rate => Sys2Proof.Machine.execDomainLock d gm offset rate s
  | .domainSwitch src v => Sys2Proof.Machine.execDomainSwitch src v s
  | .selectedSlewEnd => Sys2Proof.Machine.execSelectedSlewEnd s
  | .cadenceNone e => Sys2Proof.Machine.execCadenceNone e s
  | .startJob e => Sys2Proof.Machine.execStartJob e s
  | .assayCapture e => Sys2Proof.Machine.execAssayCapture e s
  | .launchFrame e => Sys2Proof.Machine.execLaunchFrame e s
  | .lodestoneSample e => Sys2Proof.Machine.execLodestoneSample e s
  | .trigger e => Sys2Proof.Machine.execTrigger e s
  | .publish e => Sys2Proof.Machine.execPublish e s
  | .serviceSlot e chunks => Sys2Proof.Machine.execServiceSlot e chunks s
  | .triggerWidthEnd o => Sys2Proof.Machine.execTriggerWidthEnd o s
  | .setpointWrite src st v => Sys2Proof.Machine.execSetpointWrite src st v s
  | .lodestoneResult st disagree => Sys2Proof.Machine.execLodestoneResult st disagree s
  | .lodestoneOutput st => Sys2Proof.Machine.execLodestoneOutput st s
  | .nop n w => Sys2Proof.Machine.execNop n w s
  | .halt n w => Sys2Proof.Machine.execHalt n w s
  | .br n w => Sys2Proof.Machine.execBr n w s
  | .loop n w => Sys2Proof.Machine.execLoop n w s
  | .fence n w => Sys2Proof.Machine.execFence n w s
  | .smovi n w => Sys2Proof.Machine.execSmovi n w s
  | .salu n w => Sys2Proof.Machine.execSalu n w s
  | .scmp n w => Sys2Proof.Machine.execScmp n w s
  | .pset n w => Sys2Proof.Machine.execPset n w s
  | .sld n w => Sys2Proof.Machine.execSld n w s
  | .sst n w => Sys2Proof.Machine.execSst n w s
  | .desc n w => Sys2Proof.Machine.execDesc n w s
  | .dadd n w => Sys2Proof.Machine.execDadd n w s
  | .seed n w => Sys2Proof.Machine.execSeed n w s
  | .matmul n w => Sys2Proof.Machine.execMatmul n w s
  | .conv n w => Sys2Proof.Machine.execConv n w s
  | .accin n w => Sys2Proof.Machine.execAccin n w s
  | .readout n w => Sys2Proof.Machine.execReadout n w s
  | .pconv n w => Sys2Proof.Machine.execPconv n w s
  | .pread n w => Sys2Proof.Machine.execPread n w s
  | .pebbleOp c => Sys2Proof.Machine.execPebbleOp c s
  | .vld n w => Sys2Proof.Machine.execVld n w s
  | .vst n w => Sys2Proof.Machine.execVst n w s
  | .vop n w => Sys2Proof.Machine.execVop n w s
  | .tew n w => Sys2Proof.Machine.execTew n w s
  | .tred n w => Sys2Proof.Machine.execTred n w s
  | .tsmx n w => Sys2Proof.Machine.execTsmx n w s
  | .tnorm n w => Sys2Proof.Machine.execTnorm n w s
  | .gather n w => Sys2Proof.Machine.execGather n w s
  | .scatter n w => Sys2Proof.Machine.execScatter n w s
  | .tpool n w => Sys2Proof.Machine.execTpool n w s
  | .shade n w => Sys2Proof.Machine.execShade n w s
  | .dmov n w => Sys2Proof.Machine.execDmov n w s
  | .dfill n w => Sys2Proof.Machine.execDfill n w s
  | .coll n w => Sys2Proof.Machine.execColl n w s
  | .kvscatter n w => Sys2Proof.Machine.execKvscatter n w s
  | .kvfetch n w => Sys2Proof.Machine.execKvfetch n w s
  | .attn n w => Sys2Proof.Machine.execAttn n w s
  | .signal n w => Sys2Proof.Machine.execSignal n w s
  | .wait n w => Sys2Proof.Machine.execWait n w s
  | .aopen n w => Sys2Proof.Machine.execAopen n w s
  | .aclose n w => Sys2Proof.Machine.execAclose n w s
  | .afold n w => Sys2Proof.Machine.execAfold n w s
  | .waitGranted n q => Sys2Proof.Machine.execWaitGranted n q s
  | .drainSignalApply n j => Sys2Proof.Machine.execDrainSignalApply n j s
  | .slabOpStart n => Sys2Proof.Machine.execSlabOpStart n s
  | .opComplete n q j => Sys2Proof.Machine.execOpComplete n q j s
  | .watchdogExpiry n => Sys2Proof.Machine.execWatchdogExpiry n s
  | .instanceFault m => Sys2Proof.Machine.execInstanceFault m s
  | .debugHalt n => Sys2Proof.Machine.execDebugHalt n s
  | .debugStep n => Sys2Proof.Machine.execDebugStep n s
  | .debugRelease n => Sys2Proof.Machine.execDebugRelease n s
  | .kvCreate src m arg => Sys2Proof.Machine.execKvCreate src m arg s
  | .kvRelease src m arg => Sys2Proof.Machine.execKvRelease src m arg s
  | .kvTruncate src m arg => Sys2Proof.Machine.execKvTruncate src m arg s
  | .kvPrebind src m arg => Sys2Proof.Machine.execKvPrebind src m arg s
  | .load m pl => Sys2Proof.Machine.execLoad m pl s
  | .unload m => Sys2Proof.Machine.execUnload m s
  | .run m => Sys2Proof.Machine.execRun m s
  | .direct m => Sys2Proof.Machine.execDirect m s
  | .cancel m => Sys2Proof.Machine.execCancel m s
  | .heartbeat m => Sys2Proof.Machine.execHeartbeat m s
  | .attach m => Sys2Proof.Machine.execAttach m s
  | .mboxFromClear m => Sys2Proof.Machine.execMboxFromClear m s
  | .replace src m v => Sys2Proof.Machine.execReplace src m v s
  | .replacementJob m h cause pl => Sys2Proof.Machine.execReplacementJob m h cause pl s
  | .shrinkGraceExpiry m inv => Sys2Proof.Machine.execShrinkGraceExpiry m inv s
  | .invocationStart m => Sys2Proof.Machine.execInvocationStart m s
  | .assayTimeout e => Sys2Proof.Machine.execAssayTimeout e s
  | .ledgerDeadlock m => Sys2Proof.Machine.execLedgerDeadlock m s
  | .outputRelease m inv binding => Sys2Proof.Machine.execOutputRelease m inv binding s
  | .preempt n => Sys2Proof.Machine.execPreempt n s
  | .saveComplete p => Sys2Proof.Machine.execSaveComplete p s
  | .sliceEnd p => Sys2Proof.Machine.execSliceEnd p s
  | .slotPreempt p e => Sys2Proof.Machine.execSlotPreempt p e s
  | .invocationComplete m inv energy => Sys2Proof.Machine.execInvocationComplete m inv energy s
  | .instCreate src m arg c => Sys2Proof.Machine.execInstCreate src m arg c s
  | .instDestroy src m arg => Sys2Proof.Machine.execInstDestroy src m arg s
  | .zeroingEnd m => Sys2Proof.Machine.execZeroingEnd m s
  | .instFreeze src m arg => Sys2Proof.Machine.execInstFreeze src m arg s
  | .instThaw src m arg => Sys2Proof.Machine.execInstThaw src m arg s
  | .instSaveImage src m arg => Sys2Proof.Machine.execInstSaveImage src m arg s
  | .instRestoreImage src m arg c => Sys2Proof.Machine.execInstRestoreImage src m arg c s
  | .instRecover src m arg => Sys2Proof.Machine.execInstRecover src m arg s
  | .instOrphan src m arg => Sys2Proof.Machine.execInstOrphan src m arg s
  | .heartbeatTimeout m => Sys2Proof.Machine.execHeartbeatTimeout m s
  | .acctReset src m v => Sys2Proof.Machine.execAcctReset src m v s
  | .stackRequest r => Sys2Proof.Machine.execStackRequest r s
  | .bucketRefill => Sys2Proof.Machine.execBucketRefill s
  | .guaranteeWrite src j v => Sys2Proof.Machine.execGuaranteeWrite src j v s
  | .safetyClassesWrite src v => Sys2Proof.Machine.execSafetyClassesWrite src v s
  | .patrolScrub st offset err => Sys2Proof.Machine.execPatrolScrub st offset err s
  | .stackTempRead st temp => Sys2Proof.Machine.execStackTempRead st temp s
  | .streamEnable src st v ring => Sys2Proof.Machine.execStreamEnable src st v ring s
  | .frameStart st csiFrame => Sys2Proof.Machine.execFrameStart st csiFrame s
  | .lineStart st => Sys2Proof.Machine.execLineStart st s
  | .longPacket p pk => Sys2Proof.Machine.execLongPacket p pk s
  | .frameEnd st => Sys2Proof.Machine.execFrameEnd st s
  | .blankVerdict st crc => Sys2Proof.Machine.execBlankVerdict st crc s
  | .ringTailWrite src v => Sys2Proof.Machine.execRingTailWrite src v s
  | .passComplete pr => Sys2Proof.Machine.execPassComplete pr s
  | .pipeLatch p => Sys2Proof.Machine.execPipeLatch p s
  | .regionCheck p k pixels => Sys2Proof.Machine.execRegionCheck p k pixels s
  | .resume src p v => Sys2Proof.Machine.execResume src p v s
  | .displayPreempt p => Sys2Proof.Machine.execDisplayPreempt p s
  | .frameReceive q f => Sys2Proof.Machine.execFrameReceive q f s
  | .frameTransmit q c => Sys2Proof.Machine.execFrameTransmit q c s
  | .txTailWrite src q c v => Sys2Proof.Machine.execTxTailWrite src q c v s
  | .rxTailWrite src c v => Sys2Proof.Machine.execRxTailWrite src c v s
  | .tsReadWrite src q v => Sys2Proof.Machine.execTsReadWrite src q v s
  | .linkChange q up => Sys2Proof.Machine.execLinkChange q up s
  | .t1sFrameReceive j f => Sys2Proof.Machine.execT1sFrameReceive j f s
  | .beaconLoss j => Sys2Proof.Machine.execBeaconLoss j s
  | .canFrameReceive c f => Sys2Proof.Machine.execCanFrameReceive c f s
  | .canTransmit c tecAfter sent => Sys2Proof.Machine.execCanTransmit c tecAfter sent s
  | .busOffRecovery c => Sys2Proof.Machine.execBusOffRecovery c s
  | .restart src c v => Sys2Proof.Machine.execRestart src c v s
  | .wake w => Sys2Proof.Machine.execWake w s
  | .outboundRead requester addr len => Sys2Proof.Machine.execOutboundRead requester addr len s
  | .outboundWrite requester addr data farOk => Sys2Proof.Machine.execOutboundWrite requester addr data farOk s
  | .fetchComplete slot data => Sys2Proof.Machine.execFetchComplete slot data s
  | .fetchHoldExpiry slot => Sys2Proof.Machine.execFetchHoldExpiry slot s
  | .readTimeout requester addr len since => Sys2Proof.Machine.execReadTimeout requester addr len since s
  | .deadlockYield => Sys2Proof.Machine.execDeadlockYield s
  | .inboundRequest wr addr len data bar => Sys2Proof.Machine.execInboundRequest wr addr len data bar s
  | .postedWriteFault cause => Sys2Proof.Machine.execPostedWriteFault cause s
  | .pweClear src v => Sys2Proof.Machine.execPweClear src v s
  | .linkTrain l far => Sys2Proof.Machine.execLinkTrain l far s
  | .trainRetry l => Sys2Proof.Machine.execTrainRetry l s
  | .flitReplay l sameFlit => Sys2Proof.Machine.execFlitReplay l sameFlit s
  | .twimiLinkLoss l => Sys2Proof.Machine.execTwimiLinkLoss l s
  | .mret h => Sys2Proof.Machine.execMret h s
  | .xworldWrite h mode v => Sys2Proof.Machine.execXworldWrite h mode v s
  | .hostRelease src v => Sys2Proof.Machine.execHostRelease src v s
  | .fwUpdate src block flashOk => Sys2Proof.Machine.execFwUpdate src block flashOk s
  | .rollbackCommit src v => Sys2Proof.Machine.execRollbackCommit src v s
  | .attestationRead src => Sys2Proof.Machine.execAttestationRead src s
  | .fwRestart src f v => Sys2Proof.Machine.execFwRestart src f v s
  | .componentFault f comp cause => Sys2Proof.Machine.execComponentFault f comp cause s
  | .processorRestart f phase => Sys2Proof.Machine.execProcessorRestart f phase s
  | .safeRequest src v => Sys2Proof.Machine.execSafeRequest src v s
  | .safeExit src v => Sys2Proof.Machine.execSafeExit src v s
  | .noticeRepeat => Sys2Proof.Machine.execNoticeRepeat s
  | .graniteHeartbeat => Sys2Proof.Machine.execGraniteHeartbeat s
  | .islandWatchdogExpiry => Sys2Proof.Machine.execIslandWatchdogExpiry s
  | .islandHwWatchdogExpiry => Sys2Proof.Machine.execIslandHwWatchdogExpiry s
  | .timebaseCrossCheck diffNs => Sys2Proof.Machine.execTimebaseCrossCheck diffNs s
  | .clockMonitorFault clk ppm => Sys2Proof.Machine.execClockMonitorFault clk ppm s
  | .selftestRequest src v => Sys2Proof.Machine.execSelftestRequest src v s
  | .dtiExpiry => Sys2Proof.Machine.execDtiExpiry s
  | .goldenLate j => Sys2Proof.Machine.execGoldenLate j s
  | .strataTrigger src v => Sys2Proof.Machine.execStrataTrigger src v s
  | .strataRecordWrite => Sys2Proof.Machine.execStrataRecordWrite s
  | .strataClear src v => Sys2Proof.Machine.execStrataClear src v s
  | .copyout src v => Sys2Proof.Machine.execCopyout src v s
  | .copyoutEnd ok => Sys2Proof.Machine.execCopyoutEnd ok s
  | .powerGoodRise env => Sys2Proof.Machine.execPowerGoodRise env s
  | .svcImageWrite len => Sys2Proof.Machine.execSvcImageWrite len s
  | .powerGoodFall => Sys2Proof.Machine.execPowerGoodFall s
  | .powerRequestOn src => Sys2Proof.Machine.execPowerRequestOn src s
  | .powerRequestDrowse src => Sys2Proof.Machine.execPowerRequestDrowse src s
  | .powerRequestSentry src => Sys2Proof.Machine.execPowerRequestSentry src s
  | .powerRequestOff src => Sys2Proof.Machine.execPowerRequestOff src s
  | .heldRequestRelease => Sys2Proof.Machine.execHeldRequestRelease s
  | .idleEntry => Sys2Proof.Machine.execIdleEntry s
  | .idleExit why => Sys2Proof.Machine.execIdleExit why s
  | .drowseExit env => Sys2Proof.Machine.execDrowseExit env s
  | .sentryExit env => Sys2Proof.Machine.execSentryExit env s
  | .padRelease src v => Sys2Proof.Machine.execPadRelease src v s
  | .dvfsRequest src c v => Sys2Proof.Machine.execDvfsRequest src c v s
  | .throttleStep r => Sys2Proof.Machine.execThrottleStep r s
  | .thermalTrip => Sys2Proof.Machine.execThermalTrip s
  | .ageingMeasure slack => Sys2Proof.Machine.execAgeingMeasure slack s
  | .railEnableTimeout k => Sys2Proof.Machine.execRailEnableTimeout k s
  | .railFault k sinceAvs => Sys2Proof.Machine.execRailFault k sinceAvs s
  | .pcieLinkChange gen width => Sys2Proof.Machine.execPcieLinkChange gen width s
  | .hotPlugDetect p => Sys2Proof.Machine.execHotPlugDetect p s
  | .csi2PortStateChange p signal => Sys2Proof.Machine.execCsi2PortStateChange p signal s
  | .plcaBeaconReturn j => Sys2Proof.Machine.execPlcaBeaconReturn j s
  | .t1sTransmit j collided => Sys2Proof.Machine.execT1sTransmit j collided s
  | .lineScanOut p ln => Sys2Proof.Machine.execLineScanOut p ln s
  | .reservedOpcode n w => Sys2Proof.Machine.execReservedOpcode n w s

end Sys2Proof.Machine
end

