-- ==== Sys2Proof/Safety.lean ====
section
/-! DEFINITION. What counts as a safe run: no fault, no refusal, and the canonical form of every map that a later comparison of states rests on. -/

namespace Sys2Proof

/-- Memory, objects and DOMAINs are in canonical form. -/
def Machine.State.canonical (s : Machine.State) : Bool :=
  Machine.TMap.wf Machine.memDefault s.mem && Machine.TMap.wf Machine.objDefault s.objs && Machine.TMap.wf Machine.domDefault s.doms

/-- A step that goes on. -/
def Machine.State.steps (s t : Machine.State) : Prop := Machine.step s = .next t

/-- The states that a run from `s` reaches. -/
inductive Machine.Reaches (s : Machine.State) : Machine.State → Prop where
  | refl : Machine.Reaches s s
  | tail (t u : Machine.State) : Machine.Reaches s t → t.steps u → Machine.Reaches s u

/-! ### Terms of the claims -/

namespace Machine

/-- `src` is the requester `r`, and its write of `v` to the object passes every check of R463. -/
abbrev State.accepts (s : State) (src : Src) (r : Requester) (idx sub : Nat) (v : Word64) : Prop :=
  s.requester src = some r ∧ s.access r idx sub true = 0 ∧ s.writeCheck idx sub v = 0

/-- Every byte of memory reads as before. -/
abbrev State.sameBytes (s t : State) : Prop := ∀ a, t.byte a = s.byte a

/-- Of the objects only those of `ks` may change; everything else in the machine, every byte of memory among it, is as before. -/
abbrev State.onlyObjs (s t : State) (ks : List Nat) : Prop :=
  t = { s with objs := t.objs } ∧ (∀ k, k ∉ ks → t.obj k = s.obj k) ∧ s.sameBytes t

/-- Of the objects only those of `ks` may change. -/
abbrev State.objsBut (s t : State) (ks : List Nat) : Prop := ∀ k, k ∉ ks → t.obj k = s.obj k

/-- An op word that stands next in the running segment of a core that can dispatch, with every reserved bit 0 and its predicate true (R111, R117, R118). -/
abbrev State.opReady (s : State) (n : Nat) (op : OpWord) (fields : List (Nat × Nat)) : Prop :=
  s.canDispatch n = true ∧ s.inStream n = true ∧ opReservedOk op fields = true ∧ s.predOk n op = true

/-- The wait of the op's header is granted: none, or the counter is nonzero (R131). -/
abbrev State.waitOk (s : State) (n : Nat) (op : OpWord) : Prop := opWe op = false ∨ 0 < s.ctr n (opWait op)

/-- The signal of the op's header carries no counter past 0xFFFF_FFFF (R133). -/
abbrev State.signalFits (s : State) (n : Nat) (op : OpWord) : Prop := opSe op = false ∨ s.ctr n (opSig op) + 1 < 2 ^ 32

/-- The state in which a ready controller op acts: the pc has moved and the header's wait has been taken (R131). -/
def State.entered (s : State) (n : Nat) (op : OpWord) : State :=
  let s1 := (s.setN (kPc n) (s.pc n + 16)).upCore n fun c => { c with stepping := false }
  if opWe op then s1.setN (kCtr n (opWait op)) (s1.ctr n (opWait op) - 1) else s1

/-- What the op's header takes from counter i, and what it adds to it (R131, R132). -/
def headerTakes (op : OpWord) (i : Nat) : Nat := if opWe op ∧ i = opWait op then 1 else 0
def headerAdds (op : OpWord) (i : Nat) : Nat := if opSe op ∧ i = opSig op then 1 else 0

/-- The objects that a controller op of core n may write: its program counter, its count of ops retired, and the counters that its header names. -/
def opKeys (n : Nat) (op : OpWord) : List Nat :=
  [kPc n, kRetired n] ++ (if opWe op then [kCtr n (opWait op)] else []) ++ (if opSe op then [kCtr n (opSig op)] else [])

/-- The machine without its cores, its objects, its memory and its counter of free values. -/
def State.elsewhere (s : State) : State := { s with objs := [], cores := [], free := 0, mem := [], poison := [] }

/-- A controller op of core n has retired: the pc is `pc`, the header has waited and signalled, the core's registers are `c`, and beside the objects of `ks` and the counter of free values nothing else has changed; memory and the objects of `ks` are as `m` has them. -/
structure State.OpDone (s t m : State) (n : Nat) (op : OpWord) (pc : Nat) (c : CoreSt) (ks : List Nat) : Prop where
  pc : t.objN (kPc n) = pc
  retired : t.objN (kRetired n) = (s.objN (kRetired n) + 1) % 2 ^ 64
  counters : ∀ i < 32, kCtr n i ∉ ks → t.ctr n i = s.ctr n i - headerTakes op i + headerAdds op i
  core : t.core n = { c with stepping := false, lastRetire := s.now, elapsed := 0 }
  others : ∀ j, j ≠ n → t.core j = s.core j
  objs : s.objsBut t (opKeys n op ++ ks)
  written : ∀ k ∈ ks, t.obj k = m.obj k
  rest : t.elsewhere = s.elsewhere
  bytes : t.mem = m.mem ∧ t.poison = m.poison

/-- The object that a command row writes, and the value: the source, index, subindex and value of each command that is a write of one object. -/
def commandTarget : Instr → Option (Src × Nat × Nat × Word64)
  | .commitWrite src v => some (src, 0x1018, 1, v)
  | .xferCopy src => some (src, 0x1005, 3, 1#64)
  | .xferLoad src => some (src, 0x1005, 3, 2#64)
  | .store src v => some (src, 0x1010, 1, v)
  | .domainSwitch src v => some (src, 0x2000, 2, v)
  | .setpointWrite src n v => some (src, 0x2400 + 8 * n, 0xc, v)
  | .kvCreate src m arg => some (src, 0x4830 + 0x40 * m, 2, BitVec.ofNat 64 (1 * 2 ^ 56 + arg.toNat))
  | .kvRelease src m arg => some (src, 0x4830 + 0x40 * m, 2, BitVec.ofNat 64 (2 * 2 ^ 56 + arg.toNat))
  | .kvTruncate src m arg => some (src, 0x4830 + 0x40 * m, 2, BitVec.ofNat 64 (3 * 2 ^ 56 + arg.toNat))
  | .kvPrebind src m arg => some (src, 0x4830 + 0x40 * m, 2, BitVec.ofNat 64 (4 * 2 ^ 56 + arg.toNat))
  | .replace src m v => some (src, 0x4200 + 0x10 * m, 0xa, v)
  | .instCreate src m arg _ => some (src, 0x4800 + 0x40 * m, 2, BitVec.ofNat 64 (1 * 2 ^ 56 + arg.toNat))
  | .instDestroy src m arg => some (src, 0x4800 + 0x40 * m, 2, BitVec.ofNat 64 (2 * 2 ^ 56 + arg.toNat))
  | .instFreeze src m arg => some (src, 0x4800 + 0x40 * m, 2, BitVec.ofNat 64 (3 * 2 ^ 56 + arg.toNat))
  | .instThaw src m arg => some (src, 0x4800 + 0x40 * m, 2, BitVec.ofNat 64 (4 * 2 ^ 56 + arg.toNat))
  | .instSaveImage src m arg => some (src, 0x4800 + 0x40 * m, 2, BitVec.ofNat 64 (5 * 2 ^ 56 + arg.toNat))
  | .instRestoreImage src m arg _ => some (src, 0x4800 + 0x40 * m, 2, BitVec.ofNat 64 (6 * 2 ^ 56 + arg.toNat))
  | .instRecover src m arg => some (src, 0x4800 + 0x40 * m, 2, BitVec.ofNat 64 (7 * 2 ^ 56 + arg.toNat))
  | .instOrphan src m arg => some (src, 0x4800 + 0x40 * m, 2, BitVec.ofNat 64 (8 * 2 ^ 56 + arg.toNat))
  | .acctReset src m v => some (src, 0x4803 + 0x40 * m, 0xa, v)
  | .guaranteeWrite src i v => some (src, 0x5100 + i, 1, v)
  | .safetyClassesWrite src v => some (src, 0x5000, 4, v)
  | .streamEnable src st v _ => some (src, 0x5420 + st, 1, v)
  | .ringTailWrite src v => some (src, 0x5800, 6, v)
  | .resume src p v => some (src, 0x5840 + p, 0x12, v)
  | .txTailWrite src q c v => some (src, 0x6030 + 8 * q + c, 3, v)
  | .rxTailWrite src c v => some (src, 0x6030 + c, 7, v)
  | .tsReadWrite src q v => some (src, 0x6040 + q, 0x42, v)
  | .restart src c v => some (src, 0x6210 + c, 9, v)
  | .pweClear src v => some (src, 0x6401, 2, v)
  | .hostRelease src v => some (src, 0x7403, 2, v)
  | .rollbackCommit src v => some (src, 0x7440, 7, v)
  | .fwRestart src f v => some (src, 0x7800 + f, 5, v)
  | .safeRequest src v => some (src, 0x7000, 5, v)
  | .safeExit src v => some (src, 0x7000, 4, v)
  | .selftestRequest src v => some (src, 0x7010, 6, v)
  | .strataTrigger src v => some (src, 0x7040, 0xa, v)
  | .strataClear src v => some (src, 0x7040, 5, v)
  | .copyout src v => some (src, 0x7040, 6, v)
  | .powerRequestOn src => some (src, 0x7c00, 2, 0#64)
  | .powerRequestDrowse src => some (src, 0x7c00, 2, 2#64)
  | .powerRequestSentry src => some (src, 0x7c00, 2, 3#64)
  | .powerRequestOff src => some (src, 0x7c00, 2, 4#64)
  | .padRelease src v => some (src, 0x7c00, 7, v)
  | .dvfsRequest src c v => some (src, 0x7c10 + c, 1, v)
  | _ => none

/-- The core, the op word and the body fields of each command that is an op word of an assigned opcode (Tables 5-3, 5-6 to 5-14). -/
def opForm : Instr → Option (Fin 16 × OpWord × List (Nat × Nat))
  | .nop n w => some (n, mkOp 0x00 w, [])
  | .halt n w => some (n, mkOp 0x01 w, [])
  | .br n w => some (n, mkOp 0x02 w, [(95, 64)])
  | .loop n w => some (n, mkOp 0x03 w, [(95, 93), (92, 61)])
  | .fence n w => some (n, mkOp 0x04 w, [(95, 89)])
  | .smovi n w => some (n, mkOp 0x08 w, [(95, 91), (63, 0)])
  | .salu n w => some (n, mkOp 0x09 w, [(95, 91), (90, 86), (85, 81), (80, 77), (76, 76), (31, 0)])
  | .scmp n w => some (n, mkOp 0x0a w, [(95, 93), (92, 88), (87, 83), (82, 80), (79, 79), (31, 0)])
  | .pset n w => some (n, mkOp 0x0b w, [(95, 93), (92, 88), (31, 0)])
  | .sld n w => some (n, mkOp 0x0c w, [(95, 91), (90, 86), (31, 0)])
  | .sst n w => some (n, mkOp 0x0d w, [(95, 91), (90, 86), (31, 0)])
  | .desc n w => some (n, mkOp 0x0e w, [(95, 92), (91, 87), (31, 0)])
  | .dadd n w => some (n, mkOp 0x0f w, [(95, 92), (91, 87), (31, 0)])
  | .seed n w => some (n, mkOp 0x10 w, [(95, 91)])
  | .matmul n w => some (n, mkOp 0x20 w, [(95, 48)])
  | .conv n w => some (n, mkOp 0x21 w, [(95, 48)])
  | .accin n w => some (n, mkOp 0x22 w, [(95, 48)])
  | .readout n w => some (n, mkOp 0x23 w, [(95, 32)])
  | .pconv n w => some (n, mkOp 0x28 w, [(95, 48)])
  | .pread n w => some (n, mkOp 0x29 w, [(95, 32)])
  | .vld n w => some (n, mkOp 0x40 w, [(95, 43)])
  | .vst n w => some (n, mkOp 0x41 w, [(95, 43)])
  | .vop n w => some (n, mkOp 0x42 w, [(95, 39)])
  | .tew n w => some (n, mkOp 0x43 w, [(95, 64)])
  | .tred n w => some (n, mkOp 0x44 w, [(95, 64)])
  | .tsmx n w => some (n, mkOp 0x45 w, [(95, 64)])
  | .tnorm n w => some (n, mkOp 0x46 w, [(95, 64)])
  | .gather n w => some (n, mkOp 0x47 w, [(95, 64)])
  | .scatter n w => some (n, mkOp 0x48 w, [(95, 64)])
  | .tpool n w => some (n, mkOp 0x49 w, [(95, 64)])
  | .shade n w => some (n, mkOp 0x4f w, [(95, 86)])
  | .dmov n w => some (n, mkOp 0x60 w, [(95, 69)])
  | .dfill n w => some (n, mkOp 0x61 w, [(95, 69)])
  | .coll n w => some (n, mkOp 0x64 w, [(95, 69)])
  | .kvscatter n w => some (n, mkOp 0x70 w, [(95, 48)])
  | .attn n w => some (n, mkOp 0x71 w, [(95, 48)])
  | .kvfetch n w => some (n, mkOp 0x72 w, [(95, 48)])
  | .signal n w => some (n, mkOp 0x80 w, [(95, 91), (90, 87), (86, 86), (85, 70), (69, 63)])
  | .wait n w => some (n, mkOp 0x81 w, [(95, 91), (90, 75)])
  | .aopen n w => some (n, mkOp 0x90 w, [(95, 94), (93, 93), (92, 88), (87, 85), (84, 77), (76, 69)])
  | .afold n w => some (n, mkOp 0x91 w, [(95, 90)])
  | .aclose n w => some (n, mkOp 0x92 w, [(95, 94)])
  | _ => none

/-- The instance and message kind of each command that is the consumption of a message toward the device (Table 10-6). -/
def msgForm : Instr → Option (Fin 16 × Nat)
  | .load m _ => some (m, 1)
  | .unload m => some (m, 2)
  | .run m => some (m, 3)
  | .direct m => some (m, 4)
  | .cancel m => some (m, 5)
  | .heartbeat m => some (m, 6)
  | .attach m => some (m, 7)
  | _ => none

/-- An exception of core n has been taken: its record if it is the first, its count, dispatch stopped, every queue empty; the registers, memory and every other core as before (R137, Table 5-17). -/
structure State.Stopped (s t : State) (n queue addr : Nat) (e : Exc) : Prop where
  cause : t.obj (kCause n) = if s.obj (kCause n) = 0#64 then BitVec.ofNat 64 (e.code * 2 ^ 24 + queue * 2 ^ 20 + e.detail % 2 ^ 16) else s.obj (kCause n)
  addr : t.obj (kCore n 4 3) = if s.obj (kCause n) = 0#64 then BitVec.ofNat 64 addr else s.obj (kCore n 4 3)
  info : t.obj (kCore n 4 4) = if s.obj (kCause n) = 0#64 then BitVec.ofNat 64 e.info else s.obj (kCore n 4 4)
  counted : t.objN (kCore n 4 5) = min (s.objN (kCore n 4 5) + 1) (2 ^ 32 - 1)
  levels : t.obj (kCore n 4 8) = 0#64
  core : t.core n = { s.core n with slab := [], readout := [], mica := [], dma := [], pebble := [], pend := [], hold := .stopped }
  others : ∀ j, j ≠ n → t.core j = s.core j
  objs : s.objsBut t [kCause n, kCore n 4 3, kCore n 4 4, kCore n 4 5, kCore n 4 8]
  bytes : s.sameBytes t
  still : t.mem = s.mem ∧ t.poison = s.poison ∧ t.out = s.out ∧ t.free = s.free

/-- A CXOP request that its session takes: it arrives, its header can be relied on, its session is proved and its sequence is new (R40, R44, R466). -/
abbrev State.takes (s : State) (r : CxReq) (kind : Nat) : Prop :=
  s.cxArrives r = true ∧ s.cxReliable r = true ∧ r.kind = kind ∧ ∃ x, s.session? r.session = some x ∧ x.proved = true ∧ x.highSeq < r.seq

/-- The state in which a request that its session takes is handled. -/
def State.taken (s : State) (r : CxReq) : State := s.upSession r.session (Session.accept r.seq s.now)

/-! ### Terms of the claims about engine ops -/

/-- The state in which the controller looks at an engine op: the pc has passed it (R111). -/
def State.passed (s : State) (n : Nat) : State := (s.setN (kPc n) (s.pc n + 16)).upCore n fun c => { c with stepping := false }

/-- The record with which an op word of core n enters its queue: the registers, descriptors, transforms and tag as they stand (R112, R134, R219). -/
def State.opRecord (s : State) (n : Nat) (op : OpWord) : QOp :=
  let x := s.core n
  ⟨op, BitVec.ofNat 64 (s.pc n), x.nextSeq, x.sregs, x.tregs, x.trf, (s.passed n).effTag n (((useOf op).map (·.reads)).getD []), !x.openSlots.isEmpty, true, false, false, 0⟩

/-- An engine op that starts as it is dispatched: it is ready and its wait is granted, the controller finds no fault, its queue holds nothing, and no op of the core is in its way (R104, R111, R114-R116, R131, R219, R220, R224). -/
structure State.OpGoes (s : State) (n : Nat) (op : OpWord) (fields : List (Nat × Nat)) (q : Queue) : Prop where
  ready : s.opReady n op fields
  wait : s.waitOk n op
  fits : ∃ u, useOf op = some u ∧ u.queue = q ∧ (s.passed n).dispatchFault n op u (s.opRecord n op).tag = none
  empty : (s.core n).q q = []
  clear : (s.core n).clear q (s.opRecord n op) = true

/-- The objects that an engine op may count its work in: arithmetic flags, generator, activity counters of the core, accounting and weak rotations of its instance (Tables 4-7, 10-8, R210, R255). -/
def State.workKeys (s : State) (n : Nat) : List Nat :=
  [kArith n, kSr n, kCore n 2 1, kCore n 2 2, kCore n 2 3, kCore n 2 4] ++ (List.range 9).map (kInst (s.holder n) 3) ++ [kAssay (s.holder n) 0xa]

/-- An engine op of core n has been dispatched, has started and has had its effect, all but what it stores: it stands in its queue and waits to complete, the header's wait is taken, and the core's registers are `c`; no other core and, beside the counters of work, no object has changed. -/
structure State.OpRan (s t : State) (n : Nat) (op : OpWord) (q : Queue) (c : CoreSt) : Prop where
  pc : t.objN (kPc n) = (s.pc n + 16) % 2 ^ 64
  counters : ∀ j < 32, t.ctr n j = s.ctr n j - headerTakes op j
  core : t.core n = { c.setQ q [{ s.opRecord n op with started := true, ran := true, cycles := s.nowN }] with nextSeq := (s.core n).nextSeq + 1, stepping := false }
  others : ∀ j, j ≠ n → t.core j = s.core j
  objs : s.objsBut t ([kPc n, kCore n 4 8, kCtr n (opWait op)] ++ s.workKeys n)
  insts : ∀ j, t.inst j = { s.inst j with ns := (t.inst j).ns }
  rest : t = { s with objs := t.objs, cores := t.cores, insts := t.insts, mem := t.mem, poison := t.poison, free := t.free, out := t.out }

/-- Memory, and what has left the device, are as `m` has them. -/
abbrev State.storesAs (t m : State) : Prop := t.mem = m.mem ∧ t.poison = m.poison ∧ t.out = m.out

/-- A byte of the device that lies in no row of a tensor in the local store of core n, nor in its scales (Table 5-4). -/
def Desc.misses (d : Desc) (n a : Nat) : Prop :=
  a < 0x10000000000 ∧ (∀ x ∈ d.spans d.rowBytes, a < lstoreBase n + x.1 ∨ lstoreBase n + x.1 + x.2 ≤ a)
    ∧ (isMx d.fmt = true → a < lstoreBase n + d.scaleBase ∨ lstoreBase n + d.scaleBase + d.count / 32 ≤ a)

end Machine

end Sys2Proof
end

