-- ==== Sys2Proof/Certificates/Slice0/Obligations.lean ====
section
/-! DEFINITION. What the provers are asked to prove: claims of the ZD60 manual about the commands of the model. -/

open Sys2Proof Sys2Proof.Machine

/-! ### The machine as a whole -/

/-- The model's own invariant: memory, objects and DOMAINs stay in canonical form, so that equal contents are equal data (log entry 5). -/
def Obligations.StepKeepsCanonicalForm : Prop :=
  ∀ s t : State, s.canonical = true → step s = .next t → t.canonical = true

/-- The state after reset is in canonical form. -/
def Obligations.ResetIsCanonical : Prop := State.reset.canonical = true

/-- The queue is first in, first out, a command touches nothing of it, and what has left the device is never taken back (R33: one at a time, in the order of arrival). -/
def Obligations.StepTakesOneCommand : Prop :=
  ∀ s t : State, step s = .next t → t.pending = s.pending.tail ∧ s.out <:+ t.out ∧ s.free ≤ t.free

/-- A step with command c at the front of the queue is c's effect on the state with the queue's rest; on an empty queue the clock ticks (the model's choice, log entry 7). -/
def Obligations.StepRunsFrontCommand : Prop :=
  (∀ (c : Instr) (rest : List Instr) (s : State), s.pending = c :: rest → step s = exec c { s with pending := rest })
  ∧ ∀ s : State, s.pending = [] → step s = .next s.clock

/-- No command whose operands the device can carry stops the machine: it answers a next state. -/
def Obligations.WellFormedCommandsGoOn : Prop := ∀ (c : Instr) (s : State), c.wf = true → ∃ t, exec c s = .next t

/-- R420, R399, Tables 2-8, 3-2 and 17-3: after reset the device is not powered, every domain is off, no command waits, nothing has left it, objects hold their factory defaults and no core, session or instance exists. -/
def Obligations.ResetState : Prop :=
  State.reset.pending = [] ∧ State.reset.out = [] ∧ State.reset.powered = false ∧ (∀ d, d < 10 → State.reset.domOff d = true)
  ∧ State.reset.sessions = [] ∧ State.reset.subs = [] ∧ (∀ k, State.reset.obj k = objDefault k) ∧ (∀ k, State.reset.dom k = domDefault k)
  ∧ (∀ n, State.reset.core n = CoreSt.init) ∧ (∀ m, State.reset.inst m = InstSt.init) ∧ State.reset.tbRun = false ∧ State.reset.now = 0#64

/-- R22, R426 and the model's clock (log entry 7): a tick of a machine whose power core is at rest moves the raw counter alone, while it runs; the tick that completes a Sentry entry stops the counter. -/
def Obligations.TickCounts : Prop :=
  (∀ s : State, s.pending = [] → s.power.phase = .steady → s.power.next = none →
    step s = .next { s with now := if s.tbRun then s.now + 1#64 else s.now })
  ∧ (∀ s : State, s.pending = [] → s.power.phase = .entering 3 →
    ∃ t, step s = .next t ∧ t.tbRun = false ∧ t.now = s.now ∧ t.power.phase = .steady ∧ t.mem = s.mem ∧ t.powerState = if s.power.wake then 5 else 3)

/-! ### Objects (chapter 2) -/

/-- R36, R38, R463: a command row whose write fails at steps 1-3 has no effect but the error response to a window requester; one that fails at steps 4-6, or finds the unit off, is discarded and latched in its context's window_status, which counts it; nothing else changes. -/
def Obligations.RefusedCommandHasNoEffect : Prop :=
  ∀ (c : Instr) (src : Src) (idx sub : Nat) (v : Word64) (s : State), commandTarget c = some (src, idx, sub, v) →
  ((s.requester src = none ∨ ∃ r, s.requester src = some r ∧ s.access r idx sub true ≠ 0 ∧ s.access r idx sub true ≠ 0x000B) →
    exec c s = .next (match src with
      | .cxop _ => s
      | _ => { s with out := .errorResponse src (0xf800000000 + idx * 0x800 + sub * 8) :: s.out }))
  ∧ ∀ r e, s.requester src = some r → (s.access r idx sub true = 0x000B ∧ e = 0x000B ∨ s.access r idx sub true = 0 ∧ s.writeCheck idx sub v = e ∧ e ≠ 0) →
    ∃ t, exec c s = .next t ∧ t = { s with ctxs := t.ctxs } ∧ (∀ k, ctxKey k ≠ ctxKey r.ctx → t.ctx k = s.ctx k)
      ∧ ((∃ sid, r.ctx = .session sid) → t = s)
      ∧ ((∀ sid, r.ctx ≠ .session sid) → t.ctx r.ctx = { s.ctx r.ctx with
          windowStatus := BitVec.ofNat 64 (e * 2 ^ 32 + idx * 2 ^ 16 + sub * 2 ^ 8 + min 255 (fld (s.ctx r.ctx).windowStatus 7 0 + 1)) })

/-- R463: the order of the checks. A normal-world request to a secure index is refused first, then an object that does not exist, then a role without the right, whatever the value; the access code, the lock and the encoding follow. -/
def Obligations.ChecksComeInOrder : Prop := ∀ (s : State) (r : Requester) (idx sub : Nat) (v : Word64) (wr : Bool),
  (r.secure = false → s.secureIndex idx = true → s.access r idx sub wr = 0x0004)
  ∧ ((r.secure = true ∨ s.secureIndex idx = false) →
      (maxSub idx = 0 → s.access r idx sub wr = 0x0001)
      ∧ (maxSub idx ≠ 0 → maxSub idx < sub → s.access r idx sub wr = 0x0002)
      ∧ (maxSub idx ≠ 0 → sub ≤ maxSub idx → s.rights r.role idx sub < (if wr then 2 else 1) → s.access r idx sub wr = 0x0003))
  ∧ (∀ row, objRow? idx sub = some row → row.acc = .ro → s.writeCheck idx sub v = 0x0015)
  ∧ (∀ row, objRow? idx sub = some row → row.acc ≠ .ro → row.ty ≠ .domain → shownGuarantee idx sub = false → sub ≠ 0 →
      (s.locked row idx sub = true → s.writeCheck idx sub v = 0x0005)
      ∧ (s.locked row idx sub = false → row.encOk v = false → s.writeCheck idx sub v = 0x0006)
      ∧ (s.locked row idx sub = false → row.encOk v = true → row.acc ≠ .rwc → row.valueOk idx sub v = false → s.writeCheck idx sub v = 0x0007))

/-- R30, R31, R36: a window write is one aligned access of 8 bytes; one of another size or alignment completes with an error response. An accepted write of an object with no behaviour of its own gives it the value and changes nothing else; that of a committed object is staged in its context and the active value stays. -/
def Obligations.WindowWrites : Prop :=
  (∀ (s : State) (src : Src) (addr size : Nat) (v : Word64), 0xf800000000 ≤ addr → addr < 0xf808000000 → (size ≠ 8 ∨ addr % 8 ≠ 0) → (∀ sid, src ≠ .cxop sid) →
    exec (.windowWrite src addr size v) s = .next { s with out := .errorResponse src addr :: s.out })
  ∧ ∀ (s : State) (src : Src) (idx sub : Nat) (v : Word64) (r : Requester) (row : ObjRow), idx < 0x10000 → sub < 0x100 →
    s.accepts src r idx sub v → objRow? idx sub = some row →
    (row.acc ≠ .rwc → s.applyWrite src r idx sub v = (s.plainWrite idx sub v, 0) →
      ∃ t, exec (.windowWrite src (0xf800000000 + idx * 0x800 + sub * 8) 8 v) s = .next t ∧ s.onlyObjs t [okey idx sub]
        ∧ (row.wk = .plain → t.obj (okey idx sub) = v)
        ∧ (∀ mask, row.wk = .evt mask → t.obj (okey idx sub) = s.obj (okey idx sub) &&& (v ||| ~~~(BitVec.ofNat 64 mask))))
    ∧ (row.acc = .rwc → s.worldField r idx sub v = false → (s.ctx r.ctx).staging.length < 256 → (∀ x ∈ (s.ctx r.ctx).staging, x.key ≠ okey idx sub) →
      exec (.windowWrite src (0xf800000000 + idx * 0x800 + sub * 8) 8 v) s
        = .next (s.setCtx r.ctx { s.ctx r.ctx with staging := (s.ctx r.ctx).staging ++ [⟨okey idx sub, v, []⟩] }))

/-- R32: a commit for a later time takes the whole staging set and starts an empty one; at its time, or at once, the set is applied whole and commit_applied takes the time, or nothing is applied, the set is gone and the failure is latched. -/
def Obligations.CommitsApplyWhole : Prop := ∀ (s : State),
  (∀ src r v, s.accepts src r 0x1018 1 v →
    (v ≠ 0#64 → s.netTime < v.toNat → (s.ctx r.ctx).timed = none →
      exec (.commitWrite src v) s = .next (s.setCtx r.ctx { s.ctx r.ctx with staging := [], timed := some ⟨v, (s.ctx r.ctx).staging, 0#32⟩ }))
    ∧ (v ≠ 0#64 → s.netTime < v.toNat → (s.ctx r.ctx).timed.isSome = true → exec (.commitWrite src v) s = .next (s.latch r.ctx 0x000B 0x1018 1))
    ∧ ((v = 0#64 ∨ (v.toNat : Int) ≤ s.netTime) → let e := s.setCtx r.ctx { s.ctx r.ctx with staging := [] }
      (∀ u, e.applySet (e.ctxRequester r.ctx) (s.ctx r.ctx).staging = .ok u → exec (.commitWrite src v) s = .next (u.setCtx r.ctx { u.ctx r.ctx with applied := u.netTime64 }))
      ∧ (∀ err key, e.applySet (e.ctxRequester r.ctx) (s.ctx r.ctx).staging = .error (err, key) → exec (.commitWrite src v) s = .next (e.latch r.ctx err (key / 256) (key % 256)))))
  ∧ (∀ ctx w, (s.ctx ctx).timed = some w → (∀ sid, ctx ≠ .session sid) → (w.at_.toNat : Int) ≤ s.netTime → let e := s.setCtx ctx { s.ctx ctx with timed := none }
    (∀ u, e.applySet (e.ctxRequester ctx) w.set = .ok u → exec (.commitApply ctx) s = .next (u.setCtx ctx { u.ctx ctx with applied := u.netTime64 }))
    ∧ (∀ err key, e.applySet (e.ctxRequester ctx) w.set = .error (err, key) → exec (.commitApply ctx) s = .next (e.latch ctx err (key / 256) (key % 256))))
  ∧ (∀ sid w, let ctx := Ctx.session sid
    (s.ctx ctx).timed = some w → (w.at_.toNat : Int) ≤ s.netTime → let e := s.setCtx ctx { s.ctx ctx with timed := none }
    (∀ u, e.applySet (e.ctxRequester ctx) w.set = .ok u → let a := u.setCtx ctx { u.ctx ctx with applied := u.netTime64 }
      exec (.commitApply ctx) s = .next (a.commitAnswer sid w.seq.toNat 0 0 a.netTime64))
    ∧ (∀ err key, e.applySet (e.ctxRequester ctx) w.set = .error (err, key) → exec (.commitApply ctx) s = .next (e.commitAnswer sid w.seq.toNat err key e.netTime64)))

/-- R465: a copy takes the named DOMAIN's contents and a load the buffer's bytes when the command is written, and xfer_status reads 1; when the transfer ends well it reads 2, a copy's header and bytes lie in the buffer, and a loaded DOMAIN with no behaviour of its own has its value; a transfer that fails ends with 3 and the error in [31:16] and moves nothing. A second command while one runs is refused with 0x000B. -/
def Obligations.TransfersMoveDomains : Prop := ∀ (s : State) (src : Src) (r : Requester),
  (s.accepts src r 0x1005 3 1#64 → (s.ctx r.ctx).xfer.isSome = true → exec (.xferCopy src) s = .next (s.latch r.ctx 0x000B 0x1005 3))
  ∧ (s.accepts src r 0x1005 3 2#64 → (s.ctx r.ctx).xfer.isSome = true → exec (.xferLoad src) s = .next (s.latch r.ctx 0x000B 0x1005 3))
  ∧ (let x := s.ctx r.ctx
    let idx := fld x.xferTarget 31 16
    let sub := fld x.xferTarget 15 8
    let buf := x.xferBuffer.toNat
    (s.accepts src r 0x1005 3 1#64 → x.xfer = none → s.domReadCheck r idx sub = 0 → ∀ u bs, s.domContents r.ctx idx sub = .ok (u, bs) →
      exec (.xferCopy src) s = .next (u.setCtx r.ctx { u.ctx r.ctx with
        xfer := some ⟨false, okey idx sub, buf, bs, if u.contextMay r buf (8 + bs.length) true then 0 else 0x0003⟩, xferStatus := 1#64 }))
    ∧ (s.accepts src r 0x1005 3 2#64 → x.xfer = none → let n := s.rdN buf 4
      s.domWriteCheck r idx sub n = 0 →
      let ok := s.contextMay r buf 8 false && s.contextMay r buf (8 + n) false
      exec (.xferLoad src) s = .next (s.setCtx r.ctx { s.ctx r.ctx with
        xfer := some ⟨true, okey idx sub, buf, if ok then s.rd (buf + 8) n else [], if ok then 0 else 0x0003⟩, xferStatus := 1#64 })))
  ∧ (∀ ctx x, (s.ctx ctx).xfer = some x → (∀ sid, ctx ≠ .session sid) →
    (x.err ≠ 0 → exec (.xferEnd ctx) s = .next (s.setCtx ctx { s.ctx ctx with xfer := none, xferStatus := BitVec.ofNat 64 (x.err * 2 ^ 16 + 3) }))
    ∧ (x.err = 0 → x.load = false → 0x4000000000 ≤ x.buf → x.buf + 8 + x.bytes.length ≤ 0x10000000000 →
      ∃ t, exec (.xferEnd ctx) s = .next t ∧ (t.ctx ctx).xfer = none ∧ (t.ctx ctx).xferStatus = 2#64
        ∧ t.rdN x.buf 4 = x.bytes.length % 2 ^ 32 ∧ t.rd (x.buf + 8) x.bytes.length = x.bytes
        ∧ (∀ a, (a < x.buf ∨ x.buf + 8 + x.bytes.length ≤ a) → t.byte a = s.byte a)
        ∧ t = { s with mem := t.mem, poison := t.poison, ctxs := t.ctxs })
    ∧ (x.err = 0 → x.load = true → ∀ row, objRow? (x.key / 256) (x.key % 256) = some row → row.acc ≠ .rwc →
      x.key / 256 ≠ 0x1012 → x.key / 256 ≠ 0x7808 → (x.key / 256 < 0x6070 ∨ 0x607c ≤ x.key / 256) → instOff (x.key / 256) = none →
      ∃ t, exec (.xferEnd ctx) s = .next t ∧ (t.ctx ctx).xfer = none ∧ (t.ctx ctx).xferStatus = 2#64 ∧ t.dom x.key = x.bytes
        ∧ (∀ k, k ≠ x.key → t.dom k = s.dom k) ∧ t = { s with doms := t.doms, ctxs := t.ctxs }))

/-- R51: a store request snapshots into the copy that is not in use, under the version in use plus 1, or into copy A as version 1 when none is valid, and a second one is refused with 0x000B. A write that ends well makes the new copy the copy in use and clears config_status; one that fails leaves the copy in use as it was. -/
def Obligations.StoreWritesTheOtherCopy : Prop := ∀ (s : State),
  (∀ src r v, s.accepts src r 0x1010 1 v →
    (s.storeJob.isSome = true → exec (.store src v) s = .next (s.latch r.ctx 0x000B 0x1010 1))
    ∧ (s.storeJob = none → ∃ t j, exec (.store src v) s = .next t ∧ t.storeJob = some j ∧ t.objN (okey 0x1010 2) = 1
      ∧ j.copy = (if s.objN (okey 0x1003 2) = 0 then 1 else 0) ∧ j.version = (if s.objN (okey 0x1003 2) ≤ 1 then (s.objN (okey 0x1003 3) + 1) % 2 ^ 32 else 1)
      ∧ (∀ k, k ≠ okey 0x1010 2 → t.obj k = s.obj k) ∧ t = { s with storeJob := t.storeJob, free := t.free, objs := t.objs }))
  ∧ (∀ j, s.storeJob = some j → s.fwRuns 0 = true →
    ∃ t, (∀ ok, ok = true ∨ j.image = [] → exec (.storeWriteEnd ok) s = .next t) ∧ t.storeJob = none ∧ t.oBit (okey 0x1002 1) 0 = true
      ∧ (j.image = [] → t.objN (okey 0x1010 2) = 3 ∧ s.objsBut t [okey 0x1010 2, okey 0x1002 1] ∧ t.mem = s.mem)
      ∧ (j.image ≠ [] → t.objN (okey 0x1010 2) = 2 ∧ t.objN (okey 0x1003 2) = j.copy % 2 ^ 64 ∧ t.objN (okey 0x1003 3) = j.version % 2 ^ 64 ∧ t.obj (okey 0x1003 1) = 0#64
        ∧ s.objsBut t [okey 0x1010 2, okey 0x1002 1, okey 0x1003 1, okey 0x1003 2, okey 0x1003 3, okey 0x7c05 3]
        ∧ (j.copy ≤ 1 → j.image.length ≤ 0x10000000 → ∀ a, (a < copyBase j.copy ∨ copyBase j.copy + j.image.length ≤ a) → t.byte a = s.byte a)))
  ∧ (∀ j, s.storeJob = some j → s.fwRuns 0 = true → j.image ≠ [] →
    ∃ t, exec (.storeWriteEnd false) s = .next t ∧ t.storeJob = none ∧ t.objN (okey 0x1010 2) = 3 ∧ s.objsBut t [okey 0x1010 2, okey 0x1002 1])

/-- R51: an image whose form, check word or signature fails is refused with 0x0013 and changes nothing; one whose records are all committed objects is applied as one commit and then stored. -/
def Obligations.ConfigImageIsOneCommit : Prop := ∀ (s : State) (src : Src) (r : Requester) (image : List Byte),
  s.requester src = some r → s.domWriteCheck r 0x1012 1 image.length = 0 → s.storeJob = none → s.fwRuns 0 = true →
  (s.imageRecords image = none → exec (.configImageLoad src image) s = .next { s with out := .refused src 0x1012 1 0x0013 :: s.out })
  ∧ (∀ rs, s.imageRecords image = some rs → rs.all s.imageRecordOk = false → exec (.configImageLoad src image) s = .next { s with out := .refused src 0x1012 1 0x0009 :: s.out })
  ∧ (∀ rs u v, s.imageRecords image = some rs → rs.all s.imageRecordOk = true →
    (∀ x ∈ rs, ∃ row, objRow? x.idx x.sub = some row ∧ row.acc = .rwc) →
    s.applySet ⟨.secureFw, true, r.ctx⟩ (rs.filterMap fun x => (objRow? x.idx x.sub).map x.staged) = .ok u → u.storeStart = .ok v →
    exec (.configImageLoad src image) s = .next v ∧ v.storeJob.isSome = true)

/-- R39-R42, R44, R466, R467: what becomes of a CXOP request of a proved session. One whose header cannot be relied on is dropped and counted; one that replays is dropped and counted; READ, WRITE, READ_BLOCK, WRITE_BLOCK and COMMIT are answered once under the request's sequence, with the status and the contents that the tables give. -/
def Obligations.CxopRequestsAreAnsweredOnce : Prop := ∀ (s : State) (r : CxReq),
  (s.cxArrives r = true → s.cxReliable r = false → r.kind ∈ [1, 2, 3, 4, 5, 6, 9, 10, 11] → ∀ c : Instr,
    c = (match r.kind with | 1 => .read r | 2 => .write r | 3 => .readBlock r | 4 => .writeBlock r | 5 => .commit r | 6 => .subscribe r | 9 => .open_ r | 10 => .prove r | _ => .close r) →
    exec c s = .next (s.count (okey 0x1022 4) 32))
  ∧ (∀ x, s.cxArrives r = true → s.cxReliable r = true → s.session? r.session = some x → x.proved = true → r.seq ≤ x.highSeq → ∀ c : Instr,
    (r.kind = 1 ∧ c = .read r ∨ r.kind = 2 ∧ c = .write r ∨ r.kind = 3 ∧ c = .readBlock r ∨ r.kind = 4 ∧ c = .writeBlock r ∨ r.kind = 5 ∧ c = .commit r ∨ r.kind = 6 ∧ c = .subscribe r ∨ r.kind = 11 ∧ c = .close r) →
    exec c s = .next ((s.count (okey 0x1022 3) 32).orObj (okey 0x1002 1) 0x20))
  ∧ (let u := s.taken r
    let rq := u.ctxRequester (.session r.session)
    (∀ fs, s.takes r 1 → parseRefs 64 r.payload = some fs → ∃ t, exec (.read r) s = .next t ∧ t = { u with out := t.out }
      ∧ t.out = ((segments [] [] (fs.map (u.refBytes rq))).zipIdx.map fun x =>
          Out.cxop r.session 0x81 (u.pduFlags + if x.2 + 1 < (segments [] [] (fs.map (u.refBytes rq))).length then 2 else 0) r.seq 0 x.2 x.1).reverse ++ u.out)
    ∧ (s.takes r 2 → r.payload.length % 16 = 0 → (records 16 r.payload).length ≤ 64 → (∀ b ∈ records 16 r.payload, leAt b 4 4 = 0) →
      let w := (records 16 r.payload).foldl (fun (x : State × List Byte) b =>
        let y := x.1.writeItem rq r.session (leAt b 0 2) (leAt b 2 1) (leAt b 3 1) (BitVec.ofNat 64 (leAt b 8 8))
        (y.1, x.2 ++ slice b 0 3 ++ [0#8] ++ leBytes 2 y.2 ++ [0#8, 0#8])) (u, [])
      exec (.write r) s = .next (w.1.emit (.cxop r.session 0x82 w.1.pduFlags r.seq 0 0 w.2)))
    ∧ (s.takes r 3 → r.payload.length = 12 → leAt r.payload 3 1 = 0 → 1 ≤ leAt r.payload 8 4 → leAt r.payload 8 4 ≤ 1024 →
      let off := leAt r.payload 4 4
      (∀ e, u.blockContents rq (leAt r.payload 0 2) (leAt r.payload 2 1) off = .error e → exec (.readBlock r) s = .next (u.emit (.cxop r.session 0x83 u.pduFlags r.seq e 0 [])))
      ∧ ∀ v bs, u.blockContents rq (leAt r.payload 0 2) (leAt r.payload 2 1) off = .ok (v, bs) →
        exec (.readBlock r) s = .next (v.emit (.cxop r.session 0x83 v.pduFlags r.seq 0 0 (leBytes 4 bs.length ++ leBytes 4 off ++ (bs.drop off).take (leAt r.payload 8 4)))))
    ∧ (s.takes r 4 → 12 ≤ r.payload.length → r.payload.length ≤ 1036 → leAt r.payload 3 1 = 0 →
      let w := u.blockSegment rq r.session r.payload (bit r.flags 1)
      exec (.writeBlock r) s = .next (w.1.emit (.cxop r.session 0x84 w.1.pduFlags r.seq w.2 0 [])))
    ∧ (s.takes r 5 → r.payload.length = 8 → let v : Word64 := BitVec.ofNat 64 (leAt r.payload 0 8)
      let x := u.ctx (.session r.session)
      let e := u.setCtx (.session r.session) { x with staging := [] }
      (v ≠ 0#64 → u.netTime < v.toNat → x.timed = none → exec (.commit r) s = .next (u.setCtx (.session r.session) { x with staging := [], timed := some ⟨v, x.staging, BitVec.ofNat 32 r.seq⟩ }))
      ∧ (v ≠ 0#64 → u.netTime < v.toNat → x.timed.isSome = true → exec (.commit r) s = .next (u.emit (.cxop r.session 0x85 u.pduFlags r.seq 0x000B 0 (List.replicate 16 0#8))))
      ∧ (v = 0#64 → ∀ err key, e.applySet (e.ctxRequester (.session r.session)) x.staging = .error (err, key) →
          exec (.commit r) s = .next (e.commitAnswer r.session r.seq err key e.netTime64))
      ∧ (v = 0#64 → ∀ w, e.applySet (e.ctxRequester (.session r.session)) x.staging = .ok w → let a := w.setCtx (.session r.session) { w.ctx (.session r.session) with applied := w.netTime64 }
          exec (.commit r) s = .next (a.commitAnswer r.session r.seq 0 0 a.netTime64))))

/-- R43, R44, R45: OPEN allocates an unproved session, refused with 0x000B when eight exist; a PROVE that verifies opens it, one that fails frees it and counts; a session closes on CLOSE and on its two timeouts, and its subscriptions go with it; SUBSCRIBE binds a sub_id to a publishing entry, at most 64 in all, and its cancel frees it. -/
def Obligations.SessionsOpenAndClose : Prop := ∀ (s : State),
  (∀ r, s.cxArrives r = true → s.cxReliable r = true → r.kind = 9 → r.session = 0 → r.payload.length = 173 → (leAt r.payload 0 1 = 0 ∨ leAt r.payload 0 1 = 4) → leAt r.payload 1 3 = 0 →
    s.objN (okey 0x7420 2) ≠ 2 → s.fwRuns 0 = true →
    (8 ≤ s.sessions.length → exec (.open_ r) s = .next (s.emit (.cxop 0 0x89 s.pduFlags r.seq 0x000B 0 [])))
    ∧ (s.sessions.length < 8 → ∃ t x p, exec (.open_ r) s = .next t ∧ t.sessions = s.sessions ++ [x] ∧ x.proved = false ∧ x.highSeq = 0 ∧ x.sid ≠ 0 ∧ s.session? x.sid = none
      ∧ x.service = decide (leAt r.payload 0 1 = 4) ∧ x.keyId = leAt r.payload 4 4 ∧ x.openedAt = s.now
      ∧ t.out = .cxop x.sid 0x89 s.pduFlags r.seq 0 0 (leBytes 4 x.sid ++ p) :: s.out ∧ t = { s with sessions := t.sessions, out := t.out, free := t.free }))
  ∧ (∀ r x key sec, s.cxArrives r = true → s.cxReliable r = true → r.kind = 10 → s.session? r.session = some x → x.proved = false → x.highSeq < r.seq → r.payload.length = 132 → s.fwRuns 0 = true →
    (s.taken r).keyById (if x.service then 4 else 0) x.keyId = some (key, sec) →
    (Config.ecdsaVerify key x.proofBytes r.payload = true → ∃ t y, exec (.prove r) s = .next t ∧ t.session? r.session = some y ∧ y.proved = true ∧ y.secure = (x.service && sec)
      ∧ y.mask = (s.obj (okey 0x1024 2)).setWidth 32 ∧ t.oBit (okey 0x1002 1) 2 = true ∧ t.objN (okey 0x1022 1) = (t.sessions.filter (·.proved)).length % 2 ^ 64)
    ∧ (Config.ecdsaVerify key x.proofBytes r.payload = false → ∃ t, exec (.prove r) s = .next t ∧ t.session? r.session = none
      ∧ t.objN (okey 0x1022 2) = (s.objN (okey 0x1022 2) + 1) % 2 ^ 32 ∧ t.oBit (okey 0x1002 1) 4 = true))
  ∧ (∀ r, s.takes r 11 → r.payload = [] → ∃ t, exec (.close r) s = .next t ∧ t.session? r.session = none ∧ (∀ x ∈ t.subs, x.sid ≠ r.session) ∧ t.oBit (okey 0x1002 1) 3 = true
      ∧ t.out = .cxop r.session 0x8b s.pduFlags r.seq 0 0 [] :: s.out)
  ∧ (∀ sid x, s.session? sid = some x → x.proved = false → 10 ^ 9 ≤ (s.now - x.openedAt).toNat →
      ∃ t, exec (.openProveTimeout sid) s = .next t ∧ t.session? sid = none ∧ t.objN (okey 0x1022 2) = (s.objN (okey 0x1022 2) + 1) % 2 ^ 32)
  ∧ (∀ sid x, s.session? sid = some x → x.proved = true → s.objN (okey 0x1020 4) * 10 ^ 6 < (s.now - x.lastUsed).toNat →
      ∃ t, exec (.sessionIdleTimeout sid) s = .next t ∧ t.session? sid = none ∧ (∀ x ∈ t.subs, x.sid ≠ sid) ∧ t.oBit (okey 0x1002 1) 3 = true)
  ∧ (∀ r fs, s.takes r 6 → 4 ≤ r.payload.length → leAt r.payload 0 1 < 64 → leAt r.payload 1 1 ≤ 1 → parseRefs 32 (r.payload.drop 4) = some fs →
      let sub := leAt r.payload 0 1
      let e := leAt r.payload 2 2
      let others := s.subs.filter fun x => x.sid != r.session || x.subId != sub
      (leAt r.payload 1 1 = 1 → ∃ t, exec (.subscribe r) s = .next t ∧ t.subs = others ∧ t.out = .cxop r.session 0x86 s.pduFlags r.seq 0 0 [] :: s.out)
      ∧ (leAt r.payload 1 1 = 0 → (1024 ≤ e ∨ s.cadAction e ≠ 6) → ∃ t, exec (.subscribe r) s = .next t ∧ t.subs = s.subs ∧ t.out = .cxop r.session 0x86 s.pduFlags r.seq 0x0011 0 [] :: s.out)
      ∧ (leAt r.payload 1 1 = 0 → e < 1024 → s.cadAction e = 6 → 64 ≤ others.length → ∃ t, exec (.subscribe r) s = .next t ∧ t.subs = s.subs ∧ t.out = .cxop r.session 0x86 s.pduFlags r.seq 0x0010 0 [] :: s.out)
      ∧ (leAt r.payload 1 1 = 0 → e < 1024 → s.cadAction e = 6 → others.length < 64 → ∃ t, exec (.subscribe r) s = .next t ∧ t.subs = others ++ [⟨r.session, sub, e, fs⟩]
          ∧ t.objN (okey 0x1023 1) = t.subs.length ∧ t.out = .cxop r.session 0x86 s.pduFlags r.seq 0 0 [] :: s.out))

/-! ### Controller ops (chapter 5) -/

/-- Table 5-6, R119: SMOVI, SALU, SCMP and PSET write their destination register, s0 excepted, with the value of the table, and nothing else beside what every op writes; a SALU shift of 64 or more writes a free value (the model's choice, log entry 21). -/
def Obligations.ScalarOpsWriteTheirRegister : Prop := ∀ (s : State) (n : Fin 16) (w : BitVec 120),
  (let op := mkOp 0x08 w
   s.opReady n op [(95, 91), (63, 0)] → s.waitOk n op → s.signalFits n op →
   ∃ t, exec (.smovi n w) s = .next t ∧ s.OpDone t s n op ((s.pc n + 16) % 2 ^ 64) ((s.core n).setS (fld op 95 91) (BitVec.ofNat 64 (fld op 63 0))) []
     ∧ t.free = s.free ∧ (∀ i, (t.core n).s i = if i = fld op 95 91 ∧ i ≠ 0 then BitVec.ofNat 64 (fld op 63 0) else (s.core n).s i))
  ∧ (let op := mkOp 0x09 w
   let a := (s.core n).s (fld op 90 86)
   let b := if bit op 76 then imm32 op else (s.core n).s (fld op 85 81)
   let v : Word64 := match fld op 80 77 with
     | 0 => a + b | 1 => a - b | 2 => a * b | 3 => a &&& b | 4 => a ||| b | 5 => a ^^^ b
     | 6 => if b.toNat < 64 then a <<< b.toNat else Config.freeValue s.free
     | 7 => if b.toNat < 64 then a >>> b.toNat else Config.freeValue s.free
     | 8 => if b.toNat < 64 then a.sshiftRight b.toNat else Config.freeValue s.free
     | 9 => if a.slt b then a else b
     | _ => if a.slt b then b else a
   s.opReady n op [(95, 91), (90, 86), (85, 81), (80, 77), (76, 76), (31, 0)] → s.waitOk n op → s.signalFits n op → fld op 80 77 ≤ 10 →
   ∃ t, exec (.salu n w) s = .next t ∧ s.OpDone t s n op ((s.pc n + 16) % 2 ^ 64) ((s.core n).setS (fld op 95 91) v) []
     ∧ t.free = s.free + (if 6 ≤ fld op 80 77 ∧ fld op 80 77 ≤ 8 ∧ 64 ≤ b.toNat then 1 else 0)
     ∧ (∀ i, (t.core n).s i = if i = fld op 95 91 ∧ i ≠ 0 then v else (s.core n).s i))
  ∧ (let op := mkOp 0x0a w
   let a := (s.core n).s (fld op 92 88)
   let b := if bit op 79 then imm32 op else (s.core n).s (fld op 87 83)
   let v : Bool := match fld op 82 80 with
     | 0 => decide (a = b) | 1 => decide (a ≠ b) | 2 => decide (a.toInt < b.toInt) | 3 => decide (b.toInt ≤ a.toInt)
     | 4 => decide (a.toNat < b.toNat) | _ => decide (b.toNat ≤ a.toNat)
   s.opReady n op [(95, 93), (92, 88), (87, 83), (82, 80), (79, 79), (31, 0)] → s.waitOk n op → s.signalFits n op → fld op 82 80 ≤ 5 →
   ∃ t, exec (.scmp n w) s = .next t ∧ s.OpDone t s n op ((s.pc n + 16) % 2 ^ 64) ((s.core n).setP (fld op 95 93) (if v then 1#32 else 0#32)) []
     ∧ t.free = s.free ∧ (∀ i, (t.core n).p i = if i = fld op 95 93 then (if v then 1#32 else 0#32) else (s.core n).p i))
  ∧ (let op := mkOp 0x0b w
   let v : Word32 := BitVec.ofNat 32 (((s.core n).s (fld op 92 88)).toNat + fld op 31 0)
   s.opReady n op [(95, 93), (92, 88), (31, 0)] → s.waitOk n op → s.signalFits n op →
   ∃ t, exec (.pset n w) s = .next t ∧ s.OpDone t s n op ((s.pc n + 16) % 2 ^ 64) ((s.core n).setP (fld op 95 93) v) []
     ∧ t.free = s.free ∧ (∀ i, (t.core n).p i = if i = fld op 95 93 then v else (s.core n).p i))

/-- R95, R121, R122, R131, Table 5-6: NOP passes, BR is taken, LOOP counts p[pl] down and branches while it is nonzero, SEED loads the generator; FENCE passes when the queues of its scope have drained and HALT when everything of the core has, until then each holds dispatch, and a HALT with a slot open is ledger_misuse; a WAIT for n takes n from its counter or holds dispatch until WAIT_GRANTED finds n there, and one for 0 is illegal (the model's reading of a reserved value, log entry 62); the head of a queue takes its wait when the counter allows it. -/
def Obligations.ControlFlowAndWaits : Prop :=
  (∀ (s : State) (n : Fin 16) (w : BitVec 120),
  (let op := mkOp 0x00 w
   s.opReady n op [] → s.waitOk n op → s.signalFits n op →
   ∃ t, exec (.nop n w) s = .next t ∧ s.OpDone t s n op ((s.pc n + 16) % 2 ^ 64) (s.core n) [] ∧ t.free = s.free)
  ∧ (let op := mkOp 0x02 w
   s.opReady n op [(95, 64)] → s.waitOk n op → s.signalFits n op →
   ∃ t, exec (.br n w) s = .next t ∧ s.OpDone t s n op (((s.pc n : Int) + 16 * sext 32 (fld op 95 64)) % 2 ^ 64).toNat (s.core n) [] ∧ t.free = s.free)
  ∧ (let op := mkOp 0x03 w
   let p := (s.core n).p (fld op 95 93)
   let pc : Nat := if 2 ≤ p.toNat then (((s.pc n : Int) + 16 * sext 32 (fld op 92 61)) % 2 ^ 64).toNat else (s.pc n + 16) % 2 ^ 64
   s.opReady n op [(95, 93), (92, 61)] → s.waitOk n op → s.signalFits n op →
   ∃ t, exec (.loop n w) s = .next t ∧ t.free = s.free
     ∧ s.OpDone t s n op pc (if p = 0#32 then s.core n else (s.core n).setP (fld op 95 93) (p - 1#32)) []
     ∧ (∀ i, (t.core n).p i = if i = fld op 95 93 then BitVec.ofNat 32 (p.toNat - 1) else (s.core n).p i))
  ∧ (let op := mkOp 0x10 w
   s.opReady n op [(95, 91)] → s.waitOk n op → s.signalFits n op →
   ∃ t, exec (.seed n w) s = .next t ∧ t.free = s.free
     ∧ s.OpDone t (s.setObj (kSr n) (srLoad ((s.core n).s (fld op 95 91)))) n op ((s.pc n + 16) % 2 ^ 64) (s.core n) [kSr n]))
  ∧ (∀ (s : State) (n : Fin 16) (w : BitVec 120),
  (let op := mkOp 0x04 w
   s.opReady n op [(95, 89)] → s.waitOk n op →
   ((s.core n).drained (fld op 95 89) (s.core n).nextSeq = true → s.signalFits n op →
     ∃ t, exec (.fence n w) s = .next t ∧ s.OpDone t s n op ((s.pc n + 16) % 2 ^ 64) (s.core n) [] ∧ t.free = s.free)
   ∧ ((s.core n).drained (fld op 95 89) (s.core n).nextSeq = false →
     ∃ t, exec (.fence n w) s = .next t ∧ t.core n = { s.core n with stepping := false, hold := .fence op (s.pc n) } ∧ (∀ j, j ≠ n → t.core j = s.core j)
       ∧ s.objsBut t (opKeys n op) ∧ t.objN (kRetired n) = s.objN (kRetired n) ∧ t = { s with objs := t.objs, cores := t.cores }))
  ∧ (let op := mkOp 0x01 w
   s.opReady n op [] → s.waitOk n op →
   ((s.core n).openSlots ≠ [] → ∃ t, exec (.halt n w) s = .next t ∧ (s.upCore n fun c => { c with stepping := false }).Stopped t n 0 (s.pc n) ⟨0x06, 0x01, 0⟩)
   ∧ ((s.core n).openSlots = [] → (s.core n).allDone = true → ∀ g, (s.core n).seg = some g → (s.core n).segs = [] → (∀ v, s.inv? (s.holder n) g.inv = some v → v.req.kind ≠ 1) → s.signalFits n op →
     ∃ t, exec (.halt n w) s = .next t ∧ (t.core n).seg = none ∧ (t.core n).hold = .none ∧ t.coreState n = 0 ∧ t.objN (kRetired n) = (s.objN (kRetired n) + 1) % 2 ^ 64
       ∧ (∀ j, j ≠ n → t.core j = s.core j) ∧ s.objsBut t (opKeys n op ++ [kCore n 0 1, kCore n 4 9]) ∧ t = { s with objs := t.objs, cores := t.cores })
   ∧ ((s.core n).openSlots = [] → (s.core n).allDone = false →
     ∃ t, exec (.halt n w) s = .next t ∧ t.core n = { s.core n with stepping := false, hold := .halt op (s.pc n) } ∧ (∀ j, j ≠ n → t.core j = s.core j)
       ∧ s.objsBut t (opKeys n op) ∧ t.objN (kRetired n) = s.objN (kRetired n) ∧ t = { s with objs := t.objs, cores := t.cores })))
  ∧ (∀ (s : State) (n : Fin 16),
  (∀ w, let op := mkOp 0x81 w
   let i := fld op 95 91
   let k := fld op 90 75
   s.opReady n op [(95, 91), (90, 75)] → s.waitOk n op →
   (k ≠ 0 → k ≤ s.ctr n i - headerTakes op i → s.signalFits n op →
     ∃ t, exec (.wait n w) s = .next t ∧ t.objN (kPc n) = (s.pc n + 16) % 2 ^ 64 ∧ t.objN (kRetired n) = (s.objN (kRetired n) + 1) % 2 ^ 64
       ∧ (∀ j < 32, t.ctr n j = s.ctr n j - headerTakes op j - (if j = i then k else 0) + headerAdds op j)
       ∧ t.core n = { s.core n with stepping := false, lastRetire := s.now, elapsed := 0 } ∧ (∀ j, j ≠ n → t.core j = s.core j)
       ∧ s.objsBut t (kCtr n i :: opKeys n op) ∧ t = { s with objs := t.objs, cores := t.cores })
   ∧ (k ≠ 0 → s.ctr n i - headerTakes op i < k →
     ∃ t, exec (.wait n w) s = .next t ∧ t.core n = { s.core n with stepping := false, hold := .wait op (s.pc n) } ∧ (∀ j, j ≠ n → t.core j = s.core j)
       ∧ (∀ j < 32, t.ctr n j = s.ctr n j - headerTakes op j) ∧ s.objsBut t (opKeys n op) ∧ t.objN (kRetired n) = s.objN (kRetired n) ∧ t = { s with objs := t.objs, cores := t.cores })
   ∧ (k = 0 → ∃ t, exec (.wait n w) s = .next t ∧ (s.upCore n fun c => { c with stepping := false }).Stopped t n 0 (s.pc n) ⟨0x01, 0x02, 0⟩))
  ∧ (∀ op a, (s.core n).hold = .wait op a →
   let i := fld op 95 91
   let k := fld op 90 75
   (k ≤ s.ctr n i → (s.core n).earlierWaits i (s.core n).nextSeq = false → (opSe op = false ∨ s.ctr n (opSig op) + 1 < 2 ^ 32) →
     ∃ t, exec (.waitGranted n .ctl) s = .next t ∧ t.objN (kRetired n) = (s.objN (kRetired n) + 1) % 2 ^ 64
       ∧ (∀ j < 32, t.ctr n j = s.ctr n j - (if j = i then k else 0) + headerAdds op j)
       ∧ t.core n = { s.core n with hold := .none, lastRetire := s.now, elapsed := 0 } ∧ (∀ j, j ≠ n → t.core j = s.core j)
       ∧ s.objsBut t (kCtr n i :: opKeys n op) ∧ t.objN (kPc n) = s.objN (kPc n) ∧ t = { s with objs := t.objs, cores := t.cores })
   ∧ (s.ctr n i < k → exec (.waitGranted n .ctl) s = .next s))
  ∧ (∀ q o, q ≠ .ctl → (s.core n).headOf q = some o →
    (o.granted = true ∨ s.ctr n (opWait o.op) = 0 → exec (.waitGranted n q) s = .next s)
    ∧ (o.granted = false → 0 < s.ctr n (opWait o.op) → (s.core n).earlierWaits (opWait o.op) o.seq = false →
      ∃ u, exec (.waitGranted n q) s = .next (u.kick n) ∧ u.ctr n (opWait o.op) = s.ctr n (opWait o.op) - 1
        ∧ (u.core n).q q = ((s.core n).q q).map (fun x => if x.seq = o.seq then { x with granted := true } else x)
        ∧ s.objsBut u [kCtr n (opWait o.op)] ∧ u = { s with objs := u.objs, cores := u.cores })))

/-- Table 5-6: SLD, SST and DESC reach the local store at s[addr_reg] + offset where it is aligned and lies inside, and what SLD and DESC read is not poisoned; DADD adds to base[47:0] alone. -/
def Obligations.LocalStoreOps : Prop := ∀ (s : State) (n : Fin 16) (w : BitVec 120),
  (let op := mkOp 0x0c w
   let o := ((s.core n).s (fld op 90 86) + imm32 op).toNat
   s.opReady n op [(95, 91), (90, 86), (31, 0)] → s.waitOk n op → s.signalFits n op →
   o % 8 = 0 → o + 8 ≤ 0x800000 → s.poisonedAt (lstoreBase n + o) 8 = none →
   ∃ t, exec (.sld n w) s = .next t ∧ t.free = s.free
     ∧ s.OpDone t s n op ((s.pc n + 16) % 2 ^ 64) ((s.core n).setS (fld op 95 91) (BitVec.ofNat 64 (s.rdN (lstoreBase n + o) 8))) []
     ∧ (∀ i, (t.core n).s i = if i = fld op 95 91 ∧ i ≠ 0 then BitVec.ofNat 64 (s.rdN (lstoreBase n + o) 8) else (s.core n).s i))
  ∧ (let op := mkOp 0x0d w
   let o := ((s.core n).s (fld op 90 86) + imm32 op).toNat
   s.opReady n op [(95, 91), (90, 86), (31, 0)] → s.waitOk n op → s.signalFits n op → o % 8 = 0 → o + 8 ≤ 0x800000 →
   ∃ t, exec (.sst n w) s = .next t ∧ t.free = s.free
     ∧ s.OpDone t (s.wr (lstoreBase n + o) (leBytes 8 ((s.core n).s (fld op 95 91)).toNat)) n op ((s.pc n + 16) % 2 ^ 64) (s.core n) []
     ∧ t.rdN (lstoreBase n + o) 8 = ((s.core n).s (fld op 95 91)).toNat
     ∧ (∀ a, (a < lstoreBase n + o ∨ lstoreBase n + o + 8 ≤ a) → t.byte a = s.byte a))
  ∧ (let op := mkOp 0x0e w
   let o := ((s.core n).s (fld op 91 87) + imm32 op).toNat
   s.opReady n op [(95, 92), (91, 87), (31, 0)] → s.waitOk n op → s.signalFits n op →
   o % 64 = 0 → o + 64 ≤ 0x800000 → s.poisonedAt (lstoreBase n + o) 64 = none →
   ∃ t, exec (.desc n w) s = .next t ∧ t.free = s.free
     ∧ s.OpDone t s n op ((s.pc n + 16) % 2 ^ 64) ((s.core n).setT (fld op 95 92) (BitVec.ofNat 512 (s.rdN (lstoreBase n + o) 64))) []
     ∧ (∀ i, (t.core n).t i = if i = fld op 95 92 then BitVec.ofNat 512 (s.rdN (lstoreBase n + o) 64) else (s.core n).t i))
  ∧ (let op := mkOp 0x0f w
   let d := (s.core n).t (fld op 95 92)
   let d' := setFld d 47 0 (fld d 47 0 + ((s.core n).s (fld op 91 87) + imm32 op).toNat)
   s.opReady n op [(95, 92), (91, 87), (31, 0)] → s.waitOk n op → s.signalFits n op →
   ∃ t, exec (.dadd n w) s = .next t ∧ t.free = s.free
     ∧ s.OpDone t s n op ((s.pc n + 16) % 2 ^ 64) ((s.core n).setT (fld op 95 92) d') []
     ∧ (∀ i, (t.core n).t i = if i = fld op 95 92 then d' else (s.core n).t i))

/-! ### Dispatch, waits and signals (chapter 5) -/

/-- R111, R117, R131: an op whose predicate is false neither waits nor signals: the pc passes it, it counts as retired, and nothing else happens, whichever op it is. What cannot be dispatched yet changes nothing: an op of a core that is idle, halted, held or stopped, a controller op whose wait is not granted, and an engine op whose queue is full. -/
def Obligations.OpsSkipOrWait : Prop :=
  (∀ (c : Instr) (n : Fin 16) (op : OpWord) (fields : List (Nat × Nat)) (s : State), opForm c = some (n, op, fields) →
  s.canDispatch n = true → s.inStream n = true → opReservedOk op fields = true →
  bit op 119 = true → (bit op 118 = true ↔ (s.core n).p (fld op 117 115) ≠ 0#32) →
  ∃ t, exec c s = .next t ∧ t.objN (kPc n) = (s.pc n + 16) % 2 ^ 64 ∧ t.objN (kRetired n) = (s.objN (kRetired n) + 1) % 2 ^ 64
    ∧ t.core n = { s.core n with stepping := false, lastRetire := s.now, elapsed := 0 } ∧ (∀ j, j ≠ n → t.core j = s.core j)
    ∧ s.objsBut t [kPc n, kRetired n] ∧ t = { s with objs := t.objs, cores := t.cores })
  ∧ (∀ (c : Instr) (n : Fin 16) (op : OpWord) (fields : List (Nat × Nat)) (s : State), opForm c = some (n, op, fields) →
  (s.canDispatch n = false → exec c s = .next s)
  ∧ (s.opReady n op fields → useOf op = none → opWe op = true → s.ctr n (opWait op) = 0 → exec c s = .next s)
  ∧ (s.opReady n op fields → ∀ u, useOf op = some u → Queue.depth u.queue ≤ (s.core n).level u.queue → exec c s = .next s))

/-- R118, R137, R143, Table 5-16: an opcode absent from Table 5-3 raises illegal_op detail 0x01 and a nonzero reserved field detail 0x02, at dispatch, and an op word beyond the stream raises detail 0x0A; each stops the core with the pc recorded. -/
def Obligations.BadOpWordsAreIllegal : Prop :=
  (∀ (c : Instr) (n : Fin 16) (op : OpWord) (fields : List (Nat × Nat)) (s : State), opForm c = some (n, op, fields) → s.canDispatch n = true →
    (s.inStream n = true → opReservedOk op fields = false → ∃ t, exec c s = .next t ∧ s.Stopped t n 0 (s.pc n) ⟨0x01, 0x02, 0⟩)
    ∧ (s.inStream n = false → ∃ t, exec c s = .next t ∧ s.Stopped t n 0 (s.pc n) ⟨0x01, 0x0a, 0⟩))
  ∧ ∀ (n : Fin 16) (w : OpWord) (s : State), (Instr.reservedOpcode n w).wf = true → s.canDispatch n = true →
    ∃ t, exec (.reservedOpcode n w) s = .next t ∧ s.Stopped t n 0 (s.pc n) ⟨0x01, if s.inStream n then 0x01 else 0x0a, 0⟩

/-- R132, Table 5-6: a SIGNAL without a drain sets the target's counter or adds to it; one with a drain joins the pending list, or stalls as the ninth, and is applied once its scope has drained. -/
def Obligations.SignalsReachTheirCounter : Prop := ∀ (s : State) (n : Fin 16),
  (∀ w, let op := mkOp 0x80 w
   let tg := fld op 90 87
   let i := fld op 95 91
   let v := fld op 85 70
   s.opReady n op [(95, 91), (90, 87), (86, 86), (85, 70), (69, 63)] → s.waitOk n op →
   let base : Nat := if bit op 86 then v else s.ctr tg i - (if tg = n then headerTakes op i else 0) + v
   (fld op 69 64 = 0 → s.holder tg = s.holder n → (bit op 86 = true ∨ base < 2 ^ 32) →
     (opSe op = false ∨ (if tg = n ∧ opSig op = i then base else s.ctr n (opSig op)) + 1 < 2 ^ 32) →
     ∃ t, exec (.signal n w) s = .next t ∧ t.objN (kPc n) = (s.pc n + 16) % 2 ^ 64 ∧ t.objN (kRetired n) = (s.objN (kRetired n) + 1) % 2 ^ 64
       ∧ (∀ j < 32, t.ctr n j = (if tg = n ∧ j = i then base else s.ctr n j - headerTakes op j) + headerAdds op j) ∧ (tg ≠ n → t.ctr tg i = base)
       ∧ t.core n = { s.core n with stepping := false, lastRetire := s.now, elapsed := 0 } ∧ (∀ j, j ≠ n → t.core j = s.core j)
       ∧ s.objsBut t (kCtr tg i :: opKeys n op) ∧ t = { s with objs := t.objs, cores := t.cores })
   ∧ (fld op 69 64 ≠ 0 → (s.core n).pend.length < 8 →
     ∃ t, exec (.signal n w) s = .next t ∧ t.core n = { s.core n with stepping := false, pend := (s.core n).pend ++ [⟨op, s.pc n, (s.core n).nextSeq⟩] }
       ∧ (∀ j, j ≠ n → t.core j = s.core j) ∧ s.objsBut t (opKeys n op) ∧ t.objN (kRetired n) = s.objN (kRetired n) ∧ t.objN (kPc n) = (s.pc n + 16) % 2 ^ 64 ∧ t = { s with objs := t.objs, cores := t.cores })
   ∧ (fld op 69 64 ≠ 0 → 8 ≤ (s.core n).pend.length → exec (.signal n w) s = .next s))
  ∧ (∀ k p, (s.core n).pend[k]? = some p →
    let tg := fld p.op 90 87
    let i := fld p.op 95 91
    let v := fld p.op 85 70
    ((s.core n).drained (2 * fld p.op 69 64) p.seq = false → exec (.drainSignalApply n k) s = .next s)
    ∧ (let base : Nat := if bit p.op 86 then v else s.ctr tg i + v
      (s.core n).drained (2 * fld p.op 69 64) p.seq = true → s.holder tg = s.holder n → (bit p.op 86 = true ∨ base < 2 ^ 32) →
      (opSe p.op = false ∨ (if tg = n ∧ opSig p.op = i then base else s.ctr n (opSig p.op)) + 1 < 2 ^ 32) →
      (∀ op a, (s.core n).hold ≠ .halt op a ∧ (s.core n).hold ≠ .fence op a ∧ (s.core n).hold ≠ .aclose op a) → (s.core n).hold ≠ .stopped →
      ∃ t, exec (.drainSignalApply n k) s = .next t
        ∧ (∀ j < 32, t.ctr n j = (if tg = n ∧ j = i then base else s.ctr n j) + headerAdds p.op j) ∧ (tg ≠ n → t.ctr tg i = base)
        ∧ t.objN (kRetired n) = (s.objN (kRetired n) + 1) % 2 ^ 64
        ∧ t.core n = { s.core n with pend := (s.core n).pend.take k ++ (s.core n).pend.drop (k + 1), lastRetire := s.now, elapsed := 0 }
        ∧ (∀ j, j ≠ n → t.core j = s.core j) ∧ s.objsBut t [kCtr tg i, kRetired n, kCtr n (opSig p.op)] ∧ t = { s with objs := t.objs, cores := t.cores }))

/-- R133: a SIGNAL to a core that its instance does not hold raises sync_fault, and so does every addition that would carry a counter past 0xFFFF_FFFF, a SIGNAL's or a header's; the counter keeps its value. -/
def Obligations.SignalFaults : Prop := ∀ (s : State) (n : Fin 16),
  (∀ w, let op := mkOp 0x80 w
   let tg := fld op 90 87
   let i := fld op 95 91
   s.opReady n op [(95, 91), (90, 87), (86, 86), (85, 70), (69, 63)] → s.waitOk n op → fld op 69 64 = 0 →
   (s.holder tg ≠ s.holder n ∨ bit op 86 = false ∧ 2 ^ 32 ≤ (s.entered n op).ctr tg i + fld op 85 70) →
   ∃ t, exec (.signal n w) s = .next t ∧ (s.entered n op).Stopped t n 0 (s.pc n) ⟨0x07, 0, 0⟩)
  ∧ (∀ k p, (s.core n).pend[k]? = some p → (s.core n).drained (2 * fld p.op 69 64) p.seq = true →
   (s.holder (fld p.op 90 87) ≠ s.holder n ∨ bit p.op 86 = false ∧ 2 ^ 32 ≤ s.ctr (fld p.op 90 87) (fld p.op 95 91) + fld p.op 85 70) →
   ∃ t, exec (.drainSignalApply n k) s = .next t ∧ s.Stopped t n 0 p.addr ⟨0x07, 0, 0⟩)
  ∧ (∀ w, let op := mkOp 0x00 w
   s.opReady n op [] → s.waitOk n op → opSe op = true → 2 ^ 32 ≤ (s.entered n op).ctr n (opSig op) + 1 →
   ∃ t, exec (.nop n w) s = .next t ∧ ((s.entered n op).retire n).Stopped t n 0 (s.pc n) ⟨0x07, 0, 0⟩)
  ∧ (∀ (x : State) (queue addr : Nat) (op : OpWord), (opSe op = true → 2 ^ 32 ≤ x.ctr n (opSig op) + 1 → x.Stopped (x.signalSe n queue addr op) n queue addr ⟨0x07, 0, 0⟩)
    ∧ ∀ (tg : Fin 16) i v, i < 32 → (2 ^ 32 ≤ x.ctr tg i + v → x.Stopped (x.addCtr n tg i v queue addr) n queue addr ⟨0x07, 0, 0⟩) ∧ (x.ctr tg i + v < 2 ^ 32 → (x.addCtr n tg i v queue addr).ctr tg i = x.ctr tg i + v))

/-- R104, R111, R112, R114, R131, R137: an engine op (MATMUL, CONV, ACCIN, READOUT, PCONV, PREAD, VLD, VST, VOP, TEW, TRED, TSMX, TNORM, GATHER, SCATTER, TPOOL, SHADE, DMOV, DFILL, COLL, KVSCATTER, ATTN, KVFETCH, AFOLD) that the controller finds no fault with enters its queue with the registers, transforms, address and tag as they stand, and the pc moves on; the head of a queue starts when its wait is granted and nothing in the core is in its way, and then has its effect or stops the core by its exception. SLAB_OP_START is this for the Slab's queue. -/
def Obligations.EngineOpsEnterAndStart : Prop :=
  (∀ (c : Instr) (n : Fin 16) (op : OpWord) (fields : List (Nat × Nat)) (u : OpUse) (s : State), opForm c = some (n, op, fields) → useOf op = some u →
  s.opReady n op fields → (s.core n).level u.queue < Queue.depth u.queue →
  let s1 := (s.setN (kPc n) (s.pc n + 16)).upCore n fun c => { c with stepping := false }
  let tag := s1.effTag n u.reads
  let x := s.core n
  let o : QOp := ⟨op, BitVec.ofNat 64 (s.pc n), x.nextSeq, x.sregs, x.tregs, x.trf, tag, !x.openSlots.isEmpty, !opWe op, false, false, 0⟩
  (∀ e, s1.dispatchFault n op u tag = some e → ∃ t, exec c s = .next t ∧ (s.upCore n fun c => { c with stepping := false }).Stopped t n 0 (s.pc n) e)
  ∧ (s1.dispatchFault n op u tag = none →
    let l := x.q u.queue ++ [o]
    let grant := decide (l.find? (fun y => !y.started) = some o) && opWe op && decide (s.ctr n (opWait op) ≠ 0)
    ∃ t, exec c s = .next (State.kickQ n u.queue 1 t)
      ∧ t.core n = { x.setQ u.queue (l.map fun y => if grant ∧ y.seq = o.seq then { y with granted := true } else y) with nextSeq := x.nextSeq + 1, stepping := false }
      ∧ (∀ j, j ≠ n → t.core j = s.core j) ∧ t.objN (kPc n) = (s.pc n + 16) % 2 ^ 64 ∧ t.ctr n (opWait op) = s.ctr n (opWait op) - (if grant then 1 else 0)
      ∧ s.objsBut t [kPc n, kCore n 4 8, kCtr n (opWait op)] ∧ t = { s with objs := t.objs, cores := t.cores }))
  ∧ (∀ (s : State) (n : Fin 16) (q : Queue),
  ((s.core n).headOf q = none → State.kickQ n q 1 s = s)
  ∧ (∀ o, (s.core n).headOf q = some o →
    (¬(o.granted = true ∧ (s.core n).clear q o = true) → State.kickQ n q 1 s = s)
    ∧ (o.granted = true → (s.core n).clear q o = true → ∃ e : State,
      (e.core n).q q = ((s.core n).q q).map (fun x => if x.seq = o.seq then { x with started := true, cycles := s.nowN } else x)
      ∧ (∀ j, j ≠ n → e.core j = s.core j) ∧ s.objsBut e [kCore n 4 8] ∧ e = { s with objs := e.objs, cores := e.cores }
      ∧ (q = .pebble → State.kickQ n q 1 s = e.setPebble (n / 4) { s.pebble (n / 4) with queue := (s.pebble (n / 4)).queue ++ [⟨n, o.seq⟩] })
      ∧ (q ≠ .pebble → opOf o.op = 0x64 → State.kickQ n q 1 s = e.collKick n)
      ∧ (q ≠ .pebble → opOf o.op ≠ 0x64 →
        (∀ u, performOp e n o = (u, none) → State.kickQ n q 1 s = u.markRan n q o.seq)
        ∧ (∀ u x, performOp e n o = (u, some x) → State.kickQ n q 1 s = u.except n (Queue.code q) o.addr.toNat x))))
  ∧ exec (.slabOpStart n) s = .next (State.kickQ n .slab 1 s))

/-- R90, R103-R105, R126, R158: PCONV and PREAD join the queue of their cluster's Pebble, which takes the forwarded ops in order of arrival and clears its banks and its line buffer when the next op comes from another instance or world; a PCONV adds the sum of its products modulo 2^32 to each accumulator of its tile, after its bank is cleared where the op says so, and a PREAD converts a tile of a bank and stores it. -/
def Obligations.PebbleOps : Prop :=
  (∀ (s : State) (c : Fin 4),
  ((s.pebble c).queue = [] → exec (.pebbleOp c) s = .next s)
  ∧ ∀ x rest, (s.pebble c).queue = x :: rest →
    ((s.core x.core).pebble.find? (fun o => o.seq = x.seq) = none → exec (.pebbleOp c) s = .next (s.setPebble c { s.pebble c with queue := rest }))
    ∧ ∀ o, (s.core x.core).pebble.find? (fun o => o.seq = x.seq) = some o → ∃ p : PebSt, p.queue = rest ∧ p.lastInst = some (s.holder x.core)
      ∧ p.lastSecure = decide (s.objN (kCore x.core 0 3) = 1)
      ∧ p.acc = (if (s.pebble c).lastInst = some (s.holder x.core) ∧ (s.pebble c).lastSecure = decide (s.objN (kCore x.core 0 3) = 1) then (s.pebble c).acc else [])
      ∧ p.line = (if (s.pebble c).lastInst = some (s.holder x.core) ∧ (s.pebble c).lastSecure = decide (s.objN (kCore x.core 0 3) = 1) then (s.pebble c).line else none)
      ∧ (∀ u, performOp (s.setPebble c p) x.core o = (u, none) → exec (.pebbleOp c) s = .next (u.markRan x.core .pebble x.seq))
      ∧ (∀ u e, performOp (s.setPebble c p) x.core o = (u, some e) → exec (.pebbleOp c) s = .next (u.except x.core 5 o.addr.toNat e)))
  ∧ (∀ (s : State) (n : Fin 16) (w : BitVec 120),
  let c := (n : Nat) / 4
  let joins (t : State) (op : OpWord) : Prop := t.pebble c = { s.pebble c with queue := (s.pebble c).queue ++ [⟨n, (s.core n).nextSeq⟩] } ∧ (∀ k, k ≠ c → t.pebble k = s.pebble k)
    ∧ (t.core n).pebble = [{ s.opRecord n op with started := true, cycles := s.nowN }] ∧ (t.core n).slab = (s.core n).slab ∧ (∀ j, j ≠ (n : Nat) → t.core j = s.core j)
    ∧ t.objN (kPc n) = (s.pc n + 16) % 2 ^ 64 ∧ s.objsBut t [kPc n, kCore n 4 8, kCtr n (opWait op)] ∧ t = { s with objs := t.objs, cores := t.cores, peb := t.peb }
  (s.OpGoes n (mkOp 0x28 w) [(95, 48)] .pebble → ∃ t, exec (.pconv n w) s = .next t ∧ joins t (mkOp 0x28 w))
  ∧ (s.OpGoes n (mkOp 0x29 w) [(95, 32)] .pebble → ∃ t, exec (.pread n w) s = .next t ∧ joins t (mkOp 0x29 w))
  ∧ (∀ (k : Fin 4) rest o, (k : Nat) = c → (s.pebble c).queue = ⟨n, o.seq⟩ :: rest → (s.core n).pebble.find? (fun x => x.seq = o.seq) = some o →
    (s.pebble c).lastInst = some (s.holder n) → (s.pebble c).lastSecure = decide (s.objN (kCore n 0 3) = 1) →
    let op := o.op
    let ran (t : State) : Prop := (t.pebble c).queue = rest ∧ (t.core n).pebble = (s.core n).pebble.map (fun x => if x.seq = o.seq then { x with ran := true } else x) ∧ (∀ j, j ≠ (n : Nat) → t.core j = s.core j)
    (opOf op = 0x28 → let a := o.d (fld op 95 92)
      let b := o.d (fld op 91 88)
      let acc (x : State) (r y : Nat) : Word32 := TMap.get (fun _ => 0#32) (x.pebble c).acc (pebKey (if bit op 48 then 1 else 0) r y)
      ∀ r kt, a.form [1, 2] = none → b.form [1] = none → a.fmt = codeINT8 → b.fmt = codeINT8 → s.window n (o.s (fld op 60 56)) = .ok r → declaredKt (o.s (fld op 65 61)) (r.kh * r.kw * a.dim 0) = .ok kt → kt ≤ 65536 →
      a.dim 3 = 1 → b.dim 1 = a.dim 0 → b.dim 2 = r.kw → b.dim 3 = r.kh → b.dim 0 ≤ 64 → fld op 73 66 + r.th * r.tw ≤ 64 → r.extentFault (a.dim 1) (a.dim 2) true = none →
      s.reachFault n a false = none → s.reachFault n b false = none →
      let sum (i x : Nat) : Int := (r.taps.map fun y => ((List.range (a.dim 0)).map fun ch =>
        (match r.tap true (a.dim 1) (a.dim 2) i y.1 y.2 with
          | some z => sext 8 (s.elemCode n a ch z.1 z.2 0)
          | none => sext 8 (r.padValue % 256)) * ((if o.trf.t1 then -1 else 1) * sext 8 (s.elemCode n b x ch y.2 y.1))).sum).sum
      ∃ t, exec (.pebbleOp k) s = .next t ∧ ran t ∧ t.mem = s.mem ∧ t.out = s.out
        ∧ (∀ i < r.th * r.tw, ∀ x < b.dim 0, acc t (fld op 73 66 + i) x = (if bit op 85 then 0#32 else acc s (fld op 73 66 + i) x) + BitVec.ofInt 32 (sum i x))
        ∧ ∀ y < 64, ∀ x < 64, ¬(fld op 73 66 ≤ y ∧ y < fld op 73 66 + r.th * r.tw ∧ x < b.dim 0) → acc t y x = if bit op 85 then 0#32 else acc s y x)
    ∧ (opOf op = 0x29 → let td := o.d (fld op 77 74)
      ∀ x, td.form [0, 1] = none → bit op 95 = false → fld op 65 64 = 0 → td.fmt ∈ [codeINT8, codeINT16, codeFP16, codeBF16] → fld op 85 78 + 1 = fld op 93 86 + td.dim 1 → fld op 85 78 ≤ 63 → td.dim 2 = 1 → td.dim 3 = 1 →
      fld op 73 66 + td.dim 0 ≤ 64 → s.colParamFault n o (fld op 61 60) (fld op 59 55) (td.dim 0) = none → s.colParamFault n o (fld op 54 53) (fld op 52 48) (td.dim 0) = none → s.reachFault n td true = none →
      s.readoutTile n o td false (td.coords.map fun y => FVal.ofRat false ((TMap.get (fun _ => 0#32) (s.pebble c).acc
        (pebKey (if bit op 94 then 1 else 0) (fld op 93 86 + y.2.1) (fld op 73 66 + y.1))).toInt : Rat)) (List.replicate td.count .rne) = .ok x →
      ∃ t, exec (.pebbleOp k) s = .next t ∧ ran t ∧ t.storesAs x.s ∧ t.out = s.out ∧ (t.pebble c).acc = (s.pebble c).acc)))

/-- R113, R132, R133: an op whose effect is done completes: it leaves its queue, retires and signals, and then what waited on it goes on; one that has not finished stays. -/
def Obligations.OpsCompleteAndSignal : Prop := ∀ (s : State) (n : Fin 16) (q : Queue) (i : Nat) (o : QOp), ((s.core n).q q)[i]? = some o →
  (¬(o.started = true ∧ o.ran = true) → exec (.opComplete n q i) s = .next s)
  ∧ (o.started = true → o.ran = true → (s.core n).hold ≠ .stopped → (opSe o.op = false ∨ s.ctr n (opSig o.op) + 1 < 2 ^ 32) →
    (∀ g v y, (s.core n).seg = some g → s.inv? (s.holder n) g.inv = some v → y ∈ v.outs → ¬(y.place.core.val = n ∧ y.place.opAddr = o.addr.toNat)) →
    ∃ u, exec (.opComplete n q i) s = .next ((u.kick n).releaseHold n)
      ∧ ((u.core n).q q).map (·.seq) = (((s.core n).q q).map (·.seq)).filter (· ≠ o.seq)
      ∧ (q ≠ .dma → (u.core n).q q = ((s.core n).q q).filter (fun x => x.seq != o.seq) ∧ s.objsBut u (kRetired n :: if opSe o.op then [kCtr n (opSig o.op)] else []))
      ∧ u.objN (kRetired n) = (s.objN (kRetired n) + 1) % 2 ^ 64 ∧ (∀ j < 32, u.ctr n j = s.ctr n j + headerAdds o.op j)
      ∧ (u.core n).lastRetire = s.now ∧ (u.core n).elapsed = 0 ∧ (∀ j, j ≠ n → u.core j = s.core j) ∧ u.mem = s.mem ∧ u.out = s.out)

/-- R138, Table 5-17: the watchdog stops a running core that holds work when watchdog_limit microseconds have passed since an op last retired, and no other core; a debug halt or a pre-emption stops its count. -/
def Obligations.WatchdogAndDebug : Prop := ∀ (s : State) (n : Fin 16),
  (let c := s.core n
   let due := decide (s.coreState n = 1) && decide (c.hold ≠ .stopped) && !c.preempt && (c.seg.isSome || !c.allOps.isEmpty)
     && decide (s.objN (kCore n 4 6) * 1000 ≤ c.elapsed + (s.nowN - c.lastRetire.toNat))
   (due = false → exec (.watchdogExpiry n) s = .next s)
   ∧ (due = true → ∃ t, exec (.watchdogExpiry n) s = .next t ∧ s.Stopped t n 0 (s.heldAddr n) ⟨0x05, 0, 0⟩))
  ∧ ((s.coreState n = 0 ∨ s.coreState n = 1) → (s.core n).openSlots = [] →
    ∃ t, exec (.debugHalt n) s = .next t ∧ t.coreState n = 4 ∧ t.core n = { s.core n with elapsed := (s.core n).elapsed + (s.nowN - (s.core n).lastRetire.toNat), lastRetire := s.now }
      ∧ (∀ j, j ≠ n → t.core j = s.core j) ∧ s.objsBut t [kCore n 0 1] ∧ t = { s with objs := t.objs, cores := t.cores })
  ∧ (s.coreState n = 4 → (s.core n).openSlots = [] →
    ∃ t, exec (.debugStep n) s = .next t ∧ t.core n = { s.core n with stepping := true } ∧ (∀ j, j ≠ n → t.core j = s.core j) ∧ t = { s with cores := t.cores })
  ∧ (s.coreState n = 4 →
    ∃ t, exec (.debugRelease n) s = .next t ∧ t.coreState n = (if (s.core n).seg.isSome then 1 else 0) ∧ t.core n = { s.core n with lastRetire := s.now, stepping := false }
      ∧ (∀ j, j ≠ n → t.core j = s.core j) ∧ s.objsBut t [kCore n 0 1] ∧ t = { s with objs := t.objs, cores := t.cores })

/-! ### What the engines compute (chapters 4 to 7 and 12) -/

/-- R99-R102, R211, R213, R306, Tables 5-10 and 5-11: VLD and VST move whole registers between the lanes and an aligned run of the local store; VOP writes each lane of its destination with the function of the table, a reduction its lane 0; SHADE loads a batch's inputs, runs its program and stores its exports; AFOLD folds a tensor into its slot's signature. No other register, no other core and no other byte changes. -/
def Obligations.VectorOps : Prop := ∀ (s : State) (n : Fin 16) (w : BitVec 120),
  let rot := (s.core n).trf.rot
  let base := lstoreBase n
  let still (t : State) : Prop := t.mem = s.mem ∧ t.poison = s.poison ∧ t.out = s.out
  let vregs (t : State) (op : OpWord) : Prop := ∃ v, s.OpRan t n op .mica { s.core n with vregs := v }
  let only (t : State) (r : Nat) : Prop := ∀ x < 256, x ≠ r → ∀ e < 256, t.lane n x e 0 = s.lane n x e 0
  let busy (t : State) (k : Nat) : Prop := t.objN (kCore n 2 2) = (s.objN (kCore n 2 2) + k) % 2 ^ 64
  (let op := mkOp 0x40 w
   let o := s.opRecord n op
   let cnt := fld op 87 80 + 1
   let a := (o.s (fld op 79 75) + BitVec.ofInt 64 (sfld op 74 43)).toNat
   s.OpGoes n op [(95, 43)] .mica → a % 64 = 0 → a + 1024 * cnt ≤ 0x800000 → s.poisonedAt (base + a) (1024 * cnt) = none →
   ∃ t, exec (.vld n w) s = .next t ∧ vregs t op ∧ still t ∧ t.free = s.free ∧ busy t ((cnt + 1) / 2)
     ∧ (∀ j < cnt, ∀ e < 256, t.lane n (fld op 95 88 + j) e rot = BitVec.ofNat 32 (s.rdN (base + a + 1024 * j + 4 * e) 4))
     ∧ (∀ x < 256, (∀ j < cnt, (fld op 95 88 + j) % 256 ≠ x) → ∀ e < 256, t.lane n x e 0 = s.lane n x e 0))
  ∧ (let op := mkOp 0x41 w
   let o := s.opRecord n op
   let cnt := fld op 87 80 + 1
   let a := (o.s (fld op 79 75) + BitVec.ofInt 64 (sfld op 74 43)).toNat
   s.OpGoes n op [(95, 43)] .mica → a % 64 = 0 → a + 1024 * cnt ≤ 0x800000 →
   ∃ t, exec (.vst n w) s = .next t ∧ s.OpRan t n op .mica (s.core n) ∧ t.out = s.out ∧ t.free = s.free ∧ busy t cnt
     ∧ (∀ j < cnt, t.rd (base + a + 1024 * j) 1024 = (List.range 256).flatMap fun e => leBytes 4 (s.lane n (fld op 95 88 + j) e rot).toNat)
     ∧ (∀ y, (y < base + a ∨ base + a + 1024 * cnt ≤ y) → t.byte y = s.byte y))
  ∧ (let op := mkOp 0x42 w
   let o := s.opRecord n op
   let code := fld op 95 88
   let func := code % 128
   let p := laneFmt (fld op 55 53)
   let bits := elemBits p.1
   let vd := fld op 87 80
   let lane (r e i : Nat) : Nat := subLane bits i (s.lane n r e rot)
   let b (e i : Nat) : Nat := if 128 ≤ code then scalarB p.1 (o.s (fld op 43 39)) else lane (fld op 71 64) e i
   s.OpGoes n op [(95, 39)] .mica → fld op 55 53 ≤ 5 →
   (func ∉ [0x18, 0x20, 0x21, 0x22] → micaKnown (isInt p.1) func = true →
     ∃ t, exec (.vop n w) s = .next t ∧ vregs t op ∧ still t ∧ t.free = s.free ∧ busy t 1 ∧ only t vd
       ∧ ∀ e < 256, t.lane n vd e rot = packLane bits ((List.range p.2).map fun i => laneFn p.1 func (lane (fld op 79 72) e i) (b e i) (lane (fld op 63 56) e i)))
   ∧ (func ∈ [0x20, 0x21, 0x22] → let f := if func = 0x20 then 0x00 else if func = 0x21 then 0x05 else 0x04
     ∃ t, exec (.vop n w) s = .next t ∧ vregs t op ∧ still t ∧ busy t 1 ∧ only t vd
       ∧ t.lane n vd 0 rot = packLane bits ((List.range p.2).map fun i => (treeReduce (fun x y => laneFn p.1 f x y 0) ((List.range 256).map fun e => lane (fld op 79 72) e i)).getD 0))
   ∧ (func = 0x18 → micaKnown (isInt p.1) func = true → fmtKnown (fld op 51 44) = true → isRaw (fld op 51 44) = false → bit op 52 = false →
     ∃ t dir, exec (.vop n w) s = .next t ∧ vregs t op ∧ still t ∧ busy t 1 ∧ only t vd
       ∧ ∀ e < 256, t.lane n vd e rot = packLane bits ((List.range p.2).map fun i => vopConvert dir p.1 (fld op 51 44) .rne (lane (fld op 79 72) e i))))
  ∧ (let op := mkOp 0x4f w
   let o := s.opRecord n op
   let b := (o.s (fld op 90 86)).toNat
   let prog := (o.s (fld op 95 91)).toNat
   let h := s.rd (base + b) 64
   let count := leAt h 4 2
   s.OpGoes n op [(95, 86)] .mica → (∃ p, s.gfxPart = some p ∧ s.partOf (s.holder n) = p) → (s.core n).openSlots = [] → b + 0x4000 ≤ 0x800000 → prog ≤ 0x800000 →
   (leAt h 0 1 = 0 → ∃ t, exec (.shade n w) s = .next t ∧ s.OpRan t n op .mica (s.core n) ∧ still t ∧ busy t 1)
   ∧ (1 ≤ leAt h 0 1 → leAt h 0 1 ≤ 2 → leAt h 3 1 = 0 → leAt h 0x14 44 = 0 → leAt h 1 1 = 1 → leAt h 2 1 = 1 → 1 ≤ count → count ≤ 256 → leAt h 8 2 = 1 →
     leAt h 6 2 + 1 ≤ 16384 → prog + 16 * (leAt h 6 2 + 1) ≤ 0x800000 →
     let x := BitVec.ofNat 128 (s.rdN (base + prog + 16 * leAt h 6 2) 16)
     fld x 119 103 = 0 → opOf x = 0x42 → fld x 95 88 = 0x14 → fld x 55 53 = 0 → fld x 87 80 = 0 → fld x 79 72 = 0 →
     ∃ t, exec (.shade n w) s = .next t ∧ vregs t op ∧ t.out = .garnetNotify n (leAt h 0xc 4) (leAt h 0x10 4) :: s.out
       ∧ (∀ y < 0x10000000000, (y < base + b + 0x1c40 ∨ base + b + 0x2040 ≤ y) → t.byte y = s.byte y)
       ∧ ∀ e < count, t.rdN (base + b + 0x1c40 + 4 * e) 4 = (packLane 32 [laneFn codeFP32 0x14 (s.rdN (base + b + 0x40 + 4 * e) 4) 0 0]).toNat))
  ∧ (let op := mkOp 0x91 w
   let d := (s.opRecord n op).d (fld op 93 90)
   let g := fld op 95 94
   s.OpGoes n op [(95, 90)] .mica → s.tfDesc n d false = none →
   ∃ t, exec (.afold n w) s = .next t ∧ still t
     ∧ s.OpRan t n op .mica ((s.core n).setSlot g { (s.core n).slot g with sig := crc64Fold ((s.core n).slot g).sig (s.foldBytes n d) }))

/-- R100, R101, R128, R148-R152, R159, Table 5-10: the tensor forms of Mica store, through the descriptor td, the values that the manual gives for each element, converted once: TEW its function with broadcast operands, TRED and TSMX along an axis, TNORM per row, GATHER and SCATTER by index, TPOOL over a window. Nothing else of the device changes. -/
def Obligations.TensorOps : Prop := ∀ (s : State) (n : Fin 16) (w : BitVec 120),
  let fields : List (Nat × Nat) := [(95, 64)]
  let stores (t v : State) (op : OpWord) (ds : List Desc) : Prop := s.OpRan t n op .mica (s.core n) ∧ t.storesAs v ∧ t.obj (kSr n) = v.obj (kSr n) ∧ t.out = s.out
    ∧ ∀ a, (∀ d ∈ ds, d.misses n a) → t.byte a = s.byte a
  let reads (d : Desc) : Prop := s.tfDesc n d false = none
  let writes (d : Desc) : Prop := s.tfDesc n d true = none
  (let op := mkOp 0x43 w
   let o := s.opRecord n op
   let td := o.d (tfTd op)
   let ta := o.d (tfTa op)
   let tb := o.d (tfTb op)
   let tc := o.d (tfTc op)
   let func := tfFunc op % 128
   let useB := decide (2 ≤ micaArity func) && decide (tfFunc op < 128)
   let useC := decide (3 ≤ micaArity func)
   let ints := isInt td.fmt && isInt ta.fmt && (!useB || isInt tb.fmt) && (!useC || isInt tc.fmt)
   s.OpGoes n op fields .mica → writes td → reads ta → (useB = true → reads tb ∧ bcastOk tb td = true) → (useC = true → reads tc ∧ bcastOk tc td = true) →
   bcastOk ta td = true → micaKnown ints func = true →
   ∃ t, exec (.tew n w) s = .next t ∧ stores t (s.tfStore n td (tfSr op) (td.coords.map fun x =>
     if ints then FVal.ofRat false (micaI 32 func (s.intElem n ta (bcast ta x)) (if 128 ≤ tfFunc op then sext 32 (o.s (tfSa op)).toNat else if useB then s.intElem n tb (bcast tb x) else 0)
       (if useC then s.intElem n tc (bcast tc x) else 0) : Rat)
     else f32 (micaF func (s.micaElem n ta (bcast ta x)) (if 128 ≤ tfFunc op then (o.s (tfSa op)).setWidth 32 else if useB then s.micaElem n tb (bcast tb x) else 0#32)
       (if useC then s.micaElem n tc (bcast tc x) else 0#32)))) op [td])
  ∧ (let op := mkOp 0x44 w
   let td := (s.opRecord n op).d (tfTd op)
   let ta := (s.opRecord n op).d (tfTa op)
   let f := if tfFunc op = 0 then 0x00 else if tfFunc op = 1 then 0x05 else 0x04
   s.OpGoes n op fields .mica → writes td → reads ta → tfFunc op ≤ 2 → sameBut td ta (tfAxis op) = true → td.dim (tfAxis op) = 1 →
   ∃ t, exec (.tred n w) s = .next t ∧ stores t (s.tfStore n td (tfSr op) (td.coords.map fun x =>
     if (isInt td.fmt && isInt ta.fmt) = true then
       FVal.ofRat false ((regReduce (fun p q => micaI 32 f p q 0) ((List.range (ta.dim (tfAxis op))).map fun i => s.intElem n ta (setCoord x (tfAxis op) i))).getD 0 : Rat)
     else f32 ((regReduce (fun p q => micaF f p q 0#32) (s.axisVals n ta (tfAxis op) x)).getD 0#32))) op [td])
  ∧ (let op := mkOp 0x45 w
   let o := s.opRecord n op
   let td := o.d (tfTd op)
   let ta := o.d (tfTa op)
   let tb := o.d (tfTb op)
   let tc := o.d (tfTc op)
   let axis := tfAxis op
   let e (x : Nat × Nat × Nat × Nat) : Word32 := smxExp (s.micaElem n ta x) (s.micaElem n tb (setCoord x axis 0)) ((o.s (tfSa op)).setWidth 32)
   s.OpGoes n op fields .mica → writes td → reads ta →
   (tfFunc op = 0 → sameBut td ta axis = true → td.dim axis = 1 →
     ∃ t, exec (.tsmx n w) s = .next t ∧ stores t (s.tfStore n td (tfSr op) (td.coords.map fun x => f32 ((regReduce (micaMinMax true) (s.axisVals n ta axis x)).getD 0#32))) op [td])
   ∧ (tfFunc op = 1 → reads tb → writes tc → sameBut td ta 4 = true → sameBut tb ta axis = true → tb.dim axis = 1 → sameBut tc ta axis = true → tc.dim axis = 1 →
     ∃ t, exec (.tsmx n w) s = .next t ∧ stores t ((s.tfStore n td (tfSr op) (td.coords.map fun x => f32 (e x))).tfStore n tc (tfSr op)
       (tc.coords.map fun x => f32 ((regReduce f32add ((List.range (ta.dim axis)).map fun i => e (setCoord x axis i))).getD 0#32))) op [td, tc])
   ∧ (tfFunc op = 2 → reads tc → sameBut td ta 4 = true → sameBut tc ta axis = true → tc.dim axis = 1 →
     ∃ t, exec (.tsmx n w) s = .next t ∧ stores t (s.tfStore n td (tfSr op) (td.coords.map fun x => f32 (f32mul (s.micaElem n ta x) (micaRecip (s.micaElem n tc (setCoord x axis 0)))))) op [td]))
  ∧ (let op := mkOp 0x46 w
   let o := s.opRecord n op
   let td := o.d (tfTd op)
   let ta := o.d (tfTa op)
   let tb := o.d (tfTb op)
   let tc := o.d (tfTc op)
   s.OpGoes n op fields .mica → writes td → reads ta → reads tb → reads tc → tfFunc op ≤ 1 → sameBut td ta 4 = true → bcastOk tb ta = true → bcastOk tc ta = true →
   ∃ t, exec (.tnorm n w) s = .next t ∧ stores t (s.tfStore n td (tfSr op) (td.coords.map fun x => f32 (Config.openNorm (tfFunc op) (s.axisVals n ta (tfAxis op) x)
     (s.micaElem n tb (bcast tb x)) (s.micaElem n tc (bcast tc x)) ((o.s (tfSa op)).setWidth 32) (coord x (tfAxis op))))) op [td])
  ∧ (let op := mkOp 0x47 w
   let td := (s.opRecord n op).d (tfTd op)
   let ta := (s.opRecord n op).d (tfTa op)
   let tb := (s.opRecord n op).d (tfTb op)
   let at_ (x : Nat × Nat × Nat × Nat) := setCoord x (tfAxis op) (s.intElem n tb (bcast tb x)).toNat
   s.OpGoes n op fields .mica → writes td → reads ta → reads tb → tfFunc op = 0 → tb.fmt = codeINT32 → sameBut td ta (tfAxis op) = true → bcastOk tb td = true →
   (∀ x ∈ td.coords, 0 ≤ s.intElem n tb (bcast tb x) ∧ s.intElem n tb (bcast tb x) < ta.dim (tfAxis op)) →
   (ta.fmt = td.fmt → isMx td.fmt = false → ∃ t, exec (.gather n w) s = .next t ∧ stores t (s.wrTensor n td fun i0 i1 i2 i3 =>
     s.elemCode n ta (at_ (i0, i1, i2, i3)).1 (at_ (i0, i1, i2, i3)).2.1 (at_ (i0, i1, i2, i3)).2.2.1 (at_ (i0, i1, i2, i3)).2.2.2) op [td])
   ∧ (¬(ta.fmt = td.fmt ∧ isMx td.fmt = false) → ∃ t, exec (.gather n w) s = .next t ∧ stores t (s.tfStore n td (tfSr op)
     (td.coords.map fun x => s.elem n ta (at_ x).1 (at_ x).2.1 (at_ x).2.2.1 (at_ x).2.2.2)) op [td]))
  ∧ (let op := mkOp 0x48 w
   let td := (s.opRecord n op).d (tfTd op)
   let ta := (s.opRecord n op).d (tfTa op)
   let tb := (s.opRecord n op).d (tfTb op)
   let at_ (x : Nat × Nat × Nat × Nat) := setCoord x (tfAxis op) (s.intElem n tb (bcast tb x)).toNat
   s.OpGoes n op fields .mica → writes td → reads ta → reads tb → tfFunc op = 0 → tb.fmt = codeINT32 → sameBut td ta (tfAxis op) = true → bcastOk tb ta = true → isMx td.fmt = false → ta.fmt = td.fmt →
   (∀ x ∈ ta.coords, 0 ≤ s.intElem n tb (bcast tb x) ∧ s.intElem n tb (bcast tb x) < td.dim (tfAxis op)) →
   ∃ t, exec (.scatter n w) s = .next t ∧ stores t (s.wrTensor n td fun i0 i1 i2 i3 =>
     match ta.coords.reverse.find? fun x => at_ x == (i0, i1, i2, i3) with
     | some x => s.elemCode n ta x.1 x.2.1 x.2.2.1 x.2.2.2
     | none => s.elemCode n td i0 i1 i2 i3) op [td])
  ∧ (let op := mkOp 0x49 w
   let o := s.opRecord n op
   let td := o.d (tfTd op)
   let ta := o.d (tfTa op)
   ∀ r, s.OpGoes n op fields .mica → writes td → reads ta → tfFunc op ≤ 1 → s.window n (o.s (tfSa op)) = .ok r → ta.dim 3 = 1 → td.dim 0 = ta.dim 0 → td.dim 1 = r.tw → td.dim 2 = r.th → td.dim 3 = 1 →
   r.extentFault (ta.dim 1) (ta.dim 2) false = none →
   let val (i c : Nat) (y : Nat × Nat) : Word32 := match r.tap false (ta.dim 1) (ta.dim 2) i y.1 y.2 with
     | some z => s.micaElem n ta (c, z.1, z.2, 0)
     | none => toF32 (scaled ta.fmt (r.padValue % 2 ^ elemBits ta.fmt) 127)
   let taps (x : Nat × Nat × Nat × Nat) : List Word32 := r.taps.map (val (x.2.2.1 * r.tw + x.2.1) x.1)
   ∃ t, exec (.tpool n w) s = .next t ∧ stores t (s.tfStore n td (tfSr op) (td.coords.map fun x =>
     if tfFunc op = 0 then f32 ((taps x).tail.foldl (micaMinMax true) ((taps x).headD 0#32))
     else f32 (f32div ((taps x).tail.foldl f32add ((taps x).headD 0#32)) (f32ofInt (r.kh * r.kw : Nat))))) op [td])

/-- R80-R96, R123-R125, R127, R146-R151, Tables 4-1 and 5-7: MATMUL and CONV let the products of their operands into each accumulator of the tile, in order of k and in the bank's class, after clearing the bank where the op says so; in the integer class the sum is exact. ACCIN adds a tensor's elements. READOUT converts the tile and stores it. No accumulator outside the tile of a bank that is kept, no other bank and no byte beside the tensor changes. -/
def Obligations.MatrixOps : Prop := ∀ (s : State) (n : Fin 16) (w : BitVec 120),
  let info (x : State) (b : Nat) : BankInfo := TMap.get (fun _ => BankInfo.empty) (x.core n).banks b
  let acc (x : State) (k : Nat) : Word64 := TMap.get (fun _ => 0#64) (x.core n).acc k
  let tag (x : State) (k : Nat) : Nat := TMap.get (fun _ => 0) (x.core n).tags k
  let start (op : OpWord) (k : Nat) : Cell :=
    if bit op 85 = true ∨ (info s (fld op 87 86)).cls = none then ⟨0#64, 0, false, false, false⟩ else ⟨acc s k, tag s k, false, false, false⟩
  let named (op : OpWord) (cls : Nat) (e : Int) : Prop := bit op 85 = true ∨ (info s (fld op 87 86)).cls = none ∨ ((info s (fld op 87 86)).cls = some cls ∧ (cls = 1 → (info s (fld op 87 86)).eacc = e))
  let ran (t : State) (op : OpWord) (rows cols cls : Nat) (e : Int) (prods : Nat → Nat → List FVal) : Prop :=
    let bank := fld op 87 86
    let row := fld op 73 66
    (∃ c : CoreSt, s.OpRan t n op .slab { s.core n with acc := c.acc, tags := c.tags, banks := c.banks, slots := c.slots }) ∧ t.mem = s.mem ∧ t.poison = s.poison ∧ t.out = s.out
    ∧ (∀ r < rows, ∀ k < cols, let cell := (prods r k).foldl (Cell.add cls e) (start op (accKey bank (row + r) k))
        acc t (accKey bank (row + r) k) = cell.v ∧ tag t (accKey bank (row + r) k) = cell.tag)
    ∧ (∀ r < 256, ∀ k < 256, ¬(row ≤ r ∧ r < row + rows ∧ k < cols) → acc t (accKey bank r k) = (start op (accKey bank r k)).v ∧ tag t (accKey bank r k) = (start op (accKey bank r k)).tag)
    ∧ (∀ b < 4, b ≠ bank → info t b = info s b ∧ ∀ r < 256, ∀ k < 256, acc t (accKey b r k) = acc s (accKey b r k))
    ∧ (info t bank).cls = some cls ∧ (cls = 1 → (info t bank).eacc = e)
  let shown (x : State) (d : Desc) (write : Bool) : Prop := d.form [0] = none ∧ x.reachFault n d write = none
  (let op := mkOp 0x20 w
   let o := s.opRecord n op
   let a := o.d (fld op 95 92)
   let b := o.d (fld op 91 88)
   ∀ p kt e, s.OpGoes n op [(95, 48)] .slab → shown s a false → shown s b false → pairOf a.fmt b.fmt = some p →
   fld op 73 66 + a.dim 1 ≤ 256 → b.dim 0 ≤ p.nPass → b.dim 1 = a.dim 0 → a.dim 2 = 1 → a.dim 3 = 1 → b.dim 2 = 1 → b.dim 3 = 1 → ((isMx a.fmt || isMx b.fmt) = true → a.dim 0 % 32 = 0) →
   declaredKt (o.s (fld op 65 61)) (a.dim 0) = .ok kt →
   opEacc op p.cls a.fmt b.fmt kt (s.blockPairs n a b (a.dim 1) (b.dim 0) (if isMx a.fmt || isMx b.fmt then a.dim 0 / 32 else 1)) = .ok e → named op p.cls e →
   ∃ t, exec (.matmul n w) s = .next t ∧ ran t op (a.dim 1) (b.dim 0) p.cls e (fun r c => (List.range (a.dim 0)).map fun i => (s.elem n a i r 0 0).mul (t1 o (s.bElem n b (b.dim 0) c i i 0 0)))
     ∧ t.objN (kCore n 2 3) = (s.objN (kCore n 2 3) + a.dim 1 * b.dim 0 * a.dim 0) % 2 ^ 64
     ∧ (p.cls = 0 → o.trf.t1 = false → ∀ r < a.dim 1, ∀ c < b.dim 0, let k := accKey (fld op 87 86) (fld op 73 66 + r) c
       (start op k).v.toInt.natAbs + a.dim 0 * 2 ^ 30 < 2 ^ 63 →
       (acc t k).toInt = (start op k).v.toInt + ((List.range (a.dim 0)).map fun i => sext (elemBits a.fmt) (s.elemCode n a i r 0 0) * sext (elemBits b.fmt) (s.elemCode n b c i 0 0)).sum))
  ∧ (let op := mkOp 0x21 w
   let o := s.opRecord n op
   let a := o.d (fld op 95 92)
   let b := o.d (fld op 91 88)
   let mx := isMx a.fmt || isMx b.fmt
   ∀ p r kt e, s.OpGoes n op [(95, 48)] .slab → shown s a false → shown s b false → pairOf a.fmt b.fmt = some p → s.window n (o.s (fld op 60 56)) = .ok r →
   a.dim 3 = 1 → b.dim 1 = a.dim 0 → b.dim 2 = r.kw → b.dim 3 = r.kh → b.dim 0 ≤ p.nPass → fld op 73 66 + r.th * r.tw ≤ 256 → r.extentFault (a.dim 1) (a.dim 2) true = none →
   (isMx a.fmt = true → a.dim 0 % 32 = 0) → (isMx b.fmt = true → r.kh * r.kw * a.dim 0 % 32 = 0) → (mx = true → bit op 84 = false) →
   declaredKt (o.s (fld op 65 61)) (r.kh * r.kw * a.dim 0) = .ok kt → opEacc op p.cls a.fmt b.fmt kt [([127], [127])] = .ok e → named op p.cls e →
   ∃ t, exec (.conv n w) s = .next t ∧ ran t op (r.th * r.tw) (b.dim 0) p.cls e (fun i c => r.taps.flatMap fun y => (List.range (a.dim 0)).map fun ch =>
     (match r.tap true (a.dim 1) (a.dim 2) i y.1 y.2 with
       | some z => s.elem n a ch z.1 z.2 0
       | none => scaled a.fmt (r.padValue % 2 ^ elemBits a.fmt) 127).mul (t1 o (s.bElem n b (b.dim 0) c ((y.1 * r.kw + y.2) * a.dim 0 + ch) ch y.2 y.1))))
  ∧ (let op := mkOp 0x22 w
   let o := s.opRecord n op
   let a := o.d (fld op 95 92)
   let i := info s (fld op 87 86)
   let fresh := bit op 85 = true ∨ i.cls = none
   ∀ cls e, s.OpGoes n op [(95, 48)] .slab → shown s a false → (cls = 0 ∧ a.fmt = codeINT32 ∨ (cls = 1 ∨ cls = 2) ∧ a.fmt = codeFP32) →
   (fresh → bit op 84 = false ∧ cls = fld op 50 49 ∧ e = sfld op 83 74 ∧ (cls = 1 → -320 ≤ e ∧ e ≤ 320)) → (¬fresh → i.cls = some cls ∧ e = i.eacc) →
   fld op 73 66 + a.dim 1 ≤ 256 → (¬fresh → a.dim 0 ≤ i.width ∧ a.dim 0 ≤ 256) → (fresh → a.dim 0 ≤ if cls = 2 then 128 else 256) → a.dim 2 = 1 → a.dim 3 = 1 →
   ∃ t, exec (.accin n w) s = .next t ∧ ran t op (a.dim 1) (a.dim 0) cls e (fun r c => [t1 o (s.elem n a c r 0 0)]))
  ∧ (let op := mkOp 0x23 w
   let o := s.opRecord n op
   let td := o.d (fld op 77 74)
   let bank := fld op 95 94
   let r0 := fld op 93 86
   let col := fld op 73 66
   let i := info s bank
   let flags (x : Written) : Word64 := BitVec.ofNat 64 ((if i.sat then 1 else 0) + (if i.below then 2 else 0) + (if i.special then 4 else 0)
     + (if x.satInt then 8 else 0) + (if x.satFp then 16 else 0) + (if x.nan then 32 else 0))
   ∀ x, s.OpGoes n op [(95, 32)] .readout → shown s td true → fld op 65 64 = 0 → isRaw td.fmt = false → fld op 85 78 + 1 = r0 + td.dim 1 → td.dim 2 = 1 → td.dim 3 = 1 →
   col + td.dim 0 ≤ (if i.cls.isSome then i.width else 256) → (isMx td.fmt = true → col % 32 = 0 ∧ td.dim 0 % 32 = 0) →
   s.colParamFault n o (fld op 61 60) (fld op 59 55) (td.dim 0) = none → s.colParamFault n o (fld op 54 53) (fld op 52 48) (td.dim 0) = none →
   s.readoutTile n o td i.cls.isNone (td.coords.map fun y => s.accVal n bank (r0 + y.2.1) (col + y.1)) (List.replicate td.count .rne) = .ok x →
   ∃ t, exec (.readout n w) s = .next t ∧ s.OpRan t n op .readout (s.core n) ∧ t.storesAs x.s ∧ t.out = s.out ∧ t.obj (kArith n) = s.obj (kArith n) ||| flags x
     ∧ t.obj (kSr n) = s.obj (kSr n) ∧ ∀ y, td.misses n y → t.byte y = s.byte y)

/-- R116, R129, R161-R177, R182-R185, R224, Tables 5-12 and 5-13: DMOV copies a tensor, transposed where the op says so; DFILL stores the pattern in every element; a COLL hands over its data and, as the last member, completes the collective; KVSCATTER stores new rows page by page, KVFETCH stores the rows of a range, and ATTN the attention of its queries over the range, leaving its two banks in the FP32 class. -/
def Obligations.TransferOps : Prop := ∀ (s : State) (n : Fin 16) (w : BitVec 120),
  let m := s.holder n
  let ran (t v : State) (op : OpWord) : Prop := s.OpRan t n op .dma (s.core n) ∧ t.storesAs v
  let may (d : Desc) (write : Bool) : Prop := d.dmaForm = none ∧ s.reachFault n d write = none
  let openScales (t : State) (d : Desc) (v : State) : Prop := d.scaleSpace ≠ 2 → ∀ y < 0x10000000000,
    (y < devAddr n d.scaleSpace d.scaleBase ∨ devAddr n d.scaleSpace d.scaleBase + d.count / 32 ≤ y) → t.byte y = v.byte y
  let moved (t : State) (d : Desc) : Prop := t.objN (kCore n 2 4) = (s.objN (kCore n 2 4) + d.count * elemBits d.fmt / 8) % 2 ^ 64
  (let op := mkOp 0x60 w
   let td := (s.opRecord n op).d (fld op 95 92)
   let ta := (s.opRecord n op).d (fld op 91 88)
   s.OpGoes n op [(95, 69)] .dma → may ta false → may td true → td.fmt = ta.fmt →
   (bit op 86 = false → td.shape = ta.shape → isMx td.fmt = false →
     ∃ t, exec (.dmov n w) s = .next t ∧ ran t (s.dmaTensor n td fun i0 i1 i2 i3 => s.elemCode n ta i0 i1 i2 i3) op ∧ moved t td)
   ∧ (bit op 86 = false → td.shape = ta.shape → isMx td.fmt = true →
     ∃ t, exec (.dmov n w) s = .next t ∧ moved t td ∧ ran t ((s.dmaTensor n td fun i0 i1 i2 i3 => s.elemCode n ta i0 i1 i2 i3).dmaPut n td.scaleSpace td.scaleBase
       ((List.range (td.count / 32)).map fun k => BitVec.ofNat 8 (s.scaleCode n ta k))) op)
   ∧ (bit op 86 = true → td.shape = [ta.dim 1, ta.dim 0, ta.dim 2, ta.dim 3] → 8 ≤ elemBits ta.fmt → isMx td.fmt = false →
     ∃ t, exec (.dmov n w) s = .next t ∧ ran t (s.dmaTensor n td fun i0 i1 i2 i3 => s.elemCode n ta i1 i0 i2 i3) op ∧ moved t td)
   ∧ (bit op 86 = true → td.shape = [ta.dim 1, ta.dim 0, ta.dim 2, ta.dim 3] → 8 ≤ elemBits ta.fmt → isMx td.fmt = true →
     ∃ t, exec (.dmov n w) s = .next t ∧ s.OpRan t n op .dma (s.core n) ∧ moved t td ∧ openScales t td (s.dmaTensor n td fun i0 i1 i2 i3 => s.elemCode n ta i1 i0 i2 i3)))
  ∧ (let op := mkOp 0x61 w
   let o := s.opRecord n op
   let td := o.d (fld op 95 92)
   let v := s.dmaTensor n td fun _ _ _ _ => (o.s (fld op 85 81)).toNat % 2 ^ elemBits td.fmt
   s.OpGoes n op [(95, 69)] .dma → may td true → ∃ t, exec (.dfill n w) s = .next t ∧ moved t td ∧ s.OpRan t n op .dma (s.core n) ∧ (isMx td.fmt = false → t.storesAs v) ∧ (isMx td.fmt = true → openScales t td v))
  ∧ (let op := mkOp 0x64 w
   let o := s.opRecord n op
   let td := o.d (fld op 95 92)
   let ta := o.d (fld op 91 88)
   let group := fld op 80 73
   let dev := s.objN (okey 0x1000 4)
   let k := ((s.collCount.find? fun x => x.1 == m && x.2.1 == group && x.2.2.1 == (n : Nat)).map (·.2.2.2)).getD 0
   let part : CollPart := ⟨m, group, k, n, o.seq, fld op 72 71, fld op 70 69, ta.fmt, ta.count, s.flatCodes n ta⟩
   let others := s.coll.filter fun p => decide (p.inst = m) && decide (p.group = group) && decide (p.k = k)
   ∀ ms, s.OpGoes n op [(95, 69)] .dma → s.collMembers m group = some ms → (dev, (n : Nat)) ∈ ms → (∀ x ∈ ms, x.1 = dev) → s.collFault n op td ta ms.length = none → (∀ p ∈ s.coll, p.core ≠ n) →
   (∀ p ∈ others, p.kind = part.kind ∧ p.red = part.red ∧ p.fmt = part.fmt ∧ p.count = part.count) →
   ((∃ x ∈ ms, x.2 ≠ n ∧ ∀ p ∈ others, p.core ≠ x.2) → ∃ t, exec (.coll n w) s = .next t ∧ t.coll = s.coll ++ [part] ∧ t.mem = s.mem ∧ t.out = s.out
     ∧ (t.core n).dma = [{ o with started := true, cycles := s.nowN }] ∧ (∀ j, j ≠ (n : Nat) → t.core j = s.core j))
   ∧ ((∀ x ∈ ms, x.2 ≠ n → ∃ p ∈ others, p.core = x.2) → ∃ u : State, exec (.coll n w) s = .next (u.collFinish m group k ms) ∧ u.coll = s.coll ++ [part] ∧ u.mem = s.mem ∧ u.out = s.out
     ∧ ∀ p ∈ (u.collFinish m group k ms).coll, ¬(p.inst = m ∧ p.group = group ∧ p.k = k)))
  ∧ (∀ members rank count fmt red (xs : List (List Nat)), 0 < members → xs.length = members → (∀ x ∈ xs, x.length = count) →
    (collResult 0 red fmt count rank members xs = (xs.flatten, false))
    ∧ (fmt = codeINT32 → red = 0 → ∀ i < count, ((xs.map fun x => sext 32 (x.getD i 0)).sum).natAbs < 2 ^ 31 →
      ((collResult 2 red fmt count rank members xs).1.getD i 0 = wrapInt 32 (xs.map fun x => sext 32 (x.getD i 0)).sum)))
  ∧ (let op := mkOp 0x70 w
   let o := s.opRecord n op
   let c := s.cache m (fld op 95 88)
   let dk := o.d (fld op 87 84)
   let dv := o.d (fld op 83 80)
   let last := o.pos + dk.dim 2 - 1
   let span := last / c.P + 1 - o.pos / c.P
   s.OpGoes n op [(95, 48)] .dma → s.cacheFault m (fld op 95 88) = none → may dk false → may dv false → dk.shape = [c.d, c.headCount, dk.dim 2, 1] → dv.shape = dk.shape → dk.fmt = c.fmt → dv.fmt = c.fmt →
   c.ring = false → last < c.maxTokens → last < 2 ^ 32 →
   ∀ v : State, s.scatterPages n c dk dv o.pos (dk.dim 2) s ((List.range c.headCount).flatMap fun h => (List.range span).map fun i => (h, o.pos / c.P + i)) = (v, none) →
   ∃ t, exec (.kvscatter n w) s = .next t ∧ t.mem = v.mem ∧ t.poison = v.poison ∧ t.out = s.out ∧ (t.core n).dma = [{ o with started := true, ran := true, cycles := s.nowN }] ∧ (∀ j, j ≠ (n : Nat) → t.core j = s.core j)
     ∧ t.objN (kCore n 2 4) = (s.objN (kCore n 2 4) + 2 * c.row * dk.dim 2 * c.headCount) % 2 ^ 64)
  ∧ (let op := mkOp 0x72 w
   let o := s.opRecord n op
   let c := s.cache m (fld op 95 88)
   let td := o.d (fld op 87 84)
   ∀ pages, s.OpGoes n op [(95, 48)] .dma → s.cacheFault m (fld op 95 88) = none → may td true → o.pos ≤ o.endPos → td.shape = [c.d, o.endPos - o.pos + 1, 1, 1] → td.fmt = c.fmt →
   c.headLo ≤ o.head → o.head < c.headLo + c.headCount → s.pagesOf m c (o.head - c.headLo) o.pos o.endPos = .ok pages → s.rowsFault c pages (bit op 53) o.pos o.endPos = none →
   ∃ t, exec (.kvfetch n w) s = .next t ∧ moved t td ∧ ran t (s.dmaTensor n td fun i0 i1 _ _ => s.rdN (rowIn c pages (bit op 53) (o.pos + i1) + i0 * c.e) c.e) op)
  ∧ (let op := mkOp 0x71 w
   let o := s.opRecord n op
   let c := s.cache m (fld op 95 88)
   let tk := o.d (fld op 87 84)
   let tv := o.d (fld op 83 80)
   let g := fld op 64 61 + 1
   let mask := fld op 55 54
   let t8 := bit op 48
   let scale : Word32 := (o.s (fld op 60 56)).setWidth 32
   let q := if t8 then tk.dim 1 else tk.dim 2
   let heads := if t8 then g else 1
   ∀ cls pFmt tile outs fl keys, s.OpGoes n op [(95, 48)] .slab → s.cacheFault m (fld op 95 88) = none → tk.form [0] = none → tv.form [0, 1, 2] = none → tv.space = 0 → mask ≤ 2 → c.t8 = t8 → (t8 = true → g ≤ 4 ∧ mask ≠ 2) → fld op 52 51 ≠ fld op 50 49 →
   tk.dim 0 = c.d → tv.shape = tk.shape → (if t8 then tk.dim 2 else tk.dim 1) = g → tk.dim 3 = 1 → (if t8 then q else g * q) ≤ 256 → o.pos ≤ o.endPos → (f32 scale).isFin = true → f32lt 0#32 scale = true →
   (mask = 2 → c.window ≠ 0 ∧ (c.ring = true → o.endPos / c.P - o.pos / c.P + 1 ≤ c.pages)) →
   attnPair c.fmt tk.fmt = some (cls, pFmt, tile) → tv.fmt ∈ [codeFP32, codeBF16, codeFP16, codeE4M3] → c.headLo ≤ o.head → o.head + heads ≤ c.headLo + c.headCount → s.reachFault n tk false = none → s.reachFault n tv true = none →
   let qpos (t : Nat) : Int := (o.endPos : Int) - q + 1 + t
   let p (per : Nat) : AttnPar := ⟨cls, autoEacc tk.fmt c.fmt c.d [([127], [127])], autoEacc pFmt c.fmt tile [([127], [127])], pFmt, tile, if t8 then f32mul scale 0x3fb8aa3b#32 else scale,
     fun r j => match mask with
       | 0 => false
       | 1 => decide (qpos (r / per) < j)
       | _ => decide (qpos (r / per) < j) || decide ((j : Int) ≤ qpos (r / per) - c.window)⟩
   let row (i1 i2 : Nat) : List FVal := (List.range c.d).map fun x => s.elem n tk x i1 i2 0
   attnHeads (fun h => if t8 then s.attnHead m c (o.head + h - c.headLo) o.pos o.endPos (p 1) ((List.range q).map fun t => row t h)
     else s.attnHead m c (o.head - c.headLo) o.pos o.endPos (p g) ((List.range q).flatMap fun t => (List.range g).map fun gi => row gi t)) (List.range heads) = .ok (outs, fl, keys) →
   ∃ t, exec (.attn n w) s = .next t ∧ t.storesAs (s.wrVals n tv false ((outs.flatMap fun h => h.flatMap fun r => r).map f32) (List.replicate tv.count .rne) id).s ∧ t.out = s.out
     ∧ (∀ b ∈ [fld op 52 51, fld op 50 49], (TMap.get (fun _ => BankInfo.empty) (t.core n).banks b).cls = some 2)
     ∧ (t.core n).slab = [{ o with started := true, ran := true, cycles := s.nowN }] ∧ (t.core n).vregs = (s.core n).vregs ∧ (∀ j, j ≠ (n : Nat) → t.core j = s.core j) ∧ (∀ y, tv.misses n y → t.byte y = s.byte y))

/-! ### Assay (chapter 9) -/

/-- R135, R206, R213, R214 steps 1 and 3, R216: AOPEN of run A takes a free ledger entry when Flint accepts and quota is left, and else stalls; run B opens once run A has closed, on another core; each opens its slot with a signature of all ones. The misuses of Table 9-3 stop the core. -/
def Obligations.AopenOpensItsGroup : Prop := ∀ (s : State) (n : Fin 16) (w : BitVec 120),
  let op := mkOp 0x90 w
  let g := fld op 95 94
  let group : Word32 := ((s.core n).s (fld op 92 88)).setWidth 32
  let trf : Trf := ⟨bit op 87, bit op 86, bit op 85, fld op 84 77, fld op 76 69⟩
  let m := s.holder n
  let mixed := (s.core n).openSlots.any fun x => x.runB != bit op 93 || x.trf != trf
  let badTrf := (trf.t2 && decide (trf.rotK = 0)) || (trf.t3 && decide (trf.laneRot = 0))
  let ok := !((s.core n).slot g).isOpen && !mixed && !badTrf
  let opened : CoreSt := { (s.core n).setSlot g ⟨true, bit op 93, trf, group, 0xffffffffffffffff#64, false⟩ with stepping := false, lastRetire := s.now, elapsed := 0 }
  let stops (detail : Nat) : Prop := ∃ t, exec (.aopen n w) s = .next t ∧ (s.upCore n fun c => { c with stepping := false }).Stopped t n 0 (s.pc n) ⟨0x06, detail, 0⟩
  s.opReady n op [(95, 94), (93, 93), (92, 88), (87, 85), (84, 77), (76, 69)] → s.waitOk n op → s.signalFits n op →
  (((s.core n).slot g).isOpen = true → stops 0x02)
  ∧ (((s.core n).slot g).isOpen = false → mixed = true → stops 0x04)
  ∧ (((s.core n).slot g).isOpen = false → mixed = false → badTrf = true → stops 0x05)
  ∧ (ok = true → bit op 93 = false → (s.findEntry m group).isSome = true → stops 0x06)
  ∧ (ok = true → bit op 93 = true → s.findEntry m group = none → stops 0x07)
  ∧ (∀ i, ok = true → bit op 93 = true → s.findEntry m group = some i → (s.entry i).coreA = n → stops 0x08)
  ∧ (ok = true → bit op 93 = false → s.findEntry m group = none → s.flintOpen = true → s.objN (kAssay m 2) < s.objN (kAssay m 1) → (∃ i < 4096, (s.entry i).state = 0) →
    ∃ t i, exec (.aopen n w) s = .next t ∧ i < 4096 ∧ (s.entry i).state = 0
      ∧ (t.entry i).state = 1 ∧ (t.entry i).inst = m ∧ (t.entry i).group = group ∧ (t.entry i).coreA = n ∧ (t.entry i).broken = false ∧ (∀ j, j ≠ i → t.entry j = s.entry j)
      ∧ t.objN (okey 0x4400 2) = (s.objN (okey 0x4400 2) + 1) % 2 ^ 16 ∧ t.objN (kAssay m 2) = (s.objN (kAssay m 2) + 1) % 2 ^ 16
      ∧ t.objN (kPc n) = (s.pc n + 16) % 2 ^ 64 ∧ t.objN (kRetired n) = (s.objN (kRetired n) + 1) % 2 ^ 64 ∧ t.core n = opened ∧ (∀ j, j ≠ n → t.core j = s.core j)
      ∧ (t.inst m).lastGroup = s.now ∧ (∀ j, j ≠ m → t.inst j = s.inst j)
      ∧ s.objsBut t (opKeys n op ++ [okey 0x4400 2, kAssay m 2, kAssay m 3]) ∧ t = { s with objs := t.objs, cores := t.cores, ledger := t.ledger, insts := t.insts, free := t.free })
  ∧ (ok = true → bit op 93 = false → s.findEntry m group = none → (s.flintOpen = false ∨ s.objN (kAssay m 1) ≤ s.objN (kAssay m 2)) →
    ∃ t, exec (.aopen n w) s = .next t ∧ t.core n = { s.core n with stepping := false, hold := .aopenA op (s.pc n) } ∧ (t.inst m).stalls = (s.inst m).stalls ++ [(n.val, group, s.now)]
      ∧ t.objN (kAssay m 6) = (s.objN (kAssay m 6) + 1) % 2 ^ 32 ∧ t.ledger = s.ledger ∧ s.objsBut t (kAssay m 6 :: opKeys n op) ∧ t = { s with objs := t.objs, cores := t.cores, insts := t.insts })
  ∧ (∀ i, ok = true → bit op 93 = true → s.findEntry m group = some i → (s.entry i).coreA ≠ n →
    ((s.entry i).state = 1 → ∃ t, exec (.aopen n w) s = .next t ∧ t.core n = { s.core n with stepping := false, hold := .aopenB op (s.pc n) } ∧ s.objsBut t (opKeys n op) ∧ t = { s with objs := t.objs, cores := t.cores })
    ∧ ((s.entry i).state ≠ 1 → ∃ t, exec (.aopen n w) s = .next t ∧ t.entry i = { s.entry i with state := 3, coreB := n } ∧ (∀ j, j ≠ i → t.entry j = s.entry j)
      ∧ t.objN (kPc n) = (s.pc n + 16) % 2 ^ 64 ∧ t.objN (kRetired n) = (s.objN (kRetired n) + 1) % 2 ^ 64 ∧ t.core n = opened ∧ (∀ j, j ≠ n → t.core j = s.core j)
      ∧ (t.inst m).lastGroup = s.now ∧ s.objsBut t (opKeys n op) ∧ t = { s with objs := t.objs, cores := t.cores, ledger := t.ledger, insts := t.insts }))

/-- R135, R213-R215, R217, R218, R226: ACLOSE closes a slot once its core has drained. Run A leaves its finished signature and a deadline in the entry; run B settles a broken group, assays one whose signatures agree in time and frees its entry, and else squashes the invocation as a mismatch or a timeout. An entry in state 2 or 3 past its deadline squashes its invocation; a run-A AOPEN that has stalled for 1 ms without a group of its instance changing state is a deadlock, counted and named in last_event, and ends every invocation of the instance with status 0x000A. -/
def Obligations.RunsCloseAndTimeOut : Prop :=
  (∀ (s : State) (n : Fin 16) (w : BitVec 120),
  let op := mkOp 0x92 w
  let g := fld op 95 94
  let x := (s.core n).slot g
  let m := s.holder n
  let closed : CoreSt := { (s.core n).setSlot g ASlot.closed with stepping := false, lastRetire := s.now, elapsed := 0, hold := .none }
  s.opReady n op [(95, 94)] → s.waitOk n op →
  (x.isOpen = false → ∃ t, exec (.aclose n w) s = .next t ∧ (s.upCore n fun c => { c with stepping := false }).Stopped t n 0 (s.pc n) ⟨0x06, 0x03, 0⟩)
  ∧ (x.isOpen = true → (s.core n).allOps ≠ [] → ∃ t, exec (.aclose n w) s = .next t ∧ t.core n = { s.core n with stepping := false, hold := .aclose op (s.pc n) }
    ∧ (∀ j, j ≠ n → t.core j = s.core j) ∧ s.objsBut t (opKeys n op) ∧ t = { s with objs := t.objs, cores := t.cores })
  ∧ (x.isOpen = true → (s.core n).allOps = [] → ∀ i, s.findEntry m x.group = some i → let e := s.entry i
    (x.runB = false → s.signalFits n op → (∀ k op a, (s.core k).hold ≠ .aopenB op a) →
      ∃ t, exec (.aclose n w) s = .next t ∧ t.entry i = { e with state := 2, sig := x.sig ^^^ 0xffffffffffffffff#64, deadline := (s.nowN / 1000 + s.objN (kAssay m 4)) % 2 ^ 20 }
        ∧ (∀ j, j ≠ i → t.entry j = s.entry j) ∧ t.core n = closed ∧ (∀ j, j ≠ n → t.core j = s.core j) ∧ (t.inst m).lastGroup = s.now
        ∧ t.objN (kPc n) = (s.pc n + 16) % 2 ^ 64 ∧ t.objN (kRetired n) = (s.objN (kRetired n) + 1) % 2 ^ 64
        ∧ s.objsBut t (opKeys n op) ∧ t = { s with objs := t.objs, cores := t.cores, ledger := t.ledger, insts := t.insts })
    ∧ (x.runB = true → let late := decide (0 < sdiff 20 (s.nowN / 1000) e.deadline)
      let bad := e.sig ≠ x.sig ^^^ 0xffffffffffffffff#64
      ((s.inst m).stalls = [] → s.signalFits n op → (∀ k, ∀ o ∈ (s.core k).dma, opOf o.op ≠ 0x64) →
        ((e.broken = true ∨ ¬bad ∧ late = false) → e.inst = m → ∃ t, exec (.aclose n w) s = .next t ∧ t.entry i = LedgerEntry.free ∧ (∀ j, j ≠ i → t.entry j = s.entry j)
          ∧ t.objN (okey 0x4400 2) = (s.objN (okey 0x4400 2) - 1) ∧ t.objN (kAssay m 2) = (s.objN (kAssay m 2) - 1) ∧ t.core n = closed ∧ (∀ j, j ≠ n → t.core j = s.core j)
          ∧ (∀ v, s.inv? m e.inv = some v → ∃ v', t.inv? m e.inv = some v' ∧ if e.broken then relGroup e.group v.base ∈ v'.broken else relGroup e.group v.base ∈ v'.equal)
          ∧ (e.broken = false → t.objN (okey 0x4400 4) = (s.objN (okey 0x4400 4) + 1) % 2 ^ 64 ∧ t.objN (kAssay m 0xb) = e.group.toNat)
          ∧ t.objN (kRetired n) = (s.objN (kRetired n) + 1) % 2 ^ 64 ∧ t.mem = s.mem ∧ t.out = s.out))
      ∧ (e.broken = false → (bad ∨ late = true) → ∃ u : State, exec (.aclose n w) s = .next (u.squash i (if bad then 1 else 2) n) ∧ u.core n = { (s.core n).setSlot g ASlot.closed with stepping := false, hold := .none }
        ∧ u.objN (okey 0x4400 4) = (s.objN (okey 0x4400 4) + 1) % 2 ^ 64 ∧ u.ledger = s.ledger ∧ u.insts = s.insts))))
  ∧ (∀ (s : State),
  (∀ e : Fin 4096, let x := s.entry e
    let late := decide (0 < sdiff 20 (s.nowN / 1000) x.deadline)
    ((x.state = 2 ∨ x.state = 3) → late = true → exec (.assayTimeout e) s = .next (s.squash e 2 x.coreB))
    ∧ (((x.state ≠ 2 ∧ x.state ≠ 3) ∨ late = false) → exec (.assayTimeout e) s = .next s))
  ∧ (∀ m : Fin 16,
    ((s.inst m).stalls = [] → exec (.ledgerDeadlock m) s = .next s)
    ∧ ∀ n group since rest, (s.inst m).stalls = (n, group, since) :: rest → let from_ := max since.toNat (s.inst m).lastGroup.toNat
      (s.nowN < from_ + 1000000 → exec (.ledgerDeadlock m) s = .next s)
      ∧ (from_ + 1000000 ≤ s.nowN → ∃ u : State, exec (.ledgerDeadlock m) s
            = .next (u.forEach ((s.inst m).invs.map (·.num)) fun s num => (s.withdrawInv m num).endInv m num 3 (some 0x000A) 0)
          ∧ u.objN (kAssay m 0xf) = (s.objN (kAssay m 0xf) + 1) % 2 ^ 32 ∧ u.objN (kAssay m 0xe) = (4 * 2 ^ 56 + n * 2 ^ 52 + group.toNat) % 2 ^ 64
          ∧ s.onlyObjs u [kAssay m 0xf, kAssay m 0xe])))

/-! ### Time and cadence (chapter 3) -/

/-- R57-R61, R67, R468: a servo update of a locked domain steps it forward above 1,000 ns, slews it at 100 ppm or less when the error is small and at 100 ppm when it is not, keeping its time continuous, and declares it unlocked out of range; DOMAIN_SLEW_END leaves the estimate alone. A locked domain that loses its grandmaster enters holdover on its last pair; the same grandmaster returns it to locked under its epoch, another or an expired holdover makes it acquiring; it enters locked on the pair handed over with its epoch counted on. A switch of the selected domain slews the timeline within 1,000 ns and steps it otherwise. -/
def Obligations.DomainsAndTimeline : Prop :=
  (∀ (s : State) (d : Fin 2) (delta rate : Int),
  let old := s.domTime d s.nowN
  let fits (r : Int) (step : Int) : Prop := -2 ^ 63 ≤ old + step - (s.nowN : Int) * (2 ^ 40 + r) / 2 ^ 40 ∧ old + step - (s.nowN : Int) * (2 ^ 40 + r) / 2 ^ 40 < 2 ^ 63
  let kept (t : State) : Prop := t.obj (kDomPrev d 0) = s.obj (kDomAnchor d) ∧ t.obj (kDomPrev d 1) = s.obj (kDomOffset d) ∧ t.obj (kDomPrev d 2) = s.obj (kDomRate d) ∧ t.obj (kDomAnchor d) = s.now
  (s.domState d ≠ 2 → exec (.servoUpdate d delta rate) s = .next s)
  ∧ (s.domState d = 2 → (2 ^ 29 < rate.natAbs ∨ delta < -1000000) →
    ∃ t, exec (.servoUpdate d delta rate) s = .next t ∧ t.domState d = 1 ∧ t.obj (kDomOffset d) = s.obj (kDomOffset d) ∧ t.obj (kDomRate d) = s.obj (kDomRate d))
  ∧ (s.domState d = 2 → rate.natAbs ≤ 2 ^ 29 → 1000 < delta → fits rate delta →
    ∃ t, exec (.servoUpdate d delta rate) s = .next t ∧ t.domTime d s.nowN = old + delta ∧ t.domRate d = rate ∧ kept t ∧ (t.gd d).slew = none
      ∧ (s.selDom = d → t.sel = none ∧ t.obj kSwitch = setBit (setFld (s.obj kSwitch) 31 16 (fld (s.obj kSwitch) 31 16 + 1)) 1 true)
      ∧ (s.selDom ≠ d → t = { s with objs := t.objs, gdom := t.gdom }))
  ∧ (s.domState d = 2 → rate.natAbs ≤ 2 ^ 29 → delta = 0 → fits rate 0 →
    ∃ t, exec (.servoUpdate d delta rate) s = .next t ∧ t.domTime d s.nowN = old ∧ t.domRate d = rate ∧ kept t ∧ (t.gd d).slew = none ∧ t = { s with objs := t.objs, gdom := t.gdom })
  ∧ (s.domState d = 2 → rate.natAbs ≤ 2 ^ 29 → -1000000 ≤ delta → delta ≤ 1000 → delta ≠ 0 → (∀ x : Int, x.natAbs ≤ 109951163 → fits (rate + x) 0) →
    ∃ t x, exec (.servoUpdate d delta rate) s = .next t ∧ 1 ≤ x.natAbs ∧ x.natAbs ≤ 109951163 ∧ (x < 0 ↔ delta < 0) ∧ (1000 < delta.natAbs → x.natAbs = 109951163)
      ∧ t.domTime d s.nowN = old ∧ t.domRate d = rate + x ∧ kept t ∧ (t.gd d).slew = some ⟨delta, x, rate, s.now⟩ ∧ t = { s with objs := t.objs, gdom := t.gdom, free := t.free })
  ∧ (∀ w, (s.gd d).slew = some w →
    (s.nowN < w.anchor.toNat + (w.delta.natAbs * 2 ^ 40 + w.extra.natAbs - 1) / w.extra.natAbs → exec (.domainSlewEnd d) s = .next s)
    ∧ (w.anchor.toNat + (w.delta.natAbs * 2 ^ 40 + w.extra.natAbs - 1) / w.extra.natAbs ≤ s.nowN → w.estimate.natAbs ≤ 2 ^ 29 → fits w.estimate 0 →
      ∃ t, exec (.domainSlewEnd d) s = .next t ∧ t.domTime d s.nowN = old ∧ t.domRate d = w.estimate ∧ kept t ∧ (t.gd d).slew = none ∧ t = { s with objs := t.objs, gdom := t.gdom }))
  ∧ ((s.gd d).slew = none → exec (.domainSlewEnd d) s = .next s))
  ∧ (∀ (s : State) (d : Fin 2),
  let pair (t : State) : Prop := t.obj (kDomOffset d) = s.obj (kDomOffset d) ∧ t.obj (kDomRate d) = s.obj (kDomRate d) ∧ t.obj (kDomEpoch d) = s.obj (kDomEpoch d)
  (s.domState d ≠ 2 → exec (.grandmasterLost d) s = .next s)
  ∧ (s.domState d = 2 → ∃ t, exec (.grandmasterLost d) s = .next t ∧ t.domState d = 3 ∧ pair t ∧ (t.gd d).holdSince = s.now ∧ (t.gd d).lostGm = s.obj (kDomGm d)
      ∧ (s.selDom ≠ d → t = { s with objs := t.objs, gdom := t.gdom } ∧ s.objsBut t [kDomState d])
      ∧ (s.selDom = d → s.oBit (okey 0x2000 4) 0 = true → s.domState (1 - d) = 2 → t.selDom = 1 - d))
  ∧ (∀ gm, (s.domState d ≠ 3 → exec (.grandmasterReselected d gm) s = .next s)
    ∧ (s.domState d = 3 → ∃ t, exec (.grandmasterReselected d gm) s = .next t ∧ t.domState d = (if gm = (s.gd d).lostGm then 2 else 1) ∧ s.onlyObjs t [kDomState d]))
  ∧ ((s.domState d ≠ 3 ∨ s.nowN ≤ (s.gd d).holdSince.toNat + s.objN (kDomHold d) * 1000000) → exec (.holdoverExpiry d) s = .next s)
  ∧ (s.domState d = 3 → (s.gd d).holdSince.toNat + s.objN (kDomHold d) * 1000000 < s.nowN →
    ∃ t, exec (.holdoverExpiry d) s = .next t ∧ t.domState d = 1 ∧ pair t)
  ∧ (∀ gm offset rate, (2 ≤ s.domState d → exec (.domainLock d gm offset rate) s = .next s)
    ∧ (s.domState d < 2 → 2 ^ 29 < rate.natAbs → ∃ t, exec (.domainLock d gm offset rate) s = .next t ∧ t.domState d = 1 ∧ s.onlyObjs t [kDomState d])
    ∧ (s.domState d < 2 → rate.natAbs ≤ 2 ^ 29 → ∃ t, exec (.domainLock d gm offset rate) s = .next t ∧ t.domState d = 2 ∧ t.obj (kDomGm d) = gm
      ∧ t.obj (kDomOffset d) = BitVec.ofInt 64 offset ∧ t.obj (kDomRate d) = BitVec.ofInt 64 rate ∧ t.obj (kDomAnchor d) = s.now
      ∧ t.objN (kDomEpoch d) = (s.objN (kDomEpoch d) + 1) % 2 ^ 32 ∧ t.everLocked = true ∧ (t.gd d).slew = none
      ∧ (s.everLocked = true → s.selDom ≠ d → t = { s with objs := t.objs, gdom := t.gdom }
        ∧ s.objsBut t [kDomState d, kDomGm d, kDomOffset d, kDomRate d, kDomAnchor d, kDomEpoch d, kDomPrev d 0, kDomPrev d 1, kDomPrev d 2]))))
  ∧ (∀ (s : State),
  (∀ src r v, s.accepts src r 0x2000 2 v → v.toNat < 2 →
    (v.toNat = s.selDom → exec (.domainSwitch src v) s = .next s)
    ∧ (v.toNat ≠ s.selDom → let d := s.domTime v.toNat s.nowN - s.netTime
      (d.natAbs ≤ 1000 → ∃ t, exec (.domainSwitch src v) s = .next t ∧ t.selDom = v.toNat ∧ t.netTime = s.netTime
        ∧ (∀ c, s.nowN ≤ c → t.slewRemaining c = if d < 0 then -((d.natAbs - (c - s.nowN) / 10000 : Nat) : Int) else ((d.natAbs - (c - s.nowN) / 10000 : Nat) : Int))
        ∧ t = { s with objs := t.objs, sel := t.sel } ∧ s.objsBut t [kSelected])
      ∧ (1000 < d.natAbs → ∃ t, exec (.domainSwitch src v) s = .next t ∧ t.selDom = v.toNat ∧ t.netTime = s.domTime v.toNat s.nowN ∧ t.sel = none
        ∧ t.obj kSwitch = setBit (setFld (s.obj kSwitch) 31 16 (fld (s.obj kSwitch) 31 16 + 1)) 1 true)))
  ∧ (s.slewRemaining s.nowN = 0 → ∃ t, exec .selectedSlewEnd s = .next t ∧ t.sel = none ∧ t.netTime = s.netTime ∧ t = { s with sel := none })
  ∧ (s.slewRemaining s.nowN ≠ 0 → exec .selectedSlewEnd s = .next s))

/-- R64, R68-R70, Table 3-2: an entry whose grid point the selected timeline has reached fires for its own action only: the firing counts, and the entry moves to its next grid point, or a one-shot clears its enable; one that is not due does nothing. A trigger pulses its output: on an idle output the leading edge comes 8 ns after the due instant and the width follows; on a busy one only the end moves and an overlap counts; the trailing edge comes when the width has run out. -/
def Obligations.CadenceFiresAndPulses : Prop :=
  (∀ (s : State) (e : Fin 1024),
  let due := s.cadEnabled e && !s.cadSensor e && decide (s.cadNext e ≠ 0) && decide ((s.cadNext e : Int) ≤ s.netTime)
  let fires := setFld (s.cad e 5) 63 32 (fld (s.cad e 5) 63 32 + 1)
  (∀ a, s.cadAction e ≠ a → s.fire e a = none)
  ∧ (s.cadDue = [] → due = false → ∀ a, s.fire e a = none)
  ∧ (s.fire e 0 = none → exec (.cadenceNone e) s = .next s) ∧ (s.fire e 1 = none → exec (.startJob e) s = .next s) ∧ (s.fire e 2 = none → exec (.assayCapture e) s = .next s)
  ∧ (s.fire e 3 = none → exec (.launchFrame e) s = .next s) ∧ (s.fire e 4 = none → exec (.lodestoneSample e) s = .next s) ∧ (s.fire e 5 = none → exec (.trigger e) s = .next s)
  ∧ (s.fire e 6 = none → exec (.publish e) s = .next s) ∧ (∀ l, s.fire e 7 = none → exec (.serviceSlot e l) s = .next s)
  ∧ (s.cadDue = [] → due = true → ∃ u f, s.fire e (s.cadAction e) = some (u, f) ∧ f.mark.toNat = s.cadNext e ∧ f.k = TMap.get (fun _ => 0) s.cadK e
    ∧ u.cad e 5 = fires ∧ TMap.get (fun _ => 0) u.cadK e = f.k + 1
    ∧ (s.cadPeriod e ≠ 0 → u.cadNext e = (s.cadNext e + s.cadPeriod e) % 2 ^ 64 ∧ u.cadEnabled e = true)
    ∧ (s.cadPeriod e = 0 → u.cadNext e = 0 ∧ u.cadEnabled e = false)
    ∧ s.objsBut u [kCad e 0, kCad e 4, kCad e 5] ∧ u = { s with objs := u.objs, cadK := u.cadK }
    ∧ (s.cadAction e = 0 → exec (.cadenceNone e) s = .next u)))
  ∧ (∀ (s : State),
  (∀ e : Fin 1024, ∀ u f, s.fire e 5 = some (u, f) → let o := fld (s.cadArg e) 3 0
    let stop : Word64 := BitVec.ofNat 64 (f.due + 8 + 4 * fld (s.cadArg e) 31 16)
    (s.pulse o = none → ∃ t, exec (.trigger e) s = .next t ∧ t.pulse o = some ⟨BitVec.ofNat 64 f.due, stop⟩ ∧ t.objN (okey (0x2010 + o) 2) = (u.objN (okey (0x2010 + o) 2) + 1) % 2 ^ 32
      ∧ t.out = (if s.oBit (okey (0x2010 + o) 1) 0 then .edge o (BitVec.ofNat 64 (f.due + 8)) true :: s.out else s.out)
      ∧ u.objsBut t [okey (0x2010 + o) 2] ∧ t = { u with objs := t.objs, trig := t.trig, out := t.out })
    ∧ (∀ p, s.pulse o = some p → f.due < p.stop.toNat → ∃ t, exec (.trigger e) s = .next t ∧ t.pulse o = some { p with stop := stop } ∧ t.out = s.out
      ∧ t.objN (okey (0x2010 + o) 3) = (u.objN (okey (0x2010 + o) 3) + 1) % 2 ^ 32 ∧ u.objsBut t [okey (0x2010 + o) 2, okey (0x2010 + o) 3] ∧ t = { u with objs := t.objs, trig := t.trig }))
  ∧ (∀ o : Fin 16, (s.pulse o = none → exec (.triggerWidthEnd o) s = .next s)
    ∧ ∀ p, s.pulse o = some p → (s.nowN < p.stop.toNat → exec (.triggerWidthEnd o) s = .next s)
      ∧ (p.stop.toNat ≤ s.nowN → ∃ t, exec (.triggerWidthEnd o) s = .next t ∧ t.pulse o = none
        ∧ t.out = (if s.oBit (okey (0x2010 + o) 1) 0 then .edge o p.stop false :: s.out else s.out) ∧ t = { s with trig := t.trig, out := t.out })))

/-- R45, R46, R64, R69, R229, R246, R247, R328, R406, Table 3-3: what a fired action does: a job start joins the instance's run queue, or is held while one of its handle waits or the instance is frozen; a capture samples its set; a launch releases the head of its queue with the mark as its launch time; a publication goes out for every subscription of the entry; a service slot opens. A start of a free or faulted instance, a capture into a held slot and a launch from an empty queue or one that is not in mode 2 are missed: one missed firing, cadence_events bit 1, and nothing of the action. -/
def Obligations.CadenceActions : Prop :=
  (∀ (s u : State) (e : Fin 1024) (f : Firing),
  (s.fire e 1 = some (u, f) → let m := fld (s.cadArg e) 35 32
    let job := fld (s.cadArg e) 15 0
    u.instState m ≠ 0 → u.instState m ≠ 4 →
    (u.jobHandle m job = none → exec (.startJob e) s = .next u)
    ∧ ∀ h, u.jobHandle m job = some h → let v := u.goldenFired m h e
      exec (.startJob e) s = .next (v.cadenceStart m h f.due)
      ∧ ((v.instState m = 3 ∨ v.schedUp = false ∨ ∃ q ∈ (v.inst m).runq, q.kind = 2 ∧ q.handle = h) → (TMap.find (v.inst m).held h) = none →
        ∃ r, r.kind = 2 ∧ r.handle = h ∧ TMap.find (((v.cadenceStart m h f.due).inst m).held) h = some r ∧ ((v.cadenceStart m h f.due).inst m).runq = (v.inst m).runq)
      ∧ (v.instState m ≠ 3 → v.schedUp = true → (∀ q ∈ (v.inst m).runq, ¬(q.kind = 2 ∧ q.handle = h)) → v.slotMember m = false →
        ∃ r, r.kind = 2 ∧ r.handle = h ∧ r.header = f.due ∧ ((v.cadenceStart m h f.due).inst m).runq = (v.inst m).runq.filter (·.kind = 2) ++ [r] ++ (v.inst m).runq.filter (·.kind ≠ 2)))
  ∧ (s.fire e 2 = some (u, f) → let k := fld (s.cadArg e) 7 0
    (u.oBit (kCap k 1) 63 = false → exec (.assayCapture e) s = .next u)
    ∧ (u.oBit (kCap k 1) 63 = true → u.capHeld k ((u.cap k).seq % u.capDepth k) = false → exec (.assayCapture e) s = .next (u.capture k)
      ∧ ((u.capture k).cap k).seq = (u.cap k).seq + 1))
  ∧ (s.fire e 3 = some (u, f) → let q := fld (s.cadArg e) 3 0
    let c := fld (s.cadArg e) 6 4
    ∀ h rest, u.queueOf q c = h :: rest → u.queueMode q c = 2 → ∃ t, exec (.launchFrame e) s = .next t
      ∧ t.queueOf q c = { h with released := true, launch := some f.mark } :: rest ∧ t = { u with txq := t.txq })
  ∧ (s.fire e 6 = some (u, f) → exec (.publish e) s = .next (u.forEach (u.subs.filter fun x => x.entry = e.val) fun u x => u.publishOne f.mark x)
    ∧ (u.subs.filter (fun x => x.entry = e.val) = [] → exec (.publish e) s = .next u)
    ∧ ∀ x y, u.session? x.sid = some y → ∃ items, u.publishOne f.mark x
        = (u.upSession x.sid fun z => { z with devSeq := (y.devSeq + 1) % 2 ^ 32 }).sendSegs x.sid 7 ((y.devSeq + 1) % 2 ^ 32) (segments (leBytes 1 x.subId ++ leBytes 1 0 ++ leBytes 2 x.entry ++ leBytes 4 0 ++ leBytes 8 f.mark.toNat)
            (leBytes 1 x.subId ++ leBytes 1 0 ++ leBytes 2 x.entry ++ leBytes 4 0 ++ leBytes 8 f.mark.toNat) items) ∧ items.length = x.refs.length)
  ∧ (s.fire e 7 = some (u, f) → u.selfReq = none →
    (∃ t, exec (.serviceSlot e []) s = .next t ∧ t.objN (kDiag 8) = (u.objN (kDiag 8) + 1) % 2 ^ 32 ∧ u.onlyObjs t [kDiag 8])
    ∧ ∀ c : Chunk, u.chunkFits c u.nowN (f.due + fld (s.cadArg e) 31 0) = false →
      ∃ t, exec (.serviceSlot e [c]) s = .next t ∧ t.objN (kDiag 8) = (u.objN (kDiag 8) + 1) % 2 ^ 32 ∧ t.objN (kDiag 9) = (u.objN (kDiag 9) + 1) % 2 ^ 32 ∧ u.onlyObjs t [kDiag 8, kDiag 9])
  ∧ (s.fire e 7 = some (u, f) → u.selfReq = none → ∀ c : Chunk, u.chunkFits c u.nowN (f.due + fld (s.cadArg e) 31 0) = true →
    ∃ v : State, exec (.serviceSlot e [c]) s = .next ((v.testCore c.core).chunkResult c false) ∧ v.objN (kDiag 8) = (u.objN (kDiag 8) + 1) % 2 ^ 32 ∧ u.onlyObjs v [kDiag 8]))
  ∧ (∀ (s u : State) (e : Fin 1024) (f : Firing),
  let missed (v t : State) : Prop := t.cad e 5 = setFld (v.cad e 5) 15 0 (min 0xffff (fld (v.cad e 5) 15 0 + 1)) ∧ t.oBit kCadEvents 1 = true ∧ v.onlyObjs t [kCad e 5, kCadEvents]
  (s.fire e 1 = some (u, f) → let m := fld (s.cadArg e) 35 32
    u.jobHandle m (fld (s.cadArg e) 15 0) = none → (u.instState m = 0 ∨ u.instState m = 4) → ∃ t, exec (.startJob e) s = .next t ∧ missed u t)
  ∧ (s.fire e 2 = some (u, f) → let k := fld (s.cadArg e) 7 0
    u.oBit (kCap k 1) 63 = true → u.capHeld k ((u.cap k).seq % u.capDepth k) = true →
    ∃ v t, exec (.assayCapture e) s = .next t ∧ missed v t ∧ v.objN (kCap k 0x15) = (u.objN (kCap k 0x15) + 1) % 2 ^ 32 ∧ u.onlyObjs v [kCap k 0x15])
  ∧ (s.fire e 3 = some (u, f) → let q := fld (s.cadArg e) 3 0
    let c := fld (s.cadArg e) 6 4
    (u.queueOf q c = [] ∨ u.queueMode q c ≠ 2) → ∃ t, exec (.launchFrame e) s = .next t ∧ missed u t)
  ∧ (s.fire e 4 = some (u, f) → let n := fld (s.cadArg e) 2 0
    (lcEnable (u.lodeCfg n) = false ∨ lcOuter (u.lodeCfg n) = true) → ∃ t, exec (.lodestoneSample e) s = .next t ∧ missed u t))

/-- R71-R77: a set-point is stamped when it is written; a sample latches the four inputs and starts an evaluation; 96 CLK_CTL cycles later the result is the law's output, or safe_value when an input was not valid, which is counted; at the output phase it leaves, and in the safe state safe_value leaves in its place with validity cleared. -/
def Obligations.LodestoneEvaluates : Prop := ∀ (s : State) (n : Fin 8),
  (∀ src r v, s.accepts src r (0x2400 + 8 * n) 0xc v → ∃ t, exec (.setpointWrite src n v) s = .next t ∧ t.obj (kLode n 12) = v ∧ t.lo n = { s.lo n with spStamp := some s.now }
    ∧ (∀ k, k ≠ (n : Nat) → t.lo k = s.lo k) ∧ s.objsBut t [kLode n 12] ∧ t = { s with objs := t.objs, lode := t.lode })
  ∧ (∀ (e : Fin 1024) u f, s.fire e 4 = some (u, f) → fld (s.cadArg e) 2 0 = n → lcEnable (u.lodeCfg n) = true → lcOuter (u.lodeCfg n) = false → u.lodeHasOuter n = false →
    ∃ t ev, exec (.lodestoneSample e) s = .next t ∧ (t.lo n).eval = some ev ∧ ev.due = BitVec.ofNat 64 f.due ∧ ev.sample = BitVec.ofNat 64 f.due ∧ ev.pending = false ∧ ev.cfg = u.lodeCfg n
      ∧ ev.ins = (List.range 4).map (fun j => u.lodeInput n j f.due) ∧ ev.period = s.cadPeriod e ∧ (∀ k, k ≠ (n : Nat) → t.lo k = u.lo k) ∧ t = { u with lode := t.lode })
  ∧ ((s.lo n).eval = none → ∀ b, exec (.lodestoneResult n b) s = .next s)
  ∧ (∀ ev b, (s.lo n).eval = some ev → s.nowN < ev.sample.toNat + 384 → exec (.lodestoneResult n b) s = .next s)
  ∧ (∀ ev, (s.lo n).eval = some ev → ev.sample.toNat + 384 ≤ s.nowN → ev.pending = false → lcOuter ev.cfg = false → f32eq (ev.params.getD 0 0#32) 0#32 = true →
    let bad := (ev.ins.zip ev.used).any fun z => z.2 && !z.1.ok
    (bad = true → ∃ t, exec (.lodestoneResult n false) s = .next t ∧ (t.lo n).eval = none ∧ (t.lo n).out = some ⟨ev.due, ev.params.getD 4 0#32, true, ev.cfg, s.obj (kLode n 13)⟩
      ∧ t.objN (kLodeStat n 4) = (s.objN (kLodeStat n 4) + 1) % 2 ^ 32 ∧ t.oBit kLodeEvents n = true ∧ s.objsBut t [kLodeStat n 4, kLodeEvents] ∧ t = { s with objs := t.objs, lode := t.lode })
    ∧ (bad = false → ∃ t, exec (.lodestoneResult n false) s = .next t ∧ t.lo n = { (lodeEvaluate ev { s.lo n with eval := none }).2 with out := some ⟨ev.due, (lodeEvaluate ev { s.lo n with eval := none }).1, true, ev.cfg, s.obj (kLode n 13)⟩ }
      ∧ (∀ k, k ≠ (n : Nat) → t.lo k = s.lo k) ∧ t = { s with lode := t.lode }))
  ∧ ((s.lo n).out = none → exec (.lodestoneOutput n) s = .next s)
  ∧ (∀ o, (s.lo n).out = some o → let at_ := o.due.toNat + 4 * fld o.cfg 31 0
    (s.nowN < at_ → exec (.lodestoneOutput n) s = .next s)
    ∧ (at_ ≤ s.nowN → let v := if s.safe then (s.obj (kLode n 11)).setWidth 32 else o.v
      ∃ u, (u.lo n).out = none ∧ u.objN (kLodeStat n 1) = v.toNat ∧ s.objsBut u [kLodeStat n 1] ∧ (∀ k, k ≠ (n : Nat) → u.lo k = s.lo k) ∧ u = { s with objs := u.objs, lode := u.lode }
        ∧ (lcKind o.cfg = 0 → exec (.lodestoneOutput n) s = .next u)
        ∧ (lcKind o.cfg ≠ 0 → exec (.lodestoneOutput n) s
            = .next (u.sendTemplate (fld o.frame 15 0 % 256) (fld o.frame 47 32) (leBytes 4 v.toNat) (o.valid && !s.safe) (BitVec.ofNat 64 (wrapInt 64 (u.netTimeAt at_)))))))

/-! ### Messages, plans and invocations (chapters 8 and 10) -/

/-- R251, R252, R263, R264, Table 10-6: a message that waits is consumed when the scheduler runs, the instance exists and both queues have room, and else stays; consuming it clears full, sets its event and counts it; an orphaned instance has every message but ATTACH refused with 0x000C. HEARTBEAT does no more, and ATTACH ends the orphaned state. A message from the device goes into the empty area, behind a full area it waits in order, and an orphaned instance discards it. -/
def Obligations.MessagesPassBothWays : Prop :=
  (∀ (s : State) (m : Fin 16),
  (∀ c k, msgForm c = some (m, k) →
    (s.mboxReady m k = false → exec c s = .next s)
    ∧ (s.mboxReady m k = true → s.instState m = 5 → k ≠ 7 → exec c s = .next ((s.consumed m).refuse m k (s.rdN (0xf020000000 + m * 0x2000 + 12) 4) 0x000C)))
  ∧ (let t := s.consumed m
    t.rdN (0xf020000000 + m * 0x2000) 8 = 0 ∧ (∀ a, (a < 0xf020000000 + m * 0x2000 ∨ 0xf020000000 + m * 0x2000 + 8 ≤ a) → t.byte a = s.byte a)
    ∧ t.oBit (kInst m 2 1) 1 = true ∧ t.objN (kInst m 2 2) = (s.objN (kInst m 2 2) + 1) % 2 ^ 32 ∧ (t.inst m).lastMsg = s.now ∧ (∀ j, j ≠ (m : Nat) → t.inst j = s.inst j)
    ∧ s.objsBut t [kInst m 2 1, kInst m 2 2] ∧ t = { s with mem := t.mem, poison := t.poison, objs := t.objs, insts := t.insts })
  ∧ (s.mboxReady m 6 = true → s.instState m ≠ 5 → exec (.heartbeat m) s = .next (s.consumed m))
  ∧ (s.mboxReady m 7 = true → s.instState m ≠ 5 → exec (.attach m) s = .next (s.consumed m))
  ∧ (s.mboxReady m 7 = true → s.instState m = 5 → ∃ t, exec (.attach m) s = .next t ∧ t.instState m = (if (s.inst m).invs = [] then 1 else 2) ∧ (s.consumed m).onlyObjs t [kInst m 0 1]))
  ∧ (∀ (s : State) (m : Fin 16),
  let base := mboxFrom m
  (∀ kind cookie body, (s.instState m = 5 → ∃ t, s.post m kind cookie body = t ∧ t.objN (kInst m 2 6) = (s.objN (kInst m 2 6) + 1) % 2 ^ 32 ∧ s.onlyObjs t [kInst m 2 6])
    ∧ (s.instState m ≠ 5 → (s.inst m).outq = [] → s.rdN base 8 ≠ 1 → kind < 2 ^ 16 → cookie < 2 ^ 32 → body.length < 2 ^ 12 →
      let t := s.post m kind cookie body
      t.rdN base 8 = 1 ∧ t.rdN (base + 8) 2 = kind ∧ t.rdN (base + 10) 2 = body.length ∧ t.rdN (base + 12) 4 = cookie ∧ t.rd (base + 16) body.length = body
      ∧ (∀ a, (a < base ∨ base + 16 + body.length ≤ a) → t.byte a = s.byte a) ∧ (t.inst m).outq = [] ∧ t.oBit (kInst m 2 1) 0 = true
      ∧ t.objN (kInst m 2 3) = (s.objN (kInst m 2 3) + 1) % 2 ^ 32 ∧ s.objsBut t [kInst m 2 1, kInst m 2 3] ∧ t = { s with mem := t.mem, poison := t.poison, objs := t.objs, insts := t.insts })
    ∧ (s.instState m ≠ 5 → s.rdN base 8 = 1 → (kind ≠ 0x84 ∨ (s.inst m).outq.length < 48) →
      let t := s.post m kind cookie body
      (t.inst m).outq = (s.inst m).outq ++ [⟨kind, cookie, body⟩] ∧ (∀ j, j ≠ (m : Nat) → t.inst j = s.inst j) ∧ t = { s with insts := t.insts }))
  ∧ ((s.inst m).outq = [] → ∃ t, exec (.mboxFromClear m) s = .next t ∧ t.rdN base 8 = 0 ∧ (∀ a, (a < base ∨ base + 8 ≤ a) → t.byte a = s.byte a) ∧ t.oBit (kInst m 2 1) 0 = false
      ∧ s.objsBut t [kInst m 2 1] ∧ t = { s with mem := t.mem, poison := t.poison, objs := t.objs })
  ∧ (∀ msg rest, (s.inst m).outq = msg :: rest → msg.kind < 2 ^ 16 → msg.cookie < 2 ^ 32 → msg.body.length < 2 ^ 12 →
      ∃ t, exec (.mboxFromClear m) s = .next t ∧ t.rdN base 8 = 1 ∧ t.rdN (base + 8) 2 = msg.kind ∧ t.rdN (base + 12) 4 = msg.cookie ∧ t.rd (base + 16) msg.body.length = msg.body
        ∧ (t.inst m).outq = rest ∧ t.oBit (kInst m 2 1) 0 = true ∧ t.objN (kInst m 2 3) = (s.objN (kInst m 2 3) + 1) % 2 ^ 32))

/-- R191, R199, R200, R202, R203, R253: LOAD is refused for a handle out of range or in use, and otherwise the outcome is reported; UNLOAD of a handle that holds no plan answers 0x0007, a second one 0x000B, and one whose plan is in use waits. A write of replace queues the plans that it names, or is refused for a pinned one; a re-placement job takes the head of that queue, marks the plan unrunnable when its resources cannot be met and else gives it its new placement; an invocation that outlasts the grace of a removal under policy 1 is restarted. -/
def Obligations.PlansLoadAndMove : Prop :=
  (∀ (s : State) (m : Fin 16),
  (∀ pl, s.mboxReady m 1 = true → s.instState m ≠ 5 → let u := s.consumed m
    let cookie := s.rdN (mboxTo m + 12) 4
    let h := u.rdN (mboxTo m + 32) 1
    (16 ≤ h → exec (.load m pl) s = .next (u.refuse m 1 cookie 0x0007))
    ∧ (h < 16 → (u.inst m).plans.any (fun p => p.1 = h) = true → exec (.load m pl) s = .next (u.refuse m 1 cookie 0x000B))
    ∧ (h < 16 → (u.inst m).plans.any (fun p => p.1 = h) = false → ∀ t status f, u.loadPlan m h (u.rdN (mboxTo m + 16) 8) pl = (t, status, f) →
      let report := u.rdN (mboxTo m + 24) 8
      let t' := if t.engineMay m report 64 true then t.wr report (loadReport status h f pl) else t
      exec (.load m pl) s = .next (t'.post m 0x81 cookie (leBytes 1 h ++ leBytes 1 0 ++ leBytes 2 status ++ leBytes 4 0 ++ leBytes 8 report))))
  ∧ (s.mboxReady m 2 = true → s.instState m ≠ 5 → let u := s.consumed m
    let cookie := s.rdN (mboxTo m + 12) 4
    let h := u.rdN (mboxTo m + 16) 1
    (TMap.find (u.inst m).plans h = none → exec (.unload m) s = .next (u.post m 0x82 cookie (leBytes 1 h ++ leBytes 1 0 ++ leBytes 2 0x0007 ++ leBytes 4 0)))
    ∧ (∀ p, TMap.find (u.inst m).plans h = some p → p.unload.isSome = true → exec (.unload m) s = .next (u.refuse m 2 cookie 0x000B))
    ∧ (∀ p, TMap.find (u.inst m).plans h = some p → p.unload = none → (u.inst m).runq = [] → (∃ v ∈ (u.inst m).invs, v.req.kind ≠ 1 ∧ v.req.handle = h) →
      ∃ t, exec (.unload m) s = .next t ∧ TMap.find (t.inst m).plans h = some { p with unload := some cookie } ∧ t.objN (kPlacer m 1) = 3 ∧ TMap.find (t.inst m).held h = none
        ∧ (t.inst m).invs = (u.inst m).invs ∧ u.objsBut t [kPlacer m 1] ∧ t = { u with objs := t.objs, insts := t.insts })))
  ∧ (∀ (s : State) (m : Fin 16),
  (∀ src r v, s.accepts src r (0x4200 + 0x10 * m) 0xa v → let named := (s.inst m).plans.filter fun p => bit v p.1
    ((∃ p ∈ named, p.2.pinned = true) → exec (.replace src m v) s = .next (s.latch r.ctx 0x000B (0x4200 + 0x10 * m) 0xa))
    ∧ ((∀ p ∈ named, p.2.pinned = false) → ∃ t, exec (.replace src m v) s = .next t ∧ (t.inst m).replaceq = (s.inst m).replaceq ++ named.map (fun p => (p.1, 4))
      ∧ (∀ j, j ≠ (m : Nat) → t.inst j = s.inst j) ∧ t = { s with insts := t.insts }))
  ∧ (∀ (h : Fin 16) (cause : Fin 5) pl, ((s.inst m).replaceq = [] ∨ s.schedUp = false) → exec (.replacementJob m h cause pl) s = .next s)
  ∧ (∀ (h : Fin 16) (cause : Fin 5) pl rest p, (s.inst m).replaceq = (h.val, cause.val) :: rest → s.schedUp = true → TMap.find (s.inst m).plans h = some p → p.pinned = false →
    let u := s.upInst m fun x => { x with replaceq := rest }
    let w := (u.count (kPlacer m 7) 32).setN (kPlacer m 9) cause
    (w.placeOk m h p.minCores p.safety p.nodes pl = false → ∃ t, exec (.replacementJob m h cause pl) s = .next t ∧ t.oBit (kPlacer m 4) h = true
      ∧ t.objN (kPlacer m 7) = (s.objN (kPlacer m 7) + 1) % 2 ^ 32 ∧ t.objN (kPlacer m 9) = cause ∧ (t.inst m).replaceq = rest ∧ TMap.find (t.inst m).plans h = some p
      ∧ s.objsBut t [kPlacer m 4, kPlacer m 7, kPlacer m 9] ∧ t = { s with objs := t.objs, insts := t.insts })
    ∧ (w.placeOk m h p.minCores p.safety p.nodes pl = true → ∃ t, exec (.replacementJob m h cause pl) s = .next t ∧ t.oBit (kPlacer m 4) h = false ∧ (t.inst m).replaceq = rest
      ∧ ∃ q, TMap.find (t.inst m).plans h = some q ∧ q.place = pl ∧ q.image = p.image))
  ∧ (∀ num, (s.inst m).shrink.find? (fun w => w.1 = num) = none → exec (.shrinkGraceExpiry m num) s = .next s)
  ∧ (∀ num at_, (s.inst m).shrink.find? (fun w => w.1 = num) = some (num, at_) →
    ((s.objN (kPlacer m 5) ≠ 1 ∨ s.nowN < at_.toNat) → exec (.shrinkGraceExpiry m num) s = .next s)
    ∧ (s.objN (kPlacer m 5) = 1 → at_.toNat ≤ s.nowN → exec (.shrinkGraceExpiry m num) s = .next (s.restartInv m num))))

/-- R140, R141, R243, R253: RUN of no loaded plan, or of one that the limits make unrunnable, is refused, and another joins the run queue; DIRECT needs the permission of its instance; CANCEL withdraws the earliest queued request of its cookie and is refused for one that has started. -/
def Obligations.RequestsQueueAndCancel : Prop := ∀ (s : State) (m : Fin 16),
  (s.mboxReady m 3 = true → s.instState m ≠ 5 → let u := s.consumed m
    let cookie := s.rdN (mboxTo m + 12) 4
    let r := u.runReq m cookie
    (TMap.find (u.inst m).plans r.handle = none → exec (.run m) s = .next (u.refuse m 3 cookie 0x0007))
    ∧ (∀ p, TMap.find (u.inst m).plans r.handle = some p → p.unload = none → (r.binds.map (·.1)).Nodup → (∀ b ∈ p.binds, b.2.2 = 0 → ∃ x ∈ r.binds, x.1 = b.1) →
      (u.oBit (kPlacer m 4) r.handle = true → exec (.run m) s = .next (u.refuse m 3 cookie 0x000A))
      ∧ (u.oBit (kPlacer m 4) r.handle = false → (r.view = true → u.oBit (kInst m 1 9) 1 = true) → u.partMode (u.objN (kInst m 1 1)) ≠ 2 →
        ∃ t, exec (.run m) s = .next t ∧ (t.inst m).runq = (u.inst m).runq ++ [r] ∧ (∀ j, j ≠ (m : Nat) → t.inst j = u.inst j) ∧ t = { u with insts := t.insts })))
  ∧ (s.mboxReady m 4 = true → s.instState m ≠ 5 → let u := s.consumed m
    let cookie := s.rdN (mboxTo m + 12) 4
    let r : RunReq := ⟨1, cookie, 0, false, [], [], u.rdN (mboxTo m + 16) 8, [], false⟩
    (u.oBit (kInst m 1 9) 0 = false → exec (.direct m) s = .next (u.refuse m 4 cookie 0x000E))
    ∧ (u.oBit (kInst m 1 9) 0 = true → u.slotMember m = false → u.mayStart m = true → (u.inst m).runq = [] → exec (.direct m) s = .next (u.startDirect m r)
      ∧ (u.directOk m r.header = false → exec (.direct m) s = .next ((u.refuse m 4 cookie (fld (Config.freeValue u.free) 15 0)).tookFree)))
    ∧ (u.oBit (kInst m 1 9) 0 = true → u.slotMember m = false → ((u.inst m).runq ≠ [] ∨ u.mayStart m = false) → u.partMode (u.objN (kInst m 1 1)) ≠ 2 →
      ∃ t, exec (.direct m) s = .next t ∧ (t.inst m).runq = (u.inst m).runq ++ [r] ∧ t = { u with insts := t.insts }))
  ∧ (s.mboxReady m 5 = true → s.instState m ≠ 5 → let u := s.consumed m
    let cookie := s.rdN (mboxTo m + 12) 4
    let target := u.rdN (mboxTo m + 16) 4
    let hit := (u.inst m).runq.find? fun r => decide (r.cookie = target) && decide (r.kind < 2)
    (∀ r, hit = some r → ∃ v : State, exec (.cancel m) s = .next ((v.reportQueued m r 5).yieldSlice (v.objN (kInst m 1 1))) ∧ (v.inst m).runq = (u.inst m).runq.erase r
        ∧ (∀ j, j ≠ (m : Nat) → v.inst j = u.inst j) ∧ v = { u with insts := v.insts })
    ∧ (hit = none → (∃ v ∈ (u.inst m).invs, v.req.cookie = target ∧ v.req.kind < 2) → exec (.cancel m) s = .next (u.refuse m 5 cookie 0x000B)))

/-- R142, R222, R245, R246: an invocation starts when its instance holds its cores, fewer than four are in progress and its caches have settled: it takes the next number and the next group numbers and leaves the run queue. A staged output is copied to its binding when it is written and its tag has settled, and is marked invalid over a broken group or in the safe state; an invocation completes when every segment has reached its HALT and every output has been released, and its energy is charged. -/
def Obligations.InvocationsStartAndRelease : Prop :=
  (∀ (s : State) (m : Fin 16),
  (s.mayStart m = false → exec (.invocationStart m) s = .next s)
  ∧ (s.mayStart m = true → (s.inst m).runq.find? (s.eligible m) = none → exec (.invocationStart m) s = .next s)
  ∧ (∀ r p, s.mayStart m = true → (s.inst m).runq.find? (s.eligible m) = some r → r.kind = 0 → TMap.find (s.inst m).plans r.handle = some p →
    s.oBit (kPlacer m 4) r.handle = false →
    (s.kvSettled m p = false ∨ s.capturing m p r = true → exec (.invocationStart m) s = .next s)
    ∧ (s.kvSettled m p = true → s.capturing m p r = false → ∃ t v, exec (.invocationStart m) s = .next t ∧ (t.inst m).invs = (s.inst m).invs ++ [v]
      ∧ v.num = (s.inst m).nextInv ∧ v.req = r ∧ v.base = (s.inst m).base ∧ v.groups = p.place.groups ∧ v.started = s.now ∧ v.equal = [] ∧ v.broken = []
      ∧ (t.inst m).nextInv = (s.inst m).nextInv + 1 ∧ (t.inst m).base = (s.inst m).base + BitVec.ofNat 32 p.place.groups ∧ (t.inst m).runq = (s.inst m).runq.erase r
      ∧ t.instState m = (if s.instState m = 1 then 2 else s.instState m) ∧ (∀ j, j ≠ (m : Nat) → t.inst j = s.inst j) ∧ t.mem = s.mem ∧ t.out = s.out)))
  ∧ (∀ (s : State) (m : Fin 16) (num binding : Nat),
  (s.inv? m num = none → exec (.outputRelease m num binding) s = .next s ∧ ∀ e, exec (.invocationComplete m num e) s = .next s)
  ∧ ∀ v, s.inv? m num = some v →
    (∀ o, v.outs.find? (fun o => decide (o.place.binding = binding) && !o.released) = some o →
      ((o.written = false ∨ v.settled o.place.tag = false) → exec (.outputRelease m num binding) s = .next s)
      ∧ (o.written = true → v.settled o.place.tag = true → let invalid := s.safe || (List.range o.place.tag).any v.broken.contains
        ∃ t v', exec (.outputRelease m num binding) s = .next t ∧ t.inv? m num = some v'
          ∧ v'.outs = v.outs.map (fun x => if x.place.binding = binding then { x with released := true, invalid := invalid } else x)
          ∧ (s.engineMay m o.dest o.place.len true = true → t.mem = (s.wr o.dest (s.rd o.place.addr o.place.len)).mem)
          ∧ (s.engineMay m o.dest o.place.len true = false → t.mem = s.mem ∧ t.objs = s.objs)
          ∧ t = { s with mem := t.mem, poison := t.poison, objs := t.objs, insts := t.insts }))
    ∧ (∀ e, (s.hasSegs m num = true ∨ v.outs.all (·.released) = false) → exec (.invocationComplete m num e) s = .next s)
    ∧ (∀ e, s.hasSegs m num = false → v.outs.all (·.released) = true → (v.req.kind = 1 ∨ s.goldenOf m v.req.handle = []) →
      ∃ u : State, exec (.invocationComplete m num e) s = .next (u.endInv m num 0 none e) ∧ u.objN (kInst m 3 8) = (s.objN (kInst m 3 8) + e) % 2 ^ 64
        ∧ s.onlyObjs u [kInst m 3 8, kInst m 2 1]))

/-- R166, R178, Tables 7-2 and 7-3: a kv_command leaves its outcome in kv_status: creation fails on a live cache or a record out of range, and takes entries for a good one; the others need a live cache, release and truncation need its instance's cores at rest, and a ring is not truncated. -/
def Obligations.CacheCommands : Prop := ∀ (s : State) (m : Fin 16) (src : Src) (r : Requester) (arg : BitVec 56),
  let k := fld arg 55 48
  let c := s.cache m k
  let running := (s.coresOf m).any fun n => s.coreState n = 1
  let w (cmd : Nat) : Word64 := BitVec.ofNat 64 (cmd * 2 ^ 56 + arg.toNat)
  let status (cmd err : Nat) (t : State) : Prop := t.objN (kKv m 3) = cmd * 2 ^ 56 + k * 2 ^ 48 + err
  let fails (cmd err : Nat) (t : State) : Prop := status cmd err t ∧ s.onlyObjs t [kKv m 3]
  (s.accepts src r (0x4830 + 0x40 * m) 2 (w 1) →
    ((c.state = 1 ∨ c.ok = false) → ∃ t, exec (.kvCreate src m arg) s = .next t ∧ fails 1 0x0007 t)
    ∧ (c.state ≠ 1 → c.ok = true → 2 ^ 20 < s.objN (kKv m 7) + c.headCount * c.newPages → ∃ t, exec (.kvCreate src m arg) s = .next t ∧ fails 1 0x000A t)
    ∧ (c.state ≠ 1 → c.ok = true → s.objN (kKv m 7) + c.headCount * c.newPages ≤ 2 ^ 20 → ∀ first, nextFree (s.ptHeld m) (2 ^ 20) (c.headCount * c.newPages) 1 258 0 = some first →
      ∃ t, exec (.kvCreate src m arg) s = .next t ∧ status 1 0 t ∧ t.objN (kKv m 7) = s.objN (kKv m 7) + c.headCount * c.newPages
        ∧ s.objsBut t [kKv m 3, kKv m 7] ∧ t = { s with mem := t.mem, poison := t.poison, objs := t.objs }))
  ∧ (s.accepts src r (0x4830 + 0x40 * m) 2 (w 2) →
    (c.state ≠ 1 → ∃ t, exec (.kvRelease src m arg) s = .next t ∧ fails 2 0x0007 t)
    ∧ (c.state = 1 → running = true → ∃ t, exec (.kvRelease src m arg) s = .next t ∧ fails 2 0x000B t)
    ∧ (c.state = 1 → running = false → ∃ t, exec (.kvRelease src m arg) s = .next t ∧ status 2 0 t ∧ TMap.find (t.inst m).kv k = none
      ∧ t.objN (kKv m 7) = s.objN (kKv m 7) - c.headCount * c.pages))
  ∧ (s.accepts src r (0x4830 + 0x40 * m) 2 (w 3) →
    ((c.state ≠ 1 ∨ c.ring = true) → ∃ t, exec (.kvTruncate src m arg) s = .next t ∧ fails 3 0x0007 t)
    ∧ (c.state = 1 → c.ring = false → running = true → ∃ t, exec (.kvTruncate src m arg) s = .next t ∧ fails 3 0x000B t)
    ∧ (c.state = 1 → c.ring = false → running = false → ∃ t, exec (.kvTruncate src m arg) s = .next t ∧ status 3 0 t ∧ t.objN (kKv m 7) = s.objN (kKv m 7)))
  ∧ (s.accepts src r (0x4830 + 0x40 * m) 2 (w 4) →
    (c.state ≠ 1 → ∃ t, exec (.kvPrebind src m arg) s = .next t ∧ fails 4 0x0007 t)
    ∧ (c.state = 1 → ∃ t, exec (.kvPrebind src m arg) s = .next t ∧ (status 4 0 t ∨ fails 4 0x000A t) ∧ t.objN (kKv m 7) = s.objN (kKv m 7)))

/-! ### Partitions, instances and pre-emption (chapter 10) -/

/-- R236, R239-R242, R244, R320: a pre-emption stops a core's dispatch and its watchdog, and no other core's; a core that is saved is empty and shows saved, and the one granted back has the registers, queues, slots and banks that it had. The pre-empted cores of a partition go to the member that waits; a slice that has run out passes to the next member with work, or starts again; a slot's lead time, or a display deadline, pre-empts the holder; none of these happens before its time. -/
def Obligations.CoresChangeHands : Prop :=
  (∀ (s : State) (n : Fin 16),
  let m := s.holder n
  let may := s.schedUp && decide (m < 16) && decide ((s.core n).hold ≠ .stopped) && decide (s.instState m ≠ 4)
    && (decide (s.coreState n = 0) || decide (s.coreState n = 1) || decide (s.coreState n = 4)) && !(s.core n).preempt
  (may = false → exec (.preempt n) s = .next s)
  ∧ (may = true → ∃ t, exec (.preempt n) s = .next t ∧ (t.core n).preempt = true ∧ (∀ i, (t.core n).s i = (s.core n).s i) ∧ (t.core n).slab = (s.core n).slab
    ∧ (s.coreState n ≠ 4 → (t.core n).elapsed = (s.core n).elapsed + (s.nowN - (s.core n).lastRetire.toNat))
    ∧ (∀ j, j ≠ n → t.core j = s.core j) ∧ t = { s with cores := t.cores, peb := t.peb })
  ∧ ((s.core n).hold ≠ .stopped → let u := s.saveCore n
    u.coreState n = 2 ∧ u.core n = { CoreSt.init with lastWorld := (s.core n).lastWorld } ∧ (TMap.find (u.inst m).saved n).isSome = true
    ∧ (∀ j, j ≠ n → u.core j = s.core j) ∧ (∀ j, j ≠ m → u.inst j = s.inst j)
    ∧ (let t := u.grantCore n m
      (∀ i, (t.core n).s i = (s.core n).s i) ∧ (∀ i, (t.core n).t i = (s.core n).t i) ∧ (∀ i, (t.core n).p i = (s.core n).p i) ∧ (t.core n).slots = (s.core n).slots
      ∧ (t.core n).acc = (s.core n).acc ∧ (t.core n).banks = (s.core n).banks ∧ (t.core n).vregs = (s.core n).vregs ∧ (t.core n).slab = (s.core n).slab
      ∧ (t.core n).mica = (s.core n).mica ∧ (t.core n).dma = (s.core n).dma ∧ (t.core n).seg = (s.core n).seg ∧ (t.core n).segs = (s.core n).segs ∧ (t.core n).hold = (s.core n).hold
      ∧ t.holder n = m % 2 ^ 64 ∧ TMap.find (t.inst m).saved n = none)))
  ∧ (∀ (s : State) (p : Fin 16),
  let h := s.partHolder p
  let x := s.part p
  let preempted (m : Nat) (keep : Bool) (t : State) : Prop := t = s.preemptPart p m keep ∧ (t.part p).saving = true ∧ (t.part p).next = some m ∧ (t.part p).since = none
    ∧ (t.part p).left = s.sliceLeft p ∧ (keep = true → (t.part p).interrupted = some (h, s.sliceLeft p))
  ((s.schedUp = false ∨ ((s.partCores p).filter (fun n => (s.core n).preempt) = [] ∧ x.saving = false)) → exec (.saveComplete p) s = .next s)
  ∧ (∀ m, s.schedUp = true → x.saving = true → (s.partCores p).filter (fun n => (s.core n).preempt) = [] → x.waitSlots = [] → x.next = some m → s.slotMember m = false →
    ∃ t, exec (.saveComplete p) s = .next t ∧ t.partHolder p = m % 2 ^ 64 ∧ (t.part p).saving = false ∧ (t.part p).next = none ∧ (t.part p).since = some s.now ∧ (t.part p).left = s.sliceNs m)
  ∧ (let due := s.schedUp && decide (s.partMode p = 2) && decide (h ≠ 0xff) && x.slot.isNone && !x.saving && x.since.isSome && decide (s.sliceLeft p = 0) && !s.slotMember h
    (due = false → exec (.sliceEnd p) s = .next s)
    ∧ (due = true → (s.nextMember p = none ∨ s.nextMember p = some h) → ∃ t, exec (.sliceEnd p) s = .next t ∧ t.part p = { x with left := s.sliceNs h, since := some s.now } ∧ t = { s with parts := t.parts })
    ∧ (∀ m, due = true → s.nextMember p = some m → m ≠ h → ∃ t, exec (.sliceEnd p) s = .next t ∧ preempted m false t))
  ∧ (∀ (e : Fin 1024), let m := fld (s.cadArg e) 35 32
    let may := s.schedUp && decide (s.cadAction e = 1) && s.slotMember m && decide (s.objN (kInst m 1 1) = p) && (s.jobHandle m (fld (s.cadArg e) 15 0)).isSome && x.slot.isNone && decide (h ≠ m)
    ((may = false ∨ s.predictDue e = none) → exec (.slotPreempt p e) s = .next s)
    ∧ (∀ due, may = true → s.predictDue e = some due →
      (s.nowN + s.leadNs p < due → exec (.slotPreempt p e) s = .next s)
      ∧ (due ≤ s.nowN + s.leadNs p → x.saving = false → h ≠ 0xff → ∃ t, exec (.slotPreempt p e) s = .next t ∧ preempted m true t)
      ∧ (due ≤ s.nowN + s.leadNs p → x.saving = false → h = 0xff → exec (.slotPreempt p e) s = .next (s.grantPart p m 0))))
  ∧ (let save := s.saveBound p (s.partCores p).length
    let may := s.schedUp && decide (s.gfxPartition = some p.val) && decide (s.partMode p = 2) && decide (h ≠ 0xff) && decide (h ≠ s.gfxInst) && !s.slotMember h && x.slot.isNone && !x.saving
      && (s.partMembers p).contains s.gfxInst
    ((may = false ∨ s.passDeadline save = none) → exec (.displayPreempt p) s = .next s)
    ∧ (∀ d, may = true → s.passDeadline save = some d →
      (s.nowN + pdEstimate s.passDesc + save < d → exec (.displayPreempt p) s = .next s)
      ∧ (d ≤ s.nowN + pdEstimate s.passDesc + save → ∃ t, exec (.displayPreempt p) s = .next t ∧ preempted s.gfxInst true t))))

/-- R248: an exception on a core of an instance faults the instance: it is stopped whole, and its fault objects name the cause, the core, the address, the information and the time. With no core stopped nothing happens. -/
def Obligations.ExceptionFaultsItsInstance : Prop := ∀ (s : State) (m : Fin 16),
  let hit := (s.coresOf m).find? fun n => decide ((s.core n).hold = .stopped)
  (hit = none → exec (.instanceFault m) s = .next s)
  ∧ ∀ n, hit = some n → ∃ t, exec (.instanceFault m) s = .next t ∧ t.instState m = 4 ∧ t.obj (kInst m 4 1) = s.obj (kCause n) ∧ t.objN (kInst m 4 2) = n
    ∧ t.obj (kInst m 4 3) = s.obj (kCore n 4 3) ∧ t.obj (kInst m 4 4) = s.obj (kCore n 4 4) ∧ t.obj (kInst m 4 5) = s.now

/-- R249, R256-R259, R263, Table 10-8: the commands of an instance act in the states that the manual gives them, and elsewhere fail with 0x000B and change nothing but inst_status: creation from free, destruction of any that exists, freeze of a ready or running one, thaw of a frozen one, recovery of a faulted one, and orphaning, which also comes when no message has been consumed for heartbeat_timeout. -/
def Obligations.InstanceCommands : Prop := ∀ (s : State) (m : Fin 16) (src : Src) (r : Requester) (arg : BitVec 56) (c : Carve),
  let ok (cmd : Nat) : Prop := s.accepts src r (0x4800 + 0x40 * m) 2 (BitVec.ofNat 64 (cmd * 2 ^ 56 + arg.toNat))
  let st := s.instState m
  let fails (cmd err : Nat) (t : State) : Prop := t.objN (kInst m 0 3) = cmd * 2 ^ 56 + err ∧ s.onlyObjs t [kInst m 0 3]
  let done (cmd : Nat) (t : State) : Prop := t.objN (kInst m 0 3) = cmd * 2 ^ 56
  (ok 1 → (∀ e, s.createError m c = e → e ≠ 0 → ∃ t, exec (.instCreate src m arg c) s = .next t ∧ fails 1 e t)
    ∧ (st ≠ 0 → ∃ t, exec (.instCreate src m arg c) s = .next t ∧ fails 1 0x000B t)
    ∧ (s.createError m c = 0 → ∃ t, exec (.instCreate src m arg c) s = .next t ∧ done 1 t ∧ t.instState m = 1 ∧ (t.inst m).stackBase = c.stackBase ∧ (t.inst m).invs = [] ∧ (t.inst m).runq = []
      ∧ t.obj (kAssay m 1) = s.obj (kInst m 1 6) ∧ t.objN (kKv m 4) = 0 ∧ t.obj (kMaster m 1) = s.obj (kInst m 1 5) ∧ (∀ k < 8, t.objN (kInst m 3 (1 + k)) = 0)))
  ∧ (ok 2 → ((st = 0 ∨ (s.inst m).zeroing = true) → ∃ t, exec (.instDestroy src m arg) s = .next t ∧ fails 2 0x000B t)
    ∧ (st ≠ 0 → (s.inst m).zeroing = false → ∃ t, exec (.instDestroy src m arg) s = .next t ∧ done 2 t ∧ t.instState m = 4 ∧ (t.inst m).zeroing = true))
  ∧ (ok 3 → (st ≠ 1 → st ≠ 2 → ∃ t, exec (.instFreeze src m arg) s = .next t ∧ fails 3 0x000B t)
    ∧ ((st = 1 ∨ st = 2) → ∃ t, exec (.instFreeze src m arg) s = .next t ∧ done 3 t ∧ t.instState m = 3))
  ∧ (ok 4 → (st ≠ 3 → ∃ t, exec (.instThaw src m arg) s = .next t ∧ fails 4 0x000B t)
    ∧ (st = 3 → ∃ t, exec (.instThaw src m arg) s = .next t ∧ done 4 t ∧ t.instState m = (if (s.inst m).invs = [] then 1 else 2)))
  ∧ (ok 7 → ((st ≠ 4 ∨ (s.inst m).zeroing = true) → ∃ t, exec (.instRecover src m arg) s = .next t ∧ fails 7 0x000B t)
    ∧ (st = 4 → (s.inst m).zeroing = false → ∃ t, exec (.instRecover src m arg) s = .next t ∧ done 7 t ∧ t.instState m = 1))
  ∧ (ok 8 → (st ≠ 1 → st ≠ 2 → ∃ t, exec (.instOrphan src m arg) s = .next t ∧ fails 8 0x000B t)
    ∧ ((st = 1 ∨ st = 2) → ∃ t, exec (.instOrphan src m arg) s = .next t ∧ done 8 t ∧ t.instState m = 5 ∧ (t.inst m).outq = []))
  ∧ (let limit := s.objN (kInst m 0 6)
    ((limit = 0 ∨ (st ≠ 1 ∧ st ≠ 2) ∨ s.nowN < (s.inst m).lastMsg.toNat + limit * 1000000) → exec (.heartbeatTimeout m) s = .next s)
    ∧ (limit ≠ 0 → (st = 1 ∨ st = 2) → (s.inst m).lastMsg.toNat + limit * 1000000 ≤ s.nowN → ∃ t, exec (.heartbeatTimeout m) s = .next t ∧ t.instState m = 5 ∧ (t.inst m).outq = []))

/-- R255, R257, R260-R262: when a destroyed instance's zeroing ends its stack range reads zero, and it is free with nothing left of it; a write of the accounting reset clears the eight counters; an image is saved only of a frozen normal-world instance whose owner permits it and into a buffer that holds it, and restored only into a free one from a buffer whose form, signature and device agree. -/
def Obligations.InstanceZeroingAndImages : Prop := ∀ (s : State) (m : Fin 16) (src : Src) (r : Requester) (arg : BitVec 56) (c : Carve),
  let ok (cmd : Nat) : Prop := s.accepts src r (0x4800 + 0x40 * m) 2 (BitVec.ofNat 64 (cmd * 2 ^ 56 + arg.toNat))
  let st := s.instState m
  let fails (cmd err : Nat) (t : State) : Prop := t.objN (kInst m 0 3) = cmd * 2 ^ 56 + err ∧ s.onlyObjs t [kInst m 0 3]
  ((s.schedUp = false ∨ (s.inst m).zeroing = false) → exec (.zeroingEnd m) s = .next s)
  ∧ (s.schedUp = true → (s.inst m).zeroing = true → ∃ t, exec (.zeroingEnd m) s = .next t ∧ t.instState m = 0 ∧ t.inst m = InstSt.init ∧ t.objN (kMaster m 1) = 0 ∧ t.objN (kKv m 7) = 0
    ∧ t.objN (kInst m 0 3) = 2 * 2 ^ 56 ∧ (∀ b, (s.inst m).stackBase ≤ b → b < (s.inst m).stackBase + s.objN (kInst m 1 4) → b < 0x1800000000 → t.byte b = 0#8))
  ∧ (∀ v, s.accepts src r (0x4803 + 0x40 * m) 0xa v → ∃ t, exec (.acctReset src m v) s = .next t ∧ (∀ k < 8, t.objN (kInst m 3 (1 + k)) = 0) ∧ (t.inst m).ns = []
    ∧ (∀ j, j ≠ (m : Nat) → t.inst j = s.inst j) ∧ s.objsBut t ((List.range 8).map fun k => kInst m 3 (1 + k)) ∧ t = { s with objs := t.objs, insts := t.insts })
  ∧ (ok 5 → (st ≠ 3 → ∃ t, exec (.instSaveImage src m arg) s = .next t ∧ fails 5 0x000B t)
    ∧ (st = 3 → s.objN (kInst m 0 4) = 1 → ∃ t, exec (.instSaveImage src m arg) s = .next t ∧ fails 5 0x0004 t)
    ∧ (st = 3 → s.objN (kInst m 0 4) ≠ 1 → s.oBit (kInst m 1 9) 2 = false → ∃ t, exec (.instSaveImage src m arg) s = .next t ∧ fails 5 0x000E t)
    ∧ (st = 3 → s.objN (kInst m 0 4) ≠ 1 → s.oBit (kInst m 1 9) 2 = true →
      (∀ need, s.writeMig m = (none, need) → ∃ t, exec (.instSaveImage src m arg) s = .next t ∧ t.objN (kInst m 0 3) = 5 * 2 ^ 56 + 0x000A ∧ t.objN (kInst m 6 3) = need % 2 ^ 64
        ∧ s.onlyObjs t [kInst m 0 3, kInst m 6 3])
      ∧ (∀ u len, s.writeMig m = (some u, len) → ∃ t, exec (.instSaveImage src m arg) s = .next t ∧ t.objN (kInst m 0 3) = 5 * 2 ^ 56 ∧ t.objN (kInst m 6 3) = len % 2 ^ 64
        ∧ s.objsBut t [kInst m 0 3, kInst m 6 3] ∧ t = { s with mem := t.mem, poison := t.poison, objs := t.objs, free := t.free })))
  ∧ (ok 6 → let buf := s.objN (kInst m 6 1)
    let size := s.objN (kInst m 6 2)
    let l := s.rdN (buf + 8) 8
    let signed := Config.ecdsaVerify (s.dom (kInst m 6 4)) (s.rd buf (l + 4)) (s.rd (buf + l + 8) 132)
    (st ≠ 0 → ∃ t, exec (.instRestoreImage src m arg c) s = .next t ∧ fails 6 0x000B t)
    ∧ (st = 0 → s.readMig buf size = none → ∃ t, exec (.instRestoreImage src m arg c) s = .next t ∧ fails 6 0x000D t)
    ∧ (st = 0 → ∀ secs, s.readMig buf size = some secs → signed = false → ∃ t, exec (.instRestoreImage src m arg c) s = .next t ∧ fails 6 0x0013 t)
    ∧ (st = 0 → s.readMig buf size = some [] → signed = true → s.rdN (buf + 0x10) 4 = 0xd060 → s.rdN (buf + 0x15) 1 = s.objN (okey 0x1000 3) / 256 → s.createError m c = 0 →
      ∃ t, exec (.instRestoreImage src m arg c) s = .next t ∧ t.objN (kInst m 0 3) = 6 * 2 ^ 56 ∧ t.instState m = 3))

/-! ### Stacked memory and the regulator (chapter 11) -/

/-- R23, R267, R268, R277-R280, R368: a request to the stacks is answered with its bytes or takes its data when it is served; a refused one, one beyond stacked memory, and one that reads poison are answered with an error; one in budget takes its tokens, one in its pool takes the pool's, and one in neither counts as overdraft. While the stacks are in self-refresh nothing is served. -/
def Obligations.StackRequests : Prop := ∀ (s : State) (r : StackReq),
  let error (t : State) : Prop := t = { s with out := .stack r.master r.addr none :: s.out }
  let inside := unitOfRange r.addr r.len = some .stack ∨ ∃ k, unitOfRange r.addr r.len = some (.alias_ k)
  let st := stackOf s.ileave (canonAddr s.ileave r.addr)
  let bytes : Rat := (roundUp r.len 32 : Nat)
  let b := TMap.get (fun _ => 0) s.bucket (32 * st + r.master)
  let p := TMap.get (fun _ => 0) s.pool (8 * st + r.cls)
  let served := inside ∧ s.power.refresh = false ∧ s.domOff 6 = false ∧ s.stackRefuses r = false
  (¬ inside → ∃ t, exec (.stackRequest r) s = .next t ∧ error t)
  ∧ (inside → s.power.refresh = true → r.late = false → exec (.stackRequest r) s = .next s)
  ∧ (inside → s.power.refresh = true → r.late = true → ∃ t, exec (.stackRequest r) s = .next t ∧ error t)
  ∧ (inside → s.power.refresh = false → (s.domOff 6 = true ∨ s.stackRefuses r = true) → ∃ t, exec (.stackRequest r) s = .next t ∧ error t)
  ∧ (served → r.write = true → ∃ t, exec (.stackRequest r) s = .next t ∧ t.mem = (s.wr r.addr (slice r.data 0 r.len)).mem ∧ t.out = .stack r.master r.addr (some []) :: s.out
    ∧ t.objN (kMaster r.master 5) = (s.objN (kMaster r.master 5) + r.len) % 2 ^ 64
    ∧ t = { s with mem := t.mem, poison := t.poison, objs := t.objs, out := t.out, bucket := t.bucket, pool := t.pool })
  ∧ (served → r.write = false → r.err = .clean → ∃ t, exec (.stackRequest r) s = .next t
    ∧ t.out = .stack r.master r.addr (if (s.poisonedAt r.addr r.len).isSome then none else some (s.rd r.addr r.len)) :: s.out
    ∧ t.objN (kMaster r.master 5) = (s.objN (kMaster r.master 5) + r.len) % 2 ^ 64
    ∧ (bytes ≤ b → TMap.get (fun _ => 0) t.bucket (32 * st + r.master) = b - bytes ∧ t.pool = s.pool)
    ∧ (b < bytes → bytes ≤ p → TMap.get (fun _ => 0) t.pool (8 * st + r.cls) = p - bytes ∧ t.bucket = s.bucket)
    ∧ (b < bytes → p < bytes → t.pool = s.pool ∧ t.bucket = s.bucket ∧ t.objN (kMaster r.master 7) = (s.objN (kMaster r.master 7) + r.len) % 2 ^ 64)
    ∧ t = { s with objs := t.objs, out := t.out, bucket := t.bucket, pool := t.pool })

/-- R277, R278, R281-R283: a refill adds each bucket's and each pool's rate and holds no more than its depth; a write that raises a guarantee, and one of safety_classes, is admitted only when both conditions hold on every stack, and a guarantee that is lowered always. R267-R272, Table 11-2: the scrub corrects and counts a correctable unit and poisons an uncorrectable one, which then retires its row; a temperature reading above a boundary enters its row at once and one 3 °C below leaves it, with the row's limit and refresh mode. -/
def Obligations.RegulatorAndStacks : Prop :=
  (∀ (s : State),
  (∃ t, exec .bucketRefill s = .next t ∧ t = { s with bucket := t.bucket, pool := t.pool }
    ∧ (∀ k < 128, let rate := s.effShare (k % 32) (k / 32)
        TMap.get (fun _ => 0) t.bucket k = max 0 (min (rate * mkRat (s.objN (okey 0x5000 7)) 1000) (TMap.get (fun _ => 0) s.bucket k + rate)))
    ∧ (∀ k < 32, let rate := s.poolRate (k % 8) (k / 8)
        TMap.get (fun _ => 0) t.pool k = max 0 (min (rate * mkRat (s.objN (okey 0x5000 7)) 1000) (TMap.get (fun _ => 0) s.pool k + rate))))
  ∧ (∀ (i : Fin 32) src r v, s.accepts src r (0x5100 + i) 1 v → let u := s.setObj (kMaster i 1) v
    (s.guarantee i < v.toNat → u.admits = false → exec (.guaranteeWrite src i v) s = .next (s.latch r.ctx 0x000A (0x5100 + i) 1))
    ∧ ((v.toNat ≤ s.guarantee i ∨ u.admits = true) → ∃ t, exec (.guaranteeWrite src i v) s = .next t ∧ t.obj (kMaster i 1) = v
      ∧ (∀ k, k ≠ kMaster i 1 → (∀ st < 4, k ≠ kStack st 3) → k ≠ okey 0x5000 9 → t.obj k = s.obj k)
      ∧ (∀ st < 4, t.obj (kStack st 3) = if u.shrink st = s.shrink st then s.obj (kStack st 3) else BitVec.ofNat 64 (f32ofRat (u.shrink st)).toNat) ∧ t = { s with objs := t.objs }))
  ∧ (∀ src r v, s.accepts src r 0x5000 4 v → let u := s.setObj (okey 0x5000 4) v
    (u.safetyFits = false → exec (.safetyClassesWrite src v) s = .next (s.latch r.ctx 0x000A 0x5000 4))
    ∧ (u.safetyFits = true → ∃ t, exec (.safetyClassesWrite src v) s = .next t ∧ t.obj (okey 0x5000 4) = v
      ∧ (∀ k, k ≠ okey 0x5000 4 → (∀ st < 4, k ≠ kStack st 3) → k ≠ okey 0x5000 9 → t.obj k = s.obj k) ∧ t = { s with objs := t.objs })))
  ∧ (∀ (s : State) (st : Fin 4),
  (∀ off e, 0x600000000 ≤ off → exec (.patrolScrub st off e) s = .next s)
  ∧ (∀ off, 32 ≤ off → off < 0x600000000 → exec (.patrolScrub st off .clean) s = .next s)
  ∧ (∀ off, 32 ≤ off → off < 0x600000000 → let unit := off / 32 * 32
    let row := Config.stackRow st unit
    let n := (((st.val, unit) :: s.eccUnits).filter fun u : Nat × Nat => decide (u.1 = st.val) && decide (Config.stackRow st u.2 = row)).length
    ∃ t, exec (.patrolScrub st off .corrected) s = .next t ∧ t.objN (kStack st 4) = (s.objN (kStack st 4) + 1) % 2 ^ 64 ∧ t.mem = s.mem ∧ t.poison = s.poison
      ∧ (s.eccUnits.contains (st.val, unit) = true → s.onlyObjs t [kStack st 4])
      ∧ (s.eccUnits.contains (st.val, unit) = false → n < s.objN (kStack st 0xb) → t.eccUnits = (st.val, unit) :: s.eccUnits ∧ t.retired = s.retired ∧ s.objsBut t [kStack st 4]))
  ∧ (∀ off, 32 ≤ off → off < 0x600000000 → let a := s.stackAddr st (off / 32 * 32)
    (s.poison.contains a = true → exec (.patrolScrub st off .uncorrectable) s = .next s)
    ∧ (s.poison.contains a = false → ∃ t, exec (.patrolScrub st off .uncorrectable) s = .next t ∧ t.poison = a :: s.poison ∧ t.objN (kStack st 6) = a % 2 ^ 64
      ∧ t.objN (kStack st 5) = min (s.objN (kStack st 5) + 1) (2 ^ 32 - 1) ∧ t.oBit (kStack st 9) 0 = true ∧ t.mem = s.mem))
  ∧ (∀ temp v, f32 temp = v → v.isFin = true → let row := s.tempRow st
    let up := if 105 < v.toRat then 3 else if 95 < v.toRat then 2 else if 85 < v.toRat then 1 else 0
    let next := if row ≤ up then up else if row = 3 ∧ 102 < v.toRat then 3 else if 2 ≤ row ∧ 92 < v.toRat then 2 else if 1 ≤ row ∧ 82 < v.toRat then 1 else 0
    (next = row → ∃ t, exec (.stackTempRead st temp) s = .next t ∧ t.objN (kStack st 1) = temp.toNat ∧ s.objsBut t [kStack st 1] ∧ t = { s with objs := t.objs, power := t.power })
    ∧ (next ≠ row → ∃ t, exec (.stackTempRead st temp) s = .next t ∧ t.objN (kStack st 1) = temp.toNat
      ∧ t.objN (kStack st 2) = (if next = 0 then 960000 else if next = 1 then 900000 else if next = 2 then 800000 else 600000)
      ∧ t.objN (kStack st 0xa) = (if next = 0 then 0 else 1) ∧ t.oBit (kStack st 9) 2 = true ∧ t = { s with objs := t.objs, power := t.power })))

/-! ### Camera and display (chapter 12) -/

/-- R62, R287-R297, Tables 12-2 to 12-5: enabling a stream carves its ring and starts at frame 0; a frame start numbers and stamps its frame and takes a buffer, or counts an overflow; a line start and a line's packet move the position; a packet's bytes land in its line of the buffer; a packet that no stream takes is counted; a frame end injects the blanking pattern or completes the frame; the verdict completes it, and a CRC that differs is a path fault. -/
def Obligations.CameraFrames : Prop := ∀ (s : State) (st : Fin 32) (p : Fin 16),
  let x := s.stream st
  let cfg := s.streamCfg st
  let mine (pk : CsiPacket) : List Nat := (List.range 32).filter fun st =>
    let c := s.streamCfg st
    scEnable c && decide (scPort c = p) && decide (scVc c = pk.vc)
      && (decide (scType c = pk.dt) || (decide (scEmbedded c ≠ 0) && decide (scEmbedded c = pk.dt)) || (scCameraTest c && decide (scTest c = pk.dt)))
  let completed (f : FrameSt) (t : State) : Prop :=
    (∀ b, f.buf = some b → (t.stream st).latest = some (b, f.frame, nbit (s.frameStatus st f) 1) ∧ t.objN (kStream st 0xb) = b % 2 ^ 64 ∧ t.objN (kStream st 0xc) = (s.objN (kStream st 0xc) + 1) % 2 ^ 32
      ∧ t.objN (kStream st 0xd) = (if nbit (s.frameStatus st f) 1 then s.objN (kStream st 0xd) else (s.objN (kStream st 0xd) + 1) % 2 ^ 32))
    ∧ (f.pathFault = true → t.objN (kStream st 0xf) = (s.objN (kStream st 0xf) + 1) % 2 ^ 32)
    ∧ (f.pathFault = false → t.obj (kStream st 0xf) = s.obj (kStream st 0xf))
  (∀ src r v ring, s.accepts src r (0x5420 + st) 1 v →
    let same (o : Nat) : Bool := o != st && scEnable (s.streamCfg o) && decide (scPort (s.streamCfg o) = scPort v) && decide (scVc (s.streamCfg o) = scVc v) && decide (scType (s.streamCfg o) = scType v)
    let world := s.secureIndex (0x5420 + st) = decide (s.objN (kInst (scOwner v) 0 4) = 1)
    let refused (e : Nat) : Prop := exec (.streamEnable src st v ring) s = .next (s.latch r.ctx e (0x5420 + st) 1)
    (streamCfgOk v = false → refused 0x0007)
    ∧ (streamCfgOk v = true → ¬ world → refused 0x0004)
    ∧ (streamCfgOk v = true → world → scEnable cfg = true → setBit v 63 false ≠ setBit cfg 63 false → refused 0x000B)
    ∧ (streamCfgOk v = true → world → scEnable cfg = true → v = cfg → exec (.streamEnable src st v ring) s = .next s)
    ∧ (streamCfgOk v = true → world → scEnable cfg = true → scEnable v = false → setBit v 63 false = setBit cfg 63 false →
      ∃ t, exec (.streamEnable src st v ring) s = .next t ∧ t.obj (kStream st 1) = v ∧ t.objN (kStream st 0xb) = 0xff ∧ (t.stream st).cur = none ∧ (t.stream st).latest = none ∧ s.sameBytes t)
    ∧ (streamCfgOk v = true → world → scEnable cfg = false → scEnable v = false → exec (.streamEnable src st v ring) s = .next (s.setObj (kStream st 1) v))
    ∧ (streamCfgOk v = true → world → scEnable cfg = false → scEnable v = true → (∃ o < 32, same o = true) → refused 0x0009)
    ∧ (streamCfgOk v = true → world → scEnable cfg = false → scEnable v = true → (∀ o < 32, same o = false) →
      (s.carves (scOwner v) ring ((scDepthM1 v + 1) * s.bufferSize st) = false → refused 0x000A)
      ∧ (s.carves (scOwner v) ring ((scDepthM1 v + 1) * s.bufferSize st) = true → ∃ t, exec (.streamEnable src st v ring) s = .next t ∧ t.obj (kStream st 1) = v ∧ t.objN (kStream st 3) = ring % 2 ^ 64
        ∧ t.objN (kStream st 4) = s.bufferSize st % 2 ^ 64 ∧ t.streamFrame st = 0 ∧ t.objN (kStream st 0xb) = 0xff ∧ (t.stream st).ringDepth = scDepthM1 v + 1 ∧ (t.stream st).cur = none ∧ s.sameBytes t)))
  ∧ (∀ signal, (s.portOn p = false → exec (.csi2PortStateChange p signal) s = .next s)
    ∧ (s.portOn p = true → ∃ t, exec (.csi2PortStateChange p signal) s = .next t ∧ s.onlyObjs t [kPort5 p 3] ∧ t.objN (kPort5 p 3) = if signal then 2 else 1))
  ∧ (∀ c, (s.streamOn st = false → exec (.frameStart st c) s = .next s)
    ∧ (s.streamOn st = true → ∃ t f, exec (.frameStart st c) s = .next t ∧ (t.stream st).cur = some f ∧ f.fsStamp = s.now ∧ f.csiFrame = c ∧ f.pixelLines = 0 ∧ f.embLines = 0 ∧ (t.stream st).lineStarts = 0)
    ∧ (s.streamOn st = true → x.cur = none → ∃ t f, exec (.frameStart st c) s = .next t ∧ (t.stream st).cur = some f ∧ f.frame.toNat = (s.streamFrame st + 1) % 2 ^ 32 ∧ f.buf = s.nextBuf st ∧ f.fsTime = s.stampTime
      ∧ t.obj (kStream st 8) = s.now ∧ t.objN (kStreamPos st) = (s.streamFrame st + 1) % 2 ^ 32 * 2 ^ 32 ∧ (t.stream st).frames = x.frames + 1
      ∧ t.objN (kStream st 9) = (if x.frames = 0 then s.objN (kStream st 9) else (s.nowN - s.objN (kStream st 8)) % 2 ^ 32)
      ∧ t.objN (kStream st 0xe) = (if s.nextBuf st = none then (s.objN (kStream st 0xe) + 1) % 2 ^ 32 else s.objN (kStream st 0xe)) ∧ s.sameBytes t))
  ∧ ((s.streamOn st = false ∨ x.cur = none ∨ scLinePackets cfg = false) → exec (.lineStart st) s = .next s)
  ∧ (s.streamOn st = true → x.cur.isSome = true → scLinePackets cfg = true → ∃ t, exec (.lineStart st) s = .next t ∧ (t.stream st).lineStarts = x.lineStarts + 1 ∧ (t.stream st).lastLine = s.now ∧ (t.stream st).cur = x.cur
    ∧ t.obj (kStreamPos st) = setFld (s.obj (kStreamPos st)) 31 16 x.lineStarts ∧ s.sameBytes t)
  ∧ (∀ pk, (s.portOn p = false → exec (.longPacket p pk) s = .next s)
    ∧ (s.portOn p = true → ∃ t, exec (.longPacket p pk) s = .next t ∧ t.objN (kPort5 p 4) = (if pk.hdrCorrected then (s.objN (kPort5 p 4) + 1) % 2 ^ 32 else s.objN (kPort5 p 4))
      ∧ t.objN (kPort5 p 5) = (if pk.hdrBad then (s.objN (kPort5 p 5) + 1) % 2 ^ 32 else s.objN (kPort5 p 5)) ∧ t.objN (kPort5 p 6) = (if pk.crcBad then (s.objN (kPort5 p 6) + 1) % 2 ^ 32 else s.objN (kPort5 p 6))
      ∧ (mine pk = [] → t.objN (kPort5 p 7) = (s.objN (kPort5 p 7) + 1) % 2 ^ 32 ∧ s.onlyObjs t [kPort5 p 4, kPort5 p 5, kPort5 p 6, kPort5 p 7]))
    ∧ (∀ f b, s.portOn p = true → mine pk = [st.val] → scType cfg = pk.dt → x.cur = some f → f.buf = some b →
      let a := s.bufAddr st b + 64 + (s.streamEmb st + f.pixelLines) * s.streamStride st
      let bs := pk.bytes.take (s.streamStride st)
      (f.pixelLines < s.streamHeight st → s.stackWithin a bs.length (s.inst (scOwner cfg)).stackBase (s.objN (kInst (scOwner cfg) 1 4)) = true → a + bs.length ≤ stackedSize →
        ∃ t g, exec (.longPacket p pk) s = .next t ∧ t.rd a bs.length = bs ∧ (∀ y, (y < a ∨ a + bs.length ≤ y) → y < stackedSize → t.byte y = s.byte y) ∧ (t.stream st).cur = some g
          ∧ g.pixelLines = f.pixelLines + 1 ∧ g.pktErr = (f.pktErr || pk.hdrBad || pk.crcBad) ∧ g.long = (f.long || decide (s.streamStride st < pk.bytes.length)) ∧ g.buf = f.buf ∧ g.frame = f.frame)
      ∧ (s.streamHeight st ≤ f.pixelLines → ∃ t g, exec (.longPacket p pk) s = .next t ∧ s.sameBytes t ∧ (t.stream st).cur = some g ∧ g.pixelLines = f.pixelLines ∧ g.long = true))
    ∧ (s.portOn p = true → mine pk = [st.val] → scType cfg ≠ pk.dt → x.cur = none → scCameraTest cfg = true → scTest cfg = pk.dt → ∃ t, exec (.longPacket p pk) s = .next t
      ∧ (t.stream st).testSeen = some (decide ((crc32c pk.bytes).toNat = s.objN (kStream st 6)) && x.testSeen.getD true) ∧ s.sameBytes t))
  ∧ ((s.streamOn st = false ∨ x.cur = none) → exec (.frameEnd st) s = .next s)
  ∧ (∀ f, s.streamOn st = true → x.cur = some f → let g : FrameSt := { f with feStamp := s.now }
    (∃ t, exec (.frameEnd st) s = .next t ∧ (t.stream st).cur = none)
    ∧ (x.verdict = none → scBlankTest cfg = true → ∃ t, exec (.frameEnd st) s = .next t ∧ (t.stream st).verdict = some g ∧ t.out = .blank st f.frame.toNat (s.pattern st f.frame) :: s.out ∧ s.sameBytes t)
    ∧ (x.verdict = none → scBlankTest cfg = false → ∃ t, exec (.frameEnd st) s = .next t ∧ completed g t
      ∧ (∀ b, f.buf = some b → (∀ k, (s.cap k).busy = []) → f.pathFault = false → s.bufAddr st b + 64 ≤ stackedSize →
        s.stackWithin (s.bufAddr st b) 64 (s.inst (scOwner cfg)).stackBase (s.objN (kInst (scOwner cfg) 1 4)) = true → t.rd (s.bufAddr st b) 64 = s.frameHeader st g)))
  ∧ (∀ crc, (x.verdict = none → exec (.blankVerdict st crc) s = .next s)
    ∧ ∀ f, x.verdict = some f → ∃ t, exec (.blankVerdict st crc) s = .next t ∧ (t.stream st).verdict = none
      ∧ completed (if crc = some (crc32c (s.pattern st f.frame)) then f else { f with pathFault := true }) t)

/-- R298, R299, R301, R308-R319, R423: ring_tail is taken while it stays in the ring and drops nothing that waits, and Garnet looks at the ring; a pass that cannot be drawn ends with its status, and a pass that ends advances ring_head and is counted; a latch takes the committed objects and shows them; a pipe falls back when the limit of mismatching frames is reached and returns at a latch once told to, out of the safe state and with a frame that matched; a line reaches a sink that is ready. -/
def Obligations.PassesAndPipes : Prop := ∀ (s : State) (p : Fin 4),
  let x := s.pipe p
  let n := max s.ringEntries 1
  (∀ src r v, s.accepts src r 0x5800 6 v →
    let bad := n ≤ v.toNat ∨ (v.toNat + n - s.ringHead) % n < (s.ringTail + n - s.ringHead) % n
    (bad → exec (.ringTailWrite src v) s = .next (s.latch r.ctx 0x0007 0x5800 6))
    ∧ (¬ bad → ∃ t, exec (.ringTailWrite src v) s = .next t ∧ t.obj (kGarnet 6) = v ∧ t.ringHead = s.ringHead
      ∧ (s.garnet.started = true → s.objsBut t [kGarnet 6] ∧ s.sameBytes t)
      ∧ (s.garnet.started = false → s.oBit (kGarnet 1) 0 = false → t.objN (kGarnet 7) = 4 ∧ t.garnet.started = false)
      ∧ (s.garnet.started = false → s.oBit (kGarnet 1) 0 = true → s.domOff 8 = false → s.objN (okey 0x7c00 1) < 2 → s.ringHead ≠ v.toNat → s.passFault = 0 → s.shadeCores.all s.shadesOn = true →
        t.objN (kGarnet 7) = 1 ∧ t.garnet.started = true)
      ∧ (s.ringHead = s.ringTail → t.garnet.headSince = s.now)))
  ∧ (∀ pr, let idle := s.ringHead = s.ringTail ∨ (s.oBit (kGarnet 1) 0 = false ∧ s.garnet.started = false)
    (idle → exec (.passComplete pr) s = .next s)
    ∧ (¬ idle → s.passFault = 0 → s.garnet.started = false → exec (.passComplete pr) s = .next s)
    ∧ (¬ idle → s.passFault ≠ 0 → exec (.passComplete pr) s = .next (s.endPass s.passFault))
    ∧ (¬ idle → s.passFault = 0 → s.garnet.started = true → pdBinSize s.passDesc < pr.binUsed →
      exec (.passComplete pr) s = .next ((s.setN (kGarnet 9) (max (s.objN (kGarnet 9)) (pdBinSize s.passDesc))).endPass 0x000A))
    ∧ (¬ idle → (s.passFault ≠ 0 ∨ s.garnet.started = true) → ∃ t, exec (.passComplete pr) s = .next t ∧ t.ringHead = (s.ringHead + 1) % n ∧ t.objN (kGarnet 0xa) = (s.objN (kGarnet 0xa) + 1) % 2 ^ 32
      ∧ (s.passFault = 0 → pr.binUsed ≤ pdBinSize s.passDesc → pr.status = 0#16 → t.objN (kGarnet 0xb) = s.objN (kGarnet 0xb) ∧ t.oBit (kGarnet 8) 0 = true
        ∧ (nbit (pdFlags s.passDesc) 3 = true → let at_ := pdPresentTo s.passDesc
          t.garnet.presents = s.garnet.presents ++ [(nfld at_ 5 4, at_ % 4, pdColour s.passDesc, pdPitch s.passDesc, pdFormat s.passDesc)]))))
  ∧ ((s.pipeOn p = false → exec (.pipeLatch p) s = .next s)
    ∧ (s.pipeOn p = true → let u := s.frameVerdict p
      let back := s.pipeState p = 2 ∧ x.resume = true ∧ s.safe = false ∧ (u.pipe p).matched = true
      ∃ t, exec (.pipeLatch p) s = .next t ∧ (t.pipe p).scene = s.dom (okey (0x5880 + p) 1) ∧ (t.pipe p).atlas = s.dom (okey 0x5884 1)
        ∧ (t.pipe p).layers = [0, 1, 2].flatMap (fun l => (s.latchLayer p l).1) ∧ (back → t.pipeState p = 1) ∧ (¬ back → t.pipeState p = s.pipeState p)
        ∧ (t.pipe p).run = (if x.bad then x.run + 1 else 0) ∧ (t.pipe p).bad = false ∧ (t.pipe p).checked = 0 ∧ (∀ y ∈ t.garnet.presents, y.1 ≠ p)
        ∧ t.objN (kPipe p 0x15) = (s.objN (kPipe p 0x15) + 1) % 2 ^ 32 ∧ t.obj (kPipe p 0x1a) = s.now
        ∧ t.objN (kPipe p 0x16) = (if [0, 1, 2].any (fun l => (s.latchLayer p l).2) then (s.objN (kPipe p 0x16) + 1) % 2 ^ 32 else s.objN (kPipe p 0x16))
        ∧ s.objsBut t [kPipe p 0x13, kPipe p 0x14, kPipe p 0x15, kPipe p 0x16, kPipe p 0x1a] ∧ s.sameBytes t))
  ∧ (∀ (k : Fin 16) px, let on := s.pipeOn p && s.checksOn p && (s.regions p).contains k.val
    let crc := (crc32c (px.flatMap fun q : Word16 × Word16 × Word16 => leBytes 2 q.1.toNat ++ leBytes 2 q.2.1.toNat ++ leBytes 2 q.2.2.toNat)).toNat
    let want := if nbit x.states k then fld (s.obj (kRegion p k 1)) 63 32 else fld (s.obj (kRegion p k 1)) 31 0
    (on = false → exec (.regionCheck p k px) s = .next s)
    ∧ (on = true → crc = want → ∃ t, exec (.regionCheck p k px) s = .next t ∧ t.pipe p = { x with checked := x.checked + 1 } ∧ t = { s with pipes := t.pipes })
    ∧ (on = true → crc ≠ want → ∃ t, exec (.regionCheck p k px) s = .next t ∧ t.pipe p = { x with checked := x.checked + 1, bad := true } ∧ t.objN (kPipe p 0x18) = (s.objN (kPipe p 0x18) + 1) % 2 ^ 32
      ∧ t.pipeState p = (if s.pipeState p = 1 ∧ fld (s.obj (kPipe p 0x11)) 3 2 ≤ x.run then 2 else s.pipeState p)
      ∧ s.objsBut t [kPipe p 0x13, kPipe p 0x14, kPipe p 0x18] ∧ t = { s with pipes := t.pipes, objs := t.objs }))
  ∧ (∀ src r v, s.accepts src r (0x5840 + p) 0x12 v → ∃ t, exec (.resume src p v) s = .next t ∧ (t.pipe p).resume = (x.resume || decide (s.pipeState p = 2)) ∧ t = { s with pipes := t.pipes })
  ∧ (∃ t, exec (.hotPlugDetect p) s = .next t ∧ t.pipe p = { x with sink := true } ∧ (∀ q, q ≠ (p : Nat) → t.pipe q = s.pipe q) ∧ t = { s with pipes := t.pipes })
  ∧ (∀ ln, let width := fld (s.obj (kPipe p 2)) 63 48
    let under := if s.pipeState p = 1 then [0, 1, 2].filter fun l => s.layerShort p l ln.y (ln.missing.getD l none) else []
    ((s.pipeOn p = false ∨ fld (s.obj (kPipe p 3)) 63 48 ≤ ln.y) → exec (.lineScanOut p ln) s = .next s)
    ∧ (s.pipeOn p = true → ln.y < fld (s.obj (kPipe p 3)) 63 48 → ∃ t, exec (.lineScanOut p ln) s = .next t
      ∧ t.out = (if x.sink then [Out.scan p ln.y ((List.range width).map fun i => s.scanPixel p ln i)] else []) ++ s.out
      ∧ t.objN (kPipe p 0x17) = (if under = [] then s.objN (kPipe p 0x17) else (s.objN (kPipe p 0x17) + under.length) % 2 ^ 32))
    ∧ (s.pipeOn p = true → 0 < ln.y → ln.y < fld (s.obj (kPipe p 3)) 63 48 → under = [] → ln.edges ≤ 512 → ln.items ≤ 64 → ∃ t, exec (.lineScanOut p ln) s = .next t ∧ t = { s with out := t.out }))

/-! ### Networks (chapter 13) -/

/-- R322, R323, R325-R334, Tables 13-1 to 13-5: a frame that a port's checks drop is counted by its reason; one that passes is captured by the handles that name it, teaches its source, and queues at the ports that the tables give it; the head of a class that may leave its port leaves it, or is dropped when it is late; descriptors are fetched to the tail; a link that goes down discards its queues and closes its sessions. -/
def Obligations.EthernetFrames : Prop := ∀ (s : State) (q : Fin 12) (c : Fin 8),
  (∀ f : EthFrame,
    let exempt := decide (f.etype = 0x888e#16) || decide (f.etype = 0x88f7#16)
    let lock := s.oBit (kNet q 1) 4 && decide ((q : Nat) < 8)
    let secFail := s.oBit (kNet q 1) 2 && decide ((q : Nat) < 8) && !exempt && !(f.secured && f.secOk)
    let lockFail := lock && !macListed (s.dom (kNet q 0xa)) f.src
    let whole := 64 ≤ f.len ∧ f.len ≤ 9022 ∧ f.fcsOk = true
    let v := match f.tci with
      | some w => w.toNat % 4096
      | none => s.objN (kNet q 3)
    let k := match f.tci with
      | some w => w.toNat / 2 ^ 13
      | none => 0
    let p := ethPdu 1 q v f
    let u := if lock then s else s.learn v f.src q
    let counts (t : State) (sub : Nat) : Prop := t.objN (kNet q sub) = (s.objN (kNet q sub) + 1) % 2 ^ 32
    (s.portUp q = false → exec (.frameReceive q f) s = .next s)
    ∧ (s.portUp q = true → ¬ whole → ∃ t, exec (.frameReceive q f) s = .next t ∧ counts t 0xf ∧ s.onlyObjs t [kNet q 0xf])
    ∧ (s.portUp q = true → whole → secFail = true → ∃ t, exec (.frameReceive q f) s = .next t ∧ counts t 0xd ∧ counts t 0x10 ∧ s.onlyObjs t [kNet q 0xd, kNet q 0x10])
    ∧ (s.portUp q = true → whole → secFail = false → lockFail = true → ∃ t, exec (.frameReceive q f) s = .next t ∧ counts t 0xd ∧ counts t 0x10 ∧ t.oBit (kNet q 0xc) 5 = true
      ∧ s.onlyObjs t [kNet q 0xd, kNet q 0x10, kNet q 0xc])
    ∧ (s.portUp q = true → whole → secFail = false → lockFail = false → f.qciPass = false → ∃ t, exec (.frameReceive q f) s = .next t ∧ counts t 0xd ∧ counts t 0x11 ∧ t.oBit (kNet q 0xc) 4 = true
      ∧ s.onlyObjs t [kNet q 0xd, kNet q 0x11, kNet q 0xc])
    ∧ (s.portUp q = true → whole → secFail = false → lockFail = false → f.qciPass = true → ∃ t, exec (.frameReceive q f) s = .next t ∧ counts t 0xd ∧ t.fdb = u.fdb
      ∧ t.capWin = (if f.secured = false ∨ f.secOk = true then (s.capturePdu p).capWin else s.capWin)
      ∧ ((∀ i < 4096, s.routeHits i p = false) → t.objN (kRoute 3) = (s.objN (kRoute 3) + 1) % 2 ^ 32
        ∧ ∀ o < 8, t.queueOf o k = s.queueOf o k ++ if nbit (u.forwardMask v f.dst q) o && s.portUp o then
            [⟨s.egressBytes o v k f.dst f.src f.etype.toNat f.payload, (q : Nat), v, s.now, none, false, false, 0, none, none⟩] else [])))
  ∧ (let first := s.portUp q && !((List.range 8).any fun c' => decide ((c : Nat) < c') && (s.eligibleHead q c').isSome)
    ((first = false ∨ s.eligibleHead q c = none) → exec (.frameTransmit q c) s = .next s)
    ∧ ∀ f, first = true → s.eligibleHead q c = some f →
      let late := decide (s.queueMode q c ≠ 0) && (f.launch.any fun l => decide ((s.objN (kNet q 6) : Int) < s.netTime - l.toNat))
      let bytes := match f.template with
        | none => f.bytes
        | some i => s.templateBytes i f.bytes
      ∃ t, exec (.frameTransmit q c) s = .next t ∧ t.queueOf q c = (s.queueOf q c).drop 1 ∧ t.objN (kNet q 0x12) = (if late then (s.objN (kNet q 0x12) + 1) % 2 ^ 32 else s.objN (kNet q 0x12))
        ∧ (late = true → s.oBit (kNet q 5) c = true → t.out = s.out ∧ t.objN (kNet q 0x13) = (s.objN (kNet q 0x13) + 1) % 2 ^ 32 ∧ t.objN (kNet q 0xe) = s.objN (kNet q 0xe))
        ∧ ((late = false ∨ s.oBit (kNet q 5) c = false) → (q : Nat) ≠ 8 → t.objN (kNet q 0xe) = (s.objN (kNet q 0xe) + 1) % 2 ^ 32
          ∧ t.out = (if (q : Nat) = 10 then Out.island bytes else Out.eth q c bytes late) :: s.out))
  ∧ (∀ src r v (g : Fin 2), s.accepts src r (0x6030 + 8 * g + c) 3 v → let n := s.ringSize g c
    ∃ t, exec (.txTailWrite src g c v) s = .next t ∧ t.objN (kRing g c 3) = v.toNat % n ∧ (s.fetchPoint g c < n → t.fetchPoint g c = v.toNat % n)
      ∧ (s.fetchPoint g c = v.toNat % n → s.onlyObjs t [kRing g c 3]))
  ∧ (∀ src r v, s.accepts src r (0x6030 + c) 7 v → ∃ t, exec (.rxTailWrite src c v) s = .next t ∧ t.objN (kRing 0 c 7) = v.toNat % max (s.objN (kRing 0 c 6)) 1 ∧ s.onlyObjs t [kRing 0 c 7])
  ∧ (∀ src r v, s.accepts src r (0x6040 + q) 0x42 v → let d (x : Nat) : Nat := (x + 2 ^ 32 - s.objN (kTs q 0x42)) % 2 ^ 32
    (d (s.objN (kTs q 0x41)) < d v.toNat → exec (.tsReadWrite src q v) s = .next (s.latch r.ctx 0x0007 (0x6040 + q) 0x42))
    ∧ (d v.toNat ≤ d (s.objN (kTs q 0x41)) → ∃ t, exec (.tsReadWrite src q v) s = .next t ∧ t.obj (kTs q 0x42) = v ∧ s.onlyObjs t [kTs q 0x42]))
  ∧ (∀ up : Bool, let same := 8 ≤ (q : Nat) ∨ s.objN (kNet q 2) = up.toNat ∨ (up = true ∧ s.padsUp 9 = false)
    (same → exec (.linkChange q up) s = .next s)
    ∧ (¬ same → ∃ t, exec (.linkChange q up) s = .next t ∧ t.objN (kNet q 2) = up.toNat ∧ t.oBit (kNet q 0xc) 0 = true
      ∧ (up = true → s.onlyObjs t [kNet q 2, kNet q 0xc]) ∧ (up = false → (∀ k < 8, t.queueOf q k = []) ∧ ∀ x ∈ t.sessions, x.link ≠ .eth q)))

/-- R333, R336-R342, Tables 13-5 to 13-7: a frame of a 10BASE-T1S segment, and a CAN frame that a filter takes, feed the capture handles and the route table and nothing else; the head frame of a segment leaves or collides, and is dropped at the 16th attempt; PLCA falls to searching without beacons and returns with them; the first CAN frame by priority leaves, the error counters move the controller's state, and a controller leaves bus-off after its delay or by a restart. -/
def Obligations.BusFrames : Prop := ∀ (s : State) (i : Fin 2) (c : Fin 8),
  let follower := s.t1sOn i = true ∧ s.t1sNode i ≠ 0 ∧ s.t1sNode i ≠ 255
  let recovered (t : State) : Prop := t.objN (kCan c 6) = 0 ∧ t.objN (kCan c 7) = 0 ∧ t.objN (kCan c 8) = 0 ∧ s.onlyObjs t [kCan c 6, kCan c 7, kCan c 8, kCan c 0xa]
  (∀ f : EthFrame,
    let takes := s.t1sOn i = true ∧ f.fcsOk = true ∧ 64 ≤ f.len ∧ f.len ≤ 9022 ∧ (s.oBit (kT1s i 1) 1 = false ∨ macListed (s.dom (kT1s i 8)) f.src = true)
    let p := ethPdu 3 i ((f.tci.map fun t => t.toNat % 4096).getD 0) f
    (¬ takes → exec (.t1sFrameReceive i f) s = .next s)
    ∧ (takes → ∃ t, exec (.t1sFrameReceive i f) s = .next t ∧ t.capWin = (if f.secured = false ∨ f.secOk = true then (s.capturePdu p).capWin else s.capWin)
      ∧ ((∀ k < 4096, s.routeHits k p = false) → t.objN (kRoute 3) = (s.objN (kRoute 3) + 1) % 2 ^ 32 ∧ s.objsBut t [kRoute 3] ∧ t = { s with objs := t.objs, capWin := t.capWin })
      ∧ (∀ k, (List.range 4096).filter (s.routeHits · p) = [k] → leAt (s.routeRec k) 5 1 ∈ [1, 3, 6] → t.objN (kRoute 4) = (s.objN (kRoute 4) + 1) % 2 ^ 32 ∧ t.oBit (kRoute 6) 0 = true
        ∧ s.objsBut t [kRoute 4, kRoute 6] ∧ t = { s with objs := t.objs, capWin := t.capWin })))
  ∧ ((¬ follower ∨ s.plca i ≠ 2) → exec (.beaconLoss i) s = .next s)
  ∧ (follower → s.plca i = 2 → ∃ t, exec (.beaconLoss i) s = .next t ∧ t.plca i = 1 ∧ t.objN (kT1s i 6) = (s.objN (kT1s i 6) + 1) % 2 ^ 32 ∧ t.oBit (kT1s i 9) 0 = true ∧ s.onlyObjs t [kT1s i 4, kT1s i 6, kT1s i 9])
  ∧ ((¬ follower ∨ s.plca i ≠ 1) → exec (.plcaBeaconReturn i) s = .next s)
  ∧ (follower → s.plca i = 1 → ∃ t, exec (.plcaBeaconReturn i) s = .next t ∧ t.plca i = 2 ∧ t.oBit (kT1s i 9) 0 = true ∧ s.onlyObjs t [kT1s i 4, kT1s i 9])
  ∧ (∀ hit, (s.t1sQueue i = [] ∨ s.t1sOn i = false) → exec (.t1sTransmit i hit) s = .next s)
  ∧ (∀ f rest, s.t1sQueue i = f :: rest → s.t1sOn i = true →
    (∃ t, exec (.t1sTransmit i false) s = .next t ∧ t.out = .t1s i f.bytes :: s.out ∧ t.t1sQueue i = rest ∧ t = { s with out := t.out, t1sq := t.t1sq })
    ∧ (∃ t, exec (.t1sTransmit i true) s = .next t ∧ t.out = s.out ∧ t.t1sQueue i = (if f.attempts + 1 = 16 then rest else { f with attempts := f.attempts + 1 } :: rest)
      ∧ t.objN (kT1s i 7) = (if f.attempts + 1 = 16 then (s.objN (kT1s i 7) + 1) % 2 ^ 32 else s.objN (kT1s i 7))
      ∧ t.objN (kT1s i 5) = (if s.plca i = 2 then (s.objN (kT1s i 5) + 1) % 2 ^ 32 else s.objN (kT1s i 5)) ∧ s.objsBut t [kT1s i 5, kT1s i 7, kT1s i 9]))
  ∧ (∀ f : CanFrame,
    let heard := s.canUp c = true ∧ (f.xl = false ∨ s.canMode c ≠ 0) ∧ s.canCxop c f = false
    let hits := (records 16 (s.dom (kCan c 4))).filter fun r => filterHits r f
    let rejects := hits.any fun r => nbit (leAt r 0 1) 3
    let p := canPdu c f
    (¬ heard → exec (.canFrameReceive c f) s = .next s)
    ∧ (heard → rejects = true → ∃ t, exec (.canFrameReceive c f) s = .next t ∧ t.objN (kCan c 0xc) = (s.objN (kCan c 0xc) + 1) % 2 ^ 32 ∧ s.onlyObjs t [kCan c 0xc])
    ∧ (heard → hits = [] → ∃ t, exec (.canFrameReceive c f) s = .next t ∧ t.objN (kCan c 0xb) = (s.objN (kCan c 0xb) + 1) % 2 ^ 32 ∧ s.onlyObjs t [kCan c 0xb])
    ∧ (heard → rejects = false → hits ≠ [] → ∃ t, exec (.canFrameReceive c f) s = .next t ∧ t.capWin = (s.capturePdu p).capWin
      ∧ ((∀ k < 4096, s.routeHits k p = false) → t.objN (kRoute 3) = (s.objN (kRoute 3) + 1) % 2 ^ 32 ∧ s.objsBut t [kRoute 3] ∧ t = { s with objs := t.objs, capWin := t.capWin })))
  ∧ (∀ tec sent,
    let due (x : CanTx) : Bool := match x.launch with
      | none => true
      | some l => decide ((l.toNat : Int) ≤ s.netTime)
    let next := canNext ((s.canQueue c).filter due)
    ((s.canUp c = false ∨ s.oBit (kCan c 1) 1 = true ∨ next = none) → exec (.canTransmit c tec sent) s = .next s)
    ∧ ∀ x, s.canUp c = true → s.oBit (kCan c 1) 1 = false → next = some x → ∃ t, exec (.canTransmit c tec sent) s = .next t
      ∧ t.out = (if sent then [Out.can c (s.canBytes x)] else []) ++ s.out ∧ t.canQueue c = (if sent then (s.canQueue c).erase x else s.canQueue c)
      ∧ t.objN (kCan c 6) = min tec 0xffff ∧ t.objN (kCan c 0xe) = (if 255 < tec then (s.objN (kCan c 0xe) + 1) % 2 ^ 32 else s.objN (kCan c 0xe))
      ∧ (tec ≤ 255 → t.objN (kCan c 8) = if 128 ≤ tec ∨ 128 ≤ s.objN (kCan c 7) then 1 else 0)
      ∧ (255 < tec → t.objN (kCan c 8) = 2 ∨ t.objN (kCan c 8) = 3) ∧ s.objsBut t [kCan c 6, kCan c 8, kCan c 0xa, kCan c 0xe])
  ∧ (let delay := fld (s.obj (kCan c 5)) 15 0
    let due := ((TMap.get (fun _ => []) s.canOff c).headD 0#64).toNat + delay * 1000000
    ((s.objN (kCan c 8) ≠ 2 ∨ delay = 0xffff ∨ s.nowN < due) → exec (.busOffRecovery c) s = .next s)
    ∧ (s.objN (kCan c 8) = 2 → delay ≠ 0xffff → due ≤ s.nowN → ∃ t, exec (.busOffRecovery c) s = .next t ∧ recovered t))
  ∧ (∀ src r v, s.accepts src r (0x6210 + c) 9 v → (s.objN (kCan c 8) < 2 → exec (.restart src c v) s = .next s) ∧ (2 ≤ s.objN (kCan c 8) → ∃ t, exec (.restart src c v) s = .next t ∧ recovered t))

/-! ### Feldspar and Twimi (chapter 14) -/

/-- R346-R357, Tables 14-4 and 14-5: a read that crosses Feldspar is answered with data that is held, with an error, or with RETRY; a write that may be posted completes when it is accepted, another when its read returns, and each drops what was fetched of its bytes; data is held for 4 µs; a posted write that faults is logged and counted; an inbound request reaches the device where a window takes it and its world may go, and is counted and refused elsewhere. -/
def Obligations.FeldsparRequests : Prop := ∀ (s : State) (req a len : Nat),
  let answer (c : Instr) (code : Nat) (d : List Byte) : Prop := exec c s = .next { s with out := .feldspar req code a d :: s.out }
  let read : Instr := .outboundRead req a len
  let refusedRead := crosses a len = false ∨ s.domOff 7 = true ∨ (0x80000000000 ≤ a ∧ a < 0x100000000000 ∧ s.obHit a len = .bad)
  let full := ∀ k < 64, (s.fetch k).isSome = true
  (refusedRead → answer read 2 [])
  ∧ (∀ k f, ¬ refusedRead → s.slotOf req a len = some k → s.fetch k = some f →
    (f.done = false → answer read 0 [])
    ∧ (∀ d, f.done = true → f.data = some d → ∃ t, exec read s = .next t ∧ t.out = .feldspar req 1 a d :: s.out ∧ t.fetch k = none ∧ t = { s with out := t.out, fetches := t.fetches })
    ∧ (f.done = true → f.data = none → ∃ t, exec read s = .next t ∧ t.out = .feldspar req 2 a [] :: s.out ∧ t.fetch k = none ∧ t = { s with out := t.out, fetches := t.fetches }))
  ∧ (¬ refusedRead → s.slotOf req a len = none → (s.yielding = true ∨ full) → answer read 0 [])
  ∧ (¬ refusedRead → s.slotOf req a len = none → s.yielding = false → ¬ full → ∃ t k rest, exec read s = .next t ∧ k < 64 ∧ s.fetch k = none ∧ t.fetch k = some ⟨req, a, len, false, none, s.now⟩
    ∧ t.out = .feldspar req 0 a [] :: rest ∧ (∀ j, j ≠ k → t.fetch j = s.fetch j) ∧ ((∃ w, unitOfRange a len = some (.pcie w)) → t.wbuf = []) ∧ ((¬ ∃ w, unitOfRange a len = some (.pcie w)) → t.wbuf = s.wbuf ∧ rest = s.out))
  ∧ (∀ (k : Fin 64) d, ((s.fetch k = none ∨ ∃ f, s.fetch k = some f ∧ f.done = true) → exec (.fetchComplete k d) s = .next s)
    ∧ ∀ f, s.fetch k = some f → f.done = false → ∃ t g, exec (.fetchComplete k d) s = .next t ∧ t.fetch k = some g ∧ g = { f with done := true, data := g.data, since := s.now } ∧ t = { s with fetches := t.fetches }
      ∧ (d = none → g.data = none) ∧ (∀ x, d = some x → f.addr < 0x80000000000 → g.data = some (s.rd f.addr f.len))
      ∧ (∀ x w cfg far, d = some x → s.obHit f.addr f.len = .window w cfg far → g.data = some (swapIn (wcSwap cfg) (wcGranule cfg) far f.len x)))
  ∧ (∀ k : Fin 64, ((s.fetch k = none ∨ ∃ f, s.fetch k = some f ∧ (f.done = false ∨ s.nowN < f.since.toNat + 4000)) → exec (.fetchHoldExpiry k) s = .next s)
    ∧ ∀ f, s.fetch k = some f → f.done = true → f.since.toNat + 4000 ≤ s.nowN → ∃ t, exec (.fetchHoldExpiry k) s = .next t ∧ t.fetch k = none ∧ t.objN (kPcie 7) = (s.objN (kPcie 7) + 1) % 2 ^ 32
      ∧ s.objsBut t [kPcie 7] ∧ t = { s with objs := t.objs, fetches := t.fetches })
  ∧ (∀ since : Word64, let due := since.toNat + s.objN (kPcie 5) * 1000
    ((s.nowN < due ∨ crosses a len = false) → exec (.readTimeout req a len since) s = .next s) ∧ (due ≤ s.nowN → crosses a len = true → answer (.readTimeout req a len since) 2 []))
  ∧ (∀ data ok, let write : Instr := .outboundWrite req a data ok
    ((s.obHit a data.length = .bad ∨ s.domOff 7 = true) → answer write 2 [])
    ∧ (s.obHit a data.length ≠ .bad → s.domOff 7 = false → s.yielding = true → exec write s = .next s)
    ∧ ∀ w cfg far, s.obHit a data.length = .window w cfg far → s.domOff 7 = false → s.yielding = false →
      let posted := wcPosted cfg && decide (wcType cfg ≠ 1)
      ∃ t rest, exec write s = .next t ∧ (∀ k < 64, ∀ f, s.fetch k = some f → f.addr < a + data.length → a < f.addr + f.len → t.fetch k = none)
        ∧ (posted = true → t.wbuf = (if 65536 < s.wbufBytes + data.length then [] else s.wbuf) ++ [⟨a, data, s.now⟩] ∧ t.out = .feldspar req 3 a [] :: rest)
        ∧ (posted = false → t.wbuf = [] ∧ (s.pcieUp = true → t.out = .feldspar req (if ok then 3 else 2) a [] :: .pcie w 4 far [] 0 :: rest) ∧ (s.pcieUp = false → t.out = .feldspar req 2 a [] :: rest)))
  ∧ ((s.yielding = true → exec .deadlockYield s = .next s)
    ∧ (s.yielding = false → ∃ t, exec .deadlockYield s = .next t ∧ t.yielding = true ∧ t.objN (kPcie 9) = (s.objN (kPcie 9) + 1) % 2 ^ 32 ∧ t.oBit (kPcie 6) 2 = true ∧ s.objsBut t [kPcie 9, kPcie 6]
      ∧ t = { s with objs := t.objs, yielding := true }))
  ∧ (∀ cause : Fin 5, ((s.wbuf = [] ∨ cause = 0) → exec (.postedWriteFault cause) s = .next s)
    ∧ ∀ p rest, s.wbuf = p :: rest → cause ≠ 0 → ∃ t, exec (.postedWriteFault cause) s = .next t ∧ t.wbuf = rest ∧ t.objN (kPcie 0xa) = (s.objN (kPcie 0xa) + 1) % 2 ^ 32 ∧ t.oBit (kPcie 6) 1 = true ∧ t.out = s.out
      ∧ (512 ≤ (s.dom kPweLog).length → t.objN (kPcie 0xb) = (s.objN (kPcie 0xb) + 1) % 2 ^ 32 ∧ t.doms = s.doms)
      ∧ ((s.dom kPweLog).length < 512 → t.dom kPweLog = s.dom kPweLog ++ (leBytes 8 p.addr ++ leBytes 1 ((p.addr - 0x80000000000) / 0x8000000000) ++ leBytes 1 cause ++ leBytes 6 0 ++ leBytes 8 s.nowN
          ++ leBytes 4 p.data.length ++ leBytes 4 0) ∧ t.obj (kPcie 0xb) = s.obj (kPcie 0xb)))
  ∧ (∀ src r v, s.accepts src r 0x6401 2 v → ∃ t, exec (.pweClear src v) s = .next t ∧ t.dom kPweLog = (if v = 1#64 then [] else s.dom kPweLog) ∧ (∀ k, k ≠ kPweLog → t.dom k = s.dom k) ∧ t = { s with doms := t.doms })
  ∧ (∀ wr data (bar : Fin 8), let c : Instr := .inboundRequest wr a len data bar
    let pram := (bar : Nat) = 0 ∧ a + len ≤ 0x4000000
    let ok := match s.ibHit a len bar with
      | none => false
      | some (cfg, b) => match s.msixHit a len bar with
        | some x => x.isSome
        | none => swapOk (wcSwap cfg) b len && s.inboundMay b len (decide (wcType cfg = 1)) wr
    (s.padsUp 7 = false → exec c s = .next s)
    ∧ (s.padsUp 7 = true → s.svcBoot = true → wr = true → exec c s = .next (if pram then s.wr (psramBase + a) (slice data 0 len) else s))
    ∧ (s.padsUp 7 = true → s.svcBoot = true → wr = false → exec c s = .next { s with out := .inbound a (if pram then some (s.rd (psramBase + a) len) else none) :: s.out })
    ∧ (s.padsUp 7 = true → s.svcBoot = false → ok = false → ∃ t, exec c s = .next t ∧ t.objN (kPcie 8) = (s.objN (kPcie 8) + 1) % 2 ^ 32 ∧ t.oBit (kPcie 6) 3 = true
      ∧ t.out = (if wr then [] else [Out.inbound a none]) ++ s.out ∧ s.objsBut t [kPcie 8, kPcie 6] ∧ t = { s with objs := t.objs, out := t.out })
    ∧ (∀ off, s.padsUp 7 = true → s.svcBoot = false → ok = true → s.msixHit a len bar = some (some off) → ∃ t, exec c s = .next t ∧ t = { s with doms := t.doms, out := t.out, yielding := false }
      ∧ t.dom kMsix = (if wr then slice (s.dom kMsix) 0 off ++ slice data 0 len ++ (s.dom kMsix).drop (off + len) else s.dom kMsix) ∧ (∀ k, k ≠ kMsix → t.dom k = s.dom k)
      ∧ t.out = (if wr then [] else [Out.inbound a (some (slice (s.dom kMsix) off len))]) ++ s.out)
    ∧ (∀ cfg b, s.padsUp 7 = true → s.svcBoot = false → ok = true → s.msixHit a len bar = none → s.ibHit a len bar = some (cfg, b) →
      (wr = true → ∃ t, exec c s = .next t ∧ t.yielding = false ∧ t = { s with mem := t.mem, poison := t.poison, yielding := false } ∧ (wcSwap cfg = 0 → b + len ≤ stackedSize → t.rd b len = slice data 0 len))
      ∧ (wr = false → ∃ t d, exec c s = .next t ∧ t = { s with out := .inbound a d :: s.out, yielding := false } ∧ ((s.poisonedAt b len).isSome = true → d = none))))
  ∧ (∀ gen width, let v := if gen = 0 ∨ 5 < gen then 0 else width % 16 * 16 + gen
    let same := s.pcieRole = 0 ∨ s.objN (kPcie 4) = v ∨ (v ≠ 0 ∧ s.padsUp 7 = false)
    (same → exec (.pcieLinkChange gen width) s = .next s)
    ∧ (¬ same → ∃ t, exec (.pcieLinkChange gen width) s = .next t ∧ t.objN (kPcie 4) = v ∧ t.oBit (kPcie 6) 0 = true ∧ s.onlyObjs t [kPcie 4, kPcie 6]))

/-- R18, R358-R361, Table 14-3: an enabled link trains up when the far end is the device, link and product that it must be, and is mismatched when it is not; a replay is counted, and the 16th of one flit loses the link; a loss is counted, faults the instances that use the link and leaves it training or off. -/
def Obligations.TwimiLinks : Prop := ∀ (s : State) (l : Fin 3),
  let may := s.oBit (kLink l 1) 0 = true ∧ s.objN (kLink l 2) ≤ 1 ∧ s.padsUp 7 = true ∧ s.fwRuns 1 = true
  let lost (t : State) : Prop := t.objN (kLink l 6) = (s.objN (kLink l 6) + 1) % 2 ^ 32 ∧ t.objN (kLink l 2) = (if s.oBit (kLink l 1) 1 = true ∧ s.oBit (kLink l 1) 0 = true then 1 else 0)
    ∧ t.oBit (kLink l 7) 0 = true ∧ t.oBit (okey 0x1001 1) (16 + l) = true ∧ t.lk l = LinkSt.init ∧ (∀ m < 16, s.oBit (kInst m 5 (l + 1)) 31 = true → s.instState m ≠ 0 → t.instState m = 4)
  (∀ far, ¬ may → exec (.linkTrain l far) s = .next s)
  ∧ (may → ∃ t, exec (.linkTrain l .silent) s = .next t ∧ t.objN (kLink l 2) = 1 ∧ s.onlyObjs t [kLink l 2])
  ∧ (∀ dev link product b, may → let right := dev = (s.objN (okey 0x1000 4) + l + 1) % 4 ∧ link = 2 - (l : Nat) ∧ product = s.objN (okey 0x1000 2)
    ∃ t, exec (.linkTrain l (.answer dev link product b)) s = .next t ∧ t.objN (kLink l 3) = dev % 256 ∧ (right → t.objN (kLink l 2) = 2 ∧ t.oBit (kLink l 7) 0 = true ∧ t.lk l = LinkSt.init)
      ∧ (¬ right → t.objN (kLink l 2) = 3 ∧ t.oBit (kLink l 7) 2 = true) ∧ s.objsBut t [kLink l 2, kLink l 3, kLink l 7, okey 0x1001 1] ∧ t = { s with objs := t.objs, links := t.links })
  ∧ (¬ may → exec (.trainRetry l) s = .next s)
  ∧ (may → ∃ t, exec (.trainRetry l) s = .next t ∧ t.objN (kLink l 2) = 1 ∧ s.onlyObjs t [kLink l 2])
  ∧ (s.objN (kLink l 2) ≠ 2 → exec (.twimiLinkLoss l) s = .next s ∧ ∀ b, exec (.flitReplay l b) s = .next s)
  ∧ (s.objN (kLink l 2) = 2 → ∃ t, exec (.twimiLinkLoss l) s = .next t ∧ lost t)
  ∧ (∀ b, s.objN (kLink l 2) = 2 → let x := s.lk l
    let fresh := 1000000 ≤ s.nowN - x.msStart.toNat ∨ x.msCount = 0
    let n := if fresh then 1 else x.msCount + 1
    let k := if b then x.same + 1 else 1
    ∃ t, exec (.flitReplay l b) s = .next t ∧ t.objN (kLink l 4) = (s.objN (kLink l 4) + 1) % 2 ^ 32 ∧ t.objN (kLink l 5) = (s.objN (kLink l 5) + 1) % 2 ^ 32
      ∧ (fld (s.obj (kLink l 1)) 15 8 < n → t.oBit (kLink l 7) 1 = true) ∧ (16 ≤ k → lost t)
      ∧ (k < 16 → t.lk l = ⟨if fresh then s.now else x.msStart, n, k⟩ ∧ t.objN (kLink l 2) = 2 ∧ s.objsBut t [kLink l 4, kLink l 5, kLink l 7] ∧ t = { s with objs := t.objs, links := t.links }))

/-! ### Worlds, firmware and the safety island (chapters 15 and 16) -/

/-- R371, R372, R382, R385, R386, R388-R391: MRET makes the next world the current one and scrubs a core that leaves the secure world; only machine mode writes xworld; host_release starts cores; a rollback commit raises the counters of the components that run; a report is new at each read; a processor restarts by itself or when told to; an image update leaves the directory in use as it was. -/
def Obligations.WorldsAndFirmware : Prop := ∀ (s : State),
  (∀ h : Fin 12, let x := s.host h
    (x.running = false → exec (.mret h) s = .next s)
    ∧ (x.running = true → ∃ t, exec (.mret h) s = .next t ∧ t.oBit (okey 0x7403 1) h = x.next ∧ t.host h = (if s.hostSecure h = true ∧ x.next = false then x.scrub else x)
      ∧ (∀ j, j ≠ (h : Nat) → t.host j = s.host j) ∧ s.objsBut t [okey 0x7403 1] ∧ t = { s with objs := t.objs, hosts := t.hosts })
    ∧ (∀ v, (∃ t, exec (.xworldWrite h .m v) s = .next t ∧ t.host h = { x with next := bit v 1 } ∧ (∀ j, j ≠ (h : Nat) → t.host j = s.host j) ∧ t = { s with hosts := t.hosts })
      ∧ ∀ mode, mode ≠ .m → exec (.xworldWrite h mode v) s = .next { s with out := .illegalInstr h :: s.out }))
  ∧ (∀ src r v, s.accepts src r 0x7403 2 v → ∃ t, exec (.hostRelease src v) s = .next t ∧ t.obj (okey 0x7403 2) = s.obj (okey 0x7403 2) ||| v
    ∧ (∀ h < 12, (bit v h = true → (t.host h).running = true) ∧ (bit v h = false ∨ (s.host h).running = true → t.host h = s.host h)) ∧ s.objsBut t [okey 0x7403 2, okey 0x7403 1] ∧ t = { s with objs := t.objs, hosts := t.hosts, free := t.free })
  ∧ (∀ src r v, s.accepts src r 0x7440 7 v →
    (s.storeJob.isSome = true → exec (.rollbackCommit src v) s = .next (s.latch r.ctx 0x000B 0x7440 7))
    ∧ (s.storeJob = none → ∃ t, exec (.rollbackCommit src v) s = .next t ∧ t.storeJob.isSome = true ∧ t.objN (okey 0x1010 2) = 1
      ∧ (∀ k < 6, t.objN (okey 0x7440 (1 + k)) = if bit v k then max (s.objN (okey 0x7440 (1 + k))) (s.runningVersion k) % 2 ^ 64 else s.objN (okey 0x7440 (1 + k)))
      ∧ s.objsBut t (okey 0x1010 2 :: (List.range 6).map fun k => okey 0x7440 (1 + k))))
  ∧ (∀ src, let refused (e : Nat) : Prop := exec (.attestationRead src) s = .next { s with out := .refused src 0x7880 1 e :: s.out }
    (s.requester src = none → refused 0x0003)
    ∧ ∀ r, s.requester src = some r → (∀ e, s.domReadCheck r 0x7880 1 = e → e ≠ 0 → refused e)
      ∧ (s.domReadCheck r 0x7880 1 = 0 → s.identityValid = false → refused 0x0013) ∧ (s.domReadCheck r 0x7880 1 = 0 → s.identityValid = true → s.fwRuns 0 = false → refused 0x000B)
      ∧ (s.domReadCheck r 0x7880 1 = 0 → s.identityValid = true → s.fwRuns 0 = true → ∃ t, exec (.attestationRead src) s = .next t ∧ t.reports = s.reports + 1 ∧ t.out = .report src (t.dom (okey 0x7880 1)) :: s.out
        ∧ (t.dom (okey 0x7880 1)).take (({ s with reports := s.reports + 1 } : State).attestBody r.ctx).length = ({ s with reports := s.reports + 1 } : State).attestBody r.ctx
        ∧ (∀ k, k ≠ okey 0x7880 1 → t.dom k = s.dom k) ∧ t = { s with doms := t.doms, reports := t.reports, out := t.out, free := t.free }))
  ∧ (∀ f : Fin 7,
    let begun (t : State) : Prop := t.objN (kFw f 1) = 3 ∧ t.objN (kFw f 6) = (s.objN (kFw f 6) + 1) % 2 ^ 32 ∧ (t.fw f).faults = [] ∧ t.objN (kSched 1) = (if (f : Nat) = 2 then 2 else s.objN (kSched 1))
    let restarts (goes : Prop) (announced : Bool) (c : Instr) : Prop := (¬ goes → exec c s = .next s)
      ∧ (goes → ∃ t, exec c s = .next t ∧ begun t ∧ (t.fw f).announced = announced)
    (∀ src r v, s.accepts src r (0x7800 + f) 5 v → restarts (s.fwRuns f = true) true (.fwRestart src f v))
    ∧ restarts (s.fwRuns f = true) false (.processorRestart f .kernelFault) ∧ restarts (s.fwRuns f = true) false (.processorRestart f .watchdog)
    ∧ restarts (s.fwRuns f = true ∧ ∃ x ∈ (s.fw f).faults, 3 ≤ s.recentFaults f x.1) false (.processorRestart f .threeFaults)
    ∧ ((s.objN (kFw f 1) ≠ 3 ∨ ((f : Nat) ≠ 0 ∧ s.fwRuns 0 = false)) → exec (.processorRestart f .ends) s = .next s)
    ∧ (s.objN (kFw f 1) = 3 → ((f : Nat) = 0 ∨ s.fwRuns 0 = true) → ∃ t, exec (.processorRestart f .ends) s = .next t ∧ (t.fw f).announced = false ∧ (t.fw f).started = (s.pickImage (fwComp f)).isSome
      ∧ t.objN (kFw f 1) = if (s.pickImage (fwComp f)).isSome then 2 else 4)
    ∧ (∀ comp cause, (s.fwRuns f = false → exec (.componentFault f comp cause) s = .next s)
      ∧ (s.fwRuns f = true → ∃ t, exec (.componentFault f comp cause) s = .next t ∧ t.objN (kFw f 7) = (s.objN (kFw f 7) + 1) % 2 ^ 32 ∧ t.objN (kFw f 8) = comp.toNat * 2 ^ 16 + cause.toNat
        ∧ (t.fw f).faults = (comp.toNat, s.now) :: (s.fw f).faults.take 2 ∧ t.rdN (logRing f) 4 = (s.rdN (logRing f) 4 + 1) % 2 ^ 32 ∧ t.objN (kFw f 1) = s.objN (kFw f 1))))
  ∧ (∀ src block ok, let refused (e : Nat) : Prop := exec (.fwUpdate src block ok) s = .next { s with out := .refused src 0x7808 1 e :: s.out }
    (s.requester src = none → refused 0x0003)
    ∧ ∀ r, s.requester src = some r → (∀ e, s.domWriteCheck r 0x7808 1 block.length = e → e ≠ 0 → refused e)
      ∧ (s.domWriteCheck r 0x7808 1 block.length = 0 →
        let bad := match splitImages 16 block with
          | none => true
          | some ims => !(ims.all fun bs => s.imageOk (leAt bs 6 2) bs)
        ∃ t, exec (.fwUpdate src block ok) s = .next t ∧ (bad = true → t.out = .refused src 0x7808 1 0x0013 :: s.out ∧ t.oBit (okey 0x7460 1) 1 = true ∧ t.mem = s.mem)
          ∧ (∀ i, s.dirInUse = some i → ∀ a, dirBase i ≤ a → a < dirBase i + 0x1000 → t.byte a = s.byte a)
          ∧ ∀ ims placed, splitImages 16 block = some ims → bad = false → placeImages ((s.dirInUse.map s.dirEntries).getD [] |>.map fun e => e.2) s.free ims = some placed →
            (ok = false → t.out = .refused src 0x7808 1 0x0012 :: s.out)
            ∧ (ok = true → t.out = s.out ∧ ∀ x ∈ placed.getLast?, t.rd (flashBase + x.2.1) x.2.2.length = x.2.2)))

/-- R397-R403, R405, Tables 16-1 and 16-5: a trigger enters the safe state with its cause, time and broadcast notice, or while the device is in it is counted; the state is left only when everything that an exit asks for holds; notices repeat; the watchdogs and monitors raise their triggers at their limits and not before. -/
def Obligations.SafeState : Prop := ∀ (s : State),
  let told (code : Nat) (t : State) : Prop := ∃ args, Out.broadcast (s.noticeSeq + 1) code s.stampTime args (s.objN (okey 0x1021 1)) ∈ t.out
  let raised (code detail : Nat) (t : State) : Prop := t.safe = true
    ∧ (s.safe = true → t.objN (kSafe 7) = (s.objN (kSafe 7) + 1) % 2 ^ 32 ∧ t.obj (kSafe 2) = s.obj (kSafe 2) ∧ t.out = s.out)
    ∧ (s.safe = false → t.obj (kSafe 2) = safeCause code 0 detail ∧ t.obj (kSafe 3) = s.now ∧ t.objN (kSafe 6) = (s.objN (kSafe 6) + 1) % 2 ^ 32 ∧ t.oBit (kSafe 12) 0 = true ∧ t.noticeSeq = s.noticeSeq + 1 ∧ told 1 t)
  (∀ src r v, s.accepts src r 0x7000 5 v → ∃ t, exec (.safeRequest src v) s = .next t ∧ raised 0x0C 0 t)
  ∧ (∀ src r v, s.accepts src r 0x7000 4 v → (s.safe = false → exec (.safeExit src v) s = .next s)
    ∧ (s.safe = true → s.exitAllowed = false → exec (.safeExit src v) s = .next (s.latch r.ctx 0x000B 0x7000 4))
    ∧ (s.safe = true → s.exitAllowed = true → ∃ t, exec (.safeExit src v) s = .next t ∧ t.safe = false ∧ t.leftRepeats = 2 ∧ t.oBit (kSafe 12) 1 = true ∧ told 2 t))
  ∧ ((s.safe = true → s.noticeArgs = [] → exec .noticeRepeat s = .next s) ∧ (s.safe = false → s.leftRepeats = 0 → exec .noticeRepeat s = .next s)
    ∧ ((s.safe = true ∧ s.noticeArgs ≠ [] ∨ s.safe = false ∧ s.leftRepeats ≠ 0) → ∃ t, exec .noticeRepeat s = .next t ∧ t.noticeSeq = s.noticeSeq + 1
      ∧ Out.broadcast (s.noticeSeq + 1) (if s.safe then 1 else 2) s.noticeTime s.noticeArgs (s.objN (okey 0x1021 1)) ∈ t.out ∧ t.leftRepeats = (if s.safe then s.leftRepeats else s.leftRepeats - 1)
      ∧ t = { s with sessions := t.sessions, out := t.out, noticeSeq := t.noticeSeq, leftRepeats := t.leftRepeats }))
  ∧ (exec .graniteHeartbeat s = .next (if s.fwRuns 2 = true ∧ s.domOff 0 = false then { s with lastBeat := some s.now } else s))
  ∧ ((s.lastBeat = none ∨ s.watched = false) → exec .islandWatchdogExpiry s = .next s)
  ∧ (∀ b, s.lastBeat = some b → s.watched = true → let due := max b.toNat s.wdHold.toNat + 1000 * s.objN (kSafe 0xb)
    (s.nowN < due → exec .islandWatchdogExpiry s = .next s) ∧ (due ≤ s.nowN → ∃ t, exec .islandWatchdogExpiry s = .next t ∧ raised 7 (b.toNat % 2 ^ 32) t ∧ t.lastBeat = none))
  ∧ ((s.islandRuns = false → exec .islandHwWatchdogExpiry s = .next s) ∧ (s.islandRuns = true → ∃ t d, exec .islandHwWatchdogExpiry s = .next t ∧ raised 9 d t))
  ∧ (∀ d, ((s.domOff 0 = true ∨ d ≤ 2) → exec (.timebaseCrossCheck d) s = .next s) ∧ (s.domOff 0 = false → 2 < d → ∃ t, exec (.timebaseCrossCheck d) s = .next t ∧ raised 0x0A 11 t))
  ∧ (∀ (clk : Fin 3) ppm, let counts := s.powered = true ∧ (s.tbRun = true ∨ 2 ≤ (clk : Nat)) ∧ (ppm = none ∨ ∃ p, ppm = some p ∧ 1000 < p)
    (¬ counts → exec (.clockMonitorFault clk ppm) s = .next s) ∧ (counts → ∃ t, exec (.clockMonitorFault clk ppm) s = .next t ∧ raised 0x0A 12 t))

/-- R407, R408, R410-R418, Tables 16-5 to 16-9: a self-test request is queued, one at a time; an interval that passes without its pass is told once, and a late golden start is counted and told; a Strata trigger takes the next sequence or is counted as lost; the oldest record goes to its slots and the header follows; a clear counts and frees the permanent slots; a copy-out takes the region into the older slot, one at a time, and ends done or failed without touching the other slot. -/
def Obligations.SelfTestsAndStrata : Prop := ∀ (s : State),
  let told (code : Nat) (t : State) : Prop := ∃ args, Out.broadcast (s.noticeSeq + 1) code s.stampTime args (s.objN (okey 0x1021 1)) ∈ t.out
  let takes (trigger : Nat) : Prop := s.oBit (okey (0x7050 + trigger) 1) 0 = true ∧ s.strataQ.length < 16
  (∀ src r v, s.accepts src r 0x7010 6 v → let kind := fld v 63 56
    let bad := kind = 0 ∨ 4 < kind ∨ (kind = 4 ∧ 16 ≤ fld v 15 0)
    (bad → exec (.selftestRequest src v) s = .next (s.latch r.ctx 0x0007 0x7010 6))
    ∧ (¬ bad → s.selfReq.isSome = true → exec (.selftestRequest src v) s = .next (s.latch r.ctx 0x000B 0x7010 6))
    ∧ (¬ bad → s.selfReq = none → ∃ t, exec (.selftestRequest src v) s = .next t ∧ t.selfReq = some (kind, fld v 15 0) ∧ t.objN (kDiag 7) = kind * 2 ^ 56 + 2 ^ 48 ∧ s.objsBut t [kDiag 7]
      ∧ t = { s with objs := t.objs, selfReq := t.selfReq }))
  ∧ (let due := s.overdue = false ∧ s.islandRuns = true ∧ s.objN (kDiag 4) + 1000000 * s.objN (kDiag 1) ≤ s.nowN
    (¬ due → exec .dtiExpiry s = .next s)
    ∧ (due → ∃ t, exec .dtiExpiry s = .next t ∧ t.overdue = true ∧ t.oBit (kSafe 12) 2 = true ∧ t.objN (kDiag 5) = (s.objN (kDiag 5) + 1) % 2 ^ 32 ∧ told 3 t ∧ t.safe = s.safe))
  ∧ (∀ j : Fin 8, let e := fld (s.obj (kGolden j 1)) 53 44
    let next := s.cadEnabled e && s.cadNext e != 0 && !s.cadSensor e && decide ((s.cadNext e : Int) ≤ s.netTime)
    let late := bit (s.obj (kGolden j 1)) 63 = true ∧ (2 ≤ s.goldenWaits j ∨ (s.goldenWaits j = 1 ∧ next = true))
    (¬ late → exec (.goldenLate j) s = .next s)
    ∧ (late → ∃ t, exec (.goldenLate j) s = .next t ∧ t.goldenWaits j = s.goldenWaits j - 1 ∧ t.objN (kGolden j 5) = (s.objN (kGolden j 5) + 1) % 2 ^ 32 ∧ t.oBit (kSafe 12) 3 = true ∧ told 4 t ∧ t.safe = s.safe))
  ∧ (∀ src r v, s.accepts src r 0x7040 0xa v → ∃ t, exec (.strataTrigger src v) s = .next t ∧ t.free = s.free + 1
    ∧ (s.oBit (okey 0x705c 1) 0 = false → t = { s with free := s.free + 1 })
    ∧ (s.oBit (okey 0x705c 1) 0 = true → 16 ≤ s.strataQ.length → t.strataQ = s.strataQ ∧ t.objN kStrataLost = (s.objN kStrataLost + 1) % 2 ^ 32 ∧ s.objsBut t [kStrataLost])
    ∧ (takes 12 → let used := s.objN kPermUsed
      let perm := decide (used < 64)
      t.strataQ = s.strataQ ++ [⟨s.objN kNextSeq, if perm then some used else none, s.strataBody (s.objN kNextSeq) 12 (fld s.freeNow 31 0) 0#64 perm⟩]
      ∧ t.objN kNextSeq = (s.objN kNextSeq + 1) % 2 ^ 64 ∧ t.objN kPermUsed = (if perm then used + 1 else used) ∧ s.objsBut t [kNextSeq, kPermUsed]))
  ∧ ((s.strataQ = [] ∨ s.powered = false ∨ s.objN (okey 0x7c00 1) = 3) → exec .strataRecordWrite s = .next s)
  ∧ (∀ x rest, s.strataQ = x :: rest → s.powered = true → s.objN (okey 0x7c00 1) ≠ 3 → let bytes := slice x.body 0 0x38 ++ leBytes 4 0x53545256 ++ slice x.body 0x3c 964
    ∃ t, exec .strataRecordWrite s = .next t ∧ t.strataQ = rest ∧ t.rd (strataBase + 0x11000 + x.seq % 256 * 1024) 1024 = bytes ∧ (∀ k, x.perm = some k → t.rd (strataBase + 0x1000 + k % 64 * 1024) 1024 = bytes)
      ∧ t.rdN (strataBase + 16) 8 = s.objN kNextSeq ∧ t.oBit (okey 0x7040 9) 0 = true ∧ (s.copyHeld = false → t.strataDirty = true ∧ s.objsBut t [okey 0x7040 9]))
  ∧ (∀ src r v, s.accepts src r 0x7040 5 v → ∃ t, exec (.strataClear src v) s = .next t ∧ t.rdN (strataBase + 12) 4 = (s.rdN (strataBase + 12) 4 + 1) % 2 ^ 32 ∧ t.rdN (strataBase + 24) 8 = s.nowN
    ∧ (takes 13 → t.objN kPermUsed = 1) ∧ (¬ takes 13 → t.objN kPermUsed = 0))
  ∧ (∀ src r v, s.accepts src r 0x7040 6 v → (s.copyJob.isSome = true → exec (.copyout src v) s = .next (s.latch r.ctx 0x000B 0x7040 6))
    ∧ (s.copyJob = none → s.fwRuns 0 = false → exec (.copyout src v) s = .next { s with copyHeld := true })
    ∧ (s.copyJob = none → s.fwRuns 0 = true → ∃ t j, exec (.copyout src v) s = .next t ∧ t.copyJob = some j ∧ t.objN (okey 0x7040 7) = 1 ∧ t.strataDirty = false ∧ t.copyHeld = false
      ∧ (s.copyNewest = none → j.slot = 0 ∧ j.version = 1) ∧ (∀ i n, s.copyNewest = some (i, n) → j.slot = 1 - i ∧ j.version = (n + 1) % 2 ^ 32) ∧ s.objsBut t [okey 0x7040 7]
      ∧ t = { s with objs := t.objs, copyJob := t.copyJob, copyHeld := false, strataDirty := false }))
  ∧ (∀ ok, (s.copyJob = none ∨ s.fwRuns 0 = false) → exec (.copyoutEnd ok) s = .next s)
  ∧ (∀ ok j, s.copyJob = some j → s.fwRuns 0 = true → j.slot ≤ 1 → (∀ c ∈ j.image, c.1 < 0x51000) → ∃ t, exec (.copyoutEnd ok) s = .next t ∧ (s.copyHeld = false → t.copyJob = none ∧ t.objN (okey 0x7040 7) = if ok then 2 else 3)
    ∧ (∀ a, a < 0x10000000000 → (a < copySlot j.slot ∨ copySlot j.slot + 0x51008 ≤ a) → t.byte a = s.byte a) ∧ (ok = true → t.rdN (copySlot j.slot + 0x51000) 4 = j.version % 2 ^ 32))

/-! ### Power (chapters 17 and 18) -/

/-- R343, R374-R376, R426-R428, R430, R432-R435: a power request is refused, held, put off or begun by what stands when it is written; an entry shows state 4, freezes the instances and turns off the domains of its state, and what is off is lost; a wake starts the exit, or is noted during an entry; pads stay held until they are released; the device goes to Idle and leaves it. -/
def Obligations.PowerRequests : Prop := ∀ (s : State),
  let begins (into : Nat) (secure : Bool) (t : State) : Prop := t.powerState = 4 ∧ t.power.phase = .entering into ∧ t.power.prev = s.powerState ∧ t.objN kPending = 0 ∧ t.domsOff = s.domsOff ||| offMask into
    ∧ (secure = true → t.objN kHold = 0) ∧ (s.domOff 0 = false → ∀ m < 16, s.instState m ∈ [1, 2, 5] → t.instState m = 3)
    ∧ (3 ≤ into → s.domOff 6 = false ∨ s.power.refresh = true → ∀ a < stackedSize, t.byte a = 0#8)
  let put (into : Nat) (secure : Bool) (t : State) : Prop := t.power = { s.power with next := some (into, secure) } ∧ t.objN kPending = 0 ∧ t = { s with objs := t.objs, power := t.power, free := t.free } ∧ s.objsBut t [kPending]
  (∀ src r, s.accepts src r 0x7c00 2 0#64 → ∃ t, exec (.powerRequestOn src) s = .next t ∧ t.objN kPending = 0 ∧ t.power = { s.power with next := none } ∧ s.objsBut t [kPending] ∧ t = { s with objs := t.objs, power := t.power })
  ∧ (∀ src r code c, (code = 2 ∧ c = Instr.powerRequestDrowse src ∨ code = 3 ∧ c = Instr.powerRequestSentry src ∨ code = 4 ∧ c = Instr.powerRequestOff src) → s.accepts src r 0x7c00 2 (BitVec.ofNat 64 code) →
    let barred := code = 4 ∧ r.secure = false ∧ (s.objN kHold ≠ 0 ∨ s.secureUnits = true)
    let held := r.secure = false ∧ code ≤ 3 ∧ s.objN kHold &&& offMask code ≠ 0
    (barred → ∃ t, exec c s = .next t ∧ t.objN (okey 0x7450 2) = (s.objN (okey 0x7450 2) + 1) % 2 ^ 32 ∧ t.oBit (okey 0x7460 1) 0 = true ∧ t.powerState = s.powerState ∧ t.power = s.power ∧ t.domsOff = s.domsOff)
    ∧ (¬ barred → s.entryRefusal code ≠ 0 → exec c s = .next ((if code = 2 then { s with free := s.free + 1 } else s : State).latch r.ctx (s.entryRefusal code) 0x7c00 2))
    ∧ (¬ barred → s.entryRefusal code = 0 → held → ∃ t, exec c s = .next t ∧ t.objN kPending = code - 1 ∧ s.objsBut t [kPending] ∧ t = { s with objs := t.objs, free := t.free })
    ∧ (¬ barred → s.entryRefusal code = 0 → ¬ held → s.powerBusy = true → ∃ t, exec c s = .next t ∧ put code r.secure t)
    ∧ (¬ barred → s.entryRefusal code = 0 → ¬ held → s.powerBusy = false → code = 2 → s.powerState = 2 → ∃ t, exec c s = .next t ∧ t.objN kPending = 0 ∧ s.objsBut t [kPending] ∧ t = { s with objs := t.objs, free := t.free })
    ∧ (¬ barred → s.entryRefusal code = 0 → ¬ held → s.powerBusy = false → (code ≠ 2 ∨ s.powerState ≠ 2) → ∃ t, exec c s = .next t ∧ begins code r.secure t))
  ∧ (let into := s.objN kPending + 1
    let waits := s.objN kPending = 0 ∨ s.objN kHold &&& offMask into ≠ 0
    (waits → exec .heldRequestRelease s = .next s)
    ∧ (¬ waits → s.entryRefusal into ≠ 0 → ∃ t, exec .heldRequestRelease s = .next t ∧ t.objN kPending = 0 ∧ s.objsBut t [kPending] ∧ t = { s with objs := t.objs, free := t.free })
    ∧ (¬ waits → s.entryRefusal into = 0 → s.powerBusy = true → ∃ t, exec .heldRequestRelease s = .next t ∧ put into false t)
    ∧ (¬ waits → s.entryRefusal into = 0 → s.powerBusy = false → into = 2 → s.powerState = 2 → ∃ t, exec .heldRequestRelease s = .next t ∧ t.objN kPending = 0 ∧ s.objsBut t [kPending] ∧ t = { s with objs := t.objs, free := t.free })
    ∧ (¬ waits → s.entryRefusal into = 0 → s.powerBusy = false → (into ≠ 2 ∨ s.powerState ≠ 2) → ∃ t, exec .heldRequestRelease s = .next t ∧ begins into false t))
  ∧ (∀ w, let asleep := s.powerState = 2 ∨ s.powerState = 3
    let seen (t : State) : Prop := ∀ code b, wakeCode w = some (code, b) → t.objN (okey 0x6020 0xb) = code
    (s.dead = true → exec (.wake w) s = .next s)
    ∧ (∀ into, s.dead = false → s.power.phase = .entering into → (s.wakes w (if into = 2 then 2 else 3) = false → exec (.wake w) s = .next s)
      ∧ (s.wakes w (if into = 2 then 2 else 3) = true → ∃ t, exec (.wake w) s = .next t ∧ seen t ∧ t.power = { s.power with wake := decide (into ≠ 4) } ∧ t.oBit (kPower 8) 1 = true
        ∧ s.objsBut t [okey 0x6020 0xb, kPower 8] ∧ t = { s with objs := t.objs, power := t.power, free := t.free }))
    ∧ (s.dead = false → (∀ into, s.power.phase ≠ .entering into) → (¬ asleep ∨ s.wakes w s.powerState = false) → exec (.wake w) s = .next s)
    ∧ (s.dead = false → (∀ into, s.power.phase ≠ .entering into) → asleep → s.wakes w s.powerState = true → ∃ t, exec (.wake w) s = .next t ∧ seen t ∧ t.powerState = 5 ∧ t.power = { s.power with prev := s.powerState }
      ∧ s.objsBut t [okey 0x6020 0xb, kPower 1] ∧ t = { s with objs := t.objs, power := t.power, free := t.free }))
  ∧ (∀ src r v, s.accepts src r 0x7c00 7 v → let off := ∃ i < 3, bit v i = true ∧ s.domOff (9 - i) = true
    ((s.fwRuns 1 = false ∨ off) → exec (.padRelease src v) s = .next (s.latch r.ctx 0x000B 0x7c00 7))
    ∧ (s.fwRuns 1 = true → ¬ off → ∃ t, exec (.padRelease src v) s = .next t ∧ t.obj (kPower 6) = s.obj (kPower 6) &&& ~~~v ∧ s.onlyObjs t [kPower 6, kLink 0 2, kLink 1 2, kLink 2 2]
      ∧ ∀ l < 3, t.objN (kLink l 2) = if bit v 2 = true ∧ s.oBit (kPower 6) 2 = true ∧ s.oBit (kLink l 1) 0 = true then 1 else s.objN (kLink l 2)))
  ∧ (let idle := s.powerState = 0 ∧ s.power.phase = .steady ∧ s.powered = true ∧ s.dead = false ∧ s.oBit (kPower 3) 0 = true ∧ s.domOff 0 = false ∧ s.garnet.started = false
      ∧ ∀ m < 16, (s.inst m).runq = [] ∧ (s.inst m).invs = [] ∧ (s.inst m).saved = [] ∧ (s.inst m).reruns = []
    (¬ idle → exec .idleEntry s = .next s) ∧ (idle → ∃ t, exec .idleEntry s = .next t ∧ t.powerState = 1 ∧ s.onlyObjs t [kPower 1]))
  ∧ (∀ why, let due := ∀ e : Fin 1024, why = .cadence e → s.cadEnabled e = true ∧ s.cadAction e = 1 ∧ s.cadNext e ≠ 0 ∧ (s.cadNext e : Int) ≤ s.netTime + 4000
    ((s.powerState ≠ 1 ∨ ¬ due) → exec (.idleExit why) s = .next s) ∧ (s.powerState = 1 → due → ∃ t, exec (.idleExit why) s = .next t ∧ t.powerState = 0 ∧ s.onlyObjs t [kPower 1]))

/-- R22, R420, R424, R425, R429, R431, R432, R451, R452: PWR_GOOD starts the timebase from zero and the device in the safe state or in service boot; its fall leaves only the flash; the exits of Drowse and Sentry switch the domains on, Drowse with what the stacks held and Sentry with the timebase from zero; a rail that does not come up or fails takes down what depends on it, and only power-good brings the device back. -/
def Obligations.PowerUpAndDown : Prop := ∀ (s : State),
  let railLost (k : Nat) (t : State) : Prop := t.dead = true ∧ t.objN (kRail 2) = (s.objN (kRail 2) + 1) % 2 ^ 32 ∧ t.objN (kRail 3) = k ∧ t.obj (kRail 4) = s.now
  let may (from_ : Nat) := s.powerState = 5 ∧ s.power.prev = from_ ∧ s.power.phase = .steady ∧ s.dead = false
  (∀ env, (s.powered = true → exec (.powerGoodRise env) s = .next s)
    ∧ (s.powered = false → ∃ t, exec (.powerGoodRise env) s = .next t ∧ t.powered = true ∧ t.tbRun = true ∧ t.now = 0#64 ∧ t.svcBoot = env.svcBoot ∧ t.sessions = [] ∧ t.pending = s.pending
      ∧ (env.svcBoot = true → t.domOff 7 = false ∧ t.pcieRole = 2 ∧ t.dead = false) ∧ (env.svcBoot = false → t.dead = true ∨ t.power.phase = .starting 0)))
  ∧ (∀ len, let takes := s.powered = true ∧ s.svcBoot = true ∧ s.fwRuns 0 = false ∧ len ≤ 0x4000000
    let bs := s.rd psramBase len
    let ok := leAt bs 0xc 1 = 0 ∧ s.imageOk 1 bs = true
    (¬ takes → exec (.svcImageWrite len) s = .next s)
    ∧ (takes → ok → ∃ t, exec (.svcImageWrite len) s = .next t ∧ t.objN (kFw 0 1) = 2 ∧ t.objN (kFw 0 2) = 1 ∧ t.objN (kFw 0 3) = leAt bs 8 4 ∧ (t.fw 0).started = true ∧ (t.fw 0).version = leAt bs 8 4
      ∧ s.objsBut t [kFw 0 1, kFw 0 2, kFw 0 3] ∧ t = { s with objs := t.objs, fws := t.fws })
    ∧ (takes → ¬ ok → ∃ t, exec (.svcImageWrite len) s = .next t ∧ t.oBit (okey 0x7460 1) 1 = true ∧ t.obj (kFw 0 1) = s.obj (kFw 0 1) ∧ t.fws = s.fws))
  ∧ ((s.powered = false → exec .powerGoodFall s = .next s)
    ∧ (s.powered = true → ∃ t, exec .powerGoodFall s = .next t ∧ t.powered = false ∧ t.tbRun = false ∧ t.pending = s.pending ∧ t.out = s.out ∧ (∀ k, t.obj k = objDefault k) ∧ (∀ d < 10, t.domOff d = true)
      ∧ (∀ a < 0x10000000000, (a < flashBase ∨ flashBase + flashSize ≤ a) → t.byte a = 0#8)
      ∧ (s.storeJob = none → s.copyJob = none → ∀ a, flashBase ≤ a → a < flashBase + flashSize → t.byte a = s.byte a)))
  ∧ (∀ env, (¬ may 2 → exec (.drowseExit env) s = .next s)
    ∧ (may 2 → ∃ t, exec (.drowseExit env) s = .next t ∧ t.power.phase = .starting 2 ∧ t.power.refresh = false ∧ t.domOff 7 = false ∧ t.now = s.now ∧ (∀ a < stackedSize, t.byte a = s.byte a)
      ∧ (s.identityValid = true → (∀ d < 6, t.domOff d = false) ∧ (t.host 0).running = true ∧ (t.host 0).pc = (s.host 0).pc)))
  ∧ (∀ env, (¬ may 3 → exec (.sentryExit env) s = .next s)
    ∧ (may 3 → ∃ t, exec (.sentryExit env) s = .next t ∧ t.power.phase = .starting 3 ∧ t.now = 0#64 ∧ t.tbRun = true ∧ (∀ d, 7 ≤ d → d < 10 → t.domOff d = false)))
  ∧ (∀ k : Fin 15, let rails := match s.power.phase with
      | .starting 2 => 0x0fc0
      | .starting _ => if s.identityValid then 0x7fff else 0x3f
      | _ => 0
    (nbit rails k = false → exec (.railEnableTimeout k) s = .next s)
    ∧ (nbit rails k = true → ∃ t, exec (.railEnableTimeout k) s = .next t ∧ railLost k t ∧ t.domsOff = s.domsOff ||| 0x3ff ∧ t.objN (kRail 1) = 0 ∧ t.power.phase = .steady ∧ t.hosts = [] ∧ (∀ f, 2 ≤ f → f < 7 → t.objN (kFw f 1) = 4)))
  ∧ (∀ (k : Fin 15) ns, let ignored := s.oBit (kRail 1) k = false ∨ (((k : Nat) = 0 ∨ (6 ≤ (k : Nat) ∧ (k : Nat) ≤ 11)) ∧ ns < 100000)
    (ignored → exec (.railFault k ns) s = .next s)
    ∧ (¬ ignored → 6 ≤ (k : Nat) → ∃ t, exec (.railFault k ns) s = .next t ∧ railLost k t ∧ t.domsOff = s.domsOff ||| 0x7f ∧ t.objN (kRail 1) = s.objN (kRail 1) &&& 0x3f)
    ∧ (¬ ignored → (k : Nat) < 6 → ∃ t, exec (.railFault k ns) s = .next t ∧ railLost k t ∧ t.domsOff = s.domsOff ||| 0x3ff ∧ t.objN (kRail 1) = 0 ∧ t.safe = true))

/-- R436-R440, R446: a cluster runs at the frequency that it is asked for unless it is throttled, and the rails of the clusters follow; each throttle step moves a cluster by 25 MHz, or to 200 MHz for a hot stack, and the trip takes Granite and the stacks down; an ageing measurement adds a step to a domain whose slack is below 3 %. -/
def Obligations.OperatingPoints : Prop := ∀ (s : State),
  (∀ (c : Fin 4) src r v, s.accepts src r (0x7c10 + c) 1 v →
    let pinned := ∃ m < 16, ∃ p ∈ (s.inst m).plans, p.2.pinned = true ∧ ∃ n ∈ placedCores p.2.place, n / 4 = c
    let refused := s.fwRuns 1 = false ∨ s.objN (kFw (3 + c) 1) = 3 ∨ pinned
    let f := if s.clFreq c < s.objN (kCl c 1) then min (s.clFreq c) v.toNat else v.toNat
    (refused → exec (.dvfsRequest src c v) s = .next (s.latch r.ctx 0x000B (0x7c10 + c) 1))
    ∧ (¬ refused → s.domOff (2 + c) = true → exec (.dvfsRequest src c v) s = .next (s.setObj (kCl c 1) v))
    ∧ (¬ refused → s.domOff (2 + c) = false → ∃ t, exec (.dvfsRequest src c v) s = .next t ∧ t.obj (kCl c 1) = v ∧ t.clFreq c = f ∧ (∀ k < 4, k ≠ (c : Nat) → t.clFreq k = s.clFreq k)
      ∧ (f ≠ s.clFreq c → ∀ k < 4, t.objN (kCl k 3) = t.clVoltage k % 2 ^ 64) ∧ t = { s with objs := t.objs, power := t.power }))
  ∧ (∀ x : Temps,
    let up := (List.range 4).filter fun c => !s.domOff (2 + c)
    let vals := (List.range 4).map fun c => f32 (x.cl.getD c 0#32)
    let temps := vals.map FVal.toRat
    let bad := up = [] ∨ ∃ c ∈ up, (vals.getD c .nan).isFin = false
    let trips := (∃ b, s.power.hotSince = some b ∧ b.toNat + 100000000 < s.nowN) ∨ ∃ c ∈ up, 125 ≤ temps.getD c 0
    let read (t : State) : Prop := ∀ c ∈ up, t.objN (kCl c 4) = (x.cl.getD c 0#32).toNat
    ((bad ∨ (¬ trips ∧ s.fwRuns 1 = false)) → ∃ t, exec (.throttleStep x) s = .next t ∧ read t ∧ s.onlyObjs t ((List.range 4).map fun c => kCl c 4))
    ∧ (¬ bad → trips → ∃ t, exec (.throttleStep x) s = .next t ∧ t.dead = true ∧ t.domsOff = s.domsOff ||| 0x7f ∧ t.oBit (kPower 8) 4 = true)
    ∧ (¬ bad → ¬ trips → s.fwRuns 1 = true → ∃ t, exec (.throttleStep x) s = .next t ∧ read t ∧ t.dead = s.dead ∧ t.domsOff = s.domsOff ∧ ∀ c ∈ up,
      let h := s.throttles temps c
      let f := s.clFreq c
      let late := (TMap.get (fun _ => 0#64) s.power.lastReturn c).toNat + 10000000 ≤ s.nowN
      t.objN (kCl c 5) = h.1.toNat + 2 * h.2.1.toNat + 4 * h.2.2.toNat ∧ t.obj (kCl c 1) = s.obj (kCl c 1)
      ∧ t.clFreq c = if h.2.2 = true then 200 else if h.1 = true ∨ h.2.1 = true then max 200 (f - 25) else if f < s.objN (kCl c 1) ∧ late then min (s.objN (kCl c 1)) (f + 25) else f))
  ∧ ((s.powered = false → exec .thermalTrip s = .next s)
    ∧ (s.powered = true → ∃ t, exec .thermalTrip s = .next t ∧ t.dead = true ∧ t.domsOff = s.domsOff ||| 0x7f ∧ t.oBit (kPower 8) 2 = true ∧ t.oBit (kPower 8) 4 = true ∧ t.objN (kRail 1) = s.objN (kRail 1) &&& 0x3f))
  ∧ (∀ slack, ((s.powered = false ∨ s.fwRuns 1 = false) → exec (.ageingMeasure slack) s = .next s)
    ∧ (s.powered = true → s.fwRuns 1 = true → ∃ t, exec (.ageingMeasure slack) s = .next t
      ∧ (∀ d < 7, t.marginSteps d = if s.domOff (marginDomain d) = false ∧ slack.getD d 300 < 300 then min 20 (s.marginSteps d + 1) else s.marginSteps d)
      ∧ (∀ y, s.selfReq = some (4, y) → fld (s.obj (kDiag 7)) 55 48 = 2 → t.selfReq = none ∧ t.objN (kDiag 7) = testStatus 4 3 0) ∧ ((∀ y, s.selfReq ≠ some (4, y)) → t.selfReq = s.selfReq)))
end

