-- ==== Sys2Proof/Laws/Map.lean ====
section
/-! SUPPORT. Laws of the finite maps: a read after a write, and that every operation keeps the canonical form. -/

namespace Sys2Proof.Machine

variable {α : Type}

/-- The canonical form as two plain facts: keys rise strictly, and no entry is a default. -/
theorem TMap.wf_iff [DecidableEq α] (d : Nat → α) (m : TMap α) :
    TMap.wf d m = true ↔ m.Pairwise (fun a b => a.1 < b.1) ∧ ∀ e ∈ m, e.2 ≠ d e.1 := by
  match m with
  | [] => simp [TMap.wf]
  | [e] => simp [TMap.wf]
  | e :: e' :: m =>
    have ih := TMap.wf_iff d (e' :: m)
    simp only [TMap.wf, Bool.and_eq_true, bne_iff_ne, decide_eq_true_eq, ih, List.pairwise_cons, List.mem_cons]
    constructor
    · rintro ⟨⟨h1, h2⟩, ⟨h3, h4⟩, h5⟩
      refine ⟨⟨?_, h3, h4⟩, ?_⟩
      · rintro a (rfl | ha)
        · exact h2
        · exact lt_trans h2 (h3 a ha)
      · rintro a (rfl | rfl | ha)
        · exact h1
        · exact h5 _ (Or.inl rfl)
        · exact h5 _ (Or.inr ha)
    · rintro ⟨⟨h1, h2, h3⟩, h4⟩
      exact ⟨⟨h4 _ (Or.inl rfl), h1 _ (Or.inl rfl)⟩, ⟨h2, h3⟩, fun a ha => h4 a (Or.inr ha)⟩

theorem TMap.wf_filter [DecidableEq α] {d : Nat → α} {m : TMap α} (p : Nat × α → Bool) (h : TMap.wf d m = true) : TMap.wf d (m.filter p) = true := by
  rw [TMap.wf_iff] at *
  exact ⟨h.1.filter p, fun e he => h.2 e (List.mem_of_mem_filter he)⟩

theorem TMap.wf_del [DecidableEq α] {d : Nat → α} {m : TMap α} (k : Nat) (h : TMap.wf d m = true) : TMap.wf d (TMap.del m k) = true :=
  TMap.wf_filter _ h

theorem TMap.mem_put {m : TMap α} {k : Nat} {v : α} {e : Nat × α} (h : e ∈ TMap.put m k v) : e = (k, v) ∨ e ∈ m := by
  induction m with
  | nil => simpa [TMap.put] using h
  | cons x m ih =>
    simp only [TMap.put] at h
    split at h
    · simpa using h
    · split at h
      · rcases List.mem_cons.1 h with h | h
        · exact Or.inl h
        · exact Or.inr (List.mem_cons_of_mem _ h)
      · rcases List.mem_cons.1 h with h | h
        · exact Or.inr (h ▸ List.mem_cons_self)
        · exact (ih h).imp id (List.mem_cons_of_mem _)

theorem TMap.wf_put [DecidableEq α] {d : Nat → α} {m : TMap α} {k : Nat} {v : α} (h : TMap.wf d m = true) (hv : v ≠ d k) :
    TMap.wf d (TMap.put m k v) = true := by
  rw [TMap.wf_iff] at *
  refine ⟨?_, fun e he => ?_⟩
  · obtain ⟨h, -⟩ := h
    induction m with
    | nil => simp [TMap.put]
    | cons x m ih =>
      obtain ⟨hx, hm⟩ := List.pairwise_cons.1 h
      simp only [TMap.put]
      split
      · refine List.pairwise_cons.2 ⟨fun e he => ?_, h⟩
        rcases List.mem_cons.1 he with rfl | he
        · assumption
        · exact lt_trans ‹_› (hx e he)
      · split
        · refine List.pairwise_cons.2 ⟨fun e he => ?_, hm⟩
          have := hx e he
          simp_all
        · refine List.pairwise_cons.2 ⟨fun e he => ?_, ih hm⟩
          rcases TMap.mem_put he with rfl | he
          · simp only; omega
          · exact hx e he
  · rcases TMap.mem_put he with rfl | he
    · exact hv
    · exact h.2 e he

/-- A write keeps the canonical form. -/
theorem TMap.wf_set [DecidableEq α] {d : Nat → α} {m : TMap α} (k : Nat) (v : α) (h : TMap.wf d m = true) : TMap.wf d (TMap.set d m k v) = true := by
  unfold TMap.set
  split
  · exact TMap.wf_del k h
  · exact TMap.wf_put h ‹_›

theorem TMap.wf_clearRange [DecidableEq α] {d : Nat → α} {m : TMap α} (lo n : Nat) (h : TMap.wf d m = true) : TMap.wf d (TMap.clearRange m lo n) = true :=
  TMap.wf_filter _ h

theorem TMap.get_put (d : Nat → α) (m : TMap α) (k j : Nat) (v : α) : TMap.get d (TMap.put m k v) j = if k = j then v else TMap.get d m j := by
  induction m with
  | nil => simp [TMap.put, TMap.get]
  | cons x m ih =>
    simp only [TMap.put]
    split
    · simp [TMap.get]
    · split
      · subst_vars
        simp only [TMap.get]
        split <;> simp_all
      · simp only [TMap.get, ih]
        split
        · split
          · omega
          · rfl
        · rfl

theorem TMap.get_del (d : Nat → α) (m : TMap α) (k j : Nat) : TMap.get d (TMap.del m k) j = if k = j then d j else TMap.get d m j := by
  induction m with
  | nil => simp [TMap.del, TMap.get]
  | cons x m ih =>
    simp only [TMap.del, List.filter] at *
    by_cases hx : x.1 = k
    · simp only [hx, bne_self_eq_false, ih, TMap.get]
      split <;> rfl
    · simp only [bne_iff_ne.2 hx, TMap.get, ih]
      split
      · split
        · omega
        · rfl
      · rfl

/-- A read after a write: the value at its key, every other key as before. -/
@[simp] theorem TMap.get_set [DecidableEq α] (d : Nat → α) (m : TMap α) (k j : Nat) (v : α) :
    TMap.get d (TMap.set d m k v) j = if k = j then v else TMap.get d m j := by
  unfold TMap.set
  split
  · rw [TMap.get_del]
    split
    · subst_vars; rfl
    · rfl
  · exact TMap.get_put d m k j v

/-- Two maps in canonical form that read the same are the same. -/
theorem TMap.ext_of_wf [DecidableEq α] {d : Nat → α} {m m' : TMap α} (h : TMap.wf d m = true) (h' : TMap.wf d m' = true)
    (e : ∀ k, TMap.get d m k = TMap.get d m' k) : m = m' := by
  rw [TMap.wf_iff] at h h'
  have low : ∀ (m : TMap α) (k : Nat), (∀ x ∈ m, k < x.1) → TMap.get d m k = d k := by
    intro m k hk
    induction m with
    | nil => rfl
    | cons x m ih =>
      have := hk x List.mem_cons_self
      simp only [TMap.get]
      rw [if_neg (by omega)]
      exact ih fun y hy => hk y (List.mem_cons_of_mem _ hy)
  induction m generalizing m' with
  | nil =>
    cases m' with
    | nil => rfl
    | cons y m' =>
      have := e y.1
      simp only [TMap.get, if_true] at this
      exact absurd this.symm (h'.2 y List.mem_cons_self)
  | cons x m ih =>
    obtain ⟨hx, hm⟩ := List.pairwise_cons.1 h.1
    cases m' with
    | nil =>
      have := e x.1
      simp only [TMap.get, if_true] at this
      exact absurd this (h.2 x List.mem_cons_self)
    | cons y m' =>
      obtain ⟨hy, hm'⟩ := List.pairwise_cons.1 h'.1
      have key : x.1 = y.1 := by
        rcases lt_trichotomy x.1 y.1 with hl | hl | hl
        · have := e x.1
          rw [low (y :: m') x.1 (by intro z hz; rcases List.mem_cons.1 hz with rfl | hz; exacts [hl, lt_trans hl (hy z hz)])] at this
          simp only [TMap.get, if_true] at this
          exact absurd this (h.2 x List.mem_cons_self)
        · exact hl
        · have := e y.1
          rw [low (x :: m) y.1 (by intro z hz; rcases List.mem_cons.1 hz with rfl | hz; exacts [hl, lt_trans hl (hx z hz)])] at this
          simp only [TMap.get, if_true] at this
          exact absurd this.symm (h'.2 y List.mem_cons_self)
      have val : x.2 = y.2 := by
        have := e x.1
        simpa [TMap.get, key] using this
      have xy : x = y := Prod.ext key val
      subst xy
      congr 1
      refine ih ⟨hm, fun z hz => h.2 z (List.mem_cons_of_mem _ hz)⟩ ⟨hm', fun z hz => h'.2 z (List.mem_cons_of_mem _ hz)⟩ fun k => ?_
      have := e k
      simp only [TMap.get] at this
      by_cases hk : x.1 = k
      · rw [low m k (by simpa [← hk] using hx), low m' k (by simpa [← hk] using hy)]
      · simpa [hk] using this

end Sys2Proof.Machine
end

