-- ==== Sys2Proof/Laws/State.lean ====
section
/-! SUPPORT. What the updates of the state leave alone: one lemma per field per update, and what a read gives after a write. -/

namespace Sys2Proof.Machine

variable (s : State)

/-! ### setObj -/

@[simp] theorem State.setObj_pending (k : Nat) (v : Word64) : (s.setObj k v).pending = s.pending := rfl
@[simp] theorem State.setObj_now (k : Nat) (v : Word64) : (s.setObj k v).now = s.now := rfl
@[simp] theorem State.setObj_tbRun (k : Nat) (v : Word64) : (s.setObj k v).tbRun = s.tbRun := rfl
@[simp] theorem State.setObj_free (k : Nat) (v : Word64) : (s.setObj k v).free = s.free := rfl
@[simp] theorem State.setObj_out (k : Nat) (v : Word64) : (s.setObj k v).out = s.out := rfl
@[simp] theorem State.setObj_ileave (k : Nat) (v : Word64) : (s.setObj k v).ileave = s.ileave := rfl
@[simp] theorem State.setObj_mem (k : Nat) (v : Word64) : (s.setObj k v).mem = s.mem := rfl
@[simp] theorem State.setObj_doms (k : Nat) (v : Word64) : (s.setObj k v).doms = s.doms := rfl
@[simp] theorem State.setObj_ctxs (k : Nat) (v : Word64) : (s.setObj k v).ctxs = s.ctxs := rfl
@[simp] theorem State.setObj_sessions (k : Nat) (v : Word64) : (s.setObj k v).sessions = s.sessions := rfl
@[simp] theorem State.setObj_subs (k : Nat) (v : Word64) : (s.setObj k v).subs = s.subs := rfl
@[simp] theorem State.setObj_storeJob (k : Nat) (v : Word64) : (s.setObj k v).storeJob = s.storeJob := rfl
@[simp] theorem State.setObj_gdom (k : Nat) (v : Word64) : (s.setObj k v).gdom = s.gdom := rfl
@[simp] theorem State.setObj_sel (k : Nat) (v : Word64) : (s.setObj k v).sel = s.sel := rfl
@[simp] theorem State.setObj_everLocked (k : Nat) (v : Word64) : (s.setObj k v).everLocked = s.everLocked := rfl
@[simp] theorem State.setObj_cadDue (k : Nat) (v : Word64) : (s.setObj k v).cadDue = s.cadDue := rfl
@[simp] theorem State.setObj_cadK (k : Nat) (v : Word64) : (s.setObj k v).cadK = s.cadK := rfl
@[simp] theorem State.setObj_trig (k : Nat) (v : Word64) : (s.setObj k v).trig = s.trig := rfl
@[simp] theorem State.setObj_lode (k : Nat) (v : Word64) : (s.setObj k v).lode = s.lode := rfl
@[simp] theorem State.setObj_capWin (k : Nat) (v : Word64) : (s.setObj k v).capWin = s.capWin := rfl
@[simp] theorem State.setObj_cores (k : Nat) (v : Word64) : (s.setObj k v).cores = s.cores := rfl
@[simp] theorem State.setObj_peb (k : Nat) (v : Word64) : (s.setObj k v).peb = s.peb := rfl
@[simp] theorem State.setObj_coll (k : Nat) (v : Word64) : (s.setObj k v).coll = s.coll := rfl
@[simp] theorem State.setObj_collCount (k : Nat) (v : Word64) : (s.setObj k v).collCount = s.collCount := rfl
@[simp] theorem State.setObj_ledger (k : Nat) (v : Word64) : (s.setObj k v).ledger = s.ledger := rfl
@[simp] theorem State.setObj_flintOpen (k : Nat) (v : Word64) : (s.setObj k v).flintOpen = s.flintOpen := rfl
@[simp] theorem State.setObj_insts (k : Nat) (v : Word64) : (s.setObj k v).insts = s.insts := rfl
@[simp] theorem State.setObj_parts (k : Nat) (v : Word64) : (s.setObj k v).parts = s.parts := rfl
@[simp] theorem State.setObj_caps (k : Nat) (v : Word64) : (s.setObj k v).caps = s.caps := rfl
@[simp] theorem State.setObj_poison (k : Nat) (v : Word64) : (s.setObj k v).poison = s.poison := rfl
@[simp] theorem State.setObj_streams (k : Nat) (v : Word64) : (s.setObj k v).streams = s.streams := rfl
@[simp] theorem State.setObj_noticeSeq (k : Nat) (v : Word64) : (s.setObj k v).noticeSeq = s.noticeSeq := rfl
@[simp] theorem State.setObj_leftRepeats (k : Nat) (v : Word64) : (s.setObj k v).leftRepeats = s.leftRepeats := rfl
@[simp] theorem State.setObj_noticeArgs (k : Nat) (v : Word64) : (s.setObj k v).noticeArgs = s.noticeArgs := rfl
@[simp] theorem State.setObj_lastBeat (k : Nat) (v : Word64) : (s.setObj k v).lastBeat = s.lastBeat := rfl
@[simp] theorem State.setObj_wdHold (k : Nat) (v : Word64) : (s.setObj k v).wdHold = s.wdHold := rfl
@[simp] theorem State.setObj_noticeTime (k : Nat) (v : Word64) : (s.setObj k v).noticeTime = s.noticeTime := rfl
@[simp] theorem State.setObj_selfReq (k : Nat) (v : Word64) : (s.setObj k v).selfReq = s.selfReq := rfl
@[simp] theorem State.setObj_overdue (k : Nat) (v : Word64) : (s.setObj k v).overdue = s.overdue := rfl
@[simp] theorem State.setObj_strataQ (k : Nat) (v : Word64) : (s.setObj k v).strataQ = s.strataQ := rfl
@[simp] theorem State.setObj_copyJob (k : Nat) (v : Word64) : (s.setObj k v).copyJob = s.copyJob := rfl
@[simp] theorem State.setObj_copyHeld (k : Nat) (v : Word64) : (s.setObj k v).copyHeld = s.copyHeld := rfl
@[simp] theorem State.setObj_strataDirty (k : Nat) (v : Word64) : (s.setObj k v).strataDirty = s.strataDirty := rfl
@[simp] theorem State.setObj_domsOff (k : Nat) (v : Word64) : (s.setObj k v).domsOff = s.domsOff := rfl
@[simp] theorem State.setObj_bucket (k : Nat) (v : Word64) : (s.setObj k v).bucket = s.bucket := rfl
@[simp] theorem State.setObj_pool (k : Nat) (v : Word64) : (s.setObj k v).pool = s.pool := rfl
@[simp] theorem State.setObj_eccUnits (k : Nat) (v : Word64) : (s.setObj k v).eccUnits = s.eccUnits := rfl
@[simp] theorem State.setObj_retired (k : Nat) (v : Word64) : (s.setObj k v).retired = s.retired := rfl
@[simp] theorem State.setObj_garnet (k : Nat) (v : Word64) : (s.setObj k v).garnet = s.garnet := rfl
@[simp] theorem State.setObj_pipes (k : Nat) (v : Word64) : (s.setObj k v).pipes = s.pipes := rfl
@[simp] theorem State.setObj_txq (k : Nat) (v : Word64) : (s.setObj k v).txq = s.txq := rfl
@[simp] theorem State.setObj_txNext (k : Nat) (v : Word64) : (s.setObj k v).txNext = s.txNext := rfl
@[simp] theorem State.setObj_tmplSeq (k : Nat) (v : Word64) : (s.setObj k v).tmplSeq = s.tmplSeq := rfl
@[simp] theorem State.setObj_fdb (k : Nat) (v : Word64) : (s.setObj k v).fdb = s.fdb := rfl
@[simp] theorem State.setObj_sas (k : Nat) (v : Word64) : (s.setObj k v).sas = s.sas := rfl
@[simp] theorem State.setObj_canq (k : Nat) (v : Word64) : (s.setObj k v).canq = s.canq := rfl
@[simp] theorem State.setObj_canOff (k : Nat) (v : Word64) : (s.setObj k v).canOff = s.canOff := rfl
@[simp] theorem State.setObj_t1sq (k : Nat) (v : Word64) : (s.setObj k v).t1sq = s.t1sq := rfl
@[simp] theorem State.setObj_wbuf (k : Nat) (v : Word64) : (s.setObj k v).wbuf = s.wbuf := rfl
@[simp] theorem State.setObj_fetches (k : Nat) (v : Word64) : (s.setObj k v).fetches = s.fetches := rfl
@[simp] theorem State.setObj_yielding (k : Nat) (v : Word64) : (s.setObj k v).yielding = s.yielding := rfl
@[simp] theorem State.setObj_pcieRole (k : Nat) (v : Word64) : (s.setObj k v).pcieRole = s.pcieRole := rfl
@[simp] theorem State.setObj_links (k : Nat) (v : Word64) : (s.setObj k v).links = s.links := rfl
@[simp] theorem State.setObj_hosts (k : Nat) (v : Word64) : (s.setObj k v).hosts = s.hosts := rfl
@[simp] theorem State.setObj_fws (k : Nat) (v : Word64) : (s.setObj k v).fws = s.fws := rfl
@[simp] theorem State.setObj_reports (k : Nat) (v : Word64) : (s.setObj k v).reports = s.reports := rfl
@[simp] theorem State.setObj_golden (k : Nat) (v : Word64) : (s.setObj k v).golden = s.golden := rfl
@[simp] theorem State.setObj_power (k : Nat) (v : Word64) : (s.setObj k v).power = s.power := rfl
@[simp] theorem State.setObj_powered (k : Nat) (v : Word64) : (s.setObj k v).powered = s.powered := rfl
@[simp] theorem State.setObj_svcBoot (k : Nat) (v : Word64) : (s.setObj k v).svcBoot = s.svcBoot := rfl
@[simp] theorem State.setObj_dead (k : Nat) (v : Word64) : (s.setObj k v).dead = s.dead := rfl

/-! ### setDom -/

@[simp] theorem State.setDom_pending (k : Nat) (v : List Byte) : (s.setDom k v).pending = s.pending := rfl
@[simp] theorem State.setDom_now (k : Nat) (v : List Byte) : (s.setDom k v).now = s.now := rfl
@[simp] theorem State.setDom_tbRun (k : Nat) (v : List Byte) : (s.setDom k v).tbRun = s.tbRun := rfl
@[simp] theorem State.setDom_free (k : Nat) (v : List Byte) : (s.setDom k v).free = s.free := rfl
@[simp] theorem State.setDom_out (k : Nat) (v : List Byte) : (s.setDom k v).out = s.out := rfl
@[simp] theorem State.setDom_ileave (k : Nat) (v : List Byte) : (s.setDom k v).ileave = s.ileave := rfl
@[simp] theorem State.setDom_mem (k : Nat) (v : List Byte) : (s.setDom k v).mem = s.mem := rfl
@[simp] theorem State.setDom_objs (k : Nat) (v : List Byte) : (s.setDom k v).objs = s.objs := rfl
@[simp] theorem State.setDom_ctxs (k : Nat) (v : List Byte) : (s.setDom k v).ctxs = s.ctxs := rfl
@[simp] theorem State.setDom_sessions (k : Nat) (v : List Byte) : (s.setDom k v).sessions = s.sessions := rfl
@[simp] theorem State.setDom_subs (k : Nat) (v : List Byte) : (s.setDom k v).subs = s.subs := rfl
@[simp] theorem State.setDom_storeJob (k : Nat) (v : List Byte) : (s.setDom k v).storeJob = s.storeJob := rfl
@[simp] theorem State.setDom_gdom (k : Nat) (v : List Byte) : (s.setDom k v).gdom = s.gdom := rfl
@[simp] theorem State.setDom_sel (k : Nat) (v : List Byte) : (s.setDom k v).sel = s.sel := rfl
@[simp] theorem State.setDom_everLocked (k : Nat) (v : List Byte) : (s.setDom k v).everLocked = s.everLocked := rfl
@[simp] theorem State.setDom_cadDue (k : Nat) (v : List Byte) : (s.setDom k v).cadDue = s.cadDue := rfl
@[simp] theorem State.setDom_cadK (k : Nat) (v : List Byte) : (s.setDom k v).cadK = s.cadK := rfl
@[simp] theorem State.setDom_trig (k : Nat) (v : List Byte) : (s.setDom k v).trig = s.trig := rfl
@[simp] theorem State.setDom_lode (k : Nat) (v : List Byte) : (s.setDom k v).lode = s.lode := rfl
@[simp] theorem State.setDom_capWin (k : Nat) (v : List Byte) : (s.setDom k v).capWin = s.capWin := rfl
@[simp] theorem State.setDom_cores (k : Nat) (v : List Byte) : (s.setDom k v).cores = s.cores := rfl
@[simp] theorem State.setDom_peb (k : Nat) (v : List Byte) : (s.setDom k v).peb = s.peb := rfl
@[simp] theorem State.setDom_coll (k : Nat) (v : List Byte) : (s.setDom k v).coll = s.coll := rfl
@[simp] theorem State.setDom_collCount (k : Nat) (v : List Byte) : (s.setDom k v).collCount = s.collCount := rfl
@[simp] theorem State.setDom_ledger (k : Nat) (v : List Byte) : (s.setDom k v).ledger = s.ledger := rfl
@[simp] theorem State.setDom_flintOpen (k : Nat) (v : List Byte) : (s.setDom k v).flintOpen = s.flintOpen := rfl
@[simp] theorem State.setDom_insts (k : Nat) (v : List Byte) : (s.setDom k v).insts = s.insts := rfl
@[simp] theorem State.setDom_parts (k : Nat) (v : List Byte) : (s.setDom k v).parts = s.parts := rfl
@[simp] theorem State.setDom_caps (k : Nat) (v : List Byte) : (s.setDom k v).caps = s.caps := rfl
@[simp] theorem State.setDom_poison (k : Nat) (v : List Byte) : (s.setDom k v).poison = s.poison := rfl
@[simp] theorem State.setDom_streams (k : Nat) (v : List Byte) : (s.setDom k v).streams = s.streams := rfl
@[simp] theorem State.setDom_noticeSeq (k : Nat) (v : List Byte) : (s.setDom k v).noticeSeq = s.noticeSeq := rfl
@[simp] theorem State.setDom_leftRepeats (k : Nat) (v : List Byte) : (s.setDom k v).leftRepeats = s.leftRepeats := rfl
@[simp] theorem State.setDom_noticeArgs (k : Nat) (v : List Byte) : (s.setDom k v).noticeArgs = s.noticeArgs := rfl
@[simp] theorem State.setDom_lastBeat (k : Nat) (v : List Byte) : (s.setDom k v).lastBeat = s.lastBeat := rfl
@[simp] theorem State.setDom_wdHold (k : Nat) (v : List Byte) : (s.setDom k v).wdHold = s.wdHold := rfl
@[simp] theorem State.setDom_noticeTime (k : Nat) (v : List Byte) : (s.setDom k v).noticeTime = s.noticeTime := rfl
@[simp] theorem State.setDom_selfReq (k : Nat) (v : List Byte) : (s.setDom k v).selfReq = s.selfReq := rfl
@[simp] theorem State.setDom_overdue (k : Nat) (v : List Byte) : (s.setDom k v).overdue = s.overdue := rfl
@[simp] theorem State.setDom_strataQ (k : Nat) (v : List Byte) : (s.setDom k v).strataQ = s.strataQ := rfl
@[simp] theorem State.setDom_copyJob (k : Nat) (v : List Byte) : (s.setDom k v).copyJob = s.copyJob := rfl
@[simp] theorem State.setDom_copyHeld (k : Nat) (v : List Byte) : (s.setDom k v).copyHeld = s.copyHeld := rfl
@[simp] theorem State.setDom_strataDirty (k : Nat) (v : List Byte) : (s.setDom k v).strataDirty = s.strataDirty := rfl
@[simp] theorem State.setDom_domsOff (k : Nat) (v : List Byte) : (s.setDom k v).domsOff = s.domsOff := rfl
@[simp] theorem State.setDom_bucket (k : Nat) (v : List Byte) : (s.setDom k v).bucket = s.bucket := rfl
@[simp] theorem State.setDom_pool (k : Nat) (v : List Byte) : (s.setDom k v).pool = s.pool := rfl
@[simp] theorem State.setDom_eccUnits (k : Nat) (v : List Byte) : (s.setDom k v).eccUnits = s.eccUnits := rfl
@[simp] theorem State.setDom_retired (k : Nat) (v : List Byte) : (s.setDom k v).retired = s.retired := rfl
@[simp] theorem State.setDom_garnet (k : Nat) (v : List Byte) : (s.setDom k v).garnet = s.garnet := rfl
@[simp] theorem State.setDom_pipes (k : Nat) (v : List Byte) : (s.setDom k v).pipes = s.pipes := rfl
@[simp] theorem State.setDom_txq (k : Nat) (v : List Byte) : (s.setDom k v).txq = s.txq := rfl
@[simp] theorem State.setDom_txNext (k : Nat) (v : List Byte) : (s.setDom k v).txNext = s.txNext := rfl
@[simp] theorem State.setDom_tmplSeq (k : Nat) (v : List Byte) : (s.setDom k v).tmplSeq = s.tmplSeq := rfl
@[simp] theorem State.setDom_fdb (k : Nat) (v : List Byte) : (s.setDom k v).fdb = s.fdb := rfl
@[simp] theorem State.setDom_sas (k : Nat) (v : List Byte) : (s.setDom k v).sas = s.sas := rfl
@[simp] theorem State.setDom_canq (k : Nat) (v : List Byte) : (s.setDom k v).canq = s.canq := rfl
@[simp] theorem State.setDom_canOff (k : Nat) (v : List Byte) : (s.setDom k v).canOff = s.canOff := rfl
@[simp] theorem State.setDom_t1sq (k : Nat) (v : List Byte) : (s.setDom k v).t1sq = s.t1sq := rfl
@[simp] theorem State.setDom_wbuf (k : Nat) (v : List Byte) : (s.setDom k v).wbuf = s.wbuf := rfl
@[simp] theorem State.setDom_fetches (k : Nat) (v : List Byte) : (s.setDom k v).fetches = s.fetches := rfl
@[simp] theorem State.setDom_yielding (k : Nat) (v : List Byte) : (s.setDom k v).yielding = s.yielding := rfl
@[simp] theorem State.setDom_pcieRole (k : Nat) (v : List Byte) : (s.setDom k v).pcieRole = s.pcieRole := rfl
@[simp] theorem State.setDom_links (k : Nat) (v : List Byte) : (s.setDom k v).links = s.links := rfl
@[simp] theorem State.setDom_hosts (k : Nat) (v : List Byte) : (s.setDom k v).hosts = s.hosts := rfl
@[simp] theorem State.setDom_fws (k : Nat) (v : List Byte) : (s.setDom k v).fws = s.fws := rfl
@[simp] theorem State.setDom_reports (k : Nat) (v : List Byte) : (s.setDom k v).reports = s.reports := rfl
@[simp] theorem State.setDom_golden (k : Nat) (v : List Byte) : (s.setDom k v).golden = s.golden := rfl
@[simp] theorem State.setDom_power (k : Nat) (v : List Byte) : (s.setDom k v).power = s.power := rfl
@[simp] theorem State.setDom_powered (k : Nat) (v : List Byte) : (s.setDom k v).powered = s.powered := rfl
@[simp] theorem State.setDom_svcBoot (k : Nat) (v : List Byte) : (s.setDom k v).svcBoot = s.svcBoot := rfl
@[simp] theorem State.setDom_dead (k : Nat) (v : List Byte) : (s.setDom k v).dead = s.dead := rfl

/-! ### emit -/

@[simp] theorem State.emit_pending (o : Out) : (s.emit o).pending = s.pending := rfl
@[simp] theorem State.emit_now (o : Out) : (s.emit o).now = s.now := rfl
@[simp] theorem State.emit_tbRun (o : Out) : (s.emit o).tbRun = s.tbRun := rfl
@[simp] theorem State.emit_free (o : Out) : (s.emit o).free = s.free := rfl
@[simp] theorem State.emit_ileave (o : Out) : (s.emit o).ileave = s.ileave := rfl
@[simp] theorem State.emit_mem (o : Out) : (s.emit o).mem = s.mem := rfl
@[simp] theorem State.emit_objs (o : Out) : (s.emit o).objs = s.objs := rfl
@[simp] theorem State.emit_doms (o : Out) : (s.emit o).doms = s.doms := rfl
@[simp] theorem State.emit_ctxs (o : Out) : (s.emit o).ctxs = s.ctxs := rfl
@[simp] theorem State.emit_sessions (o : Out) : (s.emit o).sessions = s.sessions := rfl
@[simp] theorem State.emit_subs (o : Out) : (s.emit o).subs = s.subs := rfl
@[simp] theorem State.emit_storeJob (o : Out) : (s.emit o).storeJob = s.storeJob := rfl
@[simp] theorem State.emit_gdom (o : Out) : (s.emit o).gdom = s.gdom := rfl
@[simp] theorem State.emit_sel (o : Out) : (s.emit o).sel = s.sel := rfl
@[simp] theorem State.emit_everLocked (o : Out) : (s.emit o).everLocked = s.everLocked := rfl
@[simp] theorem State.emit_cadDue (o : Out) : (s.emit o).cadDue = s.cadDue := rfl
@[simp] theorem State.emit_cadK (o : Out) : (s.emit o).cadK = s.cadK := rfl
@[simp] theorem State.emit_trig (o : Out) : (s.emit o).trig = s.trig := rfl
@[simp] theorem State.emit_lode (o : Out) : (s.emit o).lode = s.lode := rfl
@[simp] theorem State.emit_capWin (o : Out) : (s.emit o).capWin = s.capWin := rfl
@[simp] theorem State.emit_cores (o : Out) : (s.emit o).cores = s.cores := rfl
@[simp] theorem State.emit_peb (o : Out) : (s.emit o).peb = s.peb := rfl
@[simp] theorem State.emit_coll (o : Out) : (s.emit o).coll = s.coll := rfl
@[simp] theorem State.emit_collCount (o : Out) : (s.emit o).collCount = s.collCount := rfl
@[simp] theorem State.emit_ledger (o : Out) : (s.emit o).ledger = s.ledger := rfl
@[simp] theorem State.emit_flintOpen (o : Out) : (s.emit o).flintOpen = s.flintOpen := rfl
@[simp] theorem State.emit_insts (o : Out) : (s.emit o).insts = s.insts := rfl
@[simp] theorem State.emit_parts (o : Out) : (s.emit o).parts = s.parts := rfl
@[simp] theorem State.emit_caps (o : Out) : (s.emit o).caps = s.caps := rfl
@[simp] theorem State.emit_poison (o : Out) : (s.emit o).poison = s.poison := rfl
@[simp] theorem State.emit_streams (o : Out) : (s.emit o).streams = s.streams := rfl
@[simp] theorem State.emit_noticeSeq (o : Out) : (s.emit o).noticeSeq = s.noticeSeq := rfl
@[simp] theorem State.emit_leftRepeats (o : Out) : (s.emit o).leftRepeats = s.leftRepeats := rfl
@[simp] theorem State.emit_noticeArgs (o : Out) : (s.emit o).noticeArgs = s.noticeArgs := rfl
@[simp] theorem State.emit_lastBeat (o : Out) : (s.emit o).lastBeat = s.lastBeat := rfl
@[simp] theorem State.emit_wdHold (o : Out) : (s.emit o).wdHold = s.wdHold := rfl
@[simp] theorem State.emit_noticeTime (o : Out) : (s.emit o).noticeTime = s.noticeTime := rfl
@[simp] theorem State.emit_selfReq (o : Out) : (s.emit o).selfReq = s.selfReq := rfl
@[simp] theorem State.emit_overdue (o : Out) : (s.emit o).overdue = s.overdue := rfl
@[simp] theorem State.emit_strataQ (o : Out) : (s.emit o).strataQ = s.strataQ := rfl
@[simp] theorem State.emit_copyJob (o : Out) : (s.emit o).copyJob = s.copyJob := rfl
@[simp] theorem State.emit_copyHeld (o : Out) : (s.emit o).copyHeld = s.copyHeld := rfl
@[simp] theorem State.emit_strataDirty (o : Out) : (s.emit o).strataDirty = s.strataDirty := rfl
@[simp] theorem State.emit_domsOff (o : Out) : (s.emit o).domsOff = s.domsOff := rfl
@[simp] theorem State.emit_bucket (o : Out) : (s.emit o).bucket = s.bucket := rfl
@[simp] theorem State.emit_pool (o : Out) : (s.emit o).pool = s.pool := rfl
@[simp] theorem State.emit_eccUnits (o : Out) : (s.emit o).eccUnits = s.eccUnits := rfl
@[simp] theorem State.emit_retired (o : Out) : (s.emit o).retired = s.retired := rfl
@[simp] theorem State.emit_garnet (o : Out) : (s.emit o).garnet = s.garnet := rfl
@[simp] theorem State.emit_pipes (o : Out) : (s.emit o).pipes = s.pipes := rfl
@[simp] theorem State.emit_txq (o : Out) : (s.emit o).txq = s.txq := rfl
@[simp] theorem State.emit_txNext (o : Out) : (s.emit o).txNext = s.txNext := rfl
@[simp] theorem State.emit_tmplSeq (o : Out) : (s.emit o).tmplSeq = s.tmplSeq := rfl
@[simp] theorem State.emit_fdb (o : Out) : (s.emit o).fdb = s.fdb := rfl
@[simp] theorem State.emit_sas (o : Out) : (s.emit o).sas = s.sas := rfl
@[simp] theorem State.emit_canq (o : Out) : (s.emit o).canq = s.canq := rfl
@[simp] theorem State.emit_canOff (o : Out) : (s.emit o).canOff = s.canOff := rfl
@[simp] theorem State.emit_t1sq (o : Out) : (s.emit o).t1sq = s.t1sq := rfl
@[simp] theorem State.emit_wbuf (o : Out) : (s.emit o).wbuf = s.wbuf := rfl
@[simp] theorem State.emit_fetches (o : Out) : (s.emit o).fetches = s.fetches := rfl
@[simp] theorem State.emit_yielding (o : Out) : (s.emit o).yielding = s.yielding := rfl
@[simp] theorem State.emit_pcieRole (o : Out) : (s.emit o).pcieRole = s.pcieRole := rfl
@[simp] theorem State.emit_links (o : Out) : (s.emit o).links = s.links := rfl
@[simp] theorem State.emit_hosts (o : Out) : (s.emit o).hosts = s.hosts := rfl
@[simp] theorem State.emit_fws (o : Out) : (s.emit o).fws = s.fws := rfl
@[simp] theorem State.emit_reports (o : Out) : (s.emit o).reports = s.reports := rfl
@[simp] theorem State.emit_golden (o : Out) : (s.emit o).golden = s.golden := rfl
@[simp] theorem State.emit_power (o : Out) : (s.emit o).power = s.power := rfl
@[simp] theorem State.emit_powered (o : Out) : (s.emit o).powered = s.powered := rfl
@[simp] theorem State.emit_svcBoot (o : Out) : (s.emit o).svcBoot = s.svcBoot := rfl
@[simp] theorem State.emit_dead (o : Out) : (s.emit o).dead = s.dead := rfl

/-! ### tookFree -/

@[simp] theorem State.tookFree_pending (k : Nat) : (s.tookFree k).pending = s.pending := rfl
@[simp] theorem State.tookFree_now (k : Nat) : (s.tookFree k).now = s.now := rfl
@[simp] theorem State.tookFree_tbRun (k : Nat) : (s.tookFree k).tbRun = s.tbRun := rfl
@[simp] theorem State.tookFree_out (k : Nat) : (s.tookFree k).out = s.out := rfl
@[simp] theorem State.tookFree_ileave (k : Nat) : (s.tookFree k).ileave = s.ileave := rfl
@[simp] theorem State.tookFree_mem (k : Nat) : (s.tookFree k).mem = s.mem := rfl
@[simp] theorem State.tookFree_objs (k : Nat) : (s.tookFree k).objs = s.objs := rfl
@[simp] theorem State.tookFree_doms (k : Nat) : (s.tookFree k).doms = s.doms := rfl
@[simp] theorem State.tookFree_ctxs (k : Nat) : (s.tookFree k).ctxs = s.ctxs := rfl
@[simp] theorem State.tookFree_sessions (k : Nat) : (s.tookFree k).sessions = s.sessions := rfl
@[simp] theorem State.tookFree_subs (k : Nat) : (s.tookFree k).subs = s.subs := rfl
@[simp] theorem State.tookFree_storeJob (k : Nat) : (s.tookFree k).storeJob = s.storeJob := rfl
@[simp] theorem State.tookFree_gdom (k : Nat) : (s.tookFree k).gdom = s.gdom := rfl
@[simp] theorem State.tookFree_sel (k : Nat) : (s.tookFree k).sel = s.sel := rfl
@[simp] theorem State.tookFree_everLocked (k : Nat) : (s.tookFree k).everLocked = s.everLocked := rfl
@[simp] theorem State.tookFree_cadDue (k : Nat) : (s.tookFree k).cadDue = s.cadDue := rfl
@[simp] theorem State.tookFree_cadK (k : Nat) : (s.tookFree k).cadK = s.cadK := rfl
@[simp] theorem State.tookFree_trig (k : Nat) : (s.tookFree k).trig = s.trig := rfl
@[simp] theorem State.tookFree_lode (k : Nat) : (s.tookFree k).lode = s.lode := rfl
@[simp] theorem State.tookFree_capWin (k : Nat) : (s.tookFree k).capWin = s.capWin := rfl
@[simp] theorem State.tookFree_cores (k : Nat) : (s.tookFree k).cores = s.cores := rfl
@[simp] theorem State.tookFree_peb (k : Nat) : (s.tookFree k).peb = s.peb := rfl
@[simp] theorem State.tookFree_coll (k : Nat) : (s.tookFree k).coll = s.coll := rfl
@[simp] theorem State.tookFree_collCount (k : Nat) : (s.tookFree k).collCount = s.collCount := rfl
@[simp] theorem State.tookFree_ledger (k : Nat) : (s.tookFree k).ledger = s.ledger := rfl
@[simp] theorem State.tookFree_flintOpen (k : Nat) : (s.tookFree k).flintOpen = s.flintOpen := rfl
@[simp] theorem State.tookFree_insts (k : Nat) : (s.tookFree k).insts = s.insts := rfl
@[simp] theorem State.tookFree_parts (k : Nat) : (s.tookFree k).parts = s.parts := rfl
@[simp] theorem State.tookFree_caps (k : Nat) : (s.tookFree k).caps = s.caps := rfl
@[simp] theorem State.tookFree_poison (k : Nat) : (s.tookFree k).poison = s.poison := rfl
@[simp] theorem State.tookFree_streams (k : Nat) : (s.tookFree k).streams = s.streams := rfl
@[simp] theorem State.tookFree_noticeSeq (k : Nat) : (s.tookFree k).noticeSeq = s.noticeSeq := rfl
@[simp] theorem State.tookFree_leftRepeats (k : Nat) : (s.tookFree k).leftRepeats = s.leftRepeats := rfl
@[simp] theorem State.tookFree_noticeArgs (k : Nat) : (s.tookFree k).noticeArgs = s.noticeArgs := rfl
@[simp] theorem State.tookFree_lastBeat (k : Nat) : (s.tookFree k).lastBeat = s.lastBeat := rfl
@[simp] theorem State.tookFree_wdHold (k : Nat) : (s.tookFree k).wdHold = s.wdHold := rfl
@[simp] theorem State.tookFree_noticeTime (k : Nat) : (s.tookFree k).noticeTime = s.noticeTime := rfl
@[simp] theorem State.tookFree_selfReq (k : Nat) : (s.tookFree k).selfReq = s.selfReq := rfl
@[simp] theorem State.tookFree_overdue (k : Nat) : (s.tookFree k).overdue = s.overdue := rfl
@[simp] theorem State.tookFree_strataQ (k : Nat) : (s.tookFree k).strataQ = s.strataQ := rfl
@[simp] theorem State.tookFree_copyJob (k : Nat) : (s.tookFree k).copyJob = s.copyJob := rfl
@[simp] theorem State.tookFree_copyHeld (k : Nat) : (s.tookFree k).copyHeld = s.copyHeld := rfl
@[simp] theorem State.tookFree_strataDirty (k : Nat) : (s.tookFree k).strataDirty = s.strataDirty := rfl
@[simp] theorem State.tookFree_domsOff (k : Nat) : (s.tookFree k).domsOff = s.domsOff := rfl
@[simp] theorem State.tookFree_bucket (k : Nat) : (s.tookFree k).bucket = s.bucket := rfl
@[simp] theorem State.tookFree_pool (k : Nat) : (s.tookFree k).pool = s.pool := rfl
@[simp] theorem State.tookFree_eccUnits (k : Nat) : (s.tookFree k).eccUnits = s.eccUnits := rfl
@[simp] theorem State.tookFree_retired (k : Nat) : (s.tookFree k).retired = s.retired := rfl
@[simp] theorem State.tookFree_garnet (k : Nat) : (s.tookFree k).garnet = s.garnet := rfl
@[simp] theorem State.tookFree_pipes (k : Nat) : (s.tookFree k).pipes = s.pipes := rfl
@[simp] theorem State.tookFree_txq (k : Nat) : (s.tookFree k).txq = s.txq := rfl
@[simp] theorem State.tookFree_txNext (k : Nat) : (s.tookFree k).txNext = s.txNext := rfl
@[simp] theorem State.tookFree_tmplSeq (k : Nat) : (s.tookFree k).tmplSeq = s.tmplSeq := rfl
@[simp] theorem State.tookFree_fdb (k : Nat) : (s.tookFree k).fdb = s.fdb := rfl
@[simp] theorem State.tookFree_sas (k : Nat) : (s.tookFree k).sas = s.sas := rfl
@[simp] theorem State.tookFree_canq (k : Nat) : (s.tookFree k).canq = s.canq := rfl
@[simp] theorem State.tookFree_canOff (k : Nat) : (s.tookFree k).canOff = s.canOff := rfl
@[simp] theorem State.tookFree_t1sq (k : Nat) : (s.tookFree k).t1sq = s.t1sq := rfl
@[simp] theorem State.tookFree_wbuf (k : Nat) : (s.tookFree k).wbuf = s.wbuf := rfl
@[simp] theorem State.tookFree_fetches (k : Nat) : (s.tookFree k).fetches = s.fetches := rfl
@[simp] theorem State.tookFree_yielding (k : Nat) : (s.tookFree k).yielding = s.yielding := rfl
@[simp] theorem State.tookFree_pcieRole (k : Nat) : (s.tookFree k).pcieRole = s.pcieRole := rfl
@[simp] theorem State.tookFree_links (k : Nat) : (s.tookFree k).links = s.links := rfl
@[simp] theorem State.tookFree_hosts (k : Nat) : (s.tookFree k).hosts = s.hosts := rfl
@[simp] theorem State.tookFree_fws (k : Nat) : (s.tookFree k).fws = s.fws := rfl
@[simp] theorem State.tookFree_reports (k : Nat) : (s.tookFree k).reports = s.reports := rfl
@[simp] theorem State.tookFree_golden (k : Nat) : (s.tookFree k).golden = s.golden := rfl
@[simp] theorem State.tookFree_power (k : Nat) : (s.tookFree k).power = s.power := rfl
@[simp] theorem State.tookFree_powered (k : Nat) : (s.tookFree k).powered = s.powered := rfl
@[simp] theorem State.tookFree_svcBoot (k : Nat) : (s.tookFree k).svcBoot = s.svcBoot := rfl
@[simp] theorem State.tookFree_dead (k : Nat) : (s.tookFree k).dead = s.dead := rfl

/-! ### setCore -/

@[simp] theorem State.setCore_pending (n : Nat) (c : CoreSt) : (s.setCore n c).pending = s.pending := rfl
@[simp] theorem State.setCore_now (n : Nat) (c : CoreSt) : (s.setCore n c).now = s.now := rfl
@[simp] theorem State.setCore_tbRun (n : Nat) (c : CoreSt) : (s.setCore n c).tbRun = s.tbRun := rfl
@[simp] theorem State.setCore_free (n : Nat) (c : CoreSt) : (s.setCore n c).free = s.free := rfl
@[simp] theorem State.setCore_out (n : Nat) (c : CoreSt) : (s.setCore n c).out = s.out := rfl
@[simp] theorem State.setCore_ileave (n : Nat) (c : CoreSt) : (s.setCore n c).ileave = s.ileave := rfl
@[simp] theorem State.setCore_mem (n : Nat) (c : CoreSt) : (s.setCore n c).mem = s.mem := rfl
@[simp] theorem State.setCore_objs (n : Nat) (c : CoreSt) : (s.setCore n c).objs = s.objs := rfl
@[simp] theorem State.setCore_doms (n : Nat) (c : CoreSt) : (s.setCore n c).doms = s.doms := rfl
@[simp] theorem State.setCore_ctxs (n : Nat) (c : CoreSt) : (s.setCore n c).ctxs = s.ctxs := rfl
@[simp] theorem State.setCore_sessions (n : Nat) (c : CoreSt) : (s.setCore n c).sessions = s.sessions := rfl
@[simp] theorem State.setCore_subs (n : Nat) (c : CoreSt) : (s.setCore n c).subs = s.subs := rfl
@[simp] theorem State.setCore_storeJob (n : Nat) (c : CoreSt) : (s.setCore n c).storeJob = s.storeJob := rfl
@[simp] theorem State.setCore_gdom (n : Nat) (c : CoreSt) : (s.setCore n c).gdom = s.gdom := rfl
@[simp] theorem State.setCore_sel (n : Nat) (c : CoreSt) : (s.setCore n c).sel = s.sel := rfl
@[simp] theorem State.setCore_everLocked (n : Nat) (c : CoreSt) : (s.setCore n c).everLocked = s.everLocked := rfl
@[simp] theorem State.setCore_cadDue (n : Nat) (c : CoreSt) : (s.setCore n c).cadDue = s.cadDue := rfl
@[simp] theorem State.setCore_cadK (n : Nat) (c : CoreSt) : (s.setCore n c).cadK = s.cadK := rfl
@[simp] theorem State.setCore_trig (n : Nat) (c : CoreSt) : (s.setCore n c).trig = s.trig := rfl
@[simp] theorem State.setCore_lode (n : Nat) (c : CoreSt) : (s.setCore n c).lode = s.lode := rfl
@[simp] theorem State.setCore_capWin (n : Nat) (c : CoreSt) : (s.setCore n c).capWin = s.capWin := rfl
@[simp] theorem State.setCore_peb (n : Nat) (c : CoreSt) : (s.setCore n c).peb = s.peb := rfl
@[simp] theorem State.setCore_coll (n : Nat) (c : CoreSt) : (s.setCore n c).coll = s.coll := rfl
@[simp] theorem State.setCore_collCount (n : Nat) (c : CoreSt) : (s.setCore n c).collCount = s.collCount := rfl
@[simp] theorem State.setCore_ledger (n : Nat) (c : CoreSt) : (s.setCore n c).ledger = s.ledger := rfl
@[simp] theorem State.setCore_flintOpen (n : Nat) (c : CoreSt) : (s.setCore n c).flintOpen = s.flintOpen := rfl
@[simp] theorem State.setCore_insts (n : Nat) (c : CoreSt) : (s.setCore n c).insts = s.insts := rfl
@[simp] theorem State.setCore_parts (n : Nat) (c : CoreSt) : (s.setCore n c).parts = s.parts := rfl
@[simp] theorem State.setCore_caps (n : Nat) (c : CoreSt) : (s.setCore n c).caps = s.caps := rfl
@[simp] theorem State.setCore_poison (n : Nat) (c : CoreSt) : (s.setCore n c).poison = s.poison := rfl
@[simp] theorem State.setCore_streams (n : Nat) (c : CoreSt) : (s.setCore n c).streams = s.streams := rfl
@[simp] theorem State.setCore_noticeSeq (n : Nat) (c : CoreSt) : (s.setCore n c).noticeSeq = s.noticeSeq := rfl
@[simp] theorem State.setCore_leftRepeats (n : Nat) (c : CoreSt) : (s.setCore n c).leftRepeats = s.leftRepeats := rfl
@[simp] theorem State.setCore_noticeArgs (n : Nat) (c : CoreSt) : (s.setCore n c).noticeArgs = s.noticeArgs := rfl
@[simp] theorem State.setCore_lastBeat (n : Nat) (c : CoreSt) : (s.setCore n c).lastBeat = s.lastBeat := rfl
@[simp] theorem State.setCore_wdHold (n : Nat) (c : CoreSt) : (s.setCore n c).wdHold = s.wdHold := rfl
@[simp] theorem State.setCore_noticeTime (n : Nat) (c : CoreSt) : (s.setCore n c).noticeTime = s.noticeTime := rfl
@[simp] theorem State.setCore_selfReq (n : Nat) (c : CoreSt) : (s.setCore n c).selfReq = s.selfReq := rfl
@[simp] theorem State.setCore_overdue (n : Nat) (c : CoreSt) : (s.setCore n c).overdue = s.overdue := rfl
@[simp] theorem State.setCore_strataQ (n : Nat) (c : CoreSt) : (s.setCore n c).strataQ = s.strataQ := rfl
@[simp] theorem State.setCore_copyJob (n : Nat) (c : CoreSt) : (s.setCore n c).copyJob = s.copyJob := rfl
@[simp] theorem State.setCore_copyHeld (n : Nat) (c : CoreSt) : (s.setCore n c).copyHeld = s.copyHeld := rfl
@[simp] theorem State.setCore_strataDirty (n : Nat) (c : CoreSt) : (s.setCore n c).strataDirty = s.strataDirty := rfl
@[simp] theorem State.setCore_domsOff (n : Nat) (c : CoreSt) : (s.setCore n c).domsOff = s.domsOff := rfl
@[simp] theorem State.setCore_bucket (n : Nat) (c : CoreSt) : (s.setCore n c).bucket = s.bucket := rfl
@[simp] theorem State.setCore_pool (n : Nat) (c : CoreSt) : (s.setCore n c).pool = s.pool := rfl
@[simp] theorem State.setCore_eccUnits (n : Nat) (c : CoreSt) : (s.setCore n c).eccUnits = s.eccUnits := rfl
@[simp] theorem State.setCore_retired (n : Nat) (c : CoreSt) : (s.setCore n c).retired = s.retired := rfl
@[simp] theorem State.setCore_garnet (n : Nat) (c : CoreSt) : (s.setCore n c).garnet = s.garnet := rfl
@[simp] theorem State.setCore_pipes (n : Nat) (c : CoreSt) : (s.setCore n c).pipes = s.pipes := rfl
@[simp] theorem State.setCore_txq (n : Nat) (c : CoreSt) : (s.setCore n c).txq = s.txq := rfl
@[simp] theorem State.setCore_txNext (n : Nat) (c : CoreSt) : (s.setCore n c).txNext = s.txNext := rfl
@[simp] theorem State.setCore_tmplSeq (n : Nat) (c : CoreSt) : (s.setCore n c).tmplSeq = s.tmplSeq := rfl
@[simp] theorem State.setCore_fdb (n : Nat) (c : CoreSt) : (s.setCore n c).fdb = s.fdb := rfl
@[simp] theorem State.setCore_sas (n : Nat) (c : CoreSt) : (s.setCore n c).sas = s.sas := rfl
@[simp] theorem State.setCore_canq (n : Nat) (c : CoreSt) : (s.setCore n c).canq = s.canq := rfl
@[simp] theorem State.setCore_canOff (n : Nat) (c : CoreSt) : (s.setCore n c).canOff = s.canOff := rfl
@[simp] theorem State.setCore_t1sq (n : Nat) (c : CoreSt) : (s.setCore n c).t1sq = s.t1sq := rfl
@[simp] theorem State.setCore_wbuf (n : Nat) (c : CoreSt) : (s.setCore n c).wbuf = s.wbuf := rfl
@[simp] theorem State.setCore_fetches (n : Nat) (c : CoreSt) : (s.setCore n c).fetches = s.fetches := rfl
@[simp] theorem State.setCore_yielding (n : Nat) (c : CoreSt) : (s.setCore n c).yielding = s.yielding := rfl
@[simp] theorem State.setCore_pcieRole (n : Nat) (c : CoreSt) : (s.setCore n c).pcieRole = s.pcieRole := rfl
@[simp] theorem State.setCore_links (n : Nat) (c : CoreSt) : (s.setCore n c).links = s.links := rfl
@[simp] theorem State.setCore_hosts (n : Nat) (c : CoreSt) : (s.setCore n c).hosts = s.hosts := rfl
@[simp] theorem State.setCore_fws (n : Nat) (c : CoreSt) : (s.setCore n c).fws = s.fws := rfl
@[simp] theorem State.setCore_reports (n : Nat) (c : CoreSt) : (s.setCore n c).reports = s.reports := rfl
@[simp] theorem State.setCore_golden (n : Nat) (c : CoreSt) : (s.setCore n c).golden = s.golden := rfl
@[simp] theorem State.setCore_power (n : Nat) (c : CoreSt) : (s.setCore n c).power = s.power := rfl
@[simp] theorem State.setCore_powered (n : Nat) (c : CoreSt) : (s.setCore n c).powered = s.powered := rfl
@[simp] theorem State.setCore_svcBoot (n : Nat) (c : CoreSt) : (s.setCore n c).svcBoot = s.svcBoot := rfl
@[simp] theorem State.setCore_dead (n : Nat) (c : CoreSt) : (s.setCore n c).dead = s.dead := rfl

/-! ### setInst -/

@[simp] theorem State.setInst_pending (m : Nat) (x : InstSt) : (s.setInst m x).pending = s.pending := rfl
@[simp] theorem State.setInst_now (m : Nat) (x : InstSt) : (s.setInst m x).now = s.now := rfl
@[simp] theorem State.setInst_tbRun (m : Nat) (x : InstSt) : (s.setInst m x).tbRun = s.tbRun := rfl
@[simp] theorem State.setInst_free (m : Nat) (x : InstSt) : (s.setInst m x).free = s.free := rfl
@[simp] theorem State.setInst_out (m : Nat) (x : InstSt) : (s.setInst m x).out = s.out := rfl
@[simp] theorem State.setInst_ileave (m : Nat) (x : InstSt) : (s.setInst m x).ileave = s.ileave := rfl
@[simp] theorem State.setInst_mem (m : Nat) (x : InstSt) : (s.setInst m x).mem = s.mem := rfl
@[simp] theorem State.setInst_objs (m : Nat) (x : InstSt) : (s.setInst m x).objs = s.objs := rfl
@[simp] theorem State.setInst_doms (m : Nat) (x : InstSt) : (s.setInst m x).doms = s.doms := rfl
@[simp] theorem State.setInst_ctxs (m : Nat) (x : InstSt) : (s.setInst m x).ctxs = s.ctxs := rfl
@[simp] theorem State.setInst_sessions (m : Nat) (x : InstSt) : (s.setInst m x).sessions = s.sessions := rfl
@[simp] theorem State.setInst_subs (m : Nat) (x : InstSt) : (s.setInst m x).subs = s.subs := rfl
@[simp] theorem State.setInst_storeJob (m : Nat) (x : InstSt) : (s.setInst m x).storeJob = s.storeJob := rfl
@[simp] theorem State.setInst_gdom (m : Nat) (x : InstSt) : (s.setInst m x).gdom = s.gdom := rfl
@[simp] theorem State.setInst_sel (m : Nat) (x : InstSt) : (s.setInst m x).sel = s.sel := rfl
@[simp] theorem State.setInst_everLocked (m : Nat) (x : InstSt) : (s.setInst m x).everLocked = s.everLocked := rfl
@[simp] theorem State.setInst_cadDue (m : Nat) (x : InstSt) : (s.setInst m x).cadDue = s.cadDue := rfl
@[simp] theorem State.setInst_cadK (m : Nat) (x : InstSt) : (s.setInst m x).cadK = s.cadK := rfl
@[simp] theorem State.setInst_trig (m : Nat) (x : InstSt) : (s.setInst m x).trig = s.trig := rfl
@[simp] theorem State.setInst_lode (m : Nat) (x : InstSt) : (s.setInst m x).lode = s.lode := rfl
@[simp] theorem State.setInst_capWin (m : Nat) (x : InstSt) : (s.setInst m x).capWin = s.capWin := rfl
@[simp] theorem State.setInst_cores (m : Nat) (x : InstSt) : (s.setInst m x).cores = s.cores := rfl
@[simp] theorem State.setInst_peb (m : Nat) (x : InstSt) : (s.setInst m x).peb = s.peb := rfl
@[simp] theorem State.setInst_coll (m : Nat) (x : InstSt) : (s.setInst m x).coll = s.coll := rfl
@[simp] theorem State.setInst_collCount (m : Nat) (x : InstSt) : (s.setInst m x).collCount = s.collCount := rfl
@[simp] theorem State.setInst_ledger (m : Nat) (x : InstSt) : (s.setInst m x).ledger = s.ledger := rfl
@[simp] theorem State.setInst_flintOpen (m : Nat) (x : InstSt) : (s.setInst m x).flintOpen = s.flintOpen := rfl
@[simp] theorem State.setInst_parts (m : Nat) (x : InstSt) : (s.setInst m x).parts = s.parts := rfl
@[simp] theorem State.setInst_caps (m : Nat) (x : InstSt) : (s.setInst m x).caps = s.caps := rfl
@[simp] theorem State.setInst_poison (m : Nat) (x : InstSt) : (s.setInst m x).poison = s.poison := rfl
@[simp] theorem State.setInst_streams (m : Nat) (x : InstSt) : (s.setInst m x).streams = s.streams := rfl
@[simp] theorem State.setInst_noticeSeq (m : Nat) (x : InstSt) : (s.setInst m x).noticeSeq = s.noticeSeq := rfl
@[simp] theorem State.setInst_leftRepeats (m : Nat) (x : InstSt) : (s.setInst m x).leftRepeats = s.leftRepeats := rfl
@[simp] theorem State.setInst_noticeArgs (m : Nat) (x : InstSt) : (s.setInst m x).noticeArgs = s.noticeArgs := rfl
@[simp] theorem State.setInst_lastBeat (m : Nat) (x : InstSt) : (s.setInst m x).lastBeat = s.lastBeat := rfl
@[simp] theorem State.setInst_wdHold (m : Nat) (x : InstSt) : (s.setInst m x).wdHold = s.wdHold := rfl
@[simp] theorem State.setInst_noticeTime (m : Nat) (x : InstSt) : (s.setInst m x).noticeTime = s.noticeTime := rfl
@[simp] theorem State.setInst_selfReq (m : Nat) (x : InstSt) : (s.setInst m x).selfReq = s.selfReq := rfl
@[simp] theorem State.setInst_overdue (m : Nat) (x : InstSt) : (s.setInst m x).overdue = s.overdue := rfl
@[simp] theorem State.setInst_strataQ (m : Nat) (x : InstSt) : (s.setInst m x).strataQ = s.strataQ := rfl
@[simp] theorem State.setInst_copyJob (m : Nat) (x : InstSt) : (s.setInst m x).copyJob = s.copyJob := rfl
@[simp] theorem State.setInst_copyHeld (m : Nat) (x : InstSt) : (s.setInst m x).copyHeld = s.copyHeld := rfl
@[simp] theorem State.setInst_strataDirty (m : Nat) (x : InstSt) : (s.setInst m x).strataDirty = s.strataDirty := rfl
@[simp] theorem State.setInst_domsOff (m : Nat) (x : InstSt) : (s.setInst m x).domsOff = s.domsOff := rfl
@[simp] theorem State.setInst_bucket (m : Nat) (x : InstSt) : (s.setInst m x).bucket = s.bucket := rfl
@[simp] theorem State.setInst_pool (m : Nat) (x : InstSt) : (s.setInst m x).pool = s.pool := rfl
@[simp] theorem State.setInst_eccUnits (m : Nat) (x : InstSt) : (s.setInst m x).eccUnits = s.eccUnits := rfl
@[simp] theorem State.setInst_retired (m : Nat) (x : InstSt) : (s.setInst m x).retired = s.retired := rfl
@[simp] theorem State.setInst_garnet (m : Nat) (x : InstSt) : (s.setInst m x).garnet = s.garnet := rfl
@[simp] theorem State.setInst_pipes (m : Nat) (x : InstSt) : (s.setInst m x).pipes = s.pipes := rfl
@[simp] theorem State.setInst_txq (m : Nat) (x : InstSt) : (s.setInst m x).txq = s.txq := rfl
@[simp] theorem State.setInst_txNext (m : Nat) (x : InstSt) : (s.setInst m x).txNext = s.txNext := rfl
@[simp] theorem State.setInst_tmplSeq (m : Nat) (x : InstSt) : (s.setInst m x).tmplSeq = s.tmplSeq := rfl
@[simp] theorem State.setInst_fdb (m : Nat) (x : InstSt) : (s.setInst m x).fdb = s.fdb := rfl
@[simp] theorem State.setInst_sas (m : Nat) (x : InstSt) : (s.setInst m x).sas = s.sas := rfl
@[simp] theorem State.setInst_canq (m : Nat) (x : InstSt) : (s.setInst m x).canq = s.canq := rfl
@[simp] theorem State.setInst_canOff (m : Nat) (x : InstSt) : (s.setInst m x).canOff = s.canOff := rfl
@[simp] theorem State.setInst_t1sq (m : Nat) (x : InstSt) : (s.setInst m x).t1sq = s.t1sq := rfl
@[simp] theorem State.setInst_wbuf (m : Nat) (x : InstSt) : (s.setInst m x).wbuf = s.wbuf := rfl
@[simp] theorem State.setInst_fetches (m : Nat) (x : InstSt) : (s.setInst m x).fetches = s.fetches := rfl
@[simp] theorem State.setInst_yielding (m : Nat) (x : InstSt) : (s.setInst m x).yielding = s.yielding := rfl
@[simp] theorem State.setInst_pcieRole (m : Nat) (x : InstSt) : (s.setInst m x).pcieRole = s.pcieRole := rfl
@[simp] theorem State.setInst_links (m : Nat) (x : InstSt) : (s.setInst m x).links = s.links := rfl
@[simp] theorem State.setInst_hosts (m : Nat) (x : InstSt) : (s.setInst m x).hosts = s.hosts := rfl
@[simp] theorem State.setInst_fws (m : Nat) (x : InstSt) : (s.setInst m x).fws = s.fws := rfl
@[simp] theorem State.setInst_reports (m : Nat) (x : InstSt) : (s.setInst m x).reports = s.reports := rfl
@[simp] theorem State.setInst_golden (m : Nat) (x : InstSt) : (s.setInst m x).golden = s.golden := rfl
@[simp] theorem State.setInst_power (m : Nat) (x : InstSt) : (s.setInst m x).power = s.power := rfl
@[simp] theorem State.setInst_powered (m : Nat) (x : InstSt) : (s.setInst m x).powered = s.powered := rfl
@[simp] theorem State.setInst_svcBoot (m : Nat) (x : InstSt) : (s.setInst m x).svcBoot = s.svcBoot := rfl
@[simp] theorem State.setInst_dead (m : Nat) (x : InstSt) : (s.setInst m x).dead = s.dead := rfl

/-! ### Reads after writes -/

@[simp] theorem State.obj_setObj (k j : Nat) (v : Word64) : (s.setObj k v).obj j = if k = j then v else s.obj j := by
  simp [State.obj, State.setObj]
@[simp] theorem State.dom_setDom (k j : Nat) (v : List Byte) : (s.setDom k v).dom j = if k = j then v else s.dom j := by
  simp [State.dom, State.setDom]
@[simp] theorem State.core_setCore (n j : Nat) (c : CoreSt) : (s.setCore n c).core j = if n = j then c else s.core j := by
  simp [State.core, State.setCore]
@[simp] theorem State.inst_setInst (m j : Nat) (x : InstSt) : (s.setInst m x).inst j = if m = j then x else s.inst j := by
  simp [State.inst, State.setInst]
@[simp] theorem State.dom_setObj (k : Nat) (v : Word64) (j : Nat) : (s.setObj k v).dom j = s.dom j := rfl
@[simp] theorem State.core_setObj (k : Nat) (v : Word64) (j : Nat) : (s.setObj k v).core j = s.core j := rfl
@[simp] theorem State.inst_setObj (k : Nat) (v : Word64) (j : Nat) : (s.setObj k v).inst j = s.inst j := rfl
@[simp] theorem State.byte_setObj (k : Nat) (v : Word64) (a : Nat) : (s.setObj k v).byte a = s.byte a := rfl
@[simp] theorem State.obj_setDom (k : Nat) (v : List Byte) (j : Nat) : (s.setDom k v).obj j = s.obj j := rfl
@[simp] theorem State.core_setDom (k : Nat) (v : List Byte) (j : Nat) : (s.setDom k v).core j = s.core j := rfl
@[simp] theorem State.inst_setDom (k : Nat) (v : List Byte) (j : Nat) : (s.setDom k v).inst j = s.inst j := rfl
@[simp] theorem State.byte_setDom (k : Nat) (v : List Byte) (a : Nat) : (s.setDom k v).byte a = s.byte a := rfl
@[simp] theorem State.obj_emit (o : Out) (j : Nat) : (s.emit o).obj j = s.obj j := rfl
@[simp] theorem State.dom_emit (o : Out) (j : Nat) : (s.emit o).dom j = s.dom j := rfl
@[simp] theorem State.core_emit (o : Out) (j : Nat) : (s.emit o).core j = s.core j := rfl
@[simp] theorem State.inst_emit (o : Out) (j : Nat) : (s.emit o).inst j = s.inst j := rfl
@[simp] theorem State.byte_emit (o : Out) (a : Nat) : (s.emit o).byte a = s.byte a := rfl
@[simp] theorem State.obj_tookFree (k : Nat) (j : Nat) : (s.tookFree k).obj j = s.obj j := rfl
@[simp] theorem State.dom_tookFree (k : Nat) (j : Nat) : (s.tookFree k).dom j = s.dom j := rfl
@[simp] theorem State.core_tookFree (k : Nat) (j : Nat) : (s.tookFree k).core j = s.core j := rfl
@[simp] theorem State.inst_tookFree (k : Nat) (j : Nat) : (s.tookFree k).inst j = s.inst j := rfl
@[simp] theorem State.obj_setCore (n : Nat) (c : CoreSt) (j : Nat) : (s.setCore n c).obj j = s.obj j := rfl
@[simp] theorem State.dom_setCore (n : Nat) (c : CoreSt) (j : Nat) : (s.setCore n c).dom j = s.dom j := rfl
@[simp] theorem State.inst_setCore (n : Nat) (c : CoreSt) (j : Nat) : (s.setCore n c).inst j = s.inst j := rfl
@[simp] theorem State.byte_setCore (n : Nat) (c : CoreSt) (a : Nat) : (s.setCore n c).byte a = s.byte a := rfl
@[simp] theorem State.obj_setInst (m : Nat) (x : InstSt) (j : Nat) : (s.setInst m x).obj j = s.obj j := rfl
@[simp] theorem State.dom_setInst (m : Nat) (x : InstSt) (j : Nat) : (s.setInst m x).dom j = s.dom j := rfl
@[simp] theorem State.core_setInst (m : Nat) (x : InstSt) (j : Nat) : (s.setInst m x).core j = s.core j := rfl
@[simp] theorem State.byte_setInst (m : Nat) (x : InstSt) (a : Nat) : (s.setInst m x).byte a = s.byte a := rfl

theorem State.objN_eq (k : Nat) : s.objN k = (s.obj k).toNat := rfl
theorem State.oBit_eq (k i : Nat) : s.oBit k i = bit (s.obj k) i := rfl
theorem State.setN_eq (k n : Nat) : s.setN k n = s.setObj k (BitVec.ofNat 64 n) := rfl
theorem State.orObj_eq (k m : Nat) : s.orObj k m = s.setObj k (s.obj k ||| BitVec.ofNat 64 m) := rfl
theorem State.clrObj_eq (k m : Nat) : s.clrObj k m = s.setObj k (s.obj k &&& ~~~(BitVec.ofNat 64 m)) := rfl
theorem State.count_eq (k n b : Nat) : s.count k n b = s.setObj k (incWrap n (s.obj k) b) := rfl
theorem State.countSat_eq (k n b : Nat) : s.countSat k n b = s.setObj k (incSat n (s.obj k) b) := rfl
theorem State.upCore_eq (n : Nat) (f : CoreSt → CoreSt) : s.upCore n f = s.setCore n (f (s.core n)) := rfl
theorem State.upInst_eq (m : Nat) (f : InstSt → InstSt) : s.upInst m f = s.setInst m (f (s.inst m)) := rfl

/-! ### Memory -/

/-- A store to one byte changes the listed bytes alone. -/
theorem State.putByte_eq (a : Nat) (b : Byte) : s.putByte a b = { s with mem := (s.putByte a b).mem } := by
  unfold State.putByte; split <;> rfl

theorem State.putBytes_eq (s : State) (a : Nat) (bs : List Byte) : s.putBytes a bs = { s with mem := (s.putBytes a bs).mem } := by
  induction bs generalizing s a with
  | nil => rfl
  | cons b bs ih =>
    have h := ih (s.putByte a b) (a + 1)
    rw [State.putBytes, h, State.putByte_eq]

/-- A store changes the listed bytes and the poison alone. -/
theorem State.wr_eq (s : State) (a : Nat) (bs : List Byte) : s.wr a bs = { s with mem := (s.wr a bs).mem, poison := (s.wr a bs).poison } := by
  have h := State.putBytes_eq s a bs
  simp only [State.wr]
  split <;> (rw [h])

@[simp] theorem State.wr_pending (a : Nat) (bs : List Byte) : (s.wr a bs).pending = s.pending := by rw [State.wr_eq]
@[simp] theorem State.wr_now (a : Nat) (bs : List Byte) : (s.wr a bs).now = s.now := by rw [State.wr_eq]
@[simp] theorem State.wr_tbRun (a : Nat) (bs : List Byte) : (s.wr a bs).tbRun = s.tbRun := by rw [State.wr_eq]
@[simp] theorem State.wr_free (a : Nat) (bs : List Byte) : (s.wr a bs).free = s.free := by rw [State.wr_eq]
@[simp] theorem State.wr_out (a : Nat) (bs : List Byte) : (s.wr a bs).out = s.out := by rw [State.wr_eq]
@[simp] theorem State.wr_ileave (a : Nat) (bs : List Byte) : (s.wr a bs).ileave = s.ileave := by rw [State.wr_eq]
@[simp] theorem State.wr_objs (a : Nat) (bs : List Byte) : (s.wr a bs).objs = s.objs := by rw [State.wr_eq]
@[simp] theorem State.wr_doms (a : Nat) (bs : List Byte) : (s.wr a bs).doms = s.doms := by rw [State.wr_eq]
@[simp] theorem State.wr_ctxs (a : Nat) (bs : List Byte) : (s.wr a bs).ctxs = s.ctxs := by rw [State.wr_eq]
@[simp] theorem State.wr_sessions (a : Nat) (bs : List Byte) : (s.wr a bs).sessions = s.sessions := by rw [State.wr_eq]
@[simp] theorem State.wr_subs (a : Nat) (bs : List Byte) : (s.wr a bs).subs = s.subs := by rw [State.wr_eq]
@[simp] theorem State.wr_storeJob (a : Nat) (bs : List Byte) : (s.wr a bs).storeJob = s.storeJob := by rw [State.wr_eq]
@[simp] theorem State.wr_gdom (a : Nat) (bs : List Byte) : (s.wr a bs).gdom = s.gdom := by rw [State.wr_eq]
@[simp] theorem State.wr_sel (a : Nat) (bs : List Byte) : (s.wr a bs).sel = s.sel := by rw [State.wr_eq]
@[simp] theorem State.wr_everLocked (a : Nat) (bs : List Byte) : (s.wr a bs).everLocked = s.everLocked := by rw [State.wr_eq]
@[simp] theorem State.wr_cadDue (a : Nat) (bs : List Byte) : (s.wr a bs).cadDue = s.cadDue := by rw [State.wr_eq]
@[simp] theorem State.wr_cadK (a : Nat) (bs : List Byte) : (s.wr a bs).cadK = s.cadK := by rw [State.wr_eq]
@[simp] theorem State.wr_trig (a : Nat) (bs : List Byte) : (s.wr a bs).trig = s.trig := by rw [State.wr_eq]
@[simp] theorem State.wr_lode (a : Nat) (bs : List Byte) : (s.wr a bs).lode = s.lode := by rw [State.wr_eq]
@[simp] theorem State.wr_capWin (a : Nat) (bs : List Byte) : (s.wr a bs).capWin = s.capWin := by rw [State.wr_eq]
@[simp] theorem State.wr_cores (a : Nat) (bs : List Byte) : (s.wr a bs).cores = s.cores := by rw [State.wr_eq]
@[simp] theorem State.wr_peb (a : Nat) (bs : List Byte) : (s.wr a bs).peb = s.peb := by rw [State.wr_eq]
@[simp] theorem State.wr_coll (a : Nat) (bs : List Byte) : (s.wr a bs).coll = s.coll := by rw [State.wr_eq]
@[simp] theorem State.wr_collCount (a : Nat) (bs : List Byte) : (s.wr a bs).collCount = s.collCount := by rw [State.wr_eq]
@[simp] theorem State.wr_ledger (a : Nat) (bs : List Byte) : (s.wr a bs).ledger = s.ledger := by rw [State.wr_eq]
@[simp] theorem State.wr_flintOpen (a : Nat) (bs : List Byte) : (s.wr a bs).flintOpen = s.flintOpen := by rw [State.wr_eq]
@[simp] theorem State.wr_insts (a : Nat) (bs : List Byte) : (s.wr a bs).insts = s.insts := by rw [State.wr_eq]
@[simp] theorem State.wr_parts (a : Nat) (bs : List Byte) : (s.wr a bs).parts = s.parts := by rw [State.wr_eq]
@[simp] theorem State.wr_caps (a : Nat) (bs : List Byte) : (s.wr a bs).caps = s.caps := by rw [State.wr_eq]
@[simp] theorem State.wr_streams (a : Nat) (bs : List Byte) : (s.wr a bs).streams = s.streams := by rw [State.wr_eq]
@[simp] theorem State.wr_noticeSeq (a : Nat) (bs : List Byte) : (s.wr a bs).noticeSeq = s.noticeSeq := by rw [State.wr_eq]
@[simp] theorem State.wr_leftRepeats (a : Nat) (bs : List Byte) : (s.wr a bs).leftRepeats = s.leftRepeats := by rw [State.wr_eq]
@[simp] theorem State.wr_noticeArgs (a : Nat) (bs : List Byte) : (s.wr a bs).noticeArgs = s.noticeArgs := by rw [State.wr_eq]
@[simp] theorem State.wr_lastBeat (a : Nat) (bs : List Byte) : (s.wr a bs).lastBeat = s.lastBeat := by rw [State.wr_eq]
@[simp] theorem State.wr_wdHold (a : Nat) (bs : List Byte) : (s.wr a bs).wdHold = s.wdHold := by rw [State.wr_eq]
@[simp] theorem State.wr_noticeTime (a : Nat) (bs : List Byte) : (s.wr a bs).noticeTime = s.noticeTime := by rw [State.wr_eq]
@[simp] theorem State.wr_selfReq (a : Nat) (bs : List Byte) : (s.wr a bs).selfReq = s.selfReq := by rw [State.wr_eq]
@[simp] theorem State.wr_overdue (a : Nat) (bs : List Byte) : (s.wr a bs).overdue = s.overdue := by rw [State.wr_eq]
@[simp] theorem State.wr_strataQ (a : Nat) (bs : List Byte) : (s.wr a bs).strataQ = s.strataQ := by rw [State.wr_eq]
@[simp] theorem State.wr_copyJob (a : Nat) (bs : List Byte) : (s.wr a bs).copyJob = s.copyJob := by rw [State.wr_eq]
@[simp] theorem State.wr_copyHeld (a : Nat) (bs : List Byte) : (s.wr a bs).copyHeld = s.copyHeld := by rw [State.wr_eq]
@[simp] theorem State.wr_strataDirty (a : Nat) (bs : List Byte) : (s.wr a bs).strataDirty = s.strataDirty := by rw [State.wr_eq]
@[simp] theorem State.wr_domsOff (a : Nat) (bs : List Byte) : (s.wr a bs).domsOff = s.domsOff := by rw [State.wr_eq]
@[simp] theorem State.wr_bucket (a : Nat) (bs : List Byte) : (s.wr a bs).bucket = s.bucket := by rw [State.wr_eq]
@[simp] theorem State.wr_pool (a : Nat) (bs : List Byte) : (s.wr a bs).pool = s.pool := by rw [State.wr_eq]
@[simp] theorem State.wr_eccUnits (a : Nat) (bs : List Byte) : (s.wr a bs).eccUnits = s.eccUnits := by rw [State.wr_eq]
@[simp] theorem State.wr_retired (a : Nat) (bs : List Byte) : (s.wr a bs).retired = s.retired := by rw [State.wr_eq]
@[simp] theorem State.wr_garnet (a : Nat) (bs : List Byte) : (s.wr a bs).garnet = s.garnet := by rw [State.wr_eq]
@[simp] theorem State.wr_pipes (a : Nat) (bs : List Byte) : (s.wr a bs).pipes = s.pipes := by rw [State.wr_eq]
@[simp] theorem State.wr_txq (a : Nat) (bs : List Byte) : (s.wr a bs).txq = s.txq := by rw [State.wr_eq]
@[simp] theorem State.wr_txNext (a : Nat) (bs : List Byte) : (s.wr a bs).txNext = s.txNext := by rw [State.wr_eq]
@[simp] theorem State.wr_tmplSeq (a : Nat) (bs : List Byte) : (s.wr a bs).tmplSeq = s.tmplSeq := by rw [State.wr_eq]
@[simp] theorem State.wr_fdb (a : Nat) (bs : List Byte) : (s.wr a bs).fdb = s.fdb := by rw [State.wr_eq]
@[simp] theorem State.wr_sas (a : Nat) (bs : List Byte) : (s.wr a bs).sas = s.sas := by rw [State.wr_eq]
@[simp] theorem State.wr_canq (a : Nat) (bs : List Byte) : (s.wr a bs).canq = s.canq := by rw [State.wr_eq]
@[simp] theorem State.wr_canOff (a : Nat) (bs : List Byte) : (s.wr a bs).canOff = s.canOff := by rw [State.wr_eq]
@[simp] theorem State.wr_t1sq (a : Nat) (bs : List Byte) : (s.wr a bs).t1sq = s.t1sq := by rw [State.wr_eq]
@[simp] theorem State.wr_wbuf (a : Nat) (bs : List Byte) : (s.wr a bs).wbuf = s.wbuf := by rw [State.wr_eq]
@[simp] theorem State.wr_fetches (a : Nat) (bs : List Byte) : (s.wr a bs).fetches = s.fetches := by rw [State.wr_eq]
@[simp] theorem State.wr_yielding (a : Nat) (bs : List Byte) : (s.wr a bs).yielding = s.yielding := by rw [State.wr_eq]
@[simp] theorem State.wr_pcieRole (a : Nat) (bs : List Byte) : (s.wr a bs).pcieRole = s.pcieRole := by rw [State.wr_eq]
@[simp] theorem State.wr_links (a : Nat) (bs : List Byte) : (s.wr a bs).links = s.links := by rw [State.wr_eq]
@[simp] theorem State.wr_hosts (a : Nat) (bs : List Byte) : (s.wr a bs).hosts = s.hosts := by rw [State.wr_eq]
@[simp] theorem State.wr_fws (a : Nat) (bs : List Byte) : (s.wr a bs).fws = s.fws := by rw [State.wr_eq]
@[simp] theorem State.wr_reports (a : Nat) (bs : List Byte) : (s.wr a bs).reports = s.reports := by rw [State.wr_eq]
@[simp] theorem State.wr_golden (a : Nat) (bs : List Byte) : (s.wr a bs).golden = s.golden := by rw [State.wr_eq]
@[simp] theorem State.wr_power (a : Nat) (bs : List Byte) : (s.wr a bs).power = s.power := by rw [State.wr_eq]
@[simp] theorem State.wr_powered (a : Nat) (bs : List Byte) : (s.wr a bs).powered = s.powered := by rw [State.wr_eq]
@[simp] theorem State.wr_svcBoot (a : Nat) (bs : List Byte) : (s.wr a bs).svcBoot = s.svcBoot := by rw [State.wr_eq]
@[simp] theorem State.wr_dead (a : Nat) (bs : List Byte) : (s.wr a bs).dead = s.dead := by rw [State.wr_eq]
@[simp] theorem State.obj_wr (x : Nat) (bs : List Byte) (j : Nat) : (s.wr x bs).obj j = s.obj j := by simp [State.obj]
@[simp] theorem State.dom_wr (x : Nat) (bs : List Byte) (j : Nat) : (s.wr x bs).dom j = s.dom j := by simp [State.dom]
@[simp] theorem State.core_wr (x : Nat) (bs : List Byte) (j : Nat) : (s.wr x bs).core j = s.core j := by simp [State.core]
@[simp] theorem State.inst_wr (x : Nat) (bs : List Byte) (j : Nat) : (s.wr x bs).inst j = s.inst j := by simp [State.inst]

/-- The address names a byte that this device holds (R17). -/
theorem State.byte_putByte (a j : Nat) (b : Byte) (ha : ¬(0x10000000000 ≤ a ∧ a < 0x40000000000)) (hj : ¬(0x10000000000 ≤ j ∧ j < 0x40000000000)) :
    (s.putByte a b).byte j = if canonAddr s.ileave a = canonAddr s.ileave j then b else s.byte j := by
  simp [State.putByte, State.byte, ha, hj]

/-- A byte of a remote device reads as before whatever is stored here (R17). -/
theorem State.byte_putByte_remote (a j : Nat) (b : Byte) (hj : 0x10000000000 ≤ j ∧ j < 0x40000000000) : (s.putByte a b).byte j = s.byte j := by
  unfold State.putByte
  split <;> simp [State.byte, hj]

/-- A byte that no stored byte shares its place with reads as before. -/
theorem State.byte_putBytes_of_ne (s : State) (a j : Nat) (bs : List Byte)
    (h : ∀ i < bs.length, canonAddr s.ileave (a + i) ≠ canonAddr s.ileave j) : (s.putBytes a bs).byte j = s.byte j := by
  induction bs generalizing s a with
  | nil => rfl
  | cons b bs ih =>
    rw [State.putBytes, ih]
    · by_cases hj : 0x10000000000 ≤ j ∧ j < 0x40000000000
      · exact State.byte_putByte_remote s a j b hj
      · by_cases ha : 0x10000000000 ≤ a ∧ a < 0x40000000000
        · unfold State.putByte; rw [if_pos ha]
        · rw [State.byte_putByte s a j b ha hj, if_neg]
          simpa using h 0 (by simp)
    · intro i hi
      have := h (i + 1) (by simpa using hi)
      rw [State.putByte_eq]
      simpa [Nat.add_assoc, Nat.add_comm 1 i] using this

theorem State.byte_wr (a j : Nat) (bs : List Byte) : (s.wr a bs).byte j = (s.putBytes a bs).byte j := by
  simp only [State.wr]; split <;> rfl

/-- The frame of a store. -/
theorem State.byte_wr_of_ne (a j : Nat) (bs : List Byte) (h : ∀ i < bs.length, canonAddr s.ileave (a + i) ≠ canonAddr s.ileave j) :
    (s.wr a bs).byte j = s.byte j := by
  rw [State.byte_wr, State.byte_putBytes_of_ne s a j bs h]

/-- A stored byte reads back, where the range holds no remote byte and no two of its bytes share a place. -/
theorem State.byte_wr_at (s : State) (a i : Nat) (bs : List Byte) (hi : i < bs.length)
    (hl : ∀ k < bs.length, ¬(0x10000000000 ≤ a + k ∧ a + k < 0x40000000000))
    (hd : ∀ k < bs.length, k ≠ i → canonAddr s.ileave (a + k) ≠ canonAddr s.ileave (a + i)) : (s.wr a bs).byte (a + i) = bs[i] := by
  rw [State.byte_wr]
  induction bs generalizing s a i with
  | nil => simp at hi
  | cons b bs ih =>
    rw [State.putBytes]
    cases i with
    | zero =>
      rw [State.byte_putBytes_of_ne]
      · have := hl 0 (by simp)
        rw [State.byte_putByte s a (a + 0) b (by simpa using this) this]
        simp
      · intro k hk
        have := hd (k + 1) (by simpa using hk) (by omega)
        rw [State.putByte_eq]
        simpa [Nat.add_assoc, Nat.add_comm 1 k] using this
    | succ i =>
      have hi' : i < bs.length := by simpa using hi
      have e := ih (s.putByte a b) (a + 1) i hi' (fun k hk => by
        have := hl (k + 1) (by simpa using hk)
        rwa [show a + 1 + k = a + (k + 1) by omega]) (fun k hk hne => by
        have := hd (k + 1) (by simpa using hk) (by omega)
        rw [State.putByte_eq]
        simp only
        rwa [show a + 1 + k = a + (k + 1) by omega, show a + 1 + i = a + (i + 1) by omega])
      rw [show a + (i + 1) = a + 1 + i by omega, e]
      simp

/-! ### Addresses above the stacked memory and its aliases -/

/-- Above 0x40_0000_0000 no address is an alias. -/
theorem unitOf_ne_alias (a st : Nat) (h : 0x4000000000 ≤ a) : unitOf a ≠ some (.alias_ st) := by
  unfold unitOf
  rw [if_neg (by omega), if_neg (by omega)]
  repeat' split
  all_goals exact fun e => by cases e

/-- Above 0x40_0000_0000 every byte has one address (Table 1-2). -/
theorem canonAddr_of_ge (il a : Nat) (h : 0x4000000000 ≤ a) : canonAddr il a = a := by
  unfold canonAddr
  split
  · rename_i st hu
    exact absurd hu (unitOf_ne_alias a st h)
  · rfl

theorem unitOf_alias (a st : Nat) (h : a < 0x4000000000) (hu : unitOf a = some (.alias_ st)) :
    (a - 0x2000000000) % 0x800000000 < 0x600000000 ∧ st < 4 := by
  unfold unitOf at hu
  by_cases h1 : a < 0x1800000000
  · rw [if_pos h1] at hu; cases hu
  · rw [if_neg h1] at hu
    by_cases h2 : 0x2000000000 ≤ a ∧ a < 0x4000000000
    · rw [if_pos h2] at hu
      by_cases h3 : (a - 0x2000000000) % 0x800000000 < 0x600000000
      · rw [if_pos h3] at hu
        cases hu
        exact ⟨h3, by omega⟩
      · rw [if_neg h3] at hu; cases hu
    · rw [if_neg h2, if_neg (by omega), if_neg (by omega), if_neg (by omega), if_neg (by omega), if_neg (by omega), if_neg (by omega), if_neg (by omega),
        if_neg (by omega), if_neg (by omega)] at hu
      cases hu

theorem canonAddr_lt (il a : Nat) (h : a < 0x4000000000) : canonAddr il a < 0x4000000000 := by
  unfold canonAddr
  split
  · rename_i st hu
    obtain ⟨ho, hs⟩ := unitOf_alias a st h hu
    generalize (a - 0x2000000000) % 0x800000000 = o at ho
    have hg : granule il = 0x10000 ∨ granule il = 0x200000 ∨ granule il = 0x1000 := by
      unfold granule; split <;> simp
    rcases hg with hg | hg | hg <;> simp only [hg] <;> omega
  · exact h

/-- The frame of a store above 0x40_0000_0000. -/
theorem State.byte_wr_high (a j : Nat) (bs : List Byte) (h : 0x4000000000 ≤ a) (hj : j < a ∨ a + bs.length ≤ j) : (s.wr a bs).byte j = s.byte j := by
  refine State.byte_wr_of_ne s a j bs fun i hi => ?_
  rw [canonAddr_of_ge _ _ (by omega)]
  by_cases hl : j < 0x4000000000
  · have := canonAddr_lt s.ileave j hl
    omega
  · rw [canonAddr_of_ge _ _ (by omega)]
    omega

/-- What is stored above 0x40_0000_0000, short of the remote windows, reads back. -/
theorem State.rd_wr_high (a : Nat) (bs : List Byte) (h : 0x4000000000 ≤ a) (hn : a + bs.length ≤ 0x10000000000) : (s.wr a bs).rd a bs.length = bs := by
  apply List.ext_getElem
  · simp [State.rd]
  · intro i h1 h2
    simp only [State.rd, List.getElem_map, List.getElem_range]
    refine State.byte_wr_at s a i bs h2 (fun k hk => by omega) fun k hk hne => ?_
    rw [canonAddr_of_ge _ _ (by omega), canonAddr_of_ge _ _ (by omega)]
    omega

theorem leBytes_length (n v : Nat) : (leBytes n v).length = n := by
  induction n generalizing v with
  | zero => rfl
  | succ n ih => simp [leBytes, ih]

theorem leNat_leBytes (n v : Nat) : leNat (leBytes n v) = v % 256 ^ n := by
  induction n generalizing v with
  | zero => simp [leBytes, leNat, Nat.mod_one]
  | succ n ih =>
    simp only [leBytes, leNat, ih, BitVec.toNat_ofNat]
    have e : v % (256 * 256 ^ n) = v % 256 + 256 * (v / 256 % 256 ^ n) := Nat.mod_mul
    rw [show 256 ^ (n + 1) = 256 * 256 ^ n from by rw [Nat.pow_succ, Nat.mul_comm], e]

/-- A number stored above 0x40_0000_0000, short of the remote windows, reads back. -/
theorem State.rdN_wr_high (a n v : Nat) (h : 0x4000000000 ≤ a) (hn : a + n ≤ 0x10000000000) : (s.wr a (leBytes n v)).rdN a n = v % 256 ^ n := by
  have e := State.rd_wr_high s a (leBytes n v) h (by rw [leBytes_length]; exact hn)
  rw [leBytes_length] at e
  rw [State.rdN, e, leNat_leBytes]

end Sys2Proof.Machine
end

