-- ==== Sys2Proof/Laws/Core.lean ====
section
/-! SUPPORT. What the shared operations of the core controller do: the dispatch of an op word, an exception, a signal, and the end of a controller op. -/

namespace Sys2Proof.Machine

theorem okey_inj {i j a b : Nat} (ha : a < 256) (hb : b < 256) : okey i a = okey j b ↔ i = j ∧ a = b := by
  unfold okey; omega

theorem kPc_ne_kCtr (n m i : Nat) (h : i < 32) : kPc n ≠ kCtr m i := by
  simp only [kPc, kCtr, kCore, okey]; omega

theorem kRetired_ne_kCtr (n m i : Nat) (h : i < 32) : kRetired n ≠ kCtr m i := by
  simp only [kRetired, kCtr, kCore, okey]; omega

theorem kPc_ne_kRetired (n m : Nat) : kPc n ≠ kRetired m := by
  simp only [kPc, kRetired, kCore, okey]; omega

theorem kCtr_inj {n m i j : Nat} (hi : i < 32) (hj : j < 32) : kCtr n i = kCtr m j ↔ n = m ∧ i = j := by
  simp only [kCtr, kCore, okey]; omega

theorem opWait_lt (op : OpWord) : opWait op < 32 := by
  simp only [opWait, fld]; omega

theorem opSig_lt (op : OpWord) : opSig op < 32 := by
  simp only [opSig, fld]; omega

/-- An op that is ready and finds room runs its body on the state whose pc has moved past it (R111, R117). -/
theorem State.dispatch_ready {s : State} {n : Nat} {op : OpWord} {fields : List (Nat × Nat)} {room : Bool} {body : Nat → State → State}
    (h : s.opReady n op fields) (hr : room = true) :
    s.dispatch n op fields room body
      = .next (body (s.pc n) ((s.setN (kPc n) (s.pc n + 16)).upCore n fun c => { c with stepping := false })) := by
  obtain ⟨h1, h2, h3, h4⟩ := h
  simp [State.dispatch, h1, h2, h3, h4, hr]

/-- An op that is ready but has no room stalls: nothing happens (R111). -/
theorem State.dispatch_stalls {s : State} {n : Nat} {op : OpWord} {fields : List (Nat × Nat)} {body : Nat → State → State}
    (h : s.opReady n op fields) : s.dispatch n op fields false body = .next s := by
  obtain ⟨h1, h2, h3, h4⟩ := h
  simp [State.dispatch, h1, h2, h3, h4]

/-- A ready controller op acts on the entered state. -/
theorem State.ctlOp_ready {s : State} {n : Nat} {op : OpWord} {fields : List (Nat × Nat)} {act : Nat → State → Except Exc (State × Bool)}
    (h : s.opReady n op fields) (hw : s.waitOk n op) {t : State} {done : Bool} (ha : act (s.pc n) (s.entered n op) = .ok (t, done)) :
    s.ctlOp n op fields act = .next (if done then t.ctlDone n op (s.pc n) else t) := by
  have hr : (!opWe op || decide (0 < s.ctr n (opWait op))) = true := by
    rcases hw with hw | hw <;> simp [hw]
  simp only [State.entered] at ha
  simp only [State.ctlOp, State.dispatch_ready h hr, ha]

@[simp] theorem State.entered_core (s : State) (n : Nat) (op : OpWord) (j : Nat) :
    (s.entered n op).core j = if n = j then { s.core n with stepping := false } else s.core j := by
  simp only [State.entered]
  split <;> simp [State.setN_eq, State.upCore_eq]

theorem State.entered_obj (s : State) (n : Nat) (op : OpWord) (k : Nat) :
    (s.entered n op).obj k = if kPc n = k then BitVec.ofNat 64 (s.pc n + 16)
      else if opWe op = true ∧ kCtr n (opWait op) = k then BitVec.ofNat 64 (s.ctr n (opWait op) - 1) else s.obj k := by
  have hk := kPc_ne_kCtr n n (opWait op) (opWait_lt op)
  simp only [State.entered, State.ctr, State.objN, State.setN_eq, State.upCore_eq]
  split
  · by_cases h : kPc n = k
    · subst h; simp [hk, Ne.symm hk]
    · simp [hk, *]
  · by_cases h : kPc n = k <;> simp [h, *]

theorem State.elsewhere_setObj (s : State) (k : Nat) (v : Word64) : (s.setObj k v).elsewhere = s.elsewhere := by
  simp only [State.elsewhere, State.setObj]
theorem State.elsewhere_setCore (s : State) (n : Nat) (c : CoreSt) : (s.setCore n c).elsewhere = s.elsewhere := by
  simp only [State.elsewhere, State.setCore]
theorem State.elsewhere_tookFree (s : State) (k : Nat) : (s.tookFree k).elsewhere = s.elsewhere := by
  simp only [State.elsewhere, State.tookFree]
theorem State.elsewhere_wr (s : State) (a : Nat) (bs : List Byte) : (s.wr a bs).elsewhere = s.elsewhere := by
  rw [State.wr_eq]; simp only [State.elsewhere]

@[simp] theorem State.entered_elsewhere (s : State) (n : Nat) (op : OpWord) : (s.entered n op).elsewhere = s.elsewhere := by
  simp only [State.entered, State.setN_eq, State.upCore_eq]
  split <;> simp only [State.elsewhere_setObj, State.elsewhere_setCore]

theorem State.entered_eq (s : State) (n : Nat) (op : OpWord) :
    s.entered n op = { s with objs := (s.entered n op).objs, cores := (s.entered n op).cores } := by
  simp only [State.entered]
  split <;> rfl

/-- A controller op that has acted on the entered state completes: it retires and signals (R113, R132). -/
theorem State.opDone_of_entered {s t : State} {n : Nat} {op : OpWord} {ks : List Nat}
    (rest : t.elsewhere = s.elsewhere)
    (objs : ∀ k, k ∉ ks → t.obj k = (s.entered n op).obj k) (others : ∀ j, j ≠ n → t.core j = s.core j)
    (hr : kRetired n ∉ ks) (hk : kCtr n (opSig op) ∉ ks) (hs : s.signalFits n op)
    (hst : (t.core n).stepping = false) :
    State.OpDone s (t.ctlDone n op (s.pc n)) t n op (t.objN (kPc n)) (t.core n) ks := by
  have e1 := kPc_ne_kCtr n n (opSig op) (opSig_lt op)
  have e2 := kRetired_ne_kCtr n n (opSig op) (opSig_lt op)
  have e3 := kPc_ne_kRetired n n
  have e4 := kRetired_ne_kCtr n n (opWait op) (opWait_lt op)
  have tr : t.obj (kRetired n) = s.obj (kRetired n) := by
    rw [objs _ hr, State.entered_obj, if_neg e3, if_neg (by rintro ⟨-, h⟩; exact e4 h.symm)]
  have tc : t.ctr n (opSig op) ≤ s.ctr n (opSig op) := by
    simp only [State.ctr, State.objN]
    rw [objs _ hk, State.entered_obj, if_neg e1]
    split
    · rename_i h
      rw [← h.2]
      simp only [State.ctr, State.objN, BitVec.toNat_ofNat]
      have := (s.obj (kCtr n (opWait op))).isLt
      omega
    · exact Nat.le_refl _
  have tl := (t.obj (kCtr n (opSig op))).isLt
  -- the state after the signal
  have hd : t.ctlDone n op (s.pc n) = if opSe op then (t.retire n).setN (kCtr n (opSig op)) (t.ctr n (opSig op) + 1) else t.retire n := by
    simp only [State.ctlDone, State.signalSe, State.addCtr]
    by_cases hse : opSe op = true
    · have h : s.ctr n (opSig op) + 1 < 2 ^ 32 := hs.resolve_left (by rw [hse]; decide)
      have hc : (t.retire n).ctr n (opSig op) = t.ctr n (opSig op) := by
        simp only [State.ctr, State.objN, State.retire, State.count_eq, State.upCore_eq, State.obj_setCore, State.obj_setObj, if_neg e2]
      rw [if_pos hse, if_pos hse, hc, if_neg (by omega)]
    · simp [hse]
  have hobj : ∀ k, (t.ctlDone n op (s.pc n)).obj k = if opSe op = true ∧ kCtr n (opSig op) = k then BitVec.ofNat 64 (t.ctr n (opSig op) + 1)
      else if kRetired n = k then incWrap 64 (t.obj k) 1 else t.obj k := by
    intro k
    rw [hd]
    by_cases hse : opSe op = true
    · simp only [hse, if_true, State.setN_eq, State.obj_setObj, State.retire, State.count_eq, State.upCore_eq, State.obj_setCore, true_and]
      split
      · rfl
      · split
        · rename_i h; rw [h]
        · rfl
    · rw [if_neg hse, if_neg (fun h => hse h.1)]
      simp only [State.retire, State.count_eq, State.upCore_eq, State.obj_setCore, State.obj_setObj]
      split
      · rename_i h; rw [h]
      · rfl
  have hcore : ∀ j, (t.ctlDone n op (s.pc n)).core j = if n = j then { t.core n with lastRetire := t.now, elapsed := 0 } else t.core j := by
    intro j
    rw [hd]
    split <;> simp [State.setN_eq, State.retire, State.count_eq, State.upCore_eq]
  have now : t.now = s.now := by
    have h := congrArg State.now rest
    simpa only [State.elsewhere] using h
  refine ⟨?_, ?_, ?_, ?_, ?_, ?_, ?_, ?_, ?_⟩
  · simp only [State.objN, hobj]
    rw [if_neg (by rintro ⟨-, h⟩; exact e1 h.symm), if_neg (fun h => e3 h.symm)]
  · simp only [State.objN, hobj]
    rw [if_neg (by rintro ⟨-, h⟩; exact e2 h.symm)]
    simp [incWrap, tr]
  · intro i hi hik
    simp only [State.ctr, State.objN, hobj]
    have f1 : ∀ j, j < 32 → (kCtr n j = kCtr n i ↔ j = i) := fun j hj => by rw [kCtr_inj hj hi]; simp
    rw [if_neg (c := kRetired n = kCtr n i) (kRetired_ne_kCtr n n i hi)]
    have ti : (t.obj (kCtr n i)).toNat = (s.obj (kCtr n i)).toNat - headerTakes op i := by
      rw [objs _ hik, State.entered_obj, if_neg (kPc_ne_kCtr n n i hi)]
      simp only [headerTakes, f1 _ (opWait_lt op)]
      by_cases hw : opWe op = true ∧ opWait op = i
      · rw [if_pos hw, if_pos ⟨hw.1, hw.2.symm⟩]
        simp only [State.ctr, State.objN, BitVec.toNat_ofNat, hw.2]
        have := (s.obj (kCtr n i)).isLt
        omega
      · rw [if_neg hw, if_neg (by rintro ⟨h, h'⟩; exact hw ⟨h, h'.symm⟩)]
        simp
    simp only [headerAdds, f1 _ (opSig_lt op)]
    by_cases hse : opSe op = true ∧ opSig op = i
    · rw [if_pos hse, if_pos ⟨hse.1, hse.2.symm⟩]
      have hb : s.ctr n (opSig op) + 1 < 2 ^ 32 := hs.resolve_left (by rw [hse.1]; decide)
      simp only [State.ctr, State.objN, BitVec.toNat_ofNat, hse.2] at *
      rw [Nat.mod_eq_of_lt (by omega), ti]
    · rw [if_neg hse, if_neg (by rintro ⟨h, h'⟩; exact hse ⟨h, h'.symm⟩), ti]
      simp
  · rw [hcore, if_pos rfl, now, ← hst]
  · intro j hj
    rw [hcore, if_neg (fun h => hj h.symm), others j hj]
  · intro k hk'
    simp only [opKeys, List.mem_append, List.mem_cons, List.not_mem_nil, or_false, not_or] at hk'
    obtain ⟨⟨⟨⟨k1, k2⟩, k3⟩, k4⟩, k5⟩ := hk'
    rw [hobj, if_neg (by rintro ⟨h, h'⟩; rw [if_pos h] at k4; exact k4 (by simp [h'])), if_neg (Ne.symm k2), objs k k5, State.entered_obj,
      if_neg (Ne.symm k1), if_neg (by rintro ⟨h, h'⟩; rw [if_pos h] at k3; exact k3 (by simp [h']))]
  · intro k hk'
    rw [hobj, if_neg (by rintro ⟨-, h⟩; exact hk (h ▸ hk')), if_neg (by rintro h; exact hr (h ▸ hk'))]
  · rw [← rest, hd]
    split <;> simp only [State.retire, State.count_eq, State.setN_eq, State.upCore_eq, State.elsewhere_setObj, State.elsewhere_setCore]
  · rw [hd]
    split <;> exact ⟨rfl, rfl⟩

/-- A ready controller op that completes at once (R111, R113). -/
theorem State.ctlOp_done {s t : State} {n : Nat} {op : OpWord} {fields : List (Nat × Nat)} {act : Nat → State → Except Exc (State × Bool)} {ks : List Nat}
    (h : s.opReady n op fields) (hw : s.waitOk n op) (hs : s.signalFits n op)
    (ha : act (s.pc n) (s.entered n op) = .ok (t, true))
    (rest : t.elsewhere = s.elsewhere)
    (objs : ∀ k, k ∉ ks → t.obj k = (s.entered n op).obj k) (others : ∀ j, j ≠ n → t.core j = s.core j)
    (hr : kRetired n ∉ ks) (hk : kCtr n (opSig op) ∉ ks) (hst : (t.core n).stepping = false) :
    ∃ u, s.ctlOp n op fields act = .next u ∧ State.OpDone s u t n op (t.objN (kPc n)) (t.core n) ks ∧ u.free = t.free := by
  refine ⟨_, State.ctlOp_ready h hw ha, State.opDone_of_entered rest objs others hr hk hs hst, ?_⟩
  simp only [if_true, State.ctlDone, State.signalSe, State.addCtr]
  split
  · split
    · rename_i h1 h2
      have hb := hs.resolve_left (by rw [h1]; decide)
      exfalso
      have e2 := kRetired_ne_kCtr n n (opSig op) (opSig_lt op)
      have hc : (t.retire n).ctr n (opSig op) = t.ctr n (opSig op) := by
        simp only [State.ctr, State.objN, State.retire, State.count_eq, State.upCore_eq, State.obj_setCore, State.obj_setObj, if_neg e2]
      have tc : t.ctr n (opSig op) ≤ s.ctr n (opSig op) := by
        simp only [State.ctr, State.objN]
        rw [objs _ hk, State.entered_obj, if_neg (kPc_ne_kCtr n n (opSig op) (opSig_lt op))]
        split
        · rename_i h
          rw [← h.2]
          simp only [State.ctr, State.objN, BitVec.toNat_ofNat]
          have := (s.obj (kCtr n (opWait op))).isLt
          omega
        · exact Nat.le_refl _
      omega
    · rfl
  · rfl

theorem State.entered_pc (s : State) (n : Nat) (op : OpWord) : (s.entered n op).objN (kPc n) = (s.pc n + 16) % 2^64 := by
  simp [State.objN, State.entered_obj]

/-- A ready controller op that only updates its core's registers. -/
theorem State.ctlOp_coreOnly {s : State} {n : Nat} {op : OpWord} {fields act} (f : CoreSt → CoreSt) (k : Nat)
    (h : s.opReady n op fields) (hw : s.waitOk n op) (hs : s.signalFits n op)
    (ha : act (s.pc n) (s.entered n op) = .ok (((s.entered n op).setCore n (f { s.core n with stepping := false })).tookFree k, true))
    (hf : f { s.core n with stepping := false } = { f (s.core n) with stepping := false }) :
    ∃ u, s.ctlOp n op fields act = .next u ∧ State.OpDone s u s n op ((s.pc n + 16) % 2^64) (f (s.core n)) [] ∧ u.free = s.free + k := by
  have e := s.entered_eq n op
  have hm : (s.entered n op).mem = s.mem ∧ (s.entered n op).poison = s.poison ∧ (s.entered n op).free = s.free := by
    rw [e]; exact ⟨rfl, rfl, rfl⟩
  obtain ⟨u, h1, h2, h3⟩ := State.ctlOp_done (ks := []) h hw hs ha (by
      rw [State.elsewhere_tookFree, State.elsewhere_setCore, State.entered_elsewhere]) (by intro k _; rfl) (by
      intro j hj; simp [State.entered_core, Ne.symm hj]) (by simp) (by simp) (by simp [hf])
  refine ⟨u, h1, ?_, ?_⟩
  · have e1 : (((s.entered n op).setCore n (f { s.core n with stepping := false })).tookFree k).objN (kPc n) = (s.pc n + 16) % 2^64 := by
      rw [← State.entered_pc s n op]; rfl
    rw [e1] at h2
    refine ⟨h2.pc, h2.retired, h2.counters, ?_, h2.others, h2.objs, by simp, h2.rest, ?_⟩
    · rw [h2.core]; simp [hf]
    · exact ⟨h2.bytes.1.trans hm.1, h2.bytes.2.trans hm.2.1⟩
  · rw [h3, ← hm.2.2]; rfl

/-- s0 reads 0 and takes no write (R119). -/
theorem CoreSt.setS_s (c : CoreSt) (d i : Nat) (v : Word64) : (c.setS d v).s i = if i = d ∧ i ≠ 0 then v else c.s i := by
  unfold CoreSt.setS CoreSt.s
  by_cases hd : d = 0
  · subst hd; by_cases hi : i = 0 <;> simp [hi]
  · by_cases hi : i = 0
    · subst hi; simp [hd]
    · by_cases h : i = d
      · subst h; simp [hd]
      · simp [hd, hi, h, Ne.symm h]

theorem CoreSt.setP_p (c : CoreSt) (d i : Nat) (v : Word32) : (c.setP d v).p i = if i = d then v else c.p i := by
  unfold CoreSt.setP CoreSt.p
  by_cases h : i = d
  · subst h; simp
  · simp [h, Ne.symm h]

theorem CoreSt.setT_t (c : CoreSt) (d i : Nat) (v : BitVec 512) : (c.setT d v).t i = if i = d then v else c.t i := by
  unfold CoreSt.setT CoreSt.t
  by_cases h : i = d
  · subst h; simp
  · simp [h, Ne.symm h]

theorem CoreSt.setS_step (c : CoreSt) (d v) : ({c with stepping := false} : CoreSt).setS d v = {c.setS d v with stepping := false} := by
  unfold CoreSt.setS; split <;> rfl

theorem State.objN_setN_self (s : State) (k v : Nat) : (s.setN k v).objN k = v % 2 ^ 64 := by
  simp [State.objN, State.setN_eq]

theorem branchTo_eq (a : Nat) (o : Int) : branchTo a o = (((a : Int) + 16 * o) % 2 ^ 64).toNat := by
  unfold branchTo wrapInt; norm_num

theorem branchTo_lt (a : Nat) (o : Int) : branchTo a o < 2 ^ 64 := by
  rw [branchTo_eq]
  have := Int.emod_lt_of_pos ((a : Int) + 16 * o) (show (0:Int) < 2 ^ 64 by norm_num)
  omega

/-- What a ready op leaves alone when it enters. -/
theorem State.entered_fields (s : State) (n : Nat) (op : OpWord) :
    (s.entered n op).mem = s.mem ∧ (s.entered n op).poison = s.poison ∧ (s.entered n op).free = s.free ∧ (s.entered n op).ileave = s.ileave := by
  rw [State.entered_eq]; exact ⟨rfl, rfl, rfl, rfl⟩

/-- A ready controller op that updates its core's registers and moves the pc elsewhere. -/
theorem State.ctlOp_jump {s : State} {n : Nat} {op : OpWord} {fields act} (f : CoreSt → CoreSt) (a : Nat) (o : Int)
    (h : s.opReady n op fields) (hw : s.waitOk n op) (hs : s.signalFits n op)
    (ha : act (s.pc n) (s.entered n op) = .ok (((s.entered n op).setCore n (f { s.core n with stepping := false })).setN (kPc n) (branchTo a o), true))
    (hf : f { s.core n with stepping := false } = { f (s.core n) with stepping := false }) :
    ∃ u, s.ctlOp n op fields act = .next u ∧ State.OpDone s u s n op (((a : Int) + 16 * o) % 2 ^ 64).toNat (f (s.core n)) [] ∧ u.free = s.free := by
  obtain ⟨f1, f2, f3, -⟩ := State.entered_fields s n op
  have hp := kPc_ne_kRetired n n
  have hq := kPc_ne_kCtr n n (opSig op) (opSig_lt op)
  obtain ⟨u, h1, h2, h3⟩ := State.ctlOp_done (ks := [kPc n]) h hw hs ha
    (by rw [State.setN_eq, State.elsewhere_setObj, State.elsewhere_setCore, State.entered_elsewhere])
    (by intro k hk; simp only [List.mem_singleton] at hk; rw [State.setN_eq, State.obj_setObj, if_neg (Ne.symm hk)]; rfl)
    (by intro j hj; rw [State.setN_eq, State.core_setObj, State.core_setCore, if_neg (Ne.symm hj), State.entered_core, if_neg (Ne.symm hj)])
    (by simp [Ne.symm hp]) (by simp [Ne.symm hq]) (by rw [State.setN_eq, State.core_setObj, State.core_setCore, if_pos rfl, hf])
  have e : (((s.entered n op).setCore n (f { s.core n with stepping := false })).setN (kPc n) (branchTo a o)).objN (kPc n) = branchTo a o := by
    rw [State.objN_setN_self, Nat.mod_eq_of_lt (branchTo_lt _ _)]
  rw [e, branchTo_eq] at h2
  refine ⟨u, h1, ⟨h2.pc, h2.retired, ?_, ?_, h2.others, ?_, by simp, h2.rest, ⟨h2.bytes.1.trans f1, h2.bytes.2.trans f2⟩⟩, h3.trans f3⟩
  · intro i hi _
    exact h2.counters i hi (by simp [Ne.symm (kPc_ne_kCtr n n i hi)])
  · rw [h2.core, State.setN_eq, State.core_setObj, State.core_setCore, if_pos rfl, hf]
  · intro k hk
    refine h2.objs k fun hm => hk ?_
    rcases List.mem_append.1 hm with hm | hm
    · exact List.mem_append_left _ hm
    · rw [List.mem_singleton.1 hm]; simp [opKeys]

end Sys2Proof.Machine
end

