-- ==== Sys2Proof/Laws/Keeps.lean ====
section
/-! SUPPORT. What no command may do, as a relation between the states before and after: the queue of waiting commands stays as it is, free values are only taken, what has left the device is not taken back, and the canonical form of memory, objects and DOMAINs is kept. The files Laws/Keep*.lean show it of each operation in turn. -/

namespace Sys2Proof.Machine

/-- The relation. -/
structure State.Keeps (s t : State) : Prop where
  queue : t.pending = s.pending
  free : s.free ≤ t.free
  out : s.out <:+ t.out
  canon : s.canonical = true → t.canonical = true

theorem State.Keeps.refl (s : State) : State.Keeps s s := ⟨rfl, Nat.le_refl _, List.suffix_refl _, id⟩

theorem State.Keeps.trans {s t u : State} (h : State.Keeps s t) (h' : State.Keeps t u) : State.Keeps s u :=
  ⟨h'.queue.trans h.queue, Nat.le_trans h.free h'.free, h.out.trans h'.out, h'.canon ∘ h.canon⟩

/-- An update of other fields. -/
theorem State.Keeps.mk_of {s₀ s : State} (h : State.Keeps s₀ s) {now : Word64} {tbRun : Bool} {ileave : Nat} {ctxs : TMap CtxSt} {sessions : List Session} {subs : List Subscription} {storeJob : Option StoreJob} {gdom : TMap GDom} {sel : Option SelSlew} {everLocked : Bool} {cadDue : List Due} {cadK : TMap Nat} {trig : TMap (Option Pulse)} {lode : TMap LodeSt} {capWin : TMap (Option CapWin)} {cores : TMap CoreSt} {peb : TMap PebSt} {coll : List CollPart} {collCount : List (Nat × Nat × Nat × Nat)} {ledger : TMap LedgerEntry} {flintOpen : Bool} {insts : TMap InstSt} {parts : TMap PartSt} {caps : TMap CapRun} {poison : List Nat} {streams : TMap StreamSt} {noticeSeq : Nat} {leftRepeats : Nat} {noticeArgs : List Word64} {lastBeat : Option Word64} {wdHold : Word64} {noticeTime : Word64} {selfReq : Option (Nat × Nat)} {overdue : Bool} {strataQ : List StrataRec} {copyJob : Option CopyJob} {copyHeld : Bool} {strataDirty : Bool} {domsOff : Nat} {bucket : TMap Rat} {pool : TMap Rat} {eccUnits : List (Nat × Nat)} {retired : List (Nat × Nat)} {garnet : GarnetSt} {pipes : TMap PipeSt} {txq : TMap (List TxFrame)} {txNext : TMap Nat} {tmplSeq : TMap Nat} {fdb : List FdbEntry} {sas : List (Nat × List Byte)} {canq : TMap (List CanTx)} {canOff : TMap (List Word64)} {t1sq : TMap (List T1sTx)} {wbuf : List Posted} {fetches : TMap (Option Fetch)} {yielding : Bool} {pcieRole : Nat} {links : TMap LinkSt} {hosts : TMap HostSt} {fws : TMap FwSt} {reports : Nat} {golden : TMap Nat} {power : PowerSt} {powered : Bool} {svcBoot : Bool} {dead : Bool} :
    State.Keeps s₀ ⟨s.pending, now, tbRun, s.free, s.out, ileave, s.mem, s.objs, s.doms, ctxs, sessions, subs, storeJob, gdom, sel, everLocked, cadDue, cadK, trig, lode, capWin, cores, peb, coll, collCount, ledger, flintOpen, insts, parts, caps, poison, streams, noticeSeq, leftRepeats, noticeArgs, lastBeat, wdHold, noticeTime, selfReq, overdue, strataQ, copyJob, copyHeld, strataDirty, domsOff, bucket, pool, eccUnits, retired, garnet, pipes, txq, txNext, tmplSeq, fdb, sas, canq, canOff, t1sq, wbuf, fetches, yielding, pcieRole, links, hosts, fws, reports, golden, power, powered, svcBoot, dead⟩ :=
  ⟨h.queue, h.free, h.out, h.canon⟩

/-- Show it of an intermediate state first. -/
theorem State.Keeps.cut {s₀ x : State} {P : Prop} (hx : State.Keeps s₀ x) (h : State.Keeps s₀ x → P) : P := h hx

theorem State.Keeps.cutP {α : Type} {s₀ : State} {x : State × α} {P : Prop} (hx : State.Keeps s₀ x.1) (h : State.Keeps s₀ x.1 → P) : P := h hx

/-- A step of a proof that goes on only for a local function. -/
theorem State.Keeps.fn {α β : Type} (_ : α → β) {P : Prop} (h : P) : P := h

theorem State.Keeps.ite {s₀ a b : State} {c : Prop} [Decidable c] (ha : State.Keeps s₀ a) (hb : State.Keeps s₀ b) : State.Keeps s₀ (if c then a else b) := by
  split <;> assumption

theorem State.Keeps.ite_fst {α : Type} {s₀ : State} {a b : State × α} {c : Prop} [Decidable c] (ha : State.Keeps s₀ a.1) (hb : State.Keeps s₀ b.1) :
    State.Keeps s₀ (if c then a else b).1 := by
  split <;> assumption

theorem State.Keeps.of_fst {α : Type} {s₀ t : State} {x : State × α} {a : α} (e : x = (t, a)) (h : State.Keeps s₀ x.1) : State.Keeps s₀ t := by
  subst e; exact h

/-- The same of a command's outcome. -/
def KeepsRes (s₀ : State) (r : Result) : Prop := ∀ t, r = .next t → State.Keeps s₀ t

theorem KeepsRes.next {s₀ t : State} (h : State.Keeps s₀ t) : KeepsRes s₀ (.next t) := by
  intro u e; cases e; exact h

theorem KeepsRes.fault {s₀ : State} (f : Fault) : KeepsRes s₀ (.fault f) := by
  intro u e; cases e

theorem KeepsRes.ite {s₀ : State} {a b : Result} {c : Prop} [Decidable c] (ha : KeepsRes s₀ a) (hb : KeepsRes s₀ b) : KeepsRes s₀ (if c then a else b) := by
  split <;> assumption

theorem KeepsRes.elim {s₀ t : State} {r : Result} (e : r = .next t) (h : KeepsRes s₀ r) : State.Keeps s₀ t := h t e

/-- The same of what may fail with an error. -/
def KeepsEx {ε : Type} (s₀ : State) (x : Except ε State) : Prop := ∀ t, x = .ok t → State.Keeps s₀ t

theorem KeepsEx.ok {ε : Type} {s₀ t : State} (h : State.Keeps s₀ t) : KeepsEx s₀ (Except.ok t : Except ε State) := by
  intro u e; cases e; exact h

theorem KeepsEx.pure {ε : Type} {s₀ t : State} (h : State.Keeps s₀ t) : KeepsEx s₀ (Pure.pure t : Except ε State) := by
  intro u e; cases e; exact h

theorem KeepsEx.error {ε : Type} {s₀ : State} (f : ε) : KeepsEx s₀ (Except.error f) := by
  intro u e; cases e

theorem KeepsEx.throw {ε : Type} {s₀ : State} (f : ε) : KeepsEx s₀ (throw f : Except ε State) := by
  intro u e; cases e

theorem KeepsEx.ite {ε : Type} {s₀ : State} {a b : Except ε State} {c : Prop} [Decidable c] (ha : KeepsEx s₀ a) (hb : KeepsEx s₀ b) :
    KeepsEx s₀ (if c then a else b) := by
  split <;> assumption

theorem KeepsEx.bind {ε α : Type} {s₀ : State} {x : Except ε α} {f : α → Except ε State} (h : ∀ a, x = .ok a → KeepsEx s₀ (f a)) : KeepsEx s₀ (x >>= f) := by
  intro t e
  cases x with
  | error _ => cases e
  | ok a => exact h a rfl t e

theorem KeepsEx.map {ε α : Type} {s₀ : State} {x : Except ε (State × α)} (h : ∀ a, x = .ok a → State.Keeps s₀ a.1) : KeepsEx s₀ (x.map (·.1)) := by
  intro t e
  cases x with
  | error _ => cases e
  | ok a => cases e; exact h a rfl

theorem KeepsEx.elim {ε : Type} {s₀ t : State} {x : Except ε State} (e : x = .ok t) (h : KeepsEx s₀ x) : State.Keeps s₀ t := h t e

/-- The same of a state with a value that may fail. -/
def KeepsExP {ε α : Type} (s₀ : State) (x : Except ε (State × α)) : Prop := ∀ t, x = .ok t → State.Keeps s₀ t.1

theorem KeepsExP.ok {ε α : Type} {s₀ : State} {t : State × α} (h : State.Keeps s₀ t.1) : KeepsExP s₀ (Except.ok t : Except ε (State × α)) := by
  intro u e; cases e; exact h

theorem KeepsExP.error {ε α : Type} {s₀ : State} (f : ε) : KeepsExP s₀ (Except.error f : Except ε (State × α)) := by
  intro u e; cases e

theorem KeepsExP.ite {ε α : Type} {s₀ : State} {a b : Except ε (State × α)} {c : Prop} [Decidable c] (ha : KeepsExP s₀ a) (hb : KeepsExP s₀ b) :
    KeepsExP s₀ (if c then a else b) := by
  split <;> assumption

theorem KeepsExP.map {ε α : Type} {s₀ : State} {x : Except ε State} {f : State → State × α} (h : ∀ t, x = .ok t → State.Keeps s₀ (f t).1) :
    KeepsExP s₀ (x.map f) := by
  intro t e
  cases x with
  | error _ => cases e
  | ok a => cases e; exact h a rfl

theorem KeepsExP.elim {ε α : Type} {s₀ t : State} {a : α} {x : Except ε (State × α)} (e : x = .ok (t, a)) (h : KeepsExP s₀ x) : State.Keeps s₀ t := h _ e

/-- The same of an optional state. -/
def KeepsOpt (s₀ : State) (x : Option State) : Prop := ∀ t, x = some t → State.Keeps s₀ t

theorem KeepsOpt.some {s₀ t : State} (h : State.Keeps s₀ t) : KeepsOpt s₀ (some t) := by
  intro u e; cases e; exact h

theorem KeepsOpt.none (s₀ : State) : KeepsOpt s₀ none := by
  intro u e; cases e

theorem KeepsOpt.ite {s₀ : State} {a b : Option State} {c : Prop} [Decidable c] (ha : KeepsOpt s₀ a) (hb : KeepsOpt s₀ b) : KeepsOpt s₀ (if c then a else b) := by
  split <;> assumption

theorem KeepsOpt.elim {s₀ t : State} {x : Option State} (e : x = Option.some t) (h : KeepsOpt s₀ x) : State.Keeps s₀ t := h t e

/-- The same of an optional state with a value. -/
def KeepsOptP {α : Type} (s₀ : State) (x : Option (State × α)) : Prop := ∀ t, x = some t → State.Keeps s₀ t.1

theorem KeepsOptP.some {α : Type} {s₀ : State} {t : State × α} (h : State.Keeps s₀ t.1) : KeepsOptP s₀ (some t) := by
  intro u e; cases e; exact h

theorem KeepsOptP.none {α : Type} (s₀ : State) : KeepsOptP s₀ (none : Option (State × α)) := by
  intro u e; cases e

theorem KeepsOptP.ite {α : Type} {s₀ : State} {a b : Option (State × α)} {c : Prop} [Decidable c] (ha : KeepsOptP s₀ a) (hb : KeepsOptP s₀ b) :
    KeepsOptP s₀ (if c then a else b) := by
  split <;> assumption

theorem KeepsOptP.elim {α : Type} {s₀ t : State} {a : α} {x : Option (State × α)} (e : x = Option.some (t, a)) (h : KeepsOptP s₀ x) : State.Keeps s₀ t := h _ e

theorem KeepsOpt.elim_fst {α : Type} {s₀ t : State} {a : α} {x : Option State × α} (e : x = (Option.some t, a)) (h : KeepsOpt s₀ x.1) : State.Keeps s₀ t := by
  subst e; exact h t rfl

theorem KeepsOptP.getD {α : Type} {s₀ t : State} {x : Option (State × α)} (h : KeepsOptP s₀ x) (ht : State.Keeps s₀ t) :
    State.Keeps s₀ ((x.map (·.1)).getD t) := by
  cases x with
  | none => exact ht
  | some a => exact h a rfl

/-! ### The operations that touch what is kept -/

theorem State.forEach_keeps {α : Type} {s₀ s : State} (h : State.Keeps s₀ s) (xs : List α) (f : State → α → State)
    (hf : ∀ t x, State.Keeps s₀ t → State.Keeps s₀ (f t x)) : State.Keeps s₀ (s.forEach xs f) := by
  unfold State.forEach
  induction xs generalizing s with
  | nil => exact h
  | cons x xs ih => exact ih (hf s x h)

theorem foldl_keeps {α : Type} {s₀ s : State} (h : State.Keeps s₀ s) (xs : List α) (f : State → α → State)
    (hf : ∀ t x, State.Keeps s₀ t → State.Keeps s₀ (f t x)) : State.Keeps s₀ (xs.foldl f s) :=
  State.forEach_keeps h xs f hf

theorem foldl_fst_keeps {α β : Type} {s₀ : State} {p : State × β} (h : State.Keeps s₀ p.1) (xs : List α) (f : State × β → α → State × β)
    (hf : ∀ t x, State.Keeps s₀ t.1 → State.Keeps s₀ (f t x).1) : State.Keeps s₀ (xs.foldl f p).1 := by
  induction xs generalizing p with
  | nil => exact h
  | cons x xs ih => exact ih (hf p x h)

theorem State.setObj_keeps {s₀ s : State} (h : State.Keeps s₀ s) (key : Nat) (v : Word64) : State.Keeps s₀ (s.setObj key v) :=
  ⟨h.queue, h.free, h.out, fun c => by
    have := h.canon c
    simp only [State.canonical, State.setObj, Bool.and_eq_true] at *
    exact ⟨⟨this.1.1, TMap.wf_set _ _ this.1.2⟩, this.2⟩⟩

theorem State.setDom_keeps {s₀ s : State} (h : State.Keeps s₀ s) (key : Nat) (v : List Byte) : State.Keeps s₀ (s.setDom key v) :=
  ⟨h.queue, h.free, h.out, fun c => by
    have := h.canon c
    simp only [State.canonical, State.setDom, Bool.and_eq_true] at *
    exact ⟨this.1, TMap.wf_set _ _ this.2⟩⟩

theorem State.putByte_keeps {s₀ s : State} (h : State.Keeps s₀ s) (a : Nat) (b : Byte) : State.Keeps s₀ (s.putByte a b) := by
  unfold State.putByte
  split
  · exact h
  · exact ⟨h.queue, h.free, h.out, fun c => by
      have := h.canon c
      simp only [State.canonical, Bool.and_eq_true] at *
      exact ⟨⟨TMap.wf_set _ _ this.1.1, this.1.2⟩, this.2⟩⟩

theorem State.putBytes_keeps {s₀ s : State} (h : State.Keeps s₀ s) (a : Nat) (bs : List Byte) : State.Keeps s₀ (s.putBytes a bs) := by
  induction bs generalizing s a with
  | nil => exact h
  | cons b bs ih => exact ih (State.putByte_keeps h a b) (a + 1)

theorem State.zeroRange_keeps {s₀ s : State} (h : State.Keeps s₀ s) (a n : Nat) : State.Keeps s₀ (s.zeroRange a n) :=
  ⟨h.queue, h.free, h.out, fun c => by
    have := h.canon c
    simp only [State.canonical, State.zeroRange, Bool.and_eq_true] at *
    exact ⟨⟨TMap.wf_clearRange _ _ this.1.1, this.1.2⟩, this.2⟩⟩

theorem State.tookFree_keeps {s₀ s : State} (h : State.Keeps s₀ s) (k : Nat) : State.Keeps s₀ (s.tookFree k) :=
  ⟨h.queue, Nat.le_trans h.free (Nat.le_add_right _ _), h.out, h.canon⟩

theorem State.emit_keeps {s₀ s : State} (h : State.Keeps s₀ s) (o : Out) : State.Keeps s₀ (s.emit o) :=
  ⟨h.queue, h.free, h.out.trans (List.suffix_cons _ _), h.canon⟩

end Sys2Proof.Machine
end

