-- ==== Sys2Proof/Laws/KeepOps.lean ====
section
/-! SUPPORT. What the operations of Machine/Ops.lean keep (Laws/Keeps.lean). -/

namespace Sys2Proof.Machine

theorem State.setN_keeps {s₀ s : State} (h : State.Keeps s₀ s) (key n : Nat) : State.Keeps s₀ (State.setN s key n) := by
  unfold State.setN
  repeat' first
    | (with_reducible assumption) | lift_lets | (with_reducible apply State.setObj_keeps)

theorem State.orObj_keeps {s₀ s : State} (h : State.Keeps s₀ s) (key mask : Nat) : State.Keeps s₀ (State.orObj s key mask) := by
  unfold State.orObj
  repeat' first
    | (with_reducible assumption) | lift_lets | (with_reducible apply State.setObj_keeps)

theorem State.clrObj_keeps {s₀ s : State} (h : State.Keeps s₀ s) (key mask : Nat) : State.Keeps s₀ (State.clrObj s key mask) := by
  unfold State.clrObj
  repeat' first
    | (with_reducible assumption) | lift_lets | (with_reducible apply State.setObj_keeps)

theorem State.count_keeps {s₀ s : State} (h : State.Keeps s₀ s) (key n : Nat) (by_ : Nat) : State.Keeps s₀ (State.count s key n by_) := by
  unfold State.count
  repeat' first
    | (with_reducible assumption) | lift_lets | (with_reducible apply State.setObj_keeps)

theorem State.countSat_keeps {s₀ s : State} (h : State.Keeps s₀ s) (key n : Nat) (by_ : Nat) : State.Keeps s₀ (State.countSat s key n by_) := by
  unfold State.countSat
  repeat' first
    | (with_reducible assumption) | lift_lets | (with_reducible apply State.setObj_keeps)

theorem State.wr_keeps {s₀ s : State} (h : State.Keeps s₀ s) (a : Nat) (bs : List Byte) : State.Keeps s₀ (State.wr s a bs) := by
  unfold State.wr
  repeat' first
    | (with_reducible assumption) | (intro x; (with_reducible refine State.Keeps.cut (s₀ := s₀) (x := x) ?_ ?_) <;> [subst x; (clear_value x; intro hx)]) | lift_lets
    | (with_reducible first | apply State.putBytes_keeps | apply State.Keeps.ite | apply State.Keeps.ite_fst) | (with_reducible exact State.Keeps.mk_of (by assumption))

theorem State.wrN_keeps {s₀ s : State} (h : State.Keeps s₀ s) (a n v : Nat) : State.Keeps s₀ (State.wrN s a n v) := by
  unfold State.wrN
  repeat' first
    | (with_reducible assumption) | lift_lets | (with_reducible apply State.wr_keeps)

theorem State.copyRange_keeps {s₀ s : State} (h : State.Keeps s₀ s) (src dst n : Nat) : State.Keeps s₀ (State.copyRange s src dst n) := by
  unfold State.copyRange
  repeat' first
    | (with_reducible assumption) | (intro x; clear_value x) | lift_lets | (with_reducible first | apply State.putByte_keeps | apply State.zeroRange_keeps)
    | (with_reducible refine State.forEach_keeps ?_ _ _ (fun t x ht => ?_))

end Sys2Proof.Machine
end

