-- ==== Sys2Proof/Laws/KeepTimeline.lean ====
section
/-! SUPPORT. What the operations of Machine/Timeline.lean keep (Laws/Keeps.lean). -/

namespace Sys2Proof.Machine

theorem State.cadFired_keeps {s₀ s : State} (h : State.Keeps s₀ s) (e : Nat) : State.Keeps s₀ (State.cadFired s e) := by
  unfold State.cadFired
  repeat' first
    | (with_reducible assumption) | lift_lets | (with_reducible apply State.setObj_keeps)

theorem State.cadLate_keeps {s₀ s : State} (h : State.Keeps s₀ s) (e : Nat) : State.Keeps s₀ (State.cadLate s e) := by
  unfold State.cadLate
  repeat' first
    | (with_reducible assumption) | lift_lets | (with_reducible first | apply State.orObj_keeps | apply State.setObj_keeps)

theorem State.cadMissed_keeps {s₀ s : State} (h : State.Keeps s₀ s) (e : Nat) : State.Keeps s₀ (State.cadMissed s e) := by
  unfold State.cadMissed
  repeat' first
    | (with_reducible assumption) | lift_lets | (with_reducible first | apply State.orObj_keeps | apply State.setObj_keeps)

theorem State.cadOff_keeps {s₀ s : State} (h : State.Keeps s₀ s) (e : Nat) : State.Keeps s₀ (State.cadOff s e) := by
  unfold State.cadOff
  repeat' first
    | (with_reducible assumption) | lift_lets | (with_reducible apply State.setObj_keeps)

theorem State.cadDueLate_keeps {s₀ s : State} (h : State.Keeps s₀ s) (e : Nat) : State.Keeps s₀ (State.cadDueLate s e) := by
  unfold State.cadDueLate
  repeat' first
    | (with_reducible assumption) | lift_lets | (with_reducible first | apply State.Keeps.ite | apply State.Keeps.ite_fst)
    | (with_reducible exact State.Keeps.mk_of (by assumption))

theorem State.cadRestart_keeps {s₀ s : State} (h : State.Keeps s₀ s) (e : Nat) : State.Keeps s₀ (State.cadRestart s e) := by
  unfold State.cadRestart
  repeat' first
    | (with_reducible assumption) | (intro x; clear_value x) | lift_lets | (with_reducible first | apply State.Keeps.ite | apply State.Keeps.ite_fst)
    | (with_reducible exact State.Keeps.mk_of (by assumption)) | (dsimp only; with_reducible exact State.Keeps.mk_of (by assumption))

theorem State.armNetwork_keeps {s₀ s : State} (h : State.Keeps s₀ s) (e : Nat) (first : Bool) : State.Keeps s₀ (State.armNetwork s e first) := by
  unfold State.armNetwork
  repeat' first
    | (with_reducible assumption) | (intro x; (with_reducible refine State.Keeps.cut (s₀ := s₀) (x := x) ?_ ?_) <;> [subst x; (clear_value x; intro hx)]) | lift_lets
    | (with_reducible first | apply State.cadDueLate_keeps | apply State.cadLate_keeps | apply State.cadMissed_keeps | apply State.cadOff_keeps | apply State.cadRestart_keeps | apply State.setN_keeps | apply State.Keeps.ite | apply State.Keeps.ite_fst)
    | (with_reducible exact State.Keeps.mk_of (by assumption)) | (fail_if_no_progress (with_reducible refine State.Keeps.mk_of ?_)) | split

theorem State.armSensor_keeps {s₀ s : State} (h : State.Keeps s₀ s) (e : Nat) : State.Keeps s₀ (State.armSensor s e) := by
  unfold State.armSensor
  repeat' first
    | (with_reducible assumption) | (intro x; (with_reducible refine State.Keeps.cut (s₀ := s₀) (x := x) ?_ ?_) <;> [subst x; (clear_value x; intro hx)])
    | (intro x; clear_value x) | lift_lets
    | (with_reducible first | apply State.cadOff_keeps | apply State.cadRestart_keeps | apply State.setN_keeps | apply State.Keeps.ite | apply State.Keeps.ite_fst)
    | (with_reducible exact State.Keeps.mk_of (by assumption)) | (fail_if_no_progress (with_reducible refine State.Keeps.mk_of ?_)) | split

theorem State.armEntry_keeps {s₀ s : State} (h : State.Keeps s₀ s) (e : Nat) : State.Keeps s₀ (State.armEntry s e) := by
  unfold State.armEntry
  repeat' first
    | (with_reducible assumption) | lift_lets
    | (with_reducible first | apply State.armNetwork_keeps | apply State.armSensor_keeps | apply State.cadRestart_keeps | apply State.setN_keeps | apply State.Keeps.ite)

theorem State.cadAfterStep_keeps {s₀ s : State} (h : State.Keeps s₀ s) (e : Nat) : State.Keeps s₀ (State.cadAfterStep s e) := by
  unfold State.cadAfterStep
  repeat' first
    | (with_reducible assumption) | (intro x; (with_reducible refine State.Keeps.cut (s₀ := s₀) (x := x) ?_ ?_) <;> [subst x; (clear_value x; intro hx)]) | lift_lets
    | (with_reducible first | apply State.cadDueLate_keeps | apply State.cadLate_keeps | apply State.cadMissed_keeps | apply State.cadOff_keeps | apply State.setN_keeps | apply State.Keeps.ite | apply State.Keeps.ite_fst)
    | (with_reducible exact State.Keeps.mk_of (by assumption)) | (fail_if_no_progress (with_reducible refine State.Keeps.mk_of ?_)) | split

theorem State.selStep_keeps {s₀ s : State} (h : State.Keeps s₀ s) (arms : Bool) : State.Keeps s₀ (State.selStep s arms) := by
  unfold State.selStep
  repeat' first
    | (with_reducible assumption) | (intro x; (with_reducible refine State.Keeps.cut (s₀ := s₀) (x := x) ?_ ?_) <;> [subst x; (clear_value x; intro hx)])
    | (intro x; clear_value x) | lift_lets
    | (with_reducible first | apply State.cadAfterStep_keeps | apply State.setObj_keeps | apply State.Keeps.ite | apply State.Keeps.ite_fst)
    | (with_reducible refine State.forEach_keeps ?_ _ _ (fun t x ht => ?_)) | (with_reducible exact State.Keeps.mk_of (by assumption))

theorem State.selMeasure_keeps {s₀ s : State} (h : State.Keeps s₀ s) (before : Int) (arms : Bool) : State.Keeps s₀ (State.selMeasure s before arms) := by
  unfold State.selMeasure
  repeat' first
    | (with_reducible assumption) | (intro x; clear_value x) | lift_lets
    | (with_reducible first | apply State.selStep_keeps | apply State.Keeps.ite | apply State.Keeps.ite_fst) | (with_reducible exact State.Keeps.mk_of (by assumption))

theorem State.selectDomain_keeps {s₀ s : State} (h : State.Keeps s₀ s) (b : Nat) : State.Keeps s₀ (State.selectDomain s b) := by
  unfold State.selectDomain
  repeat' first
    | (with_reducible assumption) | (intro x; clear_value x) | lift_lets
    | (with_reducible first | apply State.selMeasure_keeps | apply State.setN_keeps | apply State.Keeps.ite)

theorem State.setPair_keeps {s₀ s : State} (h : State.Keeps s₀ s) (d : Nat) (offset rate : Int) : State.Keeps s₀ (State.setPair s d offset rate) := by
  unfold State.setPair
  repeat' first
    | (with_reducible assumption) | (intro x; (with_reducible refine State.Keeps.cut (s₀ := s₀) (x := x) ?_ ?_) <;> [subst x; (clear_value x; intro hx)]) | lift_lets
    | (with_reducible first | apply State.setN_keeps | apply State.setObj_keeps)

theorem State.setPairFrom_keeps {s₀ s : State} (h : State.Keeps s₀ s) (d : Nat) (rate step : Int) : State.Keeps s₀ (State.setPairFrom s d rate step) := by
  unfold State.setPairFrom
  repeat' first
    | (with_reducible assumption) | (intro x; clear_value x) | lift_lets | (with_reducible apply State.setPair_keeps)

theorem State.setGd_keeps {s₀ s : State} (h : State.Keeps s₀ s) (d : Nat) (g : GDom) : State.Keeps s₀ (State.setGd s d g) := by
  unfold State.setGd
  repeat' first
    | (with_reducible assumption) | lift_lets | (with_reducible first | apply State.Keeps.ite | apply State.Keeps.ite_fst)
    | (with_reducible exact State.Keeps.mk_of (by assumption))

theorem State.leaveLocked_keeps {s₀ s : State} (h : State.Keeps s₀ s) (d st : Nat) : State.Keeps s₀ (State.leaveLocked s d st) := by
  unfold State.leaveLocked
  repeat' first
    | (with_reducible assumption) | (intro x; (with_reducible refine State.Keeps.cut (s₀ := s₀) (x := x) ?_ ?_) <;> [subst x; (clear_value x; intro hx)])
    | (intro x; clear_value x) | lift_lets | (with_reducible first | apply State.selectDomain_keeps | apply State.setN_keeps | apply State.Keeps.ite)

end Sys2Proof.Machine
end

