-- ==== Sys2Proof/Laws/KeepSafe.lean ====
section
/-! SUPPORT. What the operations of Machine/Safe.lean keep (Laws/Keeps.lean). -/

namespace Sys2Proof.Machine

theorem State.notice_keeps {s₀ s : State} (h : State.Keeps s₀ s) (code : Nat) (time : Word64) (args : List Word64) :
    State.Keeps s₀ (State.notice s code time args) :=
  ⟨h.queue, h.free, h.out.trans (List.suffix_append _ _), h.canon⟩

theorem State.safetyNotice_keeps {s₀ s : State} (h : State.Keeps s₀ s) (code : Nat) (time : Word64) (args : List Word64) : State.Keeps s₀ (State.safetyNotice s code time args) := by
  unfold State.safetyNotice
  repeat' first
    | (with_reducible assumption) | (intro x; (with_reducible refine State.Keeps.cut (s₀ := s₀) (x := x) ?_ ?_) <;> [subst x; (clear_value x; intro hx)]) | lift_lets
    | (with_reducible first | apply State.emit_keeps | apply State.notice_keeps | apply State.Keeps.ite | apply State.Keeps.ite_fst)
    | (with_reducible exact State.Keeps.mk_of (by assumption))

theorem State.strata_keeps {s₀ s : State} (h : State.Keeps s₀ s) (t detail : Nat) (cause : Word64) : State.Keeps s₀ (State.strata s t detail cause) := by
  unfold State.strata
  repeat' first
    | (with_reducible assumption) | (intro x; (with_reducible refine State.Keeps.cut (s₀ := s₀) (x := x) ?_ ?_) <;> [subst x; (clear_value x; intro hx)])
    | (intro x; clear_value x) | lift_lets | (with_reducible first | apply State.count_keeps | apply State.setN_keeps | apply State.Keeps.ite | apply State.Keeps.ite_fst)
    | (with_reducible exact State.Keeps.mk_of (by assumption))

theorem State.strataEvent_keeps {s₀ s : State} (h : State.Keeps s₀ s) (t : Nat) : State.Keeps s₀ (State.strataEvent s t) := by
  unfold State.strataEvent
  repeat' first
    | (with_reducible assumption) | lift_lets | (with_reducible first | apply State.strata_keeps | apply State.tookFree_keeps)

theorem State.startCopy_keeps {s₀ s : State} (h : State.Keeps s₀ s)  : State.Keeps s₀ (State.startCopy s) := by
  unfold State.startCopy
  repeat' first
    | (with_reducible assumption) | (intro x; (with_reducible refine State.Keeps.cut (s₀ := s₀) (x := x) ?_ ?_) <;> [subst x; (clear_value x; intro hx)])
    | (intro x; clear_value x) | lift_lets | (with_reducible first | apply State.setN_keeps | apply State.Keeps.ite | apply State.Keeps.ite_fst)
    | (with_reducible exact State.Keeps.mk_of (by assumption))

theorem State.copyDue_keeps {s₀ s : State} (h : State.Keeps s₀ s)  : State.Keeps s₀ (State.copyDue s) := by
  unfold State.copyDue
  repeat' first
    | (with_reducible assumption) | lift_lets | (with_reducible first | apply State.startCopy_keeps | apply State.Keeps.ite | apply State.Keeps.ite_fst)
    | (with_reducible exact State.Keeps.mk_of (by assumption))

theorem State.pipeFallback_keeps {s₀ s : State} (h : State.Keeps s₀ s) (p : Nat) : State.Keeps s₀ (State.pipeFallback s p) := by
  unfold State.pipeFallback
  repeat' first
    | (with_reducible assumption) | lift_lets | (with_reducible first | apply State.orObj_keeps | apply State.setN_keeps | apply State.Keeps.ite)

theorem State.safeTrigger_keeps {s₀ s : State} (h : State.Keeps s₀ s) (code unit_ detail : Nat) : State.Keeps s₀ (State.safeTrigger s code unit_ detail) := by
  unfold State.safeTrigger
  repeat' first
    | (with_reducible assumption) | (intro x; (with_reducible refine State.Keeps.cut (s₀ := s₀) (x := x) ?_ ?_) <;> [subst x; (clear_value x; intro hx)])
    | (intro x; clear_value x) | lift_lets
    | (with_reducible first | apply State.copyDue_keeps | apply State.count_keeps | apply State.orObj_keeps | apply State.pipeFallback_keeps | apply State.safetyNotice_keeps | apply State.setN_keeps | apply State.setObj_keeps | apply State.strata_keeps | apply State.Keeps.ite | apply State.Keeps.ite_fst)
    | (with_reducible refine State.forEach_keeps ?_ _ _ (fun t x ht => ?_)) | (with_reducible exact State.Keeps.mk_of (by assumption))

theorem State.goldenEvent_keeps {s₀ s : State} (h : State.Keeps s₀ s) (j kind : Nat) : State.Keeps s₀ (State.goldenEvent s j kind) := by
  unfold State.goldenEvent
  repeat' first
    | (with_reducible assumption) | (intro x; (with_reducible refine State.Keeps.cut (s₀ := s₀) (x := x) ?_ ?_) <;> [subst x; (clear_value x; intro hx)]) | lift_lets
    | (with_reducible first | apply State.count_keeps | apply State.orObj_keeps | apply State.safetyNotice_keeps | apply State.strataEvent_keeps)

theorem State.setGolden_keeps {s₀ s : State} (h : State.Keeps s₀ s) (j n : Nat) : State.Keeps s₀ (State.setGolden s j n) := by
  unfold State.setGolden
  repeat' first
    | (with_reducible assumption) | lift_lets | (with_reducible first | apply State.Keeps.ite | apply State.Keeps.ite_fst)
    | (with_reducible exact State.Keeps.mk_of (by assumption))

theorem State.goldenFired_keeps {s₀ s : State} (h : State.Keeps s₀ s) (m h e : Nat) : State.Keeps s₀ (State.goldenFired s m h e) := by
  unfold State.goldenFired
  repeat' first
    | (with_reducible assumption) | lift_lets | (with_reducible apply State.setGolden_keeps) | (with_reducible refine State.forEach_keeps ?_ _ _ (fun t x ht => ?_))

theorem State.goldenBegun_keeps {s₀ s : State} (h : State.Keeps s₀ s) (m h : Nat) : State.Keeps s₀ (State.goldenBegun s m h) := by
  unfold State.goldenBegun
  repeat' first
    | (with_reducible assumption) | lift_lets | (with_reducible apply State.setGolden_keeps) | (with_reducible refine State.forEach_keeps ?_ _ _ (fun t x ht => ?_))

theorem State.goldenDropped_keeps {s₀ s : State} (h : State.Keeps s₀ s) (m h : Nat) : State.Keeps s₀ (State.goldenDropped s m h) := by
  unfold State.goldenDropped
  repeat' first
    | (with_reducible assumption) | lift_lets | (with_reducible first | apply State.goldenEvent_keeps | apply State.setGolden_keeps)
    | (with_reducible refine State.forEach_keeps ?_ _ _ (fun t x ht => ?_))

theorem State.goldenCheck_keeps {s₀ s : State} (h : State.Keeps s₀ s) (m h : Nat) (outputs : List Byte) : State.Keeps s₀ (State.goldenCheck s m h outputs) := by
  unfold State.goldenCheck
  repeat' first
    | (with_reducible assumption) | (intro x; (with_reducible refine State.Keeps.cut (s₀ := s₀) (x := x) ?_ ?_) <;> [subst x; (clear_value x; intro hx)])
    | (intro x; clear_value x) | lift_lets
    | (with_reducible first | apply State.count_keeps | apply State.goldenEvent_keeps | apply State.safeTrigger_keeps | apply State.setObj_keeps | apply State.Keeps.ite)
    | (with_reducible refine State.forEach_keeps ?_ _ _ (fun t x ht => ?_))

end Sys2Proof.Machine
end

