-- ==== Sys2Proof/Laws/KeepOperands.lean ====
section
/-! SUPPORT. What the operations of Machine/Operands.lean keep (Laws/Keeps.lean). -/

namespace Sys2Proof.Machine

/-- The same of what a tensor write leaves, which may fail. -/
def KeepsExW {ε : Type} (s₀ : State) (x : Except ε Written) : Prop := ∀ t, x = .ok t → State.Keeps s₀ t.s

theorem KeepsExW.ok {ε : Type} {s₀ : State} {t : Written} (h : State.Keeps s₀ t.s) : KeepsExW s₀ (Except.ok t : Except ε Written) := by
  intro u e; cases e; exact h

theorem KeepsExW.error {ε : Type} {s₀ : State} (f : ε) : KeepsExW s₀ (Except.error f) := by
  intro u e; cases e

theorem KeepsExW.ite {ε : Type} {s₀ : State} {a b : Except ε Written} {c : Prop} [Decidable c] (ha : KeepsExW s₀ a) (hb : KeepsExW s₀ b) :
    KeepsExW s₀ (if c then a else b) := by
  split <;> assumption

theorem KeepsExW.bind {ε α : Type} {s₀ : State} {x : Except ε α} {f : α → Except ε Written} (h : ∀ a, x = .ok a → KeepsExW s₀ (f a)) : KeepsExW s₀ (x >>= f) := by
  intro t e
  cases x with
  | error _ => cases e
  | ok a => exact h a rfl t e

theorem KeepsExW.elim {ε : Type} {s₀ : State} {t : Written} {x : Except ε Written} (e : x = .ok t) (h : KeepsExW s₀ x) : State.Keeps s₀ t.s := h t e

theorem State.wrSpace_keeps {s₀ s : State} (h : State.Keeps s₀ s) (n space off : Nat) (bs : List Byte) : State.Keeps s₀ (State.wrSpace s n space off bs) := by
  unfold State.wrSpace
  repeat' first
    | (with_reducible assumption) | lift_lets | (with_reducible apply State.wr_keeps)

theorem State.wrTensor_keeps {s₀ s : State} (h : State.Keeps s₀ s) (n : Nat) (d : Desc) (f : Nat → Nat → Nat → Nat → Nat) : State.Keeps s₀ (State.wrTensor s n d f) := by
  unfold State.wrTensor
  repeat' first
    | (with_reducible assumption) | lift_lets | (with_reducible apply State.wrSpace_keeps) | (with_reducible refine State.forEach_keeps ?_ _ _ (fun t x ht => ?_))

theorem State.wrVals_keeps {s₀ s : State} (h : State.Keeps s₀ s) (n : Nat) (d : Desc) (satFp : Bool) (vals : List FVal) (modes : List RMode) (clampF : Nat → Nat) : State.Keeps s₀ (State.wrVals s n d satFp vals modes clampF).s := by
  unfold State.wrVals
  repeat' first
    | (with_reducible assumption) | (intro x; (with_reducible refine State.Keeps.cut (s₀ := s₀) (x := x) ?_ ?_) <;> [subst x; (clear_value x; intro hx)])
    | (intro x; clear_value x) | lift_lets
    | (with_reducible first | apply State.count_keeps | apply State.tookFree_keeps | apply State.wrSpace_keeps | apply State.wrTensor_keeps | apply State.Keeps.ite | apply State.Keeps.ite_fst | apply KeepsExW.ite | apply KeepsExW.ok | apply KeepsExW.error)
    | (with_reducible exact State.Keeps.mk_of (by assumption)) | (fail_if_no_progress (with_reducible refine State.Keeps.mk_of ?_)) | split

end Sys2Proof.Machine
end

