-- ==== Sys2Proof/Laws/KeepCores.lean ====
section
/-! SUPPORT. What the operations of Machine/Cores.lean keep (Laws/Keeps.lean). -/

namespace Sys2Proof.Machine

theorem State.setCore_keeps {s₀ s : State} (h : State.Keeps s₀ s) (n : Nat) (c : CoreSt) : State.Keeps s₀ (State.setCore s n c) := by
  unfold State.setCore
  repeat' first
    | (with_reducible assumption) | lift_lets | (with_reducible first | apply State.Keeps.ite | apply State.Keeps.ite_fst)
    | (with_reducible exact State.Keeps.mk_of (by assumption))

theorem State.upCore_keeps {s₀ s : State} (h : State.Keeps s₀ s) (n : Nat) (f : CoreSt → CoreSt) : State.Keeps s₀ (State.upCore s n f) := by
  unfold State.upCore
  repeat' first
    | (with_reducible assumption) | lift_lets | (with_reducible apply State.setCore_keeps)

theorem State.setInst_keeps {s₀ s : State} (h : State.Keeps s₀ s) (m : Nat) (x : InstSt) : State.Keeps s₀ (State.setInst s m x) := by
  unfold State.setInst
  repeat' first
    | (with_reducible assumption) | lift_lets | (with_reducible first | apply State.Keeps.ite | apply State.Keeps.ite_fst)
    | (with_reducible exact State.Keeps.mk_of (by assumption))

theorem State.upInst_keeps {s₀ s : State} (h : State.Keeps s₀ s) (m : Nat) (f : InstSt → InstSt) : State.Keeps s₀ (State.upInst s m f) := by
  unfold State.upInst
  repeat' first
    | (with_reducible assumption) | lift_lets | (with_reducible apply State.setInst_keeps)

theorem State.upInv_keeps {s₀ s : State} (h : State.Keeps s₀ s) (m num : Nat) (f : InvSt → InvSt) : State.Keeps s₀ (State.upInv s m num f) := by
  unfold State.upInv
  repeat' first
    | (with_reducible assumption) | lift_lets | (with_reducible apply State.upInst_keeps)

theorem State.accountPs_keeps {s₀ s : State} (h : State.Keeps s₀ s) (m sub ps : Nat) : State.Keeps s₀ (State.accountPs s m sub ps) := by
  unfold State.accountPs
  repeat' first
    | (with_reducible assumption) | (intro x; clear_value x) | lift_lets
    | (with_reducible first | apply State.count_keeps | apply State.upInst_keeps | apply State.Keeps.ite)

theorem State.account_keeps {s₀ s : State} (h : State.Keeps s₀ s) (n sub cycles : Nat) : State.Keeps s₀ (State.account s n sub cycles) := by
  unfold State.account
  repeat' first
    | (with_reducible assumption) | lift_lets | (with_reducible apply State.accountPs_keeps)

theorem State.countBytes_keeps {s₀ s : State} (h : State.Keeps s₀ s) (m a len : Nat) (write : Bool) : State.Keeps s₀ (State.countBytes s m a len write) := by
  unfold State.countBytes
  repeat' first
    | (with_reducible assumption) | lift_lets | (with_reducible first | apply State.count_keeps | apply State.Keeps.ite | apply State.Keeps.ite_fst)
    | (with_reducible exact State.Keeps.mk_of (by assumption)) | (fail_if_no_progress (with_reducible refine State.Keeps.mk_of ?_)) | split

theorem State.countDesc_keeps {s₀ s : State} (h : State.Keeps s₀ s) (n : Nat) (d : Desc) (write : Bool) : State.Keeps s₀ (State.countDesc s n d write) := by
  unfold State.countDesc
  repeat' first
    | (with_reducible assumption) | lift_lets | (with_reducible apply State.countBytes_keeps) | (with_reducible refine State.forEach_keeps ?_ _ _ (fun t x ht => ?_))

theorem State.syncLevels_keeps {s₀ s : State} (h : State.Keeps s₀ s) (n : Nat) : State.Keeps s₀ (State.syncLevels s n) := by
  unfold State.syncLevels
  repeat' first
    | (with_reducible assumption) | (intro x; clear_value x) | lift_lets | (with_reducible apply State.setN_keeps)

theorem State.dropPebble_keeps {s₀ s : State} (h : State.Keeps s₀ s) (n : Nat) : State.Keeps s₀ (State.dropPebble s n) := by
  unfold State.dropPebble
  repeat' first
    | (with_reducible assumption) | (intro x; clear_value x) | lift_lets | (with_reducible first | apply State.Keeps.ite | apply State.Keeps.ite_fst)
    | (with_reducible exact State.Keeps.mk_of (by assumption))

theorem State.abortCore_keeps {s₀ s : State} (h : State.Keeps s₀ s) (n : Nat) (h : Hold) : State.Keeps s₀ (State.abortCore s n h) := by
  unfold State.abortCore
  repeat' first
    | (with_reducible assumption) | (intro x; (with_reducible refine State.Keeps.cut (s₀ := s₀) (x := x) ?_ ?_) <;> [subst x; (clear_value x; intro hx)]) | lift_lets
    | (with_reducible first | apply State.dropPebble_keeps | apply State.syncLevels_keeps | apply State.upCore_keeps | apply State.upInst_keeps | apply State.Keeps.ite | apply State.Keeps.ite_fst)
    | (with_reducible exact State.Keeps.mk_of (by assumption))

theorem State.except_keeps {s₀ s : State} (h : State.Keeps s₀ s) (n queue addr : Nat) (e : Exc) : State.Keeps s₀ (State.except s n queue addr e) := by
  unfold State.except
  repeat' first
    | (with_reducible assumption) | (intro x; (with_reducible refine State.Keeps.cut (s₀ := s₀) (x := x) ?_ ?_) <;> [subst x; (clear_value x; intro hx)]) | lift_lets
    | (with_reducible first | apply State.abortCore_keeps | apply State.countSat_keeps | apply State.setN_keeps | apply State.Keeps.ite)

theorem State.retire_keeps {s₀ s : State} (h : State.Keeps s₀ s) (n : Nat) : State.Keeps s₀ (State.retire s n) := by
  unfold State.retire
  repeat' first
    | (with_reducible assumption) | lift_lets | (with_reducible first | apply State.count_keeps | apply State.upCore_keeps)

theorem State.addCtr_keeps {s₀ s : State} (h : State.Keeps s₀ s) (n t i v queue addr : Nat) : State.Keeps s₀ (State.addCtr s n t i v queue addr) := by
  unfold State.addCtr
  repeat' first
    | (with_reducible assumption) | lift_lets | (with_reducible first | apply State.except_keeps | apply State.setN_keeps | apply State.Keeps.ite)

theorem State.signalSe_keeps {s₀ s : State} (h : State.Keeps s₀ s) (n queue addr : Nat) (op : OpWord) : State.Keeps s₀ (State.signalSe s n queue addr op) := by
  unfold State.signalSe
  repeat' first
    | (with_reducible assumption) | lift_lets | (with_reducible first | apply State.addCtr_keeps | apply State.Keeps.ite)

theorem State.dispatch_keeps {s₀ s : State} (h : State.Keeps s₀ s) (n : Nat) (op : OpWord) (fields : List (Nat × Nat)) (room : Bool) (body : Nat → State → State) (hb : ∀ pc t, State.Keeps s₀ t → State.Keeps s₀ (body pc t)) : KeepsRes s₀ (State.dispatch s n op fields room body) := by
  unfold State.dispatch
  repeat' first
    | (with_reducible assumption) | (intro x; (with_reducible refine State.Keeps.cut (s₀ := s₀) (x := x) ?_ ?_) <;> [subst x; (clear_value x; intro hx)])
    | (intro x; clear_value x) | lift_lets
    | (with_reducible first | apply State.except_keeps | apply State.retire_keeps | apply State.setN_keeps | apply State.upCore_keeps | apply hb | apply State.Keeps.ite | apply State.Keeps.ite_fst | apply KeepsRes.ite | apply KeepsRes.next)

theorem State.ctlDone_keeps {s₀ s : State} (h : State.Keeps s₀ s) (n : Nat) (op : OpWord) (addr : Nat) : State.Keeps s₀ (State.ctlDone s n op addr) := by
  unfold State.ctlDone
  repeat' first
    | (with_reducible assumption) | lift_lets | (with_reducible first | apply State.retire_keeps | apply State.signalSe_keeps)

theorem State.ctlOp_keeps {s₀ s : State} (h : State.Keeps s₀ s) (n : Nat) (op : OpWord) (fields : List (Nat × Nat)) (act : Nat → State → Except Exc (State × Bool)) (hb : ∀ pc t, State.Keeps s₀ t → KeepsExP s₀ (act pc t)) : KeepsRes s₀ (State.ctlOp s n op fields act) := by
  unfold State.ctlOp
  repeat' first
    | (with_reducible assumption) | (intro x; (with_reducible refine State.Keeps.cut (s₀ := s₀) (x := x) ?_ ?_) <;> [subst x; (clear_value x; intro hx)]) | lift_lets
    | (with_reducible first | apply State.ctlDone_keeps | apply State.except_keeps | apply State.setN_keeps | apply hb | apply State.Keeps.ite | apply State.Keeps.ite_fst | apply KeepsRes.ite | apply KeepsRes.next | apply KeepsRes.fault)
    | (with_reducible refine State.dispatch_keeps ?_ _ _ _ _ _ (fun pc t ht => ?_)) | (with_reducible exact State.Keeps.mk_of (by assumption))
    | (fail_if_no_progress (with_reducible refine State.Keeps.mk_of ?_)) | split | (refine State.Keeps.of_fst (by assumption) ?_) | (refine KeepsEx.elim (by assumption) ?_)
    | (refine KeepsExP.elim (by assumption) ?_)

theorem State.holdOn_keeps {s₀ s : State} (h : State.Keeps s₀ s) (n : Nat) (h : Hold) : State.Keeps s₀ (State.holdOn s n h) := by
  unfold State.holdOn
  repeat' first
    | (with_reducible assumption) | lift_lets | (with_reducible apply State.upCore_keeps)

end Sys2Proof.Machine
end

