-- ==== Sys2Proof/Laws/KeepAccess.lean ====
section
/-! SUPPORT. What the operations of Machine/Access.lean keep (Laws/Keeps.lean). -/

namespace Sys2Proof.Machine

theorem State.upSession_keeps {s₀ s : State} (h : State.Keeps s₀ s) (sid : Nat) (f : Session → Session) : State.Keeps s₀ (State.upSession s sid f) := by
  unfold State.upSession
  repeat' first
    | (with_reducible assumption) | lift_lets | (with_reducible first | apply State.Keeps.ite | apply State.Keeps.ite_fst)
    | (with_reducible exact State.Keeps.mk_of (by assumption))

theorem State.setCtx_keeps {s₀ s : State} (h : State.Keeps s₀ s) (c : Ctx) (x : CtxSt) : State.Keeps s₀ (State.setCtx s c x) := by
  unfold State.setCtx
  repeat' first
    | (with_reducible assumption) | lift_lets | (with_reducible first | apply State.upSession_keeps | apply State.Keeps.ite | apply State.Keeps.ite_fst)
    | (with_reducible exact State.Keeps.mk_of (by assumption)) | (fail_if_no_progress (with_reducible refine State.Keeps.mk_of ?_)) | split

theorem State.plainWrite_keeps {s₀ s : State} (h : State.Keeps s₀ s) (idx sub : Nat) (v : Word64) : State.Keeps s₀ (State.plainWrite s idx sub v) := by
  unfold State.plainWrite
  repeat' first
    | (with_reducible assumption) | (intro x; clear_value x) | lift_lets
    | (with_reducible first | apply State.setObj_keeps | apply State.Keeps.ite | apply State.Keeps.ite_fst) | (with_reducible exact State.Keeps.mk_of (by assumption))
    | (fail_if_no_progress (with_reducible refine State.Keeps.mk_of ?_)) | split

theorem State.latch_keeps {s₀ s : State} (h : State.Keeps s₀ s) (c : Ctx) (err idx sub : Nat) : State.Keeps s₀ (State.latch s c err idx sub) := by
  unfold State.latch
  repeat' first
    | (with_reducible assumption) | (intro x; clear_value x) | lift_lets
    | (with_reducible first | apply State.setCtx_keeps | apply State.Keeps.ite | apply State.Keeps.ite_fst) | (with_reducible exact State.Keeps.mk_of (by assumption))
    | (fail_if_no_progress (with_reducible refine State.Keeps.mk_of ?_)) | split

theorem State.refuseAccess_keeps {s₀ s : State} (h : State.Keeps s₀ s) (src : Src) (addr : Nat) : State.Keeps s₀ (State.refuseAccess s src addr) := by
  unfold State.refuseAccess
  repeat' first
    | (with_reducible assumption) | lift_lets | (with_reducible first | apply State.emit_keeps | apply State.Keeps.ite | apply State.Keeps.ite_fst)
    | (with_reducible exact State.Keeps.mk_of (by assumption)) | (fail_if_no_progress (with_reducible refine State.Keeps.mk_of ?_)) | split

theorem State.command_keeps {s₀ s : State} (h : State.Keeps s₀ s) (src : Src) (idx sub : Nat) (v : Word64) (act : Requester → State → Except Nat State) (hb : ∀ r t, State.Keeps s₀ t → KeepsEx s₀ (act r t)) : KeepsRes s₀ (State.command s src idx sub v act) := by
  unfold State.command
  repeat' first
    | (with_reducible assumption) | lift_lets
    | (with_reducible first | apply State.latch_keeps | apply State.refuseAccess_keeps | apply hb | apply State.Keeps.ite | apply State.Keeps.ite_fst | apply KeepsRes.ite | apply KeepsRes.next | apply KeepsRes.fault)
    | (with_reducible exact State.Keeps.mk_of (by assumption)) | (fail_if_no_progress (with_reducible refine State.Keeps.mk_of ?_)) | split
    | (refine State.Keeps.of_fst (by assumption) ?_) | (refine KeepsEx.elim (by assumption) ?_)

end Sys2Proof.Machine
end

