-- ==== Sys2Proof/Laws/KeepFlint.lean ====
section
/-! SUPPORT. What the operations of Machine/Flint.lean keep (Laws/Keeps.lean). -/

namespace Sys2Proof.Machine

theorem State.setEntry_keeps {s₀ s : State} (h : State.Keeps s₀ s) (i : Nat) (e : LedgerEntry) : State.Keeps s₀ (State.setEntry s i e) := by
  unfold State.setEntry
  repeat' first
    | (with_reducible assumption) | lift_lets | (with_reducible first | apply State.Keeps.ite | apply State.Keeps.ite_fst)
    | (with_reducible exact State.Keeps.mk_of (by assumption))

theorem State.groupMoved_keeps {s₀ s : State} (h : State.Keeps s₀ s) (m : Nat) : State.Keeps s₀ (State.groupMoved s m) := by
  unfold State.groupMoved
  repeat' first
    | (with_reducible assumption) | lift_lets | (with_reducible apply State.upInst_keeps)

theorem State.allocEntry_keeps {s₀ s : State} (h : State.Keeps s₀ s) (m n : Nat) (group : Word32) : State.Keeps s₀ (State.allocEntry s m n group) := by
  unfold State.allocEntry
  repeat' first
    | (with_reducible assumption) | (intro x; (with_reducible refine State.Keeps.cut (s₀ := s₀) (x := x) ?_ ?_) <;> [subst x; (clear_value x; intro hx)])
    | (intro x; clear_value x) | lift_lets
    | (with_reducible first | apply State.count_keeps | apply State.groupMoved_keeps | apply State.setEntry_keeps | apply State.setObj_keeps | apply State.tookFree_keeps | apply State.Keeps.ite | apply State.Keeps.ite_fst)
    | (with_reducible exact State.Keeps.mk_of (by assumption)) | (fail_if_no_progress (with_reducible refine State.Keeps.mk_of ?_)) | split

theorem State.openSlot_keeps {s₀ s : State} (h : State.Keeps s₀ s) (n : Nat) (op : OpWord) (group : Word32) : State.Keeps s₀ (State.openSlot s n op group) := by
  unfold State.openSlot
  repeat' first
    | (with_reducible assumption) | lift_lets | (with_reducible apply State.upCore_keeps)

theorem State.grantStall_keeps {s₀ s : State} (h : State.Keeps s₀ s) (m : Nat) : State.Keeps s₀ (State.grantStall s m) := by
  unfold State.grantStall
  repeat' first
    | (with_reducible assumption) | (intro x; (with_reducible refine State.Keeps.cut (s₀ := s₀) (x := x) ?_ ?_) <;> [subst x; (clear_value x; intro hx)]) | lift_lets
    | (with_reducible first | apply State.allocEntry_keeps | apply State.count_keeps | apply State.ctlDone_keeps | apply State.except_keeps | apply State.openSlot_keeps | apply State.upCore_keeps | apply State.upInst_keeps | apply State.Keeps.ite | apply State.Keeps.ite_fst | apply KeepsOptP.getD)
    | (with_reducible exact State.Keeps.mk_of (by assumption)) | (fail_if_no_progress (with_reducible refine State.Keeps.mk_of ?_)) | split
    | (refine State.Keeps.of_fst (by assumption) ?_) | (refine KeepsEx.elim (by assumption) ?_) | (refine KeepsExP.elim (by assumption) ?_)
    | (refine KeepsExW.elim (by assumption) ?_) | (refine KeepsOptP.elim (by assumption) ?_) | (refine KeepsOpt.elim (by assumption) ?_)
    | (refine KeepsRes.elim (by assumption) ?_) | (refine KeepsOpt.elim_fst (by assumption) ?_) | (dsimp only)

theorem State.freeEntry_keeps {s₀ s : State} (h : State.Keeps s₀ s) (i : Nat) : State.Keeps s₀ (State.freeEntry s i) := by
  unfold State.freeEntry
  repeat' first
    | (with_reducible assumption) | (intro x; (with_reducible refine State.Keeps.cut (s₀ := s₀) (x := x) ?_ ?_) <;> [subst x; (clear_value x; intro hx)])
    | (intro x; clear_value x) | lift_lets
    | (with_reducible first | apply State.grantStall_keeps | apply State.groupMoved_keeps | apply State.setEntry_keeps | apply State.setN_keeps)

theorem State.withdraw_keeps {s₀ s : State} (h : State.Keeps s₀ s) (p : LedgerEntry → Bool) : State.Keeps s₀ (State.withdraw s p) := by
  unfold State.withdraw
  repeat' first
    | (with_reducible assumption) | lift_lets | (with_reducible apply State.freeEntry_keeps) | (with_reducible refine State.forEach_keeps ?_ _ _ (fun t x ht => ?_))

theorem State.assayEvent_keeps {s₀ s : State} (h : State.Keeps s₀ s) (m kind coreA coreB : Nat) (group : Word32) : State.Keeps s₀ (State.assayEvent s m kind coreA coreB group) := by
  unfold State.assayEvent
  repeat' first
    | (with_reducible assumption) | lift_lets | (with_reducible apply State.setN_keeps)

theorem State.settleKv_keeps {s₀ s : State} (h : State.Keeps s₀ s) (m num : Nat) : State.Keeps s₀ (State.settleKv s m num) := by
  unfold State.settleKv
  repeat' first
    | (with_reducible assumption) | lift_lets | (with_reducible first | apply State.upInst_keeps | apply State.Keeps.ite | apply State.Keeps.ite_fst)
    | (with_reducible exact State.Keeps.mk_of (by assumption)) | (fail_if_no_progress (with_reducible refine State.Keeps.mk_of ?_)) | split

theorem State.setStream_keeps {s₀ s : State} (h : State.Keeps s₀ s) (st : Nat) (x : StreamSt) : State.Keeps s₀ (State.setStream s st x) := by
  unfold State.setStream
  repeat' first
    | (with_reducible assumption) | lift_lets | (with_reducible first | apply State.Keeps.ite | apply State.Keeps.ite_fst)
    | (with_reducible exact State.Keeps.mk_of (by assumption))

theorem State.upStream_keeps {s₀ s : State} (h : State.Keeps s₀ s) (st : Nat) (f : StreamSt → StreamSt) : State.Keeps s₀ (State.upStream s st f) := by
  unfold State.upStream
  repeat' first
    | (with_reducible assumption) | lift_lets | (with_reducible apply State.setStream_keeps)

theorem State.freeRings_keeps {s₀ s : State} (h : State.Keeps s₀ s) (st : Nat) : State.Keeps s₀ (State.freeRings s st) := by
  unfold State.freeRings
  repeat' first
    | (with_reducible assumption) | (intro x; refine State.Keeps.fn x ?_; subst x) | (intro x; clear_value x) | lift_lets
    | (with_reducible first | apply State.setStream_keeps | apply State.upInst_keeps) | (with_reducible refine State.forEach_keeps ?_ _ _ (fun t x ht => ?_))

theorem State.dropHold_keeps {s₀ s : State} (h : State.Keeps s₀ s) (set slot : Nat) : State.Keeps s₀ (State.dropHold s set slot) := by
  unfold State.dropHold
  repeat' first
    | (with_reducible assumption) | (intro x; (with_reducible refine State.Keeps.cut (s₀ := s₀) (x := x) ?_ ?_) <;> [subst x; (clear_value x; intro hx)])
    | (intro x; clear_value x) | lift_lets
    | (with_reducible first | apply State.freeRings_keeps | apply State.upStream_keeps | apply State.Keeps.ite | apply State.Keeps.ite_fst)
    | (with_reducible refine State.forEach_keeps ?_ _ _ (fun t x ht => ?_)) | (with_reducible exact State.Keeps.mk_of (by assumption))

theorem State.settleCaps_keeps {s₀ s : State} (h : State.Keeps s₀ s) (m num : Nat) : State.Keeps s₀ (State.settleCaps s m num) := by
  unfold State.settleCaps
  repeat' first
    | (with_reducible assumption) | lift_lets
    | (with_reducible first | apply State.dropHold_keeps | apply State.upInv_keeps | apply State.Keeps.ite | apply State.Keeps.ite_fst)
    | (with_reducible refine State.forEach_keeps ?_ _ _ (fun t x ht => ?_)) | (with_reducible exact State.Keeps.mk_of (by assumption))
    | (fail_if_no_progress (with_reducible refine State.Keeps.mk_of ?_)) | split

theorem State.settleGroup_keeps {s₀ s : State} (h : State.Keeps s₀ s) (m num r : Nat) (equal : Bool) : State.Keeps s₀ (State.settleGroup s m num r equal) := by
  unfold State.settleGroup
  repeat' first
    | (with_reducible assumption) | (intro x; (with_reducible refine State.Keeps.cut (s₀ := s₀) (x := x) ?_ ?_) <;> [subst x; (clear_value x; intro hx)]) | lift_lets
    | (with_reducible first | apply State.settleCaps_keeps | apply State.settleKv_keeps | apply State.upInv_keeps)

end Sys2Proof.Machine
end

