-- ==== Sys2Proof/Laws/KeepKvMem.lean ====
section
/-! SUPPORT. What the operations of Machine/KvMem.lean keep (Laws/Keeps.lean). -/

namespace Sys2Proof.Machine

theorem State.setPtEntry_keeps {s₀ s : State} (h : State.Keeps s₀ s) (a : Nat) (p : PtEntry) : State.Keeps s₀ (State.setPtEntry s a p) := by
  unfold State.setPtEntry
  repeat' first
    | (with_reducible assumption) | lift_lets | (with_reducible apply State.wrN_keeps)

theorem State.bindFrame_keeps {s₀ s : State} (h : State.Keeps s₀ s) (m : Nat) (c : Cache) (a ptag : Nat) : KeepsOpt s₀ (State.bindFrame s m c a ptag) := by
  unfold State.bindFrame
  repeat' first
    | (with_reducible assumption) | (intro x; (with_reducible refine State.Keeps.cut (s₀ := s₀) (x := x) ?_ ?_) <;> [subst x; (clear_value x; intro hx)]) | lift_lets
    | (with_reducible first | apply State.count_keeps | apply State.setPtEntry_keeps | apply State.tookFree_keeps | apply State.upInst_keeps | apply State.zeroRange_keeps | apply State.Keeps.ite | apply State.Keeps.ite_fst | apply KeepsOpt.ite | apply KeepsOpt.some | apply KeepsOpt.none)
    | (with_reducible exact State.Keeps.mk_of (by assumption)) | (fail_if_no_progress (with_reducible refine State.Keeps.mk_of ?_)) | split

theorem State.unbindFrame_keeps {s₀ s : State} (h : State.Keeps s₀ s) (m : Nat) (c : Cache) (a : Nat) : State.Keeps s₀ (State.unbindFrame s m c a) := by
  unfold State.unbindFrame
  repeat' first
    | (with_reducible assumption) | (intro x; (with_reducible refine State.Keeps.cut (s₀ := s₀) (x := x) ?_ ?_) <;> [subst x; (clear_value x; intro hx)])
    | (intro x; clear_value x) | lift_lets
    | (with_reducible first | apply State.setN_keeps | apply State.setPtEntry_keeps | apply State.upInst_keeps | apply State.zeroRange_keeps | apply State.Keeps.ite)

theorem State.kvStatus_keeps {s₀ s : State} (h : State.Keeps s₀ s) (m cmd cache err : Nat) : State.Keeps s₀ (State.kvStatus s m cmd cache err) := by
  unfold State.kvStatus
  repeat' first
    | (with_reducible assumption) | lift_lets | (with_reducible apply State.setN_keeps)

theorem State.kvCreate_keeps {s₀ s : State} (h : State.Keeps s₀ s) (m k : Nat) : State.Keeps s₀ (State.kvCreate s m k).1 := by
  unfold State.kvCreate
  repeat' first
    | (with_reducible assumption) | (intro x; (with_reducible refine State.Keeps.cut (s₀ := s₀) (x := x) ?_ ?_) <;> [subst x; (clear_value x; intro hx)])
    | (intro x; clear_value x) | lift_lets
    | (with_reducible first | apply State.setN_keeps | apply State.wrN_keeps | apply State.zeroRange_keeps | apply State.Keeps.ite | apply State.Keeps.ite_fst)
    | (with_reducible exact State.Keeps.mk_of (by assumption)) | (fail_if_no_progress (with_reducible refine State.Keeps.mk_of ?_)) | split

theorem State.cleanCache_keeps {s₀ s : State} (h : State.Keeps s₀ s) (m k : Nat) : State.Keeps s₀ (State.cleanCache s m k) := by
  unfold State.cleanCache
  repeat' first
    | (with_reducible assumption) | lift_lets | (with_reducible apply State.clrObj_keeps)

theorem State.kvRelease_keeps {s₀ s : State} (h : State.Keeps s₀ s) (m k : Nat) : State.Keeps s₀ (State.kvRelease s m k) := by
  unfold State.kvRelease
  repeat' first
    | (with_reducible assumption) | (intro x; (with_reducible refine State.Keeps.cut (s₀ := s₀) (x := x) ?_ ?_) <;> [subst x; (clear_value x; intro hx)])
    | (intro x; clear_value x) | lift_lets
    | (with_reducible first | apply State.cleanCache_keeps | apply State.setN_keeps | apply State.unbindFrame_keeps | apply State.upInst_keeps | apply State.wrN_keeps)
    | (with_reducible refine State.forEach_keeps ?_ _ _ (fun t x ht => ?_))

theorem State.kvTruncate_keeps {s₀ s : State} (h : State.Keeps s₀ s) (m k a : Nat) : State.Keeps s₀ (State.kvTruncate s m k a) := by
  unfold State.kvTruncate
  repeat' first
    | (with_reducible assumption) | (intro x; (with_reducible refine State.Keeps.cut (s₀ := s₀) (x := x) ?_ ?_) <;> [subst x; (clear_value x; intro hx)])
    | (intro x; clear_value x) | lift_lets
    | (with_reducible first | apply State.cleanCache_keeps | apply State.setPtEntry_keeps | apply State.unbindFrame_keeps | apply State.Keeps.ite)
    | (with_reducible refine State.forEach_keeps ?_ _ _ (fun t x ht => ?_))

theorem State.bindAll_keeps {s₀ s : State} (h : State.Keeps s₀ s) (m : Nat) (x : Cache) (ps : List (Nat × Nat)) : KeepsOpt s₀ (State.bindAll s m x ps) := by
  induction ps generalizing s with
  | nil => exact KeepsOpt.some h
  | cons p ps ih =>
    unfold State.bindAll
    split
    · exact ih h
    · split
      · exact KeepsOpt.none _
      · exact ih (State.bindFrame_keeps h _ _ _ _ _ (by assumption))

theorem State.kvPrebind_keeps {s₀ s : State} (h : State.Keeps s₀ s) (m k a : Nat) : State.Keeps s₀ (State.kvPrebind s m k a).1 := by
  unfold State.kvPrebind
  repeat' first
    | (with_reducible assumption) | (intro x; clear_value x) | lift_lets
    | (with_reducible first | apply State.bindAll_keeps | apply State.count_keeps | apply State.Keeps.ite | apply State.Keeps.ite_fst)
    | (with_reducible exact State.Keeps.mk_of (by assumption)) | (fail_if_no_progress (with_reducible refine State.Keeps.mk_of ?_)) | split
    | (refine State.Keeps.of_fst (by assumption) ?_) | (refine KeepsEx.elim (by assumption) ?_) | (refine KeepsExP.elim (by assumption) ?_)
    | (refine KeepsExW.elim (by assumption) ?_) | (refine KeepsOptP.elim (by assumption) ?_) | (refine KeepsOpt.elim (by assumption) ?_)

theorem State.kvCommand_keeps {s₀ s : State} (h : State.Keeps s₀ s) (m v : Nat) : State.Keeps s₀ (State.kvCommand s m v) := by
  unfold State.kvCommand
  dsimp only
  repeat' first
    | (with_reducible assumption) | lift_lets
    | (with_reducible first | apply State.kvCreate_keeps | apply State.kvPrebind_keeps | apply State.kvRelease_keeps | apply State.kvStatus_keeps | apply State.kvTruncate_keeps | apply State.Keeps.ite | apply State.Keeps.ite_fst)
    | (with_reducible exact State.Keeps.mk_of (by assumption)) | (fail_if_no_progress (with_reducible refine State.Keeps.mk_of ?_)) | split

end Sys2Proof.Machine
end

