-- ==== Sys2Proof/Laws/KeepGrant.lean ====
section
/-! SUPPORT. What the operations of Machine/Grant.lean keep (Laws/Keeps.lean). -/

namespace Sys2Proof.Machine

theorem State.writeImage_keeps {s₀ s : State} (h : State.Keeps s₀ s) (m n : Nat) : State.Keeps s₀ (State.writeImage s m n) := by
  unfold State.writeImage
  repeat' first
    | (with_reducible assumption) | (intro x; (with_reducible refine State.Keeps.cut (s₀ := s₀) (x := x) ?_ ?_) <;> [subst x; (clear_value x; intro hx)])
    | (intro x; clear_value x) | lift_lets
    | (with_reducible first | apply State.copyRange_keeps | apply State.tookFree_keeps | apply State.wr_keeps | apply State.wrN_keeps | apply State.zeroRange_keeps)
    | (with_reducible refine State.forEach_keeps ?_ _ _ (fun t x ht => ?_))

theorem State.returnPebble_keeps {s₀ s : State} (h : State.Keeps s₀ s) (n : Nat) : State.Keeps s₀ (State.returnPebble s n) := by
  unfold State.returnPebble
  repeat' first
    | (with_reducible assumption) | lift_lets | (with_reducible first | apply State.dropPebble_keeps | apply State.upCore_keeps)

theorem State.saveCore_keeps {s₀ s : State} (h : State.Keeps s₀ s) (n : Nat) : State.Keeps s₀ (State.saveCore s n) := by
  unfold State.saveCore
  repeat' first
    | (with_reducible assumption) | (intro x; (with_reducible refine State.Keeps.cut (s₀ := s₀) (x := x) ?_ ?_) <;> [subst x; (clear_value x; intro hx)])
    | (intro x; clear_value x) | lift_lets
    | (with_reducible first | apply State.count_keeps | apply State.returnPebble_keeps | apply State.setCore_keeps | apply State.setN_keeps | apply State.upInst_keeps | apply State.writeImage_keeps | apply State.Keeps.ite)

theorem State.scrubCore_keeps {s₀ s : State} (h : State.Keeps s₀ s) (n : Nat) : State.Keeps s₀ (State.scrubCore s n) := by
  unfold State.scrubCore
  repeat' first
    | (with_reducible assumption) | (intro x; (with_reducible refine State.Keeps.cut (s₀ := s₀) (x := x) ?_ ?_) <;> [subst x; (clear_value x; intro hx)])
    | (intro x; clear_value x) | lift_lets
    | (with_reducible first | apply State.setCore_keeps | apply State.setN_keeps | apply State.syncLevels_keeps | apply State.zeroRange_keeps)
    | (with_reducible refine State.forEach_keeps ?_ _ _ (fun t x ht => ?_))

theorem State.holdCore_keeps {s₀ s : State} (h : State.Keeps s₀ s) (n m : Nat) : State.Keeps s₀ (State.holdCore s n m) := by
  unfold State.holdCore
  repeat' first
    | (with_reducible assumption) | (intro x; (with_reducible refine State.Keeps.cut (s₀ := s₀) (x := x) ?_ ?_) <;> [subst x; (clear_value x; intro hx)])
    | (intro x; clear_value x) | lift_lets | (with_reducible first | apply State.setN_keeps | apply State.syncLevels_keeps | apply State.upCore_keeps)
    | (with_reducible refine State.forEach_keeps ?_ _ _ (fun t x ht => ?_))

theorem State.restoreCore_keeps {s₀ s : State} (h : State.Keeps s₀ s) (n m : Nat) (c : CoreSt) : State.Keeps s₀ (State.restoreCore s n m c) := by
  unfold State.restoreCore
  repeat' first
    | (with_reducible assumption) | (intro x; (with_reducible refine State.Keeps.cut (s₀ := s₀) (x := x) ?_ ?_) <;> [subst x; (clear_value x; intro hx)])
    | (intro x; clear_value x) | lift_lets
    | (with_reducible first | apply State.copyRange_keeps | apply State.count_keeps | apply State.holdCore_keeps | apply State.setCore_keeps | apply State.setN_keeps | apply State.upInst_keeps)
    | (with_reducible refine State.forEach_keeps ?_ _ _ (fun t x ht => ?_))

theorem State.grantCore_keeps {s₀ s : State} (h : State.Keeps s₀ s) (n m : Nat) : State.Keeps s₀ (State.grantCore s n m) := by
  unfold State.grantCore
  repeat' first
    | (with_reducible assumption) | lift_lets
    | (with_reducible first | apply State.holdCore_keeps | apply State.restoreCore_keeps | apply State.scrubCore_keeps | apply State.setN_keeps | apply State.Keeps.ite | apply State.Keeps.ite_fst)
    | (with_reducible exact State.Keeps.mk_of (by assumption)) | (fail_if_no_progress (with_reducible refine State.Keeps.mk_of ?_)) | split

theorem State.freeCore_keeps {s₀ s : State} (h : State.Keeps s₀ s) (n : Nat) : State.Keeps s₀ (State.freeCore s n) := by
  unfold State.freeCore
  repeat' first
    | (with_reducible assumption) | lift_lets | (with_reducible first | apply State.scrubCore_keeps | apply State.setN_keeps)

theorem State.setPart_keeps {s₀ s : State} (h : State.Keeps s₀ s) (p : Nat) (x : PartSt) : State.Keeps s₀ (State.setPart s p x) := by
  unfold State.setPart
  repeat' first
    | (with_reducible assumption) | lift_lets | (with_reducible first | apply State.Keeps.ite | apply State.Keeps.ite_fst)
    | (with_reducible exact State.Keeps.mk_of (by assumption))

theorem State.upPart_keeps {s₀ s : State} (h : State.Keeps s₀ s) (p : Nat) (f : PartSt → PartSt) : State.Keeps s₀ (State.upPart s p f) := by
  unfold State.upPart
  repeat' first
    | (with_reducible assumption) | lift_lets | (with_reducible apply State.setPart_keeps)

theorem State.refreshLead_keeps {s₀ s : State} (h : State.Keeps s₀ s)  : State.Keeps s₀ (State.refreshLead s) := by
  unfold State.refreshLead
  repeat' first
    | (with_reducible assumption) | lift_lets | (with_reducible apply State.setN_keeps) | (with_reducible refine State.forEach_keeps ?_ _ _ (fun t x ht => ?_))

theorem State.grantPart_keeps {s₀ s : State} (h : State.Keeps s₀ s) (p m left : Nat) : State.Keeps s₀ (State.grantPart s p m left) := by
  unfold State.grantPart
  repeat' first
    | (with_reducible assumption) | (intro x; (with_reducible refine State.Keeps.cut (s₀ := s₀) (x := x) ?_ ?_) <;> [subst x; (clear_value x; intro hx)])
    | (intro x; clear_value x) | lift_lets
    | (with_reducible first | apply State.count_keeps | apply State.grantCore_keeps | apply State.setN_keeps | apply State.upPart_keeps | apply State.Keeps.ite)
    | (with_reducible refine State.forEach_keeps ?_ _ _ (fun t x ht => ?_))

theorem State.releasePart_keeps {s₀ s : State} (h : State.Keeps s₀ s) (p : Nat) : State.Keeps s₀ (State.releasePart s p) := by
  unfold State.releasePart
  repeat' first
    | (with_reducible assumption) | lift_lets | (with_reducible first | apply State.freeCore_keeps | apply State.setN_keeps | apply State.upPart_keeps)
    | (with_reducible refine State.forEach_keeps ?_ _ _ (fun t x ht => ?_))

theorem State.schedule_keeps {s₀ s : State} (h : State.Keeps s₀ s) (p : Nat) : State.Keeps s₀ (State.schedule s p) := by
  unfold State.schedule
  repeat' first
    | (with_reducible assumption) | (intro x; clear_value x) | lift_lets
    | (with_reducible first | apply State.grantPart_keeps | apply State.Keeps.ite | apply State.Keeps.ite_fst) | (with_reducible exact State.Keeps.mk_of (by assumption))
    | (fail_if_no_progress (with_reducible refine State.Keeps.mk_of ?_)) | split

theorem State.yieldSlice_keeps {s₀ s : State} (h : State.Keeps s₀ s) (p : Nat) : State.Keeps s₀ (State.yieldSlice s p) := by
  unfold State.yieldSlice
  repeat' first
    | (with_reducible assumption) | (intro x; clear_value x) | lift_lets
    | (with_reducible first | apply State.grantPart_keeps | apply State.releasePart_keeps | apply State.upPart_keeps | apply State.Keeps.ite | apply State.Keeps.ite_fst)
    | (with_reducible exact State.Keeps.mk_of (by assumption)) | (fail_if_no_progress (with_reducible refine State.Keeps.mk_of ?_)) | split

theorem State.beginSlot_keeps {s₀ s : State} (h : State.Keeps s₀ s) (p m h : Nat) (due : Word64) : State.Keeps s₀ (State.beginSlot s p m h due) := by
  unfold State.beginSlot
  repeat' first
    | (with_reducible assumption) | (intro x; (with_reducible refine State.Keeps.cut (s₀ := s₀) (x := x) ?_ ?_) <;> [subst x; (clear_value x; intro hx)]) | lift_lets
    | (with_reducible first | apply State.count_keeps | apply State.grantPart_keeps | apply State.upPart_keeps | apply State.Keeps.ite)

theorem State.endSlot_keeps {s₀ s : State} (h : State.Keeps s₀ s) (m h : Nat) : State.Keeps s₀ (State.endSlot s m h) := by
  unfold State.endSlot
  repeat' first
    | (with_reducible assumption) | (intro x; (with_reducible refine State.Keeps.cut (s₀ := s₀) (x := x) ?_ ?_) <;> [subst x; (clear_value x; intro hx)])
    | (intro x; clear_value x) | lift_lets
    | (with_reducible first | apply State.beginSlot_keeps | apply State.count_keeps | apply State.grantPart_keeps | apply State.releasePart_keeps | apply State.schedule_keeps | apply State.upPart_keeps | apply State.Keeps.ite | apply State.Keeps.ite_fst)
    | (with_reducible exact State.Keeps.mk_of (by assumption)) | (fail_if_no_progress (with_reducible refine State.Keeps.mk_of ?_)) | split

end Sys2Proof.Machine
end

