-- ==== Sys2Proof/Laws/KeepGarnet.lean ====
section
/-! SUPPORT. What the operations of Machine/Garnet.lean keep (Laws/Keeps.lean). -/

namespace Sys2Proof.Machine

theorem State.garnetRun_keeps {s₀ s : State} (h : State.Keeps s₀ s)  : State.Keeps s₀ (State.garnetRun s) := by
  unfold State.garnetRun
  repeat' first
    | (with_reducible assumption) | (intro x; (with_reducible refine State.Keeps.cut (s₀ := s₀) (x := x) ?_ ?_) <;> [subst x; (clear_value x; intro hx)])
    | (intro x; clear_value x) | lift_lets
    | (with_reducible first | apply State.orObj_keeps | apply State.setN_keeps | apply State.wr_keeps | apply State.Keeps.ite | apply State.Keeps.ite_fst)
    | (with_reducible refine State.forEach_keeps ?_ _ _ (fun t x ht => ?_)) | (with_reducible exact State.Keeps.mk_of (by assumption))

theorem State.writeRingTail_keeps {s₀ s : State} (h : State.Keeps s₀ s) (v : Word64) : KeepsEx s₀ (State.writeRingTail s v) := by
  unfold State.writeRingTail
  repeat' first
    | (with_reducible assumption) | (intro x; (with_reducible refine State.Keeps.cut (s₀ := s₀) (x := x) ?_ ?_) <;> [subst x; (clear_value x; intro hx)])
    | (intro x; clear_value x) | lift_lets
    | (with_reducible first | apply State.garnetRun_keeps | apply State.setObj_keeps | apply State.Keeps.ite | apply State.Keeps.ite_fst | apply KeepsEx.ite | apply KeepsEx.ok | apply KeepsEx.error | apply KeepsEx.pure | apply KeepsEx.throw)
    | (with_reducible refine KeepsEx.map (fun t ht => ?_)) | (with_reducible exact State.Keeps.mk_of (by assumption))

theorem State.writeGfxInst_keeps {s₀ s : State} (h : State.Keeps s₀ s) (v : Word64) : KeepsEx s₀ (State.writeGfxInst s v) := by
  unfold State.writeGfxInst
  repeat' first
    | (with_reducible assumption) | (intro x; clear_value x) | lift_lets
    | (with_reducible first | apply State.garnetRun_keeps | apply State.setObj_keeps | apply State.Keeps.ite | apply State.Keeps.ite_fst | apply KeepsEx.ite | apply KeepsEx.ok | apply KeepsEx.error)

theorem State.writeGarnet_keeps {s₀ s : State} (h : State.Keeps s₀ s) (sub : Nat) (v : Word64) : KeepsEx s₀ (State.writeGarnet s sub v) := by
  unfold State.writeGarnet
  repeat' first
    | (with_reducible assumption) | lift_lets
    | (with_reducible first | apply State.garnetRun_keeps | apply State.setObj_keeps | apply State.Keeps.ite | apply State.Keeps.ite_fst | apply KeepsEx.ite | apply KeepsEx.ok | apply KeepsEx.error)

theorem State.writeTile_keeps {s₀ s : State} (h : State.Keeps s₀ s) (d : List Byte) (t : Nat × List Byte) : State.Keeps s₀ (State.writeTile s d t) := by
  unfold State.writeTile
  repeat' first
    | (with_reducible assumption) | (intro x; clear_value x) | lift_lets | (with_reducible apply State.wr_keeps)
    | (with_reducible refine State.forEach_keeps ?_ _ _ (fun t x ht => ?_))

theorem State.endPass_keeps {s₀ s : State} (h : State.Keeps s₀ s) (status : Nat) : State.Keeps s₀ (State.endPass s status) := by
  unfold State.endPass
  repeat' first
    | (with_reducible assumption) | (intro x; (with_reducible refine State.Keeps.cut (s₀ := s₀) (x := x) ?_ ?_) <;> [subst x; (clear_value x; intro hx)])
    | (intro x; clear_value x) | lift_lets
    | (with_reducible first | apply State.count_keeps | apply State.garnetRun_keeps | apply State.orObj_keeps | apply State.setN_keeps | apply State.wr_keeps | apply State.Keeps.ite | apply State.Keeps.ite_fst)
    | (with_reducible exact State.Keeps.mk_of (by assumption))

theorem State.failPass_keeps {s₀ s : State} (h : State.Keeps s₀ s)  : State.Keeps s₀ (State.failPass s) := by
  unfold State.failPass
  repeat' first
    | (with_reducible assumption) | lift_lets | (with_reducible first | apply State.endPass_keeps | apply State.Keeps.ite)

theorem execPassComplete_keeps {s₀ s : State} (h : State.Keeps s₀ s) (pr : PassResult) : KeepsRes s₀ (execPassComplete pr s) := by
  unfold execPassComplete
  repeat' first
    | (with_reducible assumption) | (intro x; (with_reducible refine State.Keeps.cut (s₀ := s₀) (x := x) ?_ ?_) <;> [subst x; (clear_value x; intro hx)])
    | (intro x; clear_value x) | lift_lets
    | (with_reducible first | apply State.addCtr_keeps | apply State.endPass_keeps | apply State.setN_keeps | apply State.wr_keeps | apply State.writeTile_keeps | apply State.Keeps.ite | apply State.Keeps.ite_fst | apply KeepsRes.ite | apply KeepsRes.next | apply KeepsRes.fault)
    | (with_reducible refine State.forEach_keeps ?_ _ _ (fun t x ht => ?_)) | (with_reducible exact State.Keeps.mk_of (by assumption))

end Sys2Proof.Machine
end

