-- ==== Sys2Proof/Laws/KeepRegulator.lean ====
section
/-! SUPPORT. What the operations of Machine/Regulator.lean keep (Laws/Keeps.lean). -/

namespace Sys2Proof.Machine

theorem State.reshare_keeps {s₀ s old : State} (h : State.Keeps s₀ s)  : State.Keeps s₀ (State.reshare s old) := by
  unfold State.reshare
  repeat' first
    | (with_reducible assumption) | (intro x; clear_value x) | lift_lets | (with_reducible first | apply State.orObj_keeps | apply State.setN_keeps | apply State.Keeps.ite)
    | (with_reducible refine State.forEach_keeps ?_ _ _ (fun t x ht => ?_))

theorem execBucketRefill_keeps {s₀ s : State} (h : State.Keeps s₀ s)  : KeepsRes s₀ (execBucketRefill s) := by
  unfold execBucketRefill
  repeat' first
    | (with_reducible assumption) | (intro x; refine State.Keeps.fn x ?_; subst x) | (intro x; clear_value x) | lift_lets
    | (with_reducible refine foldl_keeps ?_ _ _ (fun t x ht => ?_)) | (with_reducible refine foldl_fst_keeps ?_ _ _ (fun t x ht => ?_))
    | (with_reducible first | apply State.Keeps.ite | apply State.Keeps.ite_fst | apply KeepsRes.ite | apply KeepsRes.next | apply KeepsRes.fault)
    | (with_reducible exact State.Keeps.mk_of (by assumption))

theorem State.admitted_keeps {s₀ s trial : State} (h : State.Keeps s₀ trial) (raises : Bool) : KeepsEx s₀ (State.admitted s trial raises) := by
  unfold State.admitted
  repeat' first
    | (with_reducible assumption) | lift_lets
    | (with_reducible first | apply State.reshare_keeps | apply State.Keeps.ite | apply State.Keeps.ite_fst | apply KeepsEx.ite | apply KeepsEx.ok | apply KeepsEx.error)

theorem State.writeGuarantee_keeps {s₀ s : State} (h : State.Keeps s₀ s) (i : Nat) (v : Word64) : KeepsEx s₀ (State.writeGuarantee s i v) := by
  unfold State.writeGuarantee
  repeat' first
    | (with_reducible assumption) | lift_lets | (with_reducible first | apply State.admitted_keeps | apply State.setObj_keeps)

theorem State.writePreempt_keeps {s₀ s : State} (h : State.Keeps s₀ s) (v : Word64) : KeepsEx s₀ (State.writePreempt s v) := by
  unfold State.writePreempt
  repeat' first
    | (with_reducible assumption) | lift_lets | (with_reducible first | apply State.admitted_keeps | apply State.setObj_keeps)

theorem execGuaranteeWrite_keeps {s₀ s : State} (h : State.Keeps s₀ s) (src : Src) (i : Fin 32) (v : Word64) : KeepsRes s₀ (execGuaranteeWrite src i v s) := by
  unfold execGuaranteeWrite
  repeat' first
    | (with_reducible assumption) | lift_lets | (with_reducible apply State.writeGuarantee_keeps)
    | (with_reducible refine State.command_keeps ?_ _ _ _ _ _ (fun r t ht => ?_))

theorem State.writeSafetyClasses_keeps {s₀ s : State} (h : State.Keeps s₀ s) (v : Word64) : KeepsEx s₀ (State.writeSafetyClasses s v) := by
  unfold State.writeSafetyClasses
  repeat' first
    | (with_reducible assumption) | (intro x; (with_reducible refine State.Keeps.cut (s₀ := s₀) (x := x) ?_ ?_) <;> [subst x; (clear_value x; intro hx)]) | lift_lets
    | (with_reducible first | apply State.reshare_keeps | apply State.setObj_keeps | apply State.Keeps.ite | apply State.Keeps.ite_fst | apply KeepsEx.ite | apply KeepsEx.ok | apply KeepsEx.error)

theorem execSafetyClassesWrite_keeps {s₀ s : State} (h : State.Keeps s₀ s) (src : Src) (v : Word64) : KeepsRes s₀ (execSafetyClassesWrite src v s) := by
  unfold execSafetyClassesWrite
  repeat' first
    | (with_reducible assumption) | lift_lets | (with_reducible apply State.writeSafetyClasses_keeps)
    | (with_reducible refine State.command_keeps ?_ _ _ _ _ _ (fun r t ht => ?_))

theorem State.retireRow_keeps {s₀ s : State} (h : State.Keeps s₀ s) (st row : Nat) : State.Keeps s₀ (State.retireRow s st row) := by
  unfold State.retireRow
  repeat' first
    | (with_reducible assumption) | (intro x; (with_reducible refine State.Keeps.cut (s₀ := s₀) (x := x) ?_ ?_) <;> [subst x; (clear_value x; intro hx)])
    | (intro x; clear_value x) | lift_lets
    | (with_reducible first | apply State.count_keeps | apply State.orObj_keeps | apply State.setN_keeps | apply State.Keeps.ite | apply State.Keeps.ite_fst)
    | (with_reducible exact State.Keeps.mk_of (by assumption))

theorem State.correctUnit_keeps {s₀ s : State} (h : State.Keeps s₀ s) (st offset : Nat) : State.Keeps s₀ (State.correctUnit s st offset) := by
  unfold State.correctUnit
  repeat' first
    | (with_reducible assumption) | (intro x; (with_reducible refine State.Keeps.cut (s₀ := s₀) (x := x) ?_ ?_) <;> [subst x; (clear_value x; intro hx)])
    | (intro x; clear_value x) | lift_lets
    | (with_reducible first | apply State.count_keeps | apply State.retireRow_keeps | apply State.Keeps.ite | apply State.Keeps.ite_fst)
    | (with_reducible exact State.Keeps.mk_of (by assumption))

theorem State.poisonUnit_keeps {s₀ s : State} (h : State.Keeps s₀ s) (st offset : Nat) : State.Keeps s₀ (State.poisonUnit s st offset) := by
  unfold State.poisonUnit
  repeat' first
    | (with_reducible assumption) | (intro x; (with_reducible refine State.Keeps.cut (s₀ := s₀) (x := x) ?_ ?_) <;> [subst x; (clear_value x; intro hx)])
    | (intro x; clear_value x) | lift_lets
    | (with_reducible first | apply State.countSat_keeps | apply State.orObj_keeps | apply State.retireRow_keeps | apply State.setN_keeps | apply State.strataEvent_keeps | apply State.Keeps.ite | apply State.Keeps.ite_fst)
    | (with_reducible exact State.Keeps.mk_of (by assumption))

theorem State.unitFound_keeps {s₀ s : State} (h : State.Keeps s₀ s) (st offset : Nat) (err : UnitErr) : State.Keeps s₀ (State.unitFound s st offset err) := by
  unfold State.unitFound
  repeat' first
    | (with_reducible assumption) | lift_lets
    | (with_reducible first | apply State.correctUnit_keeps | apply State.poisonUnit_keeps | apply State.Keeps.ite | apply State.Keeps.ite_fst)
    | (with_reducible exact State.Keeps.mk_of (by assumption)) | (fail_if_no_progress (with_reducible refine State.Keeps.mk_of ?_)) | split

theorem execPatrolScrub_keeps {s₀ s : State} (h : State.Keeps s₀ s) (st : Fin 4) (offset : Nat) (err : UnitErr) : KeepsRes s₀ (execPatrolScrub st offset err s) := by
  unfold execPatrolScrub
  repeat' first
    | (with_reducible assumption) | (intro x; (with_reducible refine State.Keeps.cut (s₀ := s₀) (x := x) ?_ ?_) <;> [subst x; (clear_value x; intro hx)]) | lift_lets
    | (with_reducible first | apply State.unitFound_keeps | apply State.Keeps.ite | apply State.Keeps.ite_fst | apply KeepsRes.ite | apply KeepsRes.next | apply KeepsRes.fault)
    | (with_reducible exact State.Keeps.mk_of (by assumption))

theorem execStackTempRead_keeps {s₀ s : State} (h : State.Keeps s₀ s) (st : Fin 4) (temp : Word32) : KeepsRes s₀ (execStackTempRead st temp s) := by
  unfold execStackTempRead
  repeat' first
    | (with_reducible assumption) | (intro x; (with_reducible refine State.Keeps.cut (s₀ := s₀) (x := x) ?_ ?_) <;> [subst x; (clear_value x; intro hx)])
    | (intro x; clear_value x) | lift_lets
    | (with_reducible first | apply State.orObj_keeps | apply State.reshare_keeps | apply State.setN_keeps | apply State.Keeps.ite | apply State.Keeps.ite_fst | apply KeepsRes.ite | apply KeepsRes.next | apply KeepsRes.fault)
    | (with_reducible exact State.Keeps.mk_of (by assumption)) | (fail_if_no_progress (with_reducible refine State.Keeps.mk_of ?_)) | split

theorem State.budget_keeps {s₀ s : State} (h : State.Keeps s₀ s) (r : StackReq) (st : Nat) : State.Keeps s₀ (State.budget s r st).1 := by
  unfold State.budget
  repeat' first
    | (with_reducible assumption) | (intro x; clear_value x) | lift_lets | (with_reducible first | apply State.Keeps.ite | apply State.Keeps.ite_fst)
    | (with_reducible exact State.Keeps.mk_of (by assumption))

theorem State.missed_keeps {s₀ s : State} (h : State.Keeps s₀ s) (i : Nat) : State.Keeps s₀ (State.missed s i) := by
  unfold State.missed
  repeat' first
    | (with_reducible assumption) | lift_lets | (with_reducible first | apply State.count_keeps | apply State.orObj_keeps)

theorem execStackRequest_keeps {s₀ s : State} (h : State.Keeps s₀ s) (r : StackReq) : KeepsRes s₀ (execStackRequest r s) := by
  unfold execStackRequest
  repeat' first
    | (with_reducible assumption) | (intro x; clear_value x) | lift_lets
    | (with_reducible first | apply State.budget_keeps | apply State.count_keeps | apply State.emit_keeps | apply State.missed_keeps | apply State.unitFound_keeps | apply State.wr_keeps | apply State.Keeps.ite | apply State.Keeps.ite_fst | apply KeepsRes.ite | apply KeepsRes.next | apply KeepsRes.fault)
    | (with_reducible refine State.forEach_keeps ?_ _ _ (fun t x ht => ?_)) | (with_reducible exact State.Keeps.mk_of (by assumption))
    | (fail_if_no_progress (with_reducible refine State.Keeps.mk_of ?_)) | split

end Sys2Proof.Machine
end

