-- ==== Sys2Proof/Laws/KeepMsgs.lean ====
section
/-! SUPPORT. What the operations of Machine/Msgs.lean keep (Laws/Keeps.lean). -/

namespace Sys2Proof.Machine

theorem State.pump_keeps {s₀ s : State} (h : State.Keeps s₀ s) (m : Nat) : State.Keeps s₀ (State.pump s m) := by
  unfold State.pump
  repeat' first
    | (with_reducible assumption) | (intro x; (with_reducible refine State.Keeps.cut (s₀ := s₀) (x := x) ?_ ?_) <;> [subst x; (clear_value x; intro hx)]) | lift_lets
    | (with_reducible first | apply State.count_keeps | apply State.orObj_keeps | apply State.upInst_keeps | apply State.wr_keeps | apply State.wrN_keeps | apply State.Keeps.ite | apply State.Keeps.ite_fst)
    | (with_reducible exact State.Keeps.mk_of (by assumption)) | (fail_if_no_progress (with_reducible refine State.Keeps.mk_of ?_)) | split

theorem State.post_keeps {s₀ s : State} (h : State.Keeps s₀ s) (m kind cookie : Nat) (body : List Byte) : State.Keeps s₀ (State.post s m kind cookie body) := by
  unfold State.post
  repeat' first
    | (with_reducible assumption) | lift_lets | (with_reducible first | apply State.count_keeps | apply State.pump_keeps | apply State.upInst_keeps | apply State.Keeps.ite)

theorem State.refuse_keeps {s₀ s : State} (h : State.Keeps s₀ s) (m kind cookie status : Nat) : State.Keeps s₀ (State.refuse s m kind cookie status) := by
  unfold State.refuse
  repeat' first
    | (with_reducible assumption) | lift_lets | (with_reducible first | apply State.count_keeps | apply State.post_keeps)

theorem State.reportQueued_keeps {s₀ s : State} (h : State.Keeps s₀ s) (m : Nat) (r : RunReq) (outcome : Nat) : State.Keeps s₀ (State.reportQueued s m r outcome) := by
  unfold State.reportQueued
  repeat' first
    | (with_reducible assumption) | (intro x; (with_reducible refine State.Keeps.cut (s₀ := s₀) (x := x) ?_ ?_) <;> [subst x; (clear_value x; intro hx)])
    | (intro x; clear_value x) | lift_lets | (with_reducible first | apply State.post_keeps | apply State.tookFree_keeps | apply State.Keeps.ite)

theorem State.settleInst_keeps {s₀ s : State} (h : State.Keeps s₀ s) (m : Nat) : State.Keeps s₀ (State.settleInst s m) := by
  unfold State.settleInst
  repeat' first
    | (with_reducible assumption) | lift_lets | (with_reducible first | apply State.setN_keeps | apply State.Keeps.ite)

theorem State.freePlan_keeps {s₀ s : State} (h : State.Keeps s₀ s) (m h : Nat) : State.Keeps s₀ (State.freePlan s m h) := by
  unfold State.freePlan
  repeat' first
    | (with_reducible assumption) | (intro x; (with_reducible refine State.Keeps.cut (s₀ := s₀) (x := x) ?_ ?_) <;> [subst x; (clear_value x; intro hx)]) | lift_lets
    | (with_reducible first | apply State.clrObj_keeps | apply State.kvRelease_keeps | apply State.setN_keeps | apply State.upInst_keeps | apply State.wrN_keeps | apply State.Keeps.ite | apply State.Keeps.ite_fst)
    | (with_reducible refine State.forEach_keeps ?_ _ _ (fun t x ht => ?_)) | (with_reducible exact State.Keeps.mk_of (by assumption))
    | (fail_if_no_progress (with_reducible refine State.Keeps.mk_of ?_)) | split

theorem State.finishUnload_keeps {s₀ s : State} (h : State.Keeps s₀ s) (m h : Nat) : State.Keeps s₀ (State.finishUnload s m h) := by
  unfold State.finishUnload
  repeat' first
    | (with_reducible assumption) | lift_lets
    | (with_reducible first | apply State.freePlan_keeps | apply State.post_keeps | apply State.reshare_keeps | apply State.setN_keeps | apply State.Keeps.ite | apply State.Keeps.ite_fst)
    | (with_reducible exact State.Keeps.mk_of (by assumption)) | (fail_if_no_progress (with_reducible refine State.Keeps.mk_of ?_)) | split

theorem State.dealCores_keeps {s₀ s : State} (h : State.Keeps s₀ s)  : State.Keeps s₀ (State.dealCores s) := by
  unfold State.dealCores
  repeat' first
    | (with_reducible assumption) | (intro x; (with_reducible refine State.Keeps.cut (s₀ := s₀) (x := x) ?_ ?_) <;> [subst x; (clear_value x; intro hx)])
    | (intro x; clear_value x) | lift_lets
    | (with_reducible first | apply State.freeCore_keeps | apply State.grantCore_keeps | apply State.Keeps.ite | apply State.Keeps.ite_fst)
    | (with_reducible refine State.forEach_keeps ?_ _ _ (fun t x ht => ?_)) | (with_reducible exact State.Keeps.mk_of (by assumption))
    | (fail_if_no_progress (with_reducible refine State.Keeps.mk_of ?_)) | split

theorem State.removeInv_keeps {s₀ s : State} (h : State.Keeps s₀ s) (m num : Nat) : State.Keeps s₀ (State.removeInv s m num) := by
  unfold State.removeInv
  repeat' first
    | (with_reducible assumption) | lift_lets | (with_reducible apply State.upInst_keeps)

theorem State.endInv_keeps {s₀ s : State} (h : State.Keeps s₀ s) (m num outcome : Nat) (status : Option Nat) (energy : Nat) : State.Keeps s₀ (State.endInv s m num outcome status energy) := by
  unfold State.endInv
  repeat' first
    | (with_reducible assumption) | (intro x; (with_reducible refine State.Keeps.cut (s₀ := s₀) (x := x) ?_ ?_) <;> [subst x; (clear_value x; intro hx)])
    | (intro x; clear_value x) | lift_lets
    | (with_reducible first | apply State.dealCores_keeps | apply State.dropHold_keeps | apply State.endSlot_keeps | apply State.finishUnload_keeps | apply State.post_keeps | apply State.removeInv_keeps | apply State.settleInst_keeps | apply State.tookFree_keeps | apply State.yieldSlice_keeps | apply State.Keeps.ite | apply State.Keeps.ite_fst)
    | (with_reducible refine State.forEach_keeps ?_ _ _ (fun t x ht => ?_)) | (with_reducible exact State.Keeps.mk_of (by assumption))
    | (fail_if_no_progress (with_reducible refine State.Keeps.mk_of ?_)) | split

theorem State.startSeg_keeps {s₀ s : State} (h : State.Keeps s₀ s) (n : Nat) (g : SegRun) : State.Keeps s₀ (State.startSeg s n g) := by
  unfold State.startSeg
  repeat' first
    | (with_reducible assumption) | (intro x; (with_reducible refine State.Keeps.cut (s₀ := s₀) (x := x) ?_ ?_) <;> [subst x; (clear_value x; intro hx)]) | lift_lets
    | (with_reducible first | apply State.setN_keeps | apply State.upCore_keeps | apply State.Keeps.ite | apply State.Keeps.ite_fst)
    | (with_reducible refine State.forEach_keeps ?_ _ _ (fun t x ht => ?_)) | (with_reducible refine foldl_keeps ?_ _ _ (fun t x ht => ?_))
    | (with_reducible refine foldl_fst_keeps ?_ _ _ (fun t x ht => ?_)) | (with_reducible exact State.Keeps.mk_of (by assumption))
    | (fail_if_no_progress (with_reducible refine State.Keeps.mk_of ?_)) | split

theorem State.nextSeg_keeps {s₀ s : State} (h : State.Keeps s₀ s) (n : Nat) : State.Keeps s₀ (State.nextSeg s n) := by
  unfold State.nextSeg
  repeat' first
    | (with_reducible assumption) | lift_lets
    | (with_reducible first | apply State.setN_keeps | apply State.startSeg_keeps | apply State.upCore_keeps | apply State.Keeps.ite | apply State.Keeps.ite_fst)
    | (with_reducible exact State.Keeps.mk_of (by assumption)) | (fail_if_no_progress (with_reducible refine State.Keeps.mk_of ?_)) | split

theorem State.segDone_keeps {s₀ s : State} (h : State.Keeps s₀ s) (n : Nat) : State.Keeps s₀ (State.segDone s n) := by
  unfold State.segDone
  repeat' first
    | (with_reducible assumption) | (intro x; (with_reducible refine State.Keeps.cut (s₀ := s₀) (x := x) ?_ ?_) <;> [subst x; (clear_value x; intro hx)])
    | (intro x; clear_value x) | lift_lets
    | (with_reducible first | apply State.endInv_keeps | apply State.nextSeg_keeps | apply State.Keeps.ite | apply State.Keeps.ite_fst)
    | (with_reducible exact State.Keeps.mk_of (by assumption)) | (fail_if_no_progress (with_reducible refine State.Keeps.mk_of ?_)) | split

theorem State.dropSegs_keeps {s₀ s : State} (h : State.Keeps s₀ s) (n num : Nat) : State.Keeps s₀ (State.dropSegs s n num) := by
  unfold State.dropSegs
  repeat' first
    | (with_reducible assumption) | (intro x; (with_reducible refine State.Keeps.cut (s₀ := s₀) (x := x) ?_ ?_) <;> [subst x; (clear_value x; intro hx)]) | lift_lets
    | (with_reducible first | apply State.abortCore_keeps | apply State.nextSeg_keeps | apply State.upCore_keeps | apply State.Keeps.ite | apply State.Keeps.ite_fst)
    | (with_reducible exact State.Keeps.mk_of (by assumption)) | (fail_if_no_progress (with_reducible refine State.Keeps.mk_of ?_)) | split

theorem State.stopInv_keeps {s₀ s : State} (h : State.Keeps s₀ s) (m num : Nat) : State.Keeps s₀ (State.stopInv s m num) := by
  unfold State.stopInv
  repeat' first
    | (with_reducible assumption) | (intro x; (with_reducible refine State.Keeps.cut (s₀ := s₀) (x := x) ?_ ?_) <;> [subst x; (clear_value x; intro hx)]) | lift_lets
    | (with_reducible first | apply State.dropSegs_keeps | apply State.upInst_keeps) | (with_reducible refine State.forEach_keeps ?_ _ _ (fun t x ht => ?_))

theorem State.poisonCaches_keeps {s₀ s : State} (h : State.Keeps s₀ s) (m num : Nat) : State.Keeps s₀ (State.poisonCaches s m num) := by
  unfold State.poisonCaches
  repeat' first
    | (with_reducible assumption) | (intro x; (with_reducible refine State.Keeps.cut (s₀ := s₀) (x := x) ?_ ?_) <;> [subst x; (clear_value x; intro hx)])
    | (intro x; clear_value x) | lift_lets | (with_reducible first | apply State.orObj_keeps | apply State.upInst_keeps | apply State.Keeps.ite | apply State.Keeps.ite_fst)
    | (with_reducible refine State.forEach_keeps ?_ _ _ (fun t x ht => ?_)) | (with_reducible exact State.Keeps.mk_of (by assumption))
    | (fail_if_no_progress (with_reducible refine State.Keeps.mk_of ?_)) | split

theorem State.tellPeers_keeps {s₀ s : State} (h : State.Keeps s₀ s) (m num : Nat) : State.Keeps s₀ (State.tellPeers s m num) := by
  unfold State.tellPeers
  repeat' first
    | (with_reducible assumption) | lift_lets | (with_reducible first | apply State.emit_keeps | apply State.Keeps.ite)

theorem State.squash_keeps {s₀ s : State} (h : State.Keeps s₀ s) (i kind coreB : Nat) : State.Keeps s₀ (State.squash s i kind coreB) := by
  unfold State.squash
  repeat' first
    | (with_reducible assumption) | (intro x; (with_reducible refine State.Keeps.cut (s₀ := s₀) (x := x) ?_ ?_) <;> [subst x; (clear_value x; intro hx)])
    | (intro x; clear_value x) | lift_lets
    | (with_reducible first | apply State.assayEvent_keeps | apply State.count_keeps | apply State.endInv_keeps | apply State.orObj_keeps | apply State.poisonCaches_keeps | apply State.safeTrigger_keeps | apply State.stopInv_keeps | apply State.tellPeers_keeps | apply State.withdraw_keeps)

theorem State.withdrawInv_keeps {s₀ s : State} (h : State.Keeps s₀ s) (m num : Nat) : State.Keeps s₀ (State.withdrawInv s m num) := by
  unfold State.withdrawInv
  repeat' first
    | (with_reducible assumption) | (intro x; (with_reducible refine State.Keeps.cut (s₀ := s₀) (x := x) ?_ ?_) <;> [subst x; (clear_value x; intro hx)]) | lift_lets
    | (with_reducible first | apply State.stopInv_keeps | apply State.tellPeers_keeps | apply State.withdraw_keeps)

end Sys2Proof.Machine
end

