-- ==== Sys2Proof/Laws/KeepControl.lean ====
section
/-! SUPPORT. What the operations of Machine/Control.lean keep (Laws/Keeps.lean). -/

namespace Sys2Proof.Machine

theorem execNop_keeps {s₀ s : State} (h : State.Keeps s₀ s) (n : Fin 16) (w : BitVec 120) : KeepsRes s₀ (execNop n w s) := by
  unfold execNop
  repeat' first
    | (with_reducible assumption) | lift_lets | (with_reducible refine State.ctlOp_keeps ?_ _ _ _ _ (fun pc t ht => ?_))
    | (with_reducible first | apply State.Keeps.ite | apply State.Keeps.ite_fst | apply KeepsRes.ite | apply KeepsRes.next | apply KeepsRes.fault | apply KeepsExP.ite | apply KeepsExP.ok)

theorem State.haltDone_keeps {s₀ s : State} (h : State.Keeps s₀ s) (n : Nat) (op : OpWord) (addr : Nat) : State.Keeps s₀ (State.haltDone s n op addr) := by
  unfold State.haltDone
  repeat' first
    | (with_reducible assumption) | lift_lets | (with_reducible first | apply State.ctlDone_keeps | apply State.holdOn_keeps | apply State.segDone_keeps)

theorem execHalt_keeps {s₀ s : State} (h : State.Keeps s₀ s) (n : Fin 16) (w : BitVec 120) : KeepsRes s₀ (execHalt n w s) := by
  unfold execHalt
  repeat' first
    | (with_reducible assumption) | (intro x; (with_reducible refine State.Keeps.cut (s₀ := s₀) (x := x) ?_ ?_) <;> [subst x; (clear_value x; intro hx)])
    | (intro x; clear_value x) | lift_lets
    | (with_reducible first | apply State.except_keeps | apply State.haltDone_keeps | apply State.holdOn_keeps | apply State.setN_keeps | apply State.Keeps.ite)
    | (with_reducible refine State.dispatch_keeps ?_ _ _ _ _ _ (fun pc t ht => ?_))

theorem execBr_keeps {s₀ s : State} (h : State.Keeps s₀ s) (n : Fin 16) (w : BitVec 120) : KeepsRes s₀ (execBr n w s) := by
  unfold execBr
  repeat' first
    | (with_reducible assumption) | (intro x; clear_value x) | lift_lets
    | (with_reducible first | apply State.setN_keeps | apply State.Keeps.ite | apply State.Keeps.ite_fst | apply KeepsRes.ite | apply KeepsRes.next | apply KeepsRes.fault | apply KeepsExP.ite | apply KeepsExP.ok)
    | (with_reducible refine State.ctlOp_keeps ?_ _ _ _ _ (fun pc t ht => ?_))

theorem execLoop_keeps {s₀ s : State} (h : State.Keeps s₀ s) (n : Fin 16) (w : BitVec 120) : KeepsRes s₀ (execLoop n w s) := by
  unfold execLoop
  repeat' first
    | (with_reducible assumption) | (intro x; (with_reducible refine State.Keeps.cut (s₀ := s₀) (x := x) ?_ ?_) <;> [subst x; (clear_value x; intro hx)])
    | (intro x; clear_value x) | lift_lets
    | (with_reducible first | apply State.setN_keeps | apply State.upCore_keeps | apply State.Keeps.ite | apply State.Keeps.ite_fst | apply KeepsRes.ite | apply KeepsRes.next | apply KeepsRes.fault | apply KeepsExP.ite | apply KeepsExP.ok)
    | (with_reducible refine State.ctlOp_keeps ?_ _ _ _ _ (fun pc t ht => ?_))

theorem execFence_keeps {s₀ s : State} (h : State.Keeps s₀ s) (n : Fin 16) (w : BitVec 120) : KeepsRes s₀ (execFence n w s) := by
  unfold execFence
  repeat' first
    | (with_reducible assumption) | (intro x; clear_value x) | lift_lets
    | (with_reducible first | apply State.holdOn_keeps | apply State.Keeps.ite | apply State.Keeps.ite_fst | apply KeepsRes.ite | apply KeepsRes.next | apply KeepsRes.fault | apply KeepsExP.ite | apply KeepsExP.ok)
    | (with_reducible refine State.ctlOp_keeps ?_ _ _ _ _ (fun pc t ht => ?_))

theorem execSmovi_keeps {s₀ s : State} (h : State.Keeps s₀ s) (n : Fin 16) (w : BitVec 120) : KeepsRes s₀ (execSmovi n w s) := by
  unfold execSmovi
  repeat' first
    | (with_reducible assumption) | (intro x; clear_value x) | lift_lets
    | (with_reducible first | apply State.upCore_keeps | apply State.Keeps.ite | apply State.Keeps.ite_fst | apply KeepsRes.ite | apply KeepsRes.next | apply KeepsRes.fault | apply KeepsExP.ite | apply KeepsExP.ok)
    | (with_reducible refine State.ctlOp_keeps ?_ _ _ _ _ (fun pc t ht => ?_))

theorem execSalu_keeps {s₀ s : State} (h : State.Keeps s₀ s) (n : Fin 16) (w : BitVec 120) : KeepsRes s₀ (execSalu n w s) := by
  unfold execSalu
  repeat' first
    | (with_reducible assumption) | (intro x; (with_reducible refine State.Keeps.cut (s₀ := s₀) (x := x) ?_ ?_) <;> [subst x; (clear_value x; intro hx)])
    | (intro x; clear_value x) | lift_lets
    | (with_reducible first | apply State.tookFree_keeps | apply State.upCore_keeps | apply State.Keeps.ite | apply State.Keeps.ite_fst | apply KeepsRes.ite | apply KeepsRes.next | apply KeepsRes.fault | apply KeepsExP.ite | apply KeepsExP.ok | apply KeepsExP.error)
    | (with_reducible refine State.ctlOp_keeps ?_ _ _ _ _ (fun pc t ht => ?_)) | (with_reducible refine KeepsExP.map (fun t ht => ?_))
    | (with_reducible exact State.Keeps.mk_of (by assumption)) | (fail_if_no_progress (with_reducible refine State.Keeps.mk_of ?_)) | split

theorem execScmp_keeps {s₀ s : State} (h : State.Keeps s₀ s) (n : Fin 16) (w : BitVec 120) : KeepsRes s₀ (execScmp n w s) := by
  unfold execScmp
  repeat' first
    | (with_reducible assumption) | (intro x; clear_value x) | lift_lets
    | (with_reducible first | apply State.upCore_keeps | apply State.Keeps.ite | apply State.Keeps.ite_fst | apply KeepsRes.ite | apply KeepsRes.next | apply KeepsRes.fault | apply KeepsExP.ite | apply KeepsExP.ok | apply KeepsExP.error)
    | (with_reducible refine State.ctlOp_keeps ?_ _ _ _ _ (fun pc t ht => ?_)) | (with_reducible refine KeepsExP.map (fun t ht => ?_))
    | (with_reducible exact State.Keeps.mk_of (by assumption)) | (fail_if_no_progress (with_reducible refine State.Keeps.mk_of ?_)) | split

theorem execPset_keeps {s₀ s : State} (h : State.Keeps s₀ s) (n : Fin 16) (w : BitVec 120) : KeepsRes s₀ (execPset n w s) := by
  unfold execPset
  repeat' first
    | (with_reducible assumption) | (intro x; clear_value x) | lift_lets
    | (with_reducible first | apply State.upCore_keeps | apply State.Keeps.ite | apply State.Keeps.ite_fst | apply KeepsRes.ite | apply KeepsRes.next | apply KeepsRes.fault | apply KeepsExP.ite | apply KeepsExP.ok)
    | (with_reducible refine State.ctlOp_keeps ?_ _ _ _ _ (fun pc t ht => ?_))

theorem execSld_keeps {s₀ s : State} (h : State.Keeps s₀ s) (n : Fin 16) (w : BitVec 120) : KeepsRes s₀ (execSld n w s) := by
  unfold execSld
  repeat' first
    | (with_reducible assumption) | (intro x; clear_value x) | lift_lets
    | (with_reducible first | apply State.upCore_keeps | apply State.Keeps.ite | apply State.Keeps.ite_fst | apply KeepsRes.ite | apply KeepsRes.next | apply KeepsRes.fault | apply KeepsExP.ite | apply KeepsExP.ok | apply KeepsExP.error)
    | (with_reducible refine State.ctlOp_keeps ?_ _ _ _ _ (fun pc t ht => ?_)) | (with_reducible refine KeepsExP.map (fun t ht => ?_))
    | (with_reducible exact State.Keeps.mk_of (by assumption)) | (fail_if_no_progress (with_reducible refine State.Keeps.mk_of ?_)) | split

theorem execSst_keeps {s₀ s : State} (h : State.Keeps s₀ s) (n : Fin 16) (w : BitVec 120) : KeepsRes s₀ (execSst n w s) := by
  unfold execSst
  repeat' first
    | (with_reducible assumption) | (intro x; clear_value x) | lift_lets
    | (with_reducible first | apply State.wrN_keeps | apply State.Keeps.ite | apply State.Keeps.ite_fst | apply KeepsRes.ite | apply KeepsRes.next | apply KeepsRes.fault | apply KeepsExP.ite | apply KeepsExP.ok | apply KeepsExP.error)
    | (with_reducible refine State.ctlOp_keeps ?_ _ _ _ _ (fun pc t ht => ?_)) | (with_reducible refine KeepsExP.map (fun t ht => ?_))
    | (with_reducible exact State.Keeps.mk_of (by assumption)) | (fail_if_no_progress (with_reducible refine State.Keeps.mk_of ?_)) | split

theorem execDesc_keeps {s₀ s : State} (h : State.Keeps s₀ s) (n : Fin 16) (w : BitVec 120) : KeepsRes s₀ (execDesc n w s) := by
  unfold execDesc
  repeat' first
    | (with_reducible assumption) | (intro x; clear_value x) | lift_lets
    | (with_reducible first | apply State.upCore_keeps | apply State.Keeps.ite | apply State.Keeps.ite_fst | apply KeepsRes.ite | apply KeepsRes.next | apply KeepsRes.fault | apply KeepsExP.ite | apply KeepsExP.ok | apply KeepsExP.error)
    | (with_reducible refine State.ctlOp_keeps ?_ _ _ _ _ (fun pc t ht => ?_)) | (with_reducible refine KeepsExP.map (fun t ht => ?_))
    | (with_reducible exact State.Keeps.mk_of (by assumption)) | (fail_if_no_progress (with_reducible refine State.Keeps.mk_of ?_)) | split

theorem execDadd_keeps {s₀ s : State} (h : State.Keeps s₀ s) (n : Fin 16) (w : BitVec 120) : KeepsRes s₀ (execDadd n w s) := by
  unfold execDadd
  repeat' first
    | (with_reducible assumption) | (intro x; clear_value x) | lift_lets
    | (with_reducible first | apply State.upCore_keeps | apply State.Keeps.ite | apply State.Keeps.ite_fst | apply KeepsRes.ite | apply KeepsRes.next | apply KeepsRes.fault | apply KeepsExP.ite | apply KeepsExP.ok)
    | (with_reducible refine State.ctlOp_keeps ?_ _ _ _ _ (fun pc t ht => ?_))

theorem execSeed_keeps {s₀ s : State} (h : State.Keeps s₀ s) (n : Fin 16) (w : BitVec 120) : KeepsRes s₀ (execSeed n w s) := by
  unfold execSeed
  repeat' first
    | (with_reducible assumption) | (intro x; clear_value x) | lift_lets
    | (with_reducible first | apply State.setObj_keeps | apply State.Keeps.ite | apply State.Keeps.ite_fst | apply KeepsRes.ite | apply KeepsRes.next | apply KeepsRes.fault | apply KeepsExP.ite | apply KeepsExP.ok)
    | (with_reducible refine State.ctlOp_keeps ?_ _ _ _ _ (fun pc t ht => ?_))

theorem State.applySignal_keeps {s₀ s : State} (h : State.Keeps s₀ s) (n : Nat) (op : OpWord) (addr : Nat) : State.Keeps s₀ (State.applySignal s n op addr) := by
  unfold State.applySignal
  repeat' first
    | (with_reducible assumption) | (intro x; (with_reducible refine State.Keeps.cut (s₀ := s₀) (x := x) ?_ ?_) <;> [subst x; (clear_value x; intro hx)])
    | (intro x; clear_value x) | lift_lets
    | (with_reducible first | apply State.addCtr_keeps | apply State.ctlDone_keeps | apply State.except_keeps | apply State.setN_keeps | apply State.Keeps.ite)

theorem execSignal_keeps {s₀ s : State} (h : State.Keeps s₀ s) (n : Fin 16) (w : BitVec 120) : KeepsRes s₀ (execSignal n w s) := by
  unfold execSignal
  repeat' first
    | (with_reducible assumption) | (intro x; (with_reducible refine State.Keeps.cut (s₀ := s₀) (x := x) ?_ ?_) <;> [subst x; (clear_value x; intro hx)])
    | (intro x; clear_value x) | lift_lets
    | (with_reducible first | apply State.applySignal_keeps | apply State.setN_keeps | apply State.upCore_keeps | apply State.Keeps.ite)
    | (with_reducible refine State.dispatch_keeps ?_ _ _ _ _ _ (fun pc t ht => ?_))

theorem execWait_keeps {s₀ s : State} (h : State.Keeps s₀ s) (n : Fin 16) (w : BitVec 120) : KeepsRes s₀ (execWait n w s) := by
  unfold execWait
  repeat' first
    | (with_reducible assumption) | (intro x; clear_value x) | lift_lets
    | (with_reducible first | apply State.holdOn_keeps | apply State.setN_keeps | apply State.Keeps.ite | apply State.Keeps.ite_fst | apply KeepsRes.ite | apply KeepsRes.next | apply KeepsRes.fault | apply KeepsExP.ite | apply KeepsExP.ok | apply KeepsExP.error)
    | (with_reducible refine State.ctlOp_keeps ?_ _ _ _ _ (fun pc t ht => ?_))

theorem execReservedOpcode_keeps {s₀ s : State} (h : State.Keeps s₀ s) (n : Fin 16) (w : OpWord) : KeepsRes s₀ (execReservedOpcode n w s) := by
  unfold execReservedOpcode
  repeat' first
    | (with_reducible assumption) | lift_lets
    | (with_reducible first | apply State.except_keeps | apply State.Keeps.ite | apply State.Keeps.ite_fst | apply KeepsRes.ite | apply KeepsRes.next | apply KeepsRes.fault)

end Sys2Proof.Machine
end

