-- ==== Sys2Proof/Laws/KeepSlab.lean ====
section
/-! SUPPORT. What the operations of Machine/Slab.lean keep (Laws/Keeps.lean). -/

namespace Sys2Proof.Machine

theorem State.nameBank_keeps {s₀ s : State} (h : State.Keeps s₀ s) (n : Nat) (u : BankUse) : KeepsEx s₀ (State.nameBank s n u) := by
  unfold State.nameBank
  repeat' first
    | (with_reducible assumption) | (intro x; clear_value x) | lift_lets
    | (with_reducible first | apply State.upCore_keeps | apply State.Keeps.ite | apply State.Keeps.ite_fst | apply KeepsEx.ite | apply KeepsEx.ok | apply KeepsEx.error)

theorem State.accumulate_keeps {s₀ s : State} (h : State.Keeps s₀ s) (n : Nat) (u : BankUse) (rows cols : List Nat) (prods : Nat → Nat → List FVal) : State.Keeps s₀ (State.accumulate s n u rows cols prods) := by
  unfold State.accumulate
  repeat' first
    | (with_reducible assumption) | (intro x; clear_value x) | lift_lets | (with_reducible apply State.upCore_keeps)

theorem State.slabCount_keeps {s₀ s : State} (h : State.Keeps s₀ s) (n : Nat) (busy macs : Nat) : State.Keeps s₀ (State.slabCount s n busy macs) := by
  unfold State.slabCount
  repeat' first
    | (with_reducible assumption) | lift_lets | (with_reducible first | apply State.account_keeps | apply State.count_keeps)

theorem State.weakRot_keeps {s₀ s : State} (h : State.Keeps s₀ s) (n : Nat) (o : QOp) (cls width : Nat) : State.Keeps s₀ (State.weakRot s n o cls width) := by
  unfold State.weakRot
  repeat' first
    | (with_reducible assumption) | (intro x; clear_value x) | lift_lets
    | (with_reducible first | apply State.count_keeps | apply State.upCore_keeps | apply State.Keeps.ite) | (with_reducible refine foldl_keeps ?_ _ _ (fun t x ht => ?_))
    | (with_reducible refine foldl_fst_keeps ?_ _ _ (fun t x ht => ?_))

theorem performMatmul_keeps {s₀ s : State} (h : State.Keeps s₀ s) (n : Nat) (o : QOp) : KeepsEx s₀ (performMatmul s n o) := by
  unfold performMatmul
  repeat' first
    | (with_reducible assumption) | (intro x; (with_reducible refine State.Keeps.cut (s₀ := s₀) (x := x) ?_ ?_) <;> [subst x; (clear_value x; intro hx)])
    | (intro x; refine State.Keeps.fn x ?_; subst x) | (intro x; clear_value x) | lift_lets
    | (with_reducible first | apply State.accumulate_keeps | apply State.nameBank_keeps | apply State.slabCount_keeps | apply State.tookFree_keeps | apply State.weakRot_keeps | apply State.Keeps.ite | apply State.Keeps.ite_fst | apply KeepsEx.ite | apply KeepsEx.ok | apply KeepsEx.error | apply KeepsEx.pure | apply KeepsEx.throw)
    | (with_reducible refine KeepsEx.map (fun t ht => ?_)) | (with_reducible exact State.Keeps.mk_of (by assumption))
    | (fail_if_no_progress (with_reducible refine State.Keeps.mk_of ?_)) | (with_reducible refine KeepsEx.bind (fun a ha => ?_))
    | (with_reducible refine KeepsExW.bind (fun a ha => ?_)) | split | (refine State.Keeps.of_fst (by assumption) ?_) | (refine KeepsEx.elim (by assumption) ?_)

theorem performConv_keeps {s₀ s : State} (h : State.Keeps s₀ s) (n : Nat) (o : QOp) : KeepsEx s₀ (performConv s n o) := by
  unfold performConv
  repeat' first
    | (with_reducible assumption) | (intro x; (with_reducible refine State.Keeps.cut (s₀ := s₀) (x := x) ?_ ?_) <;> [subst x; (clear_value x; intro hx)])
    | (intro x; refine State.Keeps.fn x ?_; subst x) | (intro x; clear_value x) | lift_lets
    | (with_reducible first | apply State.accumulate_keeps | apply State.nameBank_keeps | apply State.slabCount_keeps | apply State.tookFree_keeps | apply State.weakRot_keeps | apply State.Keeps.ite | apply State.Keeps.ite_fst | apply KeepsEx.ite | apply KeepsEx.ok | apply KeepsEx.error | apply KeepsEx.pure | apply KeepsEx.throw)
    | (with_reducible refine KeepsEx.map (fun t ht => ?_)) | (with_reducible exact State.Keeps.mk_of (by assumption))
    | (fail_if_no_progress (with_reducible refine State.Keeps.mk_of ?_)) | (with_reducible refine KeepsEx.bind (fun a ha => ?_))
    | (with_reducible refine KeepsExW.bind (fun a ha => ?_)) | split | (refine State.Keeps.of_fst (by assumption) ?_) | (refine KeepsEx.elim (by assumption) ?_)

theorem performAccin_keeps {s₀ s : State} (h : State.Keeps s₀ s) (n : Nat) (o : QOp) : KeepsEx s₀ (performAccin s n o) := by
  unfold performAccin
  repeat' first
    | (with_reducible assumption) | (intro x; (with_reducible refine State.Keeps.cut (s₀ := s₀) (x := x) ?_ ?_) <;> [subst x; (clear_value x; intro hx)])
    | (intro x; clear_value x) | lift_lets
    | (with_reducible first | apply State.accumulate_keeps | apply State.count_keeps | apply State.nameBank_keeps | apply State.slabCount_keeps | apply State.Keeps.ite | apply State.Keeps.ite_fst | apply KeepsEx.ite | apply KeepsEx.ok | apply KeepsEx.error | apply KeepsEx.pure | apply KeepsEx.throw)
    | (with_reducible refine KeepsEx.map (fun t ht => ?_)) | (with_reducible exact State.Keeps.mk_of (by assumption))
    | (fail_if_no_progress (with_reducible refine State.Keeps.mk_of ?_)) | (with_reducible refine KeepsEx.bind (fun a ha => ?_))
    | (with_reducible refine KeepsExW.bind (fun a ha => ?_)) | split | (refine State.Keeps.of_fst (by assumption) ?_) | (refine KeepsEx.elim (by assumption) ?_)

theorem State.readoutTile_keeps {s₀ s : State} (h : State.Keeps s₀ s) (n : Nat) (o : QOp) (td : Desc) (empty : Bool) (vals : List FVal) (modes : List RMode) : KeepsExW s₀ (State.readoutTile s n o td empty vals modes) := by
  unfold State.readoutTile
  repeat' first
    | (with_reducible assumption) | (intro x; clear_value x) | lift_lets
    | (with_reducible first | apply State.wrVals_keeps | apply State.Keeps.ite | apply State.Keeps.ite_fst | apply KeepsEx.ite | apply KeepsEx.ok | apply KeepsEx.error | apply KeepsEx.pure | apply KeepsEx.throw | apply KeepsExW.ite | apply KeepsExW.ok | apply KeepsExW.error)

theorem performReadout_keeps {s₀ s : State} (h : State.Keeps s₀ s) (n : Nat) (o : QOp) : KeepsEx s₀ (performReadout s n o) := by
  unfold performReadout
  repeat' first
    | (with_reducible assumption) | (intro x; (with_reducible refine State.Keeps.cut (s₀ := s₀) (x := x) ?_ ?_) <;> [subst x; (clear_value x; intro hx)])
    | (intro x; clear_value x) | lift_lets
    | (with_reducible first | apply State.count_keeps | apply State.orObj_keeps | apply State.readoutTile_keeps | apply State.setObj_keeps | apply State.Keeps.ite | apply State.Keeps.ite_fst | apply KeepsEx.ite | apply KeepsEx.ok | apply KeepsEx.error | apply KeepsEx.pure | apply KeepsEx.throw)
    | (with_reducible refine KeepsEx.map (fun t ht => ?_)) | (with_reducible exact State.Keeps.mk_of (by assumption))
    | (fail_if_no_progress (with_reducible refine State.Keeps.mk_of ?_)) | (with_reducible refine KeepsEx.bind (fun a ha => ?_))
    | (with_reducible refine KeepsExW.bind (fun a ha => ?_)) | split | (refine State.Keeps.of_fst (by assumption) ?_) | (refine KeepsEx.elim (by assumption) ?_)
    | (refine KeepsExP.elim (by assumption) ?_) | (refine KeepsExW.elim (by assumption) ?_)

end Sys2Proof.Machine
end

