-- ==== Sys2Proof/Laws/KeepPebble.lean ====
section
/-! SUPPORT. What the operations of Machine/Pebble.lean keep (Laws/Keeps.lean). -/

namespace Sys2Proof.Machine

theorem State.setPebble_keeps {s₀ s : State} (h : State.Keeps s₀ s) (c : Nat) (p : PebSt) : State.Keeps s₀ (State.setPebble s c p) := by
  unfold State.setPebble
  repeat' first
    | (with_reducible assumption) | lift_lets | (with_reducible first | apply State.Keeps.ite | apply State.Keeps.ite_fst)
    | (with_reducible exact State.Keeps.mk_of (by assumption))

theorem performPconv_keeps {s₀ s : State} (h : State.Keeps s₀ s) (n : Nat) (o : QOp) : KeepsEx s₀ (performPconv s n o) := by
  unfold performPconv
  repeat' first
    | (with_reducible assumption) | (intro x; refine State.Keeps.fn x ?_; subst x) | (intro x; clear_value x) | lift_lets
    | (with_reducible first | apply State.account_keeps | apply State.setPebble_keeps | apply State.tookFree_keeps | apply State.weakRot_keeps | apply State.Keeps.ite | apply State.Keeps.ite_fst | apply KeepsEx.ite | apply KeepsEx.ok | apply KeepsEx.error | apply KeepsEx.pure | apply KeepsEx.throw)
    | (with_reducible refine foldl_keeps ?_ _ _ (fun t x ht => ?_)) | (with_reducible refine foldl_fst_keeps ?_ _ _ (fun t x ht => ?_))
    | (with_reducible refine KeepsEx.map (fun t ht => ?_)) | (with_reducible exact State.Keeps.mk_of (by assumption))
    | (fail_if_no_progress (with_reducible refine State.Keeps.mk_of ?_)) | (with_reducible refine KeepsEx.bind (fun a ha => ?_))

theorem performPread_keeps {s₀ s : State} (h : State.Keeps s₀ s) (n : Nat) (o : QOp) : KeepsEx s₀ (performPread s n o) := by
  unfold performPread
  repeat' first
    | (with_reducible assumption) | (intro x; clear_value x) | lift_lets
    | (with_reducible first | apply State.account_keeps | apply State.count_keeps | apply State.orObj_keeps | apply State.readoutTile_keeps | apply State.Keeps.ite | apply State.Keeps.ite_fst | apply KeepsEx.ite | apply KeepsEx.ok | apply KeepsEx.error | apply KeepsEx.pure | apply KeepsEx.throw)
    | (with_reducible refine KeepsEx.map (fun t ht => ?_)) | (with_reducible exact State.Keeps.mk_of (by assumption))
    | (fail_if_no_progress (with_reducible refine State.Keeps.mk_of ?_)) | (with_reducible refine KeepsEx.bind (fun a ha => ?_))
    | (with_reducible refine KeepsExW.bind (fun a ha => ?_)) | split | (refine State.Keeps.of_fst (by assumption) ?_) | (refine KeepsEx.elim (by assumption) ?_)
    | (refine KeepsExP.elim (by assumption) ?_) | (refine KeepsExW.elim (by assumption) ?_)

end Sys2Proof.Machine
end

