-- ==== Sys2Proof/Laws/KeepMica.lean ====
section
/-! SUPPORT. What the operations of Machine/Mica.lean keep (Laws/Keeps.lean). -/

namespace Sys2Proof.Machine

theorem State.setLanes_keeps {s₀ s : State} (h : State.Keeps s₀ s) (n r rot : Nat) (f : Nat → Word32) : State.Keeps s₀ (State.setLanes s n r rot f) := by
  unfold State.setLanes
  repeat' first
    | (with_reducible assumption) | lift_lets | (with_reducible apply State.upCore_keeps)

theorem State.micaCount_keeps {s₀ s : State} (h : State.Keeps s₀ s) (n cycles : Nat) : State.Keeps s₀ (State.micaCount s n cycles) := by
  unfold State.micaCount
  repeat' first
    | (with_reducible assumption) | lift_lets | (with_reducible first | apply State.account_keeps | apply State.count_keeps)

theorem State.micaCountOpen_keeps {s₀ s : State} (h : State.Keeps s₀ s) (n bound : Nat) : State.Keeps s₀ (State.micaCountOpen s n bound) := by
  unfold State.micaCountOpen
  repeat' first
    | (with_reducible assumption) | lift_lets | (with_reducible first | apply State.micaCount_keeps | apply State.tookFree_keeps)

theorem State.vecLoad_keeps {s₀ s : State} (h : State.Keeps s₀ s) (n : Nat) (o : QOp) (lo : Nat) : KeepsEx s₀ (State.vecLoad s n o lo) := by
  unfold State.vecLoad
  repeat' first
    | (with_reducible assumption) | (intro x; (with_reducible refine State.Keeps.cut (s₀ := s₀) (x := x) ?_ ?_) <;> [subst x; (clear_value x; intro hx)])
    | (intro x; clear_value x) | lift_lets
    | (with_reducible first | apply State.micaCount_keeps | apply State.setLanes_keeps | apply State.Keeps.ite | apply State.Keeps.ite_fst | apply KeepsEx.ite | apply KeepsEx.ok | apply KeepsEx.error | apply KeepsEx.pure | apply KeepsEx.throw)
    | (with_reducible refine State.forEach_keeps ?_ _ _ (fun t x ht => ?_)) | (with_reducible refine KeepsEx.map (fun t ht => ?_))
    | (with_reducible exact State.Keeps.mk_of (by assumption)) | (fail_if_no_progress (with_reducible refine State.Keeps.mk_of ?_))
    | (with_reducible refine KeepsEx.bind (fun a ha => ?_)) | (with_reducible refine KeepsExW.bind (fun a ha => ?_)) | split

theorem State.vecStore_keeps {s₀ s : State} (h : State.Keeps s₀ s) (n : Nat) (o : QOp) (lo : Nat) : KeepsEx s₀ (State.vecStore s n o lo) := by
  unfold State.vecStore
  repeat' first
    | (with_reducible assumption) | (intro x; (with_reducible refine State.Keeps.cut (s₀ := s₀) (x := x) ?_ ?_) <;> [subst x; (clear_value x; intro hx)])
    | (intro x; clear_value x) | lift_lets
    | (with_reducible first | apply State.micaCount_keeps | apply State.wr_keeps | apply State.Keeps.ite | apply State.Keeps.ite_fst | apply KeepsEx.ite | apply KeepsEx.ok | apply KeepsEx.error | apply KeepsEx.pure | apply KeepsEx.throw)
    | (with_reducible refine State.forEach_keeps ?_ _ _ (fun t x ht => ?_)) | (with_reducible refine KeepsEx.map (fun t ht => ?_))
    | (with_reducible exact State.Keeps.mk_of (by assumption)) | (fail_if_no_progress (with_reducible refine State.Keeps.mk_of ?_))
    | (with_reducible refine KeepsEx.bind (fun a ha => ?_))

theorem performVld_keeps {s₀ s : State} (h : State.Keeps s₀ s) (n : Nat) (o : QOp) : KeepsEx s₀ (performVld s n o) := by
  unfold performVld
  repeat' first
    | (with_reducible assumption) | lift_lets | (with_reducible apply State.vecLoad_keeps)

theorem performVst_keeps {s₀ s : State} (h : State.Keeps s₀ s) (n : Nat) (o : QOp) : KeepsEx s₀ (performVst s n o) := by
  unfold performVst
  repeat' first
    | (with_reducible assumption) | lift_lets | (with_reducible apply State.vecStore_keeps)

theorem performVop_keeps {s₀ s : State} (h : State.Keeps s₀ s) (n : Nat) (o : QOp) : KeepsEx s₀ (performVop s n o) := by
  unfold performVop
  repeat' first
    | (with_reducible assumption) | (intro x; refine State.Keeps.fn x ?_; subst x) | (intro x; clear_value x) | lift_lets
    | (with_reducible first | apply State.micaCount_keeps | apply State.setLanes_keeps | apply State.setObj_keeps | apply State.tookFree_keeps | apply State.Keeps.ite | apply State.Keeps.ite_fst | apply KeepsEx.ite | apply KeepsEx.ok | apply KeepsEx.error)

theorem State.tfStore_keeps {s₀ s : State} (h : State.Keeps s₀ s) (n : Nat) (d : Desc) (sr : Bool) (vals : List FVal) : State.Keeps s₀ (State.tfStore s n d sr vals) := by
  unfold State.tfStore
  repeat' first
    | (with_reducible assumption) | lift_lets
    | (with_reducible first | apply State.count_keeps | apply State.setObj_keeps | apply State.wrVals_keeps | apply State.Keeps.ite)

theorem performTew_keeps {s₀ s : State} (h : State.Keeps s₀ s) (n : Nat) (o : QOp) : KeepsEx s₀ (performTew s n o) := by
  unfold performTew
  repeat' first
    | (with_reducible assumption) | (intro x; clear_value x) | lift_lets
    | (with_reducible first | apply State.count_keeps | apply State.micaCountOpen_keeps | apply State.tfStore_keeps | apply State.Keeps.ite | apply State.Keeps.ite_fst | apply KeepsEx.ite | apply KeepsEx.ok | apply KeepsEx.error | apply KeepsEx.pure | apply KeepsEx.throw)
    | (with_reducible refine KeepsEx.map (fun t ht => ?_)) | (with_reducible exact State.Keeps.mk_of (by assumption))
    | (fail_if_no_progress (with_reducible refine State.Keeps.mk_of ?_)) | (with_reducible refine KeepsEx.bind (fun a ha => ?_))

theorem performTred_keeps {s₀ s : State} (h : State.Keeps s₀ s) (n : Nat) (o : QOp) : KeepsEx s₀ (performTred s n o) := by
  unfold performTred
  repeat' first
    | (with_reducible assumption) | (intro x; clear_value x) | lift_lets
    | (with_reducible first | apply State.count_keeps | apply State.micaCountOpen_keeps | apply State.tfStore_keeps | apply State.Keeps.ite | apply State.Keeps.ite_fst | apply KeepsEx.ite | apply KeepsEx.ok | apply KeepsEx.error | apply KeepsEx.pure | apply KeepsEx.throw)
    | (with_reducible refine KeepsEx.map (fun t ht => ?_)) | (with_reducible exact State.Keeps.mk_of (by assumption))
    | (fail_if_no_progress (with_reducible refine State.Keeps.mk_of ?_)) | (with_reducible refine KeepsEx.bind (fun a ha => ?_))

theorem performTsmx_keeps {s₀ s : State} (h : State.Keeps s₀ s) (n : Nat) (o : QOp) : KeepsEx s₀ (performTsmx s n o) := by
  unfold performTsmx
  repeat' first
    | (with_reducible assumption) | (intro x; refine State.Keeps.fn x ?_; subst x) | (intro x; clear_value x) | lift_lets
    | (with_reducible first | apply State.count_keeps | apply State.micaCountOpen_keeps | apply State.tfStore_keeps | apply State.Keeps.ite | apply State.Keeps.ite_fst | apply KeepsEx.ite | apply KeepsEx.ok | apply KeepsEx.error | apply KeepsEx.pure | apply KeepsEx.throw)
    | (with_reducible refine KeepsEx.map (fun t ht => ?_)) | (with_reducible exact State.Keeps.mk_of (by assumption))
    | (fail_if_no_progress (with_reducible refine State.Keeps.mk_of ?_)) | (with_reducible refine KeepsEx.bind (fun a ha => ?_))
    | (with_reducible refine KeepsExW.bind (fun a ha => ?_)) | split

theorem performTnorm_keeps {s₀ s : State} (h : State.Keeps s₀ s) (n : Nat) (o : QOp) : KeepsEx s₀ (performTnorm s n o) := by
  unfold performTnorm
  repeat' first
    | (with_reducible assumption) | (intro x; clear_value x) | lift_lets
    | (with_reducible first | apply State.count_keeps | apply State.micaCountOpen_keeps | apply State.tfStore_keeps | apply State.Keeps.ite | apply State.Keeps.ite_fst | apply KeepsEx.ite | apply KeepsEx.ok | apply KeepsEx.error | apply KeepsEx.pure | apply KeepsEx.throw)
    | (with_reducible refine KeepsEx.map (fun t ht => ?_)) | (with_reducible exact State.Keeps.mk_of (by assumption))
    | (fail_if_no_progress (with_reducible refine State.Keeps.mk_of ?_)) | (with_reducible refine KeepsEx.bind (fun a ha => ?_))

theorem performGather_keeps {s₀ s : State} (h : State.Keeps s₀ s) (n : Nat) (o : QOp) : KeepsEx s₀ (performGather s n o) := by
  unfold performGather
  repeat' first
    | (with_reducible assumption) | (intro x; (with_reducible refine State.Keeps.cut (s₀ := s₀) (x := x) ?_ ?_) <;> [subst x; (clear_value x; intro hx)])
    | (intro x; refine State.Keeps.fn x ?_; subst x) | (intro x; clear_value x) | lift_lets
    | (with_reducible first | apply State.count_keeps | apply State.micaCountOpen_keeps | apply State.tfStore_keeps | apply State.wrTensor_keeps | apply State.Keeps.ite | apply State.Keeps.ite_fst | apply KeepsEx.ite | apply KeepsEx.ok | apply KeepsEx.error | apply KeepsEx.pure | apply KeepsEx.throw)
    | (with_reducible refine KeepsEx.map (fun t ht => ?_)) | (with_reducible exact State.Keeps.mk_of (by assumption))
    | (fail_if_no_progress (with_reducible refine State.Keeps.mk_of ?_)) | (with_reducible refine KeepsEx.bind (fun a ha => ?_))
    | (with_reducible refine KeepsExW.bind (fun a ha => ?_)) | split

theorem performScatter_keeps {s₀ s : State} (h : State.Keeps s₀ s) (n : Nat) (o : QOp) : KeepsEx s₀ (performScatter s n o) := by
  unfold performScatter
  repeat' first
    | (with_reducible assumption) | (intro x; refine State.Keeps.fn x ?_; subst x) | (intro x; clear_value x) | lift_lets
    | (with_reducible first | apply State.count_keeps | apply State.micaCountOpen_keeps | apply State.setObj_keeps | apply State.wrTensor_keeps | apply State.Keeps.ite | apply State.Keeps.ite_fst | apply KeepsEx.ite | apply KeepsEx.ok | apply KeepsEx.error | apply KeepsEx.pure | apply KeepsEx.throw | apply KeepsOptP.getD)
    | (with_reducible refine KeepsEx.map (fun t ht => ?_)) | (with_reducible exact State.Keeps.mk_of (by assumption))
    | (fail_if_no_progress (with_reducible refine State.Keeps.mk_of ?_)) | (with_reducible refine KeepsEx.bind (fun a ha => ?_))
    | (with_reducible refine KeepsExW.bind (fun a ha => ?_)) | split | (refine State.Keeps.of_fst (by assumption) ?_) | (refine KeepsEx.elim (by assumption) ?_)
    | (refine KeepsExP.elim (by assumption) ?_) | (refine KeepsExW.elim (by assumption) ?_) | (refine KeepsOptP.elim (by assumption) ?_)
    | (refine KeepsOpt.elim (by assumption) ?_) | (refine KeepsRes.elim (by assumption) ?_) | (refine KeepsOpt.elim_fst (by assumption) ?_) | (dsimp only)

theorem performTpool_keeps {s₀ s : State} (h : State.Keeps s₀ s) (n : Nat) (o : QOp) : KeepsEx s₀ (performTpool s n o) := by
  unfold performTpool
  repeat' first
    | (with_reducible assumption) | (intro x; refine State.Keeps.fn x ?_; subst x) | (intro x; clear_value x) | lift_lets
    | (with_reducible first | apply State.count_keeps | apply State.micaCountOpen_keeps | apply State.tfStore_keeps | apply State.Keeps.ite | apply State.Keeps.ite_fst | apply KeepsEx.ite | apply KeepsEx.ok | apply KeepsEx.error | apply KeepsEx.pure | apply KeepsEx.throw)
    | (with_reducible refine foldl_keeps ?_ _ _ (fun t x ht => ?_)) | (with_reducible refine foldl_fst_keeps ?_ _ _ (fun t x ht => ?_))
    | (with_reducible refine KeepsEx.map (fun t ht => ?_)) | (with_reducible exact State.Keeps.mk_of (by assumption))
    | (fail_if_no_progress (with_reducible refine State.Keeps.mk_of ?_)) | (with_reducible refine KeepsEx.bind (fun a ha => ?_))

theorem State.shadeOp_keeps {s₀ s : State} (h : State.Keeps s₀ s) (n : Nat) (o : QOp) (w : OpWord) : KeepsEx s₀ (State.shadeOp s n o w) := by
  unfold State.shadeOp
  repeat' first
    | (with_reducible assumption) | (intro x; clear_value x) | lift_lets
    | (with_reducible first | apply performVop_keeps | apply State.vecLoad_keeps | apply State.vecStore_keeps | apply State.Keeps.ite | apply State.Keeps.ite_fst | apply KeepsEx.ite | apply KeepsEx.ok | apply KeepsEx.error | apply KeepsEx.pure | apply KeepsEx.throw)
    | (with_reducible refine KeepsEx.map (fun t ht => ?_)) | (with_reducible exact State.Keeps.mk_of (by assumption))
    | (fail_if_no_progress (with_reducible refine State.Keeps.mk_of ?_)) | split

theorem State.shadeRun_keeps {s₀ s : State} (h : State.Keeps s₀ s) (n : Nat) (o : QOp) (ws : List OpWord) : KeepsEx s₀ (State.shadeRun s n o ws) := by
  induction ws generalizing s with
  | nil => exact KeepsEx.ok h
  | cons w ws ih =>
    unfold State.shadeRun
    split
    · exact KeepsEx.error _
    · exact ih (State.shadeOp_keeps h _ _ _ _ (by assumption))

theorem performShade_keeps {s₀ s : State} (h : State.Keeps s₀ s) (n : Nat) (o : QOp) : KeepsEx s₀ (performShade s n o) := by
  unfold performShade
  repeat' first
    | (with_reducible assumption) | (intro x; (with_reducible refine State.Keeps.cut (s₀ := s₀) (x := x) ?_ ?_) <;> [subst x; (clear_value x; intro hx)])
    | (intro x; clear_value x) | lift_lets
    | (with_reducible first | apply State.count_keeps | apply State.emit_keeps | apply State.micaCount_keeps | apply State.setLanes_keeps | apply State.shadeRun_keeps | apply State.tookFree_keeps | apply State.wr_keeps | apply State.Keeps.ite | apply State.Keeps.ite_fst | apply KeepsEx.ite | apply KeepsEx.ok | apply KeepsEx.error | apply KeepsEx.pure | apply KeepsEx.throw)
    | (with_reducible refine State.forEach_keeps ?_ _ _ (fun t x ht => ?_)) | (with_reducible refine KeepsEx.map (fun t ht => ?_))
    | (with_reducible exact State.Keeps.mk_of (by assumption)) | (fail_if_no_progress (with_reducible refine State.Keeps.mk_of ?_))
    | (with_reducible refine KeepsEx.bind (fun a ha => ?_)) | (with_reducible refine KeepsExW.bind (fun a ha => ?_)) | split | (refine State.Keeps.of_fst (by assumption) ?_)
    | (refine KeepsEx.elim (by assumption) ?_)

theorem performAfold_keeps {s₀ s : State} (h : State.Keeps s₀ s) (n : Nat) (o : QOp) : KeepsEx s₀ (performAfold s n o) := by
  unfold performAfold
  repeat' first
    | (with_reducible assumption) | (intro x; clear_value x) | lift_lets
    | (with_reducible first | apply State.micaCountOpen_keeps | apply State.upCore_keeps | apply State.Keeps.ite | apply State.Keeps.ite_fst | apply KeepsEx.ite | apply KeepsEx.ok | apply KeepsEx.error | apply KeepsEx.pure | apply KeepsEx.throw)
    | (with_reducible refine KeepsEx.map (fun t ht => ?_)) | (with_reducible exact State.Keeps.mk_of (by assumption))
    | (fail_if_no_progress (with_reducible refine State.Keeps.mk_of ?_)) | (with_reducible refine KeepsEx.bind (fun a ha => ?_))

end Sys2Proof.Machine
end

