-- ==== Sys2Proof/Laws/KeepDma.lean ====
section
/-! SUPPORT. What the operations of Machine/Dma.lean keep (Laws/Keeps.lean). -/

namespace Sys2Proof.Machine

theorem State.dmaPut_keeps {s₀ s : State} (h : State.Keeps s₀ s) (n space off : Nat) (bs : List Byte) : State.Keeps s₀ (State.dmaPut s n space off bs) := by
  unfold State.dmaPut
  repeat' first
    | (with_reducible assumption) | (intro x; clear_value x) | lift_lets
    | (with_reducible first | apply State.emit_keeps | apply State.wr_keeps | apply State.Keeps.ite | apply State.Keeps.ite_fst)
    | (with_reducible exact State.Keeps.mk_of (by assumption)) | (fail_if_no_progress (with_reducible refine State.Keeps.mk_of ?_)) | split

theorem State.dmaTensor_keeps {s₀ s : State} (h : State.Keeps s₀ s) (n : Nat) (d : Desc) (f : Nat → Nat → Nat → Nat → Nat) : State.Keeps s₀ (State.dmaTensor s n d f) := by
  unfold State.dmaTensor
  repeat' first
    | (with_reducible assumption) | (intro x; (with_reducible refine State.Keeps.cut (s₀ := s₀) (x := x) ?_ ?_) <;> [subst x; (clear_value x; intro hx)]) | lift_lets
    | (with_reducible first | apply State.count_keeps | apply State.countDesc_keeps | apply State.dmaPut_keeps)
    | (with_reducible refine State.forEach_keeps ?_ _ _ (fun t x ht => ?_))

theorem State.openScales_keeps {s₀ s : State} (h : State.Keeps s₀ s) (n : Nat) (d : Desc) : State.Keeps s₀ (State.openScales s n d) := by
  unfold State.openScales
  repeat' first
    | (with_reducible assumption) | lift_lets
    | (with_reducible first | apply State.count_keeps | apply State.dmaPut_keeps | apply State.tookFree_keeps | apply State.Keeps.ite)

theorem performDmov_keeps {s₀ s : State} (h : State.Keeps s₀ s) (n : Nat) (o : QOp) : KeepsEx s₀ (performDmov s n o) := by
  unfold performDmov
  repeat' first
    | (with_reducible assumption) | (intro x; (with_reducible refine State.Keeps.cut (s₀ := s₀) (x := x) ?_ ?_) <;> [subst x; (clear_value x; intro hx)])
    | (intro x; clear_value x) | lift_lets
    | (with_reducible first | apply State.count_keeps | apply State.countDesc_keeps | apply State.dmaPut_keeps | apply State.dmaTensor_keeps | apply State.openScales_keeps | apply State.Keeps.ite | apply State.Keeps.ite_fst | apply KeepsEx.ite | apply KeepsEx.ok | apply KeepsEx.error | apply KeepsEx.pure | apply KeepsEx.throw)
    | (with_reducible refine KeepsEx.map (fun t ht => ?_)) | (with_reducible exact State.Keeps.mk_of (by assumption))
    | (fail_if_no_progress (with_reducible refine State.Keeps.mk_of ?_)) | (with_reducible refine KeepsEx.bind (fun a ha => ?_))

theorem performDfill_keeps {s₀ s : State} (h : State.Keeps s₀ s) (n : Nat) (o : QOp) : KeepsEx s₀ (performDfill s n o) := by
  unfold performDfill
  repeat' first
    | (with_reducible assumption) | (intro x; clear_value x) | lift_lets
    | (with_reducible first | apply State.dmaTensor_keeps | apply State.openScales_keeps | apply State.Keeps.ite | apply State.Keeps.ite_fst | apply KeepsEx.ite | apply KeepsEx.ok | apply KeepsEx.error | apply KeepsEx.pure | apply KeepsEx.throw)
    | (with_reducible refine KeepsEx.map (fun t ht => ?_)) | (with_reducible exact State.Keeps.mk_of (by assumption))
    | (fail_if_no_progress (with_reducible refine State.Keeps.mk_of ?_)) | (with_reducible refine KeepsEx.bind (fun a ha => ?_))

theorem State.markRan_keeps {s₀ s : State} (h : State.Keeps s₀ s) (n : Nat) (q : Queue) (seq : Nat) : State.Keeps s₀ (State.markRan s n q seq) := by
  unfold State.markRan
  repeat' first
    | (with_reducible assumption) | lift_lets | (with_reducible apply State.upCore_keeps)

theorem State.collExc_keeps {s₀ s : State} (h : State.Keeps s₀ s) (n seq : Nat) : State.Keeps s₀ (State.collExc s n seq) := by
  unfold State.collExc
  repeat' first
    | (with_reducible assumption) | lift_lets | (with_reducible apply State.except_keeps)

theorem State.collDeliver_keeps {s₀ s : State} (h : State.Keeps s₀ s) (n seq : Nat) (codes : List Nat) (sat : Bool) : State.Keeps s₀ (State.collDeliver s n seq codes sat) := by
  unfold State.collDeliver
  repeat' first
    | (with_reducible assumption) | (intro x; (with_reducible refine State.Keeps.cut (s₀ := s₀) (x := x) ?_ ?_) <;> [subst x; (clear_value x; intro hx)])
    | (intro x; clear_value x) | lift_lets
    | (with_reducible first | apply State.count_keeps | apply State.dmaPut_keeps | apply State.dmaTensor_keeps | apply State.markRan_keeps | apply State.orObj_keeps | apply State.Keeps.ite | apply State.Keeps.ite_fst)
    | (with_reducible exact State.Keeps.mk_of (by assumption)) | (fail_if_no_progress (with_reducible refine State.Keeps.mk_of ?_)) | split

theorem State.collFinish_keeps {s₀ s : State} (h : State.Keeps s₀ s) (m γ k : Nat) (ms : List (Nat × Nat)) : State.Keeps s₀ (State.collFinish s m γ k ms) := by
  unfold State.collFinish
  repeat' first
    | (with_reducible assumption) | (intro x; (with_reducible refine State.Keeps.cut (s₀ := s₀) (x := x) ?_ ?_) <;> [subst x; (clear_value x; intro hx)])
    | (intro x; refine State.Keeps.fn x ?_; subst x) | (intro x; clear_value x) | lift_lets
    | (with_reducible first | apply State.collDeliver_keeps | apply State.count_keeps | apply State.tookFree_keeps | apply State.Keeps.ite | apply State.Keeps.ite_fst)
    | (with_reducible refine State.forEach_keeps ?_ _ _ (fun t x ht => ?_)) | (with_reducible exact State.Keeps.mk_of (by assumption))
    | (fail_if_no_progress (with_reducible refine State.Keeps.mk_of ?_)) | split

theorem State.collJoin_keeps {s₀ s : State} (h : State.Keeps s₀ s) (n : Nat) (o : QOp) : State.Keeps s₀ (State.collJoin s n o) := by
  unfold State.collJoin
  repeat' first
    | (with_reducible assumption) | (intro x; (with_reducible refine State.Keeps.cut (s₀ := s₀) (x := x) ?_ ?_) <;> [subst x; (clear_value x; intro hx)])
    | (intro x; clear_value x) | lift_lets
    | (with_reducible first | apply State.collExc_keeps | apply State.collFinish_keeps | apply State.count_keeps | apply State.countDesc_keeps | apply State.emit_keeps | apply State.except_keeps | apply State.Keeps.ite | apply State.Keeps.ite_fst)
    | (with_reducible refine State.forEach_keeps ?_ _ _ (fun t x ht => ?_)) | (with_reducible exact State.Keeps.mk_of (by assumption))
    | (fail_if_no_progress (with_reducible refine State.Keeps.mk_of ?_)) | split

theorem State.collKick_keeps {s₀ s : State} (h : State.Keeps s₀ s) (n : Nat) : State.Keeps s₀ (State.collKick s n) := by
  unfold State.collKick
  repeat' first
    | (with_reducible assumption) | lift_lets | (with_reducible first | apply State.collJoin_keeps | apply State.Keeps.ite)
    | (with_reducible refine State.forEach_keeps ?_ _ _ (fun t x ht => ?_))

end Sys2Proof.Machine
end

