-- ==== Sys2Proof/Laws/KeepKv.lean ====
section
/-! SUPPORT. What the operations of Machine/Kv.lean keep (Laws/Keeps.lean). -/

namespace Sys2Proof.Machine

theorem State.scatterPage_keeps {s₀ s0 s : State} (h : State.Keeps s₀ s) (n : Nat) (c : Cache) (dk dv : Desc) (pos cnt hd page : Nat) :
    KeepsEx s₀ (State.scatterPage s0 s n c dk dv pos cnt hd page) ∧ ∀ e t, State.scatterPage s0 s n c dk dv pos cnt hd page = .error (e, t) → State.Keeps s₀ t := by
  unfold State.scatterPage
  dsimp only
  split
  · exact ⟨KeepsEx.error _, fun e t eq => by cases eq; exact h⟩
  · split
    · exact ⟨KeepsEx.error _, fun e t eq => by cases eq; exact h⟩
    · rename_i u hu
      have hu' : State.Keeps s₀ u := by
        split at hu
        · cases hu; exact h
        · exact State.bindFrame_keeps h _ _ _ _ _ hu
      refine ⟨KeepsEx.ok ?_, fun e t eq => by cases eq⟩
      refine State.setPtEntry_keeps (State.countBytes_keeps (State.forEach_keeps ?_ _ _ (fun t x ht => State.wr_keeps (State.wr_keeps ht _ _) _ _)) _ _ _ _) _ _
      split
      · exact State.setPtEntry_keeps hu' _ _
      · exact hu'

theorem State.scatterPages_keeps {s₀ s s0 : State} (h : State.Keeps s₀ s) (n : Nat) (c : Cache) (dk dv : Desc) (pos cnt : Nat) (l : List (Nat × Nat)) :
    State.Keeps s₀ (State.scatterPages s0 n c dk dv pos cnt s l).1 := by
  induction l generalizing s with
  | nil => exact h
  | cons x l ih =>
    obtain ⟨hd, page⟩ := x
    unfold State.scatterPages
    split
    · exact (State.scatterPage_keeps h n c dk dv pos cnt hd page).2 _ _ (by assumption)
    · exact ih ((State.scatterPage_keeps h n c dk dv pos cnt hd page).1 _ (by assumption))

theorem State.noteWrite_keeps {s₀ s : State} (h : State.Keeps s₀ s) (n cache tag pos : Nat) : State.Keeps s₀ (State.noteWrite s n cache tag pos) := by
  unfold State.noteWrite
  repeat' first
    | (with_reducible assumption) | (intro x; (with_reducible refine State.Keeps.cut (s₀ := s₀) (x := x) ?_ ?_) <;> [subst x; (clear_value x; intro hx)])
    | (intro x; clear_value x) | lift_lets
    | (with_reducible first | apply State.settleKv_keeps | apply State.upInst_keeps | apply State.upInv_keeps | apply State.Keeps.ite | apply State.Keeps.ite_fst)
    | (with_reducible exact State.Keeps.mk_of (by assumption)) | (fail_if_no_progress (with_reducible refine State.Keeps.mk_of ?_)) | split

theorem performKvscatter_keeps {s₀ s : State} (h : State.Keeps s₀ s) (n : Nat) (o : QOp) : State.Keeps s₀ (performKvscatter s n o).1 := by
  unfold performKvscatter
  repeat' first
    | (with_reducible assumption) | (intro x; (with_reducible refine State.Keeps.cut (s₀ := s₀) (x := x) ?_ ?_) <;> [subst x; (clear_value x; intro hx)])
    | (intro x; (with_reducible refine State.Keeps.cutP (s₀ := s₀) (x := x) ?_ ?_) <;> [subst x; (clear_value x; intro hx)]) | (intro x; clear_value x) | lift_lets
    | (with_reducible first | apply State.count_keeps | apply State.countDesc_keeps | apply State.noteWrite_keeps | apply State.scatterPages_keeps | apply State.Keeps.ite | apply State.Keeps.ite_fst)
    | (with_reducible exact State.Keeps.mk_of (by assumption)) | (fail_if_no_progress (with_reducible refine State.Keeps.mk_of ?_)) | split

theorem performKvfetch_keeps {s₀ s : State} (h : State.Keeps s₀ s) (n : Nat) (o : QOp) : KeepsEx s₀ (performKvfetch s n o) := by
  unfold performKvfetch
  repeat' first
    | (with_reducible assumption) | (intro x; (with_reducible refine State.Keeps.cut (s₀ := s₀) (x := x) ?_ ?_) <;> [subst x; (clear_value x; intro hx)])
    | (intro x; clear_value x) | lift_lets
    | (with_reducible first | apply State.countBytes_keeps | apply State.dmaTensor_keeps | apply State.Keeps.ite | apply State.Keeps.ite_fst | apply KeepsEx.ite | apply KeepsEx.ok | apply KeepsEx.error | apply KeepsEx.pure | apply KeepsEx.throw)
    | (with_reducible refine KeepsEx.map (fun t ht => ?_)) | (with_reducible exact State.Keeps.mk_of (by assumption))
    | (fail_if_no_progress (with_reducible refine State.Keeps.mk_of ?_)) | (with_reducible refine KeepsEx.bind (fun a ha => ?_))

end Sys2Proof.Machine
end

