-- ==== Sys2Proof/Laws/KeepAttn.lean ====
section
/-! SUPPORT. What the operations of Machine/Attn.lean keep (Laws/Keeps.lean). -/

namespace Sys2Proof.Machine

theorem State.openBank_keeps {s₀ s : State} (h : State.Keeps s₀ s) (n b : Nat) : State.Keeps s₀ (State.openBank s n b) := by
  unfold State.openBank
  repeat' first
    | (with_reducible assumption) | (intro x; clear_value x) | lift_lets | (with_reducible first | apply State.tookFree_keeps | apply State.upCore_keeps)

theorem performAttn_keeps {s₀ s : State} (h : State.Keeps s₀ s) (n : Nat) (o : QOp) : KeepsEx s₀ (performAttn s n o) := by
  unfold performAttn
  repeat' first
    | (with_reducible assumption) | (intro x; refine State.Keeps.fn x ?_; subst x) | (intro x; clear_value x) | lift_lets
    | (with_reducible first | apply State.count_keeps | apply State.countBytes_keeps | apply State.micaCountOpen_keeps | apply State.openBank_keeps | apply State.orObj_keeps | apply State.slabCount_keeps | apply State.tookFree_keeps | apply State.weakRot_keeps | apply State.wrVals_keeps | apply State.Keeps.ite | apply State.Keeps.ite_fst | apply KeepsEx.ite | apply KeepsEx.ok | apply KeepsEx.error | apply KeepsEx.pure | apply KeepsEx.throw)
    | (with_reducible refine KeepsEx.map (fun t ht => ?_)) | (with_reducible exact State.Keeps.mk_of (by assumption))
    | (fail_if_no_progress (with_reducible refine State.Keeps.mk_of ?_)) | (with_reducible refine KeepsEx.bind (fun a ha => ?_))
    | (with_reducible refine KeepsExW.bind (fun a ha => ?_)) | split

end Sys2Proof.Machine
end

