-- ==== Sys2Proof/Laws/KeepPlans.lean ====
section
/-! SUPPORT. What the operations of Machine/Plans.lean keep (Laws/Keeps.lean). -/

namespace Sys2Proof.Machine

theorem State.writeLode_keeps {s₀ s : State} (h : State.Keeps s₀ s) (p : Placement) (generation cause : Nat) : State.Keeps s₀ (State.writeLode s p generation cause) := by
  unfold State.writeLode
  repeat' first
    | (with_reducible assumption) | (intro x; clear_value x) | lift_lets | (with_reducible apply State.wr_keeps)

theorem State.writePlace_keeps {s₀ s : State} (h : State.Keeps s₀ s) (m h : Nat) (p : Placement) (generation cause : Nat) : State.Keeps s₀ (State.writePlace s m h p generation cause) := by
  unfold State.writePlace
  repeat' first
    | (with_reducible assumption) | (intro x; (with_reducible refine State.Keeps.cut (s₀ := s₀) (x := x) ?_ ?_) <;> [subst x; (clear_value x; intro hx)]) | lift_lets
    | (with_reducible first | apply State.wr_keeps | apply State.wrN_keeps | apply State.writeLode_keeps)
    | (with_reducible refine State.forEach_keeps ?_ _ _ (fun t x ht => ?_))

theorem State.createCaches_keeps {s₀ s : State} (h : State.Keeps s₀ s) (m : Nat) (bs : List Byte) (p : PlanHdr) (l : List Nat) :
    State.Keeps s₀ (State.createCaches s m bs p l).1 := by
  induction l generalizing s with
  | nil => exact h
  | cons k l ih =>
    unfold State.createCaches
    split
    · exact h
    · dsimp only
      split
      · exact ih (State.Keeps.of_fst (by assumption) (State.kvCreate_keeps (State.wr_keeps h _ _) _ _))
      · exact State.Keeps.of_fst (by assumption) (State.kvCreate_keeps (State.wr_keeps h _ _) _ _)

theorem State.loadPlan_keeps {s₀ s : State} (h : State.Keeps s₀ s) (m h image : Nat) (pl : Placement) : State.Keeps s₀ (State.loadPlan s m h image pl).1 := by
  unfold State.loadPlan
  repeat' first
    | (with_reducible assumption) | (intro x; (with_reducible refine State.Keeps.cut (s₀ := s₀) (x := x) ?_ ?_) <;> [subst x; (clear_value x; intro hx)])
    | (intro x; clear_value x) | lift_lets
    | (with_reducible first | apply State.createCaches_keeps | apply State.orObj_keeps | apply State.reshare_keeps | apply State.setN_keeps | apply State.upInst_keeps | apply State.writePlace_keeps | apply State.Keeps.ite | apply State.Keeps.ite_fst)
    | (with_reducible exact State.Keeps.mk_of (by assumption)) | (fail_if_no_progress (with_reducible refine State.Keeps.mk_of ?_)) | split
    | (refine State.Keeps.of_fst (by assumption) ?_)

end Sys2Proof.Machine
end

