-- ==== Sys2Proof/Laws/KeepAssay.lean ====
section
/-! SUPPORT. What the operations of Machine/Assay.lean keep (Laws/Keeps.lean). -/

namespace Sys2Proof.Machine

theorem State.aopenRunB_keeps {s₀ s : State} (h : State.Keeps s₀ s) (n : Nat) (op : OpWord) : KeepsExP s₀ (State.aopenRunB s n op) := by
  unfold State.aopenRunB
  repeat' first
    | (with_reducible assumption) | (intro x; clear_value x) | lift_lets
    | (with_reducible first | apply State.groupMoved_keeps | apply State.openSlot_keeps | apply State.setEntry_keeps | apply State.Keeps.ite | apply State.Keeps.ite_fst | apply KeepsExP.ite | apply KeepsExP.ok | apply KeepsExP.error)
    | (with_reducible refine KeepsExP.map (fun t ht => ?_)) | (with_reducible exact State.Keeps.mk_of (by assumption))
    | (fail_if_no_progress (with_reducible refine State.Keeps.mk_of ?_)) | split

theorem execAopen_keeps {s₀ s : State} (h : State.Keeps s₀ s) (n : Fin 16) (w : BitVec 120) : KeepsRes s₀ (execAopen n w s) := by
  unfold execAopen
  repeat' first
    | (with_reducible assumption) | (intro x; (with_reducible refine State.Keeps.cut (s₀ := s₀) (x := x) ?_ ?_) <;> [subst x; (clear_value x; intro hx)])
    | (intro x; clear_value x) | lift_lets
    | (with_reducible first | apply State.allocEntry_keeps | apply State.aopenRunB_keeps | apply State.count_keeps | apply State.holdOn_keeps | apply State.openSlot_keeps | apply State.upInst_keeps | apply State.Keeps.ite | apply State.Keeps.ite_fst | apply KeepsRes.ite | apply KeepsRes.next | apply KeepsRes.fault | apply KeepsExP.ite | apply KeepsExP.ok | apply KeepsExP.error)
    | (with_reducible refine State.ctlOp_keeps ?_ _ _ _ _ (fun pc t ht => ?_)) | (with_reducible refine KeepsExP.map (fun t ht => ?_))
    | (with_reducible exact State.Keeps.mk_of (by assumption)) | (fail_if_no_progress (with_reducible refine State.Keeps.mk_of ?_)) | split
    | (refine State.Keeps.of_fst (by assumption) ?_) | (refine KeepsEx.elim (by assumption) ?_) | (refine KeepsExP.elim (by assumption) ?_)

theorem State.retryRunB_keeps {s₀ s : State} (h : State.Keeps s₀ s) (n : Nat) : State.Keeps s₀ (State.retryRunB s n) := by
  unfold State.retryRunB
  repeat' first
    | (with_reducible assumption) | lift_lets
    | (with_reducible first | apply State.aopenRunB_keeps | apply State.ctlDone_keeps | apply State.except_keeps | apply State.holdOn_keeps | apply State.Keeps.ite | apply State.Keeps.ite_fst)
    | (with_reducible exact State.Keeps.mk_of (by assumption)) | (fail_if_no_progress (with_reducible refine State.Keeps.mk_of ?_)) | split
    | (refine State.Keeps.of_fst (by assumption) ?_) | (refine KeepsEx.elim (by assumption) ?_) | (refine KeepsExP.elim (by assumption) ?_)

theorem State.closeRunA_keeps {s₀ s : State} (h : State.Keeps s₀ s) (m i : Nat) (sig : Word64) : State.Keeps s₀ (State.closeRunA s m i sig) := by
  unfold State.closeRunA
  repeat' first
    | (with_reducible assumption) | (intro x; (with_reducible refine State.Keeps.cut (s₀ := s₀) (x := x) ?_ ?_) <;> [subst x; (clear_value x; intro hx)])
    | (intro x; clear_value x) | lift_lets | (with_reducible first | apply State.groupMoved_keeps | apply State.retryRunB_keeps | apply State.setEntry_keeps)
    | (with_reducible refine State.forEach_keeps ?_ _ _ (fun t x ht => ?_))

theorem State.closeRunB_keeps {s₀ s : State} (h : State.Keeps s₀ s) (n m i : Nat) (sig : Word64) : State.Keeps s₀ (State.closeRunB s n m i sig).1 := by
  unfold State.closeRunB
  repeat' first
    | (with_reducible assumption) | (intro x; (with_reducible refine State.Keeps.cut (s₀ := s₀) (x := x) ?_ ?_) <;> [subst x; (clear_value x; intro hx)])
    | (intro x; clear_value x) | lift_lets
    | (with_reducible first | apply State.count_keeps | apply State.freeEntry_keeps | apply State.setN_keeps | apply State.settleGroup_keeps | apply State.squash_keeps | apply State.Keeps.ite | apply State.Keeps.ite_fst)

theorem State.acloseDone_keeps {s₀ s : State} (h : State.Keeps s₀ s) (n : Nat) (op : OpWord) (addr : Nat) : State.Keeps s₀ (State.acloseDone s n op addr) := by
  unfold State.acloseDone
  repeat' first
    | (with_reducible assumption) | (intro x; (with_reducible refine State.Keeps.cut (s₀ := s₀) (x := x) ?_ ?_) <;> [subst x; (clear_value x; intro hx)])
    | (intro x; (with_reducible refine State.Keeps.cutP (s₀ := s₀) (x := x) ?_ ?_) <;> [subst x; (clear_value x; intro hx)]) | (intro x; clear_value x) | lift_lets
    | (with_reducible first | apply State.closeRunA_keeps | apply State.closeRunB_keeps | apply State.collKick_keeps | apply State.ctlDone_keeps | apply State.upCore_keeps | apply State.Keeps.ite | apply State.Keeps.ite_fst)
    | (with_reducible refine State.forEach_keeps ?_ _ _ (fun t x ht => ?_)) | (with_reducible exact State.Keeps.mk_of (by assumption))
    | (fail_if_no_progress (with_reducible refine State.Keeps.mk_of ?_)) | split

theorem execAclose_keeps {s₀ s : State} (h : State.Keeps s₀ s) (n : Fin 16) (w : BitVec 120) : KeepsRes s₀ (execAclose n w s) := by
  unfold execAclose
  repeat' first
    | (with_reducible assumption) | (intro x; (with_reducible refine State.Keeps.cut (s₀ := s₀) (x := x) ?_ ?_) <;> [subst x; (clear_value x; intro hx)])
    | (intro x; clear_value x) | lift_lets
    | (with_reducible first | apply State.acloseDone_keeps | apply State.except_keeps | apply State.holdOn_keeps | apply State.setN_keeps | apply State.Keeps.ite)
    | (with_reducible refine State.dispatch_keeps ?_ _ _ _ _ _ (fun pc t ht => ?_))

theorem execAssayTimeout_keeps {s₀ s : State} (h : State.Keeps s₀ s) (e : Fin 4096) : KeepsRes s₀ (execAssayTimeout e s) := by
  unfold execAssayTimeout
  repeat' first
    | (with_reducible assumption) | (intro x; clear_value x) | lift_lets
    | (with_reducible first | apply State.squash_keeps | apply State.Keeps.ite | apply State.Keeps.ite_fst | apply KeepsRes.ite | apply KeepsRes.next)

theorem execLedgerDeadlock_keeps {s₀ s : State} (h : State.Keeps s₀ s) (m : Fin 16) : KeepsRes s₀ (execLedgerDeadlock m s) := by
  unfold execLedgerDeadlock
  repeat' first
    | (with_reducible assumption) | (intro x; clear_value x) | lift_lets
    | (with_reducible first | apply State.assayEvent_keeps | apply State.count_keeps | apply State.endInv_keeps | apply State.withdrawInv_keeps | apply State.Keeps.ite | apply State.Keeps.ite_fst | apply KeepsRes.ite | apply KeepsRes.next | apply KeepsRes.fault | apply KeepsOptP.getD)
    | (with_reducible refine State.forEach_keeps ?_ _ _ (fun t x ht => ?_)) | (with_reducible exact State.Keeps.mk_of (by assumption))
    | (fail_if_no_progress (with_reducible refine State.Keeps.mk_of ?_)) | split | (refine State.Keeps.of_fst (by assumption) ?_) | (refine KeepsEx.elim (by assumption) ?_)
    | (refine KeepsExP.elim (by assumption) ?_) | (refine KeepsExW.elim (by assumption) ?_) | (refine KeepsOptP.elim (by assumption) ?_)
    | (refine KeepsOpt.elim (by assumption) ?_) | (refine KeepsRes.elim (by assumption) ?_) | (refine KeepsOpt.elim_fst (by assumption) ?_) | (dsimp only)

theorem State.breakGroup_keeps {s₀ s : State} (h : State.Keeps s₀ s) (n : Nat) (x : ASlot) : State.Keeps s₀ (State.breakGroup s n x) := by
  unfold State.breakGroup
  repeat' first
    | (with_reducible assumption) | (intro x; (with_reducible refine State.Keeps.cut (s₀ := s₀) (x := x) ?_ ?_) <;> [subst x; (clear_value x; intro hx)])
    | (intro x; clear_value x) | lift_lets
    | (with_reducible first | apply State.assayEvent_keeps | apply State.count_keeps | apply State.orObj_keeps | apply State.safeTrigger_keeps | apply State.setEntry_keeps | apply State.settleGroup_keeps | apply State.strataEvent_keeps | apply State.Keeps.ite | apply State.Keeps.ite_fst)
    | (with_reducible exact State.Keeps.mk_of (by assumption)) | (fail_if_no_progress (with_reducible refine State.Keeps.mk_of ?_)) | split

theorem State.breakGroups_keeps {s₀ s : State} (h : State.Keeps s₀ s) (n : Nat) : State.Keeps s₀ (State.breakGroups s n) := by
  unfold State.breakGroups
  repeat' first
    | (with_reducible assumption) | lift_lets | (with_reducible apply State.breakGroup_keeps) | (with_reducible refine State.forEach_keeps ?_ _ _ (fun t x ht => ?_))

theorem State.stopWatch_keeps {s₀ s : State} (h : State.Keeps s₀ s) (n : Nat) : State.Keeps s₀ (State.stopWatch s n) := by
  unfold State.stopWatch
  repeat' first
    | (with_reducible assumption) | lift_lets | (with_reducible apply State.upCore_keeps)

theorem State.startWatch_keeps {s₀ s : State} (h : State.Keeps s₀ s) (n : Nat) : State.Keeps s₀ (State.startWatch s n) := by
  unfold State.startWatch
  repeat' first
    | (with_reducible assumption) | lift_lets | (with_reducible apply State.upCore_keeps)

theorem execDebugHalt_keeps {s₀ s : State} (h : State.Keeps s₀ s) (n : Fin 16) : KeepsRes s₀ (execDebugHalt n s) := by
  unfold execDebugHalt
  repeat' first
    | (with_reducible assumption) | lift_lets
    | (with_reducible first | apply State.breakGroups_keeps | apply State.setN_keeps | apply State.stopWatch_keeps | apply State.Keeps.ite | apply State.Keeps.ite_fst | apply KeepsRes.ite | apply KeepsRes.next)

theorem execDebugStep_keeps {s₀ s : State} (h : State.Keeps s₀ s) (n : Fin 16) : KeepsRes s₀ (execDebugStep n s) := by
  unfold execDebugStep
  repeat' first
    | (with_reducible assumption) | lift_lets
    | (with_reducible first | apply State.breakGroups_keeps | apply State.upCore_keeps | apply State.Keeps.ite | apply State.Keeps.ite_fst | apply KeepsRes.ite | apply KeepsRes.next)

end Sys2Proof.Machine
end

