-- ==== Sys2Proof/Laws/KeepMailbox.lean ====
section
/-! SUPPORT. What the operations of Machine/Mailbox.lean keep (Laws/Keeps.lean). -/

namespace Sys2Proof.Machine

theorem State.consumed_keeps {s₀ s : State} (h : State.Keeps s₀ s) (m : Nat) : State.Keeps s₀ (State.consumed s m) := by
  unfold State.consumed
  repeat' first
    | (with_reducible assumption) | lift_lets | (with_reducible first | apply State.count_keeps | apply State.orObj_keeps | apply State.upInst_keeps | apply State.wrN_keeps)

theorem State.message_keeps {s₀ s : State} (h : State.Keeps s₀ s) (m kind : Nat) (act : Nat → State → State) (hb : ∀ k t, State.Keeps s₀ t → State.Keeps s₀ (act k t)) : KeepsRes s₀ (State.message s m kind act) := by
  unfold State.message
  repeat' first
    | (with_reducible assumption) | (intro x; (with_reducible refine State.Keeps.cut (s₀ := s₀) (x := x) ?_ ?_) <;> [subst x; (clear_value x; intro hx)])
    | (intro x; clear_value x) | lift_lets
    | (with_reducible first | apply State.consumed_keeps | apply State.refuse_keeps | apply hb | apply State.Keeps.ite | apply State.Keeps.ite_fst | apply KeepsRes.ite | apply KeepsRes.next)

theorem execLoad_keeps {s₀ s : State} (h : State.Keeps s₀ s) (m : Fin 16) (pl : Placement) : KeepsRes s₀ (execLoad m pl s) := by
  unfold execLoad
  repeat' first
    | (with_reducible assumption) | (intro x; clear_value x) | lift_lets
    | (with_reducible first | apply State.loadPlan_keeps | apply State.post_keeps | apply State.refuse_keeps | apply State.wr_keeps | apply State.Keeps.ite)
    | (with_reducible refine State.message_keeps ?_ _ _ _ (fun k t ht => ?_))

theorem State.discardQueued_keeps {s₀ s : State} (h : State.Keeps s₀ s) (m : Nat) (p : RunReq → Bool) : State.Keeps s₀ (State.discardQueued s m p) := by
  unfold State.discardQueued
  repeat' first
    | (with_reducible assumption) | (intro x; clear_value x) | lift_lets | (with_reducible first | apply State.reportQueued_keeps | apply State.upInst_keeps)
    | (with_reducible refine State.forEach_keeps ?_ _ _ (fun t x ht => ?_))

theorem execUnload_keeps {s₀ s : State} (h : State.Keeps s₀ s) (m : Fin 16) : KeepsRes s₀ (execUnload m s) := by
  unfold execUnload
  repeat' first
    | (with_reducible assumption) | (intro x; (with_reducible refine State.Keeps.cut (s₀ := s₀) (x := x) ?_ ?_) <;> [subst x; (clear_value x; intro hx)])
    | (intro x; clear_value x) | lift_lets
    | (with_reducible first | apply State.discardQueued_keeps | apply State.finishUnload_keeps | apply State.post_keeps | apply State.refuse_keeps | apply State.setN_keeps | apply State.upInst_keeps | apply State.Keeps.ite | apply State.Keeps.ite_fst | apply KeepsRes.ite | apply KeepsRes.next | apply KeepsRes.fault)
    | (with_reducible refine State.message_keeps ?_ _ _ _ (fun k t ht => ?_)) | (with_reducible exact State.Keeps.mk_of (by assumption))
    | (fail_if_no_progress (with_reducible refine State.Keeps.mk_of ?_)) | split

theorem State.enqueue_keeps {s₀ s : State} (h : State.Keeps s₀ s) (m : Nat) (r : RunReq) : State.Keeps s₀ (State.enqueue s m r) := by
  unfold State.enqueue
  repeat' first
    | (with_reducible assumption) | lift_lets | (with_reducible first | apply State.schedule_keeps | apply State.upInst_keeps)

theorem execRun_keeps {s₀ s : State} (h : State.Keeps s₀ s) (m : Fin 16) : KeepsRes s₀ (execRun m s) := by
  unfold execRun
  repeat' first
    | (with_reducible assumption) | (intro x; clear_value x) | lift_lets
    | (with_reducible first | apply State.enqueue_keeps | apply State.refuse_keeps | apply State.Keeps.ite | apply State.Keeps.ite_fst | apply KeepsRes.ite | apply KeepsRes.next | apply KeepsRes.fault)
    | (with_reducible refine State.message_keeps ?_ _ _ _ (fun k t ht => ?_)) | (with_reducible exact State.Keeps.mk_of (by assumption))
    | (fail_if_no_progress (with_reducible refine State.Keeps.mk_of ?_)) | split

theorem State.newInv_keeps {s₀ s : State} (h : State.Keeps s₀ s) (m : Nat) (v : InvSt) : State.Keeps s₀ (State.newInv s m v) := by
  unfold State.newInv
  repeat' first
    | (with_reducible assumption) | (intro x; (with_reducible refine State.Keeps.cut (s₀ := s₀) (x := x) ?_ ?_) <;> [subst x; (clear_value x; intro hx)]) | lift_lets
    | (with_reducible first | apply State.setN_keeps | apply State.upInst_keeps | apply State.Keeps.ite)

theorem State.startDirect_keeps {s₀ s : State} (h : State.Keeps s₀ s) (m : Nat) (r : RunReq) : State.Keeps s₀ (State.startDirect s m r) := by
  unfold State.startDirect
  repeat' first
    | (with_reducible assumption) | (intro x; (with_reducible refine State.Keeps.cut (s₀ := s₀) (x := x) ?_ ?_) <;> [subst x; (clear_value x; intro hx)])
    | (intro x; clear_value x) | lift_lets
    | (with_reducible first | apply State.garnetRun_keeps | apply State.newInv_keeps | apply State.refuse_keeps | apply State.setN_keeps | apply State.startSeg_keeps | apply State.tookFree_keeps | apply State.Keeps.ite)
    | (with_reducible refine State.forEach_keeps ?_ _ _ (fun t x ht => ?_))

theorem execDirect_keeps {s₀ s : State} (h : State.Keeps s₀ s) (m : Fin 16) : KeepsRes s₀ (execDirect m s) := by
  unfold execDirect
  repeat' first
    | (with_reducible assumption) | (intro x; clear_value x) | lift_lets
    | (with_reducible first | apply State.enqueue_keeps | apply State.refuse_keeps | apply State.startDirect_keeps | apply State.Keeps.ite)
    | (with_reducible refine State.message_keeps ?_ _ _ _ (fun k t ht => ?_))

theorem execCancel_keeps {s₀ s : State} (h : State.Keeps s₀ s) (m : Fin 16) : KeepsRes s₀ (execCancel m s) := by
  unfold execCancel
  repeat' first
    | (with_reducible assumption) | (intro x; clear_value x) | lift_lets
    | (with_reducible first | apply State.refuse_keeps | apply State.reportQueued_keeps | apply State.tookFree_keeps | apply State.upInst_keeps | apply State.yieldSlice_keeps | apply State.Keeps.ite | apply State.Keeps.ite_fst | apply KeepsRes.ite | apply KeepsRes.next | apply KeepsRes.fault)
    | (with_reducible refine State.message_keeps ?_ _ _ _ (fun k t ht => ?_)) | (with_reducible exact State.Keeps.mk_of (by assumption))
    | (fail_if_no_progress (with_reducible refine State.Keeps.mk_of ?_)) | split

theorem execHeartbeat_keeps {s₀ s : State} (h : State.Keeps s₀ s) (m : Fin 16) : KeepsRes s₀ (execHeartbeat m s) := by
  unfold execHeartbeat
  repeat' first
    | (with_reducible assumption) | lift_lets | (with_reducible refine State.message_keeps ?_ _ _ _ (fun k t ht => ?_))

theorem execAttach_keeps {s₀ s : State} (h : State.Keeps s₀ s) (m : Fin 16) : KeepsRes s₀ (execAttach m s) := by
  unfold execAttach
  repeat' first
    | (with_reducible assumption) | lift_lets | (with_reducible first | apply State.setN_keeps | apply State.Keeps.ite)
    | (with_reducible refine State.message_keeps ?_ _ _ _ (fun k t ht => ?_))

theorem execMboxFromClear_keeps {s₀ s : State} (h : State.Keeps s₀ s) (m : Fin 16) : KeepsRes s₀ (execMboxFromClear m s) := by
  unfold execMboxFromClear
  repeat' first
    | (with_reducible assumption) | lift_lets
    | (with_reducible first | apply State.clrObj_keeps | apply State.pump_keeps | apply State.wrN_keeps | apply State.Keeps.ite | apply State.Keeps.ite_fst | apply KeepsRes.ite | apply KeepsRes.next)

theorem State.holdSlot_keeps {s₀ s : State} (h : State.Keeps s₀ s) (set slot : Nat) : State.Keeps s₀ (State.holdSlot s set slot) := by
  unfold State.holdSlot
  repeat' first
    | (with_reducible assumption) | (intro x; clear_value x) | lift_lets | (with_reducible first | apply State.Keeps.ite | apply State.Keeps.ite_fst)
    | (with_reducible exact State.Keeps.mk_of (by assumption))

theorem State.startRun_keeps {s₀ s : State} (h : State.Keeps s₀ s) (m : Nat) (p : PlanSt) (r : RunReq) (slot : Bool) : State.Keeps s₀ (State.startRun s m p r slot) := by
  unfold State.startRun
  repeat' first
    | (with_reducible assumption) | (intro x; (with_reducible refine State.Keeps.cut (s₀ := s₀) (x := x) ?_ ?_) <;> [subst x; (clear_value x; intro hx)])
    | (intro x; clear_value x) | lift_lets
    | (with_reducible first | apply State.count_keeps | apply State.goldenBegun_keeps | apply State.holdSlot_keeps | apply State.newInv_keeps | apply State.startSeg_keeps | apply State.upCore_keeps | apply State.upInst_keeps | apply State.Keeps.ite)
    | (with_reducible refine State.forEach_keeps ?_ _ _ (fun t x ht => ?_))

theorem State.tryStart_keeps {s₀ s : State} (h : State.Keeps s₀ s) (m : Nat) (r : RunReq) : KeepsOpt s₀ (State.tryStart s m r) := by
  unfold State.tryStart
  repeat' first
    | (with_reducible assumption) | lift_lets
    | (with_reducible first | apply State.refuse_keeps | apply State.startDirect_keeps | apply State.startRun_keeps | apply State.Keeps.ite | apply State.Keeps.ite_fst | apply KeepsOpt.ite | apply KeepsOpt.some | apply KeepsOpt.none)
    | (with_reducible exact State.Keeps.mk_of (by assumption)) | (fail_if_no_progress (with_reducible refine State.Keeps.mk_of ?_)) | split

theorem State.issueHeld_keeps {s₀ s : State} (h : State.Keeps s₀ s) (m h : Nat) : State.Keeps s₀ (State.issueHeld s m h) := by
  unfold State.issueHeld
  repeat' first
    | (with_reducible assumption) | (intro x; (with_reducible refine State.Keeps.cut (s₀ := s₀) (x := x) ?_ ?_) <;> [subst x; (clear_value x; intro hx)]) | lift_lets
    | (with_reducible first | apply State.upInst_keeps | apply State.upPart_keeps | apply State.Keeps.ite | apply State.Keeps.ite_fst)
    | (with_reducible exact State.Keeps.mk_of (by assumption)) | (fail_if_no_progress (with_reducible refine State.Keeps.mk_of ?_)) | split

theorem execInvocationStart_keeps {s₀ s : State} (h : State.Keeps s₀ s) (m : Fin 16) : KeepsRes s₀ (execInvocationStart m s) := by
  unfold execInvocationStart
  repeat' first
    | (with_reducible assumption) | lift_lets
    | (with_reducible first | apply State.issueHeld_keeps | apply State.tryStart_keeps | apply State.upInst_keeps | apply State.Keeps.ite | apply State.Keeps.ite_fst | apply KeepsRes.ite | apply KeepsRes.next | apply KeepsRes.fault)
    | (with_reducible exact State.Keeps.mk_of (by assumption)) | (fail_if_no_progress (with_reducible refine State.Keeps.mk_of ?_)) | split
    | (refine State.Keeps.of_fst (by assumption) ?_) | (refine KeepsEx.elim (by assumption) ?_) | (refine KeepsExP.elim (by assumption) ?_)
    | (refine KeepsExW.elim (by assumption) ?_) | (refine KeepsOptP.elim (by assumption) ?_) | (refine KeepsOpt.elim (by assumption) ?_)

theorem State.releaseOutput_keeps {s₀ s : State} (h : State.Keeps s₀ s) (m inv binding : Nat) : State.Keeps s₀ (State.releaseOutput s m inv binding) := by
  unfold State.releaseOutput
  repeat' first
    | (with_reducible assumption) | (intro x; (with_reducible refine State.Keeps.cut (s₀ := s₀) (x := x) ?_ ?_) <;> [subst x; (clear_value x; intro hx)])
    | (intro x; clear_value x) | lift_lets
    | (with_reducible first | apply State.countBytes_keeps | apply State.upInv_keeps | apply State.wr_keeps | apply State.Keeps.ite | apply State.Keeps.ite_fst)
    | (with_reducible exact State.Keeps.mk_of (by assumption)) | (fail_if_no_progress (with_reducible refine State.Keeps.mk_of ?_)) | split

theorem execOutputRelease_keeps {s₀ s : State} (h : State.Keeps s₀ s) (m : Fin 16) (inv binding : Nat) : KeepsRes s₀ (execOutputRelease m inv binding s) := by
  unfold execOutputRelease
  repeat' first
    | (with_reducible assumption) | lift_lets
    | (with_reducible first | apply State.releaseOutput_keeps | apply State.Keeps.ite | apply State.Keeps.ite_fst | apply KeepsRes.ite | apply KeepsRes.next)

theorem State.chargeEnergy_keeps {s₀ s : State} (h : State.Keeps s₀ s) (m energy : Nat) : State.Keeps s₀ (State.chargeEnergy s m energy) := by
  unfold State.chargeEnergy
  repeat' first
    | (with_reducible assumption) | (intro x; (with_reducible refine State.Keeps.cut (s₀ := s₀) (x := x) ?_ ?_) <;> [subst x; (clear_value x; intro hx)])
    | (intro x; clear_value x) | lift_lets | (with_reducible first | apply State.count_keeps | apply State.orObj_keeps | apply State.Keeps.ite)

theorem execInvocationComplete_keeps {s₀ s : State} (h : State.Keeps s₀ s) (m : Fin 16) (inv : Nat) (energy : Nat) : KeepsRes s₀ (execInvocationComplete m inv energy s) := by
  unfold execInvocationComplete
  repeat' first
    | (with_reducible assumption) | (intro x; (with_reducible refine State.Keeps.cut (s₀ := s₀) (x := x) ?_ ?_) <;> [subst x; (clear_value x; intro hx)]) | lift_lets
    | (with_reducible first | apply State.chargeEnergy_keeps | apply State.endInv_keeps | apply State.goldenCheck_keeps | apply State.Keeps.ite | apply State.Keeps.ite_fst | apply KeepsRes.ite | apply KeepsRes.next | apply KeepsRes.fault)
    | (with_reducible exact State.Keeps.mk_of (by assumption)) | (fail_if_no_progress (with_reducible refine State.Keeps.mk_of ?_)) | split

theorem State.writeReplace_keeps {s₀ s : State} (h : State.Keeps s₀ s) (m : Nat) (v : Word64) : KeepsEx s₀ (State.writeReplace s m v) := by
  unfold State.writeReplace
  repeat' first
    | (with_reducible assumption) | (intro x; clear_value x) | lift_lets
    | (with_reducible first | apply State.upInst_keeps | apply State.Keeps.ite | apply State.Keeps.ite_fst | apply KeepsEx.ite | apply KeepsEx.ok | apply KeepsEx.error)

theorem execReplace_keeps {s₀ s : State} (h : State.Keeps s₀ s) (src : Src) (m : Fin 16) (v : Word64) : KeepsRes s₀ (execReplace src m v s) := by
  unfold execReplace
  repeat' first
    | (with_reducible assumption) | lift_lets | (with_reducible apply State.writeReplace_keeps) | (with_reducible refine State.command_keeps ?_ _ _ _ _ _ (fun r t ht => ?_))

theorem execReplacementJob_keeps {s₀ s : State} (h : State.Keeps s₀ s) (m : Fin 16) (h : Fin 16) (cause : Fin 5) (pl : Placement) : KeepsRes s₀ (execReplacementJob m h cause pl s) := by
  unfold execReplacementJob
  repeat' first
    | (with_reducible assumption) | (intro x; (with_reducible refine State.Keeps.cut (s₀ := s₀) (x := x) ?_ ?_) <;> [subst x; (clear_value x; intro hx)])
    | (intro x; clear_value x) | lift_lets
    | (with_reducible first | apply State.clrObj_keeps | apply State.count_keeps | apply State.orObj_keeps | apply State.setN_keeps | apply State.upInst_keeps | apply State.writePlace_keeps | apply State.Keeps.ite | apply State.Keeps.ite_fst | apply KeepsRes.ite | apply KeepsRes.next | apply KeepsRes.fault)
    | (with_reducible exact State.Keeps.mk_of (by assumption)) | (fail_if_no_progress (with_reducible refine State.Keeps.mk_of ?_)) | split

theorem State.restartInv_keeps {s₀ s : State} (h : State.Keeps s₀ s) (m num : Nat) : State.Keeps s₀ (State.restartInv s m num) := by
  unfold State.restartInv
  repeat' first
    | (with_reducible assumption) | (intro x; (with_reducible refine State.Keeps.cut (s₀ := s₀) (x := x) ?_ ?_) <;> [subst x; (clear_value x; intro hx)])
    | (intro x; clear_value x) | lift_lets
    | (with_reducible first | apply State.count_keeps | apply State.dealCores_keeps | apply State.removeInv_keeps | apply State.settleInst_keeps | apply State.upInst_keeps | apply State.withdrawInv_keeps | apply State.Keeps.ite | apply State.Keeps.ite_fst)
    | (with_reducible exact State.Keeps.mk_of (by assumption)) | (fail_if_no_progress (with_reducible refine State.Keeps.mk_of ?_)) | split

theorem execShrinkGraceExpiry_keeps {s₀ s : State} (h : State.Keeps s₀ s) (m : Fin 16) (inv : Nat) : KeepsRes s₀ (execShrinkGraceExpiry m inv s) := by
  unfold execShrinkGraceExpiry
  repeat' first
    | (with_reducible assumption) | lift_lets
    | (with_reducible first | apply State.restartInv_keeps | apply State.Keeps.ite | apply State.Keeps.ite_fst | apply KeepsRes.ite | apply KeepsRes.next | apply KeepsRes.fault)
    | (with_reducible exact State.Keeps.mk_of (by assumption)) | (fail_if_no_progress (with_reducible refine State.Keeps.mk_of ?_)) | split

end Sys2Proof.Machine
end

