-- ==== Sys2Proof/Laws/KeepTime.lean ====
section
/-! SUPPORT. What the operations of Machine/Time.lean keep (Laws/Keeps.lean). -/

namespace Sys2Proof.Machine

theorem execServoUpdate_keeps {s₀ s : State} (h : State.Keeps s₀ s) (d : Fin 2) (delta rate : Int) : KeepsRes s₀ (execServoUpdate d delta rate s) := by
  unfold execServoUpdate
  repeat' first
    | (with_reducible assumption) | (intro x; (with_reducible refine State.Keeps.cut (s₀ := s₀) (x := x) ?_ ?_) <;> [subst x; (clear_value x; intro hx)])
    | (intro x; clear_value x) | lift_lets
    | (with_reducible first | apply State.leaveLocked_keeps | apply State.selStep_keeps | apply State.setGd_keeps | apply State.setPairFrom_keeps | apply State.tookFree_keeps | apply State.Keeps.ite | apply State.Keeps.ite_fst | apply KeepsRes.ite | apply KeepsRes.next)

theorem execDomainSlewEnd_keeps {s₀ s : State} (h : State.Keeps s₀ s) (d : Fin 2) : KeepsRes s₀ (execDomainSlewEnd d s) := by
  unfold execDomainSlewEnd
  repeat' first
    | (with_reducible assumption) | (intro x; clear_value x) | lift_lets
    | (with_reducible first | apply State.setGd_keeps | apply State.setPairFrom_keeps | apply State.Keeps.ite | apply State.Keeps.ite_fst | apply KeepsRes.ite | apply KeepsRes.next | apply KeepsRes.fault)
    | (with_reducible exact State.Keeps.mk_of (by assumption)) | (fail_if_no_progress (with_reducible refine State.Keeps.mk_of ?_)) | split

theorem execGrandmasterLost_keeps {s₀ s : State} (h : State.Keeps s₀ s) (d : Fin 2) : KeepsRes s₀ (execGrandmasterLost d s) := by
  unfold execGrandmasterLost
  repeat' first
    | (with_reducible assumption) | (intro x; clear_value x) | lift_lets
    | (with_reducible first | apply State.leaveLocked_keeps | apply State.setGd_keeps | apply State.Keeps.ite | apply State.Keeps.ite_fst | apply KeepsRes.ite | apply KeepsRes.next)

theorem execGrandmasterReselected_keeps {s₀ s : State} (h : State.Keeps s₀ s) (d : Fin 2) (gm : Word64) : KeepsRes s₀ (execGrandmasterReselected d gm s) := by
  unfold execGrandmasterReselected
  repeat' first
    | (with_reducible assumption) | lift_lets
    | (with_reducible first | apply State.setN_keeps | apply State.Keeps.ite | apply State.Keeps.ite_fst | apply KeepsRes.ite | apply KeepsRes.next)

theorem State.failover_keeps {s₀ s : State} (h : State.Keeps s₀ s)  : State.Keeps s₀ (State.failover s) := by
  unfold State.failover
  repeat' first
    | (with_reducible assumption) | (intro x; clear_value x) | lift_lets | (with_reducible first | apply State.selectDomain_keeps | apply State.Keeps.ite)

theorem execHoldoverExpiry_keeps {s₀ s : State} (h : State.Keeps s₀ s) (d : Fin 2) : KeepsRes s₀ (execHoldoverExpiry d s) := by
  unfold execHoldoverExpiry
  repeat' first
    | (with_reducible assumption) | lift_lets
    | (with_reducible first | apply State.failover_keeps | apply State.setN_keeps | apply State.Keeps.ite | apply State.Keeps.ite_fst | apply KeepsRes.ite | apply KeepsRes.next)

theorem State.armFirstLock_keeps {s₀ s : State} (h : State.Keeps s₀ s)  : State.Keeps s₀ (State.armFirstLock s) := by
  unfold State.armFirstLock
  repeat' first
    | (with_reducible assumption) | lift_lets | (with_reducible first | apply State.armNetwork_keeps | apply State.Keeps.ite)
    | (with_reducible refine State.forEach_keeps ?_ _ _ (fun t x ht => ?_))

theorem execDomainLock_keeps {s₀ s : State} (h : State.Keeps s₀ s) (d : Fin 2) (gm : Word64) (offset rate : Int) : KeepsRes s₀ (execDomainLock d gm offset rate s) := by
  unfold execDomainLock
  repeat' first
    | (with_reducible assumption) | (intro x; (with_reducible refine State.Keeps.cut (s₀ := s₀) (x := x) ?_ ?_) <;> [subst x; (clear_value x; intro hx)])
    | (intro x; clear_value x) | lift_lets
    | (with_reducible first | apply State.armFirstLock_keeps | apply State.count_keeps | apply State.selMeasure_keeps | apply State.setGd_keeps | apply State.setN_keeps | apply State.setObj_keeps | apply State.setPair_keeps | apply State.Keeps.ite | apply State.Keeps.ite_fst | apply KeepsRes.ite | apply KeepsRes.next | apply KeepsRes.fault)
    | (with_reducible exact State.Keeps.mk_of (by assumption))

theorem execSelectedSlewEnd_keeps {s₀ s : State} (h : State.Keeps s₀ s)  : KeepsRes s₀ (execSelectedSlewEnd s) := by
  unfold execSelectedSlewEnd
  repeat' first
    | (with_reducible assumption) | lift_lets
    | (with_reducible first | apply State.Keeps.ite | apply State.Keeps.ite_fst | apply KeepsRes.ite | apply KeepsRes.next | apply KeepsRes.fault)
    | (with_reducible exact State.Keeps.mk_of (by assumption))

theorem State.fire_keeps {s₀ s : State} (h : State.Keeps s₀ s) (e action : Nat) : KeepsOptP s₀ (State.fire s e action) := by
  unfold State.fire
  repeat' first
    | (with_reducible assumption) | (intro x; (with_reducible refine State.Keeps.cut (s₀ := s₀) (x := x) ?_ ?_) <;> [subst x; (clear_value x; intro hx)])
    | (intro x; refine State.Keeps.fn x ?_; subst x) | (intro x; clear_value x) | lift_lets
    | (with_reducible first | apply State.cadFired_keeps | apply State.cadOff_keeps | apply State.setN_keeps | apply State.Keeps.ite | apply State.Keeps.ite_fst | apply KeepsOptP.ite | apply KeepsOptP.some | apply KeepsOptP.none)
    | (with_reducible exact State.Keeps.mk_of (by assumption)) | (fail_if_no_progress (with_reducible refine State.Keeps.mk_of ?_)) | split

theorem execCadenceNone_keeps {s₀ s : State} (h : State.Keeps s₀ s) (e : Fin 1024) : KeepsRes s₀ (execCadenceNone e s) := by
  unfold execCadenceNone
  repeat' first
    | (with_reducible assumption) | lift_lets
    | (with_reducible first | apply State.fire_keeps | apply State.Keeps.ite | apply State.Keeps.ite_fst | apply KeepsRes.ite | apply KeepsRes.next | apply KeepsRes.fault)
    | (with_reducible exact State.Keeps.mk_of (by assumption)) | (fail_if_no_progress (with_reducible refine State.Keeps.mk_of ?_)) | split
    | (refine State.Keeps.of_fst (by assumption) ?_) | (refine KeepsEx.elim (by assumption) ?_) | (refine KeepsExP.elim (by assumption) ?_)
    | (refine KeepsExW.elim (by assumption) ?_) | (refine KeepsOptP.elim (by assumption) ?_)

theorem State.setPulse_keeps {s₀ s : State} (h : State.Keeps s₀ s) (o : Nat) (p : Option Pulse) : State.Keeps s₀ (State.setPulse s o p) := by
  unfold State.setPulse
  repeat' first
    | (with_reducible assumption) | lift_lets | (with_reducible first | apply State.Keeps.ite | apply State.Keeps.ite_fst)
    | (with_reducible exact State.Keeps.mk_of (by assumption))

theorem State.pulseEnd_keeps {s₀ s : State} (h : State.Keeps s₀ s) (o : Nat) : State.Keeps s₀ (State.pulseEnd s o) := by
  unfold State.pulseEnd
  repeat' first
    | (with_reducible assumption) | lift_lets
    | (with_reducible first | apply State.emit_keeps | apply State.setPulse_keeps | apply State.Keeps.ite | apply State.Keeps.ite_fst)
    | (with_reducible exact State.Keeps.mk_of (by assumption)) | (fail_if_no_progress (with_reducible refine State.Keeps.mk_of ?_)) | split

theorem State.pulseAt_keeps {s₀ s : State} (h : State.Keeps s₀ s) (o due width : Nat) : State.Keeps s₀ (State.pulseAt s o due width) := by
  unfold State.pulseAt
  repeat' first
    | (with_reducible assumption) | (intro x; (with_reducible refine State.Keeps.cut (s₀ := s₀) (x := x) ?_ ?_) <;> [subst x; (clear_value x; intro hx)])
    | (intro x; clear_value x) | lift_lets
    | (with_reducible first | apply State.count_keeps | apply State.emit_keeps | apply State.pulseEnd_keeps | apply State.setPulse_keeps | apply State.Keeps.ite | apply State.Keeps.ite_fst)
    | (with_reducible exact State.Keeps.mk_of (by assumption)) | (fail_if_no_progress (with_reducible refine State.Keeps.mk_of ?_)) | split

theorem execTrigger_keeps {s₀ s : State} (h : State.Keeps s₀ s) (e : Fin 1024) : KeepsRes s₀ (execTrigger e s) := by
  unfold execTrigger
  repeat' first
    | (with_reducible assumption) | lift_lets
    | (with_reducible first | apply State.fire_keeps | apply State.pulseAt_keeps | apply State.Keeps.ite | apply State.Keeps.ite_fst | apply KeepsRes.ite | apply KeepsRes.next | apply KeepsRes.fault)
    | (with_reducible exact State.Keeps.mk_of (by assumption)) | (fail_if_no_progress (with_reducible refine State.Keeps.mk_of ?_)) | split
    | (refine State.Keeps.of_fst (by assumption) ?_) | (refine KeepsEx.elim (by assumption) ?_) | (refine KeepsExP.elim (by assumption) ?_)
    | (refine KeepsExW.elim (by assumption) ?_) | (refine KeepsOptP.elim (by assumption) ?_)

theorem execTriggerWidthEnd_keeps {s₀ s : State} (h : State.Keeps s₀ s) (o : Fin 16) : KeepsRes s₀ (execTriggerWidthEnd o s) := by
  unfold execTriggerWidthEnd
  repeat' first
    | (with_reducible assumption) | lift_lets
    | (with_reducible first | apply State.pulseEnd_keeps | apply State.Keeps.ite | apply State.Keeps.ite_fst | apply KeepsRes.ite | apply KeepsRes.next | apply KeepsRes.fault)
    | (with_reducible exact State.Keeps.mk_of (by assumption)) | (fail_if_no_progress (with_reducible refine State.Keeps.mk_of ?_)) | split

end Sys2Proof.Machine
end

