-- ==== Sys2Proof/Laws/KeepLodestone.lean ====
section
/-! SUPPORT. What the operations of Machine/Lodestone.lean keep (Laws/Keeps.lean). -/

namespace Sys2Proof.Machine

theorem State.setLo_keeps {s₀ s : State} (h : State.Keeps s₀ s) (n : Nat) (x : LodeSt) : State.Keeps s₀ (State.setLo s n x) := by
  unfold State.setLo
  repeat' first
    | (with_reducible assumption) | lift_lets | (with_reducible first | apply State.Keeps.ite | apply State.Keeps.ite_fst)
    | (with_reducible exact State.Keeps.mk_of (by assumption))

theorem State.lodeSample_keeps {s₀ s : State} (h : State.Keeps s₀ s) (n due t period : Nat) : State.Keeps s₀ (State.lodeSample s n due t period) := by
  unfold State.lodeSample
  repeat' first
    | (with_reducible assumption) | (intro x; clear_value x) | lift_lets | (with_reducible apply State.setLo_keeps)

theorem execLodestoneSample_keeps {s₀ s : State} (h : State.Keeps s₀ s) (e : Fin 1024) : KeepsRes s₀ (execLodestoneSample e s) := by
  unfold execLodestoneSample
  repeat' first
    | (with_reducible assumption) | lift_lets
    | (with_reducible first | apply State.cadMissed_keeps | apply State.fire_keeps | apply State.lodeSample_keeps | apply State.Keeps.ite | apply State.Keeps.ite_fst | apply KeepsRes.ite | apply KeepsRes.next | apply KeepsRes.fault | apply KeepsOptP.getD)
    | (with_reducible refine State.forEach_keeps ?_ _ _ (fun t x ht => ?_)) | (with_reducible exact State.Keeps.mk_of (by assumption))
    | (fail_if_no_progress (with_reducible refine State.Keeps.mk_of ?_)) | split | (refine State.Keeps.of_fst (by assumption) ?_) | (refine KeepsEx.elim (by assumption) ?_)
    | (refine KeepsExP.elim (by assumption) ?_) | (refine KeepsExW.elim (by assumption) ?_) | (refine KeepsOptP.elim (by assumption) ?_)
    | (refine KeepsOpt.elim (by assumption) ?_) | (refine KeepsRes.elim (by assumption) ?_) | (refine KeepsOpt.elim_fst (by assumption) ?_) | (dsimp only)

theorem execLodestoneResult_keeps {s₀ s : State} (h : State.Keeps s₀ s) (n : Fin 8) (disagree : Bool) : KeepsRes s₀ (execLodestoneResult n disagree s) := by
  unfold execLodestoneResult
  repeat' first
    | (with_reducible assumption) | (intro x; refine State.Keeps.fn x ?_; subst x) | (intro x; clear_value x) | lift_lets
    | (with_reducible first | apply State.count_keeps | apply State.orObj_keeps | apply State.safeTrigger_keeps | apply State.setLo_keeps | apply State.setN_keeps | apply State.Keeps.ite | apply State.Keeps.ite_fst | apply KeepsRes.ite | apply KeepsRes.next | apply KeepsRes.fault)
    | (with_reducible exact State.Keeps.mk_of (by assumption)) | (fail_if_no_progress (with_reducible refine State.Keeps.mk_of ?_)) | split

theorem State.lodeCommitted_keeps {s₀ s0 s : State} (h : State.Keeps s₀ s) (n : Nat) : State.Keeps s₀ (State.lodeCommitted s0 s n) := by
  unfold State.lodeCommitted
  repeat' first
    | (with_reducible assumption) | (intro x; clear_value x) | lift_lets | (with_reducible first | apply State.setLo_keeps | apply State.Keeps.ite)

theorem State.setpoint_keeps {s₀ s : State} (h : State.Keeps s₀ s) (n : Nat) (v : Word64) : State.Keeps s₀ (State.setpoint s n v) := by
  unfold State.setpoint
  repeat' first
    | (with_reducible assumption) | (intro x; clear_value x) | lift_lets | (with_reducible first | apply State.setLo_keeps | apply State.setObj_keeps)

end Sys2Proof.Machine
end

