-- ==== Sys2Proof/Laws/KeepEngine.lean ====
section
/-! SUPPORT. What the operations of Machine/Engine.lean keep (Laws/Keeps.lean). -/

namespace Sys2Proof.Machine

theorem State.smear_keeps {s₀ s : State} (h : State.Keeps s₀ s) (n : Nat) (o : QOp) : State.Keeps s₀ (State.smear s n o) := by
  unfold State.smear
  repeat' first
    | (with_reducible assumption) | (intro x; clear_value x) | lift_lets
    | (with_reducible first | apply State.tookFree_keeps | apply State.wr_keeps | apply State.Keeps.ite | apply State.Keeps.ite_fst)
    | (with_reducible refine State.forEach_keeps ?_ _ _ (fun t x ht => ?_)) | (with_reducible exact State.Keeps.mk_of (by assumption))
    | (fail_if_no_progress (with_reducible refine State.Keeps.mk_of ?_)) | split

theorem wholly_keeps {s₀ s : State} (h : State.Keeps s₀ s) (f : State → Nat → QOp → Except Exc State) (n : Nat) (o : QOp) (hb : ∀ t n o, State.Keeps s₀ t → KeepsEx s₀ (f t n o)) : State.Keeps s₀ (wholly f s n o).1 := by
  unfold wholly
  repeat' first
    | (with_reducible assumption) | lift_lets | (with_reducible first | apply State.smear_keeps | apply hb | apply State.Keeps.ite | apply State.Keeps.ite_fst)
    | (with_reducible exact State.Keeps.mk_of (by assumption)) | (fail_if_no_progress (with_reducible refine State.Keeps.mk_of ?_)) | split
    | (refine State.Keeps.of_fst (by assumption) ?_) | (refine KeepsEx.elim (by assumption) ?_)

theorem performOp_keeps {s₀ s : State} (h : State.Keeps s₀ s) (n : Nat) (o : QOp) : State.Keeps s₀ (performOp s n o).1 := by
  unfold performOp
  repeat' first
    | (with_reducible assumption) | lift_lets
    | (with_reducible first | apply performAccin_keeps | apply performAfold_keeps | apply performAttn_keeps | apply performConv_keeps | apply performDfill_keeps | apply performDmov_keeps | apply performGather_keeps | apply performKvfetch_keeps | apply performKvscatter_keeps | apply performMatmul_keeps | apply performPconv_keeps | apply performPread_keeps | apply performReadout_keeps | apply performScatter_keeps | apply performShade_keeps | apply performTew_keeps | apply performTnorm_keeps | apply performTpool_keeps | apply performTred_keeps | apply performTsmx_keeps | apply performVld_keeps | apply performVop_keeps | apply performVst_keeps | apply State.Keeps.ite | apply State.Keeps.ite_fst | apply KeepsEx.ite | apply KeepsEx.ok | apply KeepsEx.error | apply KeepsEx.pure | apply KeepsEx.throw)
    | (with_reducible refine wholly_keeps ?_ _ _ _ (fun t n o ht => ?_)) | (with_reducible refine KeepsEx.map (fun t ht => ?_))
    | (with_reducible exact State.Keeps.mk_of (by assumption)) | (fail_if_no_progress (with_reducible refine State.Keeps.mk_of ?_)) | split

theorem State.upOp_keeps {s₀ s : State} (h : State.Keeps s₀ s) (n : Nat) (q : Queue) (seq : Nat) (f : QOp → QOp) : State.Keeps s₀ (State.upOp s n q seq f) := by
  unfold State.upOp
  repeat' first
    | (with_reducible assumption) | lift_lets | (with_reducible apply State.upCore_keeps)

theorem State.startOp_keeps {s₀ s : State} (h : State.Keeps s₀ s) (n : Nat) (q : Queue) (o : QOp) : State.Keeps s₀ (State.startOp s n q o) := by
  unfold State.startOp
  repeat' first
    | (with_reducible assumption) | (intro x; (with_reducible refine State.Keeps.cut (s₀ := s₀) (x := x) ?_ ?_) <;> [subst x; (clear_value x; intro hx)])
    | (intro x; clear_value x) | lift_lets
    | (with_reducible first | apply State.collKick_keeps | apply State.except_keeps | apply State.markRan_keeps | apply performOp_keeps | apply State.setPebble_keeps | apply State.syncLevels_keeps | apply State.upOp_keeps | apply State.Keeps.ite | apply State.Keeps.ite_fst)
    | (with_reducible exact State.Keeps.mk_of (by assumption)) | (fail_if_no_progress (with_reducible refine State.Keeps.mk_of ?_)) | split
    | (refine State.Keeps.of_fst (by assumption) ?_)

theorem State.kickQ_keeps {s₀ s : State} (h : State.Keeps s₀ s) (n : Nat) (q : Queue) (k : Nat) : State.Keeps s₀ (State.kickQ n q k s) := by
  induction k generalizing s with
  | zero => exact h
  | succ k ih =>
    unfold State.kickQ
    split
    · exact h
    · split
      · exact ih (State.startOp_keeps h _ _ _)
      · exact h

theorem State.kick_keeps {s₀ s : State} (h : State.Keeps s₀ s) (n : Nat) : State.Keeps s₀ (State.kick s n) := by
  unfold State.kick
  repeat' first
    | (with_reducible assumption) | lift_lets | (with_reducible apply State.kickQ_keeps)

theorem State.grantHead_keeps {s₀ s : State} (h : State.Keeps s₀ s) (n : Nat) (q : Queue) (o : QOp) : State.Keeps s₀ (State.grantHead s n q o) := by
  unfold State.grantHead
  repeat' first
    | (with_reducible assumption) | lift_lets | (with_reducible first | apply State.setN_keeps | apply State.upOp_keeps | apply State.Keeps.ite)

theorem State.engineOp_keeps {s₀ s : State} (h : State.Keeps s₀ s) (n : Nat) (op : OpWord) (fields : List (Nat × Nat)) : KeepsRes s₀ (State.engineOp s n op fields) := by
  unfold State.engineOp
  repeat' first
    | (with_reducible assumption) | (intro x; (with_reducible refine State.Keeps.cut (s₀ := s₀) (x := x) ?_ ?_) <;> [subst x; (clear_value x; intro hx)])
    | (intro x; clear_value x) | lift_lets
    | (with_reducible first | apply State.except_keeps | apply State.grantHead_keeps | apply State.kickQ_keeps | apply State.setN_keeps | apply State.syncLevels_keeps | apply State.upCore_keeps | apply State.Keeps.ite | apply State.Keeps.ite_fst | apply KeepsRes.ite | apply KeepsRes.next | apply KeepsRes.fault)
    | (with_reducible refine State.dispatch_keeps ?_ _ _ _ _ _ (fun pc t ht => ?_)) | (with_reducible exact State.Keeps.mk_of (by assumption))
    | (fail_if_no_progress (with_reducible refine State.Keeps.mk_of ?_)) | split

theorem execMatmul_keeps {s₀ s : State} (h : State.Keeps s₀ s) (n : Fin 16) (w : BitVec 120) : KeepsRes s₀ (execMatmul n w s) := by
  unfold execMatmul
  repeat' first
    | (with_reducible assumption) | lift_lets | (with_reducible apply State.engineOp_keeps)

theorem execConv_keeps {s₀ s : State} (h : State.Keeps s₀ s) (n : Fin 16) (w : BitVec 120) : KeepsRes s₀ (execConv n w s) := by
  unfold execConv
  repeat' first
    | (with_reducible assumption) | lift_lets | (with_reducible apply State.engineOp_keeps)

theorem execAccin_keeps {s₀ s : State} (h : State.Keeps s₀ s) (n : Fin 16) (w : BitVec 120) : KeepsRes s₀ (execAccin n w s) := by
  unfold execAccin
  repeat' first
    | (with_reducible assumption) | lift_lets | (with_reducible apply State.engineOp_keeps)

theorem execReadout_keeps {s₀ s : State} (h : State.Keeps s₀ s) (n : Fin 16) (w : BitVec 120) : KeepsRes s₀ (execReadout n w s) := by
  unfold execReadout
  repeat' first
    | (with_reducible assumption) | lift_lets | (with_reducible apply State.engineOp_keeps)

theorem execPconv_keeps {s₀ s : State} (h : State.Keeps s₀ s) (n : Fin 16) (w : BitVec 120) : KeepsRes s₀ (execPconv n w s) := by
  unfold execPconv
  repeat' first
    | (with_reducible assumption) | lift_lets | (with_reducible apply State.engineOp_keeps)

theorem execPread_keeps {s₀ s : State} (h : State.Keeps s₀ s) (n : Fin 16) (w : BitVec 120) : KeepsRes s₀ (execPread n w s) := by
  unfold execPread
  repeat' first
    | (with_reducible assumption) | lift_lets | (with_reducible apply State.engineOp_keeps)

theorem execVld_keeps {s₀ s : State} (h : State.Keeps s₀ s) (n : Fin 16) (w : BitVec 120) : KeepsRes s₀ (execVld n w s) := by
  unfold execVld
  repeat' first
    | (with_reducible assumption) | lift_lets | (with_reducible apply State.engineOp_keeps)

theorem execVst_keeps {s₀ s : State} (h : State.Keeps s₀ s) (n : Fin 16) (w : BitVec 120) : KeepsRes s₀ (execVst n w s) := by
  unfold execVst
  repeat' first
    | (with_reducible assumption) | lift_lets | (with_reducible apply State.engineOp_keeps)

theorem execVop_keeps {s₀ s : State} (h : State.Keeps s₀ s) (n : Fin 16) (w : BitVec 120) : KeepsRes s₀ (execVop n w s) := by
  unfold execVop
  repeat' first
    | (with_reducible assumption) | lift_lets | (with_reducible apply State.engineOp_keeps)

theorem execTew_keeps {s₀ s : State} (h : State.Keeps s₀ s) (n : Fin 16) (w : BitVec 120) : KeepsRes s₀ (execTew n w s) := by
  unfold execTew
  repeat' first
    | (with_reducible assumption) | lift_lets | (with_reducible apply State.engineOp_keeps)

theorem execTred_keeps {s₀ s : State} (h : State.Keeps s₀ s) (n : Fin 16) (w : BitVec 120) : KeepsRes s₀ (execTred n w s) := by
  unfold execTred
  repeat' first
    | (with_reducible assumption) | lift_lets | (with_reducible apply State.engineOp_keeps)

theorem execTsmx_keeps {s₀ s : State} (h : State.Keeps s₀ s) (n : Fin 16) (w : BitVec 120) : KeepsRes s₀ (execTsmx n w s) := by
  unfold execTsmx
  repeat' first
    | (with_reducible assumption) | lift_lets | (with_reducible apply State.engineOp_keeps)

theorem execTnorm_keeps {s₀ s : State} (h : State.Keeps s₀ s) (n : Fin 16) (w : BitVec 120) : KeepsRes s₀ (execTnorm n w s) := by
  unfold execTnorm
  repeat' first
    | (with_reducible assumption) | lift_lets | (with_reducible apply State.engineOp_keeps)

theorem execGather_keeps {s₀ s : State} (h : State.Keeps s₀ s) (n : Fin 16) (w : BitVec 120) : KeepsRes s₀ (execGather n w s) := by
  unfold execGather
  repeat' first
    | (with_reducible assumption) | lift_lets | (with_reducible apply State.engineOp_keeps)

theorem execScatter_keeps {s₀ s : State} (h : State.Keeps s₀ s) (n : Fin 16) (w : BitVec 120) : KeepsRes s₀ (execScatter n w s) := by
  unfold execScatter
  repeat' first
    | (with_reducible assumption) | lift_lets | (with_reducible apply State.engineOp_keeps)

theorem execTpool_keeps {s₀ s : State} (h : State.Keeps s₀ s) (n : Fin 16) (w : BitVec 120) : KeepsRes s₀ (execTpool n w s) := by
  unfold execTpool
  repeat' first
    | (with_reducible assumption) | lift_lets | (with_reducible apply State.engineOp_keeps)

theorem execShade_keeps {s₀ s : State} (h : State.Keeps s₀ s) (n : Fin 16) (w : BitVec 120) : KeepsRes s₀ (execShade n w s) := by
  unfold execShade
  repeat' first
    | (with_reducible assumption) | lift_lets | (with_reducible apply State.engineOp_keeps)

theorem execDmov_keeps {s₀ s : State} (h : State.Keeps s₀ s) (n : Fin 16) (w : BitVec 120) : KeepsRes s₀ (execDmov n w s) := by
  unfold execDmov
  repeat' first
    | (with_reducible assumption) | lift_lets | (with_reducible apply State.engineOp_keeps)

theorem execDfill_keeps {s₀ s : State} (h : State.Keeps s₀ s) (n : Fin 16) (w : BitVec 120) : KeepsRes s₀ (execDfill n w s) := by
  unfold execDfill
  repeat' first
    | (with_reducible assumption) | lift_lets | (with_reducible apply State.engineOp_keeps)

theorem execColl_keeps {s₀ s : State} (h : State.Keeps s₀ s) (n : Fin 16) (w : BitVec 120) : KeepsRes s₀ (execColl n w s) := by
  unfold execColl
  repeat' first
    | (with_reducible assumption) | lift_lets | (with_reducible apply State.engineOp_keeps)

theorem execKvscatter_keeps {s₀ s : State} (h : State.Keeps s₀ s) (n : Fin 16) (w : BitVec 120) : KeepsRes s₀ (execKvscatter n w s) := by
  unfold execKvscatter
  repeat' first
    | (with_reducible assumption) | lift_lets | (with_reducible apply State.engineOp_keeps)

theorem execAttn_keeps {s₀ s : State} (h : State.Keeps s₀ s) (n : Fin 16) (w : BitVec 120) : KeepsRes s₀ (execAttn n w s) := by
  unfold execAttn
  repeat' first
    | (with_reducible assumption) | lift_lets | (with_reducible apply State.engineOp_keeps)

theorem execKvfetch_keeps {s₀ s : State} (h : State.Keeps s₀ s) (n : Fin 16) (w : BitVec 120) : KeepsRes s₀ (execKvfetch n w s) := by
  unfold execKvfetch
  repeat' first
    | (with_reducible assumption) | lift_lets | (with_reducible apply State.engineOp_keeps)

theorem execAfold_keeps {s₀ s : State} (h : State.Keeps s₀ s) (n : Fin 16) (w : BitVec 120) : KeepsRes s₀ (execAfold n w s) := by
  unfold execAfold
  repeat' first
    | (with_reducible assumption) | lift_lets | (with_reducible apply State.engineOp_keeps)

theorem execSlabOpStart_keeps {s₀ s : State} (h : State.Keeps s₀ s) (n : Fin 16) : KeepsRes s₀ (execSlabOpStart n s) := by
  unfold execSlabOpStart
  repeat' first
    | (with_reducible assumption) | lift_lets
    | (with_reducible first | apply State.kickQ_keeps | apply State.Keeps.ite | apply State.Keeps.ite_fst | apply KeepsRes.ite | apply KeepsRes.next)

theorem execPebbleOp_keeps {s₀ s : State} (h : State.Keeps s₀ s) (c : Fin 4) : KeepsRes s₀ (execPebbleOp c s) := by
  unfold execPebbleOp
  repeat' first
    | (with_reducible assumption) | (intro x; clear_value x) | lift_lets
    | (with_reducible first | apply State.except_keeps | apply State.markRan_keeps | apply performOp_keeps | apply State.setPebble_keeps | apply State.Keeps.ite | apply State.Keeps.ite_fst | apply KeepsRes.ite | apply KeepsRes.next | apply KeepsRes.fault | apply KeepsOptP.getD)
    | (with_reducible exact State.Keeps.mk_of (by assumption)) | (fail_if_no_progress (with_reducible refine State.Keeps.mk_of ?_)) | split
    | (refine State.Keeps.of_fst (by assumption) ?_) | (refine KeepsEx.elim (by assumption) ?_) | (refine KeepsExP.elim (by assumption) ?_)
    | (refine KeepsExW.elim (by assumption) ?_) | (refine KeepsOptP.elim (by assumption) ?_) | (refine KeepsOpt.elim (by assumption) ?_)
    | (refine KeepsRes.elim (by assumption) ?_) | (refine KeepsOpt.elim_fst (by assumption) ?_) | (dsimp only)

theorem State.releaseHold_keeps {s₀ s : State} (h : State.Keeps s₀ s) (n : Nat) : State.Keeps s₀ (State.releaseHold s n) := by
  unfold State.releaseHold
  repeat' first
    | (with_reducible assumption) | (intro x; clear_value x) | lift_lets
    | (with_reducible first | apply State.acloseDone_keeps | apply State.ctlDone_keeps | apply State.haltDone_keeps | apply State.holdOn_keeps | apply State.Keeps.ite | apply State.Keeps.ite_fst)
    | (with_reducible exact State.Keeps.mk_of (by assumption)) | (fail_if_no_progress (with_reducible refine State.Keeps.mk_of ?_)) | split

theorem State.markStaged_keeps {s₀ s : State} (h : State.Keeps s₀ s) (n addr : Nat) : State.Keeps s₀ (State.markStaged s n addr) := by
  unfold State.markStaged
  repeat' first
    | (with_reducible assumption) | (intro x; (with_reducible refine State.Keeps.cut (s₀ := s₀) (x := x) ?_ ?_) <;> [subst x; (clear_value x; intro hx)])
    | (intro x; clear_value x) | lift_lets | (with_reducible first | apply State.post_keeps | apply State.upInv_keeps | apply State.Keeps.ite | apply State.Keeps.ite_fst)
    | (with_reducible refine State.forEach_keeps ?_ _ _ (fun t x ht => ?_)) | (with_reducible exact State.Keeps.mk_of (by assumption))
    | (fail_if_no_progress (with_reducible refine State.Keeps.mk_of ?_)) | split

theorem State.accountDma_keeps {s₀ s : State} (h : State.Keeps s₀ s) (n : Nat) : State.Keeps s₀ (State.accountDma s n) := by
  unfold State.accountDma
  repeat' first
    | (with_reducible assumption) | (intro x; clear_value x) | lift_lets
    | (with_reducible first | apply State.accountPs_keeps | apply State.upCore_keeps | apply State.Keeps.ite | apply State.Keeps.ite_fst)
    | (with_reducible refine foldl_keeps ?_ _ _ (fun t x ht => ?_)) | (with_reducible refine foldl_fst_keeps ?_ _ _ (fun t x ht => ?_))
    | (with_reducible exact State.Keeps.mk_of (by assumption)) | (fail_if_no_progress (with_reducible refine State.Keeps.mk_of ?_)) | split

theorem execOpComplete_keeps {s₀ s : State} (h : State.Keeps s₀ s) (n : Fin 16) (q : Queue) (i : Nat) : KeepsRes s₀ (execOpComplete n q i s) := by
  unfold execOpComplete
  repeat' first
    | (with_reducible assumption) | (intro x; (with_reducible refine State.Keeps.cut (s₀ := s₀) (x := x) ?_ ?_) <;> [subst x; (clear_value x; intro hx)]) | lift_lets
    | (with_reducible first | apply State.accountDma_keeps | apply State.kick_keeps | apply State.markStaged_keeps | apply State.releaseHold_keeps | apply State.retire_keeps | apply State.signalSe_keeps | apply State.upCore_keeps | apply State.Keeps.ite | apply State.Keeps.ite_fst | apply KeepsRes.ite | apply KeepsRes.next | apply KeepsRes.fault)
    | (with_reducible exact State.Keeps.mk_of (by assumption)) | (fail_if_no_progress (with_reducible refine State.Keeps.mk_of ?_)) | split

theorem execWaitGranted_keeps {s₀ s : State} (h : State.Keeps s₀ s) (n : Fin 16) (q : Queue) : KeepsRes s₀ (execWaitGranted n q s) := by
  unfold execWaitGranted
  repeat' first
    | (with_reducible assumption) | (intro x; clear_value x) | lift_lets
    | (with_reducible first | apply State.ctlDone_keeps | apply State.grantHead_keeps | apply State.holdOn_keeps | apply State.kick_keeps | apply State.setN_keeps | apply State.Keeps.ite | apply State.Keeps.ite_fst | apply KeepsRes.ite | apply KeepsRes.next | apply KeepsRes.fault)
    | (with_reducible exact State.Keeps.mk_of (by assumption)) | (fail_if_no_progress (with_reducible refine State.Keeps.mk_of ?_)) | split

theorem execDrainSignalApply_keeps {s₀ s : State} (h : State.Keeps s₀ s) (n : Fin 16) (i : Nat) : KeepsRes s₀ (execDrainSignalApply n i s) := by
  unfold execDrainSignalApply
  repeat' first
    | (with_reducible assumption) | (intro x; (with_reducible refine State.Keeps.cut (s₀ := s₀) (x := x) ?_ ?_) <;> [subst x; (clear_value x; intro hx)])
    | (intro x; clear_value x) | lift_lets
    | (with_reducible first | apply State.applySignal_keeps | apply State.releaseHold_keeps | apply State.upCore_keeps | apply State.Keeps.ite | apply State.Keeps.ite_fst | apply KeepsRes.ite | apply KeepsRes.next | apply KeepsRes.fault)
    | (with_reducible exact State.Keeps.mk_of (by assumption)) | (fail_if_no_progress (with_reducible refine State.Keeps.mk_of ?_)) | split

theorem execWatchdogExpiry_keeps {s₀ s : State} (h : State.Keeps s₀ s) (n : Fin 16) : KeepsRes s₀ (execWatchdogExpiry n s) := by
  unfold execWatchdogExpiry
  repeat' first
    | (with_reducible assumption) | (intro x; clear_value x) | lift_lets
    | (with_reducible first | apply State.except_keeps | apply State.Keeps.ite | apply State.Keeps.ite_fst | apply KeepsRes.ite | apply KeepsRes.next)

end Sys2Proof.Machine
end

