-- ==== Sys2Proof/Laws/KeepSched.lean ====
section
/-! SUPPORT. What the operations of Machine/Sched.lean keep (Laws/Keeps.lean). -/

namespace Sys2Proof.Machine

theorem State.preemptCore_keeps {s₀ s : State} (h : State.Keeps s₀ s) (n : Nat) : State.Keeps s₀ (State.preemptCore s n) := by
  unfold State.preemptCore
  repeat' first
    | (with_reducible assumption) | (intro x; clear_value x) | lift_lets
    | (with_reducible first | apply State.returnPebble_keeps | apply State.stopWatch_keeps | apply State.upCore_keeps | apply State.Keeps.ite)

theorem execPreempt_keeps {s₀ s : State} (h : State.Keeps s₀ s) (n : Fin 16) : KeepsRes s₀ (execPreempt n s) := by
  unfold execPreempt
  repeat' first
    | (with_reducible assumption) | lift_lets
    | (with_reducible first | apply State.preemptCore_keeps | apply State.Keeps.ite | apply State.Keeps.ite_fst | apply KeepsRes.ite | apply KeepsRes.next)

theorem State.preemptPart_keeps {s₀ s : State} (h : State.Keeps s₀ s) (p m : Nat) (keep : Bool) : State.Keeps s₀ (State.preemptPart s p m keep) := by
  unfold State.preemptPart
  repeat' first
    | (with_reducible assumption) | (intro x; (with_reducible refine State.Keeps.cut (s₀ := s₀) (x := x) ?_ ?_) <;> [subst x; (clear_value x; intro hx)])
    | (intro x; clear_value x) | lift_lets | (with_reducible first | apply State.preemptCore_keeps | apply State.upPart_keeps)
    | (with_reducible refine State.forEach_keeps ?_ _ _ (fun t x ht => ?_))

theorem execSaveComplete_keeps {s₀ s : State} (h : State.Keeps s₀ s) (p : Fin 16) : KeepsRes s₀ (execSaveComplete p s) := by
  unfold execSaveComplete
  repeat' first
    | (with_reducible assumption) | (intro x; (with_reducible refine State.Keeps.cut (s₀ := s₀) (x := x) ?_ ?_) <;> [subst x; (clear_value x; intro hx)])
    | (intro x; clear_value x) | lift_lets
    | (with_reducible first | apply State.beginSlot_keeps | apply State.grantCore_keeps | apply State.grantPart_keeps | apply State.releasePart_keeps | apply State.saveCore_keeps | apply State.schedule_keeps | apply State.upPart_keeps | apply State.Keeps.ite | apply State.Keeps.ite_fst | apply KeepsRes.ite | apply KeepsRes.next | apply KeepsRes.fault)
    | (with_reducible refine State.forEach_keeps ?_ _ _ (fun t x ht => ?_)) | (with_reducible exact State.Keeps.mk_of (by assumption))
    | (fail_if_no_progress (with_reducible refine State.Keeps.mk_of ?_)) | split

theorem execDebugRelease_keeps {s₀ s : State} (h : State.Keeps s₀ s) (n : Fin 16) : KeepsRes s₀ (execDebugRelease n s) := by
  unfold execDebugRelease
  repeat' first
    | (with_reducible assumption) | (intro x; (with_reducible refine State.Keeps.cut (s₀ := s₀) (x := x) ?_ ?_) <;> [subst x; (clear_value x; intro hx)]) | lift_lets
    | (with_reducible first | apply State.setN_keeps | apply State.startWatch_keeps | apply State.upCore_keeps | apply State.Keeps.ite | apply State.Keeps.ite_fst | apply KeepsRes.ite | apply KeepsRes.next)

theorem execSliceEnd_keeps {s₀ s : State} (h : State.Keeps s₀ s) (p : Fin 16) : KeepsRes s₀ (execSliceEnd p s) := by
  unfold execSliceEnd
  repeat' first
    | (with_reducible assumption) | (intro x; (with_reducible refine State.Keeps.cut (s₀ := s₀) (x := x) ?_ ?_) <;> [subst x; (clear_value x; intro hx)])
    | (intro x; clear_value x) | lift_lets
    | (with_reducible first | apply State.preemptPart_keeps | apply State.upPart_keeps | apply State.Keeps.ite | apply State.Keeps.ite_fst | apply KeepsRes.ite | apply KeepsRes.next | apply KeepsRes.fault)
    | (with_reducible exact State.Keeps.mk_of (by assumption)) | (fail_if_no_progress (with_reducible refine State.Keeps.mk_of ?_)) | split

theorem execSlotPreempt_keeps {s₀ s : State} (h : State.Keeps s₀ s) (p : Fin 16) (e : Fin 1024) : KeepsRes s₀ (execSlotPreempt p e s) := by
  unfold execSlotPreempt
  repeat' first
    | (with_reducible assumption) | (intro x; clear_value x) | lift_lets
    | (with_reducible first | apply State.grantPart_keeps | apply State.preemptPart_keeps | apply State.upPart_keeps | apply State.Keeps.ite | apply State.Keeps.ite_fst | apply KeepsRes.ite | apply KeepsRes.next | apply KeepsRes.fault)
    | (with_reducible exact State.Keeps.mk_of (by assumption)) | (fail_if_no_progress (with_reducible refine State.Keeps.mk_of ?_)) | split

theorem State.openSlotFor_keeps {s₀ s : State} (h : State.Keeps s₀ s) (m h : Nat) (due : Word64) : State.Keeps s₀ (State.openSlotFor s m h due) := by
  unfold State.openSlotFor
  repeat' first
    | (with_reducible assumption) | (intro x; clear_value x) | lift_lets
    | (with_reducible first | apply State.beginSlot_keeps | apply State.upPart_keeps | apply State.Keeps.ite)

theorem State.cadenceStart_keeps {s₀ s : State} (h : State.Keeps s₀ s) (m h : Nat) (due : Nat) : State.Keeps s₀ (State.cadenceStart s m h due) := by
  unfold State.cadenceStart
  repeat' first
    | (with_reducible assumption) | (intro x; (with_reducible refine State.Keeps.cut (s₀ := s₀) (x := x) ?_ ?_) <;> [subst x; (clear_value x; intro hx)])
    | (intro x; clear_value x) | lift_lets
    | (with_reducible first | apply State.count_keeps | apply State.goldenDropped_keeps | apply State.openSlotFor_keeps | apply State.upInst_keeps | apply State.Keeps.ite)

theorem execStartJob_keeps {s₀ s : State} (h : State.Keeps s₀ s) (e : Fin 1024) : KeepsRes s₀ (execStartJob e s) := by
  unfold execStartJob
  repeat' first
    | (with_reducible assumption) | lift_lets
    | (with_reducible first | apply State.cadMissed_keeps | apply State.cadenceStart_keeps | apply State.fire_keeps | apply State.goldenFired_keeps | apply State.Keeps.ite | apply State.Keeps.ite_fst | apply KeepsRes.ite | apply KeepsRes.next | apply KeepsRes.fault)
    | (with_reducible exact State.Keeps.mk_of (by assumption)) | (fail_if_no_progress (with_reducible refine State.Keeps.mk_of ?_)) | split
    | (refine State.Keeps.of_fst (by assumption) ?_) | (refine KeepsEx.elim (by assumption) ?_) | (refine KeepsExP.elim (by assumption) ?_)
    | (refine KeepsExW.elim (by assumption) ?_) | (refine KeepsOptP.elim (by assumption) ?_)

theorem State.stopCore_keeps {s₀ s : State} (h : State.Keeps s₀ s) (n : Nat) : State.Keeps s₀ (State.stopCore s n) := by
  unfold State.stopCore
  repeat' first
    | (with_reducible assumption) | lift_lets | (with_reducible first | apply State.abortCore_keeps | apply State.upCore_keeps)

theorem State.stopInst_keeps {s₀ s : State} (h : State.Keeps s₀ s) (m outcome : Nat) (status : Option Nat) : State.Keeps s₀ (State.stopInst s m outcome status) := by
  unfold State.stopInst
  repeat' first
    | (with_reducible assumption) | (intro x; (with_reducible refine State.Keeps.cut (s₀ := s₀) (x := x) ?_ ?_) <;> [subst x; (clear_value x; intro hx)])
    | (intro x; clear_value x) | lift_lets
    | (with_reducible first | apply State.endInv_keeps | apply State.failPass_keeps | apply State.poisonCaches_keeps | apply State.reportQueued_keeps | apply State.scrubCore_keeps | apply State.setN_keeps | apply State.stopCore_keeps | apply State.upInst_keeps | apply State.upPart_keeps | apply State.withdraw_keeps | apply State.Keeps.ite)
    | (with_reducible refine State.forEach_keeps ?_ _ _ (fun t x ht => ?_))

theorem State.faultInst_keeps {s₀ s : State} (h : State.Keeps s₀ s) (m outcome : Nat) (status : Option Nat) (cause core addr info : Nat) : State.Keeps s₀ (State.faultInst s m outcome status cause core addr info) := by
  unfold State.faultInst
  repeat' first
    | (with_reducible assumption) | (intro x; (with_reducible refine State.Keeps.cut (s₀ := s₀) (x := x) ?_ ?_) <;> [subst x; (clear_value x; intro hx)])
    | (intro x; clear_value x) | lift_lets
    | (with_reducible first | apply State.count_keeps | apply State.orObj_keeps | apply State.post_keeps | apply State.releasePart_keeps | apply State.schedule_keeps | apply State.setN_keeps | apply State.setObj_keeps | apply State.stopInst_keeps | apply State.Keeps.ite)

theorem execInstanceFault_keeps {s₀ s : State} (h : State.Keeps s₀ s) (m : Fin 16) : KeepsRes s₀ (execInstanceFault m s) := by
  unfold execInstanceFault
  repeat' first
    | (with_reducible assumption) | lift_lets
    | (with_reducible first | apply State.faultInst_keeps | apply State.Keeps.ite | apply State.Keeps.ite_fst | apply KeepsRes.ite | apply KeepsRes.next | apply KeepsRes.fault)
    | (with_reducible exact State.Keeps.mk_of (by assumption)) | (fail_if_no_progress (with_reducible refine State.Keeps.mk_of ?_)) | split

end Sys2Proof.Machine
end

