-- ==== Sys2Proof/Laws/KeepRecords.lean ====
section
/-! SUPPORT. What the operations of Machine/Records.lean keep (Laws/Keeps.lean). -/

namespace Sys2Proof.Machine

theorem State.putRecord_keeps {s₀ s : State} (h : State.Keeps s₀ s) (r : ObjRow) (idx sub : Nat) (v : List Byte) : State.Keeps s₀ (State.putRecord s r idx sub v) := by
  unfold State.putRecord
  repeat' first
    | (with_reducible assumption) | lift_lets | (with_reducible first | apply State.setDom_keeps | apply State.setObj_keeps | apply State.Keeps.ite)

end Sys2Proof.Machine
end

