-- ==== Sys2Proof/Laws/KeepInstances.lean ====
section
/-! SUPPORT. What the operations of Machine/Instances.lean keep (Laws/Keeps.lean). -/

namespace Sys2Proof.Machine

theorem State.instStatus_keeps {s₀ s : State} (h : State.Keeps s₀ s) (m cmd err : Nat) : State.Keeps s₀ (State.instStatus s m cmd err) := by
  unfold State.instStatus
  repeat' first
    | (with_reducible assumption) | lift_lets | (with_reducible apply State.setN_keeps)

theorem State.instCommand_keeps {s₀ s : State} (h : State.Keeps s₀ s) (src : Src) (m cmd : Nat) (arg : BitVec 56) (f : State → State × Nat) (hb : ∀ t, State.Keeps s₀ t → State.Keeps s₀ (f t).1) : KeepsRes s₀ (State.instCommand s src m cmd arg f) := by
  unfold State.instCommand
  repeat' first
    | (with_reducible assumption) | (intro x; (with_reducible refine State.Keeps.cutP (s₀ := s₀) (x := x) ?_ ?_) <;> [subst x; (clear_value x; intro hx)]) | lift_lets
    | (with_reducible first | apply State.instStatus_keeps | apply hb | apply State.Keeps.ite | apply State.Keeps.ite_fst | apply KeepsRes.ite | apply KeepsRes.next | apply KeepsRes.fault | apply KeepsEx.ite | apply KeepsEx.ok)
    | (with_reducible refine State.command_keeps ?_ _ _ _ _ _ (fun r t ht => ?_))

theorem State.zeroAccounts_keeps {s₀ s : State} (h : State.Keeps s₀ s) (m : Nat) : State.Keeps s₀ (State.zeroAccounts s m) := by
  unfold State.zeroAccounts
  repeat' first
    | (with_reducible assumption) | lift_lets | (with_reducible first | apply State.setN_keeps | apply State.upInst_keeps)
    | (with_reducible refine State.forEach_keeps ?_ _ _ (fun t x ht => ?_))

theorem State.makeInst_keeps {s₀ s : State} (h : State.Keeps s₀ s) (m : Nat) (c : Carve) : State.Keeps s₀ (State.makeInst s m c) := by
  unfold State.makeInst
  repeat' first
    | (with_reducible assumption) | (intro x; (with_reducible refine State.Keeps.cut (s₀ := s₀) (x := x) ?_ ?_) <;> [subst x; (clear_value x; intro hx)])
    | (intro x; clear_value x) | lift_lets
    | (with_reducible first | apply State.dealCores_keeps | apply State.orObj_keeps | apply State.reshare_keeps | apply State.setInst_keeps | apply State.setN_keeps | apply State.setObj_keeps | apply State.zeroAccounts_keeps | apply State.zeroRange_keeps)

theorem execInstCreate_keeps {s₀ s : State} (h : State.Keeps s₀ s) (src : Src) (m : Fin 16) (arg : BitVec 56) (c : Carve) : KeepsRes s₀ (execInstCreate src m arg c s) := by
  unfold execInstCreate
  repeat' first
    | (with_reducible assumption) | lift_lets
    | (with_reducible first | apply State.makeInst_keeps | apply State.Keeps.ite | apply State.Keeps.ite_fst | apply KeepsRes.ite | apply KeepsRes.next | apply KeepsRes.fault | apply KeepsEx.ite | apply KeepsEx.ok | apply KeepsEx.error | apply KeepsEx.pure | apply KeepsEx.throw)
    | (with_reducible refine State.instCommand_keeps ?_ _ _ _ _ _ (fun t ht => ?_)) | (with_reducible refine KeepsEx.map (fun t ht => ?_))
    | (with_reducible exact State.Keeps.mk_of (by assumption)) | (fail_if_no_progress (with_reducible refine State.Keeps.mk_of ?_)) | split

theorem execInstDestroy_keeps {s₀ s : State} (h : State.Keeps s₀ s) (src : Src) (m : Fin 16) (arg : BitVec 56) : KeepsRes s₀ (execInstDestroy src m arg s) := by
  unfold execInstDestroy
  repeat' first
    | (with_reducible assumption) | (intro x; (with_reducible refine State.Keeps.cut (s₀ := s₀) (x := x) ?_ ?_) <;> [subst x; (clear_value x; intro hx)])
    | (intro x; clear_value x) | lift_lets
    | (with_reducible first | apply State.freePlan_keeps | apply State.kvRelease_keeps | apply State.releasePart_keeps | apply State.reshare_keeps | apply State.schedule_keeps | apply State.setN_keeps | apply State.stopInst_keeps | apply State.upInst_keeps | apply State.Keeps.ite | apply State.Keeps.ite_fst)
    | (with_reducible refine State.instCommand_keeps ?_ _ _ _ _ _ (fun t ht => ?_)) | (with_reducible refine State.forEach_keeps ?_ _ _ (fun t x ht => ?_))

theorem State.zeroInst_keeps {s₀ s : State} (h : State.Keeps s₀ s) (m : Nat) : State.Keeps s₀ (State.zeroInst s m) := by
  unfold State.zeroInst
  repeat' first
    | (with_reducible assumption) | (intro x; (with_reducible refine State.Keeps.cut (s₀ := s₀) (x := x) ?_ ?_) <;> [subst x; (clear_value x; intro hx)]) | lift_lets
    | (with_reducible apply State.zeroRange_keeps) | (with_reducible refine State.forEach_keeps ?_ _ _ (fun t x ht => ?_))

theorem execZeroingEnd_keeps {s₀ s : State} (h : State.Keeps s₀ s) (m : Fin 16) : KeepsRes s₀ (execZeroingEnd m s) := by
  unfold execZeroingEnd
  repeat' first
    | (with_reducible assumption) | (intro x; (with_reducible refine State.Keeps.cut (s₀ := s₀) (x := x) ?_ ?_) <;> [subst x; (clear_value x; intro hx)]) | lift_lets
    | (with_reducible first | apply State.clrObj_keeps | apply State.dealCores_keeps | apply State.freeCore_keeps | apply State.instStatus_keeps | apply State.reshare_keeps | apply State.setInst_keeps | apply State.setN_keeps | apply State.zeroInst_keeps | apply State.Keeps.ite | apply State.Keeps.ite_fst | apply KeepsRes.ite | apply KeepsRes.next)
    | (with_reducible refine State.forEach_keeps ?_ _ _ (fun t x ht => ?_))

theorem State.freezeInst_keeps {s₀ s : State} (h : State.Keeps s₀ s) (m : Nat) : State.Keeps s₀ (State.freezeInst s m) := by
  unfold State.freezeInst
  repeat' first
    | (with_reducible assumption) | (intro x; (with_reducible refine State.Keeps.cut (s₀ := s₀) (x := x) ?_ ?_) <;> [subst x; (clear_value x; intro hx)])
    | (intro x; clear_value x) | lift_lets
    | (with_reducible first | apply State.preemptCore_keeps | apply State.releasePart_keeps | apply State.removeInv_keeps | apply State.saveCore_keeps | apply State.schedule_keeps | apply State.setN_keeps | apply State.upInst_keeps | apply State.withdrawInv_keeps | apply State.Keeps.ite)
    | (with_reducible refine State.forEach_keeps ?_ _ _ (fun t x ht => ?_))

theorem execInstFreeze_keeps {s₀ s : State} (h : State.Keeps s₀ s) (src : Src) (m : Fin 16) (arg : BitVec 56) : KeepsRes s₀ (execInstFreeze src m arg s) := by
  unfold execInstFreeze
  repeat' first
    | (with_reducible assumption) | lift_lets | (with_reducible first | apply State.freezeInst_keeps | apply State.Keeps.ite | apply State.Keeps.ite_fst)
    | (with_reducible refine State.instCommand_keeps ?_ _ _ _ _ _ (fun t ht => ?_))

theorem State.thawInst_keeps {s₀ s : State} (h : State.Keeps s₀ s) (m : Nat) : State.Keeps s₀ (State.thawInst s m) := by
  unfold State.thawInst
  repeat' first
    | (with_reducible assumption) | (intro x; (with_reducible refine State.Keeps.cut (s₀ := s₀) (x := x) ?_ ?_) <;> [subst x; (clear_value x; intro hx)])
    | (intro x; clear_value x) | lift_lets
    | (with_reducible first | apply State.dealCores_keeps | apply State.grantCore_keeps | apply State.issueHeld_keeps | apply State.schedule_keeps | apply State.setN_keeps | apply State.upInst_keeps | apply State.Keeps.ite)
    | (with_reducible refine State.forEach_keeps ?_ _ _ (fun t x ht => ?_))

theorem execInstThaw_keeps {s₀ s : State} (h : State.Keeps s₀ s) (src : Src) (m : Fin 16) (arg : BitVec 56) : KeepsRes s₀ (execInstThaw src m arg s) := by
  unfold execInstThaw
  repeat' first
    | (with_reducible assumption) | lift_lets | (with_reducible first | apply State.thawInst_keeps | apply State.Keeps.ite | apply State.Keeps.ite_fst)
    | (with_reducible refine State.instCommand_keeps ?_ _ _ _ _ _ (fun t ht => ?_))

theorem execInstRecover_keeps {s₀ s : State} (h : State.Keeps s₀ s) (src : Src) (m : Fin 16) (arg : BitVec 56) : KeepsRes s₀ (execInstRecover src m arg s) := by
  unfold execInstRecover
  repeat' first
    | (with_reducible assumption) | lift_lets
    | (with_reducible first | apply State.dealCores_keeps | apply State.setN_keeps | apply State.Keeps.ite | apply State.Keeps.ite_fst)
    | (with_reducible refine State.instCommand_keeps ?_ _ _ _ _ _ (fun t ht => ?_))

theorem State.orphan_keeps {s₀ s : State} (h : State.Keeps s₀ s) (m : Nat) : State.Keeps s₀ (State.orphan s m) := by
  unfold State.orphan
  repeat' first
    | (with_reducible assumption) | (intro x; (with_reducible refine State.Keeps.cut (s₀ := s₀) (x := x) ?_ ?_) <;> [subst x; (clear_value x; intro hx)])
    | (intro x; clear_value x) | lift_lets
    | (with_reducible first | apply State.count_keeps | apply State.discardQueued_keeps | apply State.setN_keeps | apply State.upInst_keeps | apply State.yieldSlice_keeps)

theorem execInstOrphan_keeps {s₀ s : State} (h : State.Keeps s₀ s) (src : Src) (m : Fin 16) (arg : BitVec 56) : KeepsRes s₀ (execInstOrphan src m arg s) := by
  unfold execInstOrphan
  repeat' first
    | (with_reducible assumption) | lift_lets | (with_reducible first | apply State.orphan_keeps | apply State.Keeps.ite | apply State.Keeps.ite_fst)
    | (with_reducible refine State.instCommand_keeps ?_ _ _ _ _ _ (fun t ht => ?_))

theorem execHeartbeatTimeout_keeps {s₀ s : State} (h : State.Keeps s₀ s) (m : Fin 16) : KeepsRes s₀ (execHeartbeatTimeout m s) := by
  unfold execHeartbeatTimeout
  repeat' first
    | (with_reducible assumption) | (intro x; clear_value x) | lift_lets
    | (with_reducible first | apply State.orphan_keeps | apply State.Keeps.ite | apply State.Keeps.ite_fst | apply KeepsRes.ite | apply KeepsRes.next)

theorem execAcctReset_keeps {s₀ s : State} (h : State.Keeps s₀ s) (src : Src) (m : Fin 16) (v : Word64) : KeepsRes s₀ (execAcctReset src m v s) := by
  unfold execAcctReset
  repeat' first
    | (with_reducible assumption) | lift_lets
    | (with_reducible first | apply State.zeroAccounts_keeps | apply State.Keeps.ite | apply State.Keeps.ite_fst | apply KeepsRes.ite | apply KeepsRes.next | apply KeepsRes.fault | apply KeepsEx.ite | apply KeepsEx.ok)
    | (with_reducible refine State.command_keeps ?_ _ _ _ _ _ (fun r t ht => ?_))

theorem State.kvWrite_keeps {s₀ s : State} (h : State.Keeps s₀ s) (src : Src) (m cmd : Nat) (arg : BitVec 56) : KeepsRes s₀ (State.kvWrite s src m cmd arg) := by
  unfold State.kvWrite
  repeat' first
    | (with_reducible assumption) | (intro x; clear_value x) | lift_lets
    | (with_reducible first | apply State.kvCommand_keeps | apply State.Keeps.ite | apply State.Keeps.ite_fst | apply KeepsRes.ite | apply KeepsRes.next | apply KeepsRes.fault | apply KeepsEx.ite | apply KeepsEx.ok)
    | (with_reducible refine State.command_keeps ?_ _ _ _ _ _ (fun r t ht => ?_))

theorem execKvCreate_keeps {s₀ s : State} (h : State.Keeps s₀ s) (src : Src) (m : Fin 16) (arg : BitVec 56) : KeepsRes s₀ (execKvCreate src m arg s) := by
  unfold execKvCreate
  repeat' first
    | (with_reducible assumption) | lift_lets | (with_reducible apply State.kvWrite_keeps)

theorem execKvRelease_keeps {s₀ s : State} (h : State.Keeps s₀ s) (src : Src) (m : Fin 16) (arg : BitVec 56) : KeepsRes s₀ (execKvRelease src m arg s) := by
  unfold execKvRelease
  repeat' first
    | (with_reducible assumption) | lift_lets | (with_reducible apply State.kvWrite_keeps)

theorem execKvTruncate_keeps {s₀ s : State} (h : State.Keeps s₀ s) (src : Src) (m : Fin 16) (arg : BitVec 56) : KeepsRes s₀ (execKvTruncate src m arg s) := by
  unfold execKvTruncate
  repeat' first
    | (with_reducible assumption) | lift_lets | (with_reducible apply State.kvWrite_keeps)

theorem execKvPrebind_keeps {s₀ s : State} (h : State.Keeps s₀ s) (src : Src) (m : Fin 16) (arg : BitVec 56) : KeepsRes s₀ (execKvPrebind src m arg s) := by
  unfold execKvPrebind
  repeat' first
    | (with_reducible assumption) | lift_lets | (with_reducible apply State.kvWrite_keeps)

end Sys2Proof.Machine
end

