-- ==== Sys2Proof/Laws/KeepMigrate.lean ====
section
/-! SUPPORT. What the operations of Machine/Migrate.lean keep (Laws/Keeps.lean). -/

namespace Sys2Proof.Machine

theorem State.writePieces_keeps {s₀ s : State} (h : State.Keeps s₀ s) (a : Nat) (l : List Piece) : State.Keeps s₀ (State.writePieces s a l) := by
  induction l generalizing s a with
  | nil => exact h
  | cons p l ih =>
    cases p with
    | lit b => exact ih (State.wr_keeps h _ _) _
    | mem x n => exact ih (State.copyRange_keeps h _ _ _) _

theorem State.writeMig_keeps {s₀ s : State} (h : State.Keeps s₀ s) (m : Nat) : KeepsOpt s₀ (State.writeMig s m).1 := by
  unfold State.writeMig
  repeat' first
    | (with_reducible assumption) | (intro x; (with_reducible refine State.Keeps.cut (s₀ := s₀) (x := x) ?_ ?_) <;> [subst x; (clear_value x; intro hx)])
    | (intro x; clear_value x) | lift_lets
    | (with_reducible first | apply State.tookFree_keeps | apply State.wr_keeps | apply State.wrN_keeps | apply State.writePieces_keeps | apply State.zeroRange_keeps | apply State.Keeps.ite | apply State.Keeps.ite_fst | apply KeepsOpt.ite | apply KeepsOpt.some | apply KeepsOpt.none)
    | (with_reducible refine State.forEach_keeps ?_ _ _ (fun t x ht => ?_)) | (with_reducible exact State.Keeps.mk_of (by assumption))
    | (fail_if_no_progress (with_reducible refine State.Keeps.mk_of ?_)) | split

theorem execInstSaveImage_keeps {s₀ s : State} (h : State.Keeps s₀ s) (src : Src) (m : Fin 16) (arg : BitVec 56) : KeepsRes s₀ (execInstSaveImage src m arg s) := by
  unfold execInstSaveImage
  repeat' first
    | (with_reducible assumption) | lift_lets
    | (with_reducible first | apply State.setN_keeps | apply State.writeMig_keeps | apply State.Keeps.ite | apply State.Keeps.ite_fst | apply KeepsRes.ite | apply KeepsRes.next | apply KeepsRes.fault | apply KeepsEx.ite | apply KeepsEx.ok | apply KeepsEx.error | apply KeepsEx.pure | apply KeepsEx.throw)
    | (with_reducible refine State.instCommand_keeps ?_ _ _ _ _ _ (fun t ht => ?_)) | (with_reducible refine KeepsEx.map (fun t ht => ?_))
    | (with_reducible exact State.Keeps.mk_of (by assumption)) | (fail_if_no_progress (with_reducible refine State.Keeps.mk_of ?_)) | split
    | (refine State.Keeps.of_fst (by assumption) ?_) | (refine KeepsEx.elim (by assumption) ?_) | (refine KeepsExP.elim (by assumption) ?_)
    | (refine KeepsExW.elim (by assumption) ?_) | (refine KeepsOptP.elim (by assumption) ?_) | (refine KeepsOpt.elim (by assumption) ?_)
    | (refine KeepsRes.elim (by assumption) ?_) | (refine KeepsOpt.elim_fst (by assumption) ?_)

theorem State.claimCopy_keeps {s₀ s : State} (h : State.Keeps s₀ s) (m a n align : Nat) : KeepsOptP s₀ (State.claimCopy s m a n align) := by
  unfold State.claimCopy
  repeat' first
    | (with_reducible assumption) | lift_lets
    | (with_reducible first | apply State.copyRange_keeps | apply State.tookFree_keeps | apply State.upInst_keeps | apply State.Keeps.ite | apply State.Keeps.ite_fst | apply KeepsOptP.ite | apply KeepsOptP.some | apply KeepsOptP.none)
    | (with_reducible exact State.Keeps.mk_of (by assumption)) | (fail_if_no_progress (with_reducible refine State.Keeps.mk_of ?_)) | split

theorem State.cacheFrom_keeps {s₀ s : State} (h : State.Keeps s₀ s) (m k a : Nat) : State.Keeps s₀ (State.cacheFrom s m k a) := by
  unfold State.cacheFrom
  repeat' first
    | (with_reducible assumption) | (intro x; (with_reducible refine State.Keeps.cut (s₀ := s₀) (x := x) ?_ ?_) <;> [subst x; (clear_value x; intro hx)])
    | (intro x; clear_value x) | lift_lets
    | (with_reducible first | apply State.bindFrame_keeps | apply State.copyRange_keeps | apply State.kvCreate_keeps | apply State.setPtEntry_keeps | apply State.wr_keeps | apply State.Keeps.ite | apply State.Keeps.ite_fst)
    | (with_reducible refine foldl_keeps ?_ _ _ (fun t x ht => ?_)) | (with_reducible refine foldl_fst_keeps ?_ _ _ (fun t x ht => ?_))
    | (with_reducible exact State.Keeps.mk_of (by assumption)) | (fail_if_no_progress (with_reducible refine State.Keeps.mk_of ?_)) | split
    | (refine State.Keeps.of_fst (by assumption) ?_) | (refine KeepsEx.elim (by assumption) ?_) | (refine KeepsExP.elim (by assumption) ?_)
    | (refine KeepsExW.elim (by assumption) ?_) | (refine KeepsOptP.elim (by assumption) ?_) | (refine KeepsOpt.elim (by assumption) ?_)

theorem State.planFrom_keeps {s₀ s : State} (h : State.Keeps s₀ s) (m a n : Nat) : State.Keeps s₀ (State.planFrom s m a n) := by
  unfold State.planFrom
  repeat' first
    | (with_reducible assumption) | (intro x; (with_reducible refine State.Keeps.cut (s₀ := s₀) (x := x) ?_ ?_) <;> [subst x; (clear_value x; intro hx)])
    | (intro x; clear_value x) | lift_lets
    | (with_reducible first | apply State.claimCopy_keeps | apply State.orObj_keeps | apply State.setN_keeps | apply State.upInst_keeps | apply State.Keeps.ite | apply State.Keeps.ite_fst)
    | (with_reducible exact State.Keeps.mk_of (by assumption)) | (fail_if_no_progress (with_reducible refine State.Keeps.mk_of ?_)) | split
    | (refine State.Keeps.of_fst (by assumption) ?_) | (refine KeepsEx.elim (by assumption) ?_) | (refine KeepsExP.elim (by assumption) ?_)
    | (refine KeepsExW.elim (by assumption) ?_) | (refine KeepsOptP.elim (by assumption) ?_)

theorem State.savedFrom_keeps {s₀ s : State} (h : State.Keeps s₀ s) (m a : Nat) : State.Keeps s₀ (State.savedFrom s m a) := by
  unfold State.savedFrom
  repeat' first
    | (with_reducible assumption) | (intro x; (with_reducible refine State.Keeps.cut (s₀ := s₀) (x := x) ?_ ?_) <;> [subst x; (clear_value x; intro hx)])
    | (intro x; clear_value x) | lift_lets
    | (with_reducible first | apply State.copyRange_keeps | apply State.post_keeps | apply State.tookFree_keeps | apply State.upInst_keeps | apply State.Keeps.ite)

theorem State.objFrom_keeps {s₀ s : State} (h : State.Keeps s₀ s) (m : Nat) (x : Rec) : State.Keeps s₀ (State.objFrom s m x) := by
  unfold State.objFrom
  repeat' first
    | (with_reducible assumption) | (intro x; clear_value x) | lift_lets
    | (with_reducible first | apply State.putRecord_keeps | apply State.Keeps.ite | apply State.Keeps.ite_fst) | (with_reducible exact State.Keeps.mk_of (by assumption))
    | (fail_if_no_progress (with_reducible refine State.Keeps.mk_of ?_)) | split

theorem State.rebuild_keeps {s₀ s : State} (h : State.Keeps s₀ s) (m : Nat) (c : Carve) (secs : List (Nat × Nat × Nat)) : State.Keeps s₀ (State.rebuild s m c secs) := by
  unfold State.rebuild
  repeat' first
    | (with_reducible assumption) | (intro x; (with_reducible refine State.Keeps.cut (s₀ := s₀) (x := x) ?_ ?_) <;> [subst x; (clear_value x; intro hx)])
    | (intro x; refine State.Keeps.fn x ?_; subst x) | (intro x; clear_value x) | lift_lets
    | (with_reducible first | apply State.cacheFrom_keeps | apply State.cadenceStart_keeps | apply State.claimCopy_keeps | apply State.copyRange_keeps | apply State.makeInst_keeps | apply State.objFrom_keeps | apply State.planFrom_keeps | apply State.pump_keeps | apply State.savedFrom_keeps | apply State.setN_keeps | apply State.upInst_keeps | apply State.wrN_keeps | apply State.Keeps.ite | apply State.Keeps.ite_fst | apply KeepsOptP.getD)
    | (with_reducible refine State.forEach_keeps ?_ _ _ (fun t x ht => ?_)) | (with_reducible exact State.Keeps.mk_of (by assumption))
    | (fail_if_no_progress (with_reducible refine State.Keeps.mk_of ?_)) | split | (refine State.Keeps.of_fst (by assumption) ?_) | (refine KeepsEx.elim (by assumption) ?_)
    | (refine KeepsExP.elim (by assumption) ?_) | (refine KeepsExW.elim (by assumption) ?_) | (refine KeepsOptP.elim (by assumption) ?_)
    | (refine KeepsOpt.elim (by assumption) ?_) | (refine KeepsRes.elim (by assumption) ?_) | (refine KeepsOpt.elim_fst (by assumption) ?_)

theorem execInstRestoreImage_keeps {s₀ s : State} (h : State.Keeps s₀ s) (src : Src) (m : Fin 16) (arg : BitVec 56) (c : Carve) : KeepsRes s₀ (execInstRestoreImage src m arg c s) := by
  unfold execInstRestoreImage
  repeat' first
    | (with_reducible assumption) | (intro x; clear_value x) | lift_lets
    | (with_reducible first | apply State.rebuild_keeps | apply State.Keeps.ite | apply State.Keeps.ite_fst | apply KeepsRes.ite | apply KeepsRes.next | apply KeepsRes.fault | apply KeepsEx.ite | apply KeepsEx.ok | apply KeepsEx.error | apply KeepsEx.pure | apply KeepsEx.throw)
    | (with_reducible refine State.instCommand_keeps ?_ _ _ _ _ _ (fun t ht => ?_)) | (with_reducible refine KeepsEx.map (fun t ht => ?_))
    | (with_reducible exact State.Keeps.mk_of (by assumption)) | (fail_if_no_progress (with_reducible refine State.Keeps.mk_of ?_)) | split

end Sys2Proof.Machine
end

