-- ==== Sys2Proof/Laws/KeepCamera.lean ====
section
/-! SUPPORT. What the operations of Machine/Camera.lean keep (Laws/Keeps.lean). -/

namespace Sys2Proof.Machine

theorem State.setCap_keeps {s₀ s : State} (h : State.Keeps s₀ s) (k : Nat) (x : CapRun) : State.Keeps s₀ (State.setCap s k x) := by
  unfold State.setCap
  repeat' first
    | (with_reducible assumption) | lift_lets | (with_reducible first | apply State.Keeps.ite | apply State.Keeps.ite_fst)
    | (with_reducible exact State.Keeps.mk_of (by assumption))

theorem State.rearmStream_keeps {s₀ s : State} (h : State.Keeps s₀ s) (st : Nat) : State.Keeps s₀ (State.rearmStream s st) := by
  unfold State.rearmStream
  repeat' first
    | (with_reducible assumption) | lift_lets | (with_reducible first | apply State.setN_keeps | apply State.Keeps.ite | apply State.Keeps.ite_fst)
    | (with_reducible refine State.forEach_keeps ?_ _ _ (fun t x ht => ?_)) | (with_reducible exact State.Keeps.mk_of (by assumption))
    | (fail_if_no_progress (with_reducible refine State.Keeps.mk_of ?_)) | split

theorem State.writeStreamConfig_keeps {s₀ s : State} (h : State.Keeps s₀ s) (st : Nat) (v : Word64) (ring : Nat) : KeepsEx s₀ (State.writeStreamConfig s st v ring) := by
  unfold State.writeStreamConfig
  repeat' first
    | (with_reducible assumption) | (intro x; (with_reducible refine State.Keeps.cut (s₀ := s₀) (x := x) ?_ ?_) <;> [subst x; (clear_value x; intro hx)])
    | (intro x; refine State.Keeps.fn x ?_; subst x) | (intro x; clear_value x) | lift_lets
    | (with_reducible first | apply State.freeRings_keeps | apply State.rearmStream_keeps | apply State.setN_keeps | apply State.setObj_keeps | apply State.upInst_keeps | apply State.upStream_keeps | apply State.Keeps.ite | apply State.Keeps.ite_fst | apply KeepsEx.ite | apply KeepsEx.ok | apply KeepsEx.error)

theorem execStreamEnable_keeps {s₀ s : State} (h : State.Keeps s₀ s) (src : Src) (st : Fin 32) (v : Word64) (ring : Nat) : KeepsRes s₀ (execStreamEnable src st v ring s) := by
  unfold execStreamEnable
  repeat' first
    | (with_reducible assumption) | lift_lets | (with_reducible apply State.writeStreamConfig_keeps)
    | (with_reducible refine State.command_keeps ?_ _ _ _ _ _ (fun r t ht => ?_))

theorem execCsi2PortStateChange_keeps {s₀ s : State} (h : State.Keeps s₀ s) (p : Fin 16) (signal : Bool) : KeepsRes s₀ (execCsi2PortStateChange p signal s) := by
  unfold execCsi2PortStateChange
  repeat' first
    | (with_reducible assumption) | lift_lets
    | (with_reducible first | apply State.setN_keeps | apply State.Keeps.ite | apply State.Keeps.ite_fst | apply KeepsRes.ite | apply KeepsRes.next)

theorem State.sensorNext_keeps {s₀ s : State} (h : State.Keeps s₀ s) (e f : Nat) : State.Keeps s₀ (State.sensorNext s e f) := by
  unfold State.sensorNext
  repeat' first
    | (with_reducible assumption) | lift_lets
    | (with_reducible first | apply State.cadOff_keeps | apply State.setN_keeps | apply State.Keeps.ite | apply State.Keeps.ite_fst)
    | (with_reducible exact State.Keeps.mk_of (by assumption)) | (fail_if_no_progress (with_reducible refine State.Keeps.mk_of ?_)) | split

theorem State.lineEvent_keeps {s₀ s : State} (h : State.Keeps s₀ s) (st line : Nat) : State.Keeps s₀ (State.lineEvent s st line) := by
  unfold State.lineEvent
  repeat' first
    | (with_reducible assumption) | (intro x; clear_value x) | lift_lets
    | (with_reducible first | apply State.sensorNext_keeps | apply State.Keeps.ite | apply State.Keeps.ite_fst)
    | (with_reducible refine State.forEach_keeps ?_ _ _ (fun t x ht => ?_)) | (with_reducible exact State.Keeps.mk_of (by assumption))

theorem State.lineMisses_keeps {s₀ s : State} (h : State.Keeps s₀ s) (st : Nat) : State.Keeps s₀ (State.lineMisses s st) := by
  unfold State.lineMisses
  repeat' first
    | (with_reducible assumption) | (intro x; clear_value x) | lift_lets | (with_reducible first | apply State.cadMissed_keeps | apply State.sensorNext_keeps)
    | (with_reducible refine State.forEach_keeps ?_ _ _ (fun t x ht => ?_))

theorem State.refreshCapSize_keeps {s₀ s : State} (h : State.Keeps s₀ s) (k : Nat) : State.Keeps s₀ (State.refreshCapSize s k) := by
  unfold State.refreshCapSize
  repeat' first
    | (with_reducible assumption) | lift_lets | (with_reducible apply State.setN_keeps)

theorem State.wrOwn_keeps {s₀ s : State} (h : State.Keeps s₀ s) (m a : Nat) (bs : List Byte) : State.Keeps s₀ (State.wrOwn s m a bs) := by
  unfold State.wrOwn
  repeat' first
    | (with_reducible assumption) | lift_lets | (with_reducible first | apply State.wr_keeps | apply State.Keeps.ite)

theorem State.capRecord_keeps {s₀ s : State} (h : State.Keeps s₀ s) (k x i : Nat) (again : Bool) : State.Keeps s₀ (State.capRecord s k x i again).1 := by
  unfold State.capRecord
  repeat' first
    | (with_reducible assumption) | (intro x; clear_value x) | lift_lets
    | (with_reducible first | apply State.upStream_keeps | apply State.wrOwn_keeps | apply State.Keeps.ite | apply State.Keeps.ite_fst)
    | (with_reducible exact State.Keeps.mk_of (by assumption)) | (fail_if_no_progress (with_reducible refine State.Keeps.mk_of ?_)) | split

theorem State.capFinish_keeps {s₀ s : State} (h : State.Keeps s₀ s) (k : Nat) (c : CapWait) : State.Keeps s₀ (State.capFinish s k c) := by
  unfold State.capFinish
  repeat' first
    | (with_reducible assumption) | (intro x; clear_value x) | lift_lets | (with_reducible first | apply State.setN_keeps | apply State.wrOwn_keeps)

theorem State.capture_keeps {s₀ s : State} (h : State.Keeps s₀ s) (k : Nat) : State.Keeps s₀ (State.capture s k) := by
  unfold State.capture
  repeat' first
    | (with_reducible assumption) | (intro x; (with_reducible refine State.Keeps.cut (s₀ := s₀) (x := x) ?_ ?_) <;> [subst x; (clear_value x; intro hx)])
    | (intro x; clear_value x) | lift_lets
    | (with_reducible first | apply State.capFinish_keeps | apply State.capRecord_keeps | apply State.freeRings_keeps | apply State.setCap_keeps | apply State.upStream_keeps | apply State.Keeps.ite | apply State.Keeps.ite_fst)
    | (with_reducible refine State.forEach_keeps ?_ _ _ (fun t x ht => ?_)) | (with_reducible refine foldl_keeps ?_ _ _ (fun t x ht => ?_))
    | (with_reducible refine foldl_fst_keeps ?_ _ _ (fun t x ht => ?_)) | (with_reducible exact State.Keeps.mk_of (by assumption))
    | (fail_if_no_progress (with_reducible refine State.Keeps.mk_of ?_)) | split | (refine State.Keeps.of_fst (by assumption) ?_)

theorem execAssayCapture_keeps {s₀ s : State} (h : State.Keeps s₀ s) (e : Fin 1024) : KeepsRes s₀ (execAssayCapture e s) := by
  unfold execAssayCapture
  repeat' first
    | (with_reducible assumption) | lift_lets
    | (with_reducible first | apply State.cadMissed_keeps | apply State.capture_keeps | apply State.count_keeps | apply State.fire_keeps | apply State.Keeps.ite | apply State.Keeps.ite_fst | apply KeepsRes.ite | apply KeepsRes.next | apply KeepsRes.fault | apply KeepsOptP.getD)
    | (with_reducible exact State.Keeps.mk_of (by assumption)) | (fail_if_no_progress (with_reducible refine State.Keeps.mk_of ?_)) | split
    | (refine State.Keeps.of_fst (by assumption) ?_) | (refine KeepsEx.elim (by assumption) ?_) | (refine KeepsExP.elim (by assumption) ?_)
    | (refine KeepsExW.elim (by assumption) ?_) | (refine KeepsOptP.elim (by assumption) ?_) | (refine KeepsOpt.elim (by assumption) ?_)
    | (refine KeepsRes.elim (by assumption) ?_) | (refine KeepsOpt.elim_fst (by assumption) ?_) | (dsimp only)

theorem State.capResume_keeps {s₀ s : State} (h : State.Keeps s₀ s) (st : Nat) : State.Keeps s₀ (State.capResume s st) := by
  unfold State.capResume
  repeat' first
    | (with_reducible assumption) | (intro x; refine State.Keeps.fn x ?_; subst x) | (intro x; clear_value x) | lift_lets
    | (with_reducible first | apply State.capFinish_keeps | apply State.capRecord_keeps | apply State.setCap_keeps | apply State.Keeps.ite | apply State.Keeps.ite_fst)
    | (with_reducible refine State.forEach_keeps ?_ _ _ (fun t x ht => ?_)) | (with_reducible refine foldl_keeps ?_ _ _ (fun t x ht => ?_))
    | (with_reducible refine foldl_fst_keeps ?_ _ _ (fun t x ht => ?_))

theorem State.completeFrame_keeps {s₀ s : State} (h : State.Keeps s₀ s) (st : Nat) (f : FrameSt) : State.Keeps s₀ (State.completeFrame s st f) := by
  unfold State.completeFrame
  repeat' first
    | (with_reducible assumption) | (intro x; (with_reducible refine State.Keeps.cut (s₀ := s₀) (x := x) ?_ ?_) <;> [subst x; (clear_value x; intro hx)])
    | (intro x; clear_value x) | lift_lets
    | (with_reducible first | apply State.capResume_keeps | apply State.count_keeps | apply State.orObj_keeps | apply State.safeTrigger_keeps | apply State.setN_keeps | apply State.strataEvent_keeps | apply State.upStream_keeps | apply State.wrOwn_keeps | apply State.Keeps.ite | apply State.Keeps.ite_fst)
    | (with_reducible exact State.Keeps.mk_of (by assumption)) | (fail_if_no_progress (with_reducible refine State.Keeps.mk_of ?_)) | split

theorem State.verdictDue_keeps {s₀ s : State} (h : State.Keeps s₀ s) (st : Nat) (good : Bool) : State.Keeps s₀ (State.verdictDue s st good) := by
  unfold State.verdictDue
  repeat' first
    | (with_reducible assumption) | lift_lets
    | (with_reducible first | apply State.completeFrame_keeps | apply State.upStream_keeps | apply State.Keeps.ite | apply State.Keeps.ite_fst)
    | (with_reducible exact State.Keeps.mk_of (by assumption)) | (fail_if_no_progress (with_reducible refine State.Keeps.mk_of ?_)) | split

theorem State.closeFrame_keeps {s₀ s : State} (h : State.Keeps s₀ s) (st : Nat) (f : FrameSt) : State.Keeps s₀ (State.closeFrame s st f) := by
  unfold State.closeFrame
  repeat' first
    | (with_reducible assumption) | (intro x; (with_reducible refine State.Keeps.cut (s₀ := s₀) (x := x) ?_ ?_) <;> [subst x; (clear_value x; intro hx)])
    | (intro x; clear_value x) | lift_lets
    | (with_reducible first | apply State.lineEvent_keeps | apply State.lineMisses_keeps | apply State.setN_keeps | apply State.upStream_keeps | apply State.Keeps.ite | apply State.Keeps.ite_fst)
    | (with_reducible exact State.Keeps.mk_of (by assumption)) | (fail_if_no_progress (with_reducible refine State.Keeps.mk_of ?_)) | split

theorem execFrameStart_keeps {s₀ s : State} (h : State.Keeps s₀ s) (st : Fin 32) (csiFrame : Word16) : KeepsRes s₀ (execFrameStart st csiFrame s) := by
  unfold execFrameStart
  repeat' first
    | (with_reducible assumption) | (intro x; clear_value x) | lift_lets
    | (with_reducible first | apply State.closeFrame_keeps | apply State.completeFrame_keeps | apply State.count_keeps | apply State.lineEvent_keeps | apply State.orObj_keeps | apply State.setN_keeps | apply State.setObj_keeps | apply State.upStream_keeps | apply State.verdictDue_keeps | apply State.Keeps.ite | apply State.Keeps.ite_fst | apply KeepsRes.ite | apply KeepsRes.next | apply KeepsRes.fault)
    | (with_reducible exact State.Keeps.mk_of (by assumption)) | (fail_if_no_progress (with_reducible refine State.Keeps.mk_of ?_)) | split

theorem State.lineBegins_keeps {s₀ s : State} (h : State.Keeps s₀ s) (st : Nat) : State.Keeps s₀ (State.lineBegins s st) := by
  unfold State.lineBegins
  repeat' first
    | (with_reducible assumption) | (intro x; (with_reducible refine State.Keeps.cut (s₀ := s₀) (x := x) ?_ ?_) <;> [subst x; (clear_value x; intro hx)])
    | (intro x; clear_value x) | lift_lets
    | (with_reducible first | apply State.lineEvent_keeps | apply State.setObj_keeps | apply State.upStream_keeps | apply State.Keeps.ite)

theorem execLineStart_keeps {s₀ s : State} (h : State.Keeps s₀ s) (st : Fin 32) : KeepsRes s₀ (execLineStart st s) := by
  unfold execLineStart
  repeat' first
    | (with_reducible assumption) | lift_lets
    | (with_reducible first | apply State.lineBegins_keeps | apply State.Keeps.ite | apply State.Keeps.ite_fst | apply KeepsRes.ite | apply KeepsRes.next)

theorem State.takeLine_keeps {s₀ s : State} (h : State.Keeps s₀ s) (st : Nat) (pk : CsiPacket) (embedded : Bool) : State.Keeps s₀ (State.takeLine s st pk embedded) := by
  unfold State.takeLine
  repeat' first
    | (with_reducible assumption) | (intro x; (with_reducible refine State.Keeps.cut (s₀ := s₀) (x := x) ?_ ?_) <;> [subst x; (clear_value x; intro hx)])
    | (intro x; clear_value x) | lift_lets
    | (with_reducible first | apply State.lineBegins_keeps | apply State.upStream_keeps | apply State.wrOwn_keeps | apply State.Keeps.ite | apply State.Keeps.ite_fst)
    | (with_reducible exact State.Keeps.mk_of (by assumption)) | (fail_if_no_progress (with_reducible refine State.Keeps.mk_of ?_)) | split

theorem State.takeTest_keeps {s₀ s : State} (h : State.Keeps s₀ s) (st : Nat) (pk : CsiPacket) : State.Keeps s₀ (State.takeTest s st pk) := by
  unfold State.takeTest
  repeat' first
    | (with_reducible assumption) | (intro x; clear_value x) | lift_lets | (with_reducible apply State.upStream_keeps)

theorem execLongPacket_keeps {s₀ s : State} (h : State.Keeps s₀ s) (p : Fin 16) (pk : CsiPacket) : KeepsRes s₀ (execLongPacket p pk s) := by
  unfold execLongPacket
  repeat' first
    | (with_reducible assumption) | (intro x; (with_reducible refine State.Keeps.cut (s₀ := s₀) (x := x) ?_ ?_) <;> [subst x; (clear_value x; intro hx)])
    | (intro x; clear_value x) | lift_lets
    | (with_reducible first | apply State.count_keeps | apply State.takeLine_keeps | apply State.takeTest_keeps | apply State.Keeps.ite | apply State.Keeps.ite_fst | apply KeepsRes.ite | apply KeepsRes.next)
    | (with_reducible refine State.forEach_keeps ?_ _ _ (fun t x ht => ?_))

theorem execFrameEnd_keeps {s₀ s : State} (h : State.Keeps s₀ s) (st : Fin 32) : KeepsRes s₀ (execFrameEnd st s) := by
  unfold execFrameEnd
  repeat' first
    | (with_reducible assumption) | (intro x; (with_reducible refine State.Keeps.cut (s₀ := s₀) (x := x) ?_ ?_) <;> [subst x; (clear_value x; intro hx)])
    | (intro x; clear_value x) | lift_lets
    | (with_reducible first | apply State.closeFrame_keeps | apply State.completeFrame_keeps | apply State.emit_keeps | apply State.upStream_keeps | apply State.verdictDue_keeps | apply State.Keeps.ite | apply State.Keeps.ite_fst | apply KeepsRes.ite | apply KeepsRes.next | apply KeepsRes.fault)
    | (with_reducible exact State.Keeps.mk_of (by assumption)) | (fail_if_no_progress (with_reducible refine State.Keeps.mk_of ?_)) | split

theorem execBlankVerdict_keeps {s₀ s : State} (h : State.Keeps s₀ s) (st : Fin 32) (crc : Option Word32) : KeepsRes s₀ (execBlankVerdict st crc s) := by
  unfold execBlankVerdict
  repeat' first
    | (with_reducible assumption) | lift_lets
    | (with_reducible first | apply State.verdictDue_keeps | apply State.Keeps.ite | apply State.Keeps.ite_fst | apply KeepsRes.ite | apply KeepsRes.next | apply KeepsRes.fault)
    | (with_reducible exact State.Keeps.mk_of (by assumption)) | (fail_if_no_progress (with_reducible refine State.Keeps.mk_of ?_)) | split

end Sys2Proof.Machine
end

