-- ==== Sys2Proof/Laws/KeepDisplay.lean ====
section
/-! SUPPORT. What the operations of Machine/Display.lean keep (Laws/Keeps.lean). -/

namespace Sys2Proof.Machine

theorem State.setPipe_keeps {s₀ s : State} (h : State.Keeps s₀ s) (p : Nat) (x : PipeSt) : State.Keeps s₀ (State.setPipe s p x) := by
  unfold State.setPipe
  repeat' first
    | (with_reducible assumption) | lift_lets | (with_reducible first | apply State.Keeps.ite | apply State.Keeps.ite_fst)
    | (with_reducible exact State.Keeps.mk_of (by assumption))

theorem State.frameVerdict_keeps {s₀ s : State} (h : State.Keeps s₀ s) (p : Nat) : State.Keeps s₀ (State.frameVerdict s p) := by
  unfold State.frameVerdict
  repeat' first
    | (with_reducible assumption) | (intro x; clear_value x) | lift_lets | (with_reducible apply State.setPipe_keeps)

theorem execPipeLatch_keeps {s₀ s : State} (h : State.Keeps s₀ s) (p : Fin 4) : KeepsRes s₀ (execPipeLatch p s) := by
  unfold execPipeLatch
  repeat' first
    | (with_reducible assumption) | (intro x; (with_reducible refine State.Keeps.cut (s₀ := s₀) (x := x) ?_ ?_) <;> [subst x; (clear_value x; intro hx)])
    | (intro x; clear_value x) | lift_lets
    | (with_reducible first | apply State.count_keeps | apply State.frameVerdict_keeps | apply State.orObj_keeps | apply State.setN_keeps | apply State.setObj_keeps | apply State.setPipe_keeps | apply State.Keeps.ite | apply State.Keeps.ite_fst | apply KeepsRes.ite | apply KeepsRes.next | apply KeepsRes.fault)
    | (with_reducible exact State.Keeps.mk_of (by assumption))

theorem execRegionCheck_keeps {s₀ s : State} (h : State.Keeps s₀ s) (p : Fin 4) (k : Fin 16) (pixels : List (Word16 × Word16 × Word16)) : KeepsRes s₀ (execRegionCheck p k pixels s) := by
  unfold execRegionCheck
  repeat' first
    | (with_reducible assumption) | (intro x; (with_reducible refine State.Keeps.cut (s₀ := s₀) (x := x) ?_ ?_) <;> [subst x; (clear_value x; intro hx)])
    | (intro x; clear_value x) | lift_lets
    | (with_reducible first | apply State.count_keeps | apply State.orObj_keeps | apply State.pipeFallback_keeps | apply State.setPipe_keeps | apply State.Keeps.ite | apply State.Keeps.ite_fst | apply KeepsRes.ite | apply KeepsRes.next)

theorem State.writeResume_keeps {s₀ s : State} (h : State.Keeps s₀ s) (p : Nat) : State.Keeps s₀ (State.writeResume s p) := by
  unfold State.writeResume
  repeat' first
    | (with_reducible assumption) | (intro x; clear_value x) | lift_lets | (with_reducible first | apply State.setPipe_keeps | apply State.Keeps.ite)

theorem execResume_keeps {s₀ s : State} (h : State.Keeps s₀ s) (src : Src) (p : Fin 4) (v : Word64) : KeepsRes s₀ (execResume src p v s) := by
  unfold execResume
  repeat' first
    | (with_reducible assumption) | lift_lets
    | (with_reducible first | apply State.writeResume_keeps | apply State.Keeps.ite | apply State.Keeps.ite_fst | apply KeepsRes.ite | apply KeepsRes.next | apply KeepsRes.fault | apply KeepsEx.ite | apply KeepsEx.ok)
    | (with_reducible refine State.command_keeps ?_ _ _ _ _ _ (fun r t ht => ?_))

theorem execLineScanOut_keeps {s₀ s : State} (h : State.Keeps s₀ s) (p : Fin 4) (ln : ScanLine) : KeepsRes s₀ (execLineScanOut p ln s) := by
  unfold execLineScanOut
  repeat' first
    | (with_reducible assumption) | (intro x; (with_reducible refine State.Keeps.cut (s₀ := s₀) (x := x) ?_ ?_) <;> [subst x; (clear_value x; intro hx)])
    | (intro x; clear_value x) | lift_lets
    | (with_reducible first | apply State.count_keeps | apply State.emit_keeps | apply State.orObj_keeps | apply State.setPipe_keeps | apply State.Keeps.ite | apply State.Keeps.ite_fst | apply KeepsRes.ite | apply KeepsRes.next)
    | (with_reducible refine State.forEach_keeps ?_ _ _ (fun t x ht => ?_)) | (with_reducible refine foldl_keeps ?_ _ _ (fun t x ht => ?_))
    | (with_reducible refine foldl_fst_keeps ?_ _ _ (fun t x ht => ?_))

theorem execHotPlugDetect_keeps {s₀ s : State} (h : State.Keeps s₀ s) (p : Fin 4) : KeepsRes s₀ (execHotPlugDetect p s) := by
  unfold execHotPlugDetect
  repeat' first
    | (with_reducible assumption) | (intro x; clear_value x) | lift_lets
    | (with_reducible first | apply State.setPipe_keeps | apply State.Keeps.ite | apply State.Keeps.ite_fst | apply KeepsRes.ite | apply KeepsRes.next)

theorem execDisplayPreempt_keeps {s₀ s : State} (h : State.Keeps s₀ s) (p : Fin 16) : KeepsRes s₀ (execDisplayPreempt p s) := by
  unfold execDisplayPreempt
  repeat' first
    | (with_reducible assumption) | (intro x; clear_value x) | lift_lets
    | (with_reducible first | apply State.preemptPart_keeps | apply State.Keeps.ite | apply State.Keeps.ite_fst | apply KeepsRes.ite | apply KeepsRes.next | apply KeepsRes.fault)
    | (with_reducible exact State.Keeps.mk_of (by assumption)) | (fail_if_no_progress (with_reducible refine State.Keeps.mk_of ?_)) | split

theorem execRingTailWrite_keeps {s₀ s : State} (h : State.Keeps s₀ s) (src : Src) (v : Word64) : KeepsRes s₀ (execRingTailWrite src v s) := by
  unfold execRingTailWrite
  repeat' first
    | (with_reducible assumption) | lift_lets | (with_reducible apply State.writeRingTail_keeps)
    | (with_reducible refine State.command_keeps ?_ _ _ _ _ _ (fun r t ht => ?_))

end Sys2Proof.Machine
end

