-- ==== Sys2Proof/Laws/KeepSessions.lean ====
section
/-! SUPPORT. What the operations of Machine/Sessions.lean keep (Laws/Keeps.lean). -/

namespace Sys2Proof.Machine

theorem State.refreshSessions_keeps {s₀ s : State} (h : State.Keeps s₀ s)  : State.Keeps s₀ (State.refreshSessions s) := by
  unfold State.refreshSessions
  repeat' first
    | (with_reducible assumption) | lift_lets | (with_reducible apply State.setN_keeps)

theorem State.freeSession_keeps {s₀ s : State} (h : State.Keeps s₀ s) (sid : Nat) : State.Keeps s₀ (State.freeSession s sid) := by
  unfold State.freeSession
  repeat' first
    | (with_reducible assumption) | lift_lets | (with_reducible first | apply State.refreshSessions_keeps | apply State.Keeps.ite | apply State.Keeps.ite_fst)
    | (with_reducible exact State.Keeps.mk_of (by assumption))

theorem State.closeSession_keeps {s₀ s : State} (h : State.Keeps s₀ s) (sid : Nat) : State.Keeps s₀ (State.closeSession s sid) := by
  unfold State.closeSession
  repeat' first
    | (with_reducible assumption) | (intro x; (with_reducible refine State.Keeps.cut (s₀ := s₀) (x := x) ?_ ?_) <;> [subst x; (clear_value x; intro hx)]) | lift_lets
    | (with_reducible first | apply State.freeSession_keeps | apply State.orObj_keeps | apply State.Keeps.ite)

theorem State.closeLink_keeps {s₀ s : State} (h : State.Keeps s₀ s) (l : Link) : State.Keeps s₀ (State.closeLink s l) := by
  unfold State.closeLink
  repeat' first
    | (with_reducible assumption) | lift_lets | (with_reducible apply State.closeSession_keeps) | (with_reducible refine State.forEach_keeps ?_ _ _ (fun t x ht => ?_))

end Sys2Proof.Machine
end

