-- ==== Sys2Proof/Laws/KeepNetwork.lean ====
section
/-! SUPPORT. What the operations of Machine/Network.lean keep (Laws/Keeps.lean). -/

namespace Sys2Proof.Machine

theorem State.setQueue_keeps {s₀ s : State} (h : State.Keeps s₀ s) (q c : Nat) (l : List TxFrame) : State.Keeps s₀ (State.setQueue s q c l) := by
  unfold State.setQueue
  repeat' first
    | (with_reducible assumption) | lift_lets | (with_reducible first | apply State.Keeps.ite | apply State.Keeps.ite_fst)
    | (with_reducible exact State.Keeps.mk_of (by assumption))

theorem State.stampEntry_keeps {s₀ s : State} (h : State.Keeps s₀ s) (q frameId status : Nat) (stamp : Word64) : State.Keeps s₀ (State.stampEntry s q frameId status stamp) := by
  unfold State.stampEntry
  repeat' first
    | (with_reducible assumption) | (intro x; (with_reducible refine State.Keeps.cut (s₀ := s₀) (x := x) ?_ ?_) <;> [subst x; (clear_value x; intro hx)])
    | (intro x; clear_value x) | lift_lets
    | (with_reducible first | apply State.count_keeps | apply State.orObj_keeps | apply State.setN_keeps | apply State.setObj_keeps | apply State.Keeps.ite)

theorem State.advanceHead_keeps {s₀ s : State} (h : State.Keeps s₀ s) (r c k : Nat) : State.Keeps s₀ (State.advanceHead s r c k) := by
  induction k generalizing s with
  | zero => exact h
  | succ k ih =>
    unfold State.advanceHead
    dsimp only
    split
    · exact h
    · exact ih (State.setN_keeps h _ _)

theorem State.descDone_keeps {s₀ s : State} (h : State.Keeps s₀ s) (a status : Nat) : State.Keeps s₀ (State.descDone s a status) := by
  unfold State.descDone
  repeat' first
    | (with_reducible assumption) | (intro x; (with_reducible refine State.Keeps.cut (s₀ := s₀) (x := x) ?_ ?_) <;> [subst x; (clear_value x; intro hx)]) | lift_lets
    | (with_reducible first | apply State.advanceHead_keeps | apply State.wrN_keeps) | (with_reducible refine State.forEach_keeps ?_ _ _ (fun t x ht => ?_))

theorem State.frameGone_keeps {s₀ s : State} (h : State.Keeps s₀ s) (q : Nat) (f : TxFrame) (status entry : Nat) (stamp : Word64) : State.Keeps s₀ (State.frameGone s q f status entry stamp) := by
  unfold State.frameGone
  repeat' first
    | (with_reducible assumption) | (intro x; (with_reducible refine State.Keeps.cut (s₀ := s₀) (x := x) ?_ ?_) <;> [subst x; (clear_value x; intro hx)]) | lift_lets
    | (with_reducible first | apply State.descDone_keeps | apply State.stampEntry_keeps | apply State.Keeps.ite | apply State.Keeps.ite_fst)
    | (with_reducible exact State.Keeps.mk_of (by assumption)) | (fail_if_no_progress (with_reducible refine State.Keeps.mk_of ?_)) | split

theorem State.toHost_keeps {s₀ s : State} (h : State.Keeps s₀ s) (c : Nat) (f : TxFrame) : State.Keeps s₀ (State.toHost s c f) := by
  unfold State.toHost
  repeat' first
    | (with_reducible assumption) | (intro x; (with_reducible refine State.Keeps.cut (s₀ := s₀) (x := x) ?_ ?_) <;> [subst x; (clear_value x; intro hx)])
    | (intro x; clear_value x) | lift_lets | (with_reducible first | apply State.count_keeps | apply State.setN_keeps | apply State.wr_keeps | apply State.Keeps.ite)

theorem State.egress_keeps {s₀ s : State} (h : State.Keeps s₀ s) (q c : Nat) (f : TxFrame) : State.Keeps s₀ (State.egress s q c f) := by
  unfold State.egress
  repeat' first
    | (with_reducible assumption) | lift_lets
    | (with_reducible first | apply State.count_keeps | apply State.emit_keeps | apply State.frameGone_keeps | apply State.setQueue_keeps | apply State.toHost_keeps | apply State.Keeps.ite)

theorem State.learn_keeps {s₀ s : State} (h : State.Keeps s₀ s) (v : Nat) (mac : BitVec 48) (q : Nat) : State.Keeps s₀ (State.learn s v mac q) := by
  unfold State.learn
  repeat' first
    | (with_reducible assumption) | (intro x; clear_value x) | lift_lets | (with_reducible first | apply State.Keeps.ite | apply State.Keeps.ite_fst)
    | (with_reducible exact State.Keeps.mk_of (by assumption))

theorem State.forward_keeps {s₀ s : State} (h : State.Keeps s₀ s) (inPort v c : Nat) (dst src : BitVec 48) (etype : Nat) (payload : List Byte) (desc : Option Nat) : State.Keeps s₀ (State.forward s inPort v c dst src etype payload desc) := by
  unfold State.forward
  repeat' first
    | (with_reducible assumption) | (intro x; clear_value x) | lift_lets | (with_reducible apply State.egress_keeps)
    | (with_reducible refine State.forEach_keeps ?_ _ _ (fun t x ht => ?_))

theorem State.fetchDesc_keeps {s₀ s : State} (h : State.Keeps s₀ s) (r c : Nat) : State.Keeps s₀ (State.fetchDesc s r c) := by
  unfold State.fetchDesc
  repeat' first
    | (with_reducible assumption) | (intro x; clear_value x) | lift_lets
    | (with_reducible first | apply State.descDone_keeps | apply State.egress_keeps | apply State.forward_keeps | apply State.Keeps.ite | apply State.Keeps.ite_fst)
    | (with_reducible exact State.Keeps.mk_of (by assumption))

theorem State.fetchRing_keeps {s₀ s : State} (h : State.Keeps s₀ s) (r c k : Nat) : State.Keeps s₀ (State.fetchRing s r c k) := by
  induction k generalizing s with
  | zero => exact h
  | succ k ih =>
    unfold State.fetchRing
    split
    · exact h
    · exact ih (State.fetchDesc_keeps h _ _)

theorem State.writeTxTail_keeps {s₀ s : State} (h : State.Keeps s₀ s) (r c : Nat) (v : Word64) : State.Keeps s₀ (State.writeTxTail s r c v) := by
  unfold State.writeTxTail
  repeat' first
    | (with_reducible assumption) | (intro x; clear_value x) | lift_lets | (with_reducible first | apply State.fetchRing_keeps | apply State.setN_keeps)

theorem execTxTailWrite_keeps {s₀ s : State} (h : State.Keeps s₀ s) (src : Src) (q : Fin 2) (c : Fin 8) (v : Word64) : KeepsRes s₀ (execTxTailWrite src q c v s) := by
  unfold execTxTailWrite
  repeat' first
    | (with_reducible assumption) | lift_lets
    | (with_reducible first | apply State.writeTxTail_keeps | apply State.Keeps.ite | apply State.Keeps.ite_fst | apply KeepsRes.ite | apply KeepsRes.next | apply KeepsRes.fault | apply KeepsEx.ite | apply KeepsEx.ok)
    | (with_reducible refine State.command_keeps ?_ _ _ _ _ _ (fun r t ht => ?_))

theorem execRxTailWrite_keeps {s₀ s : State} (h : State.Keeps s₀ s) (src : Src) (c : Fin 8) (v : Word64) : KeepsRes s₀ (execRxTailWrite src c v s) := by
  unfold execRxTailWrite
  repeat' first
    | (with_reducible assumption) | lift_lets
    | (with_reducible first | apply State.setN_keeps | apply State.Keeps.ite | apply State.Keeps.ite_fst | apply KeepsRes.ite | apply KeepsRes.next | apply KeepsRes.fault | apply KeepsEx.ite | apply KeepsEx.ok)
    | (with_reducible refine State.command_keeps ?_ _ _ _ _ _ (fun r t ht => ?_))

theorem State.writeTsRead_keeps {s₀ s : State} (h : State.Keeps s₀ s) (q : Nat) (v : Word64) : KeepsEx s₀ (State.writeTsRead s q v) := by
  unfold State.writeTsRead
  repeat' first
    | (with_reducible assumption) | (intro x; refine State.Keeps.fn x ?_; subst x) | (intro x; clear_value x) | lift_lets
    | (with_reducible first | apply State.setObj_keeps | apply State.Keeps.ite | apply State.Keeps.ite_fst | apply KeepsEx.ite | apply KeepsEx.ok | apply KeepsEx.error)

theorem execTsReadWrite_keeps {s₀ s : State} (h : State.Keeps s₀ s) (src : Src) (q : Fin 12) (v : Word64) : KeepsRes s₀ (execTsReadWrite src q v s) := by
  unfold execTsReadWrite
  repeat' first
    | (with_reducible assumption) | lift_lets | (with_reducible apply State.writeTsRead_keeps) | (with_reducible refine State.command_keeps ?_ _ _ _ _ _ (fun r t ht => ?_))

theorem State.templateSent_keeps {s₀ s : State} (h : State.Keeps s₀ s) (t : Option Nat) : State.Keeps s₀ (State.templateSent s t) := by
  unfold State.templateSent
  repeat' first
    | (with_reducible assumption) | lift_lets | (with_reducible first | apply State.Keeps.ite | apply State.Keeps.ite_fst)
    | (with_reducible exact State.Keeps.mk_of (by assumption)) | (fail_if_no_progress (with_reducible refine State.Keeps.mk_of ?_)) | split

theorem execFrameTransmit_keeps {s₀ s : State} (h : State.Keeps s₀ s) (q : Fin 12) (c : Fin 8) : KeepsRes s₀ (execFrameTransmit q c s) := by
  unfold execFrameTransmit
  repeat' first
    | (with_reducible assumption) | (intro x; (with_reducible refine State.Keeps.cut (s₀ := s₀) (x := x) ?_ ?_) <;> [subst x; (clear_value x; intro hx)])
    | (intro x; clear_value x) | lift_lets
    | (with_reducible first | apply State.count_keeps | apply State.emit_keeps | apply State.frameGone_keeps | apply State.orObj_keeps | apply State.setQueue_keeps | apply State.templateSent_keeps | apply State.toHost_keeps | apply State.Keeps.ite | apply State.Keeps.ite_fst | apply KeepsRes.ite | apply KeepsRes.next | apply KeepsRes.fault)
    | (with_reducible exact State.Keeps.mk_of (by assumption)) | (fail_if_no_progress (with_reducible refine State.Keeps.mk_of ?_)) | split

theorem execLaunchFrame_keeps {s₀ s : State} (h : State.Keeps s₀ s) (e : Fin 1024) : KeepsRes s₀ (execLaunchFrame e s) := by
  unfold execLaunchFrame
  repeat' first
    | (with_reducible assumption) | lift_lets
    | (with_reducible first | apply State.cadMissed_keeps | apply State.fire_keeps | apply State.setQueue_keeps | apply State.Keeps.ite | apply State.Keeps.ite_fst | apply KeepsRes.ite | apply KeepsRes.next | apply KeepsRes.fault | apply KeepsOptP.getD)
    | (with_reducible exact State.Keeps.mk_of (by assumption)) | (fail_if_no_progress (with_reducible refine State.Keeps.mk_of ?_)) | split
    | (refine State.Keeps.of_fst (by assumption) ?_) | (refine KeepsEx.elim (by assumption) ?_) | (refine KeepsExP.elim (by assumption) ?_)
    | (refine KeepsExW.elim (by assumption) ?_) | (refine KeepsOptP.elim (by assumption) ?_) | (refine KeepsOpt.elim (by assumption) ?_)
    | (refine KeepsRes.elim (by assumption) ?_) | (refine KeepsOpt.elim_fst (by assumption) ?_) | (dsimp only)

theorem State.linkDown_keeps {s₀ s : State} (h : State.Keeps s₀ s) (q : Fin 12) : State.Keeps s₀ (State.linkDown s q) := by
  unfold State.linkDown
  repeat' first
    | (with_reducible assumption) | (intro x; (with_reducible refine State.Keeps.cut (s₀ := s₀) (x := x) ?_ ?_) <;> [subst x; (clear_value x; intro hx)])
    | (intro x; clear_value x) | lift_lets
    | (with_reducible first | apply State.closeLink_keeps | apply State.frameGone_keeps | apply State.orObj_keeps | apply State.setN_keeps | apply State.setQueue_keeps)
    | (with_reducible refine State.forEach_keeps ?_ _ _ (fun t x ht => ?_))

theorem execLinkChange_keeps {s₀ s : State} (h : State.Keeps s₀ s) (q : Fin 12) (up : Bool) : KeepsRes s₀ (execLinkChange q up s) := by
  unfold execLinkChange
  repeat' first
    | (with_reducible assumption) | lift_lets
    | (with_reducible first | apply State.linkDown_keeps | apply State.orObj_keeps | apply State.setN_keeps | apply State.Keeps.ite | apply State.Keeps.ite_fst | apply KeepsRes.ite | apply KeepsRes.next)

theorem State.capturePdu_keeps {s₀ s : State} (h : State.Keeps s₀ s) (p : Pdu) : State.Keeps s₀ (State.capturePdu s p) := by
  unfold State.capturePdu
  repeat' first
    | (with_reducible assumption) | (intro x; clear_value x) | lift_lets | (with_reducible refine State.forEach_keeps ?_ _ _ (fun t x ht => ?_))
    | (with_reducible first | apply State.Keeps.ite | apply State.Keeps.ite_fst) | (with_reducible exact State.Keeps.mk_of (by assumption))

theorem State.setCanQueue_keeps {s₀ s : State} (h : State.Keeps s₀ s) (c : Nat) (l : List CanTx) : State.Keeps s₀ (State.setCanQueue s c l) := by
  unfold State.setCanQueue
  repeat' first
    | (with_reducible assumption) | lift_lets | (with_reducible first | apply State.Keeps.ite | apply State.Keeps.ite_fst)
    | (with_reducible exact State.Keeps.mk_of (by assumption))

theorem State.canEnqueue_keeps {s₀ s : State} (h : State.Keeps s₀ s) (c : Nat) (f : CanTx) : State.Keeps s₀ (State.canEnqueue s c f).1 := by
  unfold State.canEnqueue
  repeat' first
    | (with_reducible assumption) | lift_lets
    | (with_reducible first | apply State.count_keeps | apply State.setCanQueue_keeps | apply State.Keeps.ite | apply State.Keeps.ite_fst)

theorem State.routedEth_keeps {s₀ s : State} (h : State.Keeps s₀ s) (r : List Byte) (etype : Nat) (payload : List Byte) : State.Keeps s₀ (State.routedEth s r etype payload).1 := by
  unfold State.routedEth
  repeat' first
    | (with_reducible assumption) | (intro x; clear_value x) | lift_lets
    | (with_reducible first | apply State.egress_keeps | apply State.Keeps.ite | apply State.Keeps.ite_fst)

theorem State.routedFrame_keeps {s₀ s : State} (h : State.Keeps s₀ s) (r : List Byte) (v : Nat) (bytes : List Byte) : State.Keeps s₀ (State.routedFrame s r v bytes).1 := by
  unfold State.routedFrame
  repeat' first
    | (with_reducible assumption) | (intro x; clear_value x) | lift_lets
    | (with_reducible first | apply State.egress_keeps | apply State.Keeps.ite | apply State.Keeps.ite_fst) | (with_reducible exact State.Keeps.mk_of (by assumption))

theorem State.routedCan_keeps {s₀ s : State} (h : State.Keeps s₀ s) (r : List Byte) (f : CanFrame) : State.Keeps s₀ (State.routedCan s r f).1 := by
  unfold State.routedCan
  repeat' first
    | (with_reducible assumption) | (intro x; clear_value x) | lift_lets
    | (with_reducible first | apply State.canEnqueue_keeps | apply State.Keeps.ite | apply State.Keeps.ite_fst)

theorem State.routeFromEth_keeps {s₀ s : State} (h : State.Keeps s₀ s) (r : List Byte) (v : Nat) (bytes : List Byte) : State.Keeps s₀ (State.routeFromEth s r v bytes).1 := by
  unfold State.routeFromEth
  repeat' first
    | (with_reducible assumption) | lift_lets
    | (with_reducible first | apply State.routedCan_keeps | apply State.routedFrame_keeps | apply State.Keeps.ite | apply State.Keeps.ite_fst)
    | (with_reducible refine foldl_keeps ?_ _ _ (fun t x ht => ?_)) | (with_reducible refine foldl_fst_keeps ?_ _ _ (fun t x ht => ?_))
    | (with_reducible exact State.Keeps.mk_of (by assumption)) | (fail_if_no_progress (with_reducible refine State.Keeps.mk_of ?_)) | split

theorem State.routeFromCan_keeps {s₀ s : State} (h : State.Keeps s₀ s) (r : List Byte) (f : CanFrame) : State.Keeps s₀ (State.routeFromCan s r f).1 := by
  unfold State.routeFromCan
  repeat' first
    | (with_reducible assumption) | lift_lets
    | (with_reducible first | apply State.routedCan_keeps | apply State.routedEth_keeps | apply State.routedFrame_keeps | apply State.tookFree_keeps | apply State.Keeps.ite | apply State.Keeps.ite_fst)
    | (with_reducible exact State.Keeps.mk_of (by assumption)) | (fail_if_no_progress (with_reducible refine State.Keeps.mk_of ?_)) | split

theorem State.route_keeps {s₀ s : State} (h : State.Keeps s₀ s) (p : Pdu) (act : State → List Byte → State × Bool) (hb : ∀ t bs, State.Keeps s₀ t → State.Keeps s₀ (act t bs).1) : State.Keeps s₀ (State.route s p act) := by
  unfold State.route
  repeat' first
    | (with_reducible assumption) | (intro x; clear_value x) | lift_lets
    | (with_reducible first | apply State.count_keeps | apply State.orObj_keeps | apply hb | apply State.Keeps.ite) | (refine State.Keeps.of_fst (by assumption) (hb _ _ ?_))
    | (with_reducible refine State.forEach_keeps ?_ _ _ (fun t x ht => ?_))

theorem execFrameReceive_keeps {s₀ s : State} (h : State.Keeps s₀ s) (q : Fin 12) (f : EthFrame) : KeepsRes s₀ (execFrameReceive q f s) := by
  unfold execFrameReceive
  repeat' first
    | (with_reducible assumption) | (intro x; (with_reducible refine State.Keeps.cut (s₀ := s₀) (x := x) ?_ ?_) <;> [subst x; (clear_value x; intro hx)])
    | (intro x; clear_value x) | lift_lets
    | (with_reducible first | apply State.capturePdu_keeps | apply State.count_keeps | apply State.forward_keeps | apply State.learn_keeps | apply State.orObj_keeps | apply State.routeFromEth_keeps | apply State.setDom_keeps | apply State.Keeps.ite | apply State.Keeps.ite_fst | apply KeepsRes.ite | apply KeepsRes.next)
    | (with_reducible refine State.route_keeps ?_ _ _ (fun t bs ht => ?_))

theorem State.sendTemplate_keeps {s₀ s : State} (h : State.Keeps s₀ s) (t off : Nat) (v : List Byte) (valid : Bool) (launch : Word64) : State.Keeps s₀ (State.sendTemplate s t off v valid launch) := by
  unfold State.sendTemplate
  repeat' first
    | (with_reducible assumption) | (intro x; clear_value x) | lift_lets
    | (with_reducible first | apply State.canEnqueue_keeps | apply State.egress_keeps | apply State.Keeps.ite)

theorem execLodestoneOutput_keeps {s₀ s : State} (h : State.Keeps s₀ s) (k : Fin 8) : KeepsRes s₀ (execLodestoneOutput k s) := by
  unfold execLodestoneOutput
  repeat' first
    | (with_reducible assumption) | (intro x; (with_reducible refine State.Keeps.cut (s₀ := s₀) (x := x) ?_ ?_) <;> [subst x; (clear_value x; intro hx)])
    | (intro x; clear_value x) | lift_lets
    | (with_reducible first | apply State.sendTemplate_keeps | apply State.setLo_keeps | apply State.setN_keeps | apply State.Keeps.ite | apply State.Keeps.ite_fst | apply KeepsRes.ite | apply KeepsRes.next | apply KeepsRes.fault)
    | (with_reducible exact State.Keeps.mk_of (by assumption)) | (fail_if_no_progress (with_reducible refine State.Keeps.mk_of ?_)) | split

end Sys2Proof.Machine
end

