-- ==== Sys2Proof/Laws/KeepBuses.lean ====
section
/-! SUPPORT. What the operations of Machine/Buses.lean keep (Laws/Keeps.lean). -/

namespace Sys2Proof.Machine

theorem State.setT1sQueue_keeps {s₀ s : State} (h : State.Keeps s₀ s) (i : Nat) (l : List T1sTx) : State.Keeps s₀ (State.setT1sQueue s i l) := by
  unfold State.setT1sQueue
  repeat' first
    | (with_reducible assumption) | lift_lets | (with_reducible first | apply State.Keeps.ite | apply State.Keeps.ite_fst)
    | (with_reducible exact State.Keeps.mk_of (by assumption))

theorem State.setPlca_keeps {s₀ s : State} (h : State.Keeps s₀ s) (i v : Nat) : State.Keeps s₀ (State.setPlca s i v) := by
  unfold State.setPlca
  repeat' first
    | (with_reducible assumption) | lift_lets | (with_reducible first | apply State.orObj_keeps | apply State.setN_keeps | apply State.Keeps.ite)

theorem State.writeT1s_keeps {s₀ s : State} (h : State.Keeps s₀ s) (i : Nat) (v : Word64) : State.Keeps s₀ (State.writeT1s s i v) := by
  unfold State.writeT1s
  repeat' first
    | (with_reducible assumption) | (intro x; (with_reducible refine State.Keeps.cut (s₀ := s₀) (x := x) ?_ ?_) <;> [subst x; (clear_value x; intro hx)])
    | (intro x; clear_value x) | lift_lets | (with_reducible first | apply State.setObj_keeps | apply State.setPlca_keeps | apply State.Keeps.ite)

theorem execT1sFrameReceive_keeps {s₀ s : State} (h : State.Keeps s₀ s) (i : Fin 2) (f : EthFrame) : KeepsRes s₀ (execT1sFrameReceive i f s) := by
  unfold execT1sFrameReceive
  repeat' first
    | (with_reducible assumption) | (intro x; (with_reducible refine State.Keeps.cut (s₀ := s₀) (x := x) ?_ ?_) <;> [subst x; (clear_value x; intro hx)])
    | (intro x; clear_value x) | lift_lets
    | (with_reducible first | apply State.capturePdu_keeps | apply State.routeFromEth_keeps | apply State.Keeps.ite | apply State.Keeps.ite_fst | apply KeepsRes.ite | apply KeepsRes.next)
    | (with_reducible refine State.route_keeps ?_ _ _ (fun t bs ht => ?_))

theorem execBeaconLoss_keeps {s₀ s : State} (h : State.Keeps s₀ s) (i : Fin 2) : KeepsRes s₀ (execBeaconLoss i s) := by
  unfold execBeaconLoss
  repeat' first
    | (with_reducible assumption) | lift_lets
    | (with_reducible first | apply State.count_keeps | apply State.setPlca_keeps | apply State.Keeps.ite | apply State.Keeps.ite_fst | apply KeepsRes.ite | apply KeepsRes.next)

theorem execPlcaBeaconReturn_keeps {s₀ s : State} (h : State.Keeps s₀ s) (i : Fin 2) : KeepsRes s₀ (execPlcaBeaconReturn i s) := by
  unfold execPlcaBeaconReturn
  repeat' first
    | (with_reducible assumption) | lift_lets
    | (with_reducible first | apply State.setPlca_keeps | apply State.Keeps.ite | apply State.Keeps.ite_fst | apply KeepsRes.ite | apply KeepsRes.next)

theorem execT1sTransmit_keeps {s₀ s : State} (h : State.Keeps s₀ s) (i : Fin 2) (collided : Bool) : KeepsRes s₀ (execT1sTransmit i collided s) := by
  unfold execT1sTransmit
  repeat' first
    | (with_reducible assumption) | (intro x; (with_reducible refine State.Keeps.cut (s₀ := s₀) (x := x) ?_ ?_) <;> [subst x; (clear_value x; intro hx)]) | lift_lets
    | (with_reducible first | apply State.count_keeps | apply State.emit_keeps | apply State.orObj_keeps | apply State.setT1sQueue_keeps | apply State.Keeps.ite | apply State.Keeps.ite_fst | apply KeepsRes.ite | apply KeepsRes.next | apply KeepsRes.fault)
    | (with_reducible exact State.Keeps.mk_of (by assumption)) | (fail_if_no_progress (with_reducible refine State.Keeps.mk_of ?_)) | split

theorem State.setCanState_keeps {s₀ s : State} (h : State.Keeps s₀ s) (c v : Nat) : State.Keeps s₀ (State.setCanState s c v) := by
  unfold State.setCanState
  repeat' first
    | (with_reducible assumption) | lift_lets | (with_reducible first | apply State.orObj_keeps | apply State.setN_keeps | apply State.Keeps.ite)

theorem execCanFrameReceive_keeps {s₀ s : State} (h : State.Keeps s₀ s) (c : Fin 8) (f : CanFrame) : KeepsRes s₀ (execCanFrameReceive c f s) := by
  unfold execCanFrameReceive
  repeat' first
    | (with_reducible assumption) | (intro x; clear_value x) | lift_lets
    | (with_reducible first | apply State.capturePdu_keeps | apply State.count_keeps | apply State.routeFromCan_keeps | apply State.Keeps.ite | apply State.Keeps.ite_fst | apply KeepsRes.ite | apply KeepsRes.next)
    | (with_reducible refine State.route_keeps ?_ _ _ (fun t bs ht => ?_))

theorem State.busOff_keeps {s₀ s : State} (h : State.Keeps s₀ s) (c : Nat) : State.Keeps s₀ (State.busOff s c) := by
  unfold State.busOff
  repeat' first
    | (with_reducible assumption) | (intro x; (with_reducible refine State.Keeps.cut (s₀ := s₀) (x := x) ?_ ?_) <;> [subst x; (clear_value x; intro hx)])
    | (intro x; clear_value x) | lift_lets
    | (with_reducible first | apply State.count_keeps | apply State.setCanState_keeps | apply State.Keeps.ite | apply State.Keeps.ite_fst)
    | (with_reducible exact State.Keeps.mk_of (by assumption))

theorem execCanTransmit_keeps {s₀ s : State} (h : State.Keeps s₀ s) (c : Fin 8) (tecAfter : Nat) (sent : Bool) : KeepsRes s₀ (execCanTransmit c tecAfter sent s) := by
  unfold execCanTransmit
  repeat' first
    | (with_reducible assumption) | (intro x; (with_reducible refine State.Keeps.cut (s₀ := s₀) (x := x) ?_ ?_) <;> [subst x; (clear_value x; intro hx)])
    | (intro x; refine State.Keeps.fn x ?_; subst x) | lift_lets
    | (with_reducible first | apply State.busOff_keeps | apply State.emit_keeps | apply State.setCanQueue_keeps | apply State.setCanState_keeps | apply State.setN_keeps | apply State.templateSent_keeps | apply State.Keeps.ite | apply State.Keeps.ite_fst | apply KeepsRes.ite | apply KeepsRes.next | apply KeepsRes.fault)
    | (with_reducible exact State.Keeps.mk_of (by assumption)) | (fail_if_no_progress (with_reducible refine State.Keeps.mk_of ?_)) | split

theorem State.canRecover_keeps {s₀ s : State} (h : State.Keeps s₀ s) (c : Nat) : State.Keeps s₀ (State.canRecover s c) := by
  unfold State.canRecover
  repeat' first
    | (with_reducible assumption) | lift_lets | (with_reducible first | apply State.setCanState_keeps | apply State.setN_keeps)

theorem execBusOffRecovery_keeps {s₀ s : State} (h : State.Keeps s₀ s) (c : Fin 8) : KeepsRes s₀ (execBusOffRecovery c s) := by
  unfold execBusOffRecovery
  repeat' first
    | (with_reducible assumption) | (intro x; clear_value x) | lift_lets
    | (with_reducible first | apply State.canRecover_keeps | apply State.Keeps.ite | apply State.Keeps.ite_fst | apply KeepsRes.ite | apply KeepsRes.next)

theorem State.writeRestart_keeps {s₀ s : State} (h : State.Keeps s₀ s) (c : Nat) : State.Keeps s₀ (State.writeRestart s c) := by
  unfold State.writeRestart
  repeat' first
    | (with_reducible assumption) | lift_lets | (with_reducible first | apply State.canRecover_keeps | apply State.Keeps.ite)

theorem execRestart_keeps {s₀ s : State} (h : State.Keeps s₀ s) (src : Src) (c : Fin 8) (v : Word64) : KeepsRes s₀ (execRestart src c v s) := by
  unfold execRestart
  repeat' first
    | (with_reducible assumption) | lift_lets
    | (with_reducible first | apply State.writeRestart_keeps | apply State.Keeps.ite | apply State.Keeps.ite_fst | apply KeepsRes.ite | apply KeepsRes.next | apply KeepsRes.fault | apply KeepsEx.ite | apply KeepsEx.ok)
    | (with_reducible refine State.command_keeps ?_ _ _ _ _ _ (fun r t ht => ?_))

end Sys2Proof.Machine
end

