-- ==== Sys2Proof/Laws/KeepFeldspar.lean ====
section
/-! SUPPORT. What the operations of Machine/Feldspar.lean keep (Laws/Keeps.lean). -/

namespace Sys2Proof.Machine

theorem State.sendWrite_keeps {s₀ s : State} (h : State.Keeps s₀ s) (w : Nat) (cfg : Word64) (far : Nat) (data : List Byte) : State.Keeps s₀ (State.sendWrite s w cfg far data) := by
  unfold State.sendWrite
  repeat' first
    | (with_reducible assumption) | lift_lets | (with_reducible apply State.emit_keeps) | (with_reducible refine State.forEach_keeps ?_ _ _ (fun t x ht => ?_))

theorem State.postedFault_keeps {s₀ s : State} (h : State.Keeps s₀ s) (p : Posted) (cause : Nat) : State.Keeps s₀ (State.postedFault s p cause) := by
  unfold State.postedFault
  repeat' first
    | (with_reducible assumption) | (intro x; (with_reducible refine State.Keeps.cut (s₀ := s₀) (x := x) ?_ ?_) <;> [subst x; (clear_value x; intro hx)])
    | (intro x; clear_value x) | lift_lets | (with_reducible first | apply State.count_keeps | apply State.orObj_keeps | apply State.setDom_keeps | apply State.Keeps.ite)

theorem State.sendPosted_keeps {s₀ s : State} (h : State.Keeps s₀ s) (p : Posted) : State.Keeps s₀ (State.sendPosted s p) := by
  unfold State.sendPosted
  repeat' first
    | (with_reducible assumption) | lift_lets
    | (with_reducible first | apply State.postedFault_keeps | apply State.sendWrite_keeps | apply State.Keeps.ite | apply State.Keeps.ite_fst)
    | (with_reducible exact State.Keeps.mk_of (by assumption)) | (fail_if_no_progress (with_reducible refine State.Keeps.mk_of ?_)) | split

theorem State.flushPosted_keeps {s₀ s : State} (h : State.Keeps s₀ s)  : State.Keeps s₀ (State.flushPosted s) := by
  unfold State.flushPosted
  repeat' first
    | (with_reducible assumption) | (intro x; clear_value x) | lift_lets
    | (with_reducible first | apply State.sendPosted_keeps | apply State.Keeps.ite | apply State.Keeps.ite_fst)
    | (with_reducible refine State.forEach_keeps ?_ _ _ (fun t x ht => ?_)) | (with_reducible exact State.Keeps.mk_of (by assumption))

theorem State.setFetch_keeps {s₀ s : State} (h : State.Keeps s₀ s) (k : Nat) (f : Option Fetch) : State.Keeps s₀ (State.setFetch s k f) := by
  unfold State.setFetch
  repeat' first
    | (with_reducible assumption) | lift_lets | (with_reducible first | apply State.Keeps.ite | apply State.Keeps.ite_fst)
    | (with_reducible exact State.Keeps.mk_of (by assumption))

theorem State.dropFetches_keeps {s₀ s : State} (h : State.Keeps s₀ s) (a len : Nat) : State.Keeps s₀ (State.dropFetches s a len) := by
  unfold State.dropFetches
  repeat' first
    | (with_reducible assumption) | lift_lets | (with_reducible apply State.setFetch_keeps) | (with_reducible refine State.forEach_keeps ?_ _ _ (fun t x ht => ?_))

theorem execOutboundRead_keeps {s₀ s : State} (h : State.Keeps s₀ s) (requester addr len : Nat) : KeepsRes s₀ (execOutboundRead requester addr len s) := by
  unfold execOutboundRead
  repeat' first
    | (with_reducible assumption) | (intro x; (with_reducible refine State.Keeps.cut (s₀ := s₀) (x := x) ?_ ?_) <;> [subst x; (clear_value x; intro hx)])
    | (intro x; refine State.Keeps.fn x ?_; subst x) | (intro x; clear_value x) | lift_lets
    | (with_reducible first | apply State.emit_keeps | apply State.flushPosted_keeps | apply State.setFetch_keeps | apply State.Keeps.ite | apply State.Keeps.ite_fst | apply KeepsRes.ite | apply KeepsRes.next | apply KeepsRes.fault)
    | (with_reducible refine State.forEach_keeps ?_ _ _ (fun t x ht => ?_)) | (with_reducible exact State.Keeps.mk_of (by assumption))
    | (fail_if_no_progress (with_reducible refine State.Keeps.mk_of ?_)) | split

theorem execFetchComplete_keeps {s₀ s : State} (h : State.Keeps s₀ s) (slot : Fin 64) (data : Option (List Byte)) : KeepsRes s₀ (execFetchComplete slot data s) := by
  unfold execFetchComplete
  repeat' first
    | (with_reducible assumption) | (intro x; clear_value x) | lift_lets
    | (with_reducible first | apply State.setFetch_keeps | apply State.Keeps.ite | apply State.Keeps.ite_fst | apply KeepsRes.ite | apply KeepsRes.next | apply KeepsRes.fault)
    | (with_reducible exact State.Keeps.mk_of (by assumption)) | (fail_if_no_progress (with_reducible refine State.Keeps.mk_of ?_)) | split

theorem execFetchHoldExpiry_keeps {s₀ s : State} (h : State.Keeps s₀ s) (slot : Fin 64) : KeepsRes s₀ (execFetchHoldExpiry slot s) := by
  unfold execFetchHoldExpiry
  repeat' first
    | (with_reducible assumption) | lift_lets
    | (with_reducible first | apply State.count_keeps | apply State.setFetch_keeps | apply State.Keeps.ite | apply State.Keeps.ite_fst | apply KeepsRes.ite | apply KeepsRes.next | apply KeepsRes.fault)
    | (with_reducible exact State.Keeps.mk_of (by assumption)) | (fail_if_no_progress (with_reducible refine State.Keeps.mk_of ?_)) | split

theorem execReadTimeout_keeps {s₀ s : State} (h : State.Keeps s₀ s) (requester addr len : Nat) (since : Word64) : KeepsRes s₀ (execReadTimeout requester addr len since s) := by
  unfold execReadTimeout
  repeat' first
    | (with_reducible assumption) | lift_lets
    | (with_reducible first | apply State.emit_keeps | apply State.Keeps.ite | apply State.Keeps.ite_fst | apply KeepsRes.ite | apply KeepsRes.next)

theorem execOutboundWrite_keeps {s₀ s : State} (h : State.Keeps s₀ s) (requester addr : Nat) (data : List Byte) (farOk : Bool) : KeepsRes s₀ (execOutboundWrite requester addr data farOk s) := by
  unfold execOutboundWrite
  repeat' first
    | (with_reducible assumption) | (intro x; (with_reducible refine State.Keeps.cut (s₀ := s₀) (x := x) ?_ ?_) <;> [subst x; (clear_value x; intro hx)]) | lift_lets
    | (with_reducible first | apply State.dropFetches_keeps | apply State.emit_keeps | apply State.flushPosted_keeps | apply State.sendWrite_keeps | apply State.Keeps.ite | apply State.Keeps.ite_fst | apply KeepsRes.ite | apply KeepsRes.next | apply KeepsRes.fault)
    | (with_reducible exact State.Keeps.mk_of (by assumption)) | (fail_if_no_progress (with_reducible refine State.Keeps.mk_of ?_)) | split

theorem execDeadlockYield_keeps {s₀ s : State} (h : State.Keeps s₀ s)  : KeepsRes s₀ (execDeadlockYield s) := by
  unfold execDeadlockYield
  repeat' first
    | (with_reducible assumption) | lift_lets
    | (with_reducible first | apply State.count_keeps | apply State.orObj_keeps | apply State.Keeps.ite | apply State.Keeps.ite_fst | apply KeepsRes.ite | apply KeepsRes.next | apply KeepsRes.fault)
    | (with_reducible exact State.Keeps.mk_of (by assumption))

theorem execPostedWriteFault_keeps {s₀ s : State} (h : State.Keeps s₀ s) (cause : Fin 5) : KeepsRes s₀ (execPostedWriteFault cause s) := by
  unfold execPostedWriteFault
  repeat' first
    | (with_reducible assumption) | lift_lets
    | (with_reducible first | apply State.postedFault_keeps | apply State.Keeps.ite | apply State.Keeps.ite_fst | apply KeepsRes.ite | apply KeepsRes.next | apply KeepsRes.fault)
    | (with_reducible exact State.Keeps.mk_of (by assumption)) | (fail_if_no_progress (with_reducible refine State.Keeps.mk_of ?_)) | split

theorem State.writePweClear_keeps {s₀ s : State} (h : State.Keeps s₀ s) (v : Word64) : State.Keeps s₀ (State.writePweClear s v) := by
  unfold State.writePweClear
  repeat' first
    | (with_reducible assumption) | lift_lets | (with_reducible first | apply State.setDom_keeps | apply State.Keeps.ite)

theorem execPweClear_keeps {s₀ s : State} (h : State.Keeps s₀ s) (src : Src) (v : Word64) : KeepsRes s₀ (execPweClear src v s) := by
  unfold execPweClear
  repeat' first
    | (with_reducible assumption) | lift_lets
    | (with_reducible first | apply State.writePweClear_keeps | apply State.Keeps.ite | apply State.Keeps.ite_fst | apply KeepsRes.ite | apply KeepsRes.next | apply KeepsRes.fault | apply KeepsEx.ite | apply KeepsEx.ok)
    | (with_reducible refine State.command_keeps ?_ _ _ _ _ _ (fun r t ht => ?_))

theorem State.inboundDone_keeps {s₀ s : State} (h : State.Keeps s₀ s)  : State.Keeps s₀ (State.inboundDone s) := by
  unfold State.inboundDone
  repeat' first
    | (with_reducible assumption) | lift_lets | (with_reducible first | apply State.Keeps.ite | apply State.Keeps.ite_fst)
    | (with_reducible exact State.Keeps.mk_of (by assumption))

theorem State.msixPut_keeps {s₀ s : State} (h : State.Keeps s₀ s) (off : Nat) (data : List Byte) : State.Keeps s₀ (s.msixPut off data) := by
  unfold State.msixPut; exact State.setDom_keeps h _ _

theorem execInboundRequest_keeps {s₀ s : State} (h : State.Keeps s₀ s) (wr : Bool) (addr len : Nat) (data : List Byte) (bar : Fin 8) : KeepsRes s₀ (execInboundRequest wr addr len data bar s) := by
  unfold execInboundRequest
  repeat' first
    | (with_reducible assumption) | (intro x; (with_reducible refine State.Keeps.cut (s₀ := s₀) (x := x) ?_ ?_) <;> [subst x; (clear_value x; intro hx)])
    | (intro x; clear_value x) | lift_lets
    | (with_reducible first | apply State.msixPut_keeps | apply State.count_keeps | apply State.emit_keeps | apply State.inboundDone_keeps | apply State.orObj_keeps | apply State.wr_keeps | apply State.Keeps.ite | apply State.Keeps.ite_fst | apply KeepsRes.ite | apply KeepsRes.next | apply KeepsRes.fault)
    | (with_reducible refine State.forEach_keeps ?_ _ _ (fun t x ht => ?_)) | (with_reducible exact State.Keeps.mk_of (by assumption))
    | (fail_if_no_progress (with_reducible refine State.Keeps.mk_of ?_)) | split

theorem execPcieLinkChange_keeps {s₀ s : State} (h : State.Keeps s₀ s) (gen width : Nat) : KeepsRes s₀ (execPcieLinkChange gen width s) := by
  unfold execPcieLinkChange
  repeat' first
    | (with_reducible assumption) | (intro x; clear_value x) | lift_lets
    | (with_reducible first | apply State.orObj_keeps | apply State.setN_keeps | apply State.Keeps.ite | apply State.Keeps.ite_fst | apply KeepsRes.ite | apply KeepsRes.next)

theorem State.setLk_keeps {s₀ s : State} (h : State.Keeps s₀ s) (l : Nat) (x : LinkSt) : State.Keeps s₀ (State.setLk s l x) := by
  unfold State.setLk
  repeat' first
    | (with_reducible assumption) | lift_lets | (with_reducible first | apply State.Keeps.ite | apply State.Keeps.ite_fst)
    | (with_reducible exact State.Keeps.mk_of (by assumption))

theorem State.linkUp_keeps {s₀ s : State} (h : State.Keeps s₀ s) (l : Nat) : State.Keeps s₀ (State.linkUp s l) := by
  unfold State.linkUp
  repeat' first
    | (with_reducible assumption) | (intro x; (with_reducible refine State.Keeps.cut (s₀ := s₀) (x := x) ?_ ?_) <;> [subst x; (clear_value x; intro hx)]) | lift_lets
    | (with_reducible first | apply State.clrObj_keeps | apply State.orObj_keeps | apply State.setLk_keeps | apply State.setN_keeps | apply State.Keeps.ite)

theorem execLinkTrain_keeps {s₀ s : State} (h : State.Keeps s₀ s) (l : Fin 3) (far : FarEnd) : KeepsRes s₀ (execLinkTrain l far s) := by
  unfold execLinkTrain
  repeat' first
    | (with_reducible assumption) | (intro x; (with_reducible refine State.Keeps.cut (s₀ := s₀) (x := x) ?_ ?_) <;> [subst x; (clear_value x; intro hx)])
    | (intro x; clear_value x) | lift_lets
    | (with_reducible first | apply State.linkUp_keeps | apply State.orObj_keeps | apply State.setN_keeps | apply State.Keeps.ite | apply State.Keeps.ite_fst | apply KeepsRes.ite | apply KeepsRes.next | apply KeepsRes.fault)
    | (with_reducible exact State.Keeps.mk_of (by assumption)) | (fail_if_no_progress (with_reducible refine State.Keeps.mk_of ?_)) | split

theorem execTrainRetry_keeps {s₀ s : State} (h : State.Keeps s₀ s) (l : Fin 3) : KeepsRes s₀ (execTrainRetry l s) := by
  unfold execTrainRetry
  repeat' first
    | (with_reducible assumption) | lift_lets
    | (with_reducible first | apply State.setN_keeps | apply State.Keeps.ite | apply State.Keeps.ite_fst | apply KeepsRes.ite | apply KeepsRes.next)

theorem State.linkLoss_keeps {s₀ s : State} (h : State.Keeps s₀ s) (l : Nat) : State.Keeps s₀ (State.linkLoss s l) := by
  unfold State.linkLoss
  repeat' first
    | (with_reducible assumption) | (intro x; (with_reducible refine State.Keeps.cut (s₀ := s₀) (x := x) ?_ ?_) <;> [subst x; (clear_value x; intro hx)])
    | (intro x; clear_value x) | lift_lets
    | (with_reducible first | apply State.count_keeps | apply State.faultInst_keeps | apply State.orObj_keeps | apply State.setLk_keeps | apply State.setN_keeps | apply State.setObj_keeps | apply State.strataEvent_keeps | apply State.Keeps.ite)
    | (with_reducible refine State.forEach_keeps ?_ _ _ (fun t x ht => ?_))

theorem execTwimiLinkLoss_keeps {s₀ s : State} (h : State.Keeps s₀ s) (l : Fin 3) : KeepsRes s₀ (execTwimiLinkLoss l s) := by
  unfold execTwimiLinkLoss
  repeat' first
    | (with_reducible assumption) | lift_lets
    | (with_reducible first | apply State.linkLoss_keeps | apply State.Keeps.ite | apply State.Keeps.ite_fst | apply KeepsRes.ite | apply KeepsRes.next)

theorem execFlitReplay_keeps {s₀ s : State} (h : State.Keeps s₀ s) (l : Fin 3) (sameFlit : Bool) : KeepsRes s₀ (execFlitReplay l sameFlit s) := by
  unfold execFlitReplay
  repeat' first
    | (with_reducible assumption) | (intro x; (with_reducible refine State.Keeps.cut (s₀ := s₀) (x := x) ?_ ?_) <;> [subst x; (clear_value x; intro hx)])
    | (intro x; clear_value x) | lift_lets
    | (with_reducible first | apply State.count_keeps | apply State.linkLoss_keeps | apply State.orObj_keeps | apply State.setLk_keeps | apply State.Keeps.ite | apply State.Keeps.ite_fst | apply KeepsRes.ite | apply KeepsRes.next)

theorem State.writeLinkConfig_keeps {s₀ s : State} (h : State.Keeps s₀ s) (l : Nat) (v : Word64) : State.Keeps s₀ (State.writeLinkConfig s l v) := by
  unfold State.writeLinkConfig
  repeat' first
    | (with_reducible assumption) | (intro x; (with_reducible refine State.Keeps.cut (s₀ := s₀) (x := x) ?_ ?_) <;> [subst x; (clear_value x; intro hx)])
    | (intro x; clear_value x) | lift_lets | (with_reducible first | apply State.orObj_keeps | apply State.setN_keeps | apply State.setObj_keeps | apply State.Keeps.ite)

end Sys2Proof.Machine
end

