-- ==== Sys2Proof/Laws/KeepFirmware.lean ====
section
/-! SUPPORT. What the operations of Machine/Firmware.lean keep (Laws/Keeps.lean). -/

namespace Sys2Proof.Machine

theorem State.setFw_keeps {s₀ s : State} (h : State.Keeps s₀ s) (f : Nat) (x : FwSt) : State.Keeps s₀ (State.setFw s f x) := by
  unfold State.setFw
  repeat' first
    | (with_reducible assumption) | lift_lets | (with_reducible first | apply State.Keeps.ite | apply State.Keeps.ite_fst)
    | (with_reducible exact State.Keeps.mk_of (by assumption))

theorem State.securityEvent_keeps {s₀ s : State} (h : State.Keeps s₀ s) (b : Nat) : State.Keeps s₀ (State.securityEvent s b) := by
  unfold State.securityEvent
  repeat' first
    | (with_reducible assumption) | lift_lets | (with_reducible first | apply State.orObj_keeps | apply State.strataEvent_keeps)

theorem State.notStarted_keeps {s₀ s : State} (h : State.Keeps s₀ s) (comp : Nat) : State.Keeps s₀ (State.notStarted s comp) := by
  unfold State.notStarted
  repeat' first
    | (with_reducible assumption) | lift_lets | (with_reducible apply State.safeTrigger_keeps)

theorem State.takeImage_keeps {s₀ s : State} (h : State.Keeps s₀ s) (k comp : Nat) : State.Keeps s₀ (State.takeImage s k comp).1 := by
  unfold State.takeImage
  repeat' first
    | (with_reducible assumption) | (intro x; (with_reducible refine State.Keeps.cut (s₀ := s₀) (x := x) ?_ ?_) <;> [subst x; (clear_value x; intro hx)])
    | (intro x; clear_value x) | lift_lets
    | (with_reducible first | apply State.securityEvent_keeps | apply State.setFw_keeps | apply State.Keeps.ite | apply State.Keeps.ite_fst)
    | (with_reducible exact State.Keeps.mk_of (by assumption)) | (fail_if_no_progress (with_reducible refine State.Keeps.mk_of ?_)) | split

theorem State.startFw_keeps {s₀ s : State} (h : State.Keeps s₀ s) (f : Nat) : State.Keeps s₀ (State.startFw s f) := by
  unfold State.startFw
  repeat' first
    | (with_reducible assumption) | (intro x; clear_value x) | lift_lets
    | (with_reducible first | apply State.notStarted_keeps | apply State.setN_keeps | apply State.takeImage_keeps | apply State.Keeps.ite | apply State.Keeps.ite_fst)
    | (with_reducible exact State.Keeps.mk_of (by assumption)) | (fail_if_no_progress (with_reducible refine State.Keeps.mk_of ?_)) | split
    | (refine State.Keeps.of_fst (by assumption) ?_)

theorem State.logEvent_keeps {s₀ s : State} (h : State.Keeps s₀ s) (f comp severity : Nat) : State.Keeps s₀ (State.logEvent s f comp severity) := by
  unfold State.logEvent
  repeat' first
    | (with_reducible assumption) | (intro x; (with_reducible refine State.Keeps.cut (s₀ := s₀) (x := x) ?_ ?_) <;> [subst x; (clear_value x; intro hx)])
    | (intro x; clear_value x) | lift_lets
    | (with_reducible first | apply State.orObj_keeps | apply State.tookFree_keeps | apply State.wr_keeps | apply State.wrN_keeps | apply State.Keeps.ite)

theorem execComponentFault_keeps {s₀ s : State} (h : State.Keeps s₀ s) (f : Fin 7) (comp cause : Word16) : KeepsRes s₀ (execComponentFault f comp cause s) := by
  unfold execComponentFault
  repeat' first
    | (with_reducible assumption) | (intro x; (with_reducible refine State.Keeps.cut (s₀ := s₀) (x := x) ?_ ?_) <;> [subst x; (clear_value x; intro hx)])
    | (intro x; clear_value x) | lift_lets
    | (with_reducible first | apply State.count_keeps | apply State.logEvent_keeps | apply State.setFw_keeps | apply State.setN_keeps | apply State.strataEvent_keeps | apply State.Keeps.ite | apply State.Keeps.ite_fst | apply KeepsRes.ite | apply KeepsRes.next)

theorem State.beginRestart_keeps {s₀ s : State} (h : State.Keeps s₀ s) (f : Nat) (announced : Bool) : State.Keeps s₀ (State.beginRestart s f announced) := by
  unfold State.beginRestart
  repeat' first
    | (with_reducible assumption) | (intro x; (with_reducible refine State.Keeps.cut (s₀ := s₀) (x := x) ?_ ?_) <;> [subst x; (clear_value x; intro hx)])
    | (intro x; clear_value x) | lift_lets
    | (with_reducible first | apply State.count_keeps | apply State.setFw_keeps | apply State.setN_keeps | apply State.strataEvent_keeps | apply State.Keeps.ite | apply State.Keeps.ite_fst)
    | (with_reducible exact State.Keeps.mk_of (by assumption))

theorem State.schedStarted_keeps {s₀ s : State} (h : State.Keeps s₀ s)  : State.Keeps s₀ (State.schedStarted s) := by
  unfold State.schedStarted
  repeat' first
    | (with_reducible assumption) | (intro x; (with_reducible refine State.Keeps.cut (s₀ := s₀) (x := x) ?_ ?_) <;> [subst x; (clear_value x; intro hx)]) | lift_lets
    | (with_reducible first | apply State.issueHeld_keeps | apply State.setN_keeps | apply State.Keeps.ite)
    | (with_reducible refine State.forEach_keeps ?_ _ _ (fun t x ht => ?_))

theorem State.endRestart_keeps {s₀ s : State} (h : State.Keeps s₀ s) (f : Nat) : State.Keeps s₀ (State.endRestart s f) := by
  unfold State.endRestart
  repeat' first
    | (with_reducible assumption) | (intro x; (with_reducible refine State.Keeps.cut (s₀ := s₀) (x := x) ?_ ?_) <;> [subst x; (clear_value x; intro hx)]) | lift_lets
    | (with_reducible first | apply State.schedStarted_keeps | apply State.startFw_keeps | apply State.Keeps.ite)

theorem execProcessorRestart_keeps {s₀ s : State} (h : State.Keeps s₀ s) (f : Fin 7) (phase : RestartPhase) : KeepsRes s₀ (execProcessorRestart f phase s) := by
  unfold execProcessorRestart
  repeat' first
    | (with_reducible assumption) | lift_lets
    | (with_reducible first | apply State.beginRestart_keeps | apply State.endRestart_keeps | apply State.Keeps.ite | apply State.Keeps.ite_fst | apply KeepsRes.ite | apply KeepsRes.next | apply KeepsRes.fault)
    | (with_reducible exact State.Keeps.mk_of (by assumption)) | (fail_if_no_progress (with_reducible refine State.Keeps.mk_of ?_)) | split

theorem State.writeFwRestart_keeps {s₀ s : State} (h : State.Keeps s₀ s) (f : Nat) : State.Keeps s₀ (State.writeFwRestart s f) := by
  unfold State.writeFwRestart
  repeat' first
    | (with_reducible assumption) | lift_lets | (with_reducible first | apply State.beginRestart_keeps | apply State.Keeps.ite)

theorem execFwRestart_keeps {s₀ s : State} (h : State.Keeps s₀ s) (src : Src) (f : Fin 7) (v : Word64) : KeepsRes s₀ (execFwRestart src f v s) := by
  unfold execFwRestart
  repeat' first
    | (with_reducible assumption) | lift_lets
    | (with_reducible first | apply State.writeFwRestart_keeps | apply State.Keeps.ite | apply State.Keeps.ite_fst | apply KeepsRes.ite | apply KeepsRes.next | apply KeepsRes.fault | apply KeepsEx.ite | apply KeepsEx.ok)
    | (with_reducible refine State.command_keeps ?_ _ _ _ _ _ (fun r t ht => ?_))

theorem State.fwUpdate_keeps {s₀ s : State} (h : State.Keeps s₀ s) (block : List Byte) (flashOk : Bool) : State.Keeps s₀ (State.fwUpdate s block flashOk).1 := by
  unfold State.fwUpdate
  repeat' first
    | (with_reducible assumption) | (intro x; (with_reducible refine State.Keeps.cut (s₀ := s₀) (x := x) ?_ ?_) <;> [subst x; (clear_value x; intro hx)])
    | (intro x; clear_value x) | lift_lets
    | (with_reducible first | apply State.securityEvent_keeps | apply State.tookFree_keeps | apply State.wr_keeps | apply State.Keeps.ite | apply State.Keeps.ite_fst)
    | (with_reducible refine State.forEach_keeps ?_ _ _ (fun t x ht => ?_)) | (with_reducible exact State.Keeps.mk_of (by assumption))
    | (fail_if_no_progress (with_reducible refine State.Keeps.mk_of ?_)) | split

end Sys2Proof.Machine
end

