-- ==== Sys2Proof/Laws/KeepStore.lean ====
section
/-! SUPPORT. What the operations of Machine/Store.lean keep (Laws/Keeps.lean). -/

namespace Sys2Proof.Machine

theorem State.storeStart_keeps {s₀ s : State} (h : State.Keeps s₀ s)  : KeepsEx s₀ (State.storeStart s) := by
  unfold State.storeStart
  repeat' first
    | (with_reducible assumption) | (intro x; (with_reducible refine State.Keeps.cut (s₀ := s₀) (x := x) ?_ ?_) <;> [subst x; (clear_value x; intro hx)])
    | (intro x; clear_value x) | lift_lets
    | (with_reducible first | apply State.setN_keeps | apply State.tookFree_keeps | apply State.Keeps.ite | apply State.Keeps.ite_fst | apply KeepsEx.ite | apply KeepsEx.ok | apply KeepsEx.error | apply KeepsEx.pure | apply KeepsEx.throw)
    | (with_reducible refine KeepsEx.map (fun t ht => ?_)) | (with_reducible exact State.Keeps.mk_of (by assumption))

theorem execStore_keeps {s₀ s : State} (h : State.Keeps s₀ s) (src : Src) (v : Word64) : KeepsRes s₀ (execStore src v s) := by
  unfold execStore
  repeat' first
    | (with_reducible assumption) | lift_lets | (with_reducible apply State.storeStart_keeps) | (with_reducible refine State.command_keeps ?_ _ _ _ _ _ (fun r t ht => ?_))

theorem execStoreWriteEnd_keeps {s₀ s : State} (h : State.Keeps s₀ s) (flashOk : Bool) : KeepsRes s₀ (execStoreWriteEnd flashOk s) := by
  unfold execStoreWriteEnd
  repeat' first
    | (with_reducible assumption) | (intro x; (with_reducible refine State.Keeps.cut (s₀ := s₀) (x := x) ?_ ?_) <;> [subst x; (clear_value x; intro hx)])
    | (intro x; clear_value x) | lift_lets
    | (with_reducible first | apply State.orObj_keeps | apply State.setN_keeps | apply State.tookFree_keeps | apply State.wr_keeps | apply State.Keeps.ite | apply State.Keeps.ite_fst | apply KeepsRes.ite | apply KeepsRes.next | apply KeepsRes.fault)
    | (with_reducible exact State.Keeps.mk_of (by assumption)) | (fail_if_no_progress (with_reducible refine State.Keeps.mk_of ?_)) | split

theorem State.loadRecord_keeps {s₀ s : State} (h : State.Keeps s₀ s) (r : Rec) : State.Keeps s₀ (State.loadRecord s r) := by
  unfold State.loadRecord
  repeat' first
    | (with_reducible assumption) | lift_lets
    | (with_reducible first | apply State.countSat_keeps | apply State.putRecord_keeps | apply State.Keeps.ite | apply State.Keeps.ite_fst)
    | (with_reducible exact State.Keeps.mk_of (by assumption)) | (fail_if_no_progress (with_reducible refine State.Keeps.mk_of ?_)) | split

theorem State.loadCadence_keeps {s₀ s : State} (h : State.Keeps s₀ s)  : State.Keeps s₀ (State.loadCadence s) := by
  unfold State.loadCadence
  repeat' first
    | (with_reducible assumption) | lift_lets | (with_reducible first | apply State.countSat_keeps | apply State.setObj_keeps | apply State.Keeps.ite)
    | (with_reducible refine State.forEach_keeps ?_ _ _ (fun t x ht => ?_))

theorem State.openStore_keeps {s₀ s : State} (h : State.Keeps s₀ s)  : State.Keeps s₀ (State.openStore s) := by
  unfold State.openStore
  repeat' first
    | (with_reducible assumption) | (intro x; (with_reducible refine State.Keeps.cut (s₀ := s₀) (x := x) ?_ ?_) <;> [subst x; (clear_value x; intro hx)]) | lift_lets
    | (with_reducible first | apply State.loadCadence_keeps | apply State.loadRecord_keeps | apply State.orObj_keeps | apply State.setN_keeps | apply State.Keeps.ite | apply State.Keeps.ite_fst)
    | (with_reducible refine State.forEach_keeps ?_ _ _ (fun t x ht => ?_)) | (with_reducible exact State.Keeps.mk_of (by assumption))
    | (fail_if_no_progress (with_reducible refine State.Keeps.mk_of ?_)) | split

end Sys2Proof.Machine
end

