-- ==== Sys2Proof/Laws/KeepWorlds.lean ====
section
/-! SUPPORT. What the operations of Machine/Worlds.lean keep (Laws/Keeps.lean). -/

namespace Sys2Proof.Machine

theorem State.deriveWorlds_keeps {s₀ s : State} (h : State.Keeps s₀ s)  : State.Keeps s₀ (State.deriveWorlds s) := by
  unfold State.deriveWorlds
  repeat' first
    | (with_reducible assumption) | (intro x; (with_reducible refine State.Keeps.cut (s₀ := s₀) (x := x) ?_ ?_) <;> [subst x; (clear_value x; intro hx)])
    | (intro x; refine State.Keeps.fn x ?_; subst x) | (intro x; clear_value x) | lift_lets | (with_reducible first | apply State.setDom_keeps | apply State.setN_keeps)
    | (with_reducible refine State.forEach_keeps ?_ _ _ (fun t x ht => ?_))

theorem State.setHost_keeps {s₀ s : State} (h : State.Keeps s₀ s) (h : Nat) (x : HostSt) : State.Keeps s₀ (State.setHost s h x) := by
  unfold State.setHost
  repeat' first
    | (with_reducible assumption) | lift_lets | (with_reducible first | apply State.Keeps.ite | apply State.Keeps.ite_fst)
    | (with_reducible exact State.Keeps.mk_of (by assumption))

theorem execMret_keeps {s₀ s : State} (h : State.Keeps s₀ s) (h : Fin 12) : KeepsRes s₀ (execMret h s) := by
  unfold execMret
  repeat' first
    | (with_reducible assumption) | (intro x; (with_reducible refine State.Keeps.cut (s₀ := s₀) (x := x) ?_ ?_) <;> [subst x; (clear_value x; intro hx)])
    | (intro x; clear_value x) | lift_lets
    | (with_reducible first | apply State.setHost_keeps | apply State.setObj_keeps | apply State.Keeps.ite | apply State.Keeps.ite_fst | apply KeepsRes.ite | apply KeepsRes.next)

theorem execXworldWrite_keeps {s₀ s : State} (h : State.Keeps s₀ s) (h : Fin 12) (mode : Mode) (v : Word64) : KeepsRes s₀ (execXworldWrite h mode v s) := by
  unfold execXworldWrite
  repeat' first
    | (with_reducible assumption) | (intro x; clear_value x) | lift_lets
    | (with_reducible first | apply State.emit_keeps | apply State.setHost_keeps | apply State.Keeps.ite | apply State.Keeps.ite_fst | apply KeepsRes.ite | apply KeepsRes.next | apply KeepsRes.fault)
    | (with_reducible exact State.Keeps.mk_of (by assumption)) | (fail_if_no_progress (with_reducible refine State.Keeps.mk_of ?_)) | split

theorem State.startHost_keeps {s₀ s : State} (h : State.Keeps s₀ s) (h : Nat) (pc : Word64) (secure : Bool) (a0 a1 : Nat) : State.Keeps s₀ (State.startHost s h pc secure a0 a1) := by
  unfold State.startHost
  repeat' first
    | (with_reducible assumption) | (intro x; clear_value x) | lift_lets | (with_reducible first | apply State.setHost_keeps | apply State.setObj_keeps)

theorem State.writeHostRelease_keeps {s₀ s : State} (h : State.Keeps s₀ s) (v : Word64) : State.Keeps s₀ (State.writeHostRelease s v) := by
  unfold State.writeHostRelease
  repeat' first
    | (with_reducible assumption) | (intro x; (with_reducible refine State.Keeps.cut (s₀ := s₀) (x := x) ?_ ?_) <;> [subst x; (clear_value x; intro hx)]) | lift_lets
    | (with_reducible first | apply State.setObj_keeps | apply State.startHost_keeps | apply State.tookFree_keeps | apply State.Keeps.ite)
    | (with_reducible refine State.forEach_keeps ?_ _ _ (fun t x ht => ?_))

theorem execHostRelease_keeps {s₀ s : State} (h : State.Keeps s₀ s) (src : Src) (v : Word64) : KeepsRes s₀ (execHostRelease src v s) := by
  unfold execHostRelease
  repeat' first
    | (with_reducible assumption) | lift_lets
    | (with_reducible first | apply State.writeHostRelease_keeps | apply State.Keeps.ite | apply State.Keeps.ite_fst | apply KeepsRes.ite | apply KeepsRes.next | apply KeepsRes.fault | apply KeepsEx.ite | apply KeepsEx.ok)
    | (with_reducible refine State.command_keeps ?_ _ _ _ _ _ (fun r t ht => ?_))

theorem State.writeRollback_keeps {s₀ s : State} (h : State.Keeps s₀ s) (v : Word64) : KeepsEx s₀ (State.writeRollback s v) := by
  unfold State.writeRollback
  repeat' first
    | (with_reducible assumption) | (intro x; (with_reducible refine State.Keeps.cut (s₀ := s₀) (x := x) ?_ ?_) <;> [subst x; (clear_value x; intro hx)]) | lift_lets
    | (with_reducible first | apply State.setN_keeps | apply State.storeStart_keeps | apply State.Keeps.ite)
    | (with_reducible refine State.forEach_keeps ?_ _ _ (fun t x ht => ?_))

theorem execRollbackCommit_keeps {s₀ s : State} (h : State.Keeps s₀ s) (src : Src) (v : Word64) : KeepsRes s₀ (execRollbackCommit src v s) := by
  unfold execRollbackCommit
  repeat' first
    | (with_reducible assumption) | lift_lets | (with_reducible apply State.writeRollback_keeps)
    | (with_reducible refine State.command_keeps ?_ _ _ _ _ _ (fun r t ht => ?_))

theorem State.attest_keeps {s₀ s : State} (h : State.Keeps s₀ s) (c : Ctx) : KeepsEx s₀ (State.attest s c) := by
  unfold State.attest
  repeat' first
    | (with_reducible assumption) | (intro x; (with_reducible refine State.Keeps.cut (s₀ := s₀) (x := x) ?_ ?_) <;> [subst x; (clear_value x; intro hx)])
    | (intro x; clear_value x) | lift_lets
    | (with_reducible first | apply State.setDom_keeps | apply State.tookFree_keeps | apply State.Keeps.ite | apply State.Keeps.ite_fst | apply KeepsEx.ite | apply KeepsEx.ok | apply KeepsEx.error | apply KeepsEx.pure | apply KeepsEx.throw)
    | (with_reducible refine KeepsEx.map (fun t ht => ?_)) | (with_reducible exact State.Keeps.mk_of (by assumption))

theorem execAttestationRead_keeps {s₀ s : State} (h : State.Keeps s₀ s) (src : Src) : KeepsRes s₀ (execAttestationRead src s) := by
  unfold execAttestationRead
  repeat' first
    | (with_reducible assumption) | lift_lets
    | (with_reducible first | apply State.attest_keeps | apply State.emit_keeps | apply State.Keeps.ite | apply State.Keeps.ite_fst | apply KeepsRes.ite | apply KeepsRes.next | apply KeepsRes.fault)
    | (with_reducible exact State.Keeps.mk_of (by assumption)) | (fail_if_no_progress (with_reducible refine State.Keeps.mk_of ?_)) | split
    | (refine State.Keeps.of_fst (by assumption) ?_) | (refine KeepsEx.elim (by assumption) ?_)

theorem execFwUpdate_keeps {s₀ s : State} (h : State.Keeps s₀ s) (src : Src) (block : List Byte) (flashOk : Bool) : KeepsRes s₀ (execFwUpdate src block flashOk s) := by
  unfold execFwUpdate
  repeat' first
    | (with_reducible assumption) | lift_lets
    | (with_reducible first | apply State.emit_keeps | apply State.fwUpdate_keeps | apply State.Keeps.ite | apply State.Keeps.ite_fst | apply KeepsRes.ite | apply KeepsRes.next | apply KeepsRes.fault)
    | (with_reducible exact State.Keeps.mk_of (by assumption)) | (fail_if_no_progress (with_reducible refine State.Keeps.mk_of ?_)) | split
    | (refine State.Keeps.of_fst (by assumption) ?_)

end Sys2Proof.Machine
end

