-- ==== Sys2Proof/Laws/KeepIsland.lean ====
section
/-! SUPPORT. What the operations of Machine/Island.lean keep (Laws/Keeps.lean). -/

namespace Sys2Proof.Machine

theorem State.writeSafeRequest_keeps {s₀ s : State} (h : State.Keeps s₀ s)  : State.Keeps s₀ (State.writeSafeRequest s) := by
  unfold State.writeSafeRequest
  repeat' first
    | (with_reducible assumption) | lift_lets | (with_reducible apply State.safeTrigger_keeps)

theorem execSafeRequest_keeps {s₀ s : State} (h : State.Keeps s₀ s) (src : Src) (v : Word64) : KeepsRes s₀ (execSafeRequest src v s) := by
  unfold execSafeRequest
  repeat' first
    | (with_reducible assumption) | lift_lets
    | (with_reducible first | apply State.writeSafeRequest_keeps | apply State.Keeps.ite | apply State.Keeps.ite_fst | apply KeepsRes.ite | apply KeepsRes.next | apply KeepsRes.fault | apply KeepsEx.ite | apply KeepsEx.ok)
    | (with_reducible refine State.command_keeps ?_ _ _ _ _ _ (fun r t ht => ?_))

theorem State.writeSafeExit_keeps {s₀ s : State} (h : State.Keeps s₀ s)  : KeepsEx s₀ (State.writeSafeExit s) := by
  unfold State.writeSafeExit
  repeat' first
    | (with_reducible assumption) | (intro x; (with_reducible refine State.Keeps.cut (s₀ := s₀) (x := x) ?_ ?_) <;> [subst x; (clear_value x; intro hx)])
    | (intro x; clear_value x) | lift_lets
    | (with_reducible first | apply State.orObj_keeps | apply State.safetyNotice_keeps | apply State.setN_keeps | apply State.strataEvent_keeps | apply State.Keeps.ite | apply State.Keeps.ite_fst | apply KeepsEx.ite | apply KeepsEx.ok | apply KeepsEx.error | apply KeepsEx.pure | apply KeepsEx.throw)
    | (with_reducible refine KeepsEx.map (fun t ht => ?_)) | (with_reducible exact State.Keeps.mk_of (by assumption))

theorem execSafeExit_keeps {s₀ s : State} (h : State.Keeps s₀ s) (src : Src) (v : Word64) : KeepsRes s₀ (execSafeExit src v s) := by
  unfold execSafeExit
  repeat' first
    | (with_reducible assumption) | lift_lets | (with_reducible apply State.writeSafeExit_keeps)
    | (with_reducible refine State.command_keeps ?_ _ _ _ _ _ (fun r t ht => ?_))

theorem execNoticeRepeat_keeps {s₀ s : State} (h : State.Keeps s₀ s)  : KeepsRes s₀ (execNoticeRepeat s) := by
  unfold execNoticeRepeat
  repeat' first
    | (with_reducible assumption) | lift_lets
    | (with_reducible first | apply State.safetyNotice_keeps | apply State.Keeps.ite | apply State.Keeps.ite_fst | apply KeepsRes.ite | apply KeepsRes.next | apply KeepsRes.fault)
    | (with_reducible exact State.Keeps.mk_of (by assumption))

theorem execGraniteHeartbeat_keeps {s₀ s : State} (h : State.Keeps s₀ s)  : KeepsRes s₀ (execGraniteHeartbeat s) := by
  unfold execGraniteHeartbeat
  repeat' first
    | (with_reducible assumption) | lift_lets
    | (with_reducible first | apply State.Keeps.ite | apply State.Keeps.ite_fst | apply KeepsRes.ite | apply KeepsRes.next | apply KeepsRes.fault)
    | (with_reducible exact State.Keeps.mk_of (by assumption))

theorem execIslandWatchdogExpiry_keeps {s₀ s : State} (h : State.Keeps s₀ s)  : KeepsRes s₀ (execIslandWatchdogExpiry s) := by
  unfold execIslandWatchdogExpiry
  repeat' first
    | (with_reducible assumption) | lift_lets
    | (with_reducible first | apply State.safeTrigger_keeps | apply State.Keeps.ite | apply State.Keeps.ite_fst | apply KeepsRes.ite | apply KeepsRes.next | apply KeepsRes.fault)
    | (with_reducible exact State.Keeps.mk_of (by assumption)) | (fail_if_no_progress (with_reducible refine State.Keeps.mk_of ?_)) | split

theorem execIslandHwWatchdogExpiry_keeps {s₀ s : State} (h : State.Keeps s₀ s)  : KeepsRes s₀ (execIslandHwWatchdogExpiry s) := by
  unfold execIslandHwWatchdogExpiry
  repeat' first
    | (with_reducible assumption) | lift_lets
    | (with_reducible first | apply State.safeTrigger_keeps | apply State.tookFree_keeps | apply State.Keeps.ite | apply State.Keeps.ite_fst | apply KeepsRes.ite | apply KeepsRes.next)

theorem execTimebaseCrossCheck_keeps {s₀ s : State} (h : State.Keeps s₀ s) (diffNs : Nat) : KeepsRes s₀ (execTimebaseCrossCheck diffNs s) := by
  unfold execTimebaseCrossCheck
  repeat' first
    | (with_reducible assumption) | lift_lets
    | (with_reducible first | apply State.safeTrigger_keeps | apply State.Keeps.ite | apply State.Keeps.ite_fst | apply KeepsRes.ite | apply KeepsRes.next)

theorem execClockMonitorFault_keeps {s₀ s : State} (h : State.Keeps s₀ s) (clk : Fin 3) (ppm : Option Nat) : KeepsRes s₀ (execClockMonitorFault clk ppm s) := by
  unfold execClockMonitorFault
  repeat' first
    | (with_reducible assumption) | (intro x; clear_value x) | lift_lets
    | (with_reducible first | apply State.safeTrigger_keeps | apply State.Keeps.ite | apply State.Keeps.ite_fst | apply KeepsRes.ite | apply KeepsRes.next)

theorem State.writeSelftest_keeps {s₀ s : State} (h : State.Keeps s₀ s) (v : Word64) : KeepsEx s₀ (State.writeSelftest s v) := by
  unfold State.writeSelftest
  repeat' first
    | (with_reducible assumption) | (intro x; clear_value x) | lift_lets
    | (with_reducible first | apply State.setN_keeps | apply State.Keeps.ite | apply State.Keeps.ite_fst | apply KeepsEx.ite | apply KeepsEx.ok | apply KeepsEx.error | apply KeepsEx.pure | apply KeepsEx.throw)
    | (with_reducible refine KeepsEx.map (fun t ht => ?_)) | (with_reducible exact State.Keeps.mk_of (by assumption))

theorem execSelftestRequest_keeps {s₀ s : State} (h : State.Keeps s₀ s) (src : Src) (v : Word64) : KeepsRes s₀ (execSelftestRequest src v s) := by
  unfold execSelftestRequest
  repeat' first
    | (with_reducible assumption) | lift_lets | (with_reducible apply State.writeSelftest_keeps)
    | (with_reducible refine State.command_keeps ?_ _ _ _ _ _ (fun r t ht => ?_))

theorem State.endSelftest_keeps {s₀ s : State} (h : State.Keeps s₀ s) (failing : Nat) : State.Keeps s₀ (State.endSelftest s failing) := by
  unfold State.endSelftest
  repeat' first
    | (with_reducible assumption) | lift_lets | (with_reducible first | apply State.setN_keeps | apply State.Keeps.ite | apply State.Keeps.ite_fst)
    | (with_reducible exact State.Keeps.mk_of (by assumption)) | (fail_if_no_progress (with_reducible refine State.Keeps.mk_of ?_)) | split

theorem State.testCore_keeps {s₀ s : State} (h : State.Keeps s₀ s) (n : Nat) : State.Keeps s₀ (State.testCore s n) := by
  unfold State.testCore
  repeat' first
    | (with_reducible assumption) | (intro x; clear_value x) | lift_lets
    | (with_reducible first | apply State.grantCore_keeps | apply State.saveCore_keeps | apply State.scrubCore_keeps | apply State.setN_keeps | apply State.Keeps.ite)

theorem State.chunkResult_keeps {s₀ s : State} (h : State.Keeps s₀ s) (c : Chunk) (requested : Bool) : State.Keeps s₀ (State.chunkResult s c requested) := by
  unfold State.chunkResult
  repeat' first
    | (with_reducible assumption) | (intro x; (with_reducible refine State.Keeps.cut (s₀ := s₀) (x := x) ?_ ?_) <;> [subst x; (clear_value x; intro hx)])
    | (intro x; clear_value x) | lift_lets
    | (with_reducible first | apply State.endSelftest_keeps | apply State.safeTrigger_keeps | apply State.setN_keeps | apply State.setObj_keeps | apply State.Keeps.ite | apply State.Keeps.ite_fst)
    | (with_reducible exact State.Keeps.mk_of (by assumption)) | (fail_if_no_progress (with_reducible refine State.Keeps.mk_of ?_)) | split

theorem State.runChunks_keeps {s₀ s : State} (h : State.Keeps s₀ s) (stop t : Nat) (l : List Chunk) : State.Keeps s₀ (State.runChunks s stop t l) := by
  induction l generalizing s t with
  | nil => exact h
  | cons c l ih =>
    unfold State.runChunks
    split
    · exact ih (State.chunkResult_keeps (State.testCore_keeps h _) _ _) _
    · exact ih (State.count_keeps h _ _ _) _

theorem State.plainRequests_keeps {s₀ s : State} (h : State.Keeps s₀ s)  : State.Keeps s₀ (State.plainRequests s) := by
  unfold State.plainRequests
  repeat' first
    | (with_reducible assumption) | lift_lets
    | (with_reducible first | apply State.endSelftest_keeps | apply State.setN_keeps | apply State.Keeps.ite | apply State.Keeps.ite_fst)
    | (with_reducible exact State.Keeps.mk_of (by assumption)) | (fail_if_no_progress (with_reducible refine State.Keeps.mk_of ?_)) | split

theorem execServiceSlot_keeps {s₀ s : State} (h : State.Keeps s₀ s) (e : Fin 1024) (chunks : List Chunk) : KeepsRes s₀ (execServiceSlot e chunks s) := by
  unfold execServiceSlot
  repeat' first
    | (with_reducible assumption) | lift_lets
    | (with_reducible first | apply State.count_keeps | apply State.fire_keeps | apply State.plainRequests_keeps | apply State.runChunks_keeps | apply State.Keeps.ite | apply State.Keeps.ite_fst | apply KeepsRes.ite | apply KeepsRes.next | apply KeepsRes.fault | apply KeepsOptP.getD)
    | (with_reducible exact State.Keeps.mk_of (by assumption)) | (fail_if_no_progress (with_reducible refine State.Keeps.mk_of ?_)) | split
    | (refine State.Keeps.of_fst (by assumption) ?_) | (refine KeepsEx.elim (by assumption) ?_) | (refine KeepsExP.elim (by assumption) ?_)
    | (refine KeepsExW.elim (by assumption) ?_) | (refine KeepsOptP.elim (by assumption) ?_) | (refine KeepsOpt.elim (by assumption) ?_)
    | (refine KeepsRes.elim (by assumption) ?_) | (refine KeepsOpt.elim_fst (by assumption) ?_) | (dsimp only)

theorem execDtiExpiry_keeps {s₀ s : State} (h : State.Keeps s₀ s)  : KeepsRes s₀ (execDtiExpiry s) := by
  unfold execDtiExpiry
  repeat' first
    | (with_reducible assumption) | (intro x; (with_reducible refine State.Keeps.cut (s₀ := s₀) (x := x) ?_ ?_) <;> [subst x; (clear_value x; intro hx)])
    | (intro x; clear_value x) | lift_lets
    | (with_reducible first | apply State.count_keeps | apply State.orObj_keeps | apply State.safetyNotice_keeps | apply State.strataEvent_keeps | apply State.tookFree_keeps | apply State.Keeps.ite | apply State.Keeps.ite_fst | apply KeepsRes.ite | apply KeepsRes.next | apply KeepsRes.fault)
    | (with_reducible exact State.Keeps.mk_of (by assumption))

theorem execGoldenLate_keeps {s₀ s : State} (h : State.Keeps s₀ s) (j : Fin 8) : KeepsRes s₀ (execGoldenLate j s) := by
  unfold execGoldenLate
  repeat' first
    | (with_reducible assumption) | (intro x; clear_value x) | lift_lets
    | (with_reducible first | apply State.goldenEvent_keeps | apply State.setGolden_keeps | apply State.Keeps.ite | apply State.Keeps.ite_fst | apply KeepsRes.ite | apply KeepsRes.next)

theorem execStrataTrigger_keeps {s₀ s : State} (h : State.Keeps s₀ s) (src : Src) (v : Word64) : KeepsRes s₀ (execStrataTrigger src v s) := by
  unfold execStrataTrigger
  repeat' first
    | (with_reducible assumption) | lift_lets
    | (with_reducible first | apply State.strataEvent_keeps | apply State.Keeps.ite | apply State.Keeps.ite_fst | apply KeepsRes.ite | apply KeepsRes.next | apply KeepsRes.fault | apply KeepsEx.ite | apply KeepsEx.ok)
    | (with_reducible refine State.command_keeps ?_ _ _ _ _ _ (fun r t ht => ?_))

theorem State.strataHeader_keeps {s₀ s : State} (h : State.Keeps s₀ s)  : State.Keeps s₀ (State.strataHeader s) := by
  unfold State.strataHeader
  repeat' first
    | (with_reducible assumption) | (intro x; (with_reducible refine State.Keeps.cut (s₀ := s₀) (x := x) ?_ ?_) <;> [subst x; (clear_value x; intro hx)]) | lift_lets
    | (with_reducible first | apply State.wr_keeps | apply State.wrN_keeps)

theorem State.putRecordSlot_keeps {s₀ s : State} (h : State.Keeps s₀ s) (a : Nat) (body : List Byte) : State.Keeps s₀ (State.putRecordSlot s a body) := by
  unfold State.putRecordSlot
  repeat' first
    | (with_reducible assumption) | lift_lets | (with_reducible apply State.wr_keeps)

theorem State.writeRecord_keeps {s₀ s : State} (h : State.Keeps s₀ s)  : State.Keeps s₀ (State.writeRecord s) := by
  unfold State.writeRecord
  repeat' first
    | (with_reducible assumption) | (intro x; (with_reducible refine State.Keeps.cut (s₀ := s₀) (x := x) ?_ ?_) <;> [subst x; (clear_value x; intro hx)]) | lift_lets
    | (with_reducible first | apply State.orObj_keeps | apply State.putRecordSlot_keeps | apply State.strataHeader_keeps | apply State.Keeps.ite | apply State.Keeps.ite_fst)
    | (with_reducible exact State.Keeps.mk_of (by assumption)) | (fail_if_no_progress (with_reducible refine State.Keeps.mk_of ?_)) | split

theorem State.copyHeldGo_keeps {s₀ s : State} (h : State.Keeps s₀ s)  : State.Keeps s₀ (State.copyHeldGo s) := by
  unfold State.copyHeldGo
  repeat' first
    | (with_reducible assumption) | lift_lets | (with_reducible first | apply State.startCopy_keeps | apply State.Keeps.ite)

theorem execStrataRecordWrite_keeps {s₀ s : State} (h : State.Keeps s₀ s)  : KeepsRes s₀ (execStrataRecordWrite s) := by
  unfold execStrataRecordWrite
  repeat' first
    | (with_reducible assumption) | lift_lets
    | (with_reducible first | apply State.copyHeldGo_keeps | apply State.writeRecord_keeps | apply State.Keeps.ite | apply State.Keeps.ite_fst | apply KeepsRes.ite | apply KeepsRes.next)

theorem State.writeStrataClear_keeps {s₀ s : State} (h : State.Keeps s₀ s)  : State.Keeps s₀ (State.writeStrataClear s) := by
  unfold State.writeStrataClear
  repeat' first
    | (with_reducible assumption) | (intro x; (with_reducible refine State.Keeps.cut (s₀ := s₀) (x := x) ?_ ?_) <;> [subst x; (clear_value x; intro hx)]) | lift_lets
    | (with_reducible first | apply State.setN_keeps | apply State.strataEvent_keeps | apply State.strataHeader_keeps | apply State.wrN_keeps)

theorem execStrataClear_keeps {s₀ s : State} (h : State.Keeps s₀ s) (src : Src) (v : Word64) : KeepsRes s₀ (execStrataClear src v s) := by
  unfold execStrataClear
  repeat' first
    | (with_reducible assumption) | lift_lets
    | (with_reducible first | apply State.writeStrataClear_keeps | apply State.Keeps.ite | apply State.Keeps.ite_fst | apply KeepsRes.ite | apply KeepsRes.next | apply KeepsRes.fault | apply KeepsEx.ite | apply KeepsEx.ok)
    | (with_reducible refine State.command_keeps ?_ _ _ _ _ _ (fun r t ht => ?_))

theorem State.writeCopyout_keeps {s₀ s : State} (h : State.Keeps s₀ s)  : KeepsEx s₀ (State.writeCopyout s) := by
  unfold State.writeCopyout
  repeat' first
    | (with_reducible assumption) | lift_lets
    | (with_reducible first | apply State.startCopy_keeps | apply State.Keeps.ite | apply State.Keeps.ite_fst | apply KeepsEx.ite | apply KeepsEx.ok | apply KeepsEx.error | apply KeepsEx.pure | apply KeepsEx.throw)
    | (with_reducible refine KeepsEx.map (fun t ht => ?_)) | (with_reducible exact State.Keeps.mk_of (by assumption))

theorem execCopyout_keeps {s₀ s : State} (h : State.Keeps s₀ s) (src : Src) (v : Word64) : KeepsRes s₀ (execCopyout src v s) := by
  unfold execCopyout
  repeat' first
    | (with_reducible assumption) | lift_lets | (with_reducible apply State.writeCopyout_keeps) | (with_reducible refine State.command_keeps ?_ _ _ _ _ _ (fun r t ht => ?_))

theorem State.writeCopySlot_keeps {s₀ s : State} (h : State.Keeps s₀ s) (j : CopyJob) : State.Keeps s₀ (State.writeCopySlot s j) := by
  unfold State.writeCopySlot
  repeat' first
    | (with_reducible assumption) | (intro x; (with_reducible refine State.Keeps.cut (s₀ := s₀) (x := x) ?_ ?_) <;> [subst x; (clear_value x; intro hx)])
    | (intro x; clear_value x) | lift_lets | (with_reducible first | apply State.putByte_keeps | apply State.wrN_keeps | apply State.zeroRange_keeps)
    | (with_reducible refine State.forEach_keeps ?_ _ _ (fun t x ht => ?_))

theorem State.endCopy_keeps {s₀ s : State} (h : State.Keeps s₀ s) (j : CopyJob) (ok : Bool) : State.Keeps s₀ (State.endCopy s j ok) := by
  unfold State.endCopy
  repeat' first
    | (with_reducible assumption) | (intro x; (with_reducible refine State.Keeps.cut (s₀ := s₀) (x := x) ?_ ?_) <;> [subst x; (clear_value x; intro hx)]) | lift_lets
    | (with_reducible first | apply State.setN_keeps | apply State.tookFree_keeps | apply State.wr_keeps | apply State.writeCopySlot_keeps | apply State.Keeps.ite | apply State.Keeps.ite_fst)
    | (with_reducible exact State.Keeps.mk_of (by assumption))

theorem execCopyoutEnd_keeps {s₀ s : State} (h : State.Keeps s₀ s) (ok : Bool) : KeepsRes s₀ (execCopyoutEnd ok s) := by
  unfold execCopyoutEnd
  repeat' first
    | (with_reducible assumption) | lift_lets
    | (with_reducible first | apply State.copyHeldGo_keeps | apply State.endCopy_keeps | apply State.Keeps.ite | apply State.Keeps.ite_fst | apply KeepsRes.ite | apply KeepsRes.next | apply KeepsRes.fault)
    | (with_reducible exact State.Keeps.mk_of (by assumption)) | (fail_if_no_progress (with_reducible refine State.Keeps.mk_of ?_)) | split

theorem State.strataRestore_keeps {s₀ s : State} (h : State.Keeps s₀ s)  : State.Keeps s₀ (State.strataRestore s) := by
  unfold State.strataRestore
  repeat' first
    | (with_reducible assumption) | (intro x; (with_reducible refine State.Keeps.cut (s₀ := s₀) (x := x) ?_ ?_) <;> [subst x; (clear_value x; intro hx)]) | lift_lets
    | (with_reducible first | apply State.copyRange_keeps | apply State.setN_keeps | apply State.strataHeader_keeps | apply State.zeroRange_keeps | apply State.Keeps.ite | apply State.Keeps.ite_fst | apply KeepsOptP.getD)
    | (with_reducible exact State.Keeps.mk_of (by assumption)) | (fail_if_no_progress (with_reducible refine State.Keeps.mk_of ?_)) | split
    | (refine State.Keeps.of_fst (by assumption) ?_) | (refine KeepsEx.elim (by assumption) ?_) | (refine KeepsExP.elim (by assumption) ?_)
    | (refine KeepsExW.elim (by assumption) ?_) | (refine KeepsOptP.elim (by assumption) ?_) | (refine KeepsOpt.elim (by assumption) ?_)
    | (refine KeepsRes.elim (by assumption) ?_) | (refine KeepsOpt.elim_fst (by assumption) ?_) | (dsimp only)

end Sys2Proof.Machine
end

