-- ==== Sys2Proof/Laws/KeepCommit.lean ====
section
/-! SUPPORT. What the operations of Machine/Commit.lean keep (Laws/Keeps.lean). -/

namespace Sys2Proof.Machine

theorem State.stage_keeps {s₀ s : State} (h : State.Keeps s₀ s) (c : Ctx) (x : Staged) : KeepsEx s₀ (State.stage s c x) := by
  unfold State.stage
  repeat' first
    | (with_reducible assumption) | (intro x; clear_value x) | lift_lets
    | (with_reducible first | apply State.setCtx_keeps | apply State.Keeps.ite | apply State.Keeps.ite_fst | apply KeepsEx.ite | apply KeepsEx.ok | apply KeepsEx.error)

theorem State.putStaged_keeps {s₀ s : State} (h : State.Keeps s₀ s) (x : Staged) : State.Keeps s₀ (State.putStaged s x) := by
  unfold State.putStaged
  repeat' first
    | (with_reducible assumption) | lift_lets
    | (with_reducible first | apply State.setDom_keeps | apply State.setObj_keeps | apply State.Keeps.ite | apply State.Keeps.ite_fst)
    | (with_reducible exact State.Keeps.mk_of (by assumption)) | (fail_if_no_progress (with_reducible refine State.Keeps.mk_of ?_)) | split

theorem State.shrinkPlans_keeps {s₀ s t : State} (h : State.Keeps s₀ t) (p m : Nat) : State.Keeps s₀ (State.shrinkPlans s t p m) := by
  unfold State.shrinkPlans
  repeat' first
    | (with_reducible assumption) | (intro x; refine State.Keeps.fn x ?_; subst x) | (intro x; clear_value x) | lift_lets
    | (with_reducible first | apply State.upInst_keeps | apply State.Keeps.ite)

theorem State.partCommitted_keeps {s₀ s t : State} (h : State.Keeps s₀ t) (p : Nat) : State.Keeps s₀ (State.partCommitted s t p) := by
  unfold State.partCommitted
  repeat' first
    | (with_reducible assumption) | (intro x; (with_reducible refine State.Keeps.cut (s₀ := s₀) (x := x) ?_ ?_) <;> [subst x; (clear_value x; intro hx)])
    | (intro x; clear_value x) | lift_lets
    | (with_reducible first | apply State.dealCores_keeps | apply State.refreshLead_keeps | apply State.releasePart_keeps | apply State.schedule_keeps | apply State.shrinkPlans_keeps | apply State.upInst_keeps | apply State.Keeps.ite)
    | (with_reducible refine State.forEach_keeps ?_ _ _ (fun t x ht => ?_))

theorem State.startPipe_keeps {s₀ s : State} (h : State.Keeps s₀ s) (p : Nat) : State.Keeps s₀ (State.startPipe s p) := by
  unfold State.startPipe
  repeat' first
    | (with_reducible assumption) | (intro x; (with_reducible refine State.Keeps.cut (s₀ := s₀) (x := x) ?_ ?_) <;> [subst x; (clear_value x; intro hx)])
    | (intro x; clear_value x) | lift_lets
    | (with_reducible first | apply State.pipeFallback_keeps | apply State.setN_keeps | apply State.setPipe_keeps | apply State.Keeps.ite)

theorem State.pipeCommitted_keeps {s₀ s t : State} (h : State.Keeps s₀ t) (p : Nat) : State.Keeps s₀ (State.pipeCommitted s t p) := by
  unfold State.pipeCommitted
  repeat' first
    | (with_reducible assumption) | (intro x; (with_reducible refine State.Keeps.cut (s₀ := s₀) (x := x) ?_ ?_) <;> [subst x; (clear_value x; intro hx)])
    | (intro x; clear_value x) | lift_lets | (with_reducible first | apply State.setN_keeps | apply State.startPipe_keeps | apply State.Keeps.ite)

theorem State.captureCommitted_keeps {s₀ s t : State} (h : State.Keeps s₀ t)  : State.Keeps s₀ (State.captureCommitted s t) := by
  unfold State.captureCommitted
  repeat' first
    | (with_reducible assumption) | (intro x; clear_value x) | lift_lets | (with_reducible refine State.forEach_keeps ?_ _ _ (fun t x ht => ?_))
    | (with_reducible first | apply State.Keeps.ite | apply State.Keeps.ite_fst) | (with_reducible exact State.Keeps.mk_of (by assumption))

theorem State.committed_keeps {s₀ s t : State} (h : State.Keeps s₀ t) (set : List Staged) : State.Keeps s₀ (State.committed s t set) := by
  unfold State.committed
  repeat' first
    | (with_reducible assumption) | (intro x; (with_reducible refine State.Keeps.cut (s₀ := s₀) (x := x) ?_ ?_) <;> [subst x; (clear_value x; intro hx)])
    | (intro x; refine State.Keeps.fn x ?_; subst x) | (intro x; clear_value x) | lift_lets
    | (with_reducible first | apply State.armEntry_keeps | apply State.captureCommitted_keeps | apply State.dropFetches_keeps | apply State.lodeCommitted_keeps | apply State.partCommitted_keeps | apply State.pipeCommitted_keeps | apply State.Keeps.ite | apply State.Keeps.ite_fst)
    | (with_reducible refine State.forEach_keeps ?_ _ _ (fun t x ht => ?_)) | (with_reducible exact State.Keeps.mk_of (by assumption))

theorem State.applySet_keeps {s₀ s : State} (h : State.Keeps s₀ s) (r : Requester) (set : List Staged) : KeepsEx s₀ (State.applySet s r set) := by
  unfold State.applySet
  repeat' first
    | (with_reducible assumption) | (intro x; (with_reducible refine State.Keeps.cut (s₀ := s₀) (x := x) ?_ ?_) <;> [subst x; (clear_value x; intro hx)])
    | (intro x; clear_value x) | lift_lets
    | (with_reducible first | apply State.committed_keeps | apply State.putStaged_keeps | apply State.Keeps.ite | apply State.Keeps.ite_fst | apply KeepsEx.ite | apply KeepsEx.ok | apply KeepsEx.error | apply KeepsEx.pure | apply KeepsEx.throw)
    | (with_reducible refine State.forEach_keeps ?_ _ _ (fun t x ht => ?_)) | (with_reducible refine foldl_keeps ?_ _ _ (fun t x ht => ?_))
    | (with_reducible refine foldl_fst_keeps ?_ _ _ (fun t x ht => ?_)) | (with_reducible refine KeepsEx.map (fun t ht => ?_))
    | (with_reducible exact State.Keeps.mk_of (by assumption)) | (fail_if_no_progress (with_reducible refine State.Keeps.mk_of ?_)) | split

theorem State.commitSet_keeps {s₀ s : State} (h : State.Keeps s₀ s) (c : Ctx) (set : List Staged) : State.Keeps s₀ (State.commitSet s c set).1 := by
  unfold State.commitSet
  repeat' first
    | (with_reducible assumption) | (intro x; clear_value x) | lift_lets
    | (with_reducible first | apply State.applySet_keeps | apply State.latch_keeps | apply State.setCtx_keeps | apply State.Keeps.ite | apply State.Keeps.ite_fst)
    | (with_reducible exact State.Keeps.mk_of (by assumption)) | (fail_if_no_progress (with_reducible refine State.Keeps.mk_of ?_)) | split
    | (refine State.Keeps.of_fst (by assumption) ?_) | (refine KeepsEx.elim (by assumption) ?_)

theorem State.receiveCommit_keeps {s₀ s : State} (h : State.Keeps s₀ s) (c : Ctx) (v : Word64) (seq : Word32) : KeepsExP s₀ (State.receiveCommit s c v seq) := by
  unfold State.receiveCommit
  repeat' first
    | (with_reducible assumption) | (intro x; clear_value x) | lift_lets
    | (with_reducible first | apply State.commitSet_keeps | apply State.setCtx_keeps | apply State.Keeps.ite | apply State.Keeps.ite_fst | apply KeepsExP.ite | apply KeepsExP.ok | apply KeepsExP.error)

theorem execCommitWrite_keeps {s₀ s : State} (h : State.Keeps s₀ s) (src : Src) (v : Word64) : KeepsRes s₀ (execCommitWrite src v s) := by
  unfold execCommitWrite
  repeat' first
    | (with_reducible assumption) | lift_lets
    | (with_reducible first | apply State.receiveCommit_keeps | apply State.Keeps.ite | apply State.Keeps.ite_fst | apply KeepsRes.ite | apply KeepsRes.next | apply KeepsRes.fault | apply KeepsEx.ite | apply KeepsEx.ok | apply KeepsEx.error | apply KeepsEx.pure | apply KeepsEx.throw)
    | (with_reducible refine State.command_keeps ?_ _ _ _ _ _ (fun r t ht => ?_)) | (with_reducible refine KeepsEx.map (fun t ht => ?_))
    | (with_reducible exact State.Keeps.mk_of (by assumption)) | (fail_if_no_progress (with_reducible refine State.Keeps.mk_of ?_)) | split
    | (refine State.Keeps.of_fst (by assumption) ?_) | (refine KeepsEx.elim (by assumption) ?_) | (refine KeepsExP.elim (by assumption) ?_)

theorem State.commitAnswer_keeps {s₀ s : State} (h : State.Keeps s₀ s) (sid : Nat) (seq : Nat) (e key : Nat) (at_ : Word64) : State.Keeps s₀ (State.commitAnswer s sid seq e key at_) := by
  unfold State.commitAnswer
  repeat' first
    | (with_reducible assumption) | lift_lets | (with_reducible apply State.emit_keeps)

theorem execCommitApply_keeps {s₀ s : State} (h : State.Keeps s₀ s) (ctx : Ctx) : KeepsRes s₀ (execCommitApply ctx s) := by
  unfold execCommitApply
  repeat' first
    | (with_reducible assumption) | (intro x; clear_value x) | lift_lets
    | (with_reducible first | apply State.commitAnswer_keeps | apply State.commitSet_keeps | apply State.setCtx_keeps | apply State.Keeps.ite | apply State.Keeps.ite_fst | apply KeepsRes.ite | apply KeepsRes.next | apply KeepsRes.fault)
    | (with_reducible exact State.Keeps.mk_of (by assumption)) | (fail_if_no_progress (with_reducible refine State.Keeps.mk_of ?_)) | split
    | (refine State.Keeps.of_fst (by assumption) ?_)

end Sys2Proof.Machine
end

