-- ==== Sys2Proof/Laws/KeepPower.lean ====
section
/-! SUPPORT. What the operations of Machine/Power.lean keep (Laws/Keeps.lean). -/

namespace Sys2Proof.Machine

theorem State.coreDown_keeps {s₀ s : State} (h : State.Keeps s₀ s) (n : Nat) : State.Keeps s₀ (State.coreDown s n) := by
  unfold State.coreDown
  repeat' first
    | (with_reducible assumption) | lift_lets | (with_reducible first | apply State.scrubCore_keeps | apply State.setCore_keeps | apply State.setN_keeps)

theorem State.clusterDown_keeps {s₀ s : State} (h : State.Keeps s₀ s) (c : Nat) : State.Keeps s₀ (State.clusterDown s c) := by
  unfold State.clusterDown
  repeat' first
    | (with_reducible assumption) | (intro x; (with_reducible refine State.Keeps.cut (s₀ := s₀) (x := x) ?_ ?_) <;> [subst x; (clear_value x; intro hx)]) | lift_lets
    | (with_reducible first | apply State.coreDown_keeps | apply State.setN_keeps | apply State.zeroRange_keeps | apply State.Keeps.ite | apply State.Keeps.ite_fst)
    | (with_reducible refine State.forEach_keeps ?_ _ _ (fun t x ht => ?_)) | (with_reducible exact State.Keeps.mk_of (by assumption))

theorem State.fabricDown_keeps {s₀ s : State} (h : State.Keeps s₀ s)  : State.Keeps s₀ (State.fabricDown s) := by
  unfold State.fabricDown
  repeat' first
    | (with_reducible assumption) | (intro x; (with_reducible refine State.Keeps.cut (s₀ := s₀) (x := x) ?_ ?_) <;> [subst x; (clear_value x; intro hx)]) | lift_lets
    | (with_reducible first | apply State.setN_keeps | apply State.Keeps.ite | apply State.Keeps.ite_fst)
    | (with_reducible refine State.forEach_keeps ?_ _ _ (fun t x ht => ?_)) | (with_reducible exact State.Keeps.mk_of (by assumption))

theorem State.hostDown_keeps {s₀ s : State} (h : State.Keeps s₀ s)  : State.Keeps s₀ (State.hostDown s) := by
  unfold State.hostDown
  repeat' first
    | (with_reducible assumption) | (intro x; (with_reducible refine State.Keeps.cut (s₀ := s₀) (x := x) ?_ ?_) <;> [subst x; (clear_value x; intro hx)])
    | (intro x; clear_value x) | lift_lets | (with_reducible first | apply State.zeroRange_keeps | apply State.Keeps.ite | apply State.Keeps.ite_fst)
    | (with_reducible exact State.Keeps.mk_of (by assumption))

theorem State.stacksDown_keeps {s₀ s : State} (h : State.Keeps s₀ s)  : State.Keeps s₀ (State.stacksDown s) := by
  unfold State.stacksDown
  repeat' first
    | (with_reducible assumption) | (intro x; (with_reducible refine State.Keeps.cut (s₀ := s₀) (x := x) ?_ ?_) <;> [subst x; (clear_value x; intro hx)]) | lift_lets
    | (with_reducible first | apply State.zeroRange_keeps | apply State.Keeps.ite | apply State.Keeps.ite_fst) | (with_reducible exact State.Keeps.mk_of (by assumption))

theorem State.ioDown_keeps {s₀ s : State} (h : State.Keeps s₀ s)  : State.Keeps s₀ (State.ioDown s) := by
  unfold State.ioDown
  repeat' first
    | (with_reducible assumption) | (intro x; (with_reducible refine State.Keeps.cut (s₀ := s₀) (x := x) ?_ ?_) <;> [subst x; (clear_value x; intro hx)]) | lift_lets
    | (with_reducible first | apply State.orObj_keeps | apply State.setN_keeps | apply State.upStream_keeps | apply State.Keeps.ite | apply State.Keeps.ite_fst)
    | (with_reducible refine State.forEach_keeps ?_ _ _ (fun t x ht => ?_)) | (with_reducible exact State.Keeps.mk_of (by assumption))

theorem State.cockpitDown_keeps {s₀ s : State} (h : State.Keeps s₀ s)  : State.Keeps s₀ (State.cockpitDown s) := by
  unfold State.cockpitDown
  repeat' first
    | (with_reducible assumption) | (intro x; (with_reducible refine State.Keeps.cut (s₀ := s₀) (x := x) ?_ ?_) <;> [subst x; (clear_value x; intro hx)]) | lift_lets
    | (with_reducible first | apply State.setN_keeps | apply State.Keeps.ite | apply State.Keeps.ite_fst)
    | (with_reducible refine State.forEach_keeps ?_ _ _ (fun t x ht => ?_)) | (with_reducible exact State.Keeps.mk_of (by assumption))

theorem State.gatewayDown_keeps {s₀ s : State} (h : State.Keeps s₀ s)  : State.Keeps s₀ (State.gatewayDown s) := by
  unfold State.gatewayDown
  repeat' first
    | (with_reducible assumption) | (intro x; (with_reducible refine State.Keeps.cut (s₀ := s₀) (x := x) ?_ ?_) <;> [subst x; (clear_value x; intro hx)]) | lift_lets
    | (with_reducible first | apply State.closeLink_keeps | apply State.linkDown_keeps | apply State.Keeps.ite | apply State.Keeps.ite_fst)
    | (with_reducible refine State.forEach_keeps ?_ _ _ (fun t x ht => ?_)) | (with_reducible exact State.Keeps.mk_of (by assumption))

theorem State.domainsDown_keeps {s₀ s : State} (h : State.Keeps s₀ s) (mask : Nat) : State.Keeps s₀ (State.domainsDown s mask) := by
  unfold State.domainsDown
  repeat' first
    | (with_reducible assumption) | (intro x; (with_reducible refine State.Keeps.cut (s₀ := s₀) (x := x) ?_ ?_) <;> [subst x; (clear_value x; intro hx)])
    | (intro x; refine State.Keeps.fn x ?_; subst x) | lift_lets
    | (with_reducible first | apply State.clusterDown_keeps | apply State.cockpitDown_keeps | apply State.fabricDown_keeps | apply State.gatewayDown_keeps | apply State.hostDown_keeps | apply State.ioDown_keeps | apply State.orObj_keeps | apply State.stacksDown_keeps | apply State.Keeps.ite | apply State.Keeps.ite_fst)
    | (with_reducible refine State.forEach_keeps ?_ _ _ (fun t x ht => ?_)) | (with_reducible exact State.Keeps.mk_of (by assumption))

theorem State.freezeAll_keeps {s₀ s : State} (h : State.Keeps s₀ s)  : State.Keeps s₀ (State.freezeAll s) := by
  unfold State.freezeAll
  repeat' first
    | (with_reducible assumption) | (intro x; (with_reducible refine State.Keeps.cut (s₀ := s₀) (x := x) ?_ ?_) <;> [subst x; (clear_value x; intro hx)])
    | (intro x; clear_value x) | lift_lets | (with_reducible first | apply State.freezeInst_keeps | apply State.Keeps.ite | apply State.Keeps.ite_fst)
    | (with_reducible refine State.forEach_keeps ?_ _ _ (fun t x ht => ?_)) | (with_reducible exact State.Keeps.mk_of (by assumption))

theorem State.layersOff_keeps {s₀ s : State} (h : State.Keeps s₀ s)  : State.Keeps s₀ (State.layersOff s) := by
  unfold State.layersOff
  repeat' first
    | (with_reducible assumption) | (intro x; (with_reducible refine State.Keeps.cut (s₀ := s₀) (x := x) ?_ ?_) <;> [subst x; (clear_value x; intro hx)])
    | (intro x; clear_value x) | lift_lets | (with_reducible first | apply State.setN_keeps | apply State.setObj_keeps | apply State.Keeps.ite | apply State.Keeps.ite_fst)
    | (with_reducible refine State.forEach_keeps ?_ _ _ (fun t x ht => ?_)) | (with_reducible exact State.Keeps.mk_of (by assumption))

theorem State.tc10_keeps {s₀ s : State} (h : State.Keeps s₀ s)  : State.Keeps s₀ (State.tc10 s) := by
  unfold State.tc10
  repeat' first
    | (with_reducible assumption) | (intro x; (with_reducible refine State.Keeps.cut (s₀ := s₀) (x := x) ?_ ?_) <;> [subst x; (clear_value x; intro hx)]) | lift_lets
    | (with_reducible first | apply State.count_keeps | apply State.emit_keeps | apply State.tookFree_keeps | apply State.Keeps.ite)
    | (with_reducible refine State.forEach_keeps ?_ _ _ (fun t x ht => ?_))

theorem State.recorderRest_keeps {s₀ s : State} (h : State.Keeps s₀ s)  : State.Keeps s₀ (State.recorderRest s) := by
  unfold State.recorderRest
  repeat' first
    | (with_reducible assumption) | (intro x; (with_reducible refine State.Keeps.cut (s₀ := s₀) (x := x) ?_ ?_) <;> [subst x; (clear_value x; intro hx)])
    | (intro x; refine State.Keeps.fn x ?_; subst x) | lift_lets
    | (with_reducible first | apply State.endCopy_keeps | apply State.startCopy_keeps | apply State.tookFree_keeps | apply State.writeRecord_keeps | apply State.Keeps.ite | apply State.Keeps.ite_fst | apply KeepsOptP.getD)
    | (with_reducible refine State.forEach_keeps ?_ _ _ (fun t x ht => ?_)) | (with_reducible exact State.Keeps.mk_of (by assumption))
    | (fail_if_no_progress (with_reducible refine State.Keeps.mk_of ?_)) | split | (refine State.Keeps.of_fst (by assumption) ?_) | (refine KeepsEx.elim (by assumption) ?_)
    | (refine KeepsExP.elim (by assumption) ?_) | (refine KeepsExW.elim (by assumption) ?_) | (refine KeepsOptP.elim (by assumption) ?_)
    | (refine KeepsOpt.elim (by assumption) ?_) | (refine KeepsRes.elim (by assumption) ?_) | (refine KeepsOpt.elim_fst (by assumption) ?_) | (dsimp only)

theorem State.enterState_keeps {s₀ s : State} (h : State.Keeps s₀ s) (into : Nat) (secure : Bool) : State.Keeps s₀ (State.enterState s into secure) := by
  unfold State.enterState
  repeat' first
    | (with_reducible assumption) | (intro x; (with_reducible refine State.Keeps.cut (s₀ := s₀) (x := x) ?_ ?_) <;> [subst x; (clear_value x; intro hx)])
    | (intro x; clear_value x) | lift_lets
    | (with_reducible first | apply State.domainsDown_keeps | apply State.failPass_keeps | apply State.freezeAll_keeps | apply State.layersOff_keeps | apply State.recorderRest_keeps | apply State.setN_keeps | apply State.strataEvent_keeps | apply State.tc10_keeps | apply State.Keeps.ite | apply State.Keeps.ite_fst)
    | (with_reducible exact State.Keeps.mk_of (by assumption))

theorem State.powerRefused_keeps {s₀ s : State} (h : State.Keeps s₀ s)  : State.Keeps s₀ (State.powerRefused s) := by
  unfold State.powerRefused
  repeat' first
    | (with_reducible assumption) | lift_lets | (with_reducible first | apply State.count_keeps | apply State.securityEvent_keeps)

theorem State.takeRequest_keeps {s₀ s : State} (h : State.Keeps s₀ s) (into : Nat) (secure : Bool) : State.Keeps s₀ (State.takeRequest s into secure) := by
  unfold State.takeRequest
  repeat' first
    | (with_reducible assumption) | (intro x; (with_reducible refine State.Keeps.cut (s₀ := s₀) (x := x) ?_ ?_) <;> [subst x; (clear_value x; intro hx)])
    | (intro x; clear_value x) | lift_lets
    | (with_reducible first | apply State.enterState_keeps | apply State.setN_keeps | apply State.Keeps.ite | apply State.Keeps.ite_fst)
    | (with_reducible exact State.Keeps.mk_of (by assumption))

theorem State.powerRequest_keeps {s₀ s : State} (h : State.Keeps s₀ s) (secure : Bool) (code : Nat) : State.Keeps s₀ (State.powerRequest s secure code).1 := by
  unfold State.powerRequest
  repeat' first
    | (with_reducible assumption) | (intro x; (with_reducible refine State.Keeps.cut (s₀ := s₀) (x := x) ?_ ?_) <;> [subst x; (clear_value x; intro hx)])
    | (intro x; clear_value x) | lift_lets
    | (with_reducible first | apply State.powerRefused_keeps | apply State.setN_keeps | apply State.takeRequest_keeps | apply State.tookFree_keeps | apply State.Keeps.ite | apply State.Keeps.ite_fst)
    | (with_reducible exact State.Keeps.mk_of (by assumption))

theorem State.powerCommand_keeps {s₀ s : State} (h : State.Keeps s₀ s) (src : Src) (code : Nat) : KeepsRes s₀ (State.powerCommand s src code) := by
  unfold State.powerCommand
  repeat' first
    | (with_reducible assumption) | (intro x; (with_reducible refine State.Keeps.cutP (s₀ := s₀) (x := x) ?_ ?_) <;> [subst x; (clear_value x; intro hx)]) | lift_lets
    | (with_reducible first | apply State.latch_keeps | apply State.powerRequest_keeps | apply State.Keeps.ite | apply State.Keeps.ite_fst | apply KeepsRes.ite | apply KeepsRes.next | apply KeepsRes.fault | apply KeepsEx.ite | apply KeepsEx.ok)
    | (with_reducible refine State.command_keeps ?_ _ _ _ _ _ (fun r t ht => ?_))

theorem execPowerRequestOn_keeps {s₀ s : State} (h : State.Keeps s₀ s) (src : Src) : KeepsRes s₀ (execPowerRequestOn src s) := by
  unfold execPowerRequestOn
  repeat' first
    | (with_reducible assumption) | lift_lets | (with_reducible apply State.powerCommand_keeps)

theorem execPowerRequestDrowse_keeps {s₀ s : State} (h : State.Keeps s₀ s) (src : Src) : KeepsRes s₀ (execPowerRequestDrowse src s) := by
  unfold execPowerRequestDrowse
  repeat' first
    | (with_reducible assumption) | lift_lets | (with_reducible apply State.powerCommand_keeps)

theorem execPowerRequestSentry_keeps {s₀ s : State} (h : State.Keeps s₀ s) (src : Src) : KeepsRes s₀ (execPowerRequestSentry src s) := by
  unfold execPowerRequestSentry
  repeat' first
    | (with_reducible assumption) | lift_lets | (with_reducible apply State.powerCommand_keeps)

theorem execPowerRequestOff_keeps {s₀ s : State} (h : State.Keeps s₀ s) (src : Src) : KeepsRes s₀ (execPowerRequestOff src s) := by
  unfold execPowerRequestOff
  repeat' first
    | (with_reducible assumption) | lift_lets | (with_reducible apply State.powerCommand_keeps)

theorem State.beginRequest_keeps {s₀ s : State} (h : State.Keeps s₀ s) (into : Nat) (secure : Bool) : State.Keeps s₀ (State.beginRequest s into secure) := by
  unfold State.beginRequest
  repeat' first
    | (with_reducible assumption) | (intro x; (with_reducible refine State.Keeps.cut (s₀ := s₀) (x := x) ?_ ?_) <;> [subst x; (clear_value x; intro hx)])
    | (intro x; clear_value x) | lift_lets
    | (with_reducible first | apply State.setN_keeps | apply State.takeRequest_keeps | apply State.tookFree_keeps | apply State.Keeps.ite)

theorem execHeldRequestRelease_keeps {s₀ s : State} (h : State.Keeps s₀ s)  : KeepsRes s₀ (execHeldRequestRelease s) := by
  unfold execHeldRequestRelease
  repeat' first
    | (with_reducible assumption) | (intro x; clear_value x) | lift_lets
    | (with_reducible first | apply State.beginRequest_keeps | apply State.Keeps.ite | apply State.Keeps.ite_fst | apply KeepsRes.ite | apply KeepsRes.next)

theorem State.writeHold_keeps {s₀ s : State} (h : State.Keeps s₀ s) (v : Word64) : KeepsEx s₀ (State.writeHold s v) := by
  unfold State.writeHold
  repeat' first
    | (with_reducible assumption) | lift_lets
    | (with_reducible first | apply State.setObj_keeps | apply State.Keeps.ite | apply State.Keeps.ite_fst | apply KeepsEx.ite | apply KeepsEx.ok | apply KeepsEx.error)

theorem State.transitionDone_keeps {s₀ s : State} (h : State.Keeps s₀ s) (from_ into bound : Nat) : State.Keeps s₀ (State.transitionDone s from_ into bound) := by
  unfold State.transitionDone
  repeat' first
    | (with_reducible assumption) | (intro x; clear_value x) | lift_lets
    | (with_reducible first | apply State.orObj_keeps | apply State.setN_keeps | apply State.tookFree_keeps)

theorem State.sentryRest_keeps {s₀ s : State} (h : State.Keeps s₀ s)  : State.Keeps s₀ (State.sentryRest s) := by
  unfold State.sentryRest
  repeat' first
    | (with_reducible assumption) | lift_lets | (with_reducible first | apply State.setN_keeps | apply State.Keeps.ite | apply State.Keeps.ite_fst)
    | (with_reducible exact State.Keeps.mk_of (by assumption))

theorem State.entryDone_keeps {s₀ s : State} (h : State.Keeps s₀ s) (into : Nat) : State.Keeps s₀ (State.entryDone s into) := by
  unfold State.entryDone
  repeat' first
    | (with_reducible assumption) | (intro x; (with_reducible refine State.Keeps.cut (s₀ := s₀) (x := x) ?_ ?_) <;> [subst x; (clear_value x; intro hx)])
    | (intro x; clear_value x) | lift_lets
    | (with_reducible first | apply State.emit_keeps | apply State.sentryRest_keeps | apply State.setN_keeps | apply State.transitionDone_keeps | apply State.Keeps.ite | apply State.Keeps.ite_fst)
    | (with_reducible exact State.Keeps.mk_of (by assumption))

theorem State.startDone_keeps {s₀ s : State} (h : State.Keeps s₀ s) (from_ : Nat) : State.Keeps s₀ (State.startDone s from_) := by
  unfold State.startDone
  repeat' first
    | (with_reducible assumption) | (intro x; (with_reducible refine State.Keeps.cut (s₀ := s₀) (x := x) ?_ ?_) <;> [subst x; (clear_value x; intro hx)])
    | (intro x; clear_value x) | lift_lets
    | (with_reducible first | apply State.garnetRun_keeps | apply State.setN_keeps | apply State.transitionDone_keeps | apply State.Keeps.ite | apply State.Keeps.ite_fst)
    | (with_reducible exact State.Keeps.mk_of (by assumption))

theorem State.powerTick_keeps {s₀ s : State} (h : State.Keeps s₀ s)  : State.Keeps s₀ (State.powerTick s) := by
  unfold State.powerTick
  repeat' first
    | (with_reducible assumption) | (intro x; clear_value x) | lift_lets
    | (with_reducible first | apply State.beginRequest_keeps | apply State.entryDone_keeps | apply State.startDone_keeps | apply State.Keeps.ite | apply State.Keeps.ite_fst)
    | (with_reducible exact State.Keeps.mk_of (by assumption)) | (fail_if_no_progress (with_reducible refine State.Keeps.mk_of ?_)) | split

theorem State.clock_keeps {s₀ s : State} (h : State.Keeps s₀ s)  : State.Keeps s₀ (State.clock s) := by
  unfold State.clock
  repeat' first
    | (with_reducible assumption) | (intro x; (with_reducible refine State.Keeps.cut (s₀ := s₀) (x := x) ?_ ?_) <;> [subst x; (clear_value x; intro hx)]) | lift_lets
    | (with_reducible first | apply State.powerTick_keeps | apply State.Keeps.ite | apply State.Keeps.ite_fst) | (with_reducible exact State.Keeps.mk_of (by assumption))

theorem State.wakeSeen_keeps {s₀ s : State} (h : State.Keeps s₀ s) (w : WakeSrc) : State.Keeps s₀ (State.wakeSeen s w) := by
  unfold State.wakeSeen
  repeat' first
    | (with_reducible assumption) | lift_lets
    | (with_reducible first | apply State.setN_keeps | apply State.tookFree_keeps | apply State.Keeps.ite | apply State.Keeps.ite_fst)
    | (with_reducible exact State.Keeps.mk_of (by assumption)) | (fail_if_no_progress (with_reducible refine State.Keeps.mk_of ?_)) | split

theorem execWake_keeps {s₀ s : State} (h : State.Keeps s₀ s) (w : WakeSrc) : KeepsRes s₀ (execWake w s) := by
  unfold execWake
  repeat' first
    | (with_reducible assumption) | (intro x; (with_reducible refine State.Keeps.cut (s₀ := s₀) (x := x) ?_ ?_) <;> [subst x; (clear_value x; intro hx)])
    | (intro x; clear_value x) | lift_lets
    | (with_reducible first | apply State.orObj_keeps | apply State.setN_keeps | apply State.wakeSeen_keeps | apply State.Keeps.ite | apply State.Keeps.ite_fst | apply KeepsRes.ite | apply KeepsRes.next | apply KeepsRes.fault)
    | (with_reducible exact State.Keeps.mk_of (by assumption)) | (fail_if_no_progress (with_reducible refine State.Keeps.mk_of ?_)) | split

theorem execIdleEntry_keeps {s₀ s : State} (h : State.Keeps s₀ s)  : KeepsRes s₀ (execIdleEntry s) := by
  unfold execIdleEntry
  repeat' first
    | (with_reducible assumption) | (intro x; refine State.Keeps.fn x ?_; subst x) | lift_lets
    | (with_reducible first | apply State.setN_keeps | apply State.Keeps.ite | apply State.Keeps.ite_fst | apply KeepsRes.ite | apply KeepsRes.next)

theorem execIdleExit_keeps {s₀ s : State} (h : State.Keeps s₀ s) (why : IdleWake) : KeepsRes s₀ (execIdleExit why s) := by
  unfold execIdleExit
  repeat' first
    | (with_reducible assumption) | (intro x; clear_value x) | lift_lets
    | (with_reducible first | apply State.setN_keeps | apply State.Keeps.ite | apply State.Keeps.ite_fst | apply KeepsRes.ite | apply KeepsRes.next)

theorem State.writePadRelease_keeps {s₀ s : State} (h : State.Keeps s₀ s) (v : Word64) : KeepsEx s₀ (State.writePadRelease s v) := by
  unfold State.writePadRelease
  repeat' first
    | (with_reducible assumption) | (intro x; (with_reducible refine State.Keeps.cut (s₀ := s₀) (x := x) ?_ ?_) <;> [subst x; (clear_value x; intro hx)])
    | (intro x; clear_value x) | lift_lets
    | (with_reducible first | apply State.setN_keeps | apply State.setObj_keeps | apply State.Keeps.ite | apply State.Keeps.ite_fst | apply KeepsEx.ite | apply KeepsEx.ok | apply KeepsEx.error)
    | (with_reducible refine State.forEach_keeps ?_ _ _ (fun t x ht => ?_))

theorem execPadRelease_keeps {s₀ s : State} (h : State.Keeps s₀ s) (src : Src) (v : Word64) : KeepsRes s₀ (execPadRelease src v s) := by
  unfold execPadRelease
  repeat' first
    | (with_reducible assumption) | lift_lets
    | (with_reducible first | apply State.writePadRelease_keeps | apply State.Keeps.ite | apply State.Keeps.ite_fst | apply KeepsRes.ite | apply KeepsRes.next | apply KeepsRes.fault | apply KeepsEx.ite | apply KeepsEx.ok | apply KeepsEx.error)
    | (with_reducible refine State.command_keeps ?_ _ _ _ _ _ (fun r t ht => ?_))

end Sys2Proof.Machine
end

