-- ==== Sys2Proof/Laws/KeepDvfs.lean ====
section
/-! SUPPORT. What the operations of Machine/Dvfs.lean keep (Laws/Keeps.lean). -/

namespace Sys2Proof.Machine

theorem State.refreshVolts_keeps {s₀ s : State} (h : State.Keeps s₀ s)  : State.Keeps s₀ (State.refreshVolts s) := by
  unfold State.refreshVolts
  repeat' first
    | (with_reducible assumption) | lift_lets | (with_reducible apply State.setN_keeps) | (with_reducible refine State.forEach_keeps ?_ _ _ (fun t x ht => ?_))

theorem State.setFreq_keeps {s₀ s : State} (h : State.Keeps s₀ s) (c f : Nat) : State.Keeps s₀ (State.setFreq s c f) := by
  unfold State.setFreq
  repeat' first
    | (with_reducible assumption) | (intro x; (with_reducible refine State.Keeps.cut (s₀ := s₀) (x := x) ?_ ?_) <;> [subst x; (clear_value x; intro hx)])
    | (intro x; clear_value x) | lift_lets
    | (with_reducible first | apply State.refreshLead_keeps | apply State.refreshVolts_keeps | apply State.setN_keeps | apply State.Keeps.ite | apply State.Keeps.ite_fst)
    | (with_reducible exact State.Keeps.mk_of (by assumption))

theorem State.writeFreq_keeps {s₀ s : State} (h : State.Keeps s₀ s) (c : Nat) (v : Word64) : KeepsEx s₀ (State.writeFreq s c v) := by
  unfold State.writeFreq
  repeat' first
    | (with_reducible assumption) | (intro x; (with_reducible refine State.Keeps.cut (s₀ := s₀) (x := x) ?_ ?_) <;> [subst x; (clear_value x; intro hx)])
    | (intro x; clear_value x) | lift_lets
    | (with_reducible first | apply State.setFreq_keeps | apply State.setObj_keeps | apply State.Keeps.ite | apply State.Keeps.ite_fst | apply KeepsEx.ite | apply KeepsEx.ok | apply KeepsEx.error)

theorem execDvfsRequest_keeps {s₀ s : State} (h : State.Keeps s₀ s) (src : Src) (c : Fin 4) (v : Word64) : KeepsRes s₀ (execDvfsRequest src c v s) := by
  unfold execDvfsRequest
  repeat' first
    | (with_reducible assumption) | lift_lets | (with_reducible apply State.writeFreq_keeps) | (with_reducible refine State.command_keeps ?_ _ _ _ _ _ (fun r t ht => ?_))

theorem State.thermalTrip_keeps {s₀ s : State} (h : State.Keeps s₀ s)  : State.Keeps s₀ (State.thermalTrip s) := by
  unfold State.thermalTrip
  repeat' first
    | (with_reducible assumption) | (intro x; (with_reducible refine State.Keeps.cut (s₀ := s₀) (x := x) ?_ ?_) <;> [subst x; (clear_value x; intro hx)])
    | (intro x; clear_value x) | lift_lets
    | (with_reducible first | apply State.domainsDown_keeps | apply State.orObj_keeps | apply State.setN_keeps | apply State.Keeps.ite | apply State.Keeps.ite_fst)
    | (with_reducible exact State.Keeps.mk_of (by assumption))

theorem execThermalTrip_keeps {s₀ s : State} (h : State.Keeps s₀ s)  : KeepsRes s₀ (execThermalTrip s) := by
  unfold execThermalTrip
  repeat' first
    | (with_reducible assumption) | lift_lets
    | (with_reducible first | apply State.thermalTrip_keeps | apply State.Keeps.ite | apply State.Keeps.ite_fst | apply KeepsRes.ite | apply KeepsRes.next)

theorem State.throttleCluster_keeps {s₀ s : State} (h : State.Keeps s₀ s) (t : List Rat) (c : Nat) : State.Keeps s₀ (State.throttleCluster s t c) := by
  unfold State.throttleCluster
  repeat' first
    | (with_reducible assumption) | lift_lets | (with_reducible first | apply State.orObj_keeps | apply State.setFreq_keeps | apply State.setN_keeps | apply State.Keeps.ite)

theorem execThrottleStep_keeps {s₀ s : State} (h : State.Keeps s₀ s) (r : Temps) : KeepsRes s₀ (execThrottleStep r s) := by
  unfold execThrottleStep
  repeat' first
    | (with_reducible assumption) | (intro x; (with_reducible refine State.Keeps.cut (s₀ := s₀) (x := x) ?_ ?_) <;> [subst x; (clear_value x; intro hx)])
    | (intro x; clear_value x) | lift_lets
    | (with_reducible first | apply State.setN_keeps | apply State.thermalTrip_keeps | apply State.throttleCluster_keeps | apply State.Keeps.ite | apply State.Keeps.ite_fst | apply KeepsRes.ite | apply KeepsRes.next)
    | (with_reducible refine State.forEach_keeps ?_ _ _ (fun t x ht => ?_))

theorem State.measureDomain_keeps {s₀ s : State} (h : State.Keeps s₀ s) (slack : List Nat) (d : Nat) : State.Keeps s₀ (State.measureDomain s slack d) := by
  unfold State.measureDomain
  repeat' first
    | (with_reducible assumption) | (intro x; (with_reducible refine State.Keeps.cut (s₀ := s₀) (x := x) ?_ ?_) <;> [subst x; (clear_value x; intro hx)])
    | (intro x; clear_value x) | lift_lets | (with_reducible first | apply State.orObj_keeps | apply State.setDom_keeps | apply State.Keeps.ite)

theorem State.measure_keeps {s₀ s : State} (h : State.Keeps s₀ s) (slack : List Nat) : State.Keeps s₀ (State.measure s slack) := by
  unfold State.measure
  repeat' first
    | (with_reducible assumption) | lift_lets | (with_reducible first | apply State.measureDomain_keeps | apply State.refreshVolts_keeps)
    | (with_reducible refine State.forEach_keeps ?_ _ _ (fun t x ht => ?_))

theorem execAgeingMeasure_keeps {s₀ s : State} (h : State.Keeps s₀ s) (slack : List Nat) : KeepsRes s₀ (execAgeingMeasure slack s) := by
  unfold execAgeingMeasure
  repeat' first
    | (with_reducible assumption) | (intro x; (with_reducible refine State.Keeps.cut (s₀ := s₀) (x := x) ?_ ?_) <;> [subst x; (clear_value x; intro hx)]) | lift_lets
    | (with_reducible first | apply State.endSelftest_keeps | apply State.measure_keeps | apply State.Keeps.ite | apply State.Keeps.ite_fst | apply KeepsRes.ite | apply KeepsRes.next | apply KeepsRes.fault)
    | (with_reducible exact State.Keeps.mk_of (by assumption)) | (fail_if_no_progress (with_reducible refine State.Keeps.mk_of ?_)) | split

theorem State.railLost_keeps {s₀ s : State} (h : State.Keeps s₀ s) (k : Nat) : State.Keeps s₀ (State.railLost s k) := by
  unfold State.railLost
  repeat' first
    | (with_reducible assumption) | (intro x; (with_reducible refine State.Keeps.cut (s₀ := s₀) (x := x) ?_ ?_) <;> [subst x; (clear_value x; intro hx)]) | lift_lets
    | (with_reducible first | apply State.count_keeps | apply State.setN_keeps | apply State.setObj_keeps | apply State.Keeps.ite | apply State.Keeps.ite_fst)
    | (with_reducible exact State.Keeps.mk_of (by assumption))

theorem execRailFault_keeps {s₀ s : State} (h : State.Keeps s₀ s) (k : Fin 15) (sinceAvs : Nat) : KeepsRes s₀ (execRailFault k sinceAvs s) := by
  unfold execRailFault
  repeat' first
    | (with_reducible assumption) | (intro x; clear_value x) | lift_lets
    | (with_reducible first | apply State.domainsDown_keeps | apply State.railLost_keeps | apply State.safeTrigger_keeps | apply State.setN_keeps | apply State.Keeps.ite | apply State.Keeps.ite_fst | apply KeepsRes.ite | apply KeepsRes.next)

theorem execRailEnableTimeout_keeps {s₀ s : State} (h : State.Keeps s₀ s) (k : Fin 15) : KeepsRes s₀ (execRailEnableTimeout k s) := by
  unfold execRailEnableTimeout
  repeat' first
    | (with_reducible assumption) | (intro x; (with_reducible refine State.Keeps.cut (s₀ := s₀) (x := x) ?_ ?_) <;> [subst x; (clear_value x; intro hx)])
    | (intro x; clear_value x) | lift_lets
    | (with_reducible first | apply State.domainsDown_keeps | apply State.railLost_keeps | apply State.setN_keeps | apply State.Keeps.ite | apply State.Keeps.ite_fst | apply KeepsRes.ite | apply KeepsRes.next | apply KeepsRes.fault)
    | (with_reducible refine State.forEach_keeps ?_ _ _ (fun t x ht => ?_)) | (with_reducible exact State.Keeps.mk_of (by assumption))

end Sys2Proof.Machine
end

