-- ==== Sys2Proof/Laws/KeepStartup.lean ====
section
/-! SUPPORT. What the operations of Machine/Startup.lean keep (Laws/Keeps.lean). -/

namespace Sys2Proof.Machine

theorem State.comparatorTest_keeps {s₀ s : State} (h : State.Keeps s₀ s) (fail : Option (Nat × Nat × Fin 2)) : State.Keeps s₀ (State.comparatorTest s fail) := by
  unfold State.comparatorTest
  repeat' first
    | (with_reducible assumption) | (intro x; (with_reducible refine State.Keeps.cut (s₀ := s₀) (x := x) ?_ ?_) <;> [subst x; (clear_value x; intro hx)])
    | (intro x; clear_value x) | lift_lets
    | (with_reducible first | apply State.safeTrigger_keeps | apply State.setN_keeps | apply State.Keeps.ite | apply State.Keeps.ite_fst)
    | (with_reducible exact State.Keeps.mk_of (by assumption)) | (fail_if_no_progress (with_reducible refine State.Keeps.mk_of ?_)) | split

theorem State.startGranite_keeps {s₀ s : State} (h : State.Keeps s₀ s)  : State.Keeps s₀ (State.startGranite s) := by
  unfold State.startGranite
  repeat' first
    | (with_reducible assumption) | (intro x; (with_reducible refine State.Keeps.cut (s₀ := s₀) (x := x) ?_ ?_) <;> [subst x; (clear_value x; intro hx)]) | lift_lets
    | (with_reducible first | apply State.schedStarted_keeps | apply State.startFw_keeps | apply State.Keeps.ite)
    | (with_reducible refine State.forEach_keeps ?_ _ _ (fun t x ht => ?_))

theorem State.coresUp_keeps {s₀ s : State} (h : State.Keeps s₀ s)  : State.Keeps s₀ (State.coresUp s) := by
  unfold State.coresUp
  repeat' first
    | (with_reducible assumption) | lift_lets | (with_reducible first | apply State.setN_keeps | apply State.Keeps.ite)
    | (with_reducible refine State.forEach_keeps ?_ _ _ (fun t x ht => ?_))

theorem State.domainsUp_keeps {s₀ s : State} (h : State.Keeps s₀ s) (mask : Nat) : State.Keeps s₀ (State.domainsUp s mask) := by
  unfold State.domainsUp
  repeat' first
    | (with_reducible assumption) | lift_lets | (with_reducible first | apply State.Keeps.ite | apply State.Keeps.ite_fst)
    | (with_reducible exact State.Keeps.mk_of (by assumption))

theorem State.basaltUp_keeps {s₀ s : State} (h : State.Keeps s₀ s)  : State.Keeps s₀ (State.basaltUp s) := by
  unfold State.basaltUp
  repeat' first
    | (with_reducible assumption) | (intro x; (with_reducible refine State.Keeps.cut (s₀ := s₀) (x := x) ?_ ?_) <;> [subst x; (clear_value x; intro hx)])
    | (intro x; clear_value x) | lift_lets
    | (with_reducible first | apply State.domainsUp_keeps | apply State.orObj_keeps | apply State.refreshCapSize_keeps | apply State.setN_keeps | apply State.startPipe_keeps | apply State.Keeps.ite | apply State.Keeps.ite_fst)
    | (with_reducible refine State.forEach_keeps ?_ _ _ (fun t x ht => ?_)) | (with_reducible exact State.Keeps.mk_of (by assumption))

theorem State.startHostImage_keeps {s₀ s : State} (h : State.Keeps s₀ s) (a0 a1 : Nat) : State.Keeps s₀ (State.startHostImage s a0 a1) := by
  unfold State.startHostImage
  repeat' first
    | (with_reducible assumption) | (intro x; (with_reducible refine State.Keeps.cut (s₀ := s₀) (x := x) ?_ ?_) <;> [subst x; (clear_value x; intro hx)]) | lift_lets
    | (with_reducible first | apply State.notStarted_keeps | apply State.startHost_keeps | apply State.takeImage_keeps | apply State.wr_keeps | apply State.Keeps.ite | apply State.Keeps.ite_fst)
    | (with_reducible exact State.Keeps.mk_of (by assumption)) | (fail_if_no_progress (with_reducible refine State.Keeps.mk_of ?_)) | split
    | (refine State.Keeps.of_fst (by assumption) ?_)

theorem State.graniteUp_keeps {s₀ s : State} (h : State.Keeps s₀ s) (env : StartEnv) (a0 a1 : Nat) : State.Keeps s₀ (State.graniteUp s env a0 a1) := by
  unfold State.graniteUp
  repeat' first
    | (with_reducible assumption) | (intro x; (with_reducible refine State.Keeps.cut (s₀ := s₀) (x := x) ?_ ?_) <;> [subst x; (clear_value x; intro hx)])
    | (intro x; clear_value x) | lift_lets
    | (with_reducible first | apply State.comparatorTest_keeps | apply State.coresUp_keeps | apply State.domainsUp_keeps | apply State.garnetRun_keeps | apply State.measure_keeps | apply State.orObj_keeps | apply State.refreshLead_keeps | apply State.setN_keeps | apply State.startGranite_keeps | apply State.startHostImage_keeps | apply State.Keeps.ite | apply State.Keeps.ite_fst)
    | (with_reducible refine State.forEach_keeps ?_ _ _ (fun t x ht => ?_)) | (with_reducible exact State.Keeps.mk_of (by assumption))

theorem State.bringUp_keeps {s₀ s : State} (h : State.Keeps s₀ s) (env : StartEnv) (a0 a1 : Nat) : State.Keeps s₀ (State.bringUp s env a0 a1) := by
  unfold State.bringUp
  repeat' first
    | (with_reducible assumption) | (intro x; (with_reducible refine State.Keeps.cut (s₀ := s₀) (x := x) ?_ ?_) <;> [subst x; (clear_value x; intro hx)]) | lift_lets
    | (with_reducible first | apply State.basaltUp_keeps | apply State.graniteUp_keeps | apply State.measure_keeps | apply State.setObj_keeps | apply State.Keeps.ite)
    | (with_reducible refine State.forEach_keeps ?_ _ _ (fun t x ht => ?_))

theorem State.unpowered_keeps {s₀ s : State} (h : State.Keeps s₀ s) : State.Keeps s₀ (State.unpowered s) :=
  ⟨h.queue, h.free, h.out, fun c => by
    have := h.canon c
    simp only [State.canonical, State.unpowered, Bool.and_eq_true] at *
    exact ⟨⟨TMap.wf_filter _ this.1.1, rfl⟩, rfl⟩⟩

theorem State.deriveIdentity_keeps {s₀ s : State} (h : State.Keeps s₀ s) (env : StartEnv) : State.Keeps s₀ (State.deriveIdentity s env) := by
  unfold State.deriveIdentity
  repeat' first
    | (with_reducible assumption) | (intro x; (with_reducible refine State.Keeps.cut (s₀ := s₀) (x := x) ?_ ?_) <;> [subst x; (clear_value x; intro hx)]) | lift_lets
    | (with_reducible first | apply State.safeTrigger_keeps | apply State.securityEvent_keeps | apply State.setDom_keeps | apply State.setN_keeps | apply State.tookFree_keeps | apply State.Keeps.ite)

theorem State.repairs_keeps {s₀ s : State} (h : State.Keeps s₀ s) (env : StartEnv) : State.Keeps s₀ (State.repairs s env) := by
  unfold State.repairs
  repeat' first
    | (with_reducible assumption) | (intro x; (with_reducible refine State.Keeps.cut (s₀ := s₀) (x := x) ?_ ?_) <;> [subst x; (clear_value x; intro hx)])
    | (intro x; clear_value x) | lift_lets | (with_reducible first | apply State.clrObj_keeps | apply State.setDom_keeps | apply State.setN_keeps | apply State.Keeps.ite)
    | (with_reducible refine State.forEach_keeps ?_ _ _ (fun t x ht => ?_))

theorem State.startIsland_keeps {s₀ s : State} (h : State.Keeps s₀ s)  : State.Keeps s₀ (State.startIsland s) := by
  unfold State.startIsland
  repeat' first
    | (with_reducible assumption) | lift_lets
    | (with_reducible first | apply State.notStarted_keeps | apply State.setN_keeps | apply State.takeImage_keeps | apply State.Keeps.ite | apply State.Keeps.ite_fst)
    | (with_reducible exact State.Keeps.mk_of (by assumption)) | (fail_if_no_progress (with_reducible refine State.Keeps.mk_of ?_)) | split
    | (refine State.Keeps.of_fst (by assumption) ?_)

theorem State.powerOn_keeps {s₀ s : State} (h : State.Keeps s₀ s) (env : StartEnv) : State.Keeps s₀ (State.powerOn s env) := by
  unfold State.powerOn
  repeat' first
    | (with_reducible assumption) | (intro x; (with_reducible refine State.Keeps.cut (s₀ := s₀) (x := x) ?_ ?_) <;> [subst x; (clear_value x; intro hx)]) | lift_lets
    | (with_reducible first | apply State.setN_keeps | apply State.strataRestore_keeps | apply State.unpowered_keeps | apply State.Keeps.ite | apply State.Keeps.ite_fst)
    | (with_reducible exact State.Keeps.mk_of (by assumption))

theorem State.serviceBoot_keeps {s₀ s : State} (h : State.Keeps s₀ s)  : State.Keeps s₀ (State.serviceBoot s) := by
  unfold State.serviceBoot
  repeat' first
    | (with_reducible assumption) | (intro x; (with_reducible refine State.Keeps.cut (s₀ := s₀) (x := x) ?_ ?_) <;> [subst x; (clear_value x; intro hx)]) | lift_lets
    | (with_reducible first | apply State.domainsUp_keeps | apply State.orObj_keeps | apply State.Keeps.ite | apply State.Keeps.ite_fst)
    | (with_reducible exact State.Keeps.mk_of (by assumption))

theorem State.coldStart_keeps {s₀ s : State} (h : State.Keeps s₀ s) (env : StartEnv) : State.Keeps s₀ (State.coldStart s env) := by
  unfold State.coldStart
  repeat' first
    | (with_reducible assumption) | (intro x; (with_reducible refine State.Keeps.cut (s₀ := s₀) (x := x) ?_ ?_) <;> [subst x; (clear_value x; intro hx)])
    | (intro x; clear_value x) | lift_lets
    | (with_reducible first | apply State.bringUp_keeps | apply State.deriveWorlds_keeps | apply State.repairs_keeps | apply State.setN_keeps | apply State.setObj_keeps | apply State.startFw_keeps | apply State.startIsland_keeps | apply State.tookFree_keeps | apply State.Keeps.ite | apply State.Keeps.ite_fst)
    | (with_reducible exact State.Keeps.mk_of (by assumption))

theorem execPowerGoodRise_keeps {s₀ s : State} (h : State.Keeps s₀ s) (env : StartEnv) : KeepsRes s₀ (execPowerGoodRise env s) := by
  unfold execPowerGoodRise
  repeat' first
    | (with_reducible assumption) | (intro x; (with_reducible refine State.Keeps.cut (s₀ := s₀) (x := x) ?_ ?_) <;> [subst x; (clear_value x; intro hx)]) | lift_lets
    | (with_reducible first | apply State.coldStart_keeps | apply State.deriveIdentity_keeps | apply State.openStore_keeps | apply State.powerOn_keeps | apply State.serviceBoot_keeps | apply State.Keeps.ite | apply State.Keeps.ite_fst | apply KeepsRes.ite | apply KeepsRes.next)

theorem execSvcImageWrite_keeps {s₀ s : State} (h : State.Keeps s₀ s) (len : Nat) : KeepsRes s₀ (execSvcImageWrite len s) := by
  unfold execSvcImageWrite
  repeat' first
    | (with_reducible assumption) | (intro x; (with_reducible refine State.Keeps.cut (s₀ := s₀) (x := x) ?_ ?_) <;> [subst x; (clear_value x; intro hx)])
    | (intro x; clear_value x) | lift_lets
    | (with_reducible first | apply State.securityEvent_keeps | apply State.setFw_keeps | apply State.setN_keeps | apply State.Keeps.ite | apply State.Keeps.ite_fst | apply KeepsRes.ite | apply KeepsRes.next)

theorem execPowerGoodFall_keeps {s₀ s : State} (h : State.Keeps s₀ s)  : KeepsRes s₀ (execPowerGoodFall s) := by
  unfold execPowerGoodFall
  repeat' first
    | (with_reducible assumption) | (intro x; (with_reducible refine State.Keeps.cut (s₀ := s₀) (x := x) ?_ ?_) <;> [subst x; (clear_value x; intro hx)]) | lift_lets
    | (with_reducible first | apply State.tookFree_keeps | apply State.unpowered_keeps | apply State.wr_keeps | apply State.Keeps.ite | apply State.Keeps.ite_fst | apply KeepsRes.ite | apply KeepsRes.next | apply KeepsRes.fault)
    | (with_reducible exact State.Keeps.mk_of (by assumption)) | (fail_if_no_progress (with_reducible refine State.Keeps.mk_of ?_)) | split

theorem State.thawAll_keeps {s₀ s : State} (h : State.Keeps s₀ s)  : State.Keeps s₀ (State.thawAll s) := by
  unfold State.thawAll
  repeat' first
    | (with_reducible assumption) | (intro x; (with_reducible refine State.Keeps.cut (s₀ := s₀) (x := x) ?_ ?_) <;> [subst x; (clear_value x; intro hx)])
    | (intro x; clear_value x) | lift_lets | (with_reducible first | apply State.setN_keeps | apply State.thawInst_keeps | apply State.Keeps.ite | apply State.Keeps.ite_fst)
    | (with_reducible refine State.forEach_keeps ?_ _ _ (fun t x ht => ?_)) | (with_reducible exact State.Keeps.mk_of (by assumption))

theorem State.restartPass_keeps {s₀ s : State} (h : State.Keeps s₀ s)  : State.Keeps s₀ (State.restartPass s) := by
  unfold State.restartPass
  repeat' first
    | (with_reducible assumption) | (intro x; (with_reducible refine State.Keeps.cut (s₀ := s₀) (x := x) ?_ ?_) <;> [subst x; (clear_value x; intro hx)]) | lift_lets
    | (with_reducible first | apply State.setN_keeps | apply State.setObj_keeps | apply State.Keeps.ite | apply State.Keeps.ite_fst)
    | (with_reducible exact State.Keeps.mk_of (by assumption))

theorem execDrowseExit_keeps {s₀ s : State} (h : State.Keeps s₀ s) (env : StartEnv) : KeepsRes s₀ (execDrowseExit env s) := by
  unfold execDrowseExit
  repeat' first
    | (with_reducible assumption) | (intro x; (with_reducible refine State.Keeps.cut (s₀ := s₀) (x := x) ?_ ?_) <;> [subst x; (clear_value x; intro hx)])
    | (intro x; clear_value x) | lift_lets
    | (with_reducible first | apply State.comparatorTest_keeps | apply State.coresUp_keeps | apply State.domainsUp_keeps | apply State.orObj_keeps | apply State.restartPass_keeps | apply State.setN_keeps | apply State.startGranite_keeps | apply State.startHost_keeps | apply State.strataEvent_keeps | apply State.thawAll_keeps | apply State.Keeps.ite | apply State.Keeps.ite_fst | apply KeepsRes.ite | apply KeepsRes.next | apply KeepsRes.fault)
    | (with_reducible refine State.forEach_keeps ?_ _ _ (fun t x ht => ?_)) | (with_reducible exact State.Keeps.mk_of (by assumption))

theorem State.reloadUnits_keeps {s₀ s : State} (h : State.Keeps s₀ s)  : State.Keeps s₀ (State.reloadUnits s) := by
  unfold State.reloadUnits
  have hf : State.Keeps s₀ { s with
      objs := s.objs.filter (fun x => (domainOf (x.1 / 256)).isNone)
      doms := s.doms.filter fun x => (domainOf (x.1 / 256)).isNone } :=
    ⟨h.queue, h.free, h.out, fun c => by
      have := h.canon c
      simp only [State.canonical, Bool.and_eq_true] at *
      exact ⟨⟨this.1.1, TMap.wf_filter _ this.1.2⟩, TMap.wf_filter _ this.2⟩⟩
  repeat' first
    | (with_reducible assumption) | (intro x; (with_reducible refine State.Keeps.cut (s₀ := s₀) (x := x) ?_ ?_) <;> [subst x; (clear_value x; intro hx)])
    | (intro x; clear_value x) | lift_lets
    | (with_reducible first | apply State.clrObj_keeps | apply State.putRecord_keeps | apply State.Keeps.ite | apply State.Keeps.ite_fst)
    | (with_reducible refine State.forEach_keeps ?_ _ _ (fun t x ht => ?_)) | (with_reducible exact State.Keeps.mk_of (by assumption))
    | (fail_if_no_progress (with_reducible refine State.Keeps.mk_of ?_)) | split

theorem execSentryExit_keeps {s₀ s : State} (h : State.Keeps s₀ s) (env : StartEnv) : KeepsRes s₀ (execSentryExit env s) := by
  unfold execSentryExit
  repeat' first
    | (with_reducible assumption) | (intro x; (with_reducible refine State.Keeps.cut (s₀ := s₀) (x := x) ?_ ?_) <;> [subst x; (clear_value x; intro hx)])
    | (intro x; clear_value x) | lift_lets
    | (with_reducible first | apply State.bringUp_keeps | apply State.deriveWorlds_keeps | apply State.reloadUnits_keeps | apply State.restartPass_keeps | apply State.setN_keeps | apply State.setObj_keeps | apply State.startFw_keeps | apply State.strataEvent_keeps | apply State.writeRecord_keeps | apply State.Keeps.ite | apply State.Keeps.ite_fst | apply KeepsRes.ite | apply KeepsRes.next | apply KeepsRes.fault)
    | (with_reducible refine State.forEach_keeps ?_ _ _ (fun t x ht => ?_)) | (with_reducible exact State.Keeps.mk_of (by assumption))

end Sys2Proof.Machine
end

