-- ==== Sys2Proof/Laws/KeepObjWrite.lean ====
section
/-! SUPPORT. What the operations of Machine/ObjWrite.lean keep (Laws/Keeps.lean). -/

namespace Sys2Proof.Machine

theorem State.domContents_keeps {s₀ s : State} (h : State.Keeps s₀ s) (c : Ctx) (idx sub : Nat) : KeepsExP s₀ (State.domContents s c idx sub) := by
  unfold State.domContents
  repeat' first
    | (with_reducible assumption) | lift_lets
    | (with_reducible first | apply State.attest_keeps | apply State.Keeps.ite | apply State.Keeps.ite_fst | apply KeepsExP.ite | apply KeepsExP.ok | apply KeepsExP.error)
    | (with_reducible refine KeepsExP.map (fun t ht => ?_)) | (with_reducible exact State.Keeps.mk_of (by assumption))
    | (fail_if_no_progress (with_reducible refine State.Keeps.mk_of ?_)) | split | (refine State.Keeps.of_fst (by assumption) ?_) | (refine KeepsEx.elim (by assumption) ?_)

theorem State.xferRuns_keeps {s₀ s : State} (h : State.Keeps s₀ s) (c : Ctx) (x : Xfer) : State.Keeps s₀ (State.xferRuns s c x) := by
  unfold State.xferRuns
  repeat' first
    | (with_reducible assumption) | (intro x; clear_value x) | lift_lets | (with_reducible apply State.setCtx_keeps)

theorem State.startCopyOut_keeps {s₀ s : State} (h : State.Keeps s₀ s) (r : Requester) : KeepsEx s₀ (State.startCopyOut s r) := by
  unfold State.startCopyOut
  repeat' first
    | (with_reducible assumption) | (intro x; clear_value x) | lift_lets
    | (with_reducible first | apply State.domContents_keeps | apply State.xferRuns_keeps | apply State.Keeps.ite | apply State.Keeps.ite_fst | apply KeepsEx.ite | apply KeepsEx.ok | apply KeepsEx.error | apply KeepsEx.pure | apply KeepsEx.throw)
    | (with_reducible refine KeepsEx.map (fun t ht => ?_)) | (with_reducible exact State.Keeps.mk_of (by assumption))
    | (fail_if_no_progress (with_reducible refine State.Keeps.mk_of ?_)) | split | (refine State.Keeps.of_fst (by assumption) ?_) | (refine KeepsEx.elim (by assumption) ?_)
    | (refine KeepsExP.elim (by assumption) ?_)

theorem State.startLoad_keeps {s₀ s : State} (h : State.Keeps s₀ s) (r : Requester) : KeepsEx s₀ (State.startLoad s r) := by
  unfold State.startLoad
  repeat' first
    | (with_reducible assumption) | (intro x; clear_value x) | lift_lets
    | (with_reducible first | apply State.xferRuns_keeps | apply State.Keeps.ite | apply State.Keeps.ite_fst | apply KeepsEx.ite | apply KeepsEx.ok | apply KeepsEx.error)

theorem State.xferCommand_keeps {s₀ s : State} (h : State.Keeps s₀ s) (r : Requester) (v : Word64) : KeepsEx s₀ (State.xferCommand s r v) := by
  unfold State.xferCommand
  repeat' first
    | (with_reducible assumption) | lift_lets
    | (with_reducible first | apply State.startCopyOut_keeps | apply State.startLoad_keeps | apply State.Keeps.ite | apply State.Keeps.ite_fst | apply KeepsEx.ite)

theorem execXferCopy_keeps {s₀ s : State} (h : State.Keeps s₀ s) (src : Src) : KeepsRes s₀ (execXferCopy src s) := by
  unfold execXferCopy
  repeat' first
    | (with_reducible assumption) | lift_lets | (with_reducible apply State.startCopyOut_keeps) | (with_reducible refine State.command_keeps ?_ _ _ _ _ _ (fun r t ht => ?_))

theorem execXferLoad_keeps {s₀ s : State} (h : State.Keeps s₀ s) (src : Src) : KeepsRes s₀ (execXferLoad src s) := by
  unfold execXferLoad
  repeat' first
    | (with_reducible assumption) | lift_lets | (with_reducible apply State.startLoad_keeps) | (with_reducible refine State.command_keeps ?_ _ _ _ _ _ (fun r t ht => ?_))

theorem State.tried_keeps {s₀ s : State} (h : State.Keeps s₀ s) (x : Except Nat State) (hx : KeepsEx s₀ x) : State.Keeps s₀ (State.tried s x).1 := by
  cases x with
  | error _ => exact h
  | ok t => exact hx t rfl

theorem State.stepped_keeps {s₀ s : State} (h : State.Keeps s₀ s) (x : Result) (hx : KeepsRes s₀ x) : State.Keeps s₀ (State.stepped s x) := by
  cases x with
  | next t => exact hx t rfl
  | fault _ => exact h
  | refused _ => exact h

theorem State.writeDevice_keeps {s₀ s : State} (h : State.Keeps s₀ s) (r : Requester) (idx sub : Nat) (v : Word64) : State.Keeps s₀ (State.writeDevice s r idx sub v).1 := by
  unfold State.writeDevice
  repeat' first
    | (with_reducible assumption) | (intro x; clear_value x) | lift_lets
    | (with_reducible first | apply State.plainWrite_keeps | apply State.receiveCommit_keeps | apply State.setCtx_keeps | apply State.storeStart_keeps | apply State.tried_keeps | apply State.upSession_keeps | apply State.xferCommand_keeps | apply State.Keeps.ite | apply State.Keeps.ite_fst | apply KeepsEx.ite | apply KeepsEx.ok | apply KeepsEx.error | apply KeepsEx.pure | apply KeepsEx.throw)
    | (with_reducible refine KeepsEx.map (fun t ht => ?_)) | (with_reducible exact State.Keeps.mk_of (by assumption))
    | (fail_if_no_progress (with_reducible refine State.Keeps.mk_of ?_)) | split | (refine State.Keeps.of_fst (by assumption) ?_) | (refine KeepsEx.elim (by assumption) ?_)
    | (refine KeepsExP.elim (by assumption) ?_)

theorem State.writeTime_keeps {s₀ s : State} (h : State.Keeps s₀ s) (idx sub : Nat) (v : Word64) : State.Keeps s₀ (State.writeTime s idx sub v).1 := by
  unfold State.writeTime
  repeat' first
    | (with_reducible assumption) | lift_lets
    | (with_reducible first | apply State.plainWrite_keeps | apply State.selectDomain_keeps | apply State.setpoint_keeps | apply State.Keeps.ite | apply State.Keeps.ite_fst)

theorem State.writeCapture_keeps {s₀ s : State} (h : State.Keeps s₀ s) (k sub : Nat) (v : Word64) : State.Keeps s₀ (State.writeCapture s k sub v).1 := by
  unfold State.writeCapture
  repeat' first
    | (with_reducible assumption) | (intro x; (with_reducible refine State.Keeps.cut (s₀ := s₀) (x := x) ?_ ?_) <;> [subst x; (clear_value x; intro hx)])
    | (intro x; clear_value x) | lift_lets
    | (with_reducible first | apply State.refreshCapSize_keeps | apply State.setObj_keeps | apply State.Keeps.ite | apply State.Keeps.ite_fst)

theorem State.writeInstCommand_keeps {s₀ s : State} (h : State.Keeps s₀ s) (src : Src) (m : Fin 16) (v : Word64) : State.Keeps s₀ (State.writeInstCommand s src m v) := by
  unfold State.writeInstCommand
  repeat' first
    | (with_reducible assumption) | (intro x; refine State.Keeps.fn x ?_; subst x) | (intro x; clear_value x) | lift_lets
    | (with_reducible first | apply execInstCreate_keeps | apply execInstDestroy_keeps | apply execInstFreeze_keeps | apply execInstOrphan_keeps | apply execInstRecover_keeps | apply execInstRestoreImage_keeps | apply execInstSaveImage_keeps | apply execInstThaw_keeps | apply State.stepped_keeps | apply State.tookFree_keeps | apply State.Keeps.ite | apply State.Keeps.ite_fst)
    | (with_reducible exact State.Keeps.mk_of (by assumption)) | (fail_if_no_progress (with_reducible refine State.Keeps.mk_of ?_)) | split

theorem State.writeInstance_keeps {s₀ s : State} (h : State.Keeps s₀ s) (src : Src) (m : Fin 16) (idx sub : Nat) (v : Word64) : State.Keeps s₀ (State.writeInstance s src m idx sub v).1 := by
  unfold State.writeInstance
  repeat' first
    | (with_reducible assumption) | lift_lets
    | (with_reducible first | apply State.kvCommand_keeps | apply State.plainWrite_keeps | apply State.writeInstCommand_keeps | apply State.zeroAccounts_keeps | apply State.Keeps.ite | apply State.Keeps.ite_fst)
    | (with_reducible exact State.Keeps.mk_of (by assumption)) | (fail_if_no_progress (with_reducible refine State.Keeps.mk_of ?_)) | split

theorem State.writeGranite_keeps {s₀ s : State} (h : State.Keeps s₀ s) (src : Src) (idx sub : Nat) (v : Word64) : State.Keeps s₀ (State.writeGranite s src idx sub v).1 := by
  unfold State.writeGranite
  repeat' first
    | (with_reducible assumption) | lift_lets
    | (with_reducible first | apply State.plainWrite_keeps | apply State.setObj_keeps | apply State.tried_keeps | apply State.writeCapture_keeps | apply State.writeInstance_keeps | apply State.writePreempt_keeps | apply State.writeReplace_keeps | apply State.Keeps.ite | apply State.Keeps.ite_fst | apply KeepsEx.ite | apply KeepsEx.ok | apply KeepsEx.error | apply KeepsEx.pure | apply KeepsEx.throw)
    | (with_reducible refine KeepsEx.map (fun t ht => ?_)) | (with_reducible exact State.Keeps.mk_of (by assumption))
    | (fail_if_no_progress (with_reducible refine State.Keeps.mk_of ?_)) | split

theorem State.writeStacks_keeps {s₀ s : State} (h : State.Keeps s₀ s) (idx sub : Nat) (v : Word64) : State.Keeps s₀ (State.writeStacks s idx sub v).1 := by
  unfold State.writeStacks
  repeat' first
    | (with_reducible assumption) | lift_lets
    | (with_reducible first | apply State.plainWrite_keeps | apply State.reshare_keeps | apply State.tried_keeps | apply State.writeGuarantee_keeps | apply State.writeSafetyClasses_keeps | apply State.Keeps.ite | apply State.Keeps.ite_fst)

theorem State.writeSensor_keeps {s₀ s : State} (h : State.Keeps s₀ s) (idx sub : Nat) (v : Word64) : State.Keeps s₀ (State.writeSensor s idx sub v).1 := by
  unfold State.writeSensor
  repeat' first
    | (with_reducible assumption) | (intro x; (with_reducible refine State.Keeps.cut (s₀ := s₀) (x := x) ?_ ?_) <;> [subst x; (clear_value x; intro hx)])
    | (intro x; clear_value x) | lift_lets
    | (with_reducible first | apply State.plainWrite_keeps | apply State.setN_keeps | apply State.setObj_keeps | apply State.tookFree_keeps | apply State.tried_keeps | apply State.writeStreamConfig_keeps | apply State.Keeps.ite | apply State.Keeps.ite_fst)

theorem State.writeGraphics_keeps {s₀ s : State} (h : State.Keeps s₀ s) (idx sub : Nat) (v : Word64) : State.Keeps s₀ (State.writeGraphics s idx sub v).1 := by
  unfold State.writeGraphics
  repeat' first
    | (with_reducible assumption) | lift_lets
    | (with_reducible first | apply State.plainWrite_keeps | apply State.tried_keeps | apply State.writeGarnet_keeps | apply State.writeGfxInst_keeps | apply State.writeResume_keeps | apply State.writeRingTail_keeps | apply State.Keeps.ite | apply State.Keeps.ite_fst)

theorem State.writePort_keeps {s₀ s : State} (h : State.Keeps s₀ s) (q : Fin 12) (v : Word64) : State.Keeps s₀ (State.writePort s q v) := by
  unfold State.writePort
  repeat' first
    | (with_reducible assumption) | (intro x; clear_value x) | lift_lets
    | (with_reducible first | apply State.linkDown_keeps | apply State.setObj_keeps | apply State.Keeps.ite)

theorem State.writeCan_keeps {s₀ s : State} (h : State.Keeps s₀ s) (c : Fin 8) (v : Word64) : State.Keeps s₀ (State.writeCan s c v) := by
  unfold State.writeCan
  repeat' first
    | (with_reducible assumption) | (intro x; (with_reducible refine State.Keeps.cut (s₀ := s₀) (x := x) ?_ ?_) <;> [subst x; (clear_value x; intro hx)])
    | (intro x; clear_value x) | lift_lets
    | (with_reducible first | apply State.canRecover_keeps | apply State.closeLink_keeps | apply State.setCanQueue_keeps | apply State.setObj_keeps | apply State.Keeps.ite | apply State.Keeps.ite_fst)
    | (with_reducible exact State.Keeps.mk_of (by assumption))

theorem State.writeNetwork_keeps {s₀ s : State} (h : State.Keeps s₀ s) (idx sub : Nat) (v : Word64) : State.Keeps s₀ (State.writeNetwork s idx sub v).1 := by
  unfold State.writeNetwork
  repeat' first
    | (with_reducible assumption) | (intro x; refine State.Keeps.fn x ?_; subst x) | lift_lets
    | (with_reducible first | apply State.plainWrite_keeps | apply State.setN_keeps | apply State.tried_keeps | apply State.writeCan_keeps | apply State.writePort_keeps | apply State.writeRestart_keeps | apply State.writeT1s_keeps | apply State.writeTsRead_keeps | apply State.writeTxTail_keeps | apply State.Keeps.ite | apply State.Keeps.ite_fst)

theorem State.writeLinks_keeps {s₀ s : State} (h : State.Keeps s₀ s) (idx sub : Nat) (v : Word64) : State.Keeps s₀ (State.writeLinks s idx sub v).1 := by
  unfold State.writeLinks
  repeat' first
    | (with_reducible assumption) | lift_lets
    | (with_reducible first | apply State.plainWrite_keeps | apply State.writeLinkConfig_keeps | apply State.writePweClear_keeps | apply State.Keeps.ite | apply State.Keeps.ite_fst)

theorem State.writeSafety_keeps {s₀ s : State} (h : State.Keeps s₀ s) (idx sub : Nat) (v : Word64) : State.Keeps s₀ (State.writeSafety s idx sub v).1 := by
  unfold State.writeSafety
  repeat' first
    | (with_reducible assumption) | lift_lets
    | (with_reducible first | apply State.plainWrite_keeps | apply State.setGolden_keeps | apply State.strataEvent_keeps | apply State.tried_keeps | apply State.writeCopyout_keeps | apply State.writeSafeExit_keeps | apply State.writeSafeRequest_keeps | apply State.writeSelftest_keeps | apply State.writeStrataClear_keeps | apply State.Keeps.ite | apply State.Keeps.ite_fst)

theorem State.writeSecurity_keeps {s₀ s : State} (h : State.Keeps s₀ s) (idx sub : Nat) (v : Word64) : State.Keeps s₀ (State.writeSecurity s idx sub v).1 := by
  unfold State.writeSecurity
  repeat' first
    | (with_reducible assumption) | lift_lets
    | (with_reducible first | apply State.plainWrite_keeps | apply State.tried_keeps | apply State.writeFwRestart_keeps | apply State.writeHold_keeps | apply State.writeHostRelease_keeps | apply State.writeRollback_keeps | apply State.Keeps.ite | apply State.Keeps.ite_fst)

theorem State.writePower_keeps {s₀ s : State} (h : State.Keeps s₀ s) (r : Requester) (idx sub : Nat) (v : Word64) : State.Keeps s₀ (State.writePower s r idx sub v).1 := by
  unfold State.writePower
  repeat' first
    | (with_reducible assumption) | lift_lets
    | (with_reducible first | apply State.plainWrite_keeps | apply State.powerRequest_keeps | apply State.tried_keeps | apply State.writeFreq_keeps | apply State.writePadRelease_keeps | apply State.Keeps.ite | apply State.Keeps.ite_fst)

theorem State.applyWrite_keeps {s₀ s : State} (h : State.Keeps s₀ s) (src : Src) (r : Requester) (idx sub : Nat) (v : Word64) : State.Keeps s₀ (State.applyWrite s src r idx sub v).1 := by
  unfold State.applyWrite
  repeat' first
    | (with_reducible assumption) | lift_lets
    | (with_reducible first | apply State.writeDevice_keeps | apply State.writeGranite_keeps | apply State.writeGraphics_keeps | apply State.writeLinks_keeps | apply State.writeNetwork_keeps | apply State.writePower_keeps | apply State.writeSafety_keeps | apply State.writeSecurity_keeps | apply State.writeSensor_keeps | apply State.writeStacks_keeps | apply State.writeTime_keeps | apply State.Keeps.ite | apply State.Keeps.ite_fst)

theorem State.writeObj_keeps {s₀ s : State} (h : State.Keeps s₀ s) (src : Src) (r : Requester) (idx sub : Nat) (v : Word64) : State.Keeps s₀ (State.writeObj s src r idx sub v).1 := by
  unfold State.writeObj
  repeat' first
    | (with_reducible assumption) | lift_lets
    | (with_reducible first | apply State.applyWrite_keeps | apply State.stage_keeps | apply State.tried_keeps | apply State.Keeps.ite | apply State.Keeps.ite_fst | apply KeepsEx.ite | apply KeepsEx.ok | apply KeepsEx.error | apply KeepsEx.pure | apply KeepsEx.throw)
    | (with_reducible refine KeepsEx.map (fun t ht => ?_)) | (with_reducible exact State.Keeps.mk_of (by assumption))
    | (fail_if_no_progress (with_reducible refine State.Keeps.mk_of ?_)) | split

theorem execWindowWrite_keeps {s₀ s : State} (h : State.Keeps s₀ s) (src : Src) (addr size : Nat) (v : Word64) : KeepsRes s₀ (execWindowWrite src addr size v s) := by
  unfold execWindowWrite
  refine KeepsRes.ite (KeepsRes.fault _) (KeepsRes.ite (KeepsRes.next (State.refuseAccess_keeps h _ _)) ?_)
  generalize 0xf800000000 = b
  refine State.command_keeps h _ _ _ _ _ (fun r t ht => KeepsEx.ok ?_)
  exact State.Keeps.ite (State.writeObj_keeps ht _ _ _ _ _) (State.latch_keeps (State.writeObj_keeps ht _ _ _ _ _) _ _ _ _)

theorem execDomainSwitch_keeps {s₀ s : State} (h : State.Keeps s₀ s) (src : Src) (v : Word64) : KeepsRes s₀ (execDomainSwitch src v s) := by
  unfold execDomainSwitch
  repeat' first
    | (with_reducible assumption) | lift_lets
    | (with_reducible first | apply State.selectDomain_keeps | apply State.Keeps.ite | apply State.Keeps.ite_fst | apply KeepsRes.ite | apply KeepsRes.next | apply KeepsRes.fault | apply KeepsEx.ite | apply KeepsEx.ok)
    | (with_reducible refine State.command_keeps ?_ _ _ _ _ _ (fun r t ht => ?_))

theorem execSetpointWrite_keeps {s₀ s : State} (h : State.Keeps s₀ s) (src : Src) (n : Fin 8) (v : Word64) : KeepsRes s₀ (execSetpointWrite src n v s) := by
  unfold execSetpointWrite
  repeat' first
    | (with_reducible assumption) | lift_lets
    | (with_reducible first | apply State.setpoint_keeps | apply State.Keeps.ite | apply State.Keeps.ite_fst | apply KeepsRes.ite | apply KeepsRes.next | apply KeepsRes.fault | apply KeepsEx.ite | apply KeepsEx.ok)
    | (with_reducible refine State.command_keeps ?_ _ _ _ _ _ (fun r t ht => ?_))

end Sys2Proof.Machine
end

