-- ==== Sys2Proof/Laws/KeepTransfer.lean ====
section
/-! SUPPORT. What the operations of Machine/Transfer.lean keep (Laws/Keeps.lean). -/

namespace Sys2Proof.Machine

theorem State.imageRecord_keeps {s₀ s : State} (h : State.Keeps s₀ s) (rq : Requester) (x : Wrote) (r : Rec) (hb : State.Keeps s₀ x.1) : State.Keeps s₀ (State.imageRecord s rq x r).1 := by
  unfold State.imageRecord
  repeat' first
    | (with_reducible assumption) | lift_lets
    | (with_reducible first | apply State.applyWrite_keeps | apply State.setDom_keeps | apply hb | apply State.Keeps.ite | apply State.Keeps.ite_fst)
    | (with_reducible exact State.Keeps.mk_of (by assumption)) | (fail_if_no_progress (with_reducible refine State.Keeps.mk_of ?_)) | split

theorem State.configLoad_keeps {s₀ s : State} (h : State.Keeps s₀ s) (c : Ctx) (bs : List Byte) : State.Keeps s₀ (State.configLoad s c bs).1 := by
  unfold State.configLoad
  repeat' first
    | (with_reducible assumption) | (intro x; (with_reducible refine State.Keeps.cutP (s₀ := s₀) (x := x) ?_ ?_) <;> [subst x; (clear_value x; intro hx)])
    | (intro x; refine State.Keeps.fn x ?_; subst x) | (intro x; clear_value x) | lift_lets
    | (with_reducible first | apply State.applySet_keeps | apply State.storeStart_keeps | apply State.Keeps.ite | apply State.Keeps.ite_fst)
    | (with_reducible refine State.imageRecord_keeps ?_ _ _ _ ?_) | (with_reducible refine foldl_keeps ?_ _ _ (fun t x ht => ?_))
    | (with_reducible refine foldl_fst_keeps ?_ _ _ (fun t x ht => ?_)) | (with_reducible exact State.Keeps.mk_of (by assumption))
    | (fail_if_no_progress (with_reducible refine State.Keeps.mk_of ?_)) | split | (refine State.Keeps.of_fst (by assumption) ?_) | (refine KeepsEx.elim (by assumption) ?_)

theorem execConfigImageLoad_keeps {s₀ s : State} (h : State.Keeps s₀ s) (src : Src) (image : List Byte) : KeepsRes s₀ (execConfigImageLoad src image s) := by
  unfold execConfigImageLoad
  repeat' first
    | (with_reducible assumption) | (intro x; (with_reducible refine State.Keeps.cutP (s₀ := s₀) (x := x) ?_ ?_) <;> [subst x; (clear_value x; intro hx)])
    | (intro x; clear_value x) | lift_lets
    | (with_reducible first | apply State.configLoad_keeps | apply State.emit_keeps | apply State.Keeps.ite | apply State.Keeps.ite_fst | apply KeepsRes.ite | apply KeepsRes.next | apply KeepsRes.fault)
    | (with_reducible exact State.Keeps.mk_of (by assumption)) | (fail_if_no_progress (with_reducible refine State.Keeps.mk_of ?_)) | split

theorem State.saInstall_keeps {s₀ s : State} (h : State.Keeps s₀ s) (q : Nat) (bs : List Byte) : State.Keeps s₀ (State.saInstall s q bs).1 := by
  unfold State.saInstall
  repeat' first
    | (with_reducible assumption) | lift_lets | (with_reducible first | apply State.Keeps.ite | apply State.Keeps.ite_fst)
    | (with_reducible exact State.Keeps.mk_of (by assumption))

theorem State.putDomain_keeps {s₀ s : State} (h : State.Keeps s₀ s) (r : Requester) (idx sub : Nat) (bs : List Byte) : State.Keeps s₀ (State.putDomain s r idx sub bs).1 := by
  unfold State.putDomain
  repeat' first
    | (with_reducible assumption) | lift_lets
    | (with_reducible first | apply State.configLoad_keeps | apply State.fwUpdate_keeps | apply State.saInstall_keeps | apply State.setDom_keeps | apply State.stage_keeps | apply State.tookFree_keeps | apply State.tried_keeps | apply State.Keeps.ite | apply State.Keeps.ite_fst | apply KeepsEx.ite | apply KeepsEx.ok | apply KeepsEx.error | apply KeepsEx.pure | apply KeepsEx.throw)
    | (with_reducible refine KeepsEx.map (fun t ht => ?_)) | (with_reducible exact State.Keeps.mk_of (by assumption))
    | (fail_if_no_progress (with_reducible refine State.Keeps.mk_of ?_)) | split

theorem State.deliver_keeps {s₀ s : State} (h : State.Keeps s₀ s) (a : Nat) (bs : List Byte) : State.Keeps s₀ (State.deliver s a bs) := by
  unfold State.deliver
  repeat' first
    | (with_reducible assumption) | lift_lets | (with_reducible first | apply State.emit_keeps | apply State.wr_keeps | apply State.Keeps.ite | apply State.Keeps.ite_fst)
    | (with_reducible exact State.Keeps.mk_of (by assumption)) | (fail_if_no_progress (with_reducible refine State.Keeps.mk_of ?_)) | split

theorem State.xferEffect_keeps {s₀ s : State} (h : State.Keeps s₀ s) (c : Ctx) (x : Xfer) : State.Keeps s₀ (State.xferEffect s c x).1 := by
  unfold State.xferEffect
  repeat' first
    | (with_reducible assumption) | lift_lets
    | (with_reducible first | apply State.deliver_keeps | apply State.putDomain_keeps | apply State.Keeps.ite | apply State.Keeps.ite_fst)

theorem execXferEnd_keeps {s₀ s : State} (h : State.Keeps s₀ s) (ctx : Ctx) : KeepsRes s₀ (execXferEnd ctx s) := by
  unfold execXferEnd
  repeat' first
    | (with_reducible assumption) | (intro x; (with_reducible refine State.Keeps.cutP (s₀ := s₀) (x := x) ?_ ?_) <;> [subst x; (clear_value x; intro hx)])
    | (intro x; clear_value x) | lift_lets
    | (with_reducible first | apply State.setCtx_keeps | apply State.xferEffect_keeps | apply State.Keeps.ite | apply State.Keeps.ite_fst | apply KeepsRes.ite | apply KeepsRes.next | apply KeepsRes.fault)
    | (with_reducible exact State.Keeps.mk_of (by assumption)) | (fail_if_no_progress (with_reducible refine State.Keeps.mk_of ?_)) | split

end Sys2Proof.Machine
end

