-- ==== Sys2Proof/Laws/KeepCxop.lean ====
section
/-! SUPPORT. What the operations of Machine/Cxop.lean keep (Laws/Keeps.lean). -/

namespace Sys2Proof.Machine

theorem State.answer_keeps {s₀ s : State} (h : State.Keeps s₀ s) (r : CxReq) (sid status : Nat) (payload : List Byte) : State.Keeps s₀ (State.answer s r sid status payload) := by
  unfold State.answer
  repeat' first
    | (with_reducible assumption) | lift_lets | (with_reducible apply State.emit_keeps)

theorem State.cxReceive_keeps {s₀ s : State} (h : State.Keeps s₀ s) (r : CxReq) (kind : Nat) (body : State → State) (hb : ∀ t, State.Keeps s₀ t → State.Keeps s₀ (body t)) : KeepsRes s₀ (State.cxReceive s r kind body) := by
  unfold State.cxReceive
  repeat' first
    | (with_reducible assumption) | lift_lets
    | (with_reducible first | apply State.count_keeps | apply hb | apply State.Keeps.ite | apply State.Keeps.ite_fst | apply KeepsRes.ite | apply KeepsRes.next)

theorem State.cxSession_keeps {s₀ s : State} (h : State.Keeps s₀ s) (r : CxReq) (kind : Nat) (unproved : Bool) (body : Session → State → State) (hb : ∀ x t, State.Keeps s₀ t → State.Keeps s₀ (body x t)) : State.Keeps s₀ (State.cxSession s r kind unproved body) := by
  unfold State.cxSession
  repeat' first
    | (with_reducible assumption) | (intro x; (with_reducible refine State.Keeps.cut (s₀ := s₀) (x := x) ?_ ?_) <;> [subst x; (clear_value x; intro hx)]) | lift_lets
    | (with_reducible first | apply State.answer_keeps | apply State.count_keeps | apply State.orObj_keeps | apply State.upSession_keeps | apply hb | apply State.Keeps.ite | apply State.Keeps.ite_fst)
    | (with_reducible exact State.Keeps.mk_of (by assumption)) | (fail_if_no_progress (with_reducible refine State.Keeps.mk_of ?_)) | split

theorem State.cxRequest_keeps {s₀ s : State} (h : State.Keeps s₀ s) (r : CxReq) (kind : Nat) (body : Requester → State → State) (hb : ∀ x t, State.Keeps s₀ t → State.Keeps s₀ (body x t)) : KeepsRes s₀ (State.cxRequest s r kind body) := by
  unfold State.cxRequest
  repeat' first
    | (with_reducible assumption) | lift_lets | (with_reducible apply hb) | (with_reducible refine State.cxReceive_keeps ?_ _ _ _ (fun t ht => ?_))
    | (with_reducible refine State.cxSession_keeps ?_ _ _ _ _ (fun x t ht => ?_))

theorem State.malformed_keeps {s₀ s : State} (h : State.Keeps s₀ s) (r : CxReq) : State.Keeps s₀ (State.malformed s r) := by
  unfold State.malformed
  repeat' first
    | (with_reducible assumption) | lift_lets | (with_reducible apply State.answer_keeps)

theorem State.sendSegs_keeps {s₀ s : State} (h : State.Keeps s₀ s) (sid kind seq : Nat) (segs : List (List Byte)) : State.Keeps s₀ (State.sendSegs s sid kind seq segs) := by
  unfold State.sendSegs
  repeat' first
    | (with_reducible assumption) | lift_lets | (with_reducible apply State.emit_keeps) | (with_reducible refine State.forEach_keeps ?_ _ _ (fun t x ht => ?_))

theorem execRead_keeps {s₀ s : State} (h : State.Keeps s₀ s) (r : CxReq) : KeepsRes s₀ (execRead r s) := by
  unfold execRead
  repeat' first
    | (with_reducible assumption) | lift_lets
    | (with_reducible first | apply State.malformed_keeps | apply State.sendSegs_keeps | apply State.Keeps.ite | apply State.Keeps.ite_fst | apply KeepsRes.ite | apply KeepsRes.next | apply KeepsRes.fault)
    | (with_reducible refine State.cxRequest_keeps ?_ _ _ _ (fun x t ht => ?_)) | (with_reducible exact State.Keeps.mk_of (by assumption))
    | (fail_if_no_progress (with_reducible refine State.Keeps.mk_of ?_)) | split

theorem State.writeItem_keeps {s₀ s : State} (h : State.Keeps s₀ s) (rq : Requester) (sid idx sub ty : Nat) (v : Word64) : State.Keeps s₀ (State.writeItem s rq sid idx sub ty v).1 := by
  unfold State.writeItem
  repeat' first
    | (with_reducible assumption) | (intro x; clear_value x) | lift_lets
    | (with_reducible first | apply State.writeObj_keeps | apply State.Keeps.ite | apply State.Keeps.ite_fst)

theorem execWrite_keeps {s₀ s : State} (h : State.Keeps s₀ s) (r : CxReq) : KeepsRes s₀ (execWrite r s) := by
  unfold execWrite
  repeat' first
    | (with_reducible assumption) | (intro x; (with_reducible refine State.Keeps.cutP (s₀ := s₀) (x := x) ?_ ?_) <;> [subst x; (clear_value x; intro hx)])
    | (intro x; clear_value x) | lift_lets
    | (with_reducible first | apply State.answer_keeps | apply State.malformed_keeps | apply State.writeItem_keeps | apply State.Keeps.ite)
    | (with_reducible refine State.cxRequest_keeps ?_ _ _ _ (fun x t ht => ?_)) | (with_reducible refine foldl_keeps ?_ _ _ (fun t x ht => ?_))
    | (with_reducible refine foldl_fst_keeps ?_ _ _ (fun t x ht => ?_))

theorem State.blockContents_keeps {s₀ s : State} (h : State.Keeps s₀ s) (rq : Requester) (idx sub off : Nat) : KeepsExP s₀ (State.blockContents s rq idx sub off) := by
  unfold State.blockContents
  repeat' first
    | (with_reducible assumption) | (intro x; (with_reducible refine State.Keeps.cutP (s₀ := s₀) (x := x) ?_ ?_) <;> [subst x; (clear_value x; intro hx)])
    | (intro x; clear_value x) | lift_lets
    | (with_reducible first | apply State.domContents_keeps | apply State.Keeps.ite | apply State.Keeps.ite_fst | apply KeepsExP.ite | apply KeepsExP.ok | apply KeepsExP.error)
    | (with_reducible refine KeepsExP.map (fun t ht => ?_)) | (with_reducible exact State.Keeps.mk_of (by assumption))
    | (fail_if_no_progress (with_reducible refine State.Keeps.mk_of ?_)) | split | (refine State.Keeps.of_fst (by assumption) ?_) | (refine KeepsEx.elim (by assumption) ?_)
    | (refine KeepsExP.elim (by assumption) ?_)

theorem execReadBlock_keeps {s₀ s : State} (h : State.Keeps s₀ s) (r : CxReq) : KeepsRes s₀ (execReadBlock r s) := by
  unfold execReadBlock
  repeat' first
    | (with_reducible assumption) | (intro x; clear_value x) | lift_lets
    | (with_reducible first | apply State.answer_keeps | apply State.blockContents_keeps | apply State.malformed_keeps | apply State.Keeps.ite | apply State.Keeps.ite_fst | apply KeepsRes.ite | apply KeepsRes.next | apply KeepsRes.fault)
    | (with_reducible refine State.cxRequest_keeps ?_ _ _ _ (fun x t ht => ?_)) | (with_reducible exact State.Keeps.mk_of (by assumption))
    | (fail_if_no_progress (with_reducible refine State.Keeps.mk_of ?_)) | split | (refine State.Keeps.of_fst (by assumption) ?_) | (refine KeepsEx.elim (by assumption) ?_)
    | (refine KeepsExP.elim (by assumption) ?_)

theorem State.setBlock_keeps {s₀ s : State} (h : State.Keeps s₀ s) (sid : Nat) (b : Option BlockXfer) : State.Keeps s₀ (State.setBlock s sid b) := by
  unfold State.setBlock
  repeat' first
    | (with_reducible assumption) | lift_lets | (with_reducible apply State.upSession_keeps)

theorem State.blockSegment_keeps {s₀ s : State} (h : State.Keeps s₀ s) (rq : Requester) (sid : Nat) (p : List Byte) (more : Bool) : State.Keeps s₀ (State.blockSegment s rq sid p more).1 := by
  unfold State.blockSegment
  repeat' first
    | (with_reducible assumption) | (intro x; (with_reducible refine State.Keeps.cut (s₀ := s₀) (x := x) ?_ ?_) <;> [subst x; (clear_value x; intro hx)])
    | (intro x; clear_value x) | lift_lets
    | (with_reducible first | apply State.putDomain_keeps | apply State.setBlock_keeps | apply State.Keeps.ite | apply State.Keeps.ite_fst)

theorem execWriteBlock_keeps {s₀ s : State} (h : State.Keeps s₀ s) (r : CxReq) : KeepsRes s₀ (execWriteBlock r s) := by
  unfold execWriteBlock
  repeat' first
    | (with_reducible assumption) | (intro x; (with_reducible refine State.Keeps.cutP (s₀ := s₀) (x := x) ?_ ?_) <;> [subst x; (clear_value x; intro hx)])
    | (intro x; clear_value x) | lift_lets
    | (with_reducible first | apply State.answer_keeps | apply State.blockSegment_keeps | apply State.malformed_keeps | apply State.Keeps.ite)
    | (with_reducible refine State.cxRequest_keeps ?_ _ _ _ (fun x t ht => ?_))

theorem execCommit_keeps {s₀ s : State} (h : State.Keeps s₀ s) (r : CxReq) : KeepsRes s₀ (execCommit r s) := by
  unfold execCommit
  repeat' first
    | (with_reducible assumption) | lift_lets
    | (with_reducible first | apply State.answer_keeps | apply State.commitAnswer_keeps | apply State.malformed_keeps | apply State.receiveCommit_keeps | apply State.Keeps.ite | apply State.Keeps.ite_fst | apply KeepsRes.ite | apply KeepsRes.next | apply KeepsRes.fault)
    | (with_reducible refine State.cxRequest_keeps ?_ _ _ _ (fun x t ht => ?_)) | (with_reducible exact State.Keeps.mk_of (by assumption))
    | (fail_if_no_progress (with_reducible refine State.Keeps.mk_of ?_)) | split | (refine State.Keeps.of_fst (by assumption) ?_) | (refine KeepsEx.elim (by assumption) ?_)
    | (refine KeepsExP.elim (by assumption) ?_)

theorem State.bindSub_keeps {s₀ s : State} (h : State.Keeps s₀ s) (sid subId entry : Nat) (cancel : Bool) (refs : List Ref) : State.Keeps s₀ (State.bindSub s sid subId entry cancel refs).1 := by
  unfold State.bindSub
  repeat' first
    | (with_reducible assumption) | (intro x; clear_value x) | lift_lets
    | (with_reducible first | apply State.refreshSessions_keeps | apply State.Keeps.ite | apply State.Keeps.ite_fst)
    | (with_reducible exact State.Keeps.mk_of (by assumption))

theorem execSubscribe_keeps {s₀ s : State} (h : State.Keeps s₀ s) (r : CxReq) : KeepsRes s₀ (execSubscribe r s) := by
  unfold execSubscribe
  repeat' first
    | (with_reducible assumption) | (intro x; (with_reducible refine State.Keeps.cutP (s₀ := s₀) (x := x) ?_ ?_) <;> [subst x; (clear_value x; intro hx)])
    | (intro x; clear_value x) | lift_lets
    | (with_reducible first | apply State.answer_keeps | apply State.bindSub_keeps | apply State.malformed_keeps | apply State.Keeps.ite)
    | (with_reducible refine State.cxRequest_keeps ?_ _ _ _ (fun x t ht => ?_))

theorem State.publishOne_keeps {s₀ s : State} (h : State.Keeps s₀ s) (mark : Word64) (x : Subscription) : State.Keeps s₀ (State.publishOne s mark x) := by
  unfold State.publishOne
  repeat' first
    | (with_reducible assumption) | (intro x; clear_value x) | lift_lets
    | (with_reducible first | apply State.sendSegs_keeps | apply State.upSession_keeps | apply State.Keeps.ite | apply State.Keeps.ite_fst)
    | (with_reducible exact State.Keeps.mk_of (by assumption)) | (fail_if_no_progress (with_reducible refine State.Keeps.mk_of ?_)) | split

theorem execPublish_keeps {s₀ s : State} (h : State.Keeps s₀ s) (e : Fin 1024) : KeepsRes s₀ (execPublish e s) := by
  unfold execPublish
  repeat' first
    | (with_reducible assumption) | lift_lets
    | (with_reducible first | apply State.fire_keeps | apply State.publishOne_keeps | apply State.Keeps.ite | apply State.Keeps.ite_fst | apply KeepsRes.ite | apply KeepsRes.next | apply KeepsRes.fault)
    | (with_reducible refine State.forEach_keeps ?_ _ _ (fun t x ht => ?_)) | (with_reducible exact State.Keeps.mk_of (by assumption))
    | (fail_if_no_progress (with_reducible refine State.Keeps.mk_of ?_)) | split | (refine State.Keeps.of_fst (by assumption) ?_) | (refine KeepsEx.elim (by assumption) ?_)
    | (refine KeepsExP.elim (by assumption) ?_) | (refine KeepsExW.elim (by assumption) ?_) | (refine KeepsOptP.elim (by assumption) ?_)

theorem State.openSession_keeps {s₀ s : State} (h : State.Keeps s₀ s) (r : CxReq) : State.Keeps s₀ (State.openSession s r) := by
  unfold State.openSession
  repeat' first
    | (with_reducible assumption) | (intro x; (with_reducible refine State.Keeps.cut (s₀ := s₀) (x := x) ?_ ?_) <;> [subst x; (clear_value x; intro hx)])
    | (intro x; clear_value x) | lift_lets
    | (with_reducible first | apply State.answer_keeps | apply State.tookFree_keeps | apply State.Keeps.ite | apply State.Keeps.ite_fst)
    | (with_reducible exact State.Keeps.mk_of (by assumption))

theorem execOpen_keeps {s₀ s : State} (h : State.Keeps s₀ s) (r : CxReq) : KeepsRes s₀ (execOpen r s) := by
  unfold execOpen
  repeat' first
    | (with_reducible assumption) | (intro x; clear_value x) | lift_lets
    | (with_reducible first | apply State.answer_keeps | apply State.malformed_keeps | apply State.openSession_keeps | apply State.Keeps.ite)
    | (with_reducible refine State.cxReceive_keeps ?_ _ _ _ (fun t ht => ?_)) | (with_reducible refine State.cxSession_keeps ?_ _ _ _ _ (fun x t ht => ?_))

theorem State.authFailed_keeps {s₀ s : State} (h : State.Keeps s₀ s) (sid : Nat) : State.Keeps s₀ (State.authFailed s sid) := by
  unfold State.authFailed
  repeat' first
    | (with_reducible assumption) | lift_lets | (with_reducible first | apply State.count_keeps | apply State.freeSession_keeps | apply State.orObj_keeps)

theorem State.openProved_keeps {s₀ s : State} (h : State.Keeps s₀ s) (x : Session) (secure : Bool) : State.Keeps s₀ (State.openProved s x secure) := by
  unfold State.openProved
  repeat' first
    | (with_reducible assumption) | (intro x; clear_value x) | lift_lets
    | (with_reducible first | apply State.orObj_keeps | apply State.refreshSessions_keeps | apply State.upSession_keeps)

theorem execProve_keeps {s₀ s : State} (h : State.Keeps s₀ s) (r : CxReq) : KeepsRes s₀ (execProve r s) := by
  unfold execProve
  repeat' first
    | (with_reducible assumption) | lift_lets
    | (with_reducible first | apply State.answer_keeps | apply State.authFailed_keeps | apply State.malformed_keeps | apply State.openProved_keeps | apply State.Keeps.ite | apply State.Keeps.ite_fst | apply KeepsRes.ite | apply KeepsRes.next | apply KeepsRes.fault)
    | (with_reducible refine State.cxReceive_keeps ?_ _ _ _ (fun t ht => ?_)) | (with_reducible refine State.cxSession_keeps ?_ _ _ _ _ (fun x t ht => ?_))
    | (with_reducible exact State.Keeps.mk_of (by assumption)) | (fail_if_no_progress (with_reducible refine State.Keeps.mk_of ?_)) | split

theorem execClose_keeps {s₀ s : State} (h : State.Keeps s₀ s) (r : CxReq) : KeepsRes s₀ (execClose r s) := by
  unfold execClose
  repeat' first
    | (with_reducible assumption) | lift_lets
    | (with_reducible first | apply State.answer_keeps | apply State.closeSession_keeps | apply State.malformed_keeps | apply State.Keeps.ite)
    | (with_reducible refine State.cxRequest_keeps ?_ _ _ _ (fun x t ht => ?_))

theorem execOpenProveTimeout_keeps {s₀ s : State} (h : State.Keeps s₀ s) (sid : Nat) : KeepsRes s₀ (execOpenProveTimeout sid s) := by
  unfold execOpenProveTimeout
  repeat' first
    | (with_reducible assumption) | lift_lets
    | (with_reducible first | apply State.authFailed_keeps | apply State.Keeps.ite | apply State.Keeps.ite_fst | apply KeepsRes.ite | apply KeepsRes.next | apply KeepsRes.fault)
    | (with_reducible exact State.Keeps.mk_of (by assumption)) | (fail_if_no_progress (with_reducible refine State.Keeps.mk_of ?_)) | split

theorem execSessionIdleTimeout_keeps {s₀ s : State} (h : State.Keeps s₀ s) (sid : Nat) : KeepsRes s₀ (execSessionIdleTimeout sid s) := by
  unfold execSessionIdleTimeout
  repeat' first
    | (with_reducible assumption) | lift_lets
    | (with_reducible first | apply State.closeSession_keeps | apply State.Keeps.ite | apply State.Keeps.ite_fst | apply KeepsRes.ite | apply KeepsRes.next | apply KeepsRes.fault)
    | (with_reducible exact State.Keeps.mk_of (by assumption)) | (fail_if_no_progress (with_reducible refine State.Keeps.mk_of ?_)) | split

end Sys2Proof.Machine
end

