-- ==== Sys2Proof/Laws/KeepStep.lean ====
section
/-! SUPPORT. What every command and every step keeps (Laws/Keeps.lean). -/

namespace Sys2Proof.Machine

theorem exec_windowWrite_keeps {s₀ s : State} (h : State.Keeps s₀ s) (src : Src) (addr size : Nat) (v : Word64) : KeepsRes s₀ (exec (.windowWrite src addr size v) s) := by
  delta exec; dsimp only; exact execWindowWrite_keeps h _ _ _ _
theorem exec_commitWrite_keeps {s₀ s : State} (h : State.Keeps s₀ s) (src : Src) (v : Word64) : KeepsRes s₀ (exec (.commitWrite src v) s) := by
  delta exec; dsimp only; exact execCommitWrite_keeps h _ _
theorem exec_commitApply_keeps {s₀ s : State} (h : State.Keeps s₀ s) (ctx : Ctx) : KeepsRes s₀ (exec (.commitApply ctx) s) := by
  delta exec; dsimp only; exact execCommitApply_keeps h _
theorem exec_xferCopy_keeps {s₀ s : State} (h : State.Keeps s₀ s) (src : Src) : KeepsRes s₀ (exec (.xferCopy src) s) := by
  delta exec; dsimp only; exact execXferCopy_keeps h _
theorem exec_xferLoad_keeps {s₀ s : State} (h : State.Keeps s₀ s) (src : Src) : KeepsRes s₀ (exec (.xferLoad src) s) := by
  delta exec; dsimp only; exact execXferLoad_keeps h _
theorem exec_xferEnd_keeps {s₀ s : State} (h : State.Keeps s₀ s) (ctx : Ctx) : KeepsRes s₀ (exec (.xferEnd ctx) s) := by
  delta exec; dsimp only; exact execXferEnd_keeps h _
theorem exec_store_keeps {s₀ s : State} (h : State.Keeps s₀ s) (src : Src) (v : Word64) : KeepsRes s₀ (exec (.store src v) s) := by
  delta exec; dsimp only; exact execStore_keeps h _ _
theorem exec_storeWriteEnd_keeps {s₀ s : State} (h : State.Keeps s₀ s) (flashOk : Bool) : KeepsRes s₀ (exec (.storeWriteEnd flashOk) s) := by
  delta exec; dsimp only; exact execStoreWriteEnd_keeps h _
theorem exec_configImageLoad_keeps {s₀ s : State} (h : State.Keeps s₀ s) (src : Src) (image : List Byte) : KeepsRes s₀ (exec (.configImageLoad src image) s) := by
  delta exec; dsimp only; exact execConfigImageLoad_keeps h _ _
theorem exec_read_keeps {s₀ s : State} (h : State.Keeps s₀ s) (r : CxReq) : KeepsRes s₀ (exec (.read r) s) := by
  delta exec; dsimp only; exact execRead_keeps h _
theorem exec_write_keeps {s₀ s : State} (h : State.Keeps s₀ s) (r : CxReq) : KeepsRes s₀ (exec (.write r) s) := by
  delta exec; dsimp only; exact execWrite_keeps h _
theorem exec_readBlock_keeps {s₀ s : State} (h : State.Keeps s₀ s) (r : CxReq) : KeepsRes s₀ (exec (.readBlock r) s) := by
  delta exec; dsimp only; exact execReadBlock_keeps h _
theorem exec_writeBlock_keeps {s₀ s : State} (h : State.Keeps s₀ s) (r : CxReq) : KeepsRes s₀ (exec (.writeBlock r) s) := by
  delta exec; dsimp only; exact execWriteBlock_keeps h _
theorem exec_commit_keeps {s₀ s : State} (h : State.Keeps s₀ s) (r : CxReq) : KeepsRes s₀ (exec (.commit r) s) := by
  delta exec; dsimp only; exact execCommit_keeps h _
theorem exec_subscribe_keeps {s₀ s : State} (h : State.Keeps s₀ s) (r : CxReq) : KeepsRes s₀ (exec (.subscribe r) s) := by
  delta exec; dsimp only; exact execSubscribe_keeps h _
theorem exec_open_keeps {s₀ s : State} (h : State.Keeps s₀ s) (r : CxReq) : KeepsRes s₀ (exec (.open_ r) s) := by
  delta exec; dsimp only; exact execOpen_keeps h _
theorem exec_prove_keeps {s₀ s : State} (h : State.Keeps s₀ s) (r : CxReq) : KeepsRes s₀ (exec (.prove r) s) := by
  delta exec; dsimp only; exact execProve_keeps h _
theorem exec_close_keeps {s₀ s : State} (h : State.Keeps s₀ s) (r : CxReq) : KeepsRes s₀ (exec (.close r) s) := by
  delta exec; dsimp only; exact execClose_keeps h _
theorem exec_openProveTimeout_keeps {s₀ s : State} (h : State.Keeps s₀ s) (sid : Nat) : KeepsRes s₀ (exec (.openProveTimeout sid) s) := by
  delta exec; dsimp only; exact execOpenProveTimeout_keeps h _
theorem exec_sessionIdleTimeout_keeps {s₀ s : State} (h : State.Keeps s₀ s) (sid : Nat) : KeepsRes s₀ (exec (.sessionIdleTimeout sid) s) := by
  delta exec; dsimp only; exact execSessionIdleTimeout_keeps h _
theorem exec_servoUpdate_keeps {s₀ s : State} (h : State.Keeps s₀ s) (d : Fin 2) (delta rate : Int) : KeepsRes s₀ (exec (.servoUpdate d delta rate) s) := by
  delta exec; dsimp only; exact execServoUpdate_keeps h _ _ _
theorem exec_domainSlewEnd_keeps {s₀ s : State} (h : State.Keeps s₀ s) (d : Fin 2) : KeepsRes s₀ (exec (.domainSlewEnd d) s) := by
  delta exec; dsimp only; exact execDomainSlewEnd_keeps h _
theorem exec_grandmasterLost_keeps {s₀ s : State} (h : State.Keeps s₀ s) (d : Fin 2) : KeepsRes s₀ (exec (.grandmasterLost d) s) := by
  delta exec; dsimp only; exact execGrandmasterLost_keeps h _
theorem exec_grandmasterReselected_keeps {s₀ s : State} (h : State.Keeps s₀ s) (d : Fin 2) (gm : Word64) : KeepsRes s₀ (exec (.grandmasterReselected d gm) s) := by
  delta exec; dsimp only; exact execGrandmasterReselected_keeps h _ _
theorem exec_holdoverExpiry_keeps {s₀ s : State} (h : State.Keeps s₀ s) (d : Fin 2) : KeepsRes s₀ (exec (.holdoverExpiry d) s) := by
  delta exec; dsimp only; exact execHoldoverExpiry_keeps h _
theorem exec_domainLock_keeps {s₀ s : State} (h : State.Keeps s₀ s) (d : Fin 2) (gm : Word64) (offset rate : Int) : KeepsRes s₀ (exec (.domainLock d gm offset rate) s) := by
  delta exec; dsimp only; exact execDomainLock_keeps h _ _ _ _
theorem exec_domainSwitch_keeps {s₀ s : State} (h : State.Keeps s₀ s) (src : Src) (v : Word64) : KeepsRes s₀ (exec (.domainSwitch src v) s) := by
  delta exec; dsimp only; exact execDomainSwitch_keeps h _ _
theorem exec_selectedSlewEnd_keeps {s₀ s : State} (h : State.Keeps s₀ s) : KeepsRes s₀ (exec (.selectedSlewEnd) s) := by
  delta exec; dsimp only; exact execSelectedSlewEnd_keeps h
theorem exec_cadenceNone_keeps {s₀ s : State} (h : State.Keeps s₀ s) (e : Fin 1024) : KeepsRes s₀ (exec (.cadenceNone e) s) := by
  delta exec; dsimp only; exact execCadenceNone_keeps h _
theorem exec_startJob_keeps {s₀ s : State} (h : State.Keeps s₀ s) (e : Fin 1024) : KeepsRes s₀ (exec (.startJob e) s) := by
  delta exec; dsimp only; exact execStartJob_keeps h _
theorem exec_assayCapture_keeps {s₀ s : State} (h : State.Keeps s₀ s) (e : Fin 1024) : KeepsRes s₀ (exec (.assayCapture e) s) := by
  delta exec; dsimp only; exact execAssayCapture_keeps h _
theorem exec_launchFrame_keeps {s₀ s : State} (h : State.Keeps s₀ s) (e : Fin 1024) : KeepsRes s₀ (exec (.launchFrame e) s) := by
  delta exec; dsimp only; exact execLaunchFrame_keeps h _
theorem exec_lodestoneSample_keeps {s₀ s : State} (h : State.Keeps s₀ s) (e : Fin 1024) : KeepsRes s₀ (exec (.lodestoneSample e) s) := by
  delta exec; dsimp only; exact execLodestoneSample_keeps h _
theorem exec_trigger_keeps {s₀ s : State} (h : State.Keeps s₀ s) (e : Fin 1024) : KeepsRes s₀ (exec (.trigger e) s) := by
  delta exec; dsimp only; exact execTrigger_keeps h _
theorem exec_publish_keeps {s₀ s : State} (h : State.Keeps s₀ s) (e : Fin 1024) : KeepsRes s₀ (exec (.publish e) s) := by
  delta exec; dsimp only; exact execPublish_keeps h _
theorem exec_serviceSlot_keeps {s₀ s : State} (h : State.Keeps s₀ s) (e : Fin 1024) (chunks : List Chunk) : KeepsRes s₀ (exec (.serviceSlot e chunks) s) := by
  delta exec; dsimp only; exact execServiceSlot_keeps h _ _
theorem exec_triggerWidthEnd_keeps {s₀ s : State} (h : State.Keeps s₀ s) (o : Fin 16) : KeepsRes s₀ (exec (.triggerWidthEnd o) s) := by
  delta exec; dsimp only; exact execTriggerWidthEnd_keeps h _
theorem exec_setpointWrite_keeps {s₀ s : State} (h : State.Keeps s₀ s) (src : Src) (st : Fin 8) (v : Word64) : KeepsRes s₀ (exec (.setpointWrite src st v) s) := by
  delta exec; dsimp only; exact execSetpointWrite_keeps h _ _ _
theorem exec_lodestoneResult_keeps {s₀ s : State} (h : State.Keeps s₀ s) (st : Fin 8) (disagree : Bool) : KeepsRes s₀ (exec (.lodestoneResult st disagree) s) := by
  delta exec; dsimp only; exact execLodestoneResult_keeps h _ _
theorem exec_lodestoneOutput_keeps {s₀ s : State} (h : State.Keeps s₀ s) (st : Fin 8) : KeepsRes s₀ (exec (.lodestoneOutput st) s) := by
  delta exec; dsimp only; exact execLodestoneOutput_keeps h _
theorem exec_nop_keeps {s₀ s : State} (h : State.Keeps s₀ s) (n : Fin 16) (w : BitVec 120) : KeepsRes s₀ (exec (.nop n w) s) := by
  delta exec; dsimp only; exact execNop_keeps h _ _
theorem exec_halt_keeps {s₀ s : State} (h : State.Keeps s₀ s) (n : Fin 16) (w : BitVec 120) : KeepsRes s₀ (exec (.halt n w) s) := by
  delta exec; dsimp only; exact execHalt_keeps h _ _
theorem exec_br_keeps {s₀ s : State} (h : State.Keeps s₀ s) (n : Fin 16) (w : BitVec 120) : KeepsRes s₀ (exec (.br n w) s) := by
  delta exec; dsimp only; exact execBr_keeps h _ _
theorem exec_loop_keeps {s₀ s : State} (h : State.Keeps s₀ s) (n : Fin 16) (w : BitVec 120) : KeepsRes s₀ (exec (.loop n w) s) := by
  delta exec; dsimp only; exact execLoop_keeps h _ _
theorem exec_fence_keeps {s₀ s : State} (h : State.Keeps s₀ s) (n : Fin 16) (w : BitVec 120) : KeepsRes s₀ (exec (.fence n w) s) := by
  delta exec; dsimp only; exact execFence_keeps h _ _
theorem exec_smovi_keeps {s₀ s : State} (h : State.Keeps s₀ s) (n : Fin 16) (w : BitVec 120) : KeepsRes s₀ (exec (.smovi n w) s) := by
  delta exec; dsimp only; exact execSmovi_keeps h _ _
theorem exec_salu_keeps {s₀ s : State} (h : State.Keeps s₀ s) (n : Fin 16) (w : BitVec 120) : KeepsRes s₀ (exec (.salu n w) s) := by
  delta exec; dsimp only; exact execSalu_keeps h _ _
theorem exec_scmp_keeps {s₀ s : State} (h : State.Keeps s₀ s) (n : Fin 16) (w : BitVec 120) : KeepsRes s₀ (exec (.scmp n w) s) := by
  delta exec; dsimp only; exact execScmp_keeps h _ _
theorem exec_pset_keeps {s₀ s : State} (h : State.Keeps s₀ s) (n : Fin 16) (w : BitVec 120) : KeepsRes s₀ (exec (.pset n w) s) := by
  delta exec; dsimp only; exact execPset_keeps h _ _
theorem exec_sld_keeps {s₀ s : State} (h : State.Keeps s₀ s) (n : Fin 16) (w : BitVec 120) : KeepsRes s₀ (exec (.sld n w) s) := by
  delta exec; dsimp only; exact execSld_keeps h _ _
theorem exec_sst_keeps {s₀ s : State} (h : State.Keeps s₀ s) (n : Fin 16) (w : BitVec 120) : KeepsRes s₀ (exec (.sst n w) s) := by
  delta exec; dsimp only; exact execSst_keeps h _ _
theorem exec_desc_keeps {s₀ s : State} (h : State.Keeps s₀ s) (n : Fin 16) (w : BitVec 120) : KeepsRes s₀ (exec (.desc n w) s) := by
  delta exec; dsimp only; exact execDesc_keeps h _ _
theorem exec_dadd_keeps {s₀ s : State} (h : State.Keeps s₀ s) (n : Fin 16) (w : BitVec 120) : KeepsRes s₀ (exec (.dadd n w) s) := by
  delta exec; dsimp only; exact execDadd_keeps h _ _
theorem exec_seed_keeps {s₀ s : State} (h : State.Keeps s₀ s) (n : Fin 16) (w : BitVec 120) : KeepsRes s₀ (exec (.seed n w) s) := by
  delta exec; dsimp only; exact execSeed_keeps h _ _
theorem exec_matmul_keeps {s₀ s : State} (h : State.Keeps s₀ s) (n : Fin 16) (w : BitVec 120) : KeepsRes s₀ (exec (.matmul n w) s) := by
  delta exec; dsimp only; exact execMatmul_keeps h _ _
theorem exec_conv_keeps {s₀ s : State} (h : State.Keeps s₀ s) (n : Fin 16) (w : BitVec 120) : KeepsRes s₀ (exec (.conv n w) s) := by
  delta exec; dsimp only; exact execConv_keeps h _ _
theorem exec_accin_keeps {s₀ s : State} (h : State.Keeps s₀ s) (n : Fin 16) (w : BitVec 120) : KeepsRes s₀ (exec (.accin n w) s) := by
  delta exec; dsimp only; exact execAccin_keeps h _ _
theorem exec_readout_keeps {s₀ s : State} (h : State.Keeps s₀ s) (n : Fin 16) (w : BitVec 120) : KeepsRes s₀ (exec (.readout n w) s) := by
  delta exec; dsimp only; exact execReadout_keeps h _ _
theorem exec_pconv_keeps {s₀ s : State} (h : State.Keeps s₀ s) (n : Fin 16) (w : BitVec 120) : KeepsRes s₀ (exec (.pconv n w) s) := by
  delta exec; dsimp only; exact execPconv_keeps h _ _
theorem exec_pread_keeps {s₀ s : State} (h : State.Keeps s₀ s) (n : Fin 16) (w : BitVec 120) : KeepsRes s₀ (exec (.pread n w) s) := by
  delta exec; dsimp only; exact execPread_keeps h _ _
theorem exec_pebbleOp_keeps {s₀ s : State} (h : State.Keeps s₀ s) (c : Fin 4) : KeepsRes s₀ (exec (.pebbleOp c) s) := by
  delta exec; dsimp only; exact execPebbleOp_keeps h _
theorem exec_vld_keeps {s₀ s : State} (h : State.Keeps s₀ s) (n : Fin 16) (w : BitVec 120) : KeepsRes s₀ (exec (.vld n w) s) := by
  delta exec; dsimp only; exact execVld_keeps h _ _
theorem exec_vst_keeps {s₀ s : State} (h : State.Keeps s₀ s) (n : Fin 16) (w : BitVec 120) : KeepsRes s₀ (exec (.vst n w) s) := by
  delta exec; dsimp only; exact execVst_keeps h _ _
theorem exec_vop_keeps {s₀ s : State} (h : State.Keeps s₀ s) (n : Fin 16) (w : BitVec 120) : KeepsRes s₀ (exec (.vop n w) s) := by
  delta exec; dsimp only; exact execVop_keeps h _ _
theorem exec_tew_keeps {s₀ s : State} (h : State.Keeps s₀ s) (n : Fin 16) (w : BitVec 120) : KeepsRes s₀ (exec (.tew n w) s) := by
  delta exec; dsimp only; exact execTew_keeps h _ _
theorem exec_tred_keeps {s₀ s : State} (h : State.Keeps s₀ s) (n : Fin 16) (w : BitVec 120) : KeepsRes s₀ (exec (.tred n w) s) := by
  delta exec; dsimp only; exact execTred_keeps h _ _
theorem exec_tsmx_keeps {s₀ s : State} (h : State.Keeps s₀ s) (n : Fin 16) (w : BitVec 120) : KeepsRes s₀ (exec (.tsmx n w) s) := by
  delta exec; dsimp only; exact execTsmx_keeps h _ _
theorem exec_tnorm_keeps {s₀ s : State} (h : State.Keeps s₀ s) (n : Fin 16) (w : BitVec 120) : KeepsRes s₀ (exec (.tnorm n w) s) := by
  delta exec; dsimp only; exact execTnorm_keeps h _ _
theorem exec_gather_keeps {s₀ s : State} (h : State.Keeps s₀ s) (n : Fin 16) (w : BitVec 120) : KeepsRes s₀ (exec (.gather n w) s) := by
  delta exec; dsimp only; exact execGather_keeps h _ _
theorem exec_scatter_keeps {s₀ s : State} (h : State.Keeps s₀ s) (n : Fin 16) (w : BitVec 120) : KeepsRes s₀ (exec (.scatter n w) s) := by
  delta exec; dsimp only; exact execScatter_keeps h _ _
theorem exec_tpool_keeps {s₀ s : State} (h : State.Keeps s₀ s) (n : Fin 16) (w : BitVec 120) : KeepsRes s₀ (exec (.tpool n w) s) := by
  delta exec; dsimp only; exact execTpool_keeps h _ _
theorem exec_shade_keeps {s₀ s : State} (h : State.Keeps s₀ s) (n : Fin 16) (w : BitVec 120) : KeepsRes s₀ (exec (.shade n w) s) := by
  delta exec; dsimp only; exact execShade_keeps h _ _
theorem exec_dmov_keeps {s₀ s : State} (h : State.Keeps s₀ s) (n : Fin 16) (w : BitVec 120) : KeepsRes s₀ (exec (.dmov n w) s) := by
  delta exec; dsimp only; exact execDmov_keeps h _ _
theorem exec_dfill_keeps {s₀ s : State} (h : State.Keeps s₀ s) (n : Fin 16) (w : BitVec 120) : KeepsRes s₀ (exec (.dfill n w) s) := by
  delta exec; dsimp only; exact execDfill_keeps h _ _
theorem exec_coll_keeps {s₀ s : State} (h : State.Keeps s₀ s) (n : Fin 16) (w : BitVec 120) : KeepsRes s₀ (exec (.coll n w) s) := by
  delta exec; dsimp only; exact execColl_keeps h _ _
theorem exec_kvscatter_keeps {s₀ s : State} (h : State.Keeps s₀ s) (n : Fin 16) (w : BitVec 120) : KeepsRes s₀ (exec (.kvscatter n w) s) := by
  delta exec; dsimp only; exact execKvscatter_keeps h _ _
theorem exec_kvfetch_keeps {s₀ s : State} (h : State.Keeps s₀ s) (n : Fin 16) (w : BitVec 120) : KeepsRes s₀ (exec (.kvfetch n w) s) := by
  delta exec; dsimp only; exact execKvfetch_keeps h _ _
theorem exec_attn_keeps {s₀ s : State} (h : State.Keeps s₀ s) (n : Fin 16) (w : BitVec 120) : KeepsRes s₀ (exec (.attn n w) s) := by
  delta exec; dsimp only; exact execAttn_keeps h _ _
theorem exec_signal_keeps {s₀ s : State} (h : State.Keeps s₀ s) (n : Fin 16) (w : BitVec 120) : KeepsRes s₀ (exec (.signal n w) s) := by
  delta exec; dsimp only; exact execSignal_keeps h _ _
theorem exec_wait_keeps {s₀ s : State} (h : State.Keeps s₀ s) (n : Fin 16) (w : BitVec 120) : KeepsRes s₀ (exec (.wait n w) s) := by
  delta exec; dsimp only; exact execWait_keeps h _ _
theorem exec_aopen_keeps {s₀ s : State} (h : State.Keeps s₀ s) (n : Fin 16) (w : BitVec 120) : KeepsRes s₀ (exec (.aopen n w) s) := by
  delta exec; dsimp only; exact execAopen_keeps h _ _
theorem exec_aclose_keeps {s₀ s : State} (h : State.Keeps s₀ s) (n : Fin 16) (w : BitVec 120) : KeepsRes s₀ (exec (.aclose n w) s) := by
  delta exec; dsimp only; exact execAclose_keeps h _ _
theorem exec_afold_keeps {s₀ s : State} (h : State.Keeps s₀ s) (n : Fin 16) (w : BitVec 120) : KeepsRes s₀ (exec (.afold n w) s) := by
  delta exec; dsimp only; exact execAfold_keeps h _ _
theorem exec_waitGranted_keeps {s₀ s : State} (h : State.Keeps s₀ s) (n : Fin 16) (q : Queue) : KeepsRes s₀ (exec (.waitGranted n q) s) := by
  delta exec; dsimp only; exact execWaitGranted_keeps h _ _
theorem exec_drainSignalApply_keeps {s₀ s : State} (h : State.Keeps s₀ s) (n : Fin 16) (i : Nat) : KeepsRes s₀ (exec (.drainSignalApply n i) s) := by
  delta exec; dsimp only; exact execDrainSignalApply_keeps h _ _
theorem exec_slabOpStart_keeps {s₀ s : State} (h : State.Keeps s₀ s) (n : Fin 16) : KeepsRes s₀ (exec (.slabOpStart n) s) := by
  delta exec; dsimp only; exact execSlabOpStart_keeps h _
theorem exec_opComplete_keeps {s₀ s : State} (h : State.Keeps s₀ s) (n : Fin 16) (q : Queue) (i : Nat) : KeepsRes s₀ (exec (.opComplete n q i) s) := by
  delta exec; dsimp only; exact execOpComplete_keeps h _ _ _
theorem exec_watchdogExpiry_keeps {s₀ s : State} (h : State.Keeps s₀ s) (n : Fin 16) : KeepsRes s₀ (exec (.watchdogExpiry n) s) := by
  delta exec; dsimp only; exact execWatchdogExpiry_keeps h _
theorem exec_instanceFault_keeps {s₀ s : State} (h : State.Keeps s₀ s) (m : Fin 16) : KeepsRes s₀ (exec (.instanceFault m) s) := by
  delta exec; dsimp only; exact execInstanceFault_keeps h _
theorem exec_debugHalt_keeps {s₀ s : State} (h : State.Keeps s₀ s) (n : Fin 16) : KeepsRes s₀ (exec (.debugHalt n) s) := by
  delta exec; dsimp only; exact execDebugHalt_keeps h _
theorem exec_debugStep_keeps {s₀ s : State} (h : State.Keeps s₀ s) (n : Fin 16) : KeepsRes s₀ (exec (.debugStep n) s) := by
  delta exec; dsimp only; exact execDebugStep_keeps h _
theorem exec_debugRelease_keeps {s₀ s : State} (h : State.Keeps s₀ s) (n : Fin 16) : KeepsRes s₀ (exec (.debugRelease n) s) := by
  delta exec; dsimp only; exact execDebugRelease_keeps h _
theorem exec_kvCreate_keeps {s₀ s : State} (h : State.Keeps s₀ s) (src : Src) (m : Fin 16) (arg : BitVec 56) : KeepsRes s₀ (exec (.kvCreate src m arg) s) := by
  delta exec; dsimp only; exact execKvCreate_keeps h _ _ _
theorem exec_kvRelease_keeps {s₀ s : State} (h : State.Keeps s₀ s) (src : Src) (m : Fin 16) (arg : BitVec 56) : KeepsRes s₀ (exec (.kvRelease src m arg) s) := by
  delta exec; dsimp only; exact execKvRelease_keeps h _ _ _
theorem exec_kvTruncate_keeps {s₀ s : State} (h : State.Keeps s₀ s) (src : Src) (m : Fin 16) (arg : BitVec 56) : KeepsRes s₀ (exec (.kvTruncate src m arg) s) := by
  delta exec; dsimp only; exact execKvTruncate_keeps h _ _ _
theorem exec_kvPrebind_keeps {s₀ s : State} (h : State.Keeps s₀ s) (src : Src) (m : Fin 16) (arg : BitVec 56) : KeepsRes s₀ (exec (.kvPrebind src m arg) s) := by
  delta exec; dsimp only; exact execKvPrebind_keeps h _ _ _
theorem exec_load_keeps {s₀ s : State} (h : State.Keeps s₀ s) (m : Fin 16) (pl : Placement) : KeepsRes s₀ (exec (.load m pl) s) := by
  delta exec; dsimp only; exact execLoad_keeps h _ _
theorem exec_unload_keeps {s₀ s : State} (h : State.Keeps s₀ s) (m : Fin 16) : KeepsRes s₀ (exec (.unload m) s) := by
  delta exec; dsimp only; exact execUnload_keeps h _
theorem exec_run_keeps {s₀ s : State} (h : State.Keeps s₀ s) (m : Fin 16) : KeepsRes s₀ (exec (.run m) s) := by
  delta exec; dsimp only; exact execRun_keeps h _
theorem exec_direct_keeps {s₀ s : State} (h : State.Keeps s₀ s) (m : Fin 16) : KeepsRes s₀ (exec (.direct m) s) := by
  delta exec; dsimp only; exact execDirect_keeps h _
theorem exec_cancel_keeps {s₀ s : State} (h : State.Keeps s₀ s) (m : Fin 16) : KeepsRes s₀ (exec (.cancel m) s) := by
  delta exec; dsimp only; exact execCancel_keeps h _
theorem exec_heartbeat_keeps {s₀ s : State} (h : State.Keeps s₀ s) (m : Fin 16) : KeepsRes s₀ (exec (.heartbeat m) s) := by
  delta exec; dsimp only; exact execHeartbeat_keeps h _
theorem exec_attach_keeps {s₀ s : State} (h : State.Keeps s₀ s) (m : Fin 16) : KeepsRes s₀ (exec (.attach m) s) := by
  delta exec; dsimp only; exact execAttach_keeps h _
theorem exec_mboxFromClear_keeps {s₀ s : State} (h : State.Keeps s₀ s) (m : Fin 16) : KeepsRes s₀ (exec (.mboxFromClear m) s) := by
  delta exec; dsimp only; exact execMboxFromClear_keeps h _
theorem exec_replace_keeps {s₀ s : State} (h : State.Keeps s₀ s) (src : Src) (m : Fin 16) (v : Word64) : KeepsRes s₀ (exec (.replace src m v) s) := by
  delta exec; dsimp only; exact execReplace_keeps h _ _ _
theorem exec_replacementJob_keeps {s₀ s : State} (h : State.Keeps s₀ s) (m : Fin 16) (hc : Fin 16) (cause : Fin 5) (pl : Placement) : KeepsRes s₀ (exec (.replacementJob m hc cause pl) s) := by
  delta exec; dsimp only; exact execReplacementJob_keeps h _ _ _ _
theorem exec_shrinkGraceExpiry_keeps {s₀ s : State} (h : State.Keeps s₀ s) (m : Fin 16) (inv : Nat) : KeepsRes s₀ (exec (.shrinkGraceExpiry m inv) s) := by
  delta exec; dsimp only; exact execShrinkGraceExpiry_keeps h _ _
theorem exec_invocationStart_keeps {s₀ s : State} (h : State.Keeps s₀ s) (m : Fin 16) : KeepsRes s₀ (exec (.invocationStart m) s) := by
  delta exec; dsimp only; exact execInvocationStart_keeps h _
theorem exec_assayTimeout_keeps {s₀ s : State} (h : State.Keeps s₀ s) (e : Fin 4096) : KeepsRes s₀ (exec (.assayTimeout e) s) := by
  delta exec; dsimp only; exact execAssayTimeout_keeps h _
theorem exec_ledgerDeadlock_keeps {s₀ s : State} (h : State.Keeps s₀ s) (m : Fin 16) : KeepsRes s₀ (exec (.ledgerDeadlock m) s) := by
  delta exec; dsimp only; exact execLedgerDeadlock_keeps h _
theorem exec_outputRelease_keeps {s₀ s : State} (h : State.Keeps s₀ s) (m : Fin 16) (inv binding : Nat) : KeepsRes s₀ (exec (.outputRelease m inv binding) s) := by
  delta exec; dsimp only; exact execOutputRelease_keeps h _ _ _
theorem exec_preempt_keeps {s₀ s : State} (h : State.Keeps s₀ s) (n : Fin 16) : KeepsRes s₀ (exec (.preempt n) s) := by
  delta exec; dsimp only; exact execPreempt_keeps h _
theorem exec_saveComplete_keeps {s₀ s : State} (h : State.Keeps s₀ s) (p : Fin 16) : KeepsRes s₀ (exec (.saveComplete p) s) := by
  delta exec; dsimp only; exact execSaveComplete_keeps h _
theorem exec_sliceEnd_keeps {s₀ s : State} (h : State.Keeps s₀ s) (p : Fin 16) : KeepsRes s₀ (exec (.sliceEnd p) s) := by
  delta exec; dsimp only; exact execSliceEnd_keeps h _
theorem exec_slotPreempt_keeps {s₀ s : State} (h : State.Keeps s₀ s) (p : Fin 16) (e : Fin 1024) : KeepsRes s₀ (exec (.slotPreempt p e) s) := by
  delta exec; dsimp only; exact execSlotPreempt_keeps h _ _
theorem exec_invocationComplete_keeps {s₀ s : State} (h : State.Keeps s₀ s) (m : Fin 16) (inv : Nat) (energy : Nat) : KeepsRes s₀ (exec (.invocationComplete m inv energy) s) := by
  delta exec; dsimp only; exact execInvocationComplete_keeps h _ _ _
theorem exec_instCreate_keeps {s₀ s : State} (h : State.Keeps s₀ s) (src : Src) (m : Fin 16) (arg : BitVec 56) (c : Carve) : KeepsRes s₀ (exec (.instCreate src m arg c) s) := by
  delta exec; dsimp only; exact execInstCreate_keeps h _ _ _ _
theorem exec_instDestroy_keeps {s₀ s : State} (h : State.Keeps s₀ s) (src : Src) (m : Fin 16) (arg : BitVec 56) : KeepsRes s₀ (exec (.instDestroy src m arg) s) := by
  delta exec; dsimp only; exact execInstDestroy_keeps h _ _ _
theorem exec_zeroingEnd_keeps {s₀ s : State} (h : State.Keeps s₀ s) (m : Fin 16) : KeepsRes s₀ (exec (.zeroingEnd m) s) := by
  delta exec; dsimp only; exact execZeroingEnd_keeps h _
theorem exec_instFreeze_keeps {s₀ s : State} (h : State.Keeps s₀ s) (src : Src) (m : Fin 16) (arg : BitVec 56) : KeepsRes s₀ (exec (.instFreeze src m arg) s) := by
  delta exec; dsimp only; exact execInstFreeze_keeps h _ _ _
theorem exec_instThaw_keeps {s₀ s : State} (h : State.Keeps s₀ s) (src : Src) (m : Fin 16) (arg : BitVec 56) : KeepsRes s₀ (exec (.instThaw src m arg) s) := by
  delta exec; dsimp only; exact execInstThaw_keeps h _ _ _
theorem exec_instSaveImage_keeps {s₀ s : State} (h : State.Keeps s₀ s) (src : Src) (m : Fin 16) (arg : BitVec 56) : KeepsRes s₀ (exec (.instSaveImage src m arg) s) := by
  delta exec; dsimp only; exact execInstSaveImage_keeps h _ _ _
theorem exec_instRestoreImage_keeps {s₀ s : State} (h : State.Keeps s₀ s) (src : Src) (m : Fin 16) (arg : BitVec 56) (c : Carve) : KeepsRes s₀ (exec (.instRestoreImage src m arg c) s) := by
  delta exec; dsimp only; exact execInstRestoreImage_keeps h _ _ _ _
theorem exec_instRecover_keeps {s₀ s : State} (h : State.Keeps s₀ s) (src : Src) (m : Fin 16) (arg : BitVec 56) : KeepsRes s₀ (exec (.instRecover src m arg) s) := by
  delta exec; dsimp only; exact execInstRecover_keeps h _ _ _
theorem exec_instOrphan_keeps {s₀ s : State} (h : State.Keeps s₀ s) (src : Src) (m : Fin 16) (arg : BitVec 56) : KeepsRes s₀ (exec (.instOrphan src m arg) s) := by
  delta exec; dsimp only; exact execInstOrphan_keeps h _ _ _
theorem exec_heartbeatTimeout_keeps {s₀ s : State} (h : State.Keeps s₀ s) (m : Fin 16) : KeepsRes s₀ (exec (.heartbeatTimeout m) s) := by
  delta exec; dsimp only; exact execHeartbeatTimeout_keeps h _
theorem exec_acctReset_keeps {s₀ s : State} (h : State.Keeps s₀ s) (src : Src) (m : Fin 16) (v : Word64) : KeepsRes s₀ (exec (.acctReset src m v) s) := by
  delta exec; dsimp only; exact execAcctReset_keeps h _ _ _
theorem exec_stackRequest_keeps {s₀ s : State} (h : State.Keeps s₀ s) (r : StackReq) : KeepsRes s₀ (exec (.stackRequest r) s) := by
  delta exec; dsimp only; exact execStackRequest_keeps h _
theorem exec_bucketRefill_keeps {s₀ s : State} (h : State.Keeps s₀ s) : KeepsRes s₀ (exec (.bucketRefill) s) := by
  delta exec; dsimp only; exact execBucketRefill_keeps h
theorem exec_guaranteeWrite_keeps {s₀ s : State} (h : State.Keeps s₀ s) (src : Src) (i : Fin 32) (v : Word64) : KeepsRes s₀ (exec (.guaranteeWrite src i v) s) := by
  delta exec; dsimp only; exact execGuaranteeWrite_keeps h _ _ _
theorem exec_safetyClassesWrite_keeps {s₀ s : State} (h : State.Keeps s₀ s) (src : Src) (v : Word64) : KeepsRes s₀ (exec (.safetyClassesWrite src v) s) := by
  delta exec; dsimp only; exact execSafetyClassesWrite_keeps h _ _
theorem exec_patrolScrub_keeps {s₀ s : State} (h : State.Keeps s₀ s) (st : Fin 4) (offset : Nat) (err : UnitErr) : KeepsRes s₀ (exec (.patrolScrub st offset err) s) := by
  delta exec; dsimp only; exact execPatrolScrub_keeps h _ _ _
theorem exec_stackTempRead_keeps {s₀ s : State} (h : State.Keeps s₀ s) (st : Fin 4) (temp : Word32) : KeepsRes s₀ (exec (.stackTempRead st temp) s) := by
  delta exec; dsimp only; exact execStackTempRead_keeps h _ _
theorem exec_streamEnable_keeps {s₀ s : State} (h : State.Keeps s₀ s) (src : Src) (st : Fin 32) (v : Word64) (ring : Nat) : KeepsRes s₀ (exec (.streamEnable src st v ring) s) := by
  delta exec; dsimp only; exact execStreamEnable_keeps h _ _ _ _
theorem exec_frameStart_keeps {s₀ s : State} (h : State.Keeps s₀ s) (st : Fin 32) (csiFrame : Word16) : KeepsRes s₀ (exec (.frameStart st csiFrame) s) := by
  delta exec; dsimp only; exact execFrameStart_keeps h _ _
theorem exec_lineStart_keeps {s₀ s : State} (h : State.Keeps s₀ s) (st : Fin 32) : KeepsRes s₀ (exec (.lineStart st) s) := by
  delta exec; dsimp only; exact execLineStart_keeps h _
theorem exec_longPacket_keeps {s₀ s : State} (h : State.Keeps s₀ s) (p : Fin 16) (pk : CsiPacket) : KeepsRes s₀ (exec (.longPacket p pk) s) := by
  delta exec; dsimp only; exact execLongPacket_keeps h _ _
theorem exec_frameEnd_keeps {s₀ s : State} (h : State.Keeps s₀ s) (st : Fin 32) : KeepsRes s₀ (exec (.frameEnd st) s) := by
  delta exec; dsimp only; exact execFrameEnd_keeps h _
theorem exec_blankVerdict_keeps {s₀ s : State} (h : State.Keeps s₀ s) (st : Fin 32) (crc : Option Word32) : KeepsRes s₀ (exec (.blankVerdict st crc) s) := by
  delta exec; dsimp only; exact execBlankVerdict_keeps h _ _
theorem exec_ringTailWrite_keeps {s₀ s : State} (h : State.Keeps s₀ s) (src : Src) (v : Word64) : KeepsRes s₀ (exec (.ringTailWrite src v) s) := by
  delta exec; dsimp only; exact execRingTailWrite_keeps h _ _
theorem exec_passComplete_keeps {s₀ s : State} (h : State.Keeps s₀ s) (pr : PassResult) : KeepsRes s₀ (exec (.passComplete pr) s) := by
  delta exec; dsimp only; exact execPassComplete_keeps h _
theorem exec_pipeLatch_keeps {s₀ s : State} (h : State.Keeps s₀ s) (p : Fin 4) : KeepsRes s₀ (exec (.pipeLatch p) s) := by
  delta exec; dsimp only; exact execPipeLatch_keeps h _
theorem exec_regionCheck_keeps {s₀ s : State} (h : State.Keeps s₀ s) (p : Fin 4) (k : Fin 16) (pixels : List (Word16 × Word16 × Word16)) : KeepsRes s₀ (exec (.regionCheck p k pixels) s) := by
  delta exec; dsimp only; exact execRegionCheck_keeps h _ _ _
theorem exec_resume_keeps {s₀ s : State} (h : State.Keeps s₀ s) (src : Src) (p : Fin 4) (v : Word64) : KeepsRes s₀ (exec (.resume src p v) s) := by
  delta exec; dsimp only; exact execResume_keeps h _ _ _
theorem exec_displayPreempt_keeps {s₀ s : State} (h : State.Keeps s₀ s) (p : Fin 16) : KeepsRes s₀ (exec (.displayPreempt p) s) := by
  delta exec; dsimp only; exact execDisplayPreempt_keeps h _
theorem exec_frameReceive_keeps {s₀ s : State} (h : State.Keeps s₀ s) (q : Fin 12) (f : EthFrame) : KeepsRes s₀ (exec (.frameReceive q f) s) := by
  delta exec; dsimp only; exact execFrameReceive_keeps h _ _
theorem exec_frameTransmit_keeps {s₀ s : State} (h : State.Keeps s₀ s) (q : Fin 12) (c : Fin 8) : KeepsRes s₀ (exec (.frameTransmit q c) s) := by
  delta exec; dsimp only; exact execFrameTransmit_keeps h _ _
theorem exec_txTailWrite_keeps {s₀ s : State} (h : State.Keeps s₀ s) (src : Src) (q : Fin 2) (c : Fin 8) (v : Word64) : KeepsRes s₀ (exec (.txTailWrite src q c v) s) := by
  delta exec; dsimp only; exact execTxTailWrite_keeps h _ _ _ _
theorem exec_rxTailWrite_keeps {s₀ s : State} (h : State.Keeps s₀ s) (src : Src) (c : Fin 8) (v : Word64) : KeepsRes s₀ (exec (.rxTailWrite src c v) s) := by
  delta exec; dsimp only; exact execRxTailWrite_keeps h _ _ _
theorem exec_tsReadWrite_keeps {s₀ s : State} (h : State.Keeps s₀ s) (src : Src) (q : Fin 12) (v : Word64) : KeepsRes s₀ (exec (.tsReadWrite src q v) s) := by
  delta exec; dsimp only; exact execTsReadWrite_keeps h _ _ _
theorem exec_linkChange_keeps {s₀ s : State} (h : State.Keeps s₀ s) (q : Fin 12) (up : Bool) : KeepsRes s₀ (exec (.linkChange q up) s) := by
  delta exec; dsimp only; exact execLinkChange_keeps h _ _
theorem exec_t1sFrameReceive_keeps {s₀ s : State} (h : State.Keeps s₀ s) (i : Fin 2) (f : EthFrame) : KeepsRes s₀ (exec (.t1sFrameReceive i f) s) := by
  delta exec; dsimp only; exact execT1sFrameReceive_keeps h _ _
theorem exec_beaconLoss_keeps {s₀ s : State} (h : State.Keeps s₀ s) (i : Fin 2) : KeepsRes s₀ (exec (.beaconLoss i) s) := by
  delta exec; dsimp only; exact execBeaconLoss_keeps h _
theorem exec_canFrameReceive_keeps {s₀ s : State} (h : State.Keeps s₀ s) (c : Fin 8) (f : CanFrame) : KeepsRes s₀ (exec (.canFrameReceive c f) s) := by
  delta exec; dsimp only; exact execCanFrameReceive_keeps h _ _
theorem exec_canTransmit_keeps {s₀ s : State} (h : State.Keeps s₀ s) (c : Fin 8) (tecAfter : Nat) (sent : Bool) : KeepsRes s₀ (exec (.canTransmit c tecAfter sent) s) := by
  delta exec; dsimp only; exact execCanTransmit_keeps h _ _ _
theorem exec_busOffRecovery_keeps {s₀ s : State} (h : State.Keeps s₀ s) (c : Fin 8) : KeepsRes s₀ (exec (.busOffRecovery c) s) := by
  delta exec; dsimp only; exact execBusOffRecovery_keeps h _
theorem exec_restart_keeps {s₀ s : State} (h : State.Keeps s₀ s) (src : Src) (c : Fin 8) (v : Word64) : KeepsRes s₀ (exec (.restart src c v) s) := by
  delta exec; dsimp only; exact execRestart_keeps h _ _ _
theorem exec_wake_keeps {s₀ s : State} (h : State.Keeps s₀ s) (w : WakeSrc) : KeepsRes s₀ (exec (.wake w) s) := by
  delta exec; dsimp only; exact execWake_keeps h _
theorem exec_outboundRead_keeps {s₀ s : State} (h : State.Keeps s₀ s) (requester addr len : Nat) : KeepsRes s₀ (exec (.outboundRead requester addr len) s) := by
  delta exec; dsimp only; exact execOutboundRead_keeps h _ _ _
theorem exec_outboundWrite_keeps {s₀ s : State} (h : State.Keeps s₀ s) (requester addr : Nat) (data : List Byte) (farOk : Bool) : KeepsRes s₀ (exec (.outboundWrite requester addr data farOk) s) := by
  delta exec; dsimp only; exact execOutboundWrite_keeps h _ _ _ _
theorem exec_fetchComplete_keeps {s₀ s : State} (h : State.Keeps s₀ s) (slot : Fin 64) (data : Option (List Byte)) : KeepsRes s₀ (exec (.fetchComplete slot data) s) := by
  delta exec; dsimp only; exact execFetchComplete_keeps h _ _
theorem exec_fetchHoldExpiry_keeps {s₀ s : State} (h : State.Keeps s₀ s) (slot : Fin 64) : KeepsRes s₀ (exec (.fetchHoldExpiry slot) s) := by
  delta exec; dsimp only; exact execFetchHoldExpiry_keeps h _
theorem exec_readTimeout_keeps {s₀ s : State} (h : State.Keeps s₀ s) (requester addr len : Nat) (since : Word64) : KeepsRes s₀ (exec (.readTimeout requester addr len since) s) := by
  delta exec; dsimp only; exact execReadTimeout_keeps h _ _ _ _
theorem exec_deadlockYield_keeps {s₀ s : State} (h : State.Keeps s₀ s) : KeepsRes s₀ (exec (.deadlockYield) s) := by
  delta exec; dsimp only; exact execDeadlockYield_keeps h
theorem exec_inboundRequest_keeps {s₀ s : State} (h : State.Keeps s₀ s) (wr : Bool) (addr len : Nat) (data : List Byte) (bar : Fin 8) : KeepsRes s₀ (exec (.inboundRequest wr addr len data bar) s) := by
  delta exec; dsimp only; exact execInboundRequest_keeps h _ _ _ _ _
theorem exec_postedWriteFault_keeps {s₀ s : State} (h : State.Keeps s₀ s) (cause : Fin 5) : KeepsRes s₀ (exec (.postedWriteFault cause) s) := by
  delta exec; dsimp only; exact execPostedWriteFault_keeps h _
theorem exec_pweClear_keeps {s₀ s : State} (h : State.Keeps s₀ s) (src : Src) (v : Word64) : KeepsRes s₀ (exec (.pweClear src v) s) := by
  delta exec; dsimp only; exact execPweClear_keeps h _ _
theorem exec_linkTrain_keeps {s₀ s : State} (h : State.Keeps s₀ s) (l : Fin 3) (far : FarEnd) : KeepsRes s₀ (exec (.linkTrain l far) s) := by
  delta exec; dsimp only; exact execLinkTrain_keeps h _ _
theorem exec_trainRetry_keeps {s₀ s : State} (h : State.Keeps s₀ s) (l : Fin 3) : KeepsRes s₀ (exec (.trainRetry l) s) := by
  delta exec; dsimp only; exact execTrainRetry_keeps h _
theorem exec_flitReplay_keeps {s₀ s : State} (h : State.Keeps s₀ s) (l : Fin 3) (sameFlit : Bool) : KeepsRes s₀ (exec (.flitReplay l sameFlit) s) := by
  delta exec; dsimp only; exact execFlitReplay_keeps h _ _
theorem exec_twimiLinkLoss_keeps {s₀ s : State} (h : State.Keeps s₀ s) (l : Fin 3) : KeepsRes s₀ (exec (.twimiLinkLoss l) s) := by
  delta exec; dsimp only; exact execTwimiLinkLoss_keeps h _
theorem exec_mret_keeps {s₀ s : State} (h : State.Keeps s₀ s) (hc : Fin 12) : KeepsRes s₀ (exec (.mret hc) s) := by
  delta exec; dsimp only; exact execMret_keeps h _
theorem exec_xworldWrite_keeps {s₀ s : State} (h : State.Keeps s₀ s) (hc : Fin 12) (mode : Mode) (v : Word64) : KeepsRes s₀ (exec (.xworldWrite hc mode v) s) := by
  delta exec; dsimp only; exact execXworldWrite_keeps h _ _ _
theorem exec_hostRelease_keeps {s₀ s : State} (h : State.Keeps s₀ s) (src : Src) (v : Word64) : KeepsRes s₀ (exec (.hostRelease src v) s) := by
  delta exec; dsimp only; exact execHostRelease_keeps h _ _
theorem exec_fwUpdate_keeps {s₀ s : State} (h : State.Keeps s₀ s) (src : Src) (block : List Byte) (flashOk : Bool) : KeepsRes s₀ (exec (.fwUpdate src block flashOk) s) := by
  delta exec; dsimp only; exact execFwUpdate_keeps h _ _ _
theorem exec_rollbackCommit_keeps {s₀ s : State} (h : State.Keeps s₀ s) (src : Src) (v : Word64) : KeepsRes s₀ (exec (.rollbackCommit src v) s) := by
  delta exec; dsimp only; exact execRollbackCommit_keeps h _ _
theorem exec_attestationRead_keeps {s₀ s : State} (h : State.Keeps s₀ s) (src : Src) : KeepsRes s₀ (exec (.attestationRead src) s) := by
  delta exec; dsimp only; exact execAttestationRead_keeps h _
theorem exec_fwRestart_keeps {s₀ s : State} (h : State.Keeps s₀ s) (src : Src) (f : Fin 7) (v : Word64) : KeepsRes s₀ (exec (.fwRestart src f v) s) := by
  delta exec; dsimp only; exact execFwRestart_keeps h _ _ _
theorem exec_componentFault_keeps {s₀ s : State} (h : State.Keeps s₀ s) (f : Fin 7) (comp cause : Word16) : KeepsRes s₀ (exec (.componentFault f comp cause) s) := by
  delta exec; dsimp only; exact execComponentFault_keeps h _ _ _
theorem exec_processorRestart_keeps {s₀ s : State} (h : State.Keeps s₀ s) (f : Fin 7) (phase : RestartPhase) : KeepsRes s₀ (exec (.processorRestart f phase) s) := by
  delta exec; dsimp only; exact execProcessorRestart_keeps h _ _
theorem exec_safeRequest_keeps {s₀ s : State} (h : State.Keeps s₀ s) (src : Src) (v : Word64) : KeepsRes s₀ (exec (.safeRequest src v) s) := by
  delta exec; dsimp only; exact execSafeRequest_keeps h _ _
theorem exec_safeExit_keeps {s₀ s : State} (h : State.Keeps s₀ s) (src : Src) (v : Word64) : KeepsRes s₀ (exec (.safeExit src v) s) := by
  delta exec; dsimp only; exact execSafeExit_keeps h _ _
theorem exec_noticeRepeat_keeps {s₀ s : State} (h : State.Keeps s₀ s) : KeepsRes s₀ (exec (.noticeRepeat) s) := by
  delta exec; dsimp only; exact execNoticeRepeat_keeps h
theorem exec_graniteHeartbeat_keeps {s₀ s : State} (h : State.Keeps s₀ s) : KeepsRes s₀ (exec (.graniteHeartbeat) s) := by
  delta exec; dsimp only; exact execGraniteHeartbeat_keeps h
theorem exec_islandWatchdogExpiry_keeps {s₀ s : State} (h : State.Keeps s₀ s) : KeepsRes s₀ (exec (.islandWatchdogExpiry) s) := by
  delta exec; dsimp only; exact execIslandWatchdogExpiry_keeps h
theorem exec_islandHwWatchdogExpiry_keeps {s₀ s : State} (h : State.Keeps s₀ s) : KeepsRes s₀ (exec (.islandHwWatchdogExpiry) s) := by
  delta exec; dsimp only; exact execIslandHwWatchdogExpiry_keeps h
theorem exec_timebaseCrossCheck_keeps {s₀ s : State} (h : State.Keeps s₀ s) (diffNs : Nat) : KeepsRes s₀ (exec (.timebaseCrossCheck diffNs) s) := by
  delta exec; dsimp only; exact execTimebaseCrossCheck_keeps h _
theorem exec_clockMonitorFault_keeps {s₀ s : State} (h : State.Keeps s₀ s) (clk : Fin 3) (ppm : Option Nat) : KeepsRes s₀ (exec (.clockMonitorFault clk ppm) s) := by
  delta exec; dsimp only; exact execClockMonitorFault_keeps h _ _
theorem exec_selftestRequest_keeps {s₀ s : State} (h : State.Keeps s₀ s) (src : Src) (v : Word64) : KeepsRes s₀ (exec (.selftestRequest src v) s) := by
  delta exec; dsimp only; exact execSelftestRequest_keeps h _ _
theorem exec_dtiExpiry_keeps {s₀ s : State} (h : State.Keeps s₀ s) : KeepsRes s₀ (exec (.dtiExpiry) s) := by
  delta exec; dsimp only; exact execDtiExpiry_keeps h
theorem exec_goldenLate_keeps {s₀ s : State} (h : State.Keeps s₀ s) (j : Fin 8) : KeepsRes s₀ (exec (.goldenLate j) s) := by
  delta exec; dsimp only; exact execGoldenLate_keeps h _
theorem exec_strataTrigger_keeps {s₀ s : State} (h : State.Keeps s₀ s) (src : Src) (v : Word64) : KeepsRes s₀ (exec (.strataTrigger src v) s) := by
  delta exec; dsimp only; exact execStrataTrigger_keeps h _ _
theorem exec_strataRecordWrite_keeps {s₀ s : State} (h : State.Keeps s₀ s) : KeepsRes s₀ (exec (.strataRecordWrite) s) := by
  delta exec; dsimp only; exact execStrataRecordWrite_keeps h
theorem exec_strataClear_keeps {s₀ s : State} (h : State.Keeps s₀ s) (src : Src) (v : Word64) : KeepsRes s₀ (exec (.strataClear src v) s) := by
  delta exec; dsimp only; exact execStrataClear_keeps h _ _
theorem exec_copyout_keeps {s₀ s : State} (h : State.Keeps s₀ s) (src : Src) (v : Word64) : KeepsRes s₀ (exec (.copyout src v) s) := by
  delta exec; dsimp only; exact execCopyout_keeps h _ _
theorem exec_copyoutEnd_keeps {s₀ s : State} (h : State.Keeps s₀ s) (ok : Bool) : KeepsRes s₀ (exec (.copyoutEnd ok) s) := by
  delta exec; dsimp only; exact execCopyoutEnd_keeps h _
theorem exec_powerGoodRise_keeps {s₀ s : State} (h : State.Keeps s₀ s) (env : StartEnv) : KeepsRes s₀ (exec (.powerGoodRise env) s) := by
  delta exec; dsimp only; exact execPowerGoodRise_keeps h _
theorem exec_svcImageWrite_keeps {s₀ s : State} (h : State.Keeps s₀ s) (len : Nat) : KeepsRes s₀ (exec (.svcImageWrite len) s) := by
  delta exec; dsimp only; exact execSvcImageWrite_keeps h _
theorem exec_powerGoodFall_keeps {s₀ s : State} (h : State.Keeps s₀ s) : KeepsRes s₀ (exec (.powerGoodFall) s) := by
  delta exec; dsimp only; exact execPowerGoodFall_keeps h
theorem exec_powerRequestOn_keeps {s₀ s : State} (h : State.Keeps s₀ s) (src : Src) : KeepsRes s₀ (exec (.powerRequestOn src) s) := by
  delta exec; dsimp only; exact execPowerRequestOn_keeps h _
theorem exec_powerRequestDrowse_keeps {s₀ s : State} (h : State.Keeps s₀ s) (src : Src) : KeepsRes s₀ (exec (.powerRequestDrowse src) s) := by
  delta exec; dsimp only; exact execPowerRequestDrowse_keeps h _
theorem exec_powerRequestSentry_keeps {s₀ s : State} (h : State.Keeps s₀ s) (src : Src) : KeepsRes s₀ (exec (.powerRequestSentry src) s) := by
  delta exec; dsimp only; exact execPowerRequestSentry_keeps h _
theorem exec_powerRequestOff_keeps {s₀ s : State} (h : State.Keeps s₀ s) (src : Src) : KeepsRes s₀ (exec (.powerRequestOff src) s) := by
  delta exec; dsimp only; exact execPowerRequestOff_keeps h _
theorem exec_heldRequestRelease_keeps {s₀ s : State} (h : State.Keeps s₀ s) : KeepsRes s₀ (exec (.heldRequestRelease) s) := by
  delta exec; dsimp only; exact execHeldRequestRelease_keeps h
theorem exec_idleEntry_keeps {s₀ s : State} (h : State.Keeps s₀ s) : KeepsRes s₀ (exec (.idleEntry) s) := by
  delta exec; dsimp only; exact execIdleEntry_keeps h
theorem exec_idleExit_keeps {s₀ s : State} (h : State.Keeps s₀ s) (why : IdleWake) : KeepsRes s₀ (exec (.idleExit why) s) := by
  delta exec; dsimp only; exact execIdleExit_keeps h _
theorem exec_drowseExit_keeps {s₀ s : State} (h : State.Keeps s₀ s) (env : StartEnv) : KeepsRes s₀ (exec (.drowseExit env) s) := by
  delta exec; dsimp only; exact execDrowseExit_keeps h _
theorem exec_sentryExit_keeps {s₀ s : State} (h : State.Keeps s₀ s) (env : StartEnv) : KeepsRes s₀ (exec (.sentryExit env) s) := by
  delta exec; dsimp only; exact execSentryExit_keeps h _
theorem exec_padRelease_keeps {s₀ s : State} (h : State.Keeps s₀ s) (src : Src) (v : Word64) : KeepsRes s₀ (exec (.padRelease src v) s) := by
  delta exec; dsimp only; exact execPadRelease_keeps h _ _
theorem exec_dvfsRequest_keeps {s₀ s : State} (h : State.Keeps s₀ s) (src : Src) (c : Fin 4) (v : Word64) : KeepsRes s₀ (exec (.dvfsRequest src c v) s) := by
  delta exec; dsimp only; exact execDvfsRequest_keeps h _ _ _
theorem exec_throttleStep_keeps {s₀ s : State} (h : State.Keeps s₀ s) (r : Temps) : KeepsRes s₀ (exec (.throttleStep r) s) := by
  delta exec; dsimp only; exact execThrottleStep_keeps h _
theorem exec_thermalTrip_keeps {s₀ s : State} (h : State.Keeps s₀ s) : KeepsRes s₀ (exec (.thermalTrip) s) := by
  delta exec; dsimp only; exact execThermalTrip_keeps h
theorem exec_ageingMeasure_keeps {s₀ s : State} (h : State.Keeps s₀ s) (slack : List Nat) : KeepsRes s₀ (exec (.ageingMeasure slack) s) := by
  delta exec; dsimp only; exact execAgeingMeasure_keeps h _
theorem exec_railEnableTimeout_keeps {s₀ s : State} (h : State.Keeps s₀ s) (k : Fin 15) : KeepsRes s₀ (exec (.railEnableTimeout k) s) := by
  delta exec; dsimp only; exact execRailEnableTimeout_keeps h _
theorem exec_railFault_keeps {s₀ s : State} (h : State.Keeps s₀ s) (k : Fin 15) (sinceAvs : Nat) : KeepsRes s₀ (exec (.railFault k sinceAvs) s) := by
  delta exec; dsimp only; exact execRailFault_keeps h _ _
theorem exec_pcieLinkChange_keeps {s₀ s : State} (h : State.Keeps s₀ s) (gen width : Nat) : KeepsRes s₀ (exec (.pcieLinkChange gen width) s) := by
  delta exec; dsimp only; exact execPcieLinkChange_keeps h _ _
theorem exec_hotPlugDetect_keeps {s₀ s : State} (h : State.Keeps s₀ s) (p : Fin 4) : KeepsRes s₀ (exec (.hotPlugDetect p) s) := by
  delta exec; dsimp only; exact execHotPlugDetect_keeps h _
theorem exec_csi2PortStateChange_keeps {s₀ s : State} (h : State.Keeps s₀ s) (p : Fin 16) (signal : Bool) : KeepsRes s₀ (exec (.csi2PortStateChange p signal) s) := by
  delta exec; dsimp only; exact execCsi2PortStateChange_keeps h _ _
theorem exec_plcaBeaconReturn_keeps {s₀ s : State} (h : State.Keeps s₀ s) (i : Fin 2) : KeepsRes s₀ (exec (.plcaBeaconReturn i) s) := by
  delta exec; dsimp only; exact execPlcaBeaconReturn_keeps h _
theorem exec_t1sTransmit_keeps {s₀ s : State} (h : State.Keeps s₀ s) (i : Fin 2) (collided : Bool) : KeepsRes s₀ (exec (.t1sTransmit i collided) s) := by
  delta exec; dsimp only; exact execT1sTransmit_keeps h _ _
theorem exec_lineScanOut_keeps {s₀ s : State} (h : State.Keeps s₀ s) (p : Fin 4) (ln : ScanLine) : KeepsRes s₀ (exec (.lineScanOut p ln) s) := by
  delta exec; dsimp only; exact execLineScanOut_keeps h _ _
theorem exec_reservedOpcode_keeps {s₀ s : State} (h : State.Keeps s₀ s) (n : Fin 16) (w : OpWord) : KeepsRes s₀ (exec (.reservedOpcode n w) s) := by
  delta exec; dsimp only; exact execReservedOpcode_keeps h _ _

/-- Every command keeps it, the queue's rest included. -/
theorem exec_keeps {s₀ s : State} (h : State.Keeps s₀ s) (i : Instr) : KeepsRes s₀ (exec i s) := by
  cases i with
  | windowWrite _ _ _ _ => exact exec_windowWrite_keeps h _ _ _ _
  | commitWrite _ _ => exact exec_commitWrite_keeps h _ _
  | commitApply _ => exact exec_commitApply_keeps h _
  | xferCopy _ => exact exec_xferCopy_keeps h _
  | xferLoad _ => exact exec_xferLoad_keeps h _
  | xferEnd _ => exact exec_xferEnd_keeps h _
  | store _ _ => exact exec_store_keeps h _ _
  | storeWriteEnd _ => exact exec_storeWriteEnd_keeps h _
  | configImageLoad _ _ => exact exec_configImageLoad_keeps h _ _
  | read _ => exact exec_read_keeps h _
  | write _ => exact exec_write_keeps h _
  | readBlock _ => exact exec_readBlock_keeps h _
  | writeBlock _ => exact exec_writeBlock_keeps h _
  | commit _ => exact exec_commit_keeps h _
  | subscribe _ => exact exec_subscribe_keeps h _
  | open_ _ => exact exec_open_keeps h _
  | prove _ => exact exec_prove_keeps h _
  | close _ => exact exec_close_keeps h _
  | openProveTimeout _ => exact exec_openProveTimeout_keeps h _
  | sessionIdleTimeout _ => exact exec_sessionIdleTimeout_keeps h _
  | servoUpdate _ _ _ => exact exec_servoUpdate_keeps h _ _ _
  | domainSlewEnd _ => exact exec_domainSlewEnd_keeps h _
  | grandmasterLost _ => exact exec_grandmasterLost_keeps h _
  | grandmasterReselected _ _ => exact exec_grandmasterReselected_keeps h _ _
  | holdoverExpiry _ => exact exec_holdoverExpiry_keeps h _
  | domainLock _ _ _ _ => exact exec_domainLock_keeps h _ _ _ _
  | domainSwitch _ _ => exact exec_domainSwitch_keeps h _ _
  | selectedSlewEnd => exact exec_selectedSlewEnd_keeps h
  | cadenceNone _ => exact exec_cadenceNone_keeps h _
  | startJob _ => exact exec_startJob_keeps h _
  | assayCapture _ => exact exec_assayCapture_keeps h _
  | launchFrame _ => exact exec_launchFrame_keeps h _
  | lodestoneSample _ => exact exec_lodestoneSample_keeps h _
  | trigger _ => exact exec_trigger_keeps h _
  | publish _ => exact exec_publish_keeps h _
  | serviceSlot _ _ => exact exec_serviceSlot_keeps h _ _
  | triggerWidthEnd _ => exact exec_triggerWidthEnd_keeps h _
  | setpointWrite _ _ _ => exact exec_setpointWrite_keeps h _ _ _
  | lodestoneResult _ _ => exact exec_lodestoneResult_keeps h _ _
  | lodestoneOutput _ => exact exec_lodestoneOutput_keeps h _
  | nop _ _ => exact exec_nop_keeps h _ _
  | halt _ _ => exact exec_halt_keeps h _ _
  | br _ _ => exact exec_br_keeps h _ _
  | loop _ _ => exact exec_loop_keeps h _ _
  | fence _ _ => exact exec_fence_keeps h _ _
  | smovi _ _ => exact exec_smovi_keeps h _ _
  | salu _ _ => exact exec_salu_keeps h _ _
  | scmp _ _ => exact exec_scmp_keeps h _ _
  | pset _ _ => exact exec_pset_keeps h _ _
  | sld _ _ => exact exec_sld_keeps h _ _
  | sst _ _ => exact exec_sst_keeps h _ _
  | desc _ _ => exact exec_desc_keeps h _ _
  | dadd _ _ => exact exec_dadd_keeps h _ _
  | seed _ _ => exact exec_seed_keeps h _ _
  | matmul _ _ => exact exec_matmul_keeps h _ _
  | conv _ _ => exact exec_conv_keeps h _ _
  | accin _ _ => exact exec_accin_keeps h _ _
  | readout _ _ => exact exec_readout_keeps h _ _
  | pconv _ _ => exact exec_pconv_keeps h _ _
  | pread _ _ => exact exec_pread_keeps h _ _
  | pebbleOp _ => exact exec_pebbleOp_keeps h _
  | vld _ _ => exact exec_vld_keeps h _ _
  | vst _ _ => exact exec_vst_keeps h _ _
  | vop _ _ => exact exec_vop_keeps h _ _
  | tew _ _ => exact exec_tew_keeps h _ _
  | tred _ _ => exact exec_tred_keeps h _ _
  | tsmx _ _ => exact exec_tsmx_keeps h _ _
  | tnorm _ _ => exact exec_tnorm_keeps h _ _
  | gather _ _ => exact exec_gather_keeps h _ _
  | scatter _ _ => exact exec_scatter_keeps h _ _
  | tpool _ _ => exact exec_tpool_keeps h _ _
  | shade _ _ => exact exec_shade_keeps h _ _
  | dmov _ _ => exact exec_dmov_keeps h _ _
  | dfill _ _ => exact exec_dfill_keeps h _ _
  | coll _ _ => exact exec_coll_keeps h _ _
  | kvscatter _ _ => exact exec_kvscatter_keeps h _ _
  | kvfetch _ _ => exact exec_kvfetch_keeps h _ _
  | attn _ _ => exact exec_attn_keeps h _ _
  | signal _ _ => exact exec_signal_keeps h _ _
  | wait _ _ => exact exec_wait_keeps h _ _
  | aopen _ _ => exact exec_aopen_keeps h _ _
  | aclose _ _ => exact exec_aclose_keeps h _ _
  | afold _ _ => exact exec_afold_keeps h _ _
  | waitGranted _ _ => exact exec_waitGranted_keeps h _ _
  | drainSignalApply _ _ => exact exec_drainSignalApply_keeps h _ _
  | slabOpStart _ => exact exec_slabOpStart_keeps h _
  | opComplete _ _ _ => exact exec_opComplete_keeps h _ _ _
  | watchdogExpiry _ => exact exec_watchdogExpiry_keeps h _
  | instanceFault _ => exact exec_instanceFault_keeps h _
  | debugHalt _ => exact exec_debugHalt_keeps h _
  | debugStep _ => exact exec_debugStep_keeps h _
  | debugRelease _ => exact exec_debugRelease_keeps h _
  | kvCreate _ _ _ => exact exec_kvCreate_keeps h _ _ _
  | kvRelease _ _ _ => exact exec_kvRelease_keeps h _ _ _
  | kvTruncate _ _ _ => exact exec_kvTruncate_keeps h _ _ _
  | kvPrebind _ _ _ => exact exec_kvPrebind_keeps h _ _ _
  | load _ _ => exact exec_load_keeps h _ _
  | unload _ => exact exec_unload_keeps h _
  | run _ => exact exec_run_keeps h _
  | direct _ => exact exec_direct_keeps h _
  | cancel _ => exact exec_cancel_keeps h _
  | heartbeat _ => exact exec_heartbeat_keeps h _
  | attach _ => exact exec_attach_keeps h _
  | mboxFromClear _ => exact exec_mboxFromClear_keeps h _
  | replace _ _ _ => exact exec_replace_keeps h _ _ _
  | replacementJob _ _ _ _ => exact exec_replacementJob_keeps h _ _ _ _
  | shrinkGraceExpiry _ _ => exact exec_shrinkGraceExpiry_keeps h _ _
  | invocationStart _ => exact exec_invocationStart_keeps h _
  | assayTimeout _ => exact exec_assayTimeout_keeps h _
  | ledgerDeadlock _ => exact exec_ledgerDeadlock_keeps h _
  | outputRelease _ _ _ => exact exec_outputRelease_keeps h _ _ _
  | preempt _ => exact exec_preempt_keeps h _
  | saveComplete _ => exact exec_saveComplete_keeps h _
  | sliceEnd _ => exact exec_sliceEnd_keeps h _
  | slotPreempt _ _ => exact exec_slotPreempt_keeps h _ _
  | invocationComplete _ _ _ => exact exec_invocationComplete_keeps h _ _ _
  | instCreate _ _ _ _ => exact exec_instCreate_keeps h _ _ _ _
  | instDestroy _ _ _ => exact exec_instDestroy_keeps h _ _ _
  | zeroingEnd _ => exact exec_zeroingEnd_keeps h _
  | instFreeze _ _ _ => exact exec_instFreeze_keeps h _ _ _
  | instThaw _ _ _ => exact exec_instThaw_keeps h _ _ _
  | instSaveImage _ _ _ => exact exec_instSaveImage_keeps h _ _ _
  | instRestoreImage _ _ _ _ => exact exec_instRestoreImage_keeps h _ _ _ _
  | instRecover _ _ _ => exact exec_instRecover_keeps h _ _ _
  | instOrphan _ _ _ => exact exec_instOrphan_keeps h _ _ _
  | heartbeatTimeout _ => exact exec_heartbeatTimeout_keeps h _
  | acctReset _ _ _ => exact exec_acctReset_keeps h _ _ _
  | stackRequest _ => exact exec_stackRequest_keeps h _
  | bucketRefill => exact exec_bucketRefill_keeps h
  | guaranteeWrite _ _ _ => exact exec_guaranteeWrite_keeps h _ _ _
  | safetyClassesWrite _ _ => exact exec_safetyClassesWrite_keeps h _ _
  | patrolScrub _ _ _ => exact exec_patrolScrub_keeps h _ _ _
  | stackTempRead _ _ => exact exec_stackTempRead_keeps h _ _
  | streamEnable _ _ _ _ => exact exec_streamEnable_keeps h _ _ _ _
  | frameStart _ _ => exact exec_frameStart_keeps h _ _
  | lineStart _ => exact exec_lineStart_keeps h _
  | longPacket _ _ => exact exec_longPacket_keeps h _ _
  | frameEnd _ => exact exec_frameEnd_keeps h _
  | blankVerdict _ _ => exact exec_blankVerdict_keeps h _ _
  | ringTailWrite _ _ => exact exec_ringTailWrite_keeps h _ _
  | passComplete _ => exact exec_passComplete_keeps h _
  | pipeLatch _ => exact exec_pipeLatch_keeps h _
  | regionCheck _ _ _ => exact exec_regionCheck_keeps h _ _ _
  | resume _ _ _ => exact exec_resume_keeps h _ _ _
  | displayPreempt _ => exact exec_displayPreempt_keeps h _
  | frameReceive _ _ => exact exec_frameReceive_keeps h _ _
  | frameTransmit _ _ => exact exec_frameTransmit_keeps h _ _
  | txTailWrite _ _ _ _ => exact exec_txTailWrite_keeps h _ _ _ _
  | rxTailWrite _ _ _ => exact exec_rxTailWrite_keeps h _ _ _
  | tsReadWrite _ _ _ => exact exec_tsReadWrite_keeps h _ _ _
  | linkChange _ _ => exact exec_linkChange_keeps h _ _
  | t1sFrameReceive _ _ => exact exec_t1sFrameReceive_keeps h _ _
  | beaconLoss _ => exact exec_beaconLoss_keeps h _
  | canFrameReceive _ _ => exact exec_canFrameReceive_keeps h _ _
  | canTransmit _ _ _ => exact exec_canTransmit_keeps h _ _ _
  | busOffRecovery _ => exact exec_busOffRecovery_keeps h _
  | restart _ _ _ => exact exec_restart_keeps h _ _ _
  | wake _ => exact exec_wake_keeps h _
  | outboundRead _ _ _ => exact exec_outboundRead_keeps h _ _ _
  | outboundWrite _ _ _ _ => exact exec_outboundWrite_keeps h _ _ _ _
  | fetchComplete _ _ => exact exec_fetchComplete_keeps h _ _
  | fetchHoldExpiry _ => exact exec_fetchHoldExpiry_keeps h _
  | readTimeout _ _ _ _ => exact exec_readTimeout_keeps h _ _ _ _
  | deadlockYield => exact exec_deadlockYield_keeps h
  | inboundRequest _ _ _ _ _ => exact exec_inboundRequest_keeps h _ _ _ _ _
  | postedWriteFault _ => exact exec_postedWriteFault_keeps h _
  | pweClear _ _ => exact exec_pweClear_keeps h _ _
  | linkTrain _ _ => exact exec_linkTrain_keeps h _ _
  | trainRetry _ => exact exec_trainRetry_keeps h _
  | flitReplay _ _ => exact exec_flitReplay_keeps h _ _
  | twimiLinkLoss _ => exact exec_twimiLinkLoss_keeps h _
  | mret _ => exact exec_mret_keeps h _
  | xworldWrite _ _ _ => exact exec_xworldWrite_keeps h _ _ _
  | hostRelease _ _ => exact exec_hostRelease_keeps h _ _
  | fwUpdate _ _ _ => exact exec_fwUpdate_keeps h _ _ _
  | rollbackCommit _ _ => exact exec_rollbackCommit_keeps h _ _
  | attestationRead _ => exact exec_attestationRead_keeps h _
  | fwRestart _ _ _ => exact exec_fwRestart_keeps h _ _ _
  | componentFault _ _ _ => exact exec_componentFault_keeps h _ _ _
  | processorRestart _ _ => exact exec_processorRestart_keeps h _ _
  | safeRequest _ _ => exact exec_safeRequest_keeps h _ _
  | safeExit _ _ => exact exec_safeExit_keeps h _ _
  | noticeRepeat => exact exec_noticeRepeat_keeps h
  | graniteHeartbeat => exact exec_graniteHeartbeat_keeps h
  | islandWatchdogExpiry => exact exec_islandWatchdogExpiry_keeps h
  | islandHwWatchdogExpiry => exact exec_islandHwWatchdogExpiry_keeps h
  | timebaseCrossCheck _ => exact exec_timebaseCrossCheck_keeps h _
  | clockMonitorFault _ _ => exact exec_clockMonitorFault_keeps h _ _
  | selftestRequest _ _ => exact exec_selftestRequest_keeps h _ _
  | dtiExpiry => exact exec_dtiExpiry_keeps h
  | goldenLate _ => exact exec_goldenLate_keeps h _
  | strataTrigger _ _ => exact exec_strataTrigger_keeps h _ _
  | strataRecordWrite => exact exec_strataRecordWrite_keeps h
  | strataClear _ _ => exact exec_strataClear_keeps h _ _
  | copyout _ _ => exact exec_copyout_keeps h _ _
  | copyoutEnd _ => exact exec_copyoutEnd_keeps h _
  | powerGoodRise _ => exact exec_powerGoodRise_keeps h _
  | svcImageWrite _ => exact exec_svcImageWrite_keeps h _
  | powerGoodFall => exact exec_powerGoodFall_keeps h
  | powerRequestOn _ => exact exec_powerRequestOn_keeps h _
  | powerRequestDrowse _ => exact exec_powerRequestDrowse_keeps h _
  | powerRequestSentry _ => exact exec_powerRequestSentry_keeps h _
  | powerRequestOff _ => exact exec_powerRequestOff_keeps h _
  | heldRequestRelease => exact exec_heldRequestRelease_keeps h
  | idleEntry => exact exec_idleEntry_keeps h
  | idleExit _ => exact exec_idleExit_keeps h _
  | drowseExit _ => exact exec_drowseExit_keeps h _
  | sentryExit _ => exact exec_sentryExit_keeps h _
  | padRelease _ _ => exact exec_padRelease_keeps h _ _
  | dvfsRequest _ _ _ => exact exec_dvfsRequest_keeps h _ _ _
  | throttleStep _ => exact exec_throttleStep_keeps h _
  | thermalTrip => exact exec_thermalTrip_keeps h
  | ageingMeasure _ => exact exec_ageingMeasure_keeps h _
  | railEnableTimeout _ => exact exec_railEnableTimeout_keeps h _
  | railFault _ _ => exact exec_railFault_keeps h _ _
  | pcieLinkChange _ _ => exact exec_pcieLinkChange_keeps h _ _
  | hotPlugDetect _ => exact exec_hotPlugDetect_keeps h _
  | csi2PortStateChange _ _ => exact exec_csi2PortStateChange_keeps h _ _
  | plcaBeaconReturn _ => exact exec_plcaBeaconReturn_keeps h _
  | t1sTransmit _ _ => exact exec_t1sTransmit_keeps h _ _
  | lineScanOut _ _ => exact exec_lineScanOut_keeps h _ _
  | reservedOpcode _ _ => exact exec_reservedOpcode_keeps h _ _

/-- A step that goes on takes at most the front of the queue, and keeps the rest of the relation. -/
theorem step_keeps {s t : State} (h : step s = .next t) :
    t.pending = s.pending.tail ∧ s.free ≤ t.free ∧ s.out <:+ t.out ∧ (s.canonical = true → t.canonical = true) := by
  unfold step at h
  split at h
  · rename_i e
    cases h
    have k := State.clock_keeps (State.Keeps.refl s)
    exact ⟨by rw [k.queue, e]; rfl, k.free, k.out, k.canon⟩
  · rename_i c rest e
    have k := exec_keeps (State.Keeps.refl { s with pending := rest }) c t h
    exact ⟨by rw [e]; exact k.queue, k.free, k.out, k.canon⟩

end Sys2Proof.Machine
end

