-- ==== Sys2Proof/Laws/Objects.lean ====
section
/-! SUPPORT. The parts of the object tables lose no row: a lookup by parts is the lookup in the whole list. -/

namespace Sys2Proof.Machine

/-- The last index that a row lists. -/
def ObjRow.last (r : ObjRow) : Nat := r.base + r.stride * (r.count - 1) + (r.count2 - 1)

theorem ObjRow.hasIndex_range {r : ObjRow} {idx : Nat} (h : r.hasIndex idx = true) : r.base ≤ idx ∧ idx ≤ r.last := by
  simp only [ObjRow.hasIndex, Bool.and_eq_true, decide_eq_true_eq] at h
  obtain ⟨⟨h1, h2⟩, h3⟩ := h
  have hd := Nat.div_add_mod (idx - r.base) r.stride
  have hm : r.stride * ((idx - r.base) / r.stride) ≤ r.stride * (r.count - 1) := Nat.mul_le_mul_left _ (by omega)
  unfold ObjRow.last
  omega

/-- A part whose rows all lie within its range gives the same rows for an index as its guarded form. -/
theorem find_part (lo hi idx sub : Nat) (l : List ObjRow) (h : (l.all fun r => Nat.ble lo r.base && Nat.ble r.last hi) = true) :
    ((if Nat.ble lo idx && Nat.ble idx hi then l else []).find? fun r => r.hits idx sub) = l.find? fun r => r.hits idx sub := by
  by_cases hc : (Nat.ble lo idx && Nat.ble idx hi) = true
  · rw [if_pos hc]
  · rw [if_neg hc, List.find?_nil, eq_comm, List.find?_eq_none]
    intro r hr hh
    have ha := List.all_eq_true.mp h r hr
    have hx := ObjRow.hasIndex_range (r := r) (idx := idx) (by simp only [ObjRow.hits, Bool.and_eq_true] at hh; exact hh.1.1.1)
    simp only [Bool.and_eq_true, Nat.ble_eq] at ha hc
    omega

theorem objParts_in_range : (objParts.all fun p => p.2.2.all fun r => Nat.ble p.1 r.base && Nat.ble r.last p.2.1) = true := by decide +kernel

theorem find_parts (idx sub : Nat) (ps : List (Nat × Nat × List ObjRow)) (h : (ps.all fun p => p.2.2.all fun r => Nat.ble p.1 r.base && Nat.ble r.last p.2.1) = true) :
    ((ps.flatMap fun p => if Nat.ble p.1 idx && Nat.ble idx p.2.1 then p.2.2 else []).find? fun r => r.hits idx sub) = (ps.flatMap (·.2.2)).find? fun r => r.hits idx sub := by
  induction ps with
  | nil => rfl
  | cons p ps ih =>
    simp only [List.all_cons, Bool.and_eq_true] at h
    rw [List.flatMap_cons, List.flatMap_cons, List.find?_append, List.find?_append, ih h.2, find_part _ _ _ _ _ h.1]

/-- The row of an object is the first row of all the tables that lists it. -/
theorem objRow?_eq (idx sub : Nat) : objRow? idx sub = objRows.find? fun r => r.hits idx sub := by
  have h : objRows = objParts.flatMap (·.2.2) := by
    simp only [objRows, objParts, List.flatMap_cons, List.flatMap_nil, List.append_nil, List.append_assoc]
  rw [h]
  exact find_parts idx sub objParts objParts_in_range

end Sys2Proof.Machine
end

