-- ==== Sys2Proof/Tests/Slice0.lean ====
section
/-! SUPPORT. Tests of the model on small states, and the states and operands that meet the hypotheses of the statements. Expected results are worked out by hand from the rules cited. -/

namespace Sys2Proof.Tests

open Sys2Proof Sys2Proof.Machine

set_option maxRecDepth 20000
set_option Elab.async false

/-! ### Well-formed operands -/

/-- The firmware processor that runs the security core's components, as a requester. -/
def fw0 : Src := .fw 0

/-- A CXOP request with nothing wrong. -/
def req : CxReq := ⟨.eth 0, 0, true, 1, 1, 0#16, 1, 1, 0, []⟩

/-- A placement with nothing in it. -/
def place0 : Placement := ⟨[], [], 0, 0, 0, 0, 0, 0, [], []⟩

/-- A read of a stack. -/
def stackRead : StackReq := ⟨0, 0, 0#16, 0, false, 32, [], false, .clean, false, false⟩

/-- A frame. -/
def frame : EthFrame := ⟨1#48, 2#48, none, 0x0800#16, [1#8], 64, true, false, false, true⟩

/-- A CAN frame. -/
def canFrame : CanFrame := ⟨false, false, false, 5#29, 0#8, 0#8, 0#32, [1#8]⟩

/-- What a start-up meets when all is well. -/
def env : StartEnv := ⟨false, 0#2, true, [], 0#16, [], none, [300, 300, 300, 300, 300, 300, 300], [0#64, 0#64, 0#64, 0#64, 0#64]⟩

theorem test_wf_accepts : (Instr.windowWrite fw0 0xf800000000 8 0#64).wf && (Instr.read req).wf && (Instr.stackRequest stackRead).wf && (Instr.frameReceive 0 frame).wf
    && (Instr.canFrameReceive 0 canFrame).wf && (Instr.powerGoodRise env).wf && (Instr.reservedOpcode 0 (mkOp 0x05 0#120)).wf && (Instr.load 0 place0).wf = true := by decide

theorem test_wf_window : (Instr.windowWrite fw0 0xf7fffffff8 8 0#64).wf || (Instr.windowWrite fw0 0xf808000000 8 0#64).wf || (Instr.windowWrite fw0 0xf800000000 3 0#64).wf
    || (Instr.windowWrite (.host 0 .vs 0x4000) 0xf800000000 8 0#64).wf || (Instr.windowWrite (.cxop (2 ^ 32)) 0xf800000000 8 0#64).wf = false := by decide

theorem test_wf_opcode : (Instr.reservedOpcode 0 (mkOp 0x20 0#120)).wf = false := by decide

theorem test_wf_request : (Instr.read { req with vlan := 4096 }).wf || (Instr.write { req with version := 256 }).wf || (Instr.commit { req with kind := 256 }).wf
    || (Instr.subscribe { req with session := 2 ^ 32 }).wf || (Instr.close { req with seq := 2 ^ 32 }).wf || (Instr.prove { req with payloadLen := 2 ^ 16 }).wf = false := by decide

theorem test_wf_sessions : (Instr.commitApply (.session (2 ^ 32))).wf || (Instr.xferEnd (.session (2 ^ 32))).wf || (Instr.openProveTimeout (2 ^ 32)).wf || (Instr.sessionIdleTimeout (2 ^ 32)).wf = false := by decide

theorem test_wf_segments : (Instr.load 0 { place0 with segs := [⟨0, 2 ^ 48, 1⟩] }).wf || (Instr.load 0 { place0 with segs := [⟨0, 0, 2 ^ 32⟩] }).wf
    || (Instr.load 0 { place0 with lodeAddr := 2 ^ 48 }).wf || (Instr.load 0 { place0 with groups := 2 ^ 32 }).wf || (Instr.load 0 { place0 with groupSize := 2 ^ 16 }).wf
    || (Instr.load 0 { place0 with outs := [⟨0, 2 ^ 48, 1, 0, 0, 0⟩] }).wf || (Instr.load 0 { place0 with outs := [⟨0, 0, 1, 2 ^ 16, 0, 0⟩] }).wf
    || (Instr.replacementJob 0 0 0 { place0 with writes := [(2 ^ 48, [0#8])] }).wf = false := by decide

/-- A lode map record. -/
def rec0 : LodeRec := ⟨0, 0, 0#16, 0#16, 0, 0, 0, 0, 0, 0, 0⟩

theorem test_wf_records : ([{ rec0 with engine := 4 }, { rec0 with kSplit := 256 }, { rec0 with groupSize := 2 ^ 16 }, { rec0 with firstGroup := 2 ^ 32 }, { rec0 with residence := 256 },
    { rec0 with stack := 256 }, { rec0 with prefetch := 2 ^ 16 }, { rec0 with flags := 256 }, { rec0 with outAddr := 2 ^ 48 }].any fun r => (Instr.load 0 { place0 with recs := [r] }).wf) = false := by decide

theorem test_wf_carves : ([⟨2 ^ 48, 0, 0, 0, 0⟩, ⟨0, 2 ^ 48, 0, 0, 0⟩, ⟨0, 0, 2 ^ 48, 0, 0⟩, ⟨0, 0, 0, 2 ^ 48, 0⟩, ⟨0, 0, 0, 0, 2 ^ 48⟩].any fun c =>
    (Instr.instCreate fw0 0 0#56 c).wf || (Instr.instRestoreImage fw0 0 0#56 c).wf) = false := by decide

theorem test_wf_memory : (Instr.stackRequest { stackRead with addr := 2 ^ 48 }).wf || (Instr.stackRequest { stackRead with data := [0#8] }).wf || (Instr.stackRequest { stackRead with write := true }).wf
    || (Instr.outboundRead 0 (2 ^ 48) 1).wf || (Instr.outboundWrite 0 (2 ^ 48) [] true).wf || (Instr.readTimeout 0 (2 ^ 48) 1 0#64).wf || (Instr.inboundRequest true (2 ^ 64) 0 [] 0).wf = false := by decide

theorem test_wf_frames : (Instr.longPacket 0 ⟨32, 0, [], false, false, false⟩).wf || (Instr.longPacket 0 ⟨0, 64, [], false, false, false⟩).wf
    || (Instr.frameReceive 0 { frame with len := 0 }).wf || (Instr.t1sFrameReceive 0 { frame with len := 2 ^ 14 }).wf
    || (Instr.canFrameReceive 0 { canFrame with data := List.replicate 9 0#8 }).wf || (Instr.canFrameReceive 0 { canFrame with fd := true, data := List.replicate 65 0#8 }).wf
    || (Instr.canFrameReceive 0 { canFrame with id := 2048#29 }).wf = false := by decide

theorem test_wf_packet_length (bs : List Byte) (h : 2 ^ 16 ≤ bs.length) : (Instr.longPacket 0 ⟨0, 0, bs, false, false, false⟩).wf = false := by
  simp only [Instr.wf, CsiPacket.wf]; simp; omega

theorem test_wf_xl_length (bs : List Byte) (h : 2048 < bs.length) : (Instr.canFrameReceive 0 { canFrame with xl := true, data := bs }).wf = false := by
  simp only [Instr.wf, CanFrame.wf, canFrame]; simp; omega

theorem test_wf_environment : (Instr.linkTrain 0 (.answer 4 0 0 0)).wf || (Instr.linkTrain 0 (.answer 0 3 0 0)).wf || (Instr.linkTrain 0 (.answer 0 0 (2 ^ 32) 0)).wf || (Instr.linkTrain 0 (.answer 0 0 0 256)).wf
    || (Instr.powerGoodRise { env with stamps := [] }).wf || (Instr.sentryExit { env with slack := [] }).wf || (Instr.throttleStep ⟨[]⟩).wf || (Instr.ageingMeasure []).wf = false := by decide

/-- Whether an answer is the stop of an ill-formed command. -/
def illFormed (r : Result) : Bool :=
  match r with
  | .fault .illFormed => true
  | _ => false

/-- An ill-formed command stops under its name. -/
theorem test_ill_formed_stops : illFormed (exec (.windowWrite fw0 0xf7fffffff8 8 0#64) State.reset) && illFormed (exec (.reservedOpcode 0 (mkOp 0x20 0#120)) State.reset) = true := by decide +kernel

/-- No word of the opcode table spells a command. -/
theorem test_no_word_spells : decodeTableWord 32 0 = none ∧ State.reset.withFetchWord 32 0 = State.reset := by decide +kernel

/-! ### Small states -/

/-- The state that a command leaves. -/
def after (r : Result) : State :=
  match r with
  | .next t => t
  | _ => State.reset

/-- The device powered, every domain on, out of every start-up. -/
def live : State := { State.reset with powered := true, tbRun := true, domsOff := 0, now := 1000000#64 }

/-- A state with the object values of a list of keys and values. -/
def put (s : State) (l : List (Nat × Nat)) : State := l.foldl (fun s x => s.setN x.1 x.2) s

/-- The body of an op word from the lowest bit and the value of each of its fields. -/
def body (l : List (Nat × Nat)) : BitVec 120 := BitVec.ofNat 120 (l.foldl (fun a x => a + x.2 * 2 ^ x.1) 0)

/-- Core 0 of instance 0 at work in a segment of 100 op words at 0x1000, its pc at the second. -/
def atWork : State := (put live [(kCore 0 0 1, 1), (kCore 0 0 2, 0), (kPc 0, 0x1010), (kCore 0 4 6, 1000)]).upCore 0 fun c => { c with seg := some ⟨0, 0x1000, 100, none⟩ }

/-- The same core with a value in a scalar register. -/
def withS (i : Nat) (v : Word64) : State := atWork.upCore 0 fun c => c.setS i v

/-! ### Numbers and check words, against values worked out by hand -/

/-- The check value of CRC-32C over the digits 1 to 9 is E3069283 (R49). -/
theorem test_crc32c : crc32c [0x31#8, 0x32#8, 0x33#8, 0x34#8, 0x35#8, 0x36#8, 0x37#8, 0x38#8, 0x39#8] = 0xe3069283#32 := by decide +kernel

/-- 1.5 + 2.25 = 3.75; 1 + 2^-24 is a tie and goes to the even 1; FP8 E4M3 0x7e is its largest number, 448. -/
theorem test_float : f32add 0x3fc00000#32 0x40100000#32 = 0x40700000#32 ∧ f32add 0x3f800000#32 0x33800000#32 = 0x3f800000#32 ∧ (fmtE4M3.decode 0x7e).toRat = 448 := by decide +kernel

/-- 300 saturates in INT8; FP4 E2M1 holds 6 at most and 2.5 goes to the even 2. -/
theorem test_convert : (convTo codeINT8 .rne false (FVal.ofRat false 300)).code = 0x7f ∧ (fmtE2M1.decode 7).toRat = 6 ∧ (fmtE2M1.conv .rne false (FVal.ofRat false (5 / 2))).code = 4 := by decide +kernel

/-! ### Ops of a core -/

theorem test_smovi : let t := after (exec (.smovi 0 (body [(91, 1), (0, 5)])) atWork)
    (t.core 0).s 1 = 5#64 ∧ t.objN (kPc 0) = 0x1020 ∧ t.objN (kRetired 0) = 1 := by decide +kernel

/-- A write of s0 is discarded, and the op retires (R119). -/
theorem test_smovi_s0 : let t := after (exec (.smovi 0 (body [(91, 0), (0, 5)])) atWork)
    (t.core 0).s 0 = 0#64 ∧ t.objN (kPc 0) = 0x1020 := by decide +kernel

/-- 5 - s1 is not s1 - 5: s2 = s1 - 7 wraps; its source may be its destination. -/
theorem test_salu_sub : ((after (exec (.salu 0 (body [(91, 1), (86, 1), (77, 1), (76, 1), (0, 7)])) (withS 1 5#64))).core 0).s 1 = 0xfffffffffffffffe#64 := by decide +kernel

/-- The immediate is sign-extended, and the comparison is signed: -1 < 1. -/
theorem test_scmp_signed : ((after (exec (.scmp 0 (body [(93, 2), (88, 1), (80, 2), (79, 1), (0, 1)])) (withS 1 0xffffffffffffffff#64))).core 0).p 2 = 1#32 := by decide +kernel

/-- BR counts from its own address: offset -1 goes one op word back. -/
theorem test_br_back : (after (exec (.br 0 (body [(64, 0xffffffff)])) atWork)).objN (kPc 0) = 0x1000 := by decide +kernel

/-- LOOP with p[1] = 2 branches and leaves 1; with 1 it falls through and leaves 0. -/
theorem test_loop : let w := body [(93, 1), (61, 0xffffffff)]
    let run (v : Word32) := after (exec (.loop 0 w) (atWork.upCore 0 fun c => c.setP 1 v))
    (run 2#32).objN (kPc 0) = 0x1000 ∧ ((run 2#32).core 0).p 1 = 1#32 ∧ (run 1#32).objN (kPc 0) = 0x1020 ∧ ((run 1#32).core 0).p 1 = 0#32 := by decide +kernel

/-- SST stores its eight bytes least significant first, and SLD reads them back. -/
theorem test_sst_sld : let t := after (exec (.sst 0 (body [(91, 1), (0, 0x40)])) (withS 1 0x0102030405060708#64))
    t.byte (lstoreBase 0 + 0x40) = 8#8 ∧ t.byte (lstoreBase 0 + 0x47) = 1#8 ∧ ((after (exec (.sld 0 (body [(91, 2), (0, 0x40)])) t)).core 0).s 2 = 0x0102030405060708#64 := by decide +kernel

/-- SIGNAL adds to the counter of its target; a WAIT for more than the counter holds stalls the core and takes nothing (R131, R132). -/
theorem test_signal_wait : let t := after (exec (.signal 0 (body [(91, 3), (70, 4)])) atWork)
    t.ctr 0 3 = 4 ∧ (after (exec (.wait 0 (body [(91, 3), (75, 4)])) t)).ctr 0 3 = 0 ∧ (after (exec (.wait 0 (body [(91, 3), (75, 5)])) t)).ctr 0 3 = 4
    ∧ ((after (exec (.wait 0 (body [(91, 3), (75, 5)])) t)).core 0).hold ≠ .none := by decide +kernel

/-- An unassigned opcode raises illegal_op, detail 0x01, with the address of the op word (R118, R137). -/
theorem test_reserved_opcode : let t := after (exec (.reservedOpcode 0 (mkOp 0x05 0#120)) atWork)
    t.objN (kCause 0) = 0x01000001 ∧ t.objN (kCore 0 4 3) = 0x1010 ∧ (t.core 0).hold = .stopped := by decide +kernel

/-- A predicated-off op is skipped and retires (R117). -/
theorem test_predicated_off : let t := after (exec (.smovi 0 (body [(119, 1), (115, 1), (91, 1), (0, 5)])) atWork)
    (t.core 0).s 1 = 0#64 ∧ t.objN (kPc 0) = 0x1020 ∧ t.objN (kRetired 0) = 1 := by decide +kernel

/-! ### Objects, time and power -/

/-- A window access of 4 bytes completes with an error response (R36). -/
theorem test_window_size : (after (exec (.windowWrite fw0 0xf800000000 4 0#64) live)).out = [.errorResponse fw0 0xf800000000] := by decide +kernel

/-- A write of another word than the store's is refused with 0x0007 and counted once (R38, R51). -/
theorem test_store_word : ((after (exec (.store fw0 0#64) live)).ctx .secureFw).windowStatus = 0x00000007_10100101#64 := by decide +kernel

/-- The first store goes to copy A as version 1 and reads as running (R51). -/
theorem test_store : let t := after (exec (.store fw0 0x65766173#64) (put live [(okey 0x1003 2, 2)]))
    t.objN (okey 0x1010 2) = 1 ∧ t.storeJob.map (fun j => (j.copy, j.version)) = some (0, 1) := by decide +kernel

/-- A tick counts one nanosecond (R55). -/
theorem test_tick : (after (step live)).now = 1000001#64 := by decide +kernel

/-- A command at the front of the queue runs, and the one behind it waits. -/
theorem test_queue : let t := after (step { live with pending := [.store fw0 0#64, .idleEntry] })
    t.pending = [.idleEntry] ∧ t.now = 1000000#64 := by decide +kernel

/-- PAD_RELEASE of bit 0 leaves the other pads held (R433). -/
theorem test_pad_release : (after (exec (.padRelease fw0 1#64) (put live [(okey 0x7801 1, 2), (kPower 6, 7)]))).objN (kPower 6) = 6 := by decide +kernel

/-! ### States and operands that meet the hypotheses of the statements

Each theorem `meets_X` shows, for the statement X, concrete states and operands that meet the hypotheses of its clauses. -/

/-- Whether a computation gives a value. -/
def isOk {ε α : Type} (x : Except ε α) : Bool :=
  match x with
  | .ok _ => true
  | .error _ => false

/-- Whether an answer is a next state. -/
def goes (r : Result) : Bool :=
  match r with
  | .next _ => true
  | _ => false

/-- Secure firmware, the manager and a vehicle controller's session 1, as requesters. -/
def sf : Requester := ⟨.secureFw, true, .secureFw⟩
def mgr : Requester := ⟨.manager, false, .manager⟩
def veh : Requester := ⟨.vehicle, false, .session 1⟩

/-- A host core in the normal world, in HS-mode. -/
def host0 : Src := .host 0 .hs 0

/-- The device with every firmware processor running. -/
def fwUp : State := put live ((List.range 7).map fun f => (okey (0x7800 + f) 1, 2))

/-- A proved session of a vehicle controller. -/
def sess1 : Session := ⟨1, false, false, 7, [], [], [], 0, [], true, 5, 0, 0#32, .eth 0, 0#64, 0#64, none, CtxSt.empty⟩

/-- The device with one proved session. -/
def linked : State := { put fwUp [(kNet 0 1, 1), (kNet 0 2, 1)] with sessions := [sess1] }

theorem meets_StepKeepsCanonicalForm : live.canonical = true ∧ goes (step live) = true ∧ goes (step { live with pending := [.idleEntry] }) = true := by decide +kernel

theorem meets_StepRunsFrontCommand : ({ live with pending := [Instr.idleEntry, .wake .pin] } : State).pending = .idleEntry :: [.wake .pin] ∧ live.pending = [] := by decide +kernel

theorem meets_TickCounts : live.pending = [] ∧ live.power.phase = .steady ∧ live.power.next = none ∧ { live with power := { live.power with phase := .entering 3 } }.power.phase = .entering 3 := by decide +kernel

theorem meets_RefusedCommandHasNoEffect : commandTarget (.store (.cxop 5) 1#64) = some (.cxop 5, 0x1010, 1, 1#64) ∧ live.requester (.cxop 5) = none
    ∧ commandTarget (.domainSwitch host0 1#64) = some (host0, 0x2000, 2, 1#64) ∧ live.requester host0 = some mgr ∧ live.access mgr 0x2000 2 true = 0x0003
    ∧ commandTarget (.acctReset fw0 15 1#64) = some (fw0, 0x4bc3, 0xa, 1#64) ∧ State.reset.requester fw0 = some sf ∧ State.reset.access sf 0x4bc3 0xa true = 0x000B
    ∧ commandTarget (.store fw0 0#64) = some (fw0, 0x1010, 1, 0#64) ∧ live.access sf 0x1010 1 true = 0 ∧ live.writeCheck 0x1010 1 0#64 = 0x0007
    ∧ linked.requester (.cxop 1) = some veh ∧ linked.access veh 0x1010 1 true = 0 ∧ linked.writeCheck 0x1010 1 0#64 = 0x0007 := by and_intros <;> decide +kernel

theorem meets_ChecksComeInOrder : mgr.secure = false ∧ live.secureIndex 0x7400 = true ∧ live.secureIndex 0x77ff = true ∧ live.secureIndex 0x73ff = false ∧ live.secureIndex 0x7800 = false
    ∧ maxSub 0x1006 = 0 ∧ maxSub 0x1010 = 2 ∧ live.rights .manager 0x2000 2 = 1 ∧ live.rights (.inst 0) 0x1010 1 = 0
    ∧ (objRow? 0x1010 2).map (·.acc) = some .ro
    ∧ (objRow? 0x1020 1).map (fun r => (r.acc, r.ty, shownGuarantee 0x1020 1, (put live [(okey 0x1020 5, 1)]).locked r 0x1020 1, live.locked r 0x1020 1, r.encOk 0x10000#64)) = some (.rwl, .u16, false, true, false, false)
    ∧ (objRow? 0x5000 1).map (fun r => (r.acc, r.ty, shownGuarantee 0x5000 1, live.locked r 0x5000 1, r.encOk 3#64, r.valueOk 0x5000 1 3#64)) = some (.rwl, .u8, false, false, true, false) := by and_intros <;> decide +kernel

theorem meets_WindowWrites : live.accepts fw0 sf 0x1020 1 2047#64 ∧ (objRow? 0x1020 1).map (fun r => (r.acc, r.wk)) = some (.rwl, .plain) ∧ live.applyWrite fw0 sf 0x1020 1 2047#64 = (live.plainWrite 0x1020 1 2047#64, 0)
    ∧ live.accepts fw0 sf 0x1002 1 0x3e#64 ∧ (objRow? 0x1002 1).map (fun r => (r.acc, r.wk)) = some (.rw, .evt 0x3f) ∧ live.applyWrite fw0 sf 0x1002 1 0x3e#64 = (live.plainWrite 0x1002 1 0x3e#64, 0)
    ∧ live.accepts fw0 sf 0x6060 3 5000#64 ∧ (objRow? 0x6060 3).map (·.acc) = some .rwc ∧ live.worldField sf 0x6060 3 5000#64 = false ∧ (live.ctx .secureFw).staging = [] := by decide +kernel

/-- The device with one entry staged by secure firmware and an entry of secure firmware that waits for its time. -/
def staged : State := live.setCtx .secureFw { CtxSt.empty with staging := [⟨okey 0x6060 3, 5000#64, []⟩], timed := some ⟨1#64, [⟨okey 0x6060 3, 7000#64, []⟩], 0#32⟩ }

theorem meets_CommitsApplyWhole : let no := live.setCtx .secureFw { CtxSt.empty with staging := [⟨okey 0x6060 3, 5#64, []⟩], timed := some ⟨0#64, [⟨okey 0x6060 3, 5#64, []⟩], 0#32⟩ }
    let far := 0x7fffffffffffffff#64
    live.accepts fw0 sf 0x1018 1 far ∧ live.netTime < far.toNat ∧ (live.ctx .secureFw).timed = none ∧ staged.accepts fw0 sf 0x1018 1 far ∧ staged.netTime < far.toNat ∧ (staged.ctx .secureFw).timed.isSome = true
    ∧ staged.accepts fw0 sf 0x1018 1 0#64 ∧ isOk ((staged.setCtx .secureFw { staged.ctx .secureFw with staging := [] }).applySet sf (staged.ctx .secureFw).staging) = true
    ∧ no.accepts fw0 sf 0x1018 1 0#64 ∧ isOk ((no.setCtx .secureFw { no.ctx .secureFw with staging := [] }).applySet sf (no.ctx .secureFw).staging) = false := by decide +kernel

theorem meets_CommitsApplyWhole_timed : let later := { staged with now := 0x100000000#64 }
    let yes : State := { linked with now := 0x100000000#64, sessions := [{ sess1 with ctx := { CtxSt.empty with timed := some ⟨0#64, [⟨okey 0x6060 3, 7000#64, []⟩], 5#32⟩ } }] }
    ((later.ctx .secureFw).timed.map fun w => decide ((w.at_.toNat : Int) ≤ later.netTime) && isOk ((later.setCtx .secureFw { later.ctx .secureFw with timed := none }).applySet (later.ctxRequester .secureFw) w.set)) = some true
    ∧ ((yes.ctx (.session 1)).timed.map fun w => decide ((w.at_.toNat : Int) ≤ yes.netTime) && isOk ((yes.setCtx (.session 1) { yes.ctx (.session 1) with timed := none }).applySet (yes.ctxRequester (.session 1)) w.set)) = some true := by decide +kernel

/-- The value of a computation that gives one. -/
def got {ε α : Type} (d : α) (x : Except ε α) : α :=
  match x with
  | .ok a => a
  | .error _ => d

/-- A context of secure firmware for a transfer of an object's contents to or from a buffer. -/
def moving (idx sub : Nat) (buf : Nat) (x : Option Xfer) : State :=
  fwUp.setCtx .secureFw { CtxSt.empty with xferTarget := BitVec.ofNat 64 (idx * 2 ^ 16 + sub * 2 ^ 8), xferBuffer := BitVec.ofNat 64 buf, xfer := x }

theorem meets_TransfersMoveDomains : (moving 0x6000 0xa 0x4000000000 (some ⟨false, 0, 0, [], 0⟩)).accepts fw0 sf 0x1005 3 1#64 ∧ (moving 0x6000 0xa 0x4000000000 (some ⟨false, 0, 0, [], 0⟩)).accepts fw0 sf 0x1005 3 2#64
    ∧ (moving 0x6000 0xa 0x4000000000 none).accepts fw0 sf 0x1005 3 1#64 ∧ (moving 0x6000 0xa 0x4000000000 none).domReadCheck sf 0x6000 0xa = 0 ∧ isOk ((moving 0x6000 0xa 0x4000000000 none).domContents .secureFw 0x6000 0xa) = true
    ∧ (moving 0x6000 0xa 0x4000000000 none).accepts fw0 sf 0x1005 3 2#64 ∧ (moving 0x6000 0xa 0x4000000000 none).domWriteCheck sf 0x6000 0xa ((moving 0x6000 0xa 0x4000000000 none).rdN 0x4000000000 4) = 0
    ∧ ((moving 0x6000 0xa 0 (some ⟨false, 0, 0, [], 3⟩)).ctx .secureFw).xfer.map (·.err) = some 3
    ∧ ((moving 0x6000 0xa 0 (some ⟨false, okey 0x6000 0xa, 0x4000000000, [1#8], 0⟩)).ctx .secureFw).xfer = some ⟨false, okey 0x6000 0xa, 0x4000000000, [1#8], 0⟩
    ∧ ((moving 0x7430 1 0 (some ⟨true, okey 0x7430 1, 0x4000000000, [1#8], 0⟩)).ctx .secureFw).xfer = some ⟨true, okey 0x7430 1, 0x4000000000, [1#8], 0⟩ ∧ (objRow? 0x7430 1).map (fun r => (r.acc, r.ty)) = some (.rw, .domain) := by and_intros <;> decide +kernel

/-- A store write under way, with an image or without. -/
def storing (image : List Byte) : State := { fwUp with storeJob := some ⟨0, 1, image⟩ }

theorem meets_StoreWritesTheOtherCopy : (storing []).accepts fw0 sf 0x1010 1 0x65766173#64 ∧ fwUp.accepts fw0 sf 0x1010 1 0x65766173#64 ∧ fwUp.storeJob = none ∧ (storing []).fwRuns 0 = true ∧ (storing [1#8]).fwRuns 0 = true
    ∧ (storing [1#8]).storeJob = some ⟨0, 1, [1#8]⟩ := by decide +kernel

/-- A configuration image with one record, cycle_time 5000 of port 0, and zeros for its signature. -/
def image : List Byte :=
  let b := storeMagic ++ leBytes 4 1 ++ leBytes 4 48 ++ leBytes 4 1 ++ leBytes 16 0 ++ leBytes 2 0x6060 ++ [3#8, 4#8] ++ leBytes 4 4 ++ leBytes 8 5000
  b ++ leBytes 4 (crc32c b).toNat ++ leBytes 136 0

/-- A role key record of an integrator's configuration key, and one of a vehicle controller's with key_id 7. -/
def configKey : List Byte := leBytes 4 1 ++ [0x80#8] ++ leBytes 139 0
def vehicleKey : List Byte := leBytes 4 7 ++ leBytes 140 0

/-- The device with that key in its first role key object. -/
def keyed (k : List Byte) : State := linked.setDom (okey 0x7430 1) k

theorem meets_ConfigImageIsOneCommit : (keyed configKey).requester fw0 = some sf ∧ (keyed configKey).domWriteCheck sf 0x1012 1 image.length = 0 ∧ (keyed configKey).storeJob = none ∧ (keyed configKey).fwRuns 0 = true ∧ (keyed configKey).imageRecords [] = none := by
  decide +kernel

/-- What an image whose signature verifies meets. -/
theorem meets_ConfigImageIsOneCommit_verified (h : Config.ecdsaVerify (slice configKey 8 133) (slice image 0 52) (slice image 56 132) = true) :
    (keyed configKey).imageRecords image = some [⟨0x6060, 3, 4, leBytes 4 5000⟩] ∧ [Rec.mk 0x6060 3 4 (leBytes 4 5000)].all (keyed configKey).imageRecordOk = true ∧ (objRow? 0x6060 3).map (·.acc) = some .rwc
    ∧ isOk ((keyed configKey).applySet sf [⟨okey 0x6060 3, 5000#64, []⟩]) = true ∧ isOk (got live ((keyed configKey).applySet sf [⟨okey 0x6060 3, 5000#64, []⟩])).storeStart = true := by
  have k : (keyed configKey).keysOf 8 = [slice configKey 8 133] := by decide +kernel
  have v : sigAt [slice configKey 8 133] image 48 = true := by simpa only [sigAt, anyVerifies, List.any_cons, List.any_nil, Bool.or_false] using h
  refine ⟨?_, by decide +kernel, by decide +kernel, by decide +kernel, by decide +kernel⟩
  have l : leAt image 8 4 = 48 := by decide +kernel
  have a : ¬(slice image 0 4 ≠ storeMagic ∨ 48 < 32 ∨ 48 % 8 ≠ 0 ∨ maxImage < 48 ∨ image.length < 48 + 140) := by decide +kernel
  have p : parseRecords 48 (slice image 32 (48 - 32)) = some [⟨0x6060, 3, 4, leBytes 4 5000⟩] := by decide +kernel
  have c : (recsAscend [⟨0x6060, 3, 4, leBytes 4 5000⟩] && crcAt image 48) = true := by decide +kernel
  have f : [Rec.mk 0x6060 3 4 (leBytes 4 5000)].filter (fun r => r.idx != 0xffff) = [⟨0x6060, 3, 4, leBytes 4 5000⟩] := by decide +kernel
  simp only [State.imageRecords, l, if_neg a, p, k, v, c, Bool.and_true, f, if_true]

/-- A request of session 1 over Ethernet port 0. -/
def ask (kind : Nat) (payload : List Byte) : CxReq := ⟨.eth 0, 2, true, 1, kind, 0#16, 1, 6, payload.length, payload⟩

theorem meets_CxopRequestsAreAnsweredOnce : linked.cxArrives { ask 1 [] with version := 2 } = true ∧ linked.cxReliable { ask 1 [] with version := 2 } = false
    ∧ linked.cxArrives { ask 1 [] with seq := 5 } = true ∧ linked.cxReliable { ask 1 [] with seq := 5 } = true ∧ linked.session? 1 = some sess1
    ∧ parseRefs 64 [0#8, 0x10#8, 1#8, 32#8] = some [⟨0x1000, 1, 32⟩] ∧ linked.cxArrives (ask 5 (leBytes 8 0)) = true ∧ linked.cxReliable (ask 5 (leBytes 8 0)) = true ∧ sess1.highSeq < (ask 5 (leBytes 8 0)).seq
    ∧ (records 16 (leBytes 16 0x1002)).length = 1 ∧ leAt (leBytes 12 0x10000100000a6000) 8 4 = 0 ∧ leAt (leBytes 12 (0x400 * 2 ^ 64 + 0xa6000)) 8 4 = 1024 := by
  and_intros <;> decide +kernel

theorem meets_CxopRequestsAreAnsweredOnce_block : let u := linked.taken (ask 3 [])
    let rq := u.ctxRequester (.session 1)
    isOk (u.blockContents rq 0x6000 0xa 0) = true ∧ isOk (u.blockContents rq 0x7432 1 0) = false
    ∧ isOk ((u.setCtx (.session 1) { u.ctx (.session 1) with staging := [] }).applySet rq (u.ctx (.session 1)).staging) = true
    ∧ isOk ((u.setCtx (.session 1) { u.ctx (.session 1) with staging := [] }).applySet rq [⟨okey 0x6060 3, 5#64, []⟩]) = false := by decide +kernel

/-- An OPEN for a vehicle controller's key 7, and a device with room for one session or for none. -/
def openReq : CxReq := { ask 9 (leBytes 4 0 ++ leBytes 4 7 ++ leBytes 165 0) with session := 0 }
def crowd (k : Nat) : State := { linked with sessions := (List.range k).map fun i => { sess1 with sid := i + 1 } }

theorem meets_SessionsOpenAndClose : linked.cxArrives openReq = true ∧ linked.cxReliable openReq = true ∧ openReq.payload.length = 173 ∧ leAt openReq.payload 0 1 = 0 ∧ leAt openReq.payload 1 3 = 0 ∧ linked.objN (okey 0x7420 2) ≠ 2 ∧ linked.fwRuns 0 = true
    ∧ (crowd 8).sessions.length = 8 ∧ (crowd 7).sessions.length = 7
    ∧ linked.session? 1 = some sess1 ∧ linked.cxReliable (ask 11 []) = true
    ∧ linked.objN (okey 0x1020 4) * 10 ^ 6 < ({ linked with now := 0x7fffffffffffffff#64 }.now - sess1.lastUsed).toNat
    ∧ parseRefs 32 ((leBytes 4 63 ++ [0#8, 0x10#8, 1#8, 1#8]).drop 4) = some [⟨0x1000, 1, 1⟩] ∧ linked.cadAction 0 ≠ 6 ∧ (put linked [(kCad 0 0, 6 * 2 ^ 56)]).cadAction 0 = 6 := by
  and_intros <;> decide +kernel

/-- What a PROVE of an unproved session meets, whichever way the check of its signature comes out. -/
theorem meets_SessionsOpenAndClose_prove : let s := { keyed vehicleKey with sessions := [{ sess1 with proved := false, highSeq := 0 }] }
    let r := ask 10 (leBytes 132 0)
    s.cxArrives r = true ∧ s.cxReliable r = true ∧ (s.session? 1).map (fun x => (x.proved, x.highSeq)) = some (false, 0) ∧ r.payload.length = 132 ∧ s.fwRuns 0 = true ∧ ((s.taken r).keyById 0 7).isSome = true
    ∧ 10 ^ 9 ≤ ({ s with now := 1000000000#64 }.now - sess1.openedAt).toNat := by decide +kernel

/-- A tensor descriptor in a space: base, shape, element format, and the base of its scales. -/
def tens (space base : Nat) (shape : List Nat) (fmt : Nat) (scales : Nat := 0) : BitVec 512 :=
  let d (k : Nat) := shape.getD k 1
  let r := d 0 * elemBits fmt / 8
  BitVec.ofNat 512 (base + space * 2 ^ 48 + d 0 * 2 ^ 64 + d 1 * 2 ^ 96 + d 2 * 2 ^ 128 + d 3 * 2 ^ 160 + r * 2 ^ 192 + r * d 1 * 2 ^ 256 + r * d 1 * d 2 * 2 ^ 320 + fmt * 2 ^ 384 + scales * 2 ^ 448)

/-- Core 0 at work with tensor registers t1, t2, ... and scalar registers s1, s2, ... -/
def loaded (ts : List (BitVec 512)) (ss : List Nat) : State :=
  atWork.upCore 0 fun c => (ss.zipIdx).foldl (fun c x => c.setS (x.2 + 1) (BitVec.ofNat 64 x.1)) ((ts.zipIdx).foldl (fun c x => c.setT (x.2 + 1) x.1) c)

/-- Core 0 at work with counter 3 at a value. -/
def withCtr (v : Nat) : State := put atWork [(kCtr 0 3, v)]

/-- A header that waits on counter 3 and signals counter 4, and the one that signals counter 3. -/
def hdr : List (Nat × Nat) := [(108, 1), (103, 3), (114, 1), (109, 4)]
def sig3 : List (Nat × Nat) := [(114, 1), (109, 3)]

/-- Every op word with its header and body fields zero can go, and one with a wait whose counter is nonzero (R131). -/
theorem meets_ScalarOpsWriteTheirRegister : (withCtr 1).opReady 0 (mkOp 0x08 (body ([(91, 31), (0, 2 ^ 64 - 1)] ++ hdr))) [(95, 91), (63, 0)] ∧ (withCtr 1).waitOk 0 (mkOp 0x08 (body ([(91, 31)] ++ hdr))) ∧ (withCtr 1).signalFits 0 (mkOp 0x08 (body ([(91, 31)] ++ hdr)))
    ∧ atWork.opReady 0 (mkOp 0x09 (body [(91, 0), (77, 10), (76, 1), (0, 64)])) [(95, 91), (90, 86), (85, 81), (80, 77), (76, 76), (31, 0)] ∧ fld (mkOp 0x09 (body [(77, 10)])) 80 77 = 10
    ∧ atWork.opReady 0 (mkOp 0x0a (body [(93, 7), (80, 5)])) [(95, 93), (92, 88), (87, 83), (82, 80), (79, 79), (31, 0)] ∧ fld (mkOp 0x0a (body [(80, 5)])) 82 80 = 5
    ∧ atWork.opReady 0 (mkOp 0x0b (body [(93, 7), (0, 2 ^ 32 - 1)])) [(95, 93), (92, 88), (31, 0)] := by and_intros <;> decide +kernel

/-- An engine op of core 0 in a queue: started and done, or waiting for its wait. -/
def qop (op : OpWord) (seq : Nat) (granted done : Bool) : QOp := ⟨op, 0x1000#64, seq, [], [], Trf.none, 0, false, granted, done, done, 0⟩

theorem meets_ControlFlowAndWaits : atWork.opReady 0 (mkOp 0x00 0#120) [] ∧ atWork.waitOk 0 (mkOp 0x00 0#120) ∧ atWork.signalFits 0 (mkOp 0x00 0#120)
    ∧ atWork.opReady 0 (mkOp 0x02 (body [(64, 0xffffffff)])) [(95, 64)] ∧ atWork.opReady 0 (mkOp 0x03 (body [(93, 7), (61, 0xffffffff)])) [(95, 93), (92, 61)] ∧ atWork.opReady 0 (mkOp 0x10 (body [(91, 31)])) [(95, 91)]
    ∧ atWork.opReady 0 (mkOp 0x04 (body [(89, 127)])) [(95, 89)] ∧ (atWork.core 0).drained 127 (atWork.core 0).nextSeq = true
    ∧ ((atWork.upCore 0 fun c => { c with mica := [qop 0 0 true true], nextSeq := 1 }).core 0).drained 16 1 = false
    ∧ atWork.opReady 0 (mkOp 0x01 0#120) [] ∧ ((atWork.upCore 0 fun c => c.setSlot 0 { ASlot.closed with isOpen := true }).core 0).openSlots ≠ [] ∧ (atWork.core 0).openSlots = [] ∧ (atWork.core 0).allDone = true
    ∧ (atWork.core 0).seg = some ⟨0, 0x1000, 100, none⟩ ∧ (atWork.core 0).segs = [] ∧ atWork.inv? (atWork.holder 0) 0 = none
    ∧ ((atWork.upCore 0 fun c => { c with mica := [qop 0 0 true true] }).core 0).allDone = false := by and_intros <;> decide +kernel

theorem meets_ControlFlowAndWaits_wait : (withCtr 5).opReady 0 (mkOp 0x81 (body [(91, 3), (75, 5)])) [(95, 91), (90, 75)] ∧ 5 ≤ (withCtr 5).ctr 0 3 - headerTakes (mkOp 0x81 (body [(91, 3), (75, 5)])) 3
    ∧ (withCtr 5).ctr 0 3 - headerTakes (mkOp 0x81 (body [(91, 3), (75, 6)])) 3 < 6 ∧ (withCtr 5).opReady 0 (mkOp 0x81 (body [(91, 3)])) [(95, 91), (90, 75)]
    ∧ (((withCtr 5).upCore 0 fun c => { c with hold := .wait (mkOp 0x81 (body [(91, 3), (75, 5)])) 0x1000 }).core 0).hold = .wait (mkOp 0x81 (body [(91, 3), (75, 5)])) 0x1000
    ∧ ((withCtr 5).core 0).earlierWaits 3 0 = false
    ∧ (((withCtr 5).upCore 0 fun c => { c with mica := [qop (mkOp 0x42 (body hdr)) 0 true false] }).core 0).headOf .mica = some (qop (mkOp 0x42 (body hdr)) 0 true false)
    ∧ (((withCtr 5).upCore 0 fun c => { c with mica := [qop (mkOp 0x42 (body hdr)) 0 false false] }).core 0).headOf .mica = some (qop (mkOp 0x42 (body hdr)) 0 false false)
    ∧ 0 < (withCtr 5).ctr 0 (opWait (mkOp 0x42 (body hdr))) := by and_intros <;> decide +kernel

/-- The last word of the local store, and the first beyond it. -/
theorem meets_LocalStoreOps : (loaded [] [0x7ffff8]).opReady 0 (mkOp 0x0c (body [(91, 31), (86, 1)])) [(95, 91), (90, 86), (31, 0)] ∧ (((loaded [] [0x7ffff8]).core 0).s 1 + imm32 (mkOp 0x0c (body [(86, 1)]))).toNat + 8 = 0x800000
    ∧ (loaded [] [0x7ffff8]).poisonedAt (lstoreBase 0 + 0x7ffff8) 8 = none ∧ atWork.opReady 0 (mkOp 0x0d (body [(91, 31), (0, 8)])) [(95, 91), (90, 86), (31, 0)]
    ∧ atWork.opReady 0 (mkOp 0x0e (body [(92, 15), (0, 64)])) [(95, 92), (91, 87), (31, 0)] ∧ atWork.poisonedAt (lstoreBase 0 + 64) 64 = none ∧ atWork.opReady 0 (mkOp 0x0f (body [(92, 15), (0, 64)])) [(95, 92), (91, 87), (31, 0)] := by
  and_intros <;> decide +kernel

theorem meets_OpsSkipOrWait : opForm (.smovi 0 (body [(119, 1)])) = some (0, mkOp 0x08 (body [(119, 1)]), [(95, 91), (63, 0)]) ∧ opReservedOk (mkOp 0x08 (body [(119, 1)])) [(95, 91), (63, 0)] = true ∧ (atWork.core 0).p 0 = 0#32
    ∧ live.canDispatch 0 = false ∧ atWork.opReady 0 (mkOp 0x08 (body [(108, 1)])) [(95, 91), (63, 0)] ∧ useOf (mkOp 0x08 (body [(108, 1)])) = none ∧ opWe (mkOp 0x08 (body [(108, 1)])) = true ∧ atWork.ctr 0 0 = 0
    ∧ (useOf (mkOp 0x20 0#120)).map (·.queue) = some .slab ∧ Queue.depth .slab = 4 ∧ ((atWork.upCore 0 fun c => { c with slab := List.replicate 4 (qop 0 0 false false) }).core 0).level .slab = 4
    ∧ (atWork.upCore 0 fun c => { c with slab := List.replicate 4 (qop 0 0 false false) }).opReady 0 (mkOp 0x20 0#120) [(95, 48)] := by and_intros <;> decide +kernel

theorem meets_BadOpWordsAreIllegal : atWork.canDispatch 0 = true ∧ atWork.inStream 0 = true ∧ opReservedOk (mkOp 0x08 (body [(64, 1)])) [(95, 91), (63, 0)] = false
    ∧ (put atWork [(kPc 0, 0x1640)]).canDispatch 0 = true ∧ (put atWork [(kPc 0, 0x1640)]).inStream 0 = false ∧ (put atWork [(kPc 0, 0x1630)]).inStream 0 = true ∧ (Instr.reservedOpcode 0 (mkOp 0x05 0#120)).wf = true := by
  and_intros <;> decide +kernel

/-- A SIGNAL to counter 3 of core 0 with or without a drain scope, and one to core 1. -/
def sigOp (target value scope : Nat) : BitVec 120 := body [(91, 3), (87, target), (70, value), (64, scope)]

/-- Core 0 at work with a drain signal that waits, behind an op of the Slab queue or not. -/
def pendSig (tg : Nat) (busy : Bool) (v : Nat) : State :=
  (withCtr v).upCore 0 fun c => { c with pend := [⟨mkOp 0x80 (sigOp tg 1 32), 0x1000, 1⟩], nextSeq := 2, slab := if busy then [qop 0 0 true true] else [] }

theorem meets_SignalsReachTheirCounter : atWork.opReady 0 (mkOp 0x80 (sigOp 0 1 0)) [(95, 91), (90, 87), (86, 86), (85, 70), (69, 63)] ∧ fld (mkOp 0x80 (sigOp 0 1 0)) 69 64 = 0 ∧ atWork.holder 0 = atWork.holder 0
    ∧ (withCtr (2 ^ 32 - 2)).ctr 0 3 + 1 < 2 ^ 32 ∧ fld (mkOp 0x80 (sigOp 0 1 32)) 69 64 = 32 ∧ (atWork.core 0).pend.length < 8
    ∧ ((atWork.upCore 0 fun c => { c with pend := List.replicate 8 ⟨mkOp 0x80 (sigOp 0 1 32), 0, 0⟩ }).core 0).pend.length = 8
    ∧ ((pendSig 0 true 0).core 0).pend[0]? = some ⟨mkOp 0x80 (sigOp 0 1 32), 0x1000, 1⟩ ∧ ((pendSig 0 true 0).core 0).drained (2 * 32) 1 = false ∧ ((pendSig 0 false 0).core 0).drained (2 * 32) 1 = true
    ∧ ((pendSig 0 false 0).core 0).hold = .none := by and_intros <;> decide +kernel

theorem meets_SignalFaults : (withCtr (2 ^ 32 - 1)).opReady 0 (mkOp 0x80 (sigOp 0 1 0)) [(95, 91), (90, 87), (86, 86), (85, 70), (69, 63)] ∧ 2 ^ 32 ≤ ((withCtr (2 ^ 32 - 1)).entered 0 (mkOp 0x80 (sigOp 0 1 0))).ctr 0 3 + 1
    ∧ (put atWork [(kCore 1 0 2, 5)]).opReady 0 (mkOp 0x80 (sigOp 1 1 0)) [(95, 91), (90, 87), (86, 86), (85, 70), (69, 63)] ∧ (put atWork [(kCore 1 0 2, 5)]).holder 1 ≠ (put atWork [(kCore 1 0 2, 5)]).holder 0
    ∧ ((pendSig 0 false (2 ^ 32 - 1)).core 0).drained (2 * 32) 1 = true ∧ 2 ^ 32 ≤ (pendSig 0 false (2 ^ 32 - 1)).ctr 0 3 + 1
    ∧ (withCtr (2 ^ 32 - 1)).opReady 0 (mkOp 0x00 (body sig3)) [] ∧ opSe (mkOp 0x00 (body sig3)) = true ∧ 2 ^ 32 ≤ ((withCtr (2 ^ 32 - 1)).entered 0 (mkOp 0x00 (body sig3))).ctr 0 (opSig (mkOp 0x00 (body sig3))) + 1 := by
  and_intros <;> decide +kernel

theorem meets_EngineOpsEnterAndStart : opForm (.vop 0 0#120) = some (0, mkOp 0x42 0#120, [(95, 39)]) ∧ (useOf (mkOp 0x42 0#120)).map (·.queue) = some .mica ∧ atWork.opReady 0 (mkOp 0x42 0#120) [(95, 39)] ∧ (atWork.core 0).level .mica < Queue.depth .mica
    ∧ (useOf (mkOp 0x91 0#120)).map (fun u => ((atWork.setN (kPc 0) (atWork.pc 0 + 16)).upCore 0 fun c => { c with stepping := false }).dispatchFault 0 (mkOp 0x91 0#120) u 0) = some (some ⟨0x06, 0x03, 0⟩)
    ∧ (useOf (mkOp 0x42 0#120)).map (fun u => ((atWork.setN (kPc 0) (atWork.pc 0 + 16)).upCore 0 fun c => { c with stepping := false }).dispatchFault 0 (mkOp 0x42 0#120) u 0) = some none
    ∧ (atWork.core 0).headOf .mica = none ∧ ((atWork.upCore 0 fun c => { c with mica := [qop (mkOp 0x42 0#120) 0 true false] }).core 0).headOf .mica = some (qop (mkOp 0x42 0#120) 0 true false)
    ∧ ((atWork.upCore 0 fun c => { c with mica := [qop (mkOp 0x42 0#120) 0 true false] }).core 0).clear .mica (qop (mkOp 0x42 0#120) 0 true false) = true
    ∧ ((atWork.upCore 0 fun c => { c with mica := [qop (mkOp 0x42 0#120) 0 true false], slab := [qop (mkOp 0x71 0#120) 0 true true] }).core 0).clear .mica (qop (mkOp 0x42 0#120) 1 true false) = false := by
  and_intros <;> decide +kernel

theorem meets_OpsCompleteAndSignal : (((atWork.upCore 0 fun c => { c with mica := [qop (mkOp 0x42 0#120) 0 true true] }).core 0).q .mica)[0]? = some (qop (mkOp 0x42 0#120) 0 true true)
    ∧ ((atWork.upCore 0 fun c => { c with mica := [qop (mkOp 0x42 0#120) 0 true true] }).core 0).hold = .none ∧ atWork.inv? (atWork.holder 0) 0 = none ∧ opSe (mkOp 0x42 0#120) = false
    ∧ (qop (mkOp 0x42 0#120) 0 true false).ran = false := by and_intros <;> decide +kernel

/-- A watchdog limit of 1,000 us after an op last retired at 0: due at 1,000,000 ns, and not 1 ns before. -/
theorem meets_WatchdogAndDebug : let due (s : State) := decide (s.objN (kCore 0 4 6) * 1000 ≤ (s.core 0).elapsed + (s.nowN - (s.core 0).lastRetire.toNat))
    due atWork = true ∧ due { atWork with now := 999999#64 } = false ∧ atWork.coreState 0 = 1 ∧ (atWork.core 0).hold ≠ .stopped ∧ (atWork.core 0).preempt = false ∧ (atWork.core 0).seg.isSome = true ∧ (atWork.core 0).openSlots = []
    ∧ (put atWork [(kCore 0 0 1, 4)]).coreState 0 = 4 := by decide +kernel

/-- Whether an engine op starts as it is dispatched. -/
def goesB (s : State) (n : Nat) (op : OpWord) (fields : List (Nat × Nat)) (q : Queue) : Bool :=
  decide (s.opReady n op fields) && decide (s.waitOk n op)
    && decide ((useOf op).map (fun u => decide (u.queue = q) && ((s.passed n).dispatchFault n op u (s.opRecord n op).tag).isNone) = some true)
    && ((s.core n).q q).isEmpty && (s.core n).clear q (s.opRecord n op)

theorem opGoes_of_goesB (s : State) (n : Nat) (op : OpWord) (fields : List (Nat × Nat)) (q : Queue) (h : goesB s n op fields q = true) : s.OpGoes n op fields q := by
  simp only [goesB, Bool.and_eq_true, decide_eq_true_eq, List.isEmpty_iff, Option.map_eq_some_iff, Option.isNone_iff_eq_none] at h
  obtain ⟨⟨⟨⟨h1, h2⟩, ⟨u, hu, hq, hd⟩⟩, h4⟩, h5⟩ := h
  exact ⟨h1, h2, ⟨u, hu, hq, hd⟩, h4, h5⟩

/-- Bytes in the local store of core 0. -/
def local0 (s : State) (off : Nat) (bs : List Byte) : State := s.wr (lstoreBase 0 + off) bs

/-- A batch of one lane with one export at 0x1000, and at 0x8000 a program of one VOP. -/
def batch : State := local0 (local0 (put (loaded [] [0x1000, 0x8000]) [(kPart 0 3, 1)]) 0x1000 [1#8, 1#8, 1#8, 0#8, 1#8, 0#8, 0#8, 0#8, 1#8]) 0x8000 (leBytes 16 (mkOp 0x42 (body [(88, 0x14)])).toNat)

/-- The lowest and the highest register and lane format, a conversion, a batch and an open slot. -/
theorem meets_VectorOps : goesB atWork 0 (mkOp 0x40 (body [(88, 255)])) [(95, 43)] .mica = true ∧ atWork.poisonedAt (lstoreBase 0) 1024 = none ∧ goesB (loaded [] [0x7ffc00]) 0 (mkOp 0x41 (body [(75, 1)])) [(95, 43)] .mica = true
    ∧ goesB atWork 0 (mkOp 0x42 (body [(53, 5)])) [(95, 39)] .mica = true ∧ fld (mkOp 0x42 (body [(53, 5)])) 55 53 = 5 ∧ micaKnown (isInt (laneFmt 5).1) 0 = true ∧ goesB atWork 0 (mkOp 0x42 (body [(88, 0x22)])) [(95, 39)] .mica = true
    ∧ goesB atWork 0 (mkOp 0x42 (body [(88, 0x18), (44, 0x0b)])) [(95, 39)] .mica = true ∧ micaKnown (isInt (laneFmt 0).1) 0x18 = true ∧ fmtKnown 0x0b = true ∧ isRaw 0x0b = false
    ∧ goesB batch 0 (mkOp 0x4f (body [(91, 2), (86, 1)])) [(95, 86)] .mica = true ∧ batch.gfxPart = some 0 ∧ batch.partOf (batch.holder 0) = 0 ∧ (batch.core 0).openSlots = []
    ∧ leAt (batch.rd (lstoreBase 0 + 0x1000) 64) 0 1 = 1 ∧ leAt (batch.rd (lstoreBase 0 + 0x1000) 64) 8 2 = 1 ∧ leAt (batch.rd (lstoreBase 0 + 0x1000) 64) 4 2 = 1 ∧ leAt (batch.rd (lstoreBase 0 + 0x1000) 64) 0x14 44 = 0
    ∧ BitVec.ofNat 128 (batch.rdN (lstoreBase 0 + 0x8000) 16) = mkOp 0x42 (body [(88, 0x14)]) ∧ leAt (atWork.rd (lstoreBase 0) 64) 0 1 = 0 ∧ goesB (put (loaded [] [0, 0]) [(kPart 0 3, 1)]) 0 (mkOp 0x4f (body [(91, 2), (86, 1)])) [(95, 86)] .mica = true
    ∧ goesB ((loaded [tens 0 0x1000 [2, 2] codeFP32] []).upCore 0 fun c => c.setSlot 3 { ASlot.closed with isOpen := true }) 0 (mkOp 0x91 (body [(94, 3), (90, 1)])) [(95, 90)] .mica = true
    ∧ atWork.tfDesc 0 (descOf (tens 0 0x1000 [2, 2] codeFP32)) false = none := by and_intros <;> decide +kernel

/-- Descriptors of 2 x 2 FP32 and of its reductions, of indices, and of a window of one tap over 2 channels of 3 x 3. -/
def d22 (k : Nat) : BitVec 512 := tens 0 (0x1000 * k) [2, 2] codeFP32
def d12 (k : Nat) : BitVec 512 := tens 0 (0x1000 * k) [1, 2] codeFP32
def tensors : State := local0 (loaded [d22 1, d22 2, d12 3, d12 4, tens 0 0x5000 [1, 1] codeINT32, tens 0 0x6000 [2, 3, 3] codeFP32, tens 0 0x7000 [2, 2, 2] codeFP32, d22 8, d22 9] [0x40, 0]) 0x40
  ([1#8, 1#8, 0#8, 0#8, 1#8, 0#8, 1#8, 0#8, 1#8, 0#8, 1#8, 0#8] ++ List.replicate 16 0#8 ++ [2#8, 2#8])

/-- A tensor form: td, ta, tb, tc, function, axis, and the register of its scalar. -/
def tf (td ta tb tc func axis sa : Nat) : BitVec 120 := body [(92, td), (88, ta), (84, tb), (80, tc), (72, func), (70, axis), (65, sa)]

theorem meets_TensorOps : let f : List (Nat × Nat) := [(95, 64)]
    goesB tensors 0 (mkOp 0x43 (tf 1 2 3 4 0x03 0 0)) f .mica = true ∧ goesB tensors 0 (mkOp 0x44 (tf 3 1 0 0 2 0 0)) f .mica = true
    ∧ goesB tensors 0 (mkOp 0x45 (tf 3 1 0 0 0 0 0)) f .mica = true ∧ goesB tensors 0 (mkOp 0x45 (tf 1 2 3 4 1 0 2)) f .mica = true ∧ goesB tensors 0 (mkOp 0x45 (tf 1 2 0 4 2 0 2)) f .mica = true
    ∧ goesB tensors 0 (mkOp 0x46 (tf 1 2 8 9 1 0 2)) f .mica = true ∧ goesB tensors 0 (mkOp 0x47 (tf 1 2 5 0 0 1 0)) f .mica = true ∧ goesB tensors 0 (mkOp 0x48 (tf 1 2 5 0 0 1 0)) f .mica = true ∧ goesB tensors 0 (mkOp 0x49 (tf 7 6 0 0 1 0 1)) f .mica = true := by
  and_intros <;> decide +kernel

theorem meets_TensorOps_shapes : ([d22 1, d22 2, d12 3, d12 4, tens 0 0x6000 [2, 3, 3] codeFP32, tens 0 0x7000 [2, 2, 2] codeFP32].all fun d => (tensors.tfDesc 0 (descOf d) false).isNone && (tensors.tfDesc 0 (descOf d) true).isNone) = true
    ∧ tensors.tfDesc 0 (descOf (tens 0 0x5000 [1, 1] codeINT32)) false = none ∧ micaArity 0x03 = 3 ∧ micaKnown false 0x03 = true ∧ bcastOk (descOf (d12 3)) (descOf (d22 1)) = true ∧ sameBut (descOf (d12 3)) (descOf (d22 1)) 0 = true ∧ sameBut (descOf (d22 2)) (descOf (d22 1)) 4 = true
    ∧ bcastOk (descOf (tens 0 0x5000 [1, 1] codeINT32)) (descOf (d22 1)) = true ∧ ((descOf (d22 1)).coords.all fun x => tensors.intElem 0 (descOf (tens 0 0x5000 [1, 1] codeINT32)) (bcast (descOf (tens 0 0x5000 [1, 1] codeINT32)) x) == 0) = true
    ∧ (got (windowOf []) (tensors.window 0 0x40#64)).th = 2 ∧ isOk (tensors.window 0 0x40#64) = true ∧ (got (windowOf []) (tensors.window 0 0x40#64)).extentFault 3 3 false = none := by and_intros <;> decide +kernel

/-- INT8 operands of a 2 x 2 tile of depth 8, an image of 2 channels of 3 x 3 with its window of one tap and 2 x 2 pixels, and its weights, in the local store and in cluster memory. -/
def mats : State := local0 (loaded [tens 0 0x1000 [8, 2] codeINT8, tens 0 0x2000 [2, 8] codeINT8, tens 0 0x3000 [2, 3, 3] codeINT8, tens 0 0x4000 [2, 2] codeINT8, tens 0 0x5000 [2, 2] codeINT32, tens 0 0x6000 [2, 2] codeFP32, tens 0 0x7000 [2, 2] codeINT8, tens 1 0x3000 [2, 3, 3] codeINT8, tens 1 0x4000 [2, 2] codeINT8] [0x40]) 0x40
  ([1#8, 1#8, 0#8, 0#8, 1#8, 0#8, 1#8, 0#8, 1#8, 0#8, 1#8, 0#8] ++ List.replicate 16 0#8 ++ [2#8, 2#8])
def desc (i : Nat) : Desc := descOf ((mats.core 0).t i)

/-- An op of the Slab or Pebble over descriptors a and b, with the window that s1 names. -/
def mac (opcode a b : Nat) (rest : List (Nat × Nat)) : OpWord := mkOp opcode (body ([(92, a), (88, b)] ++ rest))

theorem meets_MatrixOps : goesB mats 0 (mac 0x20 1 2 [(85, 1)]) [(95, 48)] .slab = true ∧ pairOf codeINT8 codeINT8 = some ⟨0, 256, 256⟩ ∧ (desc 1).form [0] = none ∧ mats.reachFault 0 (desc 1) false = none ∧ (desc 2).form [0] = none ∧ mats.reachFault 0 (desc 2) false = none
    ∧ isOk (declaredKt ((mats.opRecord 0 (mac 0x20 1 2 [(85, 1)])).s 0) 8) = true ∧ isOk (opEacc (mac 0x20 1 2 [(85, 1)]) 0 codeINT8 codeINT8 8 []) = true ∧ bit (mac 0x20 1 2 [(85, 1)]) 85 = true ∧ (TMap.get (fun _ => BankInfo.empty) (mats.core 0).banks 0).cls = none
    ∧ goesB mats 0 (mac 0x21 3 4 [(56, 1)]) [(95, 48)] .slab = true ∧ mats.reachFault 0 (desc 3) false = none ∧ mats.reachFault 0 (desc 4) false = none ∧ isOk (mats.window 0 0x40#64) = true
    ∧ (got (windowOf []) (mats.window 0 0x40#64)).kh = 1 ∧ (got (windowOf []) (mats.window 0 0x40#64)).extentFault 3 3 true = none
    ∧ goesB mats 0 (mac 0x22 5 0 []) [(95, 48)] .slab = true ∧ (desc 5).form [0] = none ∧ mats.reachFault 0 (desc 5) false = none
    ∧ goesB mats 0 (mkOp 0x23 (body [(74, 6), (78, 1)])) [(95, 32)] .readout = true ∧ (desc 6).form [0] = none ∧ mats.reachFault 0 (desc 6) true = none
    ∧ isOk (mats.readoutTile 0 (mats.opRecord 0 (mkOp 0x23 (body [(74, 6), (78, 1)]))) (desc 6) true ((desc 6).coords.map fun y => mats.accVal 0 0 y.2.1 y.1) (List.replicate (desc 6).count .rne)) = true := by and_intros <;> decide +kernel

/-- The cluster's Pebble after a PCONV or a PREAD has joined its queue, with the instance and world of the op before. -/
def atPebble (op : OpWord) : State :=
  let t := mats.upCore 0 fun c => { c with pebble := [{ mats.opRecord 0 op with started := true }], nextSeq := 1 }
  t.setPebble 0 ⟨[⟨0, 0⟩], some 0, false, [], none⟩

theorem meets_PebbleOps : (mats.pebble 0).queue = [] ∧ goesB mats 0 (mac 0x28 8 9 [(85, 1), (56, 1)]) [(95, 48)] .pebble = true ∧ goesB mats 0 (mkOp 0x29 (body [(74, 7), (78, 1)])) [(95, 32)] .pebble = true
    ∧ ((atPebble (mac 0x28 8 9 [(85, 1), (56, 1)])).pebble 0).queue = [⟨0, 0⟩] ∧ ((atPebble (mac 0x28 8 9 [(85, 1), (56, 1)])).core 0).pebble.find? (fun o : QOp => o.seq = 0) = some { mats.opRecord 0 (mac 0x28 8 9 [(85, 1), (56, 1)]) with started := true }
    ∧ ((atPebble (mac 0x28 8 9 [])).pebble 0).lastInst = some ((atPebble (mac 0x28 8 9 [])).holder 0) ∧ ((atPebble (mac 0x28 8 9 [])).pebble 0).lastSecure = decide ((atPebble (mac 0x28 8 9 [])).objN (kCore 0 0 3) = 1)
    ∧ ({ mats with peb := (atPebble (mac 0x28 8 9 [])).peb }.core 0).pebble.find? (fun o : QOp => o.seq = 0) = none
    ∧ (desc 8).form [1, 2] = none ∧ (desc 9).form [1] = none ∧ mats.reachFault 0 (desc 8) false = none ∧ mats.reachFault 0 (desc 9) false = none
    ∧ (desc 7).form [0, 1] = none ∧ mats.reachFault 0 (desc 7) true = none
    ∧ isOk ((atPebble (mkOp 0x29 (body [(74, 7), (78, 1)]))).readoutTile 0 (mats.opRecord 0 (mkOp 0x29 (body [(74, 7), (78, 1)]))) (desc 7) false ((desc 7).coords.map fun _ => FVal.ofRat false 0) (List.replicate (desc 7).count .rne)) = true := by
  and_intros <;> decide +kernel

/-- Core 0 with tensors to move, a collective group of cores 0 and 1 at 0x10000, and a KV cache at 0x20000 of one head of 64 BF16 values with one valid page. -/
def movers : State :=
  let s := put (loaded [tens 0 0x1000 [2, 2] codeFP32, tens 0 0x2000 [2, 2] codeFP32, tens 0 0x3000 [64, 1] codeBF16, tens 0 0x4000 [64, 1] codeBF16, tens 0 0x5000 [64, 1] codeFP32, tens 0 0x6000 [64, 2, 1] 0x14 0x7000] [0x3f800000])
    [(kKv 0 1, 0x20000), (kKv 0 6, 0x30000), (kKv 0 8, 0x10000)]
  ((s.wr 0x10000 [2#8]).wr 0x10041 [1#8]).wr 0x20000 ([1#8, 0#8, 0x0b#8, 0#8, 64#8, 0#8, 1#8, 0#8, 0#8, 0#8, 1#8] ++ List.replicate 5 0#8 ++ [32#8, 0#8, 0#8, 0#8, 2#8]) |>.wr 0x30005 [0x10#8, 0#8, 0x80#8, 1#8]

/-- Core 1's share of the collective of group 0. -/
def share1 : CollPart := ⟨0, 0, 0, 1, 0, 2, 0, codeFP32, 4, [0, 0, 0, 0]⟩

theorem meets_TransferOps : let d (i : Nat) : Desc := descOf ((movers.core 0).t i)
    (d 1).dmaForm = none ∧ movers.reachFault 0 (d 1) true = none ∧ movers.reachFault 0 (d 1) false = none ∧ goesB movers 0 (mac 0x60 1 2 []) [(95, 69)] .dma = true ∧ goesB movers 0 (mac 0x60 1 2 [(86, 1)]) [(95, 69)] .dma = true ∧ (d 6).dmaForm = none ∧ movers.reachFault 0 (d 6) true = none
    ∧ goesB movers 0 (mac 0x60 6 6 []) [(95, 69)] .dma = true ∧ goesB movers 0 (mac 0x61 1 0 []) [(95, 69)] .dma = true := by decide +kernel

theorem meets_TransferOps_coll : goesB movers 0 (mac 0x64 1 2 [(71, 2)]) [(95, 69)] .dma = true ∧ movers.collMembers 0 0 = some [(0, 0), (0, 1)] ∧ movers.objN (okey 0x1000 4) = 0
    ∧ movers.collFault 0 (mac 0x64 1 2 [(71, 2)]) (descOf ((movers.core 0).t 1)) (descOf ((movers.core 0).t 2)) 2 = none ∧ movers.coll = [] ∧ goesB { movers with coll := [share1] } 0 (mac 0x64 1 2 [(71, 2)]) [(95, 69)] .dma = true
    ∧ fld (mac 0x64 1 2 [(71, 2)]) 72 71 = share1.kind ∧ (movers.flatCodes 0 (descOf ((movers.core 0).t 2))).length = 4 := by and_intros <;> decide +kernel

theorem meets_TransferOps_kv : let d (i : Nat) : Desc := descOf ((movers.core 0).t i)
    let c := movers.cache 0 0
    movers.cacheFault 0 0 = none ∧ (d 3).dmaForm = none ∧ movers.reachFault 0 (d 3) false = none ∧ (d 3).shape = [c.d, c.headCount, 1, 1] ∧ (d 3).fmt = c.fmt ∧ c.ring = false ∧ c.maxTokens = 32 ∧ c.P = 16
    ∧ goesB movers 0 (mkOp 0x70 (body [(84, 3), (80, 4)])) [(95, 48)] .dma = true ∧ (movers.scatterPages 0 c (d 3) (d 4) 0 1 movers [(0, 0)]).2 = none
    ∧ goesB movers 0 (mkOp 0x72 (body [(84, 3)])) [(95, 48)] .dma = true ∧ c.headLo = 0 ∧ isOk (movers.pagesOf 0 c 0 0 0) = true ∧ movers.rowsFault c (got [] (movers.pagesOf 0 c 0 0 0)) false 0 0 = none := by and_intros <;> decide +kernel

theorem meets_TransferOps_attn : let d (i : Nat) : Desc := descOf ((movers.core 0).t i)
    let c := movers.cache 0 0
    let p : AttnPar := ⟨2, autoEacc (d 3).fmt c.fmt c.d [([127], [127])], autoEacc codeBF16 c.fmt 128 [([127], [127])], codeBF16, 128, 0x3f800000#32, fun _ _ => false⟩
    goesB movers 0 (mkOp 0x71 (body [(84, 3), (80, 5), (56, 1), (49, 1)])) [(95, 48)] .slab = true ∧ (d 3).form [0] = none ∧ (d 5).form [0, 1, 2] = none ∧ c.t8 = false ∧ (d 5).shape = (d 3).shape ∧ f32lt 0#32 0x3f800000#32 = true ∧ attnPair c.fmt (d 3).fmt = some (2, codeBF16, 128)
    ∧ movers.reachFault 0 (d 5) true = none ∧ isOk (attnHeads (fun _ => movers.attnHead 0 c 0 0 0 (p) [(List.range c.d).map fun x => movers.elem 0 (d 3) x 0 0 0]) [0]) = true := by decide +kernel

/-- The ledger with an entry of instance 0, group 7, at index 0. -/
def held (x : LedgerEntry) : State := { put atWork [(kAssay 0 1, 4)] with flintOpen := true, ledger := [(0, { x with inst := 0, group := 7#32 })] }

/-- Core 0 with group 7 in s1 and a slot g0. -/
def slotted (s : State) (x : ASlot) : State := s.upCore 0 fun c => (c.setS 1 7#64).setSlot 0 x

/-- An AOPEN of slot g0 for the group in s1, as run B or not. -/
def aopen (runB : Nat) (rest : List (Nat × Nat)) : OpWord := mkOp 0x90 (body ([(93, runB), (88, 1)] ++ rest))
def aclosed : ASlot := ASlot.closed

theorem meets_AopenOpensItsGroup : let f : List (Nat × Nat) := [(95, 94), (93, 93), (92, 88), (87, 85), (84, 77), (76, 69)]
    let s := slotted (held { LedgerEntry.free with state := 2, coreA := 1 }) aclosed
    let e := slotted { put atWork [(kAssay 0 1, 4)] with flintOpen := true } aclosed
    s.opReady 0 (aopen 0 []) f ∧ s.opReady 0 (aopen 1 []) f ∧ (s.core 0).openSlots = [] ∧ ((slotted s { aclosed with isOpen := true }).core 0).openSlots ≠ [] ∧ ((slotted s { aclosed with isOpen := true }).core 0).slot 0 ≠ aclosed
    ∧ s.findEntry 0 7#32 = some 0 ∧ (s.entry 0).coreA ≠ 0 ∧ (s.entry 0).state ≠ 1 ∧ e.findEntry 0 7#32 = none ∧ e.flintOpen = true ∧ e.objN (kAssay 0 2) < e.objN (kAssay 0 1) ∧ (e.entry 4095).state = 0
    ∧ atWork.flintOpen = false := by decide +kernel

/-- Another run's open slot bars an AOPEN, a rotation of nothing is no transform, and run B's entry may be open or of the same core. -/
theorem meets_AopenOpensItsGroup_misuse : let s := slotted (held { LedgerEntry.free with state := 1, coreA := 1 }) aclosed
    (((s.upCore 0 fun c => c.setSlot 1 { aclosed with isOpen := true, runB := true }).core 0).openSlots.any fun x => x.runB != false || x.trf != ⟨false, false, false, 0, 0⟩) = true
    ∧ (Trf.t2 ⟨false, true, false, 0, 0⟩ && decide (Trf.rotK ⟨false, true, false, 0, 0⟩ = 0)) = true ∧ bit (aopen 0 [(86, 1)]) 86 = true ∧ fld (aopen 0 [(86, 1)]) 84 77 = 0 ∧ (s.entry 0).state = 1
    ∧ ((slotted (held { LedgerEntry.free with state := 2, coreA := 0 }) aclosed).entry 0).coreA = 0 := by decide +kernel

/-- A core whose slot g0 is open for group 7 as run A or run B, and the entry that belongs to it. -/
def closing (runB : Bool) (e : LedgerEntry) : State := slotted (held e) { aclosed with isOpen := true, runB := runB, group := 7#32 }

theorem meets_RunsCloseAndTimeOut : let op := mkOp 0x92 0#120
    let a := closing false { LedgerEntry.free with state := 1 }
    let b := closing true { LedgerEntry.free with state := 3, coreA := 1, sig := 0xffffffffffffffff#64, deadline := 1000 }
    a.opReady 0 op [(95, 94)] ∧ ((a.core 0).slot 0).isOpen = true ∧ ((atWork.core 0).slot 0).isOpen = false ∧ (a.core 0).allOps = [] ∧ ((a.upCore 0 fun c => { c with mica := [qop 0 0 true true] }).core 0).allOps ≠ [] ∧ a.findEntry 0 7#32 = some 0
    ∧ (a.core 0).hold = .none ∧ b.opReady 0 op [(95, 94)] ∧ (b.inst 0).stalls = [] ∧ (b.entry 0).sig = ((b.core 0).slot 0).sig ^^^ 0xffffffffffffffff#64 ∧ sdiff 20 (b.nowN / 1000) (b.entry 0).deadline = 0 ∧ (b.entry 0).inst = 0 := by decide +kernel

/-- One microsecond past its deadline an entry is late; a stall of 1 ms is a deadlock, and one of less is not. -/
theorem meets_RunsCloseAndTimeOut_late : let b := closing true { LedgerEntry.free with state := 2, deadline := 999 }
    let d := b.upInst 0 fun x => { x with stalls := [(0, 7#32, 0#64)] }
    0 < sdiff 20 (b.nowN / 1000) (b.entry 0).deadline ∧ (b.entry 0).state = 2 ∧ (b.inst 0).stalls = [] ∧ (d.inst 0).stalls = [(0, 7#32, 0#64)] ∧ max 0 (d.inst 0).lastGroup.toNat + 1000000 ≤ d.nowN ∧ ({ d with now := 999999#64 } : State).nowN < 1000000 := by decide +kernel

/-- Domain 0 in a state; selected, with the other domain locked. -/
def domIn (k : Nat) : State := put live [(kDomState 0, k), (kDomState 1, 2), (okey 0x2000 4, 1)]
/-- The same domain with a slew of 1,000 ns at 100 ppm, which ends at 10,000,000 ns. -/
def slewing : State := (domIn 2).setGd 0 ⟨some ⟨1000, 109951163, 0, 0#64⟩, 0#64, 0#64⟩

theorem meets_DomainsAndTimeline : (domIn 2).domState 0 = 2 ∧ (domIn 3).domState 0 = 3 ∧ live.domState 0 < 2 ∧ (domIn 2).domTime 0 (domIn 2).nowN = 1000000 ∧ (slewing.gd 0).slew = some ⟨1000, 109951163, 0, 0#64⟩ ∧ slewing.nowN < 0 + (1000 * 2 ^ 40 + 109951163 - 1) / 109951163
    ∧ 0 + (1000 * 2 ^ 40 + 109951163 - 1) / 109951163 ≤ ({ slewing with now := 11000000#64 } : State).nowN ∧ (domIn 2).selDom = 0 ∧ (domIn 2).oBit (okey 0x2000 4) 0 = true ∧ (domIn 2).domState (1 - 0) = 2
    ∧ ((domIn 3).gd 0).holdSince.toNat + (put (domIn 3) [(kDomHold 0, 0)]).objN (kDomHold 0) * 1000000 < (domIn 3).nowN
    ∧ live.accepts fw0 sf 0x2000 2 1#64 ∧ live.domTime 1 live.nowN - live.netTime = 0 ∧ (put live [(kDomOffset 1, 1001)]).domTime 1 live.nowN - live.netTime = 1001 ∧ live.slewRemaining live.nowN = 0
    ∧ ({ live with sel := some ⟨1000, 1000000#64⟩ } : State).slewRemaining 1000000 ≠ 0 ∧ live.everLocked = false := by and_intros <;> decide +kernel

/-- The bounds of a rate and of an error keep the domain's time in 64 bits. -/
theorem meets_DomainsAndTimeline_fits : let s := domIn 2
    let fits (r step : Int) : Prop := -2 ^ 63 ≤ s.domTime 0 s.nowN + step - (s.nowN : Int) * (2 ^ 40 + r) / 2 ^ 40 ∧ s.domTime 0 s.nowN + step - (s.nowN : Int) * (2 ^ 40 + r) / 2 ^ 40 < 2 ^ 63
    fits (2 ^ 29) 1001 ∧ fits (-2 ^ 29) 0 ∧ fits (2 ^ 29 + 109951163) 0 ∧ fits (-2 ^ 29 - 109951163) 0 := by decide +kernel

/-- Cadence entry 0 with an action and argument, enabled, its next grid point at 1,000,000. -/
def cadence (action arg : Nat) (period : Nat := 0) : State := put live [(kCad 0 0, 2 ^ 63 + action * 2 ^ 56), (kCad 0 2, period), (kCad 0 3, arg), (kCad 0 4, 1000000)]

theorem meets_CadenceFiresAndPulses : ((cadence 5 0).fire 0 5).isSome = true ∧ ((cadence 5 0).fire 0 4).isSome = false ∧ (cadence 5 0).cadDue = [] ∧ ({ cadence 5 0 with now := 999999#64 } : State).fire 0 5 = none ∧ ((cadence 0 0 1000).fire 0 0).isSome = true
    ∧ (cadence 0 0 1000).cadPeriod 0 ≠ 0 ∧ (cadence 5 0).pulse 0 = none ∧ ((cadence 5 0).setPulse 0 (some ⟨0#64, 2000000#64⟩)).pulse 0 = some ⟨0#64, 2000000#64⟩
    ∧ (((cadence 5 0).setPulse 0 (some ⟨0#64, 2000000#64⟩)).fire 0 5).map (·.2.due) = some 1000000 ∧ ((cadence 5 0).setPulse 0 (some ⟨0#64, 1000000#64⟩)).pulse 0 = some ⟨0#64, 1000000#64⟩ := by and_intros <;> decide +kernel

/-- A plan of job 3 under handle 2 of instance 0, and a start of it. -/
def plan : PlanSt := ⟨0, 0, false, false, some 3, 1, 0, [], [], [], [], ⟨[⟨0, 0x1000, 4⟩], [], 0, 0, 0, 0, 0, 0, [], []⟩, none⟩
def start : RunReq := ⟨2, 0, 2, false, [], [], 0, [], false⟩
/-- Instance 0 ready, with that plan, its entry due, and core 0 granted. -/
def jobs (st : Nat) (s : State) : State := (put s [(kInst 0 0 1, st), (kSched 1, 1), (kCore 0 0 1, 0), (kCore 0 0 2, 0)]).upInst 0 fun x => { x with plans := [(2, plan)] }

theorem meets_CadenceActions : ((jobs 1 (cadence 1 3)).fire 0 1).isSome = true ∧ (jobs 1 (cadence 1 3)).instState 0 = 1 ∧ (jobs 1 (cadence 1 3)).jobHandle 0 3 = some 2 ∧ (jobs 1 (cadence 1 4)).jobHandle 0 4 = none ∧ (jobs 1 (cadence 1 3)).schedUp = true
    ∧ (jobs 1 (cadence 1 3)).slotMember 0 = false ∧ (jobs 3 (cadence 1 3)).instState 0 = 3 ∧ TMap.find ((jobs 3 (cadence 1 3)).inst 0).held 2 = none ∧ (jobs 4 (cadence 1 4)).instState 0 = 4
    ∧ ((cadence 2 0).fire 0 2).isSome = true ∧ live.oBit (kCap 0 1) 63 = false ∧ (put live [(kCap 0 1, 2 ^ 63)]).oBit (kCap 0 1) 63 = true ∧ live.capHeld 0 0 = false ∧ (live.setCap 0 { CapRun.init with holds := [(0, 1)] }).capHeld 0 0 = true
    ∧ ((cadence 3 0).fire 0 3).isSome = true ∧ live.queueOf 0 0 = [] ∧ (put live [(kNet 0 4, 2)]).queueMode 0 0 = 2 ∧ ((cadence 6 0).fire 0 6).isSome = true ∧ ((cadence 7 1000000).fire 0 7).isSome = true ∧ live.selfReq = none
    ∧ live.chunkFits ⟨6, 0, 1000, true⟩ 0 0 = false ∧ (put fwUp [(kSched 1, 1), (kCore 0 0 1, 0)]).chunkFits ⟨6, 0, 1000, true⟩ 0 1000000000 = true ∧ ((cadence 4 0).fire 0 4).isSome = true ∧ lcEnable (live.lodeCfg 0) = false := by
  and_intros <;> decide +kernel

/-- An evaluation of slot 0 sampled at 0, with a valid input that is used, and a result. -/
def ev (ok : Bool) : LodeEval := ⟨0#64, 0#64, [⟨0#32, ok⟩], [true], false, 2 ^ 63, List.replicate 6 0#32, 0, [], [], 1000⟩

theorem meets_LodestoneEvaluates : live.accepts fw0 sf 0x2400 0xc 1#64 ∧ (put (cadence 4 0) [(kLode 0 1, 2 ^ 63)]).fire 0 4 ≠ none ∧ lcEnable ((put (cadence 4 0) [(kLode 0 1, 2 ^ 63)]).lodeCfg 0) = true ∧ lcOuter (put (cadence 4 0) [(kLode 0 1, 2 ^ 63)] |>.lodeCfg 0) = false
    ∧ (put (cadence 4 0) [(kLode 0 1, 2 ^ 63)]).lodeHasOuter 0 = false ∧ (live.lo 0).eval = none ∧ ((live.setLo 0 { LodeSt.init with eval := some (ev true) }).lo 0).eval = some (ev true) ∧ (ev true).sample.toNat + 384 ≤ live.nowN ∧ ({ live with now := 383#64 } : State).nowN < (ev true).sample.toNat + 384
    ∧ lcOuter (ev true).cfg = false ∧ f32eq ((ev true).params.getD 0 0#32) 0#32 = true ∧ ((ev false).ins.zip (ev false).used).any (fun z => z.2 && !z.1.ok) = true ∧ ((ev true).ins.zip (ev true).used).any (fun z => z.2 && !z.1.ok) = false
    ∧ ((live.setLo 0 { LodeSt.init with out := some ⟨0#64, 0#32, true, 0#64, 0#64⟩ }).lo 0).out = some ⟨0#64, 0#32, true, 0#64, 0#64⟩ ∧ lcKind 0#64 = 0 ∧ lcKind (BitVec.ofNat 64 (2 ^ 39)) ≠ 0 := by
  and_intros <;> decide +kernel

/-- Instance 0 with a message of a kind in its area, and the body bytes. -/
def mail (kind : Nat) (st : Nat) (bd : List Byte := []) : State := (((jobs st live).wr (mboxTo 0) (leBytes 8 1 ++ leBytes 2 kind ++ leBytes 2 bd.length ++ leBytes 4 9)).wr (mboxTo 0 + 16) bd)

/-- A message toward the host that waits behind a full area. -/
def behind (n : Nat) : State := ((jobs 1 live).wr (mboxFrom 0) (leBytes 8 1)).upInst 0 fun x => { x with outq := List.replicate n ⟨0x84, 9, [1#8]⟩ }

theorem meets_MessagesPassBothWays : (mail 6 1).mboxReady 0 6 = true ∧ (mail 6 1).mboxReady 0 7 = false ∧ (mail 7 1).mboxReady 0 7 = true ∧ (mail 7 5).mboxReady 0 7 = true ∧ (mail 7 5).instState 0 = 5 ∧ (mail 6 5).mboxReady 0 6 = true ∧ (mail 6 1).instState 0 ≠ 5
    ∧ ((jobs 1 live).inst 0).outq = [] ∧ (jobs 1 live).rdN (mboxFrom 0) 8 ≠ 1 ∧ (behind 47).rdN (mboxFrom 0) 8 = 1 ∧ ((behind 47).inst 0).outq.length = 47 ∧ (behind 1).instState 0 ≠ 5 := by and_intros <;> decide +kernel

/-- LOAD and UNLOAD messages for a handle, a loaded plan that is in use, and one that is being unloaded. -/
def inUse : State := (mail 2 2 [2#8]).upInst 0 fun x => { x with invs := [⟨1, start, 0#32, 0, 0#64, false, [], [], [], [], [], false⟩] }

theorem meets_PlansLoadAndMove : (mail 1 1 (leBytes 16 0 ++ [16#8])).mboxReady 0 1 = true ∧ (mail 1 1 (leBytes 16 0 ++ [16#8])).rdN (mboxTo 0 + 32) 1 = 16 ∧ (((mail 1 1 (leBytes 16 0 ++ [2#8])).consumed 0).inst 0).plans.any (fun p => p.1 = 2) = true
    ∧ ((mail 1 1 (leBytes 16 0 ++ [15#8])).inst 0).plans.any (fun p => p.1 = 15) = false ∧ (mail 2 1 [3#8]).mboxReady 0 2 = true ∧ TMap.find ((mail 2 1 [3#8]).inst 0).plans 3 = none
    ∧ (TMap.find (((mail 2 1 [2#8]).upInst 0 fun x => { x with plans := [(2, { plan with unload := some 1 })] }).inst 0).plans 2).map (·.unload) = some (some 1)
    ∧ (TMap.find (inUse.inst 0).plans 2).map (·.unload) = some none ∧ (inUse.inst 0).runq = [] ∧ ((inUse.inst 0).invs.any fun v => decide (v.req.kind ≠ 1) && decide (v.req.handle = 2)) = true ∧ inUse.mboxReady 0 2 = true
    ∧ (jobs 1 live).accepts fw0 sf 0x4200 0xa 4#64 ∧ bit (4#64) 2 = true ∧ ((jobs 1 live).upInst 0 fun x => { x with plans := [(2, { plan with pinned := true })] }).accepts fw0 sf 0x4200 0xa 4#64 := by and_intros <;> decide +kernel

/-- A re-placement that is due, onto cores of the partition or not, and a removal whose grace runs out at 1,000,000 ns. -/
def moved : State := (put (jobs 1 live) [(kPart 0 1, 1), (kInst 0 1 4, 0x10000000)]).upInst 0 fun x => { x with replaceq := [(2, 4)], shrink := [(1, 1000000#64)] }

theorem meets_PlansLoadAndMove_job : (moved.inst 0).replaceq = [(2, 4)] ∧ moved.schedUp = true ∧ TMap.find (moved.inst 0).plans 2 = some plan ∧ plan.pinned = false ∧ live.schedUp = false
    ∧ ((((moved.upInst 0 fun x => { x with replaceq := [] }).count (kPlacer 0 7) 32).setN (kPlacer 0 9) 4).placeOk 0 2 1 false 0 { plan.place with lodeAddr := 0xc000000 }) = true
    ∧ ((((moved.upInst 0 fun x => { x with replaceq := [] }).count (kPlacer 0 7) 32).setN (kPlacer 0 9) 4).placeOk 0 2 1 false 0 place0) = false
    ∧ (moved.inst 0).shrink.find? (fun w => w.1 = 1) = some (1, 1000000#64) ∧ (moved.inst 0).shrink.find? (fun w => w.1 = 2) = none ∧ (put moved [(kPlacer 0 5, 1)]).objN (kPlacer 0 5) = 1 ∧ (1000000#64).toNat ≤ moved.nowN
    ∧ ({ moved with now := 999999#64 } : State).nowN < 1000000 := by and_intros <;> decide +kernel

/-- A RUN of handle 2 and of handle 3, a DIRECT, and a CANCEL of cookie 9 with and without such a request in the queue. -/
theorem meets_RequestsQueueAndCancel : (mail 3 1 [2#8]).mboxReady 0 3 = true ∧ (((mail 3 1 [2#8]).consumed 0).runReq 0 9).handle = 2 ∧ TMap.find ((mail 3 1 [3#8]).inst 0).plans 3 = none ∧ (TMap.find ((mail 3 1 [2#8]).inst 0).plans 2).map (·.unload) = some none
    ∧ ((((mail 3 1 [2#8]).consumed 0).runReq 0 9).binds.map (·.1)) = [] ∧ plan.binds = [] ∧ (put (mail 3 1 [2#8]) [(kPlacer 0 4, 4)]).oBit (kPlacer 0 4) 2 = true ∧ (mail 3 1 [2#8]).oBit (kPlacer 0 4) 2 = false ∧ (((mail 3 1 [2#8]).consumed 0).runReq 0 9).view = false
    ∧ (mail 3 1 [2#8]).partMode ((mail 3 1 [2#8]).objN (kInst 0 1 1)) ≠ 2 ∧ (mail 4 1 (leBytes 8 0)).mboxReady 0 4 = true ∧ (mail 4 1).oBit (kInst 0 1 9) 0 = false ∧ (put (mail 4 1) [(kInst 0 1 9, 1)]).oBit (kInst 0 1 9) 0 = true
    ∧ (mail 4 1).slotMember 0 = false ∧ (mail 4 1).mayStart 0 = true ∧ ((mail 4 1).inst 0).runq = [] ∧ (mail 4 1).directOk 0 0 = false ∧ (mail 4 3).mayStart 0 = false := by and_intros <;> decide +kernel

/-- A RUN request of cookie 9 for handle 2, queued behind a CANCEL of its cookie. -/
def runReq : RunReq := ⟨0, 9, 2, false, [], [], 0, [], false⟩
def queued (s : State) : State := s.upInst 0 fun x => { x with runq := [runReq] }
def running (s : State) (outs : List OutSt) : State := s.upInst 0 fun x => { x with invs := [⟨1, runReq, 0#32, 1, 0#64, false, [0], [], [], outs, [], false⟩] }

theorem meets_RequestsQueueAndCancel_cancel : (queued (mail 5 1 (leBytes 4 9))).mboxReady 0 5 = true ∧ ((queued (mail 5 1 (leBytes 4 9))).consumed 0).rdN (mboxTo 0 + 16) 4 = 9 ∧ ((queued (mail 5 1 (leBytes 4 9))).inst 0).runq.find? (fun r => decide (r.cookie = 9) && decide (r.kind < 2)) = some runReq
    ∧ ((running (mail 5 2 (leBytes 4 9)) []).inst 0).runq = [] ∧ ((running (mail 5 2 (leBytes 4 9)) []).inst 0).invs.any (fun v => decide (v.req.cookie = 9) && decide (v.req.kind < 2)) = true := by and_intros <;> decide +kernel

/-- A staged output of binding 0 with 64 bytes, under tag 1, whose group has compared equal. -/
def staged0 (written : Bool) : OutSt := ⟨⟨0, 0x10000, 64, 1, 0, 0x1000⟩, 0x20000, written, false, false⟩

theorem meets_InvocationsStartAndRelease : (jobs 1 live).mayStart 0 = true ∧ (jobs 3 live).mayStart 0 = false ∧ ((jobs 1 live).inst 0).runq.find? ((jobs 1 live).eligible 0) = none ∧ ((queued (jobs 1 live)).inst 0).runq.find? ((queued (jobs 1 live)).eligible 0) = some runReq
    ∧ TMap.find ((queued (jobs 1 live)).inst 0).plans 2 = some plan ∧ (jobs 1 live).oBit (kPlacer 0 4) 2 = false ∧ (jobs 1 live).kvSettled 0 plan = true ∧ (jobs 1 live).capturing 0 plan runReq = false
    ∧ ((jobs 1 live).upInst 0 fun x => { x with kv := [(0, ⟨[(1, 1)], 0⟩)] }).kvSettled 0 { plan with views := [0] } = false
    ∧ live.inv? 0 1 = none ∧ ((running (jobs 2 live) [staged0 true]).inv? 0 1).map (fun v => v.outs.find? fun o => decide (o.place.binding = 0) && !o.released) = some (some (staged0 true))
    ∧ ((running (jobs 2 live) [staged0 true]).inv? 0 1).map (fun v => v.settled 1) = some true ∧ ((running (jobs 2 live) [staged0 true]).inv? 0 1).map (fun v => v.settled 2) = some false
    ∧ (put (running (jobs 2 live) [staged0 true]) [(kInst 0 1 4, 0x10000000)]).engineMay 0 0xc000000 64 true = true ∧ (running (jobs 2 live) [staged0 true]).engineMay 0 0x20000 64 true = false
    ∧ (running (jobs 2 live) []).hasSegs 0 1 = false ∧ ((running (jobs 2 live) []).upCore 0 fun c => { c with seg := some ⟨1, 0x1000, 4, none⟩ }).hasSegs 0 1 = true ∧ (running (jobs 2 live) []).goldenOf 0 2 = [] := by and_intros <;> decide +kernel

/-- A cache record at 0x20000 that is not live: 64 values of BF16, linear, 32 tokens of one head. -/
def kvRec (state : Nat) (mode : Nat := 0) : List Byte := leBytes 1 state ++ [0#8, 0x0b#8] ++ leBytes 1 mode ++ [64#8, 0#8, 1#8, 0#8, 0#8, 0#8, 1#8] ++ List.replicate 5 0#8 ++ [32#8]
def kvState (r : List Byte) (l : List (Nat × Nat)) : State := (put live ([(kKv 0 1, 0x20000), (kKv 0 6, 0x30000)] ++ l)).wr 0x20000 r
def kvWord (cmd : Nat) : Word64 := BitVec.ofNat 64 (cmd * 2 ^ 56)

theorem meets_CacheCommands : (kvState (kvRec 0) []).accepts fw0 sf 0x4830 2 (kvWord 1) ∧ ((kvState (kvRec 0) []).cache 0 0).ok = true ∧ ((kvState (kvRec 0) []).cache 0 0).state = 0 ∧ ((kvState (kvRec 1) []).cache 0 0).state = 1 ∧ ((kvState [] []).cache 0 0).ok = false
    ∧ 2 ^ 20 < (kvState (kvRec 0) [(kKv 0 7, 2 ^ 20 - 1)]).objN (kKv 0 7) + 1 * ((kvState (kvRec 0) []).cache 0 0).newPages ∧ (kvState (kvRec 0) [(kKv 0 7, 2 ^ 20 - 2)]).objN (kKv 0 7) + 1 * ((kvState (kvRec 0) []).cache 0 0).newPages = 2 ^ 20
    ∧ nextFree [] (2 ^ 20) 2 1 258 0 = some 0 ∧ (kvState (kvRec 1) []).accepts fw0 sf 0x4830 2 (kvWord 2) ∧ (kvState (kvRec 1) []).accepts fw0 sf 0x4830 2 (kvWord 3) ∧ (kvState (kvRec 1) []).accepts fw0 sf 0x4830 2 (kvWord 4)
    ∧ ((kvState (kvRec 1) [(kCore 0 0 1, 1), (kCore 0 0 2, 0)]).coresOf 0).any (fun n => (kvState (kvRec 1) [(kCore 0 0 1, 1), (kCore 0 0 2, 0)]).coreState n = 1) = true ∧ ((kvState (kvRec 1) []).coresOf 0).any (fun n => (kvState (kvRec 1) []).coreState n = 1) = false
    ∧ ((kvState (kvRec 1) []).cache 0 0).ring = false ∧ ((kvState (kvRec 1 1) []).cache 0 0).ring = true := by and_intros <;> decide +kernel

/-- Partition 0, sliced, with core 0 and the members 0 and 1, held by member 0, its slice begun at 0; member 1 has work. -/
def sliced : State := { (put (jobs 2 live) [(kPart 0 1, 1), (kPart 0 2, 2), (kPart 0 4, 0), (kPart 0 5, 3), (kInst 1 0 1, 1), (kInst 1 1 1, 0)]).upInst 0 (fun x => { x with plans := [] }) with
  insts := [(1, { InstSt.init with runq := [runReq] })], parts := [(0, { PartSt.init with since := some 0#64, lastHolder := 0 })] }

theorem meets_CoresChangeHands : sliced.schedUp = true ∧ sliced.holder 0 = 0 ∧ (sliced.core 0).hold = .none ∧ sliced.instState 0 ≠ 4 ∧ sliced.coreState 0 = 0 ∧ (sliced.core 0).preempt = false ∧ ((sliced.partCores 0).filter fun n => (sliced.core n).preempt) = []
    ∧ (sliced.part 0).saving = false ∧ (sliced.part 0).waitSlots = [] ∧ sliced.slotMember 1 = false ∧ sliced.partHolder 0 = 0 ∧ sliced.sliceLeft 0 = 0 ∧ sliced.nextMember 0 = some 1 ∧ (sliced.part 0).slot = none
    ∧ (sliced.part 0).since.isSome = true ∧ ({ sliced with insts := [] } : State).nextMember 0 = none ∧ ({ sliced with parts := [(0, { PartSt.init with saving := true, next := some 1 })] }.part 0).next = some 1 := by and_intros <;> decide +kernel

/-- The same partition with a slot member whose entry fires at 1,000,000, and with the graphics instance and its pass. -/
def slotted1 (next : Nat) (holder : Nat) : State := { put sliced [(kCad 0 0, 2 ^ 63 + 2 ^ 56), (kCad 0 3, 3 + 2 ^ 32), (kCad 0 4, next), (kPart 0 4, holder)] with insts := [(1, { InstSt.init with plans := [(2, plan)] })] }

theorem meets_CoresChangeHands_slot : fld ((slotted1 1000000 0).cadArg 0) 35 32 = 1 ∧ (slotted1 1000000 0).slotMember 1 = true ∧ (slotted1 1000000 0).objN (kInst 1 1 1) = 0 ∧ ((slotted1 1000000 0).jobHandle 1 3).isSome = true ∧ (slotted1 1000000 0).cadAction 0 = 1
    ∧ (slotted1 1000000 0).predictDue 0 = some 1000000 ∧ 1000000 ≤ (slotted1 1000000 0).nowN + (slotted1 1000000 0).leadNs 0 ∧ (slotted1 1000000 0).partHolder 0 ≠ 0xff ∧ (slotted1 1000000 0xff).partHolder 0 = 0xff ∧ ((slotted1 1000000000000 0).predictDue 0).map (fun d => decide ((slotted1 1000000000000 0).nowN + (slotted1 1000000000000 0).leadNs 0 < d)) = some true := by and_intros <;> decide +kernel

/-- The graphics partition, with a pass of instance 1 at ring_head that is to be presented at pipe 0 and estimates 1,000 ns, and the pipe's last latch. -/
def graphics (latch : Nat) : State :=
  (put sliced [(kPart 0 3, 1), (kGarnet 2, 1), (kGarnet 3, 0x100000), (kGarnet 4, 4), (kGarnet 6, 1), (kPipe 0 0x1a, latch)]).wr 0x10000a ([8#8] ++ List.replicate 73 0#8 ++ leBytes 4 1000)

theorem meets_CoresChangeHands_display : (graphics 1).gfxPartition = some 0 ∧ (graphics 1).gfxInst = 1 ∧ (graphics 1).partHolder 0 ≠ (graphics 1).gfxInst ∧ (graphics 1).slotMember 0 = false ∧ (graphics 1).partMembers 0 = [0, 1] ∧ sliced.passDeadline 0 = none
    ∧ ((graphics 1000000000000).passDeadline ((graphics 1).saveBound 0 1)).map (fun d => decide ((graphics 1000000000000).nowN + 1000 + (graphics 1).saveBound 0 1 < d)) = some true ∧ pdEstimate (graphics 1).passDesc = 1000
    ∧ ((graphics 1).passDeadline ((graphics 1).saveBound 0 1)).map (fun d => decide (d ≤ 1000000000000)) = some true := by
  and_intros <;> decide +kernel

theorem meets_ExceptionFaultsItsInstance : (atWork.coresOf 0).find? (fun n => decide ((atWork.core n).hold = .stopped)) = none ∧ ((atWork.upCore 0 fun c => { c with hold := .stopped }).coresOf 0).find? (fun n => decide (((atWork.upCore 0 fun c => { c with hold := .stopped }).core n).hold = .stopped)) = some 0 := by decide +kernel

/-- Instance 0 free with a sliced partition, a quota of 256 MiB, and a carve that fits it; and in a state. -/
def unborn : State := put live [(kPart 0 2, 2), (kInst 0 1 4, 0x10000000)]
def carve : Carve := ⟨0x100000000, 0x100000000, 0x10d000000, 0x10b000000, 0x10c000000⟩
def born (st : Nat) : State := put live [(kInst 0 0 1, st)]
def cmdWord (cmd : Nat) : Word64 := BitVec.ofNat 64 (cmd * 2 ^ 56)

theorem meets_InstanceCommands : unborn.accepts fw0 sf 0x4800 2 (cmdWord 1) ∧ unborn.createError 0 carve = 0 ∧ (born 1).createError 0 carve = 0x000B
    ∧ (born 1).accepts fw0 sf 0x4800 2 (cmdWord 2) ∧ ((born 1).inst 0).zeroing = false ∧ (born 0).instState 0 = 0 ∧ (born 1).accepts fw0 sf 0x4800 2 (cmdWord 3) ∧ (born 3).accepts fw0 sf 0x4800 2 (cmdWord 4) ∧ (born 3).instState 0 = 3
    ∧ (born 4).accepts fw0 sf 0x4800 2 (cmdWord 7) ∧ (born 2).accepts fw0 sf 0x4800 2 (cmdWord 8) ∧ (put (born 1) [(kInst 0 0 6, 1)]).objN (kInst 0 0 6) = 1 ∧ ((born 1).inst 0).lastMsg.toNat + 1 * 1000000 ≤ (born 1).nowN
    ∧ ({ born 1 with now := 999999#64 } : State).nowN < 1000000 := by and_intros <;> decide +kernel

/-- Instance 0 frozen, with permission to migrate and a buffer of a size. -/
def frozen (perm size : Nat) : State := put (born 3) [(kInst 0 1 9, perm), (kInst 0 6 1, 0x100000000), (kInst 0 6 2, size)]

/-- A saved image without sections at 0x100000000, whose signature is all zeros. -/
def savedImage : List Byte :=
  let b := leBytes 4 0x47494d5a ++ leBytes 2 1 ++ leBytes 2 1 ++ leBytes 8 0x80 ++ leBytes 4 0xd060 ++ leBytes 2 0xa01 ++ leBytes 106 0
  b ++ leBytes 4 (crc32c b).toNat ++ leBytes 136 0
def restoring : State := (put unborn [(kInst 0 6 1, 0x200000000), (kInst 0 6 2, 0x10c)]).wr 0x200000000 savedImage

theorem meets_InstanceZeroingAndImages_restore : restoring.accepts fw0 sf 0x4800 2 (cmdWord 6) ∧ restoring.instState 0 = 0 ∧ restoring.readMig 0x200000000 0x10c = some [] ∧ restoring.rdN 0x200000010 4 = 0xd060 ∧ restoring.rdN 0x200000015 1 = restoring.objN (okey 0x1000 3) / 256
    ∧ restoring.createError 0 carve = 0 := by and_intros <;> decide +kernel

/-- No image fits a buffer of size 0. -/
theorem writeMig_small (s : State) (m : Nat) (h : s.objN (kInst m 6 2) = 0) : ∃ need, s.writeMig m = (none, need) := by
  refine ⟨(secOffsets (0x80 + 32 * (s.migSections m).length) (s.migSections m)).getLastD 0x80 + 140, ?_⟩
  simp only [State.writeMig, h]
  exact if_pos (Nat.succ_pos _)

theorem meets_InstanceZeroingAndImages_small : ∃ need, (frozen 4 0).writeMig 0 = (none, need) := writeMig_small (frozen 4 0) 0 (by decide +kernel)

theorem meets_InstanceZeroingAndImages : (put (born 4) [(kSched 1, 1)]).schedUp = true ∧ (((born 4).upInst 0 fun x => { x with zeroing := true }).inst 0).zeroing = true ∧ (born 1).accepts fw0 sf 0x4803 0xa 1#64 ∧ (frozen 4 0).accepts fw0 sf 0x4800 2 (cmdWord 5)
    ∧ (put (frozen 4 0) [(kInst 0 0 4, 1)]).objN (kInst 0 0 4) = 1 ∧ (frozen 4 0).objN (kInst 0 0 4) ≠ 1 ∧ (frozen 0 0).oBit (kInst 0 1 9) 2 = false ∧ (frozen 4 0).oBit (kInst 0 1 9) 2 = true
    ∧ (born 0).accepts fw0 sf 0x4800 2 (cmdWord 6) ∧ (born 0).readMig 0 0 = none := by and_intros <;> decide +kernel

/-- A request in a hole of the map, one to a stack's alias, and one served late; the stacks in self-refresh; a bucket and a pool of stack 0. -/
def refreshing : State := { live with power := { live.power with refresh := true } }
def tokens (b p : Rat) : State := { live with bucket := [(0, b)], pool := [(0, p)] }

theorem meets_StackRequests : unitOfRange 0x1800000000 32 ≠ some .stack ∧ (List.range 4).all (fun k => decide (unitOfRange 0x1800000000 32 ≠ some (.alias_ k))) = true ∧ unitOfRange 0 32 = some .stack ∧ unitOfRange 0x17ffffffe0 32 = some .stack ∧ unitOfRange 0x2800000000 32 = some (.alias_ 1)
    ∧ refreshing.power.refresh = true ∧ stackRead.late = false ∧ ({ stackRead with late := true } : StackReq).late = true ∧ live.power.refresh = false ∧ live.domOff 6 = false ∧ { live with domsOff := 0x40 }.domOff 6 = true
    ∧ (put live [(okey 0x7402 1, 1)]).stackRefuses stackRead = true ∧ live.stackRefuses { stackRead with secure := true } = false ∧ stackRead.write = false ∧ stackRead.err = .clean ∧ ({ stackRead with write := true, data := List.replicate 32 0#8 } : StackReq).write = true
    ∧ ((32 : Nat) : Rat) ≤ TMap.get (fun _ => 0) (tokens 32 0).bucket 0 ∧ TMap.get (fun _ => 0) (tokens 31 32).bucket 0 < ((32 : Nat) : Rat) ∧ ((32 : Nat) : Rat) ≤ TMap.get (fun _ => 0) (tokens 31 32).pool 0 ∧ TMap.get (fun _ => 0) (tokens 31 31).pool 0 < ((32 : Nat) : Rat) := by
  and_intros <;> decide +kernel

/-- Every master without a guarantee, but for master 20, of class 0. -/
def guaranteed (v : Nat) : State := put live ((kMaster 20 3, 0) :: (List.range 32).map fun i => (kMaster i 1, if i = 20 then v else 0))

theorem meets_RegulatorAndStacks : (guaranteed 5).accepts fw0 sf 0x5114 1 960000#64 ∧ (guaranteed 5).guarantee 20 = 5 ∧ ((guaranteed 5).setObj (kMaster 20 1) 2000000000#64).admits = false
    ∧ ((guaranteed 5).setObj (kMaster 20 1) 6#64).admits = true ∧ live.accepts fw0 sf 0x5000 4 1#64 ∧ ((guaranteed 2000000000).setObj (okey 0x5000 4) 1#64).safetyFits = false ∧ ((guaranteed 5).setObj (okey 0x5000 4) 1#64).safetyFits = true := by
  and_intros <;> decide +kernel

/-- A corrected unit 32 of stack 0, known or not, with a limit of 2 for its row; an uncorrectable one, known or not. -/
theorem meets_RegulatorAndStacks_scrub : let u := live.stackAddr 0 32
    { live with eccUnits := [(0, 32)] }.eccUnits.contains (0, 32) = true ∧ live.eccUnits.contains (0, 32) = false
    ∧ (((0, 32) :: live.eccUnits).filter fun u : Nat × Nat => decide (u.1 = 0) && decide (Config.stackRow 0 u.2 = Config.stackRow 0 32)).length ≤ 1 ∧ 1 < (put live [(kStack 0 0xb, 2)]).objN (kStack 0 0xb)
    ∧ { live with poison := [u] }.poison.contains u = true ∧ live.poison.contains u = false := by
  refine ⟨by decide +kernel, by decide +kernel, ?_, by decide +kernel, by decide +kernel, by decide +kernel⟩
  have h : live.eccUnits = [] := by decide +kernel
  rw [h]
  exact List.length_filter_le _ _

/-- 84, 86 and 106 °C; a stack in the first row. -/
theorem meets_RegulatorAndStacks_temp : (f32 0x42a80000#32).isFin = true ∧ (f32 0x42a80000#32).toRat = 84 ∧ (f32 0x42ac0000#32).toRat = 86 ∧ (f32 0x42d40000#32).toRat = 106 ∧ live.tempRow 0 = 0 ∧ (put live [(kStack 0 2, 900000)]).tempRow 0 = 1 := by and_intros <;> decide +kernel

/-- A stream_config word: RAW8 images on port 0, virtual channel 0, test lines of type 0x30, a ring of 2 buffers of instance 0; and a state whose stream 0 has it, with one line of 64 bytes to a frame. -/
def camWord (flags : Nat) : Word64 := BitVec.ofNat 64 (flags + 0x2a * 2 ^ 42 + 0x30 * 2 ^ 30 + 2 ^ 26)
def geometry : List (Nat × Nat) := [(kStream 0 2, 2 ^ 48 + 2 ^ 32), (kPort5 0 1, 1), (kInst 0 1 4, 0x10000000)]
def camera (flags : Nat) : State := put live ((kStream 0 1, (camWord (2 ^ 63 + flags)).toNat) :: (kStream 0 3, 0xc000000) :: (kStream 0 4, 4096) :: geometry)
def shot (lines : Nat) (bad : Bool) : FrameSt := ⟨1#32, some 0, 0#64, 0#64, 0#64, 0#16, lines, 0, false, false, false, bad, 0⟩
def shooting (flags : Nat) (cur verdict : Option FrameSt) : State := (camera flags).upStream 0 fun x => { x with cur := cur, verdict := verdict, ringDepth := 2 }
def packet (dt : Nat) : CsiPacket := ⟨0, dt, [1#8, 2#8], false, false, false⟩

theorem meets_CameraFrames_enable : live.accepts fw0 sf 0x5420 1 (camWord (2 ^ 63)) ∧ streamCfgOk (camWord 0 - BitVec.ofNat 64 (2 ^ 26)) = false ∧ live.accepts fw0 sf 0x5420 1 (camWord 0 - BitVec.ofNat 64 (2 ^ 26)) ∧ streamCfgOk (camWord (2 ^ 63)) = true
    ∧ live.secureIndex 0x5420 = decide (live.objN (kInst 0 0 4) = 1) ∧ ¬ ((put live [(kInst 0 0 4, 1)]).secureIndex 0x5420 = decide ((put live [(kInst 0 0 4, 1)]).objN (kInst 0 0 4) = 1))
    ∧ (camera 0).accepts fw0 sf 0x5420 1 (camWord 0) ∧ scEnable ((camera 0).streamCfg 0) = true ∧ setBit (camWord (2 ^ 48)) 63 false ≠ setBit ((camera 0).streamCfg 0) 63 false ∧ scEnable (camWord 0) = false ∧ setBit (camWord 0) 63 false = setBit ((camera 0).streamCfg 0) 63 false
    ∧ scEnable (live.streamCfg 0) = false ∧ (put live geometry).carves 0 0xc000000 (2 * (put live geometry).bufferSize 0) = true ∧ (put live geometry).carves 0 0xfffffff (2 * (put live geometry).bufferSize 0) = false ∧ scOwner (camWord 0) = 0
    ∧ (scPort ((camera 0).streamCfg 0), scVc ((camera 0).streamCfg 0), scType ((camera 0).streamCfg 0)) = (scPort (camWord 0), scVc (camWord 0), scType (camWord 0)) ∧ scEnable ((camera 0).streamCfg 1) = false ∧ (List.range 32).any (fun o => scEnable (live.streamCfg o)) = false := by and_intros <;> decide +kernel

theorem meets_CameraFrames_lines : live.portOn 0 = false ∧ (camera 0).portOn 0 = true ∧ live.streamOn 0 = false ∧ (camera 0).streamOn 0 = true ∧ ((camera 0).stream 0).cur = none ∧ scLinePackets ((camera 0).streamCfg 0) = false ∧ scLinePackets ((shooting (2 ^ 61) (some (shot 0 false)) none).streamCfg 0) = true
    ∧ ((shooting (2 ^ 61) (some (shot 0 false)) none).stream 0).cur.isSome = true ∧ (shooting (2 ^ 61) (some (shot 0 false)) none).streamOn 0 = true := by and_intros <;> decide +kernel

theorem meets_CameraFrames_packets : let s := shooting (2 ^ 59) (some (shot 0 false)) none
    ((List.range 32).filter fun st => let c := s.streamCfg st
      scEnable c && decide (scPort c = 0) && decide (scVc c = (packet 0x2a).vc) && (decide (scType c = (packet 0x2a).dt) || (decide (scEmbedded c ≠ 0) && decide (scEmbedded c = (packet 0x2a).dt)) || (scCameraTest c && decide (scTest c = (packet 0x2a).dt)))) = [0]
    ∧ ((List.range 32).filter fun st => let c := s.streamCfg st
      scEnable c && decide (scPort c = 0) && decide (scVc c = (packet 0x30).vc) && (decide (scType c = (packet 0x30).dt) || (decide (scEmbedded c ≠ 0) && decide (scEmbedded c = (packet 0x30).dt)) || (scCameraTest c && decide (scTest c = (packet 0x30).dt)))) = [0]
    ∧ scType (s.streamCfg 0) = (packet 0x2a).dt ∧ (s.stream 0).cur = some (shot 0 false) ∧ (shot 0 false).buf = some 0 ∧ (shot 0 false).pixelLines < s.streamHeight 0 ∧ s.streamHeight 0 ≤ (shot 1 false).pixelLines
    ∧ s.stackWithin (s.bufAddr 0 0 + 64 + (s.streamEmb 0 + 0) * s.streamStride 0) 2 (s.inst 0).stackBase (s.objN (kInst 0 1 4)) = true ∧ s.bufAddr 0 0 + 64 + (s.streamEmb 0 + 0) * s.streamStride 0 + 2 ≤ stackedSize
    ∧ scType (s.streamCfg 0) ≠ (packet 0x30).dt ∧ scCameraTest (s.streamCfg 0) = true ∧ scTest (s.streamCfg 0) = (packet 0x30).dt := by decide +kernel

theorem meets_CameraFrames_ends : (shooting 0 (some (shot 1 false)) none).streamOn 0 = true ∧ ((shooting 0 (some (shot 1 false)) none).stream 0).cur = some (shot 1 false) ∧ ((shooting 0 (some (shot 1 false)) none).stream 0).verdict = none ∧ scBlankTest ((shooting 0 none none).streamCfg 0) = false
    ∧ scBlankTest ((shooting (2 ^ 60) (some (shot 1 false)) none).streamCfg 0) = true ∧ (shooting 0 none none).caps = [] ∧ (shot 1 false).pathFault = false ∧ (shot 1 true).pathFault = true ∧ (shooting 0 none none).stackWithin ((shooting 0 none none).bufAddr 0 0) 64 ((shooting 0 none none).inst 0).stackBase ((shooting 0 none none).objN (kInst 0 1 4)) = true
    ∧ (shooting 0 none none).bufAddr 0 0 + 64 ≤ stackedSize ∧ ((shooting 0 none (some (shot 1 false))).stream 0).verdict = some (shot 1 false) := by and_intros <;> decide +kernel

/-- A pass of one draw in the local store of core 0, which runs a direct stream for the graphics instance 0: descriptor and draw record. -/
def passBytes (bin : Nat) : List Byte :=
  let l := lstoreBase 0
  leBytes 4 7 ++ leBytes 2 1 ++ leBytes 2 1 ++ [1#8, 1#8, 8#8, 0#8] ++ leBytes 4 64 ++ leBytes 8 (l + 0x1000) ++ leBytes 8 (l + 0x6000) ++ leBytes 8 0 ++ leBytes 8 (l + 0x2000) ++ leBytes 4 1 ++ leBytes 2 1 ++ leBytes 2 0
    ++ leBytes 8 (l + 0x3000) ++ leBytes 8 bin ++ leBytes 8 (l + 0x4000) ++ leBytes 4 1 ++ leBytes 4 1000 ++ leBytes 8 (l + 0x5000) ++ leBytes 32 0
def drawing (main tail : Nat) (started : Bool) : State :=
  let s := put atWork [(kPart 0 1, 1), (kPart 0 3, 1), (kGarnet 1, main), (kGarnet 2, 0), (kGarnet 3, lstoreBase 0), (kGarnet 4, 4), (kGarnet 5, 0), (kGarnet 6, tail)]
  let s := (s.upCore 0 fun c => { c with seg := some ⟨0, 0x1000, 100, some []⟩ })
  { (s.wr (lstoreBase 0) (passBytes 64)).wr (lstoreBase 0 + 0x2000) ([0#8, 0#8, 1#8, 0#8, 1#8] ++ List.replicate 52 0#8 ++ [1#8]) with garnet := ⟨started, [], 0#64⟩ }

theorem meets_PassesAndPipes_ring : (drawing 1 0 false).accepts fw0 sf 0x5800 6 1#64 ∧ (drawing 1 0 false).ringEntries = 4 ∧ (drawing 1 0 false).ringHead = 0 ∧ (drawing 1 0 false).ringTail = 0 ∧ (drawing 1 0 false).accepts fw0 sf 0x5800 6 4#64
    ∧ (drawing 1 0 true).garnet.started = true ∧ (drawing 1 0 false).garnet.started = false ∧ (drawing 0 0 false).oBit (kGarnet 1) 0 = false ∧ (drawing 1 0 false).oBit (kGarnet 1) 0 = true ∧ (drawing 1 0 false).domOff 8 = false ∧ (drawing 1 0 false).objN (okey 0x7c00 1) < 2
    ∧ (drawing 1 0 false).passFault = 0 ∧ (drawing 1 0 false).shadeCores.all (drawing 1 0 false).shadesOn = true ∧ (drawing 1 1 false).ringTail ≠ (drawing 1 1 false).ringHead ∧ ((drawing 1 1 false).wr (lstoreBase 0 + 4) [0#8]).passFault ≠ 0
    ∧ pdBinSize (drawing 1 1 true).passDesc = 64 ∧ nbit (pdFlags (drawing 1 1 true).passDesc) 3 = true := by and_intros <;> decide +kernel

/-- Pipe 0 with two lines, and its check of region 0, in a state of Table 12-14. -/
def showing (state : Nat) (x : PipeSt) : State := (put live [(kPipe 0 1, 1), (kPipe 0 3, 2 ^ 49), (kPipe 0 0x11, 1), (kRegion 0 0 0, 2 ^ 16), (kPipe 0 0x13, state), (kSafe 1, 0)]).setPipe 0 x

theorem meets_PassesAndPipes_pipe : live.pipeOn 0 = false ∧ (showing 2 PipeSt.init).pipeOn 0 = true ∧ (showing 2 PipeSt.init).pipeState 0 = 2 ∧ (showing 1 PipeSt.init).pipeState 0 = 1
    ∧ (((showing 2 { PipeSt.init with resume := true, matched := true }).frameVerdict 0).pipe 0).matched = true ∧ ((showing 2 { PipeSt.init with resume := true }).pipe 0).resume = true ∧ (showing 2 PipeSt.init).safe = false
    ∧ (((showing 2 PipeSt.init).frameVerdict 0).pipe 0).matched = false ∧ (showing 2 PipeSt.init).checksOn 0 = true ∧ ((showing 2 PipeSt.init).regions 0).contains 0 = true
    ∧ (crc32c []).toNat = fld ((showing 2 PipeSt.init).obj (kRegion 0 0 1)) 31 0 ∧ (crc32c [1#8, 0#8, 0#8, 0#8, 0#8, 0#8]).toNat ≠ fld ((showing 2 PipeSt.init).obj (kRegion 0 0 1)) 31 0
    ∧ live.accepts fw0 sf 0x5840 0x12 1#64 ∧ fld ((showing 2 PipeSt.init).obj (kPipe 0 3)) 63 48 = 2 ∧ (showing 2 { PipeSt.init with sink := true }).pipeOn 0 = true
    ∧ [0, 1, 2].filter (fun l => (showing 1 PipeSt.init).layerShort 0 l 1 none) = [] := by and_intros <;> decide +kernel

/-- The port, controller and segment of unit 0 up, with objects and DOMAINs. -/
def netUp (l : List (Nat × Nat)) : State := put live ([(kNet 0 1, 1), (kNet 0 2, 1), (kT1s 0 1, 1 + 5 * 2 ^ 16), (kCan 0 1, 1), (kT1s 0 4, 2)] ++ l)

/-- A table without entries matches nothing. -/
theorem no_routes (s : State) (h : s.dom (kRoute 1) = []) (k : Nat) (p : Pdu) : s.routeHits k p = false := by
  simp [State.routeHits, State.routeRec, State.recAt, h, leAt, slice, nbit, leNat]

/-- A frame at a port with one entry that is not read as anything else: an entry of the route table for all frames of the segment 0, to output kind 1. -/
def oneRoute : State := (netUp []).setDom (kRoute 1) ([1#8, 3#8, 0#8, 0#8, 0#8, 1#8] ++ List.replicate 42 0#8)

theorem meets_BusFrames_route : (List.range 4096).filter (fun k => oneRoute.routeHits k (ethPdu 3 0 0 frame)) = [0] ∧ leAt (oneRoute.routeRec 0) 5 1 = 1 := by decide +kernel

/-- A frame in the queue of class 0 of port 0, with or without a launch time. -/
def leaving (l : List (Nat × Nat)) (launch : Option Word64) : State := { netUp l with txq := [(0, [⟨[1#8], 8, 0, 0#64, launch, false, false, 0, none, none⟩])] }

theorem meets_EthernetFrames : live.portUp 0 = false ∧ (netUp []).portUp 0 = true ∧ (64 ≤ frame.len ∧ frame.len ≤ 9022 ∧ frame.fcsOk = true) ∧ ¬ (64 ≤ ({ frame with len := 63 } : EthFrame).len) ∧ frame.etype ≠ 0x888e#16 ∧ frame.etype ≠ 0x88f7#16 ∧ frame.secured = false
    ∧ (netUp [(kNet 0 1, 5)]).oBit (kNet 0 1) 2 = true ∧ (netUp []).oBit (kNet 0 1) 2 = false ∧ (netUp [(kNet 0 1, 17)]).oBit (kNet 0 1) 4 = true ∧ macListed ((netUp [(kNet 0 1, 17)]).dom (kNet 0 0xa)) frame.src = false ∧ (netUp []).oBit (kNet 0 1) 4 = false
    ∧ frame.qciPass = true ∧ (netUp []).dom (kRoute 1) = [] := by and_intros <;> decide +kernel

theorem meets_EthernetFrames_leave : (leaving [] none).portUp 0 = true ∧ (List.range 8).any (fun c' => decide (0 < c') && ((leaving [] none).eligibleHead 0 c').isSome) = false ∧ ((leaving [] none).eligibleHead 0 0).isSome = true ∧ (netUp []).eligibleHead 0 0 = none
    ∧ (leaving [(kNet 0 4, 1), (kNet 0 5, 1), (kNet 0 6, 1000)] (some 0#64)).queueMode 0 0 = 1 ∧ ((leaving [(kNet 0 4, 1), (kNet 0 5, 1), (kNet 0 6, 1000)] (some 0#64)).eligibleHead 0 0).isSome = true ∧ (leaving [(kNet 0 4, 1), (kNet 0 5, 1), (kNet 0 6, 1000)] (some 0#64)).objN (kNet 0 6) = 1000
    ∧ (1000 : Int) < (leaving [] none).netTime - ((0#64).toNat : Int) ∧ (leaving [(kNet 0 4, 1), (kNet 0 5, 1), (kNet 0 6, 1000)] (some 0#64)).oBit (kNet 0 5) 0 = true := by and_intros <;> decide +kernel

theorem meets_EthernetFrames_rings : live.accepts fw0 sf 0x6030 3 0#64 ∧ live.fetchPoint 0 0 < live.ringSize 0 0 ∧ live.fetchPoint 0 0 = (0#64).toNat % live.ringSize 0 0 ∧ live.accepts fw0 sf 0x6030 7 0#64 ∧ live.accepts fw0 sf 0x6040 0x42 1#64 ∧ live.objN (kTs 0 0x41) = 0 ∧ live.objN (kTs 0 0x42) = 0
    ∧ live.accepts fw0 sf 0x6040 0x42 0#64 ∧ live.objN (kNet 0 2) = 0 ∧ live.padsUp 9 = true ∧ (netUp []).objN (kNet 0 2) = 1 := by and_intros <;> decide +kernel

/-- A frame in the queue of segment 0, and of controller 0, whose filter table holds one record with flags. -/
def talking (k : Nat) : State := { netUp [] with t1sq := [(0, [⟨[1#8], k⟩])], canq := [(0, [⟨canFrame, none, none, false⟩])] }
def filtered (flags : Byte) : State := (netUp []).setDom (kCan 0 4) (flags :: List.replicate 15 0#8)

theorem meets_BusFrames : live.t1sOn 0 = false ∧ (netUp []).t1sOn 0 = true ∧ frame.fcsOk = true ∧ 64 ≤ frame.len ∧ frame.len ≤ 9022 ∧ (netUp []).oBit (kT1s 0 1) 1 = false ∧ (netUp []).dom (kRoute 1) = []
    ∧ (netUp []).t1sNode 0 = 5 ∧ (netUp []).plca 0 = 2 ∧ (netUp [(kT1s 0 4, 1)]).plca 0 = 1 ∧ live.t1sQueue 0 = [] ∧ (talking 15).t1sQueue 0 = [⟨[1#8], 15⟩] ∧ (talking 3).t1sOn 0 = true := by and_intros <;> decide +kernel

theorem meets_BusFrames_can : live.canUp 0 = false ∧ (netUp []).canUp 0 = true ∧ canFrame.xl = false ∧ (netUp []).canCxop 0 canFrame = false ∧ ((records 16 ((filtered 13#8).dom (kCan 0 4))).filter fun r => filterHits r canFrame).any (fun r => nbit (leAt r 0 1) 3) = true
    ∧ ((records 16 ((netUp []).dom (kCan 0 4))).filter fun r => filterHits r canFrame) = [] ∧ ((records 16 ((filtered 5#8).dom (kCan 0 4))).filter fun r => filterHits r canFrame) ≠ [] ∧ ((records 16 ((filtered 5#8).dom (kCan 0 4))).filter fun r => filterHits r canFrame).any (fun r => nbit (leAt r 0 1) 3) = false
    ∧ (filtered 5#8).dom (kRoute 1) = [] ∧ (talking 0).canUp 0 = true ∧ (talking 0).oBit (kCan 0 1) 1 = false ∧ canNext (((talking 0).canQueue 0).filter fun x => x.launch.isNone) = some ⟨canFrame, none, none, false⟩
    ∧ (netUp [(kCan 0 8, 2), (kCan 0 5, 0)]).objN (kCan 0 8) = 2 ∧ fld ((netUp [(kCan 0 8, 2), (kCan 0 5, 0)]).obj (kCan 0 5)) 15 0 ≠ 0xffff ∧ ((TMap.get (fun _ => []) (netUp []).canOff 0).headD 0#64).toNat + 0 * 1000000 ≤ (netUp []).nowN
    ∧ (netUp []).accepts fw0 sf 0x6210 9 1#64 ∧ (netUp []).objN (kCan 0 8) < 2 ∧ (netUp [(kCan 0 8, 2)]).accepts fw0 sf 0x6210 9 1#64 := by and_intros <;> decide +kernel

/-- The outbound window 0 with a configuration, a fetch of 4 bytes of PSRAM in slot 0, and a far end that answers or not. -/
def outward (cfg up : Nat) : State := { put live [(kOb 0 1, cfg), (kOb 0 3, 0x1000), (kPcie 4, up), (kPcie 5, 1)] with pcieRole := 1 }
def fetching (done : Bool) (d : Option (List Byte)) (a : Nat := psramBase) : State := { outward 1 1 with fetches := [(0, some ⟨1, a, 4, done, d, 0#64⟩)] }
def crowded : State := { live with fetches := (List.range 64).map fun k => (k, some ⟨2, psramBase, 4, false, none, 0#64⟩) }
def poste : Posted := ⟨0x80000000000, [1#8], 0#64⟩

theorem meets_FeldsparRequests : crosses 0 32 = false ∧ crosses psramBase 4 = true ∧ live.domOff 7 = false ∧ { live with domsOff := 0x80 }.domOff 7 = true ∧ live.obHit 0x80000000000 4 = .bad ∧ (outward 1 1).obHit 0x80000000000 4 = .window 0 1#64 0
    ∧ (fetching false none).slotOf 1 psramBase 4 = some 0 ∧ (fetching false none).fetch 0 = some ⟨1, psramBase, 4, false, none, 0#64⟩ ∧ (fetching true (some [1#8])).fetch 0 = some ⟨1, psramBase, 4, true, some [1#8], 0#64⟩ ∧ (fetching true none).fetch 0 = some ⟨1, psramBase, 4, true, none, 0#64⟩
    ∧ live.slotOf 1 psramBase 4 = none ∧ live.yielding = false ∧ live.fetch 0 = none ∧ (List.range 64).all (fun k => (crowded.fetch k).isSome) = true ∧ crowded.slotOf 1 psramBase 4 = none ∧ unitOfRange 0x80000000000 4 = some (.pcie 0)
    ∧ (fetching false none 0x80000000000).obHit 0x80000000000 4 = .window 0 1#64 0 ∧ (0#64).toNat + 4000 ≤ (fetching true none).nowN ∧ (0#64).toNat + (outward 1 1).objN (kPcie 5) * 1000 ≤ (outward 1 1).nowN := by and_intros <;> decide +kernel

theorem meets_FeldsparRequests_writes : (outward 3 1).obHit 0x80000000000 [1#8].length = .window 0 3#64 0 ∧ (wcPosted 3#64 && decide (wcType 3#64 ≠ 1)) = true ∧ wcPosted 1#64 = false ∧ (outward 1 1).pcieUp = true ∧ (outward 1 0).pcieUp = false ∧ (outward 1 1).domOff 7 = false
    ∧ ({ outward 1 1 with yielding := true } : State).obHit 0x80000000000 [1#8].length ≠ .bad ∧ ({ outward 3 1 with wbuf := [poste] } : State).wbuf = poste :: [] ∧ ((live.setDom kPweLog (List.replicate 512 0#8)).dom kPweLog).length = 512 ∧ (live.dom kPweLog).length < 512
    ∧ live.accepts fw0 sf 0x6401 2 1#64 := by and_intros <;> decide +kernel

/-- An inbound window of 4 KiB from PCI Express address 0 onto 0x100000, secure. -/
def inward : State := { put live [(kIb 0 1, 0x41), (kIb 0 2, 0), (kIb 0 3, 0x1000), (kIb 0 4, 0x100000)] with pcieRole := 1, poison := [0x100000] }

theorem meets_FeldsparRequests_inbound : live.padsUp 7 = true ∧ { live with domsOff := 0x80 }.padsUp 7 = false ∧ ({ live with svcBoot := true } : State).svcBoot = true ∧ live.svcBoot = false ∧ live.ibHit 0 4 0 = none ∧ inward.ibHit 0 4 0 = some (0x41#64, 0x100000)
    ∧ swapOk (wcSwap 0x41#64) 0x100000 4 = true ∧ inward.inboundMay 0x100000 4 true true = true ∧ inward.inboundMay 0x100000 4 true false = true ∧ wcType 0x41#64 = 1 ∧ wcSwap 0x41#64 = 0 ∧ (inward.poisonedAt 0x100000 4).isSome = true
    ∧ inward.msixHit 0 4 0 = none ∧ ({ inward with pcieRole := 2 } : State).ibHit 0 4 0 = some (0x41#64, 0x100000) ∧ ({ inward with pcieRole := 2 } : State).msixHit 0 4 0 = some (some 0)
    ∧ live.pcieRole = 0 ∧ (outward 1 0).objN (kPcie 4) ≠ 17 ∧ (outward 1 0).padsUp 7 = true := by and_intros <;> decide +kernel

/-- Link 0 of Twimi enabled, in a state, with replays of one flit. -/
def wired (state same : Nat) : State := { put fwUp [(kLink 0 1, 1), (kLink 0 2, state)] with links := [(0, ⟨0#64, 0, same⟩)] }

theorem meets_TwimiLinks : live.fwRuns 1 = false ∧ (wired 1 0).oBit (kLink 0 1) 0 = true ∧ (wired 1 0).objN (kLink 0 2) ≤ 1 ∧ (wired 1 0).padsUp 7 = true ∧ (wired 1 0).fwRuns 1 = true ∧ ((wired 1 0).objN (okey 0x1000 4) + 0 + 1) % 4 = 1
    ∧ (wired 1 0).objN (kLink 0 2) ≠ 2 ∧ (wired 2 0).objN (kLink 0 2) = 2 ∧ ((wired 2 15).lk 0).same + 1 = 16 ∧ ((wired 2 0).lk 0).same + 1 < 16 ∧ fld ((put (wired 2 0) [(kLink 0 1, 1)]).obj (kLink 0 1)) 15 8 < 1 := by and_intros <;> decide +kernel

/-- Host core 1 running in a world, with its next world. -/
def hosted (secure next : Bool) : State := (put fwUp [(okey 0x7403 1, if secure then 2 else 0), (okey 0x7420 2, 1)]).setHost 1 { HostSt.init with running := true, next := next }

/-- A directory copy 0 of version 1 with one entry. -/
def directory : State :=
  let d := [0x5a#8, 0x44#8, 0x49#8, 0x52#8] ++ leBytes 4 1 ++ leBytes 4 1 ++ leBytes 52 0 ++ leBytes 16 0
  fwUp.wr (dirBase 0) (d ++ leBytes 4 (crc32c d).toNat)

/-- Processor 1 with three faults of component 1 in this second, or none of them, and in a state of Table 15-5. -/
def faulty (n state : Nat) : State := (put fwUp [(kFw 1 1, state)]).setFw 1 { FwSt.init with faults := List.replicate n (1, 0#64) }

theorem meets_WorldsAndFirmware : (live.host 1).running = false ∧ ((hosted true false).host 1).running = true ∧ (hosted true false).hostSecure 1 = true ∧ ((hosted true false).host 1).next = false ∧ (hosted false true).hostSecure 1 = false
    ∧ live.accepts fw0 sf 0x7403 2 2#64 ∧ bit 2#64 1 = true ∧ live.accepts fw0 sf 0x7440 7 1#64 ∧ live.storeJob = none ∧ (storing []).accepts fw0 sf 0x7440 7 1#64 ∧ (storing []).storeJob.isSome = true
    ∧ live.requester (.cxop 5) = none ∧ live.requester host0 = some mgr ∧ (put live [(kInst 0 0 5, 2 ^ 31)]).requester (.host 0 .vs 0) = some ⟨.inst 0, false, .inst 0⟩ ∧ (put live [(kInst 0 0 5, 2 ^ 31)]).domReadCheck ⟨.inst 0, false, .inst 0⟩ 0x7880 1 = 0x0003 ∧ live.domReadCheck sf 0x7880 1 = 0 ∧ live.identityValid = false ∧ (hosted true false).domReadCheck sf 0x7880 1 = 0 ∧ (hosted true false).identityValid = true ∧ (hosted true false).fwRuns 0 = true
    ∧ (put (hosted true false) [(kFw 0 1, 3)]).fwRuns 0 = false := by and_intros <;> decide +kernel

theorem meets_WorldsAndFirmware_processors : (faulty 3 2).accepts fw0 sf 0x7801 5 1#64 ∧ (faulty 3 2).fwRuns 1 = true ∧ (faulty 3 3).fwRuns 1 = false ∧ 3 ≤ (faulty 3 2).recentFaults 1 1 ∧ (faulty 2 2).recentFaults 1 1 < 3 ∧ ((faulty 3 2).fw 1).faults.head? = some (1, 0#64)
    ∧ (faulty 0 3).objN (kFw 1 1) = 3 ∧ (faulty 0 3).fwRuns 0 = true ∧ (faulty 0 3).pickImage 2 = none ∧ (faulty 0 2).objN (kFw 1 1) ≠ 3 := by and_intros <;> decide +kernel

theorem meets_WorldsAndFirmware_update : live.domWriteCheck mgr 0x7808 1 0 ≠ 0 ∧ directory.domWriteCheck sf 0x7808 1 0 = 0 ∧ splitImages 16 [] = some [] ∧ splitImages 16 [1#8] = none ∧ directory.domWriteCheck sf 0x7808 1 1 = 0 ∧ directory.dirInUse = some 0
    ∧ placeImages ((directory.dirInUse.map directory.dirEntries).getD [] |>.map fun e => e.2) directory.free [] = some [] := by and_intros <;> decide +kernel

/-- The device out of the safe state or in it, with the island running, an identity, Flint open and a notice to repeat. -/
def guarded (safe : Nat) : State := { put fwUp [(kSafe 1, safe), (kIsland, 2), (okey 0x7420 2, 1), (kSafe 0xb, 1000)] with flintOpen := true, noticeArgs := [1#64], leftRepeats := 2, lastBeat := some 0#64 }

theorem meets_SafeState : (guarded 0).accepts fw0 sf 0x7000 5 1#64 ∧ (guarded 0).safe = false ∧ (guarded 1).safe = true ∧ (guarded 0).accepts fw0 sf 0x7000 4 1#64 ∧ (guarded 1).accepts fw0 sf 0x7000 4 1#64 ∧ (guarded 1).exitAllowed = true ∧ ({ guarded 1 with flintOpen := false } : State).exitAllowed = false
    ∧ ({ guarded 1 with flintOpen := false } : State).accepts fw0 sf 0x7000 4 1#64 ∧ (guarded 1).noticeArgs ≠ [] ∧ (guarded 0).leftRepeats ≠ 0 ∧ live.noticeArgs = [] ∧ live.leftRepeats = 0 ∧ live.lastBeat = none ∧ (guarded 0).lastBeat = some 0#64 ∧ (guarded 0).watched = true
    ∧ max (0#64).toNat (guarded 0).wdHold.toNat + 1000 * (guarded 0).objN (kSafe 0xb) ≤ (guarded 0).nowN ∧ ({ guarded 0 with now := 999999#64 } : State).nowN < max (0#64).toNat (guarded 0).wdHold.toNat + 1000 * (guarded 0).objN (kSafe 0xb)
    ∧ live.islandRuns = false ∧ (guarded 0).islandRuns = true ∧ live.domOff 0 = false ∧ ({ live with domsOff := 1 } : State).domOff 0 = true ∧ live.powered = true ∧ live.tbRun = true := by and_intros <;> decide +kernel

/-- A golden job 0 of entry 0 with starts that wait, and a copy-out, of a device whose island runs. -/
def testing (waits : Nat) (job : Option CopyJob) : State := { put (guarded 0) [(kGolden 0 1, 2 ^ 63), (kDiag 4, 0), (kDiag 1, 1)] with golden := [(0, waits)], copyJob := job, strataQ := [⟨3, some 0, []⟩] }

theorem meets_SelfTestsAndStrata : live.accepts fw0 sf 0x7010 6 0#64 ∧ fld 0#64 63 56 = 0 ∧ live.accepts fw0 sf 0x7010 6 (BitVec.ofNat 64 (4 * 2 ^ 56 + 15)) ∧ live.selfReq = none ∧ ({ live with selfReq := some (1, 1) } : State).accepts fw0 sf 0x7010 6 (BitVec.ofNat 64 (4 * 2 ^ 56 + 15))
    ∧ (testing 0 none).overdue = false ∧ (testing 0 none).islandRuns = true ∧ (testing 0 none).objN (kDiag 4) + 1000000 * (testing 0 none).objN (kDiag 1) ≤ (testing 0 none).nowN ∧ bit ((testing 2 none).obj (kGolden 0 1)) 63 = true ∧ 2 ≤ (testing 2 none).goldenWaits 0 ∧ (testing 0 none).goldenWaits 0 = 0
    ∧ live.accepts fw0 sf 0x7040 0xa 1#64 ∧ (put live [(okey 0x705c 1, 0)]).oBit (okey 0x705c 1) 0 = false ∧ (put live [(okey 0x705c 1, 1)]).oBit (okey 0x705c 1) 0 = true ∧ live.strataQ.length < 16 ∧ 16 ≤ ({ live with strataQ := List.replicate 16 ⟨0, none, []⟩ } : State).strataQ.length
    ∧ (testing 0 none).strataQ = ⟨3, some 0, []⟩ :: [] ∧ (testing 0 none).powered = true ∧ (testing 0 none).objN (okey 0x7c00 1) ≠ 3 ∧ (testing 0 none).copyHeld = false := by and_intros <;> decide +kernel

theorem meets_SelfTestsAndStrata_copies : live.accepts fw0 sf 0x7040 5 0x7374636C#64 ∧ (put live [(okey 0x705d 1, 1)]).oBit (okey (0x7050 + 13) 1) 0 = true ∧ (put live [(okey 0x705d 1, 0)]).oBit (okey (0x7050 + 13) 1) 0 = false ∧ live.accepts fw0 sf 0x7040 6 1#64 ∧ (testing 0 (some ⟨1, 2, []⟩)).copyJob = some ⟨1, 2, []⟩ ∧ (testing 0 none).copyJob = none
    ∧ live.fwRuns 0 = false ∧ (testing 0 none).fwRuns 0 = true ∧ (testing 0 none).accepts fw0 sf 0x7040 6 1#64 := by and_intros <;> decide +kernel

/-- The device in a power state and a phase, with objects. -/
def phased (state : Nat) (p : PowerPhase) (l : List (Nat × Nat)) : State := let s := put fwUp ((kPower 1, state) :: l); { s with power := { s.power with phase := p, prev := 2 } }

theorem meets_PowerRequests : fwUp.accepts fw0 sf 0x7c00 2 0#64 ∧ fwUp.accepts fw0 sf 0x7c00 2 2#64 ∧ fwUp.accepts fw0 sf 0x7c00 2 3#64 ∧ fwUp.accepts fw0 sf 0x7c00 2 4#64 ∧ (phased 0 .steady [(kHold, 1)]).accepts host0 mgr 0x7c00 2 4#64 ∧ (phased 0 .steady [(kHold, 1)]).objN kHold ≠ 0
    ∧ (phased 0 .steady [(kInst 0 0 1, 1)]).entryRefusal 3 ≠ 0 ∧ fwUp.entryRefusal 2 = 0 ∧ fwUp.entryRefusal 3 = 0 ∧ (phased 0 .steady [(kHold, 1)]).accepts host0 mgr 0x7c00 2 2#64 ∧ (phased 0 .steady [(kHold, 1)]).objN kHold &&& offMask 2 ≠ 0 ∧ fwUp.objN kHold &&& offMask 2 = 0
    ∧ (phased 0 (.starting 0) []).powerBusy = true ∧ (phased 0 (.starting 0) []).accepts fw0 sf 0x7c00 2 2#64 ∧ fwUp.powerBusy = false ∧ (phased 2 .steady []).powerState = 2 ∧ (phased 2 .steady []).powerBusy = false ∧ (phased 2 .steady []).accepts fw0 sf 0x7c00 2 2#64 ∧ (phased 2 .steady []).entryRefusal 2 = 0 := by and_intros <;> decide +kernel

theorem meets_PowerRequests_later : fwUp.objN kPending = 0 ∧ (phased 0 .steady [(kPending, 1), (kHold, 1)]).objN kHold &&& offMask 2 ≠ 0 ∧ (phased 0 .steady [(kPending, 1)]).objN kPending + 1 = 2 ∧ (phased 0 .steady [(kPending, 1)]).objN kHold &&& offMask 2 = 0 ∧ (phased 0 .steady [(kPending, 1)]).entryRefusal 2 = 0
    ∧ (phased 0 .steady [(kPending, 2), (kInst 0 0 1, 1)]).entryRefusal 3 ≠ 0 ∧ (phased 0 (.starting 0) [(kPending, 1)]).powerBusy = true ∧ (phased 2 .steady [(kPending, 1)]).powerState = 2 ∧ (phased 2 .steady [(kPending, 1)]).entryRefusal 2 = 0 := by and_intros <;> decide +kernel

theorem meets_PowerRequests_wakes : ({ live with dead := true } : State).dead = true ∧ live.dead = false ∧ (phased 4 (.entering 2) [(okey 0x6020 8, 1)]).wakes (.eth 0) 2 = true ∧ (phased 4 (.entering 2) [(okey 0x6020 8, 0)]).wakes (.eth 0) 2 = false ∧ (phased 4 (.entering 2) []).power.phase = .entering 2
    ∧ (phased 2 .steady [(okey 0x6020 8, 1)]).wakes (.eth 0) 2 = true ∧ (phased 2 .steady []).powerState = 2 ∧ live.powerState ≠ 2 ∧ live.powerState ≠ 3 ∧ (phased 2 .steady []).power.phase = .steady := by and_intros <;> decide +kernel

theorem meets_PowerRequests_idle : fwUp.accepts fw0 sf 0x7c00 7 1#64 ∧ live.fwRuns 1 = false ∧ fwUp.fwRuns 1 = true ∧ fwUp.domOff 9 = false ∧ fwUp.domOff 8 = false ∧ fwUp.domOff 7 = false ∧ ({ fwUp with domsOff := 0x200 } : State).domOff 9 = true ∧ bit 1#64 0 = true
    ∧ fwUp.powerState = 0 ∧ fwUp.power.phase = .steady ∧ fwUp.powered = true ∧ fwUp.dead = false ∧ (put fwUp [(kPower 3, 1)]).oBit (kPower 3) 0 = true ∧ fwUp.domOff 0 = false ∧ fwUp.garnet.started = false ∧ fwUp.insts = [] ∧ (InstSt.init.runq, InstSt.init.invs, InstSt.init.saved, InstSt.init.reruns) = ([], [], [], [])
    ∧ (phased 1 .steady []).powerState = 1 ∧ (put (cadence 1 0) [(kPower 1, 1)]).cadEnabled 0 = true ∧ (put (cadence 1 0) [(kPower 1, 1)]).cadAction 0 = 1 ∧ (cadence 1 0).cadNext 0 = 1000000 ∧ (1000000 : Int) ≤ (cadence 1 0).netTime + 4000 := by and_intros <;> decide +kernel

theorem meets_PowerUpAndDown : live.powered = true ∧ State.reset.powered = false ∧ env.svcBoot = false ∧ ({ live with svcBoot := true } : State).svcBoot = true ∧ live.fwRuns 0 = false ∧ live.svcBoot = false ∧ ({ live with svcBoot := true } : State).imageOk 1 (({ live with svcBoot := true } : State).rd psramBase 0) = false
    ∧ live.storeJob = none ∧ live.copyJob = none ∧ (phased 5 .steady []).powerState = 5 ∧ (phased 5 .steady []).power.prev = 2 ∧ (phased 5 .steady []).power.phase = .steady ∧ (phased 5 .steady []).dead = false ∧ (put live [(okey 0x7420 2, 1)]).identityValid = true ∧ live.identityValid = false
    ∧ (phased 0 (.starting 2) []).power.phase = .starting 2 ∧ nbit 0x0fc0 6 = true ∧ nbit 0x7fff 14 = true ∧ nbit 0x3f 5 = true ∧ nbit 0x3f 6 = false ∧ (put live [(kRail 1, 0x41)]).oBit (kRail 1) 6 = true ∧ (put live [(kRail 1, 0x41)]).oBit (kRail 1) 0 = true ∧ (put live [(kRail 1, 0x41)]).oBit (kRail 1) 1 = false := by and_intros <;> decide +kernel

/-- Plan 2 of instance 0 pinned on core 0; cluster 0 throttled below what it was asked for; readings of the clusters in FP32: 40 °C, 125 °C, none. -/
def pinned : State := fwUp.upInst 0 fun x => { x with plans := [(2, { plan with pinned := true })] }
def warm : Temps := ⟨List.replicate 4 0x42200000#32⟩
def burning : Temps := ⟨0x42fa0000#32 :: List.replicate 3 0x42200000#32⟩

theorem meets_OperatingPoints : fwUp.accepts fw0 sf 0x7c10 1 800#64 ∧ live.accepts fw0 sf 0x7c10 1 800#64 ∧ live.fwRuns 1 = false ∧ fwUp.fwRuns 1 = true ∧ fwUp.objN (kFw 3 1) ≠ 3 ∧ (put fwUp [(kFw 3 1, 3)]).objN (kFw 3 1) = 3 ∧ (placedCores plan.place).contains 0 = true ∧ (pinned.inst 0).plans = [(2, { plan with pinned := true })] ∧ fwUp.insts = []
    ∧ fwUp.domOff 2 = false ∧ ({ fwUp with domsOff := 4 } : State).accepts fw0 sf 0x7c10 1 800#64 ∧ (put fwUp [(kCl 0 1, 900), (kCl 0 2, 800)]).clFreq 0 < (put fwUp [(kCl 0 1, 900), (kCl 0 2, 800)]).objN (kCl 0 1) := by and_intros <;> decide +kernel

theorem meets_OperatingPoints_throttle : (List.range 4).filter (fun c => !fwUp.domOff (2 + c)) = [0, 1, 2, 3] ∧ (List.range 4).filter (fun c => !({ fwUp with domsOff := 0x3c } : State).domOff (2 + c)) = [] ∧ (List.range 4).all (fun c => (f32 (warm.cl.getD c 0#32)).isFin) = true ∧ (f32 (([] : List Word32).getD 0 0x7fc00000#32)).isFin = false
    ∧ (f32 (burning.cl.getD 0 0#32)).toRat = 125 ∧ (List.range 4).all (fun c => decide ((f32 (warm.cl.getD c 0#32)).toRat < 125)) = true ∧ fwUp.power.hotSince = none ∧ ({ fwUp with now := 100000001#64, power := { fwUp.power with hotSince := some 0#64 } } : State).nowN = 100000001
    ∧ State.reset.powered = false ∧ fwUp.powered = true ∧ fwUp.selfReq = none ∧ fld ((put fwUp [(kDiag 7, 2 ^ 49)]).obj (kDiag 7)) 55 48 = 2 := by and_intros <;> decide +kernel

theorem meets_StepTakesOneCommand : goes (step live) = true ∧ goes (step { live with pending := [.idleEntry] }) = true := by decide +kernel

theorem meets_WellFormedCommandsGoOn : Instr.idleEntry.wf = true ∧ (Instr.read req).wf = true := by decide

end Sys2Proof.Tests
end

section
/-! The canonical form of the maps (O1). -/

namespace Sys2Proof.Machine

/-- Settles O1: the canonical form is among the facts that `step_keeps` shows of every step. -/
theorem stepKeepsCanonicalForm : Obligations.StepKeepsCanonicalForm := by
  unfold Obligations.StepKeepsCanonicalForm
  intro s t hs hst
  obtain ⟨-, -, -, hcanon⟩ := step_keeps hst
  exact hcanon hs

end Sys2Proof.Machine
end

section
/-! The tick of the clock (O7). -/

namespace Sys2Proof.Machine

/-- On an empty queue a step is one tick of the clock. -/
theorem step_of_pending_nil {s : State} (h : s.pending = []) : step s = .next s.clock := by
  simp [step, h]

/-- A power core at rest, with no request that waits, does nothing at a tick (R426). -/
theorem State.powerTick_at_rest {s : State} (hphase : s.power.phase = .steady) (hnext : s.power.next = none) : s.powerTick = s := by
  simp [State.powerTick, hphase, hnext]

/-- The tick in an entry completes it (R426). -/
theorem State.powerTick_entering {s : State} {into : Nat} (hphase : s.power.phase = .entering into) : s.powerTick = s.entryDone into := by
  simp [State.powerTick, hphase]

/-- A tick is its power work alone where that leaves the timebase stopped (R22). -/
theorem State.clock_of_stopped {s : State} (h : s.powerTick.tbRun = false) : s.clock = s.powerTick := by
  simp [State.clock, h]

/-- The state in which a Sentry entry is complete, before a wake that came during it is looked at (R22, R426, R430). -/
def State.inSentry (s : State) : State :=
  let t := ((s.transitionDone s.power.prev 3 40000).setN (kPower 1) 3).sentryRest
  { t with power := { t.power with phase := .steady, prev := 3 } }

/-- The end of a Sentry entry: a wake that came during it starts the exit at once (R426, R435). -/
theorem State.entryDone_sentry (s : State) : s.entryDone 3
    = if s.power.wake then ({ s.inSentry with power := { s.inSentry.power with wake := false } } : State).setN (kPower 1) 5 else s.inSentry := rfl

theorem State.transitionDone_now (s : State) (a b bound : Nat) : (s.transitionDone a b bound).now = s.now := by
  rw [State.transitionDone, State.tookFree_now, State.orObj_eq, State.setObj_now, State.setN_eq, State.setObj_now]

theorem State.transitionDone_mem (s : State) (a b bound : Nat) : (s.transitionDone a b bound).mem = s.mem := by
  rw [State.transitionDone, State.tookFree_mem, State.orObj_eq, State.setObj_mem, State.setN_eq, State.setObj_mem]

theorem State.sentryRest_now (s : State) : s.sentryRest.now = s.now := by
  rw [State.sentryRest, State.setN_eq, State.setObj_now]

theorem State.sentryRest_mem (s : State) : s.sentryRest.mem = s.mem := by
  rw [State.sentryRest, State.setN_eq, State.setObj_mem]

theorem State.sentryRest_powerState (s : State) : s.sentryRest.powerState = s.powerState := by
  rw [State.powerState, State.objN, State.sentryRest, State.setN_eq, State.obj_setObj, if_neg (by decide)]
  rfl

theorem State.setN_powerState (s : State) (n : Nat) : (s.setN (kPower 1) n).powerState = n % 2 ^ 64 := State.objN_setN_self s (kPower 1) n

theorem State.inSentry_now (s : State) : s.inSentry.now = s.now := by
  rw [State.inSentry, State.sentryRest_now, State.setN_eq, State.setObj_now, State.transitionDone_now]

theorem State.inSentry_mem (s : State) : s.inSentry.mem = s.mem := by
  rw [State.inSentry, State.sentryRest_mem, State.setN_eq, State.setObj_mem, State.transitionDone_mem]

theorem State.inSentry_powerState (s : State) : s.inSentry.powerState = 3 :=
  ((State.sentryRest_powerState _).trans (State.setN_powerState _ 3) : ((s.transitionDone s.power.prev 3 40000).setN (kPower 1) 3).sentryRest.powerState = 3)

/-- At the end of a Sentry entry the timebase stands, and the power core rests in Sentry or in the exit that a wake has asked for (R22, R426, R435). -/
theorem State.entryDone_sentry_rests (s : State) :
    (s.entryDone 3).tbRun = false ∧ (s.entryDone 3).now = s.now ∧ (s.entryDone 3).power.phase = .steady ∧ (s.entryDone 3).mem = s.mem
      ∧ (s.entryDone 3).powerState = if s.power.wake then 5 else 3 := by
  rw [State.entryDone_sentry]
  split
  · rw [State.setN_powerState, State.setN_eq, State.setObj_tbRun, State.setObj_now, State.setObj_mem, State.setObj_power]
    exact ⟨rfl, s.inSentry_now, rfl, s.inSentry_mem, rfl⟩
  · exact ⟨rfl, s.inSentry_now, rfl, s.inSentry_mem, s.inSentry_powerState⟩

/-- Settles O7: a power core at rest leaves a tick to the counter alone, and the tick of an entry is its completion, which stops the counter. -/
theorem tickCounts : Obligations.TickCounts := by
  unfold Obligations.TickCounts
  constructor
  · intro s hpending hphase hnext
    rw [step_of_pending_nil hpending, State.clock, State.powerTick_at_rest hphase hnext]
    split <;> rfl
  · intro s hpending hphase
    have hdone := State.powerTick_entering hphase
    obtain ⟨hrun, hrest⟩ := s.entryDone_sentry_rests
    refine ⟨s.entryDone 3, ?_, hrun, hrest⟩
    rw [step_of_pending_nil hpending, State.clock_of_stopped (by rw [hdone, hrun]), hdone]

end Sys2Proof.Machine
end

section
/-! Requests to the stacks (O47). -/

namespace Sys2Proof.Machine

/-! ### What a counter and a store give -/

/-- A wrapping counter of n bits counts modulo 2^n; every other object reads as before. -/
theorem State.objN_count (s : State) (k n b j : Nat) (hn : n ≤ 64) :
    (s.count k n b).objN j = if k = j then (s.objN k + b) % 2 ^ n else s.objN j := by
  have hle : 2 ^ n ≤ 2 ^ 64 := Nat.pow_le_pow_right (by decide) hn
  rw [State.count_eq, State.objN, State.obj_setObj]
  split
  · have := Nat.mod_lt ((s.obj k).toNat + b) (Nat.two_pow_pos n)
    rw [incWrap, BitVec.toNat_ofNat, Nat.mod_eq_of_lt (by omega), State.objN]
  · rfl

/-- What a store leaves in memory depends on memory and the interleave alone. -/
theorem State.putBytes_mem_congr {s t : State} (hmem : t.mem = s.mem) (hil : t.ileave = s.ileave) (a : Nat) (bs : List Byte) :
    (t.putBytes a bs).mem = (s.putBytes a bs).mem := by
  induction bs generalizing s t a with
  | nil => exact hmem
  | cons b bs ih =>
    have hput : (t.putByte a b).mem = (s.putByte a b).mem := by
      simp only [State.putByte, hil]
      split <;> simp only [hmem]
    refine ih hput ?_ (a + 1)
    rw [State.putByte_eq t, State.putByte_eq s]
    exact hil

theorem State.wr_mem_congr {s t : State} (hmem : t.mem = s.mem) (hil : t.ileave = s.ileave) (a : Nat) (bs : List Byte) :
    (t.wr a bs).mem = (s.wr a bs).mem := by
  have hwr : ∀ u : State, (u.wr a bs).mem = (u.putBytes a bs).mem := by
    intro u
    simp only [State.wr]
    split <;> rfl
  rw [hwr, hwr, State.putBytes_mem_congr hmem hil]

/-! ### The budget of a request (R277-R279) -/

/-- Tokens that a request takes: its bytes in whole 32-byte units (R277). -/
def stackCost (r : StackReq) : Rat := (roundUp r.len 32 : Nat)

/-- Tokens in the bucket of a request's master, and in the pool of its class, on a stack (R277, R278). -/
def State.bucketOf (s : State) (r : StackReq) (st : Nat) : Rat := TMap.get (fun _ => 0) s.bucket (32 * st + r.master)
def State.poolOf (s : State) (r : StackReq) (st : Nat) : Rat := TMap.get (fun _ => 0) s.pool (8 * st + r.cls)

section
variable {s : State} {r : StackReq} {st : Nat}

/-- In budget: the master's bucket pays (R277). -/
theorem State.budget_of_bucket (h : stackCost r ≤ s.bucketOf r st) :
    s.budget r st = ({ s with bucket := TMap.set (fun _ => 0) s.bucket (32 * st + r.master) (s.bucketOf r st - stackCost r) }, 0) :=
  if_pos h

/-- In pool: the pool of the class pays (R278). -/
theorem State.budget_of_pool (h : s.bucketOf r st < stackCost r) (hp : stackCost r ≤ s.poolOf r st) :
    s.budget r st = ({ s with pool := TMap.set (fun _ => 0) s.pool (8 * st + r.cls) (s.poolOf r st - stackCost r) }, 1) :=
  (if_neg (not_le.2 h)).trans (if_pos hp)

/-- Overdraft: nothing pays (R279). -/
theorem State.budget_of_neither (h : s.bucketOf r st < stackCost r) (hp : s.poolOf r st < stackCost r) : s.budget r st = (s, 2) :=
  (if_neg (not_le.2 h)).trans (if_neg (not_le.2 hp))

end

/-- Only buckets and pools pay for a request. -/
theorem State.budget_eq (s : State) (r : StackReq) (st : Nat) :
    (s.budget r st).1 = { s with bucket := (s.budget r st).1.bucket, pool := (s.budget r st).1.pool } := by
  rcases le_or_gt (stackCost r) (s.bucketOf r st) with h | h
  · rw [State.budget_of_bucket h]
  · rcases le_or_gt (stackCost r) (s.poolOf r st) with hp | hp
    · rw [State.budget_of_pool h hp]
    · rw [State.budget_of_neither h hp]

/-! ### The counts of a request (R279, R280) -/

theorem kMaster_inj (i a b : Nat) : kMaster i a = kMaster i b ↔ a = b := by
  unfold kMaster okey; omega

theorem kRegEvents_ne_kMaster (i a : Nat) : okey 0x5000 8 ≠ kMaster i a := by
  unfold kMaster okey; omega

/-- A missed guarantee is counted in `missed` of its master and in the regulator's events alone (R280). -/
theorem State.objN_missed (s : State) (i a : Nat) (h : a ≠ 6) : (s.missed i).objN (kMaster i a) = s.objN (kMaster i a) := by
  rw [State.missed, State.orObj_eq, State.objN, State.obj_setObj, if_neg (kRegEvents_ne_kMaster i a), ← State.objN,
    State.objN_count _ _ _ _ _ (by decide), if_neg (by rw [kMaster_inj]; exact h.symm)]

/-- Objects alone may have changed. -/
abbrev State.objsAlone (s t : State) : Prop := t = { s with objs := t.objs }

theorem State.objsAlone.trans {s t u : State} (h : s.objsAlone t) (h' : t.objsAlone u) : s.objsAlone u := by
  unfold State.objsAlone at *
  rw [h', h]

theorem State.objsAlone.ite {s a b : State} {c : Prop} [Decidable c] (ha : s.objsAlone a) (hb : s.objsAlone b) : s.objsAlone (if c then a else b) := by
  split <;> assumption

theorem State.objsAlone_count (s : State) (k n b : Nat) : s.objsAlone (s.count k n b) := rfl

theorem State.objsAlone_missed (s : State) (i : Nat) : s.objsAlone (s.missed i) :=
  (s.objsAlone_count (kMaster i 6) 32 1).trans rfl

/-! ### A request that is served (R23, R277-R280) -/

/-- The counts of a request whose budget state is known: its bytes, an overdraft, and the guarantees that it misses (R279, R280). -/
def State.counted (s : State) (r : StackReq) (state : Nat) : State :=
  let s := s.count (kMaster r.master 5) 64 r.len
  let s := if state = 2 then s.count (kMaster r.master 7) 64 r.len else s
  let s := if r.late && decide (r.deadline ≠ 0xffff#16) && decide (state ≠ 2) then s.missed r.master else s
  if r.starved then s.missed r.master else s

/-- The state in which a request to a stack is served: its budget is taken and it is counted. -/
def State.billed (s : State) (r : StackReq) (st : Nat) : State := (s.budget r st).1.counted r (s.budget r st).2

theorem State.objsAlone_counted (s : State) (r : StackReq) (state : Nat) : s.objsAlone (s.counted r state) := by
  have miss : ∀ (t : State) (c : Prop) [Decidable c], s.objsAlone t → s.objsAlone (if c then t.missed r.master else t) := fun t c _ h =>
    .ite (h.trans (t.objsAlone_missed _)) h
  have h := s.objsAlone_count (kMaster r.master 5) 64 r.len
  exact miss _ _ (miss _ _ (.ite (h.trans (State.objsAlone_count _ _ _ _)) h))

theorem State.objN_count_kMaster (s : State) (i a a' b : Nat) :
    (s.count (kMaster i a) 64 b).objN (kMaster i a') = if a = a' then (s.objN (kMaster i a) + b) % 2 ^ 64 else s.objN (kMaster i a') := by
  simp only [State.objN_count _ _ _ _ _ (le_refl _), kMaster_inj]

theorem State.objN_ite_missed (s : State) (c : Prop) [Decidable c] (i a : Nat) (h : a ≠ 6) :
    (if c then s.missed i else s).objN (kMaster i a) = s.objN (kMaster i a) := by
  split
  · exact s.objN_missed i a h
  · rfl

/-- A request counts its bytes in its master's total (R280). -/
theorem State.counted_bytes (s : State) (r : StackReq) (state : Nat) :
    (s.counted r state).objN (kMaster r.master 5) = (s.objN (kMaster r.master 5) + r.len) % 2 ^ 64 := by
  rw [State.counted, State.objN_ite_missed _ _ _ _ (by decide), State.objN_ite_missed _ _ _ _ (by decide)]
  split
  · rw [State.objN_count_kMaster, if_neg (by decide), State.objN_count_kMaster, if_pos rfl]
  · rw [State.objN_count_kMaster, if_pos rfl]

/-- A request in neither budget nor pool counts its bytes as overdraft (R279). -/
theorem State.counted_overdraft (s : State) (r : StackReq) :
    (s.counted r 2).objN (kMaster r.master 7) = (s.objN (kMaster r.master 7) + r.len) % 2 ^ 64 := by
  rw [State.counted, State.objN_ite_missed _ _ _ _ (by decide), State.objN_ite_missed _ _ _ _ (by decide), if_pos rfl,
    State.objN_count_kMaster, if_pos rfl, State.objN_count_kMaster, if_neg (by decide)]

theorem State.budget_objN (s : State) (r : StackReq) (st k : Nat) : (s.budget r st).1.objN k = s.objN k := by
  rw [State.budget_eq]; rfl

theorem State.objsAlone_billed (s : State) (r : StackReq) (st : Nat) : (s.budget r st).1.objsAlone (s.billed r st) :=
  State.objsAlone_counted _ r _

theorem State.billed_bucket (s : State) (r : StackReq) (st : Nat) : (s.billed r st).bucket = (s.budget r st).1.bucket := by
  rw [s.objsAlone_billed r st]

theorem State.billed_pool (s : State) (r : StackReq) (st : Nat) : (s.billed r st).pool = (s.budget r st).1.pool := by
  rw [s.objsAlone_billed r st]

/-- A request is billed in objects, buckets and pools alone. -/
theorem State.billed_eq (s : State) (r : StackReq) (st : Nat) :
    s.billed r st = { s with objs := (s.billed r st).objs, bucket := (s.billed r st).bucket, pool := (s.billed r st).pool } := by
  rw [State.billed_bucket, State.billed_pool]
  have h := s.objsAlone_billed r st
  rw [State.objsAlone, State.budget_eq] at h
  exact h

theorem State.billed_bytes (s : State) (r : StackReq) (st : Nat) :
    (s.billed r st).objN (kMaster r.master 5) = (s.objN (kMaster r.master 5) + r.len) % 2 ^ 64 := by
  rw [State.billed, State.counted_bytes, State.budget_objN]

/-- In budget the bucket pays alone (R277). -/
theorem State.billed_of_bucket {s : State} {r : StackReq} {st : Nat} (h : stackCost r ≤ s.bucketOf r st) :
    (s.billed r st).bucketOf r st = s.bucketOf r st - stackCost r ∧ (s.billed r st).pool = s.pool := by
  rw [State.bucketOf, State.billed_bucket, State.billed_pool, State.budget_of_bucket h]
  exact ⟨by rw [TMap.get_set, if_pos rfl], rfl⟩

/-- In pool the pool pays alone (R278). -/
theorem State.billed_of_pool {s : State} {r : StackReq} {st : Nat} (h : s.bucketOf r st < stackCost r) (hp : stackCost r ≤ s.poolOf r st) :
    (s.billed r st).poolOf r st = s.poolOf r st - stackCost r ∧ (s.billed r st).bucket = s.bucket := by
  rw [State.poolOf, State.billed_bucket, State.billed_pool, State.budget_of_pool h hp]
  exact ⟨by rw [TMap.get_set, if_pos rfl], rfl⟩

/-- Overdraft is counted, and nothing pays (R279). -/
theorem State.billed_of_neither {s : State} {r : StackReq} {st : Nat} (h : s.bucketOf r st < stackCost r) (hp : s.poolOf r st < stackCost r) :
    (s.billed r st).pool = s.pool ∧ (s.billed r st).bucket = s.bucket
      ∧ (s.billed r st).objN (kMaster r.master 7) = (s.objN (kMaster r.master 7) + r.len) % 2 ^ 64 := by
  rw [State.billed_bucket, State.billed_pool, State.billed, State.budget_of_neither h hp]
  exact ⟨rfl, rfl, s.counted_overdraft r⟩

/-! ### The answers of the stacks (R23, R267, R268, R368) -/

/-- A request whose bytes all lie in stacked memory, or in one of its aliases. -/
abbrev inStacks (r : StackReq) : Prop := unitOfRange r.addr r.len = some .stack ∨ ∃ k, unitOfRange r.addr r.len = some (.alias_ k)

theorem execStackRequest_outside {s : State} {r : StackReq} (h : ¬ inStacks r) : execStackRequest r s = .next (s.emit (.stack r.master r.addr none)) := by
  unfold execStackRequest
  split
  · exact absurd (.inl ‹_›) h
  · exact absurd (.inr ⟨_, ‹_›⟩) h
  · rfl

/-- While the stacks are in self-refresh a request waits, or fails at its deadline (R23). -/
theorem execStackRequest_in_refresh {s : State} {r : StackReq} (h : inStacks r) (hf : s.power.refresh = true) :
    execStackRequest r s = .next (if r.late then s.emit (.stack r.master r.addr none) else s) := by
  rcases h with h | ⟨k, h⟩ <;> simp only [execStackRequest, h, hf, if_true]

/-- Stacks without power, and a fabric that refuses, answer with an error (R368). -/
theorem execStackRequest_refused {s : State} {r : StackReq} (h : inStacks r) (hf : s.power.refresh = false)
    (hr : s.domOff 6 = true ∨ s.stackRefuses r = true) : execStackRequest r s = .next (s.emit (.stack r.master r.addr none)) := by
  rw [← Bool.or_eq_true] at hr
  rcases h with h | ⟨k, h⟩ <;> simp only [execStackRequest, h, hf, hr, if_true, Bool.false_eq_true, if_false]

/-- What a request does when it is served. -/
def State.stackServe (s : State) (r : StackReq) : State :=
  if r.write then (s.wr r.addr (slice r.data 0 r.len)).emit (.stack r.master r.addr (some []))
  else
    let s := s.forEach (s.unitsOf r.addr r.len) fun s u => s.unitFound u.1 u.2 r.err
    s.emit (.stack r.master r.addr (if (s.poisonedAt r.addr r.len).isSome then none else some (s.rd r.addr r.len)))

theorem execStackRequest_served {s : State} {r : StackReq} (h : inStacks r) (hf : s.power.refresh = false) (hd : s.domOff 6 = false)
    (hr : s.stackRefuses r = false) : execStackRequest r s = .next ((s.billed r (stackOf s.ileave (canonAddr s.ileave r.addr))).stackServe r) := by
  have hok : (s.domOff 6 || s.stackRefuses r) = false := by rw [hd, hr]; rfl
  rcases h with h | ⟨k, h⟩ <;>
  · simp only [execStackRequest, h, hf, hok, Bool.false_eq_true, if_false, State.stackServe, State.billed, State.counted]
    split <;> rfl

/-- A write that is served leaves its bytes in memory (R23). -/
theorem State.stackServe_write {s : State} {r : StackReq} (hw : r.write = true) :
    s.stackServe r = (s.wr r.addr (slice r.data 0 r.len)).emit (.stack r.master r.addr (some [])) :=
  if_pos hw

/-- A read that finds no error is answered with its bytes, or with an error for poison (R268). -/
theorem State.stackServe_read {s : State} {r : StackReq} (hw : r.write = false) (he : r.err = .clean) :
    s.stackServe r = s.emit (.stack r.master r.addr (if (s.poisonedAt r.addr r.len).isSome then none else some (s.rd r.addr r.len))) := by
  have hfound : (s.forEach (s.unitsOf r.addr r.len) fun s u => s.unitFound u.1 u.2 .clean) = s := List.foldl_fixed' (fun _ => rfl) _
  rw [State.stackServe, if_neg (by rw [hw]; decide), he]
  dsimp only
  rw [hfound]

/-- Poison and memory read the same once a request is billed. -/
theorem State.billed_reads (s : State) (r : StackReq) (st a n : Nat) :
    (s.billed r st).poisonedAt a n = s.poisonedAt a n ∧ (s.billed r st).rd a n = s.rd a n := by
  rw [State.billed_eq]
  exact ⟨rfl, rfl⟩

/-- Settles O47: a request is answered with an error, waits, or is billed and served. -/
theorem stackRequests : Obligations.StackRequests := by
  unfold Obligations.StackRequests
  intro s r error inside st bytes b p served
  have herr : ∃ t, Host.Outcome.next (s.emit (.stack r.master r.addr none)) = (.next t : Result) ∧ error t := ⟨_, rfl, rfl⟩
  have hexec : exec (.stackRequest r) s = execStackRequest r s := rfl
  rw [hexec]
  refine ⟨fun h => ?_, fun h hf hl => ?_, fun h hf hl => ?_, fun h hf hr => ?_, ?_, ?_⟩
  · rw [execStackRequest_outside h]
    exact herr
  · rw [execStackRequest_in_refresh h hf, hl]
    rfl
  · rw [execStackRequest_in_refresh h hf, hl]
    exact herr
  · rw [execStackRequest_refused h hf hr]
    exact herr
  · rintro ⟨h, hf, hd, hr⟩ hw
    refine ⟨_, execStackRequest_served h hf hd hr, ?_⟩
    rw [State.stackServe_write hw]
    have hbytes := s.billed_bytes r st
    have hbill := s.billed_eq r st
    generalize s.billed r st = u at hbytes hbill
    refine ⟨?_, ?_, ?_, ?_⟩
    · rw [State.emit_mem]
      exact State.wr_mem_congr (by rw [hbill]) (by rw [hbill]) _ _
    · rw [State.emit, State.wr_out, hbill]
    · rw [State.objN, State.obj_emit, State.obj_wr]
      exact hbytes
    · rw [State.wr_eq, hbill]
      rfl
  · rintro ⟨h, hf, hd, hr⟩ hw he
    refine ⟨_, execStackRequest_served h hf hd hr, ?_⟩
    rw [State.stackServe_read hw he]
    obtain ⟨hpoison, hread⟩ := s.billed_reads r st r.addr r.len
    have hbill := s.billed_eq r st
    rw [hpoison, hread]
    refine ⟨?_, s.billed_bytes r st, State.billed_of_bucket, State.billed_of_pool, State.billed_of_neither, ?_⟩
    · rw [State.emit, hbill]
    · rw [hbill]
      rfl

end Sys2Proof.Machine
end

section
/-! The loss of a Twimi link that instances use, where one of them names a partition past the sixteen (O54). -/

namespace Sys2Proof.Machine

/-- Link 0 is up with 15 replays of one flit. Of the instances that use it number 1 exists and names partition 0x1870, whose objects `kPart 0x1870 sub` would be `kLink 0 sub`: those of the link. -/
def strayPartition : State :=
  { (((State.reset.setN (kLink 0 2) 2).setN (kInst 1 5 1) 0x80000000).setN (kInst 1 0 1) 1).setN (kInst 1 1 1) 0x1870 with
    links := [(0, ⟨0#64, 0, 15⟩)] }

/-- What a command leaves in the replay count of link 0. -/
def replaysAfter : Result → Option Nat
  | .next t => some (t.objN (kLink 0 4))
  | _ => none

theorem strayPartition_linkUp : strayPartition.objN (kLink 0 2) = 2 := by decide +kernel

theorem strayPartition_replays : strayPartition.objN (kLink 0 4) = 0 := by decide +kernel

/-- The 16th replay of the flit loses the link and so faults the user of the stray partition. The fault reads the link's state, 2, as that partition's mode and the replay count, 1, as its
holder, and releases the partition: the replay count takes the 0xff of a partition that nobody holds. -/
theorem replaysAfter_strayPartition : replaysAfter (exec (.flitReplay 0 true) strayPartition) = some 0xff := by decide +kernel

/-- Refutes O54: for every state its last clause has a replay counted once (R359) even where it loses the link, and in `strayPartition` the count goes from 0 to 0xff. The statement lacks the
premise that the instances name partitions 0 to 15 (R234); without it a fault writes the objects of a partition that does not exist, and those can be a link's. -/
theorem not_twimiLinks : ¬ Obligations.TwimiLinks := by
  unfold Obligations.TwimiLinks
  intro h
  obtain ⟨-, -, -, -, -, -, -, hreplay⟩ := h strayPartition 0
  obtain ⟨t, hexec, hcount, -⟩ := hreplay true strayPartition_linkUp
  have hone : t.objN (kLink 0 4) = (strayPartition.objN (kLink 0 4) + 1) % 2 ^ 32 := hcount
  have hafter := replaysAfter_strayPartition
  rw [hexec, replaysAfter, hone, strayPartition_replays] at hafter
  exact absurd hafter (by decide)

end Sys2Proof.Machine
end

section
/-! One step of the machine (O3, O4). -/

namespace Sys2Proof.Machine

/-- On a queue with a command at its front a step is that command. -/
theorem step_of_pending_cons {s : State} {c : Instr} {rest : List Instr} (h : s.pending = c :: rest) : step s = exec c { s with pending := rest } := by
  simp [step, h]

/-- Settles O4: by the two forms of the queue. -/
theorem stepRunsFrontCommand : Obligations.StepRunsFrontCommand := by
  unfold Obligations.StepRunsFrontCommand
  exact ⟨fun _ _ _ => step_of_pending_cons, fun _ => step_of_pending_nil⟩

/-- Settles O3: the queue, the output and the count of free values are among the facts that `step_keeps` shows of every step. -/
theorem stepTakesOneCommand : Obligations.StepTakesOneCommand := by
  unfold Obligations.StepTakesOneCommand
  intro s t hstep
  obtain ⟨hqueue, hfree, hout, -⟩ := step_keeps hstep
  exact ⟨hqueue, hout, hfree⟩

end Sys2Proof.Machine
end

section
/-! Every well-formed command goes on (O5): a command is the write of an object, an op word, a message toward the device, a CXOP request or an event. -/

namespace Sys2Proof.Machine

/-- The machine goes on after a command. -/
def GoesOn (r : Result) : Prop := ∃ t, r = .next t

theorem GoesOn.next (t : State) : GoesOn (.next t) := ⟨t, rfl⟩

theorem GoesOn.ite {c : Prop} [Decidable c] {a b : Result} (ha : GoesOn a) (hb : GoesOn b) : GoesOn (if c then a else b) := by
  split <;> assumption

/-! ### The shared forms of a command -/

section
variable (s : State)

theorem State.command_goesOn (src : Src) (idx sub : Nat) (v : Word64) (act : Requester → State → Except Nat State) : GoesOn (s.command src idx sub v act) := by
  unfold State.command
  split
  · exact .next _
  · refine .ite (.next _) (.ite (.next _) (.ite (.next _) ?_))
    split <;> exact .next _

theorem State.dispatch_goesOn (n : Nat) (op : OpWord) (fields : List (Nat × Nat)) (room : Bool) (body : Nat → State → State) :
    GoesOn (s.dispatch n op fields room body) :=
  .ite (.next _) (.ite (.next _) (.ite (.next _) (.ite (.next _) (.ite (.next _) (.next _)))))

theorem State.engineOp_goesOn (n : Nat) (op : OpWord) (fields : List (Nat × Nat)) : GoesOn (s.engineOp n op fields) := by
  unfold State.engineOp
  split
  · exact .next _
  · exact s.dispatch_goesOn ..

theorem State.message_goesOn (m kind : Nat) (act : Nat → State → State) : GoesOn (s.message m kind act) :=
  .ite (.next _) (.ite (.next _) (.next _))

theorem State.cxReceive_goesOn (r : CxReq) (kind : Nat) (body : State → State) : GoesOn (s.cxReceive r kind body) :=
  .ite (.next _) (.ite (.next _) (.next _))

end

/-! ### Which command has which form -/

/-- A command row is a write of its object with an effect of its own. -/
theorem exec_of_commandTarget {c : Instr} {src : Src} {idx sub : Nat} {v : Word64} (h : commandTarget c = some (src, idx, sub, v)) (s : State) :
    ∃ act, exec c s = s.command src idx sub v act := by
  cases c <;> cases h <;> delta exec <;> dsimp only [
    execCommitWrite, execXferCopy, execXferLoad, execStore, execDomainSwitch, execSetpointWrite, execKvCreate, execKvRelease, execKvTruncate,
    execKvPrebind, execReplace, execInstCreate, execInstDestroy, execInstFreeze, execInstThaw, execInstSaveImage, execInstRestoreImage,
    execInstRecover, execInstOrphan, execAcctReset, execGuaranteeWrite, execSafetyClassesWrite, execStreamEnable, execRingTailWrite, execResume,
    execTxTailWrite, execRxTailWrite, execTsReadWrite, execRestart, execPweClear, execHostRelease, execRollbackCommit, execFwRestart, execSafeRequest,
    execSafeExit, execSelftestRequest, execStrataTrigger, execStrataClear, execCopyout, execPowerRequestOn, execPowerRequestDrowse,
    execPowerRequestSentry, execPowerRequestOff, execPadRelease, execDvfsRequest,
    State.kvWrite, State.instCommand, State.powerCommand] <;> exact ⟨_, rfl⟩

/-- An op word of an assigned opcode is dispatched, to the controller or to an engine's queue. -/
theorem exec_of_opForm {c : Instr} {n : Fin 16} {op : OpWord} {fields : List (Nat × Nat)} (h : opForm c = some (n, op, fields)) (s : State) :
    exec c s = s.engineOp n op fields ∨ ∃ room body, exec c s = s.dispatch n op fields room body := by
  cases c <;> cases h <;> first | exact .inl rfl | refine .inr ?_
  all_goals
    delta exec
    dsimp only [
      execNop, execHalt, execBr, execLoop, execFence, execSmovi, execSalu, execScmp, execPset, execSld, execSst, execDesc, execDadd, execSeed,
      execSignal, execWait, execAopen, execAclose,
      State.ctlOp]
    exact ⟨_, _, rfl⟩

/-- A message toward the device is consumed and then handled. -/
theorem exec_of_msgForm {c : Instr} {m : Fin 16} {kind : Nat} (h : msgForm c = some (m, kind)) (s : State) :
    ∃ act, exec c s = s.message m kind act := by
  cases c <;> cases h <;> delta exec <;> dsimp only [execLoad, execUnload, execRun, execDirect, execCancel, execHeartbeat, execAttach] <;> exact ⟨_, rfl⟩

/-- The request of each command that is a CXOP request, and the kind that the command answers (Table 2-5). -/
def cxForm : Instr → Option (CxReq × Nat)
  | .read r => some (r, 1)
  | .write r => some (r, 2)
  | .readBlock r => some (r, 3)
  | .writeBlock r => some (r, 4)
  | .commit r => some (r, 5)
  | .subscribe r => some (r, 6)
  | .open_ r => some (r, 9)
  | .prove r => some (r, 10)
  | .close r => some (r, 11)
  | _ => none

/-- A CXOP request is received and then handled. -/
theorem exec_of_cxForm {c : Instr} {r : CxReq} {kind : Nat} (h : cxForm c = some (r, kind)) (s : State) :
    ∃ body, exec c s = s.cxReceive r kind body := by
  cases c <;> cases h <;> delta exec <;> dsimp only [execRead, execWrite, execReadBlock, execWriteBlock, execCommit, execSubscribe, execOpen, execProve, execClose,
    State.cxRequest] <;> exact ⟨_, rfl⟩

theorem exec_windowWrite_goesOn {src : Src} {addr size : Nat} {v : Word64} (h : windowAccess addr size = true) (s : State) :
    GoesOn (exec (.windowWrite src addr size v) s) := by
  have hin : ¬ (addr < 0xf800000000 ∨ 0xf808000000 ≤ addr) := by
    simp only [windowAccess, Bool.and_eq_true, Bool.or_eq_true, decide_eq_true_eq, beq_iff_eq] at h
    omega
  delta exec
  dsimp only
  unfold execWindowWrite
  rw [if_neg hin]
  exact .ite (.next _) (s.command_goesOn ..)

theorem exec_reservedOpcode_goesOn {n : Fin 16} {w : OpWord} (h : assignedOpcodes.contains (opcodeOf w) = false) (s : State) :
    GoesOn (exec (.reservedOpcode n w) s) := by
  delta exec
  dsimp only
  unfold execReservedOpcode
  rw [h, if_neg Bool.false_ne_true]
  exact .ite (.next _) (.ite (.next _) (.next _))

/-- An event is a tree of tests whose leaves all go on. -/
theorem exec_goesOn {c : Instr} (h : c.wf = true) (s : State) : GoesOn (exec c s) := by
  rcases hwrite : commandTarget c with _ | ⟨src, idx, sub, v⟩
  case some =>
    obtain ⟨act, e⟩ := exec_of_commandTarget hwrite s
    exact e ▸ s.command_goesOn ..
  rcases hop : opForm c with _ | ⟨n, op, fields⟩
  case some =>
    rcases exec_of_opForm hop s with e | ⟨room, body, e⟩
    · exact e ▸ s.engineOp_goesOn ..
    · exact e ▸ s.dispatch_goesOn ..
  rcases hmsg : msgForm c with _ | ⟨m, kind⟩
  case some =>
    obtain ⟨act, e⟩ := exec_of_msgForm hmsg s
    exact e ▸ s.message_goesOn ..
  rcases hcx : cxForm c with _ | ⟨r, kind⟩
  case some =>
    obtain ⟨body, e⟩ := exec_of_cxForm hcx s
    exact e ▸ s.cxReceive_goesOn ..
  cases c
  case windowWrite =>
    simp only [Instr.wf, Bool.and_eq_true] at h
    exact exec_windowWrite_goesOn h.2 s
  case reservedOpcode =>
    simp only [Instr.wf, Bool.not_eq_true'] at h
    exact exec_reservedOpcode_goesOn h s
  all_goals cases hwrite <;> cases hop <;> cases hmsg <;> cases hcx
  all_goals
    delta exec
    dsimp only
    delta
      execCommitApply execXferEnd execStoreWriteEnd execConfigImageLoad execOpenProveTimeout execSessionIdleTimeout execServoUpdate
      execDomainSlewEnd execGrandmasterLost execGrandmasterReselected execHoldoverExpiry execDomainLock execSelectedSlewEnd execCadenceNone
      execStartJob execAssayCapture execLaunchFrame execLodestoneSample execTrigger execPublish execServiceSlot execTriggerWidthEnd
      execLodestoneResult execLodestoneOutput execPebbleOp execWaitGranted execDrainSignalApply execSlabOpStart execOpComplete
      execWatchdogExpiry execInstanceFault execDebugHalt execDebugStep execDebugRelease execMboxFromClear execReplacementJob
      execShrinkGraceExpiry execInvocationStart execAssayTimeout execLedgerDeadlock execOutputRelease execPreempt execSaveComplete execSliceEnd
      execSlotPreempt execInvocationComplete execZeroingEnd execHeartbeatTimeout execStackRequest execBucketRefill execPatrolScrub
      execStackTempRead execFrameStart execLineStart execLongPacket execFrameEnd execBlankVerdict execPassComplete execPipeLatch
      execRegionCheck execDisplayPreempt execFrameReceive execFrameTransmit execLinkChange execT1sFrameReceive execBeaconLoss
      execCanFrameReceive execCanTransmit execBusOffRecovery execWake execOutboundRead execOutboundWrite execFetchComplete execFetchHoldExpiry
      execReadTimeout execDeadlockYield execInboundRequest execPostedWriteFault execLinkTrain execTrainRetry execFlitReplay execTwimiLinkLoss
      execMret execXworldWrite execFwUpdate execAttestationRead execComponentFault execProcessorRestart execNoticeRepeat execGraniteHeartbeat
      execIslandWatchdogExpiry execIslandHwWatchdogExpiry execTimebaseCrossCheck execClockMonitorFault execDtiExpiry execGoldenLate
      execStrataRecordWrite execCopyoutEnd execPowerGoodRise execSvcImageWrite execPowerGoodFall execHeldRequestRelease execIdleEntry
      execIdleExit execDrowseExit execSentryExit execThrottleStep execThermalTrip execAgeingMeasure execRailEnableTimeout execRailFault
      execPcieLinkChange execHotPlugDetect execCsi2PortStateChange execPlcaBeaconReturn execT1sTransmit execLineScanOut
    repeat' first | exact .next _ | refine .ite ?_ ?_ | split | extract_lets

/-- Settles O5: by the form of the command; the only two faults are those of operands that are not well formed. -/
theorem wellFormedCommandsGoOn : Obligations.WellFormedCommandsGoOn := by
  unfold Obligations.WellFormedCommandsGoOn
  exact fun _ s h => exec_goesOn h s

end Sys2Proof.Machine
end

section
/-! Contexts (R31), refused writes (R36, R38), and the checks of a write in their order (O8, O9). -/

namespace Sys2Proof.Machine

/-! ### What a context holds after a write to one -/

/-- A window role context: any but a session's (R31). -/
abbrev WindowCtx (c : Ctx) : Prop := ∀ sid, c ≠ .session sid

theorem State.setCtx_of_window {c : Ctx} (h : WindowCtx c) (s : State) (x : CtxSt) :
    s.setCtx c x = { s with ctxs := TMap.set (fun _ => CtxSt.empty) s.ctxs (ctxKey c) x } := by
  cases c with
  | session sid => exact absurd rfl (h sid)
  | _ => rfl

theorem State.ctx_of_window {c : Ctx} (h : WindowCtx c) (s : State) : s.ctx c = TMap.get (fun _ => CtxSt.empty) s.ctxs (ctxKey c) := by
  cases c with
  | session sid => exact absurd rfl (h sid)
  | _ => rfl

theorem State.ctx_setCtx_self {c : Ctx} (h : WindowCtx c) (s : State) (x : CtxSt) : (s.setCtx c x).ctx c = x := by
  rw [State.setCtx_of_window h, State.ctx_of_window h, TMap.get_set, if_pos rfl]

theorem State.ctx_setCtx_of_ne {c k : Ctx} (h : ctxKey k ≠ ctxKey c) (hc : WindowCtx c) (s : State) (x : CtxSt) : (s.setCtx c x).ctx k = s.ctx k := by
  rw [State.setCtx_of_window hc]
  cases k with
  | session sid => rfl
  | _ => exact (TMap.get_set ..).trans (if_neg h.symm)

/-! ### The latch of a window context (R38) -/

/-- What a context shows of a refused write: the error, the object and one more of the count (R38). -/
def CtxSt.latched (x : CtxSt) (err idx sub : Nat) : CtxSt :=
  { x with windowStatus := BitVec.ofNat 64 (err * 2 ^ 32 + idx * 2 ^ 16 + sub * 2 ^ 8 + min 255 (fld x.windowStatus 7 0 + 1)) }

theorem State.latch_session (s : State) (sid err idx sub : Nat) : s.latch (.session sid) err idx sub = s := rfl

theorem State.latch_of_window {c : Ctx} (h : WindowCtx c) (s : State) (err idx sub : Nat) :
    s.latch c err idx sub = s.setCtx c ((s.ctx c).latched err idx sub) := by
  cases c with
  | session sid => exact absurd rfl (h sid)
  | _ => rfl

/-- A latch touches contexts alone. -/
theorem State.latch_eq (s : State) (c : Ctx) (err idx sub : Nat) : s.latch c err idx sub = { s with ctxs := (s.latch c err idx sub).ctxs } := by
  cases c <;> rfl

theorem State.ctx_latch_of_ne {c k : Ctx} (h : ctxKey k ≠ ctxKey c) (s : State) (err idx sub : Nat) : (s.latch c err idx sub).ctx k = s.ctx k := by
  by_cases hc : WindowCtx c
  · rw [State.latch_of_window hc, State.ctx_setCtx_of_ne h hc]
  · obtain ⟨sid, rfl⟩ := not_forall_not.1 hc
    rfl

theorem State.ctx_latch_self {c : Ctx} (h : WindowCtx c) (s : State) (err idx sub : Nat) : (s.latch c err idx sub).ctx c = (s.ctx c).latched err idx sub := by
  rw [State.latch_of_window h, State.ctx_setCtx_self h]

/-! ### The outcomes of a command row (R463) -/

section
variable {s : State} {src : Src} {r : Requester} {idx sub : Nat} {v : Word64} {act : Requester → State → Except Nat State}

/-- Refused at steps 1-3: only the access completes, with an error. -/
theorem State.command_refused (h : s.requester src = none ∨ ∃ r, s.requester src = some r ∧ s.access r idx sub true ≠ 0 ∧ s.access r idx sub true ≠ 0x000B) :
    s.command src idx sub v act = .next (s.refuseAccess src (windowAddr idx sub)) := by
  unfold State.command
  rcases h with h | ⟨r, h, h0, hb⟩
  · rw [h]
  · simp only [h, if_neg hb, if_pos h0]

/-- Refused at steps 4-6, or the unit is off: latched. -/
theorem State.command_latched {e : Nat} (h : s.requester src = some r)
    (he : s.access r idx sub true = 0x000B ∧ e = 0x000B ∨ s.access r idx sub true = 0 ∧ s.writeCheck idx sub v = e ∧ e ≠ 0) :
    s.command src idx sub v act = .next (s.latch r.ctx e idx sub) := by
  unfold State.command
  simp only [h]
  rcases he with ⟨ha, rfl⟩ | ⟨ha, rfl, hw⟩
  · rw [if_pos ha]
  · rw [if_neg (by rw [ha]; decide), if_neg (by rw [ha]; decide), if_pos hw]

/-- Accepted: the command has its effect, or the error that its listing names is latched. -/
theorem State.command_ok {t : State} (h : s.accepts src r idx sub v) (ht : act r s = .ok t) : s.command src idx sub v act = .next t := by
  obtain ⟨hr, ha, hw⟩ := h
  simp only [State.command, hr, ha, hw, ht]
  rfl

theorem State.command_error {e : Nat} (h : s.accepts src r idx sub v) (ht : act r s = .error e) :
    s.command src idx sub v act = .next (s.latch r.ctx e idx sub) := by
  obtain ⟨hr, ha, hw⟩ := h
  simp only [State.command, hr, ha, hw, ht]
  rfl

end

/-- Settles O8: every command row is a `State.command`, and the outcome of a refused one does not depend on what the command would do. -/
theorem refusedCommandHasNoEffect : Obligations.RefusedCommandHasNoEffect := by
  unfold Obligations.RefusedCommandHasNoEffect
  intro c src idx sub v s hc
  obtain ⟨act, hexec⟩ := exec_of_commandTarget hc s
  rw [hexec]
  constructor
  · intro h
    rw [State.command_refused h]
    cases src <;> rfl
  · intro r e hr he
    refine ⟨_, State.command_latched hr he, State.latch_eq .., fun k hk => State.ctx_latch_of_ne hk .., ?_, fun h => State.ctx_latch_self h ..⟩
    rintro ⟨sid, hsid⟩
    rw [hsid, State.latch_session]

/-! ### The order of the checks (R463) -/

section
variable {s : State} {r : Requester} {idx sub : Nat} {wr : Bool} {row : ObjRow} {v : Word64}

theorem State.access_of_secure (hr : r.secure = false) (hi : s.secureIndex idx = true) : s.access r idx sub wr = 0x0004 := by
  rw [State.access, hr, hi]
  rfl

/-- Past the check of worlds. -/
theorem State.access_past_worlds (h : r.secure = true ∨ s.secureIndex idx = false) :
    s.access r idx sub wr = if maxSub idx = 0 then 0x0001 else if maxSub idx < sub then 0x0002
      else if s.rights r.role idx sub < (if wr then 2 else 1) || narrowed r.role idx sub wr then 0x0003 else if s.unitOff idx then 0x000B else 0 := by
  have hw : (!r.secure && s.secureIndex idx) = false := by rcases h with h | h <;> simp [h]
  rw [State.access, hw, if_neg Bool.false_ne_true]

theorem State.writeCheck_of_ro (hrow : objRow? idx sub = some row) (h : row.acc = .ro) : s.writeCheck idx sub v = 0x0015 := by
  simp only [State.writeCheck, hrow, h, true_or, or_true, if_true]

/-- Past the check of the access code. -/
theorem State.writeCheck_past_access (hrow : objRow? idx sub = some row) (hacc : row.acc ≠ .ro) (hty : row.ty ≠ .domain)
    (hshown : shownGuarantee idx sub = false) (hsub : sub ≠ 0) :
    s.writeCheck idx sub v = if s.locked row idx sub then 0x0005 else if !row.encOk v then 0x0006 else if row.acc = .rwc then 0
      else if row.valueOk idx sub v then 0 else 0x0007 := by
  simp only [State.writeCheck, hrow, hsub, hacc, hty, hshown, Bool.false_eq_true, or_self, if_false]

end

/-- Settles O9: each check is passed before the next one is made. -/
theorem checksComeInOrder : Obligations.ChecksComeInOrder := by
  unfold Obligations.ChecksComeInOrder
  intro s r idx sub v wr
  refine ⟨State.access_of_secure, fun hworld => ?_, fun row hrow h => State.writeCheck_of_ro hrow h, fun row hrow hacc hty hshown hsub => ?_⟩
  · rw [State.access_past_worlds hworld]
    refine ⟨fun h => if_pos h, fun h0 h => ?_, fun h0 h hrights => ?_⟩
    · rw [if_neg h0, if_pos h]
    · rw [if_neg h0, if_neg (Nat.not_lt.2 h), if_pos (by rw [decide_eq_true hrights, Bool.true_or])]
  · rw [State.writeCheck_past_access hrow hacc hty hshown hsub]
    refine ⟨fun h => if_pos h, fun hl he => ?_, fun hl he hrwc hval => ?_⟩
    · rw [hl, he]
      rfl
    · rw [hl, he, hval, if_neg hrwc]
      rfl

end Sys2Proof.Machine
end

section
/-! Writes of the object window (O10). -/

namespace Sys2Proof.Machine

/-! ### What a plain write changes (R30, R464) -/

theorem State.onlyObjs_refl (s : State) (ks : List Nat) : s.onlyObjs s ks := ⟨rfl, fun _ _ => rfl, fun _ => rfl⟩

theorem State.onlyObjs_setObj (s : State) (k : Nat) (v : Word64) : s.onlyObjs (s.setObj k v) [k] := by
  refine ⟨rfl, fun j hj => ?_, fun a => State.byte_setObj ..⟩
  rw [State.obj_setObj, if_neg]
  rintro rfl
  exact hj (List.mem_singleton_self k)

theorem State.plainWrite_onlyObjs (s : State) (idx sub : Nat) (v : Word64) : s.onlyObjs (s.plainWrite idx sub v) [okey idx sub] := by
  unfold State.plainWrite
  split
  · exact s.onlyObjs_refl _
  · split <;> exact s.onlyObjs_setObj ..

section
variable {idx sub : Nat} {row : ObjRow} (hrow : objRow? idx sub = some row) (s : State) (v : Word64)
include hrow

theorem State.plainWrite_of_plain (hwk : row.wk = .plain) : (s.plainWrite idx sub v).obj (okey idx sub) = v := by
  simp [State.plainWrite, hrow, hwk]

theorem State.plainWrite_of_evt {mask : Nat} (hwk : row.wk = .evt mask) :
    (s.plainWrite idx sub v).obj (okey idx sub) = s.obj (okey idx sub) &&& (v ||| ~~~(BitVec.ofNat 64 mask)) := by
  simp [State.plainWrite, hrow, hwk]

/-! ### What an accepted write does (R31) -/

theorem State.writeObj_of_applied (hacc : row.acc ≠ .rwc) (src : Src) (r : Requester) : s.writeObj src r idx sub v = s.applyWrite src r idx sub v := by
  simp only [State.writeObj, hrow, if_neg hacc]

theorem State.writeObj_of_staged (hacc : row.acc = .rwc) {r : Requester} (hworld : s.worldField r idx sub v = false) (src : Src) :
    s.writeObj src r idx sub v = s.tried (s.stage r.ctx ⟨okey idx sub, v, []⟩) := by
  simp only [State.writeObj, hrow, if_pos hacc, hworld, Bool.false_eq_true, if_false]

end

/-- A first entry for its object joins the staging set while that has room (R31). -/
theorem State.stage_new {s : State} {c : Ctx} {x : Staged} (hroom : (s.ctx c).staging.length < 256) (hnew : ∀ y ∈ (s.ctx c).staging, y.key ≠ x.key) :
    s.stage c x = .ok (s.setCtx c { s.ctx c with staging := (s.ctx c).staging ++ [x] }) := by
  have hany : ((s.ctx c).staging.any fun z => decide (z.key = x.key)) = false := by simpa using hnew
  rw [State.stage]
  simp only [hany, Bool.false_eq_true, if_false]
  rw [if_neg (by omega)]

/-! ### The access (R36) -/

/-- An access of another size or alignment completes with an error, and does nothing (R16, R36). -/
theorem exec_windowWrite_misshapen {src : Src} {addr size : Nat} {v : Word64} (hlo : 0xf800000000 ≤ addr) (hhi : addr < 0xf808000000)
    (h : size ≠ 8 ∨ addr % 8 ≠ 0) (s : State) : exec (.windowWrite src addr size v) s = .next (s.refuseAccess src addr) := by
  have hexec : exec (.windowWrite src addr size v) s = execWindowWrite src addr size v s := rfl
  rw [hexec, execWindowWrite, if_neg (by omega), if_pos h]

/-- The aligned access at an object's address is a write of that object (R36). -/
theorem exec_windowWrite_object {idx sub : Nat} (hidx : idx < 0x10000) (hsub : sub < 0x100) (src : Src) (v : Word64) (s : State) :
    exec (.windowWrite src (0xf800000000 + idx * 0x800 + sub * 8) 8 v) s = s.command src idx sub v fun r s =>
      .ok (if (s.writeObj src r idx sub v).2 = 0 then (s.writeObj src r idx sub v).1 else (s.writeObj src r idx sub v).1.latch r.ctx (s.writeObj src r idx sub v).2 idx sub) := by
  have hexec : exec (.windowWrite src (0xf800000000 + idx * 0x800 + sub * 8) 8 v) s = execWindowWrite src (0xf800000000 + idx * 0x800 + sub * 8) 8 v s := rfl
  have hi : (0xf800000000 + idx * 0x800 + sub * 8 - 0xf800000000) / 0x800 = idx := by omega
  have hs : (0xf800000000 + idx * 0x800 + sub * 8 - 0xf800000000) % 0x800 / 8 = sub := by omega
  rw [hexec, execWindowWrite, if_neg (by omega), if_neg (by omega)]
  dsimp only
  rw [hi, hs]

/-- An accepted window write that its object takes leaves what the object made of it. -/
theorem exec_windowWrite_ok {s t : State} {src : Src} {r : Requester} {idx sub : Nat} {v : Word64} (hidx : idx < 0x10000) (hsub : sub < 0x100)
    (h : s.accepts src r idx sub v) (ht : s.writeObj src r idx sub v = (t, 0)) :
    exec (.windowWrite src (0xf800000000 + idx * 0x800 + sub * 8) 8 v) s = .next t := by
  rw [exec_windowWrite_object hidx hsub]
  exact State.command_ok h (by rw [ht]; rfl)

/-- Settles O10: by the shape of the access and then the access code of the object. -/
theorem windowWrites : Obligations.WindowWrites := by
  unfold Obligations.WindowWrites
  constructor
  · intro s src addr size v hlo hhi h hsrc
    rw [exec_windowWrite_misshapen hlo hhi h]
    cases src with
    | cxop sid => exact absurd rfl (hsrc sid)
    | _ => rfl
  · intro s src idx sub v r row hidx hsub hacc hrow
    constructor
    · intro hrwc happly
      have hwrite : s.writeObj src r idx sub v = (s.plainWrite idx sub v, 0) := (s.writeObj_of_applied hrow v hrwc src r).trans happly
      exact ⟨_, exec_windowWrite_ok hidx hsub hacc hwrite, s.plainWrite_onlyObjs .., s.plainWrite_of_plain hrow v, fun mask => s.plainWrite_of_evt hrow v⟩
    · intro hrwc hworld hroom hnew
      refine exec_windowWrite_ok hidx hsub hacc ?_
      rw [s.writeObj_of_staged hrow v hrwc hworld, State.stage_new hroom hnew]
      rfl

end Sys2Proof.Machine
end

section
/-! Transfers between a DOMAIN and a buffer (O12). -/

namespace Sys2Proof.Machine

/-! ### Two stored runs side by side -/

theorem State.rd_add (s : State) (a m n : Nat) : s.rd a (m + n) = s.rd a m ++ s.rd (a + m) n := by
  simp only [State.rd, List.range_add, List.map_append, List.map_map, Function.comp_def, Nat.add_assoc]

theorem State.rd_length (s : State) (a n : Nat) : (s.rd a n).length = n := by
  simp [State.rd]

/-- Of a run stored above 0x40_0000_0000 and short of the remote windows each part reads back. -/
theorem State.rd_wr_append (s : State) (a : Nat) (xs ys : List Byte) (h : 0x4000000000 ≤ a) (hn : a + (xs.length + ys.length) ≤ 0x10000000000) :
    (s.wr a (xs ++ ys)).rd a xs.length = xs ∧ (s.wr a (xs ++ ys)).rd (a + xs.length) ys.length = ys := by
  have e := s.rd_wr_high a (xs ++ ys) h (by rw [List.length_append]; exact hn)
  rw [List.length_append, State.rd_add] at e
  exact List.append_inj e (State.rd_length ..)

/-! ### The start of a transfer (R465) -/

section
variable {s : State} {r : Requester}

theorem State.startCopyOut_busy (h : (s.ctx r.ctx).xfer.isSome = true) : s.startCopyOut r = .error 0x000B :=
  if_pos h

theorem State.startLoad_busy (h : (s.ctx r.ctx).xfer.isSome = true) : s.startLoad r = .error 0x000B :=
  if_pos h

theorem State.startCopyOut_ok {u : State} {bs : List Byte} (hidle : (s.ctx r.ctx).xfer = none)
    (hcheck : s.domReadCheck r (s.ctx r.ctx).target.1 (s.ctx r.ctx).target.2 = 0)
    (hcontents : s.domContents r.ctx (s.ctx r.ctx).target.1 (s.ctx r.ctx).target.2 = .ok (u, bs)) :
    s.startCopyOut r = .ok (u.xferRuns r.ctx ⟨false, okey (s.ctx r.ctx).target.1 (s.ctx r.ctx).target.2, (s.ctx r.ctx).xferBuffer.toNat, bs,
      if u.contextMay r (s.ctx r.ctx).xferBuffer.toNat (8 + bs.length) true then 0 else 0x0003⟩) := by
  simp only [State.startCopyOut, hidle, hcheck, hcontents]
  cases u.contextMay r (s.ctx r.ctx).xferBuffer.toNat (8 + bs.length) true <;> rfl

theorem State.startLoad_ok (hidle : (s.ctx r.ctx).xfer = none)
    (hcheck : s.domWriteCheck r (s.ctx r.ctx).target.1 (s.ctx r.ctx).target.2 (s.rdN (s.ctx r.ctx).xferBuffer.toNat 4) = 0) :
    let buf := (s.ctx r.ctx).xferBuffer.toNat
    let n := s.rdN buf 4
    let ok := s.contextMay r buf 8 false && s.contextMay r buf (8 + n) false
    s.startLoad r = .ok (s.xferRuns r.ctx ⟨true, okey (s.ctx r.ctx).target.1 (s.ctx r.ctx).target.2, buf, if ok then s.rd (buf + 8) n else [], if ok then 0 else 0x0003⟩) := by
  intro buf n ok
  have hstart : s.startLoad r = .ok (s.xferRuns r.ctx ⟨true, okey (s.ctx r.ctx).target.1 (s.ctx r.ctx).target.2, buf,
      if (if !s.contextMay r buf 8 false then 0x0003 else if !s.contextMay r buf (8 + n) false then 0x0003 else 0) = 0 then s.rd (buf + 8) n else [],
      if !s.contextMay r buf 8 false then 0x0003 else if !s.contextMay r buf (8 + n) false then 0x0003 else 0⟩) := by
    simp only [State.startLoad, hidle, hcheck, buf, n]
    rfl
  rw [hstart]
  rcases hhead : s.contextMay r buf 8 false with _ | _
  · simp only [ok, hhead]
    rfl
  · rcases hall : s.contextMay r buf (8 + n) false with _ | _ <;> simp only [ok, hhead, hall] <;> rfl

end

/-! ### The end of a transfer (R465) -/

theorem exec_xferEnd {s : State} {c : Ctx} {x : Xfer} (h : (s.ctx c).xfer = some x) : exec (.xferEnd c) s
    = .next ((s.xferEffect c x).1.setCtx c { (s.xferEffect c x).1.ctx c with
        xfer := none, xferStatus := if (s.xferEffect c x).2 = 0 then 2#64 else BitVec.ofNat 64 ((s.xferEffect c x).2 * 2 ^ 16 + 3) }) := by
  have hexec : exec (.xferEnd c) s = execXferEnd c s := rfl
  rw [hexec, execXferEnd, h]

theorem State.xferEffect_failed {s : State} {c : Ctx} {x : Xfer} (h : x.err ≠ 0) : s.xferEffect c x = (s, x.err) := if_pos h

theorem State.xferEffect_copy {s : State} {c : Ctx} {x : Xfer} (h : x.err = 0) (hl : x.load = false) :
    s.xferEffect c x = (s.deliver x.buf (leBytes 4 x.bytes.length ++ leBytes 4 0 ++ x.bytes), 0) := by
  simp [State.xferEffect, h, hl]

theorem State.xferEffect_load {s : State} {c : Ctx} {x : Xfer} (h : x.err = 0) (hl : x.load = true) :
    s.xferEffect c x = s.putDomain (s.ctxRequester c) (x.key / 256) (x.key % 256) x.bytes := by
  simp [State.xferEffect, h, hl]

theorem ite_ne_of {α : Type} {p : Prop} [Decidable p] {a b c : α} (ha : p → a ≠ c) (hb : b ≠ c) : (if p then a else b) ≠ c := by
  split
  · exact ha ‹_›
  · exact hb

/-- Below 0x100_0000_0000 no address belongs to a joined device (Table 1-2). -/
theorem unitOf_ne_remote (a k : Nat) (h : a < 0x10000000000) : unitOf a ≠ some (.remote k) := by
  unfold unitOf
  repeat' refine ite_ne_of (fun hin => ?_) ?_
  all_goals first | omega | exact fun e => by cases e

theorem State.deliver_here {s : State} {a : Nat} (h : a < 0x10000000000) (bs : List Byte) : s.deliver a bs = s.wr a bs := by
  unfold State.deliver
  split
  · exact absurd ‹_› (unitOf_ne_remote a _ h)
  · rfl

/-- A DOMAIN with no behaviour of its own takes its value (R29). -/
theorem State.putDomain_plain {s : State} {r : Requester} {idx sub : Nat} {bs : List Byte} {row : ObjRow} (hrow : objRow? idx sub = some row)
    (hacc : row.acc ≠ .rwc) (hconfig : idx ≠ 0x1012) (hfw : idx ≠ 0x7808) (hsa : idx < 0x6070 ∨ 0x607c ≤ idx) (hinst : instOff idx = none) :
    s.putDomain r idx sub bs = (s.setDom (okey idx sub) bs, 0) := by
  simp only [State.putDomain, hrow, if_neg hacc, if_neg hconfig, if_neg hfw, hinst]
  rw [if_neg (by omega)]

theorem okey_div_mod (k : Nat) : okey (k / 256) (k % 256) = k := by
  unfold okey; omega

/-- What a copy leaves: its header, its bytes, and nothing else (R465). -/
theorem State.wr_copy {s : State} {a : Nat} {bs : List Byte} (h : 0x4000000000 ≤ a) (hn : a + 8 + bs.length ≤ 0x10000000000) :
    let t := s.wr a (leBytes 4 bs.length ++ leBytes 4 0 ++ bs)
    t.rdN a 4 = bs.length % 2 ^ 32 ∧ t.rd (a + 8) bs.length = bs ∧ ∀ j, (j < a ∨ a + 8 + bs.length ≤ j) → t.byte j = s.byte j := by
  have h4 : (leBytes 4 bs.length).length = 4 := leBytes_length ..
  have h8 : (leBytes 4 bs.length ++ leBytes 4 0).length = 8 := by rw [List.length_append, leBytes_length, leBytes_length]
  refine ⟨?_, ?_, fun j hj => ?_⟩
  · have hlen := (s.rd_wr_append a (leBytes 4 bs.length) (leBytes 4 0 ++ bs) h (by rw [List.length_append, leBytes_length, leBytes_length]; omega)).1
    rw [h4, ← List.append_assoc] at hlen
    rw [State.rdN, hlen, leNat_leBytes]
    norm_num
  · have hbytes := (s.rd_wr_append a (leBytes 4 bs.length ++ leBytes 4 0) bs h (by rw [h8]; omega)).2
    rwa [h8] at hbytes
  · exact s.byte_wr_high a j _ h (by rw [List.length_append, h8]; omega)

/-- Settles O12: a transfer starts by what its command finds, and ends by what it took then. -/
theorem transfersMoveDomains : Obligations.TransfersMoveDomains := by
  unfold Obligations.TransfersMoveDomains
  intro s src r
  have hcopy : exec (.xferCopy src) s = s.command src 0x1005 3 1#64 fun r s => s.startCopyOut r := rfl
  have hload : exec (.xferLoad src) s = s.command src 0x1005 3 2#64 fun r s => s.startLoad r := rfl
  refine ⟨fun h hbusy => ?_, fun h hbusy => ?_, ⟨fun h hidle hcheck u bs hcontents => ?_, ?_⟩, fun c x hx hwin => ?_⟩
  · rw [hcopy, State.command_error h (State.startCopyOut_busy hbusy)]
  · rw [hload, State.command_error h (State.startLoad_busy hbusy)]
  · rw [hcopy, State.command_ok h (State.startCopyOut_ok hidle hcheck hcontents)]
    rfl
  · intro h hidle n hcheck ok
    rw [hload, State.command_ok h (State.startLoad_ok hidle hcheck)]
    rfl
  · rw [exec_xferEnd hx]
    refine ⟨fun herr => ?_, fun herr hl hlo hhi => ⟨_, rfl, ?_⟩, fun herr hl row hrow hacc hconfig hfw hsa hinst => ⟨_, rfl, ?_⟩⟩
    · rw [State.xferEffect_failed herr, if_neg herr]
    · rw [State.xferEffect_copy herr hl, State.deliver_here (by omega)]
      dsimp only
      rw [State.ctx_setCtx_self hwin, State.setCtx_of_window hwin, if_pos rfl]
      obtain ⟨hlen, hbytes, hrest⟩ := s.wr_copy hlo hhi
      refine ⟨rfl, rfl, hlen, hbytes, hrest, ?_⟩
      rw [State.wr_eq]
    · rw [State.xferEffect_load herr hl, State.putDomain_plain hrow hacc hconfig hfw hsa hinst, okey_div_mod]
      dsimp only
      rw [State.ctx_setCtx_self hwin, State.setCtx_of_window hwin, if_pos rfl]
      refine ⟨rfl, rfl, ?_, fun k hk => ?_, rfl⟩
      · exact (State.dom_setDom ..).trans (if_pos rfl)
      · exact (State.dom_setDom ..).trans (if_neg (Ne.symm hk))

end Sys2Proof.Machine
end

section
/-! A configuration image (O14). -/

namespace Sys2Proof.Machine

/-! ### The load of an image (R51) -/

section
variable {s : State} {c : Ctx} {bs : List Byte} (hjob : s.storeJob = none) (hruns : s.fwRuns 0 = true)
include hjob hruns

/-- The security core runs and no store write is in progress. -/
theorem State.configLoad_ready : (s.storeJob.isSome || !s.fwRuns 0) = false := by
  rw [hjob, hruns]
  rfl

/-- An image whose form, check word or signature fails. -/
theorem State.configLoad_unsigned (h : s.imageRecords bs = none) : s.configLoad c bs = (s, 0x0013) := by
  rw [State.configLoad, State.configLoad_ready hjob hruns, h]
  rfl

/-- An image with a record that can be no entry. -/
theorem State.configLoad_unfit {rs : List Rec} (h : s.imageRecords bs = some rs) (hfit : rs.all s.imageRecordOk = false) :
    s.configLoad c bs = (s, 0x0009) := by
  rw [State.configLoad, State.configLoad_ready hjob hruns, h]
  simp only [hfit]
  rfl

/-- An image whose records are all committed objects is their commit, and then a store. -/
theorem State.configLoad_committed {rs : List Rec} {u v : State} (h : s.imageRecords bs = some rs) (hfit : rs.all s.imageRecordOk = true)
    (hrwc : ∀ x ∈ rs, ∃ row, objRow? x.idx x.sub = some row ∧ row.acc = .rwc)
    (hset : s.applySet ⟨.secureFw, true, c⟩ (rs.filterMap fun x => (objRow? x.idx x.sub).map x.staged) = .ok u) (hstore : u.storeStart = .ok v) :
    s.configLoad c bs = (v, 0) := by
  have hrow : ∀ x ∈ rs, ((objRow? x.idx x.sub).filter fun row => row.acc = .rwc) = objRow? x.idx x.sub := by
    intro x hx
    obtain ⟨row, e, hacc⟩ := hrwc x hx
    simp [e, hacc]
  have hplain : (rs.filter fun r => ((objRow? r.idx r.sub).filter fun row => row.acc = .rwc).isNone) = [] := by
    rw [List.filter_eq_nil_iff]
    intro x hx
    obtain ⟨row, e, -⟩ := hrwc x hx
    rw [hrow x hx, e, Option.isNone_some]
    exact Bool.false_ne_true
  have hstaged : (rs.filterMap fun r => ((objRow? r.idx r.sub).filter fun row => row.acc = .rwc).map r.staged)
      = rs.filterMap fun r => (objRow? r.idx r.sub).map r.staged :=
    List.filterMap_congr fun x hx => by rw [hrow x hx]
  rw [State.configLoad, State.configLoad_ready hjob hruns, h]
  simp only [hfit, hplain, hstaged, List.foldl_nil, hset, hstore]
  rfl

end

/-- A store that starts leaves a store write in progress. -/
theorem State.storeStart_job {u v : State} (h : u.storeStart = .ok v) : v.storeJob.isSome = true := by
  unfold State.storeStart at h
  split at h
  · cases h
  · cases h
    rfl

/-- The command, where the DOMAIN may be written. -/
theorem exec_configImageLoad {s : State} {src : Src} {r : Requester} {image : List Byte} (hr : s.requester src = some r)
    (hcheck : s.domWriteCheck r 0x1012 1 image.length = 0) :
    exec (.configImageLoad src image) s
      = .next (if (s.configLoad r.ctx image).2 = 0 then (s.configLoad r.ctx image).1 else (s.configLoad r.ctx image).1.emit (.refused src 0x1012 1 (s.configLoad r.ctx image).2)) := by
  have hexec : exec (.configImageLoad src image) s = execConfigImageLoad src image s := rfl
  simp only [hexec, execConfigImageLoad, hr, hcheck]
  rfl

/-- Settles O14: by what the image's check and its records give. -/
theorem configImageIsOneCommit : Obligations.ConfigImageIsOneCommit := by
  unfold Obligations.ConfigImageIsOneCommit
  intro s src r image hr hcheck hjob hruns
  rw [exec_configImageLoad hr hcheck]
  refine ⟨fun h => ?_, fun rs h hfit => ?_, fun rs u v h hfit hrwc hset hstore => ⟨?_, State.storeStart_job hstore⟩⟩
  · rw [State.configLoad_unsigned hjob hruns h]
    rfl
  · rw [State.configLoad_unfit hjob hruns h hfit]
    rfl
  · rw [State.configLoad_committed hjob hruns h hfit hrwc hset hstore]
    rfl

end Sys2Proof.Machine
end

section
/-! What becomes of a CXOP request (O15). -/

namespace Sys2Proof.Machine

/-! ### The header and the session (R40, R41, R44, R466) -/

section
variable {s : State} {r : CxReq} {kind : Nat}

/-- A PDU that arrives and is this command's, but cannot be relied on, is counted. -/
theorem State.cxReceive_unreliable (ha : s.cxArrives r = true) (hrel : s.cxReliable r = false) (hk : r.kind = kind) (body : State → State) :
    s.cxReceive r kind body = .next (s.count (okey 0x1022 4) 32) := by
  rw [State.cxReceive, if_neg (by simp [ha, hk]), if_pos (by simp [hrel])]

/-- A PDU that can be relied on is handled. -/
theorem State.cxReceive_reliable (ha : s.cxArrives r = true) (hrel : s.cxReliable r = true) (hk : r.kind = kind) (body : State → State) :
    s.cxReceive r kind body = .next (body s) := by
  rw [State.cxReceive, if_neg (by simp [ha, hk]), if_neg (by simp [hrel])]

section
variable {x : Session} (hx : s.session? r.session = some x)
include hx

/-- A sequence that is not new is a replay: counted, and shown in device_events bit 5 (R466). -/
theorem State.cxSession_replay (hp : x.proved = true) (hseq : r.seq ≤ x.highSeq) (unproved : Bool) (body : Session → State → State) :
    s.cxSession r kind unproved body = (s.count (okey 0x1022 3) 32).orObj (okey 0x1002 1) 0x20 := by
  simp only [State.cxSession, hx, hp, if_pos hseq]
  rfl

/-- A new sequence of a session that may ask is accepted, and the request is handled. -/
theorem State.cxSession_accepts {unproved : Bool} (hp : (!x.proved && !unproved) = false) (hseq : x.highSeq < r.seq) (hk : r.kind = kind)
    (body : Session → State → State) : s.cxSession r kind unproved body = body x (s.taken r) := by
  simp only [State.cxSession, hx, hp, if_neg (Nat.not_le.2 hseq), if_pos hk]
  rfl

end

/-- A request that its session takes is handled in the state that has accepted it. -/
theorem State.cxRequest_takes (h : s.takes r kind) (body : Requester → State → State) :
    s.cxRequest r kind body = .next (body ((s.taken r).ctxRequester (.session r.session)) (s.taken r)) := by
  obtain ⟨ha, hrel, hk, x, hx, hp, hseq⟩ := h
  rw [State.cxRequest, State.cxReceive_reliable ha hrel hk, State.cxSession_accepts hx (by rw [hp]; rfl) hseq hk]

theorem State.cxRequest_replay {x : Session} (ha : s.cxArrives r = true) (hrel : s.cxReliable r = true) (hk : r.kind = kind) (hx : s.session? r.session = some x)
    (hp : x.proved = true) (hseq : r.seq ≤ x.highSeq) (body : Requester → State → State) :
    s.cxRequest r kind body = .next ((s.count (okey 0x1022 3) 32).orObj (okey 0x1002 1) 0x20) := by
  rw [State.cxRequest, State.cxReceive_reliable ha hrel hk, State.cxSession_replay hx hp hseq]

end

/-- Every kind but OPEN and PROVE is a request of a proved session (R43, R44). -/
theorem exec_of_cxForm_proved {c : Instr} {r : CxReq} {kind : Nat} (h : cxForm c = some (r, kind)) (hopen : kind ≠ 9) (hprove : kind ≠ 10) (s : State) :
    ∃ body, exec c s = s.cxRequest r kind body := by
  cases c <;> cases h
  case open_ => exact absurd rfl hopen
  case prove => exact absurd rfl hprove
  all_goals
    delta exec
    dsimp only [execRead, execWrite, execReadBlock, execWriteBlock, execCommit, execSubscribe, execClose]
    exact ⟨_, rfl⟩

theorem State.ctxRequester_ctx (s : State) (c : Ctx) : (s.ctxRequester c).ctx = c := by
  unfold State.ctxRequester
  split
  · rfl
  · rfl
  · rfl
  · split <;> rfl

/-! ### Answers (R41, R42) -/

/-- An answer carries the kind with bit 7 and the request's sequence. -/
theorem State.answer_of_kind {r : CxReq} {kind : Nat} (hk : r.kind = kind) (t : State) (sid status : Nat) (payload : List Byte) :
    t.answer r sid status payload = t.emit (.cxop sid (0x80 + kind) t.pduFlags r.seq status 0 payload) := by
  rw [State.answer, hk]

theorem State.answer_of_takes {s : State} {r : CxReq} {kind : Nat} (h : s.takes r kind) (t : State) (sid status : Nat) (payload : List Byte) :
    t.answer r sid status payload = t.emit (.cxop sid (0x80 + kind) t.pduFlags r.seq status 0 payload) := by
  obtain ⟨-, -, hk, -⟩ := h
  exact State.answer_of_kind hk ..

/-- What leaves the device changes nothing that a later PDU of the same message is made of. -/
theorem State.forEach_emit {α : Type} (f : Nat → α → Out) (s : State) (xs : List α) :
    s.forEach xs (fun t x => t.emit (f t.pduFlags x)) = { s with out := (xs.map (f s.pduFlags)).reverse ++ s.out } := by
  induction xs generalizing s with
  | nil => rfl
  | cons x xs ih =>
    have hstep : s.forEach (x :: xs) (fun t x => t.emit (f t.pduFlags x)) = (s.emit (f s.pduFlags x)).forEach xs fun t x => t.emit (f t.pduFlags x) := rfl
    have hflags : (s.emit (f s.pduFlags x)).pduFlags = s.pduFlags := rfl
    rw [hstep, ih, hflags, List.map_cons, List.reverse_cons, List.append_assoc]
    rfl

/-- The segments of a message leave in their order. -/
theorem State.sendSegs_eq (s : State) (sid kind seq : Nat) (segs : List (List Byte)) :
    s.sendSegs sid kind seq segs = { s with out := (segs.zipIdx.map fun x =>
      Out.cxop sid kind (s.pduFlags + if x.2 + 1 < segs.length then 2 else 0) seq 0 x.2 x.1).reverse ++ s.out } :=
  s.forEach_emit (fun flags (x : List Byte × Nat) => Out.cxop sid kind (flags + if x.2 + 1 < segs.length then 2 else 0) seq 0 x.2 x.1) segs.zipIdx

/-! ### A commit that is received (R32) -/

section
variable {s : State} {c : Ctx} {v : Word64} {seq : Word32}

theorem State.receiveCommit_later (hv : v ≠ 0#64) (hlater : s.netTime < v.toNat) (hfree : (s.ctx c).timed = none) :
    s.receiveCommit c v seq = .ok (s.setCtx c { s.ctx c with staging := [], timed := some ⟨v, (s.ctx c).staging, seq⟩ }, none) := by
  have hnow : ¬ (v = 0#64 ∨ (v.toNat : Int) ≤ s.netTime) := by rintro (h | h); exacts [hv h, absurd hlater (not_lt.2 h)]
  simp only [State.receiveCommit, if_neg hnow, hfree]
  rfl

theorem State.receiveCommit_busy (hv : v ≠ 0#64) (hlater : s.netTime < v.toNat) (hbusy : (s.ctx c).timed.isSome = true) :
    s.receiveCommit c v seq = .error 0x000B := by
  have hnow : ¬ (v = 0#64 ∨ (v.toNat : Int) ≤ s.netTime) := by rintro (h | h); exacts [hv h, absurd hlater (not_lt.2 h)]
  simp only [State.receiveCommit, if_neg hnow, if_pos hbusy]

/-- A commit for now is applied, or fails with an error of its set. -/
theorem State.receiveCommit_now (hv : v = 0#64) :
    let t := (s.setCtx c { s.ctx c with staging := [] }).commitSet c (s.ctx c).staging
    s.receiveCommit c v seq = .ok (t.1, some t.2) := if_pos (.inl hv)

end

theorem State.commitSet_ok {s t : State} {c : Ctx} {set : List Staged} (h : s.applySet (s.ctxRequester c) set = .ok t) :
    s.commitSet c set = (t.setCtx c { t.ctx c with applied := t.netTime64 }, 0, 0) := by
  rw [State.commitSet, h]

theorem State.commitSet_error {s : State} {c : Ctx} {set : List Staged} {e key : Nat} (h : s.applySet (s.ctxRequester c) set = .error (e, key)) :
    s.commitSet c set = (s.latch c e (key / 256) (key % 256), e, key) := by
  rw [State.commitSet, h]

/-! ### The five requests, once their session has taken them -/

section
variable {s : State} {r : CxReq}

theorem exec_read_takes {fs : List Ref} (h : s.takes r 1) (hfs : parseRefs 64 r.payload = some fs) :
    exec (.read r) s = .next ((s.taken r).sendSegs r.session 0x81 r.seq
      (segments [] [] (fs.map ((s.taken r).refBytes ((s.taken r).ctxRequester (.session r.session)))))) := by
  have hexec : exec (.read r) s = execRead r s := rfl
  rw [hexec, execRead, State.cxRequest_takes h, hfs]

/-- One item of a WRITE, with its status in the answer (Table 2-5). -/
def State.writtenItem (rq : Requester) (sid : Nat) (x : State × List Byte) (b : List Byte) : State × List Byte :=
  let y := x.1.writeItem rq sid (leAt b 0 2) (leAt b 2 1) (leAt b 3 1) (BitVec.ofNat 64 (leAt b 8 8))
  (y.1, x.2 ++ slice b 0 3 ++ [0#8] ++ leBytes 2 y.2 ++ [0#8, 0#8])

theorem exec_write_takes (h : s.takes r 2) (hlen : r.payload.length % 16 = 0) (hn : (records 16 r.payload).length ≤ 64)
    (hres : ∀ b ∈ records 16 r.payload, leAt b 4 4 = 0) :
    let w := (records 16 r.payload).foldl (State.writtenItem ((s.taken r).ctxRequester (.session r.session)) r.session) (s.taken r, [])
    exec (.write r) s = .next (w.1.emit (.cxop r.session 0x82 w.1.pduFlags r.seq 0 0 w.2)) := by
  have hexec : exec (.write r) s = execWrite r s := rfl
  have hgood : ¬ (r.payload.length % 16 ≠ 0 ∨ 64 < (records 16 r.payload).length ∨ ((records 16 r.payload).any fun b => decide (leAt b 4 4 ≠ 0)) = true) := by
    rintro (h1 | h1 | h1)
    · exact h1 hlen
    · omega
    · obtain ⟨b, hb, hne⟩ := List.any_eq_true.1 h1
      exact of_decide_eq_true hne (hres b hb)
  rw [hexec, execWrite, State.cxRequest_takes h]
  dsimp only
  rw [if_neg hgood, State.answer_of_takes h]
  rfl

theorem exec_readBlock_takes (h : s.takes r 3) (hlen : r.payload.length = 12) (hres : leAt r.payload 3 1 = 0) (hlo : 1 ≤ leAt r.payload 8 4)
    (hhi : leAt r.payload 8 4 ≤ 1024) :
    exec (.readBlock r) s = .next (match (s.taken r).blockContents ((s.taken r).ctxRequester (.session r.session)) (leAt r.payload 0 2) (leAt r.payload 2 1) (leAt r.payload 4 4) with
      | .error e => (s.taken r).answer r r.session e []
      | .ok (t, bs) => t.answer r r.session 0 (leBytes 4 bs.length ++ leBytes 4 (leAt r.payload 4 4) ++ (bs.drop (leAt r.payload 4 4)).take (leAt r.payload 8 4))) := by
  have hexec : exec (.readBlock r) s = execReadBlock r s := rfl
  have hgood : ¬ (r.payload.length ≠ 12 ∨ leAt r.payload 3 1 ≠ 0 ∨ leAt r.payload 8 4 = 0 ∨ 1024 < leAt r.payload 8 4) := by omega
  rw [hexec, execReadBlock, State.cxRequest_takes h]
  dsimp only
  rw [if_neg hgood] <;> rfl

theorem exec_writeBlock_takes (h : s.takes r 4) (hlo : 12 ≤ r.payload.length) (hhi : r.payload.length ≤ 1036) (hres : leAt r.payload 3 1 = 0) :
    let w := (s.taken r).blockSegment ((s.taken r).ctxRequester (.session r.session)) r.session r.payload (bit r.flags 1)
    exec (.writeBlock r) s = .next (w.1.emit (.cxop r.session 0x84 w.1.pduFlags r.seq w.2 0 [])) := by
  have hexec : exec (.writeBlock r) s = execWriteBlock r s := rfl
  have hgood : ¬ (r.payload.length < 12 ∨ 1036 < r.payload.length ∨ leAt r.payload 3 1 ≠ 0) := by omega
  rw [hexec, execWriteBlock, State.cxRequest_takes h]
  dsimp only
  rw [if_neg hgood, State.answer_of_takes h]

theorem exec_commit_takes (h : s.takes r 5) (hlen : r.payload.length = 8) :
    exec (.commit r) s = .next (match (s.taken r).receiveCommit (.session r.session) (BitVec.ofNat 64 (leAt r.payload 0 8)) (BitVec.ofNat 32 r.seq) with
      | .error e => (s.taken r).answer r r.session e (leBytes 16 0)
      | .ok (t, none) => t
      | .ok (t, some (e, key)) => t.commitAnswer r.session r.seq e key t.netTime64) := by
  have hexec : exec (.commit r) s = execCommit r s := rfl
  rw [hexec, execCommit, State.cxRequest_takes h, if_neg (by omega), State.ctxRequester_ctx] <;> rfl

end

/-- Settles O15: by the header, then the sequence, then the kind. -/
theorem cxopRequestsAreAnsweredOnce : Obligations.CxopRequestsAreAnsweredOnce := by
  unfold Obligations.CxopRequestsAreAnsweredOnce
  intro s r
  refine ⟨fun ha hrel hkind c hc => ?_, fun x ha hrel hx hp hseq c hc => ?_, ?_⟩
  · have hform : cxForm c = some (r, r.kind) := by
      simp only [List.mem_cons, List.not_mem_nil, or_false] at hkind
      rcases hkind with h | h | h | h | h | h | h | h | h <;> rw [h] at hc <;> rw [hc, h] <;> rfl
    obtain ⟨body, e⟩ := exec_of_cxForm hform s
    rw [e, State.cxReceive_unreliable ha hrel rfl]
  · obtain ⟨hform, hopen, hprove⟩ : cxForm c = some (r, r.kind) ∧ r.kind ≠ 9 ∧ r.kind ≠ 10 := by
      rcases hc with ⟨h, rfl⟩ | ⟨h, rfl⟩ | ⟨h, rfl⟩ | ⟨h, rfl⟩ | ⟨h, rfl⟩ | ⟨h, rfl⟩ | ⟨h, rfl⟩ <;> rw [h] <;> exact ⟨rfl, by decide, by decide⟩
    obtain ⟨body, e⟩ := exec_of_cxForm_proved hform hopen hprove s
    rw [e, State.cxRequest_replay ha hrel rfl hx hp hseq]
  · intro u rq
    refine ⟨fun fs h hfs => ⟨_, exec_read_takes h hfs, ?_, ?_⟩, fun h hlen hn hres => exec_write_takes h hlen hn hres, fun h hlen hres hlo hhi => ?_,
      fun h hlo hhi hres => exec_writeBlock_takes h hlo hhi hres, fun h hlen => ?_⟩
    · rw [State.sendSegs_eq]
    · rw [State.sendSegs_eq]
    · intro off
      rw [exec_readBlock_takes h hlen hres hlo hhi]
      refine ⟨fun e he => ?_, fun v bs hv => ?_⟩
      · rw [he]
        exact congrArg _ (State.answer_of_takes h ..)
      · rw [hv]
        exact congrArg _ (State.answer_of_takes h ..)
    · intro v x e
      rw [exec_commit_takes h hlen]
      refine ⟨fun hv hlater hfree => ?_, fun hv hlater hbusy => ?_, fun hv err key hset => ?_, fun hv w hset => ?_⟩
      · rw [State.receiveCommit_later hv hlater hfree]
      · rw [State.receiveCommit_busy hv hlater hbusy]
        exact congrArg _ (State.answer_of_takes h ..)
      · rw [State.receiveCommit_now hv, State.commitSet_error hset]
        rfl
      · rw [State.receiveCommit_now hv, State.commitSet_ok hset]

end Sys2Proof.Machine
end

section
/-! How sessions open, prove, subscribe and close (O16). -/

namespace Sys2Proof.Machine

/-! ### Bits of an event object -/

theorem State.oBit_orObj_self (s : State) (k : Nat) {m i : Nat} (hi : i < 64) (hm : m.testBit i = true) : (s.orObj k m).oBit k i = true := by
  rw [State.oBit_eq, State.orObj_eq, State.obj_setObj, if_pos rfl, bit, BitVec.getLsbD_or, BitVec.getLsbD_ofNat, hm, decide_eq_true hi]
  simp

theorem State.objN_orObj_of_ne (s : State) {k j : Nat} (h : k ≠ j) (m : Nat) : (s.orObj k m).objN j = s.objN j := by
  rw [State.objN, State.orObj_eq, State.obj_setObj, if_neg h, State.objN]

theorem State.objN_setN_of_ne (s : State) {k j : Nat} (h : k ≠ j) (n : Nat) : (s.setN k n).objN j = s.objN j := by
  rw [State.objN, State.setN_eq, State.obj_setObj, if_neg h, State.objN]

/-! ### The list of sessions -/

theorem State.sid_of_session? {s : State} {sid : Nat} {x : Session} (h : s.session? sid = some x) : x.sid = sid := by
  simpa using List.find?_some h

theorem State.mem_of_session? {s : State} {sid : Nat} {x : Session} (h : s.session? sid = some x) : x ∈ s.sessions := List.mem_of_find?_eq_some h

/-- An update of a session that keeps its number is what a look-up then finds. -/
theorem State.session?_upSession_self {s : State} {sid : Nat} {x : Session} {f : Session → Session} (hf : ∀ y, (f y).sid = y.sid)
    (h : s.session? sid = some x) : (s.upSession sid f).session? sid = some (f x) := by
  have hsid : ∀ y : Session, (if y.sid = sid then f y else y).sid = y.sid := by
    intro y
    split
    · exact hf y
    · rfl
  have hfind : (s.upSession sid f).session? sid = (s.session? sid).map fun y => if y.sid = sid then f y else y := by
    simp only [State.session?, State.upSession, List.find?_map, Function.comp_def, hsid]
  rw [hfind, h, Option.map_some, if_pos (State.sid_of_session? h)]

theorem State.session?_taken {s : State} {r : CxReq} {x : Session} (h : s.session? r.session = some x) :
    (s.taken r).session? r.session = some (x.accept r.seq s.now) :=
  State.session?_upSession_self (fun _ => rfl) h

/-! ### The counts of sessions and subscriptions (R44, R45) -/

theorem State.objN_refreshSessions_open (s : State) : s.refreshSessions.objN (okey 0x1022 1) = (s.sessions.filter (·.proved)).length % 2 ^ 64 := by
  rw [State.refreshSessions, State.objN_setN_of_ne _ (by decide), State.objN_setN_self]

theorem State.objN_refreshSessions_subs (s : State) : s.refreshSessions.objN (okey 0x1023 1) = s.subs.length % 2 ^ 64 :=
  State.objN_setN_self ..

theorem State.objN_refreshSessions_of_ne (s : State) {k : Nat} (hopen : okey 0x1022 1 ≠ k) (hsubs : okey 0x1023 1 ≠ k) : s.refreshSessions.objN k = s.objN k := by
  rw [State.refreshSessions, State.objN_setN_of_ne _ hsubs, State.objN_setN_of_ne _ hopen]

/-! ### The end of a session (R43, R44, R54) -/

theorem State.session?_freeSession (s : State) (sid : Nat) : (s.freeSession sid).session? sid = none := by
  have hsessions : (s.freeSession sid).sessions = s.sessions.filter fun x => x.sid != sid := rfl
  rw [State.session?, hsessions, List.find?_eq_none]
  intro x hx
  have hne := (List.mem_filter.1 hx).2
  simpa using hne

theorem State.subs_freeSession (s : State) (sid : Nat) : ∀ x ∈ (s.freeSession sid).subs, x.sid ≠ sid := by
  intro x hx
  have hsubs : (s.freeSession sid).subs = s.subs.filter fun x => x.sid != sid := rfl
  rw [hsubs] at hx
  have hne := (List.mem_filter.1 hx).2
  simpa using hne

/-- A proved session that closes is freed, and device_events bit 3 tells of it (R54). -/
theorem State.closeSession_of_proved {s : State} {sid : Nat} {x : Session} (h : s.session? sid = some x) (hp : x.proved = true) :
    s.closeSession sid = (s.freeSession sid).orObj (okey 0x1002 1) 8 := by
  have hany : (s.sessions.any fun y => decide (y.sid = sid) && y.proved) = true :=
    List.any_eq_true.2 ⟨x, State.mem_of_session? h, by rw [State.sid_of_session? h, hp]; simp⟩
  rw [State.closeSession, hany, if_pos rfl]

theorem State.closeSession_proved_ends {s : State} {sid : Nat} {x : Session} (h : s.session? sid = some x) (hp : x.proved = true) :
    (s.closeSession sid).session? sid = none ∧ (∀ y ∈ (s.closeSession sid).subs, y.sid ≠ sid) ∧ (s.closeSession sid).oBit (okey 0x1002 1) 3 = true
      ∧ (s.closeSession sid).out = s.out := by
  rw [State.closeSession_of_proved h hp]
  exact ⟨s.session?_freeSession sid, s.subs_freeSession sid, State.oBit_orObj_self _ _ (by decide) (by decide), rfl⟩

/-- A proof that fails or does not come frees the session and is counted (R43, R54). -/
theorem State.authFailed_ends (s : State) (sid : Nat) :
    (s.authFailed sid).session? sid = none ∧ (s.authFailed sid).objN (okey 0x1022 2) = (s.objN (okey 0x1022 2) + 1) % 2 ^ 32
      ∧ (s.authFailed sid).oBit (okey 0x1002 1) 4 = true := by
  refine ⟨s.session?_freeSession sid, ?_, State.oBit_orObj_self _ _ (by decide) (by decide)⟩
  rw [State.authFailed, State.objN_orObj_of_ne _ (by decide), State.objN_count _ _ _ _ _ (by decide), if_pos rfl, State.freeSession,
    State.objN_refreshSessions_of_ne _ (by decide) (by decide)]
  rfl

/-! ### The number of a new session (R43) -/

/-- Of ten numbers in a row at most one is 0 and, while fewer than eight sessions exist, at most seven are in use. -/
theorem State.newSid_free {s : State} (h : s.sessions.length < 8) : s.newSid ≠ 0 ∧ s.session? s.newSid = none := by
  unfold State.newSid
  rcases hfind : ((List.range 10).map fun k => (s.freeNow.toNat + k) % 2 ^ 32).find? fun n => n != 0 && (s.session? n).isNone with _ | n
  · exfalso
    have hnodup : ((List.range 10).map fun k => (s.freeNow.toNat + k) % 2 ^ 32).Nodup := by
      refine List.Nodup.map_on (fun j hj k hk e => ?_) List.nodup_range
      rw [List.mem_range] at hj hk
      omega
    have hused : (List.range 10).map (fun k => (s.freeNow.toNat + k) % 2 ^ 32) ⊆ 0 :: s.sessions.map (·.sid) := by
      intro n hn
      have hbusy := List.find?_eq_none.1 hfind n hn
      by_cases h0 : n = 0
      · exact h0 ▸ List.mem_cons_self
      · obtain ⟨x, hx⟩ := Option.isSome_iff_exists.1 (show (s.session? n).isSome = true by simpa [h0, Option.isSome_iff_ne_none] using hbusy)
        exact List.mem_cons_of_mem _ (List.mem_map.2 ⟨x, State.mem_of_session? hx, State.sid_of_session? hx⟩)
    have hlen := (hnodup.subperm hused).length_le
    rw [List.length_map, List.length_range, List.length_cons, List.length_map] at hlen
    omega
  · have hn := List.find?_some hfind
    rw [Bool.and_eq_true, bne_iff_ne, Option.isNone_iff_eq_none] at hn
    exact hn

/-! ### The requests -/

section
variable {s : State} {r : CxReq}

/-- A well-formed OPEN, where no vehicle OPEN is refused outright and the security core runs: there is room, or there is none. -/
theorem exec_open_formed (ha : s.cxArrives r = true) (hrel : s.cxReliable r = true) (hk : r.kind = 9) (hsid : r.session = 0) (hlen : r.payload.length = 173)
    (hrole : leAt r.payload 0 1 = 0 ∨ leAt r.payload 0 1 = 4) (hres : leAt r.payload 1 3 = 0) (hlife : s.objN (okey 0x7420 2) ≠ 2) (hruns : s.fwRuns 0 = true) :
    exec (.open_ r) s = .next (if 8 ≤ s.sessions.length then s.answer r 0 0x000B [] else s.openSession r) := by
  have hexec : exec (.open_ r) s = execOpen r s := rfl
  have hgood : ¬ (r.session ≠ 0 ∨ r.payload.length ≠ 173 ∨ (leAt r.payload 0 1 ≠ 0 ∧ leAt r.payload 0 1 ≠ 4) ∨ leAt r.payload 1 3 ≠ 0) := by omega
  rw [hexec, execOpen, State.cxReceive_reliable ha hrel hk, if_neg (not_not.2 hk)]
  dsimp only
  rw [if_neg hgood, if_neg hlife, hruns]
  simp only [Bool.not_true, Bool.false_eq_true, false_or]

/-- A well-formed PROVE of a session that is not proved, and whose key is known: it verifies, or it does not. -/
theorem exec_prove_formed {x : Session} {key : List Byte} {sec : Bool} (ha : s.cxArrives r = true) (hrel : s.cxReliable r = true) (hk : r.kind = 10)
    (hx : s.session? r.session = some x) (hp : x.proved = false) (hseq : x.highSeq < r.seq) (hlen : r.payload.length = 132) (hruns : s.fwRuns 0 = true)
    (hkey : (s.taken r).keyById (if x.service then 4 else 0) x.keyId = some (key, sec)) :
    exec (.prove r) s = .next (if Config.ecdsaVerify key x.proofBytes r.payload = true then ((s.taken r).openProved x sec).answer r r.session 0 []
      else ((s.taken r).authFailed x.sid).answer r r.session 0x0013 []) := by
  have hexec : exec (.prove r) s = execProve r s := rfl
  have hruns' : (s.taken r).fwRuns 0 = true := hruns
  rw [hexec, execProve, State.cxReceive_reliable ha hrel hk, State.cxSession_accepts hx (by rw [hp]; rfl) hseq hk, if_neg (not_not.2 hlen), hp, hruns', hkey]
  rfl

theorem exec_close_takes (h : s.takes r 11) (hlen : r.payload = []) :
    exec (.close r) s = .next (((s.taken r).emit (.cxop r.session 0x8b s.pduFlags r.seq 0 0 [])).closeSession r.session) := by
  have hexec : exec (.close r) s = execClose r s := rfl
  rw [hexec, execClose, State.cxRequest_takes h, hlen, if_neg (by decide), State.answer_of_takes h]
  rfl

theorem exec_subscribe_takes {fs : List Ref} {cancel : Bool} {w : Wrote} (h : s.takes r 6) (hlen : 4 ≤ r.payload.length) (hsub : leAt r.payload 0 1 < 64)
    (hcancel : leAt r.payload 1 1 = cancel.toNat) (hfs : parseRefs 32 (r.payload.drop 4) = some fs)
    (hw : (s.taken r).bindSub r.session (leAt r.payload 0 1) (leAt r.payload 2 2) cancel fs = w) :
    exec (.subscribe r) s = .next (w.1.emit (.cxop r.session 0x86 w.1.pduFlags r.seq w.2 0 [])) := by
  have hexec : exec (.subscribe r) s = execSubscribe r s := rfl
  have hgood : ¬ (r.payload.length < 4 ∨ 64 ≤ leAt r.payload 0 1 ∨ 2 ≤ leAt r.payload 1 1 ∨ ((some fs).isNone = true ∧ ¬ leAt r.payload 1 1 % 2 = 1)) := by
    rintro (h1 | h1 | h1 | ⟨h1, -⟩)
    · omega
    · omega
    · have := cancel.toNat_le
      omega
    · cases h1
  have hdecide : decide (leAt r.payload 1 1 % 2 = 1) = cancel := by
    rw [hcancel]
    cases cancel <;> rfl
  rw [hexec, execSubscribe, State.cxRequest_takes h]
  dsimp only
  rw [hfs, if_neg hgood, State.answer_of_takes h, hdecide, Option.getD_some, hw]

end

/-- The subscriptions of a state without the one of a session's sub_id. -/
def State.otherSubs (s : State) (sid subId : Nat) : List Subscription := s.subs.filter fun x => x.sid != sid || x.subId != subId

section
variable {s : State} {sid subId entry : Nat} {refs : List Ref}

theorem State.bindSub_cancel : s.bindSub sid subId entry true refs = (State.refreshSessions { s with subs := s.otherSubs sid subId }, 0) := rfl

theorem State.bindSub_no_entry (h : 1024 ≤ entry ∨ s.cadAction entry ≠ 6) : s.bindSub sid subId entry false refs = (s, 0x0011) := if_pos h

/-- A sub_id is bound to an entry that publishes while fewer than 64 others stand (R45). -/
theorem State.bindSub_entry (he : entry < 1024) (ha : s.cadAction entry = 6) :
    s.bindSub sid subId entry false refs = if 64 ≤ (s.otherSubs sid subId).length then (s, 0x0010)
      else (State.refreshSessions { s with subs := s.otherSubs sid subId ++ [⟨sid, subId, entry, refs⟩] }, 0) :=
  if_neg (by rintro (h | h); exacts [absurd he (Nat.not_lt.2 h), h ha])

end

theorem State.pduFlags_refreshSessions (s : State) : s.refreshSessions.pduFlags = s.pduFlags := by
  rw [State.pduFlags, State.safe, State.objN_refreshSessions_of_ne _ (by decide) (by decide)]
  rfl

/-- What a PROVE that verifies leaves (R43, R47, R54). -/
theorem State.openProved_opens {s : State} {x z : Session} (hz : s.session? x.sid = some z) (sec : Bool) :
    let t := s.openProved x sec
    t.session? x.sid = some { z with proved := true, secure := x.service && sec, mask := (s.obj (okey 0x1024 2)).setWidth 32 }
      ∧ t.oBit (okey 0x1002 1) 2 = true ∧ t.objN (okey 0x1022 1) = (t.sessions.filter (·.proved)).length % 2 ^ 64 := by
  refine ⟨State.session?_upSession_self (fun _ => rfl) hz, State.oBit_orObj_self _ _ (by decide) (by decide), ?_⟩
  rw [State.openProved, State.objN_orObj_of_ne _ (by decide), State.objN_refreshSessions_open]
  rfl

/-- Settles O16: request by request, and the two timeouts. -/
theorem sessionsOpenAndClose : Obligations.SessionsOpenAndClose := by
  unfold Obligations.SessionsOpenAndClose
  intro s
  refine ⟨fun r ha hrel hk hsid hlen hrole hres hlife hruns => ?_, fun r x key sec ha hrel hk hx hp hseq hlen hruns hkey => ?_, fun r h hlen => ?_,
    fun sid x hx hp hold => ?_, fun sid x hx hp hidle => ?_, fun r fs h hlen hsub hcancel hfs => ?_⟩
  · rw [exec_open_formed ha hrel hk hsid hlen hrole hres hlife hruns]
    refine ⟨fun hfull => ?_, fun hroom => ?_⟩
    · rw [if_pos hfull, State.answer_of_kind hk]
    · obtain ⟨hne, hfree⟩ := State.newSid_free hroom
      rw [if_neg (Nat.not_le.2 hroom), State.openSession, State.answer_of_kind hk, List.append_assoc, List.append_assoc]
      exact ⟨_, _, _, rfl, rfl, rfl, rfl, hne, hfree, rfl, rfl, rfl, rfl, rfl⟩
  · rw [exec_prove_formed ha hrel hk hx hp hseq hlen hruns hkey]
    have hsid := State.sid_of_session? hx
    refine ⟨fun hok => ?_, fun hbad => ?_⟩
    · obtain ⟨hopen, hevent, hcount⟩ := State.openProved_opens (x := x) (hsid ▸ State.session?_taken hx) sec
      rw [if_pos hok]
      exact ⟨_, _, rfl, hsid ▸ hopen, rfl, rfl, rfl, hevent, hcount⟩
    · obtain ⟨hfree, hcount, hevent⟩ := (s.taken r).authFailed_ends x.sid
      rw [if_neg (by rw [hbad]; exact Bool.false_ne_true)]
      exact ⟨_, rfl, hsid ▸ hfree, hcount, hevent⟩
  · rw [exec_close_takes h hlen]
    obtain ⟨-, -, -, x, hx, hp, -⟩ := h
    obtain ⟨hfree, hsubs, hevent, hout⟩ := State.closeSession_proved_ends (s := (s.taken r).emit (.cxop r.session 0x8b s.pduFlags r.seq 0 0 []))
      (State.session?_taken hx) hp
    exact ⟨_, rfl, hfree, hsubs, hevent, hout⟩
  · have hexec : exec (.openProveTimeout sid) s = execOpenProveTimeout sid s := rfl
    obtain ⟨hfree, hcount, -⟩ := s.authFailed_ends sid
    refine ⟨_, ?_, hfree, hcount⟩
    simp only [hexec, execOpenProveTimeout, hx, hp]
    exact if_neg (by simpa using hold)
  · have hexec : exec (.sessionIdleTimeout sid) s = execSessionIdleTimeout sid s := rfl
    obtain ⟨hfree, hsubs, hevent, -⟩ := State.closeSession_proved_ends hx hp
    refine ⟨_, ?_, hfree, hsubs, hevent⟩
    simp only [hexec, execSessionIdleTimeout, hx, hp]
    exact if_neg (by simpa using hidle)
  · intro sub e others
    refine ⟨fun h1 => ?_, fun h0 hentry => ?_, fun h0 he ha hfull => ?_, fun h0 he ha hroom => ?_⟩
    · refine ⟨_, exec_subscribe_takes (cancel := true) h hlen hsub h1 hfs State.bindSub_cancel, rfl, ?_⟩
      rw [State.emit, State.pduFlags_refreshSessions]
      rfl
    · exact ⟨_, exec_subscribe_takes (cancel := false) h hlen hsub h0 hfs (State.bindSub_no_entry (s := s.taken r) hentry), rfl, rfl⟩
    · exact ⟨_, exec_subscribe_takes (cancel := false) h hlen hsub h0 hfs ((State.bindSub_entry (s := s.taken r) he ha).trans (if_pos hfull)), rfl, rfl⟩
    · refine ⟨_, exec_subscribe_takes (cancel := false) h hlen hsub h0 hfs ((State.bindSub_entry (s := s.taken r) he ha).trans (if_neg (Nat.not_le.2 hroom))), rfl, ?_, ?_⟩
      · refine (State.objN_refreshSessions_subs _).trans (Nat.mod_eq_of_lt ?_)
        rw [List.length_append, List.length_singleton]
        have hlt : ((s.taken r).otherSubs r.session (leAt r.payload 0 1)).length < 64 := hroom
        omega
      · rw [State.emit, State.pduFlags_refreshSessions]
        rfl

end Sys2Proof.Machine
end

section
/-! What a fired cadence action does or misses (O36). -/

namespace Sys2Proof.Machine

/-! ### The firing of an entry (R64, Table 3-2) -/

theorem State.cad_setObj_of_ne {e k j : Nat} (h : kCad e j ≠ kCad e k) (s : State) (v : Word64) : (s.setObj (kCad e j) v).cad e k = s.cad e k := by
  rw [State.cad, State.obj_setObj, if_neg h, State.cad]

/-- A firing moves the enable, the next grid point and the counts of its entry, and leaves the argument of its action. -/
theorem State.cadArg_of_fire {s u : State} {e a : Nat} {f : Firing} (h : s.fire e a = some (u, f)) : u.cadArg e = s.cadArg e := by
  have hkey : ∀ j, j ≠ 3 → kCad e j ≠ kCad e 3 := by
    intro j hj
    simp only [kCad, okey]
    omega
  have hcounted : ∀ (t : State) (m : TMap Nat), State.cad { t.cadFired e with cadK := m } e 3 = t.cad e 3 := fun t m =>
    t.cad_setObj_of_ne (hkey 5 (by decide)) _
  simp only [State.cadArg]
  unfold State.fire at h
  split at h
  · cases h
  · dsimp only at h
    split at h
    · cases h
      exact hcounted _ _
    · split at h
      · cases h
        split
        · rw [State.cadOff, State.cad_setObj_of_ne (hkey 4 (by decide)), State.cad_setObj_of_ne (hkey 0 (by decide)), hcounted]
        · rw [State.setN_eq, State.cad_setObj_of_ne (hkey 4 (by decide)), hcounted]
      · cases h

/-! ### A missed firing (R69) -/

theorem State.onlyObjs_setObj_setObj (s : State) (j k : Nat) (v w : Word64) : s.onlyObjs ((s.setObj j v).setObj k w) [j, k] := by
  refine ⟨rfl, fun i hi => ?_, fun a => State.byte_setObj ..⟩
  rw [List.mem_cons, List.mem_singleton, not_or] at hi
  rw [State.obj_setObj, if_neg (Ne.symm hi.2), State.obj_setObj, if_neg (Ne.symm hi.1)]

/-- A missed firing counts in its entry and sets cadence_events bit 1; no other object changes. -/
theorem State.cadMissed_counts (s : State) (e : Nat) :
    (s.cadMissed e).cad e 5 = setFld (s.cad e 5) 15 0 (min 0xffff (fld (s.cad e 5) 15 0 + 1)) ∧ (s.cadMissed e).oBit kCadEvents 1 = true
      ∧ s.onlyObjs (s.cadMissed e) [kCad e 5, kCadEvents] := by
  have hkey : kCadEvents ≠ kCad e 5 := by
    simp only [kCad, kCadEvents, okey]
    omega
  refine ⟨?_, State.oBit_orObj_self _ _ (by decide) (by decide), State.onlyObjs_setObj_setObj ..⟩
  rw [State.cadMissed, State.cad, State.orObj_eq, State.obj_setObj, if_neg hkey, State.obj_setObj, if_pos rfl]

/-! ### Job starts (R246, R247) -/

theorem TMap.find_put_self {α : Type} (m : TMap α) (k : Nat) (v : α) : TMap.find (TMap.put m k v) k = some v := by
  induction m with
  | nil => simp [TMap.put, TMap.find]
  | cons x m ih =>
    rw [TMap.put]
    split
    · simp [TMap.find]
    · split
      · simp [TMap.find]
      · rename_i hne
        rw [TMap.find, if_neg hne, ih]

/-- The golden jobs that wait for a start are all that its firing marks (R410). -/
theorem State.goldenFired_eq (s : State) (m h e : Nat) : s.goldenFired m h e = { s with golden := (s.goldenFired m h e).golden } := by
  have hmarks : ∀ (xs : List Nat) (t : State), ∃ g, (t.forEach xs fun s j => s.setGolden j (s.goldenWaits j + 1)) = { t with golden := g } := by
    intro xs
    induction xs with
    | nil => exact fun t => ⟨t.golden, rfl⟩
    | cons x xs ih => exact fun t => ih (t.setGolden x (t.goldenWaits x + 1))
  obtain ⟨g, hg⟩ := hmarks ((s.goldenOf m h).filter fun j => fld (s.obj (kGolden j 1)) 53 44 = e) s
  rw [State.goldenFired, hg]

/-- What a cadence start of handle h asks for. -/
def State.cadenceReq (s : State) (m h due : Nat) : RunReq :=
  ⟨2, 0, h, s.oBit (kInst m (0x10 + h) 0xb) 0, (List.range 8).map fun i => s.obj (kInst m (0x10 + h) (3 + i)), [], due, [], false⟩

/-- A start that must wait, where none of its handle waits yet, is held. -/
theorem State.cadenceStart_held {s : State} {m h : Nat} (due : Nat)
    (hwaits : s.instState m = 3 ∨ s.schedUp = false ∨ ∃ q ∈ (s.inst m).runq, q.kind = 2 ∧ q.handle = h) (hfree : TMap.find (s.inst m).held h = none) :
    s.cadenceStart m h due = s.upInst m fun x => { x with held := TMap.put x.held h (s.cadenceReq m h due) } := by
  have hcond : s.instState m = 3 ∨ (!s.schedUp) = true ∨ ((s.inst m).runq.any fun q => decide (q.kind = 2) && decide (q.handle = h)) = true := by
    simpa using hwaits
  have hnone : ¬ (TMap.find (s.inst m).held h).isSome = true := by simp [hfree]
  unfold State.cadenceStart
  rw [if_pos hcond, if_neg hnone]
  rfl

/-- A start that need not wait joins the run queue behind the cadence starts that stand there. -/
theorem State.cadenceStart_issued {s : State} {m h : Nat} (due : Nat) (hstate : s.instState m ≠ 3) (hup : s.schedUp = true)
    (hnone : ∀ q ∈ (s.inst m).runq, ¬(q.kind = 2 ∧ q.handle = h)) (hslot : s.slotMember m = false) :
    s.cadenceStart m h due
      = s.upInst m fun x => { x with runq := x.runq.filter (·.kind = 2) ++ [s.cadenceReq m h due] ++ x.runq.filter (·.kind ≠ 2) } := by
  have hcond : ¬ (s.instState m = 3 ∨ (!s.schedUp) = true ∨ ((s.inst m).runq.any fun q => decide (q.kind = 2) && decide (q.handle = h)) = true) := by
    simpa [hstate, hup] using hnone
  have hslot' : ∀ l : InstSt → List RunReq, (s.upInst m fun x => { x with runq := l x }).slotMember m = false := by
    intro l
    rw [← hslot, State.slotMember, State.upInst_eq, State.inst_setInst, if_pos rfl]
    rfl
  unfold State.cadenceStart
  rw [if_neg hcond]
  dsimp only
  rw [hslot']
  rfl

/-- A job start that finds its plan, where the state is neither free nor faulted (R246). -/
theorem exec_startJob_fired {s u : State} {e : Fin 1024} {f : Firing} {h : Nat} (hf : s.fire e 1 = some (u, f))
    (h0 : u.instState (fld (s.cadArg e) 35 32) ≠ 0) (h4 : u.instState (fld (s.cadArg e) 35 32) ≠ 4)
    (hjob : u.jobHandle (fld (s.cadArg e) 35 32) (fld (s.cadArg e) 15 0) = some h) :
    exec (.startJob e) s = .next ((u.goldenFired (fld (s.cadArg e) 35 32) h e).cadenceStart (fld (s.cadArg e) 35 32) h f.due) := by
  have hexec : exec (.startJob e) s = execStartJob e s := rfl
  rw [hexec, execStartJob, hf]
  simp only [State.cadJob, State.cadArg_of_fire hf, hjob]
  have hst : (u.goldenFired (fld (s.cadArg e) 35 32) h e).instState (fld (s.cadArg e) 35 32) = u.instState (fld (s.cadArg e) 35 32) := by
    rw [State.goldenFired_eq]
    rfl
  have hjob' : (u.goldenFired (fld (s.cadArg e) 35 32) h e).jobHandle (fld (s.cadArg e) 35 32) (fld (s.cadArg e) 15 0) = some h := by
    rw [State.goldenFired_eq, ← hjob]
    rfl
  rw [hst, if_neg (not_or.2 ⟨h0, h4⟩), hjob']

/-- A job start that finds no plan: missed where the state is free or faulted, and without effect otherwise (R246). -/
theorem exec_startJob_no_plan {s u : State} {e : Fin 1024} {f : Firing} (hf : s.fire e 1 = some (u, f))
    (hjob : u.jobHandle (fld (s.cadArg e) 35 32) (fld (s.cadArg e) 15 0) = none) :
    exec (.startJob e) s
      = .next (if u.instState (fld (s.cadArg e) 35 32) = 0 ∨ u.instState (fld (s.cadArg e) 35 32) = 4 then u.cadMissed e else u) := by
  have hexec : exec (.startJob e) s = execStartJob e s := rfl
  rw [hexec, execStartJob, hf]
  simp only [State.cadJob, State.cadArg_of_fire hf, hjob]
  rw [apply_ite Host.Outcome.next]

/-! ### Captures (R229) -/

theorem State.cap_setCap_self (s : State) (k : Nat) (x : CapRun) : (s.setCap k x).cap k = x := (TMap.get_set ..).trans (if_pos rfl)

/-- The header of a slot is written to memory; no capture set's run state changes. -/
theorem State.caps_capFinish (s : State) (k : Nat) (c : CapWait) : (s.capFinish k c).caps = s.caps := by
  unfold State.capFinish State.wrOwn
  dsimp only
  rw [State.setN_eq, State.setObj_caps]
  split
  · exact State.wr_caps ..
  · rfl

theorem State.capture_seq (s : State) (k : Nat) : ((s.capture k).cap k).seq = (s.cap k).seq + 1 := by
  unfold State.capture
  dsimp only
  split
  · rw [State.cap, State.caps_capFinish, ← State.cap, State.cap_setCap_self]
  · rw [State.cap_setCap_self, State.cap_setCap_self]

/-- A capture set that is disabled does nothing; an enabled one samples, or is skipped when its next slot is held. -/
theorem exec_assayCapture_fired {s u : State} {e : Fin 1024} {f : Firing} (hf : s.fire e 2 = some (u, f)) :
    let k := fld (s.cadArg e) 7 0
    exec (.assayCapture e) s = .next (if u.oBit (kCap k 1) 63 = false then u
      else if u.capHeld k ((u.cap k).seq % u.capDepth k) = true then (u.count (kCap k 0x15) 32).cadMissed e else u.capture k) := by
  have hexec : exec (.assayCapture e) s = execAssayCapture e s := rfl
  rw [hexec, execAssayCapture, hf]
  simp only [State.cadArg_of_fire hf, Bool.not_eq_true', apply_ite Host.Outcome.next]

/-! ### Launches (R328) -/

theorem exec_launchFrame_fired {s u : State} {e : Fin 1024} {f : Firing} (hf : s.fire e 3 = some (u, f)) {q c : Nat}
    (hq : fld (s.cadArg e) 3 0 = q) (hc : fld (s.cadArg e) 6 4 = c) :
    ((u.queueOf q c = [] ∨ u.queueMode q c ≠ 2) → exec (.launchFrame e) s = .next (u.cadMissed e))
    ∧ ∀ h rest, u.queueOf q c = h :: rest → u.queueMode q c = 2 →
      exec (.launchFrame e) s = .next (u.setQueue q c ({ h with released := true, launch := some f.mark } :: rest)) := by
  have hexec : exec (.launchFrame e) s = execLaunchFrame e s := rfl
  rw [hexec, execLaunchFrame, hf]
  simp only [State.cadArg_of_fire hf, hq, hc]
  refine ⟨fun hmiss => ?_, fun h rest hl hmode => ?_⟩
  · cases hl : u.queueOf q c with
    | nil => rfl
    | cons h rest => exact if_pos (hmiss.resolve_left (by simp [hl]))
  · rw [hl]
    exact if_neg (not_not.2 hmode)

theorem State.queueOf_setQueue_self (s : State) (q c : Nat) (l : List TxFrame) : (s.setQueue q c l).queueOf q c = l :=
  (TMap.get_set ..).trans (if_pos rfl)

/-! ### Publications (R45, R46) -/

theorem exec_publish_fired {s u : State} {e : Fin 1024} {f : Firing} (hf : s.fire e 6 = some (u, f)) :
    exec (.publish e) s = .next (u.forEach (u.subs.filter fun x => x.entry = e.val) fun u x => u.publishOne f.mark x) := by
  have hexec : exec (.publish e) s = execPublish e s := rfl
  rw [hexec, execPublish, hf]

/-! ### Whether a chunk fits does not depend on the count of opened slots (R406) -/

section
variable {s t : State} (h : s.onlyObjs t [kDiag 8])
include h

/-- What a chunk's test reads has another sub-index than the count of slots, or lies at a lower index. -/
theorem State.obj_of_slotCount {i a : Nat} (hne : a % 256 ≠ 8 ∨ i < 0x7010 ∧ a < 256) : t.obj (okey i a) = s.obj (okey i a) := by
  refine h.2.1 _ ?_
  rw [List.mem_singleton]
  simp only [kDiag, okey]
  omega

theorem State.objN_of_slotCount {i a : Nat} (hne : a % 256 ≠ 8 ∨ i < 0x7010 ∧ a < 256) : t.objN (okey i a) = s.objN (okey i a) :=
  congrArg BitVec.toNat (State.obj_of_slotCount h hne)

theorem State.partCores_of_slotCount (p : Nat) : t.partCores p = s.partCores p := by
  simp only [State.partCores, State.oBit, kPart, State.obj_of_slotCount h (a := 1) (.inl (by decide))]

theorem State.saveBound_of_slotCount (p n : Nat) : t.saveBound p n = s.saveBound p n := by
  simp only [State.saveBound, State.partCores_of_slotCount h, State.period, State.objN, kSched, State.obj_of_slotCount h (a := 2) (.inl (by decide))]

theorem State.leadNs_of_slotCount (p : Nat) : t.leadNs p = s.leadNs p := by
  simp only [State.leadNs, State.partCores_of_slotCount h, State.saveBound_of_slotCount h, State.period, State.objN, State.obj_of_slotCount h (a := 2) (.inl (by decide))]

theorem State.corePart_of_slotCount (n : Nat) : t.corePart n = s.corePart n := by
  simp only [State.corePart, State.oBit, kPart, State.obj_of_slotCount h (a := 1) (.inl (by decide))]

theorem State.netTime_of_slotCount : t.netTime = s.netTime := by
  have hnow : t.now = s.now := (congrArg State.now h.1).trans rfl
  have hsel : t.sel = s.sel := (congrArg State.sel h.1).trans rfl
  simp only [State.netTime, State.netTimeAt, State.nowN, hnow, State.slewRemaining, hsel, State.selDom, State.domTime, State.domOffset, State.domRate, State.objN,
    kSelected, kDomOffset, kDomRate, State.obj_of_slotCount h (a := 2) (.inl (by decide)), State.obj_of_slotCount h (a := 3) (.inl (by decide))]

theorem State.cad_of_slotCount {e k : Nat} (he : e < 1024) (hk : k < 6) : t.cad e k = s.cad e k :=
  State.obj_of_slotCount h (.inr (by omega))

theorem State.predictDue_of_slotCount {e : Nat} (he : e < 1024) : t.predictDue e = s.predictDue e := by
  have hcad : ∀ k, k < 6 → t.cad e k = s.cad e k := fun k hk => State.cad_of_slotCount h he hk
  have hnow : t.now = s.now := (congrArg State.now h.1).trans rfl
  have hstreams : t.streams = s.streams := (congrArg State.streams h.1).trans rfl
  have hstream : ∀ (w : Word64) (a : Nat), a < 256 → t.objN (okey (0x5420 + fld w 52 48) a) = s.objN (okey (0x5420 + fld w 52 48) a) := by
    intro w a ha
    have hw : fld w 52 48 < 32 := Nat.mod_lt _ (by decide)
    exact State.objN_of_slotCount h (.inr ⟨by omega, ha⟩)
  rw [State.predictDue, State.cadEnabled, State.cadSensor, State.cadNext, hcad 0 (by decide), hcad 1 (by decide), hcad 2 (by decide), hcad 4 (by decide), hstreams,
    State.nowN, hnow, State.netTime_of_slotCount h, State.predictDue]
  dsimp only
  rw [hstream _ 8 (by decide), hstream _ 9 (by decide), hstream _ 0xa (by decide)]
  rfl

theorem State.slotMember_of_slotCount (m : Nat) : t.slotMember m = s.slotMember m := by
  have hinst : t.inst m = s.inst m := (congrArg (fun u : State => u.inst m) h.1).trans rfl
  have hpart : t.objN (kInst m 1 1) = s.objN (kInst m 1 1) := State.objN_of_slotCount h (.inl (by decide))
  have hmode : t.partMode (s.objN (kInst m 1 1)) = s.partMode (s.objN (kInst m 1 1)) := State.objN_of_slotCount h (.inl (by decide))
  rw [State.slotMember, hpart, hmode, hinst, State.slotMember]

theorem State.jobHandle_of_slotCount (m job : Nat) : t.jobHandle m job = s.jobHandle m job := by
  have hinst : t.inst m = s.inst m := (congrArg (fun u : State => u.inst m) h.1).trans rfl
  rw [State.jobHandle, hinst, State.jobHandle]

theorem State.slotInstants_of_slotCount (p : Nat) : t.slotInstants p = s.slotInstants p := by
  refine List.filterMap_congr fun e he => ?_
  have hcad : ∀ k, k < 6 → t.cad e k = s.cad e k := fun k hk => State.cad_of_slotCount h (List.mem_range.1 he) hk
  have hjob : t.cadJob e = s.cadJob e := by
    rw [State.cadJob, State.cadArg, hcad 3 (by decide), State.cadJob, State.cadArg]
  have haction : t.cadAction e = s.cadAction e := by rw [State.cadAction, hcad 0 (by decide), State.cadAction]
  have henabled : t.cadEnabled e = s.cadEnabled e := by rw [State.cadEnabled, hcad 0 (by decide), State.cadEnabled]
  have hpart : t.objN (kInst (s.cadJob e).1 1 1) = s.objN (kInst (s.cadJob e).1 1 1) := State.objN_of_slotCount h (.inl (by decide))
  rw [hjob, haction, henabled]
  dsimp only
  rw [State.slotMember_of_slotCount h, hpart, State.jobHandle_of_slotCount h, State.predictDue_of_slotCount h (List.mem_range.1 he),
    State.leadNs_of_slotCount h]

theorem State.chunkBound_of_slotCount (c : Chunk) : t.chunkBound c = s.chunkBound c := by
  have hholder : t.holder c.core = s.holder c.core := State.objN_of_slotCount h (.inl (by decide))
  rw [State.chunkBound, hholder, State.corePart_of_slotCount h, State.saveBound_of_slotCount h, State.chunkBound]

theorem State.chunkFits_of_slotCount (c : Chunk) (at_ stop : Nat) : t.chunkFits c at_ stop = s.chunkFits c at_ stop := by
  have hcore : t.core c.core = s.core c.core := (congrArg (fun u : State => u.core c.core) h.1).trans rfl
  have hstate : t.coreState c.core = s.coreState c.core := State.objN_of_slotCount h (.inl (by decide))
  have hruns : t.fwRuns (3 + c.core / 4) = s.fwRuns (3 + c.core / 4) := congrArg (fun n => decide (n = 2)) (State.objN_of_slotCount h (.inl (by decide)))
  have hoff : t.domOff (2 + c.core / 4) = s.domOff (2 + c.core / 4) := (congrArg (fun u : State => u.domOff (2 + c.core / 4)) h.1).trans rfl
  have hup : t.schedUp = s.schedUp := congrArg (fun n => decide (n = 1)) (State.objN_of_slotCount h (.inl (by decide)))
  have hslots : t.slotInstants = s.slotInstants := funext (State.slotInstants_of_slotCount h)
  rw [State.chunkFits, State.chunkBound_of_slotCount h, State.corePart_of_slotCount h, hslots, hcore, hstate, hruns, hoff, hup, State.chunkFits]

end

/-! ### Service slots (R406) -/

/-- A slot of one chunk, where no request waits: it counts the slot, and the chunk runs when it fits and is deferred when it does not. -/
theorem exec_serviceSlot_fired {s u : State} {e : Fin 1024} {f : Firing} (hf : s.fire e 7 = some (u, f)) (hreq : u.selfReq = none) :
    let v := u.count (kDiag 8) 32
    exec (.serviceSlot e []) s = .next v
    ∧ ∀ c : Chunk, exec (.serviceSlot e [c]) s = .next (if u.chunkFits c u.nowN (f.due + fld (s.cadArg e) 31 0) = true
        then (v.testCore c.core).chunkResult c false else v.count (kDiag 9) 32) := by
  intro v
  have hcount : u.onlyObjs v [kDiag 8] := State.onlyObjs_setObj ..
  have hplain : v.plainRequests = v := by
    rw [State.plainRequests, show v.selfReq = none from hreq]
  have hasked : ∀ c, v.chunkRequested c = false := by
    intro c
    rw [State.chunkRequested, show v.selfReq = none from hreq]
  have harg : v.cadArg e = s.cadArg e := (State.cad_of_slotCount hcount e.isLt (by decide)).trans (State.cadArg_of_fire hf)
  have hexec : ∀ l, exec (.serviceSlot e l) s = .next (v.runChunks (f.due + fld (s.cadArg e) 31 0) v.nowN l) := by
    intro l
    have hexec : exec (.serviceSlot e l) s = execServiceSlot e l s := rfl
    rw [hexec, execServiceSlot, hf]
    dsimp only
    have hfirst : l.filter v.chunkRequested = [] := List.filter_eq_nil_iff.2 (by simp [hasked])
    rw [harg, hplain, hfirst]
    simp [hasked]
  refine ⟨hexec [], fun c => ?_⟩
  rw [hexec, State.runChunks, State.chunkFits_of_slotCount hcount, hasked]
  rfl

/-! ### Samples of a Lodestone slot (R73, R75) -/

/-- A slot that is disabled, or is an outer slot, is not sampled by an entry of its own. -/
theorem exec_lodestoneSample_missed {s u : State} {e : Fin 1024} {f : Firing} (hf : s.fire e 4 = some (u, f))
    (hskip : lcEnable (u.lodeCfg (fld (s.cadArg e) 2 0)) = false ∨ lcOuter (u.lodeCfg (fld (s.cadArg e) 2 0)) = true) :
    exec (.lodestoneSample e) s = .next (u.cadMissed e) := by
  have hexec : exec (.lodestoneSample e) s = execLodestoneSample e s := rfl
  rw [hexec, execLodestoneSample, hf]
  dsimp only
  rw [State.cadArg_of_fire hf]
  refine if_pos ?_
  rcases hskip with h | h <;> rw [h]
  · rfl
  · exact Bool.or_true _

/-! ### The obligation -/

/-- Settles O36: after a firing each action is its own function of the fired state, whose branches are those of the rules; a branch that misses is one count of
missed firings and the event bit (R69). -/
theorem cadenceActions : Obligations.CadenceActions := by
  unfold Obligations.CadenceActions
  refine ⟨fun s u e f => ⟨fun hf => ?_, fun hf => ?_, fun hf => ?_, fun hf => ?_, fun hf => ?_, fun hf => ?_⟩,
    fun s u e f => ?_⟩
  · intro m job h0 h4
    refine ⟨fun hjob => ?_, fun h hjob => ?_⟩
    · rw [exec_startJob_no_plan hf hjob, if_neg (not_or.2 ⟨h0, h4⟩)]
    · intro v
      refine ⟨exec_startJob_fired hf h0 h4 hjob, fun hwaits hfree => ?_, fun hstate hup hnone hslot => ?_⟩
      · rw [State.cadenceStart_held f.due hwaits hfree, State.upInst_eq, State.inst_setInst, if_pos rfl]
        exact ⟨v.cadenceReq m h f.due, rfl, rfl, TMap.find_put_self .., rfl⟩
      · rw [State.cadenceStart_issued f.due hstate hup hnone hslot, State.upInst_eq, State.inst_setInst, if_pos rfl]
        exact ⟨v.cadenceReq m h f.due, rfl, rfl, rfl, rfl⟩
  · intro k
    refine ⟨fun hoff => ?_, fun hon hfree => ⟨?_, State.capture_seq ..⟩⟩
    · rw [exec_assayCapture_fired hf, if_pos hoff]
    · rw [exec_assayCapture_fired hf, if_neg (by rw [hon]; decide), if_neg (by rw [hfree]; decide)]
  · intro q c h rest hqueue hmode
    exact ⟨_, (exec_launchFrame_fired hf rfl rfl).2 h rest hqueue hmode, State.queueOf_setQueue_self .., rfl⟩
  · refine ⟨exec_publish_fired hf, fun hnone => ?_, fun x y hy => ?_⟩
    · rw [exec_publish_fired hf, hnone]
      rfl
    · refine ⟨x.refs.map (u.refBytes (u.ctxRequester (.session x.sid))), ?_, List.length_map _⟩
      rw [State.publishOne, hy]
  · intro hreq
    obtain ⟨hempty, hone⟩ := exec_serviceSlot_fired hf hreq
    refine ⟨⟨_, hempty, ?_, State.onlyObjs_setObj ..⟩, fun c hfit => ⟨_, (hone c).trans (congrArg _ (if_neg (by rw [hfit]; decide))), ?_, ?_, ?_⟩⟩
    · rw [State.objN_count _ _ _ _ _ (by decide), if_pos rfl]
    · rw [State.objN_count _ _ _ _ _ (by decide), if_neg (by decide), State.objN_count _ _ _ _ _ (by decide), if_pos rfl]
    · rw [State.objN_count _ _ _ _ _ (by decide), if_pos rfl, State.objN_count _ _ _ _ _ (by decide), if_neg (by decide)]
    · exact State.onlyObjs_setObj_setObj ..
  · intro hreq c hfit
    refine ⟨u.count (kDiag 8) 32, ((exec_serviceSlot_fired hf hreq).2 c).trans (congrArg _ (if_pos hfit)), ?_, State.onlyObjs_setObj ..⟩
    rw [State.objN_count _ _ _ _ _ (by decide), if_pos rfl]
  · intro missed
    refine ⟨fun hf => ?_, fun hf => ?_, fun hf => ?_, fun hf => ?_⟩
    · intro m hjob hstate
      exact ⟨u.cadMissed e, by rw [exec_startJob_no_plan hf hjob, if_pos hstate], u.cadMissed_counts e⟩
    · intro k hon hheld
      refine ⟨u.count (kCap k 0x15) 32, (u.count (kCap k 0x15) 32).cadMissed e, ?_, State.cadMissed_counts .., ?_, State.onlyObjs_setObj ..⟩
      · rw [exec_assayCapture_fired hf, if_neg (by rw [hon]; decide), if_pos hheld]
      · rw [State.objN_count _ _ _ _ _ (by decide), if_pos rfl]
    · intro q c hmiss
      exact ⟨u.cadMissed e, (exec_launchFrame_fired hf rfl rfl).1 hmiss, u.cadMissed_counts e⟩
    · intro n hskip
      exact ⟨u.cadMissed e, exec_lodestoneSample_missed hf hskip, u.cadMissed_counts e⟩

end Sys2Proof.Machine
end

section
/-! What a change of the timeline and of the cadence table leaves alone (R59, R64-R67). -/

namespace Sys2Proof.Machine

/-! ### The objects of the cadence table -/

/-- An object of the cadence table: an entry's slots, or the table's events. -/
abbrev cadKey (k : Nat) : Prop := k / 256 = 0x2020 ∨ 0x2100 ≤ k / 256 ∧ k / 256 < 0x2120

theorem cadKey_kCad {e k : Nat} (he : e < 1024) (hk : k < 6) : cadKey (kCad e k) := by
  simp only [cadKey, kCad, okey]
  omega

theorem cadKey_kCadEvents : cadKey kCadEvents := by decide

/-- Of the objects those of the cadence table alone may change, and beside them what cadence entries keep: due firings, firing indices, and the held results of Lodestone slots. -/
structure State.Recadences (s t : State) : Prop where
  rest : t = { s with objs := t.objs, cadDue := t.cadDue, cadK := t.cadK, lode := t.lode }
  objs : ∀ k, ¬ cadKey k → t.obj k = s.obj k

namespace State.Recadences
variable {s t u : State}

theorem refl (s : State) : s.Recadences s := ⟨rfl, fun _ _ => rfl⟩

theorem trans (h : s.Recadences t) (h' : t.Recadences u) : s.Recadences u :=
  ⟨by rw [h'.rest, h.rest], fun k hk => (h'.objs k hk).trans (h.objs k hk)⟩

theorem now (h : s.Recadences t) : t.now = s.now := by rw [h.rest]
theorem sel (h : s.Recadences t) : t.sel = s.sel := by rw [h.rest]

theorem forEach {α : Type} (l : List α) (f : State → α → State) (hf : ∀ u, ∀ x ∈ l, State.Recadences u (f u x)) : s.Recadences (s.forEach l f) :=
  List.foldlRecOn l f (motive := s.Recadences) (refl s) fun u hu x hx => hu.trans (hf u x hx)

end State.Recadences

section
variable (s : State) {e : Nat} (he : e < 1024)

theorem State.recadences_setObj {k : Nat} (hk : cadKey k) (v : Word64) : s.Recadences (s.setObj k v) := by
  refine ⟨rfl, fun j hj => ?_⟩
  rw [State.obj_setObj, if_neg]
  rintro rfl
  exact hj hk

theorem State.recadences_cadRestart (e : Nat) : s.Recadences (s.cadRestart e) := by
  unfold State.cadRestart
  dsimp only
  split <;> exact ⟨rfl, fun _ _ => rfl⟩

theorem State.recadences_cadDueLate (e : Nat) : s.Recadences (s.cadDueLate e) := ⟨rfl, fun _ _ => rfl⟩

include he

theorem State.recadences_cadMissed : s.Recadences (s.cadMissed e) :=
  (s.recadences_setObj (cadKey_kCad he (by decide)) _).trans (State.recadences_setObj _ cadKey_kCadEvents _)

theorem State.recadences_cadLate : s.Recadences (s.cadLate e) :=
  (s.recadences_setObj (cadKey_kCad he (by decide)) _).trans (State.recadences_setObj _ cadKey_kCadEvents _)

theorem State.recadences_cadOff : s.Recadences (s.cadOff e) :=
  (s.recadences_setObj (cadKey_kCad he (by decide)) _).trans (State.recadences_setObj _ (cadKey_kCad he (by decide)) _)

theorem State.recadences_armNetwork (first : Bool) : s.Recadences (s.armNetwork e first) := by
  have hr := s.recadences_cadRestart e
  unfold State.armNetwork
  dsimp only
  generalize s.cadRestart e = t at hr ⊢
  refine hr.trans ?_
  split
  · exact t.recadences_setObj (cadKey_kCad he (by decide)) _
  · split <;> cases first
    · exact (t.recadences_cadMissed he).trans (State.recadences_cadOff _ he)
    · exact t.recadences_cadOff he
    · exact ((t.recadences_cadLate he).trans (State.recadences_cadDueLate _ e)).trans (State.recadences_cadOff _ he)
    · exact (t.recadences_cadDueLate e).trans (State.recadences_cadOff _ he)

theorem State.recadences_cadAfterStep : s.Recadences (s.cadAfterStep e) := by
  have skipped : s.Recadences (if s.cadSkip e then s.cadMissed e else (s.cadLate e).cadDueLate e) := by
    split
    · exact s.recadences_cadMissed he
    · exact (s.recadences_cadLate he).trans (State.recadences_cadDueLate _ e)
  unfold State.cadAfterStep
  split
  · split
    · dsimp only
      generalize (if s.cadSkip e then s.cadMissed e else (s.cadLate e).cadDueLate e) = t at skipped ⊢
      refine skipped.trans ?_
      split
      · exact t.recadences_setObj (cadKey_kCad he (by decide)) _
      · exact t.recadences_cadOff he
    · exact .refl s
  · exact .refl s

end

/-- The first lock arms entries, and changes nothing else (R67). -/
theorem State.recadences_armFirstLock (s : State) : s.Recadences s.armFirstLock := by
  refine .forEach _ _ fun u e he => ?_
  split
  · exact u.recadences_armNetwork (List.mem_range.1 he) true
  · exact .refl u

/-! ### Steps and slews of the selected timeline (R59, R61) -/

/-- The selected timeline after a step, before the cadence table looks at the points that were skipped (R59). -/
def State.selStepped (s : State) : State :=
  { s.setObj kSwitch (setBit (setFld (s.obj kSwitch) 31 16 (fld (s.obj kSwitch) 31 16 + 1)) 1 true) with sel := none }

theorem State.recadences_selStep (s : State) (arms : Bool) : s.selStepped.Recadences (s.selStep arms) := by
  cases arms with
  | false => exact .refl _
  | true => exact .forEach _ _ fun u e he => u.recadences_cadAfterStep (List.mem_range.1 he)

/-- An object of the selected timeline or of the cadence table. -/
abbrev timeKey (k : Nat) : Prop := k / 256 = 0x2000 ∨ cadKey k

theorem timeKey_kSelected : timeKey kSelected := .inl (by decide)
theorem timeKey_kSwitch : timeKey kSwitch := .inl (by decide)

/-- The selected timeline and the cadence table alone may change. -/
structure State.Retimes (s t : State) : Prop where
  rest : t = { s with objs := t.objs, sel := t.sel, cadDue := t.cadDue, cadK := t.cadK, lode := t.lode }
  objs : ∀ k, ¬ timeKey k → t.obj k = s.obj k

namespace State.Retimes
variable {s t u : State}

theorem refl (s : State) : s.Retimes s := ⟨rfl, fun _ _ => rfl⟩

theorem trans (h : s.Retimes t) (h' : t.Retimes u) : s.Retimes u :=
  ⟨by rw [h'.rest, h.rest], fun k hk => (h'.objs k hk).trans (h.objs k hk)⟩

theorem now (h : s.Retimes t) : t.now = s.now := by rw [h.rest]
theorem gdom (h : s.Retimes t) : t.gdom = s.gdom := by rw [h.rest]
theorem everLocked (h : s.Retimes t) : t.everLocked = s.everLocked := by rw [h.rest]

end State.Retimes

theorem State.Recadences.retimes {s t : State} (h : s.Recadences t) : s.Retimes t :=
  ⟨by rw [h.rest], fun k hk => h.objs k fun hc => hk (.inr hc)⟩

theorem State.retimes_setObj (s : State) {k : Nat} (hk : timeKey k) (v : Word64) : s.Retimes (s.setObj k v) := by
  refine ⟨rfl, fun j hj => ?_⟩
  rw [State.obj_setObj, if_neg]
  rintro rfl
  exact hj hk

theorem State.retimes_selStepped (s : State) : s.Retimes s.selStepped := ⟨rfl, (s.retimes_setObj timeKey_kSwitch _).objs⟩

theorem State.retimes_selStep (s : State) (arms : Bool) : s.Retimes (s.selStep arms) := s.retimes_selStepped.trans (s.recadences_selStep arms).retimes

theorem State.retimes_selMeasure (s : State) (before : Int) (arms : Bool) : s.Retimes (s.selMeasure before arms) := by
  unfold State.selMeasure
  dsimp only
  split
  · exact ⟨rfl, fun _ _ => rfl⟩
  · exact s.retimes_selStep arms

theorem State.retimes_selectDomain (s : State) (b : Nat) : s.Retimes (s.selectDomain b) := by
  unfold State.selectDomain
  split
  · exact .refl s
  · exact (s.retimes_setObj timeKey_kSelected _).trans (State.retimes_selMeasure ..)

end Sys2Proof.Machine
end

section
/-! The gPTP domains and the selected timeline (O34). -/

namespace Sys2Proof.Machine

/-! ### The objects of a domain -/

theorem not_timeKey_dom (d : Fin 2) (j : Nat) (hj : j < 256) : ¬ timeKey (okey (0x2001 + d) j) := by
  simp only [timeKey, cadKey, okey]
  omega

section
variable {s t : State} (h : s.Retimes t) (d : Fin 2)
include h

/-- Every object of a domain reads as before when the selected timeline alone changes. -/
theorem State.Retimes.dom {j : Nat} (hj : j < 256) : t.obj (okey (0x2001 + d) j) = s.obj (okey (0x2001 + d) j) := h.objs _ (not_timeKey_dom d j hj)

theorem State.Retimes.domState : t.domState d = s.domState d := congrArg BitVec.toNat (h.dom d (j := 1) (by decide))

theorem State.Retimes.domTime (c : Nat) : t.domTime d c = s.domTime d c := by
  rw [State.domTime, State.domOffset, State.domRate, kDomOffset, kDomRate, h.dom d (by decide), h.dom d (by decide)]
  rfl

theorem State.Retimes.domRate : t.domRate d = s.domRate d := congrArg BitVec.toInt (h.dom d (j := 3) (by decide))

theorem State.Retimes.gd : t.gd d = s.gd d := by rw [State.gd, h.gdom, State.gd]

end

theorem kDom_inj (d : Fin 2) {i j : Nat} (hi : i < 256) (hj : j < 256) : okey (0x2001 + d) i = okey (0x2001 + d) j ↔ i = j := by
  simp [okey_inj hi hj]

/-! ### A new pair (R57, R58) -/

theorem ofNat_wrapInt (z : Int) : BitVec.ofNat 64 (wrapInt 64 z) = BitVec.ofInt 64 z := by
  apply BitVec.eq_of_toNat_eq
  simp only [BitVec.toNat_ofNat, BitVec.toNat_ofInt, wrapInt]
  omega

theorem toInt_ofInt_of_fits {z : Int} (h : -2 ^ 63 ≤ z) (h' : z < 2 ^ 63) : (BitVec.ofInt 64 z).toInt = z := by
  refine BitVec.toInt_ofInt_eq_self (by decide) ?_ ?_ <;> norm_num <;> omega

/-- The pair of domain d before the present one, and the anchor of the present one (R57, R58). -/
abbrev State.pairKept (s t : State) (d : Nat) : Prop :=
  t.obj (kDomPrev d 0) = s.obj (kDomAnchor d) ∧ t.obj (kDomPrev d 1) = s.obj (kDomOffset d) ∧ t.obj (kDomPrev d 2) = s.obj (kDomRate d)
    ∧ t.obj (kDomAnchor d) = s.now

/-- The six objects that a new pair writes. -/
def pairKeys (d : Nat) : List Nat := [kDomOffset d, kDomRate d, kDomAnchor d, kDomPrev d 0, kDomPrev d 1, kDomPrev d 2]

theorem State.objsAlone_setObj (s : State) (k : Nat) (v : Word64) : s.objsAlone (s.setObj k v) := rfl

theorem State.objsAlone_setPair (s : State) (d : Nat) (offset rate : Int) : s.objsAlone (s.setPair d offset rate) :=
  (s.objsAlone_setObj _ _).trans <| (State.objsAlone_setObj _ _ _).trans <| (State.objsAlone_setObj _ _ _).trans <|
    (State.objsAlone_setObj _ _ _).trans <| (State.objsAlone_setObj _ _ _).trans (State.objsAlone_setObj _ _ _)

theorem State.objsBut_setPair (s : State) (d : Nat) (offset rate : Int) : s.objsBut (s.setPair d offset rate) (pairKeys d) := by
  intro k hk
  simp only [pairKeys, List.mem_cons, List.not_mem_nil, or_false, not_or] at hk
  simp [State.setPair, State.setN_eq, Ne.symm hk.1, Ne.symm hk.2.1, Ne.symm hk.2.2.1, Ne.symm hk.2.2.2.1, Ne.symm hk.2.2.2.2.1, Ne.symm hk.2.2.2.2.2]

theorem State.pairKept_setPair (s : State) (d : Fin 2) (offset rate : Int) :
    s.pairKept (s.setPair d offset rate) d ∧ (s.setPair d offset rate).obj (kDomOffset d) = BitVec.ofInt 64 offset
      ∧ (s.setPair d offset rate).obj (kDomRate d) = BitVec.ofInt 64 rate := by
  simp [State.pairKept, State.setPair, State.setN_eq, ofNat_wrapInt, kDomRate, kDomOffset, kDomAnchor, kDomPrev, okey_inj]

/-- The offset of a pair of rate `rate` that continues domain d's time, moved by `step` ns. -/
def State.offsetFrom (s : State) (d : Nat) (rate step : Int) : Int := s.domTime d s.nowN + step - (s.nowN : Int) * (2 ^ 40 + rate) / 2 ^ 40

/-- The offset of a new pair fits its object. -/
abbrev State.offsetFits (s : State) (d : Nat) (rate step : Int) : Prop := -2 ^ 63 ≤ s.offsetFrom d rate step ∧ s.offsetFrom d rate step < 2 ^ 63

theorem State.obj_setGd (s : State) (d : Nat) (g : GDom) (k : Nat) : (s.setGd d g).obj k = s.obj k := rfl

/-- Domain d takes a new pair that continues its time, moved by `step` ns, under a slew or none (R57). -/
def State.newPair (s : State) (d : Nat) (rate step : Int) (slew : Option PhaseSlew) : State :=
  (s.setPairFrom d rate step).setGd d { s.gd d with slew := slew }

section
variable (s : State) (d : Fin 2) (rate step : Int) (slew : Option PhaseSlew)

theorem State.gd_newPair : (s.newPair d rate step slew).gd d = { s.gd d with slew := slew } := (TMap.get_set ..).trans (if_pos rfl)

theorem State.setPairFrom_eq : s.setPairFrom d rate step = s.setPair d (s.offsetFrom d rate step) rate := by
  rw [State.setPairFrom, State.offsetFrom]

theorem State.obj_newPair (k : Nat) : (s.newPair d rate step slew).obj k = (s.setPair d (s.offsetFrom d rate step) rate).obj k := by
  rw [State.newPair, State.obj_setGd, State.setPairFrom_eq]

/-- A new pair moves the domain's time by its step and no more, and the pair before it is kept. -/
theorem State.newPair_time (hrate : rate.natAbs < 2 ^ 63) (hfits : s.offsetFits d rate step) :
    (s.newPair d rate step slew).domTime d s.nowN = s.domTime d s.nowN + step ∧ (s.newPair d rate step slew).domRate d = rate
      ∧ s.pairKept (s.newPair d rate step slew) d := by
  obtain ⟨hkept, hoffset, hrateObj⟩ := s.pairKept_setPair d (s.offsetFrom d rate step) rate
  have ho : (s.newPair d rate step slew).domOffset d = s.offsetFrom d rate step :=
    by rw [State.domOffset, State.obj_newPair, hoffset]; exact (toInt_ofInt_of_fits hfits.1 hfits.2)
  have hr : (s.newPair d rate step slew).domRate d = rate :=
    by rw [State.domRate, State.obj_newPair, hrateObj]; exact (toInt_ofInt_of_fits (by omega) (by omega))
  refine ⟨?_, hr, by simpa only [State.pairKept, State.obj_newPair] using hkept⟩
  rw [State.domTime, ho, hr, domTimeOf, State.offsetFrom]
  omega

theorem State.newPair_eq : s.newPair d rate step slew = { s with objs := (s.newPair d rate step slew).objs, gdom := (s.newPair d rate step slew).gdom } := by
  rw [State.newPair, State.setPairFrom_eq, State.objsAlone_setPair]
  rfl

/-- A new pair leaves the objects of the selected timeline. -/
theorem State.obj_newPair_time {k : Nat} (hk : timeKey k) : (s.newPair d rate step slew).obj k = s.obj k := by
  rw [State.obj_newPair, State.objsBut_setPair]
  have hne : ∀ j < 256, k ≠ okey (0x2001 + d) j := fun j hj he => not_timeKey_dom d j hj (he ▸ hk)
  simp only [pairKeys, List.mem_cons, List.not_mem_nil, or_false, not_or]
  exact ⟨hne 2 (by decide), hne 3 (by decide), hne 8 (by decide), hne 9 (by decide), hne 10 (by decide), hne 11 (by decide)⟩

theorem State.selDom_newPair : (s.newPair d rate step slew).selDom = s.selDom := by
  rw [State.selDom, State.objN, State.obj_newPair_time _ _ _ _ _ timeKey_kSelected, State.selDom, State.objN]

end

theorem State.Retimes.pairKept {s t u : State} (h : t.Retimes u) (d : Fin 2) (hk : s.pairKept t d) : s.pairKept u d := by
  have hd : ∀ j < 256, u.obj (okey (0x2001 + d) j) = t.obj (okey (0x2001 + d) j) := fun j hj => h.dom d hj
  obtain ⟨h0, h1, h2, ha⟩ := hk
  exact ⟨(hd 9 (by decide)).trans h0, (hd 10 (by decide)).trans h1, (hd 11 (by decide)).trans h2, (hd 8 (by decide)).trans ha⟩

/-! ### Servo updates (R57, R60, R61) -/

section
variable {s : State} {d : Fin 2} {delta rate : Int}

theorem exec_servoUpdate (d : Fin 2) (delta rate : Int) (s : State) : exec (.servoUpdate d delta rate) s = execServoUpdate d delta rate s := rfl

theorem exec_servoUpdate_unlocked (h : s.domState d ≠ 2) : exec (.servoUpdate d delta rate) s = .next s := by
  rw [exec_servoUpdate, execServoUpdate, if_pos h]

theorem exec_servoUpdate_lost (h : s.domState d = 2) (hout : 2 ^ 29 < rate.natAbs ∨ delta < -1000000) :
    exec (.servoUpdate d delta rate) s = .next (s.leaveLocked d 1) := by
  rw [exec_servoUpdate, execServoUpdate, if_neg (not_not.2 h), if_pos hout]

variable (h : s.domState d = 2) (hrate : rate.natAbs ≤ 2 ^ 29)
include h hrate

theorem exec_servoUpdate_steps (hdelta : 1000 < delta) : exec (.servoUpdate d delta rate) s
    = .next (if d = s.selDom then (s.newPair d rate delta none).selStep true else s.newPair d rate delta none) := by
  rw [exec_servoUpdate, execServoUpdate, if_neg (not_not.2 h), if_neg (by omega), if_pos hdelta]
  dsimp only
  rw [← State.newPair, State.selDom_newPair]

theorem exec_servoUpdate_exact : exec (.servoUpdate d 0 rate) s = .next (s.newPair d rate 0 none) := by
  rw [exec_servoUpdate, execServoUpdate, if_neg (not_not.2 h), if_neg (by omega), if_neg (by omega), if_pos rfl, ← State.newPair]

/-- An error that is not stepped is slewed: at 100 ppm, or when it is small at any rate up to that, which is a free value (R57). -/
theorem exec_servoUpdate_slews (hlo : -1000000 ≤ delta) (hhi : delta ≤ 1000) (h0 : delta ≠ 0) :
    ∃ k x, exec (.servoUpdate d delta rate) s = .next ((s.tookFree k).newPair d (rate + x) 0 (some ⟨delta, x, rate, s.now⟩)) ∧ 1 ≤ x.natAbs
      ∧ x.natAbs ≤ ppm100 ∧ (x < 0 ↔ delta < 0) ∧ (1000 < delta.natAbs → x.natAbs = ppm100) := by
  rw [exec_servoUpdate, execServoUpdate, if_neg (not_not.2 h), if_neg (by omega), if_neg (by omega), if_neg h0]
  have hpos : 0 < ppm100 := by decide
  have signed : ∀ mag : Nat, 1 ≤ mag → mag ≤ ppm100 → let x : Int := if delta < 0 then -mag else mag
      1 ≤ x.natAbs ∧ x.natAbs = mag ∧ (x < 0 ↔ delta < 0) := by
    intro mag hmag hle x
    simp only [x]
    split <;> omega
  dsimp only
  by_cases hsmall : delta.natAbs ≤ 1000
  · simp only [hsmall, decide_true, if_true]
    have hmag : smallSlew s.freeNow ≤ ppm100 := Nat.mod_lt _ hpos
    obtain ⟨h1, h2, h3⟩ := signed (smallSlew s.freeNow) (Nat.succ_pos _) hmag
    exact ⟨1, _, rfl, h1, h2.le.trans hmag, h3, fun hbig => absurd hsmall (by omega)⟩
  · simp only [hsmall, decide_false, Bool.false_eq_true, if_false]
    obtain ⟨h1, h2, h3⟩ := signed ppm100 hpos le_rfl
    exact ⟨0, _, rfl, h1, h2.le, h3, fun _ => h2⟩

end

theorem exec_domainSlewEnd (d : Fin 2) (s : State) : exec (.domainSlewEnd d) s = execDomainSlewEnd d s := rfl

/-- The end of a slew takes the pair of the estimate (R57). -/
theorem exec_domainSlewEnd_of_some {s : State} {d : Fin 2} {w : PhaseSlew} (h : (s.gd d).slew = some w) :
    exec (.domainSlewEnd d) s = .next (if s.nowN < w.anchor.toNat + w.ticks then s else s.newPair d w.estimate 0 none) := by
  rw [exec_domainSlewEnd, execDomainSlewEnd, h]
  dsimp only
  rw [apply_ite Host.Outcome.next, State.newPair]

/-! ### A step of the selected timeline (R59, R60) -/

section
variable (s : State) (arms : Bool)

theorem State.selStep_sel : (s.selStep arms).sel = none := (s.recadences_selStep arms).sel

theorem State.selStep_switch : (s.selStep arms).obj kSwitch = setBit (setFld (s.obj kSwitch) 31 16 (fld (s.obj kSwitch) 31 16 + 1)) 1 true :=
  ((s.recadences_selStep arms).objs kSwitch (by decide)).trans ((State.obj_setObj ..).trans (if_pos rfl))

theorem State.selStep_selDom : (s.selStep arms).selDom = s.selDom := by
  have hobj : (s.selStep arms).obj kSelected = s.obj kSelected :=
    ((s.recadences_selStep arms).objs kSelected (by decide)).trans ((State.obj_setObj ..).trans (if_neg (by decide)))
  rw [State.selDom, State.objN, hobj, State.selDom, State.objN]

theorem State.netTime_of_sel_none {s : State} (h : s.sel = none) : s.netTime = s.domTime s.selDom s.nowN := by
  rw [State.netTime, State.netTimeAt, State.slewRemaining, h]
  exact sub_zero _

/-- After a step the selected timeline is the time of its domain. -/
theorem State.selStep_netTime : (s.selStep arms).netTime = s.domTime s.selDom s.nowN := by
  have h := s.retimes_selStep arms
  have hnow : (s.selStep arms).nowN = s.nowN := congrArg BitVec.toNat h.now
  rw [State.netTime_of_sel_none (s.selStep_sel arms), s.selStep_selDom arms, hnow]
  exact h.domTime ⟨s.selDom, Nat.mod_lt _ (by decide)⟩ _

end

/-! ### A switch of the selected domain (R59) -/

section
variable {s : State} {b : Nat}

theorem State.selectDomain_self : s.selectDomain s.selDom = s := if_pos rfl

/-- The difference that a switch to domain b measures, against the timeline before it (R59). -/
def State.switchError (s : State) (b : Nat) : Int := s.domTime b s.nowN - s.netTime

variable (hb : b < 2)
include hb

theorem State.selDom_setN : (s.setN kSelected b).selDom = b := by
  rw [State.selDom, State.objN_setN_self]
  omega

theorem State.domTime_setN_selected (c : Nat) : (s.setN kSelected b).domTime b c = s.domTime b c :=
  (s.retimes_setObj timeKey_kSelected _).domTime ⟨b, hb⟩ c

theorem State.selectDomain_of_ne (hne : b ≠ s.selDom) : s.selectDomain b
    = if (s.switchError b).natAbs ≤ 1000 then { s.setN kSelected b with sel := if s.switchError b = 0 then none else some ⟨s.switchError b, s.now⟩ }
      else (s.setN kSelected b).selStep s.everLocked := by
  rw [State.selectDomain, if_neg hne, State.selMeasure, State.selDom_setN hb, State.domTime_setN_selected hb]
  rfl

theorem State.selDom_selectDomain : (s.selectDomain b).selDom = b := by
  by_cases hne : b = s.selDom
  · rw [hne, State.selectDomain_self]
  · rw [State.selectDomain_of_ne hb hne]
    split
    · exact State.selDom_setN hb
    · rw [State.selStep_selDom, State.selDom_setN hb]

end

/-- What is left of a slew that starts now: its difference, less 100 ns for every 1,000,000 ns (R59). -/
theorem State.slewRemaining_started {s : State} {d : Int} (h : s.sel = if d = 0 then none else some ⟨d, s.now⟩) (c : Nat) :
    s.slewRemaining c = if d < 0 then -((d.natAbs - (c - s.nowN) / 10000 : Nat) : Int) else ((d.natAbs - (c - s.nowN) / 10000 : Nat) : Int) := by
  by_cases h0 : d = 0
  · rw [State.slewRemaining, h, if_pos h0, h0]
    simp
  · rw [State.slewRemaining, h, if_neg h0]
    rfl

section
variable {s : State} {src : Src} {r : Requester} {v : Word64} (hacc : s.accepts src r 0x2000 2 v)
include hacc

theorem exec_domainSwitch_accepted : exec (.domainSwitch src v) s = .next (s.selectDomain v.toNat) := by
  have hexec : exec (.domainSwitch src v) s = s.command src 0x2000 2 v fun _ s => .ok (s.selectDomain v.toNat) := rfl
  rw [hexec]
  exact State.command_ok hacc rfl

end

/-- Within 1,000 ns a switch slews: the timeline goes on where it stood (R59). -/
theorem State.switch_slews {s : State} {b : Nat} (hb : b < 2) (hne : b ≠ s.selDom) (hd : (s.switchError b).natAbs ≤ 1000) :
    let t := s.selectDomain b
    t.netTime = s.netTime
      ∧ (∀ c, t.slewRemaining c = if s.switchError b < 0 then -(((s.switchError b).natAbs - (c - s.nowN) / 10000 : Nat) : Int)
          else (((s.switchError b).natAbs - (c - s.nowN) / 10000 : Nat) : Int))
      ∧ t = { s with objs := t.objs, sel := t.sel } ∧ s.objsBut t [kSelected] := by
  intro t
  have ht : t = { s.setN kSelected b with sel := if s.switchError b = 0 then none else some ⟨s.switchError b, s.now⟩ } :=
    (State.selectDomain_of_ne hb hne).trans (if_pos hd)
  have hslew : ∀ c, t.slewRemaining c = _ := State.slewRemaining_started (by rw [ht]; rfl)
  have hnow : t.nowN = s.nowN := by rw [ht]; rfl
  have htime : t.domTime b s.nowN = s.domTime b s.nowN := by rw [ht]; exact State.domTime_setN_selected hb _
  refine ⟨?_, hnow ▸ hslew, by rw [ht]; rfl, fun k hk => ?_⟩
  · rw [State.netTime, State.netTimeAt, State.selDom_selectDomain hb, hnow, htime, hslew, hnow, State.switchError]
    omega
  · rw [ht]
    exact (s.onlyObjs_setObj kSelected _).2.1 k hk

/-! ### Holdover (R58, R61) -/

section
variable {s : State} (d : Fin 2) (st : Nat)

theorem State.selDom_setN_domState : (s.setN (kDomState d) st).selDom = s.selDom := by
  rw [State.selDom, State.objN_setN_of_ne _ (by simp only [kDomState, kSelected, okey]; omega), State.selDom]

theorem State.dom_setN_domState {j : Nat} (hj : j < 256) (h1 : j ≠ 1) :
    (s.setN (kDomState d) st).obj (okey (0x2001 + d) j) = s.obj (okey (0x2001 + d) j) := by
  rw [State.setN_eq, State.obj_setObj, if_neg]
  rw [kDomState, kDom_inj d (by decide) hj]
  exact Ne.symm h1

theorem State.retimes_leaveLocked : (s.setN (kDomState d) st).Retimes (s.leaveLocked d st) := by
  unfold State.leaveLocked
  dsimp only
  split
  · exact State.retimes_selectDomain ..
  · exact .refl _

theorem State.leaveLocked_unselected (h : s.selDom ≠ d) : s.leaveLocked d st = s.setN (kDomState d) st := by
  rw [State.leaveLocked]
  rw [State.selDom_setN_domState, if_neg]
  rintro ⟨-, hsel, -⟩
  exact h hsel.symm

/-- With auto_failover set, the timeline follows the other domain when that one is locked (R61). -/
theorem State.selDom_leaveLocked (hst : s.domState d = 2) (h : s.selDom = d) (hauto : s.oBit (okey 0x2000 4) 0 = true) (hother : s.domState (1 - d) = 2) :
    (s.leaveLocked d st).selDom = 1 - d := by
  rw [State.leaveLocked]
  rw [State.selDom_setN_domState, if_pos, State.selDom_selectDomain (by omega)]
  refine ⟨hst, h.symm, ?_, ?_⟩
  · rw [State.oBit_eq, State.setN_eq, State.obj_setObj, if_neg (by simp only [kDomState, okey]; omega)]
    exact hauto
  · rw [State.domState, State.objN_setN_of_ne _ (by simp only [kDomState, okey]; omega)]
    exact hother

end

/-- Domain d in holdover since now, on the grandmaster that it lost (R58, R61). -/
def State.heldOver (s : State) (d : Nat) : State := (s.setGd d { s.gd d with holdSince := s.now, lostGm := s.obj (kDomGm d) }).leaveLocked d 3

/-- A locked domain enters holdover on its last pair (R58, R61). -/
theorem State.holdsOver (s : State) (d : Fin 2) (h : s.domState d = 2) :
    let t := s.heldOver d
    t.domState d = 3 ∧ (t.obj (kDomOffset d) = s.obj (kDomOffset d) ∧ t.obj (kDomRate d) = s.obj (kDomRate d) ∧ t.obj (kDomEpoch d) = s.obj (kDomEpoch d))
      ∧ (t.gd d).holdSince = s.now ∧ (t.gd d).lostGm = s.obj (kDomGm d)
      ∧ (s.selDom ≠ d → t = { s with objs := t.objs, gdom := t.gdom } ∧ s.objsBut t [kDomState d])
      ∧ (s.selDom = d → s.oBit (okey 0x2000 4) 0 = true → s.domState (1 - d) = 2 → t.selDom = 1 - d) := by
  unfold State.heldOver
  generalize hu : s.setGd d { s.gd d with holdSince := s.now, lostGm := s.obj (kDomGm d) } = u
  have hobj : ∀ k, u.obj k = s.obj k := fun k => by rw [← hu, State.obj_setGd]
  have hgd : u.gd d = { s.gd d with holdSince := s.now, lostGm := s.obj (kDomGm d) } := by rw [← hu]; exact (TMap.get_set ..).trans (if_pos rfl)
  have hsel : u.selDom = s.selDom := congrArg (fun w : Word64 => w.toNat % 2) (hobj kSelected)
  have hr := u.retimes_leaveLocked d 3
  have hdom : ∀ j < 256, j ≠ 1 → (u.leaveLocked d 3).obj (okey (0x2001 + d) j) = s.obj (okey (0x2001 + d) j) := fun j hj h1 =>
    ((hr.dom d hj).trans (u.dom_setN_domState d 3 hj h1)).trans (hobj _)
  refine ⟨(hr.domState d).trans (u.objN_setN_self (kDomState d) 3), ⟨hdom 2 (by decide) (by decide), hdom 3 (by decide) (by decide), hdom 4 (by decide) (by decide)⟩,
    ?_, ?_, fun hne => ?_, fun heq hauto hother => ?_⟩
  · rw [hr.gd d]
    exact congrArg GDom.holdSince hgd
  · rw [hr.gd d]
    exact congrArg GDom.lostGm hgd
  · rw [State.leaveLocked_unselected d 3 (by rwa [hsel])]
    exact ⟨by rw [← hu]; rfl, fun k hk => ((u.onlyObjs_setObj (kDomState d) _).2.1 k hk).trans (hobj k)⟩
  · refine State.selDom_leaveLocked d 3 ?_ (by rw [hsel, heq]) ?_ ?_
    · rw [State.domState, State.objN, hobj]; exact h
    · rw [State.oBit_eq, hobj]; exact hauto
    · rw [State.domState, State.objN, hobj]; exact hother

theorem exec_holdoverExpiry (d : Fin 2) (s : State) : exec (.holdoverExpiry d) s = .next
    (if s.domState d ≠ 3 ∨ s.nowN ≤ (s.gd d).holdSince.toNat + s.objN (kDomHold d) * 1000000 then s else (s.setN (kDomState d) 1).failover) := by
  have hexec : exec (.holdoverExpiry d) s = execHoldoverExpiry d s := rfl
  rw [hexec, execHoldoverExpiry, apply_ite Host.Outcome.next]

theorem State.retimes_failover (s : State) : s.Retimes s.failover := by
  unfold State.failover
  dsimp only
  split
  · exact s.retimes_selectDomain _
  · exact .refl s

/-! ### A lock (R58, R67, R468) -/

/-- Domain d locked on the pair that the servo hands over, with its epoch counted on (R58). -/
def State.lockedOn (s : State) (d : Nat) (gm : Word64) (offset rate : Int) : State :=
  ((((s.setPair d offset rate).setGd d { s.gd d with slew := none }).setObj (kDomGm d) gm).setN (kDomState d) 2).count (kDomEpoch d) 32

section
variable (s : State) (d : Fin 2) (gm : Word64) (offset rate : Int)

theorem State.lockedOn_eq : s.lockedOn d gm offset rate = { s with objs := (s.lockedOn d gm offset rate).objs, gdom := (s.lockedOn d gm offset rate).gdom } := by
  have h : ((s.setPair d offset rate).setGd d { s.gd d with slew := none }).objsAlone (s.lockedOn d gm offset rate) := by
    rw [State.lockedOn, State.count_eq, State.setN_eq]
    exact (State.objsAlone_setObj _ _ _).trans <| (State.objsAlone_setObj _ _ _).trans (State.objsAlone_setObj _ _ _)
  generalize s.lockedOn d gm offset rate = t at h ⊢
  have hp := s.objsAlone_setPair d offset rate
  generalize s.setPair d offset rate = p at h hp
  rw [h, hp]
  rfl

theorem State.gd_lockedOn : (s.lockedOn d gm offset rate).gd d = { s.gd d with slew := none } := (TMap.get_set ..).trans (if_pos rfl)

theorem State.dom_lockedOn : (s.lockedOn d gm offset rate).domState d = 2 ∧ (s.lockedOn d gm offset rate).obj (kDomGm d) = gm
      ∧ (s.lockedOn d gm offset rate).obj (kDomOffset d) = BitVec.ofInt 64 offset ∧ (s.lockedOn d gm offset rate).obj (kDomRate d) = BitVec.ofInt 64 rate
      ∧ (s.lockedOn d gm offset rate).obj (kDomAnchor d) = s.now
      ∧ (s.lockedOn d gm offset rate).objN (kDomEpoch d) = (s.objN (kDomEpoch d) + 1) % 2 ^ 32 := by
  obtain ⟨⟨-, -, -, hanchor⟩, hoffset, hrate⟩ := s.pairKept_setPair d offset rate
  have hepoch := (s.objsBut_setPair d offset rate) (kDomEpoch d) (by simp [pairKeys, kDomEpoch, kDomOffset, kDomRate, kDomAnchor, kDomPrev, okey_inj])
  have hlt := Nat.mod_lt ((s.obj (kDomEpoch d)).toNat + 1) (Nat.two_pow_pos 32)
  simp only [kDomOffset, kDomRate, kDomAnchor, kDomEpoch] at hoffset hrate hanchor hepoch
  simp [State.lockedOn, State.domState, State.objN, State.setN_eq, State.count_eq, State.obj_setGd, kDomState, kDomGm, kDomOffset, kDomRate, kDomAnchor, kDomEpoch,
    okey_inj, hanchor, hoffset, hrate, hepoch, incWrap]
  omega

/-- The objects that a lock writes: its pair, the domain's state, its grandmaster and its epoch. -/
def lockKeys (d : Nat) : List Nat :=
  [kDomState d, kDomGm d, kDomOffset d, kDomRate d, kDomAnchor d, kDomEpoch d, kDomPrev d 0, kDomPrev d 1, kDomPrev d 2]

theorem State.objsBut_lockedOn : s.objsBut (s.lockedOn d gm offset rate) (lockKeys d) := by
  intro k hk
  simp only [lockKeys, List.mem_cons, List.not_mem_nil, or_false, not_or] at hk
  obtain ⟨hstate, hgm, hoffset, hrate, hanchor, hepoch, h0, h1, h2⟩ := hk
  rw [State.lockedOn, State.count_eq, State.obj_setObj, if_neg (Ne.symm hepoch), State.setN_eq, State.obj_setObj, if_neg (Ne.symm hstate),
    State.obj_setObj, if_neg (Ne.symm hgm), State.obj_setGd, s.objsBut_setPair d offset rate k]
  simp only [pairKeys, List.mem_cons, List.not_mem_nil, or_false, not_or]
  exact ⟨hoffset, hrate, hanchor, h0, h1, h2⟩

theorem State.selDom_lockedOn : (s.lockedOn d gm offset rate).selDom = s.selDom := by
  have hne : ∀ j < 256, kSelected ≠ okey (0x2001 + d) j := fun j hj he => not_timeKey_dom d j hj (he ▸ timeKey_kSelected)
  have hobj := s.objsBut_lockedOn d gm offset rate kSelected (by
    simp only [lockKeys, List.mem_cons, List.not_mem_nil, or_false, not_or]
    exact ⟨hne 1 (by decide), hne 5 (by decide), hne 2 (by decide), hne 3 (by decide), hne 8 (by decide), hne 4 (by decide), hne 9 (by decide), hne 10 (by decide),
      hne 11 (by decide)⟩)
  rw [State.selDom, State.objN, hobj, State.selDom, State.objN]

/-- The state after a lock but for its first one: the selected timeline is measured again when it follows the domain (R468). -/
def State.remeasured (s : State) (d : Nat) (gm : Word64) (offset rate : Int) : State :=
  if d = s.selDom then (s.lockedOn d gm offset rate).selMeasure s.netTime s.everLocked else s.lockedOn d gm offset rate

theorem State.retimes_remeasured : (s.lockedOn d gm offset rate).Retimes (s.remeasured d gm offset rate) := by
  unfold State.remeasured
  split
  · exact State.retimes_selMeasure ..
  · exact .refl _

theorem exec_domainLock_of_unlocked (hst : s.domState d < 2) (hrate : rate.natAbs ≤ 2 ^ 29) : exec (.domainLock d gm offset rate) s
    = .next (if s.everLocked then s.remeasured d gm offset rate else State.armFirstLock { s.remeasured d gm offset rate with everLocked := true }) := by
  have hexec : exec (.domainLock d gm offset rate) s = execDomainLock d gm offset rate s := rfl
  rw [hexec, execDomainLock, if_neg (by omega), if_neg (by omega)]
  dsimp only
  rw [← State.lockedOn, State.selDom_lockedOn, Bool.not_not, ← State.remeasured]
  generalize s.remeasured d gm offset rate = u
  cases s.everLocked
  · exact congrArg Host.Outcome.next ((if_pos rfl).trans (if_neg Bool.false_ne_true).symm)
  · exact congrArg Host.Outcome.next ((if_neg Bool.false_ne_true).trans (if_pos rfl).symm)

/-- What a lock leaves: the domain's objects are those of the new pair, and the device has been locked. -/
theorem domainLock_locks (hst : s.domState d < 2) (hrate : rate.natAbs ≤ 2 ^ 29) : ∃ t, exec (.domainLock d gm offset rate) s = .next t
    ∧ (∀ j < 256, t.obj (okey (0x2001 + d) j) = (s.lockedOn d gm offset rate).obj (okey (0x2001 + d) j))
    ∧ t.everLocked = true ∧ t.gd d = (s.lockedOn d gm offset rate).gd d
    ∧ (s.everLocked = true → s.selDom ≠ d → t = s.lockedOn d gm offset rate) := by
  have hm := s.retimes_remeasured d gm offset rate
  refine ⟨_, exec_domainLock_of_unlocked s d gm offset rate hst hrate, ?_⟩
  by_cases hever : s.everLocked = true
  · rw [if_pos hever]
    refine ⟨fun j hj => hm.dom d hj, ?_, hm.gd d, fun _ hsel => if_neg (Ne.symm hsel)⟩
    rw [hm.everLocked, State.lockedOn_eq]
    exact hever
  · rw [if_neg hever]
    generalize s.remeasured d gm offset rate = u at hm ⊢
    have ha := (State.recadences_armFirstLock { u with everLocked := true }).retimes
    exact ⟨fun j hj => (ha.dom d hj).trans (hm.dom d hj), ha.everLocked, (ha.gd d).trans (hm.gd d), fun h => absurd h hever⟩

end

/-! ### The obligation -/

theorem grandmasterReselected_returns (s : State) (d : Fin 2) (gm : Word64) :
    (s.domState d ≠ 3 → exec (.grandmasterReselected d gm) s = .next s)
    ∧ (s.domState d = 3 → ∃ t, exec (.grandmasterReselected d gm) s = .next t ∧ t.domState d = (if gm = (s.gd d).lostGm then 2 else 1)
      ∧ s.onlyObjs t [kDomState d]) := by
  have hexec : exec (.grandmasterReselected d gm) s = execGrandmasterReselected d gm s := rfl
  rw [hexec, execGrandmasterReselected]
  refine ⟨fun h => if_pos h, fun h => ⟨_, if_neg (not_not.2 h), ?_, s.onlyObjs_setObj ..⟩⟩
  rw [State.domState, State.objN_setN_self]
  split <;> rfl

theorem selectedSlewEnd_ends (s : State) :
    (s.slewRemaining s.nowN = 0 → ∃ t, exec .selectedSlewEnd s = .next t ∧ t.sel = none ∧ t.netTime = s.netTime ∧ t = { s with sel := none })
    ∧ (s.slewRemaining s.nowN ≠ 0 → exec .selectedSlewEnd s = .next s) := by
  have hexec : exec .selectedSlewEnd s = execSelectedSlewEnd s := rfl
  rw [hexec, execSelectedSlewEnd]
  refine ⟨fun h => ⟨_, if_pos h, rfl, ?_, rfl⟩, fun h => if_neg h⟩
  rw [State.netTime_of_sel_none (s := { s with sel := none }) rfl, State.netTime, State.netTimeAt, h, sub_zero]
  rfl

/-- Settles O34: a new pair continues its domain's time, and whatever a step, a slew or a switch does to the selected timeline leaves the domains' objects alone. -/
theorem domainsAndTimeline : Obligations.DomainsAndTimeline := by
  unfold Obligations.DomainsAndTimeline
  refine ⟨fun s d delta rate => ?_, fun s d => ?_, fun s => ?_⟩
  · intro old fits kept
    refine ⟨exec_servoUpdate_unlocked, fun hst hout => ?_, fun hst hrate hdelta hfits => ?_, fun hst hrate hdelta hfits => ?_,
      fun hst hrate hlo hhi h0 hfits => ?_, fun w hw => ⟨fun hnow => ?_, fun hnow hrate hfits => ?_⟩, fun hw => ?_⟩
    · have hr := s.retimes_leaveLocked d 1
      have hdom : ∀ j < 256, j ≠ 1 → (s.leaveLocked d 1).obj (okey (0x2001 + d) j) = s.obj (okey (0x2001 + d) j) := fun j hj h1 =>
        (hr.dom d hj).trans (s.dom_setN_domState d 1 hj h1)
      exact ⟨_, exec_servoUpdate_lost hst hout, (hr.domState d).trans (s.objN_setN_self (kDomState d) 1), hdom 2 (by decide) (by decide), hdom 3 (by decide) (by decide)⟩
    · obtain ⟨htime, hr, hkept⟩ := s.newPair_time d rate delta none (by omega) hfits
      have hgd := s.gd_newPair d rate delta none
      refine ⟨_, exec_servoUpdate_steps hst hrate hdelta, ?_⟩
      by_cases hsel : s.selDom = d
      · rw [if_pos hsel.symm]
        have hs := (s.newPair d rate delta none).retimes_selStep true
        refine ⟨(hs.domTime d _).trans htime, (hs.domRate d).trans hr, hs.pairKept d hkept, by rw [hs.gd d, hgd], fun _ => ⟨State.selStep_sel .., ?_⟩,
          fun hne => absurd hsel hne⟩
        rw [State.selStep_switch, State.obj_newPair_time _ _ _ _ _ timeKey_kSwitch]
      · rw [if_neg (Ne.symm hsel)]
        exact ⟨htime, hr, hkept, by rw [hgd], fun h => absurd h hsel, fun _ => s.newPair_eq ..⟩
    · obtain ⟨htime, hr, hkept⟩ := s.newPair_time d rate 0 none (by omega) hfits
      subst hdelta
      exact ⟨_, exec_servoUpdate_exact hst hrate, htime.trans (add_zero _), hr, hkept, by rw [State.gd_newPair], s.newPair_eq ..⟩
    · obtain ⟨k, x, hexec, hx1, hx, hsign, hbig⟩ := exec_servoUpdate_slews hst hrate hlo hhi h0
      obtain ⟨htime, hr, hkept⟩ := (s.tookFree k).newPair_time d (rate + x) 0 (some ⟨delta, x, rate, s.now⟩) (by simp only [ppm100] at hx; omega) (hfits x hx)
      refine ⟨_, x, hexec, hx1, hx, hsign, hbig, htime.trans (add_zero _), hr, hkept, by rw [State.gd_newPair], ?_⟩
      rw [State.newPair_eq]
      rfl
    · exact (exec_domainSlewEnd_of_some hw).trans (congrArg _ (if_pos hnow))
    · obtain ⟨htime, hr, hkept⟩ := s.newPair_time d w.estimate 0 none (by omega) hfits
      exact ⟨_, (exec_domainSlewEnd_of_some hw).trans (congrArg _ (if_neg (Nat.not_lt.2 hnow))), htime.trans (add_zero _), hr, hkept,
        by rw [State.gd_newPair], s.newPair_eq ..⟩
    · rw [exec_domainSlewEnd, execDomainSlewEnd, hw]
  · intro pair
    have hexec : exec (.grandmasterLost d) s = execGrandmasterLost d s := rfl
    refine ⟨fun h => hexec.trans (if_pos h), fun h => ⟨_, hexec.trans (if_neg (not_not.2 h)), s.holdsOver d h⟩, fun gm => grandmasterReselected_returns s d gm,
      fun h => ?_, fun h hexp => ?_, fun gm offset rate => ⟨fun h => ?_, fun h hrate => ?_, fun h hrate => ?_⟩⟩
    · rw [exec_holdoverExpiry, if_pos h]
    · have hr := (s.setN (kDomState d) 1).retimes_failover
      have hdom : ∀ j < 256, j ≠ 1 → (s.setN (kDomState d) 1).failover.obj (okey (0x2001 + d) j) = s.obj (okey (0x2001 + d) j) := fun j hj h1 =>
        (hr.dom d hj).trans (s.dom_setN_domState d 1 hj h1)
      exact ⟨_, (exec_holdoverExpiry d s).trans (congrArg _ (if_neg (by omega))), (hr.domState d).trans (s.objN_setN_self (kDomState d) 1),
        hdom 2 (by decide) (by decide), hdom 3 (by decide) (by decide), hdom 4 (by decide) (by decide)⟩
    · exact if_pos h
    · exact ⟨_, (if_neg (by omega)).trans (if_pos hrate), s.objN_setN_self (kDomState d) 1, s.onlyObjs_setObj ..⟩
    · obtain ⟨t, hexec, hdom, hever, hgd, hrest⟩ := domainLock_locks s d gm offset rate h hrate
      obtain ⟨hstate, hgm, hoffset, hrateObj, hanchor, hepoch⟩ := s.dom_lockedOn d gm offset rate
      refine ⟨t, hexec, ?_, (hdom 5 (by decide)).trans hgm, (hdom 2 (by decide)).trans hoffset, (hdom 3 (by decide)).trans hrateObj, (hdom 8 (by decide)).trans hanchor,
        ?_, hever, by rw [hgd, State.gd_lockedOn], fun he hsel => ?_⟩
      · exact (congrArg BitVec.toNat (hdom 1 (by decide))).trans hstate
      · exact (congrArg BitVec.toNat (hdom 4 (by decide))).trans hepoch
      · rw [hrest he hsel]
        exact ⟨s.lockedOn_eq .., s.objsBut_lockedOn d gm offset rate⟩
  · refine ⟨fun src r v hacc hv => ⟨fun heq => ?_, fun hne => ⟨fun hd => ?_, fun hd => ?_⟩⟩, (selectedSlewEnd_ends s).1, (selectedSlewEnd_ends s).2⟩
    · rw [exec_domainSwitch_accepted hacc, heq, State.selectDomain_self]
    · obtain ⟨hnet, hslew, hrest, hobjs⟩ := State.switch_slews hv hne hd
      exact ⟨_, exec_domainSwitch_accepted hacc, State.selDom_selectDomain hv, hnet, fun c _ => hslew c, hrest, hobjs⟩
    · refine ⟨_, exec_domainSwitch_accepted hacc, State.selDom_selectDomain hv, ?_⟩
      have hstep : s.selectDomain v.toNat = (s.setN kSelected v.toNat).selStep s.everLocked := (State.selectDomain_of_ne hv hne).trans (if_neg (Nat.not_le.2 hd))
      rw [hstep]
      refine ⟨?_, State.selStep_sel .., ?_⟩
      · rw [State.selStep_netTime, State.selDom_setN hv]
        exact State.domTime_setN_selected hv _
      · rw [State.selStep_switch, State.setN_eq, State.obj_setObj, if_neg (by decide)]

end Sys2Proof.Machine
end

section
/-! How cadence entries fire and triggers pulse (O35). -/

namespace Sys2Proof.Machine

/-! ### What a firing leaves alone (R64) -/

theorem kCad_inj (e i j : Nat) : kCad e i = kCad e j ↔ i = j := by
  simp only [kCad, okey]
  omega

/-- The firing of entry e counted, and its firing index moved on (Table 3-2). -/
def State.firingCounted (s : State) (e : Nat) (m : TMap Nat) : State := { s.cadFired e with cadK := m }

theorem State.cadK_firingCounted (s : State) (e : Nat) (m : TMap Nat) : (s.firingCounted e m).cadK = m := rfl

/-- What a firing changes: the enable, the next grid point and the counts of its entry, its firing index, and the firings that wait. -/
abbrev State.firesOnly (s u : State) (e : Nat) : Prop :=
  u = { s with objs := u.objs, cadK := u.cadK, cadDue := u.cadDue } ∧ s.objsBut u [kCad e 0, kCad e 4, kCad e 5]

section
variable (s : State) (e : Nat)

theorem State.objsBut_setObj {k : Nat} {ks : List Nat} (hk : k ∈ ks) (v : Word64) : s.objsBut (s.setObj k v) ks := by
  intro j hj
  rw [State.obj_setObj, if_neg]
  rintro rfl
  exact hj hk

theorem State.objsBut_firingCounted (m : TMap Nat) : s.objsBut (s.firingCounted e m) [kCad e 0, kCad e 4, kCad e 5] :=
  s.objsBut_setObj (by simp) _

theorem State.cad_firingCounted_of_ne (m : TMap Nat) {j : Nat} (h : 5 ≠ j) : (s.firingCounted e m).cad e j = s.cad e j :=
  s.cad_setObj_of_ne (fun h' => h ((kCad_inj ..).1 h')) _

theorem State.objsBut_cadOff : s.objsBut (s.cadOff e) [kCad e 0, kCad e 4, kCad e 5] := fun k hk =>
  (State.objsBut_setObj _ (by simp) _ k hk).trans (s.objsBut_setObj (by simp) _ k hk)

theorem State.objsBut_cadNext (n : Nat) : s.objsBut (s.setN (kCad e 4) n) [kCad e 0, kCad e 4, kCad e 5] := s.objsBut_setObj (by simp) _

/-- The state after entry e has fired at a grid point: the next one is a period later, or a one-shot is off (R64). -/
def State.gridFired : State :=
  let u := s.firingCounted e (TMap.set (fun _ => 0) s.cadK e (TMap.get (fun _ => 0) s.cadK e + 1))
  if s.cadPeriod e = 0 then u.cadOff e else u.setN (kCad e 4) (s.cadNext e + s.cadPeriod e)

end

/-- Counting a firing and then changing the enable or the next grid point is a firing's change. -/
theorem State.firesOnly_of_counted {s t u : State} {e : Nat} {m : TMap Nat} (ht : t = s.firingCounted e m) (hu : t.objsAlone u)
    (hobjs : t.objsBut u [kCad e 0, kCad e 4, kCad e 5]) :
    u = { s with objs := u.objs, cadK := u.cadK } ∧ s.objsBut u [kCad e 0, kCad e 4, kCad e 5] := by
  refine ⟨?_, fun k hk => (hobjs k hk).trans (ht ▸ s.objsBut_firingCounted e m k hk)⟩
  rw [hu, ht]
  rfl

theorem State.objsAlone_cadOff (s : State) (e : Nat) : s.objsAlone (s.cadOff e) := (s.objsAlone_setObj _ _).trans (State.objsAlone_setObj _ _ _)

/-- The change of a firing, once it is counted: the entry is off, or at its next grid point. -/
theorem State.firesOnly_ite {s : State} {e : Nat} {m : TMap Nat} {c : Prop} [Decidable c] (n : Nat) :
    let u := if c then (s.firingCounted e m).cadOff e else (s.firingCounted e m).setN (kCad e 4) n
    u = { s with objs := u.objs, cadK := u.cadK } ∧ s.objsBut u [kCad e 0, kCad e 4, kCad e 5] := by
  dsimp only
  split
  · exact State.firesOnly_of_counted rfl (State.objsAlone_cadOff _ e) (State.objsBut_cadOff _ e)
  · exact State.firesOnly_of_counted rfl (State.objsAlone_setObj _ _ _) (State.objsBut_cadNext _ e n)

theorem State.firesOnly_gridFired (s : State) (e : Nat) :
    s.gridFired e = { s with objs := (s.gridFired e).objs, cadK := (s.gridFired e).cadK } ∧ s.objsBut (s.gridFired e) [kCad e 0, kCad e 4, kCad e 5] :=
  State.firesOnly_ite _

/-! ### When an entry fires (R64) -/

/-- Entry e is enabled on network time, and the selected timeline has reached its grid point (R64, R68). -/
def State.gridDue (s : State) (e : Nat) : Bool :=
  s.cadEnabled e && !s.cadSensor e && decide (s.cadNext e ≠ 0) && decide ((s.cadNext e : Int) ≤ s.netTime)

section
variable {s : State} {e : Nat}

theorem State.fire_other {a : Nat} (h : s.cadAction e ≠ a) : s.fire e a = none := if_pos h

/-- The late or sensor firing of entry e that is due, if there is one (R469). -/
def State.dueFiring (s : State) (e : Nat) : Option Due := s.cadDue.find? fun d => decide (d.entry = e) && decide (d.at_.toNat ≤ s.nowN)

theorem State.dueFiring_of_nil (h : s.cadDue = []) : s.dueFiring e = none := by
  rw [State.dueFiring, h]
  rfl

theorem State.fire_due {d : Due} (hdue : s.dueFiring e = some d) {a : Nat} (ha : s.cadAction e = a) : s.fire e a =
    some (State.firingCounted { s with cadDue := s.cadDue.erase d } e (TMap.set (fun _ => 0) s.cadK e (TMap.get (fun _ => 0) s.cadK e + 1)),
      ⟨d.at_.toNat, BitVec.ofNat 64 (wrapInt 64 (s.netTimeAt d.at_.toNat)), TMap.get (fun _ => 0) s.cadK e⟩) := by
  rw [State.fire, if_neg (not_not.2 ha), ← State.dueFiring, hdue]
  rfl

variable (hwait : s.dueFiring e = none)
include hwait

theorem State.fire_at_grid {a : Nat} (ha : s.cadAction e = a) : s.fire e a =
    if s.gridDue e then some (s.gridFired e, ⟨s.nowN - (s.netTime - s.cadNext e).toNat, BitVec.ofNat 64 (s.cadNext e), TMap.get (fun _ => 0) s.cadK e⟩) else none := by
  let counted := s.firingCounted e (TMap.set (fun _ => 0) s.cadK e (TMap.get (fun _ => 0) s.cadK e + 1))
  have hfire : s.fire e a = if s.cadEnabled e && !s.cadSensor e && s.cadNext e != 0 && decide ((s.cadNext e : Int) ≤ s.netTime) then
      some (if counted.cadPeriod e = 0 then counted.cadOff e else counted.setN (kCad e 4) (s.cadNext e + counted.cadPeriod e),
        ⟨s.nowN - (s.netTime - s.cadNext e).toNat, BitVec.ofNat 64 (s.cadNext e), TMap.get (fun _ => 0) s.cadK e⟩) else none := by
    rw [State.fire, if_neg (not_not.2 ha), ← State.dueFiring, hwait]
    rfl
  have hperiod : counted.cadPeriod e = s.cadPeriod e := congrArg BitVec.toNat (s.cad_firingCounted_of_ne e _ (by decide))
  have hne : (s.cadNext e != 0) = decide (s.cadNext e ≠ 0) := by simp [bne, beq_eq_decide]
  rw [hfire, hperiod, hne]
  rfl

theorem State.fire_not_due (h : s.gridDue e = false) (a : Nat) : s.fire e a = none := by
  by_cases ha : s.cadAction e = a
  · rw [State.fire_at_grid hwait ha, h]
    rfl
  · exact State.fire_other ha

end

theorem State.firesOnly_of_fire {s u : State} {e a : Nat} {f : Firing} (h : s.fire e a = some (u, f)) : s.firesOnly u e := by
  by_cases ha : s.cadAction e = a
  · cases hdue : s.dueFiring e with
    | some d =>
      rw [State.fire_due hdue ha] at h
      cases h
      exact ⟨rfl, State.objsBut_firingCounted _ e _⟩
    | none =>
      rw [State.fire_at_grid hdue ha] at h
      split at h
      · cases h
        obtain ⟨hrest, hobjs⟩ := s.firesOnly_gridFired e
        exact ⟨by rw [hrest], hobjs⟩
      · cases h
  · rw [State.fire_other ha] at h
    cases h

/-- What a firing at a grid point leaves: one more firing counted, the firing index moved on, and the entry at its next grid point or off (R64, Table 3-2). -/
theorem State.gridFired_entry (s : State) (e : Nat) : let u := s.gridFired e
    u.cad e 5 = setFld (s.cad e 5) 63 32 (fld (s.cad e 5) 63 32 + 1) ∧ TMap.get (fun _ => 0) u.cadK e = TMap.get (fun _ => 0) s.cadK e + 1
    ∧ (s.cadPeriod e ≠ 0 → u.cadNext e = (s.cadNext e + s.cadPeriod e) % 2 ^ 64 ∧ u.cadEnabled e = s.cadEnabled e)
    ∧ (s.cadPeriod e = 0 → u.cadNext e = 0 ∧ u.cadEnabled e = false) := by
  intro u
  let counted := s.firingCounted e (TMap.set (fun _ => 0) s.cadK e (TMap.get (fun _ => 0) s.cadK e + 1))
  have hcount : counted.cad e 5 = setFld (s.cad e 5) 63 32 (fld (s.cad e 5) 63 32 + 1) := (State.obj_setObj ..).trans (if_pos rfl)
  have hk : TMap.get (fun _ => 0) counted.cadK e = TMap.get (fun _ => 0) s.cadK e + 1 := by
    rw [State.cadK_firingCounted, TMap.get_set, if_pos rfl]
  have hne : ∀ {i j : Nat}, i ≠ j → kCad e i ≠ kCad e j := fun h h' => h ((kCad_inj ..).1 h')
  by_cases h0 : s.cadPeriod e = 0
  · have hu : u = counted.cadOff e := if_pos h0
    rw [hu]
    refine ⟨?_, hk, fun h => absurd h0 h, fun _ => ⟨?_, ?_⟩⟩
    · rw [State.cadOff, State.cad_setObj_of_ne (hne (by decide)), State.cad_setObj_of_ne (hne (by decide)), hcount]
    · rw [State.cadNext, State.cadOff, State.cad, State.obj_setObj, if_pos rfl]
      rfl
    · rw [State.cadEnabled, State.cadOff, State.cad_setObj_of_ne (hne (by decide)), State.cad, State.obj_setObj, if_pos rfl]
      simp [bit, setBit]
  · have hu : u = counted.setN (kCad e 4) (s.cadNext e + s.cadPeriod e) := if_neg h0
    rw [hu, State.setN_eq]
    refine ⟨?_, hk, fun _ => ⟨?_, ?_⟩, fun h => absurd h h0⟩
    · rw [State.cad_setObj_of_ne (hne (by decide)), hcount]
    · rw [State.cadNext, State.cad, State.obj_setObj, if_pos rfl, BitVec.toNat_ofNat]
    · rw [State.cadEnabled, State.cad_setObj_of_ne (hne (by decide)), State.cad_firingCounted_of_ne _ e _ (by decide), State.cadEnabled]

/-! ### Trigger outputs (R70) -/

/-- The objects of trigger output o: its configuration, its count of pulses, and its count of overlaps. -/
def kTrig (o sub : Nat) : Nat := okey (0x2010 + o) sub

section
variable {s : State} {o : Nat}

/-- The edge leaves when the output is driven. -/
def State.edgeOut (s : State) (o : Nat) (at_ : Word64) (rise : Bool) : List Out :=
  if s.oBit (kTrig o 1) 0 then .edge o at_ rise :: s.out else s.out

theorem State.driven_count (sub : Nat) (h : sub ≠ 1) (hs : sub < 256) : (s.count (kTrig o sub) 32).driven o = s.oBit (kTrig o 1) 0 := by
  rw [State.driven, State.oBit_eq, State.count_eq, State.obj_setObj, if_neg, State.oBit_eq, kTrig]
  simp [kTrig, okey_inj hs, h]

theorem State.pulse_setPulse (p : Option Pulse) : (s.setPulse o p).pulse o = p := (TMap.get_set ..).trans (if_pos rfl)

theorem State.obj_setPulse (p : Option Pulse) (k : Nat) : (s.setPulse o p).obj k = s.obj k := rfl

theorem State.objN_setPulse (p : Option Pulse) (k : Nat) : (s.setPulse o p).objN k = s.objN k := rfl

theorem State.out_setPulse (p : Option Pulse) : (s.setPulse o p).out = s.out := rfl

theorem State.setPulse_eq {t : State} (h : s.objsAlone t) (p : Option Pulse) :
    t.setPulse o p = { s with objs := (t.setPulse o p).objs, trig := (t.setPulse o p).trig } := by
  rw [h]
  rfl

theorem State.setPulse_out_eq {t : State} (h : s.objsAlone t) (l : List Out) (p : Option Pulse) :
    let u := State.setPulse { t with out := l } o p
    u = { s with objs := u.objs, trig := u.trig, out := u.out } := by
  rw [h]
  rfl

/-- An idle output takes the pulse: its leading edge comes 8 ns after the due instant (R70). -/
theorem State.pulseAt_idle (h : s.pulse o = none) (due width : Nat) :
    s.pulseAt o due width = State.setPulse { s.count (kTrig o 2) 32 with out := s.edgeOut o (BitVec.ofNat 64 (due + 8)) true } o
      (some ⟨BitVec.ofNat 64 due, BitVec.ofNat 64 (due + 8 + 4 * width)⟩) := by
  have hp : (s.count (kTrig o 2) 32).pulse o = none := h
  have hdriven := State.driven_count (s := s) (o := o) 2 (by decide) (by decide)
  rw [State.pulseAt]
  dsimp only
  rw [← kTrig, hp]
  dsimp only
  rw [hdriven, State.edgeOut]
  split <;> rfl

/-- On a busy output only the end moves, and an overlap counts (R70). -/
theorem State.pulseAt_busy {p : Pulse} (h : s.pulse o = some p) {due : Nat} (hdue : due < p.stop.toNat) (width : Nat) :
    s.pulseAt o due width = ((s.count (kTrig o 2) 32).count (kTrig o 3) 32).setPulse o (some { p with stop := BitVec.ofNat 64 (due + 8 + 4 * width) }) := by
  have hp : (s.count (kTrig o 2) 32).pulse o = some p := h
  rw [State.pulseAt]
  dsimp only
  rw [← kTrig, hp]
  exact if_pos hdue

/-- The trailing edge leaves and the output is idle (R70). -/
theorem State.pulseEnd_busy {p : Pulse} (h : s.pulse o = some p) : s.pulseEnd o = State.setPulse { s with out := s.edgeOut o p.stop false } o none := by
  rw [State.pulseEnd, h, State.edgeOut]
  dsimp only
  rw [State.driven, ← kTrig]
  split <;> rfl

end

/-! ### The obligation -/

/-- An entry whose action does not fire does nothing. -/
theorem exec_of_not_fired (s : State) (e : Fin 1024) :
    (s.fire e 0 = none → exec (.cadenceNone e) s = .next s) ∧ (s.fire e 1 = none → exec (.startJob e) s = .next s)
    ∧ (s.fire e 2 = none → exec (.assayCapture e) s = .next s) ∧ (s.fire e 3 = none → exec (.launchFrame e) s = .next s)
    ∧ (s.fire e 4 = none → exec (.lodestoneSample e) s = .next s) ∧ (s.fire e 5 = none → exec (.trigger e) s = .next s)
    ∧ (s.fire e 6 = none → exec (.publish e) s = .next s) ∧ (∀ l, s.fire e 7 = none → exec (.serviceSlot e l) s = .next s) := by
  refine ⟨fun h => ?_, fun h => ?_, fun h => ?_, fun h => ?_, fun h => ?_, fun h => ?_, fun h => ?_, fun l h => ?_⟩
  · show execCadenceNone e s = _
    rw [execCadenceNone, h]
  · show execStartJob e s = _
    rw [execStartJob, h]
  · show execAssayCapture e s = _
    rw [execAssayCapture, h]
  · show execLaunchFrame e s = _
    rw [execLaunchFrame, h]
  · show execLodestoneSample e s = _
    rw [execLodestoneSample, h]
  · show execTrigger e s = _
    rw [execTrigger, h]
  · show execPublish e s = _
    rw [execPublish, h]
  · show execServiceSlot e l s = _
    rw [execServiceSlot, h]

theorem exec_trigger_fired {s u : State} {e : Fin 1024} {f : Firing} (h : s.fire e 5 = some (u, f)) :
    exec (.trigger e) s = .next (u.pulseAt (fld (s.cadArg e) 3 0) f.due (fld (s.cadArg e) 31 16)) := by
  have hexec : exec (.trigger e) s = execTrigger e s := rfl
  rw [hexec, execTrigger, h]
  dsimp only
  rw [State.cadArg_of_fire h]

/-- The end of a pulse waits for its width to run out (R70). -/
theorem exec_triggerWidthEnd (o : Fin 16) (s : State) : (s.pulse o = none → exec (.triggerWidthEnd o) s = .next s)
    ∧ ∀ p, s.pulse o = some p → exec (.triggerWidthEnd o) s
      = .next (if s.nowN < p.stop.toNat then s else State.setPulse { s with out := s.edgeOut o p.stop false } o none) := by
  have hexec : exec (.triggerWidthEnd o) s = execTriggerWidthEnd o s := rfl
  rw [hexec, execTriggerWidthEnd]
  refine ⟨fun h => by rw [h], fun p h => ?_⟩
  rw [h]
  dsimp only
  rw [State.pulseEnd_busy h, apply_ite Host.Outcome.next]

/-- Settles O35: a grid firing is its own function of the state, and each output's pulse is idle, busy or at its end. -/
theorem cadenceFiresAndPulses : Obligations.CadenceFiresAndPulses := by
  unfold Obligations.CadenceFiresAndPulses
  refine ⟨fun s e => ?_, fun s => ⟨fun e u f hf => ?_, fun o => ?_⟩⟩
  · intro due fires
    obtain ⟨h0, h1, h2, h3, h4, h5, h6, h7⟩ := exec_of_not_fired s e
    refine ⟨fun a => State.fire_other, fun hnil hdue a => State.fire_not_due (State.dueFiring_of_nil hnil) hdue a, h0, h1, h2, h3, h4, h5, h6, h7, fun hnil hdue => ?_⟩
    have hfire : s.fire e (s.cadAction e) = some (s.gridFired e, _) := (State.fire_at_grid (State.dueFiring_of_nil hnil) rfl).trans (if_pos hdue)
    obtain ⟨hcount, hk, hnext, hoff⟩ := s.gridFired_entry e
    obtain ⟨hrest, hobjs⟩ := s.firesOnly_gridFired e
    have henabled : s.cadEnabled e = true := by
      simp only [due, Bool.and_eq_true] at hdue
      obtain ⟨⟨⟨he, -⟩, -⟩, -⟩ := hdue
      exact he
    refine ⟨_, _, hfire, Nat.mod_eq_of_lt (s.cad e 4).isLt, rfl, hcount, hk, fun h => ?_, hoff, hobjs, hrest, fun h => ?_⟩
    · obtain ⟨hn, he⟩ := hnext h
      exact ⟨hn, he.trans henabled⟩
    · rw [h] at hfire
      show execCadenceNone e s = _
      rw [execCadenceNone, hfire]
  · intro o stop
    obtain ⟨hrest, hobjs⟩ := State.firesOnly_of_fire hf
    have ho : o < 16 := Nat.mod_lt _ (by decide)
    have hpulse : u.pulse o = s.pulse o := by rw [hrest]; rfl
    have hout : u.out = s.out := by rw [hrest]
    have hdriven : u.oBit (kTrig o 1) 0 = s.oBit (kTrig o 1) 0 := by
      rw [State.oBit_eq, hobjs, State.oBit_eq]
      simp only [kTrig, kCad, okey, List.mem_cons, List.not_mem_nil, or_false, not_or]
      omega
    refine ⟨fun hidle => ⟨_, exec_trigger_fired hf, ?_⟩, fun p hbusy hdue => ⟨_, exec_trigger_fired hf, ?_⟩⟩
    · rw [State.pulseAt_idle (hpulse.trans hidle), State.edgeOut, hdriven, hout]
      have hcount : (u.count (kTrig o 2) 32).objN (kTrig o 2) = (u.objN (kTrig o 2) + 1) % 2 ^ 32 := by
        rw [State.objN_count _ _ _ _ _ (by decide), if_pos rfl]
      exact ⟨State.pulse_setPulse _, (State.objN_setPulse _ _).trans hcount, rfl,
        fun k hk => (State.obj_setPulse _ k).trans (u.objsBut_setObj (List.mem_singleton_self (kTrig o 2)) _ k hk), State.setPulse_out_eq (u.objsAlone_count ..) _ _⟩
    · rw [State.pulseAt_busy (hpulse.trans hbusy) hdue]
      have hoverlap : ((u.count (kTrig o 2) 32).count (kTrig o 3) 32).objN (kTrig o 3) = (u.objN (kTrig o 3) + 1) % 2 ^ 32 := by
        rw [State.objN_count _ _ _ _ _ (by decide), if_pos rfl, State.objN_count _ _ _ _ _ (by decide), if_neg (by simp [kTrig, okey_inj])]
      have hcounts : u.objsBut ((u.count (kTrig o 2) 32).count (kTrig o 3) 32) [kTrig o 2, kTrig o 3] := fun k hk =>
        (State.objsBut_setObj _ (by simp) _ k hk).trans (u.objsBut_setObj (by simp) _ k hk)
      have halone : u.objsAlone ((u.count (kTrig o 2) 32).count (kTrig o 3) 32) := (u.objsAlone_count ..).trans (State.objsAlone_count ..)
      exact ⟨State.pulse_setPulse _, (State.out_setPulse _).trans ((congrArg State.out halone).trans hout), (State.objN_setPulse _ _).trans hoverlap,
        fun k hk => (State.obj_setPulse _ k).trans (hcounts k hk), State.setPulse_eq halone _⟩
  · obtain ⟨hidle, hbusy⟩ := exec_triggerWidthEnd o s
    refine ⟨hidle, fun p hp => ⟨fun hnow => ?_, fun hnow => ⟨_, (hbusy p hp).trans (congrArg _ (if_neg (Nat.not_lt.2 hnow))), State.pulse_setPulse _, rfl, rfl⟩⟩⟩
    exact (hbusy p hp).trans (congrArg _ (if_pos hnow))

end Sys2Proof.Machine
end

section
/-! What a Lodestone slot samples, evaluates and outputs (O37). -/

namespace Sys2Proof.Machine

/-! ### The state of a slot -/

section
variable (s : State) (n k : Nat) (x : LodeSt)

theorem State.lo_setLo : (s.setLo n x).lo k = if n = k then x else s.lo k := TMap.get_set ..

theorem State.lo_setLo_self : (s.setLo n x).lo n = x := (s.lo_setLo ..).trans (if_pos rfl)

theorem State.lo_setLo_of_ne {k : Nat} (h : k ≠ n) : (s.setLo n x).lo k = s.lo k := (s.lo_setLo ..).trans (if_neg (Ne.symm h))

theorem State.obj_setLo (j : Nat) : (s.setLo n x).obj j = s.obj j := rfl

theorem State.lo_setObj (j : Nat) (v : Word64) : (s.setObj j v).lo k = s.lo k := rfl

end

/-! ### Samples (R71-R75) -/

/-- The slots that run at a firing of slot n: itself, and the outer slots around it whose turn it is (R75). -/
def State.lodeRuns (s : State) (n firing : Nat) : List Nat :=
  (List.range 8).filter fun o => decide (o = n) || (lcEnable (s.lodeCfg o) && lcOuter (s.lodeCfg o) && decide (lcInner (s.lodeCfg o) = n)
    && decide (firing % (lcRatio (s.lodeCfg o) + 1) = lcOuterPhase (s.lodeCfg o)))

/-- Without an outer slot a slot runs alone. -/
theorem State.lodeRuns_alone {s : State} {n : Nat} (hn : n < 8) (h : s.lodeHasOuter n = false) (firing : Nat) : s.lodeRuns n firing = [n] := by
  have hruns : s.lodeRuns n firing = (List.range 8).filter fun o => o == n := by
    refine List.filter_congr fun o ho => ?_
    have hout := List.any_eq_false.1 h o ho
    simp only [Bool.not_eq_true] at hout
    rw [hout, Bool.false_and, Bool.or_false]
    rfl
  rw [hruns, List.filter_beq, List.count_eq_one_of_mem List.nodup_range (List.mem_range.2 hn)]
  rfl

/-- The evaluation that a sample starts. -/
def State.sampleEval (s : State) (n due t period : Nat) : LodeEval :=
  { due := BitVec.ofNat 64 due
    sample := BitVec.ofNat 64 t
    ins := (List.range 4).map fun j => s.lodeInput n j t
    used := (List.range 4).map fun j => decide (fld (s.obj (kLode n (2 + j))) 63 62 ≠ 0)
    pending := s.lodeHasOuter n && (s.lo n).held.isNone
    cfg := s.lodeCfg n
    params := [s.lodeF n 6, s.lodeF n 8, s.lodeF n 9, s.lodeF n 10, s.lodeF n 11]
    feTime := s.objN (kLode n 7)
    coefs := (List.range 40).map fun i => (s.obj (kLodeCoef n i)).setWidth 32
    table := s.dom (kLodeTable n)
    period := period }

/-- A sample starts its evaluation, and touches its slot alone. -/
theorem State.lodeSample_eval (s : State) (n due t period : Nat) :
    ∃ x, s.lodeSample n due t period = s.setLo n x ∧ x.eval = some (s.sampleEval n due t period) := by
  rw [State.lodeSample]
  dsimp only
  split
  · exact ⟨_, rfl, rfl⟩
  · exact ⟨_, rfl, rfl⟩

theorem exec_lodestoneSample_fired {s u : State} {e : Fin 1024} {f : Firing} (hf : s.fire e 4 = some (u, f)) {n : Nat} (hn : fld (s.cadArg e) 2 0 = n)
    (hen : lcEnable (u.lodeCfg n) = true) (hin : lcOuter (u.lodeCfg n) = false) (halone : u.lodeHasOuter n = false) :
    exec (.lodestoneSample e) s = .next (u.lodeSample n f.due f.due (u.cadPeriod e)) := by
  have hexec : exec (.lodestoneSample e) s = execLodestoneSample e s := rfl
  have hlt : n < 8 := hn ▸ Nat.mod_lt _ (by decide)
  rw [hexec, execLodestoneSample, hf]
  dsimp only
  rw [State.cadArg_of_fire hf, hn, if_neg (by rw [hen, hin]; decide), ← State.lodeRuns, State.lodeRuns_alone hlt halone]
  have hzip : [n].zip (List.range 8) = [(n, 0)] := rfl
  rw [hzip, State.forEach, List.foldl_cons, List.foldl_nil, if_pos rfl]
  rfl

/-! ### Results (R72, R74, R76, R77) -/

/-- An invalid input counts, and sets the slot's event (R72). -/
def State.invalidCounted (s : State) (n : Nat) : State := (s.count (kLodeStat n 4) 32).orObj kLodeEvents (2 ^ n)

theorem State.invalidCounted_counts (s : State) (n : Fin 8) :
    (s.invalidCounted n).objN (kLodeStat n 4) = (s.objN (kLodeStat n 4) + 1) % 2 ^ 32 ∧ (s.invalidCounted n).oBit kLodeEvents n = true
      ∧ s.objsBut (s.invalidCounted n) [kLodeStat n 4, kLodeEvents] ∧ s.objsAlone (s.invalidCounted n) := by
  have hne : kLodeEvents ≠ kLodeStat n 4 := by
    simp only [kLodeEvents, kLodeStat, okey]
    omega
  refine ⟨?_, State.oBit_orObj_self _ _ (by omega) (by simp), fun k hk => ?_, (s.objsAlone_count ..).trans (State.objsAlone_setObj ..)⟩
  · rw [State.invalidCounted, State.objN_orObj_of_ne _ hne, State.objN_count _ _ _ _ _ (by decide), if_pos rfl]
  · exact (State.objsBut_setObj _ (by simp) _ k hk).trans (s.objsBut_setObj (by simp) _ k hk)

theorem State.lo_invalidCounted (s : State) (n k : Nat) : (s.invalidCounted n).lo k = s.lo k := rfl

theorem exec_lodestoneResult (n : Fin 8) (b : Bool) (s : State) : exec (.lodestoneResult n b) s = execLodestoneResult n b s := rfl

section
variable {s : State} {n : Fin 8}

theorem exec_lodestoneResult_idle (h : (s.lo n).eval = none) (b : Bool) : exec (.lodestoneResult n b) s = .next s := by
  rw [exec_lodestoneResult, execLodestoneResult, h]

variable {ev : LodeEval} (h : (s.lo n).eval = some ev)
include h

theorem exec_lodestoneResult_early (hnow : s.nowN < ev.sample.toNat + 384) (b : Bool) : exec (.lodestoneResult n b) s = .next s := by
  rw [exec_lodestoneResult, execLodestoneResult, h]
  exact if_pos hnow

/-- Whether an input that the law uses was not valid at the sample (R72). -/
def LodeEval.bad (ev : LodeEval) : Bool := (ev.ins.zip ev.used).any fun z => z.2 && !z.1.ok

/-- The result of an evaluation whose following error is not supervised and whose two runs agree: safe_value, counted, when an input was not valid, and the law's
output otherwise (R72, R74). -/
theorem exec_lodestoneResult_unsupervised (hnow : ev.sample.toNat + 384 ≤ s.nowN) (hpend : ev.pending = false) (hinner : lcOuter ev.cfg = false)
    (hfree : f32eq (ev.params.getD 0 0#32) 0#32 = true) :
    let x : LodeSt := { s.lo n with eval := none }
    (ev.bad = true → exec (.lodestoneResult n false) s
      = .next ((s.setLo n { x with out := some ⟨ev.due, ev.params.getD 4 0#32, true, ev.cfg, s.obj (kLode n 13)⟩ }).invalidCounted n))
    ∧ (ev.bad = false → exec (.lodestoneResult n false) s
      = .next (s.setLo n { (lodeEvaluate ev x).2 with out := some ⟨ev.due, (lodeEvaluate ev x).1, true, ev.cfg, s.obj (kLode n 13)⟩ })) := by
  intro x
  rw [exec_lodestoneResult, execLodestoneResult, h]
  dsimp only
  rw [if_neg (Nat.not_lt.2 hnow), if_neg (by rw [hpend]; decide), ← LodeEval.bad]
  simp only [getF, hfree, hinner, Bool.not_true, Bool.false_eq_true, if_false]
  refine ⟨fun hbad => ?_, fun hbad => ?_⟩
  · rw [hbad]
    rfl
  · rw [hbad]
    rfl

end

/-! ### Outputs (R73, R75, R77) -/

/-- A slot whose output has left: the value that left shows in its status (R73). -/
def State.outputLeft (s : State) (n : Nat) (v : Word32) : State := (s.setLo n { s.lo n with out := none }).setN (kLodeStat n 1) v.toNat

/-- The value that leaves: the slot's output, or safe_value in the safe state (R77). -/
def State.outputValue (s : State) (n : Nat) (o : LodeOut) : Word32 := if s.safe then s.lodeF n 11 else o.v

theorem State.safe_outputLeft (s : State) (n : Fin 8) (v : Word32) : (s.outputLeft n v).safe = s.safe := by
  have hne : kLodeStat n 1 ≠ okey 0x7000 1 := by
    simp only [kLodeStat, okey]
    omega
  rw [State.safe, State.outputLeft, State.objN_setN_of_ne _ hne, State.objN, State.obj_setLo, State.safe, State.objN]

section
variable {s : State} {n : Fin 8}

theorem exec_lodestoneOutput_empty (h : (s.lo n).out = none) : exec (.lodestoneOutput n) s = .next s := by
  have hexec : exec (.lodestoneOutput n) s = execLodestoneOutput n s := rfl
  rw [hexec, execLodestoneOutput, h]

/-- At its output phase the output leaves, and with a frame template it is sent (R73, R75, R77). -/
theorem exec_lodestoneOutput_leaves {o : LodeOut} (h : (s.lo n).out = some o) :
    let at_ := o.due.toNat + 4 * lcPhase o.cfg
    let v := s.outputValue n o
    let u := s.outputLeft n v
    exec (.lodestoneOutput n) s = .next (if s.nowN < at_ then s else if lcKind o.cfg = 0 then u
      else u.sendTemplate (fld o.frame 15 0 % 256) (fld o.frame 47 32) (leBytes 4 v.toNat) (o.valid && !s.safe) (BitVec.ofNat 64 (wrapInt 64 (u.netTimeAt at_)))) := by
  intro at_ v u
  have hexec : exec (.lodestoneOutput n) s = execLodestoneOutput n s := rfl
  rw [hexec, execLodestoneOutput, h]
  dsimp only
  rw [← State.outputValue, ← State.outputLeft, State.safe_outputLeft, apply_ite Host.Outcome.next, apply_ite Host.Outcome.next]

end

/-! ### The obligation -/

theorem exec_setpointWrite_accepted {s : State} {src : Src} {r : Requester} {n : Fin 8} {v : Word64} (h : s.accepts src r (0x2400 + 8 * n) 0xc v) :
    exec (.setpointWrite src n v) s = .next (s.setpoint n v) := by
  have hexec : exec (.setpointWrite src n v) s = s.command src (0x2400 + 8 * n) 0xc v fun _ s => .ok (s.setpoint n v) := rfl
  rw [hexec]
  exact State.command_ok h rfl

/-- Settles O37: a slot holds at most one evaluation and one output, and each command moves its slot on by one of them. -/
theorem lodestoneEvaluates : Obligations.LodestoneEvaluates := by
  unfold Obligations.LodestoneEvaluates
  intro s n
  refine ⟨fun src r v hacc => ?_, fun e u f hf hn hen hin hout => ?_, exec_lodestoneResult_idle, fun ev b hev hnow => exec_lodestoneResult_early hev hnow b,
    fun ev hev hnow hpend hinner hfree => ?_, exec_lodestoneOutput_empty, fun o ho => ?_⟩
  · refine ⟨_, exec_setpointWrite_accepted hacc, ?_, State.lo_setLo_self .., fun k hk => State.lo_setLo_of_ne _ _ _ hk, (s.onlyObjs_setObj (kLode n 12) v).2.1, rfl⟩
    rw [State.setpoint, State.obj_setLo, State.obj_setObj, if_pos rfl]
  · obtain ⟨x, hx, heval⟩ := u.lodeSample_eval n f.due f.due (u.cadPeriod e)
    have hperiod : u.cadPeriod e = s.cadPeriod e := congrArg BitVec.toNat ((State.firesOnly_of_fire hf).2 (kCad e 2) (by simp [kCad_inj]))
    refine ⟨_, u.sampleEval n f.due f.due (u.cadPeriod e), exec_lodestoneSample_fired hf hn hen hin hout, ?_, rfl, rfl, ?_, rfl, rfl, hperiod, fun k hk => ?_, ?_⟩
    · rw [hx, State.lo_setLo_self, heval]
    · rw [State.sampleEval, hout, Bool.false_and]
    · rw [hx, State.lo_setLo_of_ne _ _ _ hk]
    · rw [hx]
      rfl
  · intro bad
    obtain ⟨hinvalid, hvalid⟩ := exec_lodestoneResult_unsupervised hev hnow hpend hinner hfree
    obtain ⟨hcount, hevent, hobjs, halone⟩ := (s.setLo n { s.lo n with eval := none, out := some ⟨ev.due, ev.params.getD 4 0#32, true, ev.cfg, s.obj (kLode n 13)⟩ }).invalidCounted_counts n
    refine ⟨fun h => ⟨_, hinvalid h, ?_, ?_, hcount, hevent, hobjs, ?_⟩, fun h => ⟨_, hvalid h, State.lo_setLo_self .., fun k hk => State.lo_setLo_of_ne _ _ _ hk, rfl⟩⟩
    · rw [State.lo_invalidCounted, State.lo_setLo_self]
    · rw [State.lo_invalidCounted, State.lo_setLo_self]
    · rw [halone]
      rfl
  · intro at_
    have hexec := exec_lodestoneOutput_leaves ho
    refine ⟨fun hnow => hexec.trans (congrArg _ (if_pos hnow)), fun hnow => ?_⟩
    have hleaves := hexec.trans (congrArg _ (if_neg (Nat.not_lt.2 hnow)))
    intro v
    refine ⟨s.outputLeft n v, ?_, ?_, ?_, ?_, ?_, fun hkind => hleaves.trans (congrArg _ (if_pos hkind)), fun hkind => hleaves.trans (congrArg _ (if_neg hkind))⟩
    · rw [State.outputLeft, State.setN_eq, State.lo_setObj, State.lo_setLo_self]
    · rw [State.outputLeft, State.objN_setN_self]
      exact Nat.mod_eq_of_lt (lt_of_lt_of_le (s.outputValue n o).isLt (by decide))
    · exact (s.setLo n { s.lo n with out := none }).objsBut_setObj (List.mem_singleton_self _) _
    · intro k hk
      rw [State.outputLeft, State.setN_eq, State.lo_setObj, State.lo_setLo_of_ne _ _ _ hk]
    · rfl

end Sys2Proof.Machine
end

section
/-! What the camera's line events, a frame's completion and the safe state leave alone (R64, R292, R293, R297). -/

namespace Sys2Proof.Machine

/-! ### Stores in stacked memory -/

/-- An interleaved address is its own byte's address (R265). -/
theorem canonAddr_of_stacked (il : Nat) {a : Nat} (h : a < stackedSize) : canonAddr il a = a := by
  have hu : unitOf a = some .stack := if_pos h
  rw [canonAddr, hu]

/-- What is stored in stacked memory reads back. -/
theorem State.rd_wr_stacked (s : State) (a : Nat) (bs : List Byte) (h : a + bs.length ≤ stackedSize) : (s.wr a bs).rd a bs.length = bs := by
  have hsize : stackedSize ≤ 0x10000000000 := by decide
  apply List.ext_getElem
  · simp [State.rd]
  · intro i _ hi
    simp only [State.rd, List.getElem_map, List.getElem_range]
    refine State.byte_wr_at s a i bs hi (fun k hk => by omega) fun k hk hne => ?_
    rw [canonAddr_of_stacked _ (by omega), canonAddr_of_stacked _ (by omega)]
    omega

/-- The frame of a store in stacked memory. -/
theorem State.byte_wr_stacked (s : State) (a j : Nat) (bs : List Byte) (h : a + bs.length ≤ stackedSize) (hj : j < stackedSize) (hout : j < a ∨ a + bs.length ≤ j) :
    (s.wr a bs).byte j = s.byte j := by
  refine State.byte_wr_of_ne s a j bs fun i hi => ?_
  rw [canonAddr_of_stacked _ (by omega), canonAddr_of_stacked _ hj]
  omega

/-! ### Line events (R64) -/

section
variable (s : State) {e : Nat} (he : e < 1024)
include he

theorem State.recadences_sensorNext (f : Nat) : s.Recadences (s.sensorNext e f) := by
  unfold State.sensorNext
  split
  · exact s.recadences_setObj (cadKey_kCad he (by decide)) _
  · exact s.recadences_cadOff he

end

theorem lt_of_mem_filter_range {n k : Nat} {p : Nat → Bool} (h : k ∈ (List.range n).filter p) : k < n :=
  List.mem_range.1 (List.mem_of_mem_filter h)

theorem State.recadences_lineEvent (s : State) (st line : Nat) : s.Recadences (s.lineEvent st line) :=
  .forEach _ _ fun u e he =>
    have hdue : u.Recadences { u with cadDue := u.cadDue ++ [⟨e, u.now, false⟩] } := ⟨rfl, fun _ _ => rfl⟩
    hdue.trans (State.recadences_sensorNext _ (lt_of_mem_filter_range he) _)

theorem State.recadences_lineMisses (s : State) (st : Nat) : s.Recadences (s.lineMisses st) :=
  .forEach _ _ fun u _ he => (u.recadences_cadMissed (lt_of_mem_filter_range he)).trans (State.recadences_sensorNext _ (lt_of_mem_filter_range he) _)

theorem State.recadences_rearmStream (s : State) (st : Nat) : s.Recadences (s.rearmStream st) := by
  refine .forEach _ _ fun u e he => ?_
  split
  · split
    · exact u.recadences_setObj (cadKey_kCad (List.mem_range.1 he) (by decide)) _
    · exact .refl u
  · exact .refl u

section
variable {s t : State} (h : s.Recadences t)
include h

theorem State.Recadences.stream (st : Nat) : t.stream st = s.stream st := by rw [h.rest]; rfl
theorem State.Recadences.byte : s.sameBytes t := fun a => by rw [h.rest]; rfl

/-- The objects of a camera stream read as before. -/
theorem State.Recadences.streamObj (st : Fin 32) {j : Nat} (hj : j < 256) : t.obj (kStream st j) = s.obj (kStream st j) := by
  refine h.objs _ ?_
  simp only [cadKey, kStream, okey]
  omega

end

/-! ### What a completed frame may reach beside its stream (R292, R293, R297, R401, R412, R417) -/

/-- An object of a camera stream. -/
abbrev streamKey (k : Nat) : Prop := 0x5420 ≤ k / 256 ∧ k / 256 < 0x5440

/-- The time, the objects of the camera streams, and what the streams hold, but for the buffers that capture slots pin, stay as they are. -/
structure State.Aside (s t : State) : Prop where
  now : t.now = s.now
  objs : ∀ k, streamKey k → t.obj k = s.obj k
  streams : ∀ st, t.stream st = { s.stream st with pinned := (t.stream st).pinned }

namespace State.Aside
variable {s t u : State}

theorem refl (s : State) : s.Aside s := ⟨rfl, fun _ _ => rfl, fun _ => rfl⟩

theorem trans (h : s.Aside t) (h' : t.Aside u) : s.Aside u :=
  ⟨h'.now.trans h.now, fun k hk => (h'.objs k hk).trans (h.objs k hk), fun st => by rw [h'.streams st, h.streams st]⟩

theorem ite {a b : State} {c : Prop} [Decidable c] (ha : s.Aside a) (hb : s.Aside b) : s.Aside (if c then a else b) := by
  split <;> assumption

theorem foldl {α : Type} (l : List α) (f : State → α → State) (hf : ∀ u, ∀ x ∈ l, State.Aside u (f u x)) : s.Aside (l.foldl f s) :=
  List.foldlRecOn l f (motive := s.Aside) (refl s) fun u hu x hx => hu.trans (hf u x hx)

theorem foldl_fst {α β : Type} (l : List α) (f : State × β → α → State × β) (hf : ∀ p, ∀ x ∈ l, State.Aside p.1 (f p x).1) (b : β) :
    s.Aside (l.foldl f (s, b)).1 :=
  List.foldlRecOn l f (motive := fun p => s.Aside p.1) (refl s) fun p hp x hx => hp.trans (hf p x hx)

end State.Aside

section
variable (s : State)

theorem State.aside_setObj {k : Nat} (hk : ¬ streamKey k) (v : Word64) : s.Aside (s.setObj k v) := by
  refine ⟨rfl, fun j hj => ?_, fun _ => rfl⟩
  rw [State.obj_setObj, if_neg]
  rintro rfl
  exact hk hj

theorem State.aside_wrOwn (m a : Nat) (bs : List Byte) : s.Aside (s.wrOwn m a bs) :=
  .ite ⟨State.wr_now .., fun k _ => State.obj_wr .., fun st => by rw [State.stream, State.wr_streams, State.stream]⟩ (.refl s)

theorem State.aside_strata (t detail : Nat) (cause : Word64) : s.Aside (s.strata t detail cause) := by
  unfold State.strata
  split
  · exact .refl s
  · split
    · exact s.aside_setObj (by decide) _
    · dsimp only
      have hseq : s.Aside (s.count kNextSeq 64) := s.aside_setObj (by decide) _
      generalize s.count kNextSeq 64 = u at hseq ⊢
      have hused : u.Aside (if decide (s.objN kPermUsed < 64) = true then u.setN kPermUsed (s.objN kPermUsed + 1) else u) :=
        .ite (u.aside_setObj (by decide) _) (.refl u)
      exact (hseq.trans hused).trans ⟨rfl, fun _ _ => rfl, fun _ => rfl⟩

theorem State.aside_strataEvent (t : Nat) : s.Aside (s.strataEvent t) :=
  (s.aside_strata ..).trans ⟨rfl, fun _ _ => rfl, fun _ => rfl⟩

theorem State.aside_copyDue : s.Aside s.copyDue := by
  unfold State.copyDue
  split
  · exact ⟨rfl, fun _ _ => rfl, fun _ => rfl⟩
  · unfold State.startCopy
    split
    exact (s.aside_setObj (k := okey 0x7040 7) (by decide) (BitVec.ofNat 64 1)).trans ⟨rfl, fun _ _ => rfl, fun _ => rfl⟩

theorem State.aside_pipeFallback {p : Nat} (hp : p < 4) : s.Aside (s.pipeFallback p) := by
  have hkey : ∀ j < 256, ¬ streamKey (okey (0x5840 + p) j) := by
    intro j hj
    simp only [streamKey, okey]
    omega
  exact .ite ((s.aside_setObj (hkey 19 (by decide)) _).trans (State.aside_setObj _ (hkey 20 (by decide)) _)) (.refl s)

theorem State.aside_noticeKept (args : List Word64) (time : Word64) : s.Aside { s with leftRepeats := 0, noticeArgs := args, noticeTime := time } :=
  ⟨rfl, fun _ _ => rfl, fun _ => rfl⟩

theorem State.aside_safetyNotice (code : Nat) (time : Word64) (args : List Word64) : s.Aside (s.safetyNotice code time args) :=
  ⟨rfl, fun _ _ => rfl, fun _ => rfl⟩

end

/-- A trigger of the safe state leaves the streams alone (R397-R401). -/
theorem State.aside_safeTrigger (s : State) (code unit_ detail : Nat) : s.Aside (s.safeTrigger code unit_ detail) := by
  unfold State.safeTrigger
  dsimp only
  split
  · exact (s.aside_setObj (k := okey 0x7000 7) (by decide) _).trans (State.aside_strata ..)
  · refine .trans ?_ (State.aside_copyDue _)
    refine .trans ?_ (State.aside_safetyNotice _ 1 _ _)
    refine .trans ?_ (State.aside_noticeKept _ _ _)
    refine .trans ?_ (State.aside_strata _ 0 _ _)
    refine .trans ?_ (State.Aside.foldl _ _ fun u p hp => .ite (u.aside_pipeFallback (by simp at hp; omega)) (.refl u))
    refine .trans ?_ (State.aside_setObj _ (k := okey 0x7000 12) (by decide) _)
    refine .trans ?_ (State.aside_setObj _ (k := okey 0x7000 6) (by decide) _)
    refine .trans ?_ (State.aside_setObj _ (k := okey 0x7000 3) (by decide) _)
    refine .trans ?_ (State.aside_setObj _ (k := okey 0x7000 2) (by decide) _)
    exact s.aside_setObj (k := okey 0x7000 1) (by decide) _

/-! ### Captures that waited for a frame (R229, R293) -/

section
variable (s : State)

theorem State.stream_upStream (st k : Nat) (f : StreamSt → StreamSt) : (s.upStream st f).stream k = if st = k then f (s.stream st) else s.stream k :=
  TMap.get_set ..

theorem State.stream_upStream_self (st : Nat) (f : StreamSt → StreamSt) : (s.upStream st f).stream st = f (s.stream st) := (s.stream_upStream ..).trans (if_pos rfl)

theorem State.obj_upStream (st k : Nat) (f : StreamSt → StreamSt) : (s.upStream st f).obj k = s.obj k := rfl

theorem State.aside_pin (st : Nat) (x : Nat × Nat) : s.Aside (s.upStream st fun y => { y with pinned := x :: y.pinned }) := by
  refine ⟨rfl, fun _ _ => rfl, fun k => ?_⟩
  rw [State.stream_upStream]
  split
  · next h => rw [h]
  · rfl

/-- A source's record pins a buffer at most. -/
theorem State.aside_capRecord (k x i : Nat) (again : Bool) : s.Aside (s.capRecord k x i again).1 := by
  unfold State.capRecord
  dsimp only
  split
  · exact s.aside_wrOwn ..
  · exact (s.aside_wrOwn ..).trans (State.aside_pin ..)
  · exact s.aside_wrOwn ..

theorem State.aside_capFinish {k : Nat} (hk : k < 256) (c : CapWait) : s.Aside (s.capFinish k c) := by
  refine (s.aside_wrOwn ..).trans (State.aside_setObj _ ?_ _)
  simp only [streamKey, kCap, okey]
  omega

theorem State.aside_capResume (st : Nat) : s.Aside (s.capResume st) := by
  refine .foldl _ _ fun u k hk => ?_
  have hk := lt_of_mem_filter_range hk
  dsimp only
  refine .trans (.foldl_fst _ _ (fun r w _ => ?_) []) ⟨rfl, fun _ _ => rfl, fun _ => rfl⟩
  split
  · refine .trans (.foldl_fst _ _ ?_ w) (State.aside_capFinish _ hk _)
    exact fun q i _ => q.1.aside_capRecord ..
  · refine .foldl_fst _ _ ?_ w
    exact fun q i _ => q.1.aside_capRecord ..

end

end Sys2Proof.Machine
end

section
/-! Camera streams, frames and packets (O49). -/

namespace Sys2Proof.Machine

/-! ### The objects and the memory of a stream -/

theorem kStream_inj (st : Nat) {i j : Nat} (hi : i < 256) (hj : j < 256) : kStream st i = kStream st j ↔ i = j := by
  simp [kStream, okey_inj hi hj]

section
variable (s : State)

theorem State.objN_setN (k n j : Nat) : (s.setN k n).objN j = if k = j then n % 2 ^ 64 else s.objN j := by
  split
  · next h => rw [← h, State.objN_setN_self]
  · next h => rw [State.objN_setN_of_ne _ h]

theorem State.objN_upStream (st k : Nat) (f : StreamSt → StreamSt) : (s.upStream st f).objN k = s.objN k := rfl

theorem State.now_upStream (st : Nat) (f : StreamSt → StreamSt) : (s.upStream st f).now = s.now := rfl

theorem State.obj_wrOwn (m a : Nat) (bs : List Byte) (k : Nat) : (s.wrOwn m a bs).obj k = s.obj k := by
  unfold State.wrOwn
  split
  · exact State.obj_wr ..
  · rfl

theorem State.objN_wrOwn (m a : Nat) (bs : List Byte) (k : Nat) : (s.wrOwn m a bs).objN k = s.objN k := congrArg BitVec.toNat (s.obj_wrOwn m a bs k)

theorem State.stream_wrOwn (m a : Nat) (bs : List Byte) (k : Nat) : (s.wrOwn m a bs).stream k = s.stream k := by
  unfold State.wrOwn
  split
  · rw [State.stream, State.wr_streams, State.stream]
  · rfl

theorem State.rd_congr {s t : State} (h : s.sameBytes t) (a n : Nat) : t.rd a n = s.rd a n := List.map_congr_left fun i _ => h (a + i)

end

/-! ### A frame is complete (R292, R293, R297) -/

/-- The header of a frame that has a buffer is written, and the buffer is the latest (R292, R293). -/
def State.frameStored (s : State) (st : Nat) (f : FrameSt) (b : Nat) : State :=
  ((((s.wrOwn (scOwner (s.streamCfg st)) (s.bufAddr st b) (s.frameHeader st f)).setN (kStream st 0xb) b).upStream st fun x =>
    { x with latest := some (b, f.frame, nbit (s.frameStatus st f) 1), written := x.written + 1 }).count (kStream st 0xc) 32).orObj (kStream st 0x10) 1

/-- A frame that is not valid counts (R292). -/
def State.invalidFrame (s : State) (st : Nat) : State := (s.count (kStream st 0xd) 32).orObj (kStream st 0x10) 2

/-- A path fault counts, is recorded, and on a safety stream is a trigger of the safe state (R297). -/
def State.pathFaulted (s : State) (st : Nat) (f : FrameSt) : State :=
  let s := ((s.count (kStream st 0xf) 32).orObj (kStream st 0x10) 4).strataEvent 10
  if scSafety (s.streamCfg st) then s.safeTrigger 4 st f.frame.toNat else s

/-- What becomes of a complete frame's buffer. -/
def State.frameKept (s : State) (st : Nat) (f : FrameSt) : State :=
  match f.buf with
  | none => s
  | some b => if nbit (s.frameStatus st f) 1 then s.frameStored st f b else (s.frameStored st f b).invalidFrame st

theorem State.completeFrame_eq (s : State) (st : Nat) (f : FrameSt) :
    s.completeFrame st f = (if f.pathFault then (s.frameKept st f).pathFaulted st f else s.frameKept st f).capResume st := rfl

section
variable (s : State) (st : Nat) (f : FrameSt) (b : Nat)

theorem State.objN_frameStored {j : Nat} (hj : j < 256) (h : j ≠ 0x10) : (s.frameStored st f b).objN (kStream st j) =
    if j = 0xc then (s.objN (kStream st 0xc) + 1) % 2 ^ 32 else if j = 0xb then b % 2 ^ 64 else s.objN (kStream st j) := by
  rw [State.frameStored, State.objN_orObj_of_ne _ (by rw [Ne, kStream_inj st (by decide) hj]; exact Ne.symm h), State.objN_count _ _ _ _ _ (by decide)]
  simp only [State.objN_upStream, State.objN_setN, State.objN_wrOwn, kStream_inj st (by decide : 0xc < 256) hj, kStream_inj st (by decide : 0xb < 256) hj,
    kStream_inj st (by decide : 0xb < 256) (by decide : 0xc < 256), eq_comm (b := j), Nat.reduceEqDiff, if_false]

theorem State.stream_frameStored : (s.frameStored st f b).stream st =
    { s.stream st with latest := some (b, f.frame, nbit (s.frameStatus st f) 1), written := (s.stream st).written + 1 } := by
  have h := ((s.wrOwn (scOwner (s.streamCfg st)) (s.bufAddr st b) (s.frameHeader st f)).setN (kStream st 0xb) b).stream_upStream_self st fun x =>
    { x with latest := some (b, f.frame, nbit (s.frameStatus st f) 1), written := x.written + 1 }
  refine h.trans ?_
  rw [show State.stream ((s.wrOwn _ _ _).setN _ b) st = s.stream st from s.stream_wrOwn ..]

theorem State.now_frameStored : (s.frameStored st f b).now = s.now := by
  rw [State.frameStored, State.orObj_eq, State.setObj_now, State.count_eq, State.setObj_now, State.now_upStream, State.setN_eq, State.setObj_now]
  exact (s.aside_wrOwn ..).now

theorem State.objN_invalidFrame {j : Nat} (hj : j < 256) (h : j ≠ 0x10) : (s.invalidFrame st).objN (kStream st j) =
    if j = 0xd then (s.objN (kStream st 0xd) + 1) % 2 ^ 32 else s.objN (kStream st j) := by
  rw [State.invalidFrame, State.objN_orObj_of_ne _ (by rw [Ne, kStream_inj st (by decide) hj]; exact Ne.symm h), State.objN_count _ _ _ _ _ (by decide)]
  simp only [kStream_inj st (by decide : 0xd < 256) hj, eq_comm (b := j)]

end

theorem State.stream_invalidFrame (s : State) (st k : Nat) : (s.invalidFrame st).stream k = s.stream k := rfl

theorem State.now_invalidFrame (s : State) (st : Nat) : (s.invalidFrame st).now = s.now := rfl

/-- What the kept frame shows: the buffer is the latest, and it is counted. -/
theorem State.frameKept_shows (s : State) (st : Nat) (f : FrameSt) {b : Nat} (hb : f.buf = some b) : let t := s.frameKept st f
    (t.stream st).latest = some (b, f.frame, nbit (s.frameStatus st f) 1) ∧ t.objN (kStream st 0xb) = b % 2 ^ 64
      ∧ t.objN (kStream st 0xc) = (s.objN (kStream st 0xc) + 1) % 2 ^ 32
      ∧ t.objN (kStream st 0xd) = if nbit (s.frameStatus st f) 1 then s.objN (kStream st 0xd) else (s.objN (kStream st 0xd) + 1) % 2 ^ 32 := by
  intro t
  have hobj : ∀ j < 256, j ≠ 0x10 → (s.frameStored st f b).objN (kStream st j) = _ := fun j => s.objN_frameStored st f b
  have hlatest : ((s.frameStored st f b).stream st).latest = some (b, f.frame, nbit (s.frameStatus st f) 1) := by rw [s.stream_frameStored]
  have ht : t = if nbit (s.frameStatus st f) 1 then s.frameStored st f b else (s.frameStored st f b).invalidFrame st := by
    simp only [t, State.frameKept, hb]
  rw [ht]
  by_cases hv : nbit (s.frameStatus st f) 1 = true
  · rw [if_pos hv, if_pos hv]
    exact ⟨hlatest, hobj 0xb (by decide) (by decide), hobj 0xc (by decide) (by decide), hobj 0xd (by decide) (by decide)⟩
  · rw [if_neg hv, if_neg hv, State.stream_invalidFrame]
    simp only [State.objN_invalidFrame _ st (by decide : 0xb < 256) (by decide), State.objN_invalidFrame _ st (by decide : 0xc < 256) (by decide),
      State.objN_invalidFrame _ st (by decide : 0xd < 256) (by decide), hobj _ (by decide : 0xb < 256) (by decide), hobj _ (by decide : 0xc < 256) (by decide),
      hobj _ (by decide : 0xd < 256) (by decide)]
    exact ⟨hlatest, rfl, rfl, rfl⟩

/-- A complete frame leaves the stream's frame in progress, its verdict, its count of path faults and the time. -/
theorem State.frameKept_rest (s : State) (st : Nat) (f : FrameSt) : let t := s.frameKept st f
    t.now = s.now ∧ (t.stream st).cur = (s.stream st).cur ∧ (t.stream st).verdict = (s.stream st).verdict
      ∧ t.objN (kStream st 0xf) = s.objN (kStream st 0xf) := by
  unfold State.frameKept
  dsimp only
  split
  · exact ⟨rfl, rfl, rfl, rfl⟩
  · next b _ =>
    have hs := s.stream_frameStored st f b
    have hf := s.objN_frameStored st f b (j := 0xf) (by decide) (by decide)
    split
    · exact ⟨s.now_frameStored .., by rw [hs], by rw [hs], hf⟩
    · rw [State.now_invalidFrame, State.stream_invalidFrame, hs, State.objN_invalidFrame _ st (by decide) (by decide)]
      exact ⟨s.now_frameStored .., rfl, rfl, hf⟩

/-! ### The rest of a completion -/

theorem State.pathFaulted_aside (s : State) (st : Fin 32) (f : FrameSt) :
    ((s.count (kStream st 0xf) 32).orObj (kStream st 0x10) 4).Aside (s.pathFaulted st f) := by
  unfold State.pathFaulted
  dsimp only
  have h := State.aside_strataEvent ((s.count (kStream st 0xf) 32).orObj (kStream st 0x10) 4) 10
  exact .ite (h.trans (State.aside_safeTrigger ..)) h

theorem streamKey_kStream (st : Fin 32) {j : Nat} (hj : j < 256) : streamKey (kStream st j) := by
  simp only [streamKey, kStream, okey]
  omega

theorem State.Aside.objN {s t : State} (h : s.Aside t) (st : Fin 32) {j : Nat} (hj : j < 256) : t.objN (kStream st j) = s.objN (kStream st j) :=
  congrArg BitVec.toNat (h.objs _ (streamKey_kStream st hj))

/-- A path fault is counted; nothing else of the stream changes but what capture slots pin. -/
theorem State.faultTaken_stream (s : State) (st : Fin 32) (f : FrameSt) : let t := if f.pathFault then s.pathFaulted st f else s
    t.now = s.now ∧ (∀ k, t.stream k = { s.stream k with pinned := (t.stream k).pinned })
      ∧ t.objN (kStream st 0xf) = (if f.pathFault then (s.objN (kStream st 0xf) + 1) % 2 ^ 32 else s.objN (kStream st 0xf))
      ∧ ∀ j < 256, j ≠ 0xf → j ≠ 0x10 → t.objN (kStream st j) = s.objN (kStream st j) := by
  split
  · have h := s.pathFaulted_aside st f
    have hobj : ∀ j < 256, j ≠ 0x10 → (s.pathFaulted st f).objN (kStream st j) = (s.count (kStream st 0xf) 32).objN (kStream st j) := fun j hj h10 =>
      (h.objN st hj).trans (State.objN_orObj_of_ne _ (by rw [Ne, kStream_inj st (by decide) hj]; exact Ne.symm h10) _)
    refine ⟨h.now, h.streams, ?_, fun j hj hf h10 => ?_⟩
    · rw [hobj _ (by decide) (by decide), State.objN_count _ _ _ _ _ (by decide), if_pos rfl]
    · rw [hobj j hj h10, State.objN_count _ _ _ _ _ (by decide), if_neg]
      rw [kStream_inj st (by decide) hj]
      exact Ne.symm hf
  · exact ⟨rfl, fun _ => rfl, rfl, fun _ _ _ _ => rfl⟩

/-- What O49 says of a frame that is complete: its buffer is the latest and counted, and a path fault is counted (R292, R297). -/
def State.completed (s : State) (st : Nat) (f : FrameSt) (t : State) : Prop :=
  (∀ b, f.buf = some b → (t.stream st).latest = some (b, f.frame, nbit (s.frameStatus st f) 1) ∧ t.objN (kStream st 0xb) = b % 2 ^ 64
      ∧ t.objN (kStream st 0xc) = (s.objN (kStream st 0xc) + 1) % 2 ^ 32
      ∧ t.objN (kStream st 0xd) = (if nbit (s.frameStatus st f) 1 then s.objN (kStream st 0xd) else (s.objN (kStream st 0xd) + 1) % 2 ^ 32))
    ∧ (f.pathFault = true → t.objN (kStream st 0xf) = (s.objN (kStream st 0xf) + 1) % 2 ^ 32)
    ∧ (f.pathFault = false → t.obj (kStream st 0xf) = s.obj (kStream st 0xf))

theorem State.completeFrame_completes (s : State) (st : Fin 32) (f : FrameSt) : let t := s.completeFrame st f
    s.completed st f t ∧ t.now = s.now ∧ (t.stream st).cur = (s.stream st).cur ∧ (t.stream st).verdict = (s.stream st).verdict := by
  intro t
  obtain ⟨know, kcur, kverdict, kfault⟩ := s.frameKept_rest st f
  have hshows := fun b hb => s.frameKept_shows st f (b := b) hb
  have ht : t = (if f.pathFault then (s.frameKept st f).pathFaulted st f else s.frameKept st f).capResume st := s.completeFrame_eq st f
  generalize s.frameKept st f = u at *
  obtain ⟨wnow, wstreams, wfault, wobj⟩ := u.faultTaken_stream st f
  generalize (if f.pathFault then u.pathFaulted st f else u) = w at *
  have hr := w.aside_capResume st
  rw [← ht] at hr
  have hobj : ∀ j < 256, j ≠ 0xf → j ≠ 0x10 → t.objN (kStream st j) = u.objN (kStream st j) := fun j hj hf h10 => (hr.objN st hj).trans (wobj j hj hf h10)
  have hfault := (hr.objN st (j := 0xf) (by decide)).trans wfault
  have hstream := hr.streams st
  rw [wstreams st] at hstream
  refine ⟨⟨fun b hb => ?_, fun hf => ?_, fun hf => ?_⟩, hr.now.trans (wnow.trans know), ?_, ?_⟩
  · obtain ⟨hlatest, hb, hc, hd⟩ := hshows b hb
    refine ⟨?_, ?_, ?_, ?_⟩
    · rw [hstream]
      exact hlatest
    · rw [hobj 0xb (by decide) (by decide) (by decide), hb]
    · rw [hobj 0xc (by decide) (by decide) (by decide), hc]
    · rw [hobj 0xd (by decide) (by decide) (by decide), hd]
  · rw [hfault, if_pos hf, kfault]
  · rw [if_neg (by rw [hf]; decide), kfault] at hfault
    exact BitVec.eq_of_toNat_eq hfault
  · rw [hstream]
    exact kcur
  · rw [hstream]
    exact kverdict

/-- What a completion shows depends on the stream's height and counts alone. -/
theorem State.completed_congr {s u t : State} {st : Nat} {f : FrameSt} (h : ∀ j ∈ [2, 0xc, 0xd, 0xf], u.obj (kStream st j) = s.obj (kStream st j))
    (hu : u.completed st f t) : s.completed st f t := by
  have h2 := h 2 (by simp)
  have hc := h 0xc (by simp)
  have hd := h 0xd (by simp)
  have hf := h 0xf (by simp)
  have hstatus : u.frameStatus st f = s.frameStatus st f := by
    rw [State.frameStatus, State.streamHeight, State.streamGeo, h2, State.frameStatus, State.streamHeight, State.streamGeo]
  simp only [State.completed, hstatus, State.objN, hc, hd, hf] at hu ⊢
  exact hu

end Sys2Proof.Machine
end

section
/-! Enabling a stream, its lines, frames and packets (O49). -/

namespace Sys2Proof.Machine

/-! ### What keeps a stream's position: lines and frames (R62, R64) -/

/-- Of the objects those named and those of the cadence table alone may change, and beside them what cadence entries keep and what the streams hold. -/
structure State.Paces (s t : State) (ks : List Nat) : Prop where
  rest : t = { s with objs := t.objs, cadDue := t.cadDue, cadK := t.cadK, lode := t.lode, streams := t.streams }
  objs : ∀ k, ¬ cadKey k → k ∉ ks → t.obj k = s.obj k

namespace State.Paces
variable {s t u : State} {ks : List Nat}

theorem refl (s : State) (ks : List Nat) : s.Paces s ks := ⟨rfl, fun _ _ _ => rfl⟩

theorem trans (h : s.Paces t ks) (h' : t.Paces u ks) : s.Paces u ks :=
  ⟨by rw [h'.rest, h.rest], fun k hk hn => (h'.objs k hk hn).trans (h.objs k hk hn)⟩

theorem upStream (s : State) (st : Nat) (f : StreamSt → StreamSt) : s.Paces (s.upStream st f) ks := ⟨rfl, fun _ _ _ => rfl⟩

theorem setObj (s : State) {k : Nat} (hk : k ∈ ks) (v : Word64) : s.Paces (s.setObj k v) ks := ⟨rfl, fun j _ hj => s.objsBut_setObj hk v j hj⟩

theorem ite {a b : State} {c : Prop} [Decidable c] (ha : s.Paces a ks) (hb : s.Paces b ks) : s.Paces (if c then a else b) ks := by
  split <;> assumption

theorem now (h : s.Paces t ks) : t.now = s.now := by rw [h.rest]
theorem out (h : s.Paces t ks) : t.out = s.out := by rw [h.rest]
theorem cap (h : s.Paces t ks) (k : Nat) : t.cap k = s.cap k := by rw [State.cap, h.rest]; rfl
theorem inst (h : s.Paces t ks) (m : Nat) : t.inst m = s.inst m := by rw [h.rest]; rfl
theorem stackWithin (h : s.Paces t ks) (a len lo size : Nat) : t.stackWithin a len lo size = s.stackWithin a len lo size := by rw [h.rest]; rfl
theorem byte (h : s.Paces t ks) : s.sameBytes t := fun a => by rw [h.rest]; rfl

end State.Paces

theorem State.Recadences.paces {s t : State} (h : s.Recadences t) (ks : List Nat) : s.Paces t ks := ⟨by rw [h.rest], fun k hk _ => h.objs k hk⟩

theorem not_cadKey_kStream (st : Fin 32) {j : Nat} (hj : j < 256) : ¬ cadKey (kStream st j) := by
  simp only [cadKey, kStream, okey]
  omega

theorem not_cadKey_kInst {m : Nat} (hm : m < 16) : ¬ cadKey (kInst m 1 4) := by
  simp only [cadKey, kInst, okey]
  omega

/-- The owner's quota is no object of a stream. -/
theorem kInst_not_mem_stream (st : Fin 32) {m : Nat} (hm : m < 16) (js : List Nat) : kInst m 1 4 ∉ js.map (kStream st) := by
  intro h
  obtain ⟨j, -, hj⟩ := List.mem_map.1 h
  simp only [kInst, kStream, okey] at hj
  omega

theorem scOwner_lt (v : Word64) : scOwner v < 16 := Nat.mod_lt _ (by decide)

/-- An object of the stream that is none of the named ones. -/
theorem State.Paces.kept {s t : State} {st : Fin 32} {js : List Nat} (h : s.Paces t (js.map (kStream st))) {j : Nat} (hj : j < 256) (hjs : ∀ i ∈ js, i < 256 ∧ i ≠ j) :
    t.obj (kStream st j) = s.obj (kStream st j) := by
  refine h.objs _ (not_cadKey_kStream st hj) fun hmem => ?_
  obtain ⟨i, hi, hk⟩ := List.mem_map.1 hmem
  obtain ⟨hlt, hne⟩ := hjs i hi
  exact hne ((kStream_inj st hlt hj).1 hk)

/-- A stream after a line began at the instant. -/
def StreamSt.lineStarted (x : StreamSt) (now : Word64) : StreamSt :=
  { x with lineStarts := x.lineStarts + 1, line0 := if x.lineStarts = 0 then now else x.line0, lastLine := now }

/-- The line that begins is counted and shown; `lineBegins` without its line event. -/
def State.lineCounted (s : State) (st : Nat) : State :=
  (s.upStream st fun x => x.lineStarted s.now).setObj (kStreamPos st)
    (setFld (s.obj (kStreamPos st)) 31 16 (s.stream st).lineStarts)

section
variable (s : State) (st : Fin 32)

theorem State.recadences_lineBegins : (s.lineCounted st).Recadences (s.lineBegins st) := by
  unfold State.lineBegins
  dsimp only
  split
  · exact State.recadences_lineEvent ..
  · exact .refl _

theorem State.stream_lineBegins : (s.lineBegins st).stream st = (s.stream st).lineStarted s.now :=
  ((s.recadences_lineBegins st).stream st).trans (s.stream_upStream_self st fun x => x.lineStarted s.now)

theorem State.pos_lineBegins : (s.lineBegins st).obj (kStreamPos st) = setFld (s.obj (kStreamPos st)) 31 16 (s.stream st).lineStarts := by
  refine ((s.recadences_lineBegins st).streamObj st (by decide : 7 < 256)).trans ?_
  rw [State.lineCounted, State.obj_setObj]
  exact if_pos rfl

theorem State.paces_lineBegins : s.Paces (s.lineBegins st) ([7].map (kStream st)) :=
  ((State.Paces.upStream s ..).trans (.setObj _ (by simp [kStreamPos, kStream]) _)).trans ((s.recadences_lineBegins st).paces _)

theorem exec_lineStart (h : ¬ (s.streamOn st = false ∨ (s.stream st).cur = none ∨ scLinePackets (s.streamCfg st) = false)) :
    exec (.lineStart st) s = .next (s.lineBegins st) := by
  have hexec : exec (.lineStart st) s = execLineStart st s := rfl
  rw [hexec, execLineStart, if_neg]
  simpa using h

theorem exec_lineStart_none (h : s.streamOn st = false ∨ (s.stream st).cur = none ∨ scLinePackets (s.streamCfg st) = false) :
    exec (.lineStart st) s = .next s := by
  have hexec : exec (.lineStart st) s = execLineStart st s := rfl
  rw [hexec, execLineStart, if_pos]
  simpa using h

end

/-! ### A frame ends (R64, R289, R290) -/

section
variable (s : State) (st : Fin 32) (f : FrameSt)

theorem State.paces_closeFrame : s.Paces (s.closeFrame st f) ([0xa].map (kStream st)) := by
  unfold State.closeFrame
  dsimp only
  have hl : s.Paces ((s.lineMisses st).lineEvent st 0xfffe) ([0xa].map (kStream st)) := ((s.recadences_lineMisses st).trans (State.recadences_lineEvent ..)).paces _
  generalize (s.lineMisses st).lineEvent st 0xfffe = u at hl ⊢
  refine .trans (hl.trans ?_) (.upStream ..)
  split
  · exact .refl ..
  · exact .setObj u (by simp) _

theorem State.stream_closeFrame : (s.closeFrame st f).stream st = { s.stream st with cur := none, feNs := s.nowN - f.fsStamp.toNat } := by
  unfold State.closeFrame
  dsimp only
  have hr : s.Recadences ((s.lineMisses st).lineEvent st 0xfffe) := (s.recadences_lineMisses st).trans (State.recadences_lineEvent ..)
  generalize (s.lineMisses st).lineEvent st 0xfffe = u at hr ⊢
  rw [State.stream_upStream_self]
  split
  · rw [hr.stream, State.nowN, hr.now, State.nowN]
  · rw [show State.stream (u.setN _ _) st = u.stream st from rfl, hr.stream, State.nowN, State.setN_eq, State.setObj_now, hr.now, State.nowN]

theorem State.verdictDue_of_none {u : State} (h : (u.stream st).verdict = none) (good : Bool) : u.verdictDue st good = u := by
  rw [State.verdictDue, h]

theorem State.verdictDue_of_some {u : State} {g : FrameSt} (h : (u.stream st).verdict = some g) (good : Bool) :
    u.verdictDue st good = (u.upStream st fun x => { x with verdict := none }).completeFrame st (if good then g else { g with pathFault := true }) := by
  rw [State.verdictDue, h]

/-- A verdict that is still due leaves the frame in progress and the time. -/
theorem State.verdictDue_frame (good : Bool) : let t := s.verdictDue st good
    t.now = s.now ∧ (t.stream st).cur = (s.stream st).cur := by
  dsimp only
  cases h : (s.stream st).verdict with
  | none =>
    rw [State.verdictDue_of_none st h]
    exact ⟨rfl, rfl⟩
  | some g =>
    rw [State.verdictDue_of_some st h]
    obtain ⟨-, hnow, hcur, -⟩ := State.completeFrame_completes (s.upStream st fun x => { x with verdict := none }) st (if good then g else { g with pathFault := true })
    refine ⟨hnow, hcur.trans ?_⟩
    rw [State.stream_upStream_self]

end

end Sys2Proof.Machine
end

section
/-! Frames start and end (O49). -/

namespace Sys2Proof.Machine

/-! ### A frame starts (R62, R290, R293, R296) -/

/-- The frame that a frame start opens. -/
def State.newFrame (s : State) (st : Nat) (csiFrame : Word16) : FrameSt :=
  let x := s.stream st
  let testing := scCameraTest (s.streamCfg st) && decide (x.frames ≠ 0)
  { frame := BitVec.ofNat 32 (s.streamFrame st + 1), buf := s.nextBuf st, fsStamp := s.now, feStamp := 0#64, fsTime := s.stampTime, csiFrame := csiFrame, pixelLines := 0,
    embLines := 0, long := false, pktErr := false, testMissing := testing && x.testSeen.isNone, pathFault := testing && decide (x.testSeen = some false), crcErrs := 0 }

/-- A stream after the frame started. -/
def StreamSt.frameStarted (x : StreamSt) (f : FrameSt) : StreamSt :=
  { x with cur := some f, lineStarts := 0, frames := x.frames + 1, testSeen := none, lastBuf := f.buf.getD x.lastBuf }

/-- Between two frames the stream shows the time from one start to the next. -/
def State.gapShown (s : State) (st : Nat) : State :=
  if (s.stream st).frames ≠ 0 then s.setN (kStream st 9) ((s.nowN - s.objN (kStream st 8)) % 2 ^ 32) else s

/-- The number and the stamp of the frame that starts are shown. -/
def State.startShown (s : State) (st n : Nat) : State := (s.setObj (kStream st 8) s.now).setN (kStreamPos st) (n * 2 ^ 32)

/-- The frame is numbered, stamped and given its buffer, but for the count of an overflow and the line event. -/
def State.framePlaced (s : State) (st : Nat) (csiFrame : Word16) : State :=
  let f := s.newFrame st csiFrame
  ((s.gapShown st).startShown st f.frame.toNat).upStream st fun x => x.frameStarted f

/-- The frame is open, but for its line event. -/
def State.frameOpened (s : State) (st : Nat) (csiFrame : Word16) : State :=
  if (s.newFrame st csiFrame).buf.isNone then ((s.framePlaced st csiFrame).count (kStream st 0xe) 32).orObj (kStream st 0x10) 8 else s.framePlaced st csiFrame

/-- A frame that has not ended ends with a packet error. -/
def State.frameCut (s : State) (st : Nat) : State :=
  match (s.stream st).cur with
  | none => s
  | some f => ((s.closeFrame st { f with feStamp := s.now, pktErr := true }).verdictDue st false).completeFrame st { f with feStamp := s.now, pktErr := true }

theorem exec_frameStart {s : State} {st : Fin 32} (h : s.streamOn st = true) (c : Word16) :
    exec (.frameStart st c) s = .next (((s.frameCut st).frameOpened st c).lineEvent st 0xffff) := by
  have hexec : exec (.frameStart st c) s = execFrameStart st c s := rfl
  rw [hexec, execFrameStart, h]
  rfl

section
variable (s : State) (st : Fin 32) (c : Word16)

theorem State.stream_of_objsAlone {s t : State} (h : s.objsAlone t) (k : Nat) : t.stream k = s.stream k := by
  rw [h]
  rfl

theorem State.objsAlone_gapShown : s.objsAlone (s.gapShown st) := by
  unfold State.gapShown
  split
  · exact s.objsAlone_setObj ..
  · rfl

theorem State.objsAlone_startShown (n : Nat) : s.objsAlone (s.startShown st n) := (s.objsAlone_setObj ..).trans (State.objsAlone_setObj ..)

theorem State.objsAlone_framePlaced (n : Nat) : s.objsAlone ((s.gapShown st).startShown st n) := (s.objsAlone_gapShown st).trans (State.objsAlone_startShown ..)

theorem State.stream_framePlaced : (s.framePlaced st c).stream st = (s.stream st).frameStarted (s.newFrame st c) := by
  rw [State.framePlaced, State.stream_upStream_self, State.stream_of_objsAlone (s.objsAlone_framePlaced st _)]

theorem State.stream_frameOpened : (s.frameOpened st c).stream st = (s.framePlaced st c).stream st := by
  unfold State.frameOpened
  generalize s.framePlaced st c = u
  split
  · exact State.stream_of_objsAlone ((u.objsAlone_count ..).trans (State.objsAlone_setObj ..)) st
  · rfl

theorem State.paces_frameOpened : s.Paces (s.frameOpened st c) ([7, 8, 9, 0xe, 0x10].map (kStream st)) := by
  have hplaced : s.Paces (s.framePlaced st c) ([7, 8, 9, 0xe, 0x10].map (kStream st)) := by
    have hgap : s.Paces (s.gapShown st) ([7, 8, 9, 0xe, 0x10].map (kStream st)) := .ite (.setObj s (k := kStream st 9) (by simp) _) (.refl ..)
    refine .trans (hgap.trans ?_) (State.Paces.upStream _ st fun x => x.frameStarted (s.newFrame st c))
    exact .trans (.setObj _ (k := kStream st 8) (by simp) _) (.setObj _ (k := kStream st 7) (by simp) _)
  unfold State.frameOpened
  generalize s.framePlaced st c = u at hplaced ⊢
  exact .ite ((hplaced.trans (.setObj _ (k := kStream st 0xe) (by simp) _)).trans (.setObj _ (k := kStream st 0x10) (by simp) _)) hplaced

theorem State.obj_startShown (n : Nat) (k : Nat) :
    (s.startShown st n).obj k = if kStream st 7 = k then BitVec.ofNat 64 (n * 2 ^ 32) else if kStream st 8 = k then s.now else s.obj k := by
  rw [State.startShown, State.setN_eq, State.obj_setObj, State.obj_setObj]
  rfl

theorem State.objN_gapShown : (s.gapShown st).objN (kStream st 9) = if (s.stream st).frames = 0 then s.objN (kStream st 9) else (s.nowN - s.objN (kStream st 8)) % 2 ^ 32 := by
  unfold State.gapShown
  by_cases h : (s.stream st).frames = 0
  · rw [if_pos h, if_neg (not_not.2 h)]
  · rw [if_neg h, if_pos h, State.objN_setN_self, Nat.mod_eq_of_lt (by omega)]

theorem State.obj_gapShown {k : Nat} (h : kStream st 9 ≠ k) : (s.gapShown st).obj k = s.obj k := by
  unfold State.gapShown
  split
  · rw [State.setN_eq, State.obj_setObj, if_neg h]
  · rfl

theorem kStream_ne (st : Nat) {i j : Nat} (hi : i < 256) (hj : j < 256) (h : i ≠ j) : kStream st i ≠ kStream st j := fun hk => h ((kStream_inj st hi hj).1 hk)

/-- The objects that a new frame shows. -/
theorem State.framePlaced_shows : let t := s.framePlaced st c
    t.obj (kStream st 8) = s.now ∧ t.objN (kStreamPos st) = (s.streamFrame st + 1) % 2 ^ 32 * 2 ^ 32
      ∧ t.objN (kStream st 9) = (if (s.stream st).frames = 0 then s.objN (kStream st 9) else (s.nowN - s.objN (kStream st 8)) % 2 ^ 32)
      ∧ t.objN (kStream st 0xe) = s.objN (kStream st 0xe) := by
  intro t
  have hobj : ∀ k, t.obj k = ((s.gapShown st).startShown st (s.newFrame st c).frame.toNat).obj k := fun k => State.obj_upStream ..
  have hnow : (s.gapShown st).now = s.now := by rw [s.objsAlone_gapShown st]
  have hnum : (s.newFrame st c).frame.toNat = (s.streamFrame st + 1) % 2 ^ 32 := BitVec.toNat_ofNat ..
  have hother : ∀ j < 256, 7 ≠ j → 8 ≠ j → t.obj (kStream st j) = (s.gapShown st).obj (kStream st j) := fun j hj h7 h8 => by
    rw [hobj, State.obj_startShown, if_neg (kStream_ne st (by decide) hj h7), if_neg (kStream_ne st (by decide) hj h8)]
  refine ⟨?_, ?_, (congrArg BitVec.toNat (hother 9 (by decide) (by decide) (by decide))).trans (s.objN_gapShown st), ?_⟩
  · rw [hobj, State.obj_startShown, if_neg (kStream_ne st (by decide) (by decide) (by decide)), if_pos rfl, hnow]
  · rw [State.objN, hobj, State.obj_startShown, hnum]
    exact (congrArg BitVec.toNat (if_pos rfl)).trans ((BitVec.toNat_ofNat ..).trans (Nat.mod_eq_of_lt (by omega)))
  · exact congrArg BitVec.toNat ((hother 0xe (by decide) (by decide) (by decide)).trans (s.obj_gapShown st (kStream_ne st (by decide) (by decide) (by decide))))

/-- A frame that is discarded counts as an overflow. -/
theorem State.frameOpened_shows : let t := s.frameOpened st c
    t.obj (kStream st 8) = s.now ∧ t.objN (kStreamPos st) = (s.streamFrame st + 1) % 2 ^ 32 * 2 ^ 32
      ∧ t.objN (kStream st 9) = (if (s.stream st).frames = 0 then s.objN (kStream st 9) else (s.nowN - s.objN (kStream st 8)) % 2 ^ 32)
      ∧ t.objN (kStream st 0xe) = (if s.nextBuf st = none then (s.objN (kStream st 0xe) + 1) % 2 ^ 32 else s.objN (kStream st 0xe)) := by
  obtain ⟨h8, h7, h9, he⟩ := s.framePlaced_shows st c
  unfold State.frameOpened
  cases hb : s.nextBuf st with
  | some b =>
    rw [if_neg (by rw [show (s.newFrame st c).buf = some b from hb, Option.isNone_some]; decide)]
    exact ⟨h8, h7, h9, he⟩
  | none =>
    rw [if_pos (by rw [show (s.newFrame st c).buf = none from hb]; decide), if_pos rfl]
    generalize s.framePlaced st c = u at *
    have hkept : ∀ j < 256, j ≠ 0xe → j ≠ 0x10 → ((u.count (kStream st 0xe) 32).orObj (kStream st 0x10) 8).obj (kStream st j) = u.obj (kStream st j) := by
      intro j hj h1 h2
      rw [State.orObj_eq, State.obj_setObj, if_neg (kStream_ne st (by decide) hj (Ne.symm h2)), State.count_eq, State.obj_setObj, if_neg (kStream_ne st (by decide) hj (Ne.symm h1))]
    refine ⟨(hkept 8 (by decide) (by decide) (by decide)).trans h8, (congrArg BitVec.toNat (hkept 7 (by decide) (by decide) (by decide))).trans h7,
      (congrArg BitVec.toNat (hkept 9 (by decide) (by decide) (by decide))).trans h9, ?_⟩
    rw [State.objN_orObj_of_ne _ (kStream_ne st (by decide) (by decide) (by decide)), State.objN_count _ _ _ _ _ (by decide), if_pos rfl, he]

theorem State.now_frameCut : (s.frameCut st).now = s.now := by
  unfold State.frameCut
  split
  · rfl
  · obtain ⟨-, hnow, -⟩ := State.completeFrame_completes ((s.closeFrame st _).verdictDue st false) st _
    exact hnow.trans ((State.verdictDue_frame _ st false).1.trans (s.paces_closeFrame st _).now)

theorem frameStart_opens (h : s.streamOn st = true) : ∃ t f, exec (.frameStart st c) s = .next t ∧ (t.stream st).cur = some f ∧ f.fsStamp = s.now ∧ f.csiFrame = c
    ∧ f.pixelLines = 0 ∧ f.embLines = 0 ∧ (t.stream st).lineStarts = 0 := by
  have hstream := (State.recadences_lineEvent ((s.frameCut st).frameOpened st c) st 0xffff).stream st
  rw [State.stream_frameOpened, State.stream_framePlaced] at hstream
  refine ⟨_, (s.frameCut st).newFrame st c, exec_frameStart h c, ?_, s.now_frameCut st, rfl, rfl, rfl, ?_⟩
  · rw [hstream, StreamSt.frameStarted]
  · rw [hstream, StreamSt.frameStarted]

theorem frameStart_fresh (h : s.streamOn st = true) (hcur : (s.stream st).cur = none) : ∃ t f, exec (.frameStart st c) s = .next t ∧ (t.stream st).cur = some f
    ∧ f.frame.toNat = (s.streamFrame st + 1) % 2 ^ 32 ∧ f.buf = s.nextBuf st ∧ f.fsTime = s.stampTime
    ∧ t.obj (kStream st 8) = s.now ∧ t.objN (kStreamPos st) = (s.streamFrame st + 1) % 2 ^ 32 * 2 ^ 32 ∧ (t.stream st).frames = (s.stream st).frames + 1
    ∧ t.objN (kStream st 9) = (if (s.stream st).frames = 0 then s.objN (kStream st 9) else (s.nowN - s.objN (kStream st 8)) % 2 ^ 32)
    ∧ t.objN (kStream st 0xe) = (if s.nextBuf st = none then (s.objN (kStream st 0xe) + 1) % 2 ^ 32 else s.objN (kStream st 0xe)) ∧ s.sameBytes t := by
  have hcut : s.frameCut st = s := by rw [State.frameCut, hcur]
  have hexec := exec_frameStart h c
  rw [hcut] at hexec
  have hr := State.recadences_lineEvent (s.frameOpened st c) st 0xffff
  have hstream := hr.stream st
  rw [State.stream_frameOpened, State.stream_framePlaced] at hstream
  obtain ⟨h8, h7, h9, he⟩ := s.frameOpened_shows st c
  have hobj : ∀ j < 256, ((s.frameOpened st c).lineEvent st 0xffff).objN (kStream st j) = (s.frameOpened st c).objN (kStream st j) := fun j hj =>
    congrArg BitVec.toNat (hr.streamObj st hj)
  refine ⟨_, s.newFrame st c, hexec, ?_, BitVec.toNat_ofNat .., rfl, rfl, (hr.streamObj st (by decide)).trans h8, (hobj 7 (by decide)).trans h7, ?_,
    (hobj 9 (by decide)).trans h9, (hobj 0xe (by decide)).trans he, fun a => (hr.byte a).trans ((s.paces_frameOpened st c).byte a)⟩
  · rw [hstream, StreamSt.frameStarted]
  · rw [hstream, StreamSt.frameStarted]

end

/-! ### A frame ends, and its verdict (R290, R292, R294, R295) -/

section
variable {s : State} {st : Fin 32} {f : FrameSt}

theorem exec_frameEnd_none (h : s.streamOn st = false ∨ (s.stream st).cur = none) : exec (.frameEnd st) s = .next s := by
  have hexec : exec (.frameEnd st) s = execFrameEnd st s := rfl
  rw [hexec, execFrameEnd]
  rcases h with h | h <;> rw [h]
  · rfl
  · exact ite_self _

/-- The frame with the stamp of its end. -/
abbrev State.endedFrame (s : State) (f : FrameSt) : FrameSt := { f with feStamp := s.now }

/-- The state in which the frame that ended goes on to the checker or is complete. -/
def State.frameClosed (s : State) (st : Nat) (f : FrameSt) : State := (s.closeFrame st (s.endedFrame f)).verdictDue st false

/-- The blanking pattern of the frame is injected (R294). -/
def State.blanked (s : State) (st : Nat) (f : FrameSt) : State :=
  (s.upStream st fun x => { x with verdict := some f }).emit (.blank st f.frame.toNat (s.pattern st f.frame))

theorem State.stream_blanked (s : State) (st : Nat) (f : FrameSt) : (s.blanked st f).stream st = { s.stream st with verdict := some f } :=
  s.stream_upStream_self st fun x => { x with verdict := some f }

theorem State.sameBytes_blanked (s : State) (st : Nat) (f : FrameSt) : s.sameBytes (s.blanked st f) := fun a =>
  (State.byte_emit ..).trans ((State.Paces.upStream (ks := []) s ..).byte a)

theorem exec_frameEnd (hon : s.streamOn st = true) (hcur : (s.stream st).cur = some f) : exec (.frameEnd st) s =
    .next (if scBlankTest ((s.frameClosed st f).streamCfg st) then (s.frameClosed st f).blanked st (s.endedFrame f)
      else (s.frameClosed st f).completeFrame st (s.endedFrame f)) := by
  have hexec : exec (.frameEnd st) s = execFrameEnd st s := rfl
  rw [hexec, execFrameEnd, hon, hcur]
  exact (apply_ite Host.Outcome.next ..).symm

theorem State.cur_frameClosed (s : State) (st : Fin 32) (f : FrameSt) : ((s.frameClosed st f).stream st).cur = none := by
  rw [State.frameClosed, (State.verdictDue_frame _ st false).2, State.stream_closeFrame]

theorem frameEnd_ends (hon : s.streamOn st = true) (hcur : (s.stream st).cur = some f) : ∃ t, exec (.frameEnd st) s = .next t ∧ (t.stream st).cur = none := by
  refine ⟨_, exec_frameEnd hon hcur, ?_⟩
  have hclosed := s.cur_frameClosed st f
  split
  · rw [State.stream_blanked]
    exact hclosed
  · obtain ⟨-, -, h, -⟩ := (s.frameClosed st f).completeFrame_completes st (s.endedFrame f)
    exact h.trans hclosed

section
variable (hverdict : (s.stream st).verdict = none)
include hverdict

theorem State.frameClosed_of_no_verdict : s.frameClosed st f = s.closeFrame st (s.endedFrame f) := by
  refine State.verdictDue_of_none st ?_ false
  rw [State.stream_closeFrame]
  exact hverdict

theorem State.paces_frameClosed : s.Paces (s.frameClosed st f) ([0xa].map (kStream st)) := by
  rw [State.frameClosed_of_no_verdict hverdict]
  exact s.paces_closeFrame ..

theorem State.obj_frameClosed {j : Nat} (hj : j < 256) (h : 0xa ≠ j) : (s.frameClosed st f).obj (kStream st j) = s.obj (kStream st j) :=
  (State.paces_frameClosed hverdict).kept hj (by simpa using h)

theorem State.streamCfg_frameClosed : (s.frameClosed st f).streamCfg st = s.streamCfg st := State.obj_frameClosed hverdict (by decide) (by decide)

theorem frameEnd_blanks (hon : s.streamOn st = true) (hcur : (s.stream st).cur = some f) (hblank : scBlankTest (s.streamCfg st) = true) :
    ∃ t, exec (.frameEnd st) s = .next t ∧ (t.stream st).verdict = some (s.endedFrame f)
      ∧ t.out = .blank st f.frame.toNat (s.pattern st f.frame) :: s.out ∧ s.sameBytes t := by
  have hp := State.paces_frameClosed (f := f) hverdict
  have hexec := exec_frameEnd hon hcur
  rw [State.streamCfg_frameClosed hverdict, if_pos hblank] at hexec
  refine ⟨_, hexec, by rw [State.stream_blanked], ?_, fun a => (State.sameBytes_blanked _ _ _ a).trans (hp.byte a)⟩
  have hpattern : (s.frameClosed st f).pattern st f.frame = s.pattern st f.frame := by
    rw [State.pattern, State.objN, State.obj_frameClosed hverdict (by decide) (by decide), State.pattern, State.objN]
  exact congrArg₂ List.cons (congrArg _ hpattern) hp.out

theorem exec_frameEnd_completes (hon : s.streamOn st = true) (hcur : (s.stream st).cur = some f) (hblank : scBlankTest (s.streamCfg st) = false) :
    exec (.frameEnd st) s = .next ((s.frameClosed st f).completeFrame st (s.endedFrame f)) := by
  have hexec := exec_frameEnd hon hcur
  rw [State.streamCfg_frameClosed hverdict, if_neg (by rw [hblank]; decide)] at hexec
  exact hexec

theorem State.completed_frameClosed {g : FrameSt} : s.completed st g ((s.frameClosed st f).completeFrame st g) := by
  refine State.completed_congr (fun j hj => ?_) ((s.frameClosed st f).completeFrame_completes st g).1
  simp only [List.mem_cons, List.not_mem_nil, or_false] at hj
  exact State.obj_frameClosed hverdict (by omega) (by omega)

end

/-- Without a capture that waits nothing is taken. -/
theorem State.capResume_of_idle (h : ∀ k, (s.cap k).busy = []) (st : Nat) : s.capResume st = s := by
  have hnone : ((List.range 256).filter fun k => !(s.cap k).busy.isEmpty) = [] := by
    refine List.filter_eq_nil_iff.2 fun k _ => ?_
    rw [h k]
    decide
  rw [State.capResume, hnone]
  rfl

theorem State.length_frameHeader (s : State) (st : Nat) (f : FrameSt) : (s.frameHeader st f).length = 64 := by
  simp only [State.frameHeader, List.length_append, leBytes_length]

theorem State.cap_wrOwn (s : State) (m a : Nat) (bs : List Byte) (k : Nat) : (s.wrOwn m a bs).cap k = s.cap k := by
  unfold State.wrOwn
  split
  · rw [State.cap, State.wr_caps, State.cap]
  · rfl

/-- After its header a kept frame changes objects of its stream and the stream alone. -/
theorem State.paces_frameStored (s : State) (st : Nat) (f : FrameSt) (b : Nat) :
    (s.wrOwn (scOwner (s.streamCfg st)) (s.bufAddr st b) (s.frameHeader st f)).Paces (s.frameStored st f b) ([0xb, 0xc, 0xd, 0x10].map (kStream st)) := by
  unfold State.frameStored
  generalize s.wrOwn (scOwner (s.streamCfg st)) (s.bufAddr st b) (s.frameHeader st f) = w
  refine .trans (.trans (.trans ?_ (.upStream ..)) (.setObj _ (k := kStream st 0xc) (by simp) _)) (.setObj _ (k := kStream st 0x10) (by simp) _)
  exact .setObj w (k := kStream st 0xb) (by simp) _

theorem State.paces_frameKept (s : State) (st : Nat) (f : FrameSt) {b : Nat} (hbuf : f.buf = some b) :
    (s.wrOwn (scOwner (s.streamCfg st)) (s.bufAddr st b) (s.frameHeader st f)).Paces (s.frameKept st f) ([0xb, 0xc, 0xd, 0x10].map (kStream st)) := by
  have hstored := s.paces_frameStored st f b
  rw [State.frameKept, hbuf]
  dsimp only
  generalize s.frameStored st f b = u at hstored ⊢
  exact .ite hstored ((hstored.trans (.setObj _ (k := kStream st 0xd) (by simp) _)).trans (.setObj _ (k := kStream st 0x10) (by simp) _))

section
variable {u : State} (b : Nat) (hfault : f.pathFault = false) (hbuf : f.buf = some b) (hidle : ∀ k, (u.cap k).busy = [])
include hfault hbuf hidle

/-- The header is the last store of a completion that resumes no capture (R292). -/
theorem State.rd_completeFrame (hfits : u.bufAddr st b + 64 ≤ stackedSize)
    (hown : u.stackWithin (u.bufAddr st b) 64 (u.inst (scOwner (u.streamCfg st))).stackBase (u.objN (kInst (scOwner (u.streamCfg st)) 1 4)) = true) :
    (u.completeFrame st f).rd (u.bufAddr st b) 64 = u.frameHeader st f := by
  have hkept := u.paces_frameKept st f hbuf
  have hcaps : ∀ k, ((u.frameKept st f).cap k).busy = [] := fun k => by rw [hkept.cap, State.cap_wrOwn, hidle k]
  rw [State.completeFrame_eq, if_neg (by rw [hfault]; decide), State.capResume_of_idle hcaps, State.rd_congr hkept.byte]
  have hlen := u.length_frameHeader st f
  rw [State.wrOwn, hlen, if_pos hown]
  have hrd := u.rd_wr_stacked (u.bufAddr st b) (u.frameHeader st f) (by rw [hlen]; exact hfits)
  rw [hlen] at hrd
  exact hrd

end

section
variable (hverdict : (s.stream st).verdict = none)
include hverdict

theorem State.bufAddr_frameClosed (b : Nat) : (s.frameClosed st f).bufAddr st b = s.bufAddr st b := by
  simp only [State.bufAddr, State.objN, State.obj_frameClosed hverdict (by decide : 3 < 256) (by decide), State.obj_frameClosed hverdict (by decide : 4 < 256) (by decide)]

theorem State.frameHeader_frameClosed (g : FrameSt) : (s.frameClosed st f).frameHeader st g = s.frameHeader st g := by
  have hwritten : ((s.frameClosed st f).stream st).written = (s.stream st).written := by rw [State.frameClosed_of_no_verdict hverdict, State.stream_closeFrame]
  have hstatus : (s.frameClosed st f).frameStatus st g = s.frameStatus st g := by
    rw [State.frameStatus, State.streamHeight, State.streamGeo, State.obj_frameClosed hverdict (by decide) (by decide), State.frameStatus, State.streamHeight, State.streamGeo]
  rw [State.frameHeader, hstatus, hwritten, State.frameHeader]

theorem frameEnd_completes (hon : s.streamOn st = true) (hcur : (s.stream st).cur = some f) (hblank : scBlankTest (s.streamCfg st) = false) :
    ∃ t, exec (.frameEnd st) s = .next t ∧ s.completed st (s.endedFrame f) t
      ∧ ∀ b, f.buf = some b → (∀ k, (s.cap k).busy = []) → f.pathFault = false → s.bufAddr st b + 64 ≤ stackedSize →
        s.stackWithin (s.bufAddr st b) 64 (s.inst (scOwner (s.streamCfg st))).stackBase (s.objN (kInst (scOwner (s.streamCfg st)) 1 4)) = true →
        t.rd (s.bufAddr st b) 64 = s.frameHeader st (s.endedFrame f) := by
  refine ⟨_, exec_frameEnd_completes hverdict hon hcur hblank, State.completed_frameClosed hverdict, fun b hbuf hidle hfault hfits hown => ?_⟩
  have hp := State.paces_frameClosed (f := f) hverdict
  have hrd := State.rd_completeFrame (u := s.frameClosed st f) (st := st) (f := s.endedFrame f) b hfault hbuf (fun k => by rw [hp.cap, hidle k])
  have hquota : (s.frameClosed st f).objN (kInst (scOwner (s.streamCfg st)) 1 4) = s.objN (kInst (scOwner (s.streamCfg st)) 1 4) :=
    congrArg BitVec.toNat (hp.objs _ (not_cadKey_kInst (scOwner_lt _)) (kInst_not_mem_stream st (scOwner_lt _) _))
  rw [State.bufAddr_frameClosed hverdict, State.frameHeader_frameClosed hverdict, State.streamCfg_frameClosed hverdict, hp.inst, hquota, hp.stackWithin] at hrd
  exact hrd hfits hown

end

theorem blankVerdict_decides (crc : Option Word32) : ((s.stream st).verdict = none → exec (.blankVerdict st crc) s = .next s)
    ∧ ∀ f, (s.stream st).verdict = some f → ∃ t, exec (.blankVerdict st crc) s = .next t ∧ (t.stream st).verdict = none
      ∧ s.completed st (if crc = some (crc32c (s.pattern st f.frame)) then f else { f with pathFault := true }) t := by
  have hexec : exec (.blankVerdict st crc) s = execBlankVerdict st crc s := rfl
  rw [hexec, execBlankVerdict]
  refine ⟨fun h => by rw [h], fun f h => ?_⟩
  rw [h]
  dsimp only
  rw [State.verdictDue_of_some st h]
  simp only [decide_eq_true_eq]
  generalize (if crc = some (crc32c (s.pattern st f.frame)) then f else { f with pathFault := true }) = g
  obtain ⟨hdone, -, -, hverdict⟩ := (s.upStream st fun x => { x with verdict := none }).completeFrame_completes st g
  rw [State.stream_upStream_self] at hverdict
  exact ⟨_, rfl, hverdict, State.completed_congr (fun _ _ => State.obj_upStream ..) hdone⟩

end

end Sys2Proof.Machine
end

section
/-! Streams are enabled, and ports take packets (O49). -/

namespace Sys2Proof.Machine

/-! ### Enabling and disabling a stream (R289, R291) -/

section
variable {s : State} {src : Src} {r : Requester} {st : Fin 32} {v : Word64} {ring : Nat} (h : s.accepts src r (0x5420 + st) 1 v)
include h

theorem exec_streamEnable_ok {t : State} (ht : s.writeStreamConfig st v ring = .ok t) : exec (.streamEnable src st v ring) s = .next t := by
  have hexec : exec (.streamEnable src st v ring) s = s.command src (0x5420 + st) 1 v fun _ s => s.writeStreamConfig st v ring := rfl
  rw [hexec]
  exact State.command_ok h ht

theorem exec_streamEnable_error {e : Nat} (he : s.writeStreamConfig st v ring = .error e) :
    exec (.streamEnable src st v ring) s = .next (s.latch r.ctx e (0x5420 + st) 1) := by
  have hexec : exec (.streamEnable src st v ring) s = s.command src (0x5420 + st) 1 v fun _ s => s.writeStreamConfig st v ring := rfl
  rw [hexec]
  exact State.command_error h he

end

/-- Whether another enabled stream takes the same packets (R289). -/
def State.sameSource (s : State) (st : Nat) (v : Word64) (o : Nat) : Bool :=
  o != st && scEnable (s.streamCfg o) && decide (scPort (s.streamCfg o) = scPort v) && decide (scVc (s.streamCfg o) = scVc v) && decide (scType (s.streamCfg o) = scType v)

/-- A stream that was disabled. -/
def StreamSt.disabled (x : StreamSt) : StreamSt := { x with cur := none, verdict := none, latest := none, lineStarts := 0, testSeen := none }

/-- The stream is disabled, and its rings that nothing holds go free. -/
def State.streamDisabled (s : State) (st : Nat) (v : Word64) : State :=
  ((((s.setObj (kStream st 1) v).setN (kStream st 0xb) 0xff)).upStream st StreamSt.disabled).freeRings st

/-- A stream that was enabled with a ring for its owner. -/
def StreamSt.enabled (x : StreamSt) (depth m ring size : Nat) : StreamSt :=
  { StreamSt.init with lastBuf := depth - 1, ringDepth := depth, pinned := x.pinned, rings := (m, ring, depth * size) :: x.rings }

/-- The objects of a stream that is enabled. -/
def State.enableShown (s : State) (st : Nat) (v : Word64) (ring : Nat) : State :=
  ((((s.setObj (kStream st 1) v).setN (kStream st 3) ring).setN (kStream st 4) (s.bufferSize st)).setN (kStreamPos st) 0).setN (kStream st 0xb) 0xff

/-- The stream is enabled on its ring, but for the cadence entries that it keys. -/
def State.streamEnabled (s : State) (st : Nat) (v : Word64) (ring : Nat) : State :=
  ((s.enableShown st v ring).upInst (scOwner v) fun y => { y with claims := (ring, (scDepthM1 v + 1) * s.bufferSize st) :: y.claims }).upStream st fun x =>
    x.enabled (scDepthM1 v + 1) (scOwner v) ring (s.bufferSize st)

section
variable (s : State) (st : Nat) (v : Word64) (ring : Nat)

/-- The outcomes of a write of stream_config, in the order of its checks. -/
theorem State.writeStreamConfig_eq : s.writeStreamConfig st v ring =
    if streamCfgOk v = false then .error 0x0007
    else if ¬ s.secureIndex (0x5420 + st) = decide (s.objN (kInst (scOwner v) 0 4) = 1) then .error 0x0004
    else if scEnable (s.streamCfg st) = true ∧ setBit v 63 false ≠ setBit (s.streamCfg st) 63 false then .error 0x000B
    else if scEnable (s.streamCfg st) = true ∧ scEnable v = true then .ok s
    else if scEnable (s.streamCfg st) = true then .ok (s.streamDisabled st v)
    else if scEnable v = false then .ok (s.setObj (kStream st 1) v)
    else if (List.range 32).any (s.sameSource st v) = true then .error 0x0009
    else if s.carves (scOwner v) ring ((scDepthM1 v + 1) * s.bufferSize st) = false then .error 0x000A
    else .ok ((s.streamEnabled st v ring).rearmStream st) := by
  unfold State.writeStreamConfig
  simp only [Bool.not_eq_true', bne_iff_ne, ne_eq, Bool.and_eq_true]
  rfl

end

/-- Nothing but `insts` may change. -/
abbrev State.instsAlone (s t : State) : Prop := t = { s with insts := t.insts }

theorem State.instsAlone_forEach {α : Type} (s : State) (l : List α) (f : State → α → State) (hf : ∀ u x, State.instsAlone u (f u x)) : s.instsAlone (s.forEach l f) := by
  refine List.foldlRecOn l f (motive := s.instsAlone) rfl fun u hu x _ => ?_
  unfold State.instsAlone at *
  rw [hf u x, hu]

section
variable (s : State) (st : Nat) (v : Word64) (ring : Nat)

theorem State.instsAlone_freeRings : ∃ rings, (s.upStream st fun x => { x with rings := rings }).instsAlone (s.freeRings st) :=
  ⟨_, State.instsAlone_forEach (s.upStream st _) _ _ fun _ _ => rfl⟩

section
variable {s t : State} (h : s.instsAlone t)
include h

theorem State.instsAlone.obj (k : Nat) : t.obj k = s.obj k := by rw [h]; rfl
theorem State.instsAlone.stream (k : Nat) : t.stream k = s.stream k := by rw [h]; rfl
theorem State.instsAlone.byte : s.sameBytes t := fun a => by rw [h]; rfl

end

theorem State.objsAlone_disableShown : s.objsAlone ((s.setObj (kStream st 1) v).setN (kStream st 0xb) 0xff) := (s.objsAlone_setObj ..).trans (State.objsAlone_setObj ..)

/-- What a disabled stream shows. -/
theorem State.streamDisabled_shows : let t := s.streamDisabled st v
    t.obj (kStream st 1) = v ∧ t.objN (kStream st 0xb) = 0xff ∧ (t.stream st).cur = none ∧ (t.stream st).latest = none ∧ s.sameBytes t := by
  have hshown := s.objsAlone_disableShown st v
  have h1 : ((s.setObj (kStream st 1) v).setN (kStream st 0xb) 0xff).obj (kStream st 1) = v := by
    rw [State.setN_eq, State.obj_setObj, if_neg (kStream_ne st (by decide) (by decide) (by decide)), State.obj_setObj, if_pos rfl]
  have hb : ((s.setObj (kStream st 1) v).setN (kStream st 0xb) 0xff).objN (kStream st 0xb) = 0xff := State.objN_setN_self ..
  unfold State.streamDisabled
  generalize (s.setObj (kStream st 1) v).setN (kStream st 0xb) 0xff = u at *
  obtain ⟨rings, hfree⟩ := (u.upStream st StreamSt.disabled).instsAlone_freeRings st
  have hstream := hfree.stream st
  rw [State.stream_upStream_self, State.stream_upStream_self] at hstream
  have hobj : ∀ k, ((u.upStream st StreamSt.disabled).freeRings st).obj k = u.obj k := fun k => hfree.obj k
  refine ⟨(hobj _).trans h1, (congrArg BitVec.toNat (hobj _)).trans hb, ?_, ?_, fun a => ?_⟩
  · rw [hstream, StreamSt.disabled]
  · rw [hstream, StreamSt.disabled]
  · rw [hfree.byte a, (State.Paces.upStream (ks := []) _ ..).byte a, (State.Paces.upStream (ks := []) _ ..).byte a, hshown]
    rfl

theorem State.objsAlone_enableShown : s.objsAlone (s.enableShown st v ring) :=
  ((((s.objsAlone_setObj ..).trans (State.objsAlone_setObj ..)).trans (State.objsAlone_setObj ..)).trans (State.objsAlone_setObj ..)).trans (State.objsAlone_setObj ..)

theorem State.obj_enableShown {j : Nat} (hj : j < 256) : (s.enableShown st v ring).obj (kStream st j) =
    if 0xb = j then 0xff#64 else if 7 = j then 0#64 else if 4 = j then BitVec.ofNat 64 (s.bufferSize st) else if 3 = j then BitVec.ofNat 64 ring
    else if 1 = j then v else s.obj (kStream st j) := by
  rw [State.enableShown, show kStreamPos st = kStream st 7 from rfl]
  simp only [State.setN_eq, State.obj_setObj, kStream_inj st (by decide : 0xb < 256) hj, kStream_inj st (by decide : 7 < 256) hj, kStream_inj st (by decide : 4 < 256) hj,
    kStream_inj st (by decide : 3 < 256) hj, kStream_inj st (by decide : 1 < 256) hj]

/-- What an enabled stream shows. -/
theorem State.streamEnabled_shows : let t := s.streamEnabled st v ring
    t.obj (kStream st 1) = v ∧ t.objN (kStream st 3) = ring % 2 ^ 64 ∧ t.objN (kStream st 4) = s.bufferSize st % 2 ^ 64 ∧ t.obj (kStream st 7) = 0#64
      ∧ t.objN (kStream st 0xb) = 0xff ∧ (t.stream st).ringDepth = scDepthM1 v + 1 ∧ (t.stream st).cur = none ∧ s.sameBytes t := by
  have hobj := fun j hj => s.obj_enableShown st v ring (j := j) hj
  have halone := s.objsAlone_enableShown st v ring
  unfold State.streamEnabled
  generalize s.enableShown st v ring = u at *
  have hinst : u.instsAlone (u.upInst (scOwner v) fun y => { y with claims := (ring, (scDepthM1 v + 1) * s.bufferSize st) :: y.claims }) := rfl
  generalize (u.upInst (scOwner v) fun y => { y with claims := (ring, (scDepthM1 v + 1) * s.bufferSize st) :: y.claims }) = w at *
  have hk : ∀ j, (w.upStream st fun x => x.enabled (scDepthM1 v + 1) (scOwner v) ring (s.bufferSize st)).obj (kStream st j) = u.obj (kStream st j) := fun j => hinst.obj _
  have hkN : ∀ j, (w.upStream st fun x => x.enabled (scDepthM1 v + 1) (scOwner v) ring (s.bufferSize st)).objN (kStream st j) = u.objN (kStream st j) := fun j =>
    congrArg BitVec.toNat (hk j)
  have hstream := w.stream_upStream_self st fun x => x.enabled (scDepthM1 v + 1) (scOwner v) ring (s.bufferSize st)
  refine ⟨(hk 1).trans (hobj 1 (by decide)), (hkN 3).trans ?_, (hkN 4).trans ?_, (hk 7).trans (hobj 7 (by decide)), (hkN 0xb).trans ?_, ?_, ?_, fun a => ?_⟩
  · rw [State.objN, hobj 3 (by decide)]
    exact BitVec.toNat_ofNat ..
  · rw [State.objN, hobj 4 (by decide)]
    exact BitVec.toNat_ofNat ..
  · rw [State.objN, hobj 0xb (by decide)]
    rfl
  · rw [hstream, StreamSt.enabled]
  · rw [hstream]
    rfl
  · rw [(State.Paces.upStream (ks := []) _ ..).byte a, hinst.byte a, halone]
    rfl

end

/-- A write of stream_config that is accepted enables or disables the stream, or is refused by the first check that it fails (R289, R291, R366). -/
theorem streamEnable_decides (s : State) (st : Fin 32) (src : Src) (r : Requester) (v : Word64) (ring : Nat) (h : s.accepts src r (0x5420 + st) 1 v) :
    let cfg := s.streamCfg st
    let world := s.secureIndex (0x5420 + st) = decide (s.objN (kInst (scOwner v) 0 4) = 1)
    let refused (e : Nat) : Prop := exec (.streamEnable src st v ring) s = .next (s.latch r.ctx e (0x5420 + st) 1)
    (streamCfgOk v = false → refused 0x0007)
    ∧ (streamCfgOk v = true → ¬ world → refused 0x0004)
    ∧ (streamCfgOk v = true → world → scEnable cfg = true → setBit v 63 false ≠ setBit cfg 63 false → refused 0x000B)
    ∧ (streamCfgOk v = true → world → scEnable cfg = true → v = cfg → exec (.streamEnable src st v ring) s = .next s)
    ∧ (streamCfgOk v = true → world → scEnable cfg = true → scEnable v = false → setBit v 63 false = setBit cfg 63 false →
      ∃ t, exec (.streamEnable src st v ring) s = .next t ∧ t.obj (kStream st 1) = v ∧ t.objN (kStream st 0xb) = 0xff ∧ (t.stream st).cur = none ∧ (t.stream st).latest = none ∧ s.sameBytes t)
    ∧ (streamCfgOk v = true → world → scEnable cfg = false → scEnable v = false → exec (.streamEnable src st v ring) s = .next (s.setObj (kStream st 1) v))
    ∧ (streamCfgOk v = true → world → scEnable cfg = false → scEnable v = true → (∃ o < 32, s.sameSource st v o = true) → refused 0x0009)
    ∧ (streamCfgOk v = true → world → scEnable cfg = false → scEnable v = true → (∀ o < 32, s.sameSource st v o = false) →
      (s.carves (scOwner v) ring ((scDepthM1 v + 1) * s.bufferSize st) = false → refused 0x000A)
      ∧ (s.carves (scOwner v) ring ((scDepthM1 v + 1) * s.bufferSize st) = true → ∃ t, exec (.streamEnable src st v ring) s = .next t ∧ t.obj (kStream st 1) = v ∧ t.objN (kStream st 3) = ring % 2 ^ 64
        ∧ t.objN (kStream st 4) = s.bufferSize st % 2 ^ 64 ∧ t.streamFrame st = 0 ∧ t.objN (kStream st 0xb) = 0xff ∧ (t.stream st).ringDepth = scDepthM1 v + 1 ∧ (t.stream st).cur = none ∧ s.sameBytes t)) := by
  have heq := s.writeStreamConfig_eq st v ring
  dsimp only
  refine ⟨fun hok => ?_, fun hok hw => ?_, fun hok hw hon hne => ?_, fun hok hw hon hv => ?_, fun hok hw hon hoff hcfg => ?_,
    fun hok hw hidle hoff => ?_, fun hok hw hidle hon hsame => ?_,
    fun hok hw hidle hon hfree => ?_⟩
  · exact exec_streamEnable_error h (by rw [heq, if_pos hok])
  · exact exec_streamEnable_error h (by simp [heq, hok, hw])
  · exact exec_streamEnable_error h (by simp [heq, hok, hw, hon, hne])
  · have honv : scEnable v = true := by rw [hv]; exact hon
    have hcfg : setBit v 63 false = setBit (s.streamCfg st) 63 false := by rw [hv]
    exact exec_streamEnable_ok h (by simp [heq, hok, hw, hon, honv, hcfg])
  · exact ⟨_, exec_streamEnable_ok h (by simp [heq, hok, hw, hon, hoff, hcfg]), s.streamDisabled_shows st v⟩
  · exact exec_streamEnable_ok h (by simp [heq, hok, hw, hidle, hoff])
  · obtain ⟨o, ho, hsame⟩ := hsame
    have hany : (List.range 32).any (s.sameSource st v) = true := List.any_eq_true.2 ⟨o, List.mem_range.2 ho, hsame⟩
    exact exec_streamEnable_error h (by simp [heq, hok, hw, hidle, hon, hany])
  · have hany : (List.range 32).any (s.sameSource st v) = false := List.any_eq_false.2 fun o ho => Bool.eq_false_iff.1 (hfree o (List.mem_range.1 ho))
    refine ⟨fun hcarve => exec_streamEnable_error h (by simp [heq, hok, hw, hidle, hon, hany, hcarve]), fun hcarve => ?_⟩
    obtain ⟨h1, h3, h4, h7, hb, hdepth, hcur, hbytes⟩ := s.streamEnabled_shows st v ring
    have hexec := exec_streamEnable_ok h (ring := ring) (t := (s.streamEnabled st v ring).rearmStream st) (by simp [heq, hok, hw, hidle, hon, hany, hcarve])
    have hr := (s.streamEnabled st v ring).recadences_rearmStream st
    generalize s.streamEnabled st v ring = u at *
    have hobj : ∀ j < 256, (u.rearmStream st).objN (kStream st j) = u.objN (kStream st j) := fun j hj => congrArg BitVec.toNat (hr.streamObj st hj)
    refine ⟨_, hexec, (hr.streamObj st (by decide)).trans h1, (hobj 3 (by decide)).trans h3, (hobj 4 (by decide)).trans h4, ?_, (hobj 0xb (by decide)).trans hb, ?_, ?_,
      fun a => (hr.byte a).trans (hbytes a)⟩
    · rw [State.streamFrame, show kStreamPos st = kStream st 7 from rfl, hr.streamObj st (by decide), h7]
      rfl
    · rw [hr.stream, hdepth]
    · rw [hr.stream, hcur]

end Sys2Proof.Machine
end

section
/-! Ports take packets, and streams their lines (O49). -/

namespace Sys2Proof.Machine

/-! ### Lines into the buffer (R62, R290) -/

/-- The configuration, the geometry, the ring and the test CRC of a stream read as before. -/
abbrev State.sameSetup (s t : State) (st : Nat) : Prop := ∀ j ∈ [1, 2, 3, 4, 6], t.obj (kStream st j) = s.obj (kStream st j)

section
variable {s t : State} {st : Nat} (h : s.sameSetup t st)
include h

theorem State.sameSetup.cfg : t.streamCfg st = s.streamCfg st := h 1 (by simp)
theorem State.sameSetup.geo : t.streamGeo st = s.streamGeo st := h 2 (by simp)
theorem State.sameSetup.stride : t.streamStride st = s.streamStride st := by rw [State.streamStride, h.geo, State.streamStride]
theorem State.sameSetup.height : t.streamHeight st = s.streamHeight st := by rw [State.streamHeight, h.geo, State.streamHeight]
theorem State.sameSetup.emb : t.streamEmb st = s.streamEmb st := by rw [State.streamEmb, h.geo, State.streamEmb]
theorem State.sameSetup.buf (b : Nat) : t.bufAddr st b = s.bufAddr st b := by
  rw [State.bufAddr, State.objN, State.objN, h 3 (by simp), h 4 (by simp), State.bufAddr, State.objN, State.objN]
theorem State.sameSetup.crc : t.objN (kStream st 6) = s.objN (kStream st 6) := congrArg BitVec.toNat (h 6 (by simp))

end

/-- The frame in progress after a line's packet. -/
def FrameSt.withLine (f : FrameSt) (pk : CsiPacket) (stride limit : Nat) (embedded : Bool) : FrameSt :=
  let at_ := if embedded then f.embLines else f.pixelLines
  let fits := decide (at_ < limit)
  let g := { f with pktErr := f.pktErr || pk.hdrBad || pk.crcBad, crcErrs := f.crcErrs + (if pk.crcBad then 1 else 0) }
  let g := { g with long := g.long || decide (stride < pk.bytes.length) || (!embedded && !fits) }
  if fits then (if embedded then { g with embLines := at_ + 1 } else { g with pixelLines := at_ + 1 }) else g

/-- On a stream without line-start packets an image line's packet begins its line. -/
def State.lineReached (s : State) (st : Nat) (embedded : Bool) : State := if !embedded && !scLinePackets (s.streamCfg st) then s.lineBegins st else s

/-- A line that the frame has room for is stored. -/
def State.lineStored (s : State) (st : Nat) (pk : CsiPacket) (embedded : Bool) (cfg : Word64) (f : FrameSt) : State :=
  let at_ := if embedded then f.embLines else f.pixelLines
  match f.buf with
  | some b =>
    if decide (at_ < if embedded then s.streamEmb st else s.streamHeight st) then
      s.wrOwn (scOwner cfg) (s.bufAddr st b + 64 + ((if embedded then 0 else s.streamEmb st) + at_) * s.streamStride st) (pk.bytes.take (s.streamStride st)) else s
  | none => s

section
variable (s : State) (st : Fin 32) (pk : CsiPacket) (embedded : Bool)

theorem State.paces_lineReached : s.Paces (s.lineReached st embedded) ([7].map (kStream st)) := .ite (s.paces_lineBegins st) (.refl ..)

theorem State.cur_lineReached : ((s.lineReached st embedded).stream st).cur = (s.stream st).cur := by
  unfold State.lineReached
  split
  · rw [State.stream_lineBegins, StreamSt.lineStarted]
  · rfl

theorem State.sameSetup_lineReached : s.sameSetup (s.lineReached st embedded) st := by
  intro j hj
  simp only [List.mem_cons, List.not_mem_nil, or_false] at hj
  exact (s.paces_lineReached st embedded).kept (by omega) (by simp; omega)

theorem State.takeLine_eq {f : FrameSt} (hcur : (s.stream st).cur = some f) : s.takeLine st pk embedded =
    ((s.lineReached st embedded).lineStored st pk embedded (s.streamCfg st) f).upStream st fun x =>
      { x with cur := some (f.withLine pk (s.streamStride st) (if embedded then s.streamEmb st else s.streamHeight st) embedded) } := by
  have hreached := (s.cur_lineReached st embedded).trans hcur
  have hsetup := s.sameSetup_lineReached st embedded
  rw [← hsetup.stride, ← hsetup.emb, ← hsetup.height, State.takeLine, hcur]
  dsimp only
  rw [← State.lineReached, hreached]
  rfl

/-- An image line within the frame's height lands in its line of the buffer; what else is in stacked memory stays. -/
theorem State.takeLine_fits {f : FrameSt} {b : Nat} (hcur : (s.stream st).cur = some f) (hbuf : f.buf = some b) (hlt : f.pixelLines < s.streamHeight st) :
    let a := s.bufAddr st b + 64 + (s.streamEmb st + f.pixelLines) * s.streamStride st
    let bs := pk.bytes.take (s.streamStride st)
    let t := s.takeLine st pk false
    s.stackWithin a bs.length (s.inst (scOwner (s.streamCfg st))).stackBase (s.objN (kInst (scOwner (s.streamCfg st)) 1 4)) = true → a + bs.length ≤ stackedSize →
      t.rd a bs.length = bs ∧ (∀ y, (y < a ∨ a + bs.length ≤ y) → y < stackedSize → t.byte y = s.byte y)
        ∧ (t.stream st).cur = some (f.withLine pk (s.streamStride st) (s.streamHeight st) false) := by
  intro a bs t hown hfit
  have hp := s.paces_lineReached st false
  have hsetup := s.sameSetup_lineReached st false
  have hquota : (s.lineReached st false).objN (kInst (scOwner (s.streamCfg st)) 1 4) = s.objN (kInst (scOwner (s.streamCfg st)) 1 4) :=
    congrArg BitVec.toNat (hp.objs _ (not_cadKey_kInst (scOwner_lt _)) (kInst_not_mem_stream st (scOwner_lt _) _))
  have ht := s.takeLine_eq st pk false hcur
  have hstored : (s.lineReached st false).lineStored st pk false (s.streamCfg st) f = (s.lineReached st false).wr a bs := by
    simp only [State.lineStored, hbuf, hsetup.height, hsetup.emb, hsetup.stride, hsetup.buf, Bool.false_eq_true, if_false, decide_eq_true hlt, if_true]
    rw [State.wrOwn, hp.stackWithin, hp.inst, hquota, if_pos hown]
  rw [hstored] at ht
  have hbyte : t.sameBytes ((s.lineReached st false).wr a bs) := by
    intro y
    rw [show t = _ from ht]
    exact ((State.Paces.upStream (ks := []) _ ..).byte y).symm
  refine ⟨?_, fun y hy hlow => ?_, ?_⟩
  · rw [← State.rd_congr hbyte, State.rd_wr_stacked _ _ _ hfit]
  · rw [← hbyte y, State.byte_wr_stacked _ _ _ _ hfit hlow hy, hp.byte y]
  · rw [show t = _ from ht, State.stream_upStream_self]
    rfl

/-- An image line past the frame's height marks the frame and is not stored. -/
theorem State.takeLine_over {f : FrameSt} (hcur : (s.stream st).cur = some f) (hle : s.streamHeight st ≤ f.pixelLines) : let t := s.takeLine st pk false
    s.sameBytes t ∧ (t.stream st).cur = some (f.withLine pk (s.streamStride st) (s.streamHeight st) false) := by
  intro t
  have hp := s.paces_lineReached st false
  have ht := s.takeLine_eq st pk false hcur
  have hstored : (s.lineReached st false).lineStored st pk false (s.streamCfg st) f = s.lineReached st false := by
    have hno : decide (f.pixelLines < s.streamHeight st) = false := decide_eq_false (Nat.not_lt.2 hle)
    simp only [State.lineStored, (s.sameSetup_lineReached st false).height, Bool.false_eq_true, if_false, hno]
    split <;> rfl
  rw [hstored] at ht
  refine ⟨fun y => ?_, ?_⟩
  · rw [show t = _ from ht, (State.Paces.upStream (ks := []) _ ..).byte y, hp.byte y]
  · rw [show t = _ from ht, State.stream_upStream_self]
    rfl

end

section
variable (f : FrameSt) (pk : CsiPacket) (stride limit : Nat)

theorem FrameSt.withLine_fits (h : f.pixelLines < limit) : let g := f.withLine pk stride limit false
    g.pixelLines = f.pixelLines + 1 ∧ g.pktErr = (f.pktErr || pk.hdrBad || pk.crcBad) ∧ g.long = (f.long || decide (stride < pk.bytes.length)) ∧ g.buf = f.buf ∧ g.frame = f.frame := by
  simp [FrameSt.withLine, h]

theorem FrameSt.withLine_over (h : limit ≤ f.pixelLines) : (f.withLine pk stride limit false).pixelLines = f.pixelLines ∧ (f.withLine pk stride limit false).long = true := by
  simp [FrameSt.withLine, Nat.not_lt.2 h]

end

/-! ### Packets at a port (R287, R290, R296) -/

/-- Whether stream st takes the packet at the port (R287). -/
def State.takesPacket (s : State) (p : Nat) (pk : CsiPacket) (st : Nat) : Bool :=
  let c := s.streamCfg st
  scEnable c && decide (scPort c = p) && decide (scVc c = pk.vc)
    && (decide (scType c = pk.dt) || (decide (scEmbedded c ≠ 0) && decide (scEmbedded c = pk.dt)) || (scCameraTest c && decide (scTest c = pk.dt)))

/-- The streams that take the packet. -/
abbrev State.takers (s : State) (p : Nat) (pk : CsiPacket) : List Nat := (List.range 32).filter (s.takesPacket p pk)

/-- The port's counts of a packet's errors (R287). -/
def State.errorsCounted (s : State) (p : Nat) (pk : CsiPacket) : State :=
  let s := if pk.hdrCorrected then s.count (kPort5 p 4) 32 else s
  let s := if pk.hdrBad then s.count (kPort5 p 5) 32 else s
  if pk.crcBad then s.count (kPort5 p 6) 32 else s

/-- What a stream does with a packet that it takes. -/
def State.packetTaken (s : State) (pk : CsiPacket) (st : Nat) : State :=
  let c := s.streamCfg st
  if scType c = pk.dt then s.takeLine st pk false
  else if (s.stream st).cur.isSome then (if scEmbedded c = pk.dt then s.takeLine st pk true else s)
  else if scCameraTest c ∧ scTest c = pk.dt then s.takeTest st pk
  else s

theorem kPort5_inj (p : Nat) {i j : Nat} (hi : i < 256) (hj : j < 256) : kPort5 p i = kPort5 p j ↔ i = j := by
  simp [kPort5, okey_inj hi hj]

/-- A port's object is none of a stream's. -/
theorem kPort5_ne_kStream (p : Fin 16) (st : Nat) {i j : Nat} (hi : i < 256) : kPort5 p i ≠ kStream st j := by
  simp only [kPort5, kStream, okey]
  omega

theorem kPort5_ne_kInst (p : Fin 16) {m i : Nat} (hm : m < 16) : kPort5 p i ≠ kInst m 1 4 := by
  simp only [kPort5, kInst, okey]
  omega

section
variable (s : State) (p : Fin 16) (pk : CsiPacket)

theorem State.objsAlone_errorsCounted : s.objsAlone (s.errorsCounted p pk) := by
  have step : ∀ (u : State) (c : Bool) (j : Nat), s.objsAlone u → s.objsAlone (if c then u.count (kPort5 p j) 32 else u) := fun u c j hu =>
    .ite (hu.trans (u.objsAlone_count ..)) hu
  exact step _ _ _ (step _ _ _ (step _ _ _ rfl))

theorem State.objN_count_port (s : State) (p : Nat) (c : Bool) {i j : Nat} (hi : i < 256) (hj : j < 256) :
    (if c then s.count (kPort5 p i) 32 else s).objN (kPort5 p j) = if i = j ∧ c then (s.objN (kPort5 p j) + 1) % 2 ^ 32 else s.objN (kPort5 p j) := by
  cases c
  · simp
  · simp only [if_true, State.objN_count _ _ _ _ _ (by decide : 32 ≤ 64), kPort5_inj p hi hj, and_true]
    split
    · next h => rw [h]
    · rfl

/-- The count of a kind of error goes up with a packet that has it. -/
theorem State.objN_errorsCounted {j : Nat} (hj : j < 256) : (s.errorsCounted p pk).objN (kPort5 p j) =
    if j = 4 ∧ pk.hdrCorrected ∨ j = 5 ∧ pk.hdrBad ∨ j = 6 ∧ pk.crcBad then (s.objN (kPort5 p j) + 1) % 2 ^ 32 else s.objN (kPort5 p j) := by
  unfold State.errorsCounted
  dsimp only
  rw [State.objN_count_port _ _ _ (by decide) hj, State.objN_count_port _ _ _ (by decide) hj, State.objN_count_port _ _ _ (by decide) hj]
  by_cases h4 : j = 4
  · subst h4
    simp
  · by_cases h5 : j = 5
    · subst h5
      simp
    · simp [h4, Ne.symm h4, Ne.symm h5, h5, eq_comm (a := j)]

theorem State.obj_errorsCounted {k : Nat} (hk : k ∉ [4, 5, 6].map (kPort5 p)) : (s.errorsCounted p pk).obj k = s.obj k := by
  have step : ∀ (u : State) (c : Bool) (j : Nat), kPort5 p j ≠ k → (if c then u.count (kPort5 p j) 32 else u).obj k = u.obj k := by
    intro u c j hne
    cases c
    · rfl
    · rw [if_pos rfl, State.count_eq, State.obj_setObj, if_neg hne]
  simp only [List.map_cons, List.map_nil, List.mem_cons, List.not_mem_nil, or_false, not_or] at hk
  obtain ⟨h4, h5, h6⟩ := hk
  exact (step _ _ 6 (Ne.symm h6)).trans ((step _ _ 5 (Ne.symm h5)).trans (step _ _ 4 (Ne.symm h4)))

theorem State.stream_obj_errorsCounted (st j : Nat) : (s.errorsCounted p pk).obj (kStream st j) = s.obj (kStream st j) := by
  refine s.obj_errorsCounted p pk ?_
  simp only [List.map_cons, List.map_nil, List.mem_cons, List.not_mem_nil, or_false, not_or]
  exact ⟨(kPort5_ne_kStream p st (by decide)).symm, (kPort5_ne_kStream p st (by decide)).symm, (kPort5_ne_kStream p st (by decide)).symm⟩

theorem State.takers_errorsCounted : (s.errorsCounted p pk).takers p pk = s.takers p pk := by
  refine List.filter_congr fun st _ => ?_
  rw [State.takesPacket, State.streamCfg, State.stream_obj_errorsCounted, State.takesPacket, State.streamCfg]

/-- The state after a packet at a port that is on. -/
def State.packetSeen : State :=
  if s.takers p pk = [] then (s.errorsCounted p pk).count (kPort5 p 7) 32 else (s.errorsCounted p pk).forEach (s.takers p pk) fun u st => u.packetTaken pk st

theorem exec_longPacket (h : s.portOn p = true) : exec (.longPacket p pk) s = .next (s.packetSeen p pk) := by
  have hexec : exec (.longPacket p pk) s = execLongPacket p pk s := rfl
  have heq : execLongPacket p pk s = if ((s.errorsCounted p pk).takers p pk).isEmpty then .next ((s.errorsCounted p pk).count (kPort5 p 7) 32)
      else .next ((s.errorsCounted p pk).forEach ((s.errorsCounted p pk).takers p pk) fun u st => u.packetTaken pk st) := by
    rw [execLongPacket, h]
    rfl
  rw [hexec, heq, State.takers_errorsCounted, State.packetSeen]
  simp only [List.isEmpty_iff]
  split <;> rfl

end

/-- Outside the camera streams' objects and the cadence table nothing of the objects changes. -/
abbrev State.offCamera (s t : State) : Prop := ∀ k, ¬ cadKey k → ¬ streamKey k → t.obj k = s.obj k

section
variable (s : State) (pk : CsiPacket) (st : Fin 32)

theorem State.Paces.offCamera {s t : State} {st : Fin 32} {js : List Nat} (h : s.Paces t (js.map (kStream st))) (hjs : ∀ j ∈ js, j < 256) : s.offCamera t := by
  intro k hk hkey
  refine h.objs k hk fun hmem => ?_
  obtain ⟨j, hj, rfl⟩ := List.mem_map.1 hmem
  exact hkey (streamKey_kStream st (hjs j hj))

theorem State.obj_lineStored (embedded : Bool) (cfg : Word64) (f : FrameSt) (k : Nat) : (s.lineStored st pk embedded cfg f).obj k = s.obj k := by
  unfold State.lineStored
  dsimp only
  split
  · exact (apply_ite (fun u : State => u.obj k) ..).trans (by rw [State.obj_wrOwn, ite_self])
  · rfl

theorem State.offCamera_takeLine (embedded : Bool) : s.offCamera (s.takeLine st pk embedded) := by
  cases hcur : (s.stream st).cur with
  | none =>
    rw [State.takeLine, hcur]
    exact fun _ _ _ => rfl
  | some f =>
    rw [s.takeLine_eq st pk embedded hcur]
    intro k hk hkey
    rw [State.obj_upStream, State.obj_lineStored]
    exact (s.paces_lineReached st embedded).offCamera (by simp) k hk hkey

theorem State.offCamera_packetTaken : s.offCamera (s.packetTaken pk st) := by
  unfold State.packetTaken
  dsimp only
  split
  · exact s.offCamera_takeLine pk st false
  · split
    · split
      · exact s.offCamera_takeLine pk st true
      · exact fun _ _ _ => rfl
    · split
      · exact fun _ _ _ => State.obj_upStream ..
      · exact fun _ _ _ => rfl

theorem State.offCamera_forEach (l : List Nat) (hl : ∀ st ∈ l, st < 32) : s.offCamera (s.forEach l fun u st => u.packetTaken pk st) := by
  refine List.foldlRecOn l _ (motive := s.offCamera) (fun _ _ _ => rfl) fun u hu st hst k hk hkey => ?_
  exact (u.offCamera_packetTaken pk ⟨st, hl st hst⟩ k hk hkey).trans (hu k hk hkey)

end

theorem not_cadKey_kPort5 (p : Fin 16) {j : Nat} (hj : j < 256) : ¬ cadKey (kPort5 p j) := by
  simp only [cadKey, kPort5, okey]
  omega

theorem not_streamKey_kPort5 (p : Fin 16) {j : Nat} (hj : j < 256) : ¬ streamKey (kPort5 p j) := by
  simp only [streamKey, kPort5, okey]
  omega

section
variable (s : State) (p : Fin 16) (pk : CsiPacket)

theorem State.objN_packetSeen {j : Nat} (hj : j < 7) : (s.packetSeen p pk).objN (kPort5 p j) = (s.errorsCounted p pk).objN (kPort5 p j) := by
  unfold State.packetSeen
  split
  · rw [State.objN_count _ _ _ _ _ (by decide), if_neg]
    rw [kPort5_inj p (by decide) (by omega)]
    omega
  · exact congrArg BitVec.toNat (State.offCamera_forEach _ pk _ (fun _ => lt_of_mem_filter_range) _ (not_cadKey_kPort5 p (by omega)) (not_streamKey_kPort5 p (by omega)))

/-- A packet that no stream takes changes the port's counts alone. -/
theorem State.packetSeen_untaken (h : s.takers p pk = []) : (s.packetSeen p pk).objN (kPort5 p 7) = (s.objN (kPort5 p 7) + 1) % 2 ^ 32
    ∧ s.onlyObjs (s.packetSeen p pk) [kPort5 p 4, kPort5 p 5, kPort5 p 6, kPort5 p 7] := by
  have h7 := s.objN_errorsCounted p pk (j := 7) (by decide)
  have halone := s.objsAlone_errorsCounted p pk
  have hobj := fun k hk => s.obj_errorsCounted p pk (k := k) hk
  unfold State.packetSeen
  rw [if_pos h]
  generalize s.errorsCounted p pk = u at *
  have hall := halone.trans (u.objsAlone_count (kPort5 p 7) 32 1)
  refine ⟨?_, hall, fun k hk => ?_, fun a => ?_⟩
  · rw [State.objN_count _ _ _ _ _ (by decide), if_pos rfl, h7]
    rfl
  · simp only [List.mem_cons, List.not_mem_nil, or_false, not_or] at hk
    obtain ⟨h4, h5, h6, hk7⟩ := hk
    rw [State.count_eq, State.obj_setObj, if_neg (Ne.symm hk7), hobj k (by simp [h4, h5, h6])]
  · rw [hall]
    rfl

theorem longPacket_counts (h : s.portOn p = true) : ∃ t, exec (.longPacket p pk) s = .next t
    ∧ t.objN (kPort5 p 4) = (if pk.hdrCorrected then (s.objN (kPort5 p 4) + 1) % 2 ^ 32 else s.objN (kPort5 p 4))
    ∧ t.objN (kPort5 p 5) = (if pk.hdrBad then (s.objN (kPort5 p 5) + 1) % 2 ^ 32 else s.objN (kPort5 p 5))
    ∧ t.objN (kPort5 p 6) = (if pk.crcBad then (s.objN (kPort5 p 6) + 1) % 2 ^ 32 else s.objN (kPort5 p 6))
    ∧ (s.takers p pk = [] → t.objN (kPort5 p 7) = (s.objN (kPort5 p 7) + 1) % 2 ^ 32 ∧ s.onlyObjs t [kPort5 p 4, kPort5 p 5, kPort5 p 6, kPort5 p 7]) := by
  have hcount : ∀ j < 7, (s.packetSeen p pk).objN (kPort5 p j) = _ := fun j hj => (s.objN_packetSeen p pk hj).trans (s.objN_errorsCounted p pk (by omega))
  exact ⟨_, exec_longPacket s p pk h, by simpa using hcount 4 (by decide), by simpa using hcount 5 (by decide), by simpa using hcount 6 (by decide), s.packetSeen_untaken p pk⟩

end

/-! ### A packet that one stream takes -/

section
variable {s : State} {p : Fin 16} {pk : CsiPacket} {st : Fin 32} (hon : s.portOn p = true) (hone : s.takers p pk = [st.val])
include hon hone

theorem exec_longPacket_one : exec (.longPacket p pk) s = .next ((s.errorsCounted p pk).packetTaken pk st) := by
  rw [exec_longPacket s p pk hon, State.packetSeen, hone, if_neg (by simp)]
  rfl

theorem longPacket_stores {f : FrameSt} {b : Nat} (hdt : scType (s.streamCfg st) = pk.dt) (hcur : (s.stream st).cur = some f) (hbuf : f.buf = some b) :
    let a := s.bufAddr st b + 64 + (s.streamEmb st + f.pixelLines) * s.streamStride st
    let bs := pk.bytes.take (s.streamStride st)
    (f.pixelLines < s.streamHeight st →
      s.stackWithin a bs.length (s.inst (scOwner (s.streamCfg st))).stackBase (s.objN (kInst (scOwner (s.streamCfg st)) 1 4)) = true → a + bs.length ≤ stackedSize →
      ∃ t g, exec (.longPacket p pk) s = .next t ∧ t.rd a bs.length = bs ∧ (∀ y, (y < a ∨ a + bs.length ≤ y) → y < stackedSize → t.byte y = s.byte y) ∧ (t.stream st).cur = some g
        ∧ g.pixelLines = f.pixelLines + 1 ∧ g.pktErr = (f.pktErr || pk.hdrBad || pk.crcBad) ∧ g.long = (f.long || decide (s.streamStride st < pk.bytes.length)) ∧ g.buf = f.buf ∧ g.frame = f.frame)
    ∧ (s.streamHeight st ≤ f.pixelLines → ∃ t g, exec (.longPacket p pk) s = .next t ∧ s.sameBytes t ∧ (t.stream st).cur = some g ∧ g.pixelLines = f.pixelLines ∧ g.long = true) := by
  have hexec := exec_longPacket_one hon hone
  have hsetup : s.sameSetup (s.errorsCounted p pk) st := fun j _ => s.stream_obj_errorsCounted p pk st j
  have hquota : (s.errorsCounted p pk).objN (kInst (scOwner (s.streamCfg st)) 1 4) = s.objN (kInst (scOwner (s.streamCfg st)) 1 4) := by
    refine congrArg BitVec.toNat (s.obj_errorsCounted p pk ?_)
    simp [(kPort5_ne_kInst p (scOwner_lt _)).symm]
  have halone := s.objsAlone_errorsCounted p pk
  generalize s.errorsCounted p pk = u at *
  have hbytes : s.sameBytes u := fun a => by rw [halone]; rfl
  have hinst : ∀ m, u.inst m = s.inst m := fun m => by rw [halone]; rfl
  have hwithin : ∀ a len lo size, u.stackWithin a len lo size = s.stackWithin a len lo size := fun _ _ _ _ => by rw [halone]; rfl
  have hcur' : (u.stream st).cur = some f := (congrArg _ (State.stream_of_objsAlone halone st)).trans hcur
  rw [State.packetTaken, hsetup.cfg, if_pos hdt] at hexec
  intro a bs
  refine ⟨fun hlt hown hfit => ?_, fun hle => ?_⟩
  · have hfits := u.takeLine_fits st pk hcur' hbuf (by rw [hsetup.height]; exact hlt)
    rw [hsetup.buf, hsetup.emb, hsetup.stride, hsetup.cfg, hsetup.height, hinst, hquota] at hfits
    obtain ⟨hrd, hkept, hg⟩ := hfits ((hwithin ..).trans hown) hfit
    exact ⟨_, _, hexec, hrd, fun y hy hlow => (hkept y hy hlow).trans (hbytes y), hg, FrameSt.withLine_fits f pk _ _ hlt⟩
  · have hover := u.takeLine_over st pk hcur' (by rw [hsetup.height]; exact hle)
    rw [hsetup.stride, hsetup.height] at hover
    obtain ⟨hkept, hg⟩ := hover
    exact ⟨_, _, hexec, fun y => (hkept y).trans (hbytes y), hg, FrameSt.withLine_over f pk _ _ hle⟩

theorem longPacket_tests (hdt : scType (s.streamCfg st) ≠ pk.dt) (hcur : (s.stream st).cur = none) (htest : scCameraTest (s.streamCfg st) = true)
    (hcode : scTest (s.streamCfg st) = pk.dt) : ∃ t, exec (.longPacket p pk) s = .next t
      ∧ (t.stream st).testSeen = some (decide ((crc32c pk.bytes).toNat = s.objN (kStream st 6)) && (s.stream st).testSeen.getD true) ∧ s.sameBytes t := by
  have hexec := exec_longPacket_one hon hone
  have hsetup : s.sameSetup (s.errorsCounted p pk) st := fun j _ => s.stream_obj_errorsCounted p pk st j
  have halone := s.objsAlone_errorsCounted p pk
  generalize s.errorsCounted p pk = u at *
  have hstream := State.stream_of_objsAlone halone st
  rw [State.packetTaken, hsetup.cfg, if_neg hdt, hstream, hcur, if_neg (by decide), if_pos ⟨htest, hcode⟩] at hexec
  refine ⟨_, hexec, ?_, fun y => ?_⟩
  · rw [State.takeTest, State.stream_upStream_self, hstream, hsetup.crc]
  · rw [State.takeTest, (State.Paces.upStream (ks := []) _ ..).byte y, halone]
    rfl

end

/-! ### The obligation -/

theorem csi2PortStateChange_shows (s : State) (p : Fin 16) (signal : Bool) : (s.portOn p = false → exec (.csi2PortStateChange p signal) s = .next s)
    ∧ (s.portOn p = true → ∃ t, exec (.csi2PortStateChange p signal) s = .next t ∧ s.onlyObjs t [kPort5 p 3] ∧ t.objN (kPort5 p 3) = if signal then 2 else 1) := by
  have hexec : exec (.csi2PortStateChange p signal) s = execCsi2PortStateChange p signal s := rfl
  rw [hexec, execCsi2PortStateChange]
  refine ⟨fun h => by rw [h]; rfl, fun h => ⟨_, if_pos h, s.onlyObjs_setObj _ _, ?_⟩⟩
  rw [State.objN_setN_self]
  cases signal <;> rfl

theorem exec_frameStart_off {s : State} {st : Fin 32} (h : s.streamOn st = false) (c : Word16) : exec (.frameStart st c) s = .next s := by
  have hexec : exec (.frameStart st c) s = execFrameStart st c s := rfl
  rw [hexec, execFrameStart, h]
  rfl

theorem exec_longPacket_off {s : State} {p : Fin 16} (h : s.portOn p = false) (pk : CsiPacket) : exec (.longPacket p pk) s = .next s := by
  have hexec : exec (.longPacket p pk) s = execLongPacket p pk s := rfl
  rw [hexec, execLongPacket, h]
  rfl

theorem lineStart_counts {s : State} {st : Fin 32} (hon : s.streamOn st = true) (hcur : (s.stream st).cur.isSome = true) (hline : scLinePackets (s.streamCfg st) = true) :
    ∃ t, exec (.lineStart st) s = .next t ∧ (t.stream st).lineStarts = (s.stream st).lineStarts + 1 ∧ (t.stream st).lastLine = s.now ∧ (t.stream st).cur = (s.stream st).cur
      ∧ t.obj (kStreamPos st) = setFld (s.obj (kStreamPos st)) 31 16 (s.stream st).lineStarts ∧ s.sameBytes t := by
  have hnone : (s.stream st).cur ≠ none := fun h => by simp [h] at hcur
  refine ⟨_, exec_lineStart s st (by simp [hon, hnone, hline]), ?_, ?_, ?_, s.pos_lineBegins st, (s.paces_lineBegins st).byte⟩
  · rw [State.stream_lineBegins, StreamSt.lineStarted]
  · rw [State.stream_lineBegins, StreamSt.lineStarted]
  · rw [State.stream_lineBegins, StreamSt.lineStarted]

/-- Settles O49: each of the camera's rows is its own small machine on one stream; the line events and the end of a frame reach nothing else of it. -/
theorem cameraFrames : Obligations.CameraFrames := by
  unfold Obligations.CameraFrames
  intro s st p
  exact ⟨streamEnable_decides s st, csi2PortStateChange_shows s p, fun c => ⟨fun h => exec_frameStart_off h c, frameStart_opens s st c, frameStart_fresh s st c⟩,
    exec_lineStart_none s st, lineStart_counts, fun pk => ⟨fun h => exec_longPacket_off h pk, fun h => longPacket_counts s p pk h,
      fun f b hon hone hdt hcur hbuf => longPacket_stores hon hone hdt hcur hbuf, fun hon hone hdt hcur htest hcode => longPacket_tests hon hone hdt hcur htest hcode⟩,
    exec_frameEnd_none, fun f hon hcur => ⟨frameEnd_ends hon hcur, fun hv hb => frameEnd_blanks hv hon hcur hb, fun hv hb => frameEnd_completes hv hon hcur hb⟩, blankVerdict_decides⟩

end Sys2Proof.Machine
end

section
/-! How an engine op that can start enters its queue, starts and has its effect (R111-R116, R131). -/

namespace Sys2Proof.Machine

/-! ### Op words -/

theorem opOf_mkOp (c : Nat) (w : BitVec 120) : opOf (mkOp c w) = c % 256 := by
  have happ : (mkOp c w).toNat = (BitVec.ofNat 8 c).toNat <<< 120 ||| w.toNat := BitVec.toNat_append ..
  have hw := w.isLt
  rw [← Nat.shiftLeft_add_eq_or_of_lt hw, BitVec.toNat_ofNat, Nat.shiftLeft_eq] at happ
  simp only [opOf, fld, happ]
  omega

/-! ### Keys of a core's objects -/

theorem kCore_inj {n m j i a b : Nat} (hj : j < 256) (hi : i < 256) (ha : a < 256) (hb : b < 256) :
    kCore n j a = kCore m i b ↔ n = m ∧ j = i ∧ a = b := by
  simp only [kCore, okey]; omega

theorem kCore_ne_kInst {n j a m i b : Nat} (hn : n < 16) (hj : j < 256) (ha : a < 256) (hb : b < 256) : kCore n j a ≠ kInst m i b := by
  simp only [kCore, kInst, okey]; omega

/-- Beside its arithmetic and activity objects no object of a core counts work. -/
theorem State.kCore_not_mem_workKeys (s : State) {n j a : Nat} (hn : n < 16) (hj : j < 256) (ha : a < 256) (h1 : j ≠ 1) (h2 : j ≠ 2) :
    kCore n j a ∉ s.workKeys n := by
  simp only [State.workKeys, List.mem_append, List.mem_cons, List.mem_map, List.mem_range, kArith, kSr, kAssay, kInst, kCore, okey, List.not_mem_nil, or_false]
  rintro ((h | ⟨x, hx, h⟩) | h) <;> omega

/-! ### The queue that an op enters -/

/-- A record with its wait granted or not, and a record that has started. -/
def QOp.granting (x : QOp) (b : Bool) : QOp := { x with granted := b }
def QOp.begun (x : QOp) (now : Nat) : QOp := { x with started := true, cycles := now }

/-- A core with one op in a queue, as an op's dispatch leaves it. -/
def CoreSt.holding (c : CoreSt) (q : Queue) (x : QOp) : CoreSt := { c.setQ q [x] with nextSeq := c.nextSeq + 1, stepping := false }

theorem CoreSt.q_holding (c : CoreSt) {q : Queue} (hq : q ≠ .ctl) (x : QOp) : (c.holding q x).q q = [x] := by
  cases q <;> first | contradiction | rfl

theorem CoreSt.setQ_holding (c : CoreSt) (q : Queue) (x y : QOp) : (c.holding q x).setQ q [y] = c.holding q y := by
  cases q <;> rfl

/-- What the op's own place in its queue has no part in: whether it may start (R104, R114-R116). -/
theorem CoreSt.clear_holding {c : CoreSt} {q : Queue} {x : QOp} (hempty : c.q q = []) (hs : x.started = false) : (c.holding q x).clear q x = c.clear q x := by
  cases q <;> simp only [CoreSt.q] at hempty <;> simp [CoreSt.clear, CoreSt.holding, CoreSt.setQ, hempty, hs]

/-- An op word of core n has been dispatched and stands alone in its queue as `x`; its wait is taken, and nothing else has changed. -/
structure State.Dispatched (s t : State) (n : Nat) (op : OpWord) (q : Queue) (x : QOp) : Prop where
  pc : t.objN (kPc n) = (s.pc n + 16) % 2 ^ 64
  counters : ∀ j < 32, t.ctr n j = s.ctr n j - headerTakes op j
  core : t.core n = (s.core n).holding q x
  others : ∀ j, j ≠ n → t.core j = s.core j
  objs : s.objsBut t [kPc n, kCore n 4 8, kCtr n (opWait op)]
  rest : t = { s with objs := t.objs, cores := t.cores }

theorem State.syncLevels_eq (s : State) (n : Nat) : ∃ v, s.syncLevels n = s.setObj (kCore n 4 8) v := ⟨_, rfl⟩

theorem State.core_upOp (s : State) (n : Nat) (q : Queue) (seq : Nat) (f : QOp → QOp) (j : Nat) :
    (s.upOp n q seq f).core j = if n = j then (s.core n).setQ q (((s.core n).q q).map fun o => if o.seq = seq then f o else o) else s.core j := by
  rw [State.upOp, State.upCore_eq, State.core_setCore]

section
variable {s t : State} {n : Nat} {op : OpWord} {fields : List (Nat × Nat)} {q : Queue} {x : QOp}

/-- The levels shown anew. -/
theorem State.Dispatched.syncLevels (h : s.Dispatched t n op q x) : s.Dispatched (t.syncLevels n) n op q x := by
  have hpc : kCore n 4 8 ≠ kPc n := by simp only [kPc, kCore, okey]; omega
  have hctr : ∀ j, j < 32 → kCore n 4 8 ≠ kCtr n j := fun j hj => by simp only [kCtr, kCore, okey]; omega
  obtain ⟨v, hv⟩ := t.syncLevels_eq n
  rw [hv]
  refine ⟨?_, fun j hj => ?_, h.core, h.others, fun k hk => ?_, ?_⟩
  · rw [← h.pc, State.objN, State.obj_setObj, if_neg hpc]; rfl
  · rw [← h.counters j hj, State.ctr, State.objN, State.obj_setObj, if_neg (hctr j hj)]; rfl
  · rw [State.obj_setObj, if_neg (fun e => hk (by simp [e])), h.objs k hk]
  · rw [h.rest]; rfl

/-- The op's record updated. -/
theorem State.Dispatched.upOp (h : s.Dispatched t n op q x) (hq : q ≠ .ctl) (f : QOp → QOp) : s.Dispatched (t.upOp n q x.seq f) n op q (f x) := by
  refine ⟨h.pc, h.counters, ?_, fun j hj => ?_, h.objs, ?_⟩
  · rw [State.core_upOp, if_pos rfl, h.core, CoreSt.q_holding _ hq, List.map_singleton, if_pos rfl, CoreSt.setQ_holding]
  · rw [State.core_upOp, if_neg (Ne.symm hj), h.others j hj]
  · rw [h.rest]; rfl

theorem State.OpGoes.queue_ne_ctl (h : s.OpGoes n op fields q) : q ≠ .ctl := by
  rintro rfl
  simpa [CoreSt.clear] using h.clear

theorem State.OpGoes.room (h : s.OpGoes n op fields q) : decide ((s.core n).level q < Queue.depth q) = true := by
  rw [CoreSt.level, h.empty]
  cases q <;> decide

@[simp] theorem State.core_passed (s : State) (n j : Nat) : (s.passed n).core j = if n = j then { s.core n with stepping := false } else s.core j := by
  rw [State.passed, State.upCore_eq, State.core_setCore]
  rfl

theorem State.obj_passed (s : State) (n k : Nat) : (s.passed n).obj k = if kPc n = k then BitVec.ofNat 64 (s.pc n + 16) else s.obj k := by
  rw [State.passed, State.upCore_eq, State.obj_setCore, State.setN_eq, State.obj_setObj]

/-- The record with which an op enters, its wait not yet looked at. -/
abbrev State.opEntry (s : State) (n : Nat) (op : OpWord) : QOp := (s.opRecord n op).granting (!opWe op)

/-- The passed state with the op's record in its queue. -/
def State.enqueued (s : State) (n : Nat) (op : OpWord) (q : Queue) : State :=
  (s.passed n).upCore n fun c => { (c.setQ q (c.q q ++ [s.opEntry n op])) with nextSeq := c.nextSeq + 1 }

theorem State.core_enqueued (hempty : (s.core n).q q = []) : (s.enqueued n op q).core n = (s.core n).holding q (s.opEntry n op) := by
  rw [State.enqueued, State.upCore_eq, State.core_setCore, if_pos rfl, State.core_passed, if_pos rfl]
  generalize s.opEntry n op = y
  generalize s.core n = c at hempty
  cases q <;> simp only [CoreSt.q] at hempty <;> simp [CoreSt.holding, CoreSt.setQ, CoreSt.q, hempty]

theorem State.core_enqueued_of_ne (s : State) {j : Nat} (hj : j ≠ n) : (s.enqueued n op q).core j = s.core j := by
  rw [State.enqueued, State.upCore_eq, State.core_setCore, if_neg (Ne.symm hj), State.core_passed, if_neg (Ne.symm hj)]

theorem State.obj_enqueued (s : State) (n : Nat) (op : OpWord) (q : Queue) (k : Nat) :
    (s.enqueued n op q).obj k = if kPc n = k then BitVec.ofNat 64 (s.pc n + 16) else s.obj k := by
  rw [← State.obj_passed]; rfl

theorem State.ctr_enqueued (s : State) (n : Nat) (op : OpWord) (q : Queue) {i : Nat} (hi : i < 32) : (s.enqueued n op q).ctr n i = s.ctr n i := by
  rw [State.ctr, State.objN, State.obj_enqueued, if_neg (kPc_ne_kCtr n n i hi)]; rfl

theorem State.pc_enqueued (s : State) (n : Nat) (op : OpWord) (q : Queue) : (s.enqueued n op q).objN (kPc n) = (s.pc n + 16) % 2 ^ 64 := by
  rw [State.objN, State.obj_enqueued, if_pos rfl, BitVec.toNat_ofNat]

/-- The record that the controller makes of an op that it has passed. -/
theorem State.opEntry_eq {u : OpUse} (hu : useOf op = some u) : (⟨op, BitVec.ofNat 64 (s.pc n), ((s.passed n).core n).nextSeq, ((s.passed n).core n).sregs,
    ((s.passed n).core n).tregs, ((s.passed n).core n).trf, (s.passed n).effTag n u.reads, !((s.passed n).core n).openSlots.isEmpty, !opWe op, false, false, 0⟩ : QOp)
      = s.opEntry n op := by
  simp only [State.opEntry, State.opRecord, QOp.granting, hu, Option.map_some, Option.getD_some, State.core_passed, if_true]
  rfl

/-- An op that finds no fault enters its queue, takes its wait as its head, and may then start. -/
theorem State.engineOp_enqueued (h : s.OpGoes n op fields q) : s.engineOp n op fields
    = .next (State.kickQ n q 1 (((s.enqueued n op q).grantHead n q (s.opEntry n op)).syncLevels n)) := by
  obtain ⟨u, hu, rfl, hfault⟩ := h.fits
  have htag : (s.opRecord n op).tag = (s.passed n).effTag n u.reads := by simp [State.opRecord, hu]
  rw [htag] at hfault
  have hhead : ((s.enqueued n op u.queue).core n).headOf u.queue = some (s.opEntry n op) := by
    rw [State.core_enqueued h.empty, CoreSt.headOf, CoreSt.q_holding _ h.queue_ne_ctl]; rfl
  unfold State.engineOp
  rw [hu]
  refine (State.dispatch_ready h.ready h.room).trans (congrArg _ ?_)
  change (match (s.passed n).dispatchFault n op u ((s.passed n).effTag n u.reads) with | some e => _ | none => _) = _
  rw [hfault]
  dsimp only
  rw [show (s.setN (kPc n) (s.pc n + 16)).upCore n (fun c => { c with stepping := false }) = s.passed n from rfl, State.opEntry_eq hu]
  exact congrArg (fun v : State => State.kickQ n u.queue 1 (v.syncLevels n)) (if_pos hhead)

/-- The wait of the op's header is taken (R131). -/
theorem State.dispatched_grantHead (h : s.OpGoes n op fields q) :
    s.Dispatched ((s.enqueued n op q).grantHead n q (s.opEntry n op)) n op q (s.opRecord n op) := by
  have hcore : (s.enqueued n op q).core n = (s.core n).holding q (s.opEntry n op) := State.core_enqueued h.empty
  have hothers : ∀ j, j ≠ n → (s.enqueued n op q).core j = s.core j := fun j => s.core_enqueued_of_ne
  have hwt := opWait_lt op
  cases hwe : opWe op with
  | false =>
    have hentry : s.opEntry n op = s.opRecord n op := by rw [State.opEntry, hwe]; rfl
    have hg : (s.enqueued n op q).grantHead n q (s.opEntry n op) = s.enqueued n op q := by
      rw [hentry, State.grantHead, if_pos (Or.inl (show (s.opRecord n op).granted = true from rfl))]
    rw [hg]
    refine ⟨s.pc_enqueued n op q, fun j hj => ?_, hentry ▸ hcore, hothers, fun k hk => ?_, rfl⟩
    · rw [s.ctr_enqueued n op q hj, headerTakes, if_neg (by simp [hwe])]; rfl
    · rw [State.obj_enqueued, if_neg (fun e => hk (by simp [e]))]
  | true =>
    have hpos : s.ctr n (opWait op) ≠ 0 := by
      have := h.wait.resolve_left (by rw [hwe]; decide)
      omega
    have hg : (s.enqueued n op q).grantHead n q (s.opEntry n op)
        = ((s.enqueued n op q).setN (kCtr n (opWait op)) (s.ctr n (opWait op) - 1)).upOp n q (s.opEntry n op).seq fun o => o.granting true := by
      have hne : (s.opEntry n op).granted ≠ true := by simp [QOp.granting, hwe]
      rw [State.grantHead, show opWait (s.opEntry n op).op = opWait op from rfl, s.ctr_enqueued n op q hwt, if_neg (by tauto)]
      rfl
    have hobj : ∀ k, ((s.enqueued n op q).setN (kCtr n (opWait op)) (s.ctr n (opWait op) - 1)).obj k
        = if kCtr n (opWait op) = k then BitVec.ofNat 64 (s.ctr n (opWait op) - 1) else (s.enqueued n op q).obj k := fun k => by
      rw [State.setN_eq, State.obj_setObj]
    have hd : s.Dispatched ((s.enqueued n op q).setN (kCtr n (opWait op)) (s.ctr n (opWait op) - 1)) n op q (s.opEntry n op) := by
      refine ⟨?_, fun j hj => ?_, hcore, hothers, fun k hk => ?_, rfl⟩
      · rw [← s.pc_enqueued n op q, State.objN, hobj, if_neg (Ne.symm (kPc_ne_kCtr n n _ hwt))]; rfl
      · rw [State.ctr, State.objN, hobj, headerTakes]
        by_cases hj' : opWait op = j
        · have := (s.obj (kCtr n j)).isLt
          rw [if_pos (by rw [hj']), if_pos ⟨hwe, hj'.symm⟩, BitVec.toNat_ofNat, hj']
          simp only [State.ctr, State.objN]
          omega
        · rw [if_neg (fun e => hj' ((kCtr_inj hwt hj).1 e).2), if_neg (fun e => hj' e.2.symm)]
          exact s.ctr_enqueued n op q hj
      · simp only [List.mem_cons, List.not_mem_nil, or_false, not_or] at hk
        obtain ⟨h1, -, h3⟩ := hk
        rw [hobj, if_neg (Ne.symm h3), State.obj_enqueued, if_neg (Ne.symm h1)]
    rw [hg]
    exact hd.upOp h.queue_ne_ctl fun o => o.granting true

/-- An op that goes starts as it is dispatched (R111, R114). -/
theorem State.engineOp_starts (h : s.OpGoes n op fields q) :
    ∃ t, s.Dispatched t n op q (s.opRecord n op) ∧ s.engineOp n op fields = .next (t.startOp n q (s.opRecord n op)) := by
  have hd := (State.dispatched_grantHead h).syncLevels
  rw [State.engineOp_enqueued h]
  generalize ((s.enqueued n op q).grantHead n q (s.opEntry n op)).syncLevels n = t at hd
  have hhead : (t.core n).headOf q = some (s.opRecord n op) := by
    rw [hd.core, CoreSt.headOf, CoreSt.q_holding _ h.queue_ne_ctl]; rfl
  have hclear : (t.core n).clear q (s.opRecord n op) = true := by
    rw [hd.core, CoreSt.clear_holding h.empty rfl, h.clear]
  refine ⟨t, hd, congrArg _ ?_⟩
  simp only [State.kickQ, hhead]
  exact if_pos ⟨rfl, hclear⟩

/-- The state in which a started op has its effect. -/
abbrev State.Enters (s e : State) (n : Nat) (op : OpWord) (q : Queue) : Prop := s.Dispatched e n op q ((s.opRecord n op).begun s.nowN)

/-- An op of a queue marked as started (R114). -/
def State.beginOp (s : State) (n : Nat) (q : Queue) (o : QOp) : State := (s.upOp n q o.seq fun x => x.begun s.nowN).syncLevels n

theorem State.startOp_pebble (s : State) (n : Nat) (o : QOp) : s.startOp n .pebble o
    = (s.beginOp n .pebble o).setPebble (n / 4) { (s.beginOp n .pebble o).pebble (n / 4) with queue := ((s.beginOp n .pebble o).pebble (n / 4)).queue ++ [⟨n, o.seq⟩] } := rfl

theorem State.startOp_performs (s : State) (n : Nat) {q : Queue} {o : QOp} (hq : q ≠ .pebble) (hc : opOf o.op ≠ 0x64) {u : State}
    (hu : performOp (s.beginOp n q o) n o = (u, none)) : s.startOp n q o = u.markRan n q o.seq := by
  unfold State.startOp
  refine (if_neg hq).trans ((if_neg hc).trans ?_)
  change (match performOp (s.beginOp n q o) n o with | (u, none) => _ | (u, some e) => _) = _
  rw [hu]

theorem State.Dispatched.enters (ht : s.Dispatched t n op q (s.opRecord n op)) (hq : q ≠ .ctl) : s.Enters (t.beginOp n q (s.opRecord n op)) n op q := by
  have hnow : t.nowN = s.nowN := by rw [ht.rest]; rfl
  rw [State.beginOp, hnow]
  exact (ht.upOp hq fun o => o.begun s.nowN).syncLevels

/-- An op of an engine beside Pebble, no COLL, has its effect as it is dispatched and is then marked. -/
theorem State.engineOp_performs (h : s.OpGoes n op fields q) (hq : q ≠ .pebble) (hc : opOf op ≠ 0x64) :
    ∃ e, s.Enters e n op q ∧ ∀ u, performOp e n (s.opRecord n op) = (u, none) → s.engineOp n op fields = .next (u.markRan n q (s.core n).nextSeq) := by
  obtain ⟨t, ht, heq⟩ := State.engineOp_starts h
  exact ⟨_, ht.enters h.queue_ne_ctl, fun u hu => heq.trans (congrArg _ (State.startOp_performs t n hq hc hu))⟩

theorem State.Dispatched.pebble (h : s.Dispatched t n op q x) (c : Nat) : t.pebble c = s.pebble c := by rw [h.rest]; rfl

/-- An op of Pebble joins the queue of its cluster's Pebble as it is dispatched (R104). -/
theorem State.engineOp_forwards (h : s.OpGoes n op fields .pebble) :
    ∃ e, s.Enters e n op .pebble ∧ s.engineOp n op fields
      = .next (e.setPebble (n / 4) { s.pebble (n / 4) with queue := (s.pebble (n / 4)).queue ++ [⟨n, (s.core n).nextSeq⟩] }) := by
  obtain ⟨t, ht, heq⟩ := State.engineOp_starts h
  have he := ht.enters h.queue_ne_ctl
  rw [State.startOp_pebble, he.pebble] at heq
  exact ⟨_, he, heq⟩

end
end Sys2Proof.Machine
end

section
/-! What the effect of an engine op leaves alone: other cores, and every object but those that count its work. -/

namespace Sys2Proof.Machine

/-- An instance's record with other accounts (R255). -/
def InstSt.withNs (x : InstSt) (m : TMap Nat) : InstSt := { x with ns := m }

/-- An engine has worked for core n: no other core, and beside the counters of work and the accounts of its instance nothing but memory, the core's own data, free values and what has left the device, has changed. -/
structure State.Works (s t : State) (n : Nat) : Prop where
  others : ∀ j, j ≠ n → t.core j = s.core j
  objs : s.objsBut t (s.workKeys n)
  insts : ∀ j, ∃ m, t.inst j = (s.inst j).withNs m
  rest : t = { s with objs := t.objs, cores := t.cores, insts := t.insts, mem := t.mem, poison := t.poison, free := t.free, out := t.out }

section
variable {s t u : State} {n : Nat}

theorem State.Works.refl (s : State) (n : Nat) : s.Works s n := ⟨fun _ _ => rfl, fun _ _ => rfl, fun _ => ⟨_, rfl⟩, rfl⟩

theorem State.Works.obj_kCore (h : s.Works t n) (hn : n < 16) {j a : Nat} (hj : j < 256) (ha : a < 256) (h1 : j ≠ 1) (h2 : j ≠ 2) :
    t.obj (kCore n j a) = s.obj (kCore n j a) := h.objs _ (s.kCore_not_mem_workKeys hn hj ha h1 h2)

theorem State.Works.holder (h : s.Works t n) (hn : n < 16) : t.holder n = s.holder n :=
  congrArg BitVec.toNat (h.obj_kCore hn (by decide) (by decide) (by decide) (by decide))

theorem State.workKeys_congr (h : t.holder n = s.holder n) : t.workKeys n = s.workKeys n := by
  simp only [State.workKeys, h]

theorem State.Works.trans (h : s.Works t n) (hn : n < 16) (h' : t.Works u n) : s.Works u n := by
  have hk := State.workKeys_congr (h.holder hn)
  refine ⟨fun j hj => (h'.others j hj).trans (h.others j hj), fun k hk' => (h'.objs k (by rwa [hk])).trans (h.objs k hk'), fun j => ?_, ?_⟩
  · obtain ⟨m, hm⟩ := h.insts j
    obtain ⟨m', hm'⟩ := h'.insts j
    exact ⟨m', by rw [hm', hm]; rfl⟩
  · rw [h'.rest, h.rest]

theorem State.Works.forEach {α : Type} (hn : n < 16) (l : List α) {f : State → α → State} (hf : ∀ v x, State.Works v (f v x) n) : s.Works (s.forEach l f) n := by
  unfold State.forEach
  induction l generalizing s with
  | nil => exact .refl ..
  | cons x l ih => exact (hf s x).trans hn ih

end

section
variable (s : State) {n : Nat}

theorem State.works_setObj {k : Nat} (hk : k ∈ s.workKeys n) (v : Word64) : s.Works (s.setObj k v) n :=
  ⟨fun _ _ => rfl, fun j hj => by rw [State.obj_setObj, if_neg]; rintro rfl; exact hj hk, fun _ => ⟨_, rfl⟩, rfl⟩

theorem State.works_upCore (n : Nat) (f : CoreSt → CoreSt) : s.Works (s.upCore n f) n :=
  ⟨fun j hj => by rw [State.upCore_eq, State.core_setCore, if_neg (Ne.symm hj)], fun _ _ => rfl, fun _ => ⟨_, rfl⟩, rfl⟩

theorem State.works_tookFree (n k : Nat) : s.Works (s.tookFree k) n := ⟨fun _ _ => rfl, fun _ _ => rfl, fun _ => ⟨_, rfl⟩, rfl⟩

theorem State.works_emit (n : Nat) (o : Out) : s.Works (s.emit o) n := ⟨fun _ _ => rfl, fun _ _ => rfl, fun _ => ⟨_, rfl⟩, rfl⟩

theorem State.kArith_mem_workKeys (n : Nat) : kArith n ∈ s.workKeys n := by simp [State.workKeys]
theorem State.kSr_mem_workKeys (n : Nat) : kSr n ∈ s.workKeys n := by simp [State.workKeys]
theorem State.activity_mem_workKeys (n : Nat) {a : Nat} (ha : a ∈ [1, 2, 3, 4]) : kCore n 2 a ∈ s.workKeys n := by
  simp only [List.mem_cons, List.not_mem_nil, or_false] at ha
  rcases ha with rfl | rfl | rfl | rfl <;> simp [State.workKeys]
theorem State.account_mem_workKeys (n : Nat) {a : Nat} (ha : a < 9) : kInst (s.holder n) 3 a ∈ s.workKeys n := by
  simp only [State.workKeys, List.mem_append, List.mem_map, List.mem_range]
  exact .inl (.inr ⟨a, ha, rfl⟩)
theorem State.kAssay_mem_workKeys (n : Nat) : kAssay (s.holder n) 0xa ∈ s.workKeys n := by simp [State.workKeys]

/-! ### Accounting (R255) -/

theorem State.accountPs_eq (m a ps : Nat) : s.accountPs m a ps = { s with objs := (s.accountPs m a ps).objs, insts := (s.accountPs m a ps).insts } := by
  unfold State.accountPs; split <;> rfl

theorem State.obj_accountPs (m a ps k : Nat) (h : kInst m 3 a ≠ k) : (s.accountPs m a ps).obj k = s.obj k := by
  unfold State.accountPs
  split
  · rfl
  · rw [State.upInst_eq, State.obj_setInst, State.count_eq, State.obj_setObj, if_neg h]

theorem State.inst_accountPs (m a ps j : Nat) :
    ∃ x, (s.accountPs m a ps).inst j = (s.inst j).withNs x := by
  unfold State.accountPs
  split
  · exact ⟨_, rfl⟩
  · rw [State.upInst_eq, State.inst_setInst]
    split
    · rename_i h; subst h; exact ⟨_, rfl⟩
    · exact ⟨_, rfl⟩

theorem State.works_account (n : Nat) {a : Nat} (ha : a < 9) (cycles : Nat) : s.Works (s.account n a cycles) n := by
  refine ⟨fun j _ => ?_, fun k hk => ?_, fun j => s.inst_accountPs .., ?_⟩
  · rw [State.account, State.accountPs_eq]; rfl
  · exact s.obj_accountPs _ _ _ _ fun e => hk (e ▸ s.account_mem_workKeys n ha)
  · rw [State.account, State.accountPs_eq]

theorem State.account_eq (n a cycles : Nat) : s.account n a cycles = { s with objs := (s.account n a cycles).objs, insts := (s.account n a cycles).insts } :=
  s.accountPs_eq ..

@[simp] theorem State.core_account (n a cycles j : Nat) : (s.account n a cycles).core j = s.core j := by rw [State.account_eq]; rfl
@[simp] theorem State.mem_account (n a cycles : Nat) : (s.account n a cycles).mem = s.mem := by rw [State.account_eq]
@[simp] theorem State.poison_account (n a cycles : Nat) : (s.account n a cycles).poison = s.poison := by rw [State.account_eq]
@[simp] theorem State.out_account (n a cycles : Nat) : (s.account n a cycles).out = s.out := by rw [State.account_eq]
@[simp] theorem State.free_account (n a cycles : Nat) : (s.account n a cycles).free = s.free := by rw [State.account_eq]
@[simp] theorem State.ileave_account (n a cycles : Nat) : (s.account n a cycles).ileave = s.ileave := by rw [State.account_eq]

theorem State.obj_account (hn : n < 16) (m b cycles : Nat) {j a : Nat} (hj : j < 256) (ha : a < 256) (hb : b < 256) : (s.account m b cycles).obj (kCore n j a) = s.obj (kCore n j a) :=
  s.obj_accountPs _ _ _ _ (Ne.symm (kCore_ne_kInst hn hj ha hb))

/-! ### The work of Mica -/

theorem State.works_micaCount (hn : n < 16) (cycles : Nat) : s.Works (s.micaCount n cycles) n := by
  refine State.Works.trans ?_ hn (State.works_account _ n (by decide) cycles)
  exact s.works_setObj (s.activity_mem_workKeys n (by decide)) _

theorem State.works_micaCountOpen (hn : n < 16) (bound : Nat) : s.Works (s.micaCountOpen n bound) n :=
  (s.works_micaCount hn _).trans hn (State.works_tookFree ..)

@[simp] theorem State.core_micaCount (n k j : Nat) : (s.micaCount n k).core j = s.core j := by rw [State.micaCount, State.core_account]; rfl
@[simp] theorem State.mem_micaCount (n k : Nat) : (s.micaCount n k).mem = s.mem := by rw [State.micaCount, State.mem_account]; rfl
@[simp] theorem State.poison_micaCount (n k : Nat) : (s.micaCount n k).poison = s.poison := by rw [State.micaCount, State.poison_account]; rfl
@[simp] theorem State.out_micaCount (n k : Nat) : (s.micaCount n k).out = s.out := by rw [State.micaCount, State.out_account]; rfl
@[simp] theorem State.free_micaCount (n k : Nat) : (s.micaCount n k).free = s.free := by rw [State.micaCount, State.free_account]; rfl
@[simp] theorem State.ileave_micaCount (n k : Nat) : (s.micaCount n k).ileave = s.ileave := by rw [State.micaCount, State.ileave_account]; rfl

/-- Mica's cycles are counted, modulo 2^64 (Table 4-7). -/
theorem State.objN_micaCount (hn : n < 16) (k : Nat) : (s.micaCount n k).objN (kCore n 2 2) = (s.objN (kCore n 2 2) + k) % 2 ^ 64 := by
  rw [State.objN, State.micaCount, State.obj_account _ hn _ _ _ (by decide) (by decide) (by decide), ← State.objN, State.objN_count _ _ _ _ _ (by decide), if_pos rfl]

theorem State.obj_micaCount (hn : n < 16) (k : Nat) {j a : Nat} (hj : j < 256) (ha : a < 256) (h : ¬(j = 2 ∧ a = 2)) :
    (s.micaCount n k).obj (kCore n j a) = s.obj (kCore n j a) := by
  rw [State.micaCount, State.obj_account _ hn _ _ _ hj ha (by decide), State.count_eq, State.obj_setObj, if_neg]
  rw [kCore_inj (by decide) hj (by decide) ha]
  omega

end

/-! ### From the effect to the op's end -/

section
variable {s e u t : State} {n : Nat} {op : OpWord} {q : Queue}

@[simp] theorem State.core_markRan (u : State) (n : Nat) (q : Queue) (seq j : Nat) : (u.markRan n q seq).core j
    = if n = j then (u.core n).setQ q (((u.core n).q q).map fun o => if o.seq = seq then { o with ran := true } else o) else u.core j := by
  rw [State.markRan, State.upCore_eq, State.core_setCore]

theorem State.works_markRan (u : State) (n : Nat) (q : Queue) (seq : Nat) : u.Works (u.markRan n q seq) n := u.works_upCore n _

/-- An update of a core that does not touch its queues, its dispatch number or a debug step. -/
def CoreSt.aside (f : CoreSt → CoreSt) (q : Queue) : Prop := ∀ c x, f (CoreSt.holding c q x) = CoreSt.holding (f c) q x ∧ (f c).nextSeq = c.nextSeq

/-- An op that has entered and has had its effect, its core's registers updated by `f`, has run. -/
theorem State.Enters.opRan (he : s.Enters e n op q) (hn : n < 16) (hq : q ≠ .ctl) (hw : e.Works u n) {f : CoreSt → CoreSt} (hf : CoreSt.aside f q)
    (hc : u.core n = f (e.core n)) : s.OpRan (u.markRan n q (s.core n).nextSeq) n op q (f (s.core n)) := by
  have hkeys : e.workKeys n = s.workKeys n := State.workKeys_congr (by
    refine congrArg BitVec.toNat (he.objs _ ?_)
    simp only [List.mem_cons, List.not_mem_nil, or_false, kPc, kCtr, kCore, okey]
    have := opWait_lt op
    omega)
  have hwt := hw.trans hn (u.works_markRan n q (s.core n).nextSeq)
  refine ⟨?_, fun j hj => ?_, ?_, fun j hj => (hwt.others j hj).trans (he.others j hj), fun k hk => ?_, fun j => ?_, ?_⟩
  · rw [← he.pc]
    exact congrArg BitVec.toNat (hwt.obj_kCore hn (by decide) (by decide) (by decide) (by decide))
  · rw [← he.counters j hj]
    exact congrArg BitVec.toNat (hwt.obj_kCore hn (by decide) (by omega) (by decide) (by decide))
  · obtain ⟨h1, h2⟩ := hf (s.core n) ((s.opRecord n op).begun s.nowN)
    rw [State.core_markRan, if_pos rfl, hc, he.core, h1, CoreSt.q_holding _ hq, List.map_singleton,
      if_pos (show ((s.opRecord n op).begun s.nowN).seq = (s.core n).nextSeq from rfl), CoreSt.setQ_holding, CoreSt.holding, h2]
    rfl
  · rw [List.mem_append, not_or] at hk
    rw [hwt.objs k (by rw [hkeys]; exact hk.2), he.objs k hk.1]
  · obtain ⟨m, hm⟩ := hwt.insts j
    rw [hm, show e.inst j = s.inst j by rw [he.rest]; rfl]
    rfl
  · have hrest := hwt.rest
    rw [he.rest] at hrest
    exact hrest

end

end Sys2Proof.Machine
end

section
/-! What an engine op reads and stores is the same in two states of equal memory (R83, R119, R120). -/

namespace Sys2Proof.Machine

/-! ### Equal memory -/

/-- Memory, its interleave, the free values and what has left the device are the same. -/
structure State.SameStore (s e : State) : Prop where
  mem : e.mem = s.mem
  poison : e.poison = s.poison
  ileave : e.ileave = s.ileave
  free : e.free = s.free
  out : e.out = s.out

theorem State.SameStore.of_rest {s e : State} (h : e = { s with objs := e.objs, cores := e.cores }) : s.SameStore e := by
  rw [h]; exact ⟨rfl, rfl, rfl, rfl, rfl⟩

theorem State.sameStore_setPebble (s : State) (c : Nat) (p : PebSt) : s.SameStore (s.setPebble c p) := ⟨rfl, rfl, rfl, rfl, rfl⟩

section
variable {s e : State} (h : s.SameStore e)
include h

theorem State.SameStore.byte : e.byte = s.byte := by
  funext a; simp only [State.byte, h.mem, h.ileave, h.free]
theorem State.SameStore.rd : e.rd = s.rd := by
  funext a n; simp only [State.rd, h.byte]
theorem State.SameStore.rdN : e.rdN = s.rdN := by
  funext a n; simp only [State.rdN, h.rd]
theorem State.SameStore.elemCode : e.elemCode = s.elemCode := by
  funext n d i0 i1 i2 i3; simp only [State.elemCode, State.codeAt, h.byte]
theorem State.SameStore.scaleCode : e.scaleCode = s.scaleCode := by
  funext n d k; simp only [State.scaleCode, h.byte]
theorem State.SameStore.elem : e.elem = s.elem := by
  funext n d i0 i1 i2 i3; simp only [State.elem, h.elemCode, h.scaleCode]
theorem State.SameStore.micaElem : e.micaElem = s.micaElem := by
  funext n d x; simp only [State.micaElem, h.elem]
theorem State.SameStore.intElem : e.intElem = s.intElem := by
  funext n d x; simp only [State.intElem, h.elemCode]
theorem State.SameStore.axisVals : e.axisVals = s.axisVals := by
  funext n d a x; simp only [State.axisVals, h.micaElem]
theorem State.SameStore.window : e.window = s.window := by
  funext n r; simp only [State.window, h.rd]
theorem State.SameStore.poisonedAt : e.poisonedAt = s.poisonedAt := by
  funext a n; simp only [State.poisonedAt, h.poison, h.ileave]
theorem State.SameStore.colParam : e.colParam = s.colParam := by
  funext n o k x dflt j; simp only [State.colParam, h.elem]

/-! ### Equal stores -/

theorem State.SameStore.wr (a : Nat) (bs : List Byte) : (s.wr a bs).SameStore (e.wr a bs) := by
  refine ⟨State.wr_mem_congr h.mem h.ileave a bs, ?_, by simp [h.ileave], by simp [h.free], by simp [h.out]⟩
  have hp : ∀ u : State, (u.wr a bs).poison = if u.poison.isEmpty then u.poison else u.poison.filter fun p => !u.coversUnit a bs.length p := fun u => by
    simp only [State.wr, show (u.putBytes a bs).poison = u.poison by rw [State.putBytes_eq]]
    split
    · rw [State.putBytes_eq]
    · rfl
  rw [hp, hp]
  simp only [State.coversUnit, h.poison, h.ileave]

theorem State.SameStore.forEach {α : Type} (l : List α) {f g : State → α → State} (hf : ∀ (u v : State) x, u.SameStore v → (f u x).SameStore (g v x)) :
    (s.forEach l f).SameStore (e.forEach l g) := by
  unfold State.forEach
  induction l generalizing s e with
  | nil => exact h
  | cons x l ih => exact ih (hf _ _ x h)

theorem State.SameStore.wrTensor (n : Nat) (d : Desc) (f : Nat → Nat → Nat → Nat → Nat) : (s.wrTensor n d f).SameStore (e.wrTensor n d f) :=
  h.forEach _ fun _ _ _ h' => h'.wr ..

theorem State.SameStore.tookFree (k : Nat) : (s.tookFree k).SameStore (e.tookFree k) :=
  ⟨h.mem, h.poison, h.ileave, congrArg (· + k) h.free, h.out⟩

/-- Values are converted and stored alike. -/
theorem State.SameStore.wrVals (n : Nat) (d : Desc) (sat : Bool) (vals : List FVal) (modes : List RMode) (c : Nat → Nat) :
    (s.wrVals n d sat vals modes c).s.SameStore (e.wrVals n d sat vals modes c).s
      ∧ (e.wrVals n d sat vals modes c).satInt = (s.wrVals n d sat vals modes c).satInt
      ∧ (e.wrVals n d sat vals modes c).satFp = (s.wrVals n d sat vals modes c).satFp
      ∧ (e.wrVals n d sat vals modes c).nan = (s.wrVals n d sat vals modes c).nan := by
  unfold State.wrVals
  by_cases hmx : isMx d.fmt = true
  · simp only [if_pos hmx, h.free]
    refine ⟨?_, trivial, trivial, trivial⟩
    split
    · exact ((h.wrTensor n d _).wr _ _).tookFree _
    · exact (h.wrTensor n d _).wr _ _
  · simp only [if_neg hmx]
    exact ⟨h.wrTensor n d _, trivial, trivial, trivial⟩

end

/-! ### What a store leaves alone -/

/-- Only memory, its poison and the count of free values have changed. -/
def State.Stores (s t : State) : Prop := ∃ m p k, t = { s with mem := m, poison := p, free := k }

section
variable {s t u : State}

theorem State.Stores.refl (s : State) : s.Stores s := ⟨_, _, _, rfl⟩

theorem State.Stores.trans (h : s.Stores t) (h' : t.Stores u) : s.Stores u := by
  obtain ⟨_, _, _, rfl⟩ := h
  obtain ⟨m, p, k, rfl⟩ := h'
  exact ⟨m, p, k, rfl⟩

theorem State.stores_wr (s : State) (a : Nat) (bs : List Byte) : s.Stores (s.wr a bs) := ⟨_, _, _, s.wr_eq a bs⟩

theorem State.stores_tookFree (s : State) (k : Nat) : s.Stores (s.tookFree k) := ⟨_, _, _, rfl⟩

theorem State.stores_forEach {α : Type} (s : State) (l : List α) {f : State → α → State} (hf : ∀ u x, State.Stores u (f u x)) : s.Stores (s.forEach l f) := by
  unfold State.forEach
  induction l generalizing s with
  | nil => exact .refl s
  | cons x l ih => exact (hf s x).trans (ih (f s x))

theorem State.stores_wrTensor (s : State) (n : Nat) (d : Desc) (f : Nat → Nat → Nat → Nat → Nat) : s.Stores (s.wrTensor n d f) :=
  s.stores_forEach _ fun u _ => u.stores_wr ..

theorem State.stores_wrVals (s : State) (n : Nat) (d : Desc) (sat : Bool) (vals : List FVal) (modes : List RMode) (c : Nat → Nat) :
    s.Stores (s.wrVals n d sat vals modes c).s := by
  unfold State.wrVals
  by_cases hmx : isMx d.fmt = true
  · simp only [if_pos hmx]
    split
    · exact ((s.stores_wrTensor n d _).trans (State.stores_wr ..)).trans (State.stores_tookFree ..)
    · exact (s.stores_wrTensor n d _).trans (State.stores_wr ..)
  · simp only [if_neg hmx]
    exact s.stores_wrTensor n d _

theorem State.Stores.core (h : s.Stores t) (j : Nat) : t.core j = s.core j := by obtain ⟨_, _, _, rfl⟩ := h; rfl
theorem State.Stores.obj (h : s.Stores t) (k : Nat) : t.obj k = s.obj k := by obtain ⟨_, _, _, rfl⟩ := h; rfl
theorem State.Stores.pebble (h : s.Stores t) (c : Nat) : t.pebble c = s.pebble c := by obtain ⟨_, _, _, rfl⟩ := h; rfl
theorem State.Stores.out (h : s.Stores t) : t.out = s.out := by obtain ⟨_, _, _, rfl⟩ := h; rfl
theorem State.Stores.ileave (h : s.Stores t) : t.ileave = s.ileave := by obtain ⟨_, _, _, rfl⟩ := h; rfl

theorem State.Stores.works (h : s.Stores t) (n : Nat) : s.Works t n := by
  obtain ⟨_, _, _, rfl⟩ := h
  exact ⟨fun _ _ => rfl, fun _ _ => rfl, fun _ => ⟨_, rfl⟩, rfl⟩

/-- A byte of this device is what memory holds there. -/
theorem State.byte_of_mem {a : Nat} (ha : a < 0x10000000000) (hm : t.mem = s.mem) (hi : t.ileave = s.ileave) : t.byte a = s.byte a := by
  rw [State.byte, State.byte, if_neg (by omega), if_neg (by omega), hm, hi]

end

theorem State.byte_tookFree (s : State) (k : Nat) {a : Nat} (ha : a < 0x10000000000) : (s.tookFree k).byte a = s.byte a := State.byte_of_mem ha rfl rfl

/-! ### Tensors of the local store -/

/-- A descriptor whose rows, and in an MX format its scales, are whole bytes inside the local store. -/
structure Desc.Fits (d : Desc) : Prop where
  space : d.space = 0
  rows : ∀ x ∈ d.spans d.rowBytes, x.1 + d.rowBytes ≤ lstoreSize
  wide : 0 < d.rowBytes
  scales : isMx d.fmt = true → d.scaleSpace = 0 ∧ d.scaleBase + d.count / 32 ≤ lstoreSize ∧ 0 < d.count / 32

theorem devAddr_lstore {n off : Nat} (h : off + 1 ≤ lstoreSize) : devAddr n 0 off = lstoreBase n + off := by
  rw [devAddr, spaceAddr, if_pos h]; rfl

theorem length_packCodes (bits : Nat) (codes : List Nat) : (packCodes bits codes).length = codes.length * bits / 8 := leBytes_length ..

theorem lstoreBase_high (n off : Nat) : 0x4000000000 ≤ lstoreBase n + off := by unfold lstoreBase; omega

section
variable (s : State) {n a : Nat} {d : Desc}

theorem State.byte_forEach {α : Type} (s : State) (l : List α) {f : State → α → State} (hf : ∀ (u : State), ∀ x ∈ l, (f u x).byte a = u.byte a) :
    (s.forEach l f).byte a = s.byte a := by
  unfold State.forEach
  induction l generalizing s with
  | nil => rfl
  | cons x l ih => exact (ih (f s x) fun u y hy => hf u y (List.mem_cons_of_mem _ hy)).trans (hf s x List.mem_cons_self)

/-- Stored rows change no byte beside them. -/
theorem State.byte_wrTensor (hd : d.Fits) (ha : d.misses n a) (f : Nat → Nat → Nat → Nat → Nat) : (s.wrTensor n d f).byte a = s.byte a := by
  obtain ⟨-, hrows, -⟩ := ha
  refine s.byte_forEach _ fun u r hr => ?_
  have hmem : (d.rowOff r.1 r.2.1 r.2.2, d.rowBytes) ∈ d.spans d.rowBytes := List.mem_map.2 ⟨r, hr, rfl⟩
  have hfit := hd.rows _ hmem
  have hside := hrows _ hmem
  have hwide := hd.wide
  rw [State.wrSpace, hd.space, devAddr_lstore (by omega)]
  refine u.byte_wr_high _ _ _ (lstoreBase_high n _) ?_
  rw [length_packCodes, List.length_map, List.length_range]
  exact hside

/-- Converted and stored values change no byte beside their rows and scales. -/
theorem State.byte_wrVals (hd : d.Fits) (ha : d.misses n a) (sat : Bool) (vals : List FVal) (modes : List RMode) (c : Nat → Nat) :
    (s.wrVals n d sat vals modes c).s.byte a = s.byte a := by
  unfold State.wrVals
  by_cases hmx : isMx d.fmt = true
  · obtain ⟨hsp, hfit, hpos⟩ := hd.scales hmx
    obtain ⟨hlow, -, hscales⟩ := id ha
    have hw : ∀ (u : State) (bs : List Byte), bs.length = d.count / 32 → (u.wrSpace n d.scaleSpace d.scaleBase bs).byte a = u.byte a := fun u bs hbs => by
      rw [State.wrSpace, hsp, devAddr_lstore (by omega)]
      exact u.byte_wr_high _ _ _ (lstoreBase_high n _) (by rw [hbs]; exact hscales hmx)
    have hlen : ∀ f : Nat → Byte, ((List.range (d.count / 32)).map f).length = d.count / 32 := by simp
    simp only [if_pos hmx, List.map_map]
    split
    · refine (State.byte_tookFree _ _ hlow).trans ((hw _ _ (hlen _)).trans (s.byte_wrTensor hd ha _))
    · exact (hw _ _ (hlen _)).trans (s.byte_wrTensor hd ha _)
  · simp only [if_neg hmx]
    exact s.byte_wrTensor hd ha _

end

/-- A list of faults none of which stands. -/
theorem firstErr_ok {l : List (Option Exc)} (h : ∀ x ∈ l, x = none) : firstErr l = .ok () := by
  have : l.findSome? id = none := List.findSome?_eq_none_iff.2 h
  rw [firstErr, this]

theorem fmtKnown_bits {c : Nat} (h : fmtKnown c = true) : 4 ≤ elemBits c := by
  unfold fmtKnown elemBits at *
  split at h <;> simp_all

/-- What a descriptor's form says of it for an engine that reads the local store alone (R120). -/
theorem Desc.form_local {d : Desc} (h : d.form [0] = none) (hraw : isRaw d.fmt = false) :
    d.space = 0 ∧ 0 < d.rowBytes ∧ (∀ k, d.dim k ≠ 0) ∧ (isMx d.fmt = true → d.scaleSpace = 0) := by
  rw [Desc.form, Option.map_eq_none_iff, Desc.bad] at h
  split at h
  · cases h
  · split at h
    · cases h
    · rename_i hok
      simp only [hraw, not_or, not_and, Bool.not_eq_true, Bool.not_eq_eq_eq_not, Bool.not_true, List.contains_cons, List.contains_nil, Bool.or_false, beq_iff_eq,
        forall_const, Decidable.not_not, Bool.not_eq_false] at hok
      obtain ⟨-, hknown, hzero, hwhole, hspace, hscale⟩ := hok
      have hdim : ∀ k, d.dim k ≠ 0 := fun k hk => by
        rw [Desc.dim, List.getD_eq_getElem?_getD] at hk
        cases hg : d.shape[k]? with
        | none => rw [hg] at hk; exact absurd hk (by decide)
        | some v =>
          rw [hg] at hk
          have := List.any_eq_false.1 hzero v (List.mem_of_getElem? hg)
          exact this (by simpa using hk)
      refine ⟨hspace, ?_, hdim, hscale⟩
      have hb := fmtKnown_bits hknown
      have := Nat.mul_pos (Nat.pos_of_ne_zero (hdim 0)) (show 0 < elemBits d.fmt by omega)
      unfold Desc.rowBytes
      omega

theorem lstore_of_spaceAddr {n off len a : Nat} (h : spaceAddr n 0 off len = some a) : off + len ≤ lstoreSize := by
  by_contra hlt
  rw [spaceAddr, if_neg hlt] at h
  cases h

/-- A reach without a fault: every row, and in an MX format the scales, lie in their space. -/
theorem State.spans_of_reach {s : State} {n : Nat} {d : Desc} {write : Bool} (h : s.reachFault n d write = none) :
    (∀ x ∈ d.spans d.rowBytes, ∃ a, spaceAddr n d.space x.1 x.2 = some a) ∧ (isMx d.fmt = true → ∃ a, spaceAddr n d.scaleSpace d.scaleBase (d.count / 32) = some a) := by
  unfold State.reachFault at h
  dsimp only at h
  split at h
  · cases h
  · rename_i hrows
    rw [List.findSome?_eq_none_iff] at hrows
    refine ⟨fun x hx => ?_, fun hmx => ?_⟩
    · have := hrows x hx
      split at this
      · cases this
      · exact ⟨_, ‹_›⟩
    · rw [if_pos hmx] at h
      split at h
      · cases h
      · exact ⟨_, ‹_›⟩

/-- A tensor that an engine may reach in its local store fits there. -/
theorem State.fits_of_reach {s : State} {n : Nat} {d : Desc} {write : Bool} (hform : d.form [0] = none) (hraw : isRaw d.fmt = false)
    (hmx : isMx d.fmt = true → d.dim 0 % 32 = 0) (hreach : s.reachFault n d write = none) : d.Fits := by
  obtain ⟨hspace, hwide, hdim, hscale⟩ := Desc.form_local hform hraw
  obtain ⟨hrows, hscales⟩ := State.spans_of_reach hreach
  refine ⟨hspace, fun x hx => ?_, hwide, fun h => ⟨hscale h, ?_, ?_⟩⟩
  · obtain ⟨a, ha⟩ := hrows x hx
    obtain ⟨r, -, rfl⟩ := List.mem_map.1 hx
    exact lstore_of_spaceAddr (hspace ▸ ha)
  · obtain ⟨a, ha⟩ := hscales h
    exact lstore_of_spaceAddr (hscale h ▸ ha)
  · have h32 := hmx h
    have h0 := hdim 0
    have hle : d.dim 0 ≤ d.count := by
      unfold Desc.count
      rw [Nat.mul_assoc, Nat.mul_assoc]
      exact Nat.le_mul_of_pos_right _ (Nat.mul_pos (Nat.pos_of_ne_zero (hdim 1)) (Nat.mul_pos (Nat.pos_of_ne_zero (hdim 2)) (Nat.pos_of_ne_zero (hdim 3))))
    omega

/-- An output or input that a tensor form takes fits the local store. -/
theorem State.fits_of_tfDesc {s : State} {n : Nat} {d : Desc} {write : Bool} (h : s.tfDesc n d write = none) : d.Fits := by
  unfold State.tfDesc at h
  split at h
  · cases h
  · rename_i hform
    split at h
    · cases h
    · rename_i hok
      rw [not_or, not_and, Decidable.not_not] at hok
      exact State.fits_of_reach hform (by simpa using hok.1) hok.2 h

/-! ### What an instance's engines may reach stays as an op enters -/

section
variable {s e : State} {n : Nat} {op : OpWord} {q : Queue}

/-- The dispatch of an op of core n changes the objects +4 and +5 of that core alone. -/
theorem State.Enters.obj_eq (h : s.Enters e n op q) {k : Nat} (hk : k / 256 ≠ 0x3004 + 0x100 * n ∧ k / 256 ≠ 0x3005 + 0x100 * n) : e.obj k = s.obj k := by
  refine h.objs k ?_
  have := opWait_lt op
  simp only [List.mem_cons, List.not_mem_nil, or_false, kPc, kCtr, kCore, okey]
  omega

theorem State.Enters.holder (h : s.Enters e n op q) (j : Nat) : e.holder j = s.holder j :=
  congrArg BitVec.toNat (h.obj_eq (by simp only [kCore, okey]; omega))

theorem State.Enters.objN_instance (h : s.Enters e n op q) (hn : n < 16) {k : Nat} (hk : 0x400000 ≤ k) : e.objN k = s.objN k :=
  congrArg BitVec.toNat (h.obj_eq (by omega))

theorem State.Enters.sameStore (h : s.Enters e n op q) : s.SameStore e := .of_rest h.rest

theorem State.Enters.inst (h : s.Enters e n op q) : e.inst = s.inst := by rw [h.rest]; rfl

theorem State.Enters.stackWithin (h : s.Enters e n op q) : e.stackWithin = s.stackWithin := by rw [h.rest]; rfl

theorem State.Enters.stackMeets (h : s.Enters e n op q) : e.stackMeets = s.stackMeets := by rw [h.rest]; rfl

theorem State.Enters.meetsRing (h : s.Enters e n op q) (hn : n < 16) : e.meetsRing = s.meetsRing := by
  have hring : ∀ k j, e.obj (okey (0x4500 + k) j) = s.obj (okey (0x4500 + k) j) := fun k j => h.obj_eq (by simp only [okey]; omega)
  funext m a len
  simp only [State.meetsRing, State.objN, hring, h.stackMeets]

theorem State.Enters.engineMay (h : s.Enters e n op q) (hn : n < 16) : e.engineMay = s.engineMay := by
  have hinst : ∀ m j a, e.objN (kInst m j a) = s.objN (kInst m j a) := fun m j a => h.objN_instance hn (by simp only [kInst, okey]; omega)
  have hkv : ∀ m a, e.objN (kKv m a) = s.objN (kKv m a) := fun m a => h.objN_instance hn (by simp only [kKv, okey]; omega)
  have hworld : ∀ a, e.objN (okey 0x7402 a) = s.objN (okey 0x7402 a) := fun a => h.objN_instance hn (by simp only [okey]; omega)
  have hpeer : ∀ m k, e.oBit (kInst m 5 k) 31 = s.oBit (kInst m 5 k) 31 := fun m k => by
    rw [State.oBit, State.oBit, h.obj_eq (by simp only [kInst, okey]; omega)]
  funext m a len write
  simp only [State.engineMay, hinst, hkv, hworld, hpeer, h.holder, h.inst, h.stackWithin, h.stackMeets, h.meetsRing hn]

theorem State.Enters.reachFault (h : s.Enters e n op q) (hn : n < 16) : e.reachFault = s.reachFault := by
  funext m d write
  simp only [State.reachFault, h.holder, h.engineMay hn, h.sameStore.poisonedAt]

theorem State.Enters.tfDesc (h : s.Enters e n op q) (hn : n < 16) : e.tfDesc = s.tfDesc := by
  funext m d write
  simp only [State.tfDesc, h.reachFault hn]

theorem State.Enters.colParamFault (h : s.Enters e n op q) (hn : n < 16) : e.colParamFault = s.colParamFault := by
  funext m o kind src cols
  simp only [State.colParamFault, h.reachFault hn]

theorem State.Enters.kSr (h : s.Enters e n op q) : e.obj (kSr n) = s.obj (kSr n) :=
  h.obj_eq (by simp only [Machine.kSr, kCore, okey]; omega)

theorem State.Enters.workObj (h : s.Enters e n op q) {j a : Nat} (hj : j = 1 ∨ j = 2) (ha : a < 256) : e.obj (kCore n j a) = s.obj (kCore n j a) :=
  h.obj_eq (by simp only [kCore, okey]; omega)

theorem State.Enters.workObjN (h : s.Enters e n op q) {j a : Nat} (hj : j = 1 ∨ j = 2) (ha : a < 256) : e.objN (kCore n j a) = s.objN (kCore n j a) :=
  congrArg BitVec.toNat (h.workObj hj ha)

end

end Sys2Proof.Machine
end

section
/-! Vector registers of Mica and the runs of the local store that VLD and VST move (R99, R102, R211). -/

namespace Sys2Proof.Machine

/-! ### Many writes of one map -/

section
variable {α β : Type} [DecidableEq α] (d : Nat → α) (key : β → Nat) (val : β → α)

theorem TMap.get_foldl_set_of_ne (l : List β) (m : TMap α) {k : Nat} (h : ∀ y ∈ l, key y ≠ k) :
    TMap.get d (l.foldl (fun m y => TMap.set d m (key y) (val y)) m) k = TMap.get d m k := by
  induction l generalizing m with
  | nil => rfl
  | cons y l ih =>
    rw [List.foldl_cons, ih _ fun z hz => h z (List.mem_cons_of_mem _ hz), TMap.get_set, if_neg (h y List.mem_cons_self)]

/-- Of many writes, those at one key agreeing, a read gives the value written. -/
theorem TMap.get_foldl_set_of_mem (l : List β) (m : TMap α) {x : β} (hx : x ∈ l) (h : ∀ y ∈ l, key y = key x → val y = val x) :
    TMap.get d (l.foldl (fun m y => TMap.set d m (key y) (val y)) m) (key x) = val x := by
  induction l generalizing m x with
  | nil => cases hx
  | cons y l ih =>
    rw [List.foldl_cons]
    by_cases hl : ∃ z ∈ l, key z = key x
    · obtain ⟨z, hz, hzx⟩ := hl
      have hzv := h z (List.mem_cons_of_mem _ hz) hzx
      rw [← hzx, ← hzv]
      exact ih _ hz fun w hw hwz => (h w (List.mem_cons_of_mem _ hw) (hwz.trans hzx)).trans hzv.symm
    · have hne : ∀ z ∈ l, key z ≠ key x := fun z hz e => hl ⟨z, hz, e⟩
      have hxy : x = y := (List.mem_cons.1 hx).resolve_right fun hm => hne x hm rfl
      rw [TMap.get_foldl_set_of_ne d key val l _ hne, TMap.get_set, if_pos (by rw [hxy]), hxy]

end

/-! ### The effect of an op, once it is known -/

theorem wholly_ok {f : State → Nat → QOp → Except Exc State} {s u : State} {n : Nat} {o : QOp} (h : f s n o = .ok u) : wholly f s n o = (u, none) := by
  rw [wholly, h]

section
variable {s e u : State} {n : Nat} {op : OpWord} {fields : List (Nat × Nat)} {q : Queue}

/-- An op that goes and whose effect is the whole one `f` runs to the end of it. -/
theorem State.engineOp_runs {f : State → Nat → QOp → Except Exc State} (h : s.OpGoes n op fields q) {c : Nat} (hop : opOf op = c) (hq : q ≠ .pebble) (hc : c ≠ 0x64)
    (hf : ∀ v o, opOf o.op = c → performOp v n o = wholly f v n o) :
    ∃ e, s.Enters e n op q ∧ ∀ u, f e n (s.opRecord n op) = .ok u → s.engineOp n op fields = .next (u.markRan n q (s.core n).nextSeq) := by
  obtain ⟨e, he, hrun⟩ := State.engineOp_performs h hq (hop ▸ hc)
  exact ⟨e, he, fun u hu => hrun u ((hf e _ hop).trans (wholly_ok hu))⟩

theorem CoreSt.vregs_setQ (c : CoreSt) (q : Queue) (l : List QOp) : (c.setQ q l).vregs = c.vregs := by cases q <;> rfl

theorem State.lane_congr {s t : State} {n : Nat} (h : (t.core n).vregs = (s.core n).vregs) : t.lane n = s.lane n := by
  funext r e rot; rw [State.lane, State.lane, h]

theorem State.lane_markRan (u : State) (n : Nat) (q : Queue) (seq : Nat) : (u.markRan n q seq).lane n = u.lane n :=
  State.lane_congr (by rw [State.core_markRan, if_pos rfl, CoreSt.vregs_setQ])

theorem State.lane_micaCount (u : State) (n k : Nat) : (u.micaCount n k).lane n = u.lane n := State.lane_congr (by rw [State.core_micaCount])

theorem State.lane_wr (u : State) (n a : Nat) (bs : List Byte) : (u.wr a bs).lane n = u.lane n := State.lane_congr (by rw [State.core_wr])

theorem State.Enters.lane (h : s.Enters e n op q) : e.lane n = s.lane n := State.lane_congr (by rw [h.core]; exact CoreSt.vregs_setQ ..)

section
variable (u : State) (n : Nat) (q : Queue) (seq : Nat)
@[simp] theorem State.obj_markRan (k : Nat) : (u.markRan n q seq).obj k = u.obj k := rfl
@[simp] theorem State.objN_markRan (k : Nat) : (u.markRan n q seq).objN k = u.objN k := rfl
@[simp] theorem State.byte_markRan (a : Nat) : (u.markRan n q seq).byte a = u.byte a := rfl
@[simp] theorem State.mem_markRan : (u.markRan n q seq).mem = u.mem := rfl
@[simp] theorem State.poison_markRan : (u.markRan n q seq).poison = u.poison := rfl
@[simp] theorem State.out_markRan : (u.markRan n q seq).out = u.out := rfl
@[simp] theorem State.free_markRan : (u.markRan n q seq).free = u.free := rfl
@[simp] theorem State.pebble_markRan (c : Nat) : (u.markRan n q seq).pebble c = u.pebble c := rfl
end

/-- A core with other vector registers. -/
def CoreSt.withVregs (c : CoreSt) (v : TMap Word32) : CoreSt := { c with vregs := v }

theorem CoreSt.aside_withVregs (v : TMap Word32) (q : Queue) : CoreSt.aside (·.withVregs v) q := fun c x => ⟨by cases q <;> rfl, rfl⟩

theorem CoreSt.aside_id (q : Queue) : CoreSt.aside id q := fun _ _ => ⟨rfl, rfl⟩

/-- Of core n only vector registers have changed. -/
def State.Lanes (s t : State) (n : Nat) : Prop := ∃ v, t.core n = (s.core n).withVregs v

theorem State.Lanes.of_core {s t : State} {n : Nat} (h : t.core n = s.core n) : s.Lanes t n := ⟨_, h⟩

theorem State.Lanes.trans {s t u : State} {n : Nat} (h : s.Lanes t n) (h' : t.Lanes u n) : s.Lanes u n := by
  obtain ⟨v, hv⟩ := h
  obtain ⟨w, hw⟩ := h'
  exact ⟨w, by rw [hw, hv]; rfl⟩

/-- An op that has written vector registers alone has run so. -/
theorem State.Enters.opRan_lanes (he : s.Enters e n op q) (hn : n < 16) (hq : q ≠ .ctl) (hw : e.Works u n) (hl : e.Lanes u n) :
    ∃ v, s.OpRan (u.markRan n q (s.core n).nextSeq) n op q { s.core n with vregs := v } := by
  obtain ⟨v, hv⟩ := hl
  exact ⟨v, he.opRan hn hq hw (CoreSt.aside_withVregs v q) hv⟩

/-- An op that has left its core's registers alone has run so. -/
theorem State.Enters.opRan_same (he : s.Enters e n op q) (hn : n < 16) (hq : q ≠ .ctl) (hw : e.Works u n) (hc : u.core n = e.core n) :
    s.OpRan (u.markRan n q (s.core n).nextSeq) n op q (s.core n) := he.opRan hn hq hw (CoreSt.aside_id q) hc

end

/-! ### Vector registers -/

section
variable (s : State) (n r rot : Nat) (f : Nat → Word32)

theorem laneKey_inj {r x rot e i : Nat} (he : e < 256) (hi : i < 256) : laneKey r e rot = laneKey x i rot ↔ r % 256 = x % 256 ∧ e = i := by
  unfold laneKey; omega

theorem State.vregs_setLanes : ((s.setLanes n r rot f).core n).vregs
    = (List.range 256).foldl (fun m e => TMap.set (fun _ => 0#32) m (laneKey r e rot) (f e)) (s.core n).vregs := by
  rw [State.setLanes, State.upCore_eq, State.core_setCore, if_pos rfl]

/-- A written register gives each lane its value. -/
theorem State.lane_setLanes_self {x e : Nat} (hx : r % 256 = x % 256) (he : e < 256) : (s.setLanes n r rot f).lane n x e rot = f e := by
  have hkey : laneKey x e rot = laneKey r e rot := ((laneKey_inj he he).2 ⟨hx, rfl⟩).symm
  rw [State.lane, State.vregs_setLanes, hkey]
  exact TMap.get_foldl_set_of_mem _ (fun i => laneKey r i rot) f _ _ (List.mem_range.2 he) fun i hi hk =>
    congrArg f ((laneKey_inj (List.mem_range.1 hi) he).1 hk).2

/-- Every other register keeps its lanes. -/
theorem State.lane_setLanes_of_ne {x e rot' : Nat} (hx : r % 256 ≠ x % 256) : (s.setLanes n r rot f).lane n x e rot' = s.lane n x e rot' := by
  rw [State.lane, State.vregs_setLanes, State.lane]
  exact TMap.get_foldl_set_of_ne _ (fun i => laneKey r i rot) f _ _ fun i _ => by unfold laneKey; omega

theorem State.works_setLanes : s.Works (s.setLanes n r rot f) n := s.works_upCore n _

theorem State.lanes_setLanes : s.Lanes (s.setLanes n r rot f) n := ⟨_, by rw [State.setLanes, State.upCore_eq, State.core_setCore, if_pos rfl]; rfl⟩

end

/-- Only cores have changed. -/
def State.CoresAlone (s t : State) : Prop := ∃ c, t = { s with cores := c }

theorem State.CoresAlone.trans {s t u : State} (h : s.CoresAlone t) (h' : t.CoresAlone u) : s.CoresAlone u := by
  obtain ⟨c, rfl⟩ := h
  obtain ⟨c', rfl⟩ := h'
  exact ⟨c', rfl⟩

theorem State.CoresAlone.sameStore {s t : State} (h : s.CoresAlone t) : s.SameStore t := by
  obtain ⟨c, rfl⟩ := h; exact ⟨rfl, rfl, rfl, rfl, rfl⟩

theorem State.CoresAlone.obj {s t : State} (h : s.CoresAlone t) (k : Nat) : t.obj k = s.obj k := by
  obtain ⟨c, rfl⟩ := h; rfl

theorem State.CoresAlone.objN {s t : State} (h : s.CoresAlone t) (k : Nat) : t.objN k = s.objN k := by
  obtain ⟨c, rfl⟩ := h; rfl

theorem State.coresAlone_upCore (s : State) (n : Nat) (f : CoreSt → CoreSt) : s.CoresAlone (s.upCore n f) := ⟨_, rfl⟩

theorem State.SameStore.trans {s t u : State} (h : s.SameStore t) (h' : t.SameStore u) : s.SameStore u :=
  ⟨h'.mem.trans h.mem, h'.poison.trans h.poison, h'.ileave.trans h.ileave, h'.free.trans h.free, h'.out.trans h.out⟩

theorem State.forEach_range_succ (s : State) (k : Nat) (f : State → Nat → State) : s.forEach (List.range (k + 1)) f = f (s.forEach (List.range k) f) k := by
  rw [State.forEach, State.forEach, List.range_succ, List.foldl_append]; rfl

/-- `cnt` registers written from r on, the values read where memory alone matters: each gives its lanes, every other keeps its own, and memory is as before. -/
theorem State.forEach_setLanes (s : State) (n r rot : Nat) (g : State → Nat → Nat → Word32) (hg : ∀ u, s.SameStore u → g u = g s) (cnt : Nat) (hcnt : cnt ≤ 256) :
    let t := s.forEach (List.range cnt) fun u j => u.setLanes n (r + j) rot (g u j)
    s.CoresAlone t ∧ (∀ j < cnt, ∀ e < 256, t.lane n (r + j) e rot = g s j e)
      ∧ ∀ x e rot', (∀ j < cnt, (r + j) % 256 ≠ x % 256) → t.lane n x e rot' = s.lane n x e rot' := by
  induction cnt with
  | zero => exact ⟨⟨_, rfl⟩, by omega, fun _ _ _ _ => rfl⟩
  | succ k ih =>
    obtain ⟨hsame, hset, hkeep⟩ := ih (by omega)
    dsimp only
    rw [State.forEach_range_succ]
    refine ⟨hsame.trans (State.coresAlone_upCore ..), fun j hj e he => ?_, fun x e rot' hx => ?_⟩
    · by_cases hjk : j = k
      · rw [hjk, State.lane_setLanes_self _ _ _ _ _ rfl he, hg _ hsame.sameStore]
      · rw [State.lane_setLanes_of_ne _ _ _ _ _ (by omega)]
        exact hset j (by omega) e he
    · rw [State.lane_setLanes_of_ne _ _ _ _ _ (hx k (by omega))]
      exact hkeep x e rot' fun j hj => hx j (by omega)

/-! ### Runs of the local store -/

theorem State.rd_eq_of_bytes {s t : State} {a n : Nat} (h : ∀ i < n, t.byte (a + i) = s.byte (a + i)) : t.rd a n = s.rd a n :=
  List.map_congr_left fun i hi => h i (List.mem_range.1 hi)

/-- Blocks of `len` bytes stored one after the other from a, their bytes known of the state before: each reads back, and no other byte changes. -/
theorem State.forEach_wr_blocks (s : State) (a len : Nat) (g : State → Nat → List Byte) (hlen : ∀ u j, (g u j).length = len)
    (hg : ∀ u j b bs, g (State.wr u b bs) j = g u j) (ha : 0x4000000000 ≤ a) (cnt : Nat) (hend : a + len * cnt ≤ 0x10000000000) :
    let t := s.forEach (List.range cnt) fun u j => u.wr (a + len * j) (g u j)
    (∀ j, g t j = g s j) ∧ (∀ j < cnt, t.rd (a + len * j) len = g s j) ∧ ∀ y, (y < a ∨ a + len * cnt ≤ y) → t.byte y = s.byte y := by
  induction cnt with
  | zero => exact ⟨fun _ => rfl, by omega, fun _ _ => rfl⟩
  | succ k ih =>
    have hk : len * (k + 1) = len * k + len := Nat.mul_succ ..
    obtain ⟨hsame, hread, hkeep⟩ := ih (by omega)
    dsimp only
    rw [State.forEach_range_succ]
    refine ⟨fun j => (hg ..).trans (hsame j), fun j hj => ?_, fun y hy => ?_⟩
    · by_cases hjk : j = k
      · subst hjk
        have := State.rd_wr_high (s.forEach (List.range j) fun u j => u.wr (a + len * j) (g u j)) (a + len * j) (g (s.forEach (List.range j) fun u j => u.wr (a + len * j) (g u j)) j)
          (by omega) (by rw [hlen]; omega)
        rw [hlen] at this
        rw [this, hsame]
      · have hle : len * j + len ≤ len * k := by
          rw [← Nat.mul_succ]; exact Nat.mul_le_mul_left _ (by omega)
        rw [State.rd_eq_of_bytes fun i hi => State.byte_wr_high _ _ (a + len * j + i) _ (by omega) (by omega)]
        exact hread j (by omega)
    · rw [State.byte_wr_high _ _ _ _ (by omega) (by rw [hlen]; omega)]
      exact hkeep y (by omega)

end Sys2Proof.Machine
end

section
/-! VLD, VST and VOP (Tables 5-10 and 5-11, O28). -/

namespace Sys2Proof.Machine

/-! ### VLD and VST -/

/-- The offset in the local store that VLD and VST name. -/
def QOp.vecAddr (o : QOp) : Nat := (o.s (fld o.op 79 75) + BitVec.ofInt 64 (sfld o.op 74 43)).toNat

/-- The number of registers that VLD and VST move. -/
def QOp.vecCount (o : QOp) : Nat := fld o.op 87 80 + 1

theorem QOp.vecCount_le (o : QOp) : o.vecCount ≤ 256 := by
  unfold QOp.vecCount fld; omega

section
variable {s : State} {n : Nat} {o : QOp}

theorem vecOff_ok {len lo : Nat} (h64 : o.vecAddr % 64 = 0) (hend : o.vecAddr + len ≤ lstoreSize) (hlo : lo ≤ o.vecAddr) : vecOff n o len lo = .ok o.vecAddr := by
  unfold QOp.vecAddr at *
  simp only [vecOff]
  rw [if_neg (by omega), if_neg (by omega)]

/-- The registers that a VLD has loaded. -/
def State.loadedRegs (s : State) (n : Nat) (o : QOp) : State :=
  s.forEach (List.range o.vecCount) fun u j =>
    u.setLanes n (fld o.op 95 88 + j) o.trf.rot fun e => BitVec.ofNat 32 (u.rdN (lstoreBase n + o.vecAddr + 1024 * j + 4 * e) 4)

theorem State.vecLoad_ok (h64 : o.vecAddr % 64 = 0) (hend : o.vecAddr + 1024 * o.vecCount ≤ lstoreSize)
    (hp : s.poisonedAt (lstoreBase n + o.vecAddr) (1024 * o.vecCount) = none) :
    performVld s n o = .ok ((s.loadedRegs n o).micaCount n ((o.vecCount + 1) / 2)) := by
  unfold QOp.vecCount at *
  simp only [performVld, State.vecLoad, vecOff_ok h64 hend (Nat.zero_le _), bind, Except.bind, hp]
  rfl

theorem State.loadedRegs_shows (s : State) (n : Nat) (o : QOp) : s.CoresAlone (s.loadedRegs n o)
    ∧ (∀ j < o.vecCount, ∀ e < 256, (s.loadedRegs n o).lane n (fld o.op 95 88 + j) e o.trf.rot = BitVec.ofNat 32 (s.rdN (lstoreBase n + o.vecAddr + 1024 * j + 4 * e) 4))
    ∧ ∀ x e rot', (∀ j < o.vecCount, (fld o.op 95 88 + j) % 256 ≠ x % 256) → (s.loadedRegs n o).lane n x e rot' = s.lane n x e rot' :=
  s.forEach_setLanes n (fld o.op 95 88) o.trf.rot (fun u j e => BitVec.ofNat 32 (u.rdN (lstoreBase n + o.vecAddr + 1024 * j + 4 * e) 4))
    (fun u hu => by funext j e; rw [hu.rdN]) o.vecCount o.vecCount_le

theorem State.works_loadedRegs (hn : n < 16) (o : QOp) : s.Works (s.loadedRegs n o) n := .forEach hn _ fun u _ => u.works_setLanes ..

theorem State.lanes_forEach {α : Type} (s : State) (n : Nat) (l : List α) {f : State → α → State} (hf : ∀ u x, State.Lanes u (f u x) n) : s.Lanes (s.forEach l f) n := by
  unfold State.forEach
  induction l generalizing s with
  | nil => exact .of_core rfl
  | cons x l ih => exact (hf s x).trans (ih (f s x))

/-- The bytes of register r, lane by lane. -/
def State.regBytes (s : State) (n r rot : Nat) : List Byte := (List.range 256).flatMap fun e => leBytes 4 (s.lane n r e rot).toNat

theorem length_flatMap_leBytes (k : Nat) (f : Nat → Nat) : ((List.range k).flatMap fun e => leBytes 4 (f e)).length = 4 * k := by
  simp [List.length_flatMap, leBytes_length, Nat.mul_comm]

theorem State.length_regBytes (s : State) (n r rot : Nat) : (s.regBytes n r rot).length = 1024 := by
  rw [State.regBytes, length_flatMap_leBytes]

/-- The runs that a VST has stored. -/
def State.storedRegs (s : State) (n : Nat) (o : QOp) : State :=
  s.forEach (List.range o.vecCount) fun u j => u.wr (lstoreBase n + o.vecAddr + 1024 * j) (u.regBytes n (fld o.op 95 88 + j) o.trf.rot)

theorem State.vecStore_ok (h64 : o.vecAddr % 64 = 0) (hend : o.vecAddr + 1024 * o.vecCount ≤ lstoreSize) :
    performVst s n o = .ok ((s.storedRegs n o).micaCount n o.vecCount) := by
  unfold QOp.vecCount at *
  simp only [performVst, State.vecStore, vecOff_ok h64 hend (Nat.zero_le _), bind, Except.bind]
  rfl

theorem State.regBytes_congr {t : State} (h : t.lane n = s.lane n) (r rot : Nat) : t.regBytes n r rot = s.regBytes n r rot := by
  simp only [State.regBytes, h]

theorem State.storedRegs_shows (hn : n < 16) (hend : o.vecAddr + 1024 * o.vecCount ≤ lstoreSize) :
    (∀ j < o.vecCount, (s.storedRegs n o).rd (lstoreBase n + o.vecAddr + 1024 * j) 1024 = s.regBytes n (fld o.op 95 88 + j) o.trf.rot)
    ∧ ∀ y, (y < lstoreBase n + o.vecAddr ∨ lstoreBase n + o.vecAddr + 1024 * o.vecCount ≤ y) → (s.storedRegs n o).byte y = s.byte y :=
  (s.forEach_wr_blocks (lstoreBase n + o.vecAddr) 1024 (fun u j => u.regBytes n (fld o.op 95 88 + j) o.trf.rot) (fun u _ => u.length_regBytes ..)
    (fun u j b bs => State.regBytes_congr (u.lane_wr ..) _ _) (lstoreBase_high ..) o.vecCount (by unfold lstoreBase lstoreSize at *; omega)).2

theorem State.stores_storedRegs (s : State) (n : Nat) (o : QOp) : s.Stores (s.storedRegs n o) := s.stores_forEach _ fun u _ => u.stores_wr ..

theorem State.free_storedRegs (s : State) (n : Nat) (o : QOp) : (s.storedRegs n o).free = s.free := by
  unfold State.storedRegs State.forEach
  generalize List.range o.vecCount = l
  induction l generalizing s with
  | nil => rfl
  | cons x l ih => rw [List.foldl_cons, ih, State.wr_free]

end

section
variable {s : State} {n : Fin 16} {op : OpWord}

theorem vld_runs (hgo : s.OpGoes n op [(95, 43)] .mica) (hop : opOf op = 0x40) (h64 : (s.opRecord n op).vecAddr % 64 = 0)
    (hend : (s.opRecord n op).vecAddr + 1024 * (s.opRecord n op).vecCount ≤ 0x800000)
    (hp : s.poisonedAt (lstoreBase n + (s.opRecord n op).vecAddr) (1024 * (s.opRecord n op).vecCount) = none) :
    ∃ t, s.engineOp n op [(95, 43)] = .next t ∧ (∃ v, s.OpRan t n op .mica { s.core n with vregs := v }) ∧ (t.mem = s.mem ∧ t.poison = s.poison ∧ t.out = s.out)
      ∧ t.free = s.free ∧ t.objN (kCore n 2 2) = (s.objN (kCore n 2 2) + ((s.opRecord n op).vecCount + 1) / 2) % 2 ^ 64
      ∧ (∀ j < (s.opRecord n op).vecCount, ∀ e < 256, t.lane n (fld op 95 88 + j) e (s.core n).trf.rot
          = BitVec.ofNat 32 (s.rdN (lstoreBase n + (s.opRecord n op).vecAddr + 1024 * j + 4 * e) 4))
      ∧ ∀ x < 256, (∀ j < (s.opRecord n op).vecCount, (fld op 95 88 + j) % 256 ≠ x) → ∀ e < 256, t.lane n x e 0 = s.lane n x e 0 := by
  have hn := n.isLt
  obtain ⟨e, he, hrun⟩ := State.engineOp_runs (f := performVld) hgo hop (by decide) (by decide) fun v o h => by simp only [performOp, h]
  obtain ⟨hcores, hset, hkeep⟩ := e.loadedRegs_shows n (s.opRecord n op)
  have hstore := he.sameStore.trans hcores.sameStore
  have hw := (e.works_loadedRegs hn (s.opRecord n op)).trans hn (State.works_micaCount _ hn (((s.opRecord n op).vecCount + 1) / 2))
  have hl : e.Lanes (e.loadedRegs n (s.opRecord n op)) n := e.lanes_forEach n _ fun u _ => u.lanes_setLanes ..
  refine ⟨_, hrun _ (State.vecLoad_ok h64 hend (by rw [he.sameStore.poisonedAt]; exact hp)),
    he.opRan_lanes hn (by decide) hw (hl.trans (.of_core (State.core_micaCount ..))), ⟨?_, ?_, ?_⟩, ?_, ?_, fun j hj i hi => ?_, fun x hx hne i hi => ?_⟩
  · rw [State.mem_markRan, State.mem_micaCount, hstore.mem]
  · rw [State.poison_markRan, State.poison_micaCount, hstore.poison]
  · rw [State.out_markRan, State.out_micaCount, hstore.out]
  · rw [State.free_markRan, State.free_micaCount, hstore.free]
  · rw [State.objN_markRan, State.objN_micaCount _ hn, hcores.objN, he.workObjN (.inr rfl) (by decide)]
  · rw [State.lane_markRan, State.lane_micaCount, ← he.sameStore.rdN]
    exact hset j hj i hi
  · rw [State.lane_markRan, State.lane_micaCount, ← he.lane]
    exact hkeep x i 0 fun j hj => by rw [Nat.mod_eq_of_lt hx]; exact hne j hj

theorem State.byte_micaCount (u : State) (n k : Nat) : (u.micaCount n k).byte = u.byte :=
  State.SameStore.byte ⟨State.mem_micaCount .., State.poison_micaCount .., State.ileave_micaCount .., State.free_micaCount .., State.out_micaCount ..⟩

theorem vst_runs (hgo : s.OpGoes n op [(95, 43)] .mica) (hop : opOf op = 0x41) (h64 : (s.opRecord n op).vecAddr % 64 = 0)
    (hend : (s.opRecord n op).vecAddr + 1024 * (s.opRecord n op).vecCount ≤ 0x800000) :
    ∃ t, s.engineOp n op [(95, 43)] = .next t ∧ s.OpRan t n op .mica (s.core n) ∧ t.out = s.out ∧ t.free = s.free
      ∧ t.objN (kCore n 2 2) = (s.objN (kCore n 2 2) + (s.opRecord n op).vecCount) % 2 ^ 64
      ∧ (∀ j < (s.opRecord n op).vecCount, t.rd (lstoreBase n + (s.opRecord n op).vecAddr + 1024 * j) 1024 = s.regBytes n (fld op 95 88 + j) (s.core n).trf.rot)
      ∧ ∀ y, (y < lstoreBase n + (s.opRecord n op).vecAddr ∨ lstoreBase n + (s.opRecord n op).vecAddr + 1024 * (s.opRecord n op).vecCount ≤ y) → t.byte y = s.byte y := by
  have hn := n.isLt
  obtain ⟨e, he, hrun⟩ := State.engineOp_runs (f := performVst) hgo hop (by decide) (by decide) fun v o h => by simp only [performOp, h]
  have hs := e.stores_storedRegs n (s.opRecord n op)
  obtain ⟨hread, hkeep⟩ := e.storedRegs_shows hn hend
  refine ⟨_, hrun _ (State.vecStore_ok h64 hend), he.opRan_same hn (by decide) ((hs.works n).trans hn (State.works_micaCount _ hn _)) ?_, ?_, ?_, ?_, fun j hj => ?_, fun y hy => ?_⟩
  · rw [State.core_micaCount, hs.core]
  · rw [State.out_markRan, State.out_micaCount, hs.out, he.sameStore.out]
  · rw [State.free_markRan, State.free_micaCount, State.free_storedRegs, he.sameStore.free]
  · rw [State.objN_markRan, State.objN_micaCount _ hn, State.objN, hs.obj, he.workObj (.inr rfl) (by decide)]; rfl
  · rw [← State.regBytes_congr he.lane]
    refine Eq.trans ?_ (hread j hj)
    exact State.rd_eq_of_bytes fun i _ => by rw [State.byte_markRan, State.byte_micaCount]
  · rw [State.byte_markRan, State.byte_micaCount, ← he.sameStore.byte]
    exact hkeep y hy

end

/-! ### VOP -/

section
variable {s : State} {n : Nat} {o : QOp}

/-- The lane format and the number of values of a VOP's lanes, and value i of lane e of a register. -/
abbrev QOp.laneFmt (o : QOp) : Nat × Nat := Machine.laneFmt (fld o.op 55 53)
abbrev State.vopValue (s : State) (n : Nat) (o : QOp) (r e i : Nat) : Nat := subLane (elemBits o.laneFmt.1) i (s.lane n r e o.trf.rot)

/-- Value i of lane e of a VOP's second operand: a register's, or the scalar. -/
abbrev State.vopSecond (s : State) (n : Nat) (o : QOp) (e i : Nat) : Nat :=
  if 128 ≤ fld o.op 95 88 then scalarB o.laneFmt.1 (o.s (fld o.op 43 39)) else s.vopValue n o (fld o.op 71 64) e i

/-- The lanes that an elementwise VOP writes. -/
def State.vopLanes (s : State) (n : Nat) (o : QOp) (e : Nat) : Word32 :=
  packLane (elemBits o.laneFmt.1) ((List.range o.laneFmt.2).map fun i =>
    laneFn o.laneFmt.1 (fld o.op 95 88 % 128) (s.vopValue n o (fld o.op 79 72) e i) (s.vopSecond n o e i) (s.vopValue n o (fld o.op 63 56) e i))

theorem performVop_elementwise (hlanes : fld o.op 55 53 ≤ 5) (hfunc : fld o.op 95 88 % 128 ∉ [0x18, 0x20, 0x21, 0x22])
    (hknown : micaKnown (isInt o.laneFmt.1) (fld o.op 95 88 % 128) = true) :
    performVop s n o = .ok ((s.setLanes n (fld o.op 87 80) o.trf.rot (s.vopLanes n o)).micaCount n 1) := by
  simp only [List.mem_cons, List.not_mem_nil, or_false, not_or] at hfunc
  obtain ⟨h18, h20, h21, h22⟩ := hfunc
  simp only [QOp.laneFmt] at hknown
  simp only [performVop]
  rw [if_neg (by simp only [hknown, h18, Bool.or_true, Bool.not_true, Bool.false_eq_true, false_and, or_false, not_lt]; exact hlanes),
    if_neg (by simp [h20, h21, h22]), if_neg h18]
  rfl

/-- The lane 0 that a reduction writes (R101). -/
def State.vopReduced (s : State) (n : Nat) (o : QOp) : Word32 :=
  let f := if fld o.op 95 88 % 128 = 0x20 then 0x00 else if fld o.op 95 88 % 128 = 0x21 then 0x05 else 0x04
  packLane (elemBits o.laneFmt.1) ((List.range o.laneFmt.2).map fun i =>
    (treeReduce (fun x y => laneFn o.laneFmt.1 f x y 0) ((List.range 256).map fun e => s.vopValue n o (fld o.op 79 72) e i)).getD 0)

theorem performVop_reduces (hlanes : fld o.op 55 53 ≤ 5) (hfunc : fld o.op 95 88 % 128 ∈ [0x20, 0x21, 0x22]) :
    performVop s n o = .ok (((s.setLanes n (fld o.op 87 80) o.trf.rot fun e => if e = 0 then s.vopReduced n o else (Config.freeValue (s.free + e)).setWidth 32).tookFree 256).micaCount n 1) := by
  simp only [List.mem_cons, List.not_mem_nil, or_false] at hfunc
  have hred : (fld o.op 95 88 % 128 == 0x20 || fld o.op 95 88 % 128 == 0x21 || fld o.op 95 88 % 128 == 0x22) = true := by
    rcases hfunc with h | h | h <;> simp [h]
  have h18 : fld o.op 95 88 % 128 ≠ 0x18 := by omega
  simp only [performVop, hred]
  rw [if_neg (by simp only [h18, Bool.true_or, Bool.not_true, Bool.false_eq_true, false_and, or_false, not_lt]; exact hlanes), if_pos trivial]
  rfl

/-- The lanes that a conversion writes, which side is the source being `dir`. -/
def State.vopConverted (s : State) (n : Nat) (o : QOp) (dir : Bool) (e : Nat) : Word32 :=
  packLane (elemBits o.laneFmt.1) ((List.range o.laneFmt.2).map fun i => vopConvert dir o.laneFmt.1 (fld o.op 51 44) .rne (s.vopValue n o (fld o.op 79 72) e i))

theorem performVop_converts (hlanes : fld o.op 55 53 ≤ 5) (hfunc : fld o.op 95 88 % 128 = 0x18) (hknown : micaKnown (isInt o.laneFmt.1) 0x18 = true)
    (hfmt : fmtKnown (fld o.op 51 44) = true) (hraw : isRaw (fld o.op 51 44) = false) (hsr : bit o.op 52 = false) :
    performVop s n o = .ok (((s.setLanes n (fld o.op 87 80) o.trf.rot (s.vopConverted n o (fld s.freeNow 0 0 == 1))).tookFree 1).micaCount n 1) := by
  simp only [QOp.laneFmt] at hknown
  have hmode : ∀ k i, (List.replicate k RMode.rne).getD i .rne = .rne := fun k i => by
    rw [List.getD_eq_getElem?_getD, List.getElem?_replicate]; split <;> rfl
  simp only [performVop, hfunc, hknown, hfmt, hraw, hsr, drawModes, Bool.false_eq_true, if_false, hmode]
  rw [if_neg (by simpa using hlanes), if_neg (by decide), if_pos trivial]
  rfl

end

section
variable {s : State} {n : Fin 16} {op : OpWord}

/-- A VOP that writes the lanes `f` of its destination and takes k free values changes no other register. -/
theorem vop_writes (hgo : s.OpGoes n op [(95, 39)] .mica) (hop : opOf op = 0x42) {f : Nat → Word32} {k : Nat}
    (hperf : ∀ e, s.SameStore e → e.lane n = s.lane n → performVop e n (s.opRecord n op)
      = .ok (((e.setLanes n (fld op 87 80) (s.core n).trf.rot f).tookFree k).micaCount n 1)) :
    ∃ t, s.engineOp n op [(95, 39)] = .next t ∧ (∃ v, s.OpRan t n op .mica { s.core n with vregs := v }) ∧ (t.mem = s.mem ∧ t.poison = s.poison ∧ t.out = s.out)
      ∧ t.free = s.free + k ∧ t.objN (kCore n 2 2) = (s.objN (kCore n 2 2) + 1) % 2 ^ 64
      ∧ (∀ x < 256, x ≠ fld op 87 80 → ∀ e < 256, t.lane n x e 0 = s.lane n x e 0) ∧ ∀ e < 256, t.lane n (fld op 87 80) e (s.core n).trf.rot = f e := by
  have hn := n.isLt
  have hvd : fld op 87 80 < 256 := by unfold fld; omega
  obtain ⟨e, he, hrun⟩ := State.engineOp_runs (f := performVop) hgo hop (by decide) (by decide) fun v o h => by simp only [performOp, h]
  have hlane : ((e.setLanes n (fld op 87 80) (s.core n).trf.rot f).tookFree k).lane n = (e.setLanes n (fld op 87 80) (s.core n).trf.rot f).lane n :=
    State.lane_congr rfl
  have hl := (e.lanes_setLanes n (fld op 87 80) (s.core n).trf.rot f).trans (.of_core ((State.core_micaCount (State.tookFree _ k) n 1 n).trans (State.core_tookFree ..)))
  refine ⟨_, hrun _ (hperf e he.sameStore he.lane), he.opRan_lanes hn (by decide) ?_ hl, ⟨?_, ?_, ?_⟩, ?_, ?_, fun x hx hne i _ => ?_, fun i hi => ?_⟩
  · exact ((e.works_setLanes ..).trans hn (State.works_tookFree ..)).trans hn (State.works_micaCount _ hn 1)
  · rw [State.mem_markRan, State.mem_micaCount]; exact he.sameStore.mem
  · rw [State.poison_markRan, State.poison_micaCount]; exact he.sameStore.poison
  · rw [State.out_markRan, State.out_micaCount]; exact he.sameStore.out
  · rw [State.free_markRan, State.free_micaCount]; exact congrArg (· + k) he.sameStore.free
  · rw [State.objN_markRan, State.objN_micaCount _ hn, ← he.workObjN (.inr rfl) (by decide)]; rfl
  · rw [State.lane_markRan, State.lane_micaCount, hlane, State.lane_setLanes_of_ne _ _ _ _ _ (by omega), he.lane]
  · rw [State.lane_markRan, State.lane_micaCount, hlane, State.lane_setLanes_self _ _ _ _ _ rfl hi]

end

end Sys2Proof.Machine
end

section
/-! SHADE and AFOLD, and what the ops of Mica's vector registers do (R213, R306, O28). -/

namespace Sys2Proof.Machine

/-! ### AFOLD -/

section
variable {s e : State} {n : Nat} {o : QOp}

theorem State.SameStore.foldBytes (h : s.SameStore e) : e.foldBytes = s.foldBytes := by
  funext n d; simp only [State.foldBytes, h.elemCode, h.scaleCode]

/-- A core with bytes folded into the signature of a slot (R213). -/
def CoreSt.folded (g : Nat) (bs : List Byte) (c : CoreSt) : CoreSt := c.setSlot g { c.slot g with sig := crc64Fold (c.slot g).sig bs }

theorem CoreSt.aside_folded (g : Nat) (bs : List Byte) (q : Queue) : CoreSt.aside (CoreSt.folded g bs) q := fun c x => ⟨by cases q <;> rfl, rfl⟩

theorem performAfold_ok (h : s.tfDesc n (o.d (fld o.op 93 90)) false = none) : ∃ bound, performAfold s n o
    = .ok ((s.upCore n (CoreSt.folded (fld o.op 95 94) (s.foldBytes n (o.d (fld o.op 93 90))))).micaCountOpen n bound) := by
  simp only [performAfold, h, firstErr_ok (l := [none]) (by simp), bind, Except.bind]
  exact ⟨_, rfl⟩

end

theorem State.core_micaCountOpen (s : State) (n bound j : Nat) : (s.micaCountOpen n bound).core j = s.core j := by
  rw [State.micaCountOpen, State.core_tookFree, State.core_micaCount]

theorem State.sameStore_micaCount (s : State) (n k : Nat) : s.SameStore (s.micaCount n k) :=
  ⟨State.mem_micaCount .., State.poison_micaCount .., State.ileave_micaCount .., State.free_micaCount .., State.out_micaCount ..⟩

section
variable (s : State) (k : Nat)
theorem State.mem_tookFree : (s.tookFree k).mem = s.mem := rfl
theorem State.poison_tookFree : (s.tookFree k).poison = s.poison := rfl
theorem State.out_tookFree : (s.tookFree k).out = s.out := rfl
theorem State.ileave_tookFree : (s.tookFree k).ileave = s.ileave := rfl
end

section
variable (s : State) (n bound : Nat)
theorem State.mem_micaCountOpen : (s.micaCountOpen n bound).mem = s.mem := by rw [State.micaCountOpen, State.mem_tookFree, State.mem_micaCount]
theorem State.poison_micaCountOpen : (s.micaCountOpen n bound).poison = s.poison := by rw [State.micaCountOpen, State.poison_tookFree, State.poison_micaCount]
theorem State.out_micaCountOpen : (s.micaCountOpen n bound).out = s.out := by rw [State.micaCountOpen, State.out_tookFree, State.out_micaCount]
theorem State.ileave_micaCountOpen : (s.micaCountOpen n bound).ileave = s.ileave := by rw [State.micaCountOpen, State.ileave_tookFree, State.ileave_micaCount]
end

section
variable {s : State} {n : Fin 16} {op : OpWord}

theorem afold_runs (hgo : s.OpGoes n op [(95, 90)] .mica) (hop : opOf op = 0x91) (hd : s.tfDesc n ((s.opRecord n op).d (fld op 93 90)) false = none) :
    ∃ t, s.engineOp n op [(95, 90)] = .next t ∧ (t.mem = s.mem ∧ t.poison = s.poison ∧ t.out = s.out)
      ∧ s.OpRan t n op .mica ((s.core n).folded (fld op 95 94) (s.foldBytes n ((s.opRecord n op).d (fld op 93 90)))) := by
  have hn := n.isLt
  obtain ⟨e, he, hrun⟩ := State.engineOp_runs (f := performAfold) hgo hop (by decide) (by decide) fun v o h => by simp only [performOp, h]
  obtain ⟨bound, hperf⟩ := performAfold_ok (s := e) (n := n) (o := s.opRecord n op) (by rw [he.tfDesc hn]; exact hd)
  rw [he.sameStore.foldBytes] at hperf
  refine ⟨_, hrun _ hperf, ⟨?_, ?_, ?_⟩, he.opRan hn (by decide) ((State.works_upCore ..).trans hn (State.works_micaCountOpen _ hn bound)) (f := CoreSt.folded (fld op 95 94) (s.foldBytes n ((s.opRecord n op).d (fld op 93 90)))) (CoreSt.aside_folded _ _ _) ?_⟩
  · rw [State.mem_markRan, State.mem_micaCountOpen]; exact he.sameStore.mem
  · rw [State.poison_markRan, State.poison_micaCountOpen]; exact he.sameStore.poison
  · rw [State.out_markRan, State.out_micaCountOpen]; exact he.sameStore.out
  · rw [State.core_micaCountOpen, State.upCore_eq, State.core_setCore, if_pos rfl]; rfl

end

/-! ### Runs of four bytes in a stored block -/

theorem leNat_lt (bs : List Byte) : leNat bs < 256 ^ bs.length := by
  induction bs with
  | nil => exact Nat.one_pos
  | cons b bs ih =>
    have := b.isLt
    rw [leNat, List.length_cons, Nat.pow_succ]
    omega

theorem State.rdN_lt (s : State) (a : Nat) : s.rdN a 4 < 2 ^ 32 := by
  have := leNat_lt (s.rd a 4)
  rwa [State.rd_length] at this

/-- Word i of a block of little-endian words reads as stored. -/
theorem State.rdN_block {s : State} {a k : Nat} {f : Nat → Nat} (h : s.rd a (4 * k) = (List.range k).flatMap fun i => leBytes 4 (f i)) {i : Nat} (hi : i < k) :
    s.rdN (a + 4 * i) 4 = f i % 2 ^ 32 := by
  obtain ⟨m, rfl⟩ : ∃ m, k = i + (1 + m) := ⟨k - i - 1, by omega⟩
  rw [show 4 * (i + (1 + m)) = 4 * i + (4 + 4 * m) by omega, State.rd_add, State.rd_add, List.range_add, List.range_add, List.flatMap_append, List.map_append,
    List.flatMap_append] at h
  have h1 := (List.append_inj h (by rw [State.rd_length, length_flatMap_leBytes])).2
  have h2 := (List.append_inj h1 (by simp [State.rd_length, leBytes_length])).1
  rw [State.rdN, h2]
  simp [leNat_leBytes]

/-! ### SHADE -/

/-- The core belongs to the graphics partition and the op stands outside every slot (R306). -/
structure State.Shades (s : State) (n : Nat) (o : QOp) : Prop where
  gfx : ∃ p, s.gfxPart = some p ∧ s.partOf (s.holder n) = p
  alone : o.inGroup = false

/-- The header of a batch of one input and one output, whose program at `prog` is one op word (R306). -/
structure OneOpBatch (head : List Byte) (prog : Nat) : Prop where
  kind : 1 ≤ leAt head 0 1 ∧ leAt head 0 1 ≤ 2
  reserved : leAt head 3 1 = 0 ∧ leAt head 0x14 44 = 0
  inputs : leAt head 1 1 = 1
  exports : leAt head 2 1 = 1
  count : 1 ≤ leAt head 4 2 ∧ leAt head 4 2 ≤ 256
  length : leAt head 8 2 = 1
  first : leAt head 6 2 + 1 ≤ 16384
  fits : prog + 16 * (leAt head 6 2 + 1) ≤ lstoreSize

section
variable {s u : State} {n : Nat} {o : QOp} {b prog count : Nat} {head : List Byte}

/-- The op word of such a batch's program. -/
def State.batchOp (s : State) (n prog : Nat) (head : List Byte) : OpWord := BitVec.ofNat 128 (s.rdN (lstoreBase n + prog + 16 * leAt head 6 2) 16)

/-- A batch's input of `count` lanes loaded into v0. -/
def State.batchLoaded (s : State) (n : Nat) (o : QOp) (b count : Nat) : State :=
  s.setLanes n 0 o.trf.rot fun i => if i < count then BitVec.ofNat 32 (s.rdN (lstoreBase n + b + 0x40 + 4 * i) 4) else s.lane n 0 i o.trf.rot

/-- Lane i of v0 as a batch's output holds it. -/
def State.exportLane (s : State) (n : Nat) (o : QOp) (count i : Nat) : Nat :=
  if i < count then (s.lane n 0 i o.trf.rot).toNat else (Config.freeValue (s.free + i)).toNat

/-- The output of v0. -/
def State.batchExport (s : State) (n : Nat) (o : QOp) (b count : Nat) : State :=
  (s.wr (lstoreBase n + b + 0x1c40) ((List.range 256).flatMap fun i => leBytes 4 (s.exportLane n o count i))).tookFree 256

section
variable (h : s.Shades n o) (hb : (o.s (fld o.op 90 86)).toNat = b) (hprog : (o.s (fld o.op 95 91)).toNat = prog)
  (hbfits : b + 0x4000 ≤ lstoreSize) (hpfits : prog ≤ lstoreSize) (hhead : s.rd (lstoreBase n + b) 64 = head)
include h hb hprog hbfits hpfits hhead

theorem performShade_empty (h0 : leAt head 0 1 = 0) : performShade s n o = .ok (s.micaCount n 1) := by
  obtain ⟨p, hp, hm⟩ := h.gfx
  simp only [performShade, hp, hm, h.alone, hb, hprog, hhead]
  rw [if_neg (by simp), if_neg (by omega)]
  exact if_pos h0

theorem performShade_oneOp (hone : OneOpBatch head prog) (hu : (s.batchLoaded n o b (leAt head 4 2)).shadeRun n o [s.batchOp n prog head] = .ok u) :
    performShade s n o = .ok (((u.batchExport n o b (leAt head 4 2)).micaCount n 2).emit (.garnetNotify n (leAt head 0xc 4) (leAt head 0x10 4))) := by
  obtain ⟨p, hp, hm⟩ := h.gfx
  obtain ⟨hkind, hres, hin, hex, hcount, hlen, hfirst, hfits⟩ := hone
  simp only [performShade, hp, hm, h.alone, hb, hprog, hhead]
  rw [if_neg (by simp), if_neg (by omega), if_neg (by omega), if_neg (by omega), if_neg (by omega), if_neg (by omega)]
  simp only [hin, hex, hlen, List.range_one, State.forEach, List.foldl_cons, List.foldl_nil, List.map_cons, List.map_nil, Nat.mul_zero, Nat.add_zero]
  change Except.bind ((s.batchLoaded n o b (leAt head 4 2)).shadeRun n o [s.batchOp n prog head]) _ = _
  rw [hu]
  rfl

end

/-- A VOP that takes absolute values of binary32 lanes, from v0 into v0 (Table 5-11). -/
structure AbsOp (x : OpWord) : Prop where
  header : fld x 119 103 = 0
  opcode : opOf x = 0x42
  func : fld x 95 88 = 0x14
  lanes : fld x 55 53 = 0
  dest : fld x 87 80 = 0
  source : fld x 79 72 = 0

/-- The absolute value of a lane's code. -/
def absLane (c : Nat) : Word32 := packLane 32 [laneFn codeFP32 0x14 c 0 0]

theorem laneFn_abs (a b c : Nat) : laneFn codeFP32 0x14 a b c = laneFn codeFP32 0x14 a 0 0 := by
  have hfp : isInt codeFP32 = false := rfl
  simp only [laneFn, micaF, hfp, Bool.false_eq_true, if_false]

/-- The lanes that such a VOP writes. -/
theorem State.vopLanes_abs {x : OpWord} (hx : AbsOp x) (s : State) (n : Nat) (o : QOp) (i : Nat) :
    s.vopLanes n { o with op := x } i = absLane (s.lane n 0 i o.trf.rot).toNat := by
  have hbits : elemBits codeFP32 = 32 := rfl
  have hlane := (s.lane n 0 i o.trf.rot).isLt
  simp only [State.vopLanes, State.vopValue, QOp.laneFmt, hx.lanes, hx.func, hx.source, laneFmt, hbits, List.range_one, List.map_cons, List.map_nil]
  rw [laneFn_abs, absLane, subLane, Nat.mul_zero, Nat.pow_zero, Nat.div_one, Nat.mod_eq_of_lt hlane]

theorem State.shadeRun_abs {x : OpWord} (hx : AbsOp x) (s : State) (n : Nat) (o : QOp) :
    s.shadeRun n o [x] = .ok ((s.setLanes n 0 o.trf.rot (s.vopLanes n { o with op := x })).micaCount n 1) := by
  have hvop : s.shadeOp n o x = .ok ((s.setLanes n 0 o.trf.rot (s.vopLanes n { o with op := x })).micaCount n 1) := by
    rw [State.shadeOp, if_neg (by rw [hx.header]; decide)]
    simp only [hx.opcode]
    rw [performVop_elementwise (by simp only [hx.lanes]; decide) (by simp only [hx.func]; decide) (by simp only [QOp.laneFmt, hx.func, hx.lanes]; decide)]
    simp only [hx.dest]
  simp only [State.shadeRun, hvop]

/-- A batch shaded by one absolute value, before it is exported. -/
def State.batchShaded (s : State) (n : Nat) (o : QOp) (b count : Nat) (x : OpWord) : State :=
  ((s.batchLoaded n o b count).setLanes n 0 o.trf.rot ((s.batchLoaded n o b count).vopLanes n { o with op := x })).micaCount n 1

theorem State.shadeRun_batchLoaded {x : OpWord} (hx : AbsOp x) (s : State) (n : Nat) (o : QOp) (b count : Nat) :
    (s.batchLoaded n o b count).shadeRun n o [x] = .ok (s.batchShaded n o b count x) := State.shadeRun_abs hx ..

theorem State.lane_batchShaded {x : OpWord} (hx : AbsOp x) (s : State) (n : Nat) (o : QOp) (b : Nat) {count i : Nat} (hi : i < 256) (hc : i < count) :
    (s.batchShaded n o b count x).lane n 0 i o.trf.rot = absLane (s.rdN (lstoreBase n + b + 0x40 + 4 * i) 4) := by
  rw [State.batchShaded, State.lane_micaCount, State.lane_setLanes_self _ _ _ _ _ rfl hi, State.vopLanes_abs hx, State.batchLoaded, State.lane_setLanes_self _ _ _ _ _ rfl hi,
    if_pos hc, BitVec.toNat_ofNat, Nat.mod_eq_of_lt (s.rdN_lt _)]

theorem State.works_batchShaded (hn : n < 16) (x : OpWord) : s.Works (s.batchShaded n o b count x) n :=
  ((s.works_setLanes ..).trans hn (State.works_setLanes ..)).trans hn (State.works_micaCount _ hn 1)

theorem State.lanes_batchShaded (s : State) (n : Nat) (o : QOp) (b count : Nat) (x : OpWord) : s.Lanes (s.batchShaded n o b count x) n :=
  ((s.lanes_setLanes ..).trans (State.lanes_setLanes ..)).trans (.of_core (State.core_micaCount ..))

theorem State.sameStore_batchShaded (s : State) (n : Nat) (o : QOp) (b count : Nat) (x : OpWord) : s.SameStore (s.batchShaded n o b count x) :=
  ((s.coresAlone_upCore ..).trans (State.coresAlone_upCore ..)).sameStore.trans (State.sameStore_micaCount ..)

theorem length_exportBytes (s : State) (n : Nat) (o : QOp) (count : Nat) : ((List.range 256).flatMap fun i => leBytes 4 (s.exportLane n o count i)).length = 1024 := by
  rw [length_flatMap_leBytes]

/-- An output changes no byte beside its run. -/
theorem State.byte_batchExport (s : State) (n : Nat) (o : QOp) (b count : Nat) {y : Nat} (hy : y < 0x10000000000)
    (hside : y < lstoreBase n + b + 0x1c40 ∨ lstoreBase n + b + 0x2040 ≤ y) : (s.batchExport n o b count).byte y = s.byte y := by
  rw [State.batchExport, State.byte_tookFree _ _ hy]
  refine s.byte_wr_high _ y _ (by unfold lstoreBase; omega) ?_
  rw [length_exportBytes]
  omega

theorem State.works_batchExport (s : State) (n : Nat) (o : QOp) (b count j : Nat) : s.Works (s.batchExport n o b count) j :=
  ((s.stores_wr ..).trans (State.stores_tookFree ..)).works j

theorem State.core_batchExport (s : State) (n : Nat) (o : QOp) (b count j : Nat) : (s.batchExport n o b count).core j = s.core j :=
  ((s.stores_wr ..).trans (State.stores_tookFree ..)).core j

theorem State.out_batchExport (s : State) (n : Nat) (o : QOp) (b count : Nat) : (s.batchExport n o b count).out = s.out :=
  ((s.stores_wr ..).trans (State.stores_tookFree ..)).out

/-- An exported lane reads back. -/
theorem State.rdN_batchExport (s : State) {n b i count : Nat} (hn : n < 16) (o : QOp) (hb : b + 0x4000 ≤ lstoreSize) (hi : i < 256) (hc : i < count) :
    (s.batchExport n o b count).rdN (lstoreBase n + b + 0x1c40 + 4 * i) 4 = (s.lane n 0 i o.trf.rot).toNat := by
  have hend : lstoreBase n + b + 0x1c40 + 1024 ≤ 0x10000000000 := by unfold lstoreBase lstoreSize at *; omega
  have hblock : (s.batchExport n o b count).rd (lstoreBase n + b + 0x1c40) (4 * 256) = (List.range 256).flatMap fun i => leBytes 4 (s.exportLane n o count i) := by
    have hwr := s.rd_wr_high (lstoreBase n + b + 0x1c40) ((List.range 256).flatMap fun i => leBytes 4 (s.exportLane n o count i)) (by unfold lstoreBase; omega)
      (by rw [length_exportBytes]; exact hend)
    rw [length_exportBytes] at hwr
    rw [← hwr]
    exact State.rd_eq_of_bytes fun j hj => State.byte_tookFree _ _ (by omega)
  have hlane := (s.lane n 0 i o.trf.rot).isLt
  rw [State.rdN_block hblock hi, State.exportLane, if_pos hc, Nat.mod_eq_of_lt hlane]

end

section
variable {s e : State} {n : Fin 16} {op : OpWord} {q : Queue}

theorem State.Enters.shades (he : s.Enters e n op q) {o : QOp} (h : s.Shades n o) : e.Shades n o := by
  have hn := n.isLt
  obtain ⟨p, hp, hm⟩ := h.gfx
  refine ⟨⟨p, ?_, ?_⟩, h.alone⟩
  · rw [← hp]
    have hflag : ∀ p, e.oBit (kPart p 3) 0 = s.oBit (kPart p 3) 0 := fun p => by
      rw [State.oBit, State.oBit, he.obj_eq (by simp only [kPart, okey]; omega)]
    simp only [State.gfxPart, hflag]
  · rw [← hm, he.holder, State.partOf, he.objN_instance hn (by simp only [kInst, okey]; omega)]
    rfl

/-- What a SHADE asks of the core, and of the operands that name the batch and the program. -/
theorem State.shades_of_gfx (hgfx : ∃ p, s.gfxPart = some p ∧ s.partOf (s.holder n) = p) (hslots : (s.core n).openSlots = []) : s.Shades n (s.opRecord n op) :=
  ⟨hgfx, by simp [State.opRecord, hslots]⟩

theorem shade_empty_runs (hgo : s.OpGoes n op [(95, 86)] .mica) (hop : opOf op = 0x4f) (h : s.Shades n (s.opRecord n op))
    (hb : ((s.opRecord n op).s (fld op 90 86)).toNat + 0x4000 ≤ 0x800000) (hprog : ((s.opRecord n op).s (fld op 95 91)).toNat ≤ 0x800000)
    (h0 : leAt (s.rd (lstoreBase n + ((s.opRecord n op).s (fld op 90 86)).toNat) 64) 0 1 = 0) :
    ∃ t, s.engineOp n op [(95, 86)] = .next t ∧ s.OpRan t n op .mica (s.core n) ∧ (t.mem = s.mem ∧ t.poison = s.poison ∧ t.out = s.out)
      ∧ t.objN (kCore n 2 2) = (s.objN (kCore n 2 2) + 1) % 2 ^ 64 := by
  have hn := n.isLt
  obtain ⟨e, he, hrun⟩ := State.engineOp_runs (f := performShade) hgo hop (by decide) (by decide) fun v o h => by simp only [performOp, h]
  rw [← he.sameStore.rd] at h0
  have hstore := he.sameStore.trans (State.sameStore_micaCount e n 1)
  refine ⟨_, hrun _ (performShade_empty (he.shades h) rfl rfl hb hprog rfl h0), he.opRan_same hn (by decide) (e.works_micaCount hn 1) (State.core_micaCount ..),
    ⟨?_, ?_, ?_⟩, ?_⟩
  · rw [State.mem_markRan]; exact hstore.mem
  · rw [State.poison_markRan]; exact hstore.poison
  · rw [State.out_markRan]; exact hstore.out
  rw [State.objN_markRan, State.objN_micaCount _ hn, he.workObjN (.inr rfl) (by decide)]

theorem shade_abs_runs (hgo : s.OpGoes n op [(95, 86)] .mica) (hop : opOf op = 0x4f) (h : s.Shades n (s.opRecord n op)) {b prog : Nat} {head : List Byte}
    (hb : ((s.opRecord n op).s (fld op 90 86)).toNat = b) (hbfits : b + 0x4000 ≤ lstoreSize) (hprog : ((s.opRecord n op).s (fld op 95 91)).toNat = prog) (hpfits : prog ≤ lstoreSize)
    (hhead : s.rd (lstoreBase n + b) 64 = head) (hone : OneOpBatch head prog) (hx : AbsOp (s.batchOp n prog head)) :
    ∃ t, s.engineOp n op [(95, 86)] = .next t ∧ (∃ v, s.OpRan t n op .mica { s.core n with vregs := v }) ∧ t.out = .garnetNotify n (leAt head 0xc 4) (leAt head 0x10 4) :: s.out
      ∧ (∀ y < 0x10000000000, (y < lstoreBase n + b + 0x1c40 ∨ lstoreBase n + b + 0x2040 ≤ y) → t.byte y = s.byte y)
      ∧ ∀ i < leAt head 4 2, t.rdN (lstoreBase n + b + 0x1c40 + 4 * i) 4 = (absLane (s.rdN (lstoreBase n + b + 0x40 + 4 * i) 4)).toNat := by
  have hn := n.isLt
  obtain ⟨e, he, hrun⟩ := State.engineOp_runs (f := performShade) hgo hop (by decide) (by decide) fun v o h => by simp only [performOp, h]
  have hread := he.sameStore.rdN
  have hx' : AbsOp (e.batchOp n prog head) := by rw [State.batchOp, hread]; exact hx
  obtain ⟨x, hxe⟩ : ∃ x, x = e.batchOp n prog head := ⟨_, rfl⟩
  have hperf := performShade_oneOp (he.shades h) hb hprog hbfits hpfits (by rw [he.sameStore.rd]; exact hhead) hone (State.shadeRun_batchLoaded hx' ..)
  rw [← hxe] at hperf hx'
  obtain ⟨count, hcount⟩ : ∃ count, count = leAt head 4 2 := ⟨_, rfl⟩
  have hc256 : count ≤ 256 := hcount ▸ hone.count.2
  rw [← hcount] at hperf ⊢
  have hstore := he.sameStore.trans (e.sameStore_batchShaded n (s.opRecord n op) b count x)
  have hbyte : ∀ (v : State) (out : Out), ((v.micaCount n 2).emit out).byte = v.byte := fun v out => by
    funext y; rw [State.byte_emit, State.byte_micaCount]
  refine ⟨_, hrun _ hperf, he.opRan_lanes hn (by decide) ?_ ?_, ?_, fun y hy hside => ?_, fun i hi => ?_⟩
  · exact (((e.works_batchShaded hn x).trans hn (State.works_batchExport ..)).trans hn (State.works_micaCount _ hn 2)).trans hn (State.works_emit ..)
  · refine (e.lanes_batchShaded n (s.opRecord n op) b count x).trans (.of_core ?_)
    rw [State.core_emit, State.core_micaCount, State.core_batchExport]
  · rw [State.out_markRan]
    refine congrArg (_ :: ·) ?_
    rw [State.out_micaCount, State.out_batchExport, hstore.out]
  · rw [State.byte_markRan, hbyte, State.byte_batchExport _ _ _ _ _ hy hside]
    exact congrFun hstore.byte y
  · rw [← hread, ← State.lane_batchShaded hx' e n (s.opRecord n op) b (by omega) hi]
    refine Eq.trans ?_ (State.rdN_batchExport _ hn _ hbfits (by omega) hi)
    exact congrArg leNat (State.rd_eq_of_bytes fun j _ => by rw [State.byte_markRan, hbyte])

end

end Sys2Proof.Machine
end

section
/-! What the ops of Mica's vector registers do (O28). -/

namespace Sys2Proof.Machine

/-- Settles O28, an op at a time. -/
theorem vectorOps : Obligations.VectorOps := by
  unfold Obligations.VectorOps
  intro s n w
  refine ⟨?_, ?_, ?_, ?_, ?_⟩
  · intro op o cnt a hgo h64 hend hp
    exact vld_runs hgo (opOf_mkOp ..) h64 hend hp
  · intro op o cnt a hgo h64 hend
    exact vst_runs hgo (opOf_mkOp ..) h64 hend
  · intro op o code func p bits vd lane b hgo hlanes
    have hop : opOf op = 0x42 := opOf_mkOp ..
    refine ⟨fun hfunc hknown => ?_, fun hfunc => ?_, fun hfunc hknown hfmt hraw hsr => ?_⟩
    · refine vop_writes hgo hop (f := s.vopLanes n o) (k := 0) fun e _ hlane => ?_
      have hsame : e.vopLanes n o = s.vopLanes n o := by unfold State.vopLanes; simp only [State.vopSecond, State.vopValue, hlane]
      rw [← hsame]
      exact performVop_elementwise hlanes hfunc hknown
    · obtain ⟨t, hrun, hregs, hstill, -, hbusy, honly, hlanes'⟩ := vop_writes hgo hop
        (f := fun e => if e = 0 then s.vopReduced n o else (Config.freeValue (s.free + e)).setWidth 32) (k := 256) fun e he hlane => by
          have hsame : e.vopReduced n o = s.vopReduced n o := by unfold State.vopReduced; simp only [State.vopValue, hlane]
          rw [← hsame, ← he.free]
          exact performVop_reduces hlanes hfunc
      exact ⟨t, hrun, hregs, hstill, hbusy, honly, (hlanes' 0 (by decide)).trans (if_pos rfl)⟩
    · obtain ⟨t, hrun, hregs, hstill, -, hbusy, honly, hlanes'⟩ := vop_writes hgo hop (f := s.vopConverted n o (fld s.freeNow 0 0 == 1)) (k := 1) fun e he hlane => by
          have hsame : ∀ dir, e.vopConverted n o dir = s.vopConverted n o dir := fun dir => by unfold State.vopConverted; simp only [State.vopValue, hlane]
          have hfree : e.freeNow = s.freeNow := by rw [State.freeNow, he.free]; rfl
          rw [← hsame, ← hfree]
          exact performVop_converts hlanes hfunc (hfunc ▸ hknown) hfmt hraw hsr
      exact ⟨t, _, hrun, hregs, hstill, hbusy, honly, hlanes'⟩
  · intro op o b prog h count hgo hgfx hslots hb hprog
    have hop : opOf op = 0x4f := opOf_mkOp ..
    have hsh : s.Shades n o := State.shades_of_gfx hgfx hslots
    refine ⟨fun h0 => shade_empty_runs hgo hop hsh hb hprog h0, fun h1 h2 h3 h14 hin hex hc1 hc2 hlen hfirst hfits hx1 hx2 hx3 hx4 hx5 hx6 => ?_⟩
    exact shade_abs_runs hgo hop hsh rfl hb rfl hprog rfl ⟨⟨h1, h2⟩, ⟨h3, h14⟩, hin, hex, ⟨hc1, hc2⟩, hlen, hfirst, hfits⟩ ⟨hx1, hx2, hx3, hx4, hx5, hx6⟩
  · intro op d g hgo hd
    obtain ⟨t, hrun, hstill, hran⟩ := afold_runs hgo (opOf_mkOp ..) hd
    exact ⟨t, hrun, hstill, hran⟩

end Sys2Proof.Machine
end

section
/-! What the tensor forms of Mica store, and what they leave alone (R100, R128). -/

namespace Sys2Proof.Machine

/-! ### Stores of tensors -/

/-- Memory and what depends on it, and the generator of core n, are the same. -/
structure State.Alike (s e : State) (n : Nat) : Prop where
  store : s.SameStore e
  gen : e.obj (kSr n) = s.obj (kSr n)

/-- Engines of core n have stored tensors in its local store: no register, no other core and no byte beside the tensors has changed. -/
structure State.Stored (e t : State) (n : Nat) (ds : List Desc) : Prop where
  works : e.Works t n
  core : t.core n = e.core n
  out : t.out = e.out
  bytes : ∀ a, (∀ d ∈ ds, d.misses n a) → t.byte a = e.byte a

section
variable {s e t u : State} {n : Nat} {d : Desc} {ds ds' : List Desc}

theorem State.Stored.trans (h : s.Stored t n ds) (hn : n < 16) (h' : t.Stored u n ds') : s.Stored u n (ds ++ ds') :=
  ⟨h.works.trans hn h'.works, h'.core.trans h.core, h'.out.trans h.out,
    fun a ha => (h'.bytes a fun d hd => ha d (List.mem_append_right _ hd)).trans (h.bytes a fun d hd => ha d (List.mem_append_left _ hd))⟩

theorem State.stored_wrTensor (s : State) (hd : d.Fits) (f : Nat → Nat → Nat → Nat → Nat) : s.Stored (s.wrTensor n d f) n [d] :=
  have hs := s.stores_wrTensor n d f
  ⟨hs.works n, hs.core n, hs.out, fun _ ha => s.byte_wrTensor hd (ha d (List.mem_singleton_self d)) f⟩

theorem State.stored_wrVals (s : State) (hd : d.Fits) (sat : Bool) (vals : List FVal) (modes : List RMode) (c : Nat → Nat) :
    s.Stored (s.wrVals n d sat vals modes c).s n [d] :=
  have hs := s.stores_wrVals n d sat vals modes c
  ⟨hs.works n, hs.core n, hs.out, fun _ ha => s.byte_wrVals hd (ha d (List.mem_singleton_self d)) sat vals modes c⟩

theorem State.stored_setGen (s : State) (n : Nat) (v : Word64) : s.Stored (s.setObj (kSr n) v) n [] :=
  ⟨s.works_setObj (s.kSr_mem_workKeys n) v, rfl, rfl, fun _ _ => rfl⟩

/-- A tensor form's store, with its draws spelt out. -/
theorem State.tfStore_eq (s : State) (n : Nat) (d : Desc) (sr : Bool) (vals : List FVal) : s.tfStore n d sr vals
    = if sr then (s.wrVals n d false vals (drawModes sr d.count (s.obj (kSr n))).1 id).s.setObj (kSr n) (drawModes sr d.count (s.obj (kSr n))).2
      else (s.wrVals n d false vals (drawModes sr d.count (s.obj (kSr n))).1 id).s := rfl

theorem State.stored_tfStore (s : State) (hn : n < 16) (hd : d.Fits) (sr : Bool) (vals : List FVal) : s.Stored (s.tfStore n d sr vals) n [d] := by
  rw [State.tfStore_eq]
  split
  · exact (s.stored_wrVals hd ..).trans hn (State.stored_setGen ..)
  · exact s.stored_wrVals hd ..

theorem State.Alike.wrTensor (h : s.Alike e n) (d : Desc) (f : Nat → Nat → Nat → Nat → Nat) : (s.wrTensor n d f).Alike (e.wrTensor n d f) n :=
  ⟨h.store.wrTensor n d f, by rw [(e.stores_wrTensor n d f).obj, (s.stores_wrTensor n d f).obj, h.gen]⟩

theorem State.Alike.tfStore (h : s.Alike e n) (d : Desc) (sr : Bool) (vals : List FVal) : (s.tfStore n d sr vals).Alike (e.tfStore n d sr vals) n := by
  rw [State.tfStore_eq, State.tfStore_eq, h.gen]
  have hvals := (h.store.wrVals n d false vals (drawModes sr d.count (s.obj (kSr n))).1 id).1
  split
  · exact ⟨⟨hvals.mem, hvals.poison, hvals.ileave, hvals.free, hvals.out⟩, by rw [State.obj_setObj, State.obj_setObj, if_pos rfl, if_pos rfl]⟩
  · exact ⟨hvals, by rw [(State.stores_wrVals e ..).obj, (State.stores_wrVals s ..).obj, h.gen]⟩

theorem State.Enters.alike {op : OpWord} {q : Queue} (h : s.Enters e n op q) : s.Alike e n := ⟨h.sameStore, h.kSr⟩

theorem State.obj_micaCountOpen (s : State) (hn : n < 16) (bound : Nat) {j a : Nat} (hj : j < 256) (ha : a < 256) (h : ¬(j = 2 ∧ a = 2)) :
    (s.micaCountOpen n bound).obj (kCore n j a) = s.obj (kCore n j a) := (State.obj_tookFree ..).trans (s.obj_micaCount hn _ hj ha h)

theorem State.byte_micaCountOpen (s : State) (n bound : Nat) {a : Nat} (ha : a < 0x10000000000) : (s.micaCountOpen n bound).byte a = s.byte a :=
  State.byte_of_mem ha (State.mem_micaCountOpen ..) (State.ileave_micaCountOpen ..)

end

/-! ### The run of a tensor form -/

/-- A tensor form has run and has stored what `v` holds, beside the tensors `ds` nothing. -/
def State.TensorRan (s t v : State) (n : Nat) (op : OpWord) (ds : List Desc) : Prop :=
  s.OpRan t n op .mica (s.core n) ∧ t.storesAs v ∧ t.obj (kSr n) = v.obj (kSr n) ∧ t.out = s.out ∧ ∀ a, (∀ d ∈ ds, d.misses n a) → t.byte a = s.byte a

/-- A tensor form whose effect `f` is the store `g`, alike in states alike, has stored what `g` stores. -/
theorem tensor_runs {s : State} {n : Fin 16} {op : OpWord} {c : Nat} {f : State → Nat → QOp → Except Exc State} {g : State → State} {d : Desc} {ds : List Desc}
    (hgo : s.OpGoes n op [(95, 64)] .mica) (hop : opOf op = c) (hc : c ≠ 0x64) (hf : ∀ v o, opOf o.op = c → performOp v n o = wholly f v n o)
    (hperf : ∀ e, s.SameStore e → e.tfDesc = s.tfDesc → ∃ bound, f e n (s.opRecord n op) = .ok ((g e).micaCountOpen n bound))
    (hstored : ∀ e : State, e.Stored (g e) n (d :: ds)) (halike : ∀ e, s.Alike e n → (g s).Alike (g e) n) :
    ∃ t, s.engineOp n op [(95, 64)] = .next t ∧ s.TensorRan t (g s) n op (d :: ds) := by
  have hn := n.isLt
  obtain ⟨e, he, hrun⟩ := State.engineOp_runs hgo hop (by decide) hc hf
  obtain ⟨bound, hok⟩ := hperf e he.sameStore (he.tfDesc hn)
  have hst := hstored e
  have hal := halike e he.alike
  generalize g e = v at hok hst hal
  generalize g s = x at hal
  refine ⟨_, hrun _ hok, he.opRan_same hn (by decide) (hst.works.trans hn (v.works_micaCountOpen hn bound)) ?_, ⟨?_, ?_, ?_⟩, ?_, ?_, fun a ha => ?_⟩
  · rw [State.core_micaCountOpen, hst.core]
  · rw [State.mem_markRan, State.mem_micaCountOpen, hal.store.mem]
  · rw [State.poison_markRan, State.poison_micaCountOpen, hal.store.poison]
  · rw [State.out_markRan, State.out_micaCountOpen, hal.store.out]
  · rw [State.obj_markRan, ← hal.gen]
    exact v.obj_micaCountOpen hn bound (by decide) (by decide) (by decide)
  · rw [State.out_markRan, State.out_micaCountOpen, hst.out, he.sameStore.out]
  · obtain ⟨hlow, -⟩ := ha d List.mem_cons_self
    rw [State.byte_markRan, State.byte_micaCountOpen _ _ _ hlow, hst.bytes a ha, he.sameStore.byte]

end Sys2Proof.Machine
end

section
/-! What each tensor form of Mica stores (R101, R128, R148-R152, R159), and O29. -/

namespace Sys2Proof.Machine

/-- Tensor forms that store by conversion the values `vals`, the same where memory is. -/
theorem tensor_stores {s : State} {n : Fin 16} {op : OpWord} {c : Nat} {f : State → Nat → QOp → Except Exc State} {td : Desc} {sr : Bool} {vals : State → List FVal}
    (hgo : s.OpGoes n op [(95, 64)] .mica) (hop : opOf op = c) (hc : c ≠ 0x64) (hf : ∀ v o, opOf o.op = c → performOp v n o = wholly f v n o)
    (hd : s.tfDesc n td true = none) (hvals : ∀ e, s.SameStore e → vals e = vals s)
    (hperf : ∀ e, s.SameStore e → e.tfDesc = s.tfDesc → ∃ bound, f e n (s.opRecord n op) = .ok ((e.tfStore n td sr (vals e)).micaCountOpen n bound)) :
    ∃ t, s.engineOp n op [(95, 64)] = .next t ∧ s.TensorRan t (s.tfStore n td sr (vals s)) n op [td] :=
  tensor_runs (g := fun e => e.tfStore n td sr (vals s)) hgo hop hc hf (fun e he hdesc => hvals e he ▸ hperf e he hdesc)
    (fun e => e.stored_tfStore n.isLt (State.fits_of_tfDesc hd) sr _) fun _ he => he.tfStore td sr _

/-- What follows checks that find no fault. -/
theorem firstErr_bind {α : Type} {l : List (Option Exc)} (h : ∀ x ∈ l, x = none) (k : Unit → Except Exc α) : (firstErr l >>= k) = k () := by
  rw [firstErr_ok h]; rfl

section
variable {s e : State} {n : Nat} {o : QOp}

/-! ### TEW -/

/-- Whether a TEW reads tb, and tc. -/
def tewB (op : OpWord) : Bool := decide (2 ≤ micaArity (tfFunc op % 128)) && decide (tfFunc op < 128)
def tewC (op : OpWord) : Bool := decide (3 ≤ micaArity (tfFunc op % 128))

/-- Whether the operands and the result of a TEW are all integers. -/
def QOp.tewInts (o : QOp) : Bool :=
  isInt (o.d (tfTd o.op)).fmt && isInt (o.d (tfTa o.op)).fmt && (!tewB o.op || isInt (o.d (tfTb o.op)).fmt) && (!tewC o.op || isInt (o.d (tfTc o.op)).fmt)

/-- The values of a TEW. -/
def State.tewVals (s : State) (n : Nat) (o : QOp) : List FVal :=
  (o.d (tfTd o.op)).coords.map fun x =>
    if o.tewInts then FVal.ofRat false (micaI 32 (tfFunc o.op % 128) (s.intElem n (o.d (tfTa o.op)) (bcast (o.d (tfTa o.op)) x))
        (if 128 ≤ tfFunc o.op then sext 32 (o.s (tfSa o.op)).toNat else if tewB o.op then s.intElem n (o.d (tfTb o.op)) (bcast (o.d (tfTb o.op)) x) else 0)
        (if tewC o.op then s.intElem n (o.d (tfTc o.op)) (bcast (o.d (tfTc o.op)) x) else 0) : Rat)
    else f32 (micaF (tfFunc o.op % 128) (s.micaElem n (o.d (tfTa o.op)) (bcast (o.d (tfTa o.op)) x))
        (if 128 ≤ tfFunc o.op then (o.s (tfSa o.op)).setWidth 32 else if tewB o.op then s.micaElem n (o.d (tfTb o.op)) (bcast (o.d (tfTb o.op)) x) else 0#32)
        (if tewC o.op then s.micaElem n (o.d (tfTc o.op)) (bcast (o.d (tfTc o.op)) x) else 0#32))

theorem State.SameStore.tewVals (h : s.SameStore e) (n : Nat) (o : QOp) : e.tewVals n o = s.tewVals n o := by
  simp only [State.tewVals, h.intElem, h.micaElem]

theorem performTew_ok (hd : s.tfDesc n (o.d (tfTd o.op)) true = none) (ha : s.tfDesc n (o.d (tfTa o.op)) false = none)
    (hb : tewB o.op = true → s.tfDesc n (o.d (tfTb o.op)) false = none ∧ bcastOk (o.d (tfTb o.op)) (o.d (tfTd o.op)) = true)
    (hc : tewC o.op = true → s.tfDesc n (o.d (tfTc o.op)) false = none ∧ bcastOk (o.d (tfTc o.op)) (o.d (tfTd o.op)) = true)
    (hshape : bcastOk (o.d (tfTa o.op)) (o.d (tfTd o.op)) = true) (hknown : micaKnown o.tewInts (tfFunc o.op % 128) = true) :
    performTew s n o = .ok ((s.tfStore n (o.d (tfTd o.op)) (tfSr o.op) (s.tewVals n o)).micaCountOpen n (16 + ((o.d (tfTd o.op)).count + 63) / 64)) := by
  have hdescs : ∀ x ∈ [s.tfDesc n (o.d (tfTd o.op)) true, s.tfDesc n (o.d (tfTa o.op)) false] ++ (if tewB o.op then [s.tfDesc n (o.d (tfTb o.op)) false] else [])
      ++ (if tewC o.op then [s.tfDesc n (o.d (tfTc o.op)) false] else []), x = none := by
    intro x hx
    rw [List.mem_append, List.mem_append] at hx
    obtain (hx | hx) | hx := hx
    · simp only [hd, ha, List.mem_cons, List.not_mem_nil, or_false, or_self] at hx; exact hx
    · split at hx
      · rw [List.mem_singleton.1 hx]; exact (hb ‹_›).1
      · cases hx
    · split at hx
      · rw [List.mem_singleton.1 hx]; exact (hc ‹_›).1
      · cases hx
  have hbad : (!bcastOk (o.d (tfTa o.op)) (o.d (tfTd o.op)) || (tewB o.op && !bcastOk (o.d (tfTb o.op)) (o.d (tfTd o.op)))
      || (tewC o.op && !bcastOk (o.d (tfTc o.op)) (o.d (tfTd o.op)))) = false := by
    simp only [hshape, Bool.not_true, Bool.false_or, Bool.or_eq_false_iff, Bool.and_eq_false_imp, Bool.not_eq_false']
    exact ⟨fun h => (hb h).2, fun h => (hc h).2⟩
  have hchecks : ∀ x ∈ [if !micaKnown o.tewInts (tfFunc o.op % 128) then some (illegal 0x02) else none, shapeIf (!bcastOk (o.d (tfTa o.op)) (o.d (tfTd o.op))
      || (tewB o.op && !bcastOk (o.d (tfTb o.op)) (o.d (tfTd o.op))) || (tewC o.op && !bcastOk (o.d (tfTc o.op)) (o.d (tfTd o.op))))], x = none := by
    simp [hbad, hknown, shapeIf]
  have hvals : s.tewVals n o = (o.d (tfTd o.op)).coords.map fun x =>
      if o.tewInts then FVal.ofRat false (micaI 32 (tfFunc o.op % 128) (s.intElem n (o.d (tfTa o.op)) (bcast (o.d (tfTa o.op)) x))
        (if decide (128 ≤ tfFunc o.op) = true then sext 32 (o.s (tfSa o.op)).toNat else if tewB o.op then s.intElem n (o.d (tfTb o.op)) (bcast (o.d (tfTb o.op)) x) else 0)
        (if tewC o.op then s.intElem n (o.d (tfTc o.op)) (bcast (o.d (tfTc o.op)) x) else 0) : Rat)
      else f32 (micaF (tfFunc o.op % 128) (s.micaElem n (o.d (tfTa o.op)) (bcast (o.d (tfTa o.op)) x))
        (if decide (128 ≤ tfFunc o.op) = true then (o.s (tfSa o.op)).setWidth 32 else if tewB o.op then s.micaElem n (o.d (tfTb o.op)) (bcast (o.d (tfTb o.op)) x) else 0#32)
        (if tewC o.op then s.micaElem n (o.d (tfTc o.op)) (bcast (o.d (tfTc o.op)) x) else 0#32)) := by
    simp only [State.tewVals, decide_eq_true_eq]
  have hscalar : tewB o.op = (decide (2 ≤ micaArity (tfFunc o.op % 128)) && !decide (128 ≤ tfFunc o.op)) := by
    simp only [tewB, ← decide_not, Nat.not_le]
  rw [hvals]
  simp only [QOp.tewInts, hscalar] at hdescs hchecks ⊢
  exact (firstErr_bind hdescs _).trans (firstErr_bind hchecks _)

/-! ### TRED -/

/-- The values of a TRED. -/
def State.tredVals (s : State) (n : Nat) (o : QOp) : List FVal :=
  (o.d (tfTd o.op)).coords.map fun x =>
    if (isInt (o.d (tfTd o.op)).fmt && isInt (o.d (tfTa o.op)).fmt) = true then
      FVal.ofRat false ((regReduce (fun p q => micaI 32 (if tfFunc o.op = 0 then 0x00 else if tfFunc o.op = 1 then 0x05 else 0x04) p q 0)
        ((List.range ((o.d (tfTa o.op)).dim (tfAxis o.op))).map fun i => s.intElem n (o.d (tfTa o.op)) (setCoord x (tfAxis o.op) i))).getD 0 : Rat)
    else f32 ((regReduce (fun p q => micaF (if tfFunc o.op = 0 then 0x00 else if tfFunc o.op = 1 then 0x05 else 0x04) p q 0#32)
      (s.axisVals n (o.d (tfTa o.op)) (tfAxis o.op) x)).getD 0#32)

theorem State.SameStore.tredVals (h : s.SameStore e) (n : Nat) (o : QOp) : e.tredVals n o = s.tredVals n o := by
  simp only [State.tredVals, h.intElem, h.axisVals]

theorem performTred_ok (hd : s.tfDesc n (o.d (tfTd o.op)) true = none) (ha : s.tfDesc n (o.d (tfTa o.op)) false = none) (hfunc : tfFunc o.op ≤ 2)
    (hsame : sameBut (o.d (tfTd o.op)) (o.d (tfTa o.op)) (tfAxis o.op) = true) (hone : (o.d (tfTd o.op)).dim (tfAxis o.op) = 1) :
    performTred s n o = .ok ((s.tfStore n (o.d (tfTd o.op)) (tfSr o.op) (s.tredVals n o)).micaCountOpen n (16 + ((o.d (tfTa o.op)).count + 255) / 256)) := by
  refine firstErr_bind (l := [s.tfDesc n (o.d (tfTd o.op)) true, s.tfDesc n (o.d (tfTa o.op)) false, if 2 < tfFunc o.op then some (illegal 0x02) else none,
    shapeIf (!sameBut (o.d (tfTd o.op)) (o.d (tfTa o.op)) (tfAxis o.op) || (o.d (tfTd o.op)).dim (tfAxis o.op) != 1)]) (by simp [hd, ha, hsame, hone, shapeIf, hfunc]) _

/-! ### TSMX -/

/-- The exponential of a TSMX. -/
def State.tsmxExp (s : State) (n : Nat) (o : QOp) (x : Nat × Nat × Nat × Nat) : Word32 :=
  smxExp (s.micaElem n (o.d (tfTa o.op)) x) (s.micaElem n (o.d (tfTb o.op)) (setCoord x (tfAxis o.op) 0)) ((o.s (tfSa o.op)).setWidth 32)

/-- The values of a TSMX: the maxima, the exponentials and their sums, the quotients. -/
def State.tsmxMax (s : State) (n : Nat) (o : QOp) : List FVal :=
  (o.d (tfTd o.op)).coords.map fun x => f32 ((regReduce (micaMinMax true) (s.axisVals n (o.d (tfTa o.op)) (tfAxis o.op) x)).getD 0#32)
def State.tsmxExps (s : State) (n : Nat) (o : QOp) : List FVal := (o.d (tfTd o.op)).coords.map fun x => f32 (s.tsmxExp n o x)
def State.tsmxSums (s : State) (n : Nat) (o : QOp) : List FVal :=
  (o.d (tfTc o.op)).coords.map fun x => f32 ((regReduce f32add ((List.range ((o.d (tfTa o.op)).dim (tfAxis o.op))).map fun i => s.tsmxExp n o (setCoord x (tfAxis o.op) i))).getD 0#32)
def State.tsmxQuotients (s : State) (n : Nat) (o : QOp) : List FVal :=
  (o.d (tfTd o.op)).coords.map fun x => f32 (f32mul (s.micaElem n (o.d (tfTa o.op)) x) (micaRecip (s.micaElem n (o.d (tfTc o.op)) (setCoord x (tfAxis o.op) 0))))

section
variable (h : s.SameStore e) (n : Nat) (o : QOp)
include h
theorem State.SameStore.tsmxMax : e.tsmxMax n o = s.tsmxMax n o := by simp only [State.tsmxMax, h.axisVals]
theorem State.SameStore.tsmxExps : e.tsmxExps n o = s.tsmxExps n o := by simp only [State.tsmxExps, State.tsmxExp, h.micaElem]
theorem State.SameStore.tsmxSums : e.tsmxSums n o = s.tsmxSums n o := by simp only [State.tsmxSums, State.tsmxExp, h.micaElem]
theorem State.SameStore.tsmxQuotients : e.tsmxQuotients n o = s.tsmxQuotients n o := by simp only [State.tsmxQuotients, h.micaElem]
end

section
variable (hd : s.tfDesc n (o.d (tfTd o.op)) true = none) (ha : s.tfDesc n (o.d (tfTa o.op)) false = none)
include hd ha

theorem tsmx_checks (hfunc : tfFunc o.op ≤ 2) :
    ∀ x ∈ [s.tfDesc n (o.d (tfTd o.op)) true, s.tfDesc n (o.d (tfTa o.op)) false, if 2 < tfFunc o.op then some (illegal 0x02) else none], x = none := by
  simp [hd, ha, hfunc]

theorem performTsmx_max (hfunc : tfFunc o.op = 0) (hsame : sameBut (o.d (tfTd o.op)) (o.d (tfTa o.op)) (tfAxis o.op) = true)
    (hone : (o.d (tfTd o.op)).dim (tfAxis o.op) = 1) :
    performTsmx s n o = .ok ((s.tfStore n (o.d (tfTd o.op)) (tfSr o.op) (s.tsmxMax n o)).micaCountOpen n (16 + ((o.d (tfTa o.op)).count + 63) / 64)) := by
  refine (firstErr_bind (tsmx_checks hd ha (by omega)) _).trans ?_
  simp only [hfunc]
  refine firstErr_bind (l := [shapeIf (!sameBut (o.d (tfTd o.op)) (o.d (tfTa o.op)) (tfAxis o.op) || (o.d (tfTd o.op)).dim (tfAxis o.op) != 1)])
    (by simp [hsame, hone, shapeIf]) _

theorem performTsmx_exp (hfunc : tfFunc o.op = 1) (hb : s.tfDesc n (o.d (tfTb o.op)) false = none) (hc : s.tfDesc n (o.d (tfTc o.op)) true = none)
    (hsame : sameBut (o.d (tfTd o.op)) (o.d (tfTa o.op)) 4 = true) (hsameb : sameBut (o.d (tfTb o.op)) (o.d (tfTa o.op)) (tfAxis o.op) = true)
    (honeb : (o.d (tfTb o.op)).dim (tfAxis o.op) = 1) (hsamec : sameBut (o.d (tfTc o.op)) (o.d (tfTa o.op)) (tfAxis o.op) = true)
    (honec : (o.d (tfTc o.op)).dim (tfAxis o.op) = 1) :
    performTsmx s n o = .ok (((s.tfStore n (o.d (tfTd o.op)) (tfSr o.op) (s.tsmxExps n o)).tfStore n (o.d (tfTc o.op)) (tfSr o.op) (s.tsmxSums n o)).micaCountOpen n (16 + ((o.d (tfTa o.op)).count + 63) / 64)) := by
  refine (firstErr_bind (tsmx_checks hd ha (by omega)) _).trans ?_
  simp only [hfunc]
  refine firstErr_bind (l := [s.tfDesc n (o.d (tfTb o.op)) false, s.tfDesc n (o.d (tfTc o.op)) true,
    shapeIf (!sameBut (o.d (tfTd o.op)) (o.d (tfTa o.op)) 4 || !sameBut (o.d (tfTb o.op)) (o.d (tfTa o.op)) (tfAxis o.op) || (o.d (tfTb o.op)).dim (tfAxis o.op) != 1
      || !sameBut (o.d (tfTc o.op)) (o.d (tfTa o.op)) (tfAxis o.op) || (o.d (tfTc o.op)).dim (tfAxis o.op) != 1)])
    (by simp [hb, hc, hsame, hsameb, honeb, hsamec, honec, shapeIf]) _

theorem performTsmx_quotient (hfunc : tfFunc o.op = 2) (hc : s.tfDesc n (o.d (tfTc o.op)) false = none)
    (hsame : sameBut (o.d (tfTd o.op)) (o.d (tfTa o.op)) 4 = true) (hsamec : sameBut (o.d (tfTc o.op)) (o.d (tfTa o.op)) (tfAxis o.op) = true)
    (honec : (o.d (tfTc o.op)).dim (tfAxis o.op) = 1) :
    performTsmx s n o = .ok ((s.tfStore n (o.d (tfTd o.op)) (tfSr o.op) (s.tsmxQuotients n o)).micaCountOpen n (16 + ((o.d (tfTa o.op)).count + 63) / 64)) := by
  refine (firstErr_bind (tsmx_checks hd ha (by omega)) _).trans ?_
  simp only [hfunc]
  refine firstErr_bind (l := [s.tfDesc n (o.d (tfTc o.op)) false,
    shapeIf (!sameBut (o.d (tfTd o.op)) (o.d (tfTa o.op)) 4 || !sameBut (o.d (tfTc o.op)) (o.d (tfTa o.op)) (tfAxis o.op) || (o.d (tfTc o.op)).dim (tfAxis o.op) != 1)])
    (by simp [hc, hsame, hsamec, honec, shapeIf]) _

/-! ### TNORM -/

/-- The values of a TNORM. -/
def State.tnormVals (s : State) (n : Nat) (o : QOp) : List FVal :=
  (o.d (tfTd o.op)).coords.map fun x => f32 (Config.openNorm (tfFunc o.op) (s.axisVals n (o.d (tfTa o.op)) (tfAxis o.op) x)
    (s.micaElem n (o.d (tfTb o.op)) (bcast (o.d (tfTb o.op)) x)) (s.micaElem n (o.d (tfTc o.op)) (bcast (o.d (tfTc o.op)) x)) ((o.s (tfSa o.op)).setWidth 32) (coord x (tfAxis o.op)))

theorem performTnorm_ok (hb : s.tfDesc n (o.d (tfTb o.op)) false = none) (hc : s.tfDesc n (o.d (tfTc o.op)) false = none) (hfunc : tfFunc o.op ≤ 1)
    (hsame : sameBut (o.d (tfTd o.op)) (o.d (tfTa o.op)) 4 = true) (hbb : bcastOk (o.d (tfTb o.op)) (o.d (tfTa o.op)) = true) (hbc : bcastOk (o.d (tfTc o.op)) (o.d (tfTa o.op)) = true) :
    performTnorm s n o = .ok ((s.tfStore n (o.d (tfTd o.op)) (tfSr o.op) (s.tnormVals n o)).micaCountOpen n (16 + ((o.d (tfTa o.op)).count + 63) / 64)) := by
  refine firstErr_bind (l := [s.tfDesc n (o.d (tfTd o.op)) true, s.tfDesc n (o.d (tfTa o.op)) false, s.tfDesc n (o.d (tfTb o.op)) false, s.tfDesc n (o.d (tfTc o.op)) false,
    if 1 < tfFunc o.op then some (illegal 0x02) else none,
    shapeIf (!sameBut (o.d (tfTd o.op)) (o.d (tfTa o.op)) 4 || !bcastOk (o.d (tfTb o.op)) (o.d (tfTa o.op)) || !bcastOk (o.d (tfTc o.op)) (o.d (tfTa o.op)))])
    (by simp [hd, ha, hb, hc, hsame, hbb, hbc, shapeIf, hfunc]) _

end

theorem State.SameStore.tnormVals (h : s.SameStore e) (n : Nat) (o : QOp) : e.tnormVals n o = s.tnormVals n o := by
  simp only [State.tnormVals, h.axisVals, h.micaElem]

/-! ### GATHER and SCATTER -/

/-- The position that an index of tb names. -/
def State.indexed (s : State) (n : Nat) (o : QOp) (x : Nat × Nat × Nat × Nat) : Nat × Nat × Nat × Nat :=
  setCoord x (tfAxis o.op) (s.intElem n (o.d (tfTb o.op)) (bcast (o.d (tfTb o.op)) x)).toNat

/-- Every index lies within the axis. -/
def State.IndexWithin (s : State) (n : Nat) (o : QOp) (d : Desc) (l : List (Nat × Nat × Nat × Nat)) : Prop :=
  ∀ x ∈ l, 0 ≤ s.intElem n (o.d (tfTb o.op)) (bcast (o.d (tfTb o.op)) x) ∧ s.intElem n (o.d (tfTb o.op)) (bcast (o.d (tfTb o.op)) x) < d.dim (tfAxis o.op)

theorem State.SameStore.indexed (h : s.SameStore e) : e.indexed = s.indexed := by
  funext n o x; simp only [State.indexed, h.intElem]

theorem State.SameStore.indexWithin (h : s.SameStore e) : e.IndexWithin = s.IndexWithin := by
  funext n o d l; simp only [State.IndexWithin, h.intElem]

/-- What a GATHER stores: codes as they are, or converted values. -/
def State.gathered (s : State) (n : Nat) (o : QOp) (i0 i1 i2 i3 : Nat) : Nat :=
  s.elemCode n (o.d (tfTa o.op)) (s.indexed n o (i0, i1, i2, i3)).1 (s.indexed n o (i0, i1, i2, i3)).2.1 (s.indexed n o (i0, i1, i2, i3)).2.2.1 (s.indexed n o (i0, i1, i2, i3)).2.2.2
def State.gatherVals (s : State) (n : Nat) (o : QOp) : List FVal :=
  (o.d (tfTd o.op)).coords.map fun x => s.elem n (o.d (tfTa o.op)) (s.indexed n o x).1 (s.indexed n o x).2.1 (s.indexed n o x).2.2.1 (s.indexed n o x).2.2.2

theorem State.SameStore.gathered (h : s.SameStore e) (n : Nat) (o : QOp) : e.gathered n o = s.gathered n o := by
  funext i0 i1 i2 i3; simp only [State.gathered, h.indexed, h.elemCode]
theorem State.SameStore.gatherVals (h : s.SameStore e) (n : Nat) (o : QOp) : e.gatherVals n o = s.gatherVals n o := by
  simp only [State.gatherVals, h.indexed, h.elem]

/-- What a SCATTER of codes as they are stores in an element: the last that names it, or what it holds. -/
def State.scattered (s : State) (n : Nat) (o : QOp) (i0 i1 i2 i3 : Nat) : Nat :=
  match (o.d (tfTa o.op)).coords.reverse.find? fun x => s.indexed n o x == (i0, i1, i2, i3) with
  | some x => s.elemCode n (o.d (tfTa o.op)) x.1 x.2.1 x.2.2.1 x.2.2.2
  | none => s.elemCode n (o.d (tfTd o.op)) i0 i1 i2 i3

theorem State.SameStore.scattered (h : s.SameStore e) (n : Nat) (o : QOp) : e.scattered n o = s.scattered n o := by
  funext i0 i1 i2 i3; simp only [State.scattered, h.indexed, h.elemCode]

theorem Desc.length_coords (d : Desc) : d.coords.length = d.count := by
  simp only [Desc.coords, Desc.rows, Desc.count, List.length_flatMap, List.length_map, List.length_range, List.map_const', List.sum_replicate, smul_eq_mul]
  ring

theorem length_srDraws (k : Nat) (g : Word64) : (srDraws k g).1.length = k := by
  induction k generalizing g with
  | zero => rfl
  | succ k ih => exact congrArg (· + 1) (ih _)

theorem length_drawModes (sr : Bool) (k : Nat) (g : Word64) : (drawModes sr k g).1.length = k := by
  cases sr
  · exact List.length_replicate
  · exact (List.length_map _).trans (length_srDraws k g)

section
variable (hd : s.tfDesc n (o.d (tfTd o.op)) true = none) (ha : s.tfDesc n (o.d (tfTa o.op)) false = none) (hb : s.tfDesc n (o.d (tfTb o.op)) false = none)
  (hfunc : tfFunc o.op = 0) (hint : (o.d (tfTb o.op)).fmt = codeINT32) (hsame : sameBut (o.d (tfTd o.op)) (o.d (tfTa o.op)) (tfAxis o.op) = true)
include hd ha hb hfunc hint hsame

theorem performGather_eq (hbb : bcastOk (o.d (tfTb o.op)) (o.d (tfTd o.op)) = true) (hidx : s.IndexWithin n o (o.d (tfTa o.op)) (o.d (tfTd o.op)).coords) :
    performGather s n o = .ok ((if (o.d (tfTa o.op)).fmt = (o.d (tfTd o.op)).fmt ∧ !isMx (o.d (tfTd o.op)).fmt then s.wrTensor n (o.d (tfTd o.op)) (s.gathered n o)
      else s.tfStore n (o.d (tfTd o.op)) (tfSr o.op) (s.gatherVals n o)).micaCountOpen n (16 + ((o.d (tfTd o.op)).count + 63) / 64)) := by
  refine (firstErr_bind (l := [s.tfDesc n (o.d (tfTd o.op)) true, s.tfDesc n (o.d (tfTa o.op)) false, s.tfDesc n (o.d (tfTb o.op)) false,
    if tfFunc o.op ≠ 0 then some (illegal 0x02) else none,
    shapeIf ((o.d (tfTb o.op)).fmt != codeINT32 || !sameBut (o.d (tfTd o.op)) (o.d (tfTa o.op)) (tfAxis o.op) || !bcastOk (o.d (tfTb o.op)) (o.d (tfTd o.op)))])
    (by simp [hd, ha, hb, hfunc, hint, hsame, hbb, shapeIf]) _).trans ?_
  have hfind : (o.d (tfTd o.op)).coords.find? (fun x => decide (s.intElem n (o.d (tfTb o.op)) (bcast (o.d (tfTb o.op)) x) < 0)
      || decide (((o.d (tfTa o.op)).dim (tfAxis o.op) : Int) ≤ s.intElem n (o.d (tfTb o.op)) (bcast (o.d (tfTb o.op)) x))) = none := by
    refine List.find?_eq_none.2 fun x hx => ?_
    have := hidx x hx
    simp only [Bool.or_eq_true, decide_eq_true_eq]
    omega
  dsimp only
  rw [hfind]
  rfl

theorem performGather_codes (hbb : bcastOk (o.d (tfTb o.op)) (o.d (tfTd o.op)) = true) (hidx : s.IndexWithin n o (o.d (tfTa o.op)) (o.d (tfTd o.op)).coords)
    (hfmt : (o.d (tfTa o.op)).fmt = (o.d (tfTd o.op)).fmt) (hmx : isMx (o.d (tfTd o.op)).fmt = false) :
    performGather s n o = .ok ((s.wrTensor n (o.d (tfTd o.op)) (s.gathered n o)).micaCountOpen n (16 + ((o.d (tfTd o.op)).count + 63) / 64)) := by
  rw [performGather_eq hd ha hb hfunc hint hsame hbb hidx, if_pos ⟨hfmt, by rw [hmx]; rfl⟩]

theorem performGather_values (hbb : bcastOk (o.d (tfTb o.op)) (o.d (tfTd o.op)) = true) (hidx : s.IndexWithin n o (o.d (tfTa o.op)) (o.d (tfTd o.op)).coords)
    (hne : ¬((o.d (tfTa o.op)).fmt = (o.d (tfTd o.op)).fmt ∧ isMx (o.d (tfTd o.op)).fmt = false)) :
    performGather s n o = .ok ((s.tfStore n (o.d (tfTd o.op)) (tfSr o.op) (s.gatherVals n o)).micaCountOpen n (16 + ((o.d (tfTd o.op)).count + 63) / 64)) := by
  rw [performGather_eq hd ha hb hfunc hint hsame hbb hidx, if_neg fun h => hne ⟨h.1, by simpa using h.2⟩]

theorem performScatter_ok (hbb : bcastOk (o.d (tfTb o.op)) (o.d (tfTa o.op)) = true) (hmx : isMx (o.d (tfTd o.op)).fmt = false) (hfmt : (o.d (tfTa o.op)).fmt = (o.d (tfTd o.op)).fmt)
    (hidx : s.IndexWithin n o (o.d (tfTd o.op)) (o.d (tfTa o.op)).coords) :
    performScatter s n o = .ok ((s.wrTensor n (o.d (tfTd o.op)) (s.scattered n o)).micaCountOpen n (16 + ((o.d (tfTa o.op)).count + 63) / 64)) := by
  refine (firstErr_bind (l := [s.tfDesc n (o.d (tfTd o.op)) true, s.tfDesc n (o.d (tfTa o.op)) false, s.tfDesc n (o.d (tfTb o.op)) false,
    if tfFunc o.op ≠ 0 then some (illegal 0x02) else none,
    shapeIf ((o.d (tfTb o.op)).fmt != codeINT32 || !sameBut (o.d (tfTd o.op)) (o.d (tfTa o.op)) (tfAxis o.op) || !bcastOk (o.d (tfTb o.op)) (o.d (tfTa o.op)) || isMx (o.d (tfTd o.op)).fmt)])
    (by simp [hd, ha, hb, hfunc, hint, hsame, hbb, hmx, shapeIf]) _).trans ?_
  have hzip : ((o.d (tfTa o.op)).coords.zip (drawModes (tfSr o.op) (o.d (tfTa o.op)).count (s.obj (kSr n))).1).map Prod.fst = (o.d (tfTa o.op)).coords :=
    List.map_fst_zip (by rw [length_drawModes, Desc.length_coords])
  have hmoves : ((o.d (tfTa o.op)).coords.zip (drawModes (tfSr o.op) (o.d (tfTa o.op)).count (s.obj (kSr n))).1).map
        (fun z => (s.intElem n (o.d (tfTb o.op)) (bcast (o.d (tfTb o.op)) z.1), s.indexed n o z.1, s.elemCode n (o.d (tfTa o.op)) z.1.1 z.1.2.1 z.1.2.2.1 z.1.2.2.2))
      = (o.d (tfTa o.op)).coords.map fun x => (s.intElem n (o.d (tfTb o.op)) (bcast (o.d (tfTb o.op)) x), s.indexed n o x, s.elemCode n (o.d (tfTa o.op)) x.1 x.2.1 x.2.2.1 x.2.2.2) := by
    conv_rhs => rw [← hzip]
    rw [List.map_map]; rfl
  have hfind : ((o.d (tfTa o.op)).coords.map fun x => (s.intElem n (o.d (tfTb o.op)) (bcast (o.d (tfTb o.op)) x), s.indexed n o x, s.elemCode n (o.d (tfTa o.op)) x.1 x.2.1 x.2.2.1 x.2.2.2)).find?
      (fun z => decide (z.1 < 0) || decide (((o.d (tfTd o.op)).dim (tfAxis o.op) : Int) ≤ z.1)) = none := by
    refine List.find?_eq_none.2 fun z hz => ?_
    obtain ⟨x, hx, rfl⟩ := List.mem_map.1 hz
    have := hidx x hx
    simp only [Bool.or_eq_true, decide_eq_true_eq]
    omega
  have hput : (fun i0 i1 i2 i3 => match ((o.d (tfTa o.op)).coords.map fun x => (s.intElem n (o.d (tfTb o.op)) (bcast (o.d (tfTb o.op)) x), s.indexed n o x,
        s.elemCode n (o.d (tfTa o.op)) x.1 x.2.1 x.2.2.1 x.2.2.2)).reverse.find? (fun z => z.2.1 == (i0, i1, i2, i3)) with
      | some z => z.2.2
      | none => s.elemCode n (o.d (tfTd o.op)) i0 i1 i2 i3) = s.scattered n o := by
    funext i0 i1 i2 i3
    rw [← List.map_reverse, List.find?_map, State.scattered, Function.comp_def]
    cases (o.d (tfTa o.op)).coords.reverse.find? fun x => s.indexed n o x == (i0, i1, i2, i3) <;> rfl
  simp only [State.indexed] at hmoves hfind hput
  dsimp only
  simp only [hfmt, if_true, hmoves, hfind]
  simp only [ne_eq, not_true_eq_false, decide_false, Bool.and_false, Bool.false_eq_true, if_false]
  exact congrArg (fun f => Except.ok ((s.wrTensor n (o.d (tfTd o.op)) f).micaCountOpen n _)) hput

end

/-! ### TPOOL -/

/-- A tap's value in a TPOOL: the input's, or the padding. -/
def State.poolTap (s : State) (n : Nat) (o : QOp) (r : Window) (i c : Nat) (y : Nat × Nat) : Word32 :=
  match r.tap false ((o.d (tfTa o.op)).dim 1) ((o.d (tfTa o.op)).dim 2) i y.1 y.2 with
  | some (ix, iy) => s.micaElem n (o.d (tfTa o.op)) (c, ix, iy, 0)
  | none => toF32 (scaled (o.d (tfTa o.op)).fmt (r.padValue % 2 ^ elemBits (o.d (tfTa o.op)).fmt) 127)

theorem State.poolTap_eq (s : State) (n : Nat) (o : QOp) (r : Window) (i c : Nat) (y : Nat × Nat) : s.poolTap n o r i c y
    = match r.tap false ((o.d (tfTa o.op)).dim 1) ((o.d (tfTa o.op)).dim 2) i y.1 y.2 with
      | some z => s.micaElem n (o.d (tfTa o.op)) (c, z.1, z.2, 0)
      | none => toF32 (scaled (o.d (tfTa o.op)).fmt (r.padValue % 2 ^ elemBits (o.d (tfTa o.op)).fmt) 127) := by
  unfold State.poolTap
  cases r.tap false ((o.d (tfTa o.op)).dim 1) ((o.d (tfTa o.op)).dim 2) i y.1 y.2 <;> rfl

/-- The taps of an output element. -/
def State.poolTaps (s : State) (n : Nat) (o : QOp) (r : Window) (x : Nat × Nat × Nat × Nat) : List Word32 := r.taps.map (s.poolTap n o r (x.2.2.1 * r.tw + x.2.1) x.1)

/-- The values of a TPOOL. -/
def State.poolVals (s : State) (n : Nat) (o : QOp) (r : Window) : List FVal :=
  (o.d (tfTd o.op)).coords.map fun x =>
    if tfFunc o.op = 0 then f32 ((s.poolTaps n o r x).tail.foldl (micaMinMax true) ((s.poolTaps n o r x).headD 0#32))
    else f32 (f32div ((s.poolTaps n o r x).tail.foldl f32add ((s.poolTaps n o r x).headD 0#32)) (f32ofInt (r.kh * r.kw : Nat)))

theorem State.SameStore.poolVals (h : s.SameStore e) (n : Nat) (o : QOp) (r : Window) : e.poolVals n o r = s.poolVals n o r := by
  have htap : e.poolTap = s.poolTap := by funext n o r i c y; simp only [State.poolTap, h.micaElem]
  simp only [State.poolVals, State.poolTaps, htap]

theorem performTpool_ok {r : Window} (hd : s.tfDesc n (o.d (tfTd o.op)) true = none) (ha : s.tfDesc n (o.d (tfTa o.op)) false = none) (hfunc : tfFunc o.op ≤ 1)
    (hr : s.window n (o.s (tfSa o.op)) = .ok r) (ha3 : (o.d (tfTa o.op)).dim 3 = 1) (hd0 : (o.d (tfTd o.op)).dim 0 = (o.d (tfTa o.op)).dim 0) (hd1 : (o.d (tfTd o.op)).dim 1 = r.tw)
    (hd2 : (o.d (tfTd o.op)).dim 2 = r.th) (hd3 : (o.d (tfTd o.op)).dim 3 = 1) (hext : r.extentFault ((o.d (tfTa o.op)).dim 1) ((o.d (tfTa o.op)).dim 2) false = none) :
    performTpool s n o = .ok ((s.tfStore n (o.d (tfTd o.op)) (tfSr o.op) (s.poolVals n o r)).micaCountOpen n (16 + ((o.d (tfTd o.op)).count * r.kh * r.kw + 63) / 64)) := by
  refine (firstErr_bind (l := [s.tfDesc n (o.d (tfTd o.op)) true, s.tfDesc n (o.d (tfTa o.op)) false, if 1 < tfFunc o.op then some (illegal 0x02) else none])
    (by simp [hd, ha, hfunc]) _).trans ?_
  dsimp only
  rw [hr]
  refine (firstErr_bind (l := [shapeIf ((o.d (tfTa o.op)).dim 3 != 1 || (o.d (tfTd o.op)).dim 0 != (o.d (tfTa o.op)).dim 0 || (o.d (tfTd o.op)).dim 1 != r.tw
    || (o.d (tfTd o.op)).dim 2 != r.th || (o.d (tfTd o.op)).dim 3 != 1), r.extentFault ((o.d (tfTa o.op)).dim 1) ((o.d (tfTa o.op)).dim 2) false])
    (by simp [ha3, hd0, hd1, hd2, hd3, hext, shapeIf]) _).trans ?_
  refine congrArg (fun vals => Except.ok ((s.tfStore n (o.d (tfTd o.op)) (tfSr o.op) vals).micaCountOpen n _)) (List.map_congr_left fun x _ => ?_)
  by_cases h0 : tfFunc o.op = 0
  · simp only [if_pos h0]
    split <;> rename_i hl
    · rw [show s.poolTaps n o r x = [] from (List.map_congr_left fun _ _ => rfl).trans hl]; rfl
    · rename_i y ys
      rw [show s.poolTaps n o r x = y :: ys from (List.map_congr_left fun _ _ => rfl).trans hl]; rfl
  · simp only [if_neg h0]
    split <;> rename_i hl
    · rw [show s.poolTaps n o r x = [] from (List.map_congr_left fun _ _ => rfl).trans hl]; rfl
    · rename_i y ys
      rw [show s.poolTaps n o r x = y :: ys from (List.map_congr_left fun _ _ => rfl).trans hl]; rfl

end

end Sys2Proof.Machine
end

section
/-! What the tensor forms of Mica do (O29). -/

namespace Sys2Proof.Machine

section
variable {s : State} {n : Fin 16} {op : OpWord}

theorem tew_runs (hgo : s.OpGoes n op [(95, 64)] .mica) (hop : opOf op = 0x43) (hd : s.tfDesc n ((s.opRecord n op).d (tfTd op)) true = none)
    (ha : s.tfDesc n ((s.opRecord n op).d (tfTa op)) false = none)
    (hb : tewB op = true → s.tfDesc n ((s.opRecord n op).d (tfTb op)) false = none ∧ bcastOk ((s.opRecord n op).d (tfTb op)) ((s.opRecord n op).d (tfTd op)) = true)
    (hc : tewC op = true → s.tfDesc n ((s.opRecord n op).d (tfTc op)) false = none ∧ bcastOk ((s.opRecord n op).d (tfTc op)) ((s.opRecord n op).d (tfTd op)) = true)
    (hshape : bcastOk ((s.opRecord n op).d (tfTa op)) ((s.opRecord n op).d (tfTd op)) = true) (hknown : micaKnown (s.opRecord n op).tewInts (tfFunc op % 128) = true) :
    ∃ t, s.engineOp n op [(95, 64)] = .next t ∧ s.TensorRan t (s.tfStore n ((s.opRecord n op).d (tfTd op)) (tfSr op) (s.tewVals n (s.opRecord n op))) n op [(s.opRecord n op).d (tfTd op)] := by
  refine tensor_stores (f := performTew) (vals := fun e => e.tewVals n (s.opRecord n op)) hgo hop (by decide) (fun v o h => by simp only [performOp, h]) hd (fun e he => he.tewVals n (s.opRecord n op))
    fun e he hdesc => ?_
  rw [← hdesc] at hd ha hb hc
  exact ⟨_, performTew_ok hd ha hb hc hshape hknown⟩

end

/-- Settles O29, a form at a time. -/
theorem tensorOps : Obligations.TensorOps := by
  unfold Obligations.TensorOps
  intro s n w fields stores reads writes
  refine ⟨?_, ?_, ?_, ?_, ?_, ?_, ?_⟩
  · intro op o td ta tb tc func useB useC ints hgo hd ha hb hc hshape hknown
    exact tew_runs hgo (opOf_mkOp ..) hd ha hb hc hshape hknown
  · intro op td ta f hgo hd ha hfunc hsame hone
    exact tensor_stores (f := performTred) (vals := fun e => e.tredVals n (s.opRecord n op)) hgo (opOf_mkOp ..) (by decide) (fun v o h => by simp only [performOp, h]) hd
      (fun e he => he.tredVals n _) fun e he hdesc => ⟨_, performTred_ok (hdesc ▸ hd) (hdesc ▸ ha) hfunc hsame hone⟩
  · intro op o td ta tb tc axis e hgo hd ha
    refine ⟨fun hfunc hsame hone => ?_, fun hfunc hb hc hsame hsameb honeb hsamec honec => ?_, fun hfunc hc hsame hsamec honec => ?_⟩
    · exact tensor_stores (f := performTsmx) (vals := fun e => e.tsmxMax n o) hgo (opOf_mkOp ..) (by decide) (fun v o h => by simp only [performOp, h]) hd
        (fun e he => he.tsmxMax n o) fun e _ hdesc => ⟨_, performTsmx_max (hdesc ▸ hd) (hdesc ▸ ha) hfunc hsame hone⟩
    · refine tensor_runs (f := performTsmx) (d := td) (ds := [tc]) (g := fun e => (e.tfStore n td (tfSr op) (s.tsmxExps n o)).tfStore n tc (tfSr op) (s.tsmxSums n o)) hgo
        (opOf_mkOp ..) (by decide) (fun v o h => by simp only [performOp, h]) (fun e he hdesc => ?_)
        (fun e => (e.stored_tfStore n.isLt (State.fits_of_tfDesc hd) (tfSr op) _).trans n.isLt (State.stored_tfStore _ n.isLt (State.fits_of_tfDesc hc) (tfSr op) _))
        fun e he => (he.tfStore td (tfSr op) _).tfStore tc (tfSr op) _
      rw [← he.tsmxExps, ← he.tsmxSums]
      exact ⟨_, performTsmx_exp (hdesc ▸ hd) (hdesc ▸ ha) hfunc (hdesc ▸ hb) (hdesc ▸ hc) hsame hsameb honeb hsamec honec⟩
    · exact tensor_stores (f := performTsmx) (vals := fun e => e.tsmxQuotients n o) hgo (opOf_mkOp ..) (by decide) (fun v o h => by simp only [performOp, h]) hd
        (fun e he => he.tsmxQuotients n o) fun e _ hdesc => ⟨_, performTsmx_quotient (hdesc ▸ hd) (hdesc ▸ ha) hfunc (hdesc ▸ hc) hsame hsamec honec⟩
  · intro op o td ta tb tc hgo hd ha hb hc hfunc hsame hbb hbc
    exact tensor_stores (f := performTnorm) (vals := fun e => e.tnormVals n o) hgo (opOf_mkOp ..) (by decide) (fun v o h => by simp only [performOp, h]) hd
      (fun e he => he.tnormVals n o) fun e _ hdesc => ⟨_, performTnorm_ok (hdesc ▸ hd) (hdesc ▸ ha) (hdesc ▸ hb) (hdesc ▸ hc) hfunc hsame hbb hbc⟩
  · intro op td ta tb at_ hgo hd ha hb hfunc hint hsame hbb hidx
    refine ⟨fun hfmt hmx => ?_, fun hne => ?_⟩
    · refine tensor_runs (f := performGather) (d := td) (ds := []) (g := fun e => e.wrTensor n td (s.gathered n (s.opRecord n op))) hgo (opOf_mkOp ..) (by decide)
        (fun v o h => by simp only [performOp, h]) (fun e he hdesc => ?_) (fun e => e.stored_wrTensor (State.fits_of_tfDesc hd) _) fun e he => he.wrTensor td _
      rw [← he.gathered]
      exact ⟨_, performGather_codes (hdesc ▸ hd) (hdesc ▸ ha) (hdesc ▸ hb) hfunc hint hsame hbb (he.indexWithin ▸ hidx) hfmt hmx⟩
    · exact tensor_stores (f := performGather) (vals := fun e => e.gatherVals n (s.opRecord n op)) hgo (opOf_mkOp ..) (by decide) (fun v o h => by simp only [performOp, h]) hd
        (fun e he => he.gatherVals n _) fun e he hdesc => ⟨_, performGather_values (hdesc ▸ hd) (hdesc ▸ ha) (hdesc ▸ hb) hfunc hint hsame hbb (he.indexWithin ▸ hidx) hne⟩
  · intro op td ta tb at_ hgo hd ha hb hfunc hint hsame hbb hmx hfmt hidx
    refine tensor_runs (f := performScatter) (d := td) (ds := []) (g := fun e => e.wrTensor n td (s.scattered n (s.opRecord n op))) hgo (opOf_mkOp ..) (by decide)
      (fun v o h => by simp only [performOp, h]) (fun e he hdesc => ?_) (fun e => e.stored_wrTensor (State.fits_of_tfDesc hd) _) fun e he => he.wrTensor td _
    rw [← he.scattered]
    exact ⟨_, performScatter_ok (hdesc ▸ hd) (hdesc ▸ ha) (hdesc ▸ hb) hfunc hint hsame hbb hmx hfmt (he.indexWithin ▸ hidx)⟩
  · intro op o td ta r hgo hd ha hfunc hr ha3 hd0 hd1 hd2 hd3 hext val taps
    have htap : ∀ i c, val i c = s.poolTap n o r i c := fun i c => funext fun y => (s.poolTap_eq n o r i c y).symm
    have htaps : ∀ x, taps x = s.poolTaps n o r x := fun x => congrArg (r.taps.map ·) (htap ..)
    simp only [htaps]
    exact tensor_stores (f := performTpool) (vals := fun e => e.poolVals n o r) hgo (opOf_mkOp ..) (by decide) (fun v o h => by simp only [performOp, h]) hd
      (fun e he => he.poolVals n o r) fun e he hdesc => ⟨_, performTpool_ok (hdesc ▸ hd) (hdesc ▸ ha) hfunc (by rw [he.window]; exact hr) ha3 hd0 hd1 hd2 hd3 hext⟩

end Sys2Proof.Machine
end

section
/-! The accumulator banks of a core: what naming a bank and letting products into a tile do (R84-R89). -/

namespace Sys2Proof.Machine

/-- A read after the keys in [lo, lo + n) are dropped. -/
theorem TMap.get_clearRange {α : Type} (d : Nat → α) (m : TMap α) (lo n j : Nat) :
    TMap.get d (TMap.clearRange m lo n) j = if lo ≤ j ∧ j < lo + n then d j else TMap.get d m j := by
  induction m with
  | nil => simp [TMap.clearRange, TMap.get]
  | cons x m ih =>
    rw [TMap.clearRange] at ih ⊢
    by_cases hx : lo ≤ x.1 ∧ x.1 < lo + n
    · rw [List.filter_cons_of_neg (by simpa using hx), ih, TMap.get]
      split
      · rfl
      · rw [if_neg fun h => by omega]
    · rw [List.filter_cons_of_pos (by simpa only [Bool.not_eq_true', Bool.and_eq_false_iff, decide_eq_false_iff_not, not_and_or] using hx), TMap.get, ih, TMap.get]
      split
      · rw [if_neg fun h => hx (by omega)]
      · rfl

/-! ### Accumulators -/

/-- Value and tag of an accumulator of core n. -/
def State.accAt (s : State) (n k : Nat) : Word64 := TMap.get (fun _ => 0#64) (s.core n).acc k
def State.tagAt (s : State) (n k : Nat) : Nat := TMap.get (fun _ => 0) (s.core n).tags k

/-- An accumulator as an op that names its bank finds it: empty where the op clears the bank or the bank has no class (R84). -/
def State.startCell (s : State) (n : Nat) (clear : Bool) (bank k : Nat) : Cell :=
  if clear = true ∨ (s.bankInfo n bank).cls = none then ⟨0#64, 0, false, false, false⟩ else ⟨s.accAt n k, s.tagAt n k, false, false, false⟩

/-- The class and exponent with which an op names its bank are its own, or those of the bank (R84). -/
def State.Named (s : State) (n bank : Nat) (clear : Bool) (cls : Nat) (e : Int) : Prop :=
  clear = true ∨ (s.bankInfo n bank).cls = none ∨ ((s.bankInfo n bank).cls = some cls ∧ (cls = 1 → (s.bankInfo n bank).eacc = e))

/-- A core with the banks and slots of another. -/
def CoreSt.banksOf (c x : CoreSt) : CoreSt := { c with acc := x.acc, tags := x.tags, banks := x.banks, slots := x.slots }

theorem CoreSt.aside_banksOf (x : CoreSt) (q : Queue) : CoreSt.aside (·.banksOf x) q := fun c y => ⟨by cases q <;> rfl, rfl⟩

theorem accKey_inj {b b' r r' k k' : Nat} (hr : r < 256) (hr' : r' < 256) (hk : k < 256) (hk' : k' < 256) :
    accKey b r k = accKey b' r' k' ↔ b = b' ∧ r = r' ∧ k = k' := by
  unfold accKey; omega

/-- A bank of core n has its class and exponent, its accumulators hold `v`; the other banks, and beside the core's slots everything else of the core, are as before. -/
structure State.Banked (s t : State) (n bank : Nat) (v : Nat → Nat → Cell) (cls : Nat) (e : Int) : Prop where
  core : ∃ x, t.core n = (s.core n).banksOf x
  cells : ∀ r < 256, ∀ k < 256, t.accAt n (accKey bank r k) = (v r k).v ∧ t.tagAt n (accKey bank r k) = (v r k).tag
  others : ∀ b, b ≠ bank → t.bankInfo n b = s.bankInfo n b ∧ ∀ r < 256, ∀ k < 256, t.accAt n (accKey b r k) = s.accAt n (accKey b r k)
  hasCls : (t.bankInfo n bank).cls = some cls
  hasEacc : cls = 1 → (t.bankInfo n bank).eacc = e

section
variable {s t u : State} {n bank cls : Nat} {v : Nat → Nat → Cell} {e : Int}

/-- A core whose slots alone have changed. -/
def CoreSt.withSlots (c : CoreSt) (m : TMap ASlot) : CoreSt := { c with slots := m }

theorem State.Banked.withSlots (h : s.Banked t n bank v cls e) (hu : ∃ m, u.core n = (t.core n).withSlots m) : s.Banked u n bank v cls e := by
  obtain ⟨m, hm⟩ := hu
  obtain ⟨x, hx⟩ := h.core
  have hacc : u.accAt n = t.accAt n := by funext k; rw [State.accAt, hm]; rfl
  have htag : u.tagAt n = t.tagAt n := by funext k; rw [State.tagAt, hm]; rfl
  have hinfo : u.bankInfo n = t.bankInfo n := by funext k; rw [State.bankInfo, hm]; rfl
  exact ⟨⟨x.withSlots m, by rw [hm, hx]; rfl⟩, by rw [hacc, htag]; exact h.cells, by rw [hacc, hinfo]; exact h.others, by rw [hinfo]; exact h.hasCls, by rw [hinfo]; exact h.hasEacc⟩

/-! ### Naming a bank -/

/-- A bank's record as an op that clears it leaves it. -/
def BankUse.info (u : BankUse) : BankInfo := ⟨some u.cls, u.width, if u.cls = 1 then u.eacc else 0, false, false, false⟩

/-- A core with a bank emptied and named anew. -/
def CoreSt.renamed (u : BankUse) (c : CoreSt) : CoreSt := { c.clearBank u.bank with banks := TMap.set (fun _ => BankInfo.empty) c.banks u.bank u.info }

theorem State.nameBank_eq (s : State) (n : Nat) (u : BankUse) : s.nameBank n u
    = if u.clear ∨ (s.bankInfo n u.bank).cls.isNone then .ok (s.upCore n (CoreSt.renamed u))
      else if (s.bankInfo n u.bank).cls ≠ some u.cls ∨ (u.cls = 1 ∧ (s.bankInfo n u.bank).eacc ≠ u.eacc) then .error ⟨0x04, 0, 0⟩ else .ok s := rfl

section
variable (s : State) (n : Nat) (f : CoreSt → CoreSt)
theorem State.core_upCore_self : (s.upCore n f).core n = f (s.core n) := by rw [State.upCore_eq, State.core_setCore, if_pos rfl]
theorem State.core_upCore_of_ne {j : Nat} (hj : j ≠ n) : (s.upCore n f).core j = s.core j := by rw [State.upCore_eq, State.core_setCore, if_neg (Ne.symm hj)]
end

theorem State.bankInfo_renamed (s : State) (n : Nat) (u : BankUse) (b : Nat) :
    (s.upCore n (CoreSt.renamed u)).bankInfo n b = if u.bank = b then u.info else s.bankInfo n b := by
  rw [State.bankInfo, State.core_upCore_self]; exact TMap.get_set (fun _ => BankInfo.empty) (s.core n).banks u.bank b u.info

theorem State.accAt_renamed (s : State) (n : Nat) (u : BankUse) (k : Nat) :
    (s.upCore n (CoreSt.renamed u)).accAt n k = if u.bank * 65536 ≤ k ∧ k < u.bank * 65536 + 65536 then 0#64 else s.accAt n k := by
  rw [State.accAt, State.core_upCore_self]; exact TMap.get_clearRange ..

theorem State.tagAt_renamed (s : State) (n : Nat) (u : BankUse) (k : Nat) :
    (s.upCore n (CoreSt.renamed u)).tagAt n k = if u.bank * 65536 ≤ k ∧ k < u.bank * 65536 + 65536 then 0 else s.tagAt n k := by
  rw [State.tagAt, State.core_upCore_self]; exact TMap.get_clearRange ..

theorem State.banked_renamed {u : BankUse} (h : u.clear = true ∨ (s.bankInfo n u.bank).cls = none) :
    s.Banked (s.upCore n (CoreSt.renamed u)) n u.bank (fun r k => s.startCell n u.clear u.bank (accKey u.bank r k)) u.cls u.eacc := by
  refine ⟨⟨CoreSt.renamed u (s.core n), by rw [State.core_upCore_self]; rfl⟩, fun r hr k hk => ?_, fun b hb => ⟨?_, fun r hr k hk => ?_⟩, ?_, fun h1 => ?_⟩
  · have hin : u.bank * 65536 ≤ accKey u.bank r k ∧ accKey u.bank r k < u.bank * 65536 + 65536 := by unfold accKey; omega
    rw [State.accAt_renamed, State.tagAt_renamed, if_pos hin, if_pos hin, State.startCell, if_pos h]
    exact ⟨rfl, rfl⟩
  · rw [State.bankInfo_renamed, if_neg (Ne.symm hb)]
  · rw [State.accAt_renamed, if_neg (by unfold accKey; omega)]
  · rw [State.bankInfo_renamed, if_pos rfl, BankUse.info]
  · rw [State.bankInfo_renamed, if_pos rfl, BankUse.info, if_pos h1]

theorem State.banked_kept {u : BankUse} (h : ¬(u.clear = true ∨ (s.bankInfo n u.bank).cls = none)) (hcls : (s.bankInfo n u.bank).cls = some u.cls)
    (he : u.cls = 1 → (s.bankInfo n u.bank).eacc = u.eacc) :
    s.Banked s n u.bank (fun r k => s.startCell n u.clear u.bank (accKey u.bank r k)) u.cls u.eacc := by
  refine ⟨⟨s.core n, rfl⟩, fun r _ k _ => ?_, fun _ _ => ⟨rfl, fun _ _ _ _ => rfl⟩, hcls, he⟩
  rw [State.startCell, if_neg h]
  exact ⟨rfl, rfl⟩

/-- A bank that an op may name takes its class and exponent, and is empty where it was cleared. -/
theorem State.nameBank_ok {u : BankUse} (h : s.Named n u.bank u.clear u.cls u.eacc) :
    ∃ t, s.nameBank n u = .ok t ∧ s.CoresAlone t ∧ (∀ j, j ≠ n → t.core j = s.core j)
      ∧ s.Banked t n u.bank (fun r k => s.startCell n u.clear u.bank (accKey u.bank r k)) u.cls u.eacc := by
  rw [State.nameBank_eq]
  by_cases hclear : u.clear = true ∨ (s.bankInfo n u.bank).cls = none
  · rw [if_pos (by rwa [Option.isNone_iff_eq_none])]
    exact ⟨_, rfl, State.coresAlone_upCore .., fun j hj => s.core_upCore_of_ne n _ hj, State.banked_renamed hclear⟩
  · obtain ⟨hcls, he⟩ := (h.resolve_left fun h => hclear (.inl h)).resolve_left fun h => hclear (.inr h)
    rw [if_neg (by rwa [Option.isNone_iff_eq_none]), if_neg (by rw [hcls]; simpa using he)]
    exact ⟨s, rfl, ⟨_, rfl⟩, fun _ _ => rfl, State.banked_kept hclear hcls he⟩

/-! ### Products of a tile -/

/-- The accumulators of a tile after products have entered them, with their keys. -/
def State.tileCells (s : State) (n : Nat) (u : BankUse) (rows cols : List Nat) (prods : Nat → Nat → List FVal) : List (Nat × Cell) :=
  rows.flatMap fun r => cols.map fun k =>
    (accKey u.bank r k, (prods r k).foldl (Cell.add u.cls u.eacc) ⟨s.accAt n (accKey u.bank r k), s.tagAt n (accKey u.bank r k), false, false, false⟩)

/-- A core with accumulators and a bank's record written. -/
def CoreSt.tiled (cells : List (Nat × Cell)) (bank : Nat) (i : BankInfo) (c : CoreSt) : CoreSt :=
  { c with
    acc := cells.foldl (fun m x => TMap.set (fun _ => 0#64) m x.1 x.2.v) c.acc
    tags := cells.foldl (fun m x => TMap.set (fun _ => 0) m x.1 x.2.tag) c.tags
    banks := TMap.set (fun _ => BankInfo.empty) c.banks bank i }

theorem State.accumulate_eq (s : State) (n : Nat) (u : BankUse) (rows cols : List Nat) (prods : Nat → Nat → List FVal) :
    ∃ i : BankInfo, i.cls = (s.bankInfo n u.bank).cls ∧ i.eacc = (s.bankInfo n u.bank).eacc
      ∧ s.accumulate n u rows cols prods = s.upCore n (CoreSt.tiled (s.tileCells n u rows cols prods) u.bank i) :=
  ⟨{ s.bankInfo n u.bank with
      sat := (s.bankInfo n u.bank).sat || (s.tileCells n u rows cols prods).any (·.2.sat)
      below := (s.bankInfo n u.bank).below || (s.tileCells n u rows cols prods).any (·.2.below)
      special := (s.bankInfo n u.bank).special || (s.tileCells n u rows cols prods).any (·.2.special) }, rfl, rfl, rfl⟩

/-- The products of a tile enter its accumulators in order, and no others. -/
theorem State.Banked.accumulate {u : BankUse} (h : s.Banked t n u.bank v u.cls u.eacc) {row rows cols : Nat} (hrow : row + rows ≤ 256) (hcols : cols ≤ 256)
    (prods : Nat → Nat → List FVal) (hv : ∀ r k, v r k = ⟨(v r k).v, (v r k).tag, false, false, false⟩) :
    s.Banked (t.accumulate n u ((List.range rows).map (row + ·)) (List.range cols) prods) n u.bank
      (fun r k => if row ≤ r ∧ r < row + rows ∧ k < cols then (prods r k).foldl (Cell.add u.cls u.eacc) (v r k) else v r k) u.cls u.eacc := by
  obtain ⟨i, hcls, heacc, heq⟩ := t.accumulate_eq n u ((List.range rows).map (row + ·)) (List.range cols) prods
  rw [heq]
  have hcells : ∀ x ∈ t.tileCells n u ((List.range rows).map (row + ·)) (List.range cols) prods, ∃ r k, row ≤ r ∧ r < row + rows ∧ k < cols
      ∧ x = (accKey u.bank r k, (prods r k).foldl (Cell.add u.cls u.eacc) (v r k)) := fun x hx => by
    simp only [State.tileCells, List.mem_flatMap, List.mem_map, List.mem_range] at hx
    obtain ⟨-, ⟨r, hr, rfl⟩, k, hk, rfl⟩ := hx
    obtain ⟨hacc, htag⟩ := h.cells (row + r) (by omega) k (by omega)
    exact ⟨row + r, k, by omega, by omega, hk, by rw [hacc, htag, ← hv]⟩
  have hmem : ∀ r k, row ≤ r → r < row + rows → k < cols → (accKey u.bank r k, (prods r k).foldl (Cell.add u.cls u.eacc) (v r k))
      ∈ t.tileCells n u ((List.range rows).map (row + ·)) (List.range cols) prods := fun r k h1 h2 h3 => by
    simp only [State.tileCells, List.mem_flatMap, List.mem_map, List.mem_range]
    obtain ⟨hacc, htag⟩ := h.cells r (by omega) k (by omega)
    exact ⟨r, ⟨r - row, by omega, by omega⟩, k, h3, by rw [hacc, htag, ← hv]⟩
  generalize t.tileCells n u ((List.range rows).map (row + ·)) (List.range cols) prods = cells at hcells hmem
  have hacc : (t.upCore n (CoreSt.tiled cells u.bank i)).accAt n = TMap.get (fun _ => 0#64) (cells.foldl (fun m x => TMap.set (fun _ => 0#64) m x.1 x.2.v) (t.core n).acc) := by
    funext k; rw [State.accAt, State.core_upCore_self]; rfl
  have htag : (t.upCore n (CoreSt.tiled cells u.bank i)).tagAt n = TMap.get (fun _ => 0) (cells.foldl (fun m x => TMap.set (fun _ => 0) m x.1 x.2.tag) (t.core n).tags) := by
    funext k; rw [State.tagAt, State.core_upCore_self]; rfl
  have hinfo : ∀ b, (t.upCore n (CoreSt.tiled cells u.bank i)).bankInfo n b = if u.bank = b then i else t.bankInfo n b := fun b => by
    rw [State.bankInfo, State.core_upCore_self]; exact TMap.get_set ..
  have hkeep : ∀ b r k, r < 256 → k < 256 → ¬(b = u.bank ∧ row ≤ r ∧ r < row + rows ∧ k < cols) → ∀ x ∈ cells, x.1 ≠ accKey b r k := fun b r k hr hk hout x hx e => by
    obtain ⟨r', k', h1, h2, h3, rfl⟩ := hcells x hx
    obtain ⟨rfl, rfl, rfl⟩ := (accKey_inj (by omega) hr (by omega) hk).1 e
    exact hout ⟨rfl, h1, h2, h3⟩
  obtain ⟨x, hx⟩ := h.core
  refine ⟨⟨CoreSt.tiled cells u.bank i (t.core n), by rw [State.core_upCore_self, hx]; rfl⟩, fun r hr k hk => ?_, fun b hb => ⟨?_, fun r hr k hk => ?_⟩, ?_, fun h1 => ?_⟩
  · by_cases hin : row ≤ r ∧ r < row + rows ∧ k < cols
    · have hone : ∀ y ∈ cells, y.1 = accKey u.bank r k → y = (accKey u.bank r k, (prods r k).foldl (Cell.add u.cls u.eacc) (v r k)) := fun y hy e => by
        obtain ⟨r', k', h1, h2, h3, rfl⟩ := hcells y hy
        obtain ⟨-, rfl, rfl⟩ := (accKey_inj (by omega) hr (by omega) hk).1 e
        rfl
      have hm := hmem r k hin.1 hin.2.1 hin.2.2
      rw [if_pos hin, hacc, htag]
      exact ⟨TMap.get_foldl_set_of_mem _ Prod.fst (·.2.v) _ _ hm fun y hy e => by rw [hone y hy e], TMap.get_foldl_set_of_mem _ Prod.fst (·.2.tag) _ _ hm fun y hy e => by rw [hone y hy e]⟩
    · have hne := hkeep u.bank r k hr hk fun h => hin h.2
      rw [if_neg hin, hacc, htag, TMap.get_foldl_set_of_ne _ Prod.fst (·.2.v) _ _ hne, TMap.get_foldl_set_of_ne _ Prod.fst (·.2.tag) _ _ hne]
      exact h.cells r hr k hk
  · rw [hinfo, if_neg (Ne.symm hb)]; exact (h.others b hb).1
  · rw [hacc, TMap.get_foldl_set_of_ne _ Prod.fst (·.2.v) _ _ (hkeep b r k hr hk fun h => hb h.1)]
    exact (h.others b hb).2 r hr k hk
  · rw [hinfo, if_pos rfl, hcls]; exact h.hasCls
  · rw [hinfo, if_pos rfl, heacc]; exact h.hasEacc h1

theorem State.coresAlone_accumulate (s : State) (n : Nat) (u : BankUse) (rows cols : List Nat) (prods : Nat → Nat → List FVal) : s.CoresAlone (s.accumulate n u rows cols prods) :=
  ⟨_, rfl⟩

end

end Sys2Proof.Machine
end

section
/-! How an op of the Slab runs: its bank, its tile, and its counts (R81, R84-R89, R210). -/

namespace Sys2Proof.Machine

/-! ### What an op of the Slab counts -/

/-- What an op does once its products are in the tile: it counts its work, takes free values and marks slots as weak. -/
structure State.SlabEnds (s t : State) (n : Nat) : Prop where
  works : s.Works t n
  slots : ∃ m, t.core n = (s.core n).withSlots m
  mem : t.mem = s.mem
  poison : t.poison = s.poison
  out : t.out = s.out

section
variable {s t u : State} {n : Nat}

theorem State.SlabEnds.refl (s : State) (n : Nat) : s.SlabEnds s n := ⟨.refl s n, ⟨_, rfl⟩, rfl, rfl, rfl⟩

theorem State.SlabEnds.trans (h : s.SlabEnds t n) (hn : n < 16) (h' : t.SlabEnds u n) : s.SlabEnds u n := by
  obtain ⟨m, hm⟩ := h.slots
  obtain ⟨m', hm'⟩ := h'.slots
  exact ⟨h.works.trans hn h'.works, ⟨m', by rw [hm', hm]; rfl⟩, h'.mem.trans h.mem, h'.poison.trans h.poison, h'.out.trans h.out⟩

theorem State.slabEnds_count (s : State) {k : Nat} (hk : k ∈ s.workKeys n) (w b : Nat) : s.SlabEnds (s.count k w b) n :=
  ⟨s.works_setObj hk _, ⟨_, rfl⟩, rfl, rfl, rfl⟩

theorem State.slabEnds_account (s : State) (n : Nat) {a : Nat} (ha : a < 9) (cycles : Nat) : s.SlabEnds (s.account n a cycles) n :=
  ⟨s.works_account n ha cycles, ⟨_, s.core_account ..⟩, s.mem_account .., s.poison_account .., s.out_account ..⟩

theorem State.slabEnds_tookFree (s : State) (n k : Nat) : s.SlabEnds (s.tookFree k) n := ⟨s.works_tookFree n k, ⟨_, rfl⟩, rfl, rfl, rfl⟩

theorem State.slabEnds_slabCount (s : State) (hn : n < 16) (busy macs : Nat) : s.SlabEnds (s.slabCount n busy macs) n :=
  ((s.slabEnds_count (s.activity_mem_workKeys n (by decide)) 64 busy).trans hn (State.slabEnds_count _ (State.activity_mem_workKeys _ n (by decide)) 64 macs)).trans hn
    (State.slabEnds_account _ n (by decide) busy)

theorem CoreSt.foldl_setSlot (gs : List Nat) (f : ASlot → ASlot) (c : CoreSt) : ∃ m, gs.foldl (fun c g => c.setSlot g (f (c.slot g))) c = c.withSlots m := by
  induction gs generalizing c with
  | nil => exact ⟨_, rfl⟩
  | cons g gs ih =>
    obtain ⟨m, hm⟩ := ih (c.setSlot g (f (c.slot g)))
    exact ⟨m, hm⟩

theorem State.slabEnds_weakRot (s : State) (hn : n < 16) (o : QOp) (cls width : Nat) : s.SlabEnds (s.weakRot n o cls width) n := by
  unfold State.weakRot
  split
  · refine (s.slabEnds_count (s.kAssay_mem_workKeys n) 32 _).trans hn ⟨State.works_upCore .., ?_, rfl, rfl, rfl⟩
    rw [State.core_upCore_self]
    exact CoreSt.foldl_setSlot _ (fun x => { x with weak := true }) _
  · exact .refl s n

theorem State.objN_slabCount (s : State) (hn : n < 16) (busy macs : Nat) : (s.slabCount n busy macs).objN (kCore n 2 3) = (s.objN (kCore n 2 3) + macs) % 2 ^ 64 := by
  have hne : kCore n 2 1 ≠ kCore n 2 3 := by simp only [kCore, okey]; omega
  rw [State.objN, State.slabCount, State.obj_account _ hn _ _ _ (by decide) (by decide) (by decide), ← State.objN, State.objN_count _ _ _ _ _ (by decide), if_pos rfl,
    State.objN_count _ _ _ _ _ (by decide), if_neg hne]

theorem State.objN_weakRot (s : State) (n : Nat) (o : QOp) (cls width : Nat) {k : Nat} (hk : kAssay (s.holder n) 0xa ≠ k) : (s.weakRot n o cls width).objN k = s.objN k := by
  unfold State.weakRot
  split
  · rw [State.objN, State.upCore_eq, State.obj_setCore, State.count_eq, State.obj_setObj, if_neg hk]; rfl
  · rfl

theorem kAssay_ne_activity (m : Nat) (hn : n < 16) (a : Nat) (ha : a < 256) : kAssay m 0xa ≠ kCore n 2 a := by
  simp only [kAssay, kCore, okey]; omega

end

/-! ### The core's banks as an op enters and is marked -/

section
variable {s e : State} {n : Nat} {op : OpWord} {q : Queue}

theorem State.Enters.core_banks (h : s.Enters e n op q) : (e.core n).acc = (s.core n).acc ∧ (e.core n).tags = (s.core n).tags ∧ (e.core n).banks = (s.core n).banks := by
  rw [h.core]; cases q <;> exact ⟨rfl, rfl, rfl⟩

theorem State.Enters.accAt (h : s.Enters e n op q) : e.accAt n = s.accAt n := by
  funext k; rw [State.accAt, State.accAt, h.core_banks.1]
theorem State.Enters.tagAt (h : s.Enters e n op q) : e.tagAt n = s.tagAt n := by
  funext k; rw [State.tagAt, State.tagAt, h.core_banks.2.1]
theorem State.Enters.bankInfo (h : s.Enters e n op q) : e.bankInfo n = s.bankInfo n := by
  funext k; rw [State.bankInfo, State.bankInfo, h.core_banks.2.2]
theorem State.Enters.startCell (h : s.Enters e n op q) : e.startCell n = s.startCell n := by
  funext clear bank k; simp only [State.startCell, h.accAt, h.tagAt, h.bankInfo]
theorem State.Enters.named (h : s.Enters e n op q) : e.Named n = s.Named n := by
  funext bank clear cls x; simp only [State.Named, h.bankInfo]

theorem State.core_banks_markRan (u : State) (n : Nat) (q : Queue) (seq : Nat) :
    ((u.markRan n q seq).core n).acc = (u.core n).acc ∧ ((u.markRan n q seq).core n).tags = (u.core n).tags ∧ ((u.markRan n q seq).core n).banks = (u.core n).banks := by
  rw [State.core_markRan, if_pos rfl]; cases q <;> exact ⟨rfl, rfl, rfl⟩

theorem State.accAt_markRan (u : State) (n : Nat) (q : Queue) (seq : Nat) : (u.markRan n q seq).accAt n = u.accAt n := by
  funext k; rw [State.accAt, State.accAt, (u.core_banks_markRan n q seq).1]
theorem State.tagAt_markRan (u : State) (n : Nat) (q : Queue) (seq : Nat) : (u.markRan n q seq).tagAt n = u.tagAt n := by
  funext k; rw [State.tagAt, State.tagAt, (u.core_banks_markRan n q seq).2.1]
theorem State.bankInfo_markRan (u : State) (n : Nat) (q : Queue) (seq : Nat) : (u.markRan n q seq).bankInfo n = u.bankInfo n := by
  funext k; rw [State.bankInfo, State.bankInfo, (u.core_banks_markRan n q seq).2.2]

end

/-! ### The run of an op of the Slab -/

/-- An op of the Slab has run: the products have entered the tile of its bank, of which the accumulators beside the tile are kept or cleared, and no other bank and no byte has changed. -/
def State.TileRan (s t : State) (n : Nat) (op : OpWord) (u : BankUse) (row rows cols : Nat) (prods : Nat → Nat → List FVal) : Prop :=
  (∃ c : CoreSt, s.OpRan t n op .slab { s.core n with acc := c.acc, tags := c.tags, banks := c.banks, slots := c.slots }) ∧ t.mem = s.mem ∧ t.poison = s.poison ∧ t.out = s.out
    ∧ (∀ r < rows, ∀ k < cols, t.accAt n (accKey u.bank (row + r) k) = ((prods r k).foldl (Cell.add u.cls u.eacc) (s.startCell n u.clear u.bank (accKey u.bank (row + r) k))).v
      ∧ t.tagAt n (accKey u.bank (row + r) k) = ((prods r k).foldl (Cell.add u.cls u.eacc) (s.startCell n u.clear u.bank (accKey u.bank (row + r) k))).tag)
    ∧ (∀ r < 256, ∀ k < 256, ¬(row ≤ r ∧ r < row + rows ∧ k < cols) → t.accAt n (accKey u.bank r k) = (s.startCell n u.clear u.bank (accKey u.bank r k)).v
      ∧ t.tagAt n (accKey u.bank r k) = (s.startCell n u.clear u.bank (accKey u.bank r k)).tag)
    ∧ (∀ b < 4, b ≠ u.bank → t.bankInfo n b = s.bankInfo n b ∧ ∀ r < 256, ∀ k < 256, t.accAt n (accKey b r k) = s.accAt n (accKey b r k))
    ∧ (t.bankInfo n u.bank).cls = some u.cls ∧ (u.cls = 1 → (t.bankInfo n u.bank).eacc = u.eacc)

theorem State.startCell_flags (s : State) (n : Nat) (clear : Bool) (bank k : Nat) :
    s.startCell n clear bank k = ⟨(s.startCell n clear bank k).v, (s.startCell n clear bank k).tag, false, false, false⟩ := by
  unfold State.startCell; split <;> rfl

/-- An op of the Slab whose effect `f` names its bank and lets the products `prods` into a tile has run so. -/
theorem slab_runs {s : State} {n : Fin 16} {op : OpWord} {c : Nat} {f : State → Nat → QOp → Except Exc State} {u : BankUse} {row rows cols : Nat} {prods : Nat → Nat → List FVal}
    {P : Nat → Prop} (hgo : s.OpGoes n op [(95, 48)] .slab) (hop : opOf op = c) (hc : c ≠ 0x64) (hf : ∀ v o, opOf o.op = c → performOp v n o = wholly f v n o)
    (hnamed : s.Named n u.bank u.clear u.cls u.eacc) (hrow : row + rows ≤ 256) (hcols : cols ≤ 256)
    (hperf : ∀ e, s.Enters e n op .slab → ∀ v, e.nameBank n u = .ok v → e.CoresAlone v → ∃ x, f e n (s.opRecord n op) = .ok x
      ∧ (v.accumulate n u ((List.range rows).map (row + ·)) (List.range cols) fun r k => prods (r - row) k).SlabEnds x n ∧ P (x.objN (kCore n 2 3))) :
    ∃ t, s.engineOp n op [(95, 48)] = .next t ∧ s.TileRan t n op u row rows cols prods ∧ P (t.objN (kCore n 2 3)) := by
  have hn := n.isLt
  obtain ⟨e, he, hrun⟩ := State.engineOp_runs hgo hop (by decide) hc hf
  obtain ⟨v, hv, halone, hothers, hbank⟩ := State.nameBank_ok (s := e) (n := n) (u := u) (by rw [he.named]; exact hnamed)
  obtain ⟨x, hok, hends, hP⟩ := hperf e he v hv halone
  have hacc := hbank.accumulate hrow hcols (fun r k => prods (r - row) k) fun r k => e.startCell_flags n u.clear u.bank _
  have hsame := halone.trans (v.coresAlone_accumulate n u ((List.range rows).map (row + ·)) (List.range cols) fun r k => prods (r - row) k)
  have hw : e.Works (v.accumulate n u ((List.range rows).map (row + ·)) (List.range cols) fun r k => prods (r - row) k) n := by
    obtain ⟨i, -, -, heq⟩ := v.accumulate_eq n u ((List.range rows).map (row + ·)) (List.range cols) fun r k => prods (r - row) k
    refine ⟨fun j hj => ?_, fun k _ => hsame.obj k, fun j => ?_, ?_⟩
    · rw [heq, State.core_upCore_of_ne _ _ _ hj, hothers j hj]
    · obtain ⟨c, hc⟩ := hsame
      rw [hc]; exact ⟨_, rfl⟩
    · obtain ⟨c, hc⟩ := hsame
      rw [hc]
  generalize (v.accumulate n u ((List.range rows).map (row + ·)) (List.range cols) fun r k => prods (r - row) k) = y at hends hacc hsame hw
  have hb := hacc.withSlots hends.slots
  obtain ⟨z, hz⟩ := hb.core
  have hstore := he.sameStore.trans hsame.sameStore
  refine ⟨_, hrun _ hok, ⟨⟨z, he.opRan hn (by decide) (hw.trans hn hends.works) (CoreSt.aside_banksOf z _) hz⟩, ?_, ?_, ?_, fun r hr k hk => ?_, fun r hr k hk hout => ?_, fun b _ hne => ?_, ?_, ?_⟩, hP⟩
  · rw [State.mem_markRan, hends.mem, hstore.mem]
  · rw [State.poison_markRan, hends.poison, hstore.poison]
  · rw [State.out_markRan, hends.out, hstore.out]
  · have hcell := hb.cells (row + r) (by omega) k (by omega)
    rw [if_pos (by omega), he.startCell, Nat.add_sub_cancel_left] at hcell
    rw [State.accAt_markRan, State.tagAt_markRan]
    exact hcell
  · have hcell := hb.cells r hr k hk
    rw [if_neg hout, he.startCell] at hcell
    rw [State.accAt_markRan, State.tagAt_markRan]
    exact hcell
  · rw [State.bankInfo_markRan, State.accAt_markRan, ← he.accAt, ← he.bankInfo]
    exact hb.others b hne
  · rw [State.bankInfo_markRan]; exact hb.hasCls
  · rw [State.bankInfo_markRan]; exact hb.hasEacc

end Sys2Proof.Machine
end

section
/-! What MATMUL, CONV and ACCIN let into their tiles (R83, R123-R125, R146-R151). -/

namespace Sys2Proof.Machine

/-- What follows a result that is known. -/
theorem ok_bind {α β : Type} {m : Except Exc α} {x : α} (h : m = .ok x) (k : α → Except Exc β) : (m >>= k) = k x := by
  rw [h]; rfl

/-- Where E_acc is not automatic the blocks of its operands do not matter (R87). -/
theorem opEacc_explicit {op : OpWord} (h : bit op 84 = false) (cls fa fb kt : Nat) (x y : List (List Nat × List Nat)) : opEacc op cls fa fb kt x = opEacc op cls fa fb kt y := by
  simp only [opEacc, h, Bool.false_eq_true, if_false]

section
variable {s e v : State} {n : Nat} {o : QOp} {a b : Desc} {p : Pair} {kt : Nat} {x : Int}

theorem State.SameStore.blockPairs (h : s.SameStore e) : e.blockPairs = s.blockPairs := by
  funext n a b m cols k; simp only [State.blockPairs, h.scaleCode]
theorem State.SameStore.bElem (h : s.SameStore e) : e.bElem = s.bElem := by
  funext n d cols col k i1 i2 i3; simp only [State.bElem, h.elemCode, h.scaleCode]
theorem State.SameStore.tapVal (h : s.SameStore e) : e.tapVal = s.tapVal := by
  funext n d r i ky kx c; simp only [State.tapVal, h.elem]

/-- The bank that MATMUL and CONV name. -/
def QOp.bankUse (o : QOp) (p : Pair) (x : Int) : BankUse := ⟨fld o.op 87 86, bit o.op 85, p.cls, x, p.nPass⟩

/-- An op of Table 4-1 once its products are in the tile: counted, a free value taken, weak rotations marked. -/
def State.multiplied (s : State) (n : Nat) (o : QOp) (p : Pair) (busy macs : Nat) : State := ((s.slabCount n busy macs).tookFree).weakRot n o p.cls p.nPass

theorem State.slabEnds_multiplied (s : State) (hn : n < 16) (o : QOp) (p : Pair) (busy macs : Nat) : s.SlabEnds (s.multiplied n o p busy macs) n :=
  ((s.slabEnds_slabCount hn busy macs).trans hn (State.slabEnds_tookFree ..)).trans hn (State.slabEnds_weakRot _ hn ..)

theorem State.objN_multiplied (s : State) (hn : n < 16) (o : QOp) (p : Pair) (busy macs : Nat) :
    (s.multiplied n o p busy macs).objN (kCore n 2 3) = (s.objN (kCore n 2 3) + macs) % 2 ^ 64 := by
  rw [State.multiplied, State.objN_weakRot _ _ _ _ _ (kAssay_ne_activity _ hn 3 (by decide)), ← State.objN_slabCount _ hn busy]; rfl

/-- No pair of Table 4-1 takes more than the columns of a bank. -/
theorem pairOf_nPass_le {fa fb : Nat} (h : pairOf fa fb = some p) : p.nPass ≤ 256 := by
  unfold pairOf at h
  split_ifs at h <;> (injection h with h; subst h; decide)

/-! ### MATMUL -/

/-- The products of row r and column c of a MATMUL, in order of k. -/
def State.matProds (s : State) (n : Nat) (o : QOp) (a b : Desc) (r c : Nat) : List FVal :=
  (List.range (a.dim 0)).map fun i => (s.elem n a i r 0 0).mul (t1 o (s.bElem n b (b.dim 0) c i i 0 0))

theorem State.SameStore.matProds (h : s.SameStore e) : e.matProds = s.matProds := by
  funext n o a b r c; simp only [State.matProds, h.elem, h.bElem]

theorem performMatmul_ok (ha : o.d (fld o.op 95 92) = a) (hb : o.d (fld o.op 91 88) = b) (hfa : a.form [0] = none) (hfb : b.form [0] = none)
    (hra : s.reachFault n a false = none) (hrb : s.reachFault n b false = none) (hp : pairOf a.fmt b.fmt = some p) (hrow : fld o.op 73 66 + a.dim 1 ≤ 256)
    (hnc : b.dim 0 ≤ p.nPass) (hb1 : b.dim 1 = a.dim 0) (ha2 : a.dim 2 = 1) (ha3 : a.dim 3 = 1) (hb2 : b.dim 2 = 1) (hb3 : b.dim 3 = 1)
    (hmx : (isMx a.fmt || isMx b.fmt) = true → a.dim 0 % 32 = 0) (hkt : declaredKt (o.s (fld o.op 65 61)) (a.dim 0) = .ok kt)
    (hx : opEacc o.op p.cls a.fmt b.fmt kt (s.blockPairs n a b (a.dim 1) (b.dim 0) (if isMx a.fmt || isMx b.fmt then a.dim 0 / 32 else 1)) = .ok x)
    (hv : s.nameBank n (o.bankUse p x) = .ok v) :
    ∃ busy, performMatmul s n o = .ok ((v.accumulate n (o.bankUse p x) ((List.range (a.dim 1)).map (fld o.op 73 66 + ·)) (List.range (b.dim 0))
      fun r c => s.matProds n o a b (r - fld o.op 73 66) c).multiplied n o p busy (a.dim 1 * b.dim 0 * a.dim 0)) := by
  subst ha hb
  have hblock : ((isMx (o.d (fld o.op 95 92)).fmt || isMx (o.d (fld o.op 91 88)).fmt) && decide ((o.d (fld o.op 95 92)).dim 0 % 32 ≠ 0)) = false := by
    rw [Bool.and_eq_false_imp]
    intro h
    simp [hmx h]
  apply Exists.intro
  · refine (firstErr_bind (l := [(o.d (fld o.op 95 92)).form [0], (o.d (fld o.op 91 88)).form [0]]) (by simp [hfa, hfb]) _).trans ?_
    dsimp only
    rw [hp]
    refine (firstErr_bind (l := [shapeIf (decide (256 - fld o.op 73 66 < (o.d (fld o.op 95 92)).dim 1) || decide (p.nPass < (o.d (fld o.op 91 88)).dim 0)
      || (o.d (fld o.op 91 88)).dim 1 != (o.d (fld o.op 95 92)).dim 0 || (o.d (fld o.op 95 92)).dim 2 != 1 || (o.d (fld o.op 95 92)).dim 3 != 1
      || (o.d (fld o.op 91 88)).dim 2 != 1 || (o.d (fld o.op 91 88)).dim 3 != 1
      || ((isMx (o.d (fld o.op 95 92)).fmt || isMx (o.d (fld o.op 91 88)).fmt) && decide ((o.d (fld o.op 95 92)).dim 0 % 32 ≠ 0))),
      s.reachFault n (o.d (fld o.op 95 92)) false, s.reachFault n (o.d (fld o.op 91 88)) false]) ?_ _).trans ?_
    · rw [hblock]
      simp [shapeIf, hra, hrb, hnc, hb1, ha2, ha3, hb2, hb3, show (o.d (fld o.op 95 92)).dim 1 ≤ 256 - fld o.op 73 66 by omega]
    · refine (ok_bind hkt _).trans ((ok_bind hx _).trans ((ok_bind hv _).trans ?_))
      rfl

/-! ### CONV -/

/-- The products of tile pixel i and output channel c of a CONV, tap by tap. -/
def State.convProds (s : State) (n : Nat) (o : QOp) (a b : Desc) (r : Window) (i c : Nat) : List FVal :=
  r.taps.flatMap fun y => (List.range (a.dim 0)).map fun ch =>
    (s.tapVal n a r i y.1 y.2 ch).mul (t1 o (s.bElem n b (b.dim 0) c ((y.1 * r.kw + y.2) * a.dim 0 + ch) ch y.2 y.1))

theorem State.SameStore.convProds (h : s.SameStore e) : e.convProds = s.convProds := by
  funext n o a b r i c; simp only [State.convProds, h.tapVal, h.bElem]

theorem State.tapVal_eq (s : State) (n : Nat) (d : Desc) (r : Window) (i ky kx c : Nat) : s.tapVal n d r i ky kx c
    = match r.tap true (d.dim 1) (d.dim 2) i ky kx with
      | some z => s.elem n d c z.1 z.2 0
      | none => scaled d.fmt (r.padValue % 2 ^ elemBits d.fmt) 127 := by
  unfold State.tapVal
  cases r.tap true (d.dim 1) (d.dim 2) i ky kx <;> rfl

theorem State.convProds_eq (s : State) (n : Nat) (o : QOp) (a b : Desc) (r : Window) (i c : Nat) : s.convProds n o a b r i c
    = r.taps.flatMap fun y => (List.range (a.dim 0)).map fun ch =>
      (match r.tap true (a.dim 1) (a.dim 2) i y.1 y.2 with
        | some z => s.elem n a ch z.1 z.2 0
        | none => scaled a.fmt (r.padValue % 2 ^ elemBits a.fmt) 127).mul (t1 o (s.bElem n b (b.dim 0) c ((y.1 * r.kw + y.2) * a.dim 0 + ch) ch y.2 y.1)) := by
  simp only [State.convProds, State.tapVal_eq]

theorem performConv_ok {r : Window} (ha : o.d (fld o.op 95 92) = a) (hb : o.d (fld o.op 91 88) = b) (hfa : a.form [0] = none) (hfb : b.form [0] = none)
    (hra : s.reachFault n a false = none) (hrb : s.reachFault n b false = none) (hp : pairOf a.fmt b.fmt = some p) (hr : s.window n (o.s (fld o.op 60 56)) = .ok r)
    (ha3 : a.dim 3 = 1) (hb1 : b.dim 1 = a.dim 0) (hb2 : b.dim 2 = r.kw) (hb3 : b.dim 3 = r.kh) (hco : b.dim 0 ≤ p.nPass) (hrow : fld o.op 73 66 + r.th * r.tw ≤ 256)
    (hext : r.extentFault (a.dim 1) (a.dim 2) true = none) (hmxa : isMx a.fmt = true → a.dim 0 % 32 = 0) (hmxb : isMx b.fmt = true → r.kh * r.kw * a.dim 0 % 32 = 0)
    (hauto : (isMx a.fmt || isMx b.fmt) = true → bit o.op 84 = false) (hkt : declaredKt (o.s (fld o.op 65 61)) (r.kh * r.kw * a.dim 0) = .ok kt)
    (hx : opEacc o.op p.cls a.fmt b.fmt kt [([127], [127])] = .ok x) (hv : s.nameBank n (o.bankUse p x) = .ok v) :
    ∃ busy macs, performConv s n o = .ok ((v.accumulate n (o.bankUse p x) ((List.range (r.th * r.tw)).map (fld o.op 73 66 + ·)) (List.range (b.dim 0))
      fun i c => s.convProds n o a b r (i - fld o.op 73 66) c).multiplied n o p busy macs) := by
  subst ha hb
  have hpairs : ∀ l : List (List Nat × List Nat), opEacc o.op p.cls (o.d (fld o.op 95 92)).fmt (o.d (fld o.op 91 88)).fmt kt
      (if isMx (o.d (fld o.op 95 92)).fmt || isMx (o.d (fld o.op 91 88)).fmt then l else [([127], [127])]) = .ok x := fun l => by
    rw [← hx]
    split
    · exact opEacc_explicit (hauto ‹_›) ..
    · rfl
  apply Exists.intro
  apply Exists.intro
  · refine (firstErr_bind (l := [(o.d (fld o.op 95 92)).form [0], (o.d (fld o.op 91 88)).form [0]]) (by simp [hfa, hfb]) _).trans ?_
    dsimp only
    rw [hp]
    refine (ok_bind hr _).trans ((firstErr_bind (l := [shapeIf ((o.d (fld o.op 95 92)).dim 3 != 1 || (o.d (fld o.op 91 88)).dim 1 != (o.d (fld o.op 95 92)).dim 0
      || (o.d (fld o.op 91 88)).dim 2 != r.kw || (o.d (fld o.op 91 88)).dim 3 != r.kh || decide (p.nPass < (o.d (fld o.op 91 88)).dim 0)
      || decide (256 - fld o.op 73 66 < r.th * r.tw) || (isMx (o.d (fld o.op 95 92)).fmt && decide ((o.d (fld o.op 95 92)).dim 0 % 32 ≠ 0))
      || (isMx (o.d (fld o.op 91 88)).fmt && decide (r.kh * r.kw * (o.d (fld o.op 95 92)).dim 0 % 32 ≠ 0))),
      r.extentFault ((o.d (fld o.op 95 92)).dim 1) ((o.d (fld o.op 95 92)).dim 2) true, s.reachFault n (o.d (fld o.op 95 92)) false,
      s.reachFault n (o.d (fld o.op 91 88)) false]) ?_ _).trans ?_)
    · have h1 : (isMx (o.d (fld o.op 95 92)).fmt && decide ((o.d (fld o.op 95 92)).dim 0 % 32 ≠ 0)) = false := by
        rw [Bool.and_eq_false_imp]; intro h; simp [hmxa h]
      have h2 : (isMx (o.d (fld o.op 91 88)).fmt && decide (r.kh * r.kw * (o.d (fld o.op 95 92)).dim 0 % 32 ≠ 0)) = false := by
        rw [Bool.and_eq_false_imp]; intro h; simp [hmxb h]
      rw [h1, h2]
      simp [shapeIf, hra, hrb, hco, hb1, ha3, hb2, hb3, hext, show r.th * r.tw ≤ 256 - fld o.op 73 66 by omega]
    · refine (ok_bind hkt _).trans ((ok_bind (hpairs _) _).trans ((ok_bind hv _).trans ?_))
      rfl

/-! ### ACCIN -/

theorem performAccin_ok {cls : Nat} (ha : o.d (fld o.op 95 92) = a) (hfa : a.form [0] = none) (hra : s.reachFault n a false = none)
    (hfmt : cls = 0 ∧ a.fmt = codeINT32 ∨ (cls = 1 ∨ cls = 2) ∧ a.fmt = codeFP32)
    (hfresh : bit o.op 85 = true ∨ (s.bankInfo n (fld o.op 87 86)).cls = none → bit o.op 84 = false ∧ cls = fld o.op 50 49 ∧ x = sfld o.op 83 74 ∧ (cls = 1 → -320 ≤ x ∧ x ≤ 320))
    (hkept : ¬(bit o.op 85 = true ∨ (s.bankInfo n (fld o.op 87 86)).cls = none) → (s.bankInfo n (fld o.op 87 86)).cls = some cls ∧ x = (s.bankInfo n (fld o.op 87 86)).eacc)
    (hrow : fld o.op 73 66 + a.dim 1 ≤ 256) (hwide : ¬(bit o.op 85 = true ∨ (s.bankInfo n (fld o.op 87 86)).cls = none) → a.dim 0 ≤ (s.bankInfo n (fld o.op 87 86)).width)
    (hwidef : bit o.op 85 = true ∨ (s.bankInfo n (fld o.op 87 86)).cls = none → a.dim 0 ≤ if cls = 2 then 128 else 256) (ha2 : a.dim 2 = 1) (ha3 : a.dim 3 = 1) {width : Nat}
    (hwidth : width = if bit o.op 85 = true ∨ (s.bankInfo n (fld o.op 87 86)).cls = none then (if cls = 2 then 128 else 256) else (s.bankInfo n (fld o.op 87 86)).width)
    (hv : s.nameBank n ⟨fld o.op 87 86, bit o.op 85, cls, x, width⟩ = .ok v) :
    performAccin s n o = .ok ((v.accumulate n ⟨fld o.op 87 86, bit o.op 85, cls, x, width⟩ ((List.range (a.dim 1)).map (fld o.op 73 66 + ·)) (List.range (a.dim 0))
      fun r c => [t1 o (s.elem n a c (r - fld o.op 73 66) 0 0)]).slabCount n (16 + (a.count + 255) / 256) 0) := by
  subst ha
  refine (firstErr_bind (l := [(o.d (fld o.op 95 92)).form [0]]) (by simp [hfa]) _).trans ?_
  dsimp only
  have hform : (o.d (fld o.op 95 92)).fmt = if cls = 0 then codeINT32 else codeFP32 := by
    obtain ⟨h, h'⟩ | ⟨h, h'⟩ := hfmt
    · rw [if_pos h, h']
    · rw [if_neg (by omega), h']
  have hrows : (o.d (fld o.op 95 92)).dim 1 ≤ 256 - fld o.op 73 66 := by omega
  by_cases hf : bit o.op 85 = true ∨ (s.bankInfo n (fld o.op 87 86)).cls = none
  · have hb : (bit o.op 85 || (s.bankInfo n (fld o.op 87 86)).cls.isNone) = true := by
      rw [Bool.or_eq_true, Option.isNone_iff_eq_none]; exact hf
    obtain ⟨h84, rfl, rfl, hrange⟩ := hfresh hf
    have hcols := hwidef hf
    rw [if_pos hf] at hwidth
    subst hwidth
    simp only [hb, if_true]
    refine (firstErr_bind ?_ _).trans (ok_bind hv _)
    have hclass : ¬(fld o.op 50 49 = 3 ∨ bit o.op 84 = true ∨ fld o.op 50 49 = 1 ∧ (sfld o.op 83 74 < -320 ∨ 320 < sfld o.op 83 74)) := by
      rw [h84]
      rintro (h | h | ⟨h, h'⟩)
      · omega
      · cases h
      · have := hrange h
        omega
    simp [← hform, hclass, shapeIf, hrows, hcols, ha2, ha3, hra]
  · have hb : (bit o.op 85 || (s.bankInfo n (fld o.op 87 86)).cls.isNone) = false := by
      rw [← Bool.not_eq_true, Bool.or_eq_true, Option.isNone_iff_eq_none]; exact hf
    obtain ⟨hcls, rfl⟩ := hkept hf
    have hcols := hwide hf
    rw [if_neg hf] at hwidth
    subst hwidth
    simp only [hb, Bool.false_eq_true, if_false]
    simp only [hcls, Option.getD_some]
    refine (firstErr_bind ?_ _).trans (ok_bind hv _)
    simp [← hform, shapeIf, hrows, hcols, ha2, ha3, hra]

end

end Sys2Proof.Machine
end

section
/-! The integer class adds exactly (R85), and what READOUT stores (R90-R92, R127). -/

namespace Sys2Proof.Machine

/-! ### Values of the integer formats -/

theorem FVal.ofRat_fin (z : Bool) (q : Rat) : ∃ neg mag, FVal.ofRat z q = .fin neg mag ∧ (if neg then -mag else mag) = q := by
  unfold FVal.ofRat
  by_cases h0 : q = 0
  · exact ⟨z, 0, if_pos h0, by rw [h0]; cases z <;> simp⟩
  · refine ⟨decide (q < 0), if q < 0 then -q else q, if_neg h0, ?_⟩
    by_cases h : q < 0 <;> simp [h]

/-- The product of two rationals as values is their product. -/
theorem FVal.toRat_mul_ofRat (y z : Bool) (p q : Rat) : ((FVal.ofRat y p).mul (FVal.ofRat z q)).toRat = p * q := by
  obtain ⟨a, x, h, rfl⟩ := FVal.ofRat_fin y p
  obtain ⟨b, w, h', rfl⟩ := FVal.ofRat_fin z q
  rw [h, h', FVal.mul, FVal.toRat]
  cases a <;> cases b <;> simp

theorem natAbs_sext_le {w : Nat} (hw : 0 < w) (x : Nat) : (sext w x).natAbs ≤ 2 ^ (w - 1) := by
  have hx := Nat.mod_lt x (Nat.two_pow_pos w)
  have hpow : 2 ^ w = 2 ^ (w - 1) + 2 ^ (w - 1) := by rw [← Nat.two_mul, ← Nat.pow_succ', Nat.succ_eq_add_one, Nat.sub_add_cancel hw]
  rw [sext, if_neg (by omega)]
  generalize x % 2 ^ w = y at hx
  split
  · omega
  · rw [hpow] at hx ⊢
    omega

/-- The formats of a pair in the integer class: INT4, INT8 or INT16 (Table 4-1). -/
theorem fmt_of_pair_int {a b : Nat} {p : Pair} (hp : pairOf a b = some p) (hcls : p.cls = 0) : (a = 1 ∨ a = 2 ∨ a = 3) ∧ (b = 1 ∨ b = 2 ∨ b = 3) := by
  unfold pairOf codeINT4 codeINT8 codeINT16 at hp
  split_ifs at hp with h1 h2 h3
  · omega
  · omega
  · omega
  all_goals
    injection hp with hp
    rw [← hp] at hcls
    cases hcls

theorem scaled_int {c : Nat} (hc : c = 1 ∨ c = 2 ∨ c = 3) (code scale : Nat) : scaled c code scale = FVal.ofRat false (sext (elemBits c) code : Rat) := by
  rcases hc with rfl | rfl | rfl <;> rfl

theorem elemBits_int {c : Nat} (hc : c = 1 ∨ c = 2 ∨ c = 3) : 0 < elemBits c ∧ elemBits c ≤ 16 := by
  rcases hc with rfl | rfl | rfl <;> decide

theorem natAbs_sext_int {c : Nat} (hc : c = 1 ∨ c = 2 ∨ c = 3) (code : Nat) : (sext (elemBits c) code).natAbs ≤ 2 ^ 15 := by
  obtain ⟨h0, h16⟩ := elemBits_int hc
  exact (natAbs_sext_le h0 code).trans (Nat.pow_le_pow_right (by decide) (by omega))

/-! ### Exact sums -/

/-- An integer that fits is added exactly (R85). -/
theorem Cell.toInt_addInt (c : Cell) (p : Int) (h : (c.v.toInt + p).natAbs < 2 ^ 63) : (c.addInt p).v.toInt = c.v.toInt + p := by
  have h1 : ¬accMax < c.v.toInt + p := by unfold accMax; omega
  have h2 : ¬c.v.toInt + p < -accMax := by unfold accMax; omega
  simp only [Cell.addInt, if_neg h1, if_neg h2]
  rw [BitVec.toInt_ofInt]
  exact Int.bmod_eq_of_le (by omega) (by omega)

/-- Products of at most B in magnitude, few enough not to reach the bound, are summed exactly in the integer class. -/
theorem Cell.toInt_foldl_add (B : Nat) (e : Int) (l : List FVal) (hl : ∀ p ∈ l, p.toRat.num.natAbs ≤ B) (c : Cell) (h : c.v.toInt.natAbs + l.length * B < 2 ^ 63) :
    (l.foldl (Cell.add 0 e) c).v.toInt = c.v.toInt + (l.map fun p => p.toRat.num).sum := by
  induction l generalizing c with
  | nil => simp
  | cons p l ih =>
    have hp := hl p List.mem_cons_self
    rw [List.length_cons, Nat.add_mul, Nat.one_mul] at h
    have hone : (Cell.add 0 e c p).v.toInt = c.v.toInt + p.toRat.num := c.toInt_addInt _ (by omega)
    rw [List.foldl_cons, ih (fun x hx => hl x (List.mem_cons_of_mem _ hx)) _ (by rw [hone]; omega), hone, List.map_cons, List.sum_cons, Int.add_assoc]

/-- A product of two integer elements, as MATMUL takes it. -/
theorem State.num_product {s : State} {n : Nat} {o : QOp} {a b : Desc} (ht : o.trf.t1 = false) (ha : a.fmt = 1 ∨ a.fmt = 2 ∨ a.fmt = 3) (hb : b.fmt = 1 ∨ b.fmt = 2 ∨ b.fmt = 3) (i r c : Nat) :
    (((s.elem n a i r 0 0).mul (t1 o (s.bElem n b (b.dim 0) c i i 0 0))).toRat).num
      = sext (elemBits a.fmt) (s.elemCode n a i r 0 0) * sext (elemBits b.fmt) (s.elemCode n b c i 0 0) := by
  rw [t1, ht, if_neg (by decide), State.elem, State.bElem, scaled_int ha, scaled_int hb, FVal.toRat_mul_ofRat, ← Int.cast_mul]
  exact Rat.num_intCast _

theorem State.toInt_matProds {s : State} {n : Nat} {o : QOp} {a b : Desc} (ht : o.trf.t1 = false) (ha : a.fmt = 1 ∨ a.fmt = 2 ∨ a.fmt = 3) (hb : b.fmt = 1 ∨ b.fmt = 2 ∨ b.fmt = 3) (r c : Nat)
    (e : Int) (x : Cell) (h : x.v.toInt.natAbs + a.dim 0 * 2 ^ 30 < 2 ^ 63) : ((s.matProds n o a b r c).foldl (Cell.add 0 e) x).v.toInt
      = x.v.toInt + ((List.range (a.dim 0)).map fun i => sext (elemBits a.fmt) (s.elemCode n a i r 0 0) * sext (elemBits b.fmt) (s.elemCode n b c i 0 0)).sum := by
  rw [Cell.toInt_foldl_add (2 ^ 30) e _ (fun p hp => ?_) x (by rw [State.matProds, List.length_map, List.length_range]; exact h), State.matProds, List.map_map]
  · exact congrArg (x.v.toInt + List.sum ·) (List.map_congr_left fun i _ => State.num_product ht ha hb i r c)
  · obtain ⟨i, -, rfl⟩ := List.mem_map.1 hp
    rw [State.num_product ht ha hb, Int.natAbs_mul]
    exact (Nat.mul_le_mul (natAbs_sext_int ha _) (natAbs_sext_int hb _)).trans (by decide)

/-! ### READOUT -/

/-- A tile that a state shows, a state of equal memory shows as well. -/
theorem State.SameStore.readoutTile {s e : State} (h : s.SameStore e) {n : Nat} {o : QOp} {td : Desc} {empty : Bool} {vals : List FVal} {modes : List RMode} {x : Written}
    (hx : s.readoutTile n o td empty vals modes = .ok x) :
    ∃ sat ys c, x = s.wrVals n td sat ys modes c ∧ e.readoutTile n o td empty vals modes = .ok (e.wrVals n td sat ys modes c) := by
  simp only [State.readoutTile] at hx ⊢
  rw [h.colParam]
  split at hx
  · cases hx
  · rw [if_neg ‹_›]
    split at hx <;> injection hx with hx
    · exact ⟨_, _, _, hx.symm, if_pos ‹_›⟩
    · exact ⟨_, _, _, hx.symm, if_neg ‹_›⟩

/-- The flags that a readout raises: those of its bank and those of its conversion (R92, R96). -/
def readoutFlags (i : BankInfo) (x : Written) : Nat :=
  (if i.sat then 1 else 0) + (if i.below then 2 else 0) + (if i.special then 4 else 0) + (if x.satInt then 8 else 0) + (if x.satFp then 16 else 0) + (if x.nan then 32 else 0)

theorem performReadout_ok {s : State} {n : Nat} {o : QOp} {td : Desc} {x : Written} (htd : o.d (fld o.op 77 74) = td) (hform : td.form [0] = none)
    (hreach : s.reachFault n td true = none) (hsr : fld o.op 65 64 = 0) (hraw : isRaw td.fmt = false) (hrows : fld o.op 85 78 + 1 = fld o.op 93 86 + td.dim 1) (h2 : td.dim 2 = 1)
    (h3 : td.dim 3 = 1) (hcols : fld o.op 73 66 + td.dim 0 ≤ if (s.bankInfo n (fld o.op 95 94)).cls.isSome then (s.bankInfo n (fld o.op 95 94)).width else 256)
    (hmx : isMx td.fmt = true → fld o.op 73 66 % 32 = 0 ∧ td.dim 0 % 32 = 0) (hscale : s.colParamFault n o (fld o.op 61 60) (fld o.op 59 55) (td.dim 0) = none)
    (hbias : s.colParamFault n o (fld o.op 54 53) (fld o.op 52 48) (td.dim 0) = none)
    (hx : s.readoutTile n o td (s.bankInfo n (fld o.op 95 94)).cls.isNone
      (td.coords.map fun y => s.accVal n (fld o.op 95 94) (fld o.op 93 86 + y.2.1) (fld o.op 73 66 + y.1)) (List.replicate td.count .rne) = .ok x) :
    performReadout s n o = .ok (x.s.orObj (kArith n) (readoutFlags (s.bankInfo n (fld o.op 95 94)) x)) := by
  subst htd
  have hblock : (isMx (o.d (fld o.op 77 74)).fmt && (decide (fld o.op 73 66 % 32 ≠ 0) || decide ((o.d (fld o.op 77 74)).dim 0 % 32 ≠ 0))) = false := by
    rw [Bool.and_eq_false_imp]
    intro h
    simp [hmx h]
  have hst : (fld o.op 65 64 == 1) = false := by rw [hsr]; rfl
  unfold performReadout
  simp only [hst, drawModes, Bool.false_eq_true, if_false, false_and]
  refine (firstErr_bind ?_ _).trans ((ok_bind hx _).trans rfl)
  rw [hblock]
  simp [shapeIf, hform, hreach, hsr, hraw, hrows, h2, h3, hscale, hbias, hcols]

theorem State.Enters.accVal {s e : State} {n : Nat} {op : OpWord} {q : Queue} (h : s.Enters e n op q) : e.accVal n = s.accVal n := by
  obtain ⟨hacc, htags, -⟩ := h.core_banks
  funext b row col
  simp only [State.accVal, hacc, htags, h.bankInfo]

theorem readout_runs {s : State} {n : Fin 16} {op : OpWord} {o : QOp} {td : Desc} {x : Written} (hgo : s.OpGoes n op [(95, 32)] .readout) (hop : opOf op = 0x23) (ho : s.opRecord n op = o)
    (htd : o.d (fld op 77 74) = td) (hform : td.form [0] = none) (hreach : s.reachFault n td true = none) (hsr : fld op 65 64 = 0) (hraw : isRaw td.fmt = false)
    (hrows : fld op 85 78 + 1 = fld op 93 86 + td.dim 1) (h2 : td.dim 2 = 1) (h3 : td.dim 3 = 1)
    (hcols : fld op 73 66 + td.dim 0 ≤ if (s.bankInfo n (fld op 95 94)).cls.isSome then (s.bankInfo n (fld op 95 94)).width else 256)
    (hmx : isMx td.fmt = true → fld op 73 66 % 32 = 0 ∧ td.dim 0 % 32 = 0) (hscale : s.colParamFault n o (fld op 61 60) (fld op 59 55) (td.dim 0) = none)
    (hbias : s.colParamFault n o (fld op 54 53) (fld op 52 48) (td.dim 0) = none)
    (hx : s.readoutTile n o td (s.bankInfo n (fld op 95 94)).cls.isNone
      (td.coords.map fun y => s.accVal n (fld op 95 94) (fld op 93 86 + y.2.1) (fld op 73 66 + y.1)) (List.replicate td.count .rne) = .ok x) :
    ∃ t, s.engineOp n op [(95, 32)] = .next t ∧ s.OpRan t n op .readout (s.core n) ∧ t.storesAs x.s ∧ t.out = s.out
      ∧ t.obj (kArith n) = s.obj (kArith n) ||| BitVec.ofNat 64 (readoutFlags (s.bankInfo n (fld op 95 94)) x) ∧ t.obj (kSr n) = s.obj (kSr n)
      ∧ ∀ y, td.misses n y → t.byte y = s.byte y := by
  have hn := n.isLt
  obtain ⟨e, he, hrun⟩ := State.engineOp_runs (f := performReadout) hgo hop (by decide) (by decide) fun v o h => by simp only [performOp, h]
  obtain ⟨sat, ys, c, rfl, hy⟩ := he.sameStore.readoutTile hx
  have hoo : o.op = op := by rw [← ho]; rfl
  rw [← he.bankInfo, ← he.accVal] at hy
  have hok := performReadout_ok (s := e) (n := n) (o := o) (x := e.wrVals n td sat ys (List.replicate td.count .rne) c) (by rw [hoo]; exact htd) hform (by rw [he.reachFault hn]; exact hreach)
    (by rw [hoo]; exact hsr) hraw (by rw [hoo]; exact hrows) h2 h3 (by rw [hoo, he.bankInfo]; exact hcols) (by rw [hoo]; exact hmx) (by rw [hoo, he.colParamFault hn]; exact hscale)
    (by rw [hoo, he.colParamFault hn]; exact hbias) (by rw [hoo]; exact hy)
  rw [ho] at hrun
  obtain ⟨hstore, hint, hfp, hnan⟩ := he.sameStore.wrVals n td sat ys (List.replicate td.count .rne) c
  have hflags : readoutFlags (e.bankInfo n (fld o.op 95 94)) (e.wrVals n td sat ys (List.replicate td.count .rne) c)
      = readoutFlags (s.bankInfo n (fld op 95 94)) (s.wrVals n td sat ys (List.replicate td.count .rne) c) := by
    rw [readoutFlags, readoutFlags, hint, hfp, hnan, he.bankInfo, hoo]
  rw [hflags] at hok
  have hs := e.stores_wrVals n td sat ys (List.replicate td.count .rne) c
  have hfits := State.fits_of_reach hform hraw (fun h => (hmx h).2) hreach
  have hkeys : kArith n ≠ kSr n := by simp only [kArith, kSr, kCore, okey]; omega
  generalize readoutFlags (s.bankInfo n (fld op 95 94)) (s.wrVals n td sat ys (List.replicate td.count .rne) c) = fl at hok
  refine ⟨_, hrun _ hok, he.opRan_same hn (by decide) ((hs.works n).trans hn (State.works_setObj _ (State.kArith_mem_workKeys _ n) _)) (hs.core n), ?_, ?_, ?_, ?_, fun y hm => ?_⟩
  · exact ⟨hstore.mem, hstore.poison, hstore.out⟩
  · exact hs.out.trans he.sameStore.out
  · rw [State.obj_markRan, State.orObj, State.obj_setObj, if_pos rfl, hs.obj, kArith, he.workObj (.inl rfl) (by decide)]
  · rw [State.obj_markRan, State.orObj, State.obj_setObj, if_neg hkeys, hs.obj, he.kSr]
  · rw [← he.sameStore.byte, ← e.byte_wrVals hfits hm sat ys (List.replicate td.count .rne) c]
    rfl

end Sys2Proof.Machine
end

section
/-! What the ops of the Slab and its readout do (O30). -/

namespace Sys2Proof.Machine

section
variable {s : State} {n : Fin 16} {op : OpWord} {a b : Desc} {p : Pair} {kt : Nat} {x : Int}

theorem matmul_runs (hgo : s.OpGoes n op [(95, 48)] .slab) (hop : opOf op = 0x20) {o : QOp} (ho : s.opRecord n op = o) (ha : o.d (fld o.op 95 92) = a) (hb : o.d (fld o.op 91 88) = b)
    (hfa : a.form [0] = none) (hfb : b.form [0] = none) (hra : s.reachFault n a false = none) (hrb : s.reachFault n b false = none) (hp : pairOf a.fmt b.fmt = some p)
    (hrow : fld o.op 73 66 + a.dim 1 ≤ 256) (hnc : b.dim 0 ≤ p.nPass) (hb1 : b.dim 1 = a.dim 0) (ha2 : a.dim 2 = 1) (ha3 : a.dim 3 = 1) (hb2 : b.dim 2 = 1) (hb3 : b.dim 3 = 1)
    (hmx : (isMx a.fmt || isMx b.fmt) = true → a.dim 0 % 32 = 0) (hkt : declaredKt (o.s (fld o.op 65 61)) (a.dim 0) = .ok kt)
    (hx : opEacc o.op p.cls a.fmt b.fmt kt (s.blockPairs n a b (a.dim 1) (b.dim 0) (if isMx a.fmt || isMx b.fmt then a.dim 0 / 32 else 1)) = .ok x)
    (hnamed : s.Named n (fld o.op 87 86) (bit o.op 85) p.cls x) :
    ∃ t, s.engineOp n op [(95, 48)] = .next t ∧ s.TileRan t n op (o.bankUse p x) (fld o.op 73 66) (a.dim 1) (b.dim 0) (s.matProds n o a b)
      ∧ t.objN (kCore n 2 3) = (s.objN (kCore n 2 3) + a.dim 1 * b.dim 0 * a.dim 0) % 2 ^ 64 := by
  have hn := n.isLt
  refine slab_runs (f := performMatmul) (P := (· = (s.objN (kCore n 2 3) + a.dim 1 * b.dim 0 * a.dim 0) % 2 ^ 64)) hgo hop (by decide) (fun v o h => by simp only [performOp, h]) hnamed hrow
    (hnc.trans (pairOf_nPass_le hp)) fun e he v hv halone => ?_
  rw [← he.reachFault hn] at hra hrb
  rw [← he.sameStore.blockPairs] at hx
  obtain ⟨busy, hok⟩ := performMatmul_ok ha hb hfa hfb hra hrb hp hrow hnc hb1 ha2 ha3 hb2 hb3 hmx hkt hx hv
  rw [ho, ← he.sameStore.matProds]
  refine ⟨_, hok, State.slabEnds_multiplied _ hn .., ?_⟩
  rw [State.objN_multiplied _ hn, (State.coresAlone_accumulate ..).objN, halone.objN, he.workObjN (.inr rfl) (by decide)]

theorem conv_runs (hgo : s.OpGoes n op [(95, 48)] .slab) (hop : opOf op = 0x21) {o : QOp} {r : Window} (ho : s.opRecord n op = o) (ha : o.d (fld o.op 95 92) = a)
    (hb : o.d (fld o.op 91 88) = b) (hfa : a.form [0] = none) (hfb : b.form [0] = none) (hra : s.reachFault n a false = none) (hrb : s.reachFault n b false = none)
    (hp : pairOf a.fmt b.fmt = some p) (hr : s.window n (o.s (fld o.op 60 56)) = .ok r)
    (ha3 : a.dim 3 = 1) (hb1 : b.dim 1 = a.dim 0) (hb2 : b.dim 2 = r.kw) (hb3 : b.dim 3 = r.kh) (hco : b.dim 0 ≤ p.nPass) (hrow : fld o.op 73 66 + r.th * r.tw ≤ 256)
    (hext : r.extentFault (a.dim 1) (a.dim 2) true = none) (hmxa : isMx a.fmt = true → a.dim 0 % 32 = 0) (hmxb : isMx b.fmt = true → r.kh * r.kw * a.dim 0 % 32 = 0)
    (hauto : (isMx a.fmt || isMx b.fmt) = true → bit o.op 84 = false) (hkt : declaredKt (o.s (fld o.op 65 61)) (r.kh * r.kw * a.dim 0) = .ok kt)
    (hx : opEacc o.op p.cls a.fmt b.fmt kt [([127], [127])] = .ok x) (hnamed : s.Named n (fld o.op 87 86) (bit o.op 85) p.cls x) :
    ∃ t, s.engineOp n op [(95, 48)] = .next t ∧ s.TileRan t n op (o.bankUse p x) (fld o.op 73 66) (r.th * r.tw) (b.dim 0) (s.convProds n o a b r) := by
  have hn := n.isLt
  obtain ⟨t, hrun, hran, -⟩ := slab_runs (f := performConv) (P := fun _ => True) hgo hop (by decide) (fun v o h => by simp only [performOp, h]) (u := o.bankUse p x) hnamed hrow
    (hco.trans (pairOf_nPass_le hp)) (prods := s.convProds n o a b r) fun e he v hv _ => by
      rw [← he.reachFault hn] at hra hrb
      rw [← he.sameStore.window] at hr
      obtain ⟨busy, macs, hok⟩ := performConv_ok ha hb hfa hfb hra hrb hp hr ha3 hb1 hb2 hb3 hco hrow hext hmxa hmxb hauto hkt hx hv
      rw [ho, ← he.sameStore.convProds]
      exact ⟨_, hok, State.slabEnds_multiplied _ hn .., trivial⟩
  exact ⟨t, hrun, hran⟩

/-- The bank that an ACCIN names: as wide as its class where it is fresh, else as it stands. -/
def State.accinUse (s : State) (n : Nat) (o : QOp) (cls : Nat) (x : Int) : BankUse :=
  ⟨fld o.op 87 86, bit o.op 85, cls, x, if bit o.op 85 = true ∨ (s.bankInfo n (fld o.op 87 86)).cls = none then (if cls = 2 then 128 else 256) else (s.bankInfo n (fld o.op 87 86)).width⟩

theorem accin_runs (hgo : s.OpGoes n op [(95, 48)] .slab) (hop : opOf op = 0x22) {o : QOp} {cls : Nat} (ho : s.opRecord n op = o) (ha : o.d (fld o.op 95 92) = a)
    (hfa : a.form [0] = none) (hra : s.reachFault n a false = none) (hfmt : cls = 0 ∧ a.fmt = codeINT32 ∨ (cls = 1 ∨ cls = 2) ∧ a.fmt = codeFP32)
    (hfresh : bit o.op 85 = true ∨ (s.bankInfo n (fld o.op 87 86)).cls = none → bit o.op 84 = false ∧ cls = fld o.op 50 49 ∧ x = sfld o.op 83 74 ∧ (cls = 1 → -320 ≤ x ∧ x ≤ 320))
    (hkept : ¬(bit o.op 85 = true ∨ (s.bankInfo n (fld o.op 87 86)).cls = none) → (s.bankInfo n (fld o.op 87 86)).cls = some cls ∧ x = (s.bankInfo n (fld o.op 87 86)).eacc)
    (hrow : fld o.op 73 66 + a.dim 1 ≤ 256) (hwide : ¬(bit o.op 85 = true ∨ (s.bankInfo n (fld o.op 87 86)).cls = none) → a.dim 0 ≤ (s.bankInfo n (fld o.op 87 86)).width ∧ a.dim 0 ≤ 256)
    (hwidef : bit o.op 85 = true ∨ (s.bankInfo n (fld o.op 87 86)).cls = none → a.dim 0 ≤ if cls = 2 then 128 else 256) (ha2 : a.dim 2 = 1) (ha3 : a.dim 3 = 1) :
    ∃ t, s.engineOp n op [(95, 48)] = .next t ∧ s.TileRan t n op (s.accinUse n o cls x) (fld o.op 73 66) (a.dim 1) (a.dim 0) (fun r c => [t1 o (s.elem n a c r 0 0)]) := by
  have hn := n.isLt
  have hnamed : s.Named n (fld o.op 87 86) (bit o.op 85) cls x := by
    by_cases hf : bit o.op 85 = true ∨ (s.bankInfo n (fld o.op 87 86)).cls = none
    · exact hf.imp_right .inl
    · obtain ⟨hcls, hx⟩ := hkept hf
      exact .inr (.inr ⟨hcls, fun _ => hx.symm⟩)
  have hcols : a.dim 0 ≤ 256 := by
    by_cases hf : bit o.op 85 = true ∨ (s.bankInfo n (fld o.op 87 86)).cls = none
    · refine (hwidef hf).trans ?_
      split <;> decide
    · exact (hwide hf).2
  obtain ⟨t, hrun, hran, -⟩ := slab_runs (f := performAccin) (P := fun _ => True) hgo hop (by decide) (fun v o h => by simp only [performOp, h]) (u := s.accinUse n o cls x) hnamed hrow hcols
    (prods := fun r c => [t1 o (s.elem n a c r 0 0)]) fun e he v hv _ => by
      rw [← he.reachFault hn] at hra
      have hok := performAccin_ok (s := e) (width := (s.accinUse n o cls x).width) ha hfa hra hfmt (by rw [he.bankInfo]; exact hfresh) (by rw [he.bankInfo]; exact hkept) hrow
        (by rw [he.bankInfo]; exact fun h => (hwide h).1) (by rw [he.bankInfo]; exact hwidef) ha2 ha3 (by rw [he.bankInfo]; rfl) hv
      rw [ho, ← he.sameStore.elem]
      exact ⟨_, hok, State.slabEnds_slabCount _ hn .., trivial⟩
  exact ⟨t, hrun, hran⟩

end

/-- Settles O30, an op at a time. -/
theorem matrixOps : Obligations.MatrixOps := by
  unfold Obligations.MatrixOps
  intro s n w info acc tag start named ran shown
  refine ⟨?_, ?_, ?_, ?_⟩
  · intro op o a b p kt e hgo hsa hsb hp hrow hnc hb1 ha2 ha3 hb2 hb3 hmx hkt hx hnamed
    obtain ⟨t, hrun, hran, hmacs⟩ := matmul_runs hgo (opOf_mkOp ..) (o := o) rfl rfl rfl hsa.1 hsb.1 hsa.2 hsb.2 hp hrow hnc hb1 ha2 ha3 hb2 hb3 hmx hkt hx hnamed
    refine ⟨t, hrun, hran, hmacs, fun hcls ht r hr c hc hfit => ?_⟩
    obtain ⟨hfa, hfb⟩ := fmt_of_pair_int hp hcls
    obtain ⟨-, -, -, -, hcells, -⟩ := hran
    have hcell := (hcells r hr c hc).1
    rw [show (o.bankUse p e).cls = 0 from hcls] at hcell
    exact (congrArg BitVec.toInt hcell).trans (State.toInt_matProds ht hfa hfb r c e _ hfit)
  · intro op o a b mx p r kt e hgo hsa hsb hp hr ha3 hb1 hb2 hb3 hco hrow hext hmxa hmxb hauto hkt hx hnamed
    obtain ⟨t, hrun, hran⟩ := conv_runs (a := a) (b := b) hgo (opOf_mkOp ..) (o := o) rfl rfl rfl hsa.1 hsb.1 hsa.2 hsb.2 hp hr ha3 hb1 hb2 hb3 hco hrow hext hmxa hmxb hauto hkt hx hnamed
    have hprods := funext fun i => funext fun c => s.convProds_eq n o a b r i c
    rw [hprods] at hran
    exact ⟨t, hrun, hran⟩
  · intro op o a i fresh cls e hgo hsa hfmt hfresh hkept hrow hwide hwidef ha2 ha3
    exact accin_runs hgo (opOf_mkOp ..) (o := o) rfl rfl hsa.1 hsa.2 hfmt hfresh hkept hrow hwide hwidef ha2 ha3
  · intro op o td bank r0 col i flags x hgo hs hsr hraw hrows h2 h3 hcols hmx hscale hbias hx
    exact readout_runs hgo (opOf_mkOp ..) (o := o) rfl rfl hs.1 hs.2 hsr hraw hrows h2 h3 hcols hmx hscale hbias hx

end Sys2Proof.Machine
end

section
/-! Pebble: the order of its ops, and what PCONV and PREAD do (R103-R105, R126, R158, O25). -/

namespace Sys2Proof.Machine

/-! ### The state of a Pebble -/

section
variable (s : State) (c : Nat) (p : PebSt)

@[simp] theorem State.pebble_setPebble (k : Nat) : (s.setPebble c p).pebble k = if c = k then p else s.pebble k := TMap.get_set ..

@[simp] theorem State.core_setPebble (j : Nat) : (s.setPebble c p).core j = s.core j := rfl

theorem State.reachFault_setPebble : (s.setPebble c p).reachFault = s.reachFault := rfl

theorem State.colParamFault_setPebble : (s.setPebble c p).colParamFault = s.colParamFault := rfl

end

/-! ### The order of the ops (R104) -/

/-- The Pebble that takes op x off its queue: its banks and line are kept for the instance and world of the op before. -/
def State.pebbleNext (s : State) (c : Nat) (x : PebOp) (rest : List PebOp) : PebSt :=
  let same := (s.pebble c).lastInst = some (s.holder x.core) ∧ (s.pebble c).lastSecure = decide (s.objN (kCore x.core 0 3) = 1)
  ⟨rest, some (s.holder x.core), decide (s.objN (kCore x.core 0 3) = 1), if same then (s.pebble c).acc else [], if same then (s.pebble c).line else none⟩

section
variable {s u : State} {c : Fin 4} {x : PebOp} {rest : List PebOp} {o : QOp}

theorem exec_pebbleOp_none (h : (s.pebble c).queue = []) : exec (.pebbleOp c) s = .next s := by
  refine (rfl : _ = execPebbleOp c s).trans ?_
  simp only [execPebbleOp, h]

theorem exec_pebbleOp_gone (h : (s.pebble c).queue = x :: rest) (hfind : (s.core x.core).pebble.find? (fun o => o.seq = x.seq) = none) :
    exec (.pebbleOp c) s = .next (s.setPebble c { s.pebble c with queue := rest }) := by
  refine (rfl : _ = execPebbleOp c s).trans ?_
  simp only [execPebbleOp, h, hfind]

section
variable (h : (s.pebble c).queue = x :: rest) (hfind : (s.core x.core).pebble.find? (fun o => o.seq = x.seq) = some o)
include h hfind

theorem exec_pebbleOp_ran (hu : performOp (s.setPebble c (s.pebbleNext c x rest)) x.core o = (u, none)) :
    exec (.pebbleOp c) s = .next (u.markRan x.core .pebble x.seq) := by
  refine (rfl : _ = execPebbleOp c s).trans ?_
  simp only [State.pebbleNext] at hu
  simp only [execPebbleOp, h, hfind, beq_eq_decide, Bool.and_eq_true, decide_eq_true_eq, hu]

theorem exec_pebbleOp_fault {e : Exc} (hu : performOp (s.setPebble c (s.pebbleNext c x rest)) x.core o = (u, some e)) :
    exec (.pebbleOp c) s = .next (u.except x.core 5 o.addr.toNat e) := by
  refine (rfl : _ = execPebbleOp c s).trans ?_
  simp only [State.pebbleNext] at hu
  simp only [execPebbleOp, h, hfind, beq_eq_decide, Bool.and_eq_true, decide_eq_true_eq, hu, Queue.code]

end

end

/-- An op of Pebble, dispatched with no op of its core in the way, joins the end of its cluster's queue. -/
theorem pebble_joins {s : State} {n : Fin 16} {op : OpWord} {fields : List (Nat × Nat)} (hgo : s.OpGoes n op fields .pebble) :
    ∃ t, s.engineOp n op fields = .next t
      ∧ t.pebble (n / 4) = { s.pebble (n / 4) with queue := (s.pebble (n / 4)).queue ++ [⟨n, (s.core n).nextSeq⟩] } ∧ (∀ k, k ≠ (n : Nat) / 4 → t.pebble k = s.pebble k)
      ∧ (t.core n).pebble = [{ s.opRecord n op with started := true, cycles := s.nowN }] ∧ (t.core n).slab = (s.core n).slab ∧ (∀ j, j ≠ (n : Nat) → t.core j = s.core j)
      ∧ t.objN (kPc n) = (s.pc n + 16) % 2 ^ 64 ∧ s.objsBut t [kPc n, kCore n 4 8, kCtr n (opWait op)] ∧ t = { s with objs := t.objs, cores := t.cores, peb := t.peb } := by
  obtain ⟨e, he, hrun⟩ := State.engineOp_forwards hgo
  refine ⟨_, hrun, by rw [State.pebble_setPebble, if_pos rfl], fun k hk => ?_, ?_, ?_, he.others, he.pc, he.objs, ?_⟩
  · rw [State.pebble_setPebble, if_neg (Ne.symm hk), he.pebble]
  · rw [State.core_setPebble, he.core]; rfl
  · rw [State.core_setPebble, he.core]; rfl
  · have hrest := he.rest
    generalize e = v at hrest
    rw [hrest]; rfl

/-! ### Sums into accumulators -/

/-- Add each sum, modulo 2^32, to the accumulator at its key (R103). -/
def addCells (cells : List (Nat × Int)) (m : TMap Word32) : TMap Word32 :=
  cells.foldl (fun m z => TMap.set (fun _ => 0#32) m z.1 (TMap.get (fun _ => 0#32) m z.1 + wrap32 z.2)) m

theorem get_addCells_of_ne (cells : List (Nat × Int)) (m : TMap Word32) {k : Nat} (h : ∀ z ∈ cells, z.1 ≠ k) :
    TMap.get (fun _ => 0#32) (addCells cells m) k = TMap.get (fun _ => 0#32) m k := by
  unfold addCells
  induction cells generalizing m with
  | nil => rfl
  | cons z cells ih =>
    rw [List.foldl_cons, ih _ fun y hy => h y (List.mem_cons_of_mem _ hy), TMap.get_set, if_neg (h z List.mem_cons_self)]

theorem get_addCells_of_mem {cells : List (Nat × Int)} (hnodup : (cells.map Prod.fst).Nodup) (m : TMap Word32) {z : Nat × Int} (hz : z ∈ cells) :
    TMap.get (fun _ => 0#32) (addCells cells m) z.1 = TMap.get (fun _ => 0#32) m z.1 + wrap32 z.2 := by
  induction cells generalizing m with
  | nil => cases hz
  | cons y cells ih =>
    rw [List.map_cons, List.nodup_cons] at hnodup
    obtain ⟨hfresh, hnodup⟩ := hnodup
    change TMap.get _ (addCells cells (TMap.set (fun _ => 0#32) m y.1 (TMap.get (fun _ => 0#32) m y.1 + wrap32 y.2))) z.1 = _
    rcases List.mem_cons.1 hz with rfl | hz
    · rw [get_addCells_of_ne _ _ fun x hx e => hfresh (List.mem_map.2 ⟨x, hx, e⟩), TMap.get_set, if_pos rfl]
    · rw [ih hnodup _ hz, TMap.get_set, if_neg fun e => hfresh (List.mem_map.2 ⟨z, hz, e.symm⟩)]

theorem pebKey_inj {b b' r r' k k' : Nat} (hr : r < 64) (hr' : r' < 64) (hk : k < 64) (hk' : k' < 64) : pebKey b r k = pebKey b' r' k' ↔ b = b' ∧ r = r' ∧ k = k' := by
  unfold pebKey; omega

/-- The keys of a tile's accumulators, each with its sum. -/
def pebCells (bank row rows cols : Nat) (sum : Nat → Nat → Int) : List (Nat × Int) :=
  (List.range rows).flatMap fun i => (List.range cols).map fun k => (pebKey bank (row + i) k, sum i k)

theorem mem_pebCells {bank row rows cols : Nat} {sum : Nat → Nat → Int} {z : Nat × Int} :
    z ∈ pebCells bank row rows cols sum ↔ ∃ i < rows, ∃ k < cols, (pebKey bank (row + i) k, sum i k) = z := by
  simp only [pebCells, List.mem_flatMap, List.mem_map, List.mem_range]

theorem nodup_pebCells {bank row rows cols : Nat} (hrow : row + rows ≤ 64) (hcols : cols ≤ 64) (sum : Nat → Nat → Int) :
    ((pebCells bank row rows cols sum).map Prod.fst).Nodup := by
  rw [pebCells, List.map_flatMap, List.nodup_flatMap]
  refine ⟨fun i _ => ?_, ?_⟩
  · rw [List.map_map]
    refine List.Nodup.map_on (fun k hk k' hk' h => ?_) List.nodup_range
    simp only [Function.comp_apply, pebKey] at h
    omega
  · refine List.Pairwise.imp_of_mem (fun {i j} hi hj hne => ?_) List.nodup_range
    rw [Function.onFun, List.disjoint_left]
    intro y hy hy'
    simp only [List.mem_map, List.mem_range] at hi hj hy hy'
    obtain ⟨-, ⟨k, hk, rfl⟩, rfl⟩ := hy
    obtain ⟨-, ⟨k', hk', rfl⟩, h⟩ := hy'
    exact hne ((pebKey_inj (by omega) (by omega) (by omega) (by omega)).1 h.symm |>.2.1 |> Nat.add_left_cancel)

/-! ### PCONV -/

section
variable {s e : State} {n : Nat} {o : QOp} {a b : Desc} {r : Window}

/-- The sum that a PCONV of an INT8 tensor adds for tile pixel i and output channel x. -/
def State.pconvSum (s : State) (n : Nat) (o : QOp) (a b : Desc) (r : Window) (i x : Nat) : Int :=
  (r.taps.map fun y => ((List.range (a.dim 0)).map fun ch =>
    (match r.tap true (a.dim 1) (a.dim 2) i y.1 y.2 with
      | some (ix, iy) => sext 8 (s.elemCode n a ch ix iy 0)
      | none => sext 8 (r.padValue % 256)) * ((if o.trf.t1 then -1 else 1) * sext 8 (s.elemCode n b x ch y.2 y.1))).sum).sum

theorem State.pconvSum_eq (s : State) (n : Nat) (o : QOp) (a b : Desc) (r : Window) (i x : Nat) : s.pconvSum n o a b r i x
    = (r.taps.map fun y => ((List.range (a.dim 0)).map fun ch =>
      (match r.tap true (a.dim 1) (a.dim 2) i y.1 y.2 with
        | some z => sext 8 (s.elemCode n a ch z.1 z.2 0)
        | none => sext 8 (r.padValue % 256)) * ((if o.trf.t1 then -1 else 1) * sext 8 (s.elemCode n b x ch y.2 y.1))).sum).sum := by
  unfold State.pconvSum
  refine congrArg List.sum (List.map_congr_left fun y _ => congrArg List.sum (List.map_congr_left fun ch _ => ?_))
  cases r.tap true (a.dim 1) (a.dim 2) i y.1 y.2 <;> rfl

theorem State.SameStore.pconvSum (h : s.SameStore e) : e.pconvSum = s.pconvSum := by
  funext n o a b r i x; simp only [State.pconvSum, h.elemCode]

/-- The accumulators with which a PCONV begins, and those that it leaves (R103). -/
def QOp.pconvFrom (o : QOp) (m : TMap Word32) : TMap Word32 := if bit o.op 85 then TMap.clearRange m ((if bit o.op 48 then 1 else 0) * 4096) 4096 else m
def State.pconvAcc (s : State) (n : Nat) (o : QOp) (a b : Desc) (r : Window) (m : TMap Word32) : TMap Word32 :=
  addCells (pebCells (if bit o.op 48 then 1 else 0) (fld o.op 73 66) (r.th * r.tw) (b.dim 0) (s.pconvSum n o a b r)) (o.pconvFrom m)

theorem performPconv_ok {kt : Nat} (ha : o.d (fld o.op 95 92) = a) (hb : o.d (fld o.op 91 88) = b) (hfa : a.form [1, 2] = none) (hfb : b.form [1] = none)
    (hia : a.fmt = codeINT8) (hib : b.fmt = codeINT8) (hr : s.window n (o.s (fld o.op 60 56)) = .ok r) (hkt : declaredKt (o.s (fld o.op 65 61)) (r.kh * r.kw * a.dim 0) = .ok kt)
    (hmax : kt ≤ 65536) (ha3 : a.dim 3 = 1) (hb1 : b.dim 1 = a.dim 0) (hb2 : b.dim 2 = r.kw) (hb3 : b.dim 3 = r.kh) (hco : b.dim 0 ≤ 64) (hrow : fld o.op 73 66 + r.th * r.tw ≤ 64)
    (hext : r.extentFault (a.dim 1) (a.dim 2) true = none) (hra : s.reachFault n a false = none) (hrb : s.reachFault n b false = none) :
    ∃ busy, performPconv s n o = .ok ((((s.setPebble (n / 4) { s.pebble (n / 4) with acc := s.pconvAcc n o a b r (s.pebble (n / 4)).acc, line := some s.free }).account n 3 busy).tookFree).weakRot n o 0 64) := by
  subst ha hb
  have hraw : isRaw (o.d (fld o.op 95 92)).fmt = false := by rw [hia]; rfl
  apply Exists.intro
  · refine (firstErr_bind (l := [(o.d (fld o.op 95 92)).form [1, 2], (o.d (fld o.op 91 88)).form [1]]) (by simp [hfa, hfb]) _).trans
      ((firstErr_bind ?_ _).trans ?_)
    · simp [show isRaw codeINT8 = false from rfl, hia, hib]
    · dsimp only
      rw [if_neg (by rw [hraw]; decide)]
      refine (ok_bind rfl _).trans ((ok_bind hr _).trans ?_)
      simp only [State.pebIn, hraw, Bool.not_false, if_true]
      refine (ok_bind hkt _).trans ((firstErr_bind ?_ _).trans ?_)
      · simp [shapeIf, ha3, hb1, hb2, hb3, hco, hrow, hmax, hext, hra, hrb]
      · rfl

/-- The accumulators of a PCONV's tile take their sums, the others are kept or cleared. -/
theorem State.get_pconvAcc (s : State) (n : Nat) (o : QOp) (a b : Desc) (r : Window) (m : TMap Word32) (hrow : fld o.op 73 66 + r.th * r.tw ≤ 64) (hco : b.dim 0 ≤ 64) :
    (∀ i < r.th * r.tw, ∀ x < b.dim 0, TMap.get (fun _ => 0#32) (s.pconvAcc n o a b r m) (pebKey (if bit o.op 48 then 1 else 0) (fld o.op 73 66 + i) x)
      = (if bit o.op 85 then 0#32 else TMap.get (fun _ => 0#32) m (pebKey (if bit o.op 48 then 1 else 0) (fld o.op 73 66 + i) x)) + BitVec.ofInt 32 (s.pconvSum n o a b r i x))
    ∧ ∀ y < 64, ∀ x < 64, ¬(fld o.op 73 66 ≤ y ∧ y < fld o.op 73 66 + r.th * r.tw ∧ x < b.dim 0) →
      TMap.get (fun _ => 0#32) (s.pconvAcc n o a b r m) (pebKey (if bit o.op 48 then 1 else 0) y x)
        = if bit o.op 85 then 0#32 else TMap.get (fun _ => 0#32) m (pebKey (if bit o.op 48 then 1 else 0) y x) := by
  generalize hbank : (if bit o.op 48 then 1 else 0 : Nat) = bank
  have hfrom : ∀ y < 64, ∀ x < 64, TMap.get (fun _ => 0#32) (o.pconvFrom m) (pebKey bank y x) = if bit o.op 85 then 0#32 else TMap.get (fun _ => 0#32) m (pebKey bank y x) := fun y hy x hx => by
    rw [QOp.pconvFrom, hbank]
    split
    · rw [TMap.get_clearRange, if_pos (by unfold pebKey; omega)]
    · rfl
  rw [State.pconvAcc, hbank]
  refine ⟨fun i hi x hx => ?_, fun y hy x hx hout => ?_⟩
  · rw [← hfrom _ (by omega) x (by omega)]
    exact get_addCells_of_mem (nodup_pebCells hrow hco _) _ (mem_pebCells.2 ⟨i, hi, x, hx, rfl⟩)
  · rw [← hfrom y hy x hx]
    refine get_addCells_of_ne _ _ fun z hz e => ?_
    obtain ⟨i, hi, k, hk, rfl⟩ := mem_pebCells.1 hz
    obtain ⟨-, h1, rfl⟩ := (pebKey_inj (by omega) hy (by omega) hx).1 e
    exact hout ⟨by omega, by omega, hk⟩

end

/-! ### PREAD -/

/-- The values that a PREAD takes from its bank, in logical order. -/
def PebSt.readVals (p : PebSt) (op : OpWord) (td : Desc) : List FVal :=
  td.coords.map fun y => FVal.ofRat false ((TMap.get (fun _ => 0#32) p.acc (pebKey (if bit op 94 then 1 else 0) (fld op 93 86 + y.2.1) (fld op 73 66 + y.1))).toInt : Rat)

theorem performPread_ok {s : State} {n : Nat} {o : QOp} {td : Desc} {x : Written} (htd : o.d (fld o.op 77 74) = td) (hform : td.form [0, 1] = none) (h95 : bit o.op 95 = false)
    (hsr : fld o.op 65 64 = 0) (hfmt : td.fmt ∈ [codeINT8, codeINT16, codeFP16, codeBF16]) (hrows : fld o.op 85 78 + 1 = fld o.op 93 86 + td.dim 1) (hlast : fld o.op 85 78 ≤ 63)
    (h2 : td.dim 2 = 1) (h3 : td.dim 3 = 1) (hcols : fld o.op 73 66 + td.dim 0 ≤ 64) (hscale : s.colParamFault n o (fld o.op 61 60) (fld o.op 59 55) (td.dim 0) = none)
    (hbias : s.colParamFault n o (fld o.op 54 53) (fld o.op 52 48) (td.dim 0) = none) (hreach : s.reachFault n td true = none)
    (hx : s.readoutTile n o td false ((s.pebble (n / 4)).readVals o.op td) (List.replicate td.count .rne) = .ok x) :
    ∃ fl cyc, performPread s n o = .ok ((x.s.orObj (kArith n) fl).account n 3 cyc) := by
  subst htd
  apply Exists.intro
  apply Exists.intro
  · refine (firstErr_bind ?_ _).trans ((ok_bind hx _).trans rfl)
    have hlisted : [codeINT8, codeINT16, codeFP16, codeBF16].contains (o.d (fld o.op 77 74)).fmt = true := List.contains_iff_mem.2 hfmt
    simp only [hlisted]
    simp [shapeIf, hform, h95, hsr, hrows, hlast, h2, h3, hcols, hscale, hbias, hreach]

/-! ### An op of Pebble that has its turn -/

/-- Core n's op `o` has the turn at its cluster's Pebble, whose last op was of the same instance and world. -/
structure State.PebbleTurn (s : State) (n : Nat) (o : QOp) (rest : List PebOp) : Prop where
  queue : (s.pebble (n / 4)).queue = ⟨n, o.seq⟩ :: rest
  find : (s.core n).pebble.find? (fun x => x.seq = o.seq) = some o
  inst : (s.pebble (n / 4)).lastInst = some (s.holder n)
  world : (s.pebble (n / 4)).lastSecure = decide (s.objN (kCore n 0 3) = 1)

/-- The op has left Pebble's queue and is marked in its core's; no other core has changed. -/
def State.PebbleRan (s t : State) (n : Nat) (o : QOp) (rest : List PebOp) : Prop :=
  (t.pebble (n / 4)).queue = rest ∧ (t.core n).pebble = (s.core n).pebble.map (fun x => if x.seq = o.seq then { x with ran := true } else x) ∧ ∀ j, j ≠ n → t.core j = s.core j

section
variable {s u : State} {n : Fin 16} {o : QOp} {rest : List PebOp}

theorem State.PebbleTurn.next (h : s.PebbleTurn n o rest) : s.pebbleNext (n / 4) ⟨n, o.seq⟩ rest = { s.pebble (n / 4) with queue := rest } := by
  have hsame : (s.pebble (n / 4)).lastInst = some (s.holder n) ∧ (s.pebble (n / 4)).lastSecure = decide (s.objN (kCore n 0 3) = 1) := ⟨h.inst, h.world⟩
  simp only [State.pebbleNext]
  rw [if_pos hsame, if_pos hsame, ← h.inst, ← h.world]

/-- An op with its turn, whose effect `f` leaves its core's queue and the others alone, has run. -/
theorem State.PebbleTurn.runs (h : s.PebbleTurn n o rest) {k : Fin 4} (hk : (k : Nat) = n / 4) {f : State → Nat → QOp → Except Exc State}
    (hf : ∀ v, performOp v n o = wholly f v n o) (hu : f (s.setPebble (n / 4) { s.pebble (n / 4) with queue := rest }) n o = .ok u)
    (hqueue : (u.pebble (n / 4)).queue = rest) (hcore : (u.core n).pebble = (s.core n).pebble) (hothers : ∀ j, j ≠ (n : Nat) → u.core j = s.core j) :
    exec (.pebbleOp k) s = .next (u.markRan n .pebble o.seq) ∧ s.PebbleRan (u.markRan n .pebble o.seq) n o rest := by
  rw [← h.next, ← hk] at hu
  refine ⟨exec_pebbleOp_ran (x := ⟨n, o.seq⟩) (by rw [hk]; exact h.queue) h.find ((hf _).trans (wholly_ok hu)), ?_, ?_, fun j hj => ?_⟩
  · rw [State.pebble_markRan, hqueue]
  · rw [State.core_markRan, if_pos rfl, ← hcore]; rfl
  · rw [State.core_markRan, if_neg (Ne.symm hj), hothers j hj]

end

end Sys2Proof.Machine
end

section
/-! What the ops of Pebble do (O25). -/

namespace Sys2Proof.Machine

section
variable {s e t : State} {n : Nat}

theorem State.Works.pebble (h : s.Works t n) (c : Nat) : t.pebble c = s.pebble c := by rw [h.rest]; rfl

theorem State.SlabEnds.core_pebble (h : s.SlabEnds t n) : (t.core n).pebble = (s.core n).pebble := by
  obtain ⟨m, hm⟩ := h.slots
  rw [hm]; rfl

theorem State.SameStore.pconvAcc (h : s.SameStore e) : e.pconvAcc = s.pconvAcc := by
  funext n o a b r m; simp only [State.pconvAcc, h.pconvSum]

end

section
variable {s : State} {n : Fin 16} {o : QOp} {rest : List PebOp} {k : Fin 4}

theorem pconv_runs (h : s.PebbleTurn n o rest) (hk : (k : Nat) = n / 4) (hop : opOf o.op = 0x28) {a b : Desc} {r : Window} {kt : Nat} (ha : o.d (fld o.op 95 92) = a)
    (hb : o.d (fld o.op 91 88) = b) (hfa : a.form [1, 2] = none) (hfb : b.form [1] = none) (hia : a.fmt = codeINT8) (hib : b.fmt = codeINT8)
    (hr : s.window n (o.s (fld o.op 60 56)) = .ok r) (hkt : declaredKt (o.s (fld o.op 65 61)) (r.kh * r.kw * a.dim 0) = .ok kt)
    (hmax : kt ≤ 65536) (ha3 : a.dim 3 = 1) (hb1 : b.dim 1 = a.dim 0) (hb2 : b.dim 2 = r.kw) (hb3 : b.dim 3 = r.kh) (hco : b.dim 0 ≤ 64) (hrow : fld o.op 73 66 + r.th * r.tw ≤ 64)
    (hext : r.extentFault (a.dim 1) (a.dim 2) true = none) (hra : s.reachFault n a false = none) (hrb : s.reachFault n b false = none) :
    ∃ t, exec (.pebbleOp k) s = .next t ∧ s.PebbleRan t n o rest ∧ t.mem = s.mem ∧ t.out = s.out
      ∧ (t.pebble (n / 4)).acc = s.pconvAcc n o a b r (s.pebble (n / 4)).acc := by
  have hn := n.isLt
  have hsame := s.sameStore_setPebble (n / 4) { s.pebble (n / 4) with queue := rest }
  obtain ⟨busy, hok⟩ := performPconv_ok (s := s.setPebble (n / 4) { s.pebble (n / 4) with queue := rest }) ha hb hfa hfb hia hib (by rw [hsame.window]; exact hr) hkt hmax ha3 hb1 hb2 hb3 hco
    hrow hext (by rw [State.reachFault_setPebble]; exact hra) (by rw [State.reachFault_setPebble]; exact hrb)
  rw [State.pebble_setPebble, if_pos rfl, hsame.pconvAcc] at hok
  generalize hv : State.setPebble (s.setPebble (n / 4) { s.pebble (n / 4) with queue := rest }) (n / 4) _ = v at hok
  have hpeb : (v.pebble (n / 4)).queue = rest ∧ (v.pebble (n / 4)).acc = s.pconvAcc n o a b r (s.pebble (n / 4)).acc := by
    rw [← hv, State.pebble_setPebble, if_pos rfl]
    exact ⟨rfl, rfl⟩
  have hstate : (∀ j, v.core j = s.core j) ∧ v.mem = s.mem ∧ v.out = s.out := by
    rw [← hv]
    exact ⟨fun _ => rfl, rfl, rfl⟩
  obtain ⟨hcores, hmem, hout⟩ := hstate
  have hends : v.SlabEnds (((v.account n 3 busy).tookFree).weakRot n o 0 64) n :=
    ((v.slabEnds_account n (by decide) busy).trans hn (State.slabEnds_tookFree _ n 1)).trans hn (State.slabEnds_weakRot _ hn o 0 64)
  generalize ((v.account n 3 busy).tookFree).weakRot n o 0 64 = u at hok hends
  obtain ⟨hrun, hran⟩ := h.runs hk (fun w => by simp only [performOp, hop]) hok (by rw [hends.works.pebble]; exact hpeb.1) (by rw [hends.core_pebble, hcores])
    fun j hj => (hends.works.others j hj).trans (hcores j)
  refine ⟨_, hrun, hran, ?_, ?_, ?_⟩
  · rw [State.mem_markRan, hends.mem, hmem]
  · rw [State.out_markRan, hends.out, hout]
  · rw [State.pebble_markRan, hends.works.pebble]; exact hpeb.2

theorem pread_runs (h : s.PebbleTurn n o rest) (hk : (k : Nat) = n / 4) (hop : opOf o.op = 0x29) {td : Desc} {x : Written} (htd : o.d (fld o.op 77 74) = td)
    (hform : td.form [0, 1] = none) (h95 : bit o.op 95 = false)
    (hsr : fld o.op 65 64 = 0) (hfmt : td.fmt ∈ [codeINT8, codeINT16, codeFP16, codeBF16]) (hrows : fld o.op 85 78 + 1 = fld o.op 93 86 + td.dim 1) (hlast : fld o.op 85 78 ≤ 63)
    (h2 : td.dim 2 = 1) (h3 : td.dim 3 = 1) (hcols : fld o.op 73 66 + td.dim 0 ≤ 64) (hscale : s.colParamFault n o (fld o.op 61 60) (fld o.op 59 55) (td.dim 0) = none)
    (hbias : s.colParamFault n o (fld o.op 54 53) (fld o.op 52 48) (td.dim 0) = none) (hreach : s.reachFault n td true = none)
    (hx : s.readoutTile n o td false ((s.pebble (n / 4)).readVals o.op td) (List.replicate td.count .rne) = .ok x) :
    ∃ t, exec (.pebbleOp k) s = .next t ∧ s.PebbleRan t n o rest ∧ t.storesAs x.s ∧ t.out = s.out ∧ (t.pebble (n / 4)).acc = (s.pebble (n / 4)).acc := by
  have hn := n.isLt
  have hsame := s.sameStore_setPebble (n / 4) { s.pebble (n / 4) with queue := rest }
  obtain ⟨sat, ys, c, rfl, hy⟩ := hsame.readoutTile hx
  obtain ⟨hstore, -, -, -⟩ := hsame.wrVals n td sat ys (List.replicate td.count .rne) c
  obtain ⟨fl, cyc, hok⟩ := performPread_ok (s := s.setPebble (n / 4) { s.pebble (n / 4) with queue := rest }) htd hform h95 hsr hfmt hrows hlast h2 h3 hcols
    (by rw [State.colParamFault_setPebble]; exact hscale) (by rw [State.colParamFault_setPebble]; exact hbias) (by rw [State.reachFault_setPebble]; exact hreach)
    (by rw [State.pebble_setPebble, if_pos rfl]; exact hy)
  have hs := (s.setPebble (n / 4) { s.pebble (n / 4) with queue := rest }).stores_wrVals n td sat ys (List.replicate td.count .rne) c
  generalize (State.wrVals (s.setPebble (n / 4) { s.pebble (n / 4) with queue := rest }) n td sat ys (List.replicate td.count .rne) c).s = v at hok hs hstore
  have hpeb : v.pebble (n / 4) = { s.pebble (n / 4) with queue := rest } := by rw [hs.pebble, State.pebble_setPebble, if_pos rfl]
  have hcores : ∀ j, v.core j = s.core j := hs.core
  have hends : v.SlabEnds ((v.orObj (kArith n) fl).account n 3 cyc) n :=
    State.SlabEnds.trans ⟨v.works_setObj (v.kArith_mem_workKeys n) _, ⟨_, rfl⟩, rfl, rfl, rfl⟩ hn (State.slabEnds_account _ n (by decide) cyc)
  generalize (v.orObj (kArith n) fl).account n 3 cyc = u at hok hends
  obtain ⟨hrun, hran⟩ := h.runs hk (fun w => by simp only [performOp, hop]) hok (by rw [hends.works.pebble, hpeb]) (by rw [hends.core_pebble, hcores])
    fun j hj => (hends.works.others j hj).trans (hcores j)
  refine ⟨_, hrun, hran, ⟨?_, ?_, ?_⟩, ?_, ?_⟩
  · rw [State.mem_markRan, hends.mem, hstore.mem]
  · rw [State.poison_markRan, hends.poison, hstore.poison]
  · rw [State.out_markRan, hends.out, hstore.out]
  · rw [State.out_markRan, hends.out, hs.out]; rfl
  · rw [State.pebble_markRan, hends.works.pebble, hpeb]

end

/-- Settles O25: the order of the ops, their dispatch, and what each does. -/
theorem pebbleOps : Obligations.PebbleOps := by
  unfold Obligations.PebbleOps
  refine ⟨fun s c => ⟨exec_pebbleOp_none, fun x rest hqueue => ⟨exec_pebbleOp_gone hqueue, fun o hfind => ?_⟩⟩, ?_⟩
  · exact ⟨s.pebbleNext c x rest, rfl, rfl, rfl, rfl, rfl, fun _ => exec_pebbleOp_ran hqueue hfind, fun _ _ => exec_pebbleOp_fault hqueue hfind⟩
  · intro s n w c joins
    refine ⟨pebble_joins, pebble_joins, ?_⟩
    intro k rest o hk hqueue hfind hinst hworld op ran
    have hturn : s.PebbleTurn n o rest := ⟨hqueue, hfind, hinst, hworld⟩
    refine ⟨?_, ?_⟩
    · intro hop a b acc r kt hfa hfb hia hib hr hkt hmax ha3 hb1 hb2 hb3 hco hrow hext hra hrb sum
      obtain ⟨t, hrun, hran, hmem, hout, hacc⟩ := pconv_runs hturn hk hop rfl rfl hfa hfb hia hib hr hkt hmax ha3 hb1 hb2 hb3 hco hrow hext hra hrb
      obtain ⟨htile, hbeside⟩ := s.get_pconvAcc n o a b r (s.pebble c).acc hrow hco
      refine ⟨t, hrun, hran, hmem, hout, fun i hi x hx => ?_, fun y hy x hx hne => ?_⟩
      · have hcell := htile i hi x hx
        rw [← hacc, State.pconvSum_eq] at hcell
        exact hcell
      · have hcell := hbeside y hy x hx hne
        rw [← hacc] at hcell
        exact hcell
    · intro hop td x hform h95 hsr hfmt hrows hlast h2 h3 hcols hscale hbias hreach hx
      exact pread_runs hturn hk hop rfl hform h95 hsr hfmt hrows hlast h2 h3 hcols hscale hbias hreach hx

end Sys2Proof.Machine
end

section
/-! What an exception, a skipped op and a completed op leave behind (R111, R113, R117, R118, R137). -/

namespace Sys2Proof.Machine

/-! ### Objects that change in turn -/

section
variable {s t u : State} {ks ks' : List Nat}

theorem State.objsBut.trans (h : s.objsBut t ks) (h' : t.objsBut u ks') : s.objsBut u (ks ++ ks') := fun k hk => by
  rw [List.mem_append, not_or] at hk
  rw [h' k hk.2, h k hk.1]

theorem State.objsBut.mono (h : s.objsBut t ks) (hsub : ks ⊆ ks') : s.objsBut t ks' := fun k hk => h k fun hm => hk (hsub hm)

end

/-! ### Exceptions (R137, Table 5-17) -/

section
variable (s : State) (n queue addr : Nat) (e : Exc) (h : Hold)

/-- A core with nothing in flight, its dispatch held by `h`. -/
def CoreSt.aborted (c : CoreSt) (h : Hold) : CoreSt := { c with slab := [], readout := [], mica := [], dma := [], pebble := [], pend := [], hold := h }

theorem CoreSt.level_aborted (c : CoreSt) (h : Hold) (q : Queue) : (c.aborted h).level q = 0 := by cases q <;> rfl

/-- The state in which the levels of an aborted core are shown anew. -/
def State.emptied (s : State) (n : Nat) (h : Hold) : State :=
  let s := s.upCore n fun c => c.aborted h
  let s := { s with coll := s.coll.filter fun p => p.core != n }
  (s.upInst (s.holder n) fun x => { x with stalls := x.stalls.filter fun w => w.1 != n }).dropPebble n

theorem State.abortCore_eq : s.abortCore n h = (s.emptied n h).syncLevels n := rfl

theorem State.core_emptied (j : Nat) : (s.emptied n h).core j = if n = j then (s.core n).aborted h else s.core j :=
  (s.core_setCore n j _).trans rfl

theorem State.core_abortCore (j : Nat) : (s.abortCore n h).core j = if n = j then (s.core n).aborted h else s.core j := by
  obtain ⟨v, hv⟩ := (s.emptied n h).syncLevels_eq n
  rw [State.abortCore_eq, hv, State.core_setObj, State.core_emptied]

theorem State.obj_abortCore (k : Nat) : (s.abortCore n h).obj k = if kCore n 4 8 = k then 0#64 else s.obj k := by
  have hcore : (s.emptied n h).core n = (s.core n).aborted h := by rw [State.core_emptied, if_pos rfl]
  rw [State.abortCore_eq, State.syncLevels]
  simp only [hcore, CoreSt.level_aborted, Nat.zero_mul, Nat.zero_add, State.setN_eq, State.obj_setObj]
  rfl

/-- The record of an exception: the first is kept, every one counts. -/
def State.recorded (s : State) (n queue addr : Nat) (e : Exc) : State :=
  let s := s.countSat (kCore n 4 5) 32
  if s.obj (kCause n) = 0#64 then
    ((s.setN (kCause n) (e.code * 2 ^ 24 + queue * 2 ^ 20 + e.detail % 2 ^ 16)).setN (kCore n 4 3) addr).setN (kCore n 4 4) e.info
  else s

theorem State.except_eq : s.except n queue addr e = (s.recorded n queue addr e).abortCore n .stopped := rfl

theorem State.objsAlone_recorded : s.objsAlone (s.recorded n queue addr e) :=
  (s.objsAlone_setObj _ _).trans <| .ite
    ((State.objsAlone_setObj _ _ _).trans <| (State.objsAlone_setObj _ _ _).trans (State.objsAlone_setObj _ _ _)) rfl

/-- The keys of a core's exception objects are distinct. -/
theorem kCause_ne {n a : Nat} (h : a ≠ 2) : kCause n ≠ kCore n 4 a := by
  simp only [kCause, kCore, okey]; omega

theorem State.obj_recorded (k : Nat) : (s.recorded n queue addr e).obj k
    = if kCore n 4 5 = k then incSat 32 (s.obj k)
      else if s.obj (kCause n) = 0#64 then
        if kCore n 4 4 = k then BitVec.ofNat 64 e.info else if kCore n 4 3 = k then BitVec.ofNat 64 addr
        else if kCause n = k then BitVec.ofNat 64 (e.code * 2 ^ 24 + queue * 2 ^ 20 + e.detail % 2 ^ 16) else s.obj k
      else s.obj k := by
  have h5 : kCore n 4 5 ≠ kCause n := (kCause_ne (by decide)).symm
  simp only [State.recorded, State.countSat_eq, State.setN_eq, State.obj_setObj, if_neg h5]
  by_cases hk : kCore n 4 5 = k
  · subst hk
    have h4 : kCore n 4 4 ≠ kCore n 4 5 := by simp [kCore_inj]
    have h3 : kCore n 4 3 ≠ kCore n 4 5 := by simp [kCore_inj]
    split <;> simp [h4, h3, h5.symm]
  · simp only [if_neg hk]
    split <;> simp [hk]

theorem State.obj_except (k : Nat) : (s.except n queue addr e).obj k = if kCore n 4 8 = k then 0#64 else (s.recorded n queue addr e).obj k := by
  rw [State.except_eq, State.obj_abortCore]

theorem State.core_except (j : Nat) : (s.except n queue addr e).core j = if n = j then (s.core n).aborted .stopped else s.core j := by
  rw [State.except_eq, State.core_abortCore, State.objsAlone_recorded]
  rfl

/-- An exception changes objects, the cores, what their collectives and Pebble hold of the core, and its instance's stalls. -/
theorem State.except_rest : s.except n queue addr e = { s with
    objs := (s.except n queue addr e).objs, cores := (s.except n queue addr e).cores, coll := (s.except n queue addr e).coll
    insts := (s.except n queue addr e).insts, peb := (s.except n queue addr e).peb } := by
  have hrec := s.objsAlone_recorded n queue addr e
  rw [State.except_eq]
  generalize s.recorded n queue addr e = r at hrec
  rw [hrec]
  rfl

/-- A saturating count of a width below 64 counts up to its largest value. -/
theorem incSat_toNat {b : Nat} (hb : b < 64) (w : Word64) : (incSat b w).toNat = min (w.toNat + 1) (2 ^ b - 1) := by
  rw [incSat, BitVec.toNat_ofNat]
  exact Nat.mod_eq_of_lt (lt_of_le_of_lt (Nat.min_le_right _ _) (lt_of_le_of_lt (Nat.sub_le _ _) (Nat.pow_lt_pow_right (by decide) hb)))

theorem State.cause_except : (s.except n queue addr e).obj (kCause n)
    = if s.obj (kCause n) = 0#64 then BitVec.ofNat 64 (e.code * 2 ^ 24 + queue * 2 ^ 20 + e.detail % 2 ^ 16) else s.obj (kCause n) := by
  have hne : ∀ {a : Nat}, a ≠ 2 → kCore n 4 a ≠ kCause n := fun h => (kCause_ne h).symm
  rw [State.obj_except, State.obj_recorded, if_neg (hne (by decide)), if_neg (hne (by decide)), if_neg (hne (by decide)), if_neg (hne (by decide)), if_pos rfl]

theorem State.addr_except : (s.except n queue addr e).obj (kCore n 4 3)
    = if s.obj (kCause n) = 0#64 then BitVec.ofNat 64 addr else s.obj (kCore n 4 3) := by
  have h8 : kCore n 4 8 ≠ kCore n 4 3 := by simp [kCore_inj]
  have h5 : kCore n 4 5 ≠ kCore n 4 3 := by simp [kCore_inj]
  have h4 : kCore n 4 4 ≠ kCore n 4 3 := by simp [kCore_inj]
  rw [State.obj_except, State.obj_recorded, if_neg h8, if_neg h5, if_neg h4, if_pos rfl]

theorem State.info_except : (s.except n queue addr e).obj (kCore n 4 4)
    = if s.obj (kCause n) = 0#64 then BitVec.ofNat 64 e.info else s.obj (kCore n 4 4) := by
  have h8 : kCore n 4 8 ≠ kCore n 4 4 := by simp [kCore_inj]
  have h5 : kCore n 4 5 ≠ kCore n 4 4 := by simp [kCore_inj]
  rw [State.obj_except, State.obj_recorded, if_neg h8, if_neg h5, if_pos rfl]

theorem State.counted_except : (s.except n queue addr e).objN (kCore n 4 5) = min (s.objN (kCore n 4 5) + 1) (2 ^ 32 - 1) := by
  have h8 : kCore n 4 8 ≠ kCore n 4 5 := by simp [kCore_inj]
  rw [State.objN, State.obj_except, if_neg h8, State.obj_recorded, if_pos rfl]
  exact incSat_toNat (by decide) _

theorem State.objsBut_except : s.objsBut (s.except n queue addr e) [kCause n, kCore n 4 3, kCore n 4 4, kCore n 4 5, kCore n 4 8] := fun k hk => by
  simp only [List.mem_cons, List.not_mem_nil, or_false, not_or] at hk
  obtain ⟨h1, h3, h4, h5, h8⟩ := hk
  rw [State.obj_except, State.obj_recorded, if_neg (Ne.symm h8), if_neg (Ne.symm h5), if_neg (Ne.symm h4), if_neg (Ne.symm h3), if_neg (Ne.symm h1), ite_self]

theorem State.sameStore_except : s.SameStore (s.except n queue addr e) := by
  have h := s.except_rest n queue addr e
  generalize s.except n queue addr e = t at h
  rw [h]
  exact ⟨rfl, rfl, rfl, rfl, rfl⟩

/-- An exception stops its core, whatever the core holds. -/
theorem State.except_stops : s.Stopped (s.except n queue addr e) n queue addr e := by
  have hsame := s.sameStore_except n queue addr e
  refine ⟨s.cause_except n queue addr e, s.addr_except n queue addr e, s.info_except n queue addr e, s.counted_except n queue addr e, ?_,
    (s.core_except n queue addr e n).trans (if_pos rfl), fun j hj => (s.core_except n queue addr e j).trans (if_neg (Ne.symm hj)),
    s.objsBut_except n queue addr e, fun a => congrFun hsame.byte a, hsame.mem, hsame.poison, hsame.out, hsame.free⟩
  rw [State.obj_except, if_pos rfl]

end

/-- A core stopped from a state that reads as `s` does is stopped from `s`. -/
theorem State.Stopped.of_same {s s' t : State} {n queue addr : Nat} {e : Exc} (h : s'.Stopped t n queue addr e) (hobj : ∀ k, s'.obj k = s.obj k)
    (hcore : (s'.core n).aborted .stopped = (s.core n).aborted .stopped) (hothers : ∀ j, j ≠ n → s'.core j = s.core j)
    (hbytes : s.sameBytes s') (hstill : s'.mem = s.mem ∧ s'.poison = s.poison ∧ s'.out = s.out ∧ s'.free = s.free) : s.Stopped t n queue addr e := by
  obtain ⟨hmem, hpoison, hout, hfree⟩ := hstill
  obtain ⟨tmem, tpoison, tout, tfree⟩ := h.still
  exact ⟨by rw [h.cause, hobj], by rw [h.addr, hobj, hobj], by rw [h.info, hobj, hobj], by rw [h.counted, State.objN, hobj]; rfl, h.levels, h.core.trans hcore,
    fun j hj => (h.others j hj).trans (hothers j hj), fun k hk => (h.objs k hk).trans (hobj k), fun a => (h.bytes a).trans (hbytes a),
    tmem.trans hmem, tpoison.trans hpoison, tout.trans hout, tfree.trans hfree⟩

/-! ### Retirement (R113, R138) -/

theorem State.obj_retire (s : State) (n k : Nat) : (s.retire n).obj k = if kRetired n = k then incWrap 64 (s.obj (kRetired n)) else s.obj k := by
  rw [State.retire, State.upCore_eq, State.obj_setCore, State.count_eq, State.obj_setObj]

theorem State.core_retire (s : State) (n j : Nat) : (s.retire n).core j = if n = j then { s.core n with lastRetire := s.now, elapsed := 0 } else s.core j := by
  rw [State.retire, State.upCore_eq, State.core_setCore]; rfl

theorem State.retire_rest (s : State) (n : Nat) : s.retire n = { s with objs := (s.retire n).objs, cores := (s.retire n).cores } := by
  rw [State.retire, State.upCore_eq, State.count_eq]; rfl

/-! ### The dispatch of an op word (R111, R117, R118, R143) -/

section
variable {s : State} {n : Nat} {op : OpWord} {fields : List (Nat × Nat)} {room : Bool} {body : Nat → State → State}

theorem State.dispatch_held (h : s.canDispatch n = false) : s.dispatch n op fields room body = .next s := by
  rw [State.dispatch, h]; rfl

theorem State.dispatch_beyond (h : s.canDispatch n = true) (hin : s.inStream n = false) :
    s.dispatch n op fields room body = .next (s.except n 0 (s.pc n) (illegal 0x0a)) := by
  rw [State.dispatch, h, hin]; rfl

theorem State.dispatch_reserved (h : s.canDispatch n = true) (hin : s.inStream n = true) (hres : opReservedOk op fields = false) :
    s.dispatch n op fields room body = .next (s.except n 0 (s.pc n) (illegal 0x02)) := by
  rw [State.dispatch, h, hin, hres]; rfl

theorem State.dispatch_skips (h : s.canDispatch n = true) (hin : s.inStream n = true) (hres : opReservedOk op fields = true) (hpred : s.predOk n op = false) :
    s.dispatch n op fields room body = .next ((s.passed n).retire n) := by
  rw [State.dispatch, h, hin, hres, hpred]; rfl

/-- A predicate that an op word asks for and the loop register does not meet. -/
theorem State.predOk_false (hp : bit op 119 = true) (h : bit op 118 = true ↔ (s.core n).p (fld op 117 115) ≠ 0#32) : s.predOk n op = false := by
  rw [State.predOk, hp]
  cases h118 : bit op 118 <;> simp_all

end

/-! ### Which command dispatches which op word -/

/-- The opcodes of the controller's ops, and of the engines' (Table 5-3). -/
def controlOpcodes : List Nat := [0x00, 0x01, 0x02, 0x03, 0x04, 0x08, 0x09, 0x0a, 0x0b, 0x0c, 0x0d, 0x0e, 0x0f, 0x10, 0x80, 0x81, 0x90, 0x92]
def engineOpcodes : List Nat :=
  [0x20, 0x21, 0x22, 0x23, 0x28, 0x29, 0x40, 0x41, 0x42, 0x43, 0x44, 0x45, 0x46, 0x47, 0x48, 0x49, 0x4f, 0x60, 0x61, 0x64, 0x70, 0x71, 0x72, 0x91]

theorem useOf_controlOp {c : Nat} (hc : c ∈ controlOpcodes) (w : BitVec 120) : useOf (mkOp c w) = none := by
  simp only [controlOpcodes, List.mem_cons, List.not_mem_nil, or_false] at hc
  rcases hc with rfl | rfl | rfl | rfl | rfl | rfl | rfl | rfl | rfl | rfl | rfl | rfl | rfl | rfl | rfl | rfl | rfl | rfl <;> simp [useOf, opOf_mkOp]

theorem exists_useOf_engineOp {c : Nat} (hc : c ∈ engineOpcodes) (w : BitVec 120) : ∃ u, useOf (mkOp c w) = some u := by
  simp only [engineOpcodes, List.mem_cons, List.not_mem_nil, or_false] at hc
  rcases hc with rfl | rfl | rfl | rfl | rfl | rfl | rfl | rfl | rfl | rfl | rfl | rfl | rfl | rfl | rfl | rfl | rfl | rfl | rfl | rfl | rfl | rfl | rfl | rfl <;>
    simp [useOf, opOf_mkOp]

/-- Whether an op word finds room: an op of an engine in its queue, an op of the controller by the wait of its header. -/
structure State.RoomFor (s : State) (n : Nat) (op : OpWord) (room : Bool) : Prop where
  waits : useOf op = none → opWe op = true → s.ctr n (opWait op) = 0 → room = false
  queue : ∀ u, useOf op = some u → room = decide ((s.core n).level u.queue < Queue.depth u.queue)

/-- The controller dispatches an op of its own. -/
theorem State.RoomFor.control {s : State} {n c : Nat} {w : BitVec 120} (hc : c ∈ controlOpcodes) {room : Bool}
    (h : opWe (mkOp c w) = true → s.ctr n (opWait (mkOp c w)) = 0 → room = false) : s.RoomFor n (mkOp c w) room :=
  ⟨fun _ => h, fun u hu => by rw [useOf_controlOp hc] at hu; cases hu⟩

/-- The controller dispatches an op of an engine. -/
theorem State.engineOp_dispatches (s : State) (n : Nat) {c : Nat} (hc : c ∈ engineOpcodes) (w : BitVec 120) (fields : List (Nat × Nat)) :
    ∃ room body, s.engineOp n (mkOp c w) fields = s.dispatch n (mkOp c w) fields room body ∧ s.RoomFor n (mkOp c w) room := by
  obtain ⟨u, hu⟩ := exists_useOf_engineOp hc w
  refine ⟨_, _, by rw [State.engineOp, hu], fun h => ?_, fun v hv => ?_⟩
  · rw [hu] at h; cases h
  · rw [hu] at hv; cases hv; rfl

/-- Every op word goes through the one dispatch (R111). -/
theorem exec_opForm {c : Instr} {n : Fin 16} {op : OpWord} {fields : List (Nat × Nat)} (h : opForm c = some (n, op, fields)) (s : State) :
    ∃ room body, exec c s = s.dispatch n op fields room body ∧ s.RoomFor n op room := by
  have hroom : ∀ o : OpWord, opWe o = true → s.ctr n (opWait o) = 0 → (!opWe o || decide (0 < s.ctr n (opWait o))) = false := fun o hw hz => by simp [hw, hz]
  cases c <;> cases h <;> first | exact s.engineOp_dispatches _ (by decide) _ _ | skip
  all_goals
    delta exec
    dsimp only [
      execNop, execHalt, execBr, execLoop, execFence, execSmovi, execSalu, execScmp, execPset, execSld, execSst, execDesc, execDadd, execSeed,
      execSignal, execWait, execAopen, execAclose,
      State.ctlOp]
  case signal => exact ⟨_, _, rfl, .control (by decide) fun hw hz => by rw [hroom _ hw hz]; rfl⟩
  all_goals exact ⟨_, _, rfl, .control (by decide) (hroom _)⟩

end Sys2Proof.Machine
end

section
/-! Op words that are illegal, skipped or must wait, and the watchdog (O20, O21, O27). -/

namespace Sys2Proof.Machine

section
variable (s : State) (n : Nat)

/-- An op that has been passed and has retired wrote its core's pc and its count of ops. -/
theorem State.obj_retire_passed (k : Nat) : ((s.passed n).retire n).obj k
    = if kRetired n = k then incWrap 64 (s.obj (kRetired n)) else if kPc n = k then BitVec.ofNat 64 (s.pc n + 16) else s.obj k := by
  rw [State.obj_retire, State.obj_passed, State.obj_passed, if_neg (kPc_ne_kRetired n n)]

theorem State.core_retire_passed (j : Nat) : ((s.passed n).retire n).core j
    = if n = j then { s.core n with stepping := false, lastRetire := s.now, elapsed := 0 } else s.core j := by
  rw [State.core_retire, State.core_passed, State.core_passed, if_pos rfl]
  split <;> rfl

theorem State.pc_retire_passed : ((s.passed n).retire n).objN (kPc n) = (s.pc n + 16) % 2 ^ 64 := by
  rw [State.objN, State.obj_retire_passed, if_neg (kPc_ne_kRetired n n).symm, if_pos rfl, BitVec.toNat_ofNat]

theorem State.retired_retire_passed : ((s.passed n).retire n).objN (kRetired n) = (s.objN (kRetired n) + 1) % 2 ^ 64 := by
  rw [State.objN, State.obj_retire_passed, if_pos rfl, incWrap, BitVec.toNat_ofNat, Nat.mod_mod, State.objN]

theorem State.objsBut_retire_passed : s.objsBut ((s.passed n).retire n) [kPc n, kRetired n] := fun k hk => by
  simp only [List.mem_cons, List.not_mem_nil, or_false, not_or] at hk
  rw [State.obj_retire_passed, if_neg (Ne.symm hk.2), if_neg (Ne.symm hk.1)]

theorem State.retire_passed_rest : (s.passed n).retire n = { s with objs := ((s.passed n).retire n).objs, cores := ((s.passed n).retire n).cores } := by
  rw [State.retire_rest]; rfl

end

/-- Settles O20: every op word goes through the one dispatch, which skips it, stalls it or finds the core held. -/
theorem opsSkipOrWait : Obligations.OpsSkipOrWait := by
  unfold Obligations.OpsSkipOrWait
  refine ⟨fun c n op fields s hform hcan hin hres hp hpred => ?_, fun c n op fields s hform => ?_⟩
  · obtain ⟨room, body, hexec, -⟩ := exec_opForm hform s
    exact ⟨_, hexec.trans (State.dispatch_skips hcan hin hres (State.predOk_false hp hpred)), s.pc_retire_passed n, s.retired_retire_passed n,
      (s.core_retire_passed n n).trans (if_pos rfl), fun j hj => (s.core_retire_passed n j).trans (if_neg fun h => hj (Fin.ext h.symm)),
      s.objsBut_retire_passed n, s.retire_passed_rest n⟩
  · obtain ⟨room, body, hexec, hroom⟩ := exec_opForm hform s
    refine ⟨fun hcan => hexec.trans (State.dispatch_held hcan), fun hready huse hwe hzero => ?_, fun hready u huse hfull => ?_⟩
    · rw [hexec, hroom.waits huse hwe hzero, State.dispatch_stalls hready]
    · rw [hexec, hroom.queue u huse, decide_eq_false (by omega), State.dispatch_stalls hready]

/-- Settles O21: the dispatch raises the exception before the op's body. -/
theorem badOpWordsAreIllegal : Obligations.BadOpWordsAreIllegal := by
  unfold Obligations.BadOpWordsAreIllegal
  refine ⟨fun c n op fields s hform hcan => ?_, fun n w s hwf hcan => ?_⟩
  · obtain ⟨room, body, hexec, -⟩ := exec_opForm hform s
    exact ⟨fun hin hres => ⟨_, hexec.trans (State.dispatch_reserved hcan hin hres), s.except_stops ..⟩,
      fun hin => ⟨_, hexec.trans (State.dispatch_beyond hcan hin), s.except_stops ..⟩⟩
  · have hfree : assignedOpcodes.contains (opcodeOf w) = false := by simpa [Instr.wf] using hwf
    have hexec : exec (.reservedOpcode n w) s = .next (s.except n 0 (s.pc n) (illegal (if s.inStream n then 0x01 else 0x0a))) := by
      change execReservedOpcode n w s = _
      rw [execReservedOpcode, hfree, hcan]
      cases s.inStream n <;> rfl
    exact ⟨_, hexec, s.except_stops ..⟩

/-- The watchdog's row tests what R138 asks. -/
theorem exec_watchdogExpiry (s : State) (n : Fin 16) : exec (.watchdogExpiry n) s =
    if (decide (s.coreState n = 1) && decide ((s.core n).hold ≠ .stopped) && !(s.core n).preempt && ((s.core n).seg.isSome || !(s.core n).allOps.isEmpty)
        && decide (s.objN (kCore n 4 6) * 1000 ≤ (s.core n).elapsed + (s.nowN - (s.core n).lastRetire.toNat))) = true
    then .next (s.except n 0 (s.heldAddr n) ⟨0x05, 0, 0⟩) else .next s := by
  simp only [Bool.and_eq_true, decide_eq_true_eq, and_assoc]
  rfl

/-- A core with no assay slot open breaks no group (R231). -/
theorem State.breakGroups_nil {s : State} {n : Nat} (h : (s.core n).openSlots = []) : s.breakGroups n = s := by
  rw [State.breakGroups, h]; rfl

section
variable (s : State) (n : Nat) (f : CoreSt → CoreSt) (v : Nat)

/-! A core whose record and whose state object are written (R138). -/

theorem State.core_setState (j : Nat) : ((s.upCore n f).setN (kCore n 0 1) v).core j = if n = j then f (s.core n) else s.core j := by
  rw [State.setN_eq, State.core_setObj, State.upCore_eq, State.core_setCore]

theorem State.coreState_setState : ((s.upCore n f).setN (kCore n 0 1) v).coreState n = v % 2 ^ 64 := State.objN_setN_self ..

theorem State.objsBut_setState : s.objsBut ((s.upCore n f).setN (kCore n 0 1) v) [kCore n 0 1] := fun k hk => by
  rw [State.setN_eq, State.obj_setObj, if_neg (fun h => hk (List.mem_singleton.2 h.symm))]; rfl

theorem State.setState_rest : (s.upCore n f).setN (kCore n 0 1) v
    = { s with objs := ((s.upCore n f).setN (kCore n 0 1) v).objs, cores := ((s.upCore n f).setN (kCore n 0 1) v).cores } := rfl

end

/-- Settles O27: the row's test is the statement's, and the debug requests write one core's record and its state. -/
theorem watchdogAndDebug : Obligations.WatchdogAndDebug := by
  unfold Obligations.WatchdogAndDebug
  intro s n
  have hne : ∀ j : Fin 16, j ≠ n → ¬ n.val = j.val := fun j hj h => hj (Fin.ext h.symm)
  refine ⟨⟨fun hdue => ?_, fun hdue => ⟨_, ?_, s.except_stops ..⟩⟩, fun hstate hslots => ?_, fun hstate hslots => ?_, fun hstate => ?_⟩
  · rw [exec_watchdogExpiry, hdue]; rfl
  · rw [exec_watchdogExpiry, hdue]; rfl
  · have hexec : exec (.debugHalt n) s = .next ((s.stopWatch n).setN (kCore n 0 1) 4) := by
      change execDebugHalt n s = _
      rw [execDebugHalt, if_pos hstate]
      refine congrArg _ (State.breakGroups_nil ?_)
      rw [State.stopWatch, State.core_setState, if_pos rfl]; exact hslots
    exact ⟨_, hexec, s.coreState_setState .., (s.core_setState ..).trans (if_pos rfl), fun j hj => (s.core_setState ..).trans (if_neg (hne j hj)),
      s.objsBut_setState n _ _, rfl⟩
  · have hexec : exec (.debugStep n) s = .next (s.upCore n fun c => { c with stepping := true }) := by
      change execDebugStep n s = _
      rw [execDebugStep, if_pos hstate]
      refine congrArg _ (State.breakGroups_nil ?_)
      rw [State.upCore_eq, State.core_setCore, if_pos rfl]; exact hslots
    refine ⟨_, hexec, ?_, fun j hj => ?_, rfl⟩
    · rw [State.upCore_eq, State.core_setCore, if_pos rfl]
    · rw [State.upCore_eq, State.core_setCore, if_neg (hne j hj)]
  · have hstart : ∀ j, (s.startWatch n).core j = if n.val = j then { s.core n with lastRetire := s.now } else s.core j := fun j => by
      rw [State.startWatch, State.upCore_eq, State.core_setCore]
    have hseg : (((s.startWatch n).upCore n fun c => { c with stepping := false }).core n).seg = (s.core n).seg := by
      rw [State.upCore_eq, State.core_setCore, if_pos rfl, hstart, if_pos rfl]
    have hexec : exec (.debugRelease n) s = .next (((s.startWatch n).upCore n fun c => { c with stepping := false }).setN (kCore n 0 1)
        (if (((s.startWatch n).upCore n fun c => { c with stepping := false }).core n).seg.isSome then 1 else 0)) := by
      change execDebugRelease n s = _
      rw [execDebugRelease]
      exact if_neg (not_not.2 hstate)
    refine ⟨_, hexec, ?_, ?_, fun j hj => ?_, State.objsBut_setState (s.startWatch n) n _ _, State.setState_rest (s.startWatch n) n _ _⟩
    · rw [State.coreState_setState, hseg]; split <;> rfl
    · rw [State.core_setState, if_pos rfl, hstart, if_pos rfl]
    · rw [State.core_setState, if_neg (hne j hj), hstart, if_neg (hne j hj)]

end Sys2Proof.Machine
end

section
/-! The scalar ops (O17). -/

namespace Sys2Proof.Machine

/-- The value of a SALU, and whether it is a free value (Table 5-6; log entry 21). -/
def saluValue (op : OpWord) (a b free : Word64) : Word64 :=
  match fld op 80 77 with
  | 0 => a + b | 1 => a - b | 2 => a * b | 3 => a &&& b | 4 => a ||| b | 5 => a ^^^ b
  | 6 => if b.toNat < 64 then a <<< b.toNat else free
  | 7 => if b.toNat < 64 then a >>> b.toNat else free
  | 8 => if b.toNat < 64 then a.sshiftRight b.toNat else free
  | 9 => if a.slt b then a else b
  | _ => if a.slt b then b else a

theorem saluFn_of_le {op : OpWord} (h : fld op 80 77 ≤ 10) (a b free : Word64) : saluFn (fld op 80 77) a b free = some (saluValue op a b free) := by
  rw [saluValue]
  generalize fld op 80 77 = k at h
  interval_cases k <;> rfl

/-- A SCMP's condition as the statement words it (Table 5-6). -/
def scmpValue (op : OpWord) (a b : Word64) : Bool :=
  match fld op 82 80 with
  | 0 => decide (a = b) | 1 => decide (a ≠ b) | 2 => decide (a.toInt < b.toInt) | 3 => decide (b.toInt ≤ a.toInt)
  | 4 => decide (a.toNat < b.toNat) | _ => decide (b.toNat ≤ a.toNat)

theorem scmpFn_of_le {op : OpWord} (h : fld op 82 80 ≤ 5) (a b : Word64) : scmpFn (fld op 82 80) a b = some (scmpValue op a b) := by
  have hge : (!a.slt b) = decide (b.toInt ≤ a.toInt) := by rw [BitVec.slt, ← decide_not]; simp only [not_lt]
  have hgeu : (!a.ult b) = decide (b.toNat ≤ a.toNat) := by rw [BitVec.ult, ← decide_not]; simp only [not_lt]
  have hne : (a != b) = decide (a ≠ b) := by rw [bne, beq_eq_decide, ← decide_not]
  rw [scmpValue]
  generalize fld op 82 80 = k at h
  interval_cases k
  · exact congrArg some (beq_eq_decide ..)
  · exact congrArg some hne
  · rfl
  · exact congrArg some hge
  · rfl
  · exact congrArg some hgeu

section
variable {s : State} {n : Fin 16} {op : OpWord} {fields : List (Nat × Nat)} {act : Nat → State → Except Exc (State × Bool)}
  {r : Result}

/-- A ready controller op that writes a scalar register (R119). -/
theorem State.ctlOp_setS (h : s.opReady n op fields) (hw : s.waitOk n op) (hs : s.signalFits n op) (d : Nat) (v : Word64) (k : Nat) (hr : r = s.ctlOp n op fields act)
    (ha : act (s.pc n) (s.entered n op) = .ok (((s.entered n op).upCore n fun c => c.setS d v).tookFree k, true)) :
    ∃ t, r = .next t ∧ s.OpDone t s n op ((s.pc n + 16) % 2 ^ 64) ((s.core n).setS d v) [] ∧ t.free = s.free + k
      ∧ ∀ i, (t.core n).s i = if i = d ∧ i ≠ 0 then v else (s.core n).s i := by
  obtain ⟨t, hexec, hdone, hfree⟩ := State.ctlOp_coreOnly (fields := fields) (act := act) (fun c => c.setS d v) k h hw hs
    (by rw [ha, State.upCore_eq, State.entered_core, if_pos rfl]) (CoreSt.setS_step ..)
  refine ⟨t, hr.trans hexec, hdone, hfree, fun i => ?_⟩
  rw [hdone.core, ← CoreSt.setS_s]
  rfl

/-- A ready controller op that writes a loop register. -/
theorem State.ctlOp_setP (h : s.opReady n op fields) (hw : s.waitOk n op) (hs : s.signalFits n op) (d : Nat) (v : Word32) (hr : r = s.ctlOp n op fields act)
    (ha : act (s.pc n) (s.entered n op) = .ok ((s.entered n op).upCore n fun c => c.setP d v, true)) :
    ∃ t, r = .next t ∧ s.OpDone t s n op ((s.pc n + 16) % 2 ^ 64) ((s.core n).setP d v) [] ∧ t.free = s.free
      ∧ ∀ i, (t.core n).p i = if i = d then v else (s.core n).p i := by
  obtain ⟨t, hexec, hdone, hfree⟩ := State.ctlOp_coreOnly (fields := fields) (act := act) (fun c => c.setP d v) 0 h hw hs
    (by rw [ha, State.upCore_eq, State.entered_core, if_pos rfl]; rfl) rfl
  refine ⟨t, hr.trans hexec, hdone, hfree, fun i => ?_⟩
  rw [hdone.core, ← CoreSt.setP_p]
  rfl

/-- The scalar registers stand as they were when a ready op enters. -/
theorem State.s_entered (i : Nat) : ((s.entered n op).core n).s i = (s.core n).s i := by
  rw [State.entered_core, if_pos rfl]; rfl

end

section
variable {s : State} {n : Fin 16} {w : BitVec 120}

theorem smovi_writes (hready : s.opReady n (mkOp 0x08 w) [(95, 91), (63, 0)]) (hwait : s.waitOk n (mkOp 0x08 w)) (hfits : s.signalFits n (mkOp 0x08 w)) :
    let op := mkOp 0x08 w
    ∃ t, exec (.smovi n w) s = .next t ∧ s.OpDone t s n op ((s.pc n + 16) % 2 ^ 64) ((s.core n).setS (fld op 95 91) (BitVec.ofNat 64 (fld op 63 0))) []
      ∧ t.free = s.free ∧ ∀ i, (t.core n).s i = if i = fld op 95 91 ∧ i ≠ 0 then BitVec.ofNat 64 (fld op 63 0) else (s.core n).s i := by
  intro op
  exact State.ctlOp_setS hready hwait hfits _ _ 0 (by change execSmovi n w s = _; rw [execSmovi]) rfl

theorem salu_writes (hready : s.opReady n (mkOp 0x09 w) [(95, 91), (90, 86), (85, 81), (80, 77), (76, 76), (31, 0)]) (hwait : s.waitOk n (mkOp 0x09 w))
    (hfits : s.signalFits n (mkOp 0x09 w)) (hfunc : fld (mkOp 0x09 w) 80 77 ≤ 10) :
    let op := mkOp 0x09 w
    let b := if bit op 76 then imm32 op else (s.core n).s (fld op 85 81)
    let v := saluValue op ((s.core n).s (fld op 90 86)) b (Config.freeValue s.free)
    ∃ t, exec (.salu n w) s = .next t ∧ s.OpDone t s n op ((s.pc n + 16) % 2 ^ 64) ((s.core n).setS (fld op 95 91) v) []
      ∧ t.free = s.free + (if 6 ≤ fld op 80 77 ∧ fld op 80 77 ≤ 8 ∧ 64 ≤ b.toNat then 1 else 0)
      ∧ ∀ i, (t.core n).s i = if i = fld op 95 91 ∧ i ≠ 0 then v else (s.core n).s i := by
  intro op b v
  have hfree : (s.entered n op).freeNow = Config.freeValue s.free := congrArg Config.freeValue (s.entered_fields n op).2.2.1
  refine State.ctlOp_setS hready hwait hfits _ _ _ (by change execSalu n w s = _; rw [execSalu]) ?_
  dsimp only
  rw [State.s_entered, State.s_entered, hfree, saluFn_of_le hfunc]
  dsimp only
  by_cases hopen : 6 ≤ fld op 80 77 ∧ fld op 80 77 ≤ 8 ∧ 64 ≤ b.toNat
  · rw [if_pos hopen, if_pos (by simpa [and_assoc] using hopen)]
  · rw [if_neg hopen, if_neg (by simpa [and_assoc] using hopen)]; rfl

theorem scmp_writes (hready : s.opReady n (mkOp 0x0a w) [(95, 93), (92, 88), (87, 83), (82, 80), (79, 79), (31, 0)]) (hwait : s.waitOk n (mkOp 0x0a w))
    (hfits : s.signalFits n (mkOp 0x0a w)) (hcond : fld (mkOp 0x0a w) 82 80 ≤ 5) :
    let op := mkOp 0x0a w
    let b := if bit op 79 then imm32 op else (s.core n).s (fld op 87 83)
    let v := scmpValue op ((s.core n).s (fld op 92 88)) b
    ∃ t, exec (.scmp n w) s = .next t ∧ s.OpDone t s n op ((s.pc n + 16) % 2 ^ 64) ((s.core n).setP (fld op 95 93) (if v then 1#32 else 0#32)) []
      ∧ t.free = s.free ∧ ∀ i, (t.core n).p i = if i = fld op 95 93 then (if v then 1#32 else 0#32) else (s.core n).p i := by
  intro op b v
  refine State.ctlOp_setP hready hwait hfits _ _ (by change execScmp n w s = _; rw [execScmp]) ?_
  dsimp only
  rw [State.s_entered, State.s_entered, scmpFn_of_le hcond]

theorem pset_writes (hready : s.opReady n (mkOp 0x0b w) [(95, 93), (92, 88), (31, 0)]) (hwait : s.waitOk n (mkOp 0x0b w))
    (hfits : s.signalFits n (mkOp 0x0b w)) :
    let op := mkOp 0x0b w
    let v : Word32 := BitVec.ofNat 32 (((s.core n).s (fld op 92 88)).toNat + fld op 31 0)
    ∃ t, exec (.pset n w) s = .next t ∧ s.OpDone t s n op ((s.pc n + 16) % 2 ^ 64) ((s.core n).setP (fld op 95 93) v) []
      ∧ t.free = s.free ∧ ∀ i, (t.core n).p i = if i = fld op 95 93 then v else (s.core n).p i := by
  intro op v
  have hsum : ((s.core n).s (fld op 92 88)).setWidth 32 + BitVec.ofNat 32 (fld op 31 0) = v := by
    apply BitVec.eq_of_toNat_eq
    simp [v]
  refine State.ctlOp_setP hready hwait hfits _ _ (by change execPset n w s = _; rw [execPset]) ?_
  dsimp only
  rw [State.s_entered, hsum]

end

/-- Settles O17: each op updates one register of its core and completes at once. -/
theorem scalarOpsWriteTheirRegister : Obligations.ScalarOpsWriteTheirRegister := by
  unfold Obligations.ScalarOpsWriteTheirRegister
  exact fun s n w => ⟨smovi_writes, salu_writes, scmp_writes, pset_writes⟩

end Sys2Proof.Machine
end

section
/-! What a controller op changes as it enters and as it completes, and what a SIGNAL does (R113, R131-R133). -/

namespace Sys2Proof.Machine

/-! ### Entering (R131) -/

section
variable (s : State) (n : Nat) (op : OpWord)

/-- The header's wait is taken from its counter, and no other counter moves. -/
theorem State.ctr_entered (tg : Nat) {i : Nat} (hi : i < 32) : (s.entered n op).ctr tg i = s.ctr tg i - (if tg = n then headerTakes op i else 0) := by
  rw [State.ctr, State.objN, State.entered_obj, if_neg (kPc_ne_kCtr n tg i hi), headerTakes]
  simp only [kCtr_inj (opWait_lt op) hi]
  by_cases h : opWe op = true ∧ n = tg ∧ opWait op = i
  · obtain ⟨hwe, rfl, rfl⟩ := h
    have := (s.obj (kCtr n (opWait op))).isLt
    rw [if_pos ⟨hwe, rfl, rfl⟩, if_pos rfl, if_pos ⟨hwe, rfl⟩, BitVec.toNat_ofNat]
    simp only [State.ctr, State.objN]
    omega
  · rw [if_neg h]
    have h0 : (if tg = n then if opWe op = true ∧ i = opWait op then 1 else 0 else 0) = 0 := by
      split
      · rename_i htg
        exact if_neg fun hw => h ⟨hw.1, htg.symm, hw.2.symm⟩
      · rfl
    rw [h0]; rfl

theorem State.objsBut_entered : s.objsBut (s.entered n op) (kPc n :: if opWe op then [kCtr n (opWait op)] else []) := fun k hk => by
  simp only [List.mem_cons, not_or] at hk
  rw [State.entered_obj, if_neg (Ne.symm hk.1), if_neg]
  rintro ⟨hwe, rfl⟩
  exact hk.2 (by rw [if_pos hwe]; exact List.mem_singleton_self _)

/-- An object that no header names reads as before when an op enters. -/
theorem State.obj_entered_of_ne {k : Nat} (hpc : k ≠ kPc n) (hctr : k ≠ kCtr n (opWait op)) : (s.entered n op).obj k = s.obj k :=
  s.objsBut_entered n op k (by split <;> simp [hpc, hctr])

theorem State.retired_entered : (s.entered n op).objN (kRetired n) = s.objN (kRetired n) :=
  congrArg BitVec.toNat (s.obj_entered_of_ne n op (kPc_ne_kRetired n n).symm (kRetired_ne_kCtr n n _ (opWait_lt op)))

theorem State.holder_entered (j : Nat) : (s.entered n op).holder j = s.holder j := by
  have := opWait_lt op
  refine congrArg BitVec.toNat (s.obj_entered_of_ne n op ?_ ?_) <;> simp only [kPc, kCtr, kCore, okey] <;> omega

theorem State.now_entered : (s.entered n op).now = s.now := by rw [State.entered_eq]

end

/-! ### Completing (R113, R132) -/

/-- An op of core n has retired and its header has signalled. -/
structure State.Completes (s t : State) (n : Nat) (op : OpWord) : Prop where
  retired : t.objN (kRetired n) = (s.objN (kRetired n) + 1) % 2 ^ 64
  counters : ∀ j < 32, t.ctr n j = s.ctr n j + headerAdds op j
  core : t.core n = { s.core n with lastRetire := s.now, elapsed := 0 }
  others : ∀ j, j ≠ n → t.core j = s.core j
  objs : s.objsBut t (kRetired n :: if opSe op then [kCtr n (opSig op)] else [])
  rest : t = { s with objs := t.objs, cores := t.cores }

section
variable {s : State} {n : Nat} {op : OpWord}

theorem State.ctr_retire (s : State) (n tg : Nat) {i : Nat} (hi : i < 32) : (s.retire n).ctr tg i = s.ctr tg i := by
  rw [State.ctr, State.objN, State.obj_retire, if_neg (kRetired_ne_kCtr n tg i hi)]; rfl

/-- An op whose signal fits completes with no exception, whatever its queue. -/
theorem State.completes (hfits : s.signalFits n op) (queue addr : Nat) : s.Completes ((s.retire n).signalSe n queue addr op) n op := by
  have hsig := opSig_lt op
  have hne := kRetired_ne_kCtr n n (opSig op) hsig
  have heq : (s.retire n).signalSe n queue addr op = if opSe op then (s.retire n).setN (kCtr n (opSig op)) (s.ctr n (opSig op) + 1) else s.retire n := by
    rw [State.signalSe, State.addCtr, State.ctr_retire s n n hsig]
    cases hse : opSe op with
    | false => rfl
    | true =>
      have := hfits.resolve_left (by rw [hse]; decide)
      rw [if_pos rfl, if_pos rfl, if_neg (by omega)]
  have hobj : ∀ k, ((s.retire n).signalSe n queue addr op).obj k
      = if opSe op = true ∧ kCtr n (opSig op) = k then BitVec.ofNat 64 (s.ctr n (opSig op) + 1) else (s.retire n).obj k := fun k => by
    rw [heq]
    cases hse : opSe op with
    | false => simp
    | true => simp [State.setN_eq]
  have hcore : ∀ j, ((s.retire n).signalSe n queue addr op).core j = (s.retire n).core j := fun j => by rw [heq]; split <;> rfl
  refine ⟨?_, fun j hj => ?_, ?_, fun j hj => ?_, fun k hk => ?_, ?_⟩
  · rw [State.objN, hobj, if_neg (fun h => hne h.2.symm), State.obj_retire, if_pos rfl, incWrap, BitVec.toNat_ofNat, Nat.mod_mod]; rfl
  · rw [State.ctr, State.objN, hobj, headerAdds]
    by_cases h : opSe op = true ∧ j = opSig op
    · obtain ⟨hse, rfl⟩ := h
      have := hfits.resolve_left (by rw [hse]; decide)
      rw [if_pos ⟨hse, rfl⟩, if_pos ⟨hse, rfl⟩, BitVec.toNat_ofNat]
      omega
    · rw [if_neg (fun h' => h ⟨h'.1, ((kCtr_inj hsig hj).1 h'.2).2.symm⟩), if_neg h]
      exact State.ctr_retire s n n hj
  · rw [hcore, State.core_retire, if_pos rfl]
  · rw [hcore, State.core_retire, if_neg (Ne.symm hj)]
  · simp only [List.mem_cons, not_or] at hk
    rw [hobj, if_neg, State.obj_retire, if_neg (Ne.symm hk.1)]
    rintro ⟨hse, rfl⟩
    exact hk.2 (by rw [if_pos hse]; exact List.mem_singleton_self _)
  · rw [heq]; split <;> rfl

/-- A controller op completes. -/
theorem State.completes_ctlDone (hfits : s.signalFits n op) (addr : Nat) : s.Completes (s.ctlDone n op addr) n op := State.completes hfits 0 addr

/-- An object that is neither the count of ops nor the counter that the header signals reads as before. -/
theorem State.Completes.obj_of_ne {t : State} (h : s.Completes t n op) {k : Nat} (hr : k ≠ kRetired n) (hc : k ≠ kCtr n (opSig op)) : t.obj k = s.obj k :=
  h.objs k (by split <;> simp [hr, hc])

theorem State.Completes.pc {t : State} (h : s.Completes t n op) : t.objN (kPc n) = s.objN (kPc n) :=
  congrArg BitVec.toNat (h.obj_of_ne (kPc_ne_kRetired n n) (kPc_ne_kCtr n n _ (opSig_lt op)))

/-- The objects that a controller op's header, its effect and its retirement write. -/
theorem enter_complete_keys (n : Nat) (op : OpWord) (ks : List Nat) :
    (kPc n :: if opWe op then [kCtr n (opWait op)] else []) ++ (ks ++ (kRetired n :: if opSe op then [kCtr n (opSig op)] else [])) ⊆ ks ++ opKeys n op := by
  intro k
  rw [opKeys]
  generalize (if opWe op then [kCtr n (opWait op)] else []) = waits, (if opSe op then [kCtr n (opSig op)] else []) = signals, kPc n = pc, kRetired n = retired
  simp only [List.mem_append, List.mem_cons, List.not_mem_nil, or_false]
  tauto

theorem enter_keys (n : Nat) (op : OpWord) : (kPc n :: if opWe op then [kCtr n (opWait op)] else []) ⊆ opKeys n op :=
  fun _ hk => enter_complete_keys n op [] (List.mem_append_left _ hk)

theorem State.waitOk_room {s : State} {n : Nat} {op : OpWord} (h : s.waitOk n op) : (!opWe op || decide (0 < s.ctr n (opWait op))) = true := by
  rcases h with h | h <;> simp [h]

/-- The signal that carries its counter past 0xFFFF_FFFF raises sync_fault (R133). -/
theorem State.addCtr_overflows {tg i v : Nat} (h : 2 ^ 32 ≤ s.ctr tg i + v) (queue addr : Nat) :
    s.addCtr n tg i v queue addr = s.except n queue addr ⟨0x07, 0, 0⟩ := if_pos h

theorem State.addCtr_fits {tg i v : Nat} (h : s.ctr tg i + v < 2 ^ 32) (queue addr : Nat) :
    s.addCtr n tg i v queue addr = s.setN (kCtr tg i) (s.ctr tg i + v) := if_neg (by omega)

theorem State.signalSe_overflows (hse : opSe op = true) (h : 2 ^ 32 ≤ s.ctr n (opSig op) + 1) (queue addr : Nat) :
    s.signalSe n queue addr op = s.except n queue addr ⟨0x07, 0, 0⟩ := (if_pos hse).trans (State.addCtr_overflows h queue addr)

end

/-! ### SIGNAL (R132, R133) -/

/-- What a SIGNAL leaves in its target's counter. -/
def State.signalled (s : State) (op : OpWord) : Nat := if bit op 86 then fld op 85 70 else s.ctr (fld op 90 87) (fld op 95 91) + fld op 85 70

/-- A SIGNAL's target counter. -/
def signalKey (op : OpWord) : Nat := kCtr (fld op 90 87) (fld op 95 91)

theorem signalCtr_lt (op : OpWord) : fld op 95 91 < 32 := by simp only [fld]; omega

section
variable {s : State} {n : Nat} {op : OpWord}

theorem State.signalled_lt (h : bit op 86 = true ∨ s.signalled op < 2 ^ 32) : s.signalled op < 2 ^ 64 := by
  rcases h with h | h
  · rw [State.signalled, if_pos h, fld]; omega
  · omega

/-- A SIGNAL to a core of its instance, without a carry, reaches its counter and completes. -/
theorem State.applySignal_reaches (hholder : s.holder (fld op 90 87) = s.holder n) (hfits : bit op 86 = true ∨ s.signalled op < 2 ^ 32)
    (hhold : (s.core n).hold ≠ .stopped) (addr : Nat) : s.applySignal n op addr = (s.setN (signalKey op) (s.signalled op)).ctlDone n op addr := by
  have hset : (if bit op 86 then s.setN (kCtr (fld op 90 87) (fld op 95 91)) (fld op 85 70) else s.addCtr n (fld op 90 87) (fld op 95 91) (fld op 85 70) 0 addr)
      = s.setN (signalKey op) (s.signalled op) := by
    rw [State.signalled] at *
    cases h86 : bit op 86 with
    | true => rfl
    | false =>
      rw [h86] at hfits
      exact State.addCtr_fits (hfits.resolve_left Bool.false_ne_true) 0 addr
  rw [State.applySignal]
  dsimp only
  rw [if_neg (not_not.2 hholder)]
  rw [hset]
  exact if_neg hhold

/-- A SIGNAL that strays from its instance or carries its counter over stops its core. -/
theorem State.applySignal_faults (h : s.holder (fld op 90 87) ≠ s.holder n ∨ bit op 86 = false ∧ 2 ^ 32 ≤ s.ctr (fld op 90 87) (fld op 95 91) + fld op 85 70)
    (addr : Nat) : s.applySignal n op addr = s.except n 0 addr ⟨0x07, 0, 0⟩ := by
  rw [State.applySignal]
  dsimp only
  by_cases hholder : s.holder (fld op 90 87) ≠ s.holder n
  · exact if_pos hholder
  · obtain ⟨h86, hover⟩ := h.resolve_left hholder
    rw [if_neg hholder, h86, if_neg Bool.false_ne_true, State.addCtr_overflows hover]
    refine if_pos ?_
    rw [(s.except_stops n 0 addr ⟨0x07, 0, 0⟩).core]

/-- What a SIGNAL without a carry changes. -/
structure State.Signals (s t : State) (n : Nat) (op : OpWord) : Prop where
  pc : t.objN (kPc n) = s.objN (kPc n)
  retired : t.objN (kRetired n) = (s.objN (kRetired n) + 1) % 2 ^ 64
  counters : ∀ j < 32, t.ctr n j = (if fld op 90 87 = n ∧ j = fld op 95 91 then s.signalled op else s.ctr n j) + headerAdds op j
  target : fld op 90 87 ≠ n → t.ctr (fld op 90 87) (fld op 95 91) = s.signalled op
  core : t.core n = { s.core n with lastRetire := s.now, elapsed := 0 }
  others : ∀ j, j ≠ n → t.core j = s.core j
  objs : s.objsBut t (signalKey op :: kRetired n :: if opSe op then [kCtr n (opSig op)] else [])
  rest : t = { s with objs := t.objs, cores := t.cores }

theorem State.ctr_signalled (h : s.signalled op < 2 ^ 64) (tg : Nat) {i : Nat} (hi : i < 32) :
    (s.setN (signalKey op) (s.signalled op)).ctr tg i = if fld op 90 87 = tg ∧ i = fld op 95 91 then s.signalled op else s.ctr tg i := by
  rw [State.ctr, State.objN, State.setN_eq, State.obj_setObj, signalKey]
  simp only [kCtr_inj (signalCtr_lt op) hi]
  by_cases hk : fld op 90 87 = tg ∧ i = fld op 95 91
  · rw [if_pos ⟨hk.1, hk.2.symm⟩, if_pos hk, BitVec.toNat_ofNat, Nat.mod_eq_of_lt h]
  · rw [if_neg (fun h' => hk ⟨h'.1, h'.2.symm⟩), if_neg hk]; rfl

theorem State.applySignal_signals (hholder : s.holder (fld op 90 87) = s.holder n) (hover : bit op 86 = true ∨ s.signalled op < 2 ^ 32)
    (hhold : (s.core n).hold ≠ .stopped)
    (hfits : opSe op = false ∨ (if fld op 90 87 = n ∧ opSig op = fld op 95 91 then s.signalled op else s.ctr n (opSig op)) + 1 < 2 ^ 32) (addr : Nat) :
    s.Signals (s.applySignal n op addr) n op := by
  have hlt := State.signalled_lt hover
  have hi := signalCtr_lt op
  rw [State.applySignal_reaches hholder hover hhold]
  have hdone := State.completes_ctlDone (s := s.setN (signalKey op) (s.signalled op)) (n := n) (op := op)
    (hfits.imp_right fun h => by rwa [State.ctr_signalled hlt n (opSig_lt op)]) addr
  generalize (s.setN (signalKey op) (s.signalled op)).ctlDone n op addr = t at hdone
  have hset : ∀ k, k ≠ signalKey op → (s.setN (signalKey op) (s.signalled op)).obj k = s.obj k := fun k hk => by
    rw [State.setN_eq, State.obj_setObj, if_neg (Ne.symm hk)]
  refine ⟨?_, ?_, fun j hj => ?_, fun hne => ?_, hdone.core, hdone.others, fun k hk => ?_, ?_⟩
  · rw [hdone.pc]; exact congrArg BitVec.toNat (hset _ (kPc_ne_kCtr _ _ _ hi))
  · rw [hdone.retired, State.objN, hset _ (kRetired_ne_kCtr _ _ _ hi)]; rfl
  · rw [hdone.counters j hj, State.ctr_signalled hlt n hj]
  · rw [State.ctr, State.objN, hdone.obj_of_ne (kRetired_ne_kCtr _ _ _ hi).symm (fun h => hne ((kCtr_inj hi (opSig_lt op)).1 h).1)]
    exact (State.ctr_signalled hlt _ hi).trans (if_pos ⟨rfl, rfl⟩)
  · rw [List.mem_cons, not_or] at hk
    rw [hdone.objs k hk.2, hset k hk.1]
  · rw [hdone.rest]; rfl

end

end Sys2Proof.Machine
end

section
/-! SIGNAL: its counter, its pending list and its faults (O22, O23). -/

namespace Sys2Proof.Machine

section
variable {s : State} {n : Fin 16} {w : BitVec 120}

theorem exec_signal_room (hready : s.opReady n (mkOp 0x80 w) [(95, 91), (90, 87), (86, 86), (85, 70), (69, 63)]) (hwait : s.waitOk n (mkOp 0x80 w))
    (hroom : fld (mkOp 0x80 w) 69 64 = 0 ∨ (s.core n).pend.length < 8) : exec (.signal n w) s = .next (
      if drainScope (mkOp 0x80 w) = 0 then (s.entered n (mkOp 0x80 w)).applySignal n (mkOp 0x80 w) (s.pc n)
      else (s.entered n (mkOp 0x80 w)).upCore n fun c => { c with pend := c.pend ++ [⟨mkOp 0x80 w, s.pc n, c.nextSeq⟩] }) := by
  change execSignal n w s = _
  rw [execSignal]
  refine (State.dispatch_ready hready ?_).trans rfl
  rw [State.waitOk_room hwait, Bool.true_and, drainScope]
  rcases hroom with h | h <;> simp [h]

/-- A SIGNAL without a drain is applied at once. -/
theorem exec_signal_now (hready : s.opReady n (mkOp 0x80 w) [(95, 91), (90, 87), (86, 86), (85, 70), (69, 63)]) (hwait : s.waitOk n (mkOp 0x80 w))
    (hdrain : fld (mkOp 0x80 w) 69 64 = 0) : exec (.signal n w) s = .next ((s.entered n (mkOp 0x80 w)).applySignal n (mkOp 0x80 w) (s.pc n)) := by
  rw [exec_signal_room hready hwait (.inl hdrain), if_pos]
  rw [drainScope, hdrain]

/-- A SIGNAL with a drain joins the pending list. -/
theorem exec_signal_drains (hready : s.opReady n (mkOp 0x80 w) [(95, 91), (90, 87), (86, 86), (85, 70), (69, 63)]) (hwait : s.waitOk n (mkOp 0x80 w))
    (hdrain : fld (mkOp 0x80 w) 69 64 ≠ 0) (hroom : (s.core n).pend.length < 8) : exec (.signal n w) s
      = .next ((s.entered n (mkOp 0x80 w)).upCore n fun c => { c with pend := c.pend ++ [⟨mkOp 0x80 w, s.pc n, c.nextSeq⟩] }) := by
  rw [exec_signal_room hready hwait (.inr hroom), if_neg]
  rw [drainScope]; omega

theorem exec_signal_stalls (hready : s.opReady n (mkOp 0x80 w) [(95, 91), (90, 87), (86, 86), (85, 70), (69, 63)]) (hdrain : fld (mkOp 0x80 w) 69 64 ≠ 0)
    (hfull : 8 ≤ (s.core n).pend.length) : exec (.signal n w) s = .next s := by
  have hroom : ((!opWe (mkOp 0x80 w) || decide (0 < s.ctr n (opWait (mkOp 0x80 w)))) && (drainScope (mkOp 0x80 w) == 0 || decide ((s.core n).pend.length < 8))) = false := by
    have : drainScope (mkOp 0x80 w) ≠ 0 := by rw [drainScope]; omega
    simp [this, Nat.not_lt.2 hfull]
  change execSignal n w s = _
  rw [execSignal]
  dsimp only
  rw [hroom]
  exact State.dispatch_stalls hready

/-- A core that can dispatch is not held. -/
theorem State.hold_of_ready {op : OpWord} {fields : List (Nat × Nat)} (h : s.opReady n op fields) : (s.core n).hold = .none := by
  have hcan := h.1
  simp only [State.canDispatch, Bool.and_eq_true, decide_eq_true_eq] at hcan
  exact hcan.1.2

/-- A pending SIGNAL whose scope has drained is applied; one that has not waits. -/
theorem exec_drainSignalApply {k : Nat} {p : PendSig} (hp : (s.core n).pend[k]? = some p) : exec (.drainSignalApply n k) s
    = if (s.core n).drained (2 * fld p.op 69 64) p.seq then
        .next (((s.upCore n fun c => { c with pend := c.pend.take k ++ c.pend.drop (k + 1) }).applySignal n p.op p.addr).releaseHold n)
      else .next s := by
  change execDrainSignalApply n k s = _
  rw [execDrainSignalApply]
  dsimp only
  rw [hp]
  dsimp only
  rw [drainScope, Nat.mul_comm]
  cases (s.core n).drained (2 * fld p.op 69 64) p.seq <;> rfl

/-- A core that neither FENCE, HALT nor ACLOSE holds has nothing to release. -/
theorem State.releaseHold_none {s : State} {n : Nat} (h : ∀ op a, (s.core n).hold ≠ .halt op a ∧ (s.core n).hold ≠ .fence op a ∧ (s.core n).hold ≠ .aclose op a) :
    s.releaseHold n = s := by
  rw [State.releaseHold]
  cases hh : (s.core n).hold with
  | fence op a => exact absurd hh (h op a).2.1
  | halt op a => exact absurd hh (h op a).1
  | aclose op a => exact absurd hh (h op a).2.2
  | _ => rfl

end

/-- Settles O22: the SIGNAL acts on the entered state; a pending one on the state without it in the list. -/
theorem signalsReachTheirCounter : Obligations.SignalsReachTheirCounter := by
  unfold Obligations.SignalsReachTheirCounter
  intro s n
  refine ⟨fun w => ?_, fun k p hp => ?_⟩
  · intro op tg i v hready hwait base
    have hi : i < 32 := signalCtr_lt op
    have htotal : (s.entered n op).signalled op = base := by
      rw [State.signalled, State.ctr_entered s n op tg hi]
    have hne : ∀ j : Fin 16, j ≠ n → ¬ n.val = j.val := fun j hj h => hj (Fin.ext h.symm)
    refine ⟨fun hdrain hholder hover hfits => ?_, fun hdrain hlen => ?_, exec_signal_stalls hready⟩
    · have hexec := exec_signal_now hready hwait hdrain
      have hcore : (s.entered n op).core n = { s.core n with stepping := false } := by rw [State.entered_core, if_pos rfl]
      have hsig : (s.entered n op).Signals ((s.entered n op).applySignal n op (s.pc n)) n op := by
        refine State.applySignal_signals ?_ ?_ ?_ ?_ _
        · rw [State.holder_entered, State.holder_entered]; exact hholder
        · exact hover.imp_right fun h => htotal.trans_lt h
        · rw [hcore, show ({ s.core n with stepping := false } : CoreSt).hold = (s.core n).hold from rfl, State.hold_of_ready hready]; decide
        · rw [htotal, State.ctr_entered s n op n (opSig_lt op)]
          refine hfits.imp_right fun h => ?_
          split
          · rwa [if_pos ‹_›] at h
          · rw [if_neg ‹_›] at h; omega
      refine ⟨_, hexec, ?_, ?_, fun j hj => ?_, fun hne => ?_, ?_, fun j hj => ?_, ?_, ?_⟩
      · exact hsig.pc.trans (s.entered_pc n op)
      · rw [hsig.retired, State.retired_entered]
      · rw [hsig.counters j hj, htotal, State.ctr_entered s n op n hj, if_pos rfl]
      · rw [hsig.target hne, htotal]
      · rw [hsig.core, hcore, State.now_entered]
      · rw [hsig.others j (fun h => hj (Fin.ext h)), State.entered_core, if_neg (hne j hj)]
      · exact ((s.objsBut_entered n op).trans hsig.objs).mono (enter_complete_keys n op [signalKey op])
      · rw [hsig.rest, State.entered_eq]
    · have hexec := exec_signal_drains hready hwait hdrain hlen
      refine ⟨_, hexec, ?_, fun j hj => ?_, (s.objsBut_entered n op).mono (enter_keys n op), s.retired_entered n op, s.entered_pc n op, ?_⟩
      · rw [State.upCore_eq, State.core_setCore, if_pos rfl, State.entered_core, if_pos rfl]
      · rw [State.upCore_eq, State.core_setCore, if_neg (hne j hj), State.entered_core, if_neg (hne j hj)]
      · rw [State.entered_eq]; rfl
  · intro tg i v
    refine ⟨fun hnot => by rw [exec_drainSignalApply hp, hnot]; rfl, ?_⟩
    intro base hdrained hholder hover hfits hhold hrun
    have hsig := State.applySignal_signals (s := s.upCore n fun c => { c with pend := c.pend.take k ++ c.pend.drop (k + 1) }) (n := n) (op := p.op)
      hholder hover (by rw [State.upCore_eq, State.core_setCore, if_pos rfl]; exact hrun) hfits p.addr
    have hexec := exec_drainSignalApply hp
    rw [hdrained, if_pos rfl] at hexec
    generalize State.applySignal _ n p.op p.addr = t at hsig hexec
    have hcore := hsig.core
    rw [State.upCore_eq, State.core_setCore, if_pos rfl] at hcore
    rw [State.releaseHold_none (by rw [hcore]; exact hhold)] at hexec
    refine ⟨t, hexec, hsig.counters, hsig.target, hsig.retired, hcore, fun j hj => ?_, hsig.objs.mono (List.cons_subset_cons _ (List.cons_subset_cons _ ?_)), ?_⟩
    · rw [hsig.others j (fun h => hj (Fin.ext h)), State.upCore_eq, State.core_setCore, if_neg fun h => hj (Fin.ext h.symm)]
    · split <;> simp
    · rw [hsig.rest]; rfl

/-- Settles O23: a SIGNAL that strays or carries over stops the core that issued it, and so does every header. -/
theorem signalFaults : Obligations.SignalFaults := by
  unfold Obligations.SignalFaults
  intro s n
  refine ⟨fun w => ?_, fun k p hp hdrained hfault => ?_, fun w => ?_, fun x queue addr op => ⟨fun hse hover => ?_, fun tg i v hi => ⟨fun hover => ?_, fun hfits => ?_⟩⟩⟩
  · intro op tg i hready hwait hdrain hfault
    have hexec := exec_signal_now hready hwait hdrain
    have hstops : (s.entered n op).applySignal n op (s.pc n) = (s.entered n op).except n 0 (s.pc n) ⟨0x07, 0, 0⟩ :=
      State.applySignal_faults (by rw [State.holder_entered, State.holder_entered]; exact hfault) _
    exact ⟨_, hexec.trans (congrArg _ hstops), State.except_stops ..⟩
  · have hexec := exec_drainSignalApply hp
    rw [hdrained, if_pos rfl, State.applySignal_faults (s := s.upCore n fun c => { c with pend := c.pend.take k ++ c.pend.drop (k + 1) }) hfault] at hexec
    have hstops := State.except_stops (s.upCore n fun c => { c with pend := c.pend.take k ++ c.pend.drop (k + 1) }) n 0 p.addr ⟨0x07, 0, 0⟩
    rw [State.releaseHold_none (by rw [hstops.core]; exact fun _ _ => ⟨nofun, nofun, nofun⟩)] at hexec
    refine ⟨_, hexec, hstops.of_same (fun _ => rfl) ?_ (fun j hj => ?_) (fun _ => rfl) ⟨rfl, rfl, rfl, rfl⟩⟩
    · rw [State.upCore_eq, State.core_setCore, if_pos rfl]; rfl
    · rw [State.upCore_eq, State.core_setCore, if_neg (Ne.symm hj)]
  · intro op hready hwait hse hover
    have hexec : exec (.nop n w) s = .next (if true then (s.entered n op).ctlDone n op (s.pc n) else s.entered n op) := by
      change execNop n w s = _
      rw [execNop]
      exact State.ctlOp_ready hready hwait rfl
    refine ⟨_, hexec, ?_⟩
    have hstops : (s.entered n op).ctlDone n op (s.pc n) = ((s.entered n op).retire n).except n 0 (s.pc n) ⟨0x07, 0, 0⟩ :=
      State.signalSe_overflows hse (by rwa [State.ctr_retire _ _ _ (opSig_lt op)]) 0 _
    rw [if_pos rfl, hstops]
    exact State.except_stops ..
  · rw [State.signalSe_overflows hse hover]; exact State.except_stops ..
  · rw [State.addCtr_overflows hover]; exact State.except_stops ..
  · rw [State.addCtr_fits hfits, State.ctr, State.objN_setN_self, Nat.mod_eq_of_lt (by omega)]

end Sys2Proof.Machine
end

section
/-! An op of an engine's queue completes (O26). -/

namespace Sys2Proof.Machine

/-! ### The DMA time of a core is charged (R255) -/

/-- Core n's DMA time has been charged: its count, the remainder of its instance, and the start of the ops in flight. -/
structure State.Charged (s t : State) (n : Nat) : Prop where
  core : ∃ f : QOp → QOp, (∀ o, (f o).seq = o.seq) ∧ t.core n = { s.core n with dma := (s.core n).dma.map f }
  others : ∀ j, j ≠ n → t.core j = s.core j
  objs : s.objsBut t [kInst (s.holder n) 3 4]
  invs : ∀ m, (t.inst m).invs = (s.inst m).invs
  rest : t = { s with objs := t.objs, cores := t.cores, insts := t.insts }

theorem State.Charged.refl (s : State) (n : Nat) : s.Charged s n := ⟨⟨id, fun _ => rfl, by rw [List.map_id]⟩, fun _ _ => rfl, fun _ _ => rfl, fun _ => rfl, rfl⟩

theorem State.charged_accountDma (s : State) (n : Nat) : s.Charged (s.accountDma n) n := by
  rw [State.accountDma]
  dsimp only
  split
  · exact .refl s n
  · generalize 1000 * (s.nowN - _) = ps
    have hcore : ∀ j, (s.accountPs (s.holder n) 4 ps).core j = s.core j := fun j => by rw [State.accountPs_eq]; rfl
    refine ⟨⟨fun o => if o.started then { o with cycles := s.nowN } else o, fun o => by dsimp only; split <;> rfl, ?_⟩, fun j hj => ?_, fun k hk => ?_, fun m => ?_, ?_⟩
    · rw [State.upCore_eq, State.core_setCore, if_pos rfl, hcore]
    · rw [State.upCore_eq, State.core_setCore, if_neg (Ne.symm hj), hcore]
    · rw [State.upCore_eq, State.obj_setCore]
      exact s.obj_accountPs _ _ _ _ fun h => hk (List.mem_singleton.2 h.symm)
    · obtain ⟨x, hx⟩ := s.inst_accountPs (s.holder n) 4 ps m
      rw [State.upCore_eq, State.inst_setCore, hx]; rfl
    · rw [State.accountPs_eq]; rfl

/-! ### A completion that no staged output waits for (R222) -/

theorem State.markStaged_quiet {s : State} {n addr : Nat}
    (h : ∀ g v y, (s.core n).seg = some g → s.inv? (s.holder n) g.inv = some v → y ∈ v.outs → ¬(y.place.core.val = n ∧ y.place.opAddr = addr)) :
    ∃ l, s.markStaged n addr = { s with insts := l } := by
  rw [State.markStaged]
  cases hseg : (s.core n).seg with
  | none => exact ⟨_, rfl⟩
  | some g =>
    dsimp only
    cases hv : s.inv? (s.holder n) g.inv with
    | none => exact ⟨_, rfl⟩
    | some v =>
      have hits : (v.outs.filter fun o => !o.written && decide (o.place.core.val = n) && decide (o.place.opAddr = addr)) = [] :=
        List.filter_eq_nil_iff.2 fun y hy hyes => by
          simp only [Bool.and_eq_true, decide_eq_true_eq] at hyes
          exact h g v y hseg hv hy ⟨hyes.1.2, hyes.2⟩
      dsimp only
      rw [hits]
      split <;> exact ⟨_, rfl⟩

/-! ### A queue with one op less -/

section
variable (c : CoreSt) (q : Queue) (p : QOp → Bool)

/-- A core without the ops of queue q that `p` drops. -/
def CoreSt.keep : CoreSt := c.setQ q ((c.q q).filter p)

theorem CoreSt.q_keep : (c.keep q p).q q = (c.q q).filter p := by cases q <;> rfl
theorem CoreSt.seg_keep : (c.keep q p).seg = c.seg := by cases q <;> rfl
theorem CoreSt.hold_keep : (c.keep q p).hold = c.hold := by cases q <;> rfl

end

/-- The sequence numbers of a queue from which the op numbered `k` has gone. -/
theorem map_seq_filter (l : List QOp) {f : QOp → QOp} (hf : ∀ o, (f o).seq = o.seq) (k : Nat) :
    (((l.map f).filter fun x => x.seq != k).map (·.seq)) = (l.map (·.seq)).filter (· ≠ k) := by
  induction l with
  | nil => rfl
  | cons o l ih =>
    rw [List.map_cons, List.map_cons, List.filter_cons, List.filter_cons, hf]
    by_cases h : o.seq = k <;> simp [h, hf, ih]

/-- The state from which the op numbered `k` has left queue q of core n. -/
def State.droppedOp (s : State) (n : Nat) (q : Queue) (k : Nat) : State :=
  (if q = .dma then s.accountDma n else s).upCore n fun c => c.keep q fun x => x.seq != k

structure State.Dropped (s t : State) (n : Nat) (q : Queue) (k : Nat) : Prop where
  seqs : ((t.core n).q q).map (·.seq) = (((s.core n).q q).map (·.seq)).filter (· ≠ k)
  exact : q ≠ .dma → (t.core n).q q = ((s.core n).q q).filter (fun x => x.seq != k) ∧ ∀ a, t.obj a = s.obj a
  seg : (t.core n).seg = (s.core n).seg
  hold : (t.core n).hold = (s.core n).hold
  others : ∀ j, j ≠ n → t.core j = s.core j
  coreObj : ∀ {j a}, j < 256 → a < 256 → t.obj (kCore n j a) = s.obj (kCore n j a)
  invs : ∀ m, (t.inst m).invs = (s.inst m).invs
  rest : t = { s with objs := t.objs, cores := t.cores, insts := t.insts }

theorem State.Charged.dropped {s b : State} {n : Fin 16} (h : s.Charged b n) (q : Queue) (k : Nat) (hb : q ≠ .dma → b = s) :
    s.Dropped (b.upCore n fun c => c.keep q fun x => x.seq != k) n q k := by
  obtain ⟨⟨f, hf, hcore⟩, hothers, hobjs, hinvs, hrest⟩ := h
  have hcore' : ∀ j, (b.upCore n fun c => c.keep q fun x => x.seq != k).core j = if n.val = j then (b.core n).keep q (fun x => x.seq != k) else b.core j :=
    fun j => by rw [State.upCore_eq, State.core_setCore]
  have hn := (hcore' n).trans (if_pos rfl)
  refine ⟨?_, fun hq => ⟨?_, fun a => ?_⟩, ?_, ?_, fun j hj => ?_, fun hj ha => ?_, hinvs, ?_⟩
  · rw [hn, CoreSt.q_keep]
    by_cases hq : q = .dma
    · rw [hq, hcore]; exact map_seq_filter _ hf k
    · rw [hb hq]
      exact (congrArg _ (congrArg _ (List.map_id _).symm)).trans (map_seq_filter _ (f := id) (fun _ => rfl) k)
  · rw [hn, CoreSt.q_keep, hb hq]
  · rw [hb hq]; rfl
  · rw [hn, CoreSt.seg_keep, hcore]
  · rw [hn, CoreSt.hold_keep, hcore]
  · rw [hcore', if_neg (Ne.symm hj), hothers j hj]
  · exact hobjs _ fun h => kCore_ne_kInst n.isLt hj ha (by decide) (List.mem_singleton.1 h)
  · rw [hrest]; rfl

theorem State.dropped_droppedOp (s : State) (n : Fin 16) (q : Queue) (k : Nat) : s.Dropped (s.droppedOp n q k) n q k := by
  rw [State.droppedOp]
  split
  · exact (s.charged_accountDma n).dropped q k fun h => absurd ‹_› h
  · exact (State.Charged.refl s n).dropped q k fun _ => rfl

/-- OP_COMPLETE of an op whose effect is done. -/
theorem exec_opComplete {s : State} {n : Fin 16} {q : Queue} {i : Nat} {o : QOp} (ho : ((s.core n).q q)[i]? = some o) (hstarted : o.started = true) (hran : o.ran = true)
    {u : State} (hu : u = (((s.droppedOp n q o.seq).retire n).signalSe n (Queue.code q) o.addr.toNat o.op).markStaged n o.addr.toNat) (hrun : (u.core n).hold ≠ .stopped) :
    exec (.opComplete n q i) s = .next ((u.kick n).releaseHold n) := by
  change execOpComplete n q i s = _
  rw [execOpComplete, ho]
  dsimp only
  rw [hstarted, hran]
  subst hu
  exact if_neg hrun

/-- Settles O26: the op leaves its queue, retires and signals; the charge of the DMA touches neither its core's objects nor its sequence numbers. -/
theorem opsCompleteAndSignal : Obligations.OpsCompleteAndSignal := by
  unfold Obligations.OpsCompleteAndSignal
  intro s n q i o ho
  refine ⟨fun hnot => ?_, fun hstarted hran hhold hfits hquiet => ?_⟩
  · change execOpComplete n q i s = _
    rw [execOpComplete, ho]
    refine if_pos ?_
    rw [Bool.not_eq_true', Bool.eq_false_iff, ne_eq, Bool.and_eq_true]
    exact hnot
  · have hdrop := s.dropped_droppedOp n q o.seq
    have hexec := exec_opComplete ho hstarted hran rfl
    generalize s.droppedOp n q o.seq = s1 at hdrop hexec
    have hctr : ∀ {j}, j < 32 → s1.ctr n j = s.ctr n j := fun hj => congrArg BitVec.toNat (hdrop.coreObj (by decide) (by omega))
    have hdone := State.completes (s := s1) (n := n) (op := o.op) (hfits.imp_right fun h => by rwa [hctr (opSig_lt _)]) (Queue.code q) o.addr.toNat
    generalize (s1.retire n).signalSe n (Queue.code q) o.addr.toNat o.op = t at hdone hexec
    have hseg : (t.core n).seg = (s.core n).seg := by rw [hdone.core]; exact hdrop.seg
    have hholder : t.holder n = s.holder n := by
      refine congrArg BitVec.toNat ((hdone.obj_of_ne ?_ ?_).trans (hdrop.coreObj (by decide) (by decide)))
      · simp [kRetired, kCore_inj]
      · have := opSig_lt o.op
        simp only [kCtr, kCore, okey]; omega
    have hinv : ∀ m k, t.inv? m k = s.inv? m k := fun m k => by
      have : t.inst m = s1.inst m := by rw [hdone.rest]; rfl
      rw [State.inv?, State.inv?, ← hdrop.invs m, this]
    obtain ⟨l, hmark⟩ : ∃ l, t.markStaged n o.addr.toNat = { t with insts := l } :=
      State.markStaged_quiet fun g v y hg hv hy => hquiet g v y (hseg ▸ hg) (by rw [← hinv, ← hholder]; exact hv) hy
    rw [hmark] at hexec
    have hcore : t.core n = { s1.core n with lastRetire := s.now, elapsed := 0 } := by rw [hdone.core, hdrop.rest]
    have hq : (t.core n).q q = (s1.core n).q q := by rw [hcore]; cases q <;> rfl
    refine ⟨_, hexec ?_, ?_, fun hne => ⟨?_, fun k hk => ?_⟩, ?_, fun j hj => ?_, ?_, ?_, fun j hj => ?_, ?_, ?_⟩
    · change (t.core n).hold ≠ _
      rw [hcore]
      exact hdrop.hold ▸ hhold
    · change ((t.core n).q q).map _ = _
      rw [hq, hdrop.seqs]
    · exact hq.trans (hdrop.exact hne).1
    · exact (hdone.objs k hk).trans ((hdrop.exact hne).2 k)
    · have hretired : s1.objN (kRetired n) = s.objN (kRetired n) := congrArg BitVec.toNat (hdrop.coreObj (by decide) (by decide))
      exact hdone.retired.trans (by rw [hretired])
    · exact (hdone.counters j hj).trans (by rw [hctr hj])
    · exact congrArg CoreSt.lastRetire hcore
    · exact congrArg CoreSt.elapsed hcore
    · exact (hdone.others j fun h => hj (Fin.ext h)).trans (hdrop.others j fun h => hj (Fin.ext h))
    · change t.mem = _
      rw [hdone.rest, hdrop.rest]
    · change t.out = _
      rw [hdone.rest, hdrop.rest]

end Sys2Proof.Machine
end

section
/-! RUN, DIRECT and CANCEL (O40). -/

namespace Sys2Proof.Machine

theorem eraseDups_of_nodup {l : List Nat} (h : l.Nodup) : l.eraseDups = l := by
  induction l with
  | nil => rfl
  | cons a l ih =>
    obtain ⟨ha, hl⟩ := List.nodup_cons.1 h
    have hkeep : l.filter (fun b => !b == a) = l := List.filter_eq_self.2 fun b hb => by
      simpa using ne_of_mem_of_not_mem hb ha
    rw [List.eraseDups_cons, hkeep, ih hl]

theorem kInst_inj {m m' j i a b : Nat} (hj : j < 0x40) (hi : i < 0x40) (ha : a < 256) (hb : b < 256) :
    kInst m j a = kInst m' i b ↔ m = m' ∧ j = i ∧ a = b := by
  simp only [kInst, okey]; omega

/-! ### Messages toward the device (R251, R263, R264) -/

section
variable {s : State} {m kind : Nat}

/-- The consumption of a message leaves its instance's state. -/
theorem State.instState_consumed (s : State) (m : Nat) : (s.consumed m).instState m = s.instState m := by
  have hflag : kMbox m ≠ kInst m 0 1 := by rw [kMbox, Ne, kInst_inj (by decide) (by decide) (by decide) (by decide)]; simp
  have hcount : kInst m 2 2 ≠ kInst m 0 1 := by rw [Ne, kInst_inj (by decide) (by decide) (by decide) (by decide)]; simp
  rw [State.instState, State.instState, State.objN, State.consumed, State.upInst_eq, State.obj_setInst, State.count_eq, State.obj_setObj, if_neg hcount,
    State.orObj_eq, State.obj_setObj, if_neg hflag, State.wrN, State.obj_wr]
  rfl

/-- A message of an instance that is not orphaned is consumed and acted on. -/
theorem State.message_acts (hready : s.mboxReady m kind = true) (hlive : s.instState m ≠ 5) (act : Nat → State → State) :
    s.message m kind act = .next (act (s.rdN (mboxTo m + 12) 4) (s.consumed m)) := by
  rw [State.message, hready, Bool.not_true, if_neg Bool.false_ne_true]
  dsimp only
  rw [State.instState_consumed, if_neg fun h => hlive h.1]
  rfl

end

/-! ### The run queue (R242, R243, R253) -/

section
variable {u : State} {m : Nat} {r : RunReq}

/-- Outside a sliced partition an instance has no slot, and its queued work waits for no slice. -/
theorem State.slotMember_unsliced (h : u.partMode (u.objN (kInst m 1 1)) ≠ 2) : u.slotMember m = false := by
  rw [State.slotMember, decide_eq_false h, Bool.false_and]

theorem State.enqueue_unsliced (h : u.partMode (u.objN (kInst m 1 1)) ≠ 2) : u.enqueue m r = u.upInst m fun x => { x with runq := x.runq ++ [r] } :=
  if_pos (.inl h)

theorem State.runq_enqueued : ((u.upInst m fun x => { x with runq := x.runq ++ [r] }).inst m).runq = (u.inst m).runq ++ [r] := by
  rw [State.upInst_eq, State.inst_setInst, if_pos rfl]

theorem State.runError_unloaded (h : TMap.find (u.inst m).plans r.handle = none) : u.runError m r = 0x0007 := by
  rw [State.runError, h]

/-- The checks of a RUN whose plan is loaded and whose bindings are right. -/
theorem State.runError_loaded {p : PlanSt} (hp : TMap.find (u.inst m).plans r.handle = some p) (hun : p.unload = none) (hnodup : (r.binds.map (·.1)).Nodup)
    (hbinds : ∀ b ∈ p.binds, b.2.2 = 0 → ∃ x ∈ r.binds, x.1 = b.1) :
    u.runError m r = if u.oBit (kPlacer m 4) r.handle then 0x000A else if r.view && !u.oBit (kInst m 1 9) 1 then 0x000E else if u.slotMember m then 0x000E else 0 := by
  have hlen : (r.binds.map (·.1)).eraseDups.length = r.binds.length := by rw [eraseDups_of_nodup hnodup, List.length_map]
  have hbound : (p.binds.any fun b => decide (b.2.2 = 0) && !(r.binds.any fun x => x.1 = b.1)) = false := by
    rw [List.any_eq_false]
    intro b hb hmiss
    simp only [Bool.and_eq_true, decide_eq_true_eq, Bool.not_eq_true', List.any_eq_false] at hmiss
    obtain ⟨x, hx, hxb⟩ := hbinds b hb hmiss.1
    exact hmiss.2 x hx hxb
  rw [State.runError, hp]
  dsimp only
  rw [hun, hlen, hbound, if_neg (by decide), if_neg (not_not.2 rfl), if_neg Bool.false_ne_true]

end

section
variable {s : State} {m : Fin 16}

/-- What each command does with the state that has consumed its message. -/
theorem exec_run_acts (hready : s.mboxReady m 3 = true) (hlive : s.instState m ≠ 5) {u : State} {cookie : Nat} {r : RunReq}
    (hu : u = s.consumed m) (hc : cookie = s.rdN (mboxTo m + 12) 4) (hr : r = u.runReq m cookie) :
    exec (.run m) s = .next (if u.runError m r = 0 then u.enqueue m r else u.refuse m 3 cookie (u.runError m r)) := by
  change execRun m s = _
  rw [execRun, State.message_acts hready hlive, ← hc, ← hu, ← hr]
  dsimp only
  cases u.runError m r <;> rfl

theorem exec_direct_acts (hready : s.mboxReady m 4 = true) (hlive : s.instState m ≠ 5) {u : State} {cookie : Nat} {r : RunReq}
    (hu : u = s.consumed m) (hc : cookie = s.rdN (mboxTo m + 12) 4) (hr : r = ⟨1, cookie, 0, false, [], [], u.rdN (mboxTo m + 16) 8, [], false⟩) :
    exec (.direct m) s = .next (if !u.oBit (kInst m 1 9) 0 ∨ u.slotMember m then u.refuse m 4 cookie 0x000E
      else if u.mayStart m ∧ (u.inst m).runq.isEmpty then u.startDirect m r else u.enqueue m r) := by
  subst hu hc hr
  change execDirect m s = _
  rw [execDirect, State.message_acts hready hlive]
  rfl

theorem exec_cancel_acts (hready : s.mboxReady m 5 = true) (hlive : s.instState m ≠ 5) {u : State} {cookie target : Nat}
    (hu : u = s.consumed m) (hc : cookie = s.rdN (mboxTo m + 12) 4) (ht : target = u.rdN (mboxTo m + 16) 4) :
    exec (.cancel m) s = .next (match (u.inst m).runq.find? fun r => decide (r.cookie = target) && decide (r.kind < 2) with
      | some r => ((u.upInst m fun x => { x with runq := x.runq.erase r }).reportQueued m r 5).yieldSlice (u.objN (kInst m 1 1))
      | none =>
        if (u.inst m).invs.any fun v => decide (v.req.cookie = target) && decide (v.req.kind < 2) then u.refuse m 5 cookie 0x000B
        else (u.refuse m 5 cookie (fld u.freeNow 15 0)).tookFree) := by
  subst hu hc ht
  change execCancel m s = _
  rw [execCancel, State.message_acts hready hlive]
  rfl

end

/-- Settles O40: the message is consumed, and each check of the command decides as the statement words it. -/
theorem requestsQueueAndCancel : Obligations.RequestsQueueAndCancel := by
  unfold Obligations.RequestsQueueAndCancel
  intro s m
  refine ⟨fun hready hlive => ?_, fun hready hlive => ?_, fun hready hlive => ?_⟩
  · intro u cookie r
    have hexec := exec_run_acts (u := u) (cookie := cookie) (r := r) hready hlive rfl rfl rfl
    clear_value r cookie u
    refine ⟨fun hnone => ?_, fun p hp hun hnodup hbinds => ⟨fun hlimit => ?_, fun hlimit hview hmode => ?_⟩⟩
    · rw [hexec, State.runError_unloaded hnone, if_neg (by decide)]
    · rw [hexec, State.runError_loaded hp hun hnodup hbinds, hlimit, if_pos rfl, if_neg (by decide)]
    · have hok : u.runError m r = 0 := by
        rw [State.runError_loaded hp hun hnodup hbinds, hlimit, State.slotMember_unsliced hmode]
        cases hv : r.view with
        | false => rfl
        | true => rw [hview hv]; rfl
      rw [hok, if_pos rfl] at hexec
      refine ⟨_, hexec.trans (congrArg _ (State.enqueue_unsliced hmode)), State.runq_enqueued, fun j hj => ?_, rfl⟩
      rw [State.upInst_eq, State.inst_setInst, if_neg (Ne.symm hj)]
  · intro u cookie r
    have hexec := exec_direct_acts (u := u) (cookie := cookie) (r := r) hready hlive rfl rfl rfl
    have hcookie : r.cookie = cookie := rfl
    clear_value r cookie u
    refine ⟨fun hbit => ?_, fun hbit hslot hmay hempty => ?_, fun hbit hslot hbusy hmode => ?_⟩
    · rw [hexec, hbit, if_pos (.inl rfl)]
    · have hstart : exec (.direct m) s = .next (u.startDirect m r) := by
        rw [hexec, hbit, hslot, hmay, hempty, if_neg (by simp), if_pos (by simp)]
      refine ⟨hstart, fun hbad => ?_⟩
      rw [hstart, State.startDirect, hbad, Bool.not_false, if_pos rfl, hcookie]
      rfl
    · have hwaits : ¬(u.mayStart m = true ∧ (u.inst m).runq.isEmpty = true) := by
        rintro ⟨hmay, hempty⟩
        rcases hbusy with h | h
        · exact h (List.isEmpty_iff.1 hempty)
        · rw [h] at hmay; cases hmay
      rw [hbit, hslot, if_neg (by simp), if_neg hwaits] at hexec
      exact ⟨_, hexec.trans (congrArg _ (State.enqueue_unsliced hmode)), State.runq_enqueued, rfl⟩
  · intro u cookie target hit
    have hexec := exec_cancel_acts (u := u) (cookie := cookie) (target := target) hready hlive rfl rfl rfl
    change exec (.cancel m) s = .next (match hit with | some r => _ | none => _) at hexec
    clear_value hit target cookie u
    refine ⟨fun r hr => ⟨u.upInst m fun x => { x with runq := x.runq.erase r }, ?_, ?_, fun j hj => ?_, rfl⟩, fun hnone hrun => ?_⟩
    · rw [hexec, hr]; rfl
    · rw [State.upInst_eq, State.inst_setInst, if_pos rfl]
    · rw [State.upInst_eq, State.inst_setInst, if_neg (Ne.symm hj)]
    · obtain ⟨v, hv, hcookie, hkind⟩ := hrun
      have hany : ((u.inst m).invs.any fun v => decide (v.req.cookie = target) && decide (v.req.kind < 2)) = true :=
        List.any_eq_true.2 ⟨v, hv, by rw [decide_eq_true hcookie, decide_eq_true hkind]; rfl⟩
      rw [hexec, hnone]
      exact congrArg _ (if_pos hany)

end Sys2Proof.Machine
end

section
/-! Invocations start, release their outputs and complete (O41). -/

namespace Sys2Proof.Machine

/-! ### What a loop keeps -/

/-- A property of the state that each step of a loop keeps holds after the loop. -/
theorem State.forEach_induct {α : Type} {P : State → Prop} (l : List α) {f : State → α → State} (hf : ∀ u, ∀ x ∈ l, P u → P (f u x)) {s : State} (h : P s) : P (s.forEach l f) := by
  unfold State.forEach
  induction l generalizing s with
  | nil => exact h
  | cons x l ih => exact ih (fun u y hy => hf u y (List.mem_cons_of_mem _ hy)) (hf s x List.mem_cons_self h)

/-! ### Segments start on cores (R246) -/

/-- Only cores and their objects have changed: every instance's objects read as before. -/
structure State.CoresMove (s t : State) : Prop where
  rest : t = { s with objs := t.objs, cores := t.cores }
  instObj : ∀ m {j a}, j < 256 → a < 256 → t.obj (kInst m j a) = s.obj (kInst m j a)

section
variable {s t u : State}

theorem State.CoresMove.refl (s : State) : s.CoresMove s := ⟨rfl, fun _ _ _ _ _ => rfl⟩

theorem State.CoresMove.trans (h : s.CoresMove t) (h' : t.CoresMove u) : s.CoresMove u :=
  ⟨h'.rest.trans (by rw [h.rest]), fun m _ _ hj ha => (h'.instObj m hj ha).trans (h.instObj m hj ha)⟩

theorem State.CoresMove.inst (h : s.CoresMove t) (m : Nat) : t.inst m = s.inst m := by rw [h.rest]; rfl

theorem State.coresMove_upCore (s : State) (n : Nat) (f : CoreSt → CoreSt) : s.CoresMove (s.upCore n f) := ⟨rfl, fun _ _ _ _ _ => rfl⟩

theorem State.coresMove_setN (s : State) {n j a : Nat} (hn : n < 16) (hj : j < 256) (ha : a < 256) (v : Nat) : s.CoresMove (s.setN (kCore n j a) v) :=
  ⟨rfl, fun m _ _ _ hb => by rw [State.setN_eq, State.obj_setObj, if_neg (kCore_ne_kInst hn hj ha hb)]⟩

theorem State.coresMove_startSeg (s : State) {n : Nat} (hn : n < 16) {g : SegRun} (hg : g.init = none) : s.CoresMove (s.startSeg n g) := by
  rw [State.startSeg, hg]
  exact ((s.coresMove_upCore n _).trans (State.coresMove_setN _ hn (by decide) (by decide) _)).trans (State.coresMove_setN _ hn (by decide) (by decide) _)

end

/-- The segments of invocation `num` start on the cores that its instance holds, or wait there behind one that runs. -/
def State.issueSegs (s : State) (m num : Nat) (segs : List Seg) : State := s.forEach segs fun s g =>
  if s.holder g.core ≠ m then s
  else if (s.core g.core).seg.isNone then s.startSeg g.core ⟨num, g.start, g.len, none⟩
  else s.upCore g.core fun c => { c with segs := c.segs ++ [⟨num, g.start, g.len, none⟩] }

theorem State.coresMove_issueSegs (s : State) (m num : Nat) (segs : List Seg) : s.CoresMove (s.issueSegs m num segs) := by
  refine State.forEach_induct _ (fun u g _ h => h.trans ?_) (.refl s)
  split
  · exact .refl u
  · split
    · exact u.coresMove_startSeg g.core.isLt rfl
    · exact u.coresMove_upCore ..

/-! ### A request of a loaded plan starts (R225, R246) -/

/-- Hold the slots of capture sets. -/
theorem State.capsAlone_holdSlots (s : State) (l : List (Nat × Nat)) : ∃ c, (s.forEach l fun s x => s.holdSlot x.1 x.2) = { s with caps := c } :=
  State.forEach_induct (P := fun t => ∃ c, t = { s with caps := c }) l (fun u x _ ⟨_, hc⟩ => by rw [hc]; exact ⟨_, rfl⟩) ⟨_, rfl⟩

/-- What the start of a request of plan p leaves behind. -/
structure State.Begins (s t : State) (m : Nat) (p : PlanSt) (r : RunReq) (v : InvSt) : Prop where
  inst : t.inst m = { s.inst m with invs := (s.inst m).invs ++ [v], nextInv := (s.inst m).nextInv + 1, base := (s.inst m).base + BitVec.ofNat 32 p.place.groups }
  num : v.num = (s.inst m).nextInv
  req : v.req = r
  base : v.base = (s.inst m).base
  groups : v.groups = p.place.groups
  started : v.started = s.now
  fresh : v.equal = [] ∧ v.broken = []
  instState : t.instState m = if s.instState m = 1 then 2 else s.instState m
  others : ∀ j, j ≠ m → t.inst j = s.inst j
  memOut : t.mem = s.mem ∧ t.out = s.out

section
variable {s : State} {m : Nat}

theorem State.inst_newInv (s : State) (m : Nat) (v : InvSt) (j : Nat) :
    (s.newInv m v).inst j = if m = j then { s.inst m with invs := (s.inst m).invs ++ [v], nextInv := v.num + 1 } else s.inst j := by
  rw [State.newInv]
  split
  · rw [State.setN_eq, State.inst_setObj, State.upInst_eq, State.inst_setInst]
  · rw [State.upInst_eq, State.inst_setInst]

theorem State.newInv_rest (s : State) (m : Nat) (v : InvSt) : ∃ o i, s.newInv m v = { s with objs := o, insts := i } := by
  rw [State.newInv]
  split <;> exact ⟨_, _, rfl⟩

theorem State.instState_newInv (s : State) (m : Nat) (v : InvSt) : (s.newInv m v).instState m = if s.instState m = 1 then 2 else s.instState m := by
  rw [State.newInv]
  change (if s.instState m = 1 then (s.upInst m _).setN (kInst m 0 1) 2 else s.upInst m _).instState m = _
  split
  · exact State.objN_setN_self ..
  · rfl

theorem State.startRun_begins (s : State) (m : Nat) (p : PlanSt) {r : RunReq} (hr : r.kind = 0) (slot : Bool) : ∃ v, s.Begins (s.startRun m p r slot) m p r v := by
  rw [State.startRun]
  dsimp only
  rw [if_neg (by rw [hr]; decide)]
  change ∃ v, s.Begins (State.issueSegs _ m (s.inst m).nextInv p.place.segs) m p r v
  generalize (if r.caps.isEmpty then _ else r.caps : List (Nat × Nat)) = caps
  generalize p.place.outs.map _ = outs
  obtain ⟨c, hheld⟩ : ∃ c, (if r.caps.isEmpty then s.forEach caps fun s c => s.holdSlot c.1 c.2 else s) = { s with caps := c } := by
    split
    · exact s.capsAlone_holdSlots caps
    · exact ⟨_, rfl⟩
  rw [hheld]
  generalize hv : (⟨(s.inst m).nextInv, r, (s.inst m).base, p.place.groups, s.now, p.safety, [], [], caps, outs, [], slot⟩ : InvSt) = v
  obtain ⟨o, i, hnew⟩ := State.newInv_rest { s with caps := c } m v
  have hinst : ∀ j, (({ s with caps := c } : State).newInv m v).inst j
      = if m = j then { s.inst m with invs := (s.inst m).invs ++ [v], nextInv := v.num + 1 } else s.inst j := State.inst_newInv { s with caps := c } m v
  have hstate : (({ s with caps := c } : State).newInv m v).instState m = if s.instState m = 1 then 2 else s.instState m := State.instState_newInv { s with caps := c } m v
  generalize ({ s with caps := c } : State).newInv m v = s0 at hnew hinst hstate
  generalize hs1 : (s0.upInst m fun x => { x with base := (s.inst m).base + BitVec.ofNat 32 p.place.groups }) = s1
  have hinst1 : ∀ j, s1.inst j = if m = j then { s0.inst m with base := (s.inst m).base + BitVec.ofNat 32 p.place.groups } else s0.inst j := fun j => by
    rw [← hs1, State.upInst_eq, State.inst_setInst]
  have hmove := s1.coresMove_issueSegs m (s.inst m).nextInv p.place.segs
  generalize s1.issueSegs m (s.inst m).nextInv p.place.segs = t at hmove
  refine ⟨v, ?_, hv ▸ rfl, hv ▸ rfl, hv ▸ rfl, hv ▸ rfl, hv ▸ rfl, hv ▸ ⟨rfl, rfl⟩, ?_, fun j hj => ?_, ?_⟩
  · rw [hmove.inst, hinst1, if_pos rfl, hinst, if_pos rfl, ← hv]
  · rw [← hstate, State.instState, State.objN, hmove.instObj m (by decide) (by decide), ← hs1]; rfl
  · rw [hmove.inst, hinst1, if_neg (Ne.symm hj), hinst, if_neg (Ne.symm hj)]
  · rw [hmove.rest, ← hs1, hnew]; exact ⟨rfl, rfl⟩

end

section
variable {s : State} {m : Fin 16} {r : RunReq} {p : PlanSt}

/-- The request that INVOCATION_START takes up, of a loaded plan that the limits let run. -/
theorem exec_invocationStart (hmay : s.mayStart m = true) (hfind : (s.inst m).runq.find? (s.eligible m) = some r) (hkind : r.kind = 0)
    (hplan : TMap.find (s.inst m).plans r.handle = some p) (hlimit : s.oBit (kPlacer m 4) r.handle = false) : exec (.invocationStart m) s
    = .next (if !s.kvSettled m p ∨ s.capturing m p r then s
        else (s.upInst m fun x => { x with runq := x.runq.erase r }).startRun m p r (s.slotMember m)) := by
  have hinst : (s.upInst m fun x => { x with runq := x.runq.erase r }).inst m = { s.inst m with runq := (s.inst m).runq.erase r } := by
    rw [State.upInst_eq, State.inst_setInst, if_pos rfl]
  have hslot : (s.upInst m fun x => { x with runq := x.runq.erase r }).slotMember m = s.slotMember m := by
    rw [State.slotMember, hinst]; rfl
  have hkv : (s.upInst m fun x => { x with runq := x.runq.erase r }).kvSettled m p = s.kvSettled m p := by
    rw [State.kvSettled, hinst]; rfl
  have htry : (s.upInst m fun x => { x with runq := x.runq.erase r }).tryStart m r
      = if !s.kvSettled m p ∨ s.capturing m p r then none
        else some ((s.upInst m fun x => { x with runq := x.runq.erase r }).startRun m p r (s.slotMember m)) := by
    rw [State.tryStart, if_neg (by rw [hkind]; decide), hinst]
    change (match TMap.find (s.inst m).plans r.handle with | none => _ | some p => if s.oBit (kPlacer m 4) r.handle then _ else _) = _
    rw [hplan]
    dsimp only
    rw [hlimit, hkv, hslot]
    rfl
  change execInvocationStart m s = _
  rw [execInvocationStart, hmay, hfind]
  dsimp only
  rw [htry]
  by_cases h : (!s.kvSettled m p) = true ∨ s.capturing m p r = true
  · rw [if_pos h, if_pos h]; rfl
  · rw [if_neg h, if_neg h, hkind]; rfl

end

/-! ### Outputs (R222) -/

/-- The outputs of a binding are marked released, and invalid or not. -/
def InvSt.releaseOut (v : InvSt) (binding : Nat) (invalid : Bool) : InvSt :=
  { v with outs := v.outs.map fun x => if x.place.binding = binding then { x with released := true, invalid := invalid } else x }

section
variable {s : State} {m num binding : Nat}

theorem State.inv?_upInv (s : State) (m num : Nat) {f : InvSt → InvSt} (hf : ∀ v, (f v).num = v.num) : (s.upInv m num f).inv? m num = (s.inv? m num).map f := by
  rw [State.inv?, State.upInv, State.upInst_eq, State.inst_setInst, if_pos rfl, State.inv?]
  induction (s.inst m).invs with
  | nil => rfl
  | cons v l ih =>
    by_cases h : v.num = num <;> simp [List.map_cons, hf, h, ih]

theorem State.countBytes_eq (s : State) (m a len : Nat) (write : Bool) : ∃ o, s.countBytes m a len write = { s with objs := o } := by
  rw [State.countBytes]
  repeat' split
  all_goals exact ⟨_, rfl⟩

/-- An output of a settled tag that is written is released. -/
theorem State.releaseOutput_releases {v : InvSt} {o : OutSt} (hv : s.inv? m num = some v) (ho : v.outs.find? (fun o => decide (o.place.binding = binding) && !o.released) = some o)
    (hwritten : o.written = true) (hsettled : v.settled o.place.tag = true) : s.releaseOutput m num binding
      = (if s.engineMay m o.dest o.place.len true then (s.wr o.dest (s.rd o.place.addr o.place.len)).countBytes m o.dest o.place.len true else s).upInv m num fun w =>
          w.releaseOut binding (s.safe || (List.range o.place.tag).any v.broken.contains) := by
  rw [State.releaseOutput, hv]
  dsimp only
  rw [ho]
  dsimp only
  rw [hwritten, hsettled]
  exact if_neg (by decide)

/-- An output is copied to its binding where its instance may write. -/
theorem State.copied_output (s : State) (m : Nat) (o : OutSt) :
    ∃ w, w = (if s.engineMay m o.dest o.place.len true then (s.wr o.dest (s.rd o.place.addr o.place.len)).countBytes m o.dest o.place.len true else s)
      ∧ (s.engineMay m o.dest o.place.len true = true → w.mem = (s.wr o.dest (s.rd o.place.addr o.place.len)).mem)
      ∧ (s.engineMay m o.dest o.place.len true = false → w.mem = s.mem ∧ w.objs = s.objs)
      ∧ w = { s with mem := w.mem, poison := w.poison, objs := w.objs } := by
  refine ⟨_, rfl, ?_⟩
  obtain ⟨b, hb⟩ := (s.wr o.dest (s.rd o.place.addr o.place.len)).countBytes_eq m o.dest o.place.len true
  cases s.engineMay m o.dest o.place.len true with
  | false => exact ⟨nofun, fun _ => ⟨rfl, rfl⟩, rfl⟩
  | true => rw [if_pos rfl, hb]; exact ⟨fun _ => rfl, nofun, by rw [State.wr_eq]⟩

theorem State.releaseOutput_waits {v : InvSt} {o : OutSt} (hv : s.inv? m num = some v) (ho : v.outs.find? (fun o => decide (o.place.binding = binding) && !o.released) = some o)
    (h : o.written = false ∨ v.settled o.place.tag = false) : s.releaseOutput m num binding = s := by
  rw [State.releaseOutput, hv]
  dsimp only
  rw [ho]
  exact if_pos (h.imp (by rw [·]; rfl) (by rw [·]; rfl))

/-! ### Energy (R255) -/

theorem State.energy_chargeEnergy (s : State) (m e : Nat) : (s.chargeEnergy m e).objN (kInst m 3 8) = (s.objN (kInst m 3 8) + e) % 2 ^ 64 := by
  have hne : kMbox m ≠ kInst m 3 8 := by rw [kMbox, Ne, kInst_inj (by decide) (by decide) (by decide) (by decide)]; omega
  have hcount : (s.count (kInst m 3 8) 64 e).objN (kInst m 3 8) = (s.objN (kInst m 3 8) + e) % 2 ^ 64 := by rw [State.objN_count _ _ _ _ _ (le_refl _), if_pos rfl]
  rw [State.chargeEnergy]
  split
  · rw [State.objN, State.orObj_eq, State.obj_setObj, if_neg hne]; exact hcount
  · exact hcount

theorem State.onlyObjs_chargeEnergy (s : State) (m e : Nat) : s.onlyObjs (s.chargeEnergy m e) [kInst m 3 8, kInst m 2 1] := by
  have hcount : ∀ k, k ≠ kInst m 3 8 → (s.count (kInst m 3 8) 64 e).obj k = s.obj k := fun k hk => by rw [State.count_eq, State.obj_setObj, if_neg (Ne.symm hk)]
  rw [State.chargeEnergy]
  split
  · refine ⟨rfl, fun k hk => ?_, fun _ => rfl⟩
    rw [List.mem_cons, List.mem_singleton, not_or] at hk
    have hflag : kMbox m ≠ k := Ne.symm hk.2
    rw [State.orObj_eq, State.obj_setObj, if_neg hflag, hcount k hk.1]
  · exact ⟨rfl, fun k hk => hcount k fun h => hk (List.mem_cons.2 (.inl h)), fun _ => rfl⟩

end

/-- Settles O41: the start of a run, the release of an output and the charge of the energy, each by its own rule. -/
theorem invocationsStartAndRelease : Obligations.InvocationsStartAndRelease := by
  unfold Obligations.InvocationsStartAndRelease
  refine ⟨fun s m => ⟨fun hmay => ?_, fun hmay hnone => ?_, fun r p hmay hfind hkind hplan hlimit => ?_⟩, fun s m num binding => ⟨fun hnone => ?_, fun v hv => ?_⟩⟩
  · change execInvocationStart m s = _
    rw [execInvocationStart, hmay]; rfl
  · change execInvocationStart m s = _
    rw [execInvocationStart, hmay, hnone]; rfl
  · have hexec := exec_invocationStart hmay hfind hkind hplan hlimit
    refine ⟨fun hwait => ?_, fun hsettled hfree => ?_⟩
    · rw [hexec, if_pos (hwait.imp (fun h => by rw [h]; rfl) id)]
    · rw [hsettled, hfree, if_neg (by decide)] at hexec
      obtain ⟨v, hv⟩ := (s.upInst m fun x => { x with runq := x.runq.erase r }).startRun_begins m p hkind (s.slotMember m)
      have hinst : (s.upInst m fun x => { x with runq := x.runq.erase r }).inst m = { s.inst m with runq := (s.inst m).runq.erase r } := by
        rw [State.upInst_eq, State.inst_setInst, if_pos rfl]
      generalize State.startRun _ m p r _ = t at hv hexec
      obtain ⟨hti, hnum, hreq, hbase, hgroups, hstarted, ⟨hequal, hbroken⟩, hstate, hothers, hmem, hout⟩ := hv
      rw [hinst] at hti hnum hbase
      refine ⟨t, v, hexec, ?_, hnum, hreq, hbase, hgroups, hstarted, hequal, hbroken, ?_, ?_, ?_, hstate, fun j hj => ?_, hmem, hout⟩
      · rw [hti]
      · rw [hti]
      · rw [hti]
      · rw [hti]
      · rw [hothers j hj, State.upInst_eq, State.inst_setInst, if_neg (Ne.symm hj)]
  · refine ⟨?_, fun e => ?_⟩
    · refine congrArg Host.Outcome.next ?_
      rw [State.releaseOutput, hnone]
    · change execInvocationComplete m num e s = _
      rw [execInvocationComplete, hnone]
  · refine ⟨fun o ho => ⟨fun hwait => ?_, fun hwritten hsettled => ?_⟩, fun e hbusy => ?_, fun e hidle hreleased hgolden => ?_⟩
    · exact congrArg _ (State.releaseOutput_waits hv ho hwait)
    · intro invalid
      have hexec : exec (.outputRelease m num binding) s = .next (s.releaseOutput m num binding) := rfl
      rw [State.releaseOutput_releases hv ho hwritten hsettled] at hexec
      obtain ⟨w, hw, hmem, hkeep, hrest⟩ := s.copied_output m o
      rw [← hw] at hexec
      refine ⟨_, v.releaseOut binding invalid, hexec, ?_, rfl, hmem, hkeep, ?_⟩
      · have hinst : w.inst m = s.inst m := by rw [hrest]; rfl
        refine (State.inv?_upInv (f := fun w => w.releaseOut binding _) _ _ _ fun _ => rfl).trans ?_
        rw [State.inv?, hinst]
        exact congrArg (Option.map _) hv
      · rw [State.upInv, State.upInst_eq, hrest]; rfl
    · change execInvocationComplete m num e s = _
      rw [execInvocationComplete, hv]
      refine if_pos (hbusy.imp_right fun h => ?_)
      rw [InvSt.released, h]; rfl
    · refine ⟨s.chargeEnergy m e, ?_, s.energy_chargeEnergy m e, s.onlyObjs_chargeEnergy m e⟩
      change execInvocationComplete m num e s = _
      have hgold : v.req.kind = 1 ∨ (s.goldenOf m v.req.handle).isEmpty = true := hgolden.imp_right fun h => by rw [h]; rfl
      rw [execInvocationComplete, hv]
      dsimp only
      rw [hidle, InvSt.released, hreleased, if_neg (by decide), if_pos hgold]

end Sys2Proof.Machine
end

section
/-! AOPEN opens a group of the ledger, stalls or is misuse (O32). -/

namespace Sys2Proof.Machine

/-! ### The ledger and its objects (R206, R214) -/

section
variable {s : State} {n m : Nat}

/-- The objects of the ledger and of assay stand above those of the cores. -/
theorem kCore_lt_ledger {n j a : Nat} (hn : n < 16) (hj : j < 256) (ha : a < 256) : kCore n j a < 0x440000 := by
  simp only [kCore, okey]; omega

theorem ledger_le_kAssay (m x : Nat) : 0x440000 ≤ kAssay m x := by simp only [kAssay, okey]; omega

theorem kAssay_inj {m m' x y : Nat} (hx : x < 256) (hy : y < 256) : kAssay m x = kAssay m' y ↔ m = m' ∧ x = y := by
  simp only [kAssay, okey]; omega

theorem kUsed_ne_kAssay {m x : Nat} (hx : x < 256) : kUsed ≠ kAssay m x := by
  simp only [kUsed, kAssay, okey]; omega

theorem State.entry_setEntry (s : State) (i j : Nat) (e : LedgerEntry) : (s.setEntry i e).entry j = if i = j then e else s.entry j :=
  TMap.get_set ..

/-- An object of the ledger reads as before when an op enters or completes. -/
theorem State.obj_entered_ledger (s : State) (hn : n < 16) (op : OpWord) {k : Nat} (hk : 0x440000 ≤ k) : (s.entered n op).obj k = s.obj k :=
  s.obj_entered_of_ne n op (Ne.symm (ne_of_lt ((kCore_lt_ledger hn (by decide) (by decide)).trans_le hk)))
    (Ne.symm (ne_of_lt ((kCore_lt_ledger hn (by decide) (by have := opWait_lt op; omega)).trans_le hk)))

theorem State.Completes.obj_ledger {s t : State} {op : OpWord} (h : s.Completes t n op) (hn : n < 16) {k : Nat} (hk : 0x440000 ≤ k) : t.obj k = s.obj k :=
  h.obj_of_ne (Ne.symm (ne_of_lt ((kCore_lt_ledger hn (by decide) (by decide)).trans_le hk)))
    (Ne.symm (ne_of_lt ((kCore_lt_ledger hn (by decide) (by have := opSig_lt op; omega)).trans_le hk)))

/-- A core's object reads as before where only objects of the ledger change. -/
theorem State.objsBut.core {s t : State} {ks : List Nat} (h : s.objsBut t ks) (hks : ∀ k ∈ ks, 0x440000 ≤ k) {n j a : Nat} (hn : n < 16) (hj : j < 256) (ha : a < 256) :
    t.obj (kCore n j a) = s.obj (kCore n j a) :=
  h _ fun hm => absurd (hks _ hm) (not_le.2 (kCore_lt_ledger hn hj ha))

/-! ### A controller op that acts on the ledger -/

/-- An op that the controller refuses takes no wait and stops its core with its pc (R137). -/
theorem State.refused_stops (s : State) (n : Nat) (e : Exc) :
    (s.upCore n fun c => { c with stepping := false }).Stopped (((s.passed n).setN (kPc n) (s.pc n)).except n 0 (s.pc n) e) n 0 (s.pc n) e := by
  refine (State.except_stops ..).of_same (fun k => ?_) ?_ (fun j hj => ?_) (fun _ => rfl) ⟨rfl, rfl, rfl, rfl⟩
  · rw [State.setN_eq, State.obj_setObj, State.obj_passed]
    split
    · rename_i hk
      rw [← hk, State.pc, State.objN, BitVec.ofNat_toNat, BitVec.setWidth_eq]; rfl
    · rfl
  · rw [State.setN_eq, State.core_setObj, State.core_passed, State.upCore_eq, State.core_setCore]
  · rw [State.setN_eq, State.core_setObj, State.core_passed, State.upCore_eq, State.core_setCore]

theorem State.ctlOp_refused {op : OpWord} {fields : List (Nat × Nat)} {act : Nat → State → Except Exc (State × Bool)} (h : s.opReady n op fields) (hw : s.waitOk n op)
    {e : Exc} (ha : act (s.pc n) (s.entered n op) = .error e) :
    ∃ t, s.ctlOp n op fields act = .next t ∧ (s.upCore n fun c => { c with stepping := false }).Stopped t n 0 (s.pc n) e := by
  have hexec : s.ctlOp n op fields act = .next (((s.passed n).setN (kPc n) (s.pc n)).except n 0 (s.pc n) e) := by
    refine (State.dispatch_ready h (State.waitOk_room hw)).trans ?_
    rw [State.entered] at ha
    dsimp only at ha ⊢
    rw [ha]
    rfl
  exact ⟨_, hexec, s.refused_stops n e⟩

/-- What a controller op of core n leaves that has changed the ledger, objects of it, its instance's records and its own registers, and completes. -/
structure State.AssayDone (s x t : State) (n : Nat) (op : OpWord) (ks : List Nat) : Prop where
  pc : t.objN (kPc n) = (s.pc n + 16) % 2 ^ 64
  retired : t.objN (kRetired n) = (s.objN (kRetired n) + 1) % 2 ^ 64
  core : t.core n = { x.core n with lastRetire := x.now, elapsed := 0 }
  others : ∀ j, j ≠ n → t.core j = x.core j
  ledgerObj : ∀ k, 0x440000 ≤ k → t.obj k = x.obj k
  objs : s.objsBut t (ks ++ opKeys n op)
  rest : t = { x with objs := t.objs, cores := t.cores }

theorem State.assayDone {x : State} {op : OpWord} {ks : List Nat} (hn : n < 16) (hfits : s.signalFits n op) (hobjs : (s.entered n op).objsBut x ks) (hks : ∀ k ∈ ks, 0x440000 ≤ k) :
    s.AssayDone x (x.ctlDone n op (s.pc n)) n op ks := by
  have hctr : x.ctr n (opSig op) ≤ s.ctr n (opSig op) := by
    have hx : x.ctr n (opSig op) = (s.entered n op).ctr n (opSig op) :=
      congrArg BitVec.toNat (hobjs.core hks hn (by decide) (by have := opSig_lt op; omega))
    rw [hx, State.ctr_entered s n op n (opSig_lt op)]
    exact Nat.sub_le _ _
  have hdone := State.completes_ctlDone (s := x) (n := n) (op := op) (hfits.imp_right fun h => by omega) (s.pc n)
  generalize x.ctlDone n op (s.pc n) = t at hdone
  refine ⟨?_, ?_, hdone.core, hdone.others, fun k hk => hdone.obj_ledger hn hk, ?_, hdone.rest⟩
  · rw [hdone.pc]
    exact (congrArg BitVec.toNat (hobjs.core hks hn (by decide) (by decide))).trans (s.entered_pc n op)
  · have hx : x.objN (kRetired n) = s.objN (kRetired n) :=
      (congrArg BitVec.toNat (hobjs.core hks hn (by decide) (by decide))).trans (s.retired_entered n op)
    rw [hdone.retired, hx]
  · exact (((s.objsBut_entered n op).trans (hobjs.trans hdone.objs))).mono (enter_complete_keys n op ks)

end

/-! ### An entry is taken (R214 step 1) -/

section
variable {s : State} {n m : Nat} {group : Word32}

/-- The free entry that is taken is one of the ledger's 4096. -/
theorem State.pickEntry_spec (h : ∃ i < 4096, (s.entry i).state = 0) : ∃ i, s.pickEntry = some i ∧ i < 4096 ∧ (s.entry i).state = 0 := by
  obtain ⟨i, hi, hfree⟩ := h
  rw [State.pickEntry]
  generalize s.freeNow.toNat % 4096 = f
  cases hpick : ((List.range 4096).map fun i => (f + i) % 4096).find? fun i => decide ((s.entry i).state = 0) with
  | some k =>
    have hk := List.find?_some hpick
    obtain ⟨j, -, hj⟩ := List.mem_map.1 (List.mem_of_find?_eq_some hpick)
    exact ⟨k, rfl, hj ▸ Nat.mod_lt _ (by decide), of_decide_eq_true hk⟩
  | none =>
    have hmem : i ∈ (List.range 4096).map fun i => (f + i) % 4096 :=
      List.mem_map.2 ⟨(i + 4096 - f % 4096) % 4096, List.mem_range.2 (Nat.mod_lt _ (by decide)), by omega⟩
    have hno := List.find?_eq_none.1 hpick i hmem
    exact absurd (decide_eq_true hfree) hno

/-- What the ledger and its objects hold once core n has taken entry i for a group. -/
structure State.Allocates (s t : State) (m n : Nat) (group : Word32) (i : Nat) : Prop where
  taken : ∃ v a, t.entry i = { LedgerEntry.free with state := 1, inst := m, group := group, coreA := n, safety := a, inv := v }
  others : ∀ j, j ≠ i → t.entry j = s.entry j
  used : t.objN kUsed = (s.objN kUsed + 1) % 2 ^ 16
  quota : t.objN (kAssay m 2) = (s.objN (kAssay m 2) + 1) % 2 ^ 16
  objs : s.objsBut t [kUsed, kAssay m 2, kAssay m 3]
  lastGroup : (t.inst m).lastGroup = s.now
  insts : ∀ j, j ≠ m → t.inst j = s.inst j
  rest : t = { s with objs := t.objs, ledger := t.ledger, insts := t.insts, free := t.free }

/-- The quota of an instance that has taken an entry, its high-water mark followed up. -/
def State.quotaTaken (s : State) (m : Nat) : State :=
  let s := (s.count kUsed 16).count (kAssay m 2) 16
  if s.objN (kAssay m 3) < s.objN (kAssay m 2) then s.setObj (kAssay m 3) (s.obj (kAssay m 2)) else s

theorem State.allocEntry_picked {i : Nat} (h : s.pickEntry = some i) : ∃ v a, s.allocEntry m n group
    = ((s.tookFree.setEntry i { LedgerEntry.free with state := 1, inst := m, group := group, coreA := n, safety := a, inv := v }).quotaTaken m).groupMoved m := by
  refine ⟨((s.core n).seg.map (·.inv)).getD 0, ((s.inv? m (((s.core n).seg.map (·.inv)).getD 0)).map (·.safety)).getD false, ?_⟩
  unfold State.allocEntry State.quotaTaken
  simp only [h]

theorem State.objN_quotaTaken (s : State) (m : Nat) {k : Nat} (hk : k ≠ kAssay m 3) : (s.quotaTaken m).objN k
    = if kAssay m 2 = k then (s.objN (kAssay m 2) + 1) % 2 ^ 16 else if kUsed = k then (s.objN kUsed + 1) % 2 ^ 16 else s.objN k := by
  have hu : kUsed ≠ kAssay m 2 := kUsed_ne_kAssay (by decide)
  have hcounted : ((s.count kUsed 16).count (kAssay m 2) 16).objN k
      = if kAssay m 2 = k then (s.objN (kAssay m 2) + 1) % 2 ^ 16 else if kUsed = k then (s.objN kUsed + 1) % 2 ^ 16 else s.objN k := by
    rw [State.objN_count _ _ _ _ _ (by decide), State.objN_count _ _ _ _ _ (by decide), State.objN_count _ _ _ _ _ (by decide), if_neg hu]
  rw [State.quotaTaken]
  split
  · rw [State.objN, State.obj_setObj, if_neg (Ne.symm hk)]; exact hcounted
  · exact hcounted

theorem State.objsAlone_quotaTaken (s : State) (m : Nat) : s.objsAlone (s.quotaTaken m) :=
  ((s.objsAlone_setObj _ _).trans (State.objsAlone_setObj _ _ _)).trans (.ite (State.objsAlone_setObj _ _ _) rfl)

theorem State.entry_groupMoved (s : State) (m i : Nat) : (s.groupMoved m).entry i = s.entry i := rfl

theorem State.inst_groupMoved (s : State) (m j : Nat) : (s.groupMoved m).inst j = if m = j then { s.inst m with lastGroup := s.now } else s.inst j := by
  rw [State.groupMoved, State.upInst_eq, State.inst_setInst]

theorem State.allocates_allocEntry (h : ∃ i < 4096, (s.entry i).state = 0) : ∃ i < 4096, (s.entry i).state = 0 ∧ s.Allocates (s.allocEntry m n group) m n group i := by
  obtain ⟨i, hpick, hi, hfree⟩ := State.pickEntry_spec h
  refine ⟨i, hi, hfree, ?_⟩
  obtain ⟨v, a, halloc⟩ := State.allocEntry_picked (m := m) (n := n) (group := group) hpick
  rw [halloc]
  generalize hent : ({ LedgerEntry.free with state := 1, inst := m, group := group, coreA := n, safety := a, inv := v } : LedgerEntry) = ent
  have hq := fun {k} (hk : k ≠ kAssay m 3) => (s.tookFree.setEntry i ent).objN_quotaTaken m hk
  have hrest := (s.tookFree.setEntry i ent).objsAlone_quotaTaken m
  generalize (s.tookFree.setEntry i ent).quotaTaken m = p at hq hrest
  have hentry : ∀ j, p.entry j = if i = j then ent else s.entry j := fun j => by rw [hrest]; exact State.entry_setEntry ..
  refine ⟨⟨v, a, (hentry i).trans ((if_pos rfl).trans hent.symm)⟩, fun j hj => (hentry j).trans (if_neg (Ne.symm hj)),
    (hq (kUsed_ne_kAssay (by decide))).trans ?_, (hq ?_).trans (if_pos rfl), fun k hk => ?_, ?_, fun j hj => ?_, ?_⟩
  · rw [if_neg (kUsed_ne_kAssay (by decide)).symm, if_pos rfl]; rfl
  · rw [Ne, kAssay_inj (by decide) (by decide)]; omega
  · simp only [List.mem_cons, List.not_mem_nil, or_false, not_or] at hk
    refine BitVec.eq_of_toNat_eq ((hq hk.2.2).trans ?_)
    rw [if_neg (Ne.symm hk.2.1), if_neg (Ne.symm hk.1)]; rfl
  · rw [State.inst_groupMoved, if_pos rfl, hrest]; rfl
  · rw [State.inst_groupMoved, if_neg (Ne.symm hj), hrest]; rfl
  · rw [State.groupMoved, State.upInst_eq, hrest]; rfl

end

/-! ### AOPEN (R135, R214, R216) -/

section
variable {s : State} {n : Nat} {op : OpWord}

theorem State.core_openSlot (s : State) (n : Nat) (op : OpWord) (group : Word32) (j : Nat) : (s.openSlot n op group).core j
    = if n = j then (s.core n).setSlot (opSlot op) ⟨true, bit op 93, aopenTrf op, group, 0xffffffffffffffff#64, false⟩ else s.core j := by
  rw [State.openSlot, State.upCore_eq, State.core_setCore]

theorem State.core_holdOn (s : State) (n : Nat) (h : Hold) (j : Nat) : (s.holdOn n h).core j = if n = j then { s.core n with hold := h } else s.core j := by
  rw [State.holdOn, State.upCore_eq, State.core_setCore]

/-- The group and the slots that an AOPEN names stand as they were when it enters. -/
theorem State.aopenGroup_entered (s : State) (n : Nat) (op : OpWord) : (s.entered n op).aopenGroup n op = s.aopenGroup n op := by
  rw [State.aopenGroup, State.entered_core, if_pos rfl]; rfl

theorem State.aopenFault_entered (s : State) (n : Nat) (op : OpWord) : (s.entered n op).aopenFault n op = s.aopenFault n op := by
  rw [State.aopenFault, State.entered_core, if_pos rfl]; rfl

theorem State.findEntry_entered (s : State) (n : Nat) (op : OpWord) (m : Nat) (group : Word32) : (s.entered n op).findEntry m group = s.findEntry m group := by
  rw [State.entered_eq]; rfl

theorem State.entry_entered (s : State) (n : Nat) (op : OpWord) (i : Nat) : (s.entered n op).entry i = s.entry i := by
  rw [State.entered_eq]; rfl

theorem State.inst_entered (s : State) (n : Nat) (op : OpWord) (i : Nat) : (s.entered n op).inst i = s.inst i := by
  rw [State.entered_eq]; rfl

/-- Whether a core's open slots are of another run or have other transforms, and whether an AOPEN's transforms rotate by 0 (Table 9-3). -/
def State.mixedSlots (s : State) (n : Nat) (op : OpWord) : Bool := (s.core n).openSlots.any fun x => x.runB != bit op 93 || x.trf != aopenTrf op
def badTransforms (op : OpWord) : Bool := ((aopenTrf op).t2 && decide ((aopenTrf op).rotK = 0)) || ((aopenTrf op).t3 && decide ((aopenTrf op).laneRot = 0))

theorem State.aopenFault_eq (s : State) (n : Nat) (op : OpWord) : s.aopenFault n op
    = if ((s.core n).slot (opSlot op)).isOpen then some ⟨0x06, 0x02, 0⟩ else if s.mixedSlots n op then some ⟨0x06, 0x04, 0⟩
      else if badTransforms op then some ⟨0x06, 0x05, 0⟩ else none := by
  simp only [badTransforms, Bool.or_eq_true, Bool.and_eq_true, decide_eq_true_eq]
  rfl

/-- AOPEN of run B on the state in which it acts. -/
theorem State.aopenRunB_none {m : Nat} {group : Word32} (hm : s.holder n = m) (hg : s.aopenGroup n op = group) (hfind : s.findEntry m group = none) :
    s.aopenRunB n op = .error ⟨0x06, 0x07, 0⟩ := by
  rw [State.aopenRunB, hm, hg, hfind]

theorem State.aopenRunB_some {m i : Nat} {group : Word32} (hm : s.holder n = m) (hg : s.aopenGroup n op = group) (hfind : s.findEntry m group = some i) :
    s.aopenRunB n op = if (s.entry i).coreA = n then .error ⟨0x06, 0x08, 0⟩ else if (s.entry i).state = 1 then .ok (s, false)
      else .ok (((s.setEntry i { s.entry i with state := 3, coreB := n }).groupMoved m).openSlot n op group, true) := by
  rw [State.aopenRunB, hm, hg]
  dsimp only
  rw [hfind]

end

/-- The state in which a run-A AOPEN of core n has stalled (R216). -/
def State.stalledA (s : State) (n m : Nat) (op : OpWord) (group : Word32) (pc : Nat) : State :=
  ((s.count (kAssay m 6) 32).upInst m fun x => { x with stalls := x.stalls ++ [(n, group, s.now)] }).holdOn n (.aopenA op pc)

section
variable (s : State) (n m : Nat) (op : OpWord) (group : Word32) (pc : Nat)

theorem State.core_stalledA (j : Nat) : (s.stalledA n m op group pc).core j = if n = j then { s.core n with hold := .aopenA op pc } else s.core j := by
  rw [State.stalledA, State.core_holdOn]; rfl

theorem State.stalls_stalledA : ((s.stalledA n m op group pc).inst m).stalls = (s.inst m).stalls ++ [(n, group, s.now)] := by
  rw [State.stalledA, State.holdOn, State.upCore_eq, State.inst_setCore, State.upInst_eq, State.inst_setInst, if_pos rfl, State.count_eq, State.inst_setObj]

theorem State.obj_stalledA (k : Nat) : (s.stalledA n m op group pc).obj k = (s.count (kAssay m 6) 32).obj k := by
  rw [State.stalledA, State.holdOn, State.upCore_eq, State.obj_setCore, State.upInst_eq, State.obj_setInst]

theorem State.stalledA_rest : ∃ o c i, s.stalledA n m op group pc = { s with objs := o, cores := c, insts := i } := ⟨_, _, _, rfl⟩

end

section
variable {s : State} {n : Fin 16} {w : BitVec 120}

/-- What an AOPEN without a fault of its own does with the state that it enters. -/
def State.aopenAct (s : State) (n : Nat) (op : OpWord) (pc : Nat) : Except Exc (State × Bool) :=
  if bit op 93 then
    match s.aopenRunB n op with
    | .error e => .error e
    | .ok (s', true) => .ok (s', true)
    | .ok (s', false) => .ok (s'.holdOn n (.aopenB op pc), false)
  else if (s.findEntry (s.holder n) (s.aopenGroup n op)).isSome then .error ⟨0x06, 0x06, 0⟩
  else if s.flintOpen && s.quotaLeft (s.holder n) then .ok ((s.allocEntry (s.holder n) n (s.aopenGroup n op)).openSlot n op (s.aopenGroup n op), true)
  else .ok (s.stalledA n (s.holder n) op (s.aopenGroup n op) pc, false)

theorem exec_aopen (n : Fin 16) (w : BitVec 120) (s : State) : exec (.aopen n w) s
    = s.ctlOp n (mkOp 0x90 w) [(95, 94), (93, 93), (92, 88), (87, 85), (84, 77), (76, 69)] fun pc s =>
        match s.aopenFault n (mkOp 0x90 w) with
        | some e => .error e
        | none => s.aopenAct n (mkOp 0x90 w) pc := rfl

/-- What run B does with the entry of its group. -/
theorem aopenAct_runB {m i : Nat} {group : Word32} (hm : s.holder n = m) (hg : s.aopenGroup n (mkOp 0x90 w) = group) (hrun : bit (mkOp 0x90 w) 93 = true)
    (hfind : s.findEntry m group = some i) : (s.entered n (mkOp 0x90 w)).aopenAct n (mkOp 0x90 w) (s.pc n)
    = if (s.entry i).coreA = n then .error ⟨0x06, 0x08, 0⟩
      else if (s.entry i).state = 1 then .ok ((s.entered n (mkOp 0x90 w)).holdOn n (.aopenB (mkOp 0x90 w) (s.pc n)), false)
      else .ok ((((s.entered n (mkOp 0x90 w)).setEntry i { s.entry i with state := 3, coreB := n }).groupMoved m).openSlot n (mkOp 0x90 w) group, true) := by
  rw [State.aopenAct, hrun, if_pos rfl, State.aopenRunB_some ((s.holder_entered ..).trans hm) ((s.aopenGroup_entered ..).trans hg) ((s.findEntry_entered ..).trans hfind),
    State.entry_entered]
  by_cases hA : (s.entry i).coreA = n
  · rw [if_pos hA, if_pos hA]
  · rw [if_neg hA, if_neg hA]
    by_cases hs : (s.entry i).state = 1
    · rw [if_pos hs, if_pos hs]
    · rw [if_neg hs, if_neg hs]

section
variable (hready : s.opReady n (mkOp 0x90 w) [(95, 94), (93, 93), (92, 88), (87, 85), (84, 77), (76, 69)]) (hwait : s.waitOk n (mkOp 0x90 w))
include hready hwait

/-- An AOPEN that its own fields or slots forbid is misuse. -/
theorem exec_aopen_fault {e : Exc} (hfault : s.aopenFault n (mkOp 0x90 w) = some e) :
    ∃ t, exec (.aopen n w) s = .next t ∧ (s.upCore n fun c => { c with stepping := false }).Stopped t n 0 (s.pc n) e := by
  rw [exec_aopen]
  refine State.ctlOp_refused hready hwait ?_
  rw [State.aopenFault_entered, hfault]

/-- An AOPEN that the ledger forbids is misuse. -/
theorem exec_aopen_refused {e : Exc} (hfault : s.aopenFault n (mkOp 0x90 w) = none) (ha : (s.entered n (mkOp 0x90 w)).aopenAct n (mkOp 0x90 w) (s.pc n) = .error e) :
    ∃ t, exec (.aopen n w) s = .next t ∧ (s.upCore n fun c => { c with stepping := false }).Stopped t n 0 (s.pc n) e := by
  rw [exec_aopen]
  refine State.ctlOp_refused hready hwait ?_
  rw [State.aopenFault_entered, hfault]
  exact ha

theorem exec_aopen_acts {t : State} {done : Bool} (hfault : s.aopenFault n (mkOp 0x90 w) = none)
    (ha : (s.entered n (mkOp 0x90 w)).aopenAct n (mkOp 0x90 w) (s.pc n) = .ok (t, done)) :
    exec (.aopen n w) s = .next (if done then t.ctlDone n (mkOp 0x90 w) (s.pc n) else t) := by
  rw [exec_aopen]
  refine State.ctlOp_ready hready hwait ?_
  rw [State.aopenFault_entered, hfault]
  exact ha

/-- Run A takes an entry and opens its slot. -/
theorem aopen_opensA {m : Nat} {group : Word32} (hm : s.holder n = m) (hg : s.aopenGroup n (mkOp 0x90 w) = group) (hfault : s.aopenFault n (mkOp 0x90 w) = none)
    (hrun : bit (mkOp 0x90 w) 93 = false) (hfind : s.findEntry m group = none) (hopen : s.flintOpen = true) (hquota : s.objN (kAssay m 2) < s.objN (kAssay m 1)) :
    exec (.aopen n w) s = .next ((((s.entered n (mkOp 0x90 w)).allocEntry m n group).openSlot n (mkOp 0x90 w) group).ctlDone n (mkOp 0x90 w) (s.pc n)) := by
  refine exec_aopen_acts hready hwait (done := true) hfault ?_
  have hleft : (s.entered n (mkOp 0x90 w)).quotaLeft m = true := decide_eq_true (by
    rw [State.objN, State.objN, s.obj_entered_ledger n.isLt _ (ledger_le_kAssay ..), s.obj_entered_ledger n.isLt _ (ledger_le_kAssay ..)]; exact hquota)
  rw [State.aopenAct, hrun, State.holder_entered, State.aopenGroup_entered, State.findEntry_entered, hm, hg, hfind, hleft, s.entered_eq, hopen]
  rfl

/-- Run A stalls when Flint does not accept or no quota is left. -/
theorem aopen_stallsA {m : Nat} {group : Word32} (hm : s.holder n = m) (hg : s.aopenGroup n (mkOp 0x90 w) = group) (hfault : s.aopenFault n (mkOp 0x90 w) = none)
    (hrun : bit (mkOp 0x90 w) 93 = false) (hfind : s.findEntry m group = none) (hfull : s.flintOpen = false ∨ s.objN (kAssay m 1) ≤ s.objN (kAssay m 2)) :
    exec (.aopen n w) s = .next ((s.entered n (mkOp 0x90 w)).stalledA n m (mkOp 0x90 w) group (s.pc n)) := by
  refine exec_aopen_acts hready hwait (done := false) hfault ?_
  have hno : ((s.entered n (mkOp 0x90 w)).flintOpen && (s.entered n (mkOp 0x90 w)).quotaLeft m) = false := by
    have hf : (s.entered n (mkOp 0x90 w)).flintOpen = s.flintOpen := by rw [s.entered_eq]
    rcases hfull with h | h
    · rw [hf, h]; rfl
    · have hq : (s.entered n (mkOp 0x90 w)).quotaLeft m = false := decide_eq_false (by
        rw [State.objN, State.objN, s.obj_entered_ledger n.isLt _ (ledger_le_kAssay ..), s.obj_entered_ledger n.isLt _ (ledger_le_kAssay ..)]; exact not_lt.2 h)
      rw [hq, Bool.and_false]
  rw [State.aopenAct, hrun, State.holder_entered, State.aopenGroup_entered, State.findEntry_entered, hm, hg, hfind, hno]
  rfl

end

end

/-- What an AOPEN leaves that has opened its slot over the ledger of `y`. -/
structure State.Opens (s y t : State) (n : Nat) (op : OpWord) (group : Word32) (ks : List Nat) : Prop where
  pc : t.objN (kPc n) = (s.pc n + 16) % 2 ^ 64
  retired : t.objN (kRetired n) = (s.objN (kRetired n) + 1) % 2 ^ 64
  core : t.core n = { (s.core n).setSlot (opSlot op) ⟨true, bit op 93, aopenTrf op, group, 0xffffffffffffffff#64, false⟩ with stepping := false, lastRetire := s.now, elapsed := 0 }
  others : ∀ j, j ≠ n → t.core j = s.core j
  ledgerObj : ∀ k, 0x440000 ≤ k → t.obj k = y.obj k
  objs : s.objsBut t (opKeys n op ++ ks)
  rest : t = { y with objs := t.objs, cores := t.cores }

theorem State.opens {s y : State} {n : Nat} {op : OpWord} {group : Word32} {ks : List Nat} (hn : n < 16) (hfits : s.signalFits n op) (hcores : y.cores = (s.entered n op).cores)
    (hnow : y.now = s.now) (hobjs : (s.entered n op).objsBut y ks) (hks : ∀ k ∈ ks, 0x440000 ≤ k) :
    s.Opens y ((y.openSlot n op group).ctlDone n op (s.pc n)) n op group ks := by
  have hcore : ∀ j, y.core j = (s.entered n op).core j := fun j => by rw [State.core, hcores]; rfl
  have hdone := State.assayDone (x := y.openSlot n op group) hn hfits hobjs hks
  generalize (y.openSlot n op group).ctlDone n op (s.pc n) = t at hdone
  refine ⟨hdone.pc, hdone.retired, ?_, fun j hj => ?_, hdone.ledgerObj, hdone.objs.mono fun k hk => List.mem_append.2 (List.mem_append.1 hk).symm, ?_⟩
  · rw [hdone.core, State.core_openSlot, if_pos rfl, hcore, State.entered_core, if_pos rfl, State.openSlot, State.upCore_eq]
    change ({ CoreSt.setSlot _ _ _ with lastRetire := y.now, elapsed := 0 } : CoreSt) = _
    rw [hnow]; rfl
  · rw [hdone.others j hj, State.core_openSlot, if_neg (Ne.symm hj), hcore, State.entered_core, if_neg (Ne.symm hj)]
  · rw [hdone.rest, State.openSlot, State.upCore_eq]; rfl

/-- Settles O32: the checks of the op, then the ledger's answer on the state in which the op acts. -/
theorem aopenOpensItsGroup : Obligations.AopenOpensItsGroup := by
  unfold Obligations.AopenOpensItsGroup
  intro s n w op g group trf m mixed badTrf ok opened stops hready hwait hfits
  have hclean : ok = true → s.aopenFault n op = none := fun hok => by
    simp only [ok, Bool.and_eq_true, Bool.not_eq_true'] at hok
    obtain ⟨⟨hopen, hmixed⟩, hbad⟩ := hok
    rw [State.aopenFault_eq]
    exact (if_neg (by rw [show ((s.core n).slot (opSlot op)).isOpen = false from hopen]; decide)).trans
      ((if_neg (by rw [show s.mixedSlots n op = false from hmixed]; decide)).trans (if_neg (by rw [show badTransforms op = false from hbad]; decide)))
  refine ⟨fun hopen => ?_, fun hopen hmixed => ?_, fun hopen hmixed hbad => ?_, fun hok hrun hfind => ?_, fun hok hrun hfind => ?_, fun i hok hrun hfind hA => ?_,
    fun hok hrun hfind hflint hquota hfree => ?_, fun hok hrun hfind hfull => ?_, fun i hok hrun hfind hA => ⟨fun hstate => ?_, fun hstate => ?_⟩⟩
  · refine exec_aopen_fault hready hwait ?_
    rw [State.aopenFault_eq]
    exact if_pos hopen
  · refine exec_aopen_fault hready hwait ?_
    rw [State.aopenFault_eq]
    exact (if_neg (by rw [show ((s.core n).slot (opSlot op)).isOpen = false from hopen]; decide)).trans (if_pos hmixed)
  · refine exec_aopen_fault hready hwait ?_
    rw [State.aopenFault_eq]
    exact (if_neg (by rw [show ((s.core n).slot (opSlot op)).isOpen = false from hopen]; decide)).trans
      ((if_neg (by rw [show s.mixedSlots n op = false from hmixed]; decide)).trans (if_pos hbad))
  · refine exec_aopen_refused hready hwait (hclean hok) ?_
    rw [State.aopenAct, hrun, State.holder_entered, State.aopenGroup_entered, State.findEntry_entered]
    exact if_pos hfind
  · refine exec_aopen_refused hready hwait (hclean hok) ?_
    rw [State.aopenAct, hrun, if_pos rfl, State.aopenRunB_none (s.holder_entered ..) (s.aopenGroup_entered ..) ((s.findEntry_entered ..).trans hfind)]
  · exact exec_aopen_refused hready hwait (hclean hok) ((aopenAct_runB rfl rfl hrun hfind).trans (if_pos hA))
  · have hexec : exec (.aopen n w) s = .next ((((s.entered n op).allocEntry m n group).openSlot n op group).ctlDone n op (s.pc n)) :=
      aopen_opensA hready hwait rfl rfl (hclean hok) hrun hfind hflint hquota
    obtain ⟨i, hi, hifree, halloc⟩ := State.allocates_allocEntry (s := s.entered n op) (m := m) (n := n) (group := group)
      (by simpa only [State.entry_entered] using hfree)
    generalize (s.entered n op).allocEntry m n group = y at halloc hexec
    have hopens := State.opens (s := s) (y := y) (group := group) n.isLt hfits (by rw [halloc.rest]) (by rw [halloc.rest, State.now_entered]) halloc.objs fun k hk => by
      simp only [List.mem_cons, List.not_mem_nil, or_false] at hk
      rcases hk with rfl | rfl | rfl
      · decide
      · exact ledger_le_kAssay ..
      · exact ledger_le_kAssay ..
    generalize (y.openSlot n op group).ctlDone n op (s.pc n) = t at hexec hopens
    have hentry : ∀ j, t.entry j = y.entry j := fun j => by rw [hopens.rest]; rfl
    have hinst : ∀ j, t.inst j = y.inst j := fun j => by rw [hopens.rest]; rfl
    obtain ⟨v, a, htaken⟩ := halloc.taken
    refine ⟨t, i, hexec, hi, (s.entry_entered n op i) ▸ hifree, ?_, ?_, ?_, ?_, ?_, fun j hj => ?_, ?_, ?_, hopens.pc, hopens.retired, hopens.core, fun j hj => hopens.others j fun h => hj (Fin.ext h),
      ?_, fun j hj => ?_, hopens.objs, ?_⟩
    · rw [hentry, htaken]
    · rw [hentry, htaken]
    · rw [hentry, htaken]
    · rw [hentry, htaken]
    · rw [hentry, htaken]; rfl
    · rw [hentry, halloc.others j hj, State.entry_entered]
    · rw [State.objN, hopens.ledgerObj _ (by decide)]
      exact halloc.used.trans (by rw [State.objN, s.obj_entered_ledger n.isLt op (by decide)]; rfl)
    · rw [State.objN, hopens.ledgerObj _ (ledger_le_kAssay ..)]
      exact halloc.quota.trans (by rw [State.objN, s.obj_entered_ledger n.isLt op (ledger_le_kAssay ..)]; rfl)
    · rw [hinst, halloc.lastGroup, State.now_entered]
    · rw [hinst, halloc.insts j hj, State.inst_entered]
    · rw [hopens.rest, halloc.rest, State.entered_eq]
  · have hexec : exec (.aopen n w) s = .next ((s.entered n op).stalledA n m op group (s.pc n)) := aopen_stallsA hready hwait rfl rfl (hclean hok) hrun hfind hfull
    have hcore := (s.entered n op).core_stalledA n m op group (s.pc n) n
    have hstalls := (s.entered n op).stalls_stalledA n m op group (s.pc n)
    have hobj := (s.entered n op).obj_stalledA n m op group (s.pc n)
    obtain ⟨o, c, x, hrest⟩ := (s.entered n op).stalledA_rest n m op group (s.pc n)
    generalize (s.entered n op).stalledA n m op group (s.pc n) = t at hexec hcore hstalls hobj hrest
    refine ⟨t, hexec, ?_, ?_, ?_, ?_, fun k hk => ?_, ?_⟩
    · rw [hcore, if_pos rfl, State.entered_core, if_pos rfl]
    · rw [hstalls, State.inst_entered, State.now_entered]
    · rw [State.objN, hobj]
      refine (State.objN_count _ _ _ _ _ (by decide)).trans ?_
      rw [if_pos rfl, State.objN, s.obj_entered_ledger n.isLt _ (ledger_le_kAssay ..)]; rfl
    · rw [hrest, State.entered_eq]
    · rw [List.mem_cons, not_or] at hk
      rw [hobj, State.count_eq, State.obj_setObj, if_neg (Ne.symm hk.1)]
      exact ((s.objsBut_entered n op).mono (enter_keys n op)) k hk.2
    · rw [hrest, State.entered_eq]
  · have hexec := exec_aopen_acts hready hwait (hclean hok) ((aopenAct_runB rfl rfl hrun hfind).trans ((if_neg hA).trans (if_pos hstate)))
    refine ⟨_, hexec, ?_, (s.objsBut_entered n op).mono (enter_keys n op), ?_⟩
    · exact (State.core_holdOn ..).trans ((if_pos rfl).trans (by rw [State.entered_core, if_pos rfl]))
    · rw [if_neg Bool.false_ne_true, State.entered_eq]; rfl
  · have hexec : exec (.aopen n w) s
        = .next (((((s.entered n op).setEntry i { s.entry i with state := 3, coreB := n }).groupMoved m).openSlot n op group).ctlDone n op (s.pc n)) :=
      exec_aopen_acts hready hwait (hclean hok) ((aopenAct_runB rfl rfl hrun hfind).trans ((if_neg hA).trans (if_neg hstate)))
    have hentry : ∀ j, (((s.entered n op).setEntry i { s.entry i with state := 3, coreB := n }).groupMoved m).entry j
        = if i = j then { s.entry i with state := 3, coreB := n.val } else s.entry j := fun j =>
      (State.entry_groupMoved ..).trans ((State.entry_setEntry ..).trans (by rw [State.entry_entered]))
    have hinst := ((s.entered n op).setEntry i { s.entry i with state := 3, coreB := n }).inst_groupMoved m m
    have hrest : ∃ l x, ((s.entered n op).setEntry i { s.entry i with state := 3, coreB := n }).groupMoved m = { s.entered n op with ledger := l, insts := x } := ⟨_, _, rfl⟩
    have hobjs : (s.entered n op).objsBut (((s.entered n op).setEntry i { s.entry i with state := 3, coreB := n }).groupMoved m) [] := fun _ _ => rfl
    generalize ((s.entered n op).setEntry i { s.entry i with state := 3, coreB := n }).groupMoved m = y at hexec hentry hinst hrest hobjs
    obtain ⟨l, x, hrest⟩ := hrest
    have hopens := State.opens (s := s) (y := y) (group := group) n.isLt hfits (by rw [hrest]) (by rw [hrest]; exact s.now_entered n op) hobjs (fun k hk => absurd hk List.not_mem_nil)
    generalize (y.openSlot n op group).ctlDone n op (s.pc n) = t at hexec hopens
    have hentry' : ∀ j, t.entry j = y.entry j := fun j => by rw [hopens.rest]; rfl
    refine ⟨t, hexec, ?_, fun j hj => ?_, hopens.pc, hopens.retired, hopens.core, fun j hj => hopens.others j fun h => hj (Fin.ext h), ?_, ?_, ?_⟩
    · rw [hentry', hentry, if_pos rfl]
    · rw [hentry', hentry, if_neg (Ne.symm hj)]
    · have hti : t.inst m = y.inst m := by rw [hopens.rest]; rfl
      rw [hti, hinst, if_pos rfl]
      exact s.now_entered n op
    · simpa using hopens.objs
    · rw [hopens.rest, hrest, State.entered_eq]

end Sys2Proof.Machine
end

section
/-! ACLOSE closes its slot and its run, entries time out and ledgers deadlock (O33). -/

namespace Sys2Proof.Machine

/-! ### A group settles (R215, R225, R230) -/

/-- The records of instances, captures and streams have changed, the invocations of every instance apart. -/
structure State.Settles (s t : State) : Prop where
  rest : ∃ i c x, t = { s with insts := i, caps := c, streams := x }
  invs : ∀ j, (t.inst j).invs = (s.inst j).invs

section
variable {s t u : State}

theorem State.Settles.refl (s : State) : s.Settles s := ⟨⟨_, _, _, rfl⟩, fun _ => rfl⟩

theorem State.Settles.trans (h : s.Settles t) (h' : t.Settles u) : s.Settles u := by
  obtain ⟨⟨i, c, x, rfl⟩, hinv⟩ := h
  obtain ⟨⟨i', c', x', rfl⟩, hinv'⟩ := h'
  exact ⟨⟨i', c', x', rfl⟩, fun j => (hinv' j).trans (hinv j)⟩

theorem State.Settles.inv? (h : s.Settles t) (m num : Nat) : t.inv? m num = s.inv? m num := by
  rw [State.inv?, State.inv?, h.invs]

theorem State.settles_forEach {α : Type} (s : State) (l : List α) {f : State → α → State} (hf : ∀ (u : State) x, u.Settles (f u x)) : s.Settles (s.forEach l f) :=
  State.forEach_induct l (fun u x _ h => h.trans (hf u x)) (.refl s)

/-- An update of an instance's record that leaves its invocations. -/
theorem State.settles_upInst (s : State) (m : Nat) {f : InstSt → InstSt} (hf : ∀ x, (f x).invs = x.invs) : s.Settles (s.upInst m f) := by
  refine ⟨⟨_, _, _, rfl⟩, fun j => ?_⟩
  rw [State.upInst_eq, State.inst_setInst]
  split
  · subst_vars; exact hf _
  · rfl

theorem State.settles_freeRings (s : State) (st : Nat) : s.Settles (s.freeRings st) := by
  rw [State.freeRings]
  exact (⟨⟨_, _, _, rfl⟩, fun _ => rfl⟩ : s.Settles (s.setStream st _)).trans (State.settles_forEach _ _ fun u x => u.settles_upInst _ fun _ => rfl)

theorem State.settles_dropHold (s : State) (set slot : Nat) : s.Settles (s.dropHold set slot) := by
  rw [State.dropHold]
  dsimp only
  generalize TMap.set (fun _ => CapRun.init) s.caps set _ = c
  have hcaps : s.Settles { s with caps := c } := ⟨⟨_, _, _, rfl⟩, fun _ => rfl⟩
  split
  · refine hcaps.trans (State.settles_forEach _ _ fun u x => ?_)
    exact (⟨⟨_, _, _, rfl⟩, fun _ => rfl⟩ : u.Settles (u.upStream x _)).trans (State.settles_freeRings ..)
  · exact hcaps

theorem State.settles_settleKv (s : State) (m num : Nat) : s.Settles (s.settleKv m num) := by
  rw [State.settleKv]
  split
  · exact .refl s
  · exact s.settles_upInst m fun _ => rfl

/-- Whether invocation `num` of instance m, where it is in progress, has a group among those that assayed equal or among the broken. -/
def State.holdsGroup (s : State) (m num r : Nat) (equal : Bool) : Prop := ∃ v, s.inv? m num = some v ∧ r ∈ if equal then v.equal else v.broken

theorem State.Settles.holdsGroup (h : s.Settles t) {m num r : Nat} {equal : Bool} (hs : s.holdsGroup m num r equal) : t.holdsGroup m num r equal := by
  obtain ⟨v, hv, hr⟩ := hs
  exact ⟨v, (h.inv? m num).trans hv, hr⟩

theorem State.settleCaps_settles {m num r : Nat} {equal : Bool} (hs : s.holdsGroup m num r equal) :
    (∃ i c x, s.settleCaps m num = { s with insts := i, caps := c, streams := x }) ∧ (s.settleCaps m num).holdsGroup m num r equal := by
  obtain ⟨v, hv, hr⟩ := hs
  rw [State.settleCaps, hv]
  dsimp only
  split
  · have hdrop := s.settles_forEach v.caps fun u x => u.settles_dropHold x.1 x.2
    generalize (s.forEach v.caps fun u x => u.dropHold x.1 x.2) = u at hdrop
    obtain ⟨i, c, x, hrest⟩ := hdrop.rest
    refine ⟨⟨_, c, x, by rw [State.upInv, State.upInst_eq, hrest]; rfl⟩, { v with caps := [] }, ?_, hr⟩
    refine (State.inv?_upInv (f := fun v => { v with caps := [] }) u m num fun _ => rfl).trans ?_
    rw [hdrop.inv?, hv]; rfl
  · exact ⟨⟨_, _, _, rfl⟩, v, hv, hr⟩

theorem State.settleCaps_idle {m num : Nat} (h : s.inv? m num = none) : s.settleCaps m num = s := by
  rw [State.settleCaps, h]

/-- A group is entered among the equal or the broken groups of its invocation. -/
def InvSt.addGroup (v : InvSt) (r : Nat) (equal : Bool) : InvSt :=
  if equal then { v with equal := r :: v.equal.filter (· != r) } else { v with broken := r :: v.broken.filter (· != r) }

theorem InvSt.num_addGroup (v : InvSt) (r : Nat) (equal : Bool) : (v.addGroup r equal).num = v.num := by cases equal <;> rfl

theorem InvSt.mem_addGroup (v : InvSt) (r : Nat) (equal : Bool) : r ∈ if equal then (v.addGroup r equal).equal else (v.addGroup r equal).broken := by
  cases equal <;> exact List.mem_cons_self

/-- A group that settles changes the records of instances, captures and streams alone, and its invocation knows it. -/
theorem State.settleGroup_settles (s : State) (m num r : Nat) (equal : Bool) :
    (∃ i c x, s.settleGroup m num r equal = { s with insts := i, caps := c, streams := x })
      ∧ ∀ v, s.inv? m num = some v → (s.settleGroup m num r equal).holdsGroup m num r equal := by
  change (∃ i c x, ((s.upInv m num fun v => v.addGroup r equal).settleKv m num).settleCaps m num = _) ∧ ∀ v, _ → State.holdsGroup (((s.upInv m num fun v => v.addGroup r equal).settleKv m num).settleCaps m num) _ _ _ _
  have hinv : (s.upInv m num fun v => v.addGroup r equal).inv? m num = (s.inv? m num).map fun v => v.addGroup r equal :=
    s.inv?_upInv m num fun v => v.num_addGroup r equal
  obtain ⟨l, hup⟩ : ∃ l, (s.upInv m num fun v => v.addGroup r equal) = { s with insts := l } := ⟨_, rfl⟩
  generalize (s.upInv m num fun v => v.addGroup r equal) = u at hinv hup
  have hkv := u.settles_settleKv m num
  generalize u.settleKv m num = k at hkv
  obtain ⟨i, c, x, hkrest⟩ := hkv.rest
  cases hv : s.inv? m num with
  | none =>
    rw [State.settleCaps_idle (by rw [hkv.inv?, hinv, hv]; rfl)]
    exact ⟨⟨i, c, x, by rw [hkrest, hup]⟩, nofun⟩
  | some v =>
    have hholds : k.holdsGroup m num r equal := ⟨v.addGroup r equal, by rw [hkv.inv?, hinv, hv]; rfl, v.mem_addGroup r equal⟩
    obtain ⟨⟨i', c', x', hrest⟩, hk⟩ := State.settleCaps_settles hholds
    exact ⟨⟨i', c', x', by rw [hrest, hkrest, hup]⟩, fun _ _ => hk⟩

end

/-! ### An entry is given back (R214 step 4) -/

section
variable {s : State} {m i : Nat}

/-- What a freed entry leaves of the ledger and its objects. -/
structure State.Frees (s t : State) (m i : Nat) : Prop where
  freed : t.entry i = LedgerEntry.free
  others : ∀ j, j ≠ i → t.entry j = s.entry j
  used : t.objN kUsed = s.objN kUsed - 1
  quota : t.objN (kAssay m 2) = s.objN (kAssay m 2) - 1
  objs : s.objsBut t [kUsed, kAssay m 2]
  invs : ∀ j, (t.inst j).invs = (s.inst j).invs
  rest : ∃ o l x, t = { s with objs := o, ledger := l, insts := x }

theorem State.frees_freeEntry (hm : (s.entry i).inst = m) (hstalls : (s.inst m).stalls = []) : s.Frees (s.freeEntry i) m i := by
  have hu : kUsed ≠ kAssay m 2 := kUsed_ne_kAssay (by decide)
  rw [State.freeEntry, hm]
  have hsmall : ∀ k, s.objN k - 1 < 2 ^ 64 := fun k => lt_of_le_of_lt (Nat.sub_le _ _) (s.obj k).isLt
  generalize ha : (s.setEntry i LedgerEntry.free).setN kUsed (s.objN kUsed - 1) = a
  have haobj : ∀ k, a.obj k = if kUsed = k then BitVec.ofNat 64 (s.objN kUsed - 1) else s.obj k := fun k => by rw [← ha, State.setN_eq, State.obj_setObj]; rfl
  have hquota : a.objN (kAssay m 2) = s.objN (kAssay m 2) := by rw [State.objN, haobj, if_neg hu]; rfl
  rw [hquota]
  generalize hb : a.setN (kAssay m 2) (s.objN (kAssay m 2) - 1) = b
  have hbobj : ∀ k, b.obj k = if kAssay m 2 = k then BitVec.ofNat 64 (s.objN (kAssay m 2) - 1) else a.obj k := fun k => by rw [← hb, State.setN_eq, State.obj_setObj]
  have hentry : ∀ j, b.entry j = if i = j then LedgerEntry.free else s.entry j := fun j => by
    rw [← hb, ← ha]
    change (s.setEntry i LedgerEntry.free).entry j = _
    rw [State.entry_setEntry]
  have hinst : ∀ j, b.inst j = s.inst j := fun j => by rw [← hb, ← ha]; rfl
  have hrest : ∃ o l, b = { s with objs := o, ledger := l } := ⟨_, _, by rw [← hb, ← ha, State.setN_eq, State.setN_eq]; rfl⟩
  have hgrant : (b.groupMoved m).grantStall m = b.groupMoved m := by
    rw [State.grantStall, State.inst_groupMoved, if_pos rfl, hinst, hstalls]
  rw [hgrant]
  refine ⟨(hentry i).trans (if_pos rfl), fun j hj => (hentry j).trans (if_neg (Ne.symm hj)), ?_, ?_, fun k hk => ?_, fun j => ?_, ?_⟩
  · change (b.obj kUsed).toNat = _
    rw [hbobj, if_neg hu.symm, haobj, if_pos rfl, BitVec.toNat_ofNat, Nat.mod_eq_of_lt (hsmall _)]
  · change (b.obj (kAssay m 2)).toNat = _
    rw [hbobj, if_pos rfl, BitVec.toNat_ofNat, Nat.mod_eq_of_lt (hsmall _)]
  · simp only [List.mem_cons, List.not_mem_nil, or_false, not_or] at hk
    exact (hbobj k).trans ((if_neg (Ne.symm hk.2)).trans ((haobj k).trans (if_neg (Ne.symm hk.1))))
  · rw [State.inst_groupMoved]
    split
    · subst_vars; rw [hinst]
    · rw [hinst]
  · obtain ⟨o, l, hb⟩ := hrest
    exact ⟨o, l, _, by rw [State.groupMoved, State.upInst_eq, hb]; rfl⟩

end

/-! ### A slot closes (R135, R214) -/

/-- Core n without the slot that an ACLOSE names, its dispatch free. -/
def State.slotClosed (s : State) (n : Nat) (op : OpWord) : State := s.upCore n fun c => { c.setSlot (opSlot op) ASlot.closed with hold := .none }

/-- The signature with which a slot of core n finishes (R213). -/
def State.slotSig (s : State) (n : Nat) (op : OpWord) : Word64 := ((s.core n).slot (opSlot op)).sig ^^^ 0xffffffffffffffff#64

section
variable {s : State} {n m i : Nat} {op : OpWord}

theorem State.core_slotClosed (s : State) (n : Nat) (op : OpWord) (j : Nat) :
    (s.slotClosed n op).core j = if n = j then { (s.core n).setSlot (opSlot op) ASlot.closed with hold := .none } else s.core j := by
  rw [State.slotClosed, State.upCore_eq, State.core_setCore]

theorem State.acloseDone_runA (hfind : s.findEntry (s.holder n) ((s.core n).slot (opSlot op)).group = some i) (hrun : ((s.core n).slot (opSlot op)).runB = false) (addr : Nat) :
    s.acloseDone n op addr = ((s.slotClosed n op).closeRunA (s.holder n) i (s.slotSig n op)).ctlDone n op addr := by
  have hclosed : (s.slotClosed n op).findEntry (s.holder n) ((s.core n).slot (opSlot op)).group = some i := hfind
  unfold State.acloseDone
  dsimp only
  rw [State.slotClosed] at hclosed
  rw [hclosed]
  dsimp only
  rw [hrun]
  rfl

theorem State.acloseDone_runB (hfind : s.findEntry (s.holder n) ((s.core n).slot (opSlot op)).group = some i) (hrun : ((s.core n).slot (opSlot op)).runB = true) (addr : Nat) :
    s.acloseDone n op addr = if ((s.slotClosed n op).closeRunB n (s.holder n) i (s.slotSig n op)).2
      then (((s.slotClosed n op).closeRunB n (s.holder n) i (s.slotSig n op)).1.ctlDone n op addr).forEach
        (((s.slotClosed n op).closeRunB n (s.holder n) i (s.slotSig n op)).1.coresOf (s.holder n)) fun s k => s.collKick k
      else ((s.slotClosed n op).closeRunB n (s.holder n) i (s.slotSig n op)).1 := by
  have hclosed : (s.slotClosed n op).findEntry (s.holder n) ((s.core n).slot (opSlot op)).group = some i := hfind
  unfold State.acloseDone
  dsimp only
  rw [State.slotClosed] at hclosed
  rw [hclosed]
  dsimp only
  rw [hrun]
  rfl

/-- A loop whose steps leave the state alone. -/
theorem State.forEach_id {α : Type} (s : State) (l : List α) {f : State → α → State} (hf : ∀ x ∈ l, f s x = s) : s.forEach l f = s :=
  State.forEach_induct (P := fun u => u = s) l (fun _ x hx hu => by rw [hu]; exact hf x hx) rfl

/-- No run B waits: a run-B AOPEN that is tried again finds none. -/
theorem State.retryRunB_idle {k : Nat} (h : ∀ op a, (s.core k).hold ≠ .aopenB op a) : s.retryRunB k = s := by
  unfold State.retryRunB
  cases hh : (s.core k).hold with
  | aopenB op a => exact absurd hh (h op a)
  | _ => rfl

/-- Run A leaves its signature and a deadline in its entry. -/
theorem State.closeRunA_eq (sig : Word64) (h : ∀ k op a, (s.core k).hold ≠ .aopenB op a) : s.closeRunA m i sig
    = (s.setEntry i { s.entry i with state := 2, sig := sig, deadline := (s.nowN / 1000 + s.objN (kAssay m 4)) % 2 ^ 20 }).groupMoved m := by
  unfold State.closeRunA
  exact State.forEach_id _ _ fun k _ => State.retryRunB_idle (h k)

/-- No collective stands in a core's DMA queue. -/
theorem State.collKick_idle {k : Nat} (h : ∀ o ∈ (s.core k).dma, opOf o.op ≠ 0x64) : s.collKick k = s := by
  have hnone : ((s.core k).dma.filter fun o => o.started && !o.ran && decide (opOf o.op = 0x64)) = [] :=
    List.filter_eq_nil_iff.2 fun o ho hyes => by
      simp only [Bool.and_eq_true, decide_eq_true_eq] at hyes
      exact h o ho hyes.2
  rw [State.collKick, hnone]; rfl

/-- Run B of a broken group settles it and frees its entry. -/
theorem State.closeRunB_broken (sig : Word64) (h : (s.entry i).broken = true) : s.closeRunB n m i sig
    = ((s.freeEntry i).settleGroup m (s.entry i).inv (relGroup (s.entry i).group (((s.inv? m (s.entry i).inv).map (·.base)).getD 0#32)) false, true) := by
  rw [State.closeRunB, h]; rfl

/-- Run B whose signature agrees in time assays its group and frees its entry. -/
theorem State.closeRunB_equal (sig : Word64) (h : (s.entry i).broken = false) (hsig : (s.entry i).sig = sig) (hintime : s.pastDeadline (s.entry i) = false) :
    s.closeRunB n m i sig = ((((s.count kCompares 64).setN (kAssay m 0xb) (s.entry i).group.toNat).freeEntry i).settleGroup m (s.entry i).inv
      (relGroup (s.entry i).group (((s.inv? m (s.entry i).inv).map (·.base)).getD 0#32)) true, true) := by
  have hlate : (s.count kCompares 64).pastDeadline (s.entry i) = false := hintime
  rw [State.closeRunB, h]
  dsimp only
  rw [if_neg Bool.false_ne_true, if_neg (not_not.2 hsig), hlate]
  rfl

/-- Run B whose signature differs, or which is late, squashes its invocation. -/
theorem State.closeRunB_squashes (sig : Word64) (h : (s.entry i).broken = false) (hbad : (s.entry i).sig ≠ sig ∨ s.pastDeadline (s.entry i) = true) :
    s.closeRunB n m i sig = ((s.count kCompares 64).squash i (if (s.entry i).sig ≠ sig then 1 else 2) n, false) := by
  rw [State.closeRunB, h]
  dsimp only
  rw [if_neg Bool.false_ne_true]
  by_cases hsig : (s.entry i).sig ≠ sig
  · rw [if_pos hsig, if_pos hsig]
  · have hlate : (s.count kCompares 64).pastDeadline (s.entry i) = true := hbad.resolve_left hsig
    rw [if_neg hsig, if_neg hsig, hlate]
    rfl

end

section
variable {s : State} {m i num r : Nat} {equal : Bool}

/-- What run B leaves that has settled its group and given back its entry. -/
structure State.GivesBack (s t : State) (m i num r : Nat) (equal : Bool) (ks : List Nat) : Prop where
  freed : t.entry i = LedgerEntry.free
  others : ∀ j, j ≠ i → t.entry j = s.entry j
  used : t.objN kUsed = s.objN kUsed - 1
  quota : t.objN (kAssay m 2) = s.objN (kAssay m 2) - 1
  objs : s.objsBut t ks
  group : ∀ v, s.inv? m num = some v → t.holdsGroup m num r equal
  rest : ∃ o l x c y, t = { s with objs := o, ledger := l, insts := x, caps := c, streams := y }

theorem State.givesBack_freed (hm : (s.entry i).inst = m) (hstalls : (s.inst m).stalls = []) :
    s.GivesBack ((s.freeEntry i).settleGroup m num r equal) m i num r equal [kUsed, kAssay m 2] := by
  have hfrees := State.frees_freeEntry hm hstalls
  obtain ⟨⟨x, c, y, hrest⟩, hgroup⟩ := (s.freeEntry i).settleGroup_settles m num r equal
  generalize s.freeEntry i = f at hfrees hrest hgroup
  generalize f.settleGroup m num r equal = t at hrest hgroup
  obtain ⟨o, l, x', hf⟩ := hfrees.rest
  have hinv : f.inv? m num = s.inv? m num := by rw [State.inv?, State.inv?, hfrees.invs]
  have hentry : ∀ j, t.entry j = f.entry j := fun j => by rw [hrest]; rfl
  have hobj : ∀ k, t.obj k = f.obj k := fun k => by rw [hrest]; rfl
  refine ⟨(hentry i).trans hfrees.freed, fun j hj => (hentry j).trans (hfrees.others j hj), ?_, ?_, fun k hk => (hobj k).trans (hfrees.objs k hk),
    fun v hv => hgroup v (hinv.trans hv), o, l, x, c, y, by rw [hrest, hf]⟩
  · exact (congrArg BitVec.toNat (hobj _)).trans hfrees.used
  · exact (congrArg BitVec.toNat (hobj _)).trans hfrees.quota

/-- The comparison of run B is counted, and its group named. -/
def State.compared (s : State) (m : Nat) (group : Word32) : State := (s.count kCompares 64).setN (kAssay m 0xb) group.toNat

theorem State.objN_compared (s : State) (m : Nat) (group : Word32) (k : Nat) : (s.compared m group).objN k
    = if kAssay m 0xb = k then group.toNat else if kCompares = k then (s.objN kCompares + 1) % 2 ^ 64 else s.objN k := by
  have hg : group.toNat < 2 ^ 64 := group.isLt.trans (by decide)
  rw [State.compared, State.objN, State.setN_eq, State.obj_setObj]
  split
  · rw [BitVec.toNat_ofNat, Nat.mod_eq_of_lt hg]
  · exact State.objN_count _ _ _ _ _ (le_refl _)

theorem kCompares_ne_kAssay {x : Nat} (hx : x < 256) : kCompares ≠ kAssay m x := by
  simp only [kCompares, kAssay, okey]; omega

theorem State.givesBack_compared {group : Word32} (hm : (s.entry i).inst = m) (hstalls : (s.inst m).stalls = []) :
    let t := ((s.compared m group).freeEntry i).settleGroup m num r equal
    s.GivesBack t m i num r equal [kUsed, kAssay m 2, kCompares, kAssay m 0xb] ∧ t.objN kCompares = (s.objN kCompares + 1) % 2 ^ 64 ∧ t.objN (kAssay m 0xb) = group.toNat := by
  intro t
  have hback : (s.compared m group).GivesBack t m i num r equal [kUsed, kAssay m 2] := State.givesBack_freed hm hstalls
  have hobj := s.objN_compared m group
  have hrest : ∃ o, s.compared m group = { s with objs := o } := ⟨_, rfl⟩
  have hinv : (s.compared m group).inv? m num = s.inv? m num := rfl
  have hentry : ∀ j, (s.compared m group).entry j = s.entry j := fun _ => rfl
  clear_value t
  generalize s.compared m group = c at hback hobj hrest hinv hentry
  have hbc : kAssay m 0xb ≠ kCompares := (kCompares_ne_kAssay (by decide)).symm
  have hbu : kAssay m 0xb ≠ kUsed := (kUsed_ne_kAssay (by decide)).symm
  have hb2 : kAssay m 0xb ≠ kAssay m 2 := by rw [Ne, kAssay_inj (by decide) (by decide)]; omega
  have hc2 : kCompares ≠ kAssay m 2 := kCompares_ne_kAssay (by decide)
  have hcu : kCompares ≠ kUsed := by decide
  have hkept : ∀ {k}, k ≠ kUsed → k ≠ kAssay m 2 → t.objN k = c.objN k := fun h h' => congrArg BitVec.toNat (hback.objs _ (by simp [h, h']))
  obtain ⟨o, hc⟩ := hrest
  obtain ⟨o', l, x, y, z, ht⟩ := hback.rest
  refine ⟨⟨hback.freed, fun j hj => (hback.others j hj).trans (hentry j), ?_, ?_, fun k hk => ?_, fun v hv => hback.group v (hinv.trans hv), o', l, x, y, z, by rw [ht, hc]⟩, ?_, ?_⟩
  · rw [hback.used, hobj, if_neg hbu, if_neg hcu]
  · rw [hback.quota, hobj, if_neg hb2, if_neg hc2]
  · simp only [List.mem_cons, List.not_mem_nil, or_false, not_or] at hk
    obtain ⟨h1, h2, h3, h4⟩ := hk
    refine BitVec.eq_of_toNat_eq ((hkept h1 h2).trans ((hobj k).trans ?_))
    rw [if_neg (Ne.symm h4), if_neg (Ne.symm h3)]; rfl
  · rw [hkept hcu hc2, hobj, if_neg hbc, if_pos rfl]
  · rw [hkept hbu hb2, hobj, if_pos rfl]

end

/-! ### ACLOSE -/

section
variable {s : State} {n : Fin 16} {w : BitVec 120}

theorem exec_aclose (hready : s.opReady n (mkOp 0x92 w) [(95, 94)]) (hwait : s.waitOk n (mkOp 0x92 w)) : exec (.aclose n w) s
    = .next (if !((s.core n).slot (opSlot (mkOp 0x92 w))).isOpen then ((s.passed n).setN (kPc n) (s.pc n)).except n 0 (s.pc n) ⟨0x06, 0x03, 0⟩
      else if (s.core n).allOps.isEmpty then (s.entered n (mkOp 0x92 w)).acloseDone n (mkOp 0x92 w) (s.pc n)
      else (s.entered n (mkOp 0x92 w)).holdOn n (.aclose (mkOp 0x92 w) (s.pc n))) := by
  have hslot : ((s.passed n).core n).slot (opSlot (mkOp 0x92 w)) = (s.core n).slot (opSlot (mkOp 0x92 w)) := by rw [State.core_passed, if_pos rfl]; rfl
  have hops : ((s.entered n (mkOp 0x92 w)).core n).allOps = (s.core n).allOps := by rw [State.entered_core, if_pos rfl]; rfl
  change execAclose n w s = _
  rw [execAclose]
  refine (State.dispatch_ready hready (State.waitOk_room hwait)).trans ?_
  rw [← hslot, ← hops]
  rfl

/-- Run A closes: what stands in its entry, and the op that completes. -/
theorem aclose_closesA {m i : Nat} {x : ASlot} (hm : s.holder n = m) (hx : (s.core n).slot (opSlot (mkOp 0x92 w)) = x) (hready : s.opReady n (mkOp 0x92 w) [(95, 94)])
    (hwait : s.waitOk n (mkOp 0x92 w)) (hopen : x.isOpen = true) (hdrained : (s.core n).allOps = []) (hfind : s.findEntry m x.group = some i) (hrun : x.runB = false)
    (hidle : ∀ k op a, (s.core k).hold ≠ .aopenB op a) : exec (.aclose n w) s
    = .next (((((s.entered n (mkOp 0x92 w)).slotClosed n (mkOp 0x92 w)).setEntry i { s.entry i with
        state := 2, sig := x.sig ^^^ 0xffffffffffffffff#64, deadline := (s.nowN / 1000 + s.objN (kAssay m 4)) % 2 ^ 20 }).groupMoved m).ctlDone n (mkOp 0x92 w) (s.pc n)) := by
  have hslot : ((s.entered n (mkOp 0x92 w)).core n).slot (opSlot (mkOp 0x92 w)) = x := by rw [State.entered_core, if_pos rfl]; exact hx
  have hdone := State.acloseDone_runA (s := s.entered n (mkOp 0x92 w)) (n := n) (op := mkOp 0x92 w) (i := i)
    (by rw [State.holder_entered, State.findEntry_entered, hslot, hm]; exact hfind) (by rw [hslot]; exact hrun) (s.pc n)
  rw [exec_aclose hready hwait, hx, hopen, hdrained]
  refine congrArg _ (hdone.trans ?_)
  rw [State.closeRunA_eq, State.holder_entered, hm, State.slotSig, hslot]
  · have hentry : ((s.entered n (mkOp 0x92 w)).slotClosed n (mkOp 0x92 w)).entry i = s.entry i := s.entry_entered n _ i
    have hnow : ((s.entered n (mkOp 0x92 w)).slotClosed n (mkOp 0x92 w)).nowN = s.nowN := congrArg BitVec.toNat (s.now_entered n _)
    have hobj : ((s.entered n (mkOp 0x92 w)).slotClosed n (mkOp 0x92 w)).objN (kAssay m 4) = s.objN (kAssay m 4) :=
      congrArg BitVec.toNat (s.obj_entered_ledger n.isLt _ (ledger_le_kAssay ..))
    rw [hentry, hnow, hobj]
  · intro k op a
    rw [State.core_slotClosed]
    split
    · nofun
    · rw [State.entered_core]
      split
      · exact hidle _ op a
      · exact hidle k op a

/-- Run B that has settled its group: every core stands as before, so no collective goes on. -/
theorem aclose_closesB {m i : Nat} {x : ASlot} {t : State} (hm : s.holder n = m) (hx : (s.core n).slot (opSlot (mkOp 0x92 w)) = x) (hready : s.opReady n (mkOp 0x92 w) [(95, 94)])
    (hwait : s.waitOk n (mkOp 0x92 w)) (hopen : x.isOpen = true) (hdrained : (s.core n).allOps = []) (hfind : s.findEntry m x.group = some i) (hrun : x.runB = true) {goes : Bool}
    (hclose : ((s.entered n (mkOp 0x92 w)).slotClosed n (mkOp 0x92 w)).closeRunB n m i (x.sig ^^^ 0xffffffffffffffff#64) = (t, goes)) : exec (.aclose n w) s
    = .next (if goes then (t.ctlDone n (mkOp 0x92 w) (s.pc n)).forEach (t.coresOf m) (fun s k => s.collKick k) else t) := by
  have hslot : ((s.entered n (mkOp 0x92 w)).core n).slot (opSlot (mkOp 0x92 w)) = x := by rw [State.entered_core, if_pos rfl]; exact hx
  have hdone := State.acloseDone_runB (s := s.entered n (mkOp 0x92 w)) (n := n) (op := mkOp 0x92 w) (i := i)
    (by rw [State.holder_entered, State.findEntry_entered, hslot, hm]; exact hfind) (by rw [hslot]; exact hrun) (s.pc n)
  rw [State.holder_entered, hm, State.slotSig, hslot, hclose] at hdone
  rw [exec_aclose hready hwait, hx, hopen, hdrained]
  exact congrArg _ hdone

end

/-- The state in which an ACLOSE of core n has entered and its slot has closed. -/
structure State.ClosesSlot (s y : State) (n : Nat) (op : OpWord) : Prop where
  core : y.core n = { (s.core n).setSlot (opSlot op) ASlot.closed with stepping := false, hold := .none }
  others : ∀ j, j ≠ n → y.core j = s.core j
  entry : ∀ j, y.entry j = s.entry j
  inst : ∀ j, y.inst j = s.inst j
  ledgerObj : ∀ k, 0x440000 ≤ k → y.obj k = s.obj k
  objs : (s.entered n op).objsBut y []
  rest : ∃ o c, y = { s with objs := o, cores := c }

theorem State.closesSlot (s : State) {n : Nat} (hn : n < 16) (op : OpWord) : s.ClosesSlot ((s.entered n op).slotClosed n op) n op := by
  refine ⟨?_, fun j hj => ?_, s.entry_entered n op, s.inst_entered n op, fun k hk => s.obj_entered_ledger hn op hk, fun _ _ => rfl, ?_⟩
  · rw [State.core_slotClosed, if_pos rfl, State.entered_core, if_pos rfl]; rfl
  · rw [State.core_slotClosed, if_neg (Ne.symm hj), State.entered_core, if_neg (Ne.symm hj)]
  · exact ⟨_, _, by rw [State.slotClosed, State.upCore_eq, State.entered_eq]; rfl⟩

section
variable {s y t : State} {n : Fin 16} {op : OpWord}

/-- The record of the core of an ACLOSE that has completed over the ledger of `t`. -/
theorem State.ClosesSlot.completes (h : s.ClosesSlot y n op) (hfits : s.signalFits n op) {ks : List Nat} (hobjs : y.objsBut t ks) (hks : ∀ k ∈ ks, 0x440000 ≤ k)
    (hcores : t.cores = y.cores) (hnow : t.now = y.now) : s.AssayDone t (t.ctlDone n op (s.pc n)) n op ks
      ∧ (t.ctlDone n op (s.pc n)).core n = { (s.core n).setSlot (opSlot op) ASlot.closed with stepping := false, lastRetire := s.now, elapsed := 0, hold := .none }
      ∧ ∀ j, j ≠ n.val → (t.ctlDone n op (s.pc n)).core j = s.core j := by
  have hcore : ∀ j, t.core j = y.core j := fun j => by rw [State.core, hcores]; rfl
  have hdone := State.assayDone (x := t) n.isLt hfits (fun k hk => (hobjs k hk).trans (h.objs k List.not_mem_nil)) hks
  refine ⟨hdone, ?_, fun j hj => by rw [hdone.others j hj, hcore, h.others j hj]⟩
  obtain ⟨o, c, hy⟩ := h.rest
  have hsnow : t.now = s.now := by rw [hnow, hy]
  rw [hdone.core, hcore, h.core, hsnow]

end

section
variable {s : State} {n : Fin 16} {w : BitVec 120} {m i : Nat} {x : ASlot}

/-- No core of a state in which run B's op has completed goes on with a collective. -/
theorem State.noKick {t : State} {op : OpWord} (hcore : t.core n = { (s.core n).setSlot (opSlot op) ASlot.closed with stepping := false, lastRetire := s.now, elapsed := 0, hold := .none })
    (hothers : ∀ j, j ≠ n.val → t.core j = s.core j) (hcoll : ∀ k, ∀ o ∈ (s.core k).dma, opOf o.op ≠ 0x64) (l : List Nat) : (t.forEach l fun s k => s.collKick k) = t := by
  refine State.forEach_id _ _ fun k _ => State.collKick_idle ?_
  by_cases hk : k = n.val
  · rw [hk, hcore]; exact hcoll n
  · rw [hothers k hk]; exact hcoll k

/-- What an ACLOSE of run B leaves that has settled its group and given back its entry. -/
structure State.RunBEnds (s u : State) (n m i num r : Nat) (op : OpWord) (equal : Bool) : Prop where
  freed : u.entry i = LedgerEntry.free
  others : ∀ j, j ≠ i → u.entry j = s.entry j
  used : u.objN kUsed = s.objN kUsed - 1
  quota : u.objN (kAssay m 2) = s.objN (kAssay m 2) - 1
  core : u.core n = { (s.core n).setSlot (opSlot op) ASlot.closed with stepping := false, lastRetire := s.now, elapsed := 0, hold := .none }
  cores : ∀ j, j ≠ n → u.core j = s.core j
  group : ∀ v, s.inv? m num = some v → u.holdsGroup m num r equal
  retired : u.objN (kRetired n) = (s.objN (kRetired n) + 1) % 2 ^ 64
  memOut : u.mem = s.mem ∧ u.out = s.out

/-- Run B gives its entry back and its op completes. -/
theorem aclose_freesB {t : State} {num r : Nat} {equal : Bool} {ks : List Nat} (hm : s.holder n = m) (hx : (s.core n).slot (opSlot (mkOp 0x92 w)) = x) (hready : s.opReady n (mkOp 0x92 w) [(95, 94)])
    (hwait : s.waitOk n (mkOp 0x92 w)) (hopen : x.isOpen = true) (hdrained : (s.core n).allOps = []) (hfind : s.findEntry m x.group = some i) (hrun : x.runB = true)
    (hfits : s.signalFits n (mkOp 0x92 w)) (hcoll : ∀ k, ∀ o ∈ (s.core k).dma, opOf o.op ≠ 0x64)
    (hclose : ((s.entered n (mkOp 0x92 w)).slotClosed n (mkOp 0x92 w)).closeRunB n m i (x.sig ^^^ 0xffffffffffffffff#64) = (t, true))
    (hback : ((s.entered n (mkOp 0x92 w)).slotClosed n (mkOp 0x92 w)).GivesBack t m i num r equal ks) (hks : ∀ k ∈ ks, 0x440000 ≤ k) :
    ∃ u, exec (.aclose n w) s = .next u ∧ s.RunBEnds u n m i num r (mkOp 0x92 w) equal ∧ ∀ k, 0x440000 ≤ k → u.obj k = t.obj k := by
  have hcs := s.closesSlot n.isLt (mkOp 0x92 w)
  have hexec := aclose_closesB hm hx hready hwait hopen hdrained hfind hrun hclose
  generalize (s.entered n (mkOp 0x92 w)).slotClosed n (mkOp 0x92 w) = y at hback hcs
  obtain ⟨o, l, z, c, q, hrest⟩ := hback.rest
  obtain ⟨o', c', hy⟩ := hcs.rest
  obtain ⟨hdone, hcore, hothers⟩ := hcs.completes hfits hback.objs hks (by rw [hrest]) (by rw [hrest])
  rw [if_pos rfl, State.noKick hcore hothers hcoll] at hexec
  generalize t.ctlDone n (mkOp 0x92 w) (s.pc n) = u at hdone hcore hothers hexec
  have hentry : ∀ j, u.entry j = t.entry j := fun j => by rw [hdone.rest]; rfl
  have hobjN : ∀ k, 0x440000 ≤ k → y.objN k = s.objN k := fun k hk => congrArg BitVec.toNat (hcs.ledgerObj k hk)
  have hinv : y.inv? m num = s.inv? m num := by rw [State.inv?, State.inv?, hcs.inst]
  refine ⟨u, hexec, ⟨(hentry i).trans hback.freed, fun j hj => ?_, ?_, ?_, hcore, hothers, fun v hv => ?_, hdone.retired, ?_⟩, hdone.ledgerObj⟩
  · rw [hentry, hback.others j hj, hcs.entry]
  · rw [State.objN, hdone.ledgerObj _ (by decide), ← hobjN _ (by decide)]; exact hback.used
  · rw [State.objN, hdone.ledgerObj _ (ledger_le_kAssay ..), ← hobjN _ (ledger_le_kAssay ..)]; exact hback.quota
  · obtain ⟨v', hv', hr⟩ := hback.group v (hinv.trans hv)
    have huinst : u.inst m = t.inst m := by rw [hdone.rest]; rfl
    exact ⟨v', by rw [State.inv?, huinst]; exact hv', hr⟩
  · rw [hdone.rest, hrest, hy]; exact ⟨rfl, rfl⟩

/-- Run B of a group that is broken, or whose signatures agree in time, ends. -/
theorem aclose_runB (hm : s.holder n = m) (hx : (s.core n).slot (opSlot (mkOp 0x92 w)) = x) (hready : s.opReady n (mkOp 0x92 w) [(95, 94)])
    (hwait : s.waitOk n (mkOp 0x92 w)) (hopen : x.isOpen = true) (hdrained : (s.core n).allOps = []) (hfind : s.findEntry m x.group = some i) (hrun : x.runB = true)
    (hfits : s.signalFits n (mkOp 0x92 w)) (hcoll : ∀ k, ∀ o ∈ (s.core k).dma, opOf o.op ≠ 0x64) (hinst : (s.entry i).inst = m) (hstalls : (s.inst m).stalls = [])
    (hgood : (s.entry i).broken = true ∨ (s.entry i).sig = x.sig ^^^ 0xffffffffffffffff#64 ∧ s.pastDeadline (s.entry i) = false) :
    ∃ u, exec (.aclose n w) s = .next u
      ∧ s.RunBEnds u n m i (s.entry i).inv (relGroup (s.entry i).group (((s.inv? m (s.entry i).inv).map (·.base)).getD 0#32)) (mkOp 0x92 w) (!(s.entry i).broken)
      ∧ ((s.entry i).broken = false → u.objN kCompares = (s.objN kCompares + 1) % 2 ^ 64 ∧ u.objN (kAssay m 0xb) = (s.entry i).group.toNat) := by
  have hcs := s.closesSlot n.isLt (mkOp 0x92 w)
  have hfree := @aclose_freesB s n w m i x
  generalize hy : (s.entered n (mkOp 0x92 w)).slotClosed n (mkOp 0x92 w) = y at hcs hfree
  have hyinst : (y.entry i).inst = m := by rw [hcs.entry]; exact hinst
  have hystalls : (y.inst m).stalls = [] := by rw [hcs.inst]; exact hstalls
  have hyinv : y.inv? m (s.entry i).inv = s.inv? m (s.entry i).inv := by rw [State.inv?, State.inv?, hcs.inst]
  have hyobjN : ∀ k, 0x440000 ≤ k → y.objN k = s.objN k := fun k hk => congrArg BitVec.toNat (hcs.ledgerObj k hk)
  have hpast : y.pastDeadline (s.entry i) = s.pastDeadline (s.entry i) := by
    obtain ⟨o, c, hrest⟩ := hcs.rest
    rw [hrest]; rfl
  cases hb : (s.entry i).broken with
  | true =>
    have hclose := State.closeRunB_broken (s := y) (n := n) (m := m) (i := i) (x.sig ^^^ 0xffffffffffffffff#64) (by rw [hcs.entry]; exact hb)
    rw [hcs.entry, hyinv] at hclose
    obtain ⟨u, hexec, hends, -⟩ := hfree hm hx hready hwait hopen hdrained hfind hrun hfits hcoll hclose (State.givesBack_freed hyinst hystalls) fun k hk => by
      simp only [List.mem_cons, List.not_mem_nil, or_false] at hk
      rcases hk with rfl | rfl
      · decide
      · exact ledger_le_kAssay ..
    exact ⟨u, hexec, hends, nofun⟩
  | false =>
    obtain ⟨hsig, hintime⟩ := hgood.resolve_left (by rw [hb]; decide)
    have hclose := State.closeRunB_equal (s := y) (n := n) (m := m) (i := i) (x.sig ^^^ 0xffffffffffffffff#64) (by rw [hcs.entry]; exact hb) (by rw [hcs.entry]; exact hsig)
      (by rw [hcs.entry, hpast]; exact hintime)
    rw [hcs.entry, hyinv] at hclose
    obtain ⟨hback, hcompares, hgroup⟩ := State.givesBack_compared (s := y) (m := m) (i := i) (num := (s.entry i).inv) (group := (s.entry i).group)
      (r := relGroup (s.entry i).group (((s.inv? m (s.entry i).inv).map (·.base)).getD 0#32)) (equal := true) hyinst hystalls
    obtain ⟨u, hexec, hends, hobj⟩ := hfree hm hx hready hwait hopen hdrained hfind hrun hfits hcoll hclose hback fun k hk => by
      simp only [List.mem_cons, List.not_mem_nil, or_false] at hk
      rcases hk with rfl | rfl | rfl | rfl
      · decide
      · exact ledger_le_kAssay ..
      · decide
      · exact ledger_le_kAssay ..
    refine ⟨u, hexec, hends, fun _ => ⟨?_, ?_⟩⟩
    · rw [State.objN, hobj _ (by decide), ← hyobjN _ (by decide)]; exact hcompares
    · rw [State.objN, hobj _ (ledger_le_kAssay ..)]; exact hgroup

/-- Run B whose signature differs, or which is late, squashes its invocation from the state in which it has compared. -/
theorem aclose_squashesB (hm : s.holder n = m) (hx : (s.core n).slot (opSlot (mkOp 0x92 w)) = x) (hready : s.opReady n (mkOp 0x92 w) [(95, 94)])
    (hwait : s.waitOk n (mkOp 0x92 w)) (hopen : x.isOpen = true) (hdrained : (s.core n).allOps = []) (hfind : s.findEntry m x.group = some i) (hrun : x.runB = true)
    (hb : (s.entry i).broken = false) (hbad : (s.entry i).sig ≠ x.sig ^^^ 0xffffffffffffffff#64 ∨ s.pastDeadline (s.entry i) = true) :
    ∃ u : State, exec (.aclose n w) s = .next (u.squash i (if (s.entry i).sig ≠ x.sig ^^^ 0xffffffffffffffff#64 then 1 else 2) n)
      ∧ u.core n = { (s.core n).setSlot (opSlot (mkOp 0x92 w)) ASlot.closed with stepping := false, hold := .none }
      ∧ u.objN kCompares = (s.objN kCompares + 1) % 2 ^ 64 ∧ u.ledger = s.ledger ∧ u.insts = s.insts := by
  have hcs := s.closesSlot n.isLt (mkOp 0x92 w)
  have hexec := fun {t goes} => aclose_closesB (t := t) (goes := goes) hm hx hready hwait hopen hdrained hfind hrun
  generalize (s.entered n (mkOp 0x92 w)).slotClosed n (mkOp 0x92 w) = y at hcs hexec
  obtain ⟨o, c, hrest⟩ := hcs.rest
  have hpast : y.pastDeadline (s.entry i) = s.pastDeadline (s.entry i) := by rw [hrest]; rfl
  have hclose := State.closeRunB_squashes (s := y) (n := n) (m := m) (i := i) (x.sig ^^^ 0xffffffffffffffff#64) (by rw [hcs.entry]; exact hb)
    (by rw [hcs.entry, hpast]; exact hbad)
  rw [hcs.entry] at hclose
  refine ⟨y.count kCompares 64, (hexec hclose).trans (congrArg _ (if_neg Bool.false_ne_true)), hcs.core, ?_, ?_, ?_⟩
  · have hy : y.objN kCompares = s.objN kCompares := congrArg BitVec.toNat (hcs.ledgerObj _ (by decide))
    rw [State.objN_count _ _ _ _ _ (le_refl _), if_pos rfl, hy]
  · rw [State.count_eq, hrest]; rfl
  · rw [State.count_eq, hrest]; rfl

end

/-! ### Timeouts and deadlocks (R217, R218) -/

section
variable {s : State} {m n : Nat} {group : Word32}

/-- The deadlock is counted and named in last_event. -/
theorem State.objN_deadlocked (k : Nat) : ((s.count (kAssay m 0xf) 32).assayEvent m 4 n 0 group).objN k
    = if kAssay m 0xe = k then (4 * 2 ^ 56 + n * 2 ^ 52 + group.toNat) % 2 ^ 64 else if kAssay m 0xf = k then (s.objN (kAssay m 0xf) + 1) % 2 ^ 32 else s.objN k := by
  rw [State.assayEvent, Nat.zero_mul, Nat.add_zero, State.objN, State.setN_eq, State.obj_setObj]
  split
  · rw [BitVec.toNat_ofNat]
  · exact State.objN_count _ _ _ _ _ (by decide)

theorem State.onlyObjs_deadlocked (s : State) (m n : Nat) (group : Word32) :
    s.onlyObjs ((s.count (kAssay m 0xf) 32).assayEvent m 4 n 0 group) [kAssay m 0xf, kAssay m 0xe] := by
  refine ⟨?_, fun k hk => ?_, fun a => ?_⟩
  · rw [State.assayEvent, State.setN_eq, State.count_eq]; rfl
  · simp only [List.mem_cons, List.not_mem_nil, or_false, not_or] at hk
    refine BitVec.eq_of_toNat_eq ((State.objN_deadlocked k).trans ?_)
    rw [if_neg (Ne.symm hk.2), if_neg (Ne.symm hk.1)]; rfl
  · rw [State.assayEvent, State.setN_eq, State.count_eq, State.byte_setObj, State.byte_setObj]

theorem exec_assayTimeout (s : State) (e : Fin 4096) : exec (.assayTimeout e) s
    = if ((s.entry e).state = 2 ∨ (s.entry e).state = 3) ∧ s.pastDeadline (s.entry e) = true then .next (s.squash e 2 (s.entry e).coreB) else .next s := rfl

theorem exec_ledgerDeadlock_idle {m : Fin 16} (h : (s.inst m).stalls = []) : exec (.ledgerDeadlock m) s = .next s := by
  change execLedgerDeadlock m s = _
  rw [execLedgerDeadlock, h]

theorem exec_ledgerDeadlock {m : Fin 16} {since : Word64} {rest : List (Nat × Word32 × Word64)} (h : (s.inst m).stalls = (n, group, since) :: rest) :
    exec (.ledgerDeadlock m) s = if s.nowN < max since.toNat (s.inst m).lastGroup.toNat + 1000000 then .next s
      else .next (((s.count (kAssay m 0xf) 32).assayEvent m 4 n 0 group).forEach ((s.inst m).invs.map (·.num)) fun s num => (s.withdrawInv m num).endInv m num 3 (some 0x000A) 0) := by
  change execLedgerDeadlock m s = _
  rw [execLedgerDeadlock, h]

end

/-- Settles O33: an ACLOSE by the state of its slot and of its run; the timeouts and deadlocks test what the statement tests. -/
theorem runsCloseAndTimeOut : Obligations.RunsCloseAndTimeOut := by
  unfold Obligations.RunsCloseAndTimeOut
  refine ⟨fun s n w => ?_, fun s => ⟨fun e => ⟨fun hstate hlate => ?_, fun hno => ?_⟩, fun m => ⟨fun hnone => ?_, fun n group since rest hstalls => ⟨fun hearly => ?_, fun hlate => ?_⟩⟩⟩⟩
  · intro op g x m closed hready hwait
    refine ⟨fun hopen => ?_, fun hopen hbusy => ?_, fun hopen hdrained i hfind => ⟨fun hrun hfits hidle => ?_, fun hrun => ⟨fun hstalls hfits hcoll hgood hinst => ?_, fun hb hbad => ?_⟩⟩⟩
    · refine ⟨_, ?_, s.refused_stops n _⟩
      rw [exec_aclose hready hwait]
      exact congrArg _ (if_pos (by rw [show ((s.core n).slot (opSlot (mkOp 0x92 w))).isOpen = false from hopen]; rfl))
    · have hexec := exec_aclose hready hwait
      rw [show ((s.core n).slot (opSlot (mkOp 0x92 w))).isOpen = true from hopen, if_neg (by decide), if_neg (by simpa using hbusy)] at hexec
      refine ⟨_, hexec, ?_, fun j hj => ?_, (s.objsBut_entered n op).mono (enter_keys n op), ?_⟩
      · rw [State.core_holdOn, if_pos rfl, State.entered_core, if_pos rfl]
      · rw [State.core_holdOn, if_neg fun h => hj (Fin.ext h.symm), State.entered_core, if_neg fun h => hj (Fin.ext h.symm)]
      · rw [State.holdOn, State.upCore_eq, State.entered_eq]; rfl
    · have hexec := aclose_closesA rfl rfl hready hwait hopen hdrained hfind hrun hidle
      have hcs := s.closesSlot n.isLt op
      change exec (.aclose n w) s = .next ((((State.slotClosed (s.entered n op) n op).setEntry i { s.entry i with
        state := 2, sig := x.sig ^^^ 0xffffffffffffffff#64, deadline := (s.nowN / 1000 + s.objN (kAssay m 4)) % 2 ^ 20 }).groupMoved m).ctlDone n op (s.pc n)) at hexec
      generalize (s.entered n op).slotClosed n op = y at hcs hexec
      obtain ⟨o, c, hrest⟩ := hcs.rest
      obtain ⟨u, hu⟩ : ∃ u, u = y.setEntry i { s.entry i with
        state := 2, sig := x.sig ^^^ 0xffffffffffffffff#64, deadline := (s.nowN / 1000 + s.objN (kAssay m 4)) % 2 ^ 20 } := ⟨_, rfl⟩
      rw [← hu] at hexec
      have hentry : ∀ j, u.entry j = if i = j then _ else y.entry j := fun j => by rw [hu]; exact State.entry_setEntry ..
      have hurest : ∃ l, u = { y with ledger := l } := ⟨_, hu⟩
      clear hu
      obtain ⟨l, hu⟩ := hurest
      obtain ⟨v, hv⟩ : ∃ v, v = u.groupMoved m := ⟨_, rfl⟩
      have hvinst := u.inst_groupMoved m
      have hventry := u.entry_groupMoved m
      have hvrest : ∃ q, v = { u with insts := q } := ⟨_, hv⟩
      rw [← hv] at hexec hvinst hventry
      clear hv
      obtain ⟨q, hv⟩ := hvrest
      obtain ⟨hdone, hcore, hothers⟩ := hcs.completes (t := v) hfits (fun k _ => by rw [hv, hu]; rfl) (fun k hk => absurd hk List.not_mem_nil) (by rw [hv, hu]) (by rw [hv, hu])
      generalize v.ctlDone n op (s.pc n) = t at hdone hcore hothers hexec
      have htentry : ∀ j, t.entry j = u.entry j := fun j => by rw [← hventry, hdone.rest]; rfl
      have htinst : t.inst m = v.inst m := by rw [hdone.rest]; rfl
      refine ⟨t, hexec, ?_, fun j hj => ?_, hcore, fun j hj => hothers j fun h => hj (Fin.ext h), ?_, hdone.pc, hdone.retired, by simpa using hdone.objs, ?_⟩
      · rw [htentry, hentry, if_pos rfl]
      · rw [htentry, hentry, if_neg (Ne.symm hj), hcs.entry]
      · rw [htinst, hvinst, if_pos rfl, hu, hrest]
      · rw [hdone.rest, hv, hu, hrest]
    · have hgood' : (s.entry i).broken = true ∨ (s.entry i).sig = x.sig ^^^ 0xffffffffffffffff#64 ∧ s.pastDeadline (s.entry i) = false :=
        hgood.imp_right fun h => ⟨not_not.1 h.1, h.2⟩
      obtain ⟨u, hexec, hends, hequal⟩ := aclose_runB rfl rfl hready hwait hopen hdrained hfind hrun hfits hcoll hinst hstalls hgood'
      refine ⟨u, hexec, hends.freed, hends.others, hends.used, hends.quota, hends.core, fun j hj => hends.cores j fun h => hj (Fin.ext h), fun v hv => ?_, hequal, hends.retired, hends.memOut⟩
      obtain ⟨v', hv', hr⟩ := hends.group v hv
      refine ⟨v', hv', ?_⟩
      rw [show s.inv? (s.holder n) (s.entry i).inv = some v from hv] at hr
      cases hbroken : (s.entry i).broken <;> simpa [hbroken] using hr
    · exact aclose_squashesB rfl rfl hready hwait hopen hdrained hfind hrun hb hbad
  · exact (exec_assayTimeout s e).trans (if_pos ⟨hstate, hlate⟩)
  · refine (exec_assayTimeout s e).trans (if_neg ?_)
    rintro ⟨hstate, hlate⟩
    rcases hno with h | h
    · exact hstate.elim h.1 h.2
    · exact Bool.false_ne_true (h.symm.trans hlate)
  · exact exec_ledgerDeadlock_idle hnone
  · exact (exec_ledgerDeadlock hstalls).trans (if_pos hearly)
  · have hne : kAssay m 0xe ≠ kAssay m 0xf := by rw [Ne, kAssay_inj (by decide) (by decide)]; omega
    refine ⟨_, (exec_ledgerDeadlock hstalls).trans (if_neg (not_lt.2 hlate)), ?_, ?_, s.onlyObjs_deadlocked m n group⟩
    · rw [State.objN_deadlocked, if_neg hne, if_pos rfl]
    · rw [State.objN_deadlocked, if_pos rfl]

end Sys2Proof.Machine
end

section
/-! What the core DMA's stores and counts change, and that they are the same in two states of equal memory (R17, R108, R255). -/

namespace Sys2Proof.Machine

/-! ### Bytes counted -/

/-- Bytes moved count in one account of their instance, or in none (R255). -/
theorem State.countBytes_cases (m a len : Nat) (write : Bool) :
    (∀ t : State, t.countBytes m a len write = t) ∨ ∃ b ∈ [5, 6, 7], ∀ t : State, t.countBytes m a len write = t.count (kInst m 3 b) 64 len := by
  unfold State.countBytes
  by_cases hm : 16 ≤ m
  · exact .inl fun t => if_pos hm
  · simp only [if_neg hm]
    split
    · exact .inr ⟨5, by decide, fun _ => rfl⟩
    · exact .inr ⟨5, by decide, fun _ => rfl⟩
    · exact .inr ⟨6, by decide, fun _ => rfl⟩
    · cases write
      · exact .inl fun _ => rfl
      · exact .inr ⟨7, by decide, fun _ => rfl⟩
    · exact .inl fun _ => rfl

/-- Beside objects, memory, free values and what has left the device, nothing has changed. -/
def State.Moves (s t : State) : Prop := ∃ b m p k o, t = { s with objs := b, mem := m, poison := p, free := k, out := o }

section
variable {s t u : State}

theorem State.Moves.refl (s : State) : s.Moves s := ⟨_, _, _, _, _, rfl⟩

theorem State.Moves.trans (h : s.Moves t) (h' : t.Moves u) : s.Moves u := by
  obtain ⟨_, _, _, _, _, rfl⟩ := h
  obtain ⟨_, _, _, _, _, rfl⟩ := h'
  exact ⟨_, _, _, _, _, rfl⟩

theorem State.Moves.ite {c : Prop} [Decidable c] (ht : s.Moves t) (hu : s.Moves u) : s.Moves (if c then t else u) := by
  split
  · exact ht
  · exact hu

theorem State.Moves.forEach {α : Type} (l : List α) {f : State → α → State} (hf : ∀ v x, State.Moves v (f v x)) : s.Moves (s.forEach l f) :=
  State.forEach_induct (P := s.Moves) l (fun u x _ h => h.trans (hf u x)) (.refl s)

theorem State.Moves.core (h : s.Moves t) (j : Nat) : t.core j = s.core j := by obtain ⟨_, _, _, _, _, rfl⟩ := h; rfl
theorem State.Moves.coll (h : s.Moves t) : t.coll = s.coll := by obtain ⟨_, _, _, _, _, rfl⟩ := h; rfl

theorem State.Stores.moves (h : s.Stores t) : s.Moves t := by obtain ⟨_, _, _, rfl⟩ := h; exact ⟨_, _, _, _, _, rfl⟩

end

section
variable (s : State)

theorem State.objsAlone_countBytes (m a len : Nat) (write : Bool) : s.objsAlone (s.countBytes m a len write) := by
  rcases State.countBytes_cases m a len write with h | ⟨b, -, h⟩ <;> rw [h]
  exact s.objsAlone_count ..

theorem State.objsAlone.moves {t : State} (h : s.objsAlone t) : s.Moves t := ⟨_, _, _, _, _, h⟩

theorem State.objsAlone.sameStore {t : State} (h : s.objsAlone t) : s.SameStore t := by rw [h]; exact ⟨rfl, rfl, rfl, rfl, rfl⟩

theorem State.objsAlone_countDesc (n : Nat) (d : Desc) (write : Bool) : s.objsAlone (s.countDesc n d write) :=
  State.forEach_induct (P := s.objsAlone) _ (fun u _ _ h => h.trans (u.objsAlone_countBytes ..)) rfl

theorem State.works_countBytes {m n : Nat} (hm : m = s.holder n) (a len : Nat) (write : Bool) : s.Works (s.countBytes m a len write) n := by
  subst hm
  rcases State.countBytes_cases (s.holder n) a len write with h | ⟨b, hb, h⟩ <;> rw [h]
  · exact .refl s n
  · refine s.works_setObj (s.account_mem_workKeys n ?_) _
    simp only [List.mem_cons, List.not_mem_nil, or_false] at hb
    omega

theorem State.works_countDesc {n : Nat} (hn : n < 16) (d : Desc) (write : Bool) : s.Works (s.countDesc n d write) n :=
  .forEach hn _ fun v _ => v.works_countBytes rfl ..

theorem State.obj_countBytes {n j a : Nat} (hn : n < 16) (hj : j < 256) (ha : a < 256) (m x len : Nat) (write : Bool) :
    (s.countBytes m x len write).obj (kCore n j a) = s.obj (kCore n j a) := by
  rcases State.countBytes_cases m x len write with h | ⟨b, hb, h⟩ <;> rw [h]
  rw [State.count_eq, State.obj_setObj, if_neg (Ne.symm (kCore_ne_kInst hn hj ha ?_))]
  simp only [List.mem_cons, List.not_mem_nil, or_false] at hb
  omega

theorem State.obj_countDesc {n j a : Nat} (hn : n < 16) (hj : j < 256) (ha : a < 256) (m : Nat) (d : Desc) (write : Bool) :
    (s.countDesc m d write).obj (kCore n j a) = s.obj (kCore n j a) :=
  State.forEach_induct (P := fun t => t.obj (kCore n j a) = s.obj (kCore n j a)) _ (fun u _ _ h => (u.obj_countBytes hn hj ha ..).trans h) rfl

theorem State.objN_countDesc {n j a : Nat} (hn : n < 16) (hj : j < 256) (ha : a < 256) (m : Nat) (d : Desc) (write : Bool) :
    (s.countDesc m d write).objN (kCore n j a) = s.objN (kCore n j a) := congrArg BitVec.toNat (s.obj_countDesc hn hj ha m d write)

/-! ### Bytes stored -/

/-- Bytes put into a space are stored, or leave for a remote device (R17). -/
theorem State.dmaPut_cases (n space off : Nat) (bs : List Byte) :
    (∃ o, ∀ t : State, t.dmaPut n space off bs = t.emit o) ∨ ∀ t : State, t.dmaPut n space off bs = t.wr (devAddr n space off) bs := by
  unfold State.dmaPut
  dsimp only
  split
  · exact .inl ⟨_, fun _ => rfl⟩
  · exact .inr fun _ => rfl

theorem State.moves_dmaPut (n space off : Nat) (bs : List Byte) : s.Moves (s.dmaPut n space off bs) := by
  rcases State.dmaPut_cases n space off bs with ⟨o, h⟩ | h <;> rw [h]
  · exact ⟨_, _, _, _, _, rfl⟩
  · exact (s.stores_wr ..).moves

theorem State.works_dmaPut (m n space off : Nat) (bs : List Byte) : s.Works (s.dmaPut n space off bs) m := by
  rcases State.dmaPut_cases n space off bs with ⟨o, h⟩ | h <;> rw [h]
  · exact s.works_emit ..
  · exact (s.stores_wr ..).works m

theorem State.obj_dmaPut (n space off : Nat) (bs : List Byte) (k : Nat) : (s.dmaPut n space off bs).obj k = s.obj k := by
  rcases State.dmaPut_cases n space off bs with ⟨o, h⟩ | h <;> rw [h]
  · rfl
  · exact (s.stores_wr ..).obj k

theorem State.SameStore.dmaPut {s e : State} (h : s.SameStore e) (n space off : Nat) (bs : List Byte) : (s.dmaPut n space off bs).SameStore (e.dmaPut n space off bs) := by
  rcases State.dmaPut_cases n space off bs with ⟨o, hp⟩ | hp <;> rw [hp, hp]
  · exact ⟨h.mem, h.poison, h.ileave, h.free, congrArg (o :: ·) h.out⟩
  · exact h.wr ..

/-- The rows of a tensor put, none yet counted. -/
def State.putRows (s : State) (n : Nat) (d : Desc) (f : Nat → Nat → Nat → Nat → Nat) : State := s.forEach d.rows fun s r =>
  s.dmaPut n d.space (d.rowOff r.1 r.2.1 r.2.2) (packCodes (elemBits d.fmt) ((List.range (d.dim 0)).map fun i0 => f i0 r.1 r.2.1 r.2.2))

theorem State.dmaTensor_eq (n : Nat) (d : Desc) (f : Nat → Nat → Nat → Nat → Nat) :
    s.dmaTensor n d f = (((s.putRows n d f).count (kCore n 2 4) 64 (d.count * elemBits d.fmt / 8)).countDesc n d true) := rfl

theorem State.moves_dmaTensor (n : Nat) (d : Desc) (f : Nat → Nat → Nat → Nat → Nat) : s.Moves (s.dmaTensor n d f) :=
  ((State.Moves.forEach _ fun v _ => v.moves_dmaPut ..).trans (State.objsAlone.moves _ (State.objsAlone_count ..))).trans (State.objsAlone.moves _ (State.objsAlone_countDesc ..))

theorem State.works_dmaTensor {n : Nat} (hn : n < 16) (d : Desc) (f : Nat → Nat → Nat → Nat → Nat) : s.Works (s.dmaTensor n d f) n :=
  ((State.Works.forEach hn _ fun v _ => v.works_dmaPut ..).trans hn (State.works_setObj _ (State.activity_mem_workKeys _ n (by decide)) _)).trans hn
    (State.works_countDesc _ hn ..)

theorem State.SameStore.dmaTensor {s e : State} (h : s.SameStore e) (n : Nat) (d : Desc) (f : Nat → Nat → Nat → Nat → Nat) : (s.dmaTensor n d f).SameStore (e.dmaTensor n d f) := by
  have hrows : (s.putRows n d f).SameStore (e.putRows n d f) := h.forEach _ fun _ _ _ h' => h'.dmaPut ..
  have hcount : ∀ v : State, v.SameStore ((v.count (kCore n 2 4) 64 (d.count * elemBits d.fmt / 8)).countDesc n d true) := fun v =>
    State.objsAlone.sameStore _ ((v.objsAlone_count ..).trans (State.objsAlone_countDesc ..))
  have hs := hcount (s.putRows n d f)
  have he := hcount (e.putRows n d f)
  rw [← State.dmaTensor_eq] at hs he
  refine ⟨?_, ?_, ?_, ?_, ?_⟩
  · rw [he.mem, hs.mem, hrows.mem]
  · rw [he.poison, hs.poison, hrows.poison]
  · rw [he.ileave, hs.ileave, hrows.ileave]
  · rw [he.free, hs.free, hrows.free]
  · rw [he.out, hs.out, hrows.out]

/-- The bytes of a stored tensor are counted, modulo 2^64 (Table 4-7). -/
theorem State.objN_dmaTensor {n : Nat} (hn : n < 16) (d : Desc) (f : Nat → Nat → Nat → Nat → Nat) :
    (s.dmaTensor n d f).objN (kCore n 2 4) = (s.objN (kCore n 2 4) + d.count * elemBits d.fmt / 8) % 2 ^ 64 := by
  have hput : (s.putRows n d f).obj (kCore n 2 4) = s.obj (kCore n 2 4) :=
    State.forEach_induct (P := fun t => t.obj (kCore n 2 4) = s.obj (kCore n 2 4)) _ (fun u _ _ h => (u.obj_dmaPut ..).trans h) rfl
  rw [State.dmaTensor_eq, State.objN_countDesc _ hn (by decide) (by decide), State.objN_count _ _ _ _ _ (by decide), if_pos rfl, State.objN, hput]
  rfl

/-! ### Scales that take free values (log entry 28) -/

theorem State.openScales_eq (n : Nat) {d : Desc} (hmx : isMx d.fmt = true) : s.openScales n d
    = (s.dmaPut n d.scaleSpace d.scaleBase ((List.range (d.count / 32)).map fun i => (Config.freeValue (s.free + i)).setWidth 8)).tookFree (d.count / 32) := if_pos hmx

theorem State.openScales_of_not_mx (n : Nat) {d : Desc} (hmx : isMx d.fmt = false) : s.openScales n d = s := if_neg (by rw [hmx]; decide)

theorem State.moves_openScales (n : Nat) (d : Desc) : s.Moves (s.openScales n d) := by
  cases hmx : isMx d.fmt with
  | false => rw [s.openScales_of_not_mx n hmx]; exact .refl s
  | true => rw [s.openScales_eq n hmx]; exact (s.moves_dmaPut ..).trans (State.stores_tookFree ..).moves

theorem State.works_openScales {n : Nat} (hn : n < 16) (d : Desc) : s.Works (s.openScales n d) n := by
  cases hmx : isMx d.fmt with
  | false => rw [s.openScales_of_not_mx n hmx]; exact .refl s n
  | true => rw [s.openScales_eq n hmx]; exact (s.works_dmaPut ..).trans hn (State.works_tookFree ..)

theorem State.obj_openScales (n : Nat) (d : Desc) (k : Nat) : (s.openScales n d).obj k = s.obj k := by
  cases hmx : isMx d.fmt with
  | false => rw [s.openScales_of_not_mx n hmx]
  | true => rw [s.openScales_eq n hmx]; exact s.obj_dmaPut ..

theorem devAddr_high {n space off len : Nat} (hspace : space < 2) (h : ∃ a, spaceAddr n space off len = some a) (hlen : 0 < len) :
    0x4000000000 ≤ devAddr n space off := by
  obtain ⟨a, ha⟩ := h
  obtain rfl | rfl : space = 0 ∨ space = 1 := by omega
  · rw [spaceAddr] at ha
    split at ha
    · rename_i hfit
      rw [devAddr, spaceAddr, if_pos (by omega), Option.getD_some]
      exact lstoreBase_high n off
    · cases ha
  · rw [spaceAddr] at ha
    split at ha
    · rename_i hfit
      rw [devAddr, spaceAddr, if_pos (by omega), Option.getD_some, cmemBase]
      omega
    · cases ha

/-- Free values stored as scales in a space of the device change no byte beside them. -/
theorem State.byte_openScales {n : Nat} {d : Desc} (hspace : d.scaleSpace < 2) (hfit : isMx d.fmt = true → ∃ a, spaceAddr n d.scaleSpace d.scaleBase (d.count / 32) = some a)
    {y : Nat} (hy : y < 0x10000000000) (hside : y < devAddr n d.scaleSpace d.scaleBase ∨ devAddr n d.scaleSpace d.scaleBase + d.count / 32 ≤ y) :
    (s.openScales n d).byte y = s.byte y := by
  cases hmx : isMx d.fmt with
  | false => rw [s.openScales_of_not_mx n hmx]
  | true =>
    rw [s.openScales_eq n hmx]
    refine (State.byte_tookFree _ _ hy).trans ?_
    generalize hbs : ((List.range (d.count / 32)).map fun i => (Config.freeValue (s.free + i)).setWidth 8) = bs
    have hlen : bs.length = d.count / 32 := by rw [← hbs, List.length_map, List.length_range]
    rcases State.dmaPut_cases n d.scaleSpace d.scaleBase bs with ⟨o, h⟩ | h <;> rw [h]
    · exact State.byte_of_mem hy rfl rfl
    · rcases Nat.eq_zero_or_pos (d.count / 32) with h0 | hpos
      · rw [List.eq_nil_of_length_eq_zero (hlen.trans h0)]
        exact State.byte_wr_of_ne s _ y [] fun i hi => absurd hi (Nat.not_lt_zero i)
      · exact s.byte_wr_high _ _ _ (devAddr_high hspace (hfit hmx) hpos) (by rw [hlen]; exact hside)

end

/-- What a DMA form says of the space of an MX tensor's scales (R120). -/
theorem Desc.scaleSpace_of_dmaForm {d : Desc} (h : d.dmaForm = none) (hmx : isMx d.fmt = true) : d.scaleSpace ≤ 2 := by
  unfold Desc.dmaForm at h
  split at h
  · cases h
  · rename_i hform
    rw [Desc.form, Option.map_eq_none_iff, Desc.bad] at hform
    split at hform
    · cases hform
    · split at hform
      · cases hform
      · rename_i hok
        simp only [not_or, not_and] at hok
        have := hok.2.2.2.2.2 hmx
        simp only [List.contains_cons, List.contains_nil, Bool.or_false, Bool.not_eq_true, Bool.not_eq_false', Bool.or_eq_true, beq_iff_eq] at this
        omega

end Sys2Proof.Machine
end

section
/-! What DMOV and DFILL do (R129, Table 5-12). -/

namespace Sys2Proof.Machine

section
variable {s e u : State} {n : Nat} {op : OpWord}

/-- An op of the core DMA that has moved its data and counted them has run so (Table 4-7). -/
theorem State.Enters.dma_done (he : s.Enters e n op .dma) (hn : n < 16) (hm : e.Moves u) (hw : e.Works u n) {k : Nat}
    (hk : u.objN (kCore n 2 4) = (e.objN (kCore n 2 4) + k) % 2 ^ 64) :
    s.OpRan (u.markRan n .dma (s.core n).nextSeq) n op .dma (s.core n)
      ∧ (u.markRan n .dma (s.core n).nextSeq).objN (kCore n 2 4) = (s.objN (kCore n 2 4) + k) % 2 ^ 64 := by
  refine ⟨he.opRan_same hn (by decide) hw (hm.core n), ?_⟩
  rw [State.objN_markRan, hk, he.workObjN (.inr rfl) (by decide)]

end

/-- Memory is as `v` has it but for the scales of a tensor in a space of this device. -/
def State.OpensScales (t : State) (n : Nat) (d : Desc) (v : State) : Prop := d.scaleSpace ≠ 2 → ∀ y < 0x10000000000,
  (y < devAddr n d.scaleSpace d.scaleBase ∨ devAddr n d.scaleSpace d.scaleBase + d.count / 32 ≤ y) → t.byte y = v.byte y

theorem State.opensScales_openScales {s u v : State} {n : Nat} {d : Desc} {write : Bool} (hform : d.dmaForm = none) (hreach : s.reachFault n d write = none) (hmx : isMx d.fmt = true)
    (h : v.SameStore u) : (u.openScales n d).OpensScales n d v := fun hspace y hy hside => by
  have hle := Desc.scaleSpace_of_dmaForm hform hmx
  rw [u.byte_openScales (by omega) (State.spans_of_reach hreach).2 hy hside, h.byte]

/-! ### DMOV -/

/-- The element codes that a DMOV moves, read from `s`. -/
def State.dmovCodes (s : State) (n : Nat) (ta : Desc) (tr : Bool) (i0 i1 i2 i3 : Nat) : Nat := if tr then s.elemCode n ta i1 i0 i2 i3 else s.elemCode n ta i0 i1 i2 i3

/-- The scales of a DMOV stored, read from `s` where the op does not transpose. -/
def State.dmovScales (s u : State) (n : Nat) (td ta : Desc) (tr : Bool) : State :=
  if tr then u.openScales n td
  else if isMx td.fmt then u.dmaPut n td.scaleSpace td.scaleBase ((List.range (td.count / 32)).map fun k => BitVec.ofNat 8 (s.scaleCode n ta k))
  else u

section
variable (s u : State) (n : Nat) (td ta : Desc) (tr : Bool)

theorem State.moves_dmovScales : u.Moves (s.dmovScales u n td ta tr) := by
  unfold State.dmovScales
  split
  · exact u.moves_openScales ..
  · split
    · exact u.moves_dmaPut ..
    · exact .refl u

theorem State.works_dmovScales (hn : n < 16) : u.Works (s.dmovScales u n td ta tr) n := by
  unfold State.dmovScales
  split
  · exact u.works_openScales hn _
  · split
    · exact u.works_dmaPut ..
    · exact .refl u n

theorem State.obj_dmovScales (k : Nat) : (s.dmovScales u n td ta tr).obj k = u.obj k := by
  unfold State.dmovScales
  split
  · exact u.obj_openScales ..
  · split
    · exact u.obj_dmaPut ..
    · rfl

end

section
variable {s : State} {n : Fin 16} {op : OpWord} {o : QOp} {td ta : Desc} {tr : Bool}

theorem performDmov_ok {n : Nat} (htd : o.d (fld o.op 95 92) = td) (hta : o.d (fld o.op 91 88) = ta) (htr : bit o.op 86 = tr) (hft : td.dmaForm = none) (hfa : ta.dmaForm = none)
    (hrt : s.reachFault n td true = none) (hra : s.reachFault n ta false = none) (hfmt : td.fmt = ta.fmt)
    (hshape : td.shape = if tr then [ta.dim 1, ta.dim 0, ta.dim 2, ta.dim 3] else ta.shape) (hbits : tr = true → 8 ≤ elemBits ta.fmt) :
    performDmov s n o = .ok (s.dmovScales ((s.dmaTensor n td (s.dmovCodes n ta tr)).countDesc n ta false) n td ta tr) := by
  subst htd hta htr
  refine firstErr_bind ?_ _
  have hbits' : (bit o.op 86 && decide (elemBits (o.d (fld o.op 91 88)).fmt < 8)) = false := by
    rw [Bool.and_eq_false_imp, decide_eq_false_iff_not]
    exact fun h => Nat.not_lt.2 (hbits h)
  simp [shapeIf, hft, hfa, hra, hrt, hfmt, hshape, hbits']

/-- A DMOV that finds no fault moves its data and its scales. -/
theorem dmov_runs (hgo : s.OpGoes n op [(95, 69)] .dma) (hop : opOf op = 0x60) (ho : s.opRecord n op = o) (htd : o.d (fld o.op 95 92) = td) (hta : o.d (fld o.op 91 88) = ta)
    (htr : bit o.op 86 = tr) (hft : td.dmaForm = none) (hfa : ta.dmaForm = none) (hrt : s.reachFault n td true = none) (hra : s.reachFault n ta false = none) (hfmt : td.fmt = ta.fmt)
    (hshape : td.shape = if tr then [ta.dim 1, ta.dim 0, ta.dim 2, ta.dim 3] else ta.shape) (hbits : tr = true → 8 ≤ elemBits ta.fmt) :
    ∃ t u, s.engineOp n op [(95, 69)] = .next t ∧ s.OpRan t n op .dma (s.core n) ∧ t.objN (kCore n 2 4) = (s.objN (kCore n 2 4) + td.count * elemBits td.fmt / 8) % 2 ^ 64
      ∧ (s.dmaTensor n td (s.dmovCodes n ta tr)).SameStore u ∧ (s.dmovScales u n td ta tr).SameStore t := by
  have hn := n.isLt
  obtain ⟨e, he, hrun⟩ := State.engineOp_runs (f := performDmov) hgo hop (by decide) (by decide) fun v o h => by simp only [performOp, h]
  have hsame := he.sameStore
  have hcodes : e.dmovCodes n ta tr = s.dmovCodes n ta tr := by
    funext i0 i1 i2 i3
    rw [State.dmovCodes, State.dmovCodes, hsame.elemCode]
  have hok := performDmov_ok (s := e) (n := n) htd hta htr hft hfa (by rw [he.reachFault hn]; exact hrt) (by rw [he.reachFault hn]; exact hra) hfmt hshape hbits
  rw [hcodes] at hok
  have halone := (e.dmaTensor n td (s.dmovCodes n ta tr)).objsAlone_countDesc n ta false
  have hscales : e.dmovScales ((e.dmaTensor n td (s.dmovCodes n ta tr)).countDesc n ta false) n td ta tr
      = s.dmovScales ((e.dmaTensor n td (s.dmovCodes n ta tr)).countDesc n ta false) n td ta tr := by
    rw [State.dmovScales, State.dmovScales, hsame.scaleCode]
  rw [hscales] at hok
  rw [ho] at hrun
  obtain ⟨hran, hmoved⟩ := he.dma_done (k := td.count * elemBits td.fmt / 8) hn
    (((e.moves_dmaTensor n td (s.dmovCodes n ta tr)).trans (halone.moves _)).trans (State.moves_dmovScales s _ n td ta tr))
    (((e.works_dmaTensor hn td (s.dmovCodes n ta tr)).trans hn (State.works_countDesc _ hn ta false)).trans hn (State.works_dmovScales s _ n td ta tr hn)) (by
      rw [State.objN, State.obj_dmovScales, ← State.objN, State.objN_countDesc _ hn (by decide) (by decide), e.objN_dmaTensor hn])
  exact ⟨_, _, hrun _ hok, hran, hmoved, (hsame.dmaTensor n td _).trans (halone.sameStore _), ⟨rfl, rfl, rfl, rfl, rfl⟩⟩

/-! ### DFILL -/

theorem performDfill_ok {n : Nat} (htd : o.d (fld o.op 95 92) = td) (hft : td.dmaForm = none) (hrt : s.reachFault n td true = none) :
    performDfill s n o = .ok ((s.dmaTensor n td fun _ _ _ _ => (o.s (fld o.op 85 81)).toNat % 2 ^ elemBits td.fmt).openScales n td) := by
  subst htd
  exact firstErr_bind (by simp [hft, hrt]) _

/-- A DFILL that finds no fault stores its pattern in every element, and leaves MX scales open. -/
theorem dfill_runs (hgo : s.OpGoes n op [(95, 69)] .dma) (hop : opOf op = 0x61) (ho : s.opRecord n op = o) (htd : o.d (fld o.op 95 92) = td) (hft : td.dmaForm = none)
    (hrt : s.reachFault n td true = none) :
    ∃ t u, s.engineOp n op [(95, 69)] = .next t ∧ s.OpRan t n op .dma (s.core n) ∧ t.objN (kCore n 2 4) = (s.objN (kCore n 2 4) + td.count * elemBits td.fmt / 8) % 2 ^ 64
      ∧ (s.dmaTensor n td fun _ _ _ _ => (o.s (fld o.op 85 81)).toNat % 2 ^ elemBits td.fmt).SameStore u ∧ (u.openScales n td).SameStore t := by
  have hn := n.isLt
  obtain ⟨e, he, hrun⟩ := State.engineOp_runs (f := performDfill) hgo hop (by decide) (by decide) fun v o h => by simp only [performOp, h]
  have hok := performDfill_ok (s := e) (n := n) htd hft (by rw [he.reachFault hn]; exact hrt)
  rw [ho] at hrun
  generalize (fun _ _ _ _ : Nat => (o.s (fld o.op 85 81)).toNat % 2 ^ elemBits td.fmt) = f at hok ⊢
  obtain ⟨hran, hmoved⟩ := he.dma_done (k := td.count * elemBits td.fmt / 8) hn ((e.moves_dmaTensor n td f).trans (State.moves_openScales _ n td))
    ((e.works_dmaTensor hn td f).trans hn (State.works_openScales _ hn td)) (by rw [State.objN, State.obj_openScales, ← State.objN, e.objN_dmaTensor hn])
  exact ⟨_, _, hrun _ hok, hran, hmoved, he.sameStore.dmaTensor n td _, ⟨rfl, rfl, rfl, rfl, rfl⟩⟩

end

/-- What the state stores as, where memory alone matters. -/
theorem State.SameStore.storesAs {v t : State} (h : v.SameStore t) : t.storesAs v := ⟨h.mem, h.poison, h.out⟩

/-- The part of `Obligations.TransferOps` about DMOV: its data without a transposition, and with one. -/
theorem dmov_moves {s : State} {n : Fin 16} {w : BitVec 120} {td ta : Desc} (htd : (s.opRecord n (mkOp 0x60 w)).d (fld (mkOp 0x60 w) 95 92) = td)
    (hta : (s.opRecord n (mkOp 0x60 w)).d (fld (mkOp 0x60 w) 91 88) = ta) (hgo : s.OpGoes n (mkOp 0x60 w) [(95, 69)] .dma) (ha : ta.dmaForm = none ∧ s.reachFault n ta false = none)
    (ht : td.dmaForm = none ∧ s.reachFault n td true = none) (hfmt : td.fmt = ta.fmt) (tr : Bool) (htr : bit (mkOp 0x60 w) 86 = tr)
    (hshape : td.shape = if tr then [ta.dim 1, ta.dim 0, ta.dim 2, ta.dim 3] else ta.shape) (hbits : tr = true → 8 ≤ elemBits ta.fmt) :
    ∃ t, exec (.dmov n w) s = .next t ∧ s.OpRan t n (mkOp 0x60 w) .dma (s.core n)
      ∧ t.objN (kCore n 2 4) = (s.objN (kCore n 2 4) + td.count * elemBits td.fmt / 8) % 2 ^ 64
      ∧ (isMx td.fmt = false → t.storesAs (s.dmaTensor n td (s.dmovCodes n ta tr)))
      ∧ (isMx td.fmt = true → if tr then t.OpensScales n td (s.dmaTensor n td (s.dmovCodes n ta tr))
          else t.storesAs ((s.dmaTensor n td (s.dmovCodes n ta tr)).dmaPut n td.scaleSpace td.scaleBase ((List.range (td.count / 32)).map fun k => BitVec.ofNat 8 (s.scaleCode n ta k)))) := by
  obtain ⟨t, u, hrun, hran, hmoved, hu, hs⟩ := dmov_runs hgo (opOf_mkOp ..) rfl htd hta htr ht.1 ha.1 ht.2 ha.2 hfmt hshape hbits
  refine ⟨t, hrun, hran, hmoved, fun hmx => ?_, fun hmx => ?_⟩
  · have hkeep : s.dmovScales u n td ta tr = u := by
      rw [State.dmovScales, u.openScales_of_not_mx n hmx, hmx]
      cases tr <;> rfl
    rw [hkeep] at hs
    exact (hu.trans hs).storesAs
  · cases tr with
    | true =>
      refine fun hspace y hy hside => ?_
      rw [hs.byte]
      exact State.opensScales_openScales ht.1 ht.2 hmx hu hspace y hy hside
    | false =>
      rw [State.dmovScales, if_neg (by decide), if_pos hmx] at hs
      exact ((hu.dmaPut ..).trans hs).storesAs

end Sys2Proof.Machine
end

section
/-! What a COLL hands over, and what its members receive (R182-R185, R224). -/

namespace Sys2Proof.Machine

/-! ### What a member receives -/

/-- A gather is the members' data one after another (R183). -/
theorem collResult_gather {count : Nat} {xs : List (List Nat)} (h : ∀ x ∈ xs, x.length = count) (red fmt rank members : Nat) :
    collResult 0 red fmt count rank members xs = (xs.flatten, false) := by
  have htake : (xs.flatMap fun x => x.take count) = xs.flatten := by
    rw [List.flatMap_def, List.map_congr_left (g := id) (f := fun x => x.take count) fun x hx => List.take_of_length_le (h x hx).le, List.map_id]
  have hdrop : (xs.flatMap fun x => x.drop count) = [] :=
    List.flatMap_eq_nil_iff.2 fun x hx => List.drop_eq_nil_of_le (h x hx).le
  rw [collResult, htake, hdrop, List.append_nil]

theorem rne_intCast (k : Int) : rne (k : Rat) = k := by
  have h : ((k : Rat) - ((k : Rat).floor : Rat)) = 0 := by rw [Rat.floor_intCast, sub_self]
  rw [rne, h, if_pos (by decide +kernel), Rat.floor_intCast]

/-- An integer in the range of its format is converted exactly. -/
theorem convInt_ofRat {w : Nat} {k : Int} (hlo : -((2 ^ (w - 1) : Nat) : Int) ≤ k) (hhi : k ≤ (2 ^ (w - 1) : Nat) - 1) : (convInt w .rne (FVal.ofRat false (k : Rat))).code = wrapInt w k := by
  obtain ⟨neg, mag, hv, hq⟩ := FVal.ofRat_fin false (k : Rat)
  have hlo' : ¬(-((-((2 ^ (w - 1) : Nat) : Int) : Int) : Rat)) < -(k : Rat) := by
    rw [neg_lt_neg_iff, Int.cast_lt]; omega
  have hhi' : ¬((((2 ^ (w - 1) : Nat) : Int) - 1 : Int) : Rat) < (k : Rat) := by
    rw [Int.cast_lt]; omega
  rw [hv, convInt]
  simp only [hq, roundInt, rne_intCast, RMode.exceeds, decide_eq_true_eq, if_neg hlo', if_neg hhi']

/-- An integer sum that fits its format is exact (R184). -/
theorem collReduce_sum {xs : List Nat} (h : (xs.map (sext 32)).sum.natAbs < 2 ^ 31) : (collReduce codeINT32 0 xs).1 = wrapInt 32 (xs.map (sext 32)).sum := by
  rw [collReduce, if_pos rfl]
  exact convInt_ofRat (by omega) (by omega)

theorem collResult_sum {count : Nat} (rank members : Nat) (xs : List (List Nat)) {i : Nat} (hi : i < count) (h : ((xs.map fun x => sext 32 (x.getD i 0)).sum).natAbs < 2 ^ 31) :
    (collResult 2 0 codeINT32 count rank members xs).1.getD i 0 = wrapInt 32 (xs.map fun x => sext 32 (x.getD i 0)).sum := by
  have hmap : (xs.map fun x => x.getD i 0).map (sext 32) = xs.map fun x => sext 32 (x.getD i 0) := List.map_map
  have hres : (collResult 2 0 codeINT32 count rank members xs).1 = (List.range count).map fun j => (collReduce codeINT32 0 (xs.map fun x => x.getD (0 + j) 0)).1 := List.map_map
  rw [hres, List.getD_eq_getElem?_getD, List.getElem?_map, List.getElem?_range hi, Option.map_some, Option.getD_some, Nat.zero_add, ← hmap]
  exact collReduce_sum (by rw [hmap]; exact h)

/-! ### A COLL joins -/

/-- How many COLLs of the group core n has already issued. -/
def State.collOrdinal (s : State) (m γ n : Nat) : Nat := ((s.collCount.find? fun x => x.1 == m && x.2.1 == γ && x.2.2.1 == n).map (·.2.2.2)).getD 0

/-- The contributions that wait for the k-th collective of a group. -/
def State.collPeers (s : State) (m γ k : Nat) : List CollPart := s.coll.filter fun p => decide (p.inst = m) && decide (p.group = γ) && decide (p.k = k)

/-- What core n hands over with a COLL. -/
def State.collPart (s : State) (n : Nat) (o : QOp) : CollPart :=
  let ta := o.d (fld o.op 91 88)
  ⟨s.holder n, collGroup o.op, s.collOrdinal (s.holder n) (collGroup o.op) n, n, o.seq, collKind o.op, collRed o.op, ta.fmt, ta.count, s.flatCodes n ta⟩

/-- Core n has handed over its part. -/
def State.collJoined (s : State) (n : Nat) (o : QOp) : State :=
  let m := s.holder n
  let γ := collGroup o.op
  ({ s with
      collCount := (m, γ, n, s.collOrdinal m γ n + 1) :: s.collCount.filter fun x => !(x.1 == m && x.2.1 == γ && x.2.2.1 == n)
      coll := s.coll ++ [s.collPart n o] } : State).countDesc n (o.d (fld o.op 91 88)) false

/-- A COLL whose members are all of this device and agree (R182, R183). -/
structure State.Collects (s : State) (n : Nat) (o : QOp) (ms : List (Nat × Nat)) : Prop where
  members : s.collMembers (s.holder n) (collGroup o.op) = some ms
  isMember : (s.objN (okey 0x1000 4), n) ∈ ms
  here : ∀ x ∈ ms, x.1 = s.objN (okey 0x1000 4)
  fault : s.collFault n o.op (o.d (fld o.op 95 92)) (o.d (fld o.op 91 88)) ms.length = none
  agree : ∀ p ∈ s.collPeers (s.holder n) (collGroup o.op) (s.collOrdinal (s.holder n) (collGroup o.op) n),
    p.kind = collKind o.op ∧ p.red = collRed o.op ∧ p.fmt = (o.d (fld o.op 91 88)).fmt ∧ p.count = (o.d (fld o.op 91 88)).count

section
variable {s e : State} {n : Nat} {o : QOp} {ms : List (Nat × Nat)}

/-- Such a COLL hands over its part, and completes the collective if it was the last (R183). -/
theorem State.collJoin_eq (h : s.Collects n o ms) : s.collJoin n o
    = if ((ms.map (·.2)).all fun c => c == n || (s.collPeers (s.holder n) (collGroup o.op) (s.collOrdinal (s.holder n) (collGroup o.op) n)).any fun p => p.core == c) = true
      then (s.collJoined n o).collFinish (s.holder n) (collGroup o.op) (s.collOrdinal (s.holder n) (collGroup o.op) n) ms else s.collJoined n o := by
  have hin : (!ms.contains (s.objN (okey 0x1000 4), n)) = false := by simpa using h.isMember
  have hremote : (ms.any fun x => x.1 != s.objN (okey 0x1000 4)) = false := by
    rw [List.any_eq_false]
    exact fun x hx => by simp [h.here x hx]
  have hhere : (ms.filter fun x => x.1 == s.objN (okey 0x1000 4)) = ms := List.filter_eq_self.2 fun x hx => by simp [h.here x hx]
  have hagree : ((s.collPeers (s.holder n) (collGroup o.op) (s.collOrdinal (s.holder n) (collGroup o.op) n)).any fun p =>
      p.kind != collKind o.op || p.red != collRed o.op || p.fmt != (o.d (fld o.op 91 88)).fmt || p.count != (o.d (fld o.op 91 88)).count) = false := by
    rw [List.any_eq_false]
    intro p hp
    obtain ⟨h1, h2, h3, h4⟩ := h.agree p hp
    simp [h1, h2, h3, h4]
  unfold State.collJoin
  dsimp only
  simp only [h.members, hin, h.fault, hremote, hhere, Bool.false_and, Bool.false_eq_true, if_false]
  exact if_neg (ne_true_of_eq_false hagree)

theorem State.coll_markRan (s : State) (n : Nat) (q : Queue) (seq : Nat) : (s.markRan n q seq).coll = s.coll := rfl

theorem State.coll_collDeliver (s : State) (n seq : Nat) (codes : List Nat) (sat : Bool) : (s.collDeliver n seq codes sat).coll = s.coll := by
  unfold State.collDeliver
  split
  · rfl
  · dsimp only
    rw [State.coll_markRan]
    exact (State.Moves.ite ((State.Moves.ite ((s.moves_dmaTensor ..).trans (State.moves_dmaPut ..)) (s.moves_dmaTensor ..)).trans ⟨_, _, _, _, _, rfl⟩)
      (State.Moves.ite ((s.moves_dmaTensor ..).trans (State.moves_dmaPut ..)) (s.moves_dmaTensor ..))).coll

/-- What a completed collective keeps of the contributions: those of every other one. -/
theorem State.coll_collFinish (s : State) (m γ k : Nat) (ms : List (Nat × Nat)) :
    (s.collFinish m γ k ms).coll = s.coll.filter fun p => !(decide (p.inst = m) && decide (p.group = γ) && decide (p.k = k)) := by
  unfold State.collFinish
  dsimp only
  split
  · rename_i hnone
    refine (List.filter_eq_self.2 fun p hp => ?_).symm
    have := List.filter_eq_nil_iff.1 hnone p hp
    rw [Bool.not_eq_true']
    exact eq_false_of_ne_true this
  · exact State.forEach_induct (P := fun t : State => t.coll = s.coll.filter fun p => !(decide (p.inst = m) && decide (p.group = γ) && decide (p.k = k)))
      _ (fun u p _ h => (u.coll_collDeliver ..).trans h) rfl

/-! ### A COLL as it is dispatched -/

theorem State.startOp_coll (s : State) {n : Nat} {o : QOp} (hc : opOf o.op = 0x64) : s.startOp n .dma o = (s.beginOp n .dma o).collKick n := by
  unfold State.startOp
  exact (if_neg (by decide)).trans (if_pos hc)

/-- The one COLL of a core that has handed over no part joins. -/
theorem State.collKick_single (hdma : (s.core n).dma = [o]) (hs : o.started = true) (hr : o.ran = false) (hc : opOf o.op = 0x64) (hnone : ∀ p ∈ s.coll, p.core ≠ n) :
    s.collKick n = s.collJoin n o := by
  have hpart : (s.coll.any fun p => p.core == n && p.seq == o.seq) = false := by
    rw [List.any_eq_false]
    exact fun p hp => by simp [hnone p hp]
  have hfound : (s.dmaOp? n o.seq).isNone = false := by simp [State.dmaOp?, hdma]
  rw [State.collKick, hdma, List.filter_cons_of_pos (by simp [hs, hr, hc]), List.filter_nil, State.forEach, List.foldl_cons, List.foldl_nil]
  exact if_neg (by rw [hfound, hpart]; simp)

end

section
variable {s e : State} {n : Nat} {op : OpWord}

theorem State.Enters.collFault (he : s.Enters e n op .dma) (hn : n < 16) : e.collFault = s.collFault := by
  funext m x td ta count
  rw [State.collFault, State.collFault, he.reachFault hn]

theorem State.Enters.collMembers (he : s.Enters e n op .dma) (hn : n < 16) : e.collMembers = s.collMembers := by
  funext m γ
  rw [State.collMembers, State.collMembers, he.sameStore.rd, he.objN_instance hn (by simp only [kKv, okey]; omega)]

theorem State.Enters.device (he : s.Enters e n op .dma) : e.objN (okey 0x1000 4) = s.objN (okey 0x1000 4) :=
  congrArg BitVec.toNat (he.obj_eq (by simp only [okey]; omega))

theorem State.Enters.coll (he : s.Enters e n op .dma) : e.coll = s.coll := by rw [he.rest]

theorem State.Enters.collOrdinal (he : s.Enters e n op .dma) : e.collOrdinal = s.collOrdinal := by
  funext m γ j
  rw [State.collOrdinal, State.collOrdinal, show e.collCount = s.collCount by rw [he.rest]]

theorem State.Enters.collPeers (he : s.Enters e n op .dma) : e.collPeers = s.collPeers := by
  funext m γ k
  rw [State.collPeers, State.collPeers, he.coll]

theorem State.Enters.collPart (he : s.Enters e n op .dma) (o : QOp) (c : Nat) : e.collPart n (o.begun c) = s.collPart n o := by
  have hcodes : e.flatCodes n = s.flatCodes n := by
    funext d
    rw [State.flatCodes, State.flatCodes, he.sameStore.elemCode, he.sameStore.scaleCode]
  unfold State.collPart
  rw [he.holder, he.collOrdinal, hcodes]
  rfl

theorem State.Enters.collects (he : s.Enters e n op .dma) (hn : n < 16) {o : QOp} {ms : List (Nat × Nat)} (h : s.Collects n o ms) (c : Nat) : e.Collects n (o.begun c) ms := by
  obtain ⟨h1, h2, h3, h4, h5⟩ := h
  refine ⟨?_, ?_, ?_, ?_, ?_⟩
  · rw [he.collMembers hn, he.holder]; exact h1
  · rw [he.device]; exact h2
  · rw [he.device]; exact h3
  · rw [he.collFault hn]; exact h4
  · rw [he.collPeers, he.collOrdinal, he.holder]; exact h5

end

/-- A COLL that goes hands over its part, and completes the collective if every other member has handed over its own. -/
theorem coll_runs {s : State} {n : Fin 16} {op : OpWord} {o : QOp} {ms : List (Nat × Nat)} (hgo : s.OpGoes n op [(95, 69)] .dma) (hop : opOf op = 0x64) (ho : s.opRecord n op = o)
    (h : s.Collects n o ms) (hnone : ∀ p ∈ s.coll, p.core ≠ n) :
    ∃ u : State, s.engineOp n op [(95, 69)] = .next
        (if ((ms.map (·.2)).all fun c => c == (n : Nat) || (s.collPeers (s.holder n) (collGroup op) (s.collOrdinal (s.holder n) (collGroup op) n)).any fun p => p.core == c) = true
          then u.collFinish (s.holder n) (collGroup op) (s.collOrdinal (s.holder n) (collGroup op) n) ms else u)
      ∧ u.coll = s.coll ++ [s.collPart n o] ∧ u.mem = s.mem ∧ u.out = s.out ∧ (u.core n).dma = [{ o with started := true, cycles := s.nowN }] ∧ ∀ j, j ≠ (n : Nat) → u.core j = s.core j := by
  subst ho
  have hn := n.isLt
  obtain ⟨t, ht, hrun⟩ := State.engineOp_starts hgo
  have he := ht.enters (by decide)
  rw [State.startOp_coll t hop] at hrun
  generalize t.beginOp n .dma (s.opRecord n op) = e at hrun he
  have hdma : (e.core n).dma = [(s.opRecord n op).begun s.nowN] := by rw [he.core]; rfl
  have hjoin := State.collJoin_eq (he.collects hn h s.nowN)
  rw [State.collKick_single hdma rfl rfl hop (by rw [he.coll]; exact hnone), hjoin, he.holder, he.collOrdinal, he.collPeers] at hrun
  have halone : ∀ c l, State.objsAlone { e with collCount := c, coll := l } (({ e with collCount := c, coll := l } : State).countDesc n ((s.opRecord n op).d (fld op 91 88)) false) :=
    fun _ _ => State.objsAlone_countDesc ..
  refine ⟨_, hrun, ?_, ?_, ?_, ?_, fun j hj => ?_⟩
  · exact (halone _ _).moves.coll.trans (by rw [he.coll, he.collPart])
  · exact (halone _ _).sameStore.mem.trans he.sameStore.mem
  · exact (halone _ _).sameStore.out.trans he.sameStore.out
  · exact (congrArg CoreSt.dma ((halone _ _).moves.core n)).trans hdma
  · exact ((halone _ _).moves.core j).trans (he.others j hj)

end Sys2Proof.Machine
end

section
/-! What KVSCATTER and KVFETCH do to the pages of a cache (R171-R177, R225). -/

namespace Sys2Proof.Machine

/-! ### Two states that show core n the same caches -/

/-- Memory, free values, the instances and their objects are the same, and core n has the same holder. -/
structure State.SameKv (s e : State) (n : Nat) : Prop where
  store : s.SameStore e
  insts : e.insts = s.insts
  objs : ∀ k, 0x400000 ≤ k → e.obj k = s.obj k
  holder : e.holder n = s.holder n

theorem State.Enters.sameKv {s e : State} {n : Nat} {op : OpWord} {q : Queue} (he : s.Enters e n op q) (hn : n < 16) : s.SameKv e n :=
  ⟨he.sameStore, by rw [he.rest], fun k hk => he.obj_eq (by omega), he.holder n⟩

section
variable {s e : State} {n : Nat} (h : s.SameKv e n)
include h

theorem State.SameKv.objN {k : Nat} (hk : 0x400000 ≤ k) : e.objN k = s.objN k := congrArg BitVec.toNat (h.objs k hk)

theorem State.SameKv.kv (m a : Nat) : e.objN (kKv m a) = s.objN (kKv m a) := h.objN (by simp only [kKv, okey]; omega)

theorem State.SameKv.inst : e.inst = s.inst := by
  funext m
  rw [State.inst, State.inst, h.insts]

theorem State.SameKv.cache : e.cache = s.cache := by
  funext m c
  simp only [State.cache, h.kv, h.store.rd]

theorem State.SameKv.cacheFault : e.cacheFault = s.cacheFault := by
  funext m c
  have hmark : e.cachePoisoned m c = s.cachePoisoned m c := by
    rw [State.cachePoisoned, State.cachePoisoned, State.oBit, State.oBit, h.objs _ (by simp only [kAssay, okey]; omega)]
  rw [State.cacheFault, State.cacheFault, hmark, h.cache]

theorem State.SameKv.ptAddr : e.ptAddr = s.ptAddr := by
  funext m c x slot
  rw [State.ptAddr, State.ptAddr, h.kv]

theorem State.SameKv.ptEntry : e.ptEntry = s.ptEntry := by
  funext a
  simp only [State.ptEntry, h.store.rdN]

theorem State.SameKv.pagesOf : e.pagesOf = s.pagesOf := by
  funext m c x pos stop
  simp only [State.pagesOf, State.pageOf, h.ptAddr, h.ptEntry]

theorem State.SameKv.rowsFault : e.rowsFault = s.rowsFault := by
  funext c pages v pos stop
  simp only [State.rowsFault, h.store.poisonedAt]

theorem State.SameKv.placeFrame : e.placeFrame = s.placeFrame := by
  have hinst : ∀ m j a, e.objN (kInst m j a) = s.objN (kInst m j a) := fun m j a => h.objN (by simp only [kInst, okey]; omega)
  have hassay : ∀ m a, e.objN (kAssay m a) = s.objN (kAssay m a) := fun m a => h.objN (by simp only [kAssay, okey]; omega)
  have hring : ∀ k a, e.obj (okey (0x4500 + k) a) = s.obj (okey (0x4500 + k) a) := fun k a => h.objs _ (by simp only [okey]; omega)
  have hringN : ∀ k a, e.objN (okey (0x4500 + k) a) = s.objN (okey (0x4500 + k) a) := fun k a => congrArg BitVec.toNat (hring k a)
  have htaken : e.takenRanges = s.takenRanges := by
    funext m
    simp only [State.takenRanges, h.inst, hinst, hassay, h.kv, hring, hringN]
  funext m size align
  simp only [State.placeFrame, State.freeNow, h.inst, hinst, htaken, h.store.free]

/-! ### The same writes keep them so -/

theorem State.SameKv.stores {t u : State} (ht : s.Stores t) (hu : e.Stores u) (hsame : t.SameStore u) : t.SameKv u n := by
  obtain ⟨_, _, _, rfl⟩ := ht
  obtain ⟨_, _, _, rfl⟩ := hu
  exact ⟨hsame, h.insts, h.objs, h.holder⟩

theorem State.SameKv.wr (a : Nat) (bs : List Byte) : (s.wr a bs).SameKv (e.wr a bs) n := h.stores (s.stores_wr ..) (e.stores_wr ..) (h.store.wr ..)

theorem State.SameKv.tookFree (k : Nat) : (s.tookFree k).SameKv (e.tookFree k) n := h.stores (s.stores_tookFree ..) (e.stores_tookFree ..) (h.store.tookFree k)

theorem State.SameKv.setPtEntry (a : Nat) (p : PtEntry) : (s.setPtEntry a p).SameKv (e.setPtEntry a p) n := (h.wr _ _).wr _ _

theorem State.SameKv.zeroRange (a len : Nat) : (s.zeroRange a len).SameKv (e.zeroRange a len) n := by
  refine h.stores ⟨_, _, _, rfl⟩ ⟨_, _, _, rfl⟩ ⟨?_, ?_, h.store.ileave, h.store.free, h.store.out⟩
  · simp only [State.zeroRange, h.store.mem]
  · simp only [State.zeroRange, State.coversUnit, h.store.poison, h.store.ileave]

theorem State.SameKv.count {k : Nat} (hk : 0x400000 ≤ k) (hn : n < 16) (w b : Nat) : (s.count k w b).SameKv (e.count k w b) n := by
  have hcore : k ≠ kCore n 0 2 := by simp only [kCore, okey]; omega
  refine ⟨⟨h.store.mem, h.store.poison, h.store.ileave, h.store.free, h.store.out⟩, h.insts, fun j hj => ?_, ?_⟩
  · rw [State.count_eq, State.count_eq, State.obj_setObj, State.obj_setObj, h.objs k hk, h.objs j hj]
  · have hkeep : ∀ v : State, (v.count k w b).holder n = v.holder n := fun v => by
      rw [State.holder, State.objN, State.count_eq, State.obj_setObj, if_neg hcore]; rfl
    rw [hkeep, hkeep, h.holder]

theorem State.SameKv.countBytes (hn : n < 16) (m a len : Nat) (write : Bool) : (s.countBytes m a len write).SameKv (e.countBytes m a len write) n := by
  rcases State.countBytes_cases m a len write with hc | ⟨b, -, hc⟩ <;> rw [hc, hc]
  · exact h
  · exact h.count (by simp only [kInst, okey]; omega) hn ..

theorem State.SameKv.upInst (m : Nat) (f : InstSt → InstSt) : (s.upInst m f).SameKv (e.upInst m f) n := by
  refine ⟨⟨h.store.mem, h.store.poison, h.store.ileave, h.store.free, h.store.out⟩, ?_, h.objs, h.holder⟩
  rw [State.upInst_eq, State.upInst_eq, h.inst, State.setInst, State.setInst, h.insts]

theorem State.SameKv.forEach {α : Type} (l : List α) {f : State → α → State} (hf : ∀ (u v : State) x, u.SameKv v n → (f u x).SameKv (f v x) n) :
    (s.forEach l f).SameKv (e.forEach l f) n := by
  unfold State.forEach
  induction l generalizing s e with
  | nil => exact h
  | cons x l ih => exact ih (hf _ _ x h)

end

/-! ### What a page's write leaves alone -/

/-- No core has changed, nothing has left the device, and core n has moved no bytes of its own DMA. -/
structure State.KeepsCores (s t : State) (n : Nat) : Prop where
  cores : t.cores = s.cores
  out : t.out = s.out
  moved : t.obj (kCore n 2 4) = s.obj (kCore n 2 4)

section
variable {s t u : State} {n : Nat}

theorem State.KeepsCores.refl (s : State) (n : Nat) : s.KeepsCores s n := ⟨rfl, rfl, rfl⟩

theorem State.KeepsCores.trans (h : s.KeepsCores t n) (h' : t.KeepsCores u n) : s.KeepsCores u n :=
  ⟨h'.cores.trans h.cores, h'.out.trans h.out, h'.moved.trans h.moved⟩

theorem State.Stores.keepsCores (h : s.Stores t) (n : Nat) : s.KeepsCores t n := by
  obtain ⟨_, _, _, rfl⟩ := h; exact ⟨rfl, rfl, rfl⟩

theorem State.keepsCores_setPtEntry (s : State) (n a : Nat) (p : PtEntry) : s.KeepsCores (s.setPtEntry a p) n :=
  ((s.stores_wr ..).trans (State.stores_wr ..)).keepsCores n

theorem State.keepsCores_count (s : State) {k : Nat} (hk : 0x400000 ≤ k) (hn : n < 16) (w b : Nat) : s.KeepsCores (s.count k w b) n :=
  ⟨rfl, rfl, by rw [State.count_eq, State.obj_setObj, if_neg (by simp only [kCore, okey]; omega)]⟩

theorem State.keepsCores_countBytes (s : State) (hn : n < 16) (m a len : Nat) (write : Bool) : s.KeepsCores (s.countBytes m a len write) n := by
  rcases State.countBytes_cases m a len write with h | ⟨b, -, h⟩ <;> rw [h]
  · exact .refl s n
  · exact s.keepsCores_count (by simp only [kInst, okey]; omega) hn ..

theorem State.keepsCores_upInst (s : State) (n m : Nat) (f : InstSt → InstSt) : s.KeepsCores (s.upInst m f) n := ⟨rfl, rfl, rfl⟩

end

/-! ### KVSCATTER -/

/-- An entry of a ring turned over to a later page (R170). -/
def State.ringTurned (s : State) (c : Cache) (a page : Nat) : State :=
  if c.ring ∧ (s.ptEntry a).ptag < page then s.setPtEntry a { s.ptEntry a with ptag := page, fill := 0 } else s

/-- The rows of one page of one head stored behind its bound entry at `a`, and its fill raised (R174). -/
def State.scatterRows (s0 s : State) (n m a : Nat) (c : Cache) (dk dv : Desc) (pos cnt h page : Nat) : State :=
  let t := s.ringTurned c a page
  let p := t.ptEntry a
  let is_ := (List.range cnt).filter fun i => (pos + i) / c.P = page
  let codes (d : Desc) (i : Nat) : List Byte := packCodes (8 * c.e) ((List.range c.d).map fun x => s0.elemCode n d x h i 0)
  let u := t.forEach is_ fun s i => (s.wr (c.rowAddr p.frame false (pos + i)) (codes dk i)).wr (c.rowAddr p.frame true (pos + i)) (codes dv i)
  (u.countBytes m p.frame (2 * c.row * is_.length) true).setPtEntry a { p with fill := max p.fill ((is_.map fun i => (pos + i) % c.P + 1).foldl max 0) }

section
variable {s e u : State} {n : Nat}

theorem State.keepsCores_ringTurned (s : State) (n : Nat) (c : Cache) (a page : Nat) : s.KeepsCores (s.ringTurned c a page) n := by
  unfold State.ringTurned
  split
  · exact s.keepsCores_setPtEntry ..
  · exact .refl s n

theorem State.SameKv.ringTurned (h : s.SameKv e n) (c : Cache) (a page : Nat) : (s.ringTurned c a page).SameKv (e.ringTurned c a page) n := by
  unfold State.ringTurned
  rw [h.ptEntry]
  split
  · exact h.setPtEntry ..
  · exact h

theorem State.keepsCores_scatterRows (s0 s : State) (hn : n < 16) (m a : Nat) (c : Cache) (dk dv : Desc) (pos cnt x page : Nat) :
    s.KeepsCores (s0.scatterRows s n m a c dk dv pos cnt x page) n :=
  (((s.keepsCores_ringTurned n c a page).trans
      ((State.stores_forEach _ _ fun _ _ => (State.stores_wr ..).trans (State.stores_wr ..)).keepsCores n)).trans (State.keepsCores_countBytes _ hn ..)).trans
    (State.keepsCores_setPtEntry ..)

theorem State.SameKv.scatterRows (h : s.SameKv e n) {s0 e0 : State} (h0 : s0.SameStore e0) (hn : n < 16) (m a : Nat) (c : Cache) (dk dv : Desc) (pos cnt x page : Nat) :
    (s0.scatterRows s n m a c dk dv pos cnt x page).SameKv (e0.scatterRows e n m a c dk dv pos cnt x page) n := by
  have ht := h.ringTurned c a page
  unfold State.scatterRows
  dsimp only
  rw [ht.ptEntry, h0.elemCode]
  generalize s.ringTurned c a page = t at ht ⊢
  generalize e.ringTurned c a page = t' at ht
  generalize t.ptEntry a = p
  refine ((ht.forEach _ fun u v i h' => ?_).countBytes hn ..).setPtEntry ..
  exact (h'.wr ..).wr ..

/-- The same frame is bound. -/
theorem State.SameKv.bindFrame (h : s.SameKv e n) (hn : n < 16) {m : Nat} {c : Cache} {a ptag : Nat} (hu : s.bindFrame m c a ptag = some u) :
    ∃ v, e.bindFrame m c a ptag = some v ∧ u.SameKv v n ∧ e.KeepsCores v n := by
  unfold State.bindFrame at hu ⊢
  rw [h.kv, h.kv, h.placeFrame]
  split at hu
  · cases hu
  · rename_i hquota
    rw [if_neg hquota]
    split at hu
    · cases hu
    · rename_i f hf
      cases hu
      have hkey : ∀ b, 0x400000 ≤ kKv m b := fun b => by simp only [kKv, okey]; omega
      refine ⟨_, rfl, ((((h.tookFree 1).zeroRange ..).setPtEntry ..).count (hkey 4) hn ..).upInst .., ?_⟩
      exact ((((e.stores_tookFree 1).trans ⟨_, _, _, rfl⟩).keepsCores n).trans (State.keepsCores_setPtEntry ..)).trans
        ((State.keepsCores_count _ (hkey 4) hn ..).trans (State.keepsCores_upInst ..))

/-- A page that is written in one state is written alike in the other. -/
theorem State.SameKv.scatterPage (h : s.SameKv e n) {s0 e0 : State} (h0 : s0.SameStore e0) (hn : n < 16) {c : Cache} {dk dv : Desc} {pos cnt x page : Nat}
    (hu : s0.scatterPage s n c dk dv pos cnt x page = .ok u) : ∃ v, e0.scatterPage e n c dk dv pos cnt x page = .ok v ∧ u.SameKv v n ∧ e.KeepsCores v n := by
  have hrows : ∀ {u v : State}, u.SameKv v n → e.KeepsCores v n → let m := s.holder n; let a := s.ptAddr m c x (c.slot page);
      (s0.scatterRows u n m a c dk dv pos cnt x page).SameKv (e0.scatterRows v n m a c dk dv pos cnt x page) n
        ∧ e.KeepsCores (e0.scatterRows v n m a c dk dv pos cnt x page) n := fun h' hk =>
    ⟨h'.scatterRows h0 hn .., hk.trans (State.keepsCores_scatterRows _ _ hn ..)⟩
  unfold State.scatterPage at hu ⊢
  dsimp only at hu ⊢
  rw [h.holder, h.ptAddr, h.ptEntry]
  split at hu
  · cases hu
  · rename_i hring
    rw [if_neg hring]
    by_cases hv : (s.ptEntry (s.ptAddr (s.holder n) c x (c.slot page))).valid = true
    · rw [if_pos hv] at hu ⊢
      cases hu
      exact ⟨_, rfl, hrows h (.refl e n)⟩
    · rw [if_neg hv] at hu ⊢
      split at hu
      · cases hu
      · rename_i w hw
        cases hu
        obtain ⟨w', hw', hsame, hkeep⟩ := h.bindFrame hn hw
        rw [hw']
        exact ⟨_, rfl, hrows hsame hkeep⟩

/-- Pages that are all written in one state are written alike in the other. -/
theorem State.SameKv.scatterPages {s0 e0 : State} (h0 : s0.SameStore e0) (hn : n < 16) {c : Cache} {dk dv : Desc} {pos cnt : Nat} {l : List (Nat × Nat)} (h : s.SameKv e n)
    (hu : s0.scatterPages n c dk dv pos cnt s l = (u, none)) : ∃ v, e0.scatterPages n c dk dv pos cnt e l = (v, none) ∧ u.SameKv v n ∧ e.KeepsCores v n := by
  induction l generalizing s e with
  | nil => cases hu; exact ⟨e, rfl, h, .refl e n⟩
  | cons x l ih =>
    rw [State.scatterPages] at hu
    split at hu
    · cases hu
    · rename_i s' hs'
      obtain ⟨e', he', hsame, hkeep⟩ := h.scatterPage h0 hn hs'
      obtain ⟨v, hv, hsame', hkeep'⟩ := ih hsame hu
      refine ⟨v, ?_, hsame', hkeep.trans hkeep'⟩
      rw [State.scatterPages, he']
      exact hv

end

/-- Only instances have changed. -/
def State.InstsAlone (s t : State) : Prop := ∃ i, t = { s with insts := i }

theorem State.InstsAlone.sameStore {s t : State} (h : s.InstsAlone t) : s.SameStore t := by obtain ⟨i, rfl⟩ := h; exact ⟨rfl, rfl, rfl, rfl, rfl⟩

theorem State.InstsAlone.keepsCores {s t : State} (h : s.InstsAlone t) (n : Nat) : s.KeepsCores t n := by obtain ⟨i, rfl⟩ := h; exact ⟨rfl, rfl, rfl⟩

theorem State.InstsAlone.upInst {s t : State} (h : s.InstsAlone t) (m : Nat) (f : InstSt → InstSt) : s.InstsAlone (t.upInst m f) := by
  obtain ⟨i, rfl⟩ := h
  exact ⟨_, rfl⟩

theorem State.InstsAlone.settleKv {s t : State} (h : s.InstsAlone t) (m num : Nat) : s.InstsAlone (t.settleKv m num) := by
  unfold State.settleKv
  split
  · exact h
  · exact h.upInst ..

/-- The marks of a write change instances alone (R225). -/
theorem State.instsAlone_noteWrite (s : State) (n cache tag pos : Nat) : s.InstsAlone (s.noteWrite n cache tag pos) := by
  have hrefl : s.InstsAlone s := ⟨_, rfl⟩
  unfold State.noteWrite
  split
  · exact hrefl
  · dsimp only
    split
    · exact hrefl.upInst ..
    · exact ((hrefl.upInst ..).upInst ..).settleKv ..

/-- KVSCATTER's operands, as it checks them (R172, R173). -/
structure State.Scatters (s : State) (n num : Nat) (c : Cache) (dk dv : Desc) (pos : Nat) : Prop where
  live : s.cacheFault (s.holder n) num = none
  isCache : s.cache (s.holder n) num = c
  formK : dk.dmaForm = none
  formV : dv.dmaForm = none
  reachK : s.reachFault n dk false = none
  reachV : s.reachFault n dv false = none
  shapeK : dk.shape = [c.d, c.headCount, dk.dim 2, 1]
  shapeV : dv.shape = dk.shape
  fmtK : dk.fmt = c.fmt
  fmtV : dv.fmt = c.fmt
  flat : c.ring = false
  capacity : pos + dk.dim 2 - 1 < c.maxTokens
  position : pos + dk.dim 2 - 1 < 2 ^ 32

/-- The pages that a KVSCATTER writes, in order: head by head. -/
def Cache.scatterList (c : Cache) (pos cnt : Nat) : List (Nat × Nat) :=
  (List.range c.headCount).flatMap fun h => (List.range ((pos + cnt - 1) / c.P + 1 - pos / c.P)).map fun i => (h, pos / c.P + i)

theorem performKvscatter_ok {s v : State} {n : Nat} {o : QOp} {c : Cache} {dk dv : Desc} (hdk : o.d (fld o.op 87 84) = dk) (hdv : o.d (fld o.op 83 80) = dv)
    (h : s.Scatters n (fld o.op 95 88) c dk dv o.pos) (hv : s.scatterPages n c dk dv o.pos (dk.dim 2) s (c.scatterList o.pos (dk.dim 2)) = (v, none)) :
    performKvscatter s n o
      = ((((v.noteWrite n (fld o.op 95 88) o.tag o.pos).count (kCore n 2 4) 64 (2 * c.row * dk.dim 2 * c.headCount)).countDesc n dk false).countDesc n dv false, none) := by
  obtain ⟨hlive, rfl, hformK, hformV, hreachK, hreachV, hshapeK, hshapeV, hfmtK, hfmtV, hflat, hcap, hposn⟩ := h
  subst hdk hdv
  unfold performKvscatter kvCache
  dsimp only
  unfold Cache.scatterList at hv
  rw [firstErr_ok (by
    simpa [shapeIf, hlive, hformK, hformV, hreachK, hreachV, ← hshapeK, hshapeV, hfmtK, hfmtV, hflat] using And.intro hcap hposn)]
  simp only [hv, Option.isNone_none, if_true]

theorem CoreSt.q_setQ_self (c : CoreSt) {q : Queue} (hq : q ≠ .ctl) (l : List QOp) : (c.setQ q l).q q = l := by
  cases q
  case ctl => contradiction
  all_goals rfl

/-- An op whose effect leaves its queue and the other cores alone stands in its queue, marked. -/
theorem State.Enters.ends {s e u : State} {n : Nat} {op : OpWord} {q : Queue} (he : s.Enters e n op q) (hq : q ≠ .ctl) (hself : (u.core n).q q = (e.core n).q q)
    (hothers : ∀ j, j ≠ n → u.core j = e.core j) :
    ((u.markRan n q (s.core n).nextSeq).core n).q q = [{ s.opRecord n op with started := true, ran := true, cycles := s.nowN }]
      ∧ ∀ j, j ≠ n → (u.markRan n q (s.core n).nextSeq).core j = s.core j := by
  refine ⟨?_, fun j hj => ?_⟩
  · rw [State.core_markRan, if_pos rfl, hself, he.core, CoreSt.q_holding _ hq, List.map_singleton,
      if_pos (show ((s.opRecord n op).begun s.nowN).seq = (s.core n).nextSeq from rfl), CoreSt.q_setQ_self _ hq]
    rfl
  · rw [State.core_markRan, if_neg (Ne.symm hj), hothers j hj, he.others j hj]

/-- A KVSCATTER that finds no fault stores its pages as `v` has them. -/
theorem kvscatter_runs {s v : State} {n : Fin 16} {op : OpWord} {o : QOp} {c : Cache} {dk dv : Desc} (hgo : s.OpGoes n op [(95, 48)] .dma) (hop : opOf op = 0x70) (ho : s.opRecord n op = o)
    (hdk : o.d (fld o.op 87 84) = dk) (hdv : o.d (fld o.op 83 80) = dv) (h : s.Scatters n (fld o.op 95 88) c dk dv o.pos)
    (hv : s.scatterPages n c dk dv o.pos (dk.dim 2) s (c.scatterList o.pos (dk.dim 2)) = (v, none)) :
    ∃ t, s.engineOp n op [(95, 48)] = .next t ∧ t.mem = v.mem ∧ t.poison = v.poison ∧ t.out = s.out
      ∧ (t.core n).dma = [{ o with started := true, ran := true, cycles := s.nowN }] ∧ (∀ j, j ≠ (n : Nat) → t.core j = s.core j)
      ∧ t.objN (kCore n 2 4) = (s.objN (kCore n 2 4) + 2 * c.row * dk.dim 2 * c.headCount) % 2 ^ 64 := by
  have hn := n.isLt
  obtain ⟨e, he, hrun⟩ := State.engineOp_performs hgo (by decide) (by rw [hop]; decide)
  rw [ho] at hrun
  have hkv := he.sameKv hn
  obtain ⟨v', hv', hsame, hkeep⟩ := hkv.scatterPages (s0 := s) hkv.store hn hv
  have he' : e.Scatters n (fld o.op 95 88) c dk dv o.pos := by
    obtain ⟨h1, h2, h3, h4, h5, h6, h7⟩ := h
    refine ⟨?_, ?_, h3, h4, ?_, ?_, h7, ‹_›, ‹_›, ‹_›, ‹_›, ‹_›, ‹_›⟩
    · rw [hkv.cacheFault, hkv.holder]; exact h1
    · rw [hkv.cache, hkv.holder]; exact h2
    · rw [he.reachFault hn]; exact h5
    · rw [he.reachFault hn]; exact h6
  have hok := performKvscatter_ok hdk hdv he' hv'
  have hnote := v'.instsAlone_noteWrite n (fld o.op 95 88) o.tag o.pos
  have hkeep' := hkeep.trans (hnote.keepsCores n)
  have hstore := hnote.sameStore
  generalize v'.noteWrite n (fld o.op 95 88) o.tag o.pos = y at hok hnote hkeep' hstore
  generalize hx : y.count (kCore n 2 4) 64 (2 * c.row * dk.dim 2 * c.headCount) = x at hok
  have halone : y.objsAlone ((x.countDesc n dk false).countDesc n dv false) := by
    rw [← hx]
    exact ((State.objsAlone_count ..).trans (State.objsAlone_countDesc ..)).trans (State.objsAlone_countDesc ..)
  have hmoved : ((x.countDesc n dk false).countDesc n dv false).objN (kCore n 2 4) = (s.objN (kCore n 2 4) + 2 * c.row * dk.dim 2 * c.headCount) % 2 ^ 64 := by
    rw [State.objN_countDesc _ hn (by decide) (by decide), State.objN_countDesc _ hn (by decide) (by decide), ← hx, State.objN_count _ _ _ _ _ (by decide), if_pos rfl,
      ← he.workObjN (.inr rfl) (by decide), State.objN, hkeep'.moved, ← State.objN]
  have hperform : performOp e n o = ((x.countDesc n dk false).countDesc n dv false, none) := by
    have hop' : opOf o.op = 0x70 := by rw [← ho]; exact hop
    simp only [performOp, hop', hok]
  generalize (x.countDesc n dk false).countDesc n dv false = u at halone hmoved hperform
  have hcore : ∀ j, u.core j = e.core j := fun j => (halone.moves.core j).trans (by rw [State.core, State.core, hkeep'.cores])
  obtain ⟨hdma, hothers⟩ := he.ends (by decide) (by rw [hcore]) fun j _ => hcore j
  refine ⟨_, hrun u hperform, ?_, ?_, ?_, ho ▸ hdma, hothers, hmoved⟩
  · exact halone.sameStore.mem.trans (hstore.mem.trans hsame.store.mem)
  · exact halone.sameStore.poison.trans (hstore.poison.trans hsame.store.poison)
  · exact (halone.sameStore.out.trans hkeep'.out).trans he.sameStore.out

/-! ### KVFETCH -/

/-- KVFETCH's operands, as it checks them (R175-R177). -/
structure State.Fetches (s : State) (n num : Nat) (o : QOp) (c : Cache) (td : Desc) (v : Bool) (pages : List (Nat × PtEntry)) : Prop where
  live : s.cacheFault (s.holder n) num = none
  isCache : s.cache (s.holder n) num = c
  form : td.dmaForm = none
  reach : s.reachFault n td true = none
  range : o.pos ≤ o.endPos
  shape : td.shape = [c.d, o.endPos - o.pos + 1, 1, 1]
  fmt : td.fmt = c.fmt
  headLo : c.headLo ≤ o.head
  headHi : o.head < c.headLo + c.headCount
  isPages : s.pagesOf (s.holder n) c (o.head - c.headLo) o.pos o.endPos = .ok pages
  rows : s.rowsFault c pages v o.pos o.endPos = none

/-- The codes that a KVFETCH stores, read from `s`. -/
def State.fetchCodes (s : State) (o : QOp) (c : Cache) (pages : List (Nat × PtEntry)) (v : Bool) (i0 i1 _i2 _i3 : Nat) : Nat :=
  s.rdN (rowIn c pages v (o.pos + i1) + i0 * c.e) c.e

theorem performKvfetch_ok {s : State} {n : Nat} {o : QOp} {c : Cache} {td : Desc} {pages : List (Nat × PtEntry)} (htd : o.d (fld o.op 87 84) = td)
    (h : s.Fetches n (fld o.op 95 88) o c td (bit o.op 53) pages) :
    performKvfetch s n o = .ok ((s.dmaTensor n td (s.fetchCodes o c pages (bit o.op 53))).countBytes (s.holder n) (rowIn c pages (bit o.op 53) o.pos) (c.row * (o.endPos - o.pos + 1)) false) := by
  obtain ⟨hlive, rfl, hform, hreach, hrange, hshape, hfmt, hlo, hhi, hpages, hrows⟩ := h
  subst htd
  unfold performKvfetch kvCache
  refine (firstErr_bind ?_ _).trans ((ok_bind hpages _).trans (firstErr_bind ?_ _))
  · simp [shapeIf, hlive, hform, hshape, hfmt, hrange, hlo, hhi]
  · simp [hrows, hreach]

theorem State.SameKv.fetches {s e : State} {n : Nat} (h : s.SameKv e n) (hreach : e.reachFault = s.reachFault) {num : Nat} {o : QOp} {c : Cache} {td : Desc} {v : Bool}
    {pages : List (Nat × PtEntry)} (hs : s.Fetches n num o c td v pages) : e.Fetches n num o c td v pages := by
  obtain ⟨h1, h2, h3, h4, h5, h6, h7, h8, h9, h10, h11⟩ := hs
  refine ⟨?_, ?_, h3, ?_, h5, h6, h7, h8, h9, ?_, ?_⟩
  · rw [h.cacheFault, h.holder]; exact h1
  · rw [h.cache, h.holder]; exact h2
  · rw [hreach]; exact h4
  · rw [h.pagesOf, h.holder]; exact h10
  · rw [h.rowsFault]; exact h11

/-- A KVFETCH that finds no fault stores the rows of its range. -/
theorem kvfetch_runs {s : State} {n : Fin 16} {op : OpWord} {o : QOp} {c : Cache} {td : Desc} {pages : List (Nat × PtEntry)} (hgo : s.OpGoes n op [(95, 48)] .dma)
    (hop : opOf op = 0x72) (ho : s.opRecord n op = o) (htd : o.d (fld o.op 87 84) = td) (h : s.Fetches n (fld o.op 95 88) o c td (bit o.op 53) pages) :
    ∃ t, s.engineOp n op [(95, 48)] = .next t ∧ t.objN (kCore n 2 4) = (s.objN (kCore n 2 4) + td.count * elemBits td.fmt / 8) % 2 ^ 64
      ∧ s.OpRan t n op .dma (s.core n) ∧ t.storesAs (s.dmaTensor n td (s.fetchCodes o c pages (bit o.op 53))) := by
  have hn := n.isLt
  obtain ⟨e, he, hrun⟩ := State.engineOp_runs (f := performKvfetch) hgo hop (by decide) (by decide) fun v o h => by simp only [performOp, h]
  have hkv := he.sameKv hn
  have hok := performKvfetch_ok htd (hkv.fetches (he.reachFault hn) h)
  have hcodes : e.fetchCodes o c pages (bit o.op 53) = s.fetchCodes o c pages (bit o.op 53) := by
    funext i0 i1 i2 i3
    rw [State.fetchCodes, State.fetchCodes, hkv.store.rdN]
  rw [hcodes] at hok
  rw [ho] at hrun
  generalize s.fetchCodes o c pages (bit o.op 53) = f at hok ⊢
  have halone := (e.dmaTensor n td f).objsAlone_countBytes (e.holder n) (rowIn c pages (bit o.op 53) o.pos) (c.row * (o.endPos - o.pos + 1)) false
  have hw := e.works_dmaTensor hn td f
  obtain ⟨hran, hmoved⟩ := he.dma_done (k := td.count * elemBits td.fmt / 8) hn ((e.moves_dmaTensor n td f).trans halone.moves)
    (hw.trans hn (State.works_countBytes _ (hw.holder hn).symm ..)) (by rw [State.objN, State.obj_countBytes _ hn (by decide) (by decide), ← State.objN, e.objN_dmaTensor hn])
  exact ⟨_, hrun _ hok, hmoved, hran, ((he.sameStore.dmaTensor n td f).trans halone.sameStore).storesAs⟩

end Sys2Proof.Machine
end

section
/-! What ATTN computes and leaves behind (R130, R161-R165, R180, R186). -/

namespace Sys2Proof.Machine

/-! ### What ATTN computes -/

/-- What an ATTN works with, `per` rows to a query token (R162-R165, R186). -/
def QOp.attnPar (o : QOp) (c : Cache) (tk : Desc) (cls pFmt tile per : Nat) : AttnPar :=
  let t8 := bit o.op 48
  let scale : Word32 := (o.s (fld o.op 60 56)).setWidth 32
  let qpos (t : Nat) : Int := (o.endPos : Int) - (if t8 then tk.dim 1 else tk.dim 2) + 1 + t
  ⟨cls, autoEacc tk.fmt c.fmt c.d [([127], [127])], autoEacc pFmt c.fmt tile [([127], [127])], pFmt, tile, if t8 then f32mul scale 0x3fb8aa3b#32 else scale,
    fun r j => match fld o.op 55 54 with
      | 0 => false
      | 1 => decide (qpos (r / per) < j)
      | _ => decide (qpos (r / per) < j) || decide ((j : Int) ≤ qpos (r / per) - c.window)⟩

/-- A query row of an ATTN. -/
def State.attnRow (s : State) (n : Nat) (c : Cache) (tk : Desc) (i1 i2 : Nat) : List FVal := (List.range c.d).map fun x => s.elem n tk x i1 i2 0

/-- The heads of an ATTN: in T8 head mode one for each of g, else one whose rows are all the group's. -/
def State.attnRun (s : State) (n : Nat) (o : QOp) (c : Cache) (tk : Desc) (cls pFmt tile : Nat) : Except Exc (List (List (List Word32)) × Nat × Nat) :=
  let m := s.holder n
  let g := fld o.op 64 61 + 1
  let t8 := bit o.op 48
  let q := if t8 then tk.dim 1 else tk.dim 2
  attnHeads (fun h =>
    if t8 then s.attnHead m c (o.head + h - c.headLo) o.pos o.endPos (o.attnPar c tk cls pFmt tile 1) ((List.range q).map fun t => s.attnRow n c tk t h)
    else s.attnHead m c (o.head - c.headLo) o.pos o.endPos (o.attnPar c tk cls pFmt tile g)
      ((List.range q).flatMap fun t => (List.range g).map fun gi => s.attnRow n c tk gi t)) (List.range (if t8 then g else 1))

section
variable {s e : State} {n : Nat}

theorem State.SameKv.attnHead (h : s.SameKv e n) : e.attnHead = s.attnHead := by
  have hrow : e.kvRow = s.kvRow := by
    funext c pages v pos
    simp only [State.kvRow, h.store.rdN]
  funext m c x pos stop p qs
  simp only [State.attnHead, h.pagesOf, h.rowsFault, hrow]

theorem State.SameKv.attnRun (h : s.SameKv e n) : e.attnRun n = s.attnRun n := by
  funext o c tk cls pFmt tile
  simp only [State.attnRun, State.attnRow, h.holder, h.attnHead, h.store.elem]

end

/-- ATTN's operands, as it checks them (R161-R165, R171, R180, R186). -/
structure State.Attends (s : State) (n : Nat) (o : QOp) (c : Cache) (tk tv : Desc) (cls pFmt tile : Nat) : Prop where
  live : s.cacheFault (s.holder n) (fld o.op 95 88) = none
  isCache : s.cache (s.holder n) (fld o.op 95 88) = c
  queries : o.d (fld o.op 87 84) = tk
  outputs : o.d (fld o.op 83 80) = tv
  formK : tk.form [0] = none
  formV : tv.form [0, 1, 2] = none
  space : tv.space = 0
  mask : fld o.op 55 54 ≤ 2
  mode : c.t8 = bit o.op 48
  wide : bit o.op 48 = true → fld o.op 64 61 + 1 ≤ 4 ∧ fld o.op 55 54 ≠ 2
  banks : fld o.op 52 51 ≠ fld o.op 50 49
  depth : tk.dim 0 = c.d
  shape : tv.shape = tk.shape
  group : (if bit o.op 48 then tk.dim 2 else tk.dim 1) = fld o.op 64 61 + 1
  flat : tk.dim 3 = 1
  rows : (if bit o.op 48 then tk.dim 1 else (fld o.op 64 61 + 1) * tk.dim 2) ≤ 256
  range : o.pos ≤ o.endPos
  finite : (f32 ((o.s (fld o.op 60 56)).setWidth 32)).isFin = true
  positive : f32lt 0#32 ((o.s (fld o.op 60 56)).setWidth 32) = true
  window : fld o.op 55 54 = 2 → c.window ≠ 0 ∧ (c.ring = true → o.endPos / c.P - o.pos / c.P + 1 ≤ c.pages)
  pair : attnPair c.fmt tk.fmt = some (cls, pFmt, tile)
  fmt : tv.fmt ∈ [codeFP32, codeBF16, codeFP16, codeE4M3]
  headLo : c.headLo ≤ o.head
  headHi : o.head + (if bit o.op 48 then fld o.op 64 61 + 1 else 1) ≤ c.headLo + c.headCount
  reachK : s.reachFault n tk false = none
  reachV : s.reachFault n tv true = none

/-- What the outputs of an ATTN are stored as. -/
def State.attnStored (s : State) (n : Nat) (tv : Desc) (outs : List (List (List Word32))) : State :=
  (s.wrVals n tv false ((outs.flatMap fun h => h.flatMap fun r => r).map f32) (List.replicate tv.count .rne) id).s

/-- What an ATTN counts once its outputs are stored, `keys` keys fetched and `macs` products taken. -/
def State.attnCounted (s : State) (n m fl bytes macs : Nat) : State :=
  let t := (((s.orObj (kArith n) fl).countBytes m 0 bytes false).count (kCore n 2 4) 64 bytes).count (kCore n 2 3) 64 macs
  ((t.slabCount n t.freeNow.toNat 0).tookFree).micaCountOpen n (2 ^ 64)

theorem performAttn_ok {s : State} {n : Nat} {o : QOp} {c : Cache} {tk tv : Desc} {cls pFmt tile fl keys : Nat} {outs : List (List (List Word32))} (h : s.Attends n o c tk tv cls pFmt tile)
    (hrun : s.attnRun n o c tk cls pFmt tile = .ok (outs, fl, keys)) :
    ∃ macs, performAttn s n o = .ok (((((s.attnStored n tv outs).attnCounted n (s.holder n) fl (2 * keys * c.row) macs).openBank n (fld o.op 52 51)).openBank n (fld o.op 50 49)).weakRot n o cls 256) := by
  obtain ⟨hlive, rfl, rfl, rfl, hformK, hformV, hspace, hmask, hmode, hwide, hbanks, hdepth, hshape, hgroup, hflat, hrows, hrange, hfinite, hpositive, hwindow, hpair, hfmt, hlo, hhi,
    hreachK, hreachV⟩ := h
  refine ⟨2 * (if bit o.op 48 then (if bit o.op 48 then (o.d (fld o.op 87 84)).dim 1 else (o.d (fld o.op 87 84)).dim 2)
      else (fld o.op 64 61 + 1) * if bit o.op 48 then (o.d (fld o.op 87 84)).dim 1 else (o.d (fld o.op 87 84)).dim 2) * keys * (s.cache (s.holder n) (fld o.op 95 88)).d, ?_⟩
  unfold performAttn kvCache
  dsimp only
  rw [firstErr_bind, firstErr_bind, hpair]
  · dsimp only
    rw [firstErr_bind]
    · exact ok_bind hrun _
    · have hhead : ¬(o.head < (s.cache (s.holder n) (fld o.op 95 88)).headLo
          ∨ (s.cache (s.holder n) (fld o.op 95 88)).headLo + (s.cache (s.holder n) (fld o.op 95 88)).headCount < o.head + if bit o.op 48 = true then fld o.op 64 61 + 1 else 1) := by
        omega
      simp [hfmt, hspace, hhead, hreachK, hreachV]
  · have hg : (if bit o.op 48 = true then (o.d (fld o.op 87 84)).dim 2 != fld o.op 64 61 + 1 else (o.d (fld o.op 87 84)).dim 1 != fld o.op 64 61 + 1) = false := by
      split at hgroup <;> simp_all
    have h3 : fld o.op 55 54 ≠ 3 := by omega
    simpa [shapeIf, hformK, hformV, hmode, hbanks, hdepth, hshape, hflat, hrange, hfinite, hpositive, Nat.not_lt.2 hrows, hg, h3]
      using And.intro (And.intro hwide fun h => (hwindow h).1) fun h => (hwindow h).2
  · simp [hlive]

/-! ### What ATTN leaves behind -/

/-- A core with other accumulators, banks and slots. -/
def CoreSt.withBanks (c : CoreSt) (a : TMap Word64) (g : TMap Nat) (b : TMap BankInfo) (m : TMap ASlot) : CoreSt := { c with acc := a, tags := g, banks := b, slots := m }

/-- An ATTN has counted its work and has opened the banks: memory is as it was, and of the cores only core n's accumulators, banks and slots have changed. -/
structure State.OpensBanks (s t : State) (n : Nat) (banks : List Nat) : Prop where
  others : ∀ j, j ≠ n → t.core j = s.core j
  core : ∃ a g b m, t.core n = (s.core n).withBanks a g b m
  mem : t.mem = s.mem
  poison : t.poison = s.poison
  out : t.out = s.out
  ileave : t.ileave = s.ileave
  open_ : ∀ b ∈ banks, (t.bankInfo n b).cls = some 2

section
variable {s t u : State} {n : Nat} {banks : List Nat}

theorem State.OpensBanks.refl (s : State) (n : Nat) : s.OpensBanks s n [] := ⟨fun _ _ => rfl, ⟨_, _, _, _, rfl⟩, rfl, rfl, rfl, rfl, fun _ h => by cases h⟩

theorem State.OpensBanks.ends (h : s.OpensBanks t n banks) (h' : t.SlabEnds u n) : s.OpensBanks u n banks := by
  obtain ⟨a, g, b, m, hc⟩ := h.core
  obtain ⟨m', hm'⟩ := h'.slots
  refine ⟨fun j hj => (h'.works.others j hj).trans (h.others j hj), ⟨a, g, b, m', by rw [hm', hc]; rfl⟩, h'.mem.trans h.mem, h'.poison.trans h.poison, h'.out.trans h.out, ?_, fun k hk => ?_⟩
  · rw [h'.works.rest]; exact h.ileave
  · rw [State.bankInfo, hm']; exact h.open_ k hk

theorem State.core_openBank_of_ne (s : State) {n j : Nat} (hj : n ≠ j) (b : Nat) : (s.openBank n b).core j = s.core j := by
  unfold State.openBank
  rw [State.core_tookFree, State.upCore_eq, State.core_setCore, if_neg hj]

theorem State.core_openBank_self (s : State) (n b : Nat) : (s.openBank n b).core n
    = { s.core n with
        acc := ((s.openBank n b).core n).acc
        tags := ((s.openBank n b).core n).tags
        banks := TMap.set (fun _ => BankInfo.empty) (s.core n).banks b ⟨some 2, 128, 0, false, false, false⟩ } := by
  unfold State.openBank
  dsimp only
  simp only [State.core_tookFree, State.core_upCore_self]

/-- A bank opened is of the FP32 class, and those opened before it stay so (R130). -/
theorem State.OpensBanks.openBank (h : s.OpensBanks t n banks) (b : Nat) : s.OpensBanks (t.openBank n b) n (b :: banks) := by
  obtain ⟨a, g, k, m, hc⟩ := h.core
  have hself := t.core_openBank_self n b
  refine ⟨fun j hj => (t.core_openBank_of_ne (Ne.symm hj) b).trans (h.others j hj),
    ⟨((t.openBank n b).core n).acc, ((t.openBank n b).core n).tags, TMap.set (fun _ => BankInfo.empty) (t.core n).banks b ⟨some 2, 128, 0, false, false, false⟩, m, ?_⟩,
    h.mem, h.poison, h.out, h.ileave, fun x hx => ?_⟩
  · generalize (t.openBank n b).core n = y at hself ⊢
    rw [hself, hc]
    rfl
  · rw [State.bankInfo, hself, TMap.get_set]
    split
    · rfl
    · rename_i hne
      exact h.open_ x ((List.mem_cons.1 hx).resolve_left fun he => hne he.symm)

theorem State.slabEnds_micaCount (s : State) (hn : n < 16) (cycles : Nat) : s.SlabEnds (s.micaCount n cycles) n :=
  (s.slabEnds_count (s.activity_mem_workKeys n (by decide)) ..).trans hn (State.slabEnds_account _ n (by decide) _)

theorem State.slabEnds_attnCounted (s : State) (hn : n < 16) {m : Nat} (hm : m = s.holder n) (fl bytes macs : Nat) : s.SlabEnds (s.attnCounted n m fl bytes macs) n := by
  have hflags : s.SlabEnds (s.orObj (kArith n) fl) n := ⟨s.works_setObj (s.kArith_mem_workKeys n) _, ⟨_, rfl⟩, rfl, rfl, rfl⟩
  have hbytes : ∀ v : State, v.holder n = s.holder n → v.SlabEnds (v.countBytes m 0 bytes false) n := fun v hv => by
    have halone := v.objsAlone_countBytes m 0 bytes false
    exact ⟨v.works_countBytes (hm.trans hv.symm) .., ⟨_, halone.moves.core n⟩, halone.sameStore.mem, halone.sameStore.poison, halone.sameStore.out⟩
  have hcounts : ∀ v : State, v.SlabEnds ((v.count (kCore n 2 4) 64 bytes).count (kCore n 2 3) 64 macs) n := fun v =>
    (v.slabEnds_count (v.activity_mem_workKeys n (by decide)) ..).trans hn (State.slabEnds_count _ (State.activity_mem_workKeys _ n (by decide)) ..)
  have hwork : ∀ v : State, v.SlabEnds (((v.slabCount n v.freeNow.toNat 0).tookFree).micaCountOpen n (2 ^ 64)) n := fun v =>
    ((v.slabEnds_slabCount hn ..).trans hn (State.slabEnds_tookFree ..)).trans hn ((State.slabEnds_micaCount _ hn _).trans hn (State.slabEnds_tookFree ..))
  exact ((hflags.trans hn (hbytes _ (hflags.works.holder hn))).trans hn (hcounts _)).trans hn (hwork _)

end

/-- A descriptor that an engine takes from any space has the form of one that it takes from the local store, where it names it and is of no MX format. -/
theorem Desc.form_lstore {d : Desc} (h : d.form [0, 1, 2] = none) (hspace : d.space = 0) (hmx : isMx d.fmt = false) : d.form [0] = none := by
  rw [Desc.form, Option.map_eq_none_iff, Desc.bad] at h ⊢
  simpa [hspace, hmx] using h

/-- An ATTN that finds no fault stores its outputs and leaves its two banks open. -/
theorem attn_runs {s : State} {n : Fin 16} {op : OpWord} {o : QOp} {c : Cache} {tk tv : Desc} {cls pFmt tile fl keys : Nat} {outs : List (List (List Word32))}
    (hgo : s.OpGoes n op [(95, 48)] .slab) (hop : opOf op = 0x71) (ho : s.opRecord n op = o) (h : s.Attends n o c tk tv cls pFmt tile)
    (hheads : s.attnRun n o c tk cls pFmt tile = .ok (outs, fl, keys)) :
    ∃ t, s.engineOp n op [(95, 48)] = .next t ∧ t.storesAs (s.attnStored n tv outs) ∧ t.out = s.out ∧ (∀ b ∈ [fld op 52 51, fld op 50 49], (t.bankInfo n b).cls = some 2)
      ∧ (t.core n).slab = [{ o with started := true, ran := true, cycles := s.nowN }] ∧ (t.core n).vregs = (s.core n).vregs ∧ (∀ j, j ≠ (n : Nat) → t.core j = s.core j)
      ∧ ∀ y, tv.misses n y → t.byte y = s.byte y := by
  have hn := n.isLt
  subst ho
  obtain ⟨e, he, hrun⟩ := State.engineOp_runs (f := performAttn) hgo hop (by decide) (by decide) fun v o h => by simp only [performOp, h]
  have hkv := he.sameKv hn
  have hfits : tv.Fits := by
    have hplain : isMx tv.fmt = false ∧ isRaw tv.fmt = false := by
      have := h.fmt
      simp only [List.mem_cons, List.not_mem_nil, or_false] at this
      rcases this with hf | hf | hf | hf <;> rw [hf] <;> decide
    exact State.fits_of_reach (Desc.form_lstore h.formV h.space hplain.1) hplain.2 (fun hmx => by rw [hplain.1] at hmx; cases hmx) h.reachV
  have he' : e.Attends n (s.opRecord n op) c tk tv cls pFmt tile := { h with
    live := by rw [hkv.cacheFault, hkv.holder]; exact h.live
    isCache := by rw [hkv.cache, hkv.holder]; exact h.isCache
    reachK := by rw [he.reachFault hn]; exact h.reachK
    reachV := by rw [he.reachFault hn]; exact h.reachV }
  obtain ⟨macs, hok⟩ := performAttn_ok he' (by rw [hkv.attnRun]; exact hheads)
  have hstores : e.Stores (e.attnStored n tv outs) := e.stores_wrVals ..
  have hsame : (s.attnStored n tv outs).SameStore (e.attnStored n tv outs) := (he.sameStore.wrVals n tv false _ _ id).1
  have hbyte : ∀ y, tv.misses n y → (e.attnStored n tv outs).byte y = s.byte y := fun y hy => (e.byte_wrVals hfits hy ..).trans (congrFun he.sameStore.byte y)
  generalize e.attnStored n tv outs = v at hok hstores hsame hbyte
  have hcounted := v.slabEnds_attnCounted hn (m := e.holder n) ((hstores.works n).holder hn).symm fl (2 * keys * c.row) macs
  have hend := ((((State.OpensBanks.refl v n).ends hcounted).openBank (fld (s.opRecord n op).op 52 51)).openBank (fld (s.opRecord n op).op 50 49)).ends (State.slabEnds_weakRot _ hn (s.opRecord n op) cls 256)
  have hrun' := hrun _ hok
  generalize State.weakRot _ n (s.opRecord n op) cls 256 = u at hend hrun'
  obtain ⟨a, g, b, m, hcore⟩ := hend.core
  rw [hstores.core] at hcore
  obtain ⟨hslab, hothers⟩ := he.ends (u := u) (by decide) (by rw [hcore]; rfl) fun j hj => (hend.others j hj).trans (hstores.core j)
  refine ⟨_, hrun', ⟨hend.mem.trans hsame.mem, hend.poison.trans hsame.poison, hend.out.trans hsame.out⟩, (hend.out.trans hstores.out).trans he.sameStore.out, fun k hk => ?_, hslab, ?_, hothers,
    fun y hy => ?_⟩
  · rw [State.bankInfo_markRan]
    exact hend.open_ k ((List.Perm.swap _ _ _).mem_iff.1 hk)
  · rw [State.core_markRan, if_pos rfl, CoreSt.vregs_setQ, hcore, he.core]
    exact CoreSt.vregs_setQ ..
  · rw [State.byte_markRan, State.byte_of_mem hy.1 hend.mem hend.ileave, hbyte y hy]

end Sys2Proof.Machine
end

section
/-! What the transfer ops do (O31). -/

namespace Sys2Proof.Machine

/-- Settles O31, an op at a time: each is dispatched and starts at once, and what it reads is what stood as it was dispatched. -/
theorem transferOps : Obligations.TransferOps := by
  unfold Obligations.TransferOps
  intro s n w m ran may openScales moved
  refine ⟨?_, ?_, ?_, ?_, ?_, ?_, ?_⟩
  · intro op td ta hgo ha ht hfmt
    refine ⟨fun htr hshape hmx => ?_, fun htr hshape hmx => ?_, fun htr hshape hbits hmx => ?_, fun htr hshape hbits hmx => ?_⟩
    · obtain ⟨t, hrun, hran, hmoved, hplain, -⟩ := dmov_moves rfl rfl hgo ha ht hfmt false htr hshape nofun
      exact ⟨t, hrun, ⟨hran, hplain hmx⟩, hmoved⟩
    · obtain ⟨t, hrun, hran, hmoved, -, hscaled⟩ := dmov_moves rfl rfl hgo ha ht hfmt false htr hshape nofun
      exact ⟨t, hrun, hmoved, hran, hscaled hmx⟩
    · obtain ⟨t, hrun, hran, hmoved, hplain, -⟩ := dmov_moves rfl rfl hgo ha ht hfmt true htr hshape fun _ => hbits
      exact ⟨t, hrun, ⟨hran, hplain hmx⟩, hmoved⟩
    · obtain ⟨t, hrun, hran, hmoved, -, hscaled⟩ := dmov_moves rfl rfl hgo ha ht hfmt true htr hshape fun _ => hbits
      exact ⟨t, hrun, hran, hmoved, hscaled hmx⟩
  · intro op o td v hgo ht
    obtain ⟨t, u, hrun, hran, hmoved, hu, hs⟩ := dfill_runs hgo (opOf_mkOp ..) (o := o) (td := td) rfl rfl ht.1 ht.2
    refine ⟨t, hrun, hmoved, hran, fun hmx => ?_, fun hmx hspace y hy hside => ?_⟩
    · rw [u.openScales_of_not_mx n hmx] at hs
      exact (hu.trans hs).storesAs
    · rw [hs.byte]
      exact State.opensScales_openScales ht.1 ht.2 hmx hu hspace y hy hside
  · intro op o td ta group dev k part others ms hgo hms hin hhere hfault hnone hagree
    have hcollects : s.Collects n o ms := ⟨hms, hin, hhere, hfault, hagree⟩
    obtain ⟨u, hrun, hcoll, hmem, hout, hdma, hcores⟩ := coll_runs hgo (opOf_mkOp ..) (o := o) rfl hcollects hnone
    refine ⟨fun hwaits => ?_, fun hlast => ?_⟩
    · obtain ⟨x, hx, hne, hno⟩ := hwaits
      rw [if_neg] at hrun
      · exact ⟨u, hrun, hcoll, hmem, hout, hdma, hcores⟩
      · rw [Bool.not_eq_true, List.all_eq_false]
        refine ⟨x.2, List.mem_map_of_mem hx, ?_⟩
        rw [Bool.or_eq_true, not_or, beq_iff_eq, Bool.not_eq_true, List.any_eq_false]
        exact ⟨hne, fun p hp => by rw [beq_iff_eq]; exact hno p hp⟩
    · rw [if_pos] at hrun
      · refine ⟨u, hrun, hcoll, hmem, hout, fun p hp hsame => ?_⟩
        obtain ⟨h1, h2, h3⟩ := hsame
        rw [State.coll_collFinish] at hp
        have := (List.mem_filter.1 hp).2
        simp [h1, h2, h3] at this
      · rw [List.all_eq_true]
        intro c hc
        obtain ⟨x, hx, rfl⟩ := List.mem_map.1 hc
        rw [Bool.or_eq_true, beq_iff_eq, List.any_eq_true]
        by_cases hne : x.2 = n
        · exact .inl hne
        · obtain ⟨p, hp, hpc⟩ := hlast x hx hne
          exact .inr ⟨p, hp, beq_iff_eq.2 hpc⟩
  · intro members rank count fmt red xs _ _ hlen
    refine ⟨collResult_gather hlen .., fun hfmt hred i hi hfit => ?_⟩
    subst hfmt hred
    exact collResult_sum rank members xs hi hfit
  · intro op o c dk dv last span hgo hlive hk hv hshapeK hshapeV hfmtK hfmtV hflat hcap hposn v hpages
    exact kvscatter_runs hgo (opOf_mkOp ..) rfl rfl rfl ⟨hlive, rfl, hk.1, hv.1, hk.2, hv.2, hshapeK, hshapeV, hfmtK, hfmtV, hflat, hcap, hposn⟩ hpages
  · intro op o c td pages hgo hlive ht hrange hshape hfmt hlo hhi hpages hrows
    obtain ⟨t, hrun, hmoved, hran, hstores⟩ := kvfetch_runs hgo (opOf_mkOp ..) rfl rfl ⟨hlive, rfl, ht.1, ht.2, hrange, hshape, hfmt, hlo, hhi, hpages, hrows⟩
    exact ⟨t, hrun, hmoved, hran, hstores⟩
  · intro op o c tk tv g mask t8 scale q heads cls pFmt tile outs fl keys hgo hlive hk hv hspace hmask hmode hwide hbanks hdepth hshape hgroup hflat hrows hrange hfinite hpositive hwindow
      hpair hfmt hlo hhi hreachK hreachV qpos p row hheads
    have hrows' : (if t8 = true then tk.dim 1 else g * tk.dim 2) ≤ 256 := by
      by_cases h8 : t8 = true
      · rw [if_pos h8] at hrows ⊢
        exact (if_pos h8).symm.trans_le hrows
      · rw [if_neg h8] at hrows ⊢
        exact (congrArg (g * ·) (if_neg h8).symm).trans_le hrows
    exact attn_runs hgo (opOf_mkOp ..) (o := o) rfl ⟨hlive, rfl, rfl, rfl, hk, hv, hspace, hmask, hmode, hwide, hbanks, hdepth, hshape, hgroup, hflat, hrows', hrange, hfinite, hpositive,
      hwindow, hpair, hfmt, hlo, hhi, hreachK, hreachV⟩ hheads

end Sys2Proof.Machine
end
